-- ==== Sys2Proof/Word.lean ====
section
/-! DEFINITION. The word types of the device: bytes, 32-bit registers and lanes, 64-bit fields. -/

namespace Sys2Proof

/-- One byte of a frame or of memory. -/
abbrev Byte := BitVec 8

/-- One control space register, one lane of the vector unit, one sum bank entry (R63, R67, R333). -/
abbrev Word := BitVec 32

/-- One 128-bit core instruction (R88). -/
abbrev CoreWord := BitVec 128

end Sys2Proof
end

