-- ==== Sys2Proof/Syntax.lean ====
section
/-! DEFINITION. The commands the block takes: one constructor of `Instr` per row of spec/opcode_table.json.

A command of the host is a device frame (R304). An event of the device or of its surroundings carries the unit it
happens to and the facts of the world outside the device that decide it (a reading, a test's outcome, an arriving
message). -/

namespace Sys2Proof

/-- How a device frame is carried (R303). -/
inductive Encap where
  | ethernet
  | udp4 (port : Nat) (optionsOrFragment : Bool) (checksum : BitVec 16)
  | udp6 (port : Nat) (extensionHeaders : Bool) (checksum : BitVec 16)
  deriving DecidableEq, Repr

/-- How a protected frame came (R458): association number, secure channel, the lower 32 bits of its packet number, and whether its
integrity check value fits the association's key, which the frame's own bytes decide. -/
structure SecTag where
  an : Nat
  sci : Nat
  pn : Nat
  icvOk : Bool := true
  deriving DecidableEq, Repr

/-- Where a frame came from, the address it was sent to, and under what protection (R303, R458). -/
structure Path where
  encap : Encap
  vlan : Nat := 0
  source : Nat := 0
  destination : Nat := 0
  sourcePort : Nat := 0
  secured : Option SecTag := none
  deriving DecidableEq, Repr

/-- A received device frame (R304): header, payload and CRC as they arrived. -/
structure Frame where
  version : BitVec 8 := 1
  kind : BitVec 8 := 0
  opcode : BitVec 16
  session : BitVec 32 := 0
  context : BitVec 8 := 255
  flags : BitVec 8 := 0
  generation : BitVec 16 := 0
  number : BitVec 64 := 0
  length : BitVec 16 := 0
  reserved : BitVec 16 := 0
  tag : BitVec 128 := 0
  payload : List Byte := []
  crc : BitVec 32 := 0
  path : Path := { encap := .ethernet }
  deriving DecidableEq, Repr

/-- What the routers and endpoints read of the packet that a mesh flit belongs to (R295, R298): the router positions, 0 to 255, of
its source and destination, or 256 for the Sluice die and 257 + h for Hopper unit h; its delivery sequence; its class, 0 request, 1
response, 2 control; the flit's place in the packet, and whether it is the last. The manual gives these and no layout for them in
the 512 bits of a mesh flit (DESIGN CHOICE, assumption log 23). -/
structure Packet where
  source : Nat
  destination : Nat
  delivery : Nat
  cls : Nat
  last : Bool
  index : Nat := 0
  deriving DecidableEq, Repr

/-- A link flit as its sender formed it (R282), and the bits that change on its way: `damage` is exclusive-ored into the 576 bits.
-/
structure Flit where
  payload : BitVec 512
  packet : Packet
  sequence : Nat
  ack : Nat
  kind : Nat
  creditClass : Nat
  credits : Nat
  damage : BitVec 576 := 0
  deriving DecidableEq, Repr

/-- What a housekeeping round samples (R365, R366): FP32 words in °C, kPa, V, A and W. A spot's pair of readings is
`none` when the reading is missing. -/
structure Readings where
  spots : List (Option (Word × Word))
  inlet : Word
  outlet : Word
  pressure : Word
  voltage : Word
  current : Word
  moduleDraw : Word
  domainDraw : List Word
  unpausedDraw : Word
  maelynMissed : Bool := false
  /-- Command and address parity errors that accesses to the stacks are to meet from here on: block, and tries that fail (R159). -/
  parityErrors : List (Nat × Nat) := []
  /-- Reads that the stacks are to answer from a wrong address from here on: block, block returned (R165). -/
  strays : List (Nat × Nat) := []
  /-- Codewords that the port's FEC corrected, and ones it could not, since the last round (R484). -/
  fecCorrected : Nat := 0
  fecUncorrected : Nat := 0
  deriving DecidableEq, Repr

/-- What is fitted in the OSFP cage (R482): no medium, copper or optical, coded as PORT.Status codes it, and its widest application,
coded as the port's width. -/
structure Medium where
  kind : Nat
  width : Nat := 0
  deriving DecidableEq, Repr

/-- A transfer on the I²C pair (R478): the 7-bit address, the offset it begins at, whether it writes, and whether P3V3_AUX is
present. -/
structure I2cAccess where
  address : Nat
  offset : Nat
  write : Bool := false
  aux : Bool := true
  deriving DecidableEq, Repr

/-- PWR_EN as it rises: the level of TEST_MODE# (R489), and whether the input is at or above 40 V (R473). -/
structure Asserted where
  testMode : Bool
  inRange : Bool
  deriving DecidableEq, Repr

/-- What S1 finds in module flash, the EEPROM and the port (R418, R453, R459, R479, R482): whether each copy of the field defect
list and of the operator table reads back as the device signed it, whether the fabric record opens under the storage key, whether
the CRCs of the addresses, of the latch record and of the EEPROM hold, and the port. -/
structure S1Facts where
  listA : Bool
  listB : Bool
  tableA : Bool := true
  tableB : Bool := true
  fabricOk : Bool := true
  addressesOk : Bool := true
  latchOk : Bool := true
  /-- The calibration record where it no longer reads as it was written. -/
  calibration : Option (List Byte) := none
  eepromCrcOk : Bool
  portWidth : Nat
  medium : Nat
  negotiated : Bool
  lane0Offered : Bool
  deriving DecidableEq, Repr

/-- What S2 reads from the fuse arrays beside the revisions (R413, R415): the fused-bad cores, lane groups, rows (kind, object,
index) and link lanes (link, bundle, direction, lane); and the dies' fused identifiers and the bytes of the five fuse maps (R423,
R424). -/
structure S2Facts where
  readsAgree : Bool
  badCores : List Nat
  badLanes : List (Nat × Nat)
  badRows : List (Nat × Nat × Nat) := []
  badLinkLanes : List (Nat × Nat × Nat × Nat) := []
  dieIds : List (List Byte) := []
  fuseMaps : List Byte := []
  deriving DecidableEq, Repr

/-- What the logic self-tests of S3 find (R413, R415). -/
structure S3Facts where
  absentDie : Option Nat
  failedCores : List Nat
  failedLanes : List (Nat × Nat)
  deriving DecidableEq, Repr

/-- One die's exchange record beside its number and revision (R292). -/
structure Exchange where
  featureLevel : Nat
  protocolLow : Nat
  protocolHigh : Nat
  featureMask : BitVec 64
  deriving DecidableEq, Repr

/-- A bundle direction whose exchange flits did not carry what their die sent: what arrived at first, and after its retrain
(R292). -/
structure OddContent where
  link : Nat
  bundle : Nat
  toB : Bool
  first : BitVec 512
  again : BitVec 512
  deriving DecidableEq, Repr

/-- What the lane tests and the exchange of S4 find: failing lanes (link, bundle, direction, lane), the records that the five dies
send, and the bundle directions that carried something else (R292, R293). -/
structure S4Facts where
  failedLanes : List (Nat × Nat × Nat × Nat)
  records : List Exchange
  odd : List OddContent := []
  deriving DecidableEq, Repr

/-- The Bedstone rows that fail the march test of S5, as defect records name them: kind 3 or 4, object, index (R418). -/
structure S5Facts where
  badRows : List (Nat × Nat × Nat)
  deriving DecidableEq, Repr

/-- One stack's outcome at S6 (R159, R181, R424): its device identifier, capacity in GiB and Quern flag; lanes that fail the test,
how many were repaired, whether one was not, and the segments whose rows a fault makes unreadable. -/
structure S6Stack where
  trained : Bool
  badLanes : List Nat
  lanesRepaired : Nat
  unrepaired : Bool
  unreadableSegments : List Nat
  identifier : List Byte := []
  capacity : Nat := 128
  quern : Bool := false
  deriving DecidableEq, Repr

structure S6Facts where
  perStack : List S6Stack
  deriving DecidableEq, Repr

/-- One stack's checker test at S7 (R183): the first failing step, 0 none, and the code under test. -/
structure S7Facts where
  steps : List (Nat × Nat)
  deriving DecidableEq, Repr

/-- The bytes of the Last that module flash does not give S8 as the factory wrote them: offset, and what is read instead (R424). -/
structure S8Facts where
  misread : List (Nat × Byte) := []
  deriving DecidableEq, Repr

/-- Journal records that the restart of S9 finds unreadable (R315): stream, CSN, the device address of the damaged block of one
copy, and that of the other copy where it is damaged too. -/
structure S9Facts where
  unreadable : List (Nat × Nat × Nat × Option Nat) := []
  deriving DecidableEq, Repr

/-- What every received PTP message carries (R32): its domain, the transmitter's port identity, the transport it came by
(0 UDP/IPv4, 1 UDP/IPv6, 2 Ethernet), its source address as TIME.SOURCE writes one, its logMessageInterval, and whether the
head of this follower's cascade sent it (R437); and its sequence number, by which a Follow_Up belongs to its Sync. -/
structure PtpHead where
  domain : Nat
  transmitter : Nat
  sequence : Nat
  transport : Nat
  source : List Byte
  logInterval : Int
  fromHead : Bool
  secured : Option SecTag := none
  deriving DecidableEq, Repr

/-- A received PTP Sync message (R32, R36): its origin time less the wheel's time of arrival in nanoseconds, before the path
delay and the asymmetry are added, and its origin time in notches. -/
structure SyncMsg where
  head : PtpHead
  twoStep : Bool
  offset : Int
  sourceTime : Nat
  deriving DecidableEq, Repr

/-- What an Announce message says of its clock (R32; the fields are IEEE 1588's: PRESUMED, assumption log 38): the grandmaster's
priority1, class, accuracy, offsetScaledLogVariance, priority2 and identity, and stepsRemoved. -/
structure ClockData where
  priority1 : Nat
  clockClass : Nat
  accuracy : Nat
  variance : Nat
  priority2 : Nat
  grandmaster : Nat
  steps : Nat
  deriving DecidableEq, Repr

/-- A received PTP Announce message (R32): its clock and the seconds count. -/
structure AnnounceMsg where
  head : PtpHead
  clock : ClockData
  seconds : Nat
  deriving DecidableEq, Repr

/-- A received delay response (R32): whether it is a peer delay message, and the path delay it gives, in nanoseconds. -/
structure DelayMsg where
  head : PtpHead
  peer : Bool
  delay : Int
  deriving DecidableEq, Repr

/-- A destination router's acknowledgement (R298): its die, and the delivery sequence of the packet it has. -/
structure DeliveryMsg where
  die : Fin 5
  delivery : Fin 65536
  deriving DecidableEq, Repr

/-- A received beacon (R433). -/
structure Beacon where
  tagOk : Bool := true
  fabric : Nat
  role : Nat
  claim : Nat
  deviceState : Nat
  address : Nat
  head : Nat
  serial : List Byte
  mac : Nat := 0
  vlan : Nat := 0
  ipv4 : BitVec 32 := 0
  ipv6 : BitVec 128 := 0
  shape : Word := 0
  featureLevel : Nat := 0
  number : Nat := 0
  secured : Option SecTag := none
  deriving DecidableEq, Repr

/-- A probe or a commit of a forwarded RUN.STEP (R439, R440). -/
structure Forward where
  tagOk : Bool := true
  headSerial : List Byte
  headAddress : Nat
  session : Nat
  number : Nat
  context : Nat
  params : List Byte
  secured : Option SecTag := none
  deriving DecidableEq, Repr

/-- A member's answer to a probe or a commit (R439): a refusal's status and data, or a promise. `serial` is the member's own
number. -/
structure Answer where
  tagOk : Bool := true
  member : Nat
  serial : List Byte := []
  session : Nat
  number : Nat
  status : Nat
  detail : Nat := 0
  value : Nat := 0
  csn : Nat := 0
  notchA : Nat := 0
  notchB : Nat := 0
  state : Nat := 0
  allowed : Nat := 0
  data : List Byte := []
  secured : Option SecTag := none
  deriving DecidableEq, Repr

/-- A copy or migration request between modules (R443, R444). -/
structure CopyMsg where
  tagOk : Bool := true
  sourceSerial : List Byte
  context : Nat
  csn : Nat
  migrate : Bool
  destination : Nat
  length : Nat
  offset : Nat := 0
  data : List Byte := []
  secured : Option SecTag := none
  deriving DecidableEq, Repr

/-- What a fabric frame of Kind REPLY says of a copy beside its unit: the tag's verdict, its opcode and the context. Opcodes 0x0E88
to 0x0EFF are reserved (R431): a frame that carries one comes as this row too (assumption log 14). -/
structure AckHead where
  tagOk : Bool := true
  opcode : Nat := 0x0E87
  context : Nat
  secured : Option SecTag := none
  deriving DecidableEq, Repr

/-- A command the block takes. -/
inductive Instr where
  -- commands of the host: each is a device frame (R304, R327)
  | sessionHello (f : Frame) | sessionOpen (f : Frame) | sessionClose (f : Frame)
  | planLoad (f : Frame) | planUnload (f : Frame)
  | runStep (f : Frame) | runBook (f : Frame) | runUnbook (f : Frame)
  | seqArea (f : Frame) | seqOpen (f : Frame) | seqExtend (f : Frame) | seqTrim (f : Frame) | seqClose (f : Frame)
  | ctxOpen (f : Frame) | ctxClose (f : Frame) | ctxReset (f : Frame) | ctxSave (f : Frame) | ctxRestore (f : Frame)
  | memRead (f : Frame) | memWrite (f : Frame) | memSplit (f : Frame)
  | pageMap (f : Frame) | pageUnmap (f : Frame) | pageRetire (f : Frame)
  | segRecode (f : Frame) | segRetire (f : Frame)
  | quernMode (f : Frame)
  | regRead (f : Frame) | regWrite (f : Frame) | logRead (f : Frame)
  | statusDevice (f : Frame) | statusContext (f : Frame)
  | timeSet (f : Frame) | timeSource (f : Frame)
  | fabricAddress (f : Frame) | fabricJoin (f : Frame) | fabricLeave (f : Frame) | fabricStatus (f : Frame)
  | fabricCopy (f : Frame) | fabricMigrate (f : Frame)
  | cascadeForm (f : Frame) | cascadeFollow (f : Frame) | cascadeLeave (f : Frame) | cascadeRun (f : Frame)
  | fwStatus (f : Frame) | fwWrite (f : Frame) | fwActivate (f : Frame) | fwAuthorise (f : Frame)
  | fwEnroll (f : Frame) | fwRemove (f : Frame) | fwMacsec (f : Frame)
  | attestIdentity (f : Frame) | attestReport (f : Frame)
  | injectLink (f : Frame) | injectPort (f : Frame) | injectEcc (f : Frame) | injectClear (f : Frame)
  | injectStatus (f : Frame)
  | powerDomain (f : Frame) | powerPolicy (f : Frame) | powerDoze (f : Frame) | powerWake (f : Frame)
  | hostAck (f : Frame)
  -- the protocol's own events
  | heldFrameExpiry (session number : Nat)
  | completionResendTimer (context : Nat)
  | sessionIdleTimeout (session : Nat)
  | journalWriteAck (ok : Bool)
  | completionSend (context : Nat)
  | commandCompletion (context csn : Nat)
  -- the schedule
  | actionStart (context csn index : Nat)
  | actionWindowEnd (context csn index : Nat)
  | actionEnd (context csn index : Nat)
  | fillerStart
  | bookingExpiry (booking : Nat)
  | commandStop (context csn : Nat)
  | commandTimeout (context csn : Nat)
  | promiseSuspend (context csn : Nat)
  -- core programs: the instruction at the pc of logical core `core` (R87 to R91, R234)
  | programBlockLoad (core : Fin 240)
  | nop (core : Fin 240) | jump (core : Fin 240) | loop (core : Fin 240)
  | waitn (core : Fin 240) | waitnRelease (core : Fin 240)
  | fence (core : Fin 240) | fenceRelease (core : Fin 240) | halt (core : Fin 240)
  | mode (core : Fin 240) | loadstat (core : Fin 240) | pass (core : Fin 240) | ospass (core : Fin 240)
  | drain (core : Fin 240) | elem (core : Fin 240)
  | vld (core : Fin 240) | vst (core : Fin 240) | vfma (core : Fin 240) | vadd (core : Fin 240)
  | vmul (core : Fin 240) | vmax (core : Fin 240) | vmin (core : Fin 240) | vsfu (core : Fin 240)
  | vcvt (core : Fin 240) | vred (core : Fin 240)
  | sput (core : Fin 240) | swait (core : Fin 240) | swaitRelease (core : Fin 240) | ssig (core : Fin 240)
  | sidle (core : Fin 240) | sidleRelease (core : Fin 240)
  -- stream channels
  | translationGroup (core : Fin 240) (channel : Fin 16)
  | pieceComplete (core : Fin 240) (channel : Fin 16) (piece : Nat)
  | descriptorComplete (core : Fin 240) (channel : Fin 16)
  | barrierWaitRelease (core : Fin 240) (channel : Fin 16)
  -- in-bank compute
  | quernDescriptorDequeue (stack : Fin 8) (pc : Fin 64)
  | quernChunkEnd (stack : Fin 8) (pc : Fin 64)
  | quernDescriptorEnd (stack : Fin 8) (pc : Fin 64)
  | quernSealed (stack : Fin 8) (pc : Fin 64)
  -- the sampler
  | hopperRowSample (unit : Fin 4)
  | resultFrameHandoff (context csn : Nat)
  -- memory in the background
  | segmentSweep (stack : Fin 8)
  | memSplitDone (die : Fin 4)
  | slicePatrolScrub (core : Fin 256) (line : Nat)
  | stackPatrolScrub (stack : Fin 8) (row : Nat)
  | bedstoneRefresh (die : Fin 4) (layer : Fin 4) (bank : Fin 16)
  | stackRefresh (stack : Fin 8) (bank : Fin 64)
  -- power, heat and the input
  | housekeepingRound (r : Readings)
  | roundDecisionsEffect
  | pauseEnd
  | comparatorLatch (spot : Fin 93)
  | inputVoltageLow | inputVoltageRestored | inputVoltageHigh
  | inputOverlimitLatch (overVoltage : Bool)
  | powerLoss | breakerOpen
  | pwrEnAssert (p : Asserted)
  | prechargeDone | pwrEnDeassert
  | resetInRelease (lowNotches : Nat)
  -- starts
  | quiesce (unreachable : List Nat)
  | stageS0PowerGood
  | stageS1SluiceBoot (r : S1Facts)
  | stageS2FuseRead (r : S2Facts)
  | stageS3RunnerDiesUp (r : S3Facts)
  | stageS4WeltTraining (r : S4Facts)
  | stageS5BedstoneTest (r : S5Facts)
  | stageS6MemoryTraining (r : S6Facts)
  | stageS7CheckerTest (r : S7Facts)
  | stageS8LastCheck (r : S8Facts)
  | stageS9Ready (r : S9Facts)
  -- watchdogs and recovery
  | coreStopWatchdog (core : Fin 256)
  | coreGroupResetCheck (group : Fin 64)
  | meshProgressWatchdog (die : Fin 4) (stuck : List (Nat × Nat))
  | dieResetDone (die : Fin 4)
  | dieResetCheck (die : Fin 4)
  | maelynWatchdog | journalKeeperWatchdog | faultHoldExpiry
  | contextResetDrained (context : Nat)
  | tagsDrained (context : Nat) (dropped : List Nat)
  -- links
  | linkFlitReceived (link : Fin 6) (bundle : Fin 16) (toB : Bool) (flit : Flit)
  | retrainDone (link : Fin 6) (bundle : Fin 16) (toB : Bool) (failing : List Nat)
  | deliveryAck (link : Fin 6) (fromB : Bool) (m : DeliveryMsg)
  -- domains and the port
  | domainWakeDone (domain : Fin 80)
  | wakeComplete
  | portLinkChange (up : Bool) (medium : Medium) (negotiated lane0Offered : Bool)
  -- time
  | ptpSync (m : SyncMsg)
  | ptpFollowUp (head : PtpHead) (offset : Int) (sourceTime : Nat)
  | ptpAnnounce (m : AnnounceMsg)
  | ptpDelayResp (m : DelayMsg)
  | ppsEdge (fromPredicted offset : Int)
  | ppsEdgeTimeout
  | refclkRangeChange (inRange : Bool)
  | sourceLost | wheelLocked | wheelLearned | holdLimitExceeded | sourcePriorityReturn
  | ppsOutRise | ppsOutFall
  | cascadeSyncSend
  -- fabric
  | arpRequest (sender : BitVec 32 × Option SecTag) (target : BitVec 32)
  | neighborSolicitation (sender : BitVec 128 × Option SecTag) (target : BitVec 128)
  | beaconSend
  | beaconReceived (b : Beacon)
  | routeEntryExpiry (address : Nat)
  | probe (m : Forward) | probeAnswer (a : Answer)
  | commit (m : Forward) (release : Bool) | commitAnswer (a : Answer) | commitResend (session number : Nat)
  | tentativeBookingLapse (number : Nat)
  | copyDestinationCheck (m : CopyMsg) | copyPagePiece (m : CopyMsg)
  | copyAck (head : AckHead) (csn page : Nat) (check ok : Bool)
  -- firmware and faults
  | firmwareCheckDone (reason : Nat)
  | testFirmwareLoad (fields key signature body : List Byte)
  | injectReorderRelease (number : Nat)
  -- the platform's pins
  | i2cEepromRead (at_ : I2cAccess) (length : Nat)
  | coolantMonitorRead (at_ : I2cAccess) (length : Nat)
  -- registers that behave
  | positionLoRead (f : Frame) | troubleBitClear (f : Frame) | counterClear (f : Frame)
  | wheelSourceWrite (f : Frame) | holdLimitWrite (f : Frame) | udpPortWrite (f : Frame)
  | recoveryCfgWrite (f : Frame) | lastLatchClear (f : Frame)
  -- the ends of things begun
  | quernComputeEntered (stack : Fin 8) (pc : Fin 64)
  | memTransferDone (session number : Nat)
  | coreGroupResetDone (group : Fin 64)
  | ssigRelease (core : Fin 240)
  | prechargeStart
  | copyPageResend (context csn : Nat)
  | idleNotch
  deriving DecidableEq, Repr

end Sys2Proof
end

