-- ==== Sys2Proof/Decode.lean ====
section
/-! DEFINITION. The command a word spells by the bits of spec/opcode_table.json: no row of the table gives bits, so no
word spells one. -/

namespace Sys2Proof

/-- `none` for every word: the table gives no row an encoding (assumption log 2). -/
def decodeTableWord (_nbits _w : Nat) : Option Instr := none

end Sys2Proof
end

