-- ==== Sys2Proof/Machine/Bytes.lean ====
section
/-! DEFINITION. Little-endian fields (R9), bit fields, ranges and the CRC-32C of frames, containers and images. -/

namespace Sys2Proof.Machine

/-- The number a little-endian byte string holds (R9). -/
def leNat : List Byte → Nat
  | [] => 0
  | b :: r => b.toNat + 256 * leNat r

/-- `n` bytes of a number, least significant first (R9). -/
def leBytes : Nat → Nat → List Byte
  | 0, _ => []
  | n + 1, v => BitVec.ofNat 8 v :: leBytes n (v / 256)

def zeros (n : Nat) : List Byte := List.replicate n 0

/-- The `n` bytes at offset `off`. -/
def slice (l : List Byte) (off n : Nat) : List Byte := (l.drop off).take n

/-- The little-endian field of `n` bytes at offset `off`. -/
def le (l : List Byte) (off n : Nat) : Nat := leNat (slice l off n)

/-- The byte at offset `off`, zero beyond the end. -/
def byteAt (l : List Byte) (off : Nat) : Byte := l.getD off 0

/-- Whether the `n` bytes at offset `off` are all zero. -/
def allZero (l : List Byte) (off n : Nat) : Bool := (slice l off n).all (· == 0)

/-- A byte string made exactly `n` bytes long: cut, or filled with zeros. -/
def padTo (n : Nat) (l : List Byte) : List Byte := (l ++ zeros (n - l.length)).take n

/-- The string of an ASCII text in `n` bytes, zero-padded (R11). -/
def ascii (n : Nat) (s : String) : List Byte :=
  padTo n (s.toList.map fun c => BitVec.ofNat 8 c.toNat)

/-- Consecutive runs of `n` bytes, `k` of them. -/
def chunks (n : Nat) : Nat → List Byte → List (List Byte)
  | 0, _ => []
  | k + 1, l => l.take n :: chunks n k (l.drop n)

/-- Bits `[hi:lo]` of a number (the manual writes bit ranges high to low). -/
def bits (v hi lo : Nat) : Nat := (v / 2 ^ lo) % 2 ^ (hi + 1 - lo)

def bit (v i : Nat) : Bool := v.testBit i

def bnat (b : Bool) : Nat := if b then 1 else 0

/-- A two's complement field of `n` bits as a signed number. -/
def signed (n v : Nat) : Int := if v % 2 ^ n < 2 ^ (n - 1) then (v % 2 ^ n : Nat) else (v % 2 ^ n : Nat) - (2 ^ n : Nat)

/-- The two's complement field of `n` bits of a signed number. -/
def unsigned (n : Nat) (v : Int) : Nat := (v % (2 ^ n : Nat)).toNat

def ceilDiv (a b : Nat) : Nat := (a + b - 1) / b

def roundUp (a b : Nat) : Nat := ceilDiv a b * b

/-- The numbers of the set bits of `v` below `n`. -/
def bitsSet (v n : Nat) : List Nat := (List.range n).filter (bit v)

def maskOf (l : List Nat) : Nat := l.foldl (fun m i => m ||| 2 ^ i) 0

def sumNat (l : List Nat) : Nat := l.foldl (· + ·) 0

def maxNat (l : List Nat) : Nat := l.foldl max 0

/-- Whether the ranges of `n` from `a` and `m` from `b` share a number. -/
def overlaps (a n b m : Nat) : Bool := a < b + m && b < a + n && 0 < n && 0 < m

/-- Whether the `n` numbers from `a` lie in the `m` numbers from `b`. -/
def within (a n b m : Nat) : Bool := b ≤ a && a + n ≤ b + m

/-- One bit of the CRC-32C register: the reflected Castagnoli polynomial (PRESUMED, assumption log 5). -/
def crcBit (c : BitVec 32) : BitVec 32 :=
  if c.getLsbD 0 then (c >>> 1) ^^^ 0x82F63B78#32 else c >>> 1

def crcByte (c : BitVec 32) (b : Byte) : BitVec 32 :=
  crcBit (crcBit (crcBit (crcBit (crcBit (crcBit (crcBit (crcBit (c ^^^ b.setWidth 32))))))))

/-- The CRC-32C of a byte string (R305, R44, R95, R292). -/
def crc32c (l : List Byte) : BitVec 32 := ~~~ (l.foldl crcByte 0xFFFFFFFF#32)

def saturate16 (n : Nat) : Nat := min n 65535

def saturate32 (n : Nat) : Nat := min n 0xFFFFFFFF

end Sys2Proof.Machine
end

