-- ==== Sys2Proof/Machine/Float.lean ====
section
/-! DEFINITION. Number formats, rounding and Chaff (R99 to R120): every encoding is read as an exact value, every
operation is exact, and one rounding encodes its result. -/

namespace Sys2Proof.Machine

/-- A value of a format: NaN, an infinity, or exactly ±m × 2^e. -/
inductive Val where
  | nan
  | inf (neg : Bool)
  | fin (neg : Bool) (m : Nat) (e : Int)
  deriving DecidableEq, Repr

/-- What a format has beyond finite values (R99). -/
inductive Specials where
  | ieee | e4m3 | finite
  deriving DecidableEq, Repr

/-- A floating-point format of R99. -/
structure Fmt where
  expBits : Nat
  manBits : Nat
  bias : Nat
  specials : Specials := .ieee
  deriving DecidableEq, Repr

def fp32 : Fmt := { expBits := 8, manBits := 23, bias := 127 }
def bf16 : Fmt := { expBits := 8, manBits := 7, bias := 127 }
def fp16 : Fmt := { expBits := 5, manBits := 10, bias := 15 }
def e4m3 : Fmt := { expBits := 4, manBits := 3, bias := 7, specials := .e4m3 }
def e5m2 : Fmt := { expBits := 5, manBits := 2, bias := 15 }
def e3m2 : Fmt := { expBits := 3, manBits := 2, bias := 3, specials := .finite }
def e2m3 : Fmt := { expBits := 2, manBits := 3, bias := 1, specials := .finite }
def e2m1 : Fmt := { expBits := 2, manBits := 1, bias := 1, specials := .finite }

/-- Rounding modes (R100, R115); stochastic rounding carries its 16 random bits (R117). -/
inductive Round where
  | nearest
  | towardZero
  | stochastic (r : Nat)
  deriving DecidableEq, Repr

def Fmt.width (f : Fmt) : Nat := 1 + f.expBits + f.manBits

/-- The value of a code (R99). A signalling NaN is a NaN (R100). -/
def Fmt.decode (f : Fmt) (c : Nat) : Val :=
  let neg := bit c (f.expBits + f.manBits)
  let ex := bits c (f.expBits + f.manBits - 1) f.manBits
  let man := c % 2 ^ f.manBits
  let allOnes := ex = 2 ^ f.expBits - 1
  if f.specials = .ieee ∧ allOnes then (if man = 0 then .inf neg else .nan)
  else if f.specials = .e4m3 ∧ allOnes ∧ man = 2 ^ f.manBits - 1 then .nan
  else if ex = 0 then .fin neg man (1 - (f.bias : Int) - f.manBits)
  else .fin neg (2 ^ f.manBits + man) ((ex : Int) - f.bias - f.manBits)

/-- The canonical NaN of a format (R100). -/
def Fmt.canonicalNaN (f : Fmt) : Nat :=
  match f.specials with
  | .ieee => (2 ^ f.expBits - 1) * 2 ^ f.manBits + 2 ^ (f.manBits - 1)
  | .e4m3 => 0x7F
  | .finite => 0

/-- The code of the largest finite magnitude (R99). -/
def Fmt.maxFinite (f : Fmt) : Nat :=
  match f.specials with
  | .ieee => (2 ^ f.expBits - 1) * 2 ^ f.manBits - 1
  | .e4m3 => 0x7E
  | .finite => 2 ^ (f.expBits + f.manBits) - 1

/-- `m × 2^k` as a whole number, rounded: the integer below, plus one as the mode says (R100, R117). -/
def roundScaled (mode : Round) (m : Nat) (k : Int) : Nat :=
  if 0 ≤ k then m * 2 ^ k.toNat
  else
    let d := 2 ^ (-k).toNat
    let q := m / d
    let rem := m % d
    match mode with
    | .towardZero => q
    | .nearest => if rem * 2 > d ∨ (rem * 2 = d ∧ q % 2 = 1) then q + 1 else q
    | .stochastic r => if rem * 65536 / d + r ≥ 65536 then q + 1 else q

/-- The code of a value under a rounding mode: subnormals are produced, overflow goes as R116 gives. A magnitude above the largest
finite value that R117's sum does not round up keeps that value (DESIGN CHOICE, assumption log 49). -/
def Fmt.encode (f : Fmt) (mode : Round) (v : Val) : Nat :=
  let sign (neg : Bool) := bnat neg * 2 ^ (f.expBits + f.manBits)
  match v with
  | .nan => f.canonicalNaN
  | .inf neg =>
    match f.specials with
    | .ieee => sign neg + (2 ^ f.expBits - 1) * 2 ^ f.manBits
    | .e4m3 => 0x7F
    | .finite => sign neg + f.maxFinite
  | .fin neg m e =>
    if m = 0 then sign neg
    else
      let qmin : Int := 1 - (f.bias : Int) - f.manBits
      let q := max ((m.log2 : Int) + e - f.manBits) qmin
      let code := (q - qmin).toNat * 2 ^ f.manBits + roundScaled mode m (e - q)
      if code ≤ f.maxFinite then sign neg + code
      else if f.specials = .ieee ∧ mode ≠ .towardZero then sign neg + (2 ^ f.expBits - 1) * 2 ^ f.manBits
      else sign neg + f.maxFinite

def toFp32 (v : Val) : Word := BitVec.ofNat 32 (fp32.encode .nearest v)

def ofFp32 (w : Word) : Val := fp32.decode w.toNat

/-! ## Exact arithmetic -/

def sgn (neg : Bool) (m : Nat) : Int := if neg then -(m : Int) else m

def Val.neg : Val → Val
  | .nan => .nan
  | .inf s => .inf (!s)
  | .fin s m e => .fin (!s) m e

/-- The exact sum; the sum of opposite infinities is a NaN, and a sum of +0 and −0 is +0 (R100). -/
def Val.add : Val → Val → Val
  | .nan, _ => .nan
  | _, .nan => .nan
  | .inf a, .inf b => if a = b then .inf a else .nan
  | .inf a, .fin _ _ _ => .inf a
  | .fin _ _ _, .inf b => .inf b
  | .fin s m e, .fin t n g =>
    let x := min e g
    let v := sgn s m * (2 ^ (e - x).toNat : Nat) + sgn t n * (2 ^ (g - x).toNat : Nat)
    if v = 0 then .fin (s && t) 0 x else .fin (decide (v < 0)) v.natAbs x

/-- The exact product; 0 × ∞ is a NaN. -/
def Val.mul : Val → Val → Val
  | .nan, _ => .nan
  | _, .nan => .nan
  | .inf a, .inf b => .inf (a != b)
  | .inf a, .fin t n _ => if n = 0 then .nan else .inf (a != t)
  | .fin s m _, .inf b => if m = 0 then .nan else .inf (s != b)
  | .fin s m e, .fin t n g => .fin (s != t) (m * n) (e + g)

/-- A value times 2^k. -/
def Val.scale (k : Int) : Val → Val
  | .fin s m e => .fin s m (e + k)
  | v => v

/-- Orders finite values and infinities; −0 orders below +0 (R111). -/
def Val.lt : Val → Val → Bool
  | .inf true, .inf true => false
  | .inf true, .fin _ _ _ => true
  | .inf true, .inf false => true
  | .fin _ _ _, .inf false => true
  | .fin s m e, .fin t n g =>
    let x := min e g
    let a := sgn s m * (2 ^ (e - x).toNat : Nat)
    let b := sgn t n * (2 ^ (g - x).toNat : Nat)
    decide (a < b) || (a == b && m == 0 && s && !t)
  | _, _ => false

def Val.le (a b : Val) : Bool := !(Val.lt b a)

def Val.isNaN : Val → Bool
  | .nan => true
  | _ => false

def Val.isZero : Val → Bool
  | .fin _ m _ => m == 0
  | _ => false

def zeroVal : Val := .fin false 0 0
def natVal (n : Nat) : Val := .fin false n 0
def intVal (i : Int) : Val := .fin (decide (i < 0)) i.natAbs 0

/-- maximumNumber and minimumNumber (R111). -/
def Val.max (a b : Val) : Val :=
  if a.isNaN then b else if b.isNaN then a else if a.lt b then b else a
def Val.min (a b : Val) : Val :=
  if a.isNaN then b else if b.isNaN then a else if b.lt a then b else a

/-! ## FP32 operations, each rounded once (R100, R111) -/

def fadd (a b : Word) : Word := toFp32 ((ofFp32 a).add (ofFp32 b))
def fsub (a b : Word) : Word := toFp32 ((ofFp32 a).add (ofFp32 b).neg)
def fmul (a b : Word) : Word := toFp32 ((ofFp32 a).mul (ofFp32 b))
def ffma (a b c : Word) : Word := toFp32 (((ofFp32 a).mul (ofFp32 b)).add (ofFp32 c))
def fmaxNum (a b : Word) : Word := toFp32 ((ofFp32 a).max (ofFp32 b))
def fminNum (a b : Word) : Word := toFp32 ((ofFp32 a).min (ofFp32 b))
def fneg (a : Word) : Word := toFp32 (ofFp32 a).neg
def flt (a b : Word) : Bool := (ofFp32 a).lt (ofFp32 b)
/-- The order of the manual's code: −0 and +0 are equal. -/
def fless (a b : Word) : Bool := (ofFp32 a).lt (ofFp32 b) && !((ofFp32 a).isZero && (ofFp32 b).isZero)
def fle (a b : Word) : Bool := !(ofFp32 a).isNaN && !(ofFp32 b).isNaN && (ofFp32 a).le (ofFp32 b)
def isNaN32 (a : Word) : Bool := (ofFp32 a).isNaN
def isFinite32 (a : Word) : Bool := bits a.toNat 30 23 != 255
def fnat (n : Nat) : Word := toFp32 (natVal n)
def fint (i : Int) : Word := toFp32 (intVal i)

/-- A quotient m/n × 2^e with enough bits that one rounding to FP32 sees it exactly (a sticky bit is kept). -/
def quotient (m n : Nat) : Nat × Int :=
  let k := 64 + n.log2
  let q := m * 2 ^ k / n
  (2 * q + bnat (m * 2 ^ k % n != 0), -(k : Int) - 1)

/-- The quotient of two FP32 values, rounded once (RNE). -/
def fdiv (a b : Word) : Word :=
  match ofFp32 a, ofFp32 b with
  | .nan, _ => toFp32 .nan
  | _, .nan => toFp32 .nan
  | .inf _, .inf _ => toFp32 .nan
  | .inf s, .fin t _ _ => toFp32 (.inf (s != t))
  | .fin s _ _, .inf t => toFp32 (.fin (s != t) 0 0)
  | .fin s m e, .fin t n g =>
    if n = 0 then (if m = 0 then toFp32 .nan else toFp32 (.inf (s != t)))
    else
      let (q, k) := quotient m n
      toFp32 (.fin (s != t) q (e - g + k))

/-- The decimal constant n / d as an FP32 word (RNE). -/
def fdec (n d : Nat) : Word :=
  let (q, k) := quotient n d
  toFp32 (.fin false q k)

/-- A value as the integer below it (toward minus infinity); NaN and infinities give 0. -/
def Val.floor : Val → Int
  | .fin s m e =>
    if 0 ≤ e then sgn s m * (2 ^ e.toNat : Nat) else sgn s m / (2 ^ (-e).toNat : Nat)
  | _ => 0

/-! ## Integers (R108, R113, R116) -/

/-- Saturates to the INT32 range (R108). -/
def satInt (v : Int) : Int := max (-2147483648) (min 2147483647 v)

def int32 (v : Int) : Word := BitVec.ofInt 32 (satInt v)

/-- FP32 to INT32, RNE, saturated; a NaN gives 0 (R113, R116). -/
def toInt32 (v : Val) : Word :=
  match v with
  | .nan => 0
  | .inf neg => int32 (if neg then -2147483648 else 2147483647)
  | .fin s m e => int32 (sgn s (roundScaled .nearest m e))

/-! ## Chaff (R118) -/

def rotl32 (x : Word) (n : Nat) : Word := (x <<< n) ||| (x >>> (32 - n))

def chaffRound (t : Word × Word × Word) : Word × Word × Word :=
  let a := t.1 + t.2.1
  let c := rotl32 (t.2.2 ^^^ a) 16
  let b := t.2.1 + c
  let a := rotl32 (a ^^^ b) 12
  (a, b, c)

/-- chaff32 of R118. -/
def chaff32 (d p s : Word) : Word :=
  let t := chaffRound (chaffRound (chaffRound (chaffRound
    (d ^^^ 0x243F6A88#32, p ^^^ 0x85A308D3#32, s ^^^ 0x13198A2E#32))))
  t.1 ^^^ t.2.1 ^^^ t.2.2

/-! ## Array operands (R99 to R114) -/

/-- An element of the array: exact value from its code, in one of the element formats. -/
inductive Elem where
  | float (f : Fmt)
  | int (width : Nat)
  deriving DecidableEq, Repr

def Elem.width : Elem → Nat
  | .float f => f.width
  | .int w => w

def Elem.value : Elem → Nat → Val
  | .float f, c => f.decode c
  | .int w, c => intVal (signed w c)

/-- The quantiser of R110: the scale code and the 32 E4M3 codes of a line of BF16 codes. -/
def quantiseBlock (x : List Nat) : Nat × List Nat :=
  let mag := x.map (· % 0x8000)
  if mag.any (0x7F80 ≤ ·) then (0xFF, x.map fun _ => 0x7F)
  else
    let nz := mag.filter (0 < ·)
    if nz.isEmpty then (0, x.map fun c => (c / 256) % 256 &&& 0x80)
    else
      let f (m : Nat) : Int := if m / 128 ≠ 0 then (m / 128 : Nat) - 127 else (m.log2 : Int) - 133
      let emax := nz.foldl (fun a m => max a (f m)) (-1000)
      let se := max (emax - 8) (-127)
      ((se + 127).toNat, x.map fun c => e4m3.encode .nearest ((bf16.decode c).scale (-se)))

end Sys2Proof.Machine
end

