-- ==== Sys2Proof/Config.lean ====
section
/-! DEFINITION. What one module's factory or implementation fixes, and the free values: opaque constants that no
proof can look into (assumption log 3). -/

namespace Sys2Proof.Config

/-- A free byte for the `n`-th open choice the device makes (R91, R454). -/
opaque freeWord (n : Nat) : Word

/-- The special-function unit's result before the bounds of R84 are applied (R84 states errors, not values):
0 exp2, 1 log2, 2 rcp, 3 rsqrt, 4 tanh. -/
opaque sfu (f : Nat) (x : Word) : Word

/-- The bits a floating-point conversion to an integer leaves to the implementation are none; this is the value of an
FP32 lane of a NaN comparison that R111 leaves open: the maximum of two NaNs is canonical, so it is never used there.
It stands for the readings of a sensor the round could not take. -/
opaque missingReading (spot : Nat) : Word

/-- The servo's filter of the measured offset, in nanoseconds: previous filtered value, new measurement (R36 to R38
name a filtered offset and give no filter). -/
opaque servoFilter (old new : Int) : Int

/-- The servo's rate correction in units of 0.001 ppm for a filtered offset, before the ±100 ppm limit of R28. -/
opaque servoRate (offset : Int) : Int

/-- The filtered path delay from one delay response (R32). -/
opaque pathDelay (old new : Int) : Int

/-- The module serial number, 16 ASCII bytes, zero-padded (R11, R478). -/
opaque serial (i : Nat) : Byte

/-- The port's MAC address, 6 bytes (R430, R478). -/
opaque mac (i : Nat) : Byte

/-- The manufacture date of the identity EEPROM, 4 bytes (R478). -/
opaque manufactureDate (i : Nat) : Byte

/-- The die revisions, RD0 to RD3 and then the Sluice die: fused, and written into the identity EEPROM at the factory (R11, R478,
R495). -/
opaque dieRevision (i : Nat) : Byte

/-- The factory thermal resistance θ_0 in K/W, FP32 (R368, R369). -/
opaque theta0 : Word

/-- The factory pressure drop ΔP_0 in kPa at 2.0 L/min, FP32 (R370). -/
opaque pressure0 : Word

/-- The thermal model's coefficients of spot `i`, FP32 (R367, R368). -/
opaque spotA (i : Nat) : Word
opaque spotB (i : Nat) : Word
opaque spotAlpha (i : Nat) : Word

/-- The fused identifier of a die, 8 bytes: RD0 to RD3 and then the Sluice die; the feature level (2 bytes) and protocol window (2)
that the Last gives it; and the device identifier of a stack, 12 bytes (R423). -/
opaque dieIdentifier (die i : Nat) : Byte
opaque lastLevels (die i : Nat) : Byte
opaque stackIdentifier (stack i : Nat) : Byte

/-- The digest of the five fuse maps that the Last holds, 48 bytes (R423). -/
opaque fuseDigest (i : Nat) : Byte

/-- The private number of the device identity key, before its reduction, and the nonce of a signature over a byte string (R445). -/
opaque dikPrivate : Nat
opaque dikNonce (data : List Byte) : Nat

/-- The storage key, 32 bytes: derived from the device identity key, in a way that R445 does not give. -/
opaque storageKey (i : Nat) : Byte

/-- The private numbers of Vaermex's two keys, before their reduction, and the nonce of a signature by one of them over a byte string
(R445). -/
opaque firmwarePrivate : Nat
opaque factoryPrivate : Nat
opaque factoryNonce (data : List Byte) : Nat

/-- The fresh challenge of the `n`-th HELLO, 32 bytes, and the private number of its ephemeral key, before its reduction (R454). -/
opaque challenge (n i : Nat) : Byte
opaque ephemeralPrivate (n : Nat) : Nat

/-- The x-coordinate of an ECDH result for bytes that are no public key of the curve (R456 gives none). -/
opaque noSharedPoint (key : List Byte) (i : Nat) : Byte

/-- The images of slot A and slot B at the first power-up (R447): release number, security version, and the body's length, before
its reduction, and bytes. -/
opaque factoryImageVersion (slot : Nat) : Nat
opaque factorySecurityVersion (slot : Nat) : Fin 64
opaque factoryBodyLength (slot : Nat) : Nat
opaque factoryBody (slot i : Nat) : Byte

/-- Bytes the flash programs in a notch, less one (R452 names the program buffer and gives no rate). -/
opaque programRate : Nat

/-- The place of a command's record in a copy of the journal: copy B or copy A, stream and CSN. R312 gives the copies' segments and
no place in them. -/
opaque recordPlace (copyB : Bool) (stream csn : Nat) : Nat

/-- How far the sweep of a segment is, in 256ths, so many notches after it began: it uses the bus time that no admitted work has
booked, which R179 does not settle (R184). -/
opaque sweepProgress (segment elapsed : Nat) : Fin 256

/-- The feature level that an optional feature belongs to (R293 compares it with the package's; the manual lists no features). -/
opaque featureLevel (feature : Nat) : Nat

/-- Checks that a stage of a start makes where the manual does not count units (R429), and the lanes of a stack's interface
that S6 tests. -/
opaque stageChecks (stage : Nat) : Nat
opaque stackLanes : Nat

/-- Counts since manufacture at the modelled cold start (R495). -/
opaque coldStartsBefore : Nat
opaque warmStartsBefore : Nat

/-- The lower bytes of a command whose order of completion the bus decides: which of two queued accesses an
un-fenced read sees (R91). -/
opaque raceBit (n : Nat) : Bool

end Sys2Proof.Config
end

