-- ==== Sys2Proof/Machine/Sha.lean ====
section
/-! DEFINITION. SHA-384 (R445), HMAC-SHA-384 and HKDF-SHA-384 (R456). R445 and R456 name the functions; their steps and constants
are those of FIPS 180-4, RFC 2104 and RFC 5869 (PRESUMED, assumption log 10). Words are numbers below 2^64, most significant byte
first. -/

namespace Sys2Proof.Machine

/-- The number that a byte string holds, most significant byte first. -/
def beNat (l : List Byte) : Nat := leNat l.reverse

/-- `n` bytes of a number, most significant first. -/
def beBytes (n v : Nat) : List Byte := (leBytes n v).reverse

/-! ## SHA-384 -/

/-- The round constants, four to a number. -/
def shaRounds : List Nat :=
  [0x428A2F98D728AE227137449123EF65CDB5C0FBCFEC4D3B2FE9B5DBA58189DBBC,
   0x3956C25BF348B53859F111F1B605D019923F82A4AF194F9BAB1C5ED5DA6D8118,
   0xD807AA98A303024212835B0145706FBE243185BE4EE4B28C550C7DC3D5FFB4E2,
   0x72BE5D74F27B896F80DEB1FE3B1696B19BDC06A725C71235C19BF174CF692694,
   0xE49B69C19EF14AD2EFBE4786384F25E30FC19DC68B8CD5B5240CA1CC77AC9C65,
   0x2DE92C6F592B02754A7484AA6EA6E4835CB0A9DCBD41FBD476F988DA831153B5,
   0x983E5152EE66DFABA831C66D2DB43210B00327C898FB213FBF597FC7BEEF0EE4,
   0xC6E00BF33DA88FC2D5A79147930AA72506CA6351E003826F142929670A0E6E70,
   0x27B70A8546D22FFC2E1B21385C26C9264D2C6DFC5AC42AED53380D139D95B3DF,
   0x650A73548BAF63DE766A0ABB3C77B2A881C2C92E47EDAEE692722C851482353B,
   0xA2BFE8A14CF10364A81A664BBC423001C24B8B70D0F89791C76C51A30654BE30,
   0xD192E819D6EF5218D69906245565A910F40E35855771202A106AA07032BBD1B8,
   0x19A4C116B8D2D0C81E376C085141AB532748774CDF8EEB9934B0BCB5E19B48A8,
   0x391C0CB3C5C95A634ED8AA4AE3418ACB5B9CCA4F7763E373682E6FF3D6B2B8A3,
   0x748F82EE5DEFB2FC78A5636F43172F6084C87814A1F0AB728CC702081A6439EC,
   0x90BEFFFA23631E28A4506CEBDE82BDE9BEF9A3F7B2C67915C67178F2E372532B,
   0xCA273ECEEA26619CD186B8C721C0C207EADA7DD6CDE0EB1EF57D4F7FEE6ED178,
   0x06F067AA72176FBA0A637DC5A2C898A6113F9804BEF90DAE1B710B35131C471B,
   0x28DB77F523047D8432CAAB7B40C724933C9EBE0A15C9BEBC431D67C49C100D4C,
   0x4CC5D4BECB3E42B6597F299CFC657E2A5FCB6FAB3AD6FAEC6C44198C4A475817]

def shaConstant (t : Nat) : Nat := bits (shaRounds.getD (t / 4) 0) (255 - 64 * (t % 4)) (192 - 64 * (t % 4))

def rotr (n x : Nat) : Nat := (x >>> n) ||| ((x <<< (64 - n)) % 2 ^ 64)

/-- The two functions of the message schedule and the two of the rounds, by their shifts. -/
def shaSmall (a b c x : Nat) : Nat := rotr a x ^^^ rotr b x ^^^ (x >>> c)
def shaBig (a b c x : Nat) : Nat := rotr a x ^^^ rotr b x ^^^ rotr c x

/-- The schedule, newest word first, lengthened by `n` words. -/
def shaSchedule : Nat → List Nat → List Nat
  | 0, w => w
  | n + 1, w =>
    shaSchedule n
      ((shaSmall 19 61 6 (w.getD 1 0) + w.getD 6 0 + shaSmall 1 8 7 (w.getD 14 0) + w.getD 15 0) % 2 ^ 64 :: w)

/-- The eight working words. -/
structure ShaWords where
  a : Nat
  b : Nat
  c : Nat
  d : Nat
  e : Nat
  f : Nat
  g : Nat
  h : Nat
  deriving DecidableEq, Repr

/-- One round with its schedule word and constant. -/
def ShaWords.round (x : ShaWords) (w k : Nat) : ShaWords :=
  let choice := (x.e &&& x.f) ^^^ ((2 ^ 64 - 1 - x.e) &&& x.g)
  let t := x.h + shaBig 14 18 41 x.e + choice + k + w
  let most := (x.a &&& x.b) ^^^ (x.a &&& x.c) ^^^ (x.b &&& x.c)
  { a := (t + shaBig 28 34 39 x.a + most) % 2 ^ 64, b := x.a, c := x.b, d := x.c, e := (x.d + t) % 2 ^ 64, f := x.e, g := x.f,
    h := x.g }

def ShaWords.add (x y : ShaWords) : ShaWords :=
  let s (u v : Nat) : Nat := (u + v) % 2 ^ 64
  { a := s x.a y.a, b := s x.b y.b, c := s x.c y.c, d := s x.d y.d, e := s x.e y.e, f := s x.f y.f, g := s x.g y.g,
    h := s x.h y.h }

/-- One block of 128 bytes. -/
def ShaWords.block (x : ShaWords) (l : List Byte) : ShaWords :=
  let w := (shaSchedule 64 ((chunks 8 16 l).map beNat).reverse).reverse
  x.add (w.zipIdx.foldl (fun y e => y.round e.1 (shaConstant e.2)) x)

def shaStart : ShaWords :=
  { a := 0xCBBB9D5DC1059ED8, b := 0x629A292A367CD507, c := 0x9159015A3070DD17, d := 0x152FECD8F70E5939,
    e := 0x67332667FFC00B31, f := 0x8EB44A8768581511, g := 0xDB0C2E0D64F98FA7, h := 0x47B5481DBEFA4FA4 }

/-- The message with its one bit, zeros and length, whole blocks of 128 bytes. -/
def shaPadded (l : List Byte) : List Byte :=
  l ++ [0x80] ++ zeros ((239 - l.length % 128) % 128) ++ beBytes 16 (8 * l.length)

/-- SHA-384 of a byte string, 48 bytes. -/
def sha384 (l : List Byte) : List Byte :=
  let p := shaPadded l
  let x := (chunks 128 (p.length / 128) p).foldl ShaWords.block shaStart
  [x.a, x.b, x.c, x.d, x.e, x.f].flatMap (beBytes 8)

/-! ## HMAC and HKDF -/

/-- HMAC-SHA-384: the hash takes blocks of 128 bytes. -/
def hmac384 (key data : List Byte) : List Byte :=
  let k := if 128 < key.length then sha384 key else key
  let block := k ++ zeros (128 - k.length)
  sha384 (block.map (· ^^^ 0x5C) ++ sha384 (block.map (· ^^^ 0x36) ++ data))

/-- HKDF-SHA-384 with an output of 64 bytes. -/
def hkdf64 (salt input info : List Byte) : List Byte :=
  let prk := hmac384 salt input
  let first := hmac384 prk (info ++ [1])
  (first ++ hmac384 prk (first ++ info ++ [2])).take 64

/-- A tag: the first 16 bytes of the HMAC, as the tag field holds them. -/
def tagUnder (key data : List Byte) : BitVec 128 := BitVec.ofNat 128 (leNat ((hmac384 key data).take 16))

end Sys2Proof.Machine
end

