-- ==== Sys2Proof/Machine/Curve.lean ====
section
/-! DEFINITION. The curve brainpoolP384r1: public keys, ECDSA with SHA-384 and the ECDH result (R445, R456). R445 names the curve
and lays out keys and signatures; its parameters are those of RFC 5639 and the algorithms those of FIPS 186 and SEC 1 (PRESUMED,
assumption log 10). -/

namespace Sys2Proof.Machine

/-! ## The curve -/

/-- y² = x³ + a x + b over the integers modulo `prime`; the generator has order `order`. -/
def curvePrime : Nat :=
  0x8CB91E82A3386D280F5D6F7E50E641DF152F7109ED5456B412B1DA197FB71123ACD3A729901D1A71874700133107EC53
def curveA : Nat :=
  0x7BC382C63D8C150C3C72080ACE05AFA0C2BEA28E4FB22787139165EFBA91F90F8AA5814A503AD4EB04A8C7DD22CE2826
def curveB : Nat :=
  0x04A8C7DD22CE28268B39B55416F0447C2FB77DE107DCD2A62E880EA53EEB62D57CB4390295DBC9943AB78696FA504C11
def curveOrder : Nat :=
  0x8CB91E82A3386D280F5D6F7E50E641DF152F7109ED5456B31F166E6CAC0425A7CF3AB6AF6B7FC3103B883202E9046565

/-- A point by its coordinates x / z² and y / z³; z = 0 for the point at infinity. -/
structure CurvePoint where
  x : Nat
  y : Nat
  z : Nat
  deriving DecidableEq, Repr

def curveBase : CurvePoint :=
  { x := 0x1D1C64F068CF45FFA2A63A81B7C13F6B8847A3E77EF14FE3DB7FCAFE0CBD10E8E826E03436D646AAEF87B2E247D4AF1E
    y := 0x8ABE1D7520F9C2A45CB1EB8E95CFD55262B70B29FEEC5864E19C054FF99129280E4646217791811142820341263C5315, z := 1 }

/-- The difference of two numbers below the prime, modulo it. -/
def curveSub (u v : Nat) : Nat := (u + curvePrime - v) % curvePrime

/-- Twice a point. -/
def CurvePoint.double (p : CurvePoint) : CurvePoint :=
  let yy := p.y * p.y % curvePrime
  let s := 4 * p.x * yy % curvePrime
  let zz := p.z * p.z % curvePrime
  let m := (3 * p.x * p.x + curveA * (zz * zz)) % curvePrime
  let x := curveSub (m * m % curvePrime) (2 * s % curvePrime)
  { x := x, y := curveSub (m * curveSub s x % curvePrime) (8 * yy * yy % curvePrime), z := 2 * p.y * p.z % curvePrime }

/-- The sum of two points. -/
def CurvePoint.add (p q : CurvePoint) : CurvePoint :=
  if p.z = 0 then q
  else if q.z = 0 then p
  else
    let pz := p.z * p.z % curvePrime
    let qz := q.z * q.z % curvePrime
    let u := p.x * qz % curvePrime
    let s := p.y * (q.z * qz) % curvePrime
    let h := curveSub (q.x * pz % curvePrime) u
    let r := curveSub (q.y * (p.z * pz) % curvePrime) s
    if h = 0 then (if r = 0 then p.double else { x := 1, y := 1, z := 0 })
    else
      let hh := h * h % curvePrime
      let v := u * hh % curvePrime
      let x := curveSub (r * r % curvePrime) ((h * hh + 2 * v) % curvePrime)
      { x := x, y := curveSub (r * curveSub v x % curvePrime) (s * (h * hh) % curvePrime), z := h * (p.z * q.z) % curvePrime }

/-- The multiple of a point by the lowest `n` bits of `k`, added to 2^n times `sum`. -/
def CurvePoint.times (p : CurvePoint) (k : Nat) : Nat → CurvePoint → CurvePoint
  | 0, sum => sum
  | n + 1, sum =>
    let twice := sum.double
    p.times k n (if k.testBit n then twice.add p else twice)

def CurvePoint.scale (k : Nat) (p : CurvePoint) : CurvePoint := p.times k 384 { x := 1, y := 1, z := 0 }

/-- a^k modulo m, by the lowest `n` bits of `k`. -/
def powMod (a k m : Nat) : Nat → Nat → Nat
  | 0, sum => sum
  | n + 1, sum =>
    let s := sum * sum % m
    powMod a k m n (if k.testBit n then s * a % m else s)

/-- The inverse modulo a prime of 384 bits. -/
def invMod (a m : Nat) : Nat := powMod a (m - 2) m 384 1

/-- The plain coordinates of a point that is not at infinity. -/
def CurvePoint.affine (p : CurvePoint) : Nat × Nat :=
  let i := invMod p.z curvePrime
  let ii := i * i % curvePrime
  (p.x * ii % curvePrime, p.y * (i * ii) % curvePrime)

/-! ## Keys (R445) -/

/-- The 97 bytes of a public key. -/
def keyBytes (p : CurvePoint) : List Byte := 4 :: beBytes 48 p.affine.1 ++ beBytes 48 p.affine.2

/-- The public key of a private number. -/
def publicKey (d : Nat) : List Byte := keyBytes (curveBase.scale d)

/-- The point of a public key, when the bytes are one. -/
def keyPoint (l : List Byte) : Option CurvePoint :=
  let x := beNat (slice l 1 48)
  let y := beNat (slice l 49 48)
  if l.length = 97 ∧ byteAt l 0 = 4 ∧ x < curvePrime ∧ y < curvePrime ∧
      y * y % curvePrime = (x * x * x + curveA * x + curveB) % curvePrime then some { x := x, y := y, z := 1 }
  else none

/-! ## ECDSA -/

/-- The signature by a private number with the nonce `n`, r and then s. -/
def signWith (d n : Nat) (data : List Byte) : List Byte :=
  let r := (curveBase.scale n).affine.1 % curveOrder
  beBytes 48 r ++ beBytes 48 (invMod n curveOrder * (beNat (sha384 data) + r * d) % curveOrder)

/-- Whether 96 bytes are a signature over a byte string by a public key. -/
def signedBy (key data signature : List Byte) : Bool :=
  let r := beNat (slice signature 0 48)
  let s := beNat (slice signature 48 48)
  match keyPoint key with
  | none => false
  | some q =>
    if signature.length ≠ 96 ∨ r = 0 ∨ s = 0 ∨ curveOrder ≤ r ∨ curveOrder ≤ s then false
    else
      let w := invMod s curveOrder
      let p := (curveBase.scale (beNat (sha384 data) * w % curveOrder)).add (q.scale (r * w % curveOrder))
      decide (p.z ≠ 0 ∧ p.affine.1 % curveOrder = r)

/-! ## ECDH (R456) -/

/-- The x-coordinate of the result for a private number and the other side's public key. Bytes that are no key of the curve have no
such result: it is free (assumption log 10). -/
def ecdhX (d : Nat) (key : List Byte) : List Byte :=
  match keyPoint key with
  | some q => beBytes 48 (q.scale d).affine.1
  | none => (List.range 48).map (Config.noSharedPoint key)

end Sys2Proof.Machine
end

