-- ==== Sys2Proof/Machine/Gcm.lean ====
section
/-! DEFINITION. AES-256 and AES-256-GCM, as the unwrapping of a MACsec key uses them (R458). R458 names the cipher; its steps are
those of FIPS 197 and NIST SP 800-38D (PRESUMED, assumption log 10). -/

namespace Sys2Proof.Machine

/-! ## AES-256 -/

/-- The substitution of bytes, sixteen to a number. -/
def aesRows : List Nat :=
  [0x637C777BF26B6FC53001672BFED7AB76,
   0xCA82C97DFA5947F0ADD4A2AF9CA472C0,
   0xB7FD9326363FF7CC34A5E5F171D83115,
   0x04C723C31896059A071280E2EB27B275,
   0x09832C1A1B6E5AA0523BD6B329E32F84,
   0x53D100ED20FCB15B6ACBBE394A4C58CF,
   0xD0EFAAFB434D338545F9027F503C9FA8,
   0x51A3408F929D38F5BCB6DA2110FFF3D2,
   0xCD0C13EC5F974417C4A77E3D645D1973,
   0x60814FDC222A908846EEB814DE5E0BDB,
   0xE0323A0A4906245CC2D3AC629195E479,
   0xE7C8376D8DD54EA96C56F4EA657AAE08,
   0xBA78252E1CA6B4C6E8DD741F4BBD8B8A,
   0x703EB5664803F60E613557B986C11D9E,
   0xE1F8981169D98E949B1E87E9CE5528DF,
   0x8CA1890DBFE6426841992D0FB054BB16]

def aesSub (b : Nat) : Nat := bits (aesRows.getD (b / 16) 0) (127 - 8 * (b % 16)) (120 - 8 * (b % 16))

/-- Twice a byte in the field of AES. -/
def aesTwice (b : Nat) : Nat := if b < 128 then 2 * b else (2 * b - 256) ^^^ 0x1B

/-- The words of the key schedule, newest first, lengthened by `n`; `rc` is the next round constant. -/
def aesSchedule : Nat → Nat → List (List Nat) → List (List Nat)
  | 0, _, w => w
  | n + 1, rc, w =>
    let last := w.headD []
    let old := w.getD 7 []
    let turned := (last.drop 1 ++ last.take 1).map aesSub
    let (mixed, rc) :=
      if w.length % 8 = 0 then (turned.zipWith (· ^^^ ·) [rc, 0, 0, 0], aesTwice rc)
      else if w.length % 8 = 4 then (last.map aesSub, rc)
      else (last, rc)
    aesSchedule n rc (old.zipWith (· ^^^ ·) mixed :: w)

/-- The fifteen round keys of 16 bytes. -/
def aesKeys (key : List Byte) : List (List Nat) :=
  let w := (aesSchedule 52 1 ((chunks 4 8 key).map fun c => c.map BitVec.toNat).reverse).reverse
  (List.range 15).map fun i => ((w.drop (4 * i)).take 4).flatten

/-- The rows of the four columns turned left by their number. -/
def aesShift (s : List Nat) : List Nat := (List.range 16).map fun i => s.getD ((5 * i) % 16) 0

def aesColumn : List Nat → List Nat
  | [a, b, c, d] =>
    let t := a ^^^ b ^^^ c ^^^ d
    let mix (x y : Nat) : Nat := x ^^^ t ^^^ aesTwice (x ^^^ y)
    [mix a b, mix b c, mix c d, mix d a]
  | l => l

def aesMix (s : List Nat) : List Nat := (List.range 4).flatMap fun i => aesColumn ((s.drop (4 * i)).take 4)

/-- One block under its round keys. -/
def aesBlock (keys : List (List Nat)) (block : List Nat) : List Nat :=
  let start := block.zipWith (· ^^^ ·) (keys.headD [])
  let mid := ((keys.drop 1).take 13).foldl (fun s k => (aesMix (aesShift (s.map aesSub))).zipWith (· ^^^ ·) k) start
  (aesShift (mid.map aesSub)).zipWith (· ^^^ ·) (keys.getD 14 [])

/-! ## GCM -/

/-- The product of two blocks as GCM numbers their bits: `x` from its most significant bit on, `v` times x^i in the `n`-th step from
the end. -/
def gcmTimes (x : Nat) : Nat → Nat → Nat → Nat
  | 0, _, z => z
  | n + 1, v, z =>
    gcmTimes x n (if v % 2 = 0 then v / 2 else (v / 2) ^^^ (0xE1 <<< 120)) (if x.testBit n then z ^^^ v else z)

/-- The hash of whole blocks under its key. -/
def gcmHash (h : Nat) (l : List Nat) : Nat := l.foldl (fun y x => gcmTimes (y ^^^ x) 128 h 0) 0

/-- A byte string as blocks, the last filled with zeros. -/
def gcmBlocks (l : List Byte) : List Nat :=
  (chunks 16 ((l.length + 15) / 16) l).map fun c => beNat (padTo 16 c)

/-- The cipher of a counter block. -/
def gcmMask (keys : List (List Nat)) (iv : List Byte) (n : Nat) : List Nat :=
  aesBlock keys ((iv ++ beBytes 4 n).map BitVec.toNat)

/-- The plain bytes of `sealed`, cipher text and tag of 16 bytes, under an IV of 12 bytes; none when the tag does not fit. -/
def gcmOpen (key iv data sealed : List Byte) : Option (List Byte) :=
  let keys := aesKeys key
  let n := sealed.length - 16
  let text := sealed.take n
  let h := beNat ((aesBlock keys (List.replicate 16 0)).map (BitVec.ofNat 8))
  let sum := gcmHash h (gcmBlocks data ++ gcmBlocks text ++ [8 * data.length * 2 ^ 64 + 8 * n])
  let tag := (beBytes 16 sum).zipWith (fun b m => b ^^^ BitVec.ofNat 8 m) (gcmMask keys iv 1)
  if tag = sealed.drop n then
    some (((chunks 16 ((n + 15) / 16) text).zipIdx.map fun (c, i) =>
      c.zipWith (fun b m => b ^^^ BitVec.ofNat 8 m) (gcmMask keys iv (i + 2))).flatten)
  else none

end Sys2Proof.Machine
end

