-- ==== Sys2Proof/Machine/Crypto.lean ====
section
/-! DEFINITION. The device identity key (R445), the keys of a session (R456) and what the factory wrote into module flash and fuses
(R423, R446, R447). -/

namespace Sys2Proof.Machine

def opaqueBytes (n : Nat) (f : Nat → Byte) : List Byte := (List.range n).map f

/-- A private number of the curve. -/
def privateNumber (n : Nat) : Nat := 1 + n % (curveOrder - 1)

/-- A signature by the device identity key over a byte string, 96 bytes (R445). Its nonce is free. -/
def dikSign (dik : Nat) (data : List Byte) : List Byte := signWith dik (privateNumber (Config.dikNonce data)) data

/-- The 64 bytes of a session: input the x-coordinate of the ECDH result of the device's ephemeral number and the host's key, salt
the challenge (R456). -/
def sessionKeys (challenge : List Byte) (secret : Nat) (hostKey : List Byte) : List Byte :=
  hkdf64 challenge (ecdhX secret hostKey) (ascii 10 "VX session")

/-! ## What the factory wrote -/

def partNumber : List Byte := ascii 16 "VX-RLM8-1024"
def serialNumber : List Byte := (List.range 16).map Config.serial

def factoryDik : Nat := privateNumber Config.dikPrivate

/-- Vaermex's keys, and its signatures over what it wrote into the module (R445). -/
def factoryNumber : Nat := privateNumber Config.factoryPrivate
def firmwareNumber : Nat := privateNumber Config.firmwarePrivate
def factoryKeyBytes : List Byte := publicKey factoryNumber
def firmwareKeyBytes : List Byte := publicKey firmwareNumber
def vaermexSigned (number : Nat) (data : List Byte) : List Byte :=
  data ++ signWith number (privateNumber (Config.factoryNonce data)) data

/-- A die's identity (R423): fused identifier, revision, feature level, protocol low and high, reserved. -/
def dieIdentity (i : Nat) : List Byte :=
  opaqueBytes 8 (Config.dieIdentifier i) ++ [Config.dieRevision i] ++ opaqueBytes 4 (Config.lastLevels i) ++ zeros 3

/-- A stack's identity (R423): device identifier, capacity in GiB, Quern flag, reserved. -/
def stackIdentity (i : Nat) : List Byte :=
  opaqueBytes 12 (Config.stackIdentifier i) ++ leBytes 2 128 ++ leBytes 1 (bnat (i % 2 == 0)) ++ zeros 1

/-- The thermal calibration of R368 and θ_0, whose layout R423 does not give: the three coefficients of each spot, then θ_0 (DESIGN
CHOICE, assumption log 10). -/
def calibrationBytes : List Byte :=
  ((List.range 93).flatMap fun i =>
    leBytes 4 (Config.spotA i).toNat ++ leBytes 4 (Config.spotB i).toNat ++ leBytes 4 (Config.spotAlpha i).toNat) ++
  leBytes 4 Config.theta0.toNat

/-- The Last (R423). -/
def factoryLast : List Byte :=
  vaermexSigned factoryNumber
    (ascii 4 "VXLA" ++ leBytes 2 1 ++ leBytes 2 448 ++ partNumber ++ serialNumber ++ (List.range 5).flatMap dieIdentity ++
     (List.range 8).flatMap stackIdentity ++ opaqueBytes 48 Config.fuseDigest ++ sha384 calibrationBytes ++ zeros 8)

/-- The identity certificate (R446). -/
def factoryCertificate : List Byte :=
  vaermexSigned factoryNumber
    (ascii 4 "VXID" ++ leBytes 2 1 ++ zeros 2 ++ partNumber ++ serialNumber ++ publicKey factoryDik ++ zeros 7)

/-- The image that slot `i` holds when the module leaves the factory (R447). -/
def factoryImage (i : Nat) : List Byte :=
  let body := opaqueBytes (Config.factoryBodyLength i % 6291137) (Config.factoryBody i)
  vaermexSigned firmwareNumber
    (ascii 4 "VXFW" ++ leBytes 2 1 ++ leBytes 1 (Config.factorySecurityVersion i).val ++ zeros 1 ++ leBytes 4 (320 + body.length) ++
     leBytes 4 (Config.factoryImageVersion i) ++ sha384 body ++ firmwareKeyBytes ++ zeros 63) ++ body

/-! ## Firmware images (R447, R448) -/

def imageVersion (l : List Byte) : Nat := le l 12 4
def imageSecurity (l : List Byte) : Nat := le l 6 1
def imageLength (l : List Byte) : Nat := le l 8 4
def imageBody (l : List Byte) : List Byte := slice l 320 (imageLength l - 320)

/-- The first check of R448 that an image fails, in the order of its list, 0 for none (the numbers: DESIGN CHOICE, assumption log
27): 1 header, 2 signing key, 3 signature, 4 body digest, 5 security version. -/
def imageFault (l keyDigest : List Byte) (rollback : Nat) : Nat :=
  let key := slice l 64 97
  if slice l 0 4 ≠ ascii 4 "VXFW" ∨ le l 4 2 ≠ 1 ∨ imageLength l < 320 ∨ 6291456 < imageLength l ∨ 63 < imageSecurity l then 1
  else if sha384 key ≠ keyDigest then 2
  else if !signedBy key (slice l 0 224) (slice l 224 96) then 3
  else if sha384 (imageBody l) ≠ slice l 16 48 then 4
  else if imageSecurity l < rollback then 5
  else 0

end Sys2Proof.Machine
end

