-- ==== Sys2Proof/Machine/State.lean ====
section
/-! DEFINITION. The state of the device, the machine right after reset, and the two ways a command can stop.

Every indexed family of the device (cores, stacks, pages, lanes of a register file ...) is a sparse list in one
canonical form: keys strictly rising, no entry equal to the family's reset entry (Machine/Sparse.lean). -/

namespace Sys2Proof.Machine

/-- No command of the block ends in a fault: the spec describes what the device does for each. -/
inductive Fault where
  deriving DecidableEq, Repr

/-- The one reason a command can be refused by the model. -/
inductive Refusal where
  /-- An arm of the dispatcher whose command has no meaning yet; safe. No arm raises it. -/
  | notModelled (mnemonic : String)
  deriving DecidableEq, Repr

/-- A family indexed by numbers, in canonical form. -/
abbrev Sparse (β : Type) := List (Nat × β)

/-! ## The wheel (R27 to R43) -/

/-- The states of the wheel, encoded as WHEEL.Status.State. -/
inductive WheelState where
  | unset | free | acquiring | locked | holdover
  deriving DecidableEq, Repr

/-- What TIME.SOURCE writes together (R43): WHEEL.SourceCfg, WHEEL.PtpCfg, WHEEL.Asymmetry and the unicast address. -/
structure SourceConfig where
  cfg : Nat
  ptp : Nat
  asymmetry : Int
  unicast : List Byte
  deriving DecidableEq, Repr

/-- A time transmitter that the device hears (R32): its port identity, its clock, its Announce interval, and when its last Announce
message and the one before came, in `uptime`. -/
structure ForeignClock where
  transmitter : Nat
  clock : ClockData
  interval : Int
  heard : Nat
  before : Option Nat := none
  deriving DecidableEq, Repr

structure Wheel where
  position : Nat := 0
  /-- The 32-bit fraction of a notch that the device keeps internally (R27). -/
  fraction : BitVec 32 := 0
  /-- A configuration that takes effect at the next notch (R43). -/
  nextSource : Option SourceConfig := none
  latchedHi : Word := 0
  state : WheelState := .unset
  /-- 0 none, 1 PTP, 2 PPS, 3 cascade head. -/
  source : Nat := 0
  learned : Bool := false
  bounded : Bool := false
  refclkValid : Bool := false
  ppsValid : Bool := false
  ptpValid : Bool := false
  slewing : Bool := false
  errorBound : Nat := 0
  offset : Int := 0
  freqAdj : Int := 0
  first : Nat := 0
  second : Nat := 1
  useRefclk : Bool := true
  ppsOut : Bool := false
  holdLimit : Nat := 1048
  trouble : Word := 0
  domain : Nat := 0
  transport : Nat := 0
  peerDelay : Bool := false
  unicast : Bool := false
  asymmetry : Int := 0
  unicastAddress : List Byte := []
  /-- The state the present ACQUIRING was entered from, and when (R37). -/
  acquiredFrom : WheelState := .unset
  acquiredAt : Nat := 0
  /-- Since when the filtered offset has stayed within ±200 ns (R38), and since when LOCKED holds (R39). -/
  inBandSince : Option Nat := none
  lockedSince : Option Nat := none
  /-- E0 and the start of the holdover count (R37, R39). -/
  holdBound : Nat := 0
  holdSince : Nat := 0
  holdLearned : Bool := false
  lastSync : Option Nat := none
  syncInterval : Int := 0
  ptpValidSince : Nat := 0
  transmitter : Option Nat := none
  /-- The transmitters whose Announce messages it has heard (R32). -/
  foreign : List ForeignClock := []
  awaitedFollowUp : Option Nat := none
  pathDelay : Int := 0
  lastPps : Option Nat := none
  lastValidPps : Option Nat := none
  ppsRun : Nat := 0
  ppsLost : Bool := false
  ppsValidSince : Nat := 0
  /-- External time at uptime 0, in notches, from the last Announce or Sync message (R27). -/
  seconds : Option Nat := none
  deriving DecidableEq, Repr

/-! ## Memory damage (R80, R128 to R131, R165 to R170, R467) -/

/-- What a read of a damaged granule, block or byte finds. -/
inductive Damage where
  | none | correctable | uncorrectable | poison
  deriving DecidableEq, Repr

structure DamageMark where
  kind : Damage := .none
  planted : Bool := false
  position : Nat := 0
  /-- The data bits that planted flips have left wrong (R467). -/
  flips : List Nat := []
  deriving DecidableEq, Repr

/-! ## Cores (R63 to R94, R215 to R241) -/

inductive CoreState where
  | off | disabled | idle | preload | running | trapped
  deriving DecidableEq, Repr

/-- What the control unit of a running core is waiting for. -/
inductive CoreWait where
  | none
  | notch (offset : Nat)
  | fence
  deriving DecidableEq, Repr

/-- An instruction in the stream queue of a core (R91, R234), with the index `pc` it was decoded at where it can trap: SPUT
with the next descriptor's address and the descriptors left, SWAIT, SSIG and SIDLE. -/
inductive StreamOp where
  | put (pc channel address left : Nat)
  | wait (counter threshold : Nat)
  | signal (pc counter amount core : Nat)
  | idle (mask : Nat)
  deriving DecidableEq, Repr

/-- A block loaded into an instruction memory bank (R87). -/
structure Block where
  context : Nat
  csn : Nat
  item : Nat
  /-- Index of its CORE action in the command's schedule. -/
  action : Nat
  ganged : Bool
  /-- Plan identifier, an input of Chaff (R119). -/
  planId : Nat
  /-- Offset of the block in its CODE section (R85): with the plan it names a block of the program area. -/
  offset : Nat
  instrs : List CoreWord
  deriving DecidableEq, Repr

/-- A block that the program area of a core holds (R86): where its instructions lie, each in one granule of 16 bytes. -/
structure HeldBlock where
  context : Nat
  planId : Nat
  offset : Nat
  granules : List Nat
  deriving DecidableEq, Repr

/-- The stationary block of one tile: elements as stored (row-major, 64 rows in the 4-bit class), one scale per column
and chain, and the pair code LOADSTAT recorded (R70, R103, R104, R110). -/
structure StatBlock where
  code : Nat := 0
  elements : List Nat := []
  scales : List Nat := []
  deriving DecidableEq, Repr

structure Tile where
  live : StatBlock := {}
  shadow : StatBlock := {}
  /-- The shadow block was loaded after the live one: the next PASS makes it live. -/
  fresh : Bool := false
  deriving DecidableEq, Repr

inductive ChannelState where
  | idle | running | waitingBarrier | haltedPage | haltedError
  deriving DecidableEq, Repr

/-- A fault of a stream: its cause, and the space, core and address that met it (R237). -/
structure StreamFault where
  cause : Nat
  space : Nat
  core : Nat
  address : Nat
  deriving DecidableEq, Repr

/-- Where a channel stands within a descriptor: the cursor of a translation group, the number of that group's first piece, the
pages begun before it and those at work then (R229), and the number of the first piece not issued (R237). -/
structure StreamMark where
  cursor : Nat := 0
  first : Nat := 0
  position : Nat := 0
  begun : List (Nat × Nat) := []
  pages : List Nat := []
  deriving DecidableEq, Repr

/-- A queued stream descriptor with where it came from (R218, R235, R234), and where it goes on from after a suspension
(R240). -/
structure QueuedDesc where
  bytes : List Byte
  item : Nat
  entry : Nat
  context : Nat
  csn : Nat
  action : Nat
  resume : Option StreamMark := none
  deriving DecidableEq, Repr

/-- A piece of a row (R225): spaces 0 own core-local, 1 device, 2 remote core-local. `pages` are the external pages of its
translation group, which stay as they are until the group's last piece has completed (R228); `begins` are those that the channel
begins as it issues the piece (R229). -/
structure Piece where
  number : Nat
  srcSpace : Nat
  srcCore : Nat
  src : Nat
  dstSpace : Nat
  dstCore : Nat
  dst : Nat
  length : Nat
  pages : List Nat := []
  begins : List Nat := []
  deriving DecidableEq, Repr

/-- A piece in flight: its read data has returned (`some`) or not yet. `tag` is the engine tag of R398. -/
structure Flight where
  piece : Piece
  data : Option (List Byte)
  context : Nat
  tag : Nat
  csn : Nat
  noAllocate : Bool
  /-- Its command was stopped: the core is at rest once it has ended (R93, R400). -/
  stopped : Bool := false
  deriving DecidableEq, Repr

structure Channel where
  state : ChannelState := .idle
  queue : List QueuedDesc := []
  /-- Entries of STREAM actions that wait for a queue place (R236). -/
  backlog : List QueuedDesc := []
  /-- The head descriptor has begun to issue. -/
  issuing : Bool := false
  /-- Where the next translation group begins: for COPY row × 2^25 + byte of the row; for GATHER and SCATTER the group × 2^25
  (R227). -/
  cursor : Nat := 0
  /-- Where the present translation group began, for a channel that goes on in the middle of it (R240). -/
  group : StreamMark := {}
  /-- Number of the first piece of the next translation group (R225). -/
  first : Nat := 0
  /-- The external pages of the present translation group. -/
  pages : List Nat := []
  /-- The fault that the channel meets once the pieces before it are issued. -/
  fault : Option StreamFault := none
  /-- Translated pieces not yet issued (R227, R230). -/
  ready : List Piece := []
  flights : List Flight := []
  position : Nat := 0
  cause : Nat := 0
  faultAddress : Nat := 0
  faultSpace : Nat := 0
  faultCore : Nat := 0
  done : Nat := 0
  context : Nat := 0
  /-- Bank fields of the pages the channel began last, newest first, with their stacks (R229). -/
  begun : List (Nat × Nat) := []
  enqueued : Nat := 0
  deriving DecidableEq, Repr

/-- A core store line written by a queue that no FENCE has waited for yet: its contents before the write (R91). -/
structure OpenWrite where
  queue : Nat
  line : Nat
  old : List Byte
  deriving DecidableEq, Repr

structure Core where
  state : CoreState := .disabled
  logical : Nat := 255
  context : Nat := 0
  csn : Nat := 0
  action : Nat := 0
  bank : Bool := false
  bank0 : Option Block := none
  bank1 : Option Block := none
  pc : Nat := 0
  /-- Count of unpaused notches when the action began. -/
  startedWork : Nat := 0
  /-- Running LOOP instructions: index and repetitions left. -/
  loops : List (Nat × Nat) := []
  wait : CoreWait := .none
  halted : Bool := false
  /-- Non-empty queues: bit 0 array, 1 vector; the stream queue is `streamQ`. -/
  queues : Nat := 0
  /-- The stream queue, first in, first out (R91). -/
  streamQ : List StreamOp := []
  openWrites : List OpenWrite := []
  arrayMode : Word := 0
  tiles : Sparse Tile := []
  sums : Sparse Word := []
  /-- The sum bank entries that hold integers (R115), under their keys in `sums`. -/
  integers : Sparse Bool := []
  vregs : Sparse Word := []
  retiredLanes : Nat := 0
  lanes : Nat := 0
  trouble : Word := 0
  trapCause : Word := 0
  trapPc : Word := 0
  trapAddr : Word := 0
  parityCount : Nat := 0
  correctedCount : Nat := 0
  /-- Corrected errors since CORE.Trouble.SliceCorrected was last cleared. -/
  correctedSince : Nat := 0
  streamTrouble : Word := 0
  channels : Sparse Channel := []
  barriers : Sparse Word := []
  stopToldAt : Option Nat := none
  /-- The blocks in the core's program area (R86). -/
  programs : List HeldBlock := []
  deriving DecidableEq, Repr

/-! ## Millponds and external stacks (R139 to R184) -/

/-- A present line of a Millpond's cache part (R144 to R147); its data is the memory's own. -/
structure CacheLine where
  line : Nat
  way : Nat
  dirty : Bool
  deriving DecidableEq, Repr

structure Millpond where
  steps : Nat := 8
  resplit : Option Nat := none
  bands : List Nat := [0, 0, 0, 0]
  /-- Layers above 105 °C, one bit each (R138, R158). -/
  hotLayers : Nat := 0
  coolSince : List Nat := [0, 0, 0, 0]
  trouble : Word := 0
  correctedCount : Nat := 0
  correctedSince : Nat := 0
  errorAddress : Nat := 0
  errorKind : Nat := 0
  /-- Owner of each way: context, or none. -/
  ways : Sparse (Option Nat) := []
  /-- Present lines, most recently used first. -/
  lines : List CacheLine := []
  deriving DecidableEq, Repr

inductive PcMode where
  | plain | compute | sealing
  deriving DecidableEq, Repr

/-- A Quern descriptor in a queue, with the command that wrote it and its engine tag (R195, R398). -/
structure QuernEntry where
  bytes : List Byte
  context : Nat
  csn : Nat
  action : Nat
  tag : Nat
  deriving DecidableEq, Repr

/-- The partial result of one in-bank unit for one query (R201). -/
structure Part where
  m : Word
  l : Word
  o : List Word
  deriving DecidableEq, Repr

/-- A running descriptor: rows each unit has visited, and the parts of unit `u`, query `i` under key `u * 256 + i`. -/
structure QuernRun where
  entry : QuernEntry
  /-- Discarded: its chunk in progress is the last (R191, R192). -/
  dropped : Bool := false
  rowsDone : Nat
  parts : Sparse Part
  scores : Sparse Word
  deriving DecidableEq, Repr

structure PseudoChannel where
  mode : PcMode := .plain
  entering : Bool := false
  guardTrip : Bool := false
  queueFull : Bool := false
  context : Nat := 0
  firstSeg : Nat := 0
  segCount : Nat := 0
  queue : List QuernEntry := []
  running : Option QuernRun := none
  /-- Entries of QUERN actions that wait for a queue place (R195). -/
  backlog : List QuernEntry := []
  completed : Nat := 0
  lastTag : Word := 0
  chunkBand : Nat := 0
  flags : Nat := 0
  guardRow : Word := 0
  guardTag : Word := 0
  postponed : List Nat := []
  /-- A chunk is in progress. -/
  chunkIn : Bool := false
  /-- The units are idle for the length of a chunk (R208). -/
  resting : Bool := false
  deriving DecidableEq, Repr

structure Stack where
  trained : Bool := false
  /-- Command and address parity errors that accesses of the interface meet (R159): block, and tries that fail. -/
  caErrors : Sparse Nat := []
  /-- Reads of a block that the stack answers with another one: block, block returned (R165). -/
  strays : List (Nat × Nat) := []
  selfRefresh : Bool := false
  failed : Bool := false
  band : Nat := 0
  /-- A core die is above 105 °C (R173, R184). -/
  hot : Bool := false
  coolSince : Nat := 0
  temperature : Nat := 0
  trouble : Word := 0
  correctedCount : Nat := 0
  correctedSince : Nat := 0
  uncorrectableCount : Nat := 0
  errorAddress : Nat := 0
  errorKind : Nat := 0
  errorCode : Nat := 0
  /-- A sweep in progress: stream (255 device stream), CSN. -/
  sweep : Option (Nat × Nat) := none
  sweepSegment : Nat := 0
  sweepLeft : Nat := 0
  /-- When the sweep of the present segment began, in `uptime`. -/
  sweepSince : Nat := 0
  testDone : Bool := false
  testFailed : Bool := false
  testStep : Nat := 0
  testCode : Nat := 0
  rowSkipped : Bool := false
  lanesRepaired : Nat := 0
  unrepaired : Bool := false
  captureNext : Nat := 0
  captureEvents : Nat := 0
  /-- Word `w` of entry `e` under key `4 * e + w`. -/
  capture : Sparse Word := []
  pcs : Sparse PseudoChannel := []
  halfDuty : Bool := false
  lastAccess : Nat := 0
  rowVisits : Nat := 0
  deriving DecidableEq, Repr

/-- The authoritative page record and its table entry (R142, R180, R254). -/
structure Page where
  mapped : Bool := false
  shared : Bool := false
  context : Nat := 0
  use : Nat := 0
  slot : Nat := 0
  index : Nat := 0
  mapCount : Nat := 0
  pending : Bool := false
  /-- Why it is retire-pending, as the field defect list names sources (R418). -/
  source : Nat := 0
  retired : Bool := false
  errors : Nat := 0
  deriving DecidableEq, Repr

/-! ## Links (R281 to R301) -/

structure LinkDir where
  nextSeq : Nat := 0
  expected : Nat := 0
  discarding : Bool := false
  replay : List Flit := []
  nacks : List Nat := []
  resends : Nat := 0
  retrains : List Nat := []
  retraining : Bool := false
  credits : List Nat := [64, 64, 64]
  inbox : List (Nat × BitVec 512) := []
  nacksOwed : Nat := 0
  failed : List Nat := []
  injected : List Nat := []
  sparesUsed : Nat := 0
  resending : List Flit := []
  /-- Flits of a removed bundle that this one carries, not sent yet (R286). -/
  moved : List Flit := []
  deriving DecidableEq, Repr

structure Bundle where
  removed : Bool := false
  /-- It has failed in the present notch, and is removed at its end (R286). -/
  failing : Bool := false
  aToB : LinkDir := {}
  bToA : LinkDir := {}
  deriving DecidableEq, Repr

/-- Where a flit of a delivery store stands: sent, to be sent again, or held while its destination cannot be reached (R299). -/
inductive StorePhase where
  | sent
  | again
  | held
  deriving DecidableEq, Repr

/-- A flit in a delivery store (R298); `moved` once it is to be sent again or held under R299, `way` the links of the route by which
it was sent. -/
structure Stored where
  payload : BitVec 512
  packet : Packet
  phase : StorePhase := .sent
  moved : Bool := false
  way : List (Nat × Bool) := []
  deriving DecidableEq, Repr

structure Link where
  trained : Bool := false
  bundles : Sparse Bundle := []
  trouble : Word := 0
  replayCount : Nat := 0
  replaySince : Nat := 0
  retrainCount : Nat := 0
  /-- The delivery stores of its two ends, oldest first. -/
  storeA : List Stored := []
  storeB : List Stored := []
  detour : Bool := false
  disjoint : Bool := false
  deriving DecidableEq, Repr

/-- Packets between a source die and a destination die (R298, R299): the next delivery sequence at the source, those begun there and
not complete, with the place of their next flit, the next to deliver, the flits of packets that have not arrived whole (sequence,
place, last), the packets complete that wait for delivery, and whether routes are still turned round. -/
structure Pair where
  next : Nat := 0
  opened : List (Nat × Nat) := []
  expected : Nat := 0
  flits : List (Nat × Nat × Bool) := []
  arrived : List Nat := []
  away : Bool := false
  deriving DecidableEq, Repr

/-! ## Hopper units (R263 to R278) -/

/-- A HOPPER action's rows on one unit. -/
structure HopperJob where
  context : Nat
  csn : Nat
  action : Nat
  item : Nat
  first : Nat
  stop : Nat
  deriving DecidableEq, Repr

structure Hopper where
  off : Bool := false
  running : Bool := false
  context : Nat := 0
  csn : Nat := 0
  action : Nat := 0
  item : Nat := 0
  nextRow : Nat := 0
  endRow : Nat := 0
  /-- The present row has begun: a pause lets it finish (R372). -/
  inRow : Bool := false
  /-- Its command is over: the unit finishes the row in progress, and its record is discarded (R277). -/
  dropped : Bool := false
  /-- Rows of later actions of the command that came round while the unit was busy (R264). -/
  waiting : List HopperJob := []
  trouble : Word := 0
  rowsDone : Nat := 0
  flaggedRows : Nat := 0
  faultAddress : Nat := 0
  faultKind : Nat := 0
  deriving DecidableEq, Repr

/-! ## Plans (R44 to R58, R85, R209, R235, R266) -/

structure SlotEntry where
  action : Nat
  units : Nat
  argument : Nat
  offsets : List Nat
  windows : List Nat
  deriving DecidableEq, Repr

structure SlotTable where
  entry : Nat
  shape : Nat
  floor : Nat
  actions : List SlotEntry
  deriving DecidableEq, Repr

structure Cert where
  entry : Nat
  floor : Nat
  shape : Nat
  spans : List Nat
  durations : List Nat
  history : List Nat
  draw : Nat
  quarters : Nat
  hoppers : Nat
  shares : Nat
  deriving DecidableEq, Repr

structure Region where
  kind : Nat
  base : Nat
  length : Nat
  deriving DecidableEq, Repr

structure ConstRecord where
  space : Nat
  quarters : Nat
  address : Nat
  data : List Byte
  deriving DecidableEq, Repr

structure Needs where
  quarters : Nat := 0
  store : Nat := 0
  slice : Nat := 0
  pads : List Nat := [0, 0, 0, 0]
  ways : List Nat := [0, 0, 0, 0]
  regions : List Region := []
  deriving DecidableEq, Repr

structure Plan where
  id : Nat
  level : Nat
  ganged : Bool
  entries : Nat
  tables : List SlotTable
  certs : List Cert
  /-- CODE: per item, the block offset of each logical core (0 none), and the blocks by offset. -/
  code : List (Sparse Nat)
  blocks : Sparse (List CoreWord)
  /-- STREAM: per item, the group offset of each logical core, and the groups by offset: channel, descriptor. -/
  streams : List (Sparse Nat)
  groups : Sparse (List (Nat × List Byte))
  /-- QUERN: per item, stack, pseudo-channel and descriptor of each entry. -/
  querns : List (List (Nat × Nat × List Byte))
  samplers : List (List Byte)
  needs : Needs
  consts : List ConstRecord
  deriving DecidableEq, Repr

/-! ## Commands in flight (R312 to R326, R339 to R357) -/

inductive CmdPhase where
  /-- Journaled and queued as FILLER, not started. -/
  | queued
  /-- Booked on the wheel, or running. -/
  | booked
  | suspended
  /-- Held for a suspect's replay (R405). -/
  | held
  /-- A journaled command other than RUN.STEP, at work. -/
  | working
  | completed
  deriving DecidableEq, Repr

inductive ActionPhase where
  | waiting | running | ended
  deriving DecidableEq, Repr

structure ActionRun where
  entry : SlotEntry
  phase : ActionPhase := .waiting
  /-- Count of unpaused notches when it started, and the window it was given. -/
  startedAt : Nat := 0
  window : Nat := 0
  /-- It had begun when its command was suspended, and what was left of it was set aside (R240). -/
  aside : Bool := false
  /-- Once its window has ended with work left: the cause that its overrun first counted as, 1 THERMAL, 2 LINK, 3 OVERRUN, or 4
  when it counts as none because its command is suspended. -/
  overran : Nat := 0
  /-- A QUERN action whose stack's band has risen above the command's, or that has run at half duty (R207, R208). -/
  slowed : Bool := false
  /-- The highest band of each of a QUERN action's stacks since it started (R207). -/
  bankBands : Sparse Nat := []
  /-- The links that its traffic crosses by the routes of R295, as a mask, and whether it has run while a die in reset or a down
  link moved them (R288, R300). -/
  links : Nat := 0
  moved : Bool := false
  deriving DecidableEq, Repr

/-- Delay by cause, in notches (R60). -/
structure Delay where
  thermal : Nat := 0
  link : Nat := 0
  overrun : Nat := 0
  deriving DecidableEq, Repr

/-- Why a command is to be stopped at the end of the notch, and the fault fields of its completion (R93, R238, R276,
R322). `rank` is the precedence of R238: 0 trap, 1 stream halt, 2 Quern, 3 Hopper, 4 timeout. -/
structure Stop where
  rank : Nat
  status : Nat
  detail : Nat := 0
  core : Nat := 0xFFFF
  count : Nat := 0
  cause : Nat := 0
  unit : Nat := 0
  address : Nat := 0
  notch : Nat := 0
  /-- The cores, channels and units that `count` counts, each once. -/
  members : List (Nat × Nat) := []
  deriving DecidableEq, Repr

/-- What a channel still had to do of a STREAM action of a suspended command (R240). -/
structure SavedChannel where
  core : Nat
  channel : Nat
  action : Nat
  queue : List QueuedDesc
  deriving DecidableEq, Repr

/-- A journaled command: the frame it came in, and everything the device keeps of it. -/
structure Cmd where
  csn : Nat := 0
  opcode : Nat := 0
  frame : Frame
  phase : CmdPhase := .working
  planId : Nat := 0
  entry : Nat := 0
  cls : Nat := 0
  booking : Nat := 0
  notBefore : Nat := 0
  append : Nat := 0
  slots : List Nat := []
  band : Nat := 0
  certIndex : Nat := 0
  floor : Nat := 0
  span : Nat := 0
  duration : Nat := 0
  /-- D of its record for its band, whatever is left of it after a resumption (R356). -/
  bandDuration : Nat := 0
  draw : Nat := 0
  quarters : Nat := 0
  hoppers : Nat := 0
  shares : Nat := 0
  rampIn : Nat := 0
  start : Nat := 0
  /-- The first offset of the schedule that still counts, after a resumption (R62). -/
  skipped : Nat := 0
  promise : Nat := 0
  original : Nat := 0
  timeout : Nat := 0
  acceptedAt : Nat := 0
  begun : Bool := false
  /-- A FILLER command's record is fixed: it has started once (R351, R403). -/
  chosen : Bool := false
  /-- The next action goes on from a suspension: barrier counters are restored first (R240). -/
  resuming : Bool := false
  /-- The notch in which the last action ended, and that of the last RESULT frame (R59). -/
  endNotch : Nat := 0
  resultNotch : Nat := 0
  /-- Slip when the command was booked: `start` counts schedule notches, wheel notches less the slip (R60). -/
  slip0 : Delay := {}
  /-- Occurrence of its booking that holds a RESERVED command (R348). -/
  occurrence : Option Nat := none
  carried : Delay := {}
  added : Delay := {}
  actions : List ActionRun := []
  missSent : Bool := false
  stop : Option Stop := none
  suspendedAt : Nat := 0
  suspendedFor : Nat := 0
  faultPages : List Nat := []
  saved : List SavedChannel := []
  savedBarriers : List (Nat × Nat × Word) := []
  records : Sparse (List Byte) := []
  handed : Nat := 0
  /-- Records of all its HOPPER actions; RESULT frames as (first record, records), and how many of them have gone out to a
  session (R324). -/
  expected : Nat := 0
  resultFrames : List (Nat × Nat) := []
  shown : Nat := 0
  /-- It had started before the reset that its context is, or may become, a suspect of (R406). -/
  startedBefore : Bool := false
  /-- The dies whose resets in progress stopped it (R385). -/
  stoppedBy : List Nat := []
  plan : Option Plan := none
  /-- Parameters and progress of the other journaled commands, by their own rules. -/
  address : Nat := 0
  count : Nat := 0
  value : Nat := 0
  progress : Nat := 0
  /-- Of SEG.RECODE's present segment: the pages that the journal records as swept, and the page recorded as being written, with the
  copy of its data (R404). -/
  swept : Nat := 0
  copied : Option (Nat × List Byte) := none
  lost : Nat := 0
  firstLost : Nat := 0
  peer : List Byte := []
  /-- The head's serial number, session and command number of a forwarded command (R440). -/
  forwarded : Option (List Byte × Nat × Nat) := none
  status : Nat := 0
  completion : List Byte := []
  completedAt : Nat := 0
  /-- Completed, these of its sequences not advanced yet: an earlier command that appends to each is uncompleted (R253). -/
  owes : List Nat := []
  sent : Bool := false
  sentAt : Nat := 0
  deriving DecidableEq, Repr

/-- A series of journaled commands: a context's, or the device stream (R320, R321). -/
structure Stream where
  next : Nat := 1
  cmds : List Cmd := []
  lastCompleted : Nat := 0
  sentThrough : Nat := 0
  ackedThrough : Nat := 0
  deriving DecidableEq, Repr

/-! ## Contexts and sequences (R243 to R261, R328) -/

inductive CtxState where
  | free | open | loaded | active | resetting | quarantined
  deriving DecidableEq, Repr

structure Grant where
  quarters : Nat := 0
  storeBase : Nat := 0
  storeLength : Nat := 0
  sliceBase : Nat := 0
  sliceLength : Nat := 0
  ways : List Nat := [0, 0, 0, 0]
  padFirst : List Nat := [0, 0, 0, 0]
  padCount : List Nat := [0, 0, 0, 0]
  runs : List (Nat × Nat) := []
  runBlock : Nat := 0
  deriving DecidableEq, Repr

structure SeqArea where
  base : Nat
  capacity : Nat
  stride : Nat
  poolFirst : Nat
  poolCount : Nat
  deriving DecidableEq, Repr

/-- The authoritative sequence record and page list (R248). -/
structure SeqSlot where
  isOpen : Bool := false
  home : Nat := 0
  lanes : Nat := 0
  perPage : Nat := 0
  length : Nat := 0
  booked : Nat := 0
  limit : Nat := 0
  ring : Nat := 0
  pageRing : Nat := 0
  groups : Nat := 0
  stack : Nat := 0
  pc : Nat := 0
  recordCode : Nat := 0
  firstRow : Nat := 0
  layerStride : Nat := 0
  layers : Nat := 0
  tag : List Byte := [0, 0, 0, 0, 0, 0, 0, 0]
  lastAppender : Nat := 0
  list : Sparse Nat := []
  deriving DecidableEq, Repr

/-- A CTX.RESET whose engines are draining (R400). -/
structure Resetting where
  mode : Nat
  /-- The context was QUARANTINED: its commands end in either mode (R408). -/
  quarantined : Bool := false
  since : Nat
  session : Nat
  number : Nat
  /-- An engine was not IDLE 40 notches later: the reply has Value 1, and these core groups are in reset for it. -/
  late : Bool := false
  waits : List Nat := []
  replied : Bool := false
  deriving DecidableEq, Repr

/-- A span of this module pinned for a copy or migration of a peer (R443, R444), with the unit being received. -/
structure Pin where
  source : List Byte
  csn : Nat
  migrate : Bool
  destination : Nat
  length : Nat
  unit : Nat := 0
  buffer : List Byte := []
  moved : Nat := 0
  deriving DecidableEq, Repr

structure Context where
  state : CtxState := .free
  generation : Nat := 0
  stream : Stream := {}
  plans : List Plan := []
  grant : Grant := {}
  area : Option SeqArea := none
  seqs : Sparse SeqSlot := []
  reset : Option Resetting := none
  /-- Mode of a CTX.RESET taken in FAULTED, applied at the warm start (R387). -/
  pendingReset : Option Nat := none
  /-- Old engine tags still drain, and the restart waits for them (R398, R402). -/
  draining : Bool := false
  /-- The old tags have drained, and the restart follows those of lower contexts (R402). -/
  restartDue : Bool := false
  pins : List Pin := []
  migrating : Bool := false
  deriving DecidableEq, Repr

/-! ## Sessions and frames (R304 to R320) -/

structure KeptReply where
  number : Nat
  matchCode : Word
  /-- The reply's opcode, generation and payload; none while it has not been sent. -/
  reply : Option (Nat × Nat × List Byte)
  deriving DecidableEq, Repr

structure Session where
  isOpen : Bool := false
  context : Nat := 255
  management : Bool := false
  maxPayload : Nat := 8704
  idleTimeout : Nat := 0
  lastFrame : Nat := 0
  next : Nat := 1
  held : List (Frame × Nat) := []
  kept : List KeptReply := []
  slot : Nat := 0
  path : Path := { encap := .ethernet }
  openedOrder : Nat := 0
  /-- The command after whose reply it ends (R308, R453). -/
  endAfter : Option Nat := none
  /-- It ends at the end of the notch (R453). -/
  ending : Bool := false
  /-- The keys derived when it was opened (R456). -/
  tagKey : List Byte := []
  wrapKey : List Byte := []
  deriving DecidableEq, Repr

/-- What MACsec adds to a frame that leaves the port (R458): its channel, its association and its packet number. -/
structure SentTag where
  sci : Nat
  an : Nat
  pn : Nat
  deriving DecidableEq, Repr

/-- A frame the device hands to the port (R304). -/
structure OutFrame where
  kind : Nat
  opcode : Nat
  session : Nat
  context : Nat
  flags : Nat
  generation : Nat
  number : Nat
  payload : List Byte
  path : Path := { encap := .ethernet }
  version : Nat := 1
  reserved : Nat := 0
  tag : BitVec 128 := 0
  crc : BitVec 32 := 0
  /-- Checksum of the UDP datagram that carries it; 0 without one (R303). -/
  checksum : BitVec 16 := 0
  /-- The tag of the association that protects it (R458). -/
  secured : Option SentTag := none
  deriving DecidableEq, Repr

/-! ## The schedule (R58 to R62, R339 to R357, R372 to R378) -/

structure Booking where
  id : Nat
  context : Nat
  hoppers : Nat
  quarters : Nat
  shares : Nat
  draw : Nat
  period : Nat
  span : Nat
  count : Nat
  first : Nat
  lead : Nat
  /-- Slip when it was booked (R60). -/
  slip0 : Nat := 0
  /-- The occurrences that held a command when their lead began (R348). -/
  raised : List Nat := []
  /-- Where the booked interval of the last completed command of an occurrence ended, from the occurrence's start (R348). -/
  ends : Sparse Nat := []
  /-- Removed by RUN.UNBOOK: only these occurrences remain (R349). -/
  only : Option (List Nat) := none
  /-- The session and number of the RUN.BOOK that made it, until its DONE goes out: a booking exists from then on (R348). -/
  due : Option (Nat × Nat) := none
  deriving DecidableEq, Repr

/-- A tentative booking held for a head (R439). -/
structure Tentative where
  id : Nat
  key : List Byte × Nat × Nat
  context : Nat
  cmd : Cmd
  until_ : Nat
  deriving DecidableEq, Repr

structure Schedule where
  slip : Delay := {}
  /-- The slip that starts of the present notch have added (R137): what is placed at one notch starts together (R31). -/
  startSlip : Nat := 0
  fillers : List (Nat × Nat) := []
  bookings : List Booking := []
  nextBooking : Nat := 1
  tentative : List Tentative := []
  /-- Commands that ended before the end of their booked interval, whose rest stays booked (R340), with their contexts. -/
  spent : List (Nat × Cmd) := []
  nextTentative : Nat := 1
  deriving DecidableEq, Repr

/-- A journaled command whose record is on its way to the two copies (R312), with its stream (255 device stream) and
its reply's destination. -/
structure Staged where
  stream : Nat
  cmd : Cmd
  session : Nat
  number : Nat
  queuePosition : Nat := 0
  /-- Each slot it names, with the groups the slot keeps when this record is not written (R251). -/
  groupsBefore : List (Nat × Nat) := []
  answer : Bool := false
  deriving DecidableEq, Repr

/-- The effect of an immediate command that waits to be written to the journal copies, with the reply that follows it (R313):
session, command number, opcode, the payload of the reply, and how many records of commands were there before it. -/
structure Effect where
  session : Nat
  number : Nat
  opcode : Nat
  payload : List Byte
  behind : Nat := 0
  deriving DecidableEq, Repr

/-- A MEM.READ or MEM.WRITE waiting for unbooked bus time (R332). -/
structure Transfer where
  frame : Frame
  write : Bool
  address : Nat
  length : Nat
  deriving DecidableEq, Repr

/-- A command whose pages wait for the pieces that still use them before they are unmapped and its reply is sent
(R228). -/
structure UnmapWait where
  session : Nat
  number : Nat
  opcode : Nat
  pages : List Nat
  deriving DecidableEq, Repr

structure Journal where
  staging : List Staged := []
  effects : List Effect := []
  waitingSince : Nat := 0
  transfers : List Transfer := []
  /-- QUERN.MODE and MEM.SPLIT and CTX.CLOSE commands whose reply waits. -/
  modeReplies : List (Frame × Nat × Nat) := []
  /-- MEM.SPLIT commands at work, with the dies not yet split (R156). -/
  splitReplies : List (Frame × List Nat) := []
  closing : List (Frame × Nat) := []
  /-- Quern windows to enter again at S9 of a warm start: stack, pseudo-channel, context, first segment, count (R192). -/
  windows : List (Nat × Nat × Nat × Nat × Nat) := []
  /-- The segments of copy A and copy B (R312, R313). -/
  segments : List Nat := [248, 249, 250, 251, 1016, 1017, 1018, 1019]
  /-- Blocks of the copies that were found lost: what they held was written again elsewhere (R315). -/
  lostBlocks : List Nat := []
  /-- Writes of the device's own records to Millponds whose split is changed, oldest first: they follow the split (R156). -/
  lateWrites : List (Nat × List Byte) := []
  /-- PLAN.LOAD and CTX.RESTORE commands whose operand lies in a bank or a Millpond that is held (R156, R196). -/
  readWaits : List Frame := []
  unmapWaits : List UnmapWait := []
  deriving DecidableEq, Repr

/-! ## Power and heat (R358 to R381) -/

inductive DomainState where
  | off | waking | on
  deriving DecidableEq, Repr

structure Domain where
  state : DomainState := .off
  gated : Bool := false
  draw : Nat := 0
  wakeCount : Nat := 0
  byDoze : Bool := false
  /-- The notch in `uptime` in which its present state began, where the state is off or waking (R358). -/
  since : Nat := 0
  deriving DecidableEq, Repr

structure Spot where
  model : Word := 0
  cal : Word := 0
  excess : List Word := []
  faulted : Bool := false
  disagree : Bool := false
  governing : Word := 0
  difference : Nat := 0
  atTrip : Word := 0
  deriving DecidableEq, Repr

/-- The decisions of a round, in force from its notch 16 (R365). -/
structure Decisions where
  round : Nat
  /-- The notch from which the decisions hold. -/
  due : Nat
  pause : Nat
  ballast : Nat
  byTemperature : Bool
  byCap : Bool
  hold : Bool
  trip : Bool
  clearTrip : Bool
  /-- Cause and spot of a latch (R376). -/
  latch : Option (Nat × Nat)
  thermalCap : Nat
  /-- Governing temperature above 105 °C, of each stack and of each die's Bedstone layers (R138, R173). -/
  hotStacks : List Nat
  hotDies : List Nat
  stackBands : List (Nat × Nat)
  layerBands : List (List (Nat × Nat))
  halfDuty : List Nat
  gateOff : List Nat
  gateOn : List Nat
  deriving DecidableEq, Repr

structure Power where
  domains : Sparse Domain := []
  trouble : Word := 0
  thermalCap : Nat := 2400
  theta : Option Word := none
  voltage : Word := 0
  current : Word := 0
  draw : Nat := 0
  inlet : Word := 0
  outlet : Word := 0
  pressure : Word := 0
  flow : Nat := 0
  spots : Sparse Spot := []
  hottest : Nat := 0
  flowLowRounds : Nat := 0
  flowDisagreeRounds : Nat := 0
  flowTest : Bool := false
  rateTests : List Nat := []
  trip : Bool := false
  /-- The notch at whose end the trip stops issue (R377), in `uptime`. -/
  tripAt : Nat := 0
  goodRounds : Nat := 0
  decisions : Option Decisions := none
  /-- A pause in force: its last notch, none when it has no set end. -/
  pausing : Bool := false
  pauseUntil : Option Nat := none
  hotHold : Bool := false
  lowInput : Bool := false
  pauseCount : Nat := 0
  autoMask : Nat := 0
  hostCap : Nat := 2400
  idleThreshold : Nat := 1048576
  latchCause : Nat := 0
  latchSpot : Nat := 0
  rounds : Nat := 0
  /-- `worked` at the last round's sample. -/
  workedAt : Nat := 0
  lastRound : Option Nat := none
  /-- The notch, in `uptime`, in which a step of the wheel or TIME.SET passed over the first notch of a round (R365). -/
  steppedAt : Option Nat := none
  pauseNow : Nat := 0
  waking : Bool := false
  /-- POWER.DOZE commands accepted: session, number, domains that stay on, and whether the reply has gone out (R363). -/
  dozeDue : List (Nat × Nat × List Nat × Bool) := []
  /-- What the coolant monitor shows of the last round, bit 0 of its status clear (R480). -/
  monitored : List Byte := []
  deriving DecidableEq, Repr

/-! ## Starts, defects and recovery (R382 to R429, R495) -/

inductive DeviceState where
  | off | staging | ready | running | doze | degraded | faulted | latched
  deriving DecidableEq, Repr

/-- A field defect list record (R418). -/
structure Defect where
  kind : Nat
  source : Nat
  object : Nat
  index : Nat
  count : Nat := 1
  deriving DecidableEq, Repr

/-- A copy of the field defect list in module flash (R418). -/
structure ListCopy where
  sequence : Nat := 0
  records : List Defect := []
  deriving DecidableEq, Repr

structure Device where
  state : DeviceState := .staging
  /-- The state DOZE was entered from (R364). -/
  wakeTo : DeviceState := .ready
  stage : Nat := 0
  warm : Bool := false
  quiescing : Bool := false
  outcome : Nat := 0
  readiness : Nat := 0
  readinessStage : Nat := 0
  readinessDetail : Nat := 0
  startTrouble : Word := 0
  /-- Word `w` of stage `s` under key `16 * s + w`. -/
  reports : Sparse Word := []
  /-- The pages that the report of the last warm start lists as lost (R157). -/
  lostPages : List Nat := []
  coldStarts : Nat := Config.coldStartsBefore + 1
  warmStarts : Nat := Config.warmStartsBefore
  warmAt : List Nat := []
  trouble : Word := 0
  autoWarm : Bool := true
  replay : Bool := true
  faultHold : Nat := 64
  recoveryLevel : Nat := 4
  recoveryCause : Nat := 0
  recoveryObject : Nat := 0
  staleDropped : Nat := 0
  cores : Nat := 0
  lanes : Nat := 0
  revisions : List Nat := []
  /-- What the present start, or the last cold one, found of the package (R424): the dies' fused identifiers, the digest of the fuse
  maps, the stacks' identities and the digest of the calibration. -/
  dieIds : List (List Byte) := []
  fuseDigest : List Byte := []
  stackIds : List (List Byte) := []
  calibrationDigest : List Byte := []
  /-- The calibration record in module flash (R459). -/
  calibration : List Byte := calibrationBytes
  /-- The module serial number in the identity EEPROM (R11, R478). -/
  serial : List Byte := serialNumber
  records : List Exchange := []
  protocol : Nat := 0
  level : Nat := 0
  disabled : BitVec 64 := 0
  /-- Physical cores of the logical cores that exist (R18). -/
  map : Sparse Nat := []
  fusedCores : List Nat := []
  fusedLanes : List (Nat × Nat) := []
  fusedRows : List (Nat × Nat × Nat) := []
  fusedLinkLanes : List (Nat × Nat × Nat × Nat) := []
  badCores : List Nat := []
  badLanes : List (Nat × Nat) := []
  defects : List Defect := []
  /-- The list's two copies in module flash (R418). -/
  listA : ListCopy := {}
  listB : ListCopy := {}
  onlyThisStart : List Defect := []
  listSequence : Nat := 0
  clearAuthorised : Bool := false
  faultedAt : Nat := 0
  /-- A warm start may leave FAULTED by itself (R388, R425). -/
  mayWarm : Bool := true
  /-- Cause of the present start (R386), 0 for power-on, and when the start and its present stage began, in `uptime`. -/
  startCause : Nat := 0
  startedAt : Nat := 0
  stageAt : Nat := 0
  /-- Core groups in reset: group, when it began in `uptime`, and the core whose stop led to it. -/
  groupResets : List (Nat × Nat × Nat) := []
  /-- Dies in reset: die, when it began, cause. -/
  dieResets : List (Nat × Nat × Nat) := []
  /-- Dies in reset whose traffic is turned round, from the end of the notch in which the reset began (R299). -/
  diverted : List Nat := []
  /-- The packets from die `a` to die `b` under 5 × a + b, the Sluice die being 4. -/
  pairs : List Pair := List.replicate 25 {}
  /-- Mesh flits that have crossed a link and wait on a die on their way: die, content and packet. -/
  transit : List (Nat × BitVec 512 × Packet) := []
  /-- The last die reset of each die that convicted nobody, in `uptime`. -/
  lastDieReset : List (Nat × Nat) := []
  /-- Contexts whose restart waits for the end of a core-group reset (R402). -/
  affected : List Nat := []
  suspects : List Nat := []
  replaying : Option Nat := none
  /-- FAULTED was entered under code 5 or 6: the next warm start makes suspects (R388). -/
  suspectsAtWarm : Bool := false
  /-- The identity EEPROM's CRC held at S1 (R479). -/
  eepromOk : Bool := true
  portUp : Bool := false
  portWidth : Nat := 3
  medium : Nat := 0
  /-- The widest application of the fitted medium, coded as the port's width, and whether it offers the one on lane 0 (R482, R483). -/
  mediumWidth : Nat := 3
  lane0 : Bool := false
  negotiated : Bool := false
  testMode : Bool := false
  /-- Writes of the present notch, address and value, in their order: they take effect with the next (R492). -/
  regWrites : List (Nat × Nat) := []
  deriving DecidableEq, Repr

/-- A log record (R395). -/
structure LogRecord where
  number : Nat
  notch : Nat
  kind : Nat
  scope : Nat
  object : Nat
  context : Nat
  cause : Nat
  generation : Nat
  csn : Nat
  address : Nat
  valueA : Nat
  valueB : Nat
  deriving DecidableEq, Repr

/-! ## Port, fabric and cascade (R430 to R444, R484) -/

structure Port where
  trouble : Word := 0
  udpPort : Nat := 47310
  dropped : Nat := 0
  droppedSince : Nat := 0
  fecCorrected : Nat := 0
  fecUncorrected : Nat := 0
  unprotected : Nat := 0
  fabricDropped : Nat := 0
  deriving DecidableEq, Repr

structure Route where
  beacon : Option Beacon := none
  heardAt : Nat := 0
  deriving DecidableEq, Repr

/-- A CASCADE.RUN at the head (R439). -/
structure CascadeRun where
  frame : Frame
  /-- Serial numbers of its candidates and of the one chosen: a command binds to them when it is accepted (R435). -/
  members : List (List Byte)
  answers : List Answer
  chosen : Option (List Byte)
  committedAt : Nat
  deriving DecidableEq, Repr

structure Fabric where
  /-- The addresses in effect, and those that module flash keeps: they take effect at S1 of a start (R430). -/
  ipv4 : BitVec 32 := 0
  ipv6 : BitVec 128 := 0
  flashIpv4 : BitVec 32 := 0
  flashIpv6 : BitVec 128 := 0
  member : Bool := false
  id : Nat := 0
  preferred : Nat := 0xFFFF
  vlan : Nat := 0
  key : List Byte := []
  address : Nat := 0
  /-- 0 tentative, 1 held, 2 none. -/
  claim : Nat := 2
  claimBeacons : Nat := 0
  /-- The number of the last beacon, and when it was sent since the module joined or started. -/
  beacons : Nat := 0
  lastBeacon : Option Nat := none
  routes : Sparse Route := []
  role : Nat := 0
  domain : Nat := 0
  head : Nat := 0xFFFF
  headSerial : List Byte := []
  mask : BitVec 64 := 0
  /-- When the head sent its last Sync, in `uptime` (R437). -/
  syncSent : Option Nat := none
  runs : List CascadeRun := []
  kept : List (List Byte × Nat × Nat × Answer) := []
  /-- FABRIC.COPY and FABRIC.MIGRATE commands whose destination check is not answered yet, with the peer's serial. -/
  checks : List (Frame × List Byte) := []
  deriving DecidableEq, Repr

/-- What a frame between modules says (R431, R433, R439, R440, R443). -/
inductive FabricMsg where
  | beacon (b : Beacon)
  | probe (m : Forward)
  | probeAnswer (a : Answer)
  | commit (m : Forward) (release : Bool)
  | commitAnswer (a : Answer)
  | copy (m : CopyMsg)
  | check (m : CopyMsg)
  | copyAck (context csn page : Nat) (check ok : Bool)
  deriving DecidableEq, Repr

/-- A frame between modules, of EtherType 0x88B6 (R431), as its message and as it is formed; an ARP or Neighbor Discovery answer, or
a PTP message the device sends. -/
inductive WireFrame where
  | fabric (m : FabricMsg) (f : OutFrame)
  | arpReply (target : BitVec 32)
  | neighborAdvertisement (target : BitVec 128)
  | ptpSync (domain position : Nat) (logInterval : Int) (oneStep : Bool)
  | ptpAnnounce (domain : Nat) (logInterval : Int)
  | secured (t : SentTag) (w : WireFrame)
  deriving DecidableEq, Repr

/-! ## Security (R445 to R459) -/

/-- A firmware slot: the bytes written since it was erased (R447, R452). -/
structure FwSlot where
  image : List Byte := []
  deriving DecidableEq, Repr

/-- A challenge that the device holds: its bytes, the private number of the ephemeral key given with it, and when, in `uptime`
(R454). -/
structure Challenge where
  bytes : List Byte
  secret : Nat
  given : Nat
  deriving DecidableEq, Repr

structure Operator where
  used : Bool := false
  ceiling : Nat := 0
  mask : BitVec 64 := 0
  key : List Byte := []
  deriving DecidableEq, Repr

/-- A copy of the operator table in module flash (R453). -/
structure TableCopy where
  sequence : Nat := 0
  slots : Sparse Operator := []
  deriving DecidableEq, Repr

/-- A MACsec association (R458). Of a receiving one, `lowest` is the lowest packet number it still takes, and `nextPn` one more than
the highest it has taken. -/
structure SecAssoc where
  receive : Bool
  an : Nat
  sci : Nat
  ssci : Nat
  salt : List Byte
  window : Nat
  nextPn : Nat
  lowest : Nat := 0
  key : List Byte
  deriving DecidableEq, Repr

structure Security where
  slotA : FwSlot := { image := factoryImage 0 }
  slotB : FwSlot := { image := factoryImage 1 }
  running : Nat := 0
  /-- The image that runs, as PD79 and the Sluice SRAM keep it (R448, R450), and whether the test connector loaded it. -/
  kept : List Byte := []
  testImage : Bool := false
  /-- SHA-384 of the running image's body, as S1 of a cold start recorded it (R448). -/
  bodyDigest : Option (List Byte) := none
  /-- Fused digests of the firmware key and the factory key; the factory key, the Last and the identity certificate in module flash
  (R423, R445, R446). -/
  firmwareKeyDigest : List Byte := sha384 firmwareKeyBytes
  factoryKeyDigest : List Byte := sha384 factoryKeyBytes
  factoryKey : List Byte := factoryKeyBytes
  last : List Byte := factoryLast
  /-- The Last as the last cold start verified it (R413, R424). -/
  verifiedLast : List Byte := []
  certificate : List Byte := factoryCertificate
  /-- The private number of the device identity key, and the storage key (R445). -/
  dik : Nat := factoryDik
  storageKey : List Byte := opaqueBytes 32 Config.storageKey
  rollback : Nat := 0
  staged : Nat := 0
  writePosition : Nat := 0
  reason : Nat := 0
  /-- Bytes in the program buffer when the last write was taken, and when that was. -/
  programBuffer : Nat := 0
  programAt : Nat := 0
  operators : Sparse Operator := []
  operatorSequence : Nat := 0
  /-- The operator table's two copies in module flash (R453). -/
  tableA : TableCopy := {}
  tableB : TableCopy := {}
  hellos : Nat := 0
  /-- The housekeeping round of the last HELLO answered, and how many it has answered (R454). -/
  helloRound : Nat := 0
  hellosThisRound : Nat := 0
  /-- Challenges the device holds, newest first (R454). -/
  challenges : List Challenge := []
  macsec : Bool := false
  required : Bool := false
  /-- Require as FW.MACSEC commands have set it whose replies are still to be sent: session, command number, value (R458). -/
  requireDue : List (Nat × Nat × Bool) := []
  assocs : List SecAssoc := []
  deriving DecidableEq, Repr

/-! ## Injections (R460 to R469) -/

structure Injection where
  number : Nat
  /-- 1 link, 2 port, 3 memory. -/
  verb : Nat
  action : Nat
  link : Nat := 0
  bundle : Nat := 0
  direction : Nat := 0
  lane : Nat := 0
  depth : Nat := 0
  context : Nat := 255
  kinds : Nat := 0
  session : Nat := 0
  address : Nat := 0
  skip : Nat := 0
  every : Nat := 1
  seen : Nat := 0
  left : Nat := 0
  hits : Nat := 0
  armedAt : Nat := 0
  armed : Bool := true
  /-- The data bit of an INJECT.ECC, which is armed until it plants its pattern (R466). -/
  position : Nat := 0
  /-- The number of the command that armed it, until its reply is sent: it acts from the notch after (R461). -/
  waiting : Option Nat := none
  /-- Held frames of a reorder, with the matching frames still to pass and when they were held. -/
  heldIn : List (Frame × Nat × Nat) := []
  heldOut : List (OutFrame × Nat × Nat) := []
  deriving DecidableEq, Repr

/-! ## The whole device -/

structure Pins where
  pwrEn : Bool := true
  precharging : Bool := false
  closed : Bool := true
  /-- When PD79 last lost power. -/
  offAt : Nat := 0
  thermtrip : Bool := false
  ppsOut : Bool := false
  ppsOutRose : Nat := 0
  inputLow : Bool := false
  /-- P3V3_AUX as the last transfer on the I²C pair found it, and whether a target acknowledged it (R471, R478). -/
  aux : Bool := true
  i2cAck : Bool := false
  deriving DecidableEq, Repr

structure State where
  /-- The commands that are waiting, first in, first out: the model's own queue. -/
  pending : List Instr := []
  /-- Notches that have passed, whatever the wheel was set to: the model's own clock for durations. -/
  uptime : Nat := 0
  /-- Of those, the notches in which no pause held the schedule (R372). -/
  worked : Nat := 0
  /-- Trouble bits set in the present notch, register address and bit: a clear taken in it leaves them (R492). -/
  freshTrouble : List (Nat × Nat) := []
  /-- Counts the free choices taken: the model's own field (assumption log 3). -/
  free : Nat := 0
  dev : Device := {}
  wheel : Wheel := {}
  port : Port := {}
  power : Power := {}
  pins : Pins := {}
  mem : List Host.Cell := []
  damage : Sparse DamageMark := []
  cores : Sparse Core := []
  ponds : Sparse Millpond := []
  memStacks : Sparse Stack := []
  /-- Corrected errors of each Bedstone row during this start (R133), by the row's number in Machine/Memory.lean. -/
  rowErrors : Sparse Nat := []
  /-- Code of each device segment, 0 NONE, 1 LIGHT, 2 STRONG, plus 4 when the segment is retired (R162, R181). -/
  segCodes : Sparse Nat := []
  pages : Sparse Page := []
  links : Sparse Link := []
  hoppers : Sparse Hopper := []
  contexts : Sparse Context := []
  devStream : Stream := {}
  sessions : Sparse Session := []
  nextSession : Nat := 1
  schedule : Schedule := {}
  journal : Journal := {}
  log : List LogRecord := []
  logNext : Nat := 1
  fabric : Fabric := {}
  sec : Security := {}
  injections : List Injection := []
  nextInjection : Nat := 1
  /-- Device frames handed to the port, oldest first: the model's own trace of what left it. -/
  out : List OutFrame := []
  wire : List WireFrame := []
  /-- The bytes the last I²C read returned (R478, R480). -/
  i2c : List Byte := []
  monitor : List Byte := []
  deriving DecidableEq, Repr

/-- The device as a cold start begins at S0: the "After cold start" column of every register table. -/
def State.reset : State := {}

end Sys2Proof.Machine
end

