-- ==== Sys2Proof/Machine/Sparse.lean ====
section
/-! DEFINITION. Families of the device's parts in one canonical form: keys strictly rising, no entry equal to the
family's reset entry. A write of the reset entry removes the key, so that equal families are equal data. -/

namespace Sys2Proof.Machine

variable {β : Type}

/-- The listed entry of key `k`, or the family's reset entry `d`. -/
def sget (d : β) : Sparse β → Nat → β
  | [], _ => d
  | (a, x) :: r, k => if a = k then x else sget d r k

def sins : Sparse β → Nat → β → Sparse β
  | [], k, v => [(k, v)]
  | (a, x) :: r, k, v => if k < a then (k, v) :: (a, x) :: r else if k = a then (k, v) :: r else (a, x) :: sins r k v

def sdel : Sparse β → Nat → Sparse β
  | [], _ => []
  | (a, x) :: r, k => if a = k then r else (a, x) :: sdel r k

/-- Key `k` set to `v`, in canonical form. -/
def sput [DecidableEq β] (d : β) (m : Sparse β) (k : Nat) (v : β) : Sparse β :=
  if v = d then sdel m k else sins m k v

/-- Key `k` changed by `f`. -/
def smod [DecidableEq β] (d : β) (m : Sparse β) (k : Nat) (f : β → β) : Sparse β :=
  sput d m k (f (sget d m k))

/-- The canonical form: keys strictly rising, no entry equal to the reset entry. -/
def swf [DecidableEq β] (d : β) : Sparse β → Bool
  | [] => true
  | [(_, x)] => decide (x ≠ d)
  | (a, x) :: (b, y) :: r => decide (a < b) && decide (x ≠ d) && swf d ((b, y) :: r)

/-- Every entry removed whose key fails `p`. -/
def sfilter (p : Nat → Bool) (m : Sparse β) : Sparse β := m.filter fun e => p e.1

/-- Every listed entry changed by `f`; entries that reach the reset entry go. -/
def smap [DecidableEq β] (d : β) (f : Nat → β → β) (m : Sparse β) : Sparse β :=
  (m.map fun e => (e.1, f e.1 e.2)).filter fun e => decide (e.2 ≠ d)

end Sys2Proof.Machine
end

