-- ==== Sys2Proof/Machine/Memory.lean ====
section
/-! DEFINITION. The memory of the device as one list of (key, byte) pairs in canonical form, and the accessors of the
state's families.

Keys: a device address (R22) is its own key; core-local address x of physical core p (R64) has key 2^41 + p × 2^32 + x.
A byte that nothing has written reads as 0 (R157, R166). -/

namespace Sys2Proof.Machine

/-- What an unlisted key reads as. -/
def unwritten : Byte := 0

/-- The canonical form of memory: keys strictly rising, no listed byte equal to what an unlisted one reads as. -/
def Memory.wf (m : List Host.Cell) : Bool := swf unwritten m

def memGet (m : List Host.Cell) (k : Nat) : Byte := sget unwritten m k

def memPut (m : List Host.Cell) (k : Nat) (b : Byte) : List Host.Cell := sput unwritten m k b

/-- The `n` bytes from key `k`. -/
def memRead (m : List Host.Cell) (k n : Nat) : List Byte := (List.range n).map fun i => memGet m (k + i)

/-- Bytes written from key `k` on. -/
def memWrite (m : List Host.Cell) (k : Nat) : List Byte → List Host.Cell
  | [] => m
  | b :: r => memWrite (memPut m k b) (k + 1) r

/-- The `n` bytes from key `k` made zero. -/
def memClear (m : List Host.Cell) (k n : Nat) : List Host.Cell := sfilter (fun a => !(k ≤ a && a < k + n)) m

/-- The key of core-local address `x` of physical core `p`. -/
def localKey (p x : Nat) : Nat := 2 ^ 41 + 2 ^ 32 * p + x

/-- The key under which damage of a cached line's granule is marked (R153). -/
def cacheKey (a : Nat) : Nat := 2 ^ 50 + a

def State.readKey (s : State) (k n : Nat) : List Byte := memRead s.mem k n
def State.writeKey (s : State) (k : Nat) (l : List Byte) : State := { s with mem := memWrite s.mem k l }
def State.clearKey (s : State) (k n : Nat) : State :=
  { s with mem := memClear s.mem k n, damage := sfilter (fun a => !(k ≤ a && a < k + n)) s.damage }

/-! ## The families of the state -/

def State.core (s : State) (p : Nat) : Core := sget {} s.cores p
def State.setCore (s : State) (p : Nat) (c : Core) : State := { s with cores := sput {} s.cores p c }
def State.modCore (s : State) (p : Nat) (f : Core → Core) : State := s.setCore p (f (s.core p))
def Core.channel (c : Core) (i : Nat) : Channel := sget {} c.channels i
def Core.setChannel (c : Core) (i : Nat) (h : Channel) : Core := { c with channels := sput {} c.channels i h }
def State.modChannel (s : State) (p i : Nat) (f : Channel → Channel) : State :=
  s.modCore p fun c => c.setChannel i (f (c.channel i))
def Core.tile (c : Core) (t : Nat) : Tile := sget {} c.tiles t
def Core.setTile (c : Core) (t : Nat) (v : Tile) : Core := { c with tiles := sput {} c.tiles t v }

def State.pond (s : State) (d : Nat) : Millpond := sget {} s.ponds d
def State.setPond (s : State) (d : Nat) (v : Millpond) : State := { s with ponds := sput {} s.ponds d v }
def State.modPond (s : State) (d : Nat) (f : Millpond → Millpond) : State := s.setPond d (f (s.pond d))

def State.stack (s : State) (k : Nat) : Stack := sget {} s.memStacks k
def State.setStack (s : State) (k : Nat) (v : Stack) : State := { s with memStacks := sput {} s.memStacks k v }
def State.modStack (s : State) (k : Nat) (f : Stack → Stack) : State := s.setStack k (f (s.stack k))
def Stack.pc (k : Stack) (p : Nat) : PseudoChannel := sget {} k.pcs p
def Stack.setPc (k : Stack) (p : Nat) (v : PseudoChannel) : Stack := { k with pcs := sput {} k.pcs p v }
def State.pseudo (s : State) (k p : Nat) : PseudoChannel := (s.stack k).pc p
def State.modPseudo (s : State) (k p : Nat) (f : PseudoChannel → PseudoChannel) : State :=
  s.modStack k fun t => t.setPc p (f (t.pc p))

def State.link (s : State) (i : Nat) : Link := sget {} s.links i
def State.setLink (s : State) (i : Nat) (v : Link) : State := { s with links := sput {} s.links i v }
def State.modLink (s : State) (i : Nat) (f : Link → Link) : State := s.setLink i (f (s.link i))

def State.hopper (s : State) (h : Nat) : Hopper := sget {} s.hoppers h
def State.setHopper (s : State) (h : Nat) (v : Hopper) : State := { s with hoppers := sput {} s.hoppers h v }
def State.modHopper (s : State) (h : Nat) (f : Hopper → Hopper) : State := s.setHopper h (f (s.hopper h))

def State.context (s : State) (c : Nat) : Context := sget {} s.contexts c
def State.setContext (s : State) (c : Nat) (v : Context) : State := { s with contexts := sput {} s.contexts c v }
def State.modContext (s : State) (c : Nat) (f : Context → Context) : State := s.setContext c (f (s.context c))

def State.session (s : State) (i : Nat) : Session := sget {} s.sessions i
def State.setSession (s : State) (i : Nat) (v : Session) : State := { s with sessions := sput {} s.sessions i v }
def State.modSession (s : State) (i : Nat) (f : Session → Session) : State := s.setSession i (f (s.session i))

def State.page (s : State) (g : Nat) : Page := sget {} s.pages g
def State.setPage (s : State) (g : Nat) (v : Page) : State := { s with pages := sput {} s.pages g v }

def State.domain (s : State) (k : Nat) : Domain := sget {} s.power.domains k
def State.setDomain (s : State) (k : Nat) (v : Domain) : State :=
  { s with power := { s.power with domains := sput {} s.power.domains k v } }
def State.modDomain (s : State) (k : Nat) (f : Domain → Domain) : State := s.setDomain k (f (s.domain k))

def State.modPower (s : State) (f : Power → Power) : State := { s with power := f s.power }
def State.modDev (s : State) (f : Device → Device) : State := { s with dev := f s.dev }
def State.modWheel (s : State) (f : Wheel → Wheel) : State := { s with wheel := f s.wheel }
def State.modSchedule (s : State) (f : Schedule → Schedule) : State := { s with schedule := f s.schedule }
def State.modJournal (s : State) (f : Journal → Journal) : State := { s with journal := f s.journal }
def State.modFabric (s : State) (f : Fabric → Fabric) : State := { s with fabric := f s.fabric }
def State.modSec (s : State) (f : Security → Security) : State := { s with sec := f s.sec }
def State.modPort (s : State) (f : Port → Port) : State := { s with port := f s.port }

/-- The series of journaled commands of a context, or of the device stream under 255 (R321). -/
def State.stream (s : State) (c : Nat) : Stream := if c = 255 then s.devStream else (s.context c).stream
def State.setStream (s : State) (c : Nat) (v : Stream) : State :=
  if c = 255 then { s with devStream := v } else s.modContext c fun x => { x with stream := v }
def State.modStream (s : State) (c : Nat) (f : Stream → Stream) : State := s.setStream c (f (s.stream c))

/-- The command of a series with a CSN. -/
def State.cmd (s : State) (c csn : Nat) : Option Cmd := (s.stream c).cmds.find? (·.csn == csn)
def State.modCmd (s : State) (c csn : Nat) (f : Cmd → Cmd) : State :=
  s.modStream c fun t => { t with cmds := t.cmds.map fun x => if x.csn = csn then f x else x }

/-- The present notch (R7). -/
def State.now (s : State) : Nat := s.wheel.position

/-! ## Shape and numbering (R17, R18, R49) -/

/-- The physical core of a logical core, 256 where there is none: the registers show 0xFF then, which is also physical core 255. -/
def State.physical (s : State) (c : Nat) : Nat := if c < 240 then sget 256 s.dev.map c else 256

def State.logicalExists (s : State) (c : Nat) : Bool := s.physical c != 256

/-- The logical core of a physical core, 0xFF where there is none (R496). -/
def State.logicalOf (s : State) (p : Nat) : Nat :=
  ((List.range 240).find? fun c => s.physical c == p).getD 0xFF

def dieOfCore (p : Nat) : Nat := p / 64

/-- The router position of a physical core (R17). -/
def routerOf (p : Nat) : Nat :=
  let d := p / 64
  let l := p % 64
  16 * (d / 2 * 8 + l / 8) + (d % 2 * 8 + l % 8)

/-- The present shape code (R49, R421). -/
def State.shape (s : State) : Nat := 0x08000000 + 0x10000 * s.dev.cores + s.dev.lanes * 0x100

/-- The logical cores of a mask of quarters (R51): quarter q holds 15 cores of die q / 4. -/
def quarterCores (mask : Nat) : List Nat := (List.range 240).filter fun c => bit mask (c / 15)

/-- Whether stage `n` of the present start has passed (R493). -/
def State.stagePassed (s : State) (n : Nat) : Bool := n < s.dev.stage

/-- Whether a power domain is on. -/
def State.isOn (s : State) (k : Nat) : Bool := k = 79 || (s.domain k).state = .on

/-! ## The device address map (R22, R23, R139, R162, R163) -/

def stackOf (a : Nat) : Nat := a / 2 ^ 37
def segmentOf (a : Nat) : Nat := a / 2 ^ 30
def homeDie (a : Nat) : Nat := a / 2 ^ 38
def isExternal (a : Nat) : Bool := a < 2 ^ 40

/-- The code of a segment: 0 NONE, 1 LIGHT, 2 STRONG; STRONG after a cold start (R166). -/
def State.segCode (s : State) (g : Nat) : Nat := sget 2 s.segCodes g % 4
def State.segRetired (s : State) (g : Nat) : Bool := 4 ≤ sget 2 s.segCodes g
def State.setSegCode (s : State) (g c : Nat) : State :=
  { s with segCodes := sput 2 s.segCodes g (c + (if s.segRetired g then 4 else 0)) }
def State.markSegRetired (s : State) (g : Nat) : State :=
  { s with segCodes := sput 2 s.segCodes g (s.segCode g + 4) }

/-- Usable bytes of a segment under a code. -/
def usableBytes (code : Nat) : Nat := if code = 2 then 0x38000000 else if code = 1 then 0x3E000000 else 0x40000000

/-- Whether an external address lies in the carved part of its segment (R163). -/
def State.carved (s : State) (a : Nat) : Bool := decide (usableBytes (s.segCode (segmentOf a)) ≤ a % 2 ^ 30)

def scratchBase (d : Nat) : Nat := 2 ^ 40 + 2 ^ 30 * d
def scratchDie (a : Nat) : Nat := a / 2 ^ 30 % 1024
def isScratchWindow (a : Nat) : Bool := decide (2 ^ 40 ≤ a ∧ a < 2 ^ 40 + 2 ^ 32)
def State.scratchSize (s : State) (d : Nat) : Nat := 2 ^ 26 * (s.pond d).steps
/-- The table region: the first 32 MiB of a die's scratchpad part (R140). -/
def tableBytes : Nat := 2 ^ 25

/-- Where a device address lies. -/
inductive Place where
  | stack (k : Nat)
  | table (d : Nat)
  | scratch (d : Nat)
  | unmapped
  deriving DecidableEq, Repr

/-- The place of a device address; a carved address is unmapped (R22, R23, R163). -/
def State.place (s : State) (a : Nat) : Place :=
  if isExternal a then (if s.carved a then .unmapped else .stack (stackOf a))
  else if isScratchWindow a then
    if a % 2 ^ 30 < tableBytes then .table (scratchDie a)
    else if a % 2 ^ 30 < s.scratchSize (scratchDie a) then .scratch (scratchDie a)
    else .unmapped
  else .unmapped

/-- The first unmapped address of a range, when it has one. The carving and the windows change only at multiples of
64 KiB, so the first byte of the range and of each page decide. -/
def State.firstUnmapped (s : State) (a n : Nat) : Option Nat :=
  (a :: (List.range (n / 65536 + 1)).map fun i => 65536 * (a / 65536 + i + 1)).find? fun x =>
    decide (x < a + n) && s.place x == .unmapped

/-- The stacks a range touches. -/
def stacksOf (a n : Nat) : List Nat :=
  if n = 0 then [] else (List.range 8).filter fun k => overlaps a n (2 ^ 37 * k) (2 ^ 37)

/-- The pseudo-channel of an external address (R161) and its bank field (R160). -/
def pseudoOf (a : Nat) : Nat := bits a 13 8 ^^^ bits a 27 22
def bankOf (a : Nat) : Nat := bits a 21 16
def rowOf (a : Nat) : Nat := bits a 36 22

/-- The address of `x` bytes into bank `b` of row `r` of a pseudo-channel (R160, R161). -/
def rowAddress (k p r b x : Nat) : Nat :=
  2 ^ 37 * k + 2 ^ 22 * r + 2 ^ 16 * b + 2 ^ 14 * (x / 256) + 2 ^ 8 * (p ^^^ (r % 64)) + x % 256

/-! ## The Page Frame Table (R140, R142, R254 to R256) -/

def State.pageCarved (s : State) (g : Nat) : Bool := s.carved (65536 * g)

/-- An accepted SEG.RECODE that has not completed. -/
def Cmd.recodes (m : Cmd) : Bool := m.opcode == 0x0801 && m.phase != .completed

def State.recodes (s : State) : List (Nat × Cmd) :=
  ((255, s.devStream) :: s.contexts.map fun e => (e.1, e.2.stream)).flatMap fun (c, t) => (t.cmds.filter Cmd.recodes).map (c, ·)

/-- Whether a SEG.RECODE, accepted or on its way to the journal, will carve a page: the page is never mapped (R256; DEDUCED,
assumption log 40). -/
def State.willCarve (s : State) (g : Nat) : Bool :=
  (s.recodes.map (·.2) ++ (s.journal.staging.map (·.cmd)).filter Cmd.recodes).any fun m =>
    decide (m.address + m.progress ≤ g / 16384 ∧ g / 16384 < m.address + m.count ∧ usableBytes m.value ≤ 65536 * (g % 16384))

/-- BARRED: retired, retire-pending and unmapped, carved, about to be carved, or in a retired segment. -/
def State.pageBarred (s : State) (g : Nat) : Bool :=
  let p := s.page g
  !p.mapped && (p.retired || p.pending || s.pageCarved g || s.willCarve g || s.segRetired (g / 16384))

/-- The 8 bytes of a page's table entry (R254). -/
def State.pageEntry (s : State) (g : Nat) : List Byte :=
  let p := s.page g
  let state := if p.mapped then (if p.pending then 2 else 1) else if s.pageBarred g then 3 else 0
  leBytes 8 (state + (if p.mapped then bnat p.shared * 4 + p.context * 16 + 1024 * p.use +
    (if p.use = 1 then 2 ^ 16 * p.slot + 2 ^ 32 * p.index else 0) else 0) + 2 ^ 56 * p.mapCount)

/-- A byte of the device address space as stored; the table region is computed from the page records (R140, R142). -/
def State.byteRaw (s : State) (a : Nat) : Byte :=
  match s.place a with
  | .table d => byteAt (s.pageEntry (4194304 * d + a % 2 ^ 30 / 8)) (a % 8)
  | _ => memGet s.mem a

def State.readRaw (s : State) (a n : Nat) : List Byte := (List.range n).map fun i => s.byteRaw (a + i)

/-! ## Core-local addresses (R64) and Bedstone rows (R124, R133) -/

inductive LocalPlace where
  | store | slice | program | unmapped
  deriving DecidableEq, Repr

def localPlace (x : Nat) : LocalPlace :=
  if x < 0x400000 then .store
  else if 0x10000000 ≤ x ∧ x < 0x12E00000 then .slice
  else if 0x12E00000 ≤ x ∧ x < 0x13000000 then .program
  else .unmapped

/-- The 64 KiB parts of the core store and the slice a range must lie in wholly. -/
def localRange (x n : Nat) : LocalPlace :=
  if n = 0 then localPlace x else if localPlace x = localPlace (x + n - 1) then localPlace x else .unmapped

/-- The defect record fields of a slice row: bank (channel × 16 + bank) and row (R124, R418). -/
def sliceRow (x : Nat) : Nat :=
  let o := x % 0x10000000
  bits o 9 6 * 16 + bits o 13 10 + bits o 25 19 * 256

/-- The row of a Millpond address: line `n` lies in channel `n mod 128` (R125); within the channel the banks follow in line order,
eight lines to a row of 2 KiB. A record's bank field is too narrow for channel and bank: it holds the channel, and the bank stands
in the lowest 4 bits of its row field (PRESUMED, assumption log 9). -/
def millpondRow (off : Nat) : Nat :=
  let line := off / 256 / 128
  off / 256 % 128 + 256 * (line % 16 + 16 * (line / 128))

end Sys2Proof.Machine
end

