-- ==== Sys2Proof/Machine/Ops.lean ====
section
/-! DEFINITION. The operations every command shares: the log, trouble bits, field defects, retirement, and reads and
writes of every memory with its error protection (R80, R128 to R131, R153, R165 to R171). -/

namespace Sys2Proof.Machine

/-! ## The log (R393 to R396) -/

/-- What a log record says beside its number and notch. -/
structure LogEntry where
  kind : Nat
  scope : Nat := 0
  object : Nat := 0
  context : Nat := 0xFF
  cause : Nat := 0
  csn : Nat := 0
  address : Nat := 0
  valueA : Nat := 0
  valueB : Nat := 0
  deriving DecidableEq, Repr

/-- Writes a record; the newest of 16,384 overwrites the oldest (R393). -/
def State.writeLog (s : State) (e : LogEntry) : State :=
  let r : LogRecord :=
    { number := s.logNext, notch := s.now, kind := e.kind, scope := e.scope, object := e.object, context := e.context,
      cause := e.cause, generation := if e.context < 64 then (s.context e.context).generation else 0, csn := e.csn,
      address := e.address, valueA := e.valueA, valueB := e.valueB }
  { s with log := (s.log ++ [r]).drop (s.log.length + 1 - 16384), logNext := s.logNext + 1 }

/-! ## Trouble bits (R382, R383) -/

/-- The registers that hold trouble bits. -/
inductive TroubleReg where
  | device | start | wheel | port | power
  | core (p : Nat) | coreStream (p : Nat) | millpond (d : Nat) | stack (k : Nat) | link (i : Nat) | hopper (h : Nat)
  deriving DecidableEq, Repr

def TroubleReg.address : TroubleReg → Nat
  | .device => 0x0104
  | .start => 0x0210
  | .wheel => 0x00100024
  | .port => 0x00200004
  | .power => 0x00300004
  | .stack k => 0x00400008 + 0x40000 * k
  | .link i => 0x00600008 + 0x10000 * i
  | .millpond d => 0x0070000C + 0x40000 * d
  | .hopper h => 0x00800008 + 0x10000 * h
  | .core p => 0x01000010 + 0x10000 * p
  | .coreStream p => 0x01000104 + 0x10000 * p

def State.trouble (s : State) : TroubleReg → Word
  | .device => s.dev.trouble
  | .start => s.dev.startTrouble
  | .wheel => s.wheel.trouble
  | .port => s.port.trouble
  | .power => s.power.trouble
  | .stack k => (s.stack k).trouble
  | .link i => (s.link i).trouble
  | .millpond d => (s.pond d).trouble
  | .hopper h => (s.hopper h).trouble
  | .core p => (s.core p).trouble
  | .coreStream p => (s.core p).streamTrouble

def State.setTrouble (s : State) (r : TroubleReg) (v : Word) : State :=
  match r with
  | .device => s.modDev fun d => { d with trouble := v }
  | .start => s.modDev fun d => { d with startTrouble := v }
  | .wheel => s.modWheel fun w => { w with trouble := v }
  | .port => s.modPort fun p => { p with trouble := v }
  | .power => s.modPower fun p => { p with trouble := v }
  | .stack k => s.modStack k fun t => { t with trouble := v }
  | .link i => s.modLink i fun t => { t with trouble := v }
  | .millpond d => s.modPond d fun t => { t with trouble := v }
  | .hopper h => s.modHopper h fun t => { t with trouble := v }
  | .core p => s.modCore p fun t => { t with trouble := v }
  | .coreStream p => s.modCore p fun t => { t with streamTrouble := v }

/-- The scope and object a record about a register names: 0 device, 1 die, 2 core, 3 stack, 4 link (R395). -/
def TroubleReg.scope : TroubleReg → Nat × Nat
  | .stack k => (3, k)
  | .link i => (4, i)
  | .millpond d => (1, d)
  | .core p => (2, p)
  | .coreStream p => (2, p)
  | _ => (0, 0)

/-- A trouble bit at a register address, with the record that each setting writes (R383). -/
def State.troubleRecord (s : State) (address bitNo : Nat) (value : Word) (scope : Nat × Nat) (context : Nat) : State :=
  { s with freshTrouble := (address, bitNo) :: s.freshTrouble }.writeLog
    { kind := 1, scope := scope.1, object := scope.2, context := context, address := address, valueA := bitNo,
      valueB := value.toNat }

/-- Sets bit `b` of a trouble register; some bits have a scope of their own (`scope`, `context`). -/
def State.setTroubleBit (s : State) (r : TroubleReg) (b : Nat) (scope : Nat × Nat := r.scope)
    (context : Nat := 0xFF) : State :=
  let v := s.trouble r ||| BitVec.ofNat 32 (2 ^ b)
  (s.setTrouble r v).troubleRecord r.address b v scope context

/-! ## The field defect list (R417 to R419) -/

/-- Whether a record is to stand before another of the same kind. -/
def Defect.before (a b : Defect) : Bool := decide (a.kind < b.kind ∨ (a.kind = b.kind ∧ a.index ≤ b.index))

def Defect.insert (a : Defect) : List Defect → List Defect
  | [] => [a]
  | b :: l => if a.before b then a :: b :: l else b :: Defect.insert a l

def Defect.isRun (d : Defect) : Bool := d.kind == 8 || d.kind == 9

/-- Records of consecutive pages or segments merged into one, wherever they stand in the list (R419). Its source and object are those
of its first record (DESIGN CHOICE, assumption log 55). -/
def mergeDefects (l : List Defect) : List Defect :=
  l.filter (!·.isRun) ++
  ((l.filter Defect.isRun).foldr Defect.insert []).foldr (fun a acc =>
    match acc with
    | b :: r =>
      if b.kind = a.kind ∧ b.index = a.index + a.count
        then { a with count := a.count + b.count } :: r
      else a :: acc
    | [] => [a]) []

/-- The pages of a segment that a record lists. -/
def Defect.pagesIn (d : Defect) (g : Nat) : Nat :=
  if d.kind = 8 then min (d.index + d.count) (16384 * (g + 1)) - max d.index (16384 * g) else 0

/-- A page record without the pages of a segment. -/
def Defect.without (d : Defect) (g : Nat) : List Defect :=
  if d.pagesIn g = 0 then [d]
  else
    [{ d with count := 16384 * g - d.index },
     { d with index := 16384 * (g + 1), count := d.index + d.count - 16384 * (g + 1) }].filter fun x => x.count != 0

/-- The list with one record for a segment in place of its pages'. -/
def withSegment (l : List Defect) (g : Nat) : List Defect :=
  l.flatMap (·.without g) ++ [{ kind := 9, source := 2, object := g / 128, index := g, count := 1 }]

/-- The page records of the first segment with 64 or more retired pages replaced by one segment record, where that frees a record
(R419). -/
def replaceSegment (l : List Defect) : Option (Nat × List Defect) :=
  ((List.range 1024).find? fun g => decide (64 ≤ sumNat (l.map (·.pagesIn g)) ∧ (withSegment l g).length < l.length)).map fun g =>
    (g, withSegment l g)

/-- The list as written to module flash, its sequence number one higher, over the older of the two copies (R418, R419; which copy a
write takes: DESIGN CHOICE, assumption log 54). -/
def Device.putList (d : Device) (l : List Defect) : Device :=
  let n := (d.listSequence + 1) % 2 ^ 32
  let x : ListCopy := { sequence := n, records := l }
  let d := { d with defects := l, listSequence := n }
  if d.listA.sequence ≤ d.listB.sequence then { d with listA := x } else { d with listB := x }

def State.writeList (s : State) (l : List Defect) : State := s.modDev fun d => d.putList l

/-- Adds a unit found bad; one already listed is not listed twice. When the list is full, the device merges consecutive
pages, then replaces a segment's 64 or more page records, then keeps the defect for this start only (R417, R419). -/
def State.addDefect (s : State) (x : Defect) : State :=
  if s.dev.defects.contains x ∨ s.dev.onlyThisStart.contains x then s
  else if s.dev.defects.length < 65536 then s.writeList (s.dev.defects ++ [x])
  else
    let merged := mergeDefects s.dev.defects
    if merged.length < 65536 then s.writeList (merged ++ [x])
    else
      match replaceSegment merged with
      | some (g, l) =>
        let s := s.writeList (l ++ [x])
        if s.segRetired g then s else s.markSegRetired g
      | none =>
        (s.modDev fun d => { d with onlyThisStart := d.onlyThisStart ++ [x] }).setTroubleBit .start 2

/-! ## Retirement (R180, R181) -/

/-- Retired and retire-pending pages of a stack, of its listed records. -/
def State.retiredPages (s : State) (k : Nat) : Nat :=
  (s.pages.filter fun e => e.1 / 2097152 == k && e.2.retired).length
def State.pendingPages (s : State) (k : Nat) : Nat :=
  (s.pages.filter fun e => e.1 / 2097152 == k && e.2.pending && !e.2.retired).length

/-- Retires a segment, listing it in the field defect list (R181). -/
def State.retireSegment (s : State) (g source : Nat) : State :=
  if s.segRetired g then s
  else (s.markSegRetired g).addDefect { kind := 9, source := source, object := g / 128, index := g }

/-- An unmapped retire-pending page is retired; 1,024 retired pages retire their segment. -/
def State.retirePage (s : State) (g source : Nat) : State :=
  let s := (s.setPage g { s.page g with pending := true, retired := true }).addDefect
    { kind := 8, source := source, object := g / 2097152, index := g }
  let n := (s.pages.filter fun e => e.1 / 16384 == g / 16384 && e.2.retired).length
  if 1024 ≤ n then s.retireSegment (g / 16384) 2 else s

/-- A page becomes retire-pending; one that nothing maps is retired at once (R180, R256). -/
def State.retirePending (s : State) (g source : Nat) : State :=
  let p := s.page g
  if p.pending ∨ p.retired then s
  else
    let s := (s.setPage g { p with pending := true, source := source }).setTroubleBit (.stack (g / 2097152)) 5
    if p.mapped then s else s.retirePage g source

/-- Takes a page's mapping away; a retire-pending page is then retired (R180, R256). -/
def State.unmapPage (s : State) (g : Nat) : State :=
  let p := s.page g
  let s := s.setPage g { p with mapped := false, shared := false, context := 0, use := 0, slot := 0, index := 0 }
  if p.pending then s.retirePage g p.source else s

/-! ## Planted blocks (R466 to R469) -/

/-- Where a planted pattern lies: for an INJECT.ECC, `link` holds the target and `lane` the physical core. -/
def Injection.key (j : Injection) : Nat := if j.link = 0 then j.address else localKey j.lane j.address

def State.modInjection (s : State) (n : Nat) (f : Injection → Injection) : State :=
  { s with injections := s.injections.map fun j => if j.number = n then f j else j }

/-- An INJECTED record (R469). -/
def State.logInjected (s : State) (j : Injection) : State :=
  s.writeLog { kind := 14, address := if j.verb = 3 then j.address else if j.verb = 1 then j.link + j.bundle * 256 else 0,
               valueA := j.number + 65536 * j.action, valueB := j.hits }

/-- A read meets a planted block: a hit of its injection, the latest planted there; the first is recorded (R468, R469). -/
def State.plantedHit (s : State) (k : Nat) (m : DamageMark) : State :=
  if !m.planted then s
  else
    match (s.injections.filter fun j => j.verb == 3 && j.key == k).getLast? with
    | none => s
    | some j =>
      let j := { j with hits := j.hits + 1 }
      let s := s.modInjection j.number fun x => { x with hits := j.hits }
      if j.hits = 1 then s.logInjected j else s

/-! ## Errors of the external stacks (R167, R168, R184) -/

/-- Writes an event into a stack's capture ring; the eight bits of a position hold no more (assumption log 51). -/
def State.capture (s : State) (k a kind pos : Nat) : State :=
  let n := s.now
  s.modStack k fun t =>
    let e := t.captureNext
    let w (i : Nat) (v : Nat) (m : Sparse Word) : Sparse Word := sput 0 m (4 * e + i) (BitVec.ofNat 32 v)
    { t with
      capture := w 0 a (w 1 (a / 2 ^ 32 % 256 + 2 ^ 8 * kind + 2 ^ 16 * (pos % 256)) (w 2 n (w 3 (n / 2 ^ 32) t.capture)))
      captureNext := (e + 1) % 16
      captureEvents := min (t.captureEvents + 1) (2 ^ 24 - 1) }

/-- A corrected error of kind 1 read, 3 scrub or 4 recode: counted, captured, and 16 in one start make the page
retire-pending; planted blocks count towards no threshold (R167, R180, R467). -/
def State.stackCorrected (s : State) (a kind : Nat) (m : DamageMark) : State :=
  let k := stackOf a
  let s := (s.plantedHit a m).modStack k fun t =>
    { t with correctedCount := saturate16 (t.correctedCount + 1), correctedSince := t.correctedSince + 1 }
  let s := if (s.stack k).correctedSince = 256 then s.setTroubleBit (.stack k) 0 else s
  let s := s.capture k a (5 + kind) m.position
  if m.planted then s
  else
    let g := a / 65536
    let s := s.setPage g { s.page g with errors := (s.page g).errors + 1 }
    if 16 ≤ (s.page g).errors then s.retirePending g 2 else s

/-- An uncorrectable or poisoned read, by a requester (`kind` 1), by patrol scrub (3) or by a recode (4) (R168, R179, R180). -/
def State.stackUncorrectable (s : State) (a kind : Nat) (m : DamageMark) : State :=
  let k := stackOf a
  let kind := if m.kind = .poison ∧ kind = 1 then 2 else kind
  let s := (s.plantedHit a m).modStack k fun t =>
    { t with uncorrectableCount := saturate16 (t.uncorrectableCount + 1), errorAddress := a, errorKind := kind,
             errorCode := s.segCode (segmentOf a) }
  let s := s.capture k a kind 0
  let s := s.setTroubleBit (.stack k) (if m.kind = .poison then 2 else 1)
  let s := if kind = 3 then s.setTroubleBit (.stack k) 3 else if kind = 4 then s.setTroubleBit (.stack k) 4 else s
  if m.planted ∨ (m.kind = .poison ∧ m.position = 1) then s else s.retirePending (a / 65536) 2

/-- The poison pattern over a block, as the device writes it (R170); position 1 marks it as the device's own, which
never makes a page retire-pending (R180). -/
def State.poisonBlock (s : State) (a : Nat) : State :=
  let s := s.clearKey a 64
  { s with damage := sput {} s.damage a { kind := .poison, position := 1 } }

def State.damageAt (s : State) (k : Nat) : DamageMark := sget {} s.damage k
def State.clearDamage (s : State) (k : Nat) : State := { s with damage := sdel s.damage k }

def DamageMark.lost (m : DamageMark) : Bool := m.kind = .uncorrectable || m.kind = .poison

/-- The first key of each unit of `u` bytes that a range touches. -/
def unitsOf (u a n : Nat) : List Nat :=
  if n = 0 then [] else (List.range ((a + n - 1) / u - a / u + 1)).map fun i => u * (a / u + i)

/-- Those that the range covers only in part. -/
def partUnits (u a n : Nat) : List Nat := (unitsOf u a n).filter fun b => decide (b < a ∨ a + n < b + u)

/-- Numbers in ascending order, each once. -/
def ascending (l : List Nat) : List Nat := l.foldl (fun a x => a.filter (· < x) ++ x :: a.filter (x < ·)) []

/-! ## Errors of the Bedstone (R128 to R133, R153) -/

/-- Key of a Bedstone row's corrected errors: cores' slices, then the Millponds from 2^40. -/
def sliceRowKey (p x : Nat) : Nat := 2 ^ 16 * p + sliceRow x
def millpondRowKey (d off : Nat) : Nat := 2 ^ 40 + 2 ^ 24 * d + millpondRow off

/-- A row that returned an uncorrectable error, or four corrected ones during a start, joins the list (R133). -/
def State.rowError (s : State) (key : Nat) (bad planted : Bool) (x : Defect) : State :=
  if planted then s
  else
    let n := sget 0 s.rowErrors key + 1
    let s := { s with rowErrors := sput 0 s.rowErrors key n }
    if bad ∨ 4 ≤ n then s.addDefect x else s

def sliceDefect (p x : Nat) : Defect := { kind := 3, source := 2, object := p, index := sliceRow x }
def millpondDefect (d off : Nat) : Defect := { kind := 4, source := 2, object := d, index := millpondRow off }

/-- A corrected granule of a slice is counted and written back (R129). -/
def State.sliceCorrected (s : State) (p x : Nat) : State :=
  let m := s.damageAt (localKey p x)
  let s := ((s.plantedHit (localKey p x) m).clearDamage (localKey p x)).modCore p fun c =>
    { c with correctedCount := saturate16 (c.correctedCount + 1), correctedSince := c.correctedSince + 1 }
  let s := if (s.core p).correctedSince = 256 then s.setTroubleBit (.core p) 3 else s
  s.rowError (sliceRowKey p x) false m.planted (sliceDefect p x)

/-- A lost granule of a slice is met by a read, or by a write of part of it (R94, R130, R131). -/
def State.sliceUncorrectable (s : State) (p x : Nat) (c : Nat := 0xFF) : State :=
  let m := s.damageAt (localKey p x)
  ((s.plantedHit (localKey p x) m).setTroubleBit (.core p) 2 (2, p) c).rowError (sliceRowKey p x) true m.planted (sliceDefect p x)

def State.millpondCorrected (s : State) (d key off : Nat) : State :=
  let m := s.damageAt key
  let s := ((s.plantedHit key m).clearDamage key).modPond d fun t =>
    { t with correctedCount := saturate16 (t.correctedCount + 1), correctedSince := t.correctedSince + 1 }
  let s := if (s.pond d).correctedSince = 256 then s.setTroubleBit (.millpond d) 0 else s
  s.rowError (millpondRowKey d off) false m.planted (millpondDefect d off)

/-- Records an uncorrectable Millpond error: kind 1 scratchpad, 2 table, 3 clean line, 4 dirty line (R153, R158). -/
def State.millpondUncorrectable (s : State) (d a kind off : Nat) (m : DamageMark) : State :=
  let s := (s.plantedHit a m).modPond d fun t => { t with errorAddress := a, errorKind := kind }
  let s := s.setTroubleBit (.millpond d) (if kind = 2 then 3 else if kind = 3 then 2 else 1)
  s.rowError (millpondRowKey d off) true m.planted (millpondDefect d off)

/-! ## The Millpond cache (R144 to R150) -/

/-- Sets of die `d`'s cache part; none when it has no cache part (R144, R145). -/
def State.cacheSets (s : State) (d : Nat) : Nat := 2 ^ 26 * (16 - (s.pond d).steps) / 4096

def State.lineOf (s : State) (d a : Nat) : Option CacheLine := (s.pond d).lines.find? (·.line == a / 256)

/-- Most recently used first. -/
def State.touchLine (s : State) (d : Nat) (l : CacheLine) : State :=
  s.modPond d fun t => { t with lines := l :: t.lines.filter (·.line != l.line) }

/-- An access reaches the stack of an external address (R362). -/
def State.reached (s : State) (a : Nat) : State :=
  s.modStack (stackOf a) fun t => { t with lastAccess := s.uptime }

/-- An access to a block over the interface of its stack: a command or address parity error is retried up to three times (R159).
The state, and whether the access failed even so: it is then an uncorrectable error of the access, of kind 1 for an ordinary one, 3
for a scrub, 4 for a recode. Patrol scrub, which never rests, is no access of R362 (DEDUCED, assumption log 53). -/
def State.interface (s : State) (b : Nat) (kind : Nat := 1) : State × Bool :=
  let s := if kind = 3 then s else s.reached b
  match sget 0 (s.stack (stackOf b)).caErrors b with
  | 0 => (s, false)
  | n + 1 =>
    let s := (s.modStack (stackOf b) fun t => { t with caErrors := sdel t.caErrors b }).setTroubleBit (.stack (stackOf b)) 7
    if 3 ≤ n then (s.stackUncorrectable b kind { kind := .uncorrectable }, true) else (s, false)

/-- The block that a stack answers a read of `b` with, where it is another one (R165). -/
def State.strayAt (s : State) (b : Nat) : Option Nat := ((s.stack (stackOf b)).strays.find? (·.1 == b)).map (·.2)

/-- The read is answered: the next one reads the block itself. -/
def State.takeStray (s : State) (b : Nat) : State :=
  s.modStack (stackOf b) fun t => { t with strays := t.strays.filter (·.1 != b) }

/-- The offset in the Millpond of a line of the cache part: behind the scratchpad steps, way after way, and within a way set after
set (no rule gives the place; PRESUMED, assumption log 9). -/
def State.lineOffset (s : State) (d : Nat) (l : CacheLine) : Nat :=
  2 ^ 26 * (s.pond d).steps + 256 * (l.way * s.cacheSets d + l.line % max 1 (s.cacheSets d))

/-- The offset in its Millpond of a granule of a present line. -/
def State.cachedOffset (s : State) (g : Nat) : Nat :=
  match s.lineOf (homeDie g) g with
  | some l => s.lineOffset (homeDie g) l + g % 256
  | none => g % 2 ^ 28

/-- A granule of a present line is read: a correctable error is corrected, a lost one recorded with its kind (R129, R153). -/
def State.readCached (s : State) (kind g : Nat) : State :=
  let m := s.damageAt (cacheKey g)
  if m.kind = .correctable then s.millpondCorrected (homeDie g) (cacheKey g) (s.cachedOffset g)
  else if m.lost then s.millpondUncorrectable (homeDie g) g kind (s.cachedOffset g) m
  else s

def State.cachedLost (s : State) (g : Nat) : Bool := (s.damageAt (cacheKey g)).lost

/-- A block of a dirty line reaches the stack whole; one with a lost granule as the poison pattern (R153, R168, R170). A write that
the interface fails leaves the block without valid data (R159; DESIGN CHOICE, assumption log 51). -/
def State.writeBackBlock (s : State) (b : Nat) : State :=
  let lost := (unitsOf 16 b 64).any s.cachedLost
  let (s, failed) := ((unitsOf 16 b 64).foldl (State.readCached · 4) s).interface b
  if failed then { s with damage := sput {} s.damage b { kind := .uncorrectable } }
  else if lost then s.poisonBlock b
  else s.clearDamage b

/-- A dirty line's bytes reach the stack: its four blocks are written whole. -/
def State.writeBackLine (s : State) (l : CacheLine) : State :=
  if l.dirty then (unitsOf 64 (l.line * 256) 256).foldl State.writeBackBlock s else s

/-- Drops the lines that `p` picks, dirty ones written back first. -/
def State.dropLines (s : State) (d : Nat) (p : CacheLine → Bool) : State :=
  let gone := (s.pond d).lines.filter p
  let s := gone.foldl State.writeBackLine s
  let s := gone.foldl (fun s l => (unitsOf 16 (l.line * 256) 256).foldl (fun s g => s.clearDamage (cacheKey g)) s) s
  s.modPond d fun t => { t with lines := t.lines.filter fun l => !p l }

/-- The way that a context allocates in for a line: a way of its own with no line of the set, else the one whose line
was used longest ago (R146). -/
def State.allocWay (s : State) (d ctx line : Nat) : Option Nat :=
  let sets := s.cacheSets d
  let mine := (List.range 16).filter fun w => sget none (s.pond d).ways w == some ctx
  if sets = 0 then none
  else
    let inSet := (s.pond d).lines.filter fun l => l.line % sets == line % sets
    match mine.find? fun w => !inSet.any (·.way == w) with
    | some w => some w
    | none => ((inSet.filter fun l => mine.contains l.way).getLast?).map (·.way)

/-- Allocates a line for a context, the line it displaces written back. -/
def State.allocLine (s : State) (d ctx line : Nat) (dirty : Bool) : State :=
  match s.allocWay d ctx line with
  | none => s
  | some w =>
    let sets := s.cacheSets d
    let s := s.dropLines d fun l => l.way == w && l.line % sets == line % sets
    s.touchLine d { line := line, way := w, dirty := dirty }

/-- An external address inside the window of a pseudo-channel in COMPUTE or SEALING, with that pseudo-channel: its
accesses bypass the cache (R149). -/
def State.windowOf (s : State) (a : Nat) : Option (Nat × Nat) :=
  if isExternal a then
    let k := stackOf a
    let p := pseudoOf a
    let c := s.pseudo k p
    let seg := bits a 36 30
    if (c.mode ≠ .plain ∨ c.entering) ∧ c.firstSeg ≤ seg ∧ seg < c.firstSeg + c.segCount then some (k, p) else none
  else none

/-- Whether an address lies in a segment whose sweep is running or accepted (R150, R179). -/
def State.sweeping (s : State) (a : Nat) : Bool :=
  isExternal a && (s.stack (stackOf a)).sweep.isSome && (s.stack (stackOf a)).sweepSegment == segmentOf a

def State.bypasses (s : State) (a : Nat) : Bool := (s.windowOf a).isSome || s.sweeping a

/-! ## Reads and writes with error protection -/

/-- Who reads or writes: the context whose ways it may fill, when it may fill any (R146). -/
structure Requester where
  context : Option Nat := none
  deriving DecidableEq, Repr

/-- Reads one stack block, as an ordinary read (`kind` 1), a scrub (3) or a recode (4): the state after, and whether it is lost
(R159, R167, R168). A NONE segment has no check bits, and those of LIGHT cover the data only: a block returned from a wrong address
is found under STRONG alone (R165). -/
def State.readBlock (s : State) (b : Nat) (kind : Nat := 1) : State × Bool :=
  let (s, failed) := s.interface b kind
  let m := s.damageAt b
  let code := s.segCode (segmentOf b)
  let stray := (s.strayAt b).isSome
  let s := if stray then s.takeStray b else s
  if failed then (s, true)
  else if code = 0 then (s, false)
  else if stray then
    if code = 2 then (s.stackUncorrectable b kind { kind := .uncorrectable }, true) else (s, false)
  else if m.lost then (s.stackUncorrectable b kind m, true)
  else if m.kind = .correctable then (s.stackCorrected b kind m, false)
  else (s, false)

/-- Reads the stack blocks of a list: the state after, and the first block lost. -/
def State.readBlocks (s : State) (blocks : List Nat) : State × Option Nat :=
  blocks.foldl (fun (s, bad) b =>
    let (s, lost) := s.readBlock b
    (s, if lost then some (bad.getD b) else bad)) (s, none)

/-- Reads granules of a present line. A clean line with a lost one is invalidated and fetched again from the stack into its way; a
dirty one is written back with the poison pattern and invalidated. The first block or granule lost is given (R129, R153). -/
def State.readLine (s : State) (d : Nat) (l : CacheLine) (granules : List Nat) : State × Option Nat :=
  match granules.find? s.cachedLost with
  | none => (granules.foldl (State.readCached · 3) s, none)
  | some g =>
    if l.dirty then (s.dropLines d (·.line == l.line), some g)
    else
      let s := (granules.foldl (State.readCached · 3) s).dropLines d (·.line == l.line)
      match s.readBlocks (unitsOf 64 (l.line * 256) 256) with
      | (s, some b) => (s, some b)
      | (s, none) => (s.touchLine d l, none)

/-- Reads one 256-byte line's part of an external range: a hit serves it; a miss reads the blocks it asks for, and all
four when it fills a line (R146, R168). -/
def State.readExternalLine (s : State) (who : Requester) (a n : Nat) : State × Option Nat :=
  let d := homeDie a
  let byp := s.bypasses a
  match (if byp then none else s.lineOf d a) with
  | some l =>
    match s.readLine d l (unitsOf 16 a n) with
    | (s, some b) => (s, some b)
    | (s, none) => (s.touchLine d l, none)
  | none =>
    match (if byp then none else who.context.bind fun c => s.allocWay d c (a / 256)) with
    | none => s.readBlocks (unitsOf 64 a n)
    | some _ =>
      let (s, bad) := s.readBlocks (unitsOf 64 (a / 256 * 256) 256)
      match bad with
      | some b => (s, some b)
      | none => (s.allocLine d (who.context.getD 0) (a / 256) false, none)

/-- Reads the granules of a scratchpad range (R128 to R130, R153); the table region rewrites lost entries (R142). -/
def State.readGranules (s : State) (d a n : Nat) : State × Option Nat :=
  (unitsOf 16 a n).foldl (fun (s, bad) g =>
    let m := s.damageAt g
    if m.kind = .correctable then (s.millpondCorrected d g (g % 2 ^ 30), bad)
    else if m.lost then
      if g % 2 ^ 30 < tableBytes then ((s.millpondUncorrectable d g 2 (g % 2 ^ 30) m).clearDamage g, bad)
      else (s.millpondUncorrectable d g 1 (g % 2 ^ 30) m, some (bad.getD g))
    else (s, bad)) (s, none)

/-- The parts of a range that lie in one 256-byte line each. -/
def lineParts (a n : Nat) : List (Nat × Nat) :=
  (unitsOf 256 a n).map fun b => (max a b, min (a + n) (b + 256) - max a b)

/-- Reads the part of a range that lies in one 256-byte line: the state after, and the address of the first damaged block. -/
def State.readPart (s : State) (who : Requester) (a n : Nat) : State × Option Nat :=
  match s.place a with
  | .stack _ => s.readExternalLine who a n
  | .table d | .scratch d => s.readGranules d a n
  | .unmapped => (s, none)

/-- The bytes that a read delivers of a block that the stack answers with another one, where no check bits find it (R165). -/
def State.strayed (s : State) (a : Nat) (data : List Byte) (b : Nat) : List Byte :=
  match s.strayAt b with
  | none => data
  | some r =>
    if s.segCode (segmentOf b) = 2 ∨ (!s.bypasses b ∧ (s.lineOf (homeDie b) b).isSome) then data
    else
      let lo := max a b
      let hi := min (a + data.length) (b + 64)
      data.take (lo - a) ++ s.readRaw (r + (lo - b)) (hi - lo) ++ data.drop (hi - a)

/-- Reads a device range: the state after, its bytes, and the address of the first damaged block (R168, R318). -/
def State.readDevice (s : State) (who : Requester) (a n : Nat) : State × List Byte × Option Nat :=
  let data := if isExternal a ∧ (s.memStacks.any fun e => !e.2.strays.isEmpty : Bool)
    then (unitsOf 64 a n).foldl (s.strayed a) (s.readRaw a n) else s.readRaw a n
  let (s, bad) := (lineParts a n).foldl (fun (s, bad) (x, k) =>
    let (s, b) := s.readPart who x k
    (s, bad.orElse fun _ => b)) (s, none)
  (s, data, bad)

/-- Whether a requester's write of a line's part ends in a present line, and not at the stack (R146, R147). -/
def State.writesCache (s : State) (who : Requester) (a : Nat) : Bool :=
  !s.bypasses a && s.segCode (segmentOf a) != 0 && (who.context.bind fun c => s.allocWay (homeDie a) c (a / 256)).isSome

/-- A write goes to the stack: each block's access must pass the interface, and one covered only in part, whose code has check bits,
is read first (R159, R171). -/
def State.writeBlocks (s : State) (a n : Nat) : State × Option Nat :=
  let part := if s.segCode (segmentOf a) = 0 then [] else partUnits 64 a n
  (unitsOf 64 a n).foldl (fun (s, bad) b =>
    let (s, lost) := if part.contains b then s.readBlock b else s.interface b
    (s, if lost then some (bad.getD b) else bad)) (s, none)

/-- The blocks of a line that a write to part of it must fetch to fill the line: those it does not cover whole. -/
def fillUnits (a n : Nat) : List Nat :=
  (unitsOf 64 (a / 256 * 256) 256).filter fun b => decide (b < a ∨ a + n < b + 64)

/-- What a write of a line's part reads first: granules and blocks that it covers only in part (R131, R171), and, where it allocates
the line, the rest of the line (R147). A block lost there allocates nothing and fails the write (R168). -/
def State.partLost (s : State) (who : Requester) (a n : Nat) : State × Option Nat :=
  match s.place a with
  | .stack _ =>
    match (if s.bypasses a then none else s.lineOf (homeDie a) a) with
    | none => if s.writesCache who a then s.readBlocks (fillUnits a n) else s.writeBlocks a n
    | some l =>
      let (s, bad) := s.readLine (homeDie a) l (partUnits 16 a n)
      if bad.isSome ∨ (s.lineOf (homeDie a) a).isSome ∧ s.writesCache who a then (s, bad) else s.writeBlocks a n
  | .table _ | .scratch _ => (partUnits 16 a n).foldl (fun (s, bad) g =>
      let (s, b) := s.readGranules (scratchDie a) g 16
      (s, bad.orElse fun _ => b)) (s, none)
  | .unmapped => (s, none)

/-- The lost blocks that a write covers only in part, read before anything is written (R131, R171). -/
def State.partlyLost (s : State) (who : Requester) (a n : Nat) : State × Option Nat :=
  (lineParts a n).foldl (fun (s, bad) (x, k) =>
    let (s, b) := s.partLost who x k
    (s, bad.orElse fun _ => b)) (s, none)

/-- Writes one line's part of an external range (R147): through in NONE and for requesters without ways, else into the
cache, whose line `State.partLost` has filled; a block written whole loses its damage when the write reaches the stack. -/
def State.writeExternalLine (s : State) (who : Requester) (a : Nat) (data : List Byte) : State :=
  let d := homeDie a
  let n := data.length
  let none_ := s.segCode (segmentOf a) = 0
  let s1 := s.writeKey a data
  let whole := (unitsOf 64 a n).filter fun b => !(partUnits 64 a n).contains b
  let clear (s : State) : State := (unitsOf 64 a n).foldl (fun s b =>
    if whole.contains b ∨ (s.damageAt b).kind = .correctable then s.clearDamage b else s) (s.reached a)
  if s.bypasses a then clear s1
  else
    match s1.lineOf d a with
    | some l =>
      let s2 := ((unitsOf 16 a n).filter fun g => !(partUnits 16 a n).contains g).foldl
        (fun s g => s.clearDamage (cacheKey g)) s1
      if none_ then clear (s2.touchLine d l)
      else
        match who.context.bind fun c => s.allocWay d c (a / 256) with
        | some _ => s2.touchLine d { l with dirty := true }
        | none => clear (s2.touchLine d l)
    | none =>
      match (if none_ then none else who.context.bind fun c => s1.allocWay d c (a / 256)) with
      | none => clear s1
      | some _ => s1.allocLine d (who.context.getD 0) (a / 256) true

/-- Writes a range that lies in one 256-byte line. -/
def State.writePart (s : State) (who : Requester) (a : Nat) (data : List Byte) : State :=
  match s.place a with
  | .stack _ => s.writeExternalLine who a data
  | .scratch _ =>
    let whole := (unitsOf 16 a data.length).filter fun g => !(partUnits 16 a data.length).contains g
    whole.foldl State.clearDamage (s.writeKey a data)
  | _ => s

/-- Writes a device range, its partly covered blocks already found sound. -/
def State.writeDevice (s : State) (who : Requester) (a : Nat) (data : List Byte) : State :=
  (lineParts a data.length).foldl (fun s (x, k) => s.writePart who x (slice data (x - a) k)) s

/-- The granules or blocks that a write of the device's own covers in part and cannot rebuild. -/
def State.unsound (s : State) (a n : Nat) : List Nat :=
  if isExternal a then (partUnits 64 a n).filter fun b => s.segCode (segmentOf b) != 0 && (s.damageAt b).lost
  else (partUnits 16 a n).filter fun g => (s.damageAt g).lost

/-- A write by the device itself, of records it keeps elsewhere: what covers a lost granule or block only in part is not written
(R131, R171), and the rest is. -/
def State.writeOwn (s : State) (a : Nat) (data : List Byte) : State :=
  let n := data.length
  match s.partlyLost {} a n with
  | (s, none) => s.writeDevice {} a data
  | (s, some _) =>
    let bad := s.unsound a n
    let u := if isExternal a then 64 else 16
    ((unitsOf u a n).filter fun b => !bad.contains b).foldl (fun s b =>
      let x := max a b
      s.writeDevice {} x (slice data (x - a) (min (a + n) (b + u) - x))) s

/-- The die whose Millpond serves an address: the host of a stack, or of a scratchpad window (R144). -/
def dieOf (a : Nat) : Nat := if isExternal a then homeDie a else scratchDie a

/-- Whether the Millpond of a die that a range lies on serves only a change of its split (R156). -/
def State.splitHolds (s : State) (a n : Nat) : Bool := (lineParts a n).any fun e => (s.pond (dieOf e.1)).resplit.isSome

/-- A write by the device itself that follows a change of the split of a Millpond in its way (R156). -/
def State.writeScratch (s : State) (a : Nat) (data : List Byte) : State :=
  if s.splitHolds a data.length then s.modJournal fun j => { j with lateWrites := j.lateWrites ++ [(a, data)] } else s.writeOwn a data

/-- The writes that waited for the end of a split are made; those that another split holds wait on. -/
def State.writeLate (s : State) : State :=
  s.journal.lateWrites.foldl (fun s e => s.writeScratch e.1 e.2) (s.modJournal fun j => { j with lateWrites := [] })

/-! ## Core-local reads and writes (R80, R128 to R131) -/

/-- What a core-local access can meet. -/
inductive LocalFault where
  | parity (x : Nat)
  | uncorrectable (x : Nat)
  deriving DecidableEq, Repr

def LocalFault.address : LocalFault → Nat
  | .parity x => x
  | .uncorrectable x => x

/-- Reads a core-local range of physical core `p`, for context `c`: parity of each core store byte, SEC-DED of each slice
granule. An error is counted and recorded here, whoever reads (R80, R94, R129, R130); a read that meets several bad bytes of the
core store counts one error in CORE.ParityCount, which R80 leaves open (DESIGN CHOICE, assumption log 48). -/
def State.readLocal (s : State) (p x n : Nat) (c : Nat := 0xFF) : State × List Byte × Option LocalFault :=
  let data := s.readKey (localKey p x) n
  match localPlace x with
  | .store =>
    match (List.range n).find? fun i => (s.damageAt (localKey p (x + i))).kind != .none with
    | some i =>
      ((s.modCore p fun y => { y with parityCount := saturate16 (y.parityCount + 1) }).setTroubleBit (.core p) 1 (2, p) c, data,
        some (.parity (x + i)))
    | none => (s, data, none)
  | _ =>
    let (s, bad) := (unitsOf 16 x n).foldl (fun (s, bad) g =>
      let m := s.damageAt (localKey p g)
      if m.kind = .correctable then (s.sliceCorrected p g, bad)
      else if m.lost then (s.sliceUncorrectable p g c, some (bad.getD g))
      else (s, bad)) (s, none)
    (s, data, bad.map .uncorrectable)

/-- A slice write that covers part of a lost granule fails before it writes (R131). -/
def State.localPartlyLost (s : State) (p x n : Nat) : Option Nat :=
  match localPlace x with
  | .slice => (partUnits 16 x n).find? fun g => (s.damageAt (localKey p g)).lost
  | _ => none

/-- The first granule that one of the writes would cover only in part and that is lost: the writes fail, and it is recorded. Each
write is a place on a logical core: core, address, length. -/
def State.firstLocalLost (s : State) (l : List (Nat × Nat × Nat)) : State × Option (Nat × Nat) :=
  match l.findSome? fun (k, x, n) => (s.localPartlyLost (s.physical k) x n).map (k, ·) with
  | none => (s, none)
  | some (k, g) => (s.sliceUncorrectable (s.physical k) g, some (k, g))

def State.writeLocal (s : State) (p x : Nat) (data : List Byte) : State :=
  let s1 := s.writeKey (localKey p x) data
  match localPlace x with
  | .store => (List.range data.length).foldl (fun s i => s.clearDamage (localKey p (x + i))) s1
  | _ =>
    (unitsOf 16 x data.length).foldl (fun s g =>
      if (partUnits 16 x data.length).contains g then
        (if (s.damageAt (localKey p g)).kind = .correctable then s.sliceCorrected p g else s)
      else s.clearDamage (localKey p g)) s1

/-! ## Service -/

/-- What the device has of a field of the identity EEPROM: zero bytes when its CRC did not match at S1 (R479). -/
def State.fromEeprom (s : State) (l : List Byte) : List Byte := if s.dev.eepromOk then l else zeros l.length

/-- In service: commands run and the mesh carries traffic, or DOZE. -/
def State.inService (s : State) : Bool :=
  s.dev.state == .ready || s.dev.state == .running || s.dev.state == .degraded || s.dev.state == .doze

end Sys2Proof.Machine
end

