-- ==== Sys2Proof/Machine/Reply.lean ====
section
/-! DEFINITION. Status codes (R338), the REPLY layout (R318), refusals, and the legality of commands by device state
and context state (R335 to R337). -/

namespace Sys2Proof.Machine

/-! ## Status codes (R338) -/

namespace Status
def done : Nat := 0x0000
def accepted : Nat := 0x1000
def queued : Nat := 0x2001
def state : Nat := 0x3001
def length : Nat := 0x3002
def capacity : Nat := 0x3003
def shape : Nat := 0x3004
def format : Nat := 0x3005
def opcode : Nat := 0x3006
def privilege : Nat := 0x3007
def address : Nat := 0x3008
def sequence : Nat := 0x3009
def generation : Nat := 0x300A
def flow : Nat := 0x300B
def journal : Nat := 0x300C
def uncorrectable : Nat := 0x4001
def coreTrap : Nat := 0x4002
def streamFault : Nat := 0x4003
def pageAbsent : Nat := 0x4004
def quernGuard : Nat := 0x4005
def quernQueue : Nat := 0x4006
def hopperFault : Nat := 0x4007
def failedReset : Nat := 0x4008
def timeout : Nat := 0x4009
def journalLost : Nat := 0x400A
def missedThermal : Nat := 0x5001
def missedLink : Nat := 0x5002
def missedOverrun : Nat := 0x5003
def suspendedPage : Nat := 0x6001
def resumed : Nat := 0x6002
def noticeMiss : Nat := 0x6003
def noticeGeneration : Nat := 0x6004
end Status

/-- The fields of a REPLY (R318); `zero` marks the DONE of a zero field, of which nothing is journaled (R310). -/
structure Reply where
  status : Nat := 0
  detail : Nat := 0
  value : Nat := 0
  csn : Nat := 0
  notchA : Nat := 0
  notchB : Nat := 0
  state : Nat := 0
  allowed : Nat := 0
  data : List Byte := []
  zero : Bool := false
  deriving DecidableEq, Repr

def Reply.payload (r : Reply) : List Byte :=
  leBytes 2 r.status ++ leBytes 2 r.detail ++ leBytes 4 r.value ++ leBytes 8 r.csn ++ leBytes 8 r.notchA ++
  leBytes 8 r.notchB ++ leBytes 1 r.state ++ zeros 3 ++ leBytes 4 r.allowed ++ r.data

/-- What acting on a command gives: a reply now, or a reply that follows an event. -/
inductive Handled where
  | reply (r : Reply) (s : State)
  | later (s : State)
  deriving DecidableEq, Repr

def Handled.state : Handled → State
  | .reply _ s => s
  | .later s => s

def done (s : State) (data : List Byte := []) (value : Nat := 0) : Handled :=
  .reply { value := value, data := data } s

def refuse (status : Nat) (detail : Nat := 0) : Reply := { status := status, detail := detail }

/-- REFUSED.STATE naming an object's kind, number, present state and the states that would allow it (R311, R323). -/
def refuseState (kind object st allowed : Nat) : Reply :=
  { status := Status.state, detail := kind, value := object, state := st, allowed := allowed }

def refuseAddress (value : Nat := 0) : Reply := { status := Status.address, value := value }

/-- The first check that fails decides (R309). -/
def firstFailing : List (Option Reply) → Option Reply
  | [] => none
  | some r :: _ => some r
  | none :: l => firstFailing l

def when (b : Bool) (r : Reply) : Option Reply := if b then some r else none

/-- Refuses with the first check that fails, and otherwise goes on. -/
def checked (l : List (Option Reply)) (s : State) (go : Handled) : Handled :=
  match firstFailing l with
  | some r => .reply r s
  | none => go

/-- A zero field completes DONE with nothing done (R310). -/
def zeroField (b : Bool) (s : State) (go : Handled) : Handled := if b then .reply { zero := true } s else go

/-! ## Device states (R335, R336) -/

def DeviceState.code : DeviceState → Nat
  | .off => 0 | .staging => 1 | .ready => 2 | .running => 3 | .doze => 4 | .degraded => 5 | .faulted => 6 | .latched => 7

def CtxState.code : CtxState → Nat
  | .free => 0 | .open => 1 | .loaded => 2 | .active => 3 | .resetting => 4 | .quarantined => 5

def WheelState.code : WheelState → Nat
  | .unset => 0 | .free => 1 | .acquiring => 2 | .locked => 3 | .holdover => 4

/-- The masks of R336 by state code, one for each row of its table. -/
def legalMask (op : Nat) : Nat :=
  let yes := [1, 2, 3, 4, 5, 6, 7]
  let group := op / 256
  maskOf (
    if group = 0x01 ∨ group = 0x0C ∨ group = 0x0B then yes
    else if op = 0x0A01 ∨ group = 0x11 then [1, 2, 3, 4, 5, 6]
    else if op = 0x0A02 ∨ group = 0x0D ∨ group = 0x10 then [2, 3, 4, 5, 6]
    else if op = 0x1303 then [2, 5]
    else if op = 0x1304 then [4]
    else if group = 0x13 then [2, 3, 4, 5, 6]
    else if op = 0x0503 ∨ op = 0x0601 then [2, 3, 5, 6]
    else if op = 0x0603 then [2]
    else if op = 0x0E05 ∨ op = 0x0F04 then [2, 3, 5]
    else if group = 0x0E ∨ group = 0x0F then [2, 3, 4, 5]
    else [2, 3, 5])

/-- Whether any accepted journaled command is uncompleted, or a FILLER command queued (R335). -/
def Stream.busy (t : Stream) : Bool := t.cmds.any fun c => c.phase != .completed

def State.anyBusy (s : State) : Bool :=
  s.devStream.busy || s.contexts.any (fun e => e.2.stream.busy) || !s.schedule.fillers.isEmpty

/-- READY and RUNNING follow the accepted work; the other states are entered by their own events (R335). -/
def State.deviceState (s : State) : DeviceState :=
  match s.dev.state with
  | .ready | .running => if s.anyBusy then .running else .ready
  | d => d

def legalDevice (op : Nat) (s : State) : Option Reply :=
  let c := s.deviceState.code
  when (!bit (legalMask op) c) (refuseState 0 0 c (legalMask op))

/-! ## Context states (R337) -/

/-- The state of a context: ACTIVE while an accepted command is uncompleted, else LOADED while it holds plans. -/
def Context.present (x : Context) : CtxState :=
  match x.state with
  | .free => .free
  | .resetting => .resetting
  | .quarantined => .quarantined
  | _ => if x.stream.busy then .active else if x.plans.isEmpty then .open else .loaded

def State.ctxState (s : State) (c : Nat) : CtxState := (s.context c).present

/-- The context states in which a command is legal, where R337 lists it. -/
def legalContextMask (op : Nat) : Option Nat :=
  (match op with
   | 0x0501 => some [0]
   | 0x0502 => some [1, 2, 5]
   | 0x0503 => some [1, 2, 3, 5]
   | 0x0504 => some [2]
   | 0x0505 => some [1, 2]
   | 0x0201 | 0x0401 | 0x0402 | 0x0403 | 0x0404 | 0x0405 | 0x0701 | 0x0702 | 0x0901 | 0x0602 => some [1, 2, 3]
   | 0x0202 | 0x0301 => some [2, 3]
   | 0x0601 => some [1, 2, 3, 4, 5]
   | 0x0302 => some [1, 2, 3]
   | 0x0E05 => some [1, 2, 3]
   | 0x0E06 => some [2]
   | _ => none).map maskOf

/-- The commands that both ends of a migration refuse (R444). -/
def stoppedByMigration (op : Nat) : Bool :=
  op / 256 = 3 || op / 256 = 4 || op = 0x0701 || op = 0x0702 || op = 0x0901 || op = 0x0602

/-- The context legality of an opcode for context `c`; a session bound to no context has none to judge. -/
def legalContext (op c : Nat) (s : State) : Option Reply :=
  match legalContextMask op with
  | some m => if c = 255 then none else
      let st := (s.ctxState c).code
      when (!bit m st || ((s.context c).migrating && stoppedByMigration op)) (refuseState 1 c st m)
  | none => none

/-- The state check of R309 step 7: device state, then context state. -/
def legal (op c : Nat) (s : State) : Option Reply := firstFailing [legalDevice op s, legalContext op c s]

/-! ## What the fused digests vouch for (R445, R448) -/

/-- The check of R448 that an image fails, 0 for none. -/
def Security.imageFault (x : Security) (l : List Byte) : Nat := Machine.imageFault l x.firmwareKeyDigest x.rollback

/-- A signature by the factory key, which the fused digest vouches for. -/
def Security.factorySigned (x : Security) (data signature : List Byte) : Bool :=
  sha384 x.factoryKey == x.factoryKeyDigest && signedBy x.factoryKey data signature

end Sys2Proof.Machine
end

