-- ==== Sys2Proof/Machine/Draw.lean ====
section
/-! DEFINITION. What is booked on the wheel, the draws that bookings give (R340, R341), bands (R56, R134), claimed
domains (R359), the power cap (R371) and the placement of work (R344 to R348).

Booked positions count *schedule notches*: wheel notches less the slip (R60), so that all booked work moves together. -/

namespace Sys2Proof.Machine

def Delay.total (d : Delay) : Nat := d.thermal + d.link + d.overrun

/-- The present schedule notch. -/
def State.clock (s : State) : Nat := s.now - s.schedule.slip.total

/-- The projected wheel notch of a schedule notch (R344). -/
def State.projected (s : State) (v : Nat) : Nat := v + s.schedule.slip.total

/-- The schedule notch that a wheel notch projects to now. -/
def State.scheduled (s : State) (n : Nat) : Nat := n - s.schedule.slip.total

/-! ## Temperatures and bands (R56, R134) -/

def State.spot (s : State) (i : Nat) : Spot := sget {} s.power.spots i

/-- The spots of the Bedstone layers and the stacks (R366). -/
def dramSpots : List Nat := (List.range 16).map (68 + ·) ++ (List.range 8).map (85 + ·)

/-- The spots of the Runner dies and the Sluice die (R373). -/
def logicSpots : List Nat := List.range 68 ++ [84]

/-- The highest of some governing temperatures. -/
def State.hottestOf (s : State) (l : List Nat) : Val :=
  l.foldl (fun m i => let g := ofFp32 (s.spot i).governing; if m.lt g then g else m) (.inf true)

/-- The band of a temperature; none above 105 °C. -/
def bandOf (t : Val) : Option Nat :=
  if (natVal 105).lt t then none else if (natVal 95).lt t then some 2 else if (natVal 85).lt t then some 1 else some 0

/-- The band that admission uses: that of the hottest DRAM temperature plus 2 K. -/
def State.admissionBand (s : State) : Option Nat := bandOf ((s.hottestOf dramSpots).add (natVal 2))

/-- The device's present band: the highest of any stack or Bedstone layer (R134). -/
def State.presentBand (s : State) : Nat :=
  maxNat ((List.range 8).map (fun k => (s.stack k).band) ++ (List.range 4).flatMap fun d => (s.pond d).bands)

/-! ## The power cap (R371, R342) -/

/-- Whether a trip or a hold is in force; a trip stops issue at the end of the notch that decides it (R377). -/
def State.holding (s : State) : Bool :=
  (s.power.trip && decide (s.power.tripAt < s.uptime)) || s.power.hotHold || s.power.lowInput

def State.powerCap (s : State) : Nat := if s.holding then 320 else min s.power.thermalCap s.power.hostCap

/-! ## Claimed domains (R359) -/

/-- Whether a context that is not FREE has the given property. -/
def State.anyContext (s : State) (p : Context → Bool) : Bool :=
  s.contexts.any fun e => e.2.state != .free && p e.2

/-- The core group of a logical core. -/
def State.groupOf (s : State) (c : Nat) : Nat := s.physical c / 4

def State.groupClaimed (s : State) (g : Nat) : Bool :=
  s.anyContext fun x => (quarterCores x.grant.quarters).any fun c => s.logicalExists c && s.groupOf c == g

/-- Whether a core group holds an enabled core. -/
def State.groupEnabled (s : State) (g : Nat) : Bool := (List.range 240).any fun c => s.logicalExists c && s.groupOf c == g

def State.claimed (s : State) (k : Nat) : Bool :=
  if k < 64 then s.groupClaimed k
  else if k < 68 then
    let d := k - 64
    (List.range 16).any (fun i => s.groupClaimed (16 * d + i)) ||
    s.anyContext fun x => 0 < x.grant.padCount.getD d 0 || 0 < x.grant.ways.getD d 0 ||
      (match x.area with | some a => scratchDie a.base == d | none => false)
  else false

/-! ## What is booked -/

/-- A stretch of booked work. `counts`: its draw is part of the booked draw; `busy`: also of the ramp draw. -/
structure Hold where
  first : Nat
  stop : Nat
  rampEnd : Nat
  quarters : Nat
  hoppers : Nat
  shares : Nat
  draw : Nat
  counts : Bool
  busy : Bool
  deriving DecidableEq, Repr

/-- The lead of a booking of a draw level (R346). -/
def bookingLead (draw : Nat) : Nat := ceilDiv (draw - 320) 100 * 64

/-- Notches of an occurrence, lead included (R346). -/
def Booking.size (b : Booking) : Nat := b.lead + b.span

/-- The occurrences that share a notch with [a, z). -/
def Booking.between (b : Booking) (a z : Nat) : List Nat :=
  let k0 := if b.first + b.size ≤ a then (a - b.first - b.size) / b.period + 1 else 0
  let k1 := min b.count (ceilDiv (z - b.first) b.period)
  match b.only with
  | some l => l.filter fun k => k0 ≤ k && k < k1
  | none => List.range' k0 (k1 - k0)

/-- A command's booked interval, while it has one (R340). -/
def Cmd.hold (c : Cmd) : Hold :=
  let inside := c.occurrence.isSome
  { first := c.start, stop := c.start + c.rampIn + c.span, rampEnd := c.start + c.rampIn,
    quarters := if inside then 0 else c.quarters, hoppers := if inside then 0 else c.hoppers,
    shares := if inside then 0 else c.shares, draw := c.draw, counts := !inside, busy := !inside }

/-- Whether a command holds its interval: booked or running, or suspended while started actions run to the end of their
windows (R62). -/
def Cmd.onWheel (c : Cmd) : Bool :=
  c.phase == .booked || (c.phase == .suspended && c.actions.any fun a => a.phase == .running && a.overran == 0)

/-- The commands with a place on the wheel: those that hold their interval, those that ended before it (R340), those whose record is
on its way to the journal, and those tentatively booked for a head (R343, R439). -/
def State.bookedCmds (s : State) : List (Nat × Cmd) :=
  (s.contexts.flatMap fun e => (e.2.stream.cmds.filter Cmd.onWheel).map (e.1, ·)) ++
  ((s.journal.staging.filter fun x => x.cmd.opcode == 0x0301 && x.cmd.cls != 2).map fun x => (x.stream, x.cmd)) ++
  ((s.schedule.tentative.filter (·.cmd.cls != 2)).map fun t => (t.context, t.cmd)) ++ s.schedule.spent

/-- The schedule notch in which a command's booked interval ends (R340). -/
def Cmd.intervalEnd (m : Cmd) : Nat := m.start + m.rampIn + m.span

/-- What the wheel keeps of a command that has ended. -/
def Cmd.spent (m : Cmd) : Cmd :=
  { csn := m.csn, opcode := m.opcode, frame := m.frame, phase := .booked, begun := true, cls := m.cls, booking := m.booking,
    occurrence := m.occurrence, start := m.start, rampIn := m.rampIn, span := m.span, draw := m.draw, quarters := m.quarters,
    hoppers := m.hoppers, shares := m.shares }

/-- FILLER commands accepted on the whole device that have not yet started (R350). -/
def State.fillersWaiting (s : State) : Nat :=
  sumNat (s.contexts.map fun e => (e.2.stream.cmds.filter fun m =>
    m.opcode == 0x0301 && m.cls == 2 && m.phase != .completed && !m.chosen).length)

/-- The commands placed in an occurrence of a booking. -/
def State.placedIn (s : State) (b k : Nat) : List Cmd :=
  (s.bookedCmds.filter fun x => x.2.booking == b && x.2.occurrence == some k).map (·.2)

def State.occurrenceHold (s : State) (b : Booking) (k : Nat) : Hold :=
  let o := b.first + k * b.period
  { first := o, stop := o + b.size, rampEnd := o + b.lead, quarters := b.quarters, hoppers := b.hoppers,
    shares := b.shares, draw := b.draw, counts := true, busy := !(s.placedIn b.id k).isEmpty }

/-- Everything booked that shares a notch with [a, z). -/
def State.holds (s : State) (a z : Nat) : List Hold :=
  ((s.bookedCmds.map (·.2.hold)).filter fun h => h.first < z && a < h.stop) ++
  s.schedule.bookings.flatMap fun b => (b.between a z).map (s.occurrenceHold b)

/-- Whether a booked interval runs in schedule notch `v`; a lead counts when its occurrence holds a command (R355). -/
def State.intervalAt (s : State) (v : Nat) : Bool :=
  s.bookedCmds.any (fun x => x.2.start ≤ v && v < x.2.start + x.2.rampIn + x.2.span) ||
  s.schedule.bookings.any fun b => (b.between v (v + 1)).any fun k =>
    v < b.first + k * b.period + b.lead && !(s.placedIn b.id k).isEmpty

/-- The sum of draw levels less 320 W, over 320 W. -/
def drawOf (l : List Hold) : Int := l.foldl (fun w h => w + (h.draw : Int) - 320) 320

/-- The booked draw in a schedule notch (R341). -/
def State.bookedDraw (s : State) (v : Nat) : Int := drawOf ((s.holds v (v + 1)).filter (·.counts))

/-- The ramp draw: an occurrence without an accepted command counts 320 W. -/
def State.rampDraw (s : State) (v : Nat) : Int := drawOf ((s.holds v (v + 1)).filter fun h => h.counts && h.busy)

/-- The ramp-in of work that starts at `v` and raises the ramp draw there by `more` (R58, R341). -/
def State.rampOf (s : State) (v : Nat) (more : Int) : Nat :=
  let prev := if v = 0 then 320 else s.rampDraw (v - 1)
  ceilDiv (s.rampDraw v + more - prev).toNat 100 * 64

/-- The ramp-in of work of a draw level that starts at `v`. -/
def State.rampIn (s : State) (v draw : Nat) : Nat := s.rampOf v ((draw : Int) - 320)

/-- Whether a ramp-in of `g` notches from `v` meets the ramp-in of another command or the lead of an occurrence (R341). -/
def rampClash (l : List Hold) (v g : Nat) : Bool :=
  l.any fun h => decide (0 < g ∧ h.first < h.rampEnd ∧ h.first < v + g ∧ v < h.rampEnd)

/-! ## Placing (R344, R348) -/

/-- What a command or a booking wants to hold. -/
structure Footprint where
  quarters : Nat
  hoppers : Nat
  shares : Nat
  draw : Nat
  deriving DecidableEq, Repr

def shareOf (shares k : Nat) : Nat := bits shares (4 * k + 3) (4 * k)

/-- The notches of a window in which the work booked changes: its first, each start and each end within it. Where a hold below
320 W ends, the booked draw rises (R341). -/
def pressing (l : List Hold) (a z : Nat) : List Nat :=
  a :: (l.map (·.first) ++ l.map (·.stop)).filter fun x => a < x && x < z

/-- What keeps work with a ramp-in of `g` and `w` further notches from starting at `v`, as Limiting bits (R353). Units held by
other work stand alone, as in the example of three tenants (command c, whose stacks and draw would not have fitted either). -/
def State.blockers (s : State) (v g w : Nat) (f : Footprint) (cap : Nat) : Nat :=
  let l := s.holds v (v + g + w)
  let across (p : Nat) : List Hold := l.filter fun h => h.first ≤ p && p < h.stop
  let quarters := l.foldl (fun m h => m ||| (h.quarters &&& f.quarters)) 0
  let hoppers := l.foldl (fun m h => m ||| (h.hoppers &&& f.hoppers)) 0
  let heavy := (List.range 8).filter fun k => (pressing l v (v + g + w)).any fun p =>
    decide (16 < sumNat ((across p).map fun h => shareOf h.shares k) + shareOf f.shares k) && 0 < shareOf f.shares k
  let drawn := (pressing l v (v + g + w)).any fun p =>
    decide ((cap : Int) < drawOf ((across p).filter (·.counts)) + (f.draw : Int) - 320)
  let ramps := rampClash l v g
  let units := quarters + 2 ^ 16 * hoppers
  if units ≠ 0 then units else 2 ^ 20 * maskOf heavy + 2 ^ 28 * bnat drawn + 2 ^ 29 * bnat ramps

/-- The notches above `v` nearest to it at which a start may become possible: an end, a change of draw before or in
the start notch, the end of a ramp-in. -/
def State.nextPoint (s : State) (v : Nat) : Option Nat :=
  let cmds := s.bookedCmds.flatMap fun x =>
    let h := x.2.hold
    [h.first, h.first + 1, h.rampEnd, h.stop, h.stop + 1]
  let occ := s.schedule.bookings.flatMap fun b =>
    let k := (v - b.first) / b.period
    let ks := match b.only with
      | some l => l
      | none => [k, k + 1].filter (· < b.count)
    ks.flatMap fun k =>
      let o := b.first + k * b.period
      [o, o + 1, o + b.lead, o + b.size, o + b.size + 1]
  ((cmds ++ occ).filter (v < ·)).foldl (fun (m : Option Nat) x => some (match m with | some y => min x y | none => x)) none

/-- The earliest start from `v` on for a STANDARD command, with its ramp-in and what blocked the notches before it. -/
def State.search (s : State) (w : Nat) (f : Footprint) (cap : Nat) : Nat → Nat → Nat → Option (Nat × Nat) × Nat
  | 0, _, lim => (none, lim)
  | fuel + 1, v, lim =>
    let g := s.rampIn v f.draw
    let b := s.blockers v g w f cap
    if b = 0 then (some (v, g), lim)
    else
      match s.nextPoint v with
      | none => (none, lim ||| b)
      | some x => s.search w f cap fuel x (lim ||| b)

/-- More points than all bookings together can have. -/
def searchFuel : Nat := 2 ^ 48

/-- Notches until the domains that a footprint of a context needs can work (R344, R358, R359, R174). -/
def State.wakeLead (s : State) (f : Footprint) : Nat :=
  let cores := (quarterCores f.quarters).filter s.logicalExists
  let shared := (List.range 8).filter fun k => 0 < shareOf f.shares k
  let slow (l : List Nat) (t : Nat) : Nat := if l.any fun k => !s.isOn k then t else 0
  max (max (slow (cores.map s.groupOf) 256) (slow (cores.map fun c => 64 + dieOfCore (s.physical c)) 1024))
    (max (slow (shared.map (68 + ·)) 2048) (slow (if f.hoppers = 0 then [] else [78]) 64)) +
  (if shared.any fun k => (s.stack k).selfRefresh then 2048 else 0)

/-- The first schedule notch at which a command may start (R344). -/
def State.lowest (s : State) (f : Footprint) (notBefore : Nat) : Nat :=
  max (s.clock + 16 + s.wakeLead f) (s.scheduled notBefore)

/-- Whether the lead of an occurrence raises the draw: it has not begun, or it began with a command in the occurrence (R348). -/
def State.leadRaised (s : State) (b : Booking) (k : Nat) : Bool :=
  let o := b.first + k * b.period
  s.clock < o || b.raised.contains k

/-- The place of a RESERVED command in occurrence `k` of its booking: behind the last one placed there, completed or not, with its
ramp-in. With the command in it the occurrence
counts at the booking's draw level, and the command's own counts for nothing (R341). -/
def State.inOccurrence (s : State) (b : Booking) (k w : Nat) (f : Footprint) (low : Nat) : Option (Nat × Nat) :=
  let o := b.first + k * b.period
  let v := maxNat ((o + b.lead) :: (o + sget 0 b.ends k) :: (s.placedIn b.id k).map fun c => c.start + c.rampIn + c.span)
  let g := if s.leadRaised b k then 0
    else s.rampOf v (if (s.placedIn b.id k).isEmpty then (b.draw : Int) - 320 else 0)
  if low ≤ v ∧ v + g + w ≤ o + b.size ∧ !rampClash (s.holds v (v + g)) v g then some (v, g) else none

/-- The earliest occurrence from `k` on that can hold the command. -/
def State.occurrenceFor (s : State) (b : Booking) (w : Nat) (f : Footprint) (low : Nat) :
    Nat → Nat → Option (Nat × Nat × Nat)
  | 0, _ => none
  | left + 1, k =>
    match s.inOccurrence b k w f low with
    | some (v, g) => some (k, v, g)
    | none => s.occurrenceFor b w f low left (k + 1)

def State.reservedPlace (s : State) (b : Booking) (w : Nat) (f : Footprint) (low : Nat) : Option (Nat × Nat × Nat) :=
  let k := (low - b.first - b.size) / b.period
  s.occurrenceFor b w f low (b.count - k) k

/-- Whether a record's footprint and span fit a booking (R348). -/
def Booking.fits (b : Booking) (w : Nat) (f : Footprint) : Bool :=
  f.quarters &&& b.quarters == f.quarters && f.hoppers &&& b.hoppers == f.hoppers &&
  (List.range 8).all (fun k => shareOf f.shares k ≤ shareOf b.shares k) && f.draw ≤ b.draw && w ≤ b.span

/-- Whether the booking's last occurrence has passed (R347, R348). -/
def State.bookingOver (s : State) (b : Booking) : Bool :=
  match b.only with
  | some l => l.all fun k => (s.placedIn b.id k).isEmpty
  | none => b.first + (b.count - 1) * b.period + b.size ≤ s.clock

/-- The booking of a number, while it exists for R348: from the DONE of its RUN.BOOK on. -/
def State.booking (s : State) (n : Nat) : Option Booking :=
  s.schedule.bookings.find? fun b => b.id == n && b.only.isNone && b.due.isNone && !s.bookingOver b

end Sys2Proof.Machine
end

