-- ==== Sys2Proof/Machine/Registers.lean ====
section
/-! DEFINITION. The control space (R490 to R496): what every register reads, and what a write does to W1C bits and
counters. The registers of each block follow that block's tables: R495, R411, R428, R429 (DEVICE), R41 (WHEEL), R484
(PORT), R381 (PWR), R184 and R212 (STACK), R301 (LINK), R158 (MILLPOND), R278 (HOPPER), R94 and R241 (CORE). -/

namespace Sys2Proof.Machine

/-! ## Mapped addresses (R490) -/

def isMapped (a : Nat) : Bool :=
  a < 0x10000 || (0x100000 ≤ a && a < 0x110000) || (0x200000 ≤ a && a < 0x210000) || (0x300000 ≤ a && a < 0x310000) ||
  (0x400000 ≤ a && a < 0x660000) || (0x700000 ≤ a && a < 0x840000) || (0x1000000 ≤ a && a < 0x2000000)

/-- A register of the control space: its block, instance and offset. -/
inductive RegPlace where
  | device (o : Nat) | wheel (o : Nat) | port (o : Nat) | power (o : Nat) | domain (k o : Nat)
  | stack (k o : Nat) | link (i o : Nat) | millpond (d o : Nat) | hopper (h o : Nat) | core (p o : Nat)
  deriving DecidableEq, Repr

def regPlace (a : Nat) : RegPlace :=
  if a < 0x100000 then .device a
  else if a < 0x200000 then .wheel (a - 0x100000)
  else if a < 0x300000 then .port (a - 0x200000)
  else if a < 0x301000 then .power (a - 0x300000)
  else if a < 0x306000 then .domain ((a - 0x301000) / 0x100) (a % 0x100)
  else if a < 0x400000 then .power (a - 0x300000)
  else if a < 0x600000 then .stack ((a - 0x400000) / 0x40000) (a % 0x40000)
  else if a < 0x700000 then .link ((a - 0x600000) / 0x10000) (a % 0x10000)
  else if a < 0x800000 then .millpond ((a - 0x700000) / 0x40000) (a % 0x40000)
  else if a < 0x1000000 then .hopper ((a - 0x800000) / 0x10000) (a % 0x10000)
  else .core ((a - 0x1000000) / 0x10000) (a % 0x10000)

/-- A value that a register shows only once stage `n` of the present start has passed (R493). -/
def State.atStage (s : State) (n v : Nat) : Nat := if s.stagePassed n then v else 0

/-- The same for a field that a warm start leaves as it was, or current. -/
def State.atCold (s : State) (n v : Nat) : Nat := if s.dev.warm then v else s.atStage n v

/-! ## DEVICE -/

/-- Bundles of a link. -/
def bundlesOf (i : Nat) : Nat := if i < 4 then 16 else 1

def Link.bundle (l : Link) (b : Nat) : Bundle := sget {} l.bundles b
def Link.setBundle (l : Link) (b : Nat) (v : Bundle) : Link := { l with bundles := sput {} l.bundles b v }

/-- The bundles of a link not removed, as a list; their number is its width (R287). -/
def State.liveBundles (s : State) (i : Nat) : List Nat :=
  (List.range (bundlesOf i)).filter fun b => !((s.link i).bundle b).removed

def State.width (s : State) (i : Nat) : Nat := (s.liveBundles i).length

/-- The bundle count of the narrowest Welt link (R57). -/
def State.narrowest (s : State) : Nat := (List.range 4).foldl (fun m i => min m (s.width i)) 16

/-- The reduction value (R427). -/
def State.reduction (s : State) : Nat :=
  s.dev.cores + s.dev.lanes * 2 ^ 8 +
  sumNat ((List.range 4).map fun i => s.width i * 2 ^ (16 + 5 * i)) +
  sumNat ((List.range 2).map fun h => bnat (s.width (4 + h) == 0) * 2 ^ (36 + h)) +
  sumNat ((List.range 8).map fun k => bnat (s.stack k).failed * 2 ^ (38 + k))

/-- A word of an ASCII string register (R495). -/
def textWord (l : List Byte) (i : Nat) : Nat := le l (4 * i) 4


def State.openContexts (s : State) : Nat := (s.contexts.filter fun e => e.2.state != .free).length
def State.openSessions (s : State) : Nat := (s.sessions.filter fun e => e.2.isOpen).length

/-- DEVICE.Summary (R411): bit 2 to the block's place is set while the block holds a set trouble bit. -/
def State.summary (s : State) : Nat :=
  let any (l : List Bool) : Nat := bnat (l.any (·))
  any [s.wheel.trouble != 0] +
  any (((s.power.trouble != 0) :: s.power.spots.map fun e => e.2.disagree)) * 2 +
  any [s.port.trouble != 0] * 4 +
  sumNat ((List.range 4).map fun d =>
    any (s.cores.map fun e => dieOfCore e.1 == d && (e.2.trouble != 0 || e.2.streamTrouble != 0)) * 2 ^ (3 + d)) +
  sumNat ((List.range 4).map fun d => any [(s.pond d).trouble != 0] * 2 ^ (7 + d)) +
  sumNat ((List.range 8).map fun k =>
    any (((s.stack k).trouble != 0) :: (s.stack k).pcs.map fun e => e.2.guardTrip || e.2.queueFull) * 2 ^ (11 + k)) +
  sumNat ((List.range 6).map fun i => any [(s.link i).trouble != 0] * 2 ^ (19 + i)) +
  sumNat ((List.range 4).map fun h => any [(s.hopper h).trouble != 0] * 2 ^ (25 + h)) +
  any [s.dev.trouble != 0] * 2 ^ 29

def Device.recoveryCfg (d : Device) : Nat := bnat d.autoWarm + bnat d.replay * 2 + d.faultHold * 2 ^ 8

def State.deviceReg (s : State) (o : Nat) : Nat :=
  let d := s.dev
  if o < 0x10 then s.atCold 1 (textWord (s.fromEeprom partNumber) (o / 4))
  else if o < 0x20 then s.atCold 1 (textWord (s.fromEeprom s.dev.serial) ((o - 0x10) / 4))
  else if 0x300 ≤ o ∧ o < 0x3F0 then
    s.atStage 9 (leNat ((List.range 4).map fun j => BitVec.ofNat 8 (min (s.physical ((o - 0x300) + j)) 255)))
  else if 0x1000 ≤ o ∧ o < 0x1280 then
    let w := (o - 0x1000) / 4
    (sget 0 d.reports w).toNat
  else
    match o with
    | 0x20 => s.atCold 2 (leNat ((d.revisions.take 4).map (BitVec.ofNat 8)))
    | 0x24 => s.atCold 2 (d.revisions.getD 4 0) + s.atStage 4 (d.protocol * 2 ^ 8 + d.level * 2 ^ 16)
    | 0x28 => s.deviceState.code + s.openContexts * 2 ^ 8 + s.openSessions * 2 ^ 16
    | 0x2C => s.atStage 5 s.shape
    | 0x30 => s.atStage 4 (d.disabled.toNat % 2 ^ 32)
    | 0x34 => s.atStage 4 (d.disabled.toNat / 2 ^ 32)
    | 0x38 => d.coldStarts
    | 0x3C => d.warmStarts
    | 0x100 => s.summary
    | 0x104 => d.trouble.toNat
    | 0x108 => d.recoveryCfg
    | 0x10C => d.recoveryLevel + d.recoveryCause * 2 ^ 4 + d.recoveryObject * 2 ^ 12
    | 0x110 => d.staleDropped
    | 0x200 => min d.stage 9 + bnat d.warm * 2 ^ 4 + d.outcome * 2 ^ 8
    | 0x204 => d.readiness + d.readinessStage * 2 ^ 8 + d.readinessDetail * 2 ^ 16
    | 0x208 => s.atStage 9 (s.reduction % 2 ^ 32)
    | 0x20C => s.atStage 9 (s.reduction / 2 ^ 32)
    | 0x210 => d.startTrouble.toNat
    | 0x214 => s.atCold 1 d.defects.length
    | _ => 0

/-! ## WHEEL -/

/-- Seconds in the present HOLDOVER (R41). -/
def State.holdSeconds (s : State) : Nat :=
  if s.wheel.state = .holdover then (s.uptime - s.wheel.holdSince) / 2 ^ 20 else 0

/-- The error bound (R38, R39): in HOLDOVER, E0 and 53 hundredths or 21 notches for each second. -/
def State.errorBound (s : State) : Nat :=
  if s.wheel.state = .holdover then
    s.wheel.holdBound + (if s.wheel.holdLearned then ceilDiv (53 * s.holdSeconds) 100 else 21 * s.holdSeconds)
  else s.wheel.errorBound

def Wheel.sourceCfg (w : Wheel) : Nat := w.first + w.second * 4 + bnat w.useRefclk * 16 + bnat w.ppsOut * 32
def Wheel.ptpCfg (w : Wheel) : Nat := w.domain + w.transport * 2 ^ 8 + bnat w.peerDelay * 2 ^ 10 + bnat w.unicast * 2 ^ 11

def State.wheelReg (s : State) (o : Nat) : Nat :=
  let w := s.wheel
  match o with
  | 0x00 => w.position % 2 ^ 32
  | 0x04 => w.latchedHi.toNat
  | 0x08 => w.state.code + w.source * 2 ^ 4 + bnat w.learned * 2 ^ 6 + bnat w.bounded * 2 ^ 7 +
      bnat w.refclkValid * 2 ^ 8 + bnat w.ppsValid * 2 ^ 9 + bnat w.ptpValid * 2 ^ 10 + bnat w.slewing * 2 ^ 11
  | 0x0C => s.errorBound
  | 0x10 => unsigned 32 w.offset
  | 0x14 => unsigned 32 w.freqAdj
  | 0x18 => w.sourceCfg
  | 0x1C => w.holdLimit
  | 0x20 => s.holdSeconds
  | 0x24 => w.trouble.toNat
  | 0x28 => w.ptpCfg
  | 0x2C => unsigned 32 w.asymmetry
  | _ => 0

/-! ## PORT -/

def State.portReg (s : State) (o : Nat) : Nat :=
  match o with
  | 0x00 => s.atCold 1 (bnat s.dev.portUp + s.dev.portWidth * 2 + s.dev.medium * 8 + bnat s.dev.negotiated * 32) +
      bnat s.sec.required * 64
  | 0x04 => s.port.trouble.toNat
  | 0x08 => s.port.udpPort
  | 0x0C => s.port.dropped
  | 0x10 => s.port.fecCorrected
  | 0x14 => s.port.fecUncorrected
  | 0x18 => s.port.unprotected
  | 0x1C => s.port.fabricDropped
  | _ => 0

/-! ## PWR and PWRDOM -/

/-- A measured FP32 value in whole units of 1 / `per`, rounded down and held to a field of `n` bits. -/
def inUnits (w : Word) (per n : Nat) : Nat :=
  min (2 ^ n - 1) (((ofFp32 w).mul (natVal per)).floor.toNat)

/-- Whether a pause holds the schedule now (R372). -/
def State.paused (s : State) : Bool := s.power.pausing || s.holding

def State.spotReg (s : State) (i : Nat) : Nat :=
  let x := s.spot i
  s.atCold 1 (unsigned 16 (((ofFp32 x.governing).mul (natVal 16)).floor)) + bnat x.disagree * 2 ^ 16 +
    bnat x.faulted * 2 ^ 17 + x.difference * 2 ^ 24

def State.powerReg (s : State) (o : Nat) : Nat :=
  let p := s.power
  if 0x400 ≤ o ∧ o < 0x400 + 4 * 93 then s.spotReg ((o - 0x400) / 4)
  else
    match o with
    | 0x00 => (if s.holding then 2 else if p.pauseNow = 0 then 0 else 1) + bnat p.trip * 4 +
        s.atCold 1 (min s.dev.portWidth 2 * 8) + (if s.holding then 1024 else p.pauseNow) * 2 ^ 5 + s.atCold 1 (p.hottest * 2 ^ 16)
    | 0x04 => p.trouble.toNat
    | 0x08 => s.powerCap + p.thermalCap * 2 ^ 16
    | 0x0C => inUnits (p.theta.getD Config.theta0) 10000 16 + inUnits Config.theta0 10000 16 * 2 ^ 16
    | 0x10 => inUnits p.voltage 10 12 + inUnits p.current 10 12 * 2 ^ 16
    | 0x14 => min p.draw 4095 + min (s.bookedDraw s.clock).toNat 4095 * 2 ^ 16
    | 0x18 => s.atCold 1 (inUnits p.inlet 4 8 + inUnits p.outlet 4 8 * 2 ^ 8 + min p.flow 255 * 2 ^ 16 +
        min (inUnits p.pressure 1 9 / 2) 255 * 2 ^ 24)
    | 0x1C => p.autoMask + p.hostCap * 2 ^ 16
    | 0x20 => p.idleThreshold
    | 0x24 => p.pauseCount
    | 0x28 => s.atCold 1 (p.latchCause + p.latchSpot * 2 ^ 4)
    | _ => 0

def DomainState.code : DomainState → Nat
  | .off => 0 | .waking => 1 | .on => 2

def State.domainReg (s : State) (k o : Nat) : Nat :=
  let d := s.domain k
  match o with
  | 0x00 => s.atCold 9 (if k = 79 then 2 else d.state.code) + bnat (s.claimed k) * 4 + bnat d.gated * 8 +
      min d.draw 4095 * 2 ^ 16
  | 0x04 => d.wakeCount
  | _ => 0

/-! ## STACK -/

def isQuern (k : Nat) : Bool := k % 2 == 0

def PcMode.code : PcMode → Nat
  | .plain => 0 | .compute => 1 | .sealing => 2

def PseudoChannel.depth (c : PseudoChannel) : Nat := c.queue.length + bnat c.running.isSome

/-- STACK.PcMode of a pseudo-channel; in PLAIN it has no window (R212). -/
def State.pcModeReg (s : State) (k p : Nat) : Nat :=
  let c := s.pseudo k p
  let window := if c.mode = .plain then 0 else c.context * 2 ^ 4 + c.firstSeg * 2 ^ 10 + c.segCount * 2 ^ 17
  c.mode.code + bnat c.guardTrip * 4 + bnat c.queueFull * 8 + window + c.depth * 2 ^ 25

def State.computePcs (s : State) (k : Nat) : Nat := ((s.stack k).pcs.filter fun e => e.2.mode != .plain).length

def State.segField (s : State) (g : Nat) : Nat := if s.segRetired g then 3 else s.segCode g

/-- The segments of a stack that are retired (R184). -/
def State.retiredSegments (s : State) (k : Nat) : Nat :=
  ((List.range 128).filter fun i => s.segRetired (128 * k + i)).length

def State.stackReg (s : State) (k o : Nat) : Nat :=
  let t := s.stack k
  let on := s.isOn (68 + k)
  if o = 0 then k + bnat (isQuern k) * 8 + k / 2 * 16
  else if o = 4 then
    s.atStage 6 (bnat t.trained) + bnat (t.selfRefresh || !on) * 2 + bnat t.sweep.isSome * 4 + s.atStage 6 (bnat t.failed * 8) +
      s.atCold 6 ((if t.hot then 3 else t.band) * 16 + min t.temperature 255 * 2 ^ 8) + s.computePcs k * 2 ^ 16
  else if !on then 0
  else if 0x100 ≤ o ∧ o < 0x120 then
    sumNat ((List.range 16).map fun i => s.segField (128 * k + 16 * ((o - 0x100) / 4) + i) * 4 ^ i)
  else if 0x200 ≤ o ∧ o < 0x300 then (sget 0 t.capture ((o - 0x200) / 4)).toNat
  else if 0x400 ≤ o ∧ o < 0x500 then (if isQuern k then s.pcModeReg k ((o - 0x400) / 4) else 0)
  else
    match o with
    | 0x08 => t.trouble.toNat
    | 0x0C => t.correctedCount
    | 0x10 => t.uncorrectableCount
    | 0x14 => t.errorAddress % 2 ^ 32
    | 0x18 => t.errorAddress / 2 ^ 32 + t.errorKind * 2 ^ 8 + t.errorCode * 2 ^ 12
    | 0x1C => s.atStage 7 (saturate16 (s.retiredPages k) + saturate16 (s.pendingPages k) * 2 ^ 16)
    | 0x20 => s.atStage 7 (s.retiredSegments k)
    | 0x24 => t.sweepSegment +
        (if t.sweep.isSome then (Config.sweepProgress t.sweepSegment (s.uptime - t.sweepSince)).val * 2 ^ 16 else 0) +
          min t.sweepLeft 128 * 2 ^ 24
    | 0x28 => s.atStage 7 (bnat t.testDone + bnat t.testFailed * 2 + t.testStep * 4 + t.testCode * 32 +
        bnat t.rowSkipped * 128)
    | 0x2C => s.atStage 6 (min t.lanesRepaired 255 + bnat t.unrepaired * 2 ^ 8)
    | 0x30 => t.captureNext + t.captureEvents * 2 ^ 8
    | _ => 0

/-! ## LINK -/

/-- Runner dies at the ends of a link (R17); a Sluice link's B end is the Sluice die. -/
def linkEnds (i : Nat) : Nat × Nat :=
  match i with
  | 0 => (0, 1) | 1 => (1, 3) | 2 => (2, 3) | 3 => (0, 2) | 4 => (0, 4) | _ => (1, 4)

def State.linkState (s : State) (i : Nat) : Nat :=
  let live := s.liveBundles i
  let l := s.link i
  if live.isEmpty then 0
  else if !l.trained then 1
  else if live.any fun b => (l.bundle b).aToB.retraining || (l.bundle b).bToA.retraining then 3
  else 2

/-- Whether a bundle direction is being retrained. -/
def Bundle.retraining (b : Bundle) : Bool := b.aToB.retraining || b.bToA.retraining

/-- Whether a bundle of a Welt link is out, so that the traffic of its port uses another (R285, R286). -/
def State.portsMoved (s : State) (i : Nat) : Bool :=
  decide (i < 4) && (List.range 16).any fun b => ((s.link i).bundle b).removed || ((s.link i).bundle b).retraining

def State.linkReg (s : State) (i o : Nat) : Nat :=
  let l := s.link i
  let e := linkEnds i
  if 0x40 ≤ o ∧ o < 0x80 then
    let b := l.bundle ((o - 0x40) / 4)
    if (o - 0x40) / 4 < bundlesOf i then s.atStage 4 (b.aToB.sparesUsed + b.bToA.sparesUsed * 16) else 0
  else
    match o with
    | 0x00 => i + bnat (4 ≤ i) * 8 + e.1 * 16 + (if i < 4 then e.2 * 64 else 0)
    | 0x04 => s.atStage 4 (s.linkState i + s.width i * 4 + bnat (l.detour || s.portsMoved i) * 2 ^ 7)
    | 0x08 => l.trouble.toNat
    | 0x0C => s.atStage 4 (maskOf (s.liveBundles i))
    | 0x10 => s.atStage 4 (s.dev.revisions.getD e.1 0 + s.dev.revisions.getD e.2 0 * 2 ^ 8 + s.dev.protocol * 2 ^ 16 +
        bnat l.disjoint * 2 ^ 24)
    | 0x14 => l.replayCount
    | 0x18 => l.retrainCount
    | 0x1C => l.storeA.length % 2 ^ 15 + l.storeB.length % 2 ^ 15 * 2 ^ 16
    | _ => 0

/-! ## MILLPOND -/

def State.millpondReg (s : State) (d o : Nat) : Nat :=
  let t := s.pond d
  if o = 0 then d
  else if !s.isOn (64 + d) then 0
  else if 0x40 ≤ o ∧ o < 0x80 then
    let w := (o - 0x40) / 4
    (match sget none t.ways w with
     | some c => c + 2 ^ 6
     | none => 0) + bnat (w == 15 && d < 2) * 2 ^ 7
  else
    match o with
    | 0x04 => t.steps + bnat t.resplit.isSome * 2 ^ 8
    | 0x08 => s.atCold 5 (sumNat ((List.range 4).map fun l => (if bit t.hotLayers l then 3 else t.bands.getD l 0) * 4 ^ l))
    | 0x0C => t.trouble.toNat
    | 0x10 => t.correctedCount
    | 0x14 => t.errorAddress % 2 ^ 32
    | 0x18 => t.errorAddress / 2 ^ 32 % 2 ^ 16 + t.errorKind * 2 ^ 16
    | 0x1C => (t.lines.filter (·.dirty)).length
    | _ => 0

/-! ## HOPPER -/

def State.hopperReg (s : State) (h o : Nat) : Nat :=
  let t := s.hopper h
  let on := s.isOn 78
  match o with
  | 0x00 => h + h / 2 * 4
  | 0x04 => if !on then 0 else if t.running then 2 + t.context * 2 ^ 8 + (t.endRow - t.nextRow) * 2 ^ 15 else 1
  | _ =>
    if !on then 0
    else
      match o with
      | 0x08 => t.trouble.toNat
      | 0x0C => t.rowsDone
      | 0x10 => t.flaggedRows
      | 0x14 => t.faultAddress % 2 ^ 32
      | 0x18 => t.faultAddress / 2 ^ 32 + t.faultKind * 2 ^ 16
      | _ => 0

/-! ## CORE -/

def CoreState.code : CoreState → Nat
  | .off => 0 | .disabled => 1 | .idle => 2 | .preload => 3 | .running => 4 | .trapped => 5

def ChannelState.code : ChannelState → Nat
  | .idle => 0 | .running => 1 | .waitingBarrier => 2 | .haltedPage => 3 | .haltedError => 4

def State.channelReg (s : State) (p c w : Nat) : Nat :=
  let h := (s.core p).channel c
  match w with
  | 0 => h.state.code + h.queue.length * 8 + h.cause * 2 ^ 8 + h.context * 2 ^ 12
  | 1 => if c < 8 then (match h.queue with
        | d :: _ => d.entry % 2 ^ 16 + d.item % 2 ^ 12 * 2 ^ 16
        | [] => 0)
      else h.enqueued % 2 ^ 16
  | 2 => h.position % 2 ^ 32
  | 3 => h.position / 2 ^ 32 % 2 ^ 6
  | 4 => h.faultAddress % 2 ^ 32
  | 5 => h.faultAddress / 2 ^ 32 % 2 ^ 9 + h.faultSpace * 2 ^ 12 + h.faultCore * 2 ^ 16
  | 6 => h.done
  | _ => 0

def Core.flights (c : Core) : List Flight := c.channels.flatMap fun e => e.2.flights
def Core.readsInFlight (c : Core) : Nat := (c.flights.filter (·.data.isNone)).length
def Core.writesInFlight (c : Core) : Nat := (c.flights.filter (·.data.isSome)).length

def State.coreReg (s : State) (p o : Nat) : Nat :=
  let c := s.core p
  let on := s.isOn (p / 4)
  if o = 0 then p + s.atStage 9 (s.logicalOf p * 2 ^ 8) + p / 64 * 2 ^ 16
  else if o = 4 then
    if !on then 0
    else s.atStage 9 c.state.code + c.context * 2 ^ 8 + (c.queues + 4 * bnat (!c.streamQ.isEmpty)) * 2 ^ 16 + bnat c.bank * 2 ^ 19
  else if !on then 0
  else if 0x200 ≤ o ∧ o < 0x400 then s.channelReg p ((o - 0x200) / 0x20) (o % 0x20 / 4)
  else if 0x400 ≤ o ∧ o < 0x500 then (sget 0 c.barriers ((o - 0x400) / 4)).toNat
  else
    match o with
    | 0x08 => c.arrayMode.toNat
    | 0x0C => s.atStage 5 c.retiredLanes + s.atStage 9 (c.lanes * 2 ^ 17)
    | 0x10 => c.trouble.toNat
    | 0x14 => c.trapCause.toNat
    | 0x18 => c.trapPc.toNat
    | 0x1C => c.trapAddr.toNat
    | 0x20 => c.parityCount
    | 0x24 => c.correctedCount
    | 0x100 => c.readsInFlight + c.writesInFlight * 2 ^ 16
    | 0x104 => c.streamTrouble.toNat
    | _ => 0

/-! ## Reading (R491, R492) -/

/-- The value of a register; a mapped offset that no table lists reads zero. -/
def State.regValue (s : State) (a : Nat) : Word :=
  BitVec.ofNat 32
    (match regPlace a with
     | .device o => s.deviceReg o
     | .wheel o => s.wheelReg o
     | .port o => s.portReg o
     | .power o => s.powerReg o
     | .domain k o => s.domainReg k o
     | .stack k o => s.stackReg k o
     | .link i o => s.linkReg i o
     | .millpond d o => s.millpondReg d o
     | .hopper h o => s.hopperReg h o
     | .core p o => s.coreReg p o)

/-- `n` registers from an address. -/
def State.regBytes (s : State) (a n : Nat) : List Byte :=
  (List.range n).flatMap fun i => leBytes 4 (s.regValue (a + 4 * i)).toNat

/-! ## Writing -/

/-- Whether the block of a register heeds writes now: its power domain is on (R493). -/
def State.regWritable (s : State) (r : RegPlace) : Bool :=
  match r with
  | .stack k _ => s.isOn (68 + k)
  | .millpond d _ => s.isOn (64 + d)
  | .hopper _ _ => s.isOn 78
  | .core p _ => s.isOn (p / 4)
  | _ => true

/-- The trouble register at a place, when it is one. -/
def troubleAt (r : RegPlace) : Option TroubleReg :=
  match r with
  | .device 0x104 => some .device
  | .device 0x210 => some .start
  | .wheel 0x24 => some .wheel
  | .port 0x04 => some .port
  | .power 0x04 => some .power
  | .stack k 0x08 => some (.stack k)
  | .link i 0x08 => some (.link i)
  | .millpond d 0x0C => some (.millpond d)
  | .hopper h 0x08 => some (.hopper h)
  | .core p 0x10 => some (.core p)
  | .core p 0x104 => some (.coreStream p)
  | _ => none

/-- The ones of a write that clear: a bit set in this same notch stays set (R492). -/
def State.clearing (s : State) (a : Nat) (v : Word) : Word :=
  v &&& ~~~ BitVec.ofNat 32 (maskOf ((s.freshTrouble.filter (·.1 == a)).map (·.2)))

/-- The counts since a trouble bit was last cleared begin anew. -/
def State.restartSince (s : State) (r : TroubleReg) (v : Word) : State :=
  match r with
  | .stack k => if v.getLsbD 0 then s.modStack k fun t => { t with correctedSince := 0 } else s
  | .millpond d => if v.getLsbD 0 then s.modPond d fun t => { t with correctedSince := 0 } else s
  | .core p => if v.getLsbD 3 then s.modCore p fun t => { t with correctedSince := 0 } else s
  | .link i => if v.getLsbD 3 then s.modLink i fun t => { t with replaySince := 0 } else s
  | .port => if v.getLsbD 6 then s.modPort fun t => { t with droppedSince := 0 } else s
  | _ => s

/-- Writes a one to bits of a trouble register: they clear (R382, R491). -/
def State.clearTrouble (s : State) (r : TroubleReg) (v : Word) : State :=
  let v := s.clearing r.address v
  (s.setTrouble r (s.trouble r &&& ~~~ v)).restartSince r v

/-- W1C bits outside the trouble registers: a spot's Disagree (R381), GuardTrip and QueueFull (R212). -/
def State.clearFlags (s : State) (r : RegPlace) (a : Nat) (v : Word) : State :=
  match r with
  | .power o =>
    if 0x400 ≤ o ∧ o < 0x400 + 4 * 93 ∧ (s.clearing a v).getLsbD 16 then
      let i := (o - 0x400) / 4
      s.modPower fun p => { p with spots := sput {} p.spots i { sget {} p.spots i with disagree := false } }
    else s
  | .stack k o =>
    if 0x400 ≤ o ∧ o < 0x500 ∧ isQuern k then
      let v := s.clearing a v
      s.modPseudo k ((o - 0x400) / 4) fun c =>
        { c with guardTrip := c.guardTrip && !v.getLsbD 2, queueFull := c.queueFull && !v.getLsbD 3 }
    else s
  | _ => s

/-- A register whose writes clear a W1C bit. -/
def isTroublePlace (r : RegPlace) : Bool :=
  (troubleAt r).isSome ||
  match r with
  | .power o => 0x400 ≤ o && o < 0x400 + 4 * 93
  | .stack k o => 0x400 ≤ o && o < 0x500 && isQuern k
  | _ => false

/-- The counters that a write of any value clears. -/
def isCounterPlace (r : RegPlace) : Bool :=
  match r with
  | .device 0x110 | .power 0x24 | .domain _ 0x04 | .stack _ 0x0C | .stack _ 0x10 | .link _ 0x14 | .link _ 0x18
  | .millpond _ 0x10 | .hopper _ 0x0C | .hopper _ 0x10 | .core _ 0x20 | .core _ 0x24
  | .port 0x0C | .port 0x10 | .port 0x14 | .port 0x18 | .port 0x1C => true
  | _ => false

def State.clearCounter (s : State) (r : RegPlace) : State :=
  match r with
  | .device 0x110 => s.modDev fun d => { d with staleDropped := 0 }
  | .power 0x24 => s.modPower fun p => { p with pauseCount := 0 }
  | .domain k 0x04 => s.modDomain k fun d => { d with wakeCount := 0 }
  | .stack k 0x0C => s.modStack k fun t => { t with correctedCount := 0, correctedSince := 0 }
  | .stack k 0x10 => s.modStack k fun t => { t with uncorrectableCount := 0 }
  | .link i 0x14 => s.modLink i fun t => { t with replayCount := 0, replaySince := 0 }
  | .link i 0x18 => s.modLink i fun t => { t with retrainCount := 0 }
  | .millpond d 0x10 => s.modPond d fun t => { t with correctedCount := 0, correctedSince := 0 }
  | .hopper h 0x0C => s.modHopper h fun t => { t with rowsDone := 0 }
  | .hopper h 0x10 => s.modHopper h fun t => { t with flaggedRows := 0 }
  | .core p 0x20 => s.modCore p fun t => { t with parityCount := 0 }
  | .core p 0x24 => s.modCore p fun t => { t with correctedCount := 0, correctedSince := 0 }
  | .port 0x0C => s.modPort fun p => { p with dropped := 0, droppedSince := 0 }
  | .port 0x10 => s.modPort fun p => { p with fecCorrected := 0 }
  | .port 0x14 => s.modPort fun p => { p with fecUncorrected := 0 }
  | .port 0x18 => s.modPort fun p => { p with unprotected := 0 }
  | .port 0x1C => s.modPort fun p => { p with fabricDropped := 0 }
  | _ => s

/-- The registers with read-write fields. -/
inductive RwReg where
  | sourceCfg | ptpCfg | asymmetry | holdLimit | udpPort | recoveryCfg | lastLatch
  deriving DecidableEq, Repr

def rwAt (r : RegPlace) : Option RwReg :=
  match r with
  | .wheel 0x18 => some .sourceCfg
  | .wheel 0x28 => some .ptpCfg
  | .wheel 0x2C => some .asymmetry
  | .wheel 0x1C => some .holdLimit
  | .port 0x08 => some .udpPort
  | .device 0x108 => some .recoveryCfg
  | .power 0x28 => some .lastLatch
  | _ => none

end Sys2Proof.Machine
end

