-- ==== Sys2Proof/Machine/Mesh.lean ====
section
/-! DEFINITION. The routes of the Deltor mesh across dies (R290, R294, R295, R299), and the delivery stores and sequences (R298,
R299). -/

namespace Sys2Proof.Machine

/-! ## Places -/

/-- The die of a router position (R17). -/
def dieOfRouter (r : Nat) : Nat := r % 16 / 8 + 2 * (r / 128)

/-- The die of a packet's end: 4 for the Sluice die. -/
def dieOfEnd (e : Nat) : Nat := if e < 256 then dieOfRouter e else 4

def sourceDie (p : Packet) : Nat := dieOfEnd p.source
def destinationDie (p : Packet) : Nat := dieOfEnd p.destination

/-- The Hopper unit at an end of a packet. -/
def hopperOf (p : Packet) : Option Nat :=
  if 257 ≤ p.source then some (p.source - 257) else if 257 ≤ p.destination then some (p.destination - 257) else none

/-- The dies at the ends of a link, 4 for the Sluice die; `toB` when the A end sends. -/
def senderOf (i : Nat) (toB : Bool) : Nat := if toB then (linkEnds i).1 else (linkEnds i).2
def receiverOf (i : Nat) (toB : Bool) : Nat := senderOf i (!toB)

/-! ## Routes (R290, R291, R295, R299) -/

/-- The place of a Runner die on the ring RD0, RD1, RD3, RD2. -/
def ringPlace (d : Nat) : Nat := if d = 2 then 3 else if d = 3 then 2 else d

/-- The link from a ring place onwards, forwards or backwards, with its direction. -/
def ringStep (forwards : Bool) (k : Nat) : Nat × Bool :=
  match if forwards then k % 4 else (k + 3) % 4 with
  | 0 => (0, forwards)
  | 1 => (1, forwards)
  | 2 => (2, !forwards)
  | _ => (3, !forwards)

/-- The links from a Runner die to another: by x first, then y (R295), or round the other way of the ring (R299). -/
def ringPath (a b : Nat) (other : Bool) : List (Nat × Bool) :=
  let n := (ringPlace b + 4 - ringPlace a) % 4
  let forwards := (n == 1 || n == 2 && (a == 0 || a == 3)) != other
  (List.range (if forwards then n else (4 - n) % 4)).map fun k =>
    ringStep forwards (if forwards then ringPlace a + k else ringPlace a + 4 - k)

/-- The routes between two dies, of which a packet takes the first that can be used: by R290 and R295; round the other way of the
ring; and for Sluice traffic over the other Sluice link, by x first and by y first (R291, R299, R300; their order is DEDUCED,
assumption log 23). `h` is the Hopper unit at one end, which has a Sluice link of its own. -/
def routesBetween (a b : Nat) (h : Option Nat) : List (List (Nat × Bool)) :=
  let d := if a = 4 then b else a
  let j := (h.map (· / 2)).getD (d % 2)
  let ways := [(j, false), (j, true), (1 - j, false), (1 - j, true)]
  if a = 4 ∧ b = 4 then []
  else if a = 4 then (ways.map fun (j, y) => (4 + j, false) :: ringPath j b y).eraseDups
  else if b = 4 then (ways.map fun (j, y) => ringPath a j y ++ [(4 + j, true)]).eraseDups
  else [ringPath a b false, ringPath a b true]

def candidates (p : Packet) : List (List (Nat × Bool)) := routesBetween (sourceDie p) (destinationDie p) (hopperOf p)

/-- A route that cannot be used: a down link, or a die turned round between its ends (R291, R299, R300). -/
def State.routeBlocked (s : State) (l : List (Nat × Bool)) : Bool :=
  l.any (fun x => s.width x.1 == 0) || (l.drop 1).any fun x => s.dev.diverted.contains (senderOf x.1 x.2)

def pairKey (a b : Nat) : Nat := 5 * a + b
def State.pair (s : State) (a b : Nat) : Pair := s.dev.pairs.getD (pairKey a b) {}
def State.modPair (s : State) (a b : Nat) (f : Pair → Pair) : State :=
  s.modDev fun d => { d with pairs := d.pairs.set (pairKey a b) (f (s.pair a b)) }

/-- The routes that a packet may take now, the one it takes first. While its pair is turned round, that of R295 comes last. -/
def State.routes (s : State) (p : Packet) : List (List (Nat × Bool)) :=
  let l := candidates p
  (if (s.pair (sourceDie p) (destinationDie p)).away then l.drop 1 ++ l.take 1 else l).filter fun r => !s.routeBlocked r

/-- The route that a packet takes now where it leaves its source die. -/
def State.wayFrom (s : State) (p : Packet) : List (Nat × Bool) := (s.routes p).head?.getD []

/-- The router position where the mesh part of a packet's way begins or ends: its own, or the attachment router of a Sluice link
whose parity is that of the packet's other end (R290). -/
def meshEnd (e other j : Nat) : Nat := if e < 256 then e else 6 + 2 * j + other % 2

/-- The crossing of link `i` that a packet takes (R294, R295), and its seam port: in the row or column of its destination on the
last link of two, in that of its source on those before. -/
def crossingOf (p : Packet) (l : List (Nat × Bool)) (i : Nat) : Nat × Nat :=
  let j := ((l.find? fun x => 4 ≤ x.1).map (·.1 - 4)).getD 0
  let a := meshEnd p.source p.destination j
  let b := meshEnd p.destination p.source j
  let seams := (l.filter fun x => x.1 < 4).map (·.1)
  let final := seams.getLast? == some i
  let row := i % 2 = 0
  let ref := if seams.length = 1 then (if row then a else b) else if final then b else a
  (if row then ref / 16 % 8 else ref % 8, b % 2)

/-- The bundle that a seam port's traffic uses (R285, R286): its own, else the other of its crossing, else that of the nearest open
crossing; none while all that are left are in a retrain. -/
def State.portBundle (s : State) (i c q : Nat) : Option Nat :=
  let live (b : Nat) : Bool := !((s.link i).bundle b).removed
  let near := c :: (List.range' 1 7).flatMap fun k => (if k ≤ c then [c - k] else []) ++ (if c + k < 8 then [c + k] else [])
  match near.find? fun c => live (2 * c) || live (2 * c + 1) with
  | none => none
  | some c => [2 * c + q, 2 * c + 1 - q].find? fun b => live b && !((s.link i).bundle b).retraining

/-! ## Delivery stores (R298) -/

def Link.store (l : Link) (atA : Bool) : List Stored := if atA then l.storeA else l.storeB
def Link.setStore (l : Link) (atA : Bool) (v : List Stored) : Link := if atA then { l with storeA := v } else { l with storeB := v }

def linkSides : List (Nat × Bool) := (List.range 6).flatMap fun i => [(i, true), (i, false)]

/-- The delivery store of an end: the A end's, or the B end's. -/
def State.storeAt (s : State) (i : Nat) (atA : Bool) : List Stored := (s.link i).store atA
def State.setStoreAt (s : State) (i : Nat) (atA : Bool) (v : List Stored) : State := s.modLink i fun l => l.setStore atA v

/-- Everything in the delivery stores of a die's ends, with the link and side. -/
def State.storedBy (s : State) (die : Nat) : List (Nat × Bool × Stored) :=
  linkSides.flatMap fun x => if senderOf x.1 x.2 = die then (s.storeAt x.1 x.2).map fun y => (x.1, x.2, y) else []

/-- The route of a packet at a die: the one it takes now where that is its source die, and the one by which it was sent further on,
which its store keeps. -/
def State.wayAt (s : State) (p : Packet) (die : Nat) : List (Nat × Bool) :=
  if sourceDie p = die then s.wayFrom p
  else
    match (s.storedBy (sourceDie p)).find? fun e => e.2.2.packet == p && e.2.2.phase == .sent with
    | some e => e.2.2.way
    | none => s.wayFrom p

/-- Where a packet's flits leave a die of its route: link, direction and bundle; nowhere while both ports of the crossing retrain.
-/
def State.nextHop (s : State) (p : Packet) (die : Nat) : Option (Nat × Bool × Nat) :=
  let l := s.wayAt p die
  match l.find? fun x => senderOf x.1 x.2 == die with
  | none => none
  | some (i, toB) =>
    if 4 ≤ i then some (i, toB, 0)
    else
      let x := crossingOf p l i
      (s.portBundle i x.1 x.2).map fun b => (i, toB, b)

def samePair (p q : Packet) : Bool := sourceDie p == sourceDie q && destinationDie p == destinationDie q

/-- Whether a delivery sequence lies before another, modulo 2^16. -/
def deliveredBefore (q expected : Nat) : Bool := decide (32768 ≤ (q % 65536 + 65536 - expected) % 65536)

/-- Delivers what is complete and next in order. -/
def Pair.deliver (x : Pair) : Nat → Pair
  | 0 => x
  | fuel + 1 =>
    if x.arrived.contains x.expected then
      Pair.deliver { x with arrived := x.arrived.erase x.expected, expected := (x.expected + 1) % 65536 } fuel
    else x

/-- Whether every flit of a packet is among those that have arrived. -/
def wholePacket (l : List (Nat × Nat × Bool)) (q : Nat) : Bool :=
  match l.find? fun e => e.1 == q && e.2.2 with
  | some (_, n, _) => (List.range n).all fun i => l.any fun e => e.1 == q && e.2.1 == i
  | none => false

/-- A flit has reached its destination die: of a packet delivered already, or arrived whole, it is discarded; a packet that is whole
now is delivered in order. -/
def Pair.arrives (x : Pair) (p : Packet) : Pair :=
  if deliveredBefore p.delivery x.expected || x.arrived.contains p.delivery then x
  else
    let l := (p.delivery, p.index, p.last) :: x.flits.filter fun e => !(e.1 == p.delivery && e.2.1 == p.index)
    if wholePacket l p.delivery then
      { x with flits := l.filter (·.1 != p.delivery), arrived := x.arrived ++ [p.delivery] }.deliver (x.arrived.length + 1)
    else { x with flits := l }

/-- The source's count after a flit of a new packet, or the next one of a packet begun. -/
def Pair.sends (x : Pair) (p : Packet) : Option Pair :=
  let rest := x.opened.filter (·.1 != p.delivery)
  let left := if p.last then rest else rest ++ [(p.delivery, p.index + 1)]
  if x.opened.contains (p.delivery, p.index) then some { x with opened := left }
  else if p.delivery = x.next ∧ p.index = 0 then some { x with next := (x.next + 1) % 65536, opened := left }
  else none

/-! ## Detours (R299, R300) -/

/-- Sorts the delivery stores anew after routes changed: flits whose way can be used no more are sent again by another route, and those
whose destination cannot be reached are held. `gone` says which others are lost on their way; what waits on a die in between of those sent
again is dropped there. -/
def State.reroute (s old : State) (gone : Packet → Bool) : State :=
  let all := linkSides.flatMap fun x => (old.storeAt x.1 x.2).map fun y => (x, y)
  let now (x : Nat × Bool) (y : Stored) : (Nat × Bool) × Stored :=
    let route := (s.routes y.packet).head?
    if s.dev.diverted.contains (destinationDie y.packet) then (x, { y with phase := .held, moved := true })
    else if y.phase = .sent ∧ !s.routeBlocked y.way ∧ !gone y.packet then (x, y)
    else
      match route.bind List.head? with
      | none => (x, { y with phase := .held, moved := true })
      | some x' => (x', { y with phase := .again, moved := true })
  let l := all.map fun e => now e.1 e.2
  let s := linkSides.foldl (fun s x => s.setStoreAt x.1 x.2 ((l.filter fun e => e.1 == x).map (·.2))) s
  let sent (x : Nat × BitVec 512 × Packet) : Bool :=
    l.any fun e => e.2.packet == x.2.2 && e.2.payload == x.2.1 && e.2.phase == .sent
  let s := s.modDev fun d => { d with transit := d.transit.filter sent }
  l.foldl (fun s e =>
    let p := e.2.packet
    if e.2.phase = .again ∧ (s.routes p).head? ≠ (candidates p).head? then
      s.modPair (sourceDie p) (destinationDie p) fun x => { x with away := true } else s) s

/-- Packets return to the routes of R295 once no flit of their pair that was moved is outstanding. -/
def State.routesReturn (s : State) : State :=
  let left (a b : Nat) : Bool := (s.storedBy a).any fun e => e.2.2.moved && destinationDie e.2.2.packet == b
  let s := s.modDev fun d => { d with pairs := d.pairs.zipIdx.map fun (x, k) => { x with away := x.away && left (k / 5) (k % 5) } }
  if s.dev.pairs.any (·.away) then s
  else (List.range 6).foldl (fun s i => s.modLink i fun l =>
    { l with detour := l.detour && (s.dev.diverted.contains (linkEnds i).1 || s.dev.diverted.contains (linkEnds i).2) }) s

/-! ## Links of an action's traffic (R288, R291, R300) -/

/-- A mask of the links between two Runner dies by R295. -/
def linksBetween (a b : Nat) : Nat := maskOf ((ringPath a b false).map (·.1))

/-- The links a Hopper unit's reads of die `d` use: its own Sluice link, and the Welt links on the way to it (R263). -/
def hopperLinks (h d : Nat) : Nat := maskOf [4 + h / 2] ||| linksBetween d (h / 2)

/-- The Runner die of a device address: its stack's, or its scratchpad's (R15, R22). -/
def dieOfAddress (a : Nat) : Nat := if isExternal a then stackOf a / 2 else a / 2 ^ 30 % 4

/-- The Runner die of one side of a piece: the core's own, a device address's, or a remote core's. -/
def State.dieOfSide (s : State) (space core a : Nat) : Nat :=
  if space = 1 then dieOfAddress a else dieOfCore (s.physical core)

/-- The links that a piece crosses. -/
def State.pieceLinks (s : State) (w : Piece) : Nat :=
  linksBetween (s.dieOfSide w.srcSpace w.srcCore w.src) (s.dieOfSide w.dstSpace w.dstCore w.dst)

/-- Notes the links that an action's traffic crosses. -/
def State.markLinks (s : State) (c csn i mask : Nat) : State :=
  s.modCmd c csn fun m => { m with actions := m.actions.modify i fun a => { a with links := a.links ||| mask } }

/-- Whether any traffic is moved: a link is down, or a die is turned round. -/
def State.detoured (s : State) : Bool := !s.dev.diverted.isEmpty || (List.range 6).any fun i => s.width i == 0

/-- The links that moved traffic takes in place of its own between two dies that can be reached. -/
def State.detourLinks (s : State) : List Nat :=
  let dies := (List.range 5).filter fun d => !s.dev.diverted.contains d
  dies.flatMap fun a => dies.flatMap fun b =>
    let l := routesBetween a b none
    if a = b ∨ !(l.head?.any s.routeBlocked) then [] else ((l.find? fun r => !s.routeBlocked r).getD []).map (·.1)

/-- Whether traffic over the links of a mask takes a longer load (R300): one of them is down, ends on a die that is turned round, or
carries traffic that is moved. -/
def State.linksMoved (s : State) (mask : Nat) : Bool :=
  s.detoured && (bitsSet mask 6).any fun i =>
    s.width i == 0 || s.dev.diverted.contains (linkEnds i).1 || s.dev.diverted.contains (linkEnds i).2 || s.detourLinks.contains i

/-- Whether traffic over the links of a mask crosses a Welt link narrower than a floor. -/
def State.linksNarrow (s : State) (mask floor : Nat) : Bool := (bitsSet mask 4).any fun i => decide (s.width i < floor)

end Sys2Proof.Machine
end

