-- ==== Sys2Proof/Machine/Descriptors.lean ====
section
/-! DEFINITION. The fields and the validity of stream descriptors (R218, R219), Quern descriptors (R197 to R199) and
SAMPLER items (R266, R267). -/

namespace Sys2Proof.Machine

/-! ## Stream descriptors -/

structure StreamDesc where
  kind : Nat
  noAllocate : Bool
  bankSpread : Bool
  wait : Bool
  signal : Bool
  fence : Bool
  srcSpace : Nat
  dstSpace : Nat
  srcCore : Nat
  dstCore : Nat
  src : Nat
  dst : Nat
  rowLength : Nat
  rowCount : Nat
  srcStride : Nat
  dstStride : Nat
  first : Nat
  listLength : Nat
  perPage : Nat
  recStride : Nat
  baseOffset : Nat
  waitCounter : Nat
  signalCounter : Nat
  threshold : Nat
  signalCore : Nat
  increment : Nat
  deriving DecidableEq, Repr

def streamDesc (b : List Byte) : StreamDesc :=
  let f := le b 1 1
  { kind := le b 0 1, noAllocate := bit f 0, bankSpread := bit f 1, wait := bit f 2, signal := bit f 3, fence := bit f 4,
    srcSpace := le b 2 1, dstSpace := le b 3 1, srcCore := le b 4 2, dstCore := le b 6 2, src := le b 8 8, dst := le b 16 8,
    rowLength := le b 0x18 4, rowCount := le b 0x1C 4, srcStride := le b 0x20 4, dstStride := le b 0x24 4,
    first := le b 0x28 4, listLength := le b 0x2C 4, perPage := le b 0x30 2, recStride := le b 0x32 2,
    baseOffset := le b 0x34 2, waitCounter := le b 0x36 1, signalCounter := le b 0x37 1, threshold := le b 0x38 4,
    signalCore := le b 0x3C 2, increment := le b 0x3E 2 }

/-- A row, count or stride multiple rule of R218. -/
def StreamDesc.rangesOk (d : StreamDesc) : Bool :=
  let listed := d.kind ≠ 1
  decide (1 ≤ d.kind ∧ d.kind ≤ 3 ∧ d.srcSpace ≤ 2 ∧ d.dstSpace ≤ 2) &&
  decide (if d.srcSpace = 2 then d.srcCore ≤ 239 else d.srcCore = 0) &&
  decide (if d.dstSpace = 2 then d.dstCore ≤ 239 else d.dstCore = 0) &&
  decide (d.src % 64 = 0 ∧ d.dst % 64 = 0 ∧ (d.srcSpace = 1 ∨ d.src < 2 ^ 32) ∧ (d.dstSpace = 1 ∨ d.dst < 2 ^ 32)) &&
  decide (d.rowLength % 64 = 0 ∧ d.rowLength ≤ (if listed then 65536 else 16777216) ∧ d.rowCount ≤ 1048576) &&
  decide (d.srcStride % 64 = 0 ∧ d.dstStride % 64 = 0 ∧ (d.kind ≠ 2 ∨ d.srcStride = 0) ∧ (d.kind ≠ 3 ∨ d.dstStride = 0)) &&
  decide (d.waitCounter ≤ 63 ∧ d.signalCounter ≤ 63 ∧ d.signalCore ≤ 239 ∧ d.increment ≤ 65534) &&
  (if listed then
    decide (d.first ≤ 1048575 ∧ 1 ≤ d.listLength ∧ d.listLength ≤ 1048576 ∧ 1 ≤ d.perPage ∧ d.perPage ≤ 1024 ∧
      1 ≤ d.recStride ∧ d.recStride ≤ 1024 ∧ d.baseOffset ≤ 1023)
   else decide (d.first = 0 ∧ d.listLength = 0 ∧ d.perPage = 0 ∧ d.recStride = 0 ∧ d.baseOffset = 0))

/-- Whether 64 bytes are a valid stream descriptor (R219). -/
def validStream (b : List Byte) : Bool :=
  let d := streamDesc b
  le b 1 1 < 32 && d.rangesOk &&
  (d.kind == 1 ||
    decide (¬ (d.kind = 2 ∧ d.srcSpace = 2) ∧ ¬ (d.kind = 3 ∧ d.dstSpace = 2) ∧ d.rowLength ≤ d.recStride * 64 ∧
      d.baseOffset + (d.perPage - 1) * d.recStride + d.rowLength / 64 ≤ 1024 ∧
      (d.rowCount = 0 ∨ (d.first + d.rowCount - 1) / d.perPage < d.listLength)))

/-! ## Quern descriptors -/

structure QuernDesc where
  op : Nat
  format : Nat
  heads : Nat
  queries : Nat
  dim : Nat
  code : Nat
  firstRow : Nat
  length : Nat
  scale : Word
  operand : Nat
  result : Nat
  tag : Nat
  deriving DecidableEq, Repr

def quernDesc (b : List Byte) : QuernDesc :=
  { op := le b 0 1, format := le b 1 1, heads := le b 2 1, queries := le b 3 1, dim := 32 * 2 ^ le b 4 1, code := le b 5 1,
    firstRow := le b 8 4, length := le b 0xC 4, scale := BitVec.ofNat 32 (le b 0x10 4), operand := le b 0x14 2,
    result := le b 0x16 2, tag := le b 0x18 4 }

/-- Records of one row in a bank (R197). -/
def QuernDesc.perRow (d : QuernDesc) : Nat := if d.code = 0 then 4 else if d.code = 1 then 2 else 1
def QuernDesc.recordSize (d : QuernDesc) : Nat := 256 * 2 ^ d.code
def QuernDesc.elementSize (d : QuernDesc) : Nat := if d.format = 2 then 2 else 1
def QuernDesc.vectors (d : QuernDesc) : Nat := d.heads * d.queries

/-- Bytes of the operand area and of the result area (R198). -/
def QuernDesc.operandBytes (d : QuernDesc) : Nat := if d.op = 2 then d.vectors * d.length * 4 else d.vectors * d.dim * 2
def QuernDesc.resultBytes (d : QuernDesc) : Nat :=
  if d.op = 1 then d.vectors * d.length * 4 else if d.op = 2 then d.vectors * d.dim * 4 else d.vectors * (d.dim + 2) * 4

/-- Rows that hold the positions, in each bank. -/
def QuernDesc.rows (d : QuernDesc) : Nat := ceilDiv d.length (64 * d.perRow)

/-- Rows of every bank in a chunk of band `b`: c_b row visits per unit over its four banks (R204, R205). -/
def chunkRows (b : Nat) : Nat := if b = 0 then 8 else if b = 1 then 4 else 2

/-- Whether 64 bytes pass the checks of R199; the rows are checked when the descriptor is dequeued (R200). `long` lets a
length of all ones pass to that check. -/
def validQuern (b : List Byte) : Bool :=
  let d := quernDesc b
  decide (1 ≤ d.op ∧ d.op ≤ 3 ∧ d.format ≤ 2 ∧ 1 ≤ d.heads ∧ d.heads ≤ 8 ∧ 1 ≤ d.queries ∧ d.queries ≤ 32 ∧ le b 4 1 ≤ 3 ∧
    d.code ≤ 2 ∧ d.length ≤ 1048576 ∧ bits d.scale.toNat 30 23 ≠ 255) &&
  allZero b 6 2 && allZero b 0x1C 36 &&
  decide (1024 ≤ d.operand ∧ d.operand ≤ 65280 ∧ d.operand % 256 = 0 ∧ d.result ≤ 65280 ∧ d.result % 256 = 0 ∧
    2 * d.heads * d.dim * d.elementSize ≤ d.recordSize ∧ d.operand + d.operandBytes ≤ 65536 ∧
    d.result + d.resultBytes ≤ 65536 ∧ (d.op ≠ 3 ∨ d.vectors * d.perRow ≤ 256))

/-! ## SAMPLER items -/

structure SamplerItem where
  base : Nat
  stride : Nat
  rows : Nat
  vocab : Nat
  format : Nat
  greedy : Bool
  scale : Word
  keep : Nat
  mass : Word
  salt : Nat
  echo : Nat
  deriving DecidableEq, Repr

def samplerItem (b : List Byte) : SamplerItem :=
  { base := le b 0 8, stride := le b 8 4, rows := le b 0xC 4, vocab := le b 0x10 4, format := le b 0x14 1,
    greedy := bit (le b 0x15 1) 0, scale := BitVec.ofNat 32 (le b 0x18 4), keep := le b 0x1C 4,
    mass := BitVec.ofNat 32 (le b 0x20 4), salt := le b 0x24 4, echo := le b 0x28 8 }

/-- Bytes of a score. -/
def SamplerItem.size (i : SamplerItem) : Nat := if i.format = 2 then 4 else 2

/-- Whether a range lies within one die's whole 1 GiB scratchpad window (R22, R267); an empty one lies anywhere. -/
def inOneWindow (a n : Nat) : Bool :=
  n == 0 || (decide (2 ^ 40 ≤ a ∧ a + n ≤ 2 ^ 40 + 2 ^ 32) && a / 2 ^ 30 == (a + n - 1) / 2 ^ 30)

def validSampler (b : List Byte) : Bool :=
  let i := samplerItem b
  decide (i.base % 64 = 0 ∧ i.stride % 64 = 0 ∧ i.stride ≤ 4194368 ∧ i.rows ≤ 65536 ∧ 1 ≤ i.vocab ∧ i.vocab ≤ 1048576 ∧
    i.format ≤ 2 ∧ le b 0x15 1 ≤ 1 ∧ 1 ≤ i.keep ∧ i.keep ≤ 4096 ∧ i.echo % 16 = 0) &&
  decide (64 + i.vocab * i.size ≤ i.stride) && allZero b 0x16 2 && allZero b 0x30 16 &&
  -- Scale: positive, normal; P: above 0 and at most 1.0
  decide (0x00800000 ≤ i.scale.toNat ∧ i.scale.toNat < 0x7F800000 ∧ 0 < i.mass.toNat ∧ i.mass.toNat ≤ 0x3F800000) &&
  inOneWindow i.base (if i.rows = 0 then 0 else (i.rows - 1) * i.stride + 64 + i.vocab * i.size) &&
  (i.echo == 0 || inOneWindow i.echo (16 * i.rows))

/-! ## Lane groups -/

/-- Passes a LANE32 vector takes, and the bytes a region of a canonical length occupies at `g` lane groups (R97). -/
def lanePasses (g : Nat) : Nat := ceilDiv 16 g
def laneBytes (g len : Nat) : Nat := len / 2048 * lanePasses g * g * 128

end Sys2Proof.Machine
end

