-- ==== Sys2Proof/Machine/Catalogue.lean ====
section
/-! DEFINITION. The opcode catalogue (R327): which opcodes there are, the privilege each needs, and the form of its
parameters: their length and their reserved bytes (R309 steps 3, 4 and 6). -/

namespace Sys2Proof.Machine

/-- Opcodes of the catalogue. -/
def catalogue : List Nat :=
  [0x0101, 0x0102, 0x0103, 0x0201, 0x0202, 0x0301, 0x0302, 0x0303, 0x0401, 0x0402, 0x0403, 0x0404, 0x0405] ++
  [0x0501, 0x0502, 0x0503, 0x0504, 0x0505, 0x0601, 0x0602, 0x0603, 0x0701, 0x0702, 0x0703, 0x0801, 0x0802] ++
  [0x0901, 0x0A01, 0x0A02, 0x0B01, 0x0C01, 0x0C02, 0x0D01, 0x0D02, 0x0E01, 0x0E02, 0x0E03, 0x0E04, 0x0E05] ++
  [0x0E06, 0x0F01, 0x0F02, 0x0F03, 0x0F04, 0x1001, 0x1002, 0x1003, 0x1004, 0x1005, 0x1006, 0x1007, 0x1101] ++
  [0x1102, 0x1201, 0x1202, 0x1203, 0x1204, 0x1205, 0x1301, 0x1302, 0x1303, 0x1304]

inductive Privilege where
  | none | any | context | management | either
  deriving DecidableEq, Repr

def privilegeOf (op : Nat) : Privilege :=
  match op / 256 with
  | 0x01 => if op = 0x0103 then .any else .none
  | 0x02 | 0x04 | 0x09 => .context
  | 0x03 => if op = 0x0301 then .context else .management
  | 0x05 => if op = 0x0501 then .management else if op = 0x0502 ∨ op = 0x0503 then .either else .context
  | 0x06 => if op = 0x0603 then .management else .either
  | 0x07 => if op = 0x0703 then .management else .context
  | 0x0B | 0x0C | 0x11 => .any
  | _ => .management

/-- The journaled commands (R321); CASCADE.RUN is journaled on the chosen member only. -/
def journaled (op : Nat) : Bool := [0x0201, 0x0301, 0x0504, 0x0505, 0x0801, 0x0E05, 0x0E06].contains op

/-- A context that the parameters name and that must be the session's own for a context session (R309 step 4, R257,
R399): its offset. -/
def namedContext (op : Nat) : Option Nat :=
  match op with
  | 0x0503 | 0x0C02 => some 0
  | 0x0701 | 0x0702 => some 8
  | _ => none

/-- The length a table calls for: its fixed part, and a count at an offset, its size, its largest value and the bytes
each counted item takes. A count beyond its largest value is left to the length check of step 7 (assumption log 12). -/
structure Form where
  fixed : Nat
  count : Option (Nat × Nat × Nat × Nat) := none
  reserved : List (Nat × Nat) := []
  deriving DecidableEq, Repr

/-- The reserved bytes of RUN.STEP parameters that begin at offset `o`. -/
def stepReserved (o : Nat) : List (Nat × Nat) := [(o + 11, 1), (o + 38, 2)]

def formOf (op : Nat) : Form :=
  match op with
  | 0x0101 => { fixed := 8, reserved := [(0, 8)] }
  | 0x0102 => { fixed := 16, count := some (8, 2, 8192, 1), reserved := [(10, 6), (18, 2), (149, 3), (152, 64), (317, 3), (441, 31)] }
  | 0x0103 => { fixed := 0 }
  | 0x0201 => { fixed := 16 }
  | 0x0202 => { fixed := 8 }
  | 0x0301 => { fixed := 40, count := some (36, 2, 1024, 2), reserved := stepReserved 0 }
  | 0x0302 => { fixed := 32, reserved := [(10, 2)] }
  | 0x0303 => { fixed := 8, reserved := [(4, 4)] }
  | 0x0401 => { fixed := 24, reserved := [(20, 4)] }
  | 0x0402 => { fixed := 60, reserved := [(0x27, 1), (0x32, 2)] }
  | 0x0403 => { fixed := 8 }
  | 0x0404 => { fixed := 8 }
  | 0x0405 => { fixed := 8, reserved := [(4, 4)] }
  | 0x0501 => { fixed := 104, reserved := [(1, 1), (62, 2)] }
  | 0x0502 => { fixed := 0 }
  | 0x0503 => { fixed := 8, reserved := [(2, 6)] }
  | 0x0504 => { fixed := 16 }
  | 0x0505 => { fixed := 16 }
  | 0x0601 => { fixed := 16, reserved := [(12, 4)] }
  | 0x0602 => { fixed := 16, count := some (8, 4, 8192, 1), reserved := [(12, 4)] }
  | 0x0603 => { fixed := 8, reserved := [(2, 6)] }
  | 0x0701 => { fixed := 16, reserved := [(10, 6)] }
  | 0x0702 => { fixed := 16, reserved := [(9, 7)] }
  | 0x0703 => { fixed := 8 }
  | 0x0801 => { fixed := 8, reserved := [(5, 3)] }
  | 0x0802 => { fixed := 8, reserved := [(4, 4)] }
  | 0x0901 => { fixed := 16, reserved := [(2, 2)] }
  | 0x0A01 => { fixed := 8, reserved := [(6, 2)] }
  | 0x0A02 => { fixed := 8 }
  | 0x0B01 => { fixed := 16, reserved := [(10, 6)] }
  | 0x0C01 => { fixed := 0 }
  | 0x0C02 => { fixed := 8, reserved := [(1, 7)] }
  | 0x0D01 => { fixed := 16, reserved := [(8, 8)] }
  | 0x0D02 => { fixed := 28 }
  | 0x0E01 => { fixed := 24, reserved := [(4, 4)] }
  | 0x0E02 => { fixed := 48, reserved := [(12, 4)] }
  | 0x0E03 => { fixed := 0 }
  | 0x0E04 => { fixed := 8, reserved := [(4, 4)] }
  | 0x0E05 => { fixed := 32, reserved := [(3, 5)] }
  | 0x0E06 => { fixed := 8, reserved := [(2, 6)] }
  | 0x0F01 => { fixed := 8, reserved := [(1, 7)] }
  | 0x0F02 => { fixed := 16, reserved := [(3, 5)] }
  | 0x0F03 => { fixed := 0 }
  | 0x0F04 => { fixed := 80, count := some (76, 2, 1024, 2), reserved := (1, 5) :: stepReserved 40 }
  | 0x1001 => { fixed := 0 }
  | 0x1002 => { fixed := 8, count := some (4, 4, 8192, 1) }
  | 0x1003 => { fixed := 8, reserved := [(0, 8)] }
  | 0x1004 => { fixed := 256, reserved := [(5, 3), (129, 31)] }
  | 0x1005 => { fixed := 120, reserved := [(2, 6), (113, 7)] }
  | 0x1006 => { fixed := 8, reserved := [(1, 7)] }
  | 0x1007 => { fixed := 88, reserved := [(3, 1)] }
  | 0x1101 => { fixed := 0 }
  | 0x1102 => { fixed := 32 }
  | 0x1201 => { fixed := 16, reserved := [(6, 2)] }
  | 0x1202 => { fixed := 20, reserved := [(5, 3)] }
  | 0x1203 => { fixed := 16, reserved := [(6, 2)] }
  | 0x1204 => { fixed := 8, reserved := [(2, 6)] }
  | 0x1205 => { fixed := 0 }
  | 0x1301 => { fixed := 16, reserved := [(1, 5)] }
  | 0x1302 => { fixed := 8, reserved := [(1, 1)] }
  | 0x1303 => { fixed := 16, reserved := [(0, 6)] }
  | _ => { fixed := 0 }

/-- The length the device expects of a payload (R309 step 6); `none` when its count is out of range. -/
def Form.expected (m : Form) (p : List Byte) : Option Nat :=
  if p.length < m.fixed then some m.fixed
  else
    match m.count with
    | none => some m.fixed
    | some (off, size, top, each) =>
      let n := le p off size
      if top < n then none else some (m.fixed + n * each)

/-- The offset of the first reserved byte that is not zero. -/
def Form.badReserved (m : Form) (p : List Byte) : Option Nat :=
  (m.reserved.flatMap fun (o, n) => (List.range n).map (o + ·)).find? fun o => byteAt p o != 0

/-- R309 step 6. -/
def formCheck (op : Nat) (p : List Byte) : Option Reply :=
  let m := formOf op
  let wrong := match m.expected p with
    | some n => when (p.length != n) (refuse Status.format n)
    | none => none
  firstFailing [wrong, (m.badReserved p).map fun o => refuse Status.format o]

/-- R309 step 4: the privilege a command needs, and the context it names; a payload too short to name one fails in step 6. FABRIC.COPY and FABRIC.MIGRATE need a session
bound to a context, CASCADE.RUN one bound to none (R438, R442, R444). -/
def privilegeCheck (op : Nat) (f : Frame) (x : Session) : Option Reply :=
  let no := refuse Status.privilege
  let lacks :=
    match privilegeOf op with
    | .none | .any => false
    | .context => x.context = 255
    | .management => !x.management
    | .either => op = 0x0502 && x.context = 255
  let bound :=
    match op with
    | 0x0E05 | 0x0E06 => x.context != 255
    | 0x0F04 => x.context = 255
    | _ => true
  let other := (!x.management || op = 0x0701 || op = 0x0702) && (match (namedContext op).bind fun o => f.payload[o]? with
    | some c => c.toNat != x.context
    | none => false)
  firstFailing [when (lacks || !bound || f.context.toNat != x.context) no, when other no]

/-- R309 step 5. -/
def generationCheck (f : Frame) (x : Session) (s : State) : Option Reply :=
  let g := if x.context = 255 then 0 else (s.context x.context).generation
  when (f.generation.toNat != g) { status := Status.generation, notchA := g }

end Sys2Proof.Machine
end

