-- ==== Sys2Proof/Machine/Datagram.lean ====
section
/-! DEFINITION. Headers and tags of device frames (R304, R305, R316, R456), and the UDP datagrams that carry them (R303). -/

namespace Sys2Proof.Machine

/-! ## Headers -/

/-- The 40-byte header of a received frame (R304), with the flags and the tag given. -/
def headerBytes (f : Frame) (flags : BitVec 8) (tag : BitVec 128) : List Byte :=
  [f.version, f.kind] ++ leBytes 2 f.opcode.toNat ++ leBytes 4 f.session.toNat ++ [f.context, flags] ++
  leBytes 2 f.generation.toNat ++ leBytes 8 f.number.toNat ++ leBytes 2 f.length.toNat ++ leBytes 2 f.reserved.toNat ++
  leBytes 16 tag.toNat

/-- The CRC-32C a frame should carry (R305). -/
def frameCrc (f : Frame) : BitVec 32 := crc32c (headerBytes f f.flags f.tag ++ f.payload)

/-- The match code: the CRC with the flags and the tag taken as zero (R316). -/
def matchCode (f : Frame) : BitVec 32 := crc32c (headerBytes f 0 0 ++ f.payload)

/-- The tag that a frame of a session should carry: over the header with the tag field zero, and the payload (R456). -/
def frameTag (key : List Byte) (f : Frame) : BitVec 128 := tagUnder key (headerBytes f f.flags 0 ++ f.payload)

/-- The header of a frame the device sends, with the tag given. -/
def OutFrame.header (o : OutFrame) (tag : BitVec 128) : List Byte :=
  leBytes 1 o.version ++ leBytes 1 o.kind ++ leBytes 2 o.opcode ++ leBytes 4 o.session ++ leBytes 1 o.context ++ leBytes 1 o.flags ++
  leBytes 2 o.generation ++ leBytes 8 o.number ++ leBytes 2 o.payload.length ++ leBytes 2 o.reserved ++ leBytes 16 tag.toNat

/-! ## UDP (R303) -/

def macBytes : List Byte := (List.range 6).map Config.mac

/-- The port's MAC address (R430). -/
def State.mac (s : State) : List Byte := s.fromEeprom macBytes

/-- The link-local address by the modified EUI-64 method (R430). -/
def State.linkLocal (s : State) : Nat :=
  beNat ([0xFE, 0x80] ++ zeros 6 ++ [byteAt s.mac 0 ^^^ 2, byteAt s.mac 1, byteAt s.mac 2, 0xFF, 0xFE] ++ s.mac.drop 3)

/-- The sum of the 16-bit words of a byte string in network order. -/
def sum16 : List Byte → Nat
  | a :: b :: l => 256 * a.toNat + b.toNat + sum16 l
  | [a] => 256 * a.toNat
  | [] => 0

/-- A one's-complement sum of 16 bits. -/
def fold16 (n : Nat) : Nat := (n % 65536 + n / 65536) % 65536 + (n % 65536 + n / 65536) / 65536

/-- The checksum of a UDP datagram (RFC 768 and RFC 8200; PRESUMED, assumption log 43): over the pseudo-header, the UDP header and
the data; all ones stand for zero. -/
def udpChecksum (addressBytes source destination fromPort toPort : Nat) (data : List Byte) : BitVec 16 :=
  let n := 8 + data.length
  let pseudo := beBytes addressBytes source ++ beBytes addressBytes destination ++ beBytes 4 n ++ beBytes 4 17
  let c := 65535 - fold16 (fold16 (sum16 (pseudo ++ beBytes 2 fromPort ++ beBytes 2 toPort ++ beBytes 2 n ++ data)))
  BitVec.ofNat 16 (if c = 0 then 65535 else c)

/-- The checksum that the datagram of a received frame should carry. -/
def receivedSum (f : Frame) (addressBytes port : Nat) : BitVec 16 :=
  udpChecksum addressBytes f.path.source f.path.destination f.path.sourcePort port
    (headerBytes f f.flags f.tag ++ f.payload ++ leBytes 4 f.crc.toNat)

/-- Whether the device takes a frame out of its encapsulation (R303): datagrams to its port and one of its addresses, without
options, fragments or extension headers; a checksum of zero on IPv4 only. -/
def State.accepts (s : State) (f : Frame) : Bool :=
  match f.path.encap with
  | .ethernet => true
  | .udp4 port bad sum =>
    port == s.port.udpPort && !bad && s.fabric.ipv4 != 0 && f.path.destination == s.fabric.ipv4.toNat &&
    (sum == 0 || sum == receivedSum f 4 port)
  | .udp6 port bad sum =>
    port == s.port.udpPort && !bad &&
    (f.path.destination == s.linkLocal || (s.fabric.ipv6 != 0 && f.path.destination == s.fabric.ipv6.toNat)) &&
    sum == receivedSum f 16 port

/-- The checksum of the datagram that carries a frame back to where its session's last frame came from; zero without a datagram. -/
def OutFrame.checksumOf (o : OutFrame) (data : List Byte) : BitVec 16 :=
  let p := o.path
  match p.encap with
  | .ethernet => 0
  | .udp4 port _ _ => udpChecksum 4 p.destination p.source port p.sourcePort data
  | .udp6 port _ _ => udpChecksum 16 p.destination p.source port p.sourcePort data

/-- A frame as the device forms it (R304): the session's tag, zero in Session 0, then the CRC, then the datagram's checksum. -/
def State.formed (s : State) (o : OutFrame) : OutFrame :=
  let tag := if o.session = 0 then 0 else tagUnder (s.session o.session).tagKey (o.header 0 ++ o.payload)
  let crc := crc32c (o.header tag ++ o.payload)
  { o with tag := tag, crc := crc, checksum := o.checksumOf (o.header tag ++ o.payload ++ leBytes 4 crc.toNat) }

end Sys2Proof.Machine
end

