-- ==== Sys2Proof/Machine/FabricFrame.lean ====
section
/-! DEFINITION. Frames between modules (R431, R433): where they go, their header, their payload and their tag. -/

namespace Sys2Proof.Machine

/-! ## Route entries (R434, R435) -/

def Fabric.entry (x : Fabric) (a : Nat) : Option Beacon := (sget {} x.routes a).beacon

/-- Where a module beaconed last, by its serial number. -/
def Fabric.routeOf (x : Fabric) (serial : List Byte) : Option (Nat × Beacon) :=
  (x.routes.foldl (fun (best : Option (Nat × Beacon × Nat)) e =>
    match e.2.beacon with
    | some b =>
      if b.serial ≠ serial then best
      else match best with
        | some (_, _, t) => if t < e.2.heardAt then some (e.1, b, e.2.heardAt) else best
        | none => some (e.1, b, e.2.heardAt)
    | none => best) none).map fun e => (e.1, e.2.1)

/-! ## Payloads -/

/-- The payload of a beacon (R433), Version 1. -/
def beaconBytes (b : Beacon) : List Byte :=
  leBytes 1 1 ++ leBytes 1 b.role ++ leBytes 1 b.claim ++ leBytes 1 b.deviceState ++ leBytes 8 b.fabric ++ leBytes 2 b.address ++
  leBytes 2 b.head ++ padTo 16 b.serial ++ leBytes 4 b.shape.toNat ++ leBytes 2 b.featureLevel ++ zeros 2 ++
  leBytes 4 b.ipv4.toNat ++ leBytes 16 b.ipv6.toNat ++ leBytes 4 b.number

/-- The payloads of the other frames: the manual gives their opcodes and no layout, but that of a copy header's 16 bytes (R443)
(DESIGN CHOICE, assumption log 14). -/
def forwardBytes (m : Forward) (release : Bool) : List Byte :=
  padTo 16 m.headSerial ++ leBytes 2 m.headAddress ++ leBytes 1 (bnat release) ++ zeros 1 ++ leBytes 4 m.session ++
  leBytes 8 m.number ++ m.params

def answerBytes (a : Answer) : List Byte :=
  padTo 16 a.serial ++ leBytes 2 a.member ++ zeros 2 ++ leBytes 4 a.session ++ leBytes 8 a.number ++ leBytes 2 a.status ++
  leBytes 2 a.detail ++ leBytes 4 a.value ++ leBytes 8 a.csn ++ leBytes 8 a.notchA ++ leBytes 8 a.notchB ++ leBytes 1 a.state ++
  zeros 3 ++ leBytes 4 a.allowed ++ a.data

def copyBytes (m : CopyMsg) (asks : Bool) : List Byte :=
  leBytes 8 m.destination ++
  (if asks then leBytes 8 m.length ++ leBytes 12 m.csn ++ zeros 4
   else leBytes 4 m.length ++ leBytes 2 (m.offset / 8192) ++ leBytes 1 (m.csn / 2 ^ 64) ++ leBytes 1 (bnat m.migrate)) ++ m.data

def FabricMsg.bytes : FabricMsg → List Byte
  | .beacon b => beaconBytes b
  | .probe m => forwardBytes m false
  | .probeAnswer a => answerBytes a
  | .commit m release => forwardBytes m release
  | .commitAnswer a => answerBytes a
  | .copy m => copyBytes m false
  | .check m => copyBytes m true
  | .copyAck _ csn page asked ok =>
    leBytes 8 page ++ leBytes 12 csn ++ leBytes 1 (bnat asked) ++ leBytes 1 (bnat ok) ++ zeros 2

/-! ## Headers (R431) -/

/-- Opcode and Kind: 0 COMMAND, 1 REPLY, 4 NOTICE. -/
def FabricMsg.opcode : FabricMsg → Nat × Nat
  | .beacon _ => (0x0E80, 4)
  | .probe _ => (0x0E81, 0)
  | .probeAnswer _ => (0x0E82, 1)
  | .commit _ _ => (0x0E83, 0)
  | .commitAnswer _ => (0x0E84, 1)
  | .check _ => (0x0E85, 0)
  | .copy _ => (0x0E86, 0)
  | .copyAck _ _ _ _ _ => (0x0E87, 1)

/-- The context and the number of its header: those of the command it concerns. -/
def FabricMsg.about : FabricMsg → Nat × Nat
  | .beacon _ => (0xFF, 0)
  | .probe m | .commit m _ => (m.context, m.number)
  | .probeAnswer a | .commitAnswer a => (0xFF, a.number)
  | .check m | .copy m => (m.context, m.csn % 2 ^ 64)
  | .copyAck c csn _ _ _ => (c, csn % 2 ^ 64)

/-- The multicast address of beacons (R433), lowest byte first as `leNat` reads a MAC address. -/
def beaconMac : Nat := 0x010046585603

/-- A fabric frame as the device forms it: Session 0, to a peer where it now beacons or to all, in the fabric's VLAN; the tag under
the fabric key over the header with the tag field zero and the payload, then the CRC. -/
def State.fabricFrame (s : State) (peer : Option (List Byte)) (m : FabricMsg) : WireFrame :=
  let x := s.fabric
  let target := match peer with
    | none => beaconMac
    | some serial => ((x.routeOf serial).map (·.2.mac)).getD 0
  let o : OutFrame :=
    { kind := m.opcode.2, opcode := m.opcode.1, session := 0, context := m.about.1, flags := 0, generation := 0,
      number := m.about.2, payload := m.bytes,
      path := { encap := .ethernet, vlan := x.vlan, source := leNat s.mac, destination := target } }
  let tag := tagUnder x.key (o.header 0 ++ o.payload)
  .fabric m { o with tag := tag, crc := crc32c (o.header tag ++ o.payload) }

end Sys2Proof.Machine
end

