-- ==== Sys2Proof/Machine/Macsec.lean ====
section
/-! DEFINITION. MACsec on the port (R458): the associations and what a received frame, protected or not, comes to. R458 names
GCM-AES-XPN-256, associations and the replay window; how a packet number is recovered and checked is IEEE 802.1AE's (PRESUMED,
assumption log 10). -/

namespace Sys2Proof.Machine

/-- The 64-bit packet number that 32 bits stand for: the first at or near the lowest acceptable one. -/
def SecAssoc.recover (a : SecAssoc) (pn : Nat) : Nat :=
  (a.lowest / 2 ^ 32 + bnat (decide (pn < 2 ^ 31 ∧ 2 ^ 31 ≤ a.lowest % 2 ^ 32))) * 2 ^ 32 + pn

/-- A receiving association after a packet: the window moves with the highest number taken. -/
def SecAssoc.took (a : SecAssoc) (pn : Nat) : SecAssoc :=
  let next := max a.nextPn (pn + 1)
  { a with nextPn := next, lowest := max a.lowest (next - a.window) }

def SecAssoc.receives (a : SecAssoc) (t : SecTag) : Bool := a.receive && a.an == t.an && a.sci == t.sci

/-- A frame arrives at the port, protected or not: whether it goes on. Nothing arrives on a link that is down. With Require set an unprotected one is dropped and counted. A
protected one needs MACsec, an association that opens it, and a packet number in its window. -/
def State.letIn (s : State) (t : Option SecTag) : State × Bool :=
  if !s.dev.portUp then (s, false) else
  match t with
  | none =>
    if s.sec.required then (s.modPort fun p => { p with unprotected := saturate32 (p.unprotected + 1) }, false) else (s, true)
  | some t =>
    match s.sec.assocs.find? (·.receives t) with
    | none => (s, false)
    | some a =>
      let pn := a.recover t.pn
      if !s.sec.macsec ∨ !t.icvOk ∨ pn < a.lowest then (s, false)
      else (s.modSec fun x => { x with assocs := x.assocs.map fun y => if y = a then a.took pn else y }, true)

/-- The association that protects what the port sends: the transmit association installed last (DESIGN CHOICE, assumption log 10). -/
def Security.transmits (x : Security) : Option SecAssoc :=
  if x.macsec then (x.assocs.filter fun a => !a.receive).getLast? else none

/-- The packet number of a transmit association is taken. -/
def Security.sent (x : Security) (a : SecAssoc) : Security :=
  { x with assocs := x.assocs.map fun y => if y = a then { y with nextPn := y.nextPn + 1 } else y }

/-- A frame is to leave the port: with its tag where one association protects what is sent (R458). -/
def State.nextTag (s : State) : State × Option SentTag :=
  match s.sec.transmits with
  | none => (s, none)
  | some a => (s.modSec fun x => x.sent a, some { sci := a.sci, an := a.an, pn := a.nextPn })

end Sys2Proof.Machine
end

