-- ==== Sys2Proof/Machine/Port.lean ====
section
/-! DEFINITION. Frames in and out of the port: injections on their way (R464, R465), header and CRC (R304, R305),
replies kept and sent again (R316, R318), notices (R326) and the deliveries of completions and results (R308, R320,
R324). -/

namespace Sys2Proof.Machine

/-! ## Injections on device frames (R465) -/

/-- A frame on its way through the injections. -/
inductive Carried where
  | inward (f : Frame)
  | outward (o : OutFrame)
  deriving DecidableEq, Repr

def Carried.kind : Carried → Nat
  | .inward f => f.kind.toNat
  | .outward o => o.kind
def Carried.context : Carried → Nat
  | .inward f => f.context.toNat
  | .outward o => o.context
def Carried.session : Carried → Nat
  | .inward f => f.session.toNat
  | .outward o => o.session
def Carried.direction : Carried → Nat
  | .inward _ => 0
  | .outward _ => 1

/-- Bit 0 of the CRC-32C inverted. -/
def Carried.corrupt : Carried → Carried
  | .inward f => .inward { f with crc := f.crc ^^^ 1 }
  | .outward o => .outward { o with crc := o.crc ^^^ 1 }

def Injection.matches (j : Injection) (c : Carried) (now : Nat) : Bool :=
  j.armed && j.verb == 2 && j.direction == c.direction && j.waiting.isNone && j.armedAt < now &&
  (j.context == 255 || j.context == c.context) && bit j.kinds c.kind && j.session != c.session

/-- One hit of an injection, with the records of its first hit and of its end. -/
def State.injectionHit (s : State) (j : Injection) : State :=
  let j := { j with hits := j.hits + 1, left := j.left - 1 }
  let s := s.modInjection j.number fun x => { x with hits := j.hits, left := j.left, armed := decide (0 < j.left) }
  let s := if j.hits = 1 then s.logInjected j else s
  if j.left = 0 then s.logInjected j else s

def Injection.hold (j : Injection) (c : Carried) (now : Nat) : Injection :=
  match c with
  | .inward f => { j with heldIn := j.heldIn ++ [(f, j.depth, now)] }
  | .outward o => { j with heldOut := j.heldOut ++ [(o, j.depth, now)] }

/-- A matching frame passes: frames held by the injection count it, and those that have waited for their depth pass
after it. -/
def State.passHeld (s : State) (n : Nat) : State × List Carried :=
  match s.injections.find? (·.number == n) with
  | none => (s, [])
  | some j =>
    let hin := j.heldIn.map fun (f, d, t) => (f, d - 1, t)
    let hout := j.heldOut.map fun (o, d, t) => (o, d - 1, t)
    let free := (hin.filter (·.2.1 == 0)).map (fun x => Carried.inward x.1) ++
      (hout.filter (·.2.1 == 0)).map (fun x => Carried.outward x.1)
    (s.modInjection n fun x => { x with heldIn := hin.filter (·.2.1 != 0), heldOut := hout.filter (·.2.1 != 0) }, free)

/-- A frame meets one injection: the frames that go on. -/
def State.meetInjection (s : State) (n : Nat) (c : Carried) : State × List Carried :=
  match s.injections.find? (·.number == n) with
  | none => (s, [c])
  | some j =>
    let held := j.verb == 2 && !(j.heldIn.isEmpty && j.heldOut.isEmpty)
    if j.matches c s.uptime then
      let seen := j.seen + 1
      let s := s.modInjection n fun x => { x with seen := seen }
      if seen ≤ j.skip ∨ (seen - j.skip - 1) % j.every ≠ 0 ∨ j.left = 0 then
        let (s, free) := s.passHeld n
        (s, c :: free)
      else
        let s := s.injectionHit { j with seen := seen }
        match j.action with
        | 1 => (s, [])
        | 2 => let (s, free) := s.passHeld n
               (s, c.corrupt :: free)
        | 3 => (s.modInjection n fun x => x.hold c s.uptime, [])
        | _ => let (s, free) := s.passHeld n
               (s, c :: c :: free)
    else if held ∧ (Injection.matches { j with armed := true } c s.uptime) then
      let (s, free) := s.passHeld n
      (s, c :: free)
    else (s, [c])

/-- A frame passes the injections of the given numbers, in their order. -/
def State.passInjections (s : State) (l : List Nat) (c : Carried) : State × List Carried :=
  l.foldl (fun (s, l) n =>
    l.foldl (fun (s, acc) x =>
      let (s, more) := s.meetInjection n x
      (s, acc ++ more)) (s, [])) (s, [c])

/-- A frame passes every injection, in ascending number. -/
def State.throughInjections (s : State) (c : Carried) : State × List Carried :=
  s.passInjections (s.injections.map (·.number)) c

/-! ## Frames sent -/

/-- A device frame as the port sends it, with its tag. -/
def OutFrame.under (o : OutFrame) : Option SentTag → OutFrame
  | none => o
  | some t => { o with secured := some t }

/-- A device frame leaves the port; with the link down it is lost (R360, R483). -/
def State.putOut (s : State) (o : OutFrame) : State :=
  if s.dev.portUp then
    let (s, t) := s.nextTag
    { s with out := s.out ++ [o.under t] }
  else s

/-- Forms a device frame and hands it to the port, after the injections on sent frames. -/
def State.emit (s : State) (o : OutFrame) : State :=
  let (s, l) := s.throughInjections (.outward (s.formed o))
  l.foldl (fun s c => match c with
    | .outward x => s.putOut x
    | .inward _ => s) s

/-- A frame as the port sends it, with its tag. -/
def WireFrame.under (w : WireFrame) : Option SentTag → WireFrame
  | none => w
  | some t => .secured t w

/-- A frame between modules, or of a standard the device answers, leaves the port; with the link down it is lost. -/
def State.send (s : State) (w : WireFrame) : State :=
  if s.dev.portUp then
    let (s, t) := s.nextTag
    { s with wire := s.wire ++ [w.under t] }
  else s

/-- Sends a fabric frame to a peer, or to all. -/
def State.sendFabric (s : State) (peer : Option (List Byte)) (m : FabricMsg) : State := s.send (s.fabricFrame peer m)

def State.generationOf (s : State) (c : Nat) : Nat := if c < 64 then (s.context c).generation else 0

/-- The frame of a REPLY. -/
def replyFrame (op sid c gen n flags : Nat) (payload : List Byte) (path : Path) : OutFrame :=
  { kind := 1, opcode := op, session := sid, context := c, flags := flags, generation := gen, number := n,
    payload := payload, path := path }

/-- Sends a reply payload to command `n` of an open session and keeps it (R316, R318). -/
def State.sendPayload (s : State) (sid n op : Nat) (payload : List Byte) : State :=
  if !(s.session sid).isOpen then s else
  let x := s.session sid
  let g := s.generationOf x.context
  let s := s.modSession sid fun x =>
    { x with kept := x.kept.map fun k => if k.number = n then { k with reply := some (op, g, payload) } else k }
  s.emit (replyFrame op sid x.context g n 0 payload x.path)

def State.sendReply (s : State) (sid n op : Nat) (r : Reply) : State := s.sendPayload sid n op r.payload

/-- Ends a session (R308). -/
def State.endSession (s : State) (sid : Nat) : State := { s with sessions := sdel s.sessions sid }

/-- Keeps no more than the replies to the last 4,096 commands (R316). -/
def trimKept (l : List KeptReply) : List KeptReply := l.drop (l.length - 4096)

/-- Require of FW.MACSEC holds from the notch of the reply (R458). -/
def State.requireReplied (s : State) (sid n : Nat) : State :=
  s.modSec fun x =>
    { x with required := ((x.requireDue.filter fun e => e.1 == sid && e.2.1 == n).map (·.2.2)).getLastD x.required,
             requireDue := x.requireDue.filter fun e => !(e.1 == sid && e.2.1 == n) }

/-- A booking exists from the DONE of its RUN.BOOK (R348). -/
def State.bookingReplied (s : State) (sid n : Nat) : State :=
  s.modSchedule fun x => { x with bookings := x.bookings.map fun b => if b.due = some (sid, n) then { b with due := none } else b }

/-- An injection acts from the notch after the reply (R461). -/
def State.injectionReplied (s : State) (sid n : Nat) : State :=
  { s with injections := s.injections.map fun j =>
      if j.waiting = some n ∧ j.session = sid then { j with waiting := none, armedAt := s.uptime } else j }

/-- The device is in DOZE from the notch of the reply (R363). -/
def State.dozeReplied (s : State) (sid n : Nat) : State :=
  if s.inService && s.dev.state != .doze && s.power.dozeDue.any fun e => e.1 == sid && e.2.1 == n && !e.2.2.2 then
    (s.modDev fun d => { d with wakeTo := d.state, state := .doze }).modPower fun p =>
      { p with waking := false,
               dozeDue := p.dozeDue.map fun e => if e.1 == sid && e.2.1 == n then (e.1, e.2.1, e.2.2.1, true) else e }
  else s

/-- What takes effect with the reply of a command. -/
def State.afterReply (s : State) (sid n op : Nat) : State :=
  if op = 0x1007 then s.requireReplied sid n
  else if op = 0x0302 then s.bookingReplied sid n
  else if op = 0x1201 ∨ op = 0x1202 ∨ op = 0x1203 then s.injectionReplied sid n
  else if op = 0x1303 then s.dozeReplied sid n
  else s

/-- Sends a reply payload, with what takes effect after it; a session that its own command ends goes then (R453). -/
def State.deliverReply (s : State) (sid n op : Nat) (payload : List Byte) : State :=
  let s := (s.sendPayload sid n op payload).afterReply sid n op
  if (s.session sid).endAfter = some n then s.endSession sid else s

/-- The immediate commands whose effects the journal copies hold (R313): all that change the device's state. Those that only read,
the session commands, the transfers of R332 and CASCADE.RUN, which its member journals, are not among them (assumption log 45). -/
def journalsEffect (op : Nat) : Bool :=
  !journaled op && op / 256 != 1 &&
    !([0x0601, 0x0602, 0x0A01, 0x0B01, 0x0C01, 0x0C02, 0x0E04, 0x0F04, 0x1001, 0x1101, 0x1102, 0x1205] : List Nat).contains op

/-- The effect of command `n` of a session waits to be written, behind the records that wait already, with the reply after it. -/
def Journal.awaits (j : Journal) (now sid n op : Nat) (r : Reply) : Journal :=
  { j with
    effects := j.effects ++ [{ session := sid, number := n, opcode := op, payload := r.payload, behind := j.staging.length }]
    waitingSince := if j.staging.isEmpty && j.effects.isEmpty then now else j.waitingSince }

/-- The end of an immediate command: a DONE goes out once both journal copies hold the effect (R313), any other reply at once, and
so that of a zero field, which has no effect (R310). -/
def State.conclude (s : State) (sid n op : Nat) (r : Reply) : State :=
  if r.status = Status.done ∧ !r.zero ∧ journalsEffect op then s.modJournal fun j => j.awaits s.uptime sid n op r
  else s.deliverReply sid n op r.payload

/-- The answer of a command, now or later. -/
def State.answer (s : State) (sid n op : Nat) (h : Handled) : State :=
  match h with
  | .later t => t
  | .reply r t => t.conclude sid n op r

/-! ## Notices, completions and results -/

/-- The session that receives the frames of a series: `sid` while it is open, else the most recently opened session of
the context, or management session bound to none (R308, R321). In LATCHED none does: no accepted command receives a completion
(R379). -/
def State.receiver (s : State) (stream sid : Nat) : Option Nat :=
  if s.dev.state = .latched then none
  else if (s.session sid).isOpen && sid != 0 then some sid
  else
    let open_ := s.sessions.filter fun e => e.2.isOpen && e.2.context == stream && (stream != 255 || e.2.management)
    (open_.foldl (fun (best : Option (Nat × Session)) e =>
      match best with
      | some b => if b.2.openedOrder < e.2.openedOrder then some e else some b
      | none => some e) none).map (·.1)

/-- NOTICE payload (R326). -/
def noticePayload (code csn notch address value : Nat) : List Byte :=
  leBytes 2 code ++ zeros 2 ++ leBytes 8 csn ++ leBytes 8 notch ++ leBytes 8 address ++ leBytes 8 value

/-- Sends a notice to the receiver of a context's frames, once; with no session open it is lost (R326). That of a forwarded command
carries the head's session, the host's number and the opcode of CASCADE.RUN (R440). -/
def State.notice (s : State) (c sid code csn notch address value : Nat) : State :=
  match s.receiver c sid with
  | none => s
  | some i =>
    let (sess, num, op) := match (s.cmd c csn).bind (·.forwarded) with
      | some (_, sess, num) => (sess, num, 0x0F04)
      | none => (i, 0, 0)
    s.emit { kind := 4, opcode := op, session := sess, context := c, flags := 0, generation := s.generationOf c, number := num,
             payload := noticePayload code csn notch address value, path := (s.session i).path }

/-- The frame header fields a completion or result of a command carries: for a forwarded command, the head's session,
the host's number and the opcode of CASCADE.RUN (R440). -/
def Cmd.origin (c : Cmd) : Nat × Nat × Nat :=
  match c.forwarded with
  | some (_, sess, num) => (sess, num, 0x0F04)
  | none => (c.frame.session.toNat, c.frame.number.toNat, c.opcode)

/-- The session that sent a command to this device; none (0) for a forwarded command (R308, R440). -/
def Cmd.sender (c : Cmd) : Nat := if c.forwarded.isSome then 0 else c.frame.session.toNat

/-- A RESULT frame: header of R324 and 16 bytes a record. -/
def State.resultFrame (s : State) (stream : Nat) (c : Cmd) (index first count flags : Nat) (i : Nat) : OutFrame :=
  let (sess, num, op) := c.origin
  { kind := 3, opcode := op, session := sess, context := stream, flags := flags, generation := s.generationOf stream,
    number := num,
    payload := leBytes 8 c.csn ++ leBytes 4 first ++ leBytes 2 count ++ leBytes 2 index ++ zeros 8 ++
      ((List.range count).flatMap fun r => padTo 16 (sget [] c.records (first + r))),
    path := (s.session i).path }

def completionFrame (s : State) (stream : Nat) (c : Cmd) (flags i : Nat) : OutFrame :=
  let (sess, num, op) := c.origin
  { kind := 2, opcode := op, session := sess, context := stream, flags := flags, generation := s.generationOf stream,
    number := num, payload := c.completion, path := (s.session i).path }

/-- Sends a completion to its receiver, when there is one (R320). -/
def State.sendCompletion (s : State) (stream csn flags : Nat) : State :=
  match s.cmd stream csn with
  | none => s
  | some c =>
    match s.receiver stream c.sender with
    | none => s
    | some i => s.emit (completionFrame s stream c flags i)

/-- Emits the RESULT frames of a command from number `k` up to `z` (R324): More is clear on the last of all. -/
def State.emitResults (s : State) (stream : Nat) (c : Cmd) (k z flags i : Nat) : State :=
  let more := c.phase != .completed && decide (c.handed < c.expected)
  let n := c.resultFrames.length
  ((c.resultFrames.zipIdx.take z).drop k).foldl (fun s ((first, count), k) =>
    s.emit (s.resultFrame stream c k first count (flags + (if more ∨ k + 1 < n then 2 else 0)) i)) s

/-- The records of a frame over as many frames as their receiver's Max payload needs. -/
def splitFrame (room : Nat) (e : Nat × Nat) : List (Nat × Nat) :=
  if room = 0 ∨ e.2 ≤ room then [e]
  else (List.range (ceilDiv e.2 room)).map fun j => (e.1 + j * room, min room (e.2 - j * room))

/-- The RESULT frames as a receiver can take them: no frame holds more records than its Max payload has room for (R324). Frames that
were handed off for a larger one are split (DEDUCED, assumption log 52). -/
def Cmd.fitted (c : Cmd) (maxPayload : Nat) : Cmd :=
  let room := (maxPayload - 24) / 16
  { c with resultFrames := c.resultFrames.flatMap (splitFrame room),
           shown := ((c.resultFrames.take c.shown).flatMap (splitFrame room)).length }

/-- Sends the RESULT frames of a command that have not gone out yet, when somebody receives them (R324). -/
def State.sendResults (s : State) (stream csn : Nat) : State :=
  match s.cmd stream csn with
  | none => s
  | some c =>
    match s.receiver stream c.sender with
    | none => s
    | some i =>
      let c := c.fitted (s.session i).maxPayload
      (s.emitResults stream c c.shown c.resultFrames.length 0 i).modCmd stream csn fun x =>
        { x with resultFrames := c.resultFrames, shown := c.resultFrames.length }

/-- Sends again every RESULT frame of a command that has gone out (R320), Retransmit set. -/
def State.resendResults (s : State) (stream csn : Nat) : State :=
  match s.cmd stream csn with
  | none => s
  | some c =>
    match s.receiver stream c.sender with
    | none => s
    | some i =>
      let c := c.fitted (s.session i).maxPayload
      (s.emitResults stream c 0 c.shown 1 i).modCmd stream csn fun x =>
        { x with resultFrames := c.resultFrames, shown := c.shown }

end Sys2Proof.Machine
end

