-- ==== Sys2Proof/Machine/Pages.lean ====
section
/-! DEFINITION. Grants (R328), page mappings (R254 to R258), the sequence area, sequence records and page lists (R247 to
R253), and the unmappings that wait for stream pieces (R228). -/

namespace Sys2Proof.Machine

/-! ## Grants -/

def Grant.holdsSegment (g : Grant) (n : Nat) : Bool := g.runs.any fun r => r.1 ≤ n && n < r.1 + r.2

/-- A run of segments without segment `n`: what lies below it, and what lies above. -/
def runsWithout (n : Nat) (r : Nat × Nat) : List (Nat × Nat) :=
  if r.1 ≤ n ∧ n < r.1 + r.2 then [(r.1, n - r.1), (n + 1, r.1 + r.2 - n - 1)].filter fun x => x.2 != 0 else [r]

/-- Whether a range of scratchpad addresses lies in the pages granted on one die (R152). -/
def Grant.holdsScratch (g : Grant) (a n : Nat) : Bool :=
  let d := scratchDie a
  isScratchWindow a && 0 < n && within (a % 2 ^ 30) n (65536 * g.padFirst.getD d 0) (65536 * g.padCount.getD d 0)

def State.grant (s : State) (c : Nat) : Grant := (s.context c).grant

/-- The logical cores of a context's quarters that exist. -/
def State.grantCores (s : State) (c : Nat) : List Nat := (quarterCores (s.grant c).quarters).filter s.logicalExists

/-! ## Pages -/

/-- Whether a page lies in a pool segment of a context that is not FREE (R252, R258). -/
def State.inPool (s : State) (g : Nat) : Bool :=
  s.anyContext fun x => match x.area with
    | some a => a.poolFirst ≤ g / 16384 && g / 16384 < a.poolFirst + a.poolCount
    | none => false

/-- The state of a page as an object of kind 9 (R323), for context `c`. -/
def State.pageKind (s : State) (c g : Nat) : Nat :=
  let p := s.page g
  if p.mapped then
    if p.context ≠ c then 4 else if p.pending then 5 else if p.use = 0 then 2 else 3
  else if s.pageBarred g then 6
  else bnat (s.inPool g)

/-- Whether a page is mapped for a context, for a read or for a write (R255). -/
def State.mappedFor (s : State) (c g : Nat) (write : Bool) : Bool :=
  let p := s.page g
  p.mapped && (if p.shared then !write && (p.context == c || (s.grant c).holdsSegment (g / 16384)) else p.context == c)

/-- Maps a FREE page; its map count goes up by one, modulo 256 (R254). -/
def State.mapPage (s : State) (g c use slot index : Nat) (shared : Bool) : State :=
  let p := s.page g
  s.setPage g { p with mapped := true, shared := shared, context := c, use := use, slot := slot, index := index,
                       mapCount := (p.mapCount + 1) % 256 }

/-- The external pages that `n` bytes of a stream's space touch. -/
def externalPages (space a n : Nat) : List Nat :=
  if space = 1 ∧ isExternal a then (unitsOf 65536 a n).map (· / 65536) else []

/-- Whether a channel still holds a translation of a page with pieces of its group not completed (R228). -/
def State.pageInUse (s : State) (g : Nat) : Bool :=
  s.cores.any fun e => e.2.channels.any fun h =>
    h.2.ready.any (fun p => p.pages.contains g) || h.2.flights.any fun f => f.piece.pages.contains g

/-- Unmaps pages and answers, at once or when R228 allows it. -/
def State.unmapThen (s : State) (f : Frame) (pages : List Nat) : Handled :=
  if pages.any s.pageInUse then
    .later (s.modJournal fun j => { j with unmapWaits := j.unmapWaits ++
      [{ session := f.session.toNat, number := f.number.toNat, opcode := f.opcode.toNat, pages := pages }] })
  else done (pages.foldl State.unmapPage s)

/-- Unmaps the pages whose pieces have completed, and answers their commands. -/
def State.releaseUnmaps (s : State) : State :=
  s.journal.unmapWaits.foldl (fun s w =>
    if w.pages.any s.pageInUse then s
    else
      let s := s.modJournal fun j => { j with unmapWaits := j.unmapWaits.filter (· != w) }
      (w.pages.foldl State.unmapPage s).conclude w.session w.number w.opcode {}) s

/-! ## Sequence records (R248, R250) -/

def SeqSlot.bytes (r : SeqSlot) : List Byte :=
  if !r.isOpen then zeros 64
  else
    leBytes 1 1 ++ leBytes 1 r.home ++ leBytes 2 r.lanes ++ leBytes 4 r.perPage ++ leBytes 4 r.length ++
    leBytes 4 r.booked ++ leBytes 4 r.limit ++ leBytes 4 r.ring ++ leBytes 4 r.pageRing ++ leBytes 4 r.groups ++
    leBytes 1 r.stack ++ leBytes 1 r.pc ++ leBytes 1 r.recordCode ++ zeros 1 ++ leBytes 4 r.firstRow ++
    leBytes 4 r.layerStride ++ leBytes 2 r.layers ++ zeros 2 ++ padTo 8 r.tag ++ leBytes 8 r.lastAppender

/-- The entry of a list that holds no page (R250). -/
def noPage : Nat := 0xFF000000

def SeqSlot.entry (r : SeqSlot) (i : Nat) : Nat :=
  match sget 0 r.list i with
  | 0 => noPage
  | g + 1 => g

def SeqSlot.listBytes (r : SeqSlot) (stride : Nat) : List Byte :=
  (List.range stride).flatMap fun i => leBytes 4 (r.entry i)

/-- Groups a length needs (R250). -/
def SeqSlot.groupsFor (r : SeqSlot) (n : Nat) : Nat :=
  if r.home ≠ 1 ∨ r.perPage = 0 then 0
  else if r.pageRing = 0 then ceilDiv n r.perPage
  else min (ceilDiv n r.perPage) (r.pageRing / r.perPage)

def Context.seq (x : Context) (j : Nat) : SeqSlot := sget {} x.seqs j
def State.seq (s : State) (c j : Nat) : SeqSlot := (s.context c).seq j
def Context.stride (x : Context) : Nat := (x.area.map (·.stride)).getD 0
def Context.capacity (x : Context) : Nat := (x.area.map (·.capacity)).getD 0

/-- Writes the record and the list of a slot from the authoritative copy (R248). -/
def State.writeSlot (s : State) (c j : Nat) : State :=
  match (s.context c).area with
  | none => s
  | some a =>
    let r := s.seq c j
    (s.writeScratch (a.base + 64 * j) r.bytes).writeScratch (a.base + 64 * a.capacity + 4 * a.stride * j) (r.listBytes a.stride)

/-- Changes a slot's authoritative record; the record and list in the area follow. -/
def State.modSeq (s : State) (c j : Nat) (f : SeqSlot → SeqSlot) : State :=
  (s.modContext c fun x => { x with seqs := sput {} x.seqs j (f (x.seq j)) }).writeSlot c j

/-! ## Growth (R251, R252) -/

/-- The pool page taken next: the lowest FREE one whose bank field differs from those given, else the lowest. -/
def State.poolPage (s : State) (a : SeqArea) (banks : List Nat) : Option Nat :=
  let free (g : Nat) : Bool := !(s.page g).mapped && !s.pageBarred g
  let all := List.range' (16384 * a.poolFirst) (16384 * a.poolCount)
  match all.find? fun g => free g && !banks.contains (g % 64) with
  | some g => some g
  | none => all.find? free

/-- Maps the page of one group in one lane. -/
def State.growLane (s : State) (c j : Nat) (a : SeqArea) (g lane : Nat) : Option State :=
  let r := s.seq c j
  let base := lane * (a.stride / r.lanes)
  let banks := ((List.range g).filter (g - 3 ≤ ·)).map fun h => r.entry (base + h) % 64
  match s.poolPage a banks with
  | none => none
  | some p =>
    let s := s.mapPage p c 1 j (base + g) false
    some (s.modContext c fun x =>
      { x with seqs := sput {} x.seqs j { r with list := sput 0 r.list (base + g) (p + 1) } })

/-- Maps the groups missing up to `want`, lanes in order; `none` when the pool is short. -/
def State.grow (s : State) (c j want : Nat) : Option State :=
  match (s.context c).area with
  | none => some s
  | some a =>
    let r := s.seq c j
    let steps := (List.range' r.groups (want - r.groups)).flatMap fun g => (List.range r.lanes).map (g, ·)
    (steps.foldl (fun (o : Option State) e => o.bind fun s => s.growLane c j a e.1 e.2) (some s)).map fun s =>
      s.modSeq c j fun r => { r with groups := max r.groups want }

/-- R251 steps 2 and 3 over the slots of a command: groups for Booked length + a, then Groups and Booked length. -/
def State.appendBooked (s : State) (c : Nat) (slots : List Nat) (a : Nat) : Option State :=
  slots.foldl (fun (o : Option State) j => o.bind fun s =>
    let r := s.seq c j
    (s.grow c j (r.groupsFor (r.booked + a))).map fun s => s.modSeq c j fun r => { r with booked := r.booked + a }) (some s)

/-- The list entries of a slot at groups `keep` and above, with their pages. -/
def SeqSlot.above (r : SeqSlot) (stride keep : Nat) : List (Nat × Nat) :=
  (r.list.filter fun e => keep ≤ e.1 % (stride / r.lanes)).map fun e => (e.1, e.2 - 1)

/-- Takes list entries away from a slot. -/
def State.dropEntries (s : State) (c j keep : Nat) (gone : List (Nat × Nat)) : State :=
  s.modSeq c j fun r =>
    { r with groups := min r.groups keep, list := sfilter (fun i => !(gone.any fun e => e.1 == i)) r.list }

/-- Changes the groups that the staged commands of a context have on record for their slots. -/
def State.modStagedGroups (s : State) (c : Nat) (f : Nat → Nat → Nat) : State :=
  s.modJournal fun j => { j with staging := j.staging.map fun x =>
    if x.stream = c then { x with groupsBefore := x.groupsBefore.map fun e => (e.1, f e.1 e.2) } else x }

/-- Positions that the staged commands of a context book on a slot. -/
def State.stagedAppend (s : State) (c j : Nat) : Nat :=
  sumNat ((s.journal.staging.filter fun x => x.stream == c && x.cmd.slots.contains j).map (·.cmd.append))

/-- The groups a slot needs for what is booked on it by accepted commands. -/
def State.bookedGroups (s : State) (c j : Nat) : Nat :=
  (s.seq c j).groupsFor ((s.seq c j).booked - s.stagedAppend c j)

/-- Undoes the pages of a command whose journal write failed (R352 step 8): its positions are no longer booked, and the groups
above those the slot had, or still needs for the other commands, go. -/
def State.undoBooked (s : State) (c a : Nat) (old : List (Nat × Nat)) : State :=
  old.foldl (fun s (j, groups) =>
    let r := s.seq c j
    let keep := max groups (r.groupsFor (r.booked - a))
    let gone := r.above (s.context c).stride keep
    let s := (s.dropEntries c j keep gone).modStagedGroups c fun i g => if i = j then groups else g
    (gone.foldl (fun s e => s.unmapPage e.2) s).modSeq c j fun r => { r with booked := r.booked - a }) s

/-! ## Completion of appends (R253) -/

/-- A completed command advances Length and Last appender. -/
def State.advanceLengths (s : State) (c csn : Nat) (slots : List Nat) (a : Nat) : State :=
  if a = 0 then s
  else slots.foldl (fun s j => if (s.seq c j).isOpen then
    s.modSeq c j fun r => { r with length := r.length + a, lastAppender := csn } else s) s

/-- A failed or ended command lowers Booked length again. -/
def State.lowerBooked (s : State) (c : Nat) (slots : List Nat) (a : Nat) : State :=
  slots.foldl (fun s j => if (s.seq c j).isOpen then
    s.modSeq c j fun r => { r with booked := max r.length (r.booked - a) } else s) s

/-- Whether an uncompleted command of the stream before `csn` appends to a sequence. -/
def Stream.appendsBefore (t : Stream) (csn j : Nat) : Bool :=
  t.cmds.any fun x => decide (x.csn < csn) && x.phase != .completed && x.append != 0 && x.slots.contains j

/-- Completed commands advance the lengths of each sequence in the order of acceptance (R253). -/
def State.settleAppends (s : State) (c : Nat) : State :=
  ((s.stream c).cmds.filter fun m => !m.owes.isEmpty).foldl (fun s m =>
    let ready := m.owes.filter fun j => !(s.stream c).appendsBefore m.csn j
    (s.advanceLengths c m.csn ready m.append).modCmd c m.csn fun x => { x with owes := x.owes.filter fun j => !ready.contains j }) s

/-! ## Accesses of a context -/

/-- The first page or scratchpad byte of a device range that a context may not reach: an external page not mapped for it,
a scratchpad page outside its grant (R152, R255, R332). -/
def State.firstForeign (s : State) (c a n : Nat) (write : Bool) : Option Nat :=
  if isExternal a then
    ((unitsOf 65536 a n).find? fun x => !s.mappedFor c (x / 65536) write)
  else if (s.grant c).holdsScratch a n ∨ n = 0 then none else some a

/-- Whether a device range touches a stack that failed (R184, R426). -/
def State.inFailedStack (s : State) (a n : Nat) : Bool := (stacksOf a n).any fun k => (s.stack k).failed

/-- The pseudo-channel in COMPUTE or SEALING whose control row `r` (0 command window, 1 result window) an address lies in
(R193, R194). -/
def State.controlRow (s : State) (a : Nat) : Option (Nat × Nat × Nat) :=
  match s.windowOf a with
  | none => none
  | some (k, p) =>
    let c := s.pseudo k p
    let r := rowOf a - 256 * c.firstSeg
    if c.mode ≠ .plain ∧ r < 2 then some (k, p, r) else none

/-- Offset of an address within its command or result window (R194). -/
def windowOffset (a : Nat) : Nat := 1024 * bankOf a + bits a 15 14 * 256 + a % 256

/-- The first 256-byte line of a range that lies in a command or result window. -/
def State.firstWindow (s : State) (a n : Nat) : Option (Nat × Nat × Nat) :=
  if s.memStacks.any fun e => e.2.pcs.any fun x => x.2.mode != .plain then (unitsOf 256 a n).findSome? s.controlRow else none

/-- The refusal of a command that names a command or result window of a pseudo-channel in COMPUTE or SEALING: only the dispatcher
and the owner's streams may reach them (R195). R195 names MEM commands; the other commands that read or write device memory are
refused alike (DEDUCED, assumption log 42). -/
def State.windowRefusal (s : State) (a n : Nat) : Option Reply :=
  (s.firstWindow a n).map fun w => refuseState 4 (64 * w.1 + w.2.1) (s.pseudo w.1 w.2.1).mode.code 1

/-! ## A change of split (R156) -/

/-- Changes one die's split (R156): the cache part is written back and emptied, remaining scratchpad steps keep their
contents, steps that come from the cache part are zero. The device's own writes that waited for it follow. -/
def State.resplit (s : State) (d steps : Nat) : State :=
  let old := (s.pond d).steps
  let s := s.dropLines d fun _ => true
  let lo := min old steps
  let hi := max old steps
  ((s.clearKey (scratchBase d + 2 ^ 26 * lo) (2 ^ 26 * (hi - lo))).modPond d fun t =>
    { t with steps := steps, resplit := none }).writeLate

/-- A die is done for the MEM.SPLIT commands at work: each answers when its last die is. -/
def State.splitDone (s : State) (d : Nat) : State :=
  let l := s.journal.splitReplies.map fun e => (e.1, e.2.filter (· != d))
  let s := s.modJournal fun j => { j with splitReplies := l.filter fun e => !e.2.isEmpty }
  (l.filter fun e => e.2.isEmpty).foldl (fun s e => s.conclude e.1.session.toNat e.1.number.toNat e.1.opcode.toNat {}) s

/-- The splits in progress that an access to a range waits for come to their end first: a die's Millpond serves only its split
meanwhile (R156). A command that is taken whole in one step waits so (DEDUCED, assumption log 50). -/
def State.afterSplits (s : State) (a n : Nat) : State :=
  if s.splitHolds a n then
    (List.range 4).foldl (fun s d =>
      match (s.pond d).resplit with
      | some k => if (lineParts a n).any fun e => dieOf e.1 == d then (s.resplit d k).splitDone d else s
      | none => s) s
  else s

end Sys2Proof.Machine
end

