-- ==== Sys2Proof/Machine/Admission.lean ====
section
/-! DEFINITION. Admission of RUN.STEP (R331, R350, R352, R353), the staging of journaled commands (R312), re-booking
(R357), and the bookings of RUN.BOOK and RUN.UNBOOK (R346 to R349). -/

namespace Sys2Proof.Machine

/-! ## Plans and certificates -/

def State.plan (s : State) (c id : Nat) : Option Plan := (s.context c).plans.find? (·.id == id)

/-- Whether an entry is marked REFUSED.SHAPE: none of its certificates has the present shape (R46). -/
def Plan.marked (p : Plan) (entry shape : Nat) : Bool := !p.certs.any fun x => x.entry == entry && x.shape == shape

/-- The certificate with the smallest D for the band among those that qualify at a link width, with its index (R57). -/
def Plan.choose (p : Plan) (entry shape width band : Nat) : Option (Nat × Cert) :=
  (p.certs.zipIdx.filter fun x => x.1.entry == entry && x.1.shape == shape && x.1.floor ≤ width).foldl
    (fun (best : Option (Nat × Cert)) x =>
      match best with
      | some b => if x.1.durations.getD band 0 < b.2.durations.getD band 0 then some (x.2, x.1) else some b
      | none => some (x.2, x.1)) none

/-- The slot table of a certificate. -/
def Plan.table (p : Plan) (entry shape floor : Nat) : List SlotEntry :=
  ((p.tables.find? fun t => t.entry == entry && t.shape == shape && t.floor == floor).map (·.actions)).getD []

/-- The stack and pseudo-channel of every descriptor of the QUERN actions of a slot table (R210). -/
def Plan.quernUses (p : Plan) (l : List SlotEntry) : List (Nat × Nat) :=
  (l.filter (·.action == 3)).flatMap fun e => (p.querns.getD e.argument []).map fun q => (q.1, q.2.1)

/-- Those of every slot table of an entry for a shape: a FILLER command's table is chosen when it starts (R351). -/
def Plan.quernOf (p : Plan) (entry shape : Nat) : List (Nat × Nat) :=
  (p.tables.filter fun t => t.entry == entry && t.shape == shape).flatMap fun t => p.quernUses t.actions

/-- A FILLER command is not held back by narrow links (R287); every other class is. -/
def State.chooseCert (s : State) (p : Plan) (entry band : Nat) (filler : Bool) : Option (Nat × Cert) :=
  match p.choose entry s.shape s.narrowest band with
  | some x => some x
  | none => if filler then p.choose entry s.shape 16 band else none

/-! ## Refusals of admission (R353) -/

def capacity (cause lim earliest promise notchA : Nat) : Reply :=
  { status := Status.capacity, notchA := notchA,
    data := leBytes 1 cause ++ zeros 3 ++ leBytes 4 lim ++ leBytes 8 earliest ++ leBytes 8 promise }

def horizon : Nat := 2 ^ 26

def Cmd.footprint (c : Cmd) : Footprint :=
  { quarters := c.quarters, hoppers := c.hoppers, shares := c.shares, draw := c.draw }

/-- Data of an acceptance (R353). -/
def Cmd.acceptData (c : Cmd) : List Byte :=
  leBytes 1 c.band ++ leBytes 1 c.floor ++ leBytes 2 c.certIndex ++ leBytes 4 (c.duration - c.span) ++
  leBytes 4 c.span ++ zeros 4 ++ leBytes 8 c.timeout

/-! ## The record of RUN.STEP parameters -/

/-- Fields of RUN.STEP parameters (R331). -/
structure StepParams where
  plan : Nat
  entry : Nat
  cls : Nat
  booking : Nat
  notBefore : Nat
  latest : Nat
  append : Nat
  count : Nat
  slots : List Nat
  deriving DecidableEq, Repr

def stepParams (p : List Byte) : StepParams :=
  let n := le p 36 2
  { plan := le p 0 8, entry := le p 8 2, cls := le p 10 1, booking := le p 12 4, notBefore := le p 16 8,
    latest := le p 24 8, append := le p 32 4, count := n,
    slots := (List.range ((p.length - 40) / 2)).map fun i => le p (40 + 2 * i) 2 }

/-- The index of the first slot listed a second time. -/
def firstTwice : List Nat → List Nat → Nat → Option Nat
  | _, [], _ => none
  | seen, a :: r, i => if seen.contains a then some i else firstTwice (a :: seen) r (i + 1)

/-- The checks of R331 and R348 before the state check; offsets counted from `o` in the payload. -/
def stepForm (c o : Nat) (q : StepParams) (s : State) : List (Option Reply) :=
  let pl := s.plan c q.plan
  let badBooking := if q.cls = 0 then !((s.booking q.booking).any fun b => b.context == c) else q.booking != 0
  [when pl.isNone (refuseState 8 (q.plan % 2 ^ 32) 0 6),
   when (pl.any fun p => decide (p.entries ≤ q.entry)) (refuse Status.format (o + 8)),
   when (1024 < q.count) (refuse Status.length (o + 36)),
   when (1048576 < q.append) (refuse Status.length (o + 32)),
   when (2 < q.cls) (refuse Status.format (o + 10)),
   when badBooking (refuse Status.format (o + 12)),
   (firstTwice [] q.slots 0).map fun i => refuse Status.format (o + 40 + 2 * i)]

/-- The state and shape checks that follow. -/
def stepState (c : Nat) (q : StepParams) (s : State) : List (Option Reply) :=
  [legal 0x0301 c s,
   (q.slots.find? fun j => !(s.seq c j).isOpen).map fun j => refuseState 3 j 0 (maskOf [1, 2]),
   when ((s.plan c q.plan).any fun p => p.marked q.entry s.shape) (refuse Status.shape)]

/-- Commands of a stream in flight: accepted and unacknowledged, or on their way to the journal (R314). -/
def State.inFlight (s : State) (c : Nat) : Nat :=
  (s.stream c).cmds.length + (s.journal.staging.filter (·.stream == c)).length

/-- Step 8 of R309. -/
def flowCheck (c : Nat) (s : State) : Option Reply :=
  when (4096 ≤ s.inFlight c) { status := Status.flow, csn := leastOfNat ((s.stream c).cmds.map (·.csn)) }
where
  leastOfNat : List Nat → Nat
  | [] => 0
  | a :: r => r.foldl min a

/-! ## Step 9 of R309: admission (R352) -/

/-- A sequence would grow longer than a certificate's history limit for the band (R57, R261). -/
def State.longHistory (s : State) (c : Nat) (q : StepParams) (x : Cert) (band : Nat) : Bool :=
  q.slots.any fun j => decide (x.history.getD band 0 < (s.seq c j).booked + q.append)

/-- Steps 1 to 4: wheel, band, certificate, Quern modes and PD78. -/
def admitRecord (c : Nat) (q : StepParams) (x : Nat × Cert) (band : Nat) (p : Plan) (s : State) : List (Option Reply) :=
  let uses := if q.cls = 2 then p.quernOf q.entry x.2.shape else p.quernUses (p.table q.entry x.2.shape x.2.floor)
  let notOurs := uses.find? fun u => !((s.pseudo u.1 u.2).mode = .compute ∧ (s.pseudo u.1 u.2).context = c)
  let lost := q.cls ≠ 2 ∧ (List.range 4).any fun h => bit x.2.hoppers h && s.width (4 + h / 2) == 0
  let failed := (List.range 8).any fun k => decide (0 < shareOf x.2.shares k) && (s.stack k).failed
  [when (failed || (lost : Bool)) (refuse Status.shape),
   when (s.longHistory c q x.2 band) (refuse Status.length 32),
   notOurs.map fun u => refuseState 4 (u.1 * 64 + u.2) (s.pseudo u.1 u.2).mode.code (maskOf [1]),
   when (x.2.hoppers != 0 && !s.isOn 78) (refuseState 5 78 0 (maskOf [1]))]

/-- Step 5: sequence lengths, then the pool. -/
def admitSequences (c : Nat) (q : StepParams) (s : State) : List (Option Reply) :=
  [when (q.slots.any fun j => decide ((s.seq c j).limit < (s.seq c j).booked + q.append)) (refuse Status.length 32),
   when (s.appendBooked c q.slots q.append).isNone (capacity 8 0 0 0 0)]

/-- The command of a chosen record, not yet placed. -/
def stepCmd (f : Frame) (q : StepParams) (x : Nat × Cert) (band : Nat) (s : State) : Cmd :=
  { opcode := 0x0301, frame := f, phase := .booked, planId := q.plan, entry := q.entry, cls := q.cls,
    booking := q.booking, notBefore := q.notBefore, append := q.append, slots := q.slots, band := band,
    certIndex := x.1, floor := x.2.floor, span := x.2.spans.getD band 0, duration := x.2.durations.getD band 0,
    bandDuration := x.2.durations.getD band 0,
    draw := x.2.draw, quarters := x.2.quarters, hoppers := x.2.hoppers, shares := x.2.shares, acceptedAt := s.now,
    slip0 := s.schedule.slip }

/-- A command placed at a schedule notch with a ramp-in: start, promise (R59) and timeout (R356). -/
def Cmd.placed (m : Cmd) (s : State) (start ramp : Nat) (occ : Option Nat) : Cmd :=
  let p := s.projected start + ramp + m.duration
  { m with start := start, rampIn := ramp, occurrence := occ, promise := p, original := p,
           timeout := p + max m.bandDuration 65536, slip0 := s.schedule.slip, carried := {}, added := {} }

/-- Steps 6 and 7: placement and the latest promise. -/
def admitPlace (q : StepParams) (m : Cmd) (s : State) : Reply ⊕ Cmd :=
  let f := m.footprint
  let low := s.lowest f q.notBefore
  let late (m : Cmd) (lim : Nat) : Reply ⊕ Cmd :=
    if q.latest ≠ 0 ∧ q.latest < m.promise then .inl (capacity 2 lim (s.projected m.start) m.promise m.promise)
    else .inr m
  if q.cls = 2 then .inr { m with phase := .queued }
  else if s.powerCap < m.draw then .inl (capacity 4 0 0 0 0)
  else if q.cls = 0 then
    match (s.booking q.booking).bind fun b => if b.fits m.span f then s.reservedPlace b m.span f low else none with
    | none => .inl (capacity 5 0 0 0 0)
    | some (k, v, g) => late (m.placed s v g (some k)) 0
  else
    match s.search m.span f s.powerCap searchFuel low 0 with
    | (none, lim) => .inl (capacity 1 lim 0 0 0)
    | (some (v, g), lim) =>
      let m := m.placed s v g none
      if s.clock + horizon < v then
        .inl (capacity 1 lim (s.projected v) m.promise (s.projected v - horizon))
      else late m lim

/-- Admission of a RUN.STEP of context `c`: the refusal, or the command as it will be booked. -/
def State.judge (s : State) (c : Nat) (f : Frame) (q : StepParams) : Reply ⊕ Cmd :=
  let filler := q.cls = 2
  match s.plan c q.plan with
  | none => .inl (refuseState 8 (q.plan % 2 ^ 32) 0 6)
  | some p =>
    if !filler ∧ s.wheel.state = .unset then .inl (refuseState 2 0 0 (maskOf [1, 2, 3, 4]))
    else
      match (if filler then some (s.admissionBand.getD 2) else s.admissionBand) with
      | none => .inl (capacity 3 0 0 0 0)
      | some band =>
        match s.chooseCert p q.entry band filler with
        | none => .inl (refuse Status.shape)
        | some x =>
          match firstFailing (admitRecord c q x band p s ++ admitSequences c q s) with
          | some r => .inl r
          | none => admitPlace q (stepCmd f q x band s) s

/-! ## Staging (R312, R143) -/

/-- Hands a record to the journal staging area; the wait for its acknowledgement begins with the first one waiting. -/
def State.stage (s : State) (x : Staged) : State :=
  s.modJournal fun j => { j with staging := j.staging ++ [x],
                                 waitingSince := if j.staging.isEmpty && j.effects.isEmpty then s.uptime else j.waitingSince }

/-- The groups of a command's slots before its pages are mapped. -/
def State.groupsNow (s : State) (c : Nat) (slots : List Nat) : List (Nat × Nat) :=
  slots.map fun j => (j, (s.seq c j).groups)

/-- Step 8 of R352: pages mapped, list entries, Groups and Booked length written, and the record staged. -/
def State.stageStep (s : State) (c : Nat) (m : Cmd) (sid n : Nat) (answer : Bool) : State :=
  let old := s.groupsNow c m.slots
  match s.appendBooked c m.slots m.append with
  | none => s
  | some t => t.stage { stream := c, cmd := m, session := sid, number := n, groupsBefore := old, answer := answer }

/-- RUN.STEP (R331, R352). -/
def bodyRunStep (f : Frame) (c : Nat) (s : State) : Handled :=
  let q := stepParams f.payload
  zeroField (q.count = 0) s
    (checked (stepForm c 0 q s ++ stepState c q s ++ [flowCheck c s]) s
      (match s.judge c f q with
       | .inl r => .reply r s
       | .inr m => .later (s.stageStep c m f.session.toNat f.number.toNat true)))

/-! ## Re-booking (R357, R402) -/

/-- The place a re-booked command takes: never refused for capacity, so a draw level above the cap counts as the cap. -/
def State.rebookPlace (s : State) (m : Cmd) (from_ : Nat) : Cmd :=
  let f := m.footprint
  let low := max (s.lowest f m.notBefore) from_
  let free (m : Cmd) : Cmd :=
    match (s.search m.span f (max s.powerCap m.draw) searchFuel low 0).1 with
    | some (v, g) => m.placed s v g none
    | none => m.placed s low (s.rampIn low m.draw) none
  if m.cls = 0 then
    match (s.booking m.booking).bind fun b => s.reservedPlace b m.span f low with
    | some (k, v, g) => m.placed s v g (some k)
    | none => free m
  else free m

/-- Re-books an accepted command for a span; it keeps its original promise and is judged against the new one. The delay charged
before is dropped from its list (R62 does not say; DESIGN CHOICE, assumption log 20). A FILLER command returns to the head of the
queue, behind `behind` others returned with it. -/
def State.rebook (s : State) (c csn span from_ behind : Nat) : State :=
  match s.cmd c csn with
  | none => s
  | some m =>
    let m1 := { m with span := span, duration := ceilDiv (16 * span) 15, occurrence := none,
                       carried := {}, added := {}, slip0 := s.schedule.slip }
    let s := s.modCmd c csn fun _ => { m1 with phase := .working }
    if m.cls = 2 then
      (s.modCmd c csn fun _ => { m1 with phase := .queued, promise := 0, timeout := 0, start := 0, rampIn := 0 })
        |>.modSchedule fun x => { x with fillers := x.fillers.take behind ++ (c, csn) :: x.fillers.drop behind }
    else
      s.modCmd c csn fun _ => { s.rebookPlace m1 from_ with phase := .booked, original := m.original }

/-- RESUMED (R402): the new promise as its notch; Value 1 after a suspension, 2 after a restart. -/
def State.sendResumed (s : State) (c csn value : Nat) : State :=
  match s.cmd c csn with
  | none => s
  | some m => s.notice c m.sender Status.resumed csn m.promise 0 value

/-! ## Bookings (R346 to R349) -/

/-- The draw booked over a range, at its highest: at its first notch and at every start and end within it. Work below 320 W may
bring it under 0. -/
def State.peakDraw (s : State) (a z : Nat) : Int :=
  let l := s.holds a z
  let at_ (p : Nat) : Int := drawOf ((l.filter fun h => h.first ≤ p && p < h.stop).filter (·.counts))
  (pressing l a z).foldl (fun m p => max m (at_ p)) (at_ a)

/-- Whether occurrence `k` of a booking would pass the cap, and whether it conflicts: the Limiting mask. -/
def State.bookingOverCap (s : State) (b : Booking) (k : Nat) : Bool :=
  let o := b.first + k * b.period
  decide ((s.powerCap : Int) < s.peakDraw o (o + b.size) + (b.draw : Int) - 320)

def State.bookingClash (s : State) (b : Booking) (k : Nat) : Nat :=
  let o := b.first + k * b.period
  let m := s.blockers o b.lead b.span
    { quarters := b.quarters, hoppers := b.hoppers, shares := b.shares, draw := b.draw } (2 ^ 40)
  m

/-- The earliest schedule notch from `v` on, at most `top`, at which every occurrence fits. -/
def State.bookingFree (s : State) (b : Booking) (top : Nat) : Nat → Nat → Nat
  | 0, _ => 0
  | fuel + 1, v =>
    if top < v then 0
    else
      let b' := { b with first := v }
      if (List.range b.count).all fun k => s.bookingClash b' k = 0 && !s.bookingOverCap b' k then v
      else s.bookingFree b top fuel (v + 1)

def bodyRunBook (f : Frame) (s : State) : Handled :=
  let p := f.payload
  let c := le p 0 1
  let hop := le p 1 1
  let draw := le p 8 2
  let t := le p 12 4
  let u := le p 16 4
  let n := le p 20 4
  let first := le p 24 8
  let lead := bookingLead draw
  let b : Booking :=
    { id := s.schedule.nextBooking, context := c, hoppers := hop, quarters := le p 2 2, shares := le p 4 4, draw := draw,
      period := t, span := u, count := n, first := s.scheduled first, lead := lead, slip0 := s.schedule.slip.total,
      due := some (f.session.toNat, f.number.toNat) }
  let all := List.range n
  zeroField (u = 0 ∨ n = 0) s
    (checked
      [when (t < 1024 ∨ 2 ^ 26 < t) (refuse Status.length 12),
       when (u = 2 ^ 32 - 1 ∨ t < u + lead) (refuse Status.length 16),
       when (n = 2 ^ 32 - 1) (refuse Status.length 20),
       when (63 < c) (refuse Status.format 0),
       when (15 < hop) (refuse Status.format 1),
       when (draw < 320 ∨ 2400 < draw) (refuse Status.format 8),
       when (first < s.now + 16 ∨ s.now + horizon < first) (refuse Status.format 24),
       legalDevice 0x0302 s,
       legalContext 0x0302 c s,
       when (all.any (s.bookingOverCap b)) (capacity 4 0 0 0 0),
       when (256 ≤ (s.schedule.bookings.filter fun x => x.only.isNone && !s.bookingOver x).length) (capacity 6 0 0 0 0),
       (let lim := all.foldl (fun m k => m ||| s.bookingClash b k) 0
        if lim = 0 then none
        else
          let v := s.bookingFree b (s.clock + horizon) (horizon + 1) b.first
          let e := if v = 0 then 0 else s.projected v
          some (capacity 7 lim e 0 e))] s
      (done (s.modSchedule fun x => { x with bookings := x.bookings ++ [b], nextBooking := x.nextBooking + 1 })
        (leBytes 4 b.id ++ leBytes 4 lead ++ leBytes 8 (first + (n - 1) * t))))

/-- Removes the unbooked occurrences that hold no command (R349). -/
def State.pruneBookings (s : State) : State :=
  s.modSchedule fun x => { x with
    bookings := x.bookings.filterMap fun b =>
      match b.only with
      | none => some b
      | some l =>
        let left := l.filter fun k => !(s.placedIn b.id k).isEmpty
        if left.isEmpty then none else some { b with only := some left } }

def bodyRunUnbook (f : Frame) (s : State) : Handled :=
  let n := le f.payload 0 4
  checked
    [when (s.booking n).isNone (refuse Status.format 0), legalDevice 0x0303 s,
     ((s.booking n).filter fun b => (s.context b.context).migrating).map fun b =>
       refuseState 1 b.context (s.ctxState b.context).code (maskOf [1, 2, 3])] s
    (let held := fun (b : Booking) => (s.bookedCmds.filter fun x => x.2.booking == n).filterMap fun x =>
        x.2.occurrence.bind fun k => if k < b.count then some k else none
     done ((s.modSchedule fun x => { x with
        bookings := x.bookings.map fun b => if b.id = n then { b with only := some (held b).eraseDups } else b })
        |>.pruneBookings))

end Sys2Proof.Machine
end

