-- ==== Sys2Proof/Machine/Stopping.lean ====
section
/-! DEFINITION. Stopping a command in every core (R93, R238, R390), its completion (R59, R61, R253, R322), restarting
commands from the journal (R402 to R404) and the replay of suspects (R405 to R408). -/

namespace Sys2Proof.Machine

/-! ## Engines -/

/-- A channel that has nothing in its queue: IDLE, or RUNNING while pieces are in flight (R217). -/
def Channel.cleared (h : Channel) : Channel :=
  { h with queue := [], issuing := false, cursor := 0, first := 0, group := {}, ready := [], pages := [], fault := none,
           state := if h.flights.isEmpty then .idle else .running }

/-- A command is told to stop in a channel: its entries are discarded, its pieces in flight still complete (R238, R400). A
channel never holds entries of two commands in its queue (R236). -/
def Channel.stopped (h : Channel) (c csn : Nat) : Channel :=
  let mine (q : QueuedDesc) : Bool := q.context == c && q.csn == csn
  let h := { h with backlog := h.backlog.filter fun q => !mine q,
                    flights := h.flights.map fun f => if f.context = c ∧ f.csn = csn then { f with stopped := true } else f }
  if (h.queue.any mine || h.queue.isEmpty) = true then h.cleared else h

/-- Whether a channel holds work of a command. -/
def Channel.worksFor (h : Channel) (c csn : Nat) : Bool :=
  (h.queue ++ h.backlog).any (fun d => d.context == c && d.csn == csn) ||
  h.flights.any fun f => f.context == c && f.csn == csn

/-- Whether a core is at work for a command. -/
def Core.worksFor (x : Core) (c csn : Nat) : Bool :=
  (x.context == c && x.csn == csn && [CoreState.preload, .running, .trapped].contains x.state) ||
  x.channels.any fun h => h.2.worksFor c csn

def State.coresFor (s : State) (c csn : Nat) : List Nat := (s.cores.filter fun e => e.2.worksFor c csn).map (·.1)

/-- A channel with nothing queued and nothing in flight is IDLE (R217). -/
def Channel.atRest (h : Channel) : Channel :=
  if h.queue.isEmpty ∧ h.flights.isEmpty ∧ h.state = .running then { h with state := .idle } else h

/-- A core that was told to stop is at rest once none of the pieces it was told of is in flight. -/
def Core.settled (x : Core) : Core :=
  if x.flights.any (·.stopped) then x else { x with stopToldAt := none }

/-- A core told to stop a command: decoding ends, issued instructions have finished, the core is IDLE, and pieces in flight go
on to their ends (R92, R93, R400). -/
def Core.told (x : Core) (c csn : Nat) : Core :=
  let x := if x.context = c ∧ x.csn = csn ∧ ([CoreState.preload, .running, .trapped].contains x.state : Bool) then
      { x with state := .idle, halted := false, queues := 0, streamQ := [], openWrites := [], wait := .none, loops := [] }
    else x
  { x with channels := smap {} (fun _ h => h.stopped c csn) x.channels }.settled

def State.stopCores (s : State) (c csn : Nat) (l : List Nat) : State :=
  l.foldl (fun s p => s.modCore p fun x => x.told c csn) s

/-- Cores told to stop by the stop of a command (R93, R238, R276, R390) or the reset of its context (R400) are to be IDLE 40
notches later (R386, code 2): one that is not IDLE yet from an earlier stop counts from that. -/
def State.watchCores (s : State) (l : List Nat) : State :=
  l.foldl (fun s p => s.modCore p fun x => { x with stopToldAt := some (x.stopToldAt.getD s.uptime) }.settled) s

/-- Empties the instruction memory banks of a command's blocks. -/
def Core.dropBlocks (x : Core) (c csn : Nat) : Core :=
  let keep (b : Block) : Bool := !(b.context == c && b.csn == csn)
  { x with bank0 := x.bank0.filter keep, bank1 := x.bank1.filter keep }

/-- Discards the descriptors that `mine` picks, queued and running; a chunk in progress is finished first (R192). -/
def PseudoChannel.discard (x : PseudoChannel) (mine : QuernEntry → Bool) : PseudoChannel :=
  { x with queue := x.queue.filter fun e => !mine e, backlog := x.backlog.filter fun e => !mine e,
           running := x.running.bind fun r =>
             if !mine r.entry then some r else if x.chunkIn then some { r with dropped := true } else none }

/-- Discards the descriptors of a command. -/
def PseudoChannel.drop (x : PseudoChannel) (c csn : Nat) : PseudoChannel := x.discard fun e => e.context == c && e.csn == csn

/-- A running unit's work is over: the row in progress is its last (R277). -/
def Hopper.lastRow (h : Hopper) : Hopper := if h.inRow then { h with dropped := true } else { h with running := false }

/-- Ends the work of a command on a Hopper unit. -/
def Hopper.drop (h : Hopper) (c csn : Nat) : Hopper :=
  let h := { h with waiting := h.waiting.filter fun j => !(j.context == c && j.csn == csn) }
  if h.running ∧ h.context = c ∧ h.csn = csn then h.lastRow else h

/-- Stops a command in every core, in-bank unit and Hopper unit it occupies. -/
def State.stopCommand (s : State) (c csn : Nat) : State :=
  let s := s.stopCores c csn (s.coresFor c csn)
  { s with
    cores := smap {} (fun _ x => x.dropBlocks c csn) s.cores
    memStacks := smap {} (fun _ t => { t with pcs := smap {} (fun _ x => x.drop c csn) t.pcs }) s.memStacks
    hoppers := smap {} (fun _ h => h.drop c csn) s.hoppers }.releaseUnmaps

/-- A CORE_SNAPSHOT of a core (R396, R397). -/
def State.snapshotCore (s : State) (p : Nat) : State :=
  let x := s.core p
  let chans := sumNat ((List.range 16).map fun i =>
    let h := x.channel i
    (h.state.code + bnat (!h.queue.isEmpty) * 8) * 16 ^ i)
  s.writeLog
    { kind := 3, scope := 2, object := p, context := x.context, csn := x.csn, address := x.trapPc.toNat,
      valueA := s.coreReg p 4 + 2 ^ 32 * x.trapCause.toNat, valueB := chans }

/-- A LINK_SNAPSHOT (R396). -/
def State.snapshotLink (s : State) (i : Nat) : State :=
  s.writeLog { kind := 4, scope := 4, object := i, valueA := s.linkReg i 4 + 2 ^ 32 * s.linkReg i 0xC,
               valueB := s.linkReg i 0x1C }

/-- Snapshots of the cores of a list that are not IDLE (R397). -/
def State.snapshotCores (s : State) (l : List Nat) : State :=
  (l.filter fun p => [CoreState.preload, .running, .trapped].contains (s.core p).state ||
    (s.core p).channels.any fun h => h.2.state != .idle).foldl State.snapshotCore s

/-! ## Faults noted for the end of the notch (R93, R238, R276) -/

/-- Two faults of one command in one notch: the higher precedence decides, then, of two Hopper faults, a failed grant
check (R276), then the lowest core and unit; the cores, channels or units at fault are counted, each once (R93, R322). A fault
of a later notch changes nothing. -/
def Stop.merge (a b : Stop) : Stop :=
  if a.notch ≠ b.notch then a
  else if a.rank < b.rank then a
  else if b.rank < a.rank then b
  else
    let first := if a.rank = 3 ∧ a.status ≠ b.status then a.status = Status.hopperFault
      else a.core < b.core ∨ (a.core = b.core ∧ a.unit ≤ b.unit)
    let members := (a.members ++ b.members).eraseDups
    { (if first then a else b) with count := members.length, members := members }

/-- Notes a fault of a command; COMMAND_STOP acts on it at the end of the notch. -/
def State.noteStop (s : State) (c csn : Nat) (x : Stop) : State :=
  s.modCmd c csn fun m =>
    if m.phase = .completed then m
    else
      let x := { x with notch := s.now, count := 1, members := [(x.core, x.unit)] }
      { m with stop := some (match m.stop with
        | some y => y.merge x
        | none => x) }

/-! ## Completion (R59, R61, R253, R322) -/

def Delay.add (a b : Delay) : Delay :=
  { thermal := a.thermal + b.thermal, link := a.link + b.link, overrun := a.overrun + b.overrun }

/-- The delay a command has carried in and added so far (R60). -/
def Cmd.delay (m : Cmd) : Delay :=
  m.carried.add m.added

/-- The cause with the largest share, THERMAL first when shares are equal (R61): 1, 2 or 3. -/
def Delay.largest (d : Delay) : Nat :=
  if d.link ≤ d.thermal ∧ d.overrun ≤ d.thermal then 1 else if d.overrun ≤ d.link then 2 else 3

/-- Whether a promise is missed: the delay exceeds the pause reserve, or the work ended late (R59, R61). -/
def Cmd.missed (m : Cmd) (notch : Nat) : Bool :=
  m.promise != 0 && (decide (m.duration - m.span < m.delay.total) || decide (m.promise < notch))

/-- The final status of work that ended at a notch: missed work names its largest delay (R61). -/
def lateStatus (m : Cmd) (notch : Nat) : Nat :=
  if m.missed notch then Status.missedThermal + (m.delay.largest - 1) else Status.done

/-- Records of a command that went out as RESULT frames. -/
def Cmd.recordsSent (m : Cmd) : Nat := sumNat (m.resultFrames.map (·.2))

/-- The COMPLETION payload (R322). -/
def completionPayload (m : Cmd) (status notch extra : Nat) (x : Stop) : List Byte :=
  let d := m.delay
  let run := m.opcode = 0x0301
  leBytes 2 status ++ leBytes 2 x.detail ++ leBytes 4 m.recordsSent ++ leBytes 8 m.csn ++ leBytes 8 m.planId ++
  leBytes 8 m.promise ++ leBytes 8 m.original ++ leBytes 8 notch ++ leBytes 4 m.suspendedFor ++
  leBytes 4 (if run then d.thermal else 0) ++ leBytes 4 (if run then d.link else 0) ++
  leBytes 4 (if run then d.overrun else 0) ++ leBytes 2 x.core ++ leBytes 2 x.count ++ leBytes 1 x.cause ++
  leBytes 1 x.unit ++ leBytes 2 m.entry ++ leBytes 8 x.address ++ leBytes 8 extra

/-- The number under which a copy's frames name its command: the CSN, and the source context above 64 bits. -/
def copyTag (c csn : Nat) : Nat := 2 ^ 64 * c + csn

/-- The context on the peer that a FABRIC.COPY or FABRIC.MIGRATE of context `c` writes (R442, R444). -/
def Cmd.peerContext (m : Cmd) (c : Nat) : Nat := if m.opcode = 0x0E05 then le m.frame.payload 2 1 else c

/-- A copy or migration that ends releases the pin at its peer: a check of length 0 (R443, assumption log 14). -/
def State.endCopy (s : State) (c : Nat) (m : Cmd) : State :=
  if m.opcode = 0x0E05 ∨ m.opcode = 0x0E06 then
    ((s.modContext c fun x => { x with migrating := x.migrating && m.opcode != 0x0E06 })).sendFabric (some m.peer)
      (.check { sourceSerial := s.dev.serial, context := m.peerContext c, csn := copyTag c m.csn,
                       migrate := m.opcode = 0x0E06, destination := m.value, length := 0 })
  else s

/-- A completed RESERVED command leaves the end of its booked interval in its occurrence; a reset releases the interval (R348,
R357). -/
def Booking.leaves (b : Booking) (m : Cmd) : Booking :=
  match m.occurrence with
  | some k =>
    if b.id ≠ m.booking then b
    else { b with ends := sput 0 b.ends k (max (sget 0 b.ends k) (m.start + m.rampIn + m.span - (b.first + k * b.period))) }
  | none => b

/-- The end of an accepted command: its completion is journaled, and with it the lengths of its sequences (R253). After a fault of a
Hopper unit no record of it goes out any more (R276). The rest of its booked interval stays booked, unless a reset ended it (R340,
R357). -/
def State.complete (s : State) (c csn status notch extra : Nat) (x : Stop) : State :=
  match s.cmd c csn with
  | none => s
  | some m =>
    if m.phase = .completed then s
    else
      let good := status / 4096 ≠ 4 ∧ status / 4096 ≠ 3
      let payload := completionPayload m status notch extra x
      let s := s.modCmd c csn fun m => { m with
        phase := .completed, status := status, completion := payload, completedAt := s.uptime, actions := [], stop := none, saved := [],
        records := if x.rank = 3 then [] else m.records,
        resultFrames := if x.rank = 3 then m.resultFrames.take m.shown else m.resultFrames,
        owes := if good ∧ m.opcode = 0x0301 ∧ m.append ≠ 0 then m.slots else [] }
      let s := s.modStream c fun t => { t with lastCompleted := max t.lastCompleted csn }
      let s := s.modSchedule fun y =>
        { y with fillers := y.fillers.filter (· != (c, csn)),
                 spent := if m.onWheel ∧ m.opcode = 0x0301 ∧ status ≠ Status.failedReset then y.spent ++ [(c, m.spent)] else y.spent,
                 bookings := if status = Status.failedReset then y.bookings else y.bookings.map fun b => b.leaves m }
      let s := (if m.opcode ≠ 0x0301 ∨ good then s else s.lowerBooked c m.slots m.append).settleAppends c
      let s := if good then s
        else s.writeLog { kind := 2, scope := if c = 255 then 0 else 5, object := if c = 255 then 0 else c, context := c,
                          cause := if x.cause ≠ 0 then x.cause else x.detail, csn := csn, address := x.address,
                          valueA := status, valueB := x.detail }
      s.pruneBookings.endCopy c m

/-- Ends a command with FAILED.RESET and a detail (R392). -/
def State.endReset (s : State) (c detail csn : Nat) : State :=
  (s.stopCommand c csn).complete c csn Status.failedReset s.now 0 { rank := 0, status := Status.failedReset, detail := detail }

/-- The uncompleted commands of a stream, in CSN order. -/
def State.uncompleted (s : State) (c : Nat) : List Nat :=
  ((s.stream c).cmds.filter (·.phase != .completed)).map (·.csn)

/-! ## Generations (R325, R410) -/

def State.advanceGeneration (s : State) (c cause : Nat) : State :=
  let s := s.modContext c fun x => { x with generation := (x.generation + 1) % 65536 }
  s.notice c 0 Status.noticeGeneration 0 s.now 0 ((s.context c).generation + 65536 * cause)

/-! ## Restart from the journal (R402 to R404) -/

/-- A journaled command that restarts from its record: RUN.STEP, PLAN.LOAD, CTX.SAVE, CTX.RESTORE, FABRIC.COPY and FABRIC.MIGRATE
(R402, R404, R443, R444). SEG.RECODE goes on with its sweep. -/
def Cmd.restarts (m : Cmd) : Bool := [0x0301, 0x0201, 0x0504, 0x0505, 0x0E05, 0x0E06].contains m.opcode

/-- A command given up to its journal record: nothing of its run remains and nothing is booked for it. -/
def Cmd.given (m : Cmd) : Cmd :=
  if !m.restarts ∨ m.phase = .completed then m
  else { m with phase := .held, actions := [], begun := false, resuming := false, skipped := 0, stop := none, saved := [],
                savedBarriers := [], faultPages := [], records := [], resultFrames := [], shown := 0, handed := 0,
                occurrence := none, carried := {}, added := {}, suspendedFor := 0, progress := 0, lost := 0 }

/-- Gives up every uncompleted command of a context: bookings, places in the queue and suspensions end. -/
def State.giveUp (s : State) (c : Nat) : State :=
  let s := (s.uncompleted c).foldl (fun s n => (s.stopCommand c n).modCmd c n Cmd.given) s
  (s.modSchedule fun x => { x with fillers := x.fillers.filter (·.1 != c) }).pruneBookings

/-- A command that has started work: some action of it has begun, be it set aside by now (R385, R240). -/
def Cmd.hasStarted (m : Cmd) : Bool := m.actions.any fun a => a.phase != .waiting || a.aside

/-- Gives up the uncompleted commands of a context that have started; the others keep their bookings and places (R385). -/
def State.giveUpStarted (s : State) (c : Nat) : State :=
  let l := ((s.stream c).cmds.filter fun m => m.phase != .completed && (m.hasStarted || m.phase == .held)).map (·.csn)
  let s := l.foldl (fun s n => (s.stopCommand c n).modCmd c n Cmd.given) s
  (s.modSchedule fun x => { x with fillers := x.fillers.filter fun e => !(e.1 == c && l.contains e.2) }).pruneBookings

/-- The certificate record of a command. -/
def State.certOf (s : State) (c : Nat) (m : Cmd) : Option Cert := (s.plan c m.planId).bind fun p => p.certs[m.certIndex]?

/-- The slot table of a command. -/
def State.tableOf (s : State) (c : Nat) (m : Cmd) : List SlotEntry :=
  match s.plan c m.planId, s.certOf c m with
  | some p, some x => p.table m.entry x.shape x.floor
  | _, _ => []

/-- The actions of a command, none started. -/
def State.freshActions (s : State) (c : Nat) (m : Cmd) : List ActionRun := (s.tableOf c m).map fun e => { entry := e }

/-- The pseudo-channels that the QUERN actions of a command name: of its slot table, or of every table that a FILLER command's
record, not chosen yet, can have in the present shape (R189, R210). -/
def State.quernPlaces (s : State) (c : Nat) (m : Cmd) (p : Plan) : List (Nat × Nat) :=
  if m.cls = 2 ∧ !m.chosen then p.quernOf m.entry s.shape else p.quernUses (s.tableOf c m)

/-- Whether the QUERN actions of a command can run now (R210). -/
def State.quernReady (s : State) (c : Nat) (m : Cmd) : Bool :=
  match s.plan c m.planId with
  | none => true
  | some p => (p.quernUses (s.tableOf c m)).all fun u =>
      decide ((s.pseudo u.1 u.2).mode = .compute ∧ (s.pseudo u.1 u.2).context = c)

/-- The timeout of a journaled command other than RUN.STEP that has one (R391), from a notch on. -/
def Cmd.workTimeout (m : Cmd) (now : Nat) : Nat :=
  if m.opcode = 0x0201 ∨ m.opcode = 0x0504 ∨ m.opcode = 0x0505 then 2 ^ 24 + now else 0

/-- A held command is back: its RESTART record, and its RESUMED notice with Value 2 (R396, R402). -/
def State.restarted (s : State) (c csn : Nat) : State :=
  let m := s.cmd c csn
  (s.writeLog { kind := 8, scope := 5, object := c, context := c, csn := csn, valueA := (m.map (·.original)).getD 0,
                valueB := (m.map (·.promise)).getD 0 }).sendResumed c csn 2

/-- Restarts one held command (R402 to R404): a RUN.STEP keeps its record while the record's shape is the present one, with the
windows of the present band; a QUERN action whose window is gone is refused under R210. The others begin their work again, a
copy with its next COPY_PAGE_RESEND. -/
def State.restartCmd (s : State) (c behind csn : Nat) : State :=
  match s.cmd c csn with
  | none => s
  | some m =>
    if m.phase ≠ .held then s
    else if m.opcode ≠ 0x0301 then
      (s.modCmd c csn fun m => { m with phase := .working, timeout := m.workTimeout s.now }).restarted c csn
    else if m.cls = 2 ∧ !m.chosen then (s.rebook c csn m.span 0 behind).restarted c csn
    else
      match s.certOf c m with
      | none => s.endReset c 4 csn
      | some x =>
        let b := s.presentBand
        if x.shape ≠ s.shape then s.endReset c 4 csn
        else if !s.quernReady c m then
          s.complete c csn Status.state s.now 0 { rank := 0, status := Status.state, detail := 4 }
        else
          let s := s.modCmd c csn fun m => { m with band := b, bandDuration := x.durations.getD b 0, actions := s.freshActions c m }
          (s.rebook c csn (x.spans.getD b 0) (s.clock + 16) behind).restarted c csn

/-- A lost block of a journal copy: the record it held is read from the other copy and written again elsewhere, once (R315, R396).
-/
def State.journalBlockLost (s : State) (b : Nat) : State :=
  if !s.journal.segments.contains (segmentOf b) ∨ s.journal.lostBlocks.contains b then s
  else
    ((s.modJournal fun j => { j with lostBlocks := b :: j.lostBlocks }).writeLog
      { kind := 12, address := segmentOf b, valueA := 1 }).setTroubleBit .device 0

/-- The blocks of the journal copies that a read of the journal can find damaged. -/
def State.journalDamage (s : State) : List Nat :=
  (s.damage.filter fun e => isExternal e.1 && s.journal.segments.contains (segmentOf e.1) &&
    !s.journal.lostBlocks.contains e.1).map (·.1)

/-- A command both copies of whose records are lost ends with FAILED.JOURNAL, whatever status it had; what it had still to append is
booked no longer (R253). -/
def State.loseRecord (s : State) (c csn : Nat) : State :=
  let x : Stop := { rank := 0, status := Status.journalLost }
  match s.cmd c csn with
  | none => s
  | some m =>
    if m.phase = .completed then
      (s.lowerBooked c m.owes m.append).modCmd c csn fun m =>
        { m with status := Status.journalLost, owes := [], records := [], handed := 0, expected := 0, resultFrames := [], shown := 0,
                 completion := completionPayload m Status.journalLost s.now 0 x }
    else s.complete c csn Status.journalLost s.now 0 x

/-- The block of a journal copy that holds a command's record: the spec gives no place, so it is a free one of the copy's segments
(R312; assumption log 45). -/
def State.recordAt (s : State) (copyB : Bool) (c csn : Nat) : Nat :=
  let n := Config.recordPlace copyB c csn
  2 ^ 30 * s.journal.segments.getD (4 * bnat copyB + n % 4) 0 + 64 * (n / 4 % 14680064)

/-- Both copies of a command's record are lost: a JOURNAL record says so, and the command ends (R315, R396). -/
def State.bothLost (s : State) (c csn : Nat) : State :=
  ((s.writeLog { kind := 12, context := if c < 64 then c else 0xFF, csn := csn, address := segmentOf (s.recordAt false c csn),
                 valueA := 2 }).setTroubleBit .device 1).loseRecord c csn

/-- The damaged blocks of the journal copies are read: a lost one is an uncorrectable read, and a planted one is lost whatever a read of
it finds (R168, R467). -/
def State.readDamage (s : State) : State × List Nat :=
  s.journalDamage.foldl (fun (s, l) b =>
    let planted := (s.damageAt b).planted
    match s.readBlock b with
    | (s, true) => (s.journalBlockLost b, b :: l)
    | (s, false) => if planted then (s.journalBlockLost b, b :: l) else (s, l)) (s, [])

/-- The journal keeper reads the copies for a restart: where a block is lost the other copy serves (R315); a command whose record
lies in lost blocks of both copies ends. The keeper reads both copies whole (DESIGN CHOICE, assumption log 45). -/
def State.readCopies (s : State) : State :=
  let (s, l) := s.readDamage
  if l.isEmpty then s
  else
    (s.contexts.map fun e => (e.1, e.2.stream)).foldl (fun s e =>
      e.2.cmds.foldl (fun s m =>
        if l.contains (s.recordAt false e.1 m.csn) && l.contains (s.recordAt true e.1 m.csn) then s.bothLost e.1 m.csn else s) s)
      (s.devStream.cmds.foldl (fun s m =>
        if l.contains (s.recordAt false 255 m.csn) && l.contains (s.recordAt true 255 m.csn) then s.bothLost 255 m.csn else s) s)

/-- The move of a migration from a peer begins again (R444). -/
def Pin.again (p : Pin) : Pin := { p with unit := 0, buffer := [], moved := 0 }

/-- Restarts the held commands of a context in CSN order (R402), and what a peer moves into it. -/
def State.restartAll (s : State) (c : Nat) : State :=
  let s := s.modContext c fun x => { x with pins := x.pins.map Pin.again }
  let s := if (s.stream c).cmds.any (·.phase = .held) then s.readCopies else s
  ((s.uncompleted c).foldl (fun (a : State × Nat) n =>
    let t := a.1.restartCmd c a.2 n
    (t, a.2 + bnat ((t.cmd c n).any (·.phase == .queued)))) (s, 0)).1

/-! ## The replay of suspects (R405 to R408) -/

/-- Whether the context at its turn has completed every command that had started before the reset (R406). -/
def State.replayDone (s : State) (c : Nat) : Bool :=
  !(s.stream c).cmds.any fun m => m.startedBefore && m.phase != .completed

/-- A log record about a context. -/
def ctxLog (kind c a b : Nat) : LogEntry :=
  { kind := kind, scope := 5, object := c, context := c, valueA := a, valueB := b }

/-- Requests with an old tag are dropped at their destination: counted, with a STALE record (R396, R398). -/
def State.countStale (s : State) (c n destination : Nat) : State :=
  let s := s.modDev fun d => { d with staleDropped := saturate32 (d.staleDropped + n) }
  (s.setTroubleBit .device 8).writeLog { ctxLog 13 c n 0 with address := destination }

/-- Several such requests, with the destination of each: one record for each destination. -/
def State.countStales (s : State) (c : Nat) (l : List Nat) : State :=
  l.eraseDups.foldl (fun s a => s.countStale c (l.filter (· == a)).length a) s

/-- Every command of every stream changed by a function. -/
def State.mapCmds (s : State) (f : Cmd → Cmd) : State :=
  { s with contexts := smap {} (fun _ x => { x with stream := { x.stream with cmds := x.stream.cmds.map f } }) s.contexts }

/-- With Replay 0 the suspects that wait restart together, as ordinary contexts, and so does the one whose replay goes on (R408). -/
def State.releaseSuspects (s : State) : State :=
  let l := s.dev.suspects
  let s := s.modDev fun d => { d with suspects := [], replaying := none }
  let s := s.mapCmds fun m => { m with startedBefore := false }
  l.foldl (fun s c =>
    let s := s.modContext c fun x => { x with state := .open }
    if (s.context c).draining then s else s.restartAll c) s

/-- The next suspect moves to ACTIVE and its commands are re-booked; one with nothing left to replay is cleared. -/
def State.replayNext : Nat → State → State
  | 0, s => s
  | fuel + 1, s =>
    match s.dev.replaying with
    | some c =>
      if s.replayDone c then
        let s := (s.modStream c fun t => { t with cmds := t.cmds.map fun m => { m with startedBefore := false } })
        let s := (s.modDev fun d => { d with replaying := none }).writeLog (ctxLog 10 c 0 0)
        s.replayNext fuel
      else s
    | none =>
      match s.dev.suspects with
      | [] => s
      | c :: l =>
        let s := s.modDev fun d => { d with suspects := l, replaying := some c }
        let s := s.modContext c fun x => { x with state := .open }
        (if (s.context c).draining then s else s.restartAll c).replayNext fuel

/-- Whether a context's commands wait for a restart from their records: out of service, in quarantine or reset, or while old tags
drain (R387, R398, R400, R405). -/
def State.holdsBack (s : State) (c : Nat) : Bool :=
  !s.inService || (s.context c).draining || [CtxState.quarantined, .resetting].contains (s.context c).state

/-- Goes on with the replay where a completion allows it; a die reset in progress holds it. -/
def State.replayStep (s : State) : State :=
  if (s.dev.replaying.isNone ∧ s.dev.suspects.isEmpty) ∨ !s.dev.dieResets.isEmpty ∨ s.dev.state = .faulted ∨ s.dev.state = .staging then s
  else if !s.dev.replay then s.releaseSuspects
  else s.replayNext 130

/-- Removes a context from the replay (R408). -/
def State.leaveReplay (s : State) (c : Nat) : State :=
  s.modDev fun d => { d with suspects := d.suspects.filter (· != c),
                             replaying := if d.replaying = some c then none else d.replaying }

/-- The end of a command, with what follows for a replay. -/
def State.finish (s : State) (c csn status notch extra : Nat) (x : Stop) : State :=
  (s.complete c csn status notch extra x).replayStep

end Sys2Proof.Machine
end

