-- ==== Sys2Proof/Machine/Traps.lean ====
section
/-! DEFINITION. The instruction word of a core program (R88, R89) and the traps of a core (R92, R93). -/

namespace Sys2Proof.Machine

/-! ## The instruction word (R88) -/

def wClass (w : CoreWord) : Nat := bits w.toNat 127 124
def wOp (w : CoreWord) : Nat := bits w.toNat 123 116
def wMask (w : CoreWord) : Nat := bits w.toNat 115 100
def wFormats (w : CoreWord) : Nat := bits w.toNat 99 96
def wA (w : CoreWord) : Nat := bits w.toNat 95 72
def wB (w : CoreWord) : Nat := bits w.toNat 71 48
def wC (w : CoreWord) : Nat := bits w.toNat 47 24
def wCount (w : CoreWord) : Nat := bits w.toNat 23 0

/-- The operands as register numbers. -/
def rA (w : CoreWord) : Nat := wA w % 64
def rB (w : CoreWord) : Nat := wB w % 64
def rC (w : CoreWord) : Nat := wC w % 64

/-- Whether a class and opcode are defined (R89, R234). -/
def wDefined (w : CoreWord) : Bool :=
  match wClass w with
  | 0 => wOp w ≤ 5
  | 1 => wOp w ≤ 5
  | 2 => wOp w ≤ 9
  | 3 => wOp w ≤ 3
  | _ => false

/-! ## Traps (R92, R93) -/

def trapFetch : Nat := 1
def trapUndefined : Nat := 2
def trapParity : Nat := 3
def trapSlice : Nat := 4
def trapAddress : Nat := 5
def trapLoad : Nat := 6
def trapMode : Nat := 7
def trapCount : Nat := 8

def trapStatus (cause : Nat) : Nat :=
  if cause = trapParity ∨ cause = trapSlice ∨ cause = trapLoad then Status.uncorrectable else Status.coreTrap

/-- The block a core runs. -/
def Core.block (x : Core) : Option Block := if x.bank then x.bank1 else x.bank0

/-- A core traps: it stops decoding, records the cause, and its command is noted for the end of the notch. `w` is the
trapping instruction, zero where none was fetched. CORE.TrapPc has 12 bits for the index, which a FetchRange trap's can exceed:
it then holds the index modulo 4,096 (DESIGN CHOICE, assumption log 48). A core that runs an action of another command goes on
with it, since R93 leaves the promises of other commands as they are (DESIGN CHOICE, assumption log 48). -/
def State.trapAs (s : State) (own cause : Nat) (w : CoreWord) (pc item c csn address : Nat) : State :=
  let p := s.physical own
  let s := s.modCore p fun x =>
    let x := if x.state = .running ∧ ¬ (x.context = c ∧ x.csn = csn) then x
      else { x with state := .trapped, wait := .none, streamQ := [], context := c, csn := csn }
    { x with trapCause := BitVec.ofNat 32 (cause + 2 ^ 4 * wClass w + 2 ^ 8 * wOp w),
             trapPc := BitVec.ofNat 32 (pc % 4096 + 2 ^ 16 * (item % 4096)), trapAddr := BitVec.ofNat 32 address }
  let s := s.setTroubleBit (.core p) 0 (2, p) c
  s.noteStop c csn { rank := 0, status := trapStatus cause, detail := cause, core := own, cause := cause, address := address }

/-- A core traps at an instruction of its block. -/
def State.trapAt (s : State) (own cause pc address : Nat) : State :=
  let x := s.core (s.physical own)
  match x.block with
  | none => s
  | some b => s.trapAs own cause (b.instrs.getD pc 0) pc b.item x.context x.csn address

/-- A core traps at its present instruction. -/
def State.trap (s : State) (own cause : Nat) (address : Nat := 0) : State :=
  s.trapAt own cause (s.core (s.physical own)).pc address

end Sys2Proof.Machine
end

