-- ==== Sys2Proof/Machine/StreamAccess.lean ====
section
/-! DEFINITION. What a stream may touch (R220, R223, R226, R237), its reads and writes with the Quern windows among them
(R194, R195, R213, R224), and the halt of a channel (R237 to R239). -/

namespace Sys2Proof.Machine

/-! ## Causes (R237) -/

/-- The cause of a core-local access of `n` bytes of a context on a logical core (R126, R223). -/
def State.localCause (s : State) (c k x n : Nat) : Option Nat :=
  let g := s.grant c
  match localPlace x with
  | .unmapped => some 2
  | .program => some 3
  | _ =>
    if s.logicalExists k && bit g.quarters (k / 15) &&
        (within x n g.storeBase g.storeLength || within x n g.sliceBase g.sliceLength) then none else some 4

/-- The cause of an access to an external page (R226); an absent page suspends a STREAM channel and fails another. -/
def State.pageCause (s : State) (c chan a : Nat) (write : Bool) : Option Nat :=
  let g := a / 65536
  if s.mappedFor c g write then none
  else if (s.page g).mapped then some 4
  else some (if chan < 8 then 1 else 8)

/-- The cause of a device access of a context (R22, R141, R152, R163, R195, R226). An access to a stack that has failed counts as one
to an unmapped address, cause 2, which the halt causes do not name (DESIGN CHOICE, assumption log 16). -/
def State.deviceCause (s : State) (c chan a : Nat) (write : Bool) : Option Nat :=
  match s.place a with
  | .unmapped => some 2
  | .table _ => some 3
  | .scratch _ => if (s.grant c).holdsScratch a 1 then none else some 4
  | .stack k =>
    if (s.stack k).failed then some 2
    else
      match s.windowOf a with
      | some (k, p) =>
        if (s.pseudo k p).context ≠ c ∨ (write ∧ (s.controlRow a).any (fun w => w.2.2 == 1) = true) then some 3
        else s.pageCause c chan a write
      | none => s.pageCause c chan a write

/-- The fault of one side of an access of `n` bytes, within one 256-byte line of a device address. -/
def State.sideFault (s : State) (c own chan space core a n : Nat) (write : Bool) : Option StreamFault :=
  let k := if space = 0 then own else core
  (if space = 1 then s.deviceCause c chan a write else s.localCause c k a n).map fun x =>
    { cause := x, space := space, core := if space = 2 then core else 0, address := a }

/-- The fault that the translation of an external page finds: absent, or mapped for another context (R226). -/
def State.pageFault (s : State) (c chan space a : Nat) (write : Bool) : Option StreamFault :=
  if space = 1 ∧ isExternal a then
    match s.deviceCause c chan a write, s.pageCause c chan a write with
    | some x, some y => if x = y then some { cause := x, space := 1, core := 0, address := a } else none
    | _, _ => none
  else none

/-- Reads the table entry of a page for a translation: a lost one is rebuilt and recorded (R142, R226). -/
def State.readTable (s : State) (g : Nat) : State :=
  (s.readGranules (g / 4194304) (scratchBase (g / 4194304) + 8 * (g % 4194304)) 8).1

/-- A row stays within its space or range (R220). -/
def State.rowFits (s : State) (space a n : Nat) : Bool :=
  if space = 1 then
    if isExternal a then a + n ≤ 2 ^ 40
    else if isScratchWindow a then a % 2 ^ 30 + n ≤ s.scratchSize (scratchDie a) || s.scratchSize (scratchDie a) ≤ a % 2 ^ 30
    else true
  else
    match localPlace a with
    | .store => a + n ≤ 0x400000
    | .slice => a + n ≤ 0x12E00000
    | _ => true

/-! ## Halts -/

/-- The command status of a halt cause. -/
def haltStatus (cause : Nat) : Nat :=
  if cause = 5 then Status.uncorrectable else if cause = 8 then Status.pageAbsent else Status.streamFault

/-- The pages begun before the group that a channel translates now: for one that it goes on with in the middle, those before the
group first began, so that its order is the same again (R225, R229). -/
def Channel.before (h : Channel) : List (Nat × Nat) := if h.first < h.position then h.group.begun else h.begun

/-- A channel goes back to its first piece not issued, whose group it translates again (R237, R240). -/
def Channel.mark (h : Channel) : StreamMark :=
  match h.ready with
  | w :: _ => { h.group with position := w.number }
  | [] => if h.fault.isSome then { h.group with position := h.position }
          else { cursor := h.cursor, first := h.first, position := h.position, begun := h.before, pages := h.pages }

def Channel.rewound (h : Channel) : Channel :=
  let m := h.mark
  { h with cursor := m.cursor, first := m.first, position := m.position, group := m, ready := [], pages := m.pages,
           fault := none }

/-- Whether the head descriptor of a channel is a command's. -/
def Channel.heads (h : Channel) (c csn : Nat) : Bool := h.queue.head?.any fun q => q.context == c && q.csn == csn

/-- An absent page is noted for the suspension of its command, and its faulting address goes to the log: a TROUBLE record that
names CORE.ChanFaultLo, with the address as its value (R239; DESIGN CHOICE, assumption log 16). -/
def State.noteAbsent (s : State) (p chan c csn a : Nat) : State :=
  (s.modCmd c csn fun m =>
    { m with faultPages := if m.faultPages.contains (a / 65536) then m.faultPages else m.faultPages ++ [a / 65536] }).writeLog
    { kind := 1, scope := 2, object := p, context := c, csn := csn, address := 0x01000210 + 0x10000 * p + 0x20 * chan, valueA := 1,
      valueB := a }

/-- A channel halts for a command (R237): cause, address and saved position recorded; the command is noted for the end of the
notch. A channel that has nothing of the command left to issue, because it was emptied or works for another, records the fault
and goes on. -/
def State.haltChannel (s : State) (own chan c csn : Nat) (f : StreamFault) : State :=
  let p := s.physical own
  let page := f.cause = 1
  let s := s.modChannel p chan fun h =>
    let h := if h.heads c csn then { h.rewound with state := if page then .haltedPage else .haltedError } else h
    { h with cause := f.cause, faultAddress := f.address, faultSpace := f.space, faultCore := f.core }
  let s := s.setTroubleBit (.coreStream p) (if page then 1 else 0) (2, p) c
  if page then s.noteAbsent p chan c csn f.address
  else
    s.noteStop c csn
      { rank := 1, status := haltStatus f.cause, detail := f.cause, core := own, cause := f.cause, unit := chan,
        address := f.address }

/-! ## Quern windows (R194, R195, R213) -/

/-- The banks whose rows the chunk in progress visits: those that hold a position from its first row on (R196, R204). -/
def PseudoChannel.chunkBanks (x : PseudoChannel) : List Nat :=
  match x.running with
  | none => []
  | some run =>
    let d := quernDesc run.entry.bytes
    if x.chunkIn then (List.range 64).filter fun b => decide (run.rowsDone / 4 * 64 * d.perRow + b < d.length) else []

/-- Whether an access to some part of a range waits for the chunk that uses its bank (R196). -/
def State.bankHeld (s : State) (a n : Nat) : Bool :=
  (lineParts a n).any fun e => isExternal e.1 && (s.bypasses e.1 || (s.lineOf (homeDie e.1) e.1).isNone) &&
    (s.pseudo (stackOf e.1) (pseudoOf e.1)).chunkBanks.contains (bankOf e.1)

/-- Sets GuardTrip (bit 2) or QueueFull (bit 3) of a pseudo-channel, with its record (R383). -/
def State.setPcFlag (s : State) (k p b c : Nat) : State :=
  let s := s.modPseudo k p fun x =>
    { x with guardTrip := x.guardTrip || b == 2, queueFull := x.queueFull || b == 3, flags := x.flags ||| 2 ^ (b - 2) }
  s.troubleRecord (0x00400400 + 0x40000 * k + 4 * p) b (BitVec.ofNat 32 (s.pcModeReg k p)) (3, k) c

/-- A descriptor written to a descriptor line: queued, or discarded when the queue is full. SEALING accepts none (R191). -/
def State.enqueueQuern (s : State) (k p : Nat) (e : QuernEntry) : State :=
  if (s.pseudo k p).mode ≠ .compute then s
  else if (s.pseudo k p).depth < 16 then s.modPseudo k p fun x => { x with queue := x.queue ++ [e] }
  else
    (s.setPcFlag k p 3 e.context).noteStop e.context e.csn
      { rank := 2, status := Status.quernQueue, unit := k, address := 2 ^ 37 * k }

/-- The status line of a pseudo-channel. -/
def State.statusLine (s : State) (k p : Nat) : List Byte :=
  let x := s.pseudo k p
  padTo 256 (leBytes 8 x.completed ++ leBytes 4 x.lastTag.toNat ++ leBytes 1 x.depth ++ leBytes 1 x.chunkBand ++
    leBytes 1 x.flags ++ zeros 1 ++ leBytes 4 x.guardRow.toNat ++ leBytes 4 x.guardTag.toNat)

/-- A stream's read of a device range of at most one 256-byte line. -/
def State.streamRead (s : State) (who : Requester) (a n : Nat) : State × List Byte × Option Nat :=
  match s.controlRow a with
  | some (k, p, 0) =>
    let x := windowOffset a
    if x < 256 then (s, zeros n, none)
    else if x < 512 then (s, slice (s.statusLine k p) (x - 256) n, none)
    else if x < 1024 then (s, zeros n, none)
    else s.readDevice who a n
  | _ => s.readDevice who a n

/-- The 64-byte parts of a write to a descriptor line, in ascending order. -/
def State.writeLine (s : State) (k p : Nat) (e : QuernEntry) : List (List Byte) → State
  | [] => s
  | b :: l => (s.enqueueQuern k p { e with bytes := b }).writeLine k p e l

/-- A stream's write of at most one 256-byte line; `e` names the writer of a descriptor. -/
def State.streamWrite (s : State) (who : Requester) (e : QuernEntry) (a : Nat) (data : List Byte) : State :=
  match s.controlRow a with
  | some (k, p, 0) =>
    let x := windowOffset a
    if x < 256 then s.writeLine k p e (chunks 64 (data.length / 64) data)
    else if x < 1024 then s
    else s.writeDevice who a data
  | _ => s.writeDevice who a data

end Sys2Proof.Machine
end

