-- ==== Sys2Proof/Machine/Wheel.lean ====
section
/-! DEFINITION. The wheel's servo and its states (R27 to R43, R437), the TIME commands, and the events of time. -/

namespace Sys2Proof.Machine

/-- What a command of the block answers. -/
abbrev Out := Host.Outcome State Fault Refusal

/-- An event whose rule's condition does not hold leaves the state as it is (assumption log 4). -/
def event (b : Bool) (s t : State) : Out := .next (if b then t else s)

/-- What an arriving message does when the port lets it through (R458). -/
def State.through (s : State) (t : Option SecTag) (go : State → Out) : Out :=
  let r := s.letIn t
  if r.2 then go r.1 else .next r.1

/-! ## Sources -/

def State.isFollower (s : State) : Bool := s.fabric.role == 2

/-- SourceCfg's code of the source in use: 0 PTP, 1 PPS. -/
def Wheel.inUse (w : Wheel) : Option Nat :=
  match w.source with
  | 1 | 3 => some 0
  | 2 => some 1
  | _ => none

/-- Whether the order of WHEEL.SourceCfg names a source (R37). A follower heeds its head alone (R437). -/
def State.names (s : State) (c : Nat) : Bool :=
  if s.isFollower then c == 0 else s.wheel.first == c || s.wheel.second == c

/-- Whether the source in use of a wheel in FREE is FREE itself, so that no other source takes it away (R37). -/
def State.heldFree (s : State) : Bool := !s.isFollower && s.wheel.first == 2

/-- Whether a source is valid (R32, R33). A FREE source gives no time that the wheel could acquire, so the model never counts
it as a valid source to take (DESIGN CHOICE, assumption log 38). -/
def Wheel.valid (w : Wheel) (c : Nat) : Bool := if c = 0 then w.ptpValid else if c = 1 then w.ppsValid else false

/-- WHEEL.Status.Source of a source in use. -/
def State.sourceCode (s : State) (c : Nat) : Nat := if c = 1 then 2 else if s.isFollower then 3 else 1

/-- Enters ACQUIRING on a source (R37). A re-entry keeps the state that the first entry came from, and its bound. The bound
that WHEEL.ErrorBound shows in ACQUIRING is the one at the entry, also when that was from HOLDOVER (DESIGN CHOICE,
assumption log 38). -/
def State.acquire (s : State) (c : Nat) : State :=
  let b := s.errorBound
  s.modWheel fun w =>
    let again := w.state = .acquiring
    { w with state := .acquiring, source := s.sourceCode c, inBandSince := none,
             acquiredFrom := if again then w.acquiredFrom else w.state,
             acquiredAt := if again then w.acquiredAt else s.uptime,
             errorBound := if again then w.errorBound else b }

/-- Enters HOLDOVER with E0 = `bound` counted from `since` (R37, R39). -/
def State.holdover (s : State) (bound since : Nat) (learned : Bool) : State :=
  (s.modWheel fun w => { w with state := .holdover, source := 0, holdBound := bound, holdSince := since,
                                holdLearned := learned, slewing := false, inBandSince := none }).setTroubleBit .wheel 0

/-- Passes to FREE with no bound (R37, R40). -/
def State.runFree (s : State) : State :=
  s.modWheel fun w => { w with state := .free, source := 0, bounded := false, slewing := false, inBandSince := none }

/-- The source in use is lost: the other one if valid, else the state R37 gives. 1PPS_IN that has been lost must first deliver
four valid edges (R33). -/
def State.loseSource (s : State) : State :=
  let w := s.wheel
  match w.inUse with
  | none => s
  | some c =>
    let s := if c = 1 then s.modWheel fun w => { w with ppsLost := true, ppsRun := 0 } else s
    if s.names (1 - c) ∧ w.valid (1 - c) then s.acquire (1 - c)
    else
      match w.state with
      | .locked => s.holdover w.errorBound s.uptime w.learned
      | .acquiring =>
        match w.acquiredFrom with
        | .holdover => s.holdover w.holdBound w.holdSince w.holdLearned
        | .locked => s.holdover w.errorBound w.acquiredAt w.learned
        | _ => s.runFree
      | _ => s

/-! ## Steps (R36, R42, R365) -/

/-- Places the wheel. Started work keeps its schedule, a pause its length and decisions their wait (R365, R372); booking
occurrences keep their wheel positions (R36). -/
def State.placeWheel (s : State) (n : Nat) (fraction : BitVec 32) : State :=
  let old := s.wheel.position
  let move (x : Nat) : Nat := x + n - old
  let shift (c : Cmd) : Cmd :=
    if c.phase = .booked then
      { c with start := move c.start, timeout := if c.timeout = 0 then 0 else move c.timeout }
    else c
  { s with
    wheel := { s.wheel with position := n % 2 ^ 64, fraction := fraction }
    power := { s.power with
      steppedAt := if n / 1024 = old / 1024 then s.power.steppedAt else some s.uptime
      pauseUntil := s.power.pauseUntil.map move
      decisions := s.power.decisions.map fun d => { d with due := move d.due } }
    contexts := smap {} (fun _ x => { x with stream := { x.stream with cmds := x.stream.cmds.map shift } }) s.contexts }

/-- Nanoseconds in units of 2^-32 notch, rounded down. -/
def fineOf (ns : Int) : Int := 2 ^ 52 * ns / 1000000000

/-- Places the wheel at a time in units of 2^-32 notch: whole notches, and the fraction kept beside them (R27). -/
def State.placeFine (s : State) (x : Nat) : State := s.placeWheel (x / 2 ^ 32) (BitVec.ofNat 32 x)

/-- The wheel's time in units of 2^-32 notch. -/
def Wheel.fine (w : Wheel) : Nat := w.position * 2 ^ 32 + w.fraction.toNat

/-- Whether any command holds an outstanding promise (R36). -/
def State.promised (s : State) : Bool :=
  s.contexts.any (fun e => e.2.stream.cmds.any fun c => c.opcode == 0x0301 && c.cls != 2 && c.phase != .completed) ||
  s.journal.staging.any (fun x => x.cmd.opcode == 0x0301 && x.cmd.cls != 2) || !s.schedule.tentative.isEmpty

/-- Whether an offset is more than `n` notches. -/
def beyondNotches (n : Nat) (ns : Int) : Bool := decide (n * 1000000000 < 2 ^ 20 * ns.natAbs)

def clampRate (r : Int) : Int := max (-100000) (min 100000 r)

/-- R38. -/
def Wheel.boundOf (w : Wheel) (filtered : Int) : Nat :=
  ceilDiv ((filtered.natAbs + w.asymmetry.natAbs + 100) * 100) 95367 + 1

/-- The servo takes one measured offset (R36 to R38). -/
def State.discipline (s : State) (offset : Int) : State :=
  let w := s.wheel
  if beyondNotches 1024 offset ∧ 0 < offset ∧ !s.promised then
    (s.modWheel fun w => { w with slewing := false, inBandSince := none }).placeFine (w.fine + (fineOf offset).toNat)
  else
    let f := Config.servoFilter w.offset offset
    let inBand := f.natAbs ≤ 200
    let s := s.modWheel fun w =>
      { w with offset := f, freqAdj := clampRate (Config.servoRate f), slewing := decide (f ≠ 0),
               inBandSince := if inBand then some (w.inBandSince.getD s.uptime) else none,
               errorBound := if w.state = .locked then w.boundOf f else w.errorBound }
    if beyondNotches 65536 offset then s.setTroubleBit .wheel 4 else s

/-- A measurement of a valid source: it acquires the wheel when the wheel waits for one, and otherwise disciplines it
when it is the source in use. A wheel leaves FREE for any source that its configuration names, unless FREE is the source
in use (R37). From UNSET the wheel is stepped to the source's time, here in units of 2^-32 notch. -/
def State.measured (s : State) (c : Nat) (offset : Int) (sourceTime : Nat) : State :=
  let w := s.wheel
  if !s.names c then s
  else
    match w.state with
    | .unset => (s.acquire c).placeFine sourceTime
    | .free => if s.heldFree then s else (s.acquire c).discipline offset
    | .holdover => (s.acquire c).discipline offset
    | _ => if w.inUse = some c then s.discipline offset else s

/-! ## TIME.SET and TIME.SOURCE (R42, R43, R494) -/

def bodyTimeSet (f : Frame) (s : State) : Handled :=
  let n := le f.payload 0 8
  checked
    [when (n = 2 ^ 64 - 1) (refuse Status.format 0),
     legal f.opcode.toNat f.context.toNat s,
     when (s.wheel.state != .unset) (refuseState 2 0 s.wheel.state.code 1)] s
    (done ((s.modWheel fun w => { w with state := .free, source := 0, bounded := false }).placeWheel n 0))

/-- What R43 refuses, with the payload offset it names. -/
def badSource (cfg ptp : Nat) (asym : Int) : Option Nat :=
  if bits cfg 1 0 = 3 ∨ bits cfg 3 2 = 3 then some 0
  else if 127 < bits ptp 7 0 ∨ bits ptp 9 8 = 3 then some 4
  else if asym < -1000000 ∨ 1000000 < asym then some 8
  else none

/-- The range of the unicast address (R43): zero when Unicast is 0; an IPv4 address lies in bytes 12 to 15 with the rest
zero, which the model counts within the 16-byte field and not from the payload's start (DESIGN CHOICE, assumption log 38),
and which is asked where the transport is UDP over IPv4. Over Ethernet the bytes are any (R43 gives that transport no
address of its own). -/
def badUnicast (ptp : Nat) (unicast : List Byte) : Bool :=
  if bit ptp 11 then bits ptp 9 8 = 0 && !allZero unicast 0 12 else !allZero unicast 0 16

/-- The configuration that a write of one part leaves the rest of: the one that waits for the next notch, if any. -/
def Wheel.config (w : Wheel) : SourceConfig :=
  w.nextSource.getD { cfg := w.sourceCfg, ptp := w.ptpCfg, asymmetry := w.asymmetry, unicast := w.unicastAddress }

/-- A new configuration waits for the next notch (R43). -/
def State.setSource (s : State) (c : SourceConfig) : State := s.modWheel fun w => { w with nextSource := some c }

/-- The new configuration takes effect: a source in use that it no longer names is lost, and one it names and that is
valid is taken when none is in use. New PTP settings select a new time transmitter. In LOCKED the bound follows a new
asymmetry (R38). -/
def State.applySource (s : State) : State :=
  match s.wheel.nextSource with
  | none => s
  | some c =>
    let same := s.wheel.ptpCfg = c.ptp % 2 ^ 12 ∧ s.wheel.unicastAddress = c.unicast
    let s := s.modWheel fun w =>
      { w with nextSource := none,
               first := bits c.cfg 1 0, second := bits c.cfg 3 2, useRefclk := bit c.cfg 4, ppsOut := bit c.cfg 5,
               domain := bits c.ptp 7 0, transport := bits c.ptp 9 8, peerDelay := bit c.ptp 10, unicast := bit c.ptp 11,
               asymmetry := c.asymmetry, unicastAddress := c.unicast,
               transmitter := if same then w.transmitter else none, foreign := if same then w.foreign else [], ptpValid := w.ptpValid && same }
    let s := if s.wheel.state = .locked then s.modWheel fun w => { w with errorBound := w.boundOf w.offset } else s
    match s.wheel.inUse with
    | some c => if s.names c then s else s.loseSource
    | none =>
      match [s.wheel.first, s.wheel.second].find? fun c => s.names c && s.wheel.valid c with
      | some c => if s.wheel.state = .unset ∨ (s.wheel.state = .free ∧ s.heldFree) then s else s.acquire c
      | none => s

def bodyTimeSource (f : Frame) (s : State) : Handled :=
  let p := f.payload
  let cfg := le p 0 4
  let ptp := le p 4 4
  let asym := signed 32 (le p 8 4)
  let unicast := slice p 12 16
  checked
    [(badSource cfg ptp asym).map fun o => refuse Status.format o,
     when (badUnicast ptp unicast) (refuse Status.format 12),
     legal f.opcode.toNat f.context.toNat s] s
    (done (s.setSource { cfg := cfg, ptp := ptp, asymmetry := asym, unicast := unicast }))

/-! ## Events of time -/

/-- Log2 of the Sync and Announce intervals that are accepted (R32). -/
def acceptedInterval (l : Int) : Bool := decide (-7 ≤ l ∧ l ≤ 1)

def State.ptpDomain (s : State) : Nat := if s.isFollower then s.fabric.domain else s.wheel.domain

/-- Whether a PTP message is one for this clock (R32, R437): of its domain, by the configured transport, and under static
unicast from the configured address; a follower hears its head alone, whatever brings its messages. -/
def State.hears (s : State) (h : PtpHead) : Bool :=
  h.domain == s.ptpDomain &&
    (if s.isFollower then h.fromHead
     else h.transport == s.wheel.transport && (!s.wheel.unicast || h.source == s.wheel.unicastAddress))

/-- Whether it comes from the selected time transmitter: the choice of the standard's algorithm, or the follower's head. -/
def State.selects (s : State) (h : PtpHead) : Bool :=
  s.hears h && (s.isFollower || s.wheel.transmitter == some h.transmitter)

/-- The correction of a Sync's offset: the filtered path delay and the static asymmetry (R32). -/
def Wheel.correction (w : Wheel) : Int := w.pathDelay + w.asymmetry

/-- A Sync message of the selected transmitter gives a time: the source is valid, and its offset is measured. A follower
whose 1PPS_IN is valid takes its phase from the pin, and only the seconds from the message (R437). -/
def State.syncTime (s : State) (offset : Int) (sourceTime : Nat) : State :=
  let c := s.wheel.correction
  let s := s.modWheel fun w =>
    { w with ptpValid := true, ptpValidSince := if w.ptpValid then w.ptpValidSince else s.uptime,
             seconds := some (sourceTime - s.uptime), awaitedFollowUp := none }
  if s.isFollower ∧ s.wheel.ppsValid ∧ s.wheel.state ≠ .unset then s
  else s.measured 0 (offset + c) ((2 ^ 32 * sourceTime + fineOf c).toNat)

/-- PTP_SYNC (R32, R36, R37): only the selected time transmitter's counts; a two-step message waits for its Follow_Up. -/
def execPtpSync (m : SyncMsg) (s : State) : Out :=
  s.through m.head.secured fun s =>
  let heard := s.modWheel fun w => { w with lastSync := some s.uptime, syncInterval := m.head.logInterval }
  event (s.selects m.head && acceptedInterval m.head.logInterval) s
    (if m.twoStep then heard.modWheel fun w => { w with awaitedFollowUp := some m.head.sequence }
     else heard.syncTime m.offset m.sourceTime)

/-- PTP_FOLLOW_UP (R32). -/
def execPtpFollowUp (h : PtpHead) (offset : Int) (sourceTime : Nat) (s : State) : Out :=
  s.through h.secured fun s =>
  event (s.selects h && s.wheel.awaitedFollowUp == some h.sequence) s (s.syncTime offset sourceTime)

/-! ## The default best transmitter algorithm (IEEE 1588; PRESUMED, assumption log 38) -/

/-- Whether a list of numbers comes before another of its length, the first difference deciding. -/
def lexBefore : List Nat → List Nat → Bool
  | a :: l, b :: r => decide (a < b) || (a == b && lexBefore l r)
  | _, _ => false

/-- Whether a transmitter is better than another: the data set comparison. Of one grandmaster the nearer is better. -/
def ForeignClock.better (x y : ForeignClock) : Bool :=
  let a := x.clock
  let b := y.clock
  if a.grandmaster = b.grandmaster then lexBefore [a.steps, x.transmitter] [b.steps, y.transmitter]
  else lexBefore [a.priority1, a.clockClass, a.accuracy, a.variance, a.priority2, a.grandmaster]
    [b.priority1, b.clockClass, b.accuracy, b.variance, b.priority2, b.grandmaster]

/-- Four Announce intervals: what has not been heard for longer is forgotten. -/
def ForeignClock.window (x : ForeignClock) : Nat := 4 * 2 ^ (20 + x.interval).toNat

/-- A transmitter counts once two of its messages have come within the window, unless it is 255 steps away. -/
def ForeignClock.qualified (x : ForeignClock) : Bool :=
  decide (x.clock.steps < 255) && x.before.any fun t => decide (x.heard ≤ t + x.window)

/-- An Announce message of a transmitter is noted, and transmitters not heard any more are forgotten. -/
def Wheel.announced (w : Wheel) (m : AnnounceMsg) (now : Nat) : Wheel :=
  let old := w.foreign.find? (·.transmitter == m.head.transmitter)
  { w with foreign := (w.foreign.filter fun x => x.transmitter != m.head.transmitter && decide (now ≤ x.heard + x.window)) ++
      [{ transmitter := m.head.transmitter, clock := m.clock, interval := m.head.logInterval, heard := now,
         before := old.map (·.heard) }] }

/-- The best of the transmitters that count. -/
def Wheel.bestForeign (w : Wheel) : Option ForeignClock :=
  (w.foreign.filter ForeignClock.qualified).foldl (fun b x =>
    match b with
    | none => some x
    | some y => if x.better y then some x else some y) none

/-- The best transmitter is selected; a change of transmitter makes PTP a source that has to become valid again. -/
def Wheel.elected (w : Wheel) : Wheel :=
  match w.bestForeign with
  | none => w
  | some x =>
    if w.transmitter = some x.transmitter then w
    else { w with transmitter := some x.transmitter, ptpValid := w.ptpValid && w.transmitter.isNone, awaitedFollowUp := none }

/-- An Announce message takes part in the election; a follower hears its head alone (R437). -/
def State.announced (s : State) (m : AnnounceMsg) : State :=
  if s.isFollower then s else s.modWheel fun w => (w.announced m s.uptime).elected

/-- PTP_ANNOUNCE (R32): the default algorithm's choice becomes the selected transmitter, whose seconds count. -/
def execPtpAnnounce (m : AnnounceMsg) (s : State) : Out :=
  s.through m.head.secured fun s =>
  let t := s.announced m
  event (s.hears m.head && acceptedInterval m.head.logInterval) s
    (if t.selects m.head then t.modWheel fun w => { w with seconds := some (2 ^ 20 * m.seconds - s.uptime) } else t)

/-- PTP_DELAY_RESP (R32): a response of the selected transmitter under the end-to-end mechanism, a peer delay message under
the peer-to-peer one. -/
def execPtpDelayResp (m : DelayMsg) (s : State) : Out :=
  s.through m.head.secured fun s =>
  event (m.peer == s.wheel.peerDelay && (if m.peer then s.hears m.head else s.selects m.head)) s
    (s.modWheel fun w => { w with pathDelay := Config.pathDelay w.pathDelay m.delay })

/-- The whole second a 1PPS edge marks (R31): by the seconds count received, else the next one of the wheel. -/
def State.edgeTime (s : State) : Nat :=
  match s.wheel.seconds with
  | some n => 2 ^ 20 * ((2 ^ 19 + n + s.uptime) / 2 ^ 20)
  | none => 2 ^ 20 * (s.wheel.position / 2 ^ 20 + 1)

/-- PPS_EDGE (R33): an edge within ±1 µs of the position predicted from the previous one is valid; a source that has
been lost needs four in a row. A follower that hears its head takes phase from the pin (R437). -/
def execPpsEdge (fromPredicted offset : Int) (s : State) : Out :=
  let w := s.wheel
  if w.lastPps.isNone then .next (s.modWheel fun w => { w with lastPps := some s.uptime })
  else if 1000 < fromPredicted.natAbs then
    .next ((s.modWheel fun w => { w with lastPps := some s.uptime, ppsValid := false, ppsRun := 0 }).setTroubleBit .wheel 2)
  else
    let run := w.ppsRun + 1
    let ok := !w.ppsLost || decide (4 ≤ run)
    let s := s.modWheel fun w =>
      { w with lastPps := some s.uptime, lastValidPps := some s.uptime, ppsRun := run, ppsValid := ok, ppsLost := w.ppsLost && !ok,
               ppsValidSince := if w.ppsValid then w.ppsValidSince else s.uptime }
    .next (if ok then s.measured (if s.isFollower && s.wheel.ptpValid then 0 else 1) offset (2 ^ 32 * s.edgeTime) else s)

/-- PPS_EDGE_TIMEOUT (R33): no edge by 1 s + 1 µs, which is 2 notches rounded up, after the last valid edge. -/
def execPpsEdgeTimeout (s : State) : Out :=
  event (match s.wheel.lastValidPps with | some t => decide (2 ^ 20 + t + 2 ≤ s.uptime) | none => false) s
    (s.modWheel fun w => { w with ppsValid := false, ppsRun := 0 })

/-- REFCLK_RANGE_CHANGE (R33). -/
def execRefclkRangeChange (inRange : Bool) (s : State) : Out :=
  let s := s.modWheel fun w => { w with refclkValid := inRange }
  .next (if inRange then s else s.setTroubleBit .wheel 3)

/-- Notches of silence after which PTP is lost: three Sync intervals or 1 s, whichever is longer (R37). -/
def Wheel.ptpPatience (w : Wheel) : Nat := max (2 ^ 20) (3 * 2 ^ (20 + w.syncInterval).toNat)

def State.ptpSilent (s : State) : Bool :=
  match s.wheel.lastSync with
  | some t => decide (t + s.wheel.ptpPatience ≤ s.uptime)
  | none => true

/-- No valid 1PPS edge for 2 s. -/
def State.ppsSilent (s : State) : Bool :=
  match s.wheel.lastValidPps with
  | some t => decide (2 ^ 21 + t ≤ s.uptime)
  | none => true

/-- SOURCE_LOST (R37). -/
def execSourceLost (s : State) : Out :=
  let ptp := s.ptpSilent
  let silent := match s.wheel.inUse with
    | some 0 => ptp
    | some _ => s.ppsSilent
    | none => false
  let t := s.modWheel fun w => { w with ptpValid := w.ptpValid && !ptp }
  .next (if silent then t.loseSource else t)

/-- WHEEL_LOCKED (R38): within ±200 ns for 16 consecutive seconds. -/
def execWheelLocked (s : State) : Out :=
  let ready := match s.wheel.inBandSince with | some t => decide (16 * 2 ^ 20 + t ≤ s.uptime) | none => false
  event (s.wheel.state == .acquiring && ready) s
    (s.modWheel fun w => { w with state := .locked, lockedSince := some s.uptime, learned := false, bounded := true,
                                  errorBound := w.boundOf w.offset })

/-- WHEEL_LEARNED (R39): LOCKED for 600 s. -/
def execWheelLearned (s : State) : Out :=
  let long := match s.wheel.lockedSince with | some t => decide (600 * 2 ^ 20 + t ≤ s.uptime) | none => false
  event (s.wheel.state == .locked && long) s (s.modWheel fun w => { w with learned := true })

/-- HOLD_LIMIT_EXCEEDED (R40). -/
def execHoldLimitExceeded (s : State) : Out :=
  event (s.wheel.state == .holdover && decide (s.wheel.holdLimit < s.errorBound)) s (s.runFree.setTroubleBit .wheel 1)

/-- SOURCE_PRIORITY_RETURN (R37): the first source has been valid for 16 consecutive seconds. -/
def execSourcePriorityReturn (s : State) : Out :=
  let w := s.wheel
  let since := if w.first = 0 then w.ptpValidSince else w.ppsValidSince
  event (!s.isFollower && decide (w.first < 2) && w.inUse.isSome && w.inUse != some w.first && w.valid w.first &&
      decide (16 * 2 ^ 20 + since ≤ s.uptime)) s (s.acquire w.first)

/-- PPS_OUT_RISE (R34). -/
def execPpsOutRise (s : State) : Out :=
  event (s.wheel.ppsOut && s.wheel.state != .unset && s.now % 2 ^ 20 == 0) s
    { s with pins := { s.pins with ppsOut := true, ppsOutRose := s.now } }

/-- PPS_OUT_FALL (R34): 2^17 notches after the rise. -/
def execPpsOutFall (s : State) : Out :=
  event (s.pins.ppsOut && decide (2 ^ 17 + s.pins.ppsOutRose ≤ s.now)) s { s with pins := { s.pins with ppsOut := false } }

/-- CASCADE_SYNC_SEND (R437): the head's one-step Sync, every 2^16 notches (logMessageInterval −4), and with it the Announce
message, whose interval R437 leaves open (DESIGN CHOICE, assumption log 38). -/
def execCascadeSyncSend (s : State) : Out :=
  event (s.fabric.role == 1 && (match s.fabric.syncSent with | some t => decide (2 ^ 16 + t ≤ s.uptime) | none => true)) s
    (((s.modFabric fun x => { x with syncSent := some s.uptime }).send
      (.ptpSync s.fabric.domain s.now (-4) true)).send (.ptpAnnounce s.fabric.domain (-4)))

end Sys2Proof.Machine
end

