-- ==== Sys2Proof/Machine/Streams.lean ====
section
/-! DEFINITION. The stream channels (R215 to R236): queues, waits and signals, translation groups, pieces, completion.

A channel works on one descriptor at a time: R216 lets it issue later ones early and does not ask it to (assumption log
16). -/

namespace Sys2Proof.Machine

/-! ## Pieces of a row (R225) -/

/-- Source and destination addresses and length of each piece of a run of `n` bytes; `fuel` bounds their number. -/
def runPieces : Nat → Nat → Nat → Nat → List (Nat × Nat × Nat)
  | 0, _, _, _ => []
  | fuel + 1, a, b, n =>
    if n = 0 then []
    else
      let k := min n (min (256 - a % 256) (256 - b % 256))
      (a, b, k) :: runPieces fuel (a + k) (b + k) (n - k)

def rowPieces (a b n : Nat) : List (Nat × Nat × Nat) := runPieces (n / 64 + 1) a b n

/-! ## COPY groups (R227) -/

def cursorBase : Nat := 2 ^ 25

/-- Source and destination address of the cursor of a COPY. -/
def StreamDesc.at_ (d : StreamDesc) (cur : Nat) : Nat × Nat :=
  let r := cur / cursorBase
  let o := cur % cursorBase
  (d.src + r * d.srcStride + o, d.dst + r * d.dstStride + o)

/-- The row at a cursor fits its spaces. -/
def State.rowOk (s : State) (d : StreamDesc) (cur : Nat) : Bool :=
  let (a, b) := d.at_ (cursorBase * (cur / cursorBase))
  s.rowFits d.srcSpace a d.rowLength && s.rowFits d.dstSpace b d.rowLength

/-- The pieces of a COPY group from a cursor on: those in one source page and one destination page, up to a row that does
not fit. -/
def State.copyGroup (s : State) (d : StreamDesc) (pa pb : Nat) : Nat → Nat → List (Nat × Nat × Nat) × Nat
  | 0, cur => ([], cur)
  | fuel + 1, cur =>
    let (a, b) := d.at_ cur
    if d.rowCount ≤ cur / cursorBase ∨ a / 65536 ≠ pa ∨ b / 65536 ≠ pb ∨ (cur % cursorBase = 0 ∧ !s.rowOk d cur) then ([], cur)
    else
      let left := d.rowLength - cur % cursorBase
      let k := min left (min (256 - a % 256) (256 - b % 256))
      let next := if k = left then cursorBase * (cur / cursorBase + 1) else cur + k
      let (l, e) := s.copyGroup d pa pb fuel next
      ((a, b, k) :: l, e)

/-- What translating a group gives: a fault that comes before its first piece, or its pieces (source, destination, length), the
cursor of the next group, its external pages, those that each piece begins, and the fault that follows the pieces. -/
inductive Group where
  | fault (f : StreamFault)
  | pieces (l : List (Nat × Nat × Nat)) (cursor : Nat) (pages : List Nat) (begins : List (List Nat)) (after : Option StreamFault)
  deriving DecidableEq, Repr

/-- The row fault of one side (cause 9), with the side that fails. -/
def rowFault (d : StreamDesc) (srcBad : Bool) (a b : Nat) : StreamFault :=
  if srcBad then { cause := 9, space := d.srcSpace, core := if d.srcSpace = 2 then d.srcCore else 0, address := a }
  else { cause := 9, space := d.dstSpace, core := if d.dstSpace = 2 then d.dstCore else 0, address := b }

/-- The last three banks begun on a stack. -/
def banksBegun (begun : List (Nat × Nat)) (k : Nat) : List Nat := ((begun.filter (·.1 == k)).take 3).map (·.2)

/-- Begins a page: its stack and bank field come first, and of each stack the last three stay (R229). -/
def begin_ (begun : List (Nat × Nat)) (page : Nat) : List (Nat × Nat) :=
  let k := page / 2097152
  let l := (k, page % 64) :: begun
  l.zipIdx.filterMap fun x => if ((l.take x.2).filter (·.1 == x.1.1)).length < 3 then some x.1 else none

/-- The pages of a list that the channel is not at work on already. -/
def newPages (seen l : List Nat) : List Nat := l.eraseDups.filter fun g => !seen.contains g

/-- The fault of one piece: its source, then its destination (R223). -/
def State.pieceFault (s : State) (c own chan : Nat) (d : StreamDesc) (x : Nat × Nat × Nat) : Option StreamFault :=
  (s.sideFault c own chan d.srcSpace d.srcCore x.1 x.2.2 false).orElse fun _ =>
    s.sideFault c own chan d.dstSpace d.dstCore x.2.1 x.2.2 true

/-- A group whose pages are translated: its pieces up to the first that meets a fault (R223). -/
def State.checkedGroup (s : State) (c own chan : Nat) (d : StreamDesc) (l : List (Nat × Nat × Nat)) (cursor : Nat)
    (pages : List Nat) (begins : List (List Nat)) (after : Option StreamFault) : Group :=
  let good := l.takeWhile fun x => (s.pieceFault c own chan d x).isNone
  match good, (l.findSome? (s.pieceFault c own chan d)).orElse fun _ => after with
  | [], some f => .fault f
  | _, bad => .pieces good cursor pages begins bad

/-- The next group of a COPY (R227): one source page and one destination page. -/
def State.nextCopy (s : State) (c own chan : Nat) (d : StreamDesc) (h : Channel) : State × Group :=
  let (a, b) := d.at_ h.cursor
  if h.cursor % cursorBase = 0 ∧ !s.rowOk d h.cursor then (s, .fault (rowFault d (!s.rowFits d.srcSpace a d.rowLength) a b))
  else
    let pages := externalPages d.srcSpace a 1 ++ externalPages d.dstSpace b 1
    let s := pages.foldl State.readTable s
    match (s.pageFault c chan d.srcSpace a false).orElse fun _ => s.pageFault c chan d.dstSpace b true with
    | some f => (s, .fault f)
    | none =>
      let (l, e) := s.copyGroup d (a / 65536) (b / 65536) (d.rowCount * (d.rowLength / 64) + 1) h.cursor
      (s, s.checkedGroup c own chan d l e pages [newPages h.pages pages] none)

/-! ## GATHER and SCATTER groups (R221, R222, R227, R229) -/

/-- The page-list entries of a group: entry number and address. -/
def StreamDesc.groupEntries (d : StreamDesc) (g : Nat) : List Nat :=
  let e0 := d.first / d.perPage
  let last := (d.first + d.rowCount - 1) / d.perPage
  let n := if d.bankSpread then 8 else 1
  (List.range' (e0 + g * n) n).filter (· ≤ last)

def StreamDesc.listSide (d : StreamDesc) : Nat × Nat := if d.kind = 2 then (d.srcSpace, d.src) else (d.dstSpace, d.dst)

/-- The cause that stands for a parity error of the core store: the core traps instead of the channel halting (R80). -/
def parityCause : Nat := 0

def LocalFault.haltCause : LocalFault → Nat
  | .parity _ => parityCause
  | .uncorrectable _ => 5

/-- Reads one page-list entry. -/
def State.readEntry (s : State) (who : Requester) (c own chan : Nat) (d : StreamDesc) (i : Nat) :
    State × Except StreamFault Nat :=
  let (space, base) := d.listSide
  let a := base + 4 * i
  let no (cause : Nat) : StreamFault := { cause := cause, space := space, core := 0, address := a }
  match s.sideFault c own chan space 0 a 4 false with
  | some f => (s, .error f)
  | none =>
    let (s, data, bad) := if space = 1 then
        let (s, data, b) := s.streamRead who a 4
        (s, data, b.map fun _ => 5)
      else
        let (s, data, e) := s.readLocal (s.physical own) a 4 c
        (s, data, e.map LocalFault.haltCause)
    match bad with
    | some cause => (s, .error (no cause))
    | none => if leNat data / 2 ^ 24 ≠ 0 then (s, .error (no 2)) else (s, .ok (leNat data))

/-- The rows of a list entry: listed address, plain address. -/
def StreamDesc.entryRows (d : StreamDesc) (e page : Nat) : List (Nat × Nat) :=
  let lo := max d.first (e * d.perPage)
  let hi := min (d.first + d.rowCount) ((e + 1) * d.perPage)
  (List.range' lo (hi - lo)).map fun n =>
    let listed := 65536 * page + (d.baseOffset + n % d.perPage * d.recStride) * 64
    let plain := if d.kind = 2 then d.dst + (n - d.first) * d.dstStride else d.src + (n - d.first) * d.srcStride
    (listed, plain)

/-- The space, core and direction of the plain side. -/
def StreamDesc.plainSide (d : StreamDesc) : Nat × Nat × Bool :=
  if d.kind = 2 then (d.dstSpace, d.dstCore, true) else (d.srcSpace, d.srcCore, false)

/-- The external pages of the plain side of an entry's rows. -/
def StreamDesc.plainPages (d : StreamDesc) (e page : Nat) : List Nat :=
  (d.entryRows e page).flatMap fun r => externalPages d.plainSide.1 r.2 d.rowLength

/-- The order in which the entries of a group are issued (R229), from the pages begun before it and those at work. -/
def spreadOrder (d : StreamDesc) : Nat → List (Nat × Nat) → List (Nat × Nat) → List Nat → List (Nat × Nat)
  | 0, _, _, _ => []
  | fuel + 1, left, begun, seen =>
    let fresh (e : Nat × Nat) : Bool := !(banksBegun begun (e.2 / 2097152)).contains (e.2 % 64)
    match (left.find? fresh).orElse fun _ => left.head? with
    | none => []
    | some e =>
      let new := newPages seen (d.plainPages e.1 e.2)
      e :: spreadOrder d fuel (left.filter (· != e)) ((e.2 :: new).foldl begin_ begun) (new ++ seen)

/-- The rows of the entries of a group in their order, each with the pages that its first piece begins: an entry's own page and,
of the plain side, those not at work yet. -/
def beginRows (d : StreamDesc) : List (Nat × Nat) → List Nat → List ((Nat × Nat) × List Nat)
  | [], _ => []
  | e :: l, seen =>
    let new := newPages seen (d.plainPages e.1 e.2)
    (d.entryRows e.1 e.2).zipIdx.map (fun x => (x.1, if x.2 = 0 then e.2 :: new else [])) ++ beginRows d l (new ++ seen)

/-- Reads the entries of a group; the first fault ends it. -/
def State.readEntries (s : State) (who : Requester) (c own chan : Nat) (d : StreamDesc) :
    List Nat → State × Except StreamFault (List (Nat × Nat))
  | [] => (s, .ok [])
  | i :: l =>
    match s.readEntry who c own chan d i with
    | (s, .error f) => (s, .error f)
    | (s, .ok page) =>
      match s.readEntries who c own chan d l with
      | (s, .error f) => (s, .error f)
      | (s, .ok r) => (s, .ok ((i, page) :: r))

/-- The first row of a group that does not fit its plain space (R220). -/
def State.plainRowFault (s : State) (d : StreamDesc) (rows : List (Nat × Nat)) : Option StreamFault :=
  let (space, core, _) := d.plainSide
  (rows.find? fun r => !s.rowFits space r.2 d.rowLength).map fun r =>
    { cause := 9, space := space, core := if space = 2 then core else 0, address := r.2 }

/-- The first page of a group that a translation finds absent or another context's: the listed side's, then the plain side's. -/
def State.groupFault (s : State) (c chan : Nat) (d : StreamDesc) (l : List (Nat × Nat)) (rows : List (Nat × Nat)) :
    Option StreamFault :=
  let (space, _, write) := d.plainSide
  (l.findSome? fun e => (d.entryRows e.1 e.2).head?.bind fun r => s.pageFault c chan 1 r.1 (d.kind == 3)).orElse fun _ =>
    rows.findSome? fun r => (externalPages space r.2 d.rowLength).findSome? fun g =>
      s.pageFault c chan space (max r.2 (65536 * g)) write

/-- The next group of a GATHER or SCATTER (R227): its entries are read and all its pages translated before any piece. -/
def State.nextListed (s : State) (who : Requester) (c own chan : Nat) (d : StreamDesc) (h : Channel) : State × Group :=
  let g := h.cursor / cursorBase
  match s.readEntries who c own chan d (d.groupEntries g) with
  | (s, .error f) => (s, .fault f)
  | (s, .ok l) =>
    let order := if d.bankSpread then spreadOrder d 8 l h.before h.pages else l
    let marked := beginRows d order h.pages
    let rows := marked.map (·.1)
    let pages := (l.map (·.2) ++ l.flatMap fun e => d.plainPages e.1 e.2).eraseDups
    let s := pages.foldl State.readTable s
    match s.groupFault c chan d l rows with
    | some f => (s, .fault f)
    | none =>
      let fits := marked.takeWhile fun r => s.rowFits d.plainSide.1 r.1.2 d.rowLength
      let split (r : Nat × Nat) := if d.kind = 2 then rowPieces r.1 r.2 d.rowLength else rowPieces r.2 r.1 d.rowLength
      let begins := fits.flatMap fun r => (split r.1).zipIdx.map fun x => if x.2 = 0 then r.2 else []
      (s, s.checkedGroup c own chan d (fits.flatMap fun r => split r.1) (cursorBase * (g + 1)) pages begins
        (s.plainRowFault d rows))

/-! ## Issue (R230) -/

/-- Whether a descriptor has no group left to translate. -/
def StreamDesc.exhausted (d : StreamDesc) (cur : Nat) : Bool :=
  d.rowLength = 0 || d.rowCount = 0 ||
  (if d.kind = 1 then decide (d.rowCount ≤ cur / cursorBase) else (d.groupEntries (cur / cursorBase)).isEmpty)

/-- Issues translated pieces up to the limits: 64 reads of the channel, 384 of the core. The pages they begin are the channel's last
ones (R229). -/
def State.issue (s : State) (own chan : Nat) : State :=
  let p := s.physical own
  let x := s.core p
  let h := x.channel chan
  match h.queue with
  | [] => s
  | q :: _ =>
    let mine := (h.flights.filter (·.data.isNone)).length
    let n := min (64 - mine) (384 - x.readsInFlight)
    let tag := (s.context q.context).generation % 16
    let noAlloc := (streamDesc q.bytes).noAllocate
    let s := s.markLinks q.context q.csn q.action (((h.ready.take n).map s.pieceLinks).foldl (· ||| ·) 0)
    s.modChannel p chan fun h =>
      { h with ready := h.ready.drop n, begun := (h.ready.take n).foldl (fun b w => w.begins.foldl begin_ b) h.begun,
               flights := h.flights ++ (h.ready.take n).map fun w =>
                 { piece := w, data := none, context := q.context, tag := tag, csn := q.csn, noAllocate := noAlloc } }

/-- The pieces of a group under their numbers. -/
def numbered (d : StreamDesc) (own from_ : Nat) (pages : List Nat) (begins : List (List Nat)) (l : List (Nat × Nat × Nat)) : List Piece :=
  l.zipIdx.map fun (x, i) =>
    { number := from_ + i, srcSpace := d.srcSpace, srcCore := if d.srcSpace = 2 then d.srcCore else own, src := x.1,
      dstSpace := d.dstSpace, dstCore := if d.dstSpace = 2 then d.dstCore else own, dst := x.2.1, length := x.2.2, pages := pages,
      begins := begins.getD i [] }

/-! ## Queues (R215, R216, R219, R233) -/

/-- A descriptor comes to the head of its queue: one from SPUT is checked, and one with Wait waits for its counter. One that was
saved goes on from its mark (R240). A halt for an invalid descriptor has no address that met it: R237 gives none, and the model
records zeros (DESIGN CHOICE, assumption log 16). -/
def State.headArrives (s : State) (own chan : Nat) : State :=
  let p := s.physical own
  match ((s.core p).channel chan).queue with
  | [] => s.modChannel p chan fun h => { h with state := if h.flights.isEmpty then .idle else .running }
  | q :: _ =>
    let d := streamDesc q.bytes
    let m := q.resume.getD {}
    let s := s.modChannel p chan fun h =>
      { h with state := .running, context := q.context, position := m.position, cursor := m.cursor, first := m.first, group := m,
               issuing := q.resume.isSome, pages := m.pages, fault := none }
    if 8 ≤ chan ∧ !validStream q.bytes then
      s.haltChannel own chan q.context q.csn { cause := 6, space := 0, core := 0, address := 0 }
    else if d.wait ∧ q.resume.isNone ∧ (sget 0 (s.core p).barriers d.waitCounter).toNat < d.threshold then
      s.modChannel p chan fun h => { h with state := .waitingBarrier }
    else s

/-- Moves entries of STREAM actions into free queue places (R236). Entries of one command follow those of another only when
nothing of the other is queued or in flight in the channel. -/
def State.fillQueue (s : State) (own chan : Nat) : State :=
  let p := s.physical own
  let h := (s.core p).channel chan
  match h.backlog with
  | [] => s
  | q :: _ =>
    if h.queue.any (fun d => ¬ (d.context = q.context ∧ d.csn = q.csn)) ∨
        h.flights.any fun f => ¬ (f.context = q.context ∧ f.csn = q.csn) then s
    else
      let l := (h.backlog.takeWhile fun d => d.context = q.context ∧ d.csn = q.csn).take (16 - h.queue.length)
      let s := s.modChannel p chan fun h => { h with queue := h.queue ++ l, backlog := h.backlog.drop l.length }
      if h.queue.isEmpty then s.headArrives own chan else s

/-- Enqueues a descriptor of SPUT in a queue that has room (R234). -/
def State.putDescriptor (s : State) (own chan : Nat) (q : QueuedDesc) : State :=
  let p := s.physical own
  let queue := ((s.core p).channel chan).queue
  if 16 ≤ queue.length then s
  else
    let s := s.modChannel p chan fun h => { h with queue := h.queue ++ [{ q with entry := h.enqueued }], enqueued := h.enqueued + 1 }
    if queue.isEmpty then s.headArrives own chan else s

/-! ## Barrier counters (R232, R233) -/

/-- Adds to a counter; `none` when it would pass 2^32 − 1. -/
def State.signal (s : State) (own counter n : Nat) : Option State :=
  let p := s.physical own
  let v := (sget 0 (s.core p).barriers counter).toNat + n
  if 2 ^ 32 ≤ v then none
  else some (s.modCore p fun x => { x with barriers := sput 0 x.barriers counter (BitVec.ofNat 32 v) })

/-- The quarters of a command. -/
def State.quartersOf (s : State) (c csn : Nat) : Nat := ((s.cmd c csn).map (·.quarters)).getD 0

/-! ## The commands of the streams -/

/-- A stream of a command meets a fault: its channel halts, or its core traps on a parity error (R80, R237). The trap is
recorded at the instruction the core has reached while it runs the command, and otherwise at index 0, item 0 and class 0: R92
names no instruction for it (DESIGN CHOICE, assumption log 48). A piece of a command that has ended stops nothing. -/
def State.streamFails (s : State) (own chan c csn : Nat) (f : StreamFault) : State :=
  let x := s.core (s.physical own)
  if !(s.uncompleted c).contains csn then s
  else if f.cause ≠ parityCause then s.haltChannel own chan c csn f
  else if x.state = .running ∧ x.context = c ∧ x.csn = csn then s.trapAt own trapParity x.pc f.address
  else s.trapAs own trapParity 0 0 0 c csn f.address

/-- A translated group is ready to issue: of one that the channel goes on with, the pieces not issued yet (R225, R240). -/
def Channel.translated (h : Channel) (d : StreamDesc) (own : Nat) (l : List (Nat × Nat × Nat)) (cursor : Nat) (pages : List Nat)
    (begins : List (List Nat)) (after : Option StreamFault) : Channel :=
  { h with issuing := true,
           group := { cursor := h.cursor, first := h.first, position := h.position, begun := h.before, pages := h.pages },
           cursor := cursor, pages := pages, fault := after, first := h.first + l.length,
           ready := (numbered d own h.first pages begins l).filter fun w => decide (h.position ≤ w.number),
           position := max h.position (h.first + l.length) }

/-- Whether an access to a device range waits: at a Millpond whose split is changed (R156), or for a chunk in its bank (R196). -/
def State.accessHeld (s : State) (a n : Nat) : Bool := s.splitHolds a n || s.bankHeld a n

/-- The same of an access that no stream and no dispatcher makes: it reaches no command or result window either (R195). -/
def State.reachHeld (s : State) (a n : Nat) : Bool := (s.firstWindow a n).isSome || s.accessHeld a n

/-- Whether the translation of a group waits: for the bank or the Millpond of a page-list entry, or for the Millpond that holds the
table entry of a page it meets (R156, R196). -/
def State.groupHeld (s : State) (d : StreamDesc) (cursor : Nat) (g : Group) : Bool :=
  let (space, base) := d.listSide
  let pages := match g with
    | .pieces _ _ l _ _ => l
    | .fault f => externalPages f.space f.address 1
  (d.kind != 1 && space == 1 && (d.groupEntries (cursor / cursorBase)).any fun i => s.accessHeld (base + 4 * i) 4) ||
  pages.any fun q => (s.pond (q / 4194304)).resplit.isSome

/-- The links that the reads of a group's page-list entries cross. -/
def State.listLinks (s : State) (d : StreamDesc) (own cursor : Nat) : Nat :=
  let (space, base) := d.listSide
  if d.kind = 1 ∨ space ≠ 1 then 0
  else ((d.groupEntries (cursor / cursorBase)).map fun i =>
    linksBetween (dieOfCore (s.physical own)) (dieOfAddress (base + 4 * i))).foldl (· ||| ·) 0

/-- The links that a descriptor's signal crosses to its counter's core (R232). -/
def State.signalLinks (s : State) (d : StreamDesc) (own : Nat) : Nat :=
  if d.signal then linksBetween (dieOfCore (s.physical own)) (dieOfCore (s.physical d.signalCore)) else 0

/-- TRANSLATION_GROUP (R226 to R230): the next group of the head descriptor is translated when the present one is issued,
and its pieces go out up to the limits. -/
def execTranslationGroup (own : Fin 240) (chan : Fin 16) (s : State) : Out :=
  let p := s.physical own
  let h := (s.core p).channel chan
  match h.queue with
  | [] => .next (s.fillQueue own chan)
  | q :: _ =>
    if h.state ≠ .running ∨ s.paused then .next s
    else if !h.ready.isEmpty then .next (s.issue own chan)
    else
      match h.fault with
      | some f => .next (s.streamFails own chan q.context q.csn f)
      | none =>
        let d := streamDesc q.bytes
        if d.exhausted h.cursor then .next (s.modChannel p chan fun h => { h with issuing := true })
        else
          let who : Requester := { context := if d.noAllocate then none else some q.context }
          let (t, g) := if d.kind = 1 then s.nextCopy q.context own chan d h else s.nextListed who q.context own chan d h
          if s.groupHeld d h.cursor g then .next s
          else
            let t := t.markLinks q.context q.csn q.action (s.listLinks d own h.cursor ||| s.signalLinks d own)
            match g with
            | .fault f => .next (t.streamFails own chan q.context q.csn f)
            | .pieces l cur pages begins after =>
              .next ((t.modChannel p chan fun h => h.translated d own l cur pages begins after).issue own chan)

/-- Reads the source of a piece for a context; a failed read gives its halt cause. -/
def State.readPiece (s : State) (w : Piece) (c : Nat) (who : Requester) : State × List Byte × Option Nat :=
  if w.srcSpace = 1 then
    let (s, data, bad) := s.streamRead who w.src w.length
    (s, data, bad.map fun _ => 5)
  else
    let (s, data, bad) := s.readLocal (s.physical w.srcCore) w.src w.length c
    (s, data, bad.map LocalFault.haltCause)

/-- Who reads and writes a piece: under NoAllocate nothing is allocated for its reads, nor for its writes (R146; DEDUCED, assumption log 35). -/
def Flight.requester (f : Flight) : Requester := { context := if f.noAllocate then none else some f.context }

/-- A piece's destination lies in a granule or block that its write covers only in part and that is lost: nothing is written (R131,
R171). The address that is met. -/
def State.pieceLost (s : State) (f : Flight) : State × Option Nat :=
  let w := f.piece
  if w.dstSpace = 1 then s.partlyLost f.requester w.dst w.length
  else
    let p := s.physical w.dstCore
    match s.localPartlyLost p w.dst w.length with
    | none => (s, none)
    | some g => (s.sliceUncorrectable p g f.context, some g)

/-- Writes the destination of a piece. -/
def State.writePiece (s : State) (f : Flight) (data : List Byte) : State :=
  let w := f.piece
  if w.dstSpace = 1 then
    s.streamWrite f.requester { bytes := [], context := f.context, csn := f.csn, action := 2 ^ 32, tag := f.tag } w.dst data
  else s.writeLocal (s.physical w.dstCore) w.dst data

/-- A piece has ended: the channel and its core may be at rest, entries that wait may enter, and pages may be free. -/
def State.pieceEnded (s : State) (own chan : Nat) : State :=
  let p := s.physical own
  let s := (s.modChannel p chan Channel.atRest).modCore p Core.settled
  (s.fillQueue own chan).releaseUnmaps

/-- The first flight of a piece number changed, or dropped. -/
def changeFlight (n : Nat) (f : Flight → Option Flight) : List Flight → List Flight
  | [] => []
  | x :: l => if x.piece.number = n then (f x).toList ++ l else x :: changeFlight n f l

/-- Whether a piece's read, or its write once its data has returned, waits. -/
def State.pieceHeld (s : State) (f : Flight) : Bool :=
  let w := f.piece
  if f.data.isNone then decide (w.srcSpace = 1) && s.accessHeld w.src w.length
  else decide (w.dstSpace = 1) && s.accessHeld w.dst w.length

/-- The address that a piece's present request goes to. -/
def Flight.destination (f : Flight) : Nat := if f.data.isNone then f.piece.src else f.piece.dst

/-- Whether a piece carries an old tag: its context's generation has advanced since it was issued (R398). -/
def State.stalePiece (s : State) (f : Flight) : Bool := f.tag != (s.context f.context).generation % 16

/-- The fault of a read or write of a piece that met lost data. -/
def Piece.lostFault (w : Piece) (write : Bool) (a : Nat) : StreamFault :=
  let space := if write then w.dstSpace else w.srcSpace
  { cause := 5, space := space, core := if space = 2 then (if write then w.dstCore else w.srcCore) else 0, address := a }

/-- PIECE_COMPLETE (R225, R230, R237): a piece's read data returns, and then its write is acknowledged. A piece whose read or write
meets lost data halts its channel; a parity error of the core store traps the core (R80). A piece with an old tag is dropped at
its destination (R398). -/
def execPieceComplete (own : Fin 240) (chan : Fin 16) (n : Nat) (s : State) : Out :=
  let p := s.physical own
  match ((s.core p).channel chan).flights.find? (·.piece.number == n) with
  | none => .next s
  | some f =>
    let change (s : State) (g : Flight → Option Flight) : State :=
      s.modChannel p chan fun h => { h with flights := changeFlight n g h.flights }
    let fails (s : State) (x : StreamFault) : State :=
      ((change s fun _ => none).streamFails own chan f.context f.csn x).pieceEnded own chan
    if s.stalePiece f then .next ((change (s.countStale f.context 1 f.destination) fun _ => none).pieceEnded own chan)
    else if s.pieceHeld f then .next s
    else
      match f.data with
      | none =>
        if 128 ≤ (s.core p).writesInFlight then .next s
        else
          match s.readPiece f.piece f.context f.requester with
          | (s, _, some cause) => .next (fails s { f.piece.lostFault false f.piece.src with cause := cause })
          | (s, data, none) => .next (change s fun x => some { x with data := some data })
      | some data =>
        match s.pieceLost f with
        | (s, some a) => .next (fails s (f.piece.lostFault true a))
        | (s, none) => .next ((change (s.writePiece f data) fun _ => none).pieceEnded own chan)

/-- DESCRIPTOR_COMPLETE (R216, R233): nothing of the head descriptor is left; it signals and the next one comes. A halt for its signal
records space 0, the counter's core and the counter's number as the address, where R237 gives none (DESIGN CHOICE, assumption
log 16). -/
def execDescriptorComplete (own : Fin 240) (chan : Fin 16) (s : State) : Out :=
  let p := s.physical own
  let h := (s.core p).channel chan
  match h.queue with
  | [] => .next s
  | q :: rest =>
    let d := streamDesc q.bytes
    if h.state ≠ .running ∨ !(h.ready.isEmpty && h.flights.isEmpty && h.fault.isNone) ∨ !d.exhausted h.cursor then .next s
    else
      let bad : StreamFault := { cause := 7, space := 0, core := d.signalCore, address := d.signalCounter }
      let go (s : State) : State :=
        let s := s.modChannel p chan fun h =>
          { h with queue := rest, done := saturate32 (h.done + 1), issuing := false }
        (s.headArrives own chan).fillQueue own chan
      if !d.signal then .next (go s)
      else if !(bit (s.quartersOf q.context q.csn) (d.signalCore / 15) && s.logicalExists d.signalCore) then
        .next (s.haltChannel own chan q.context q.csn bad)
      else
        match s.signal d.signalCore d.signalCounter d.increment with
        | none => .next (s.haltChannel own chan q.context q.csn bad)
        | some t => .next (go t)

/-- BARRIER_WAIT_RELEASE (R217, R233): the head descriptor's counter has reached its threshold. -/
def execBarrierWaitRelease (own : Fin 240) (chan : Fin 16) (s : State) : Out :=
  let p := s.physical own
  let h := (s.core p).channel chan
  match h.queue with
  | [] => .next s
  | q :: _ =>
    let d := streamDesc q.bytes
    event (h.state = .waitingBarrier && decide (d.threshold ≤ (sget 0 (s.core p).barriers d.waitCounter).toNat)) s
      (s.modChannel p chan fun h => { h with state := .running })

/-! ## STREAM actions (R236) -/

/-- The entries of a group item for one core. -/
def Plan.group (p : Plan) (item core : Nat) : List (Nat × List Byte) :=
  match sget 0 (p.streams.getD item []) core with
  | 0 => []
  | o => sget [] p.groups o

/-- Enqueues one core's entries of a STREAM action. -/
def State.startGroup (s : State) (p : Plan) (item c csn action own : Nat) : State :=
  let phys := s.physical own
  let s := ((p.group item own).zipIdx).foldl (fun s ((chan, b), i) =>
    s.modChannel phys chan fun h => { h with backlog := h.backlog ++
      [{ bytes := b, item := item, entry := i, context := c, csn := csn, action := action }] }) s
  (List.range 8).foldl (fun s chan => s.fillQueue own chan) s

/-- Whether a STREAM action has descriptors that have not completed. -/
def State.groupBusy (s : State) (c csn action : Nat) : Bool :=
  s.cores.any fun e => e.2.channels.any fun h => h.1 < 8 &&
    (h.2.queue ++ h.2.backlog).any fun q => q.context == c && q.csn == csn && q.action == action

end Sys2Proof.Machine
end

