-- ==== Sys2Proof/Machine/CoreOps.lean ====
section
/-! DEFINITION. What every instruction of a core program shares (R85 to R93): fetching, traps, the Count rules, and reads and
writes of core-local memory.

An instruction's effect happens when it issues. A core store read that no FENCE has ordered behind another queue's write of
the same line finds either contents of each line, by a free choice (R91). -/

namespace Sys2Proof.Machine

/-! ## Issue -/

/-- Changes a core. -/
def State.onCore (s : State) (own : Nat) (f : Core → Core) : State := s.modCore (s.physical own) f

/-- The core goes on with the next instruction. -/
def State.advance (s : State) (own : Nat) : State := s.onCore own fun x => { x with pc := x.pc + 1, wait := .none }

/-- The instruction at the pc of a core that is decoding, by its class and opcode: FetchRange and Undefined trap, a Count
of all ones traps, before any other cause of the instruction (DESIGN CHOICE, assumption log 49), and a Count of zero completes
without effect (R90, R92); `ignoresCount` holds for FENCE and HALT. -/
def State.decode (s : State) (own cls op : Nat) (ignoresCount : Bool) (run : CoreWord → State → State) : Out :=
  let x := s.core (s.physical own)
  if x.state ≠ .running ∨ x.halted ∨ x.wait ≠ .none ∨ s.paused then .next s
  else
    match x.block with
    | none => .next s
    | some b =>
      match b.instrs[x.pc]? with
      | none => .next (s.trap own trapFetch)
      | some w =>
        if !wDefined w then .next (s.trap own trapUndefined)
        else if wClass w ≠ cls ∨ wOp w ≠ op then .next s
        else if !ignoresCount ∧ wCount w = 0xFFFFFF then .next (s.trap own trapCount)
        else if !ignoresCount ∧ wCount w = 0 then .next (s.advance own)
        else .next (run w s)

/-- What an instruction does: go on, or trap. -/
inductive Ran where
  | ok (s : State)
  | trap (s : State) (cause address : Nat)
  deriving DecidableEq, Repr

/-- The end of an instruction: it leaves its queue non-empty (bit `q`) and the core goes on, or it traps. -/
def Ran.finish (own q : Nat) : Ran → State
  | .ok s => (s.onCore own fun x => { x with queues := x.queues ||| 2 ^ q }).advance own
  | .trap s cause address => s.trap own cause address

/-! ## Core-local addresses of a program (R65, R92) -/

/-- The first byte of a range outside the grant of the core's context; the program area is in no grant. -/
def State.localMiss (s : State) (own x n : Nat) : Option Nat :=
  let g := s.grant (s.core (s.physical own)).context
  let fits (base len : Nat) : Bool := within x n base len
  let edge (base len : Nat) : Option Nat := if base ≤ x ∧ x < base + len then some (base + len) else none
  if !bit g.quarters (own / 15) then some x
  else if fits g.storeBase g.storeLength ∨ fits g.sliceBase g.sliceLength then none
  else some (((edge g.storeBase g.storeLength).orElse fun _ => edge g.sliceBase g.sliceLength).getD x)

/-- The contents that queue `q` may still find in a line another queue is writing. -/
def Core.oldLine (x : Core) (q line : Nat) : Option (List Byte) :=
  (x.openWrites.find? fun o => o.queue != q && o.line == line).map (·.old)

/-- Each line another queue is still writing reads as its old or its new contents (R91). -/
def State.race (s : State) (own q x : Nat) (data : List Byte) : State × List Byte :=
  let c := s.core (s.physical own)
  (unitsOf 64 x data.length).foldl (fun (s, data) line =>
    match c.oldLine q line with
    | none => (s, data)
    | some old =>
      let s' := { s with free := s.free + 1 }
      if Config.raceBit s.free then
        (s', (List.range data.length).map fun i =>
          if line ≤ x + i ∧ x + i < line + 64 then byteAt old (x + i - line) else byteAt data i)
      else (s', data)) (s, data)

/-- What a read of core-local memory gives. -/
inductive Got where
  | ok (s : State) (data : List Byte)
  | trap (s : State) (cause address : Nat)
  deriving DecidableEq, Repr

/-- A program's read of core-local bytes, for the array (0), vector (1) or stream (2) queue. -/
def State.fetchLocal (s : State) (own q x n : Nat) : Got :=
  match s.localMiss own x n with
  | some a => .trap s trapAddress a
  | none =>
    match s.readLocal (s.physical own) x n (s.core (s.physical own)).context with
    | (s, _, some (.parity a)) => .trap s trapParity a
    | (s, _, some (.uncorrectable a)) => .trap s trapSlice a
    | (s, data, none) =>
      let (s, data) := if localPlace x = .store then s.race own q x data else (s, data)
      .ok s data

/-- Keeps the contents of the store lines a queue is about to write. -/
def State.openLines (s : State) (own q x n : Nat) : State :=
  if localPlace x ≠ .store then s
  else
    let p := s.physical own
    (unitsOf 64 x n).foldl (fun s line =>
      if (s.core p).openWrites.any fun o => o.queue == q && o.line == line then s
      else
        let old := s.readKey (localKey p line) 64
        s.modCore p fun c => { c with openWrites := c.openWrites ++ [{ queue := q, line := line, old := old }] }) s

/-- A program's write of core-local bytes. -/
def State.storeLocal (s : State) (own q x : Nat) (data : List Byte) : Ran :=
  let p := s.physical own
  match s.localMiss own x data.length with
  | some a => .trap s trapAddress a
  | none =>
    match s.localPartlyLost p x data.length with
    | some a =>
      .trap (s.sliceUncorrectable p a (s.core p).context) trapSlice a
    | none => .ok ((s.openLines own q x data.length).writeLocal p x data)

/-! ## Vector registers (R82) -/

/-- Lane groups in use, of the full 16 before the shape is set. -/
def Core.groups (x : Core) : Nat := if x.lanes = 0 then 16 else x.lanes

/-- Usable logical vector registers. -/
def Core.usableRegs (x : Core) : Nat := 64 / lanePasses x.groups

def Core.lane (x : Core) (r i : Nat) : Word := sget 0 x.vregs (r * 512 + i)
def Core.setLane (x : Core) (r i : Nat) (v : Word) : Core := { x with vregs := sput 0 x.vregs (r * 512 + i) v }

/-- Words laid over logical vectors from register `r` on. -/
def Core.putWords (x : Core) (r : Nat) (l : List Word) : Core :=
  l.zipIdx.foldl (fun x (v, i) => x.setLane (r + i / 512) (i % 512) v) x

/-- The queues of a mask have emptied: their writes are done. -/
def Core.emptied (x : Core) (mask : Nat) : Core :=
  { x with queues := maskOf ((bitsSet x.queues 3).filter fun q => !bit mask q),
           openWrites := x.openWrites.filter fun o => !bit mask o.queue }

end Sys2Proof.Machine
end

