-- ==== Sys2Proof/Machine/Array.lean ====
section
/-! DEFINITION. The matrix array (R66 to R77, R99 to R117): format pairs, operand layouts, the accumulation of a column, and
the six array instructions.

`d` is the side of the array an instruction works on: 32 for one tile, 128 for the ganged array (R75). Block `b` of an
operand covers reduction indices 32b to 32b + 31, so that each of its MX blocks has one scale (R101, R106). -/

namespace Sys2Proof.Machine

/-! ## Format pairs (R102) -/

def pairA (code : Nat) : Elem :=
  match code with
  | 2 | 3 => .float e5m2
  | 4 => .int 8
  | 9 => .float e2m1
  | 10 => .int 4
  | 11 => .float bf16
  | 12 => .float fp16
  | _ => .float e4m3

def pairB (code : Nat) : Elem :=
  match code with
  | 1 | 3 => .float e5m2
  | 4 => .int 8
  | 6 => .float e3m2
  | 7 => .float e2m3
  | 8 | 9 | 14 => .float e2m1
  | 10 => .int 4
  | 11 => .float bf16
  | 12 => .float fp16
  | _ => .float e4m3

/-- The 4-bit class: 64 reduction rows in a tile (R66). -/
def fourBit (code : Nat) : Bool := code == 9 || code == 10
def integerCode (code : Nat) : Bool := code == 4 || code == 10
/-- Codes whose operand A or operand B carries scales, and the MX codes. -/
def scaledA (code : Nat) : Bool := code == 9 || (13 ≤ code && code ≤ 15)
def scaledB (code : Nat) : Bool := (5 ≤ code && code ≤ 9) || code == 13 || code == 14
def mxCode (code : Nat) : Bool := scaledA code || scaledB code
def osCode (code : Nat) : Bool := code ≤ 4 || code == 11 || code == 12

/-- Reduction rows and blocks of a side. -/
def rowsOf (code d : Nat) : Nat := if fourBit code then 2 * d else d

/-! ## Accumulation (R105 to R109) -/

/-- A chain of products in order, each added with one rounding. -/
def chainFloat (l : List (Val × Val)) : Word := l.foldl (fun acc (a, b) => toFp32 ((a.mul b).add (ofFp32 acc))) 0

/-- A chain of exact products whose every addition saturates. -/
def chainInt (l : List (Int × Int)) : Int := l.foldl (fun acc (a, b) => satInt (acc + a * b)) 0

/-- A chain sum times 2^(x_A + x_B − 254). -/
def scaled (y : Word) (xa xb : Nat) : Word :=
  if xa = 255 ∨ xb = 255 then toFp32 .nan else toFp32 ((ofFp32 y).scale ((xa : Int) + xb - 254))

/-- One entry of a column's result. In ganged mode a column has 128 or 256 reduction rows (R75): the model keeps the blocks of 32
rows that R106 scales, and adds the scaled blocks in block order with one rounding each. The two chains of code 10 are added to each
other, saturating, before the sum bank is (both DESIGN CHOICE, assumption log 49). `a` and `w` give the element codes by reduction
index, `sa` and `sb` the scale codes by block. -/
def columnSum (code d : Nat) (a w sa sb : Nat → Nat) : Word :=
  let n := rowsOf code d
  if integerCode code then
    let prod (i : Nat) : Int × Int := (signed (pairA code).width (a i), signed (pairB code).width (w i))
    let chain (i : Nat) : Int := chainInt ((List.range' (i * d) d).map prod)
    int32 ((List.range (n / d)).foldl (fun acc i => satInt (acc + chain i)) 0)
  else
    let prod (i : Nat) : Val × Val := ((pairA code).value (a i), (pairB code).value (w i))
    if mxCode code then
      let block (b : Nat) : Word := scaled (chainFloat ((List.range' (b * 32) 32).map prod)) (sa b) (sb b)
      (List.range' 1 (n / 32 - 1)).foldl (fun acc b => fadd acc (block b)) (block 0)
    else chainFloat ((List.range d).map prod)

/-- What a pass writes over or adds to an entry (R107, R108). -/
def addEntry (code : Nat) (old new : Word) : Word :=
  if integerCode code then int32 (old.toInt + new.toInt) else fadd old new

/-! ## Layouts (R104) -/

/-- Bytes of a stationary block's scale lines and of the block. A ganged block of code 9 has 8 scale lines of 128 bytes, and its
nibbles pair the rows r and r + 128, as R104's layout scaled by four; R104 gives only the layout of one tile (DESIGN CHOICE,
assumption log 49). -/
def statScaleBytes (code d : Nat) : Nat := if code = 9 then 2 * d / 32 * d else 0
def statBytes (code d : Nat) : Nat :=
  statScaleBytes code d + d * d * (if code = 11 ∨ code = 12 ∨ 13 ≤ code then 2 else 1)

/-- The quantised lines of a block of codes 13 to 15: line j, MX block b (R110). -/
def quantised (d : Nat) (data : List Byte) : List (List (Nat × List Nat)) :=
  (List.range d).map fun j => (List.range (d / 32)).map fun b =>
    quantiseBlock ((List.range 32).map fun i => le data (2 * (j * d + b * 32 + i)) 2)

/-- The element at reduction index `r` and column `j` of a stationary block; the nibbles of a byte pair `r` and `r + d`, so `r` and
`r + 128` in ganged mode (DESIGN CHOICE, assumption log 49). -/
def statElement (code d : Nat) (data : List Byte) (q : List (List (Nat × List Nat))) (r j : Nat) : Nat :=
  if 13 ≤ code then (((q.getD j []).getD (r / 32) (0, [])).2).getD (r % 32) 0
  else if fourBit code then
    let v := le data (statScaleBytes code d + r % d * d + j) 1
    if r < d then v % 16 else v / 16
  else if code = 11 ∨ code = 12 then le data (2 * (r * d + j)) 2
  else le data (r * d + j) 1

/-- The scale code of block `b` of column `j`; 127 for an operand without scales. -/
def statScale (code d : Nat) (data : List Byte) (q : List (List (Nat × List Nat))) (b j : Nat) : Nat :=
  if 13 ≤ code then ((q.getD j []).getD b (0, [])).1 else if code = 9 then le data (b * d + j) 1 else 127

/-- Bytes of one streamed record, of a group's scale lines, and of `n` columns. -/
def recordBytes (code d : Nat) : Nat := rowsOf code d * (pairB code).width / 8
/-- Bytes of the scale lines before the streamed columns: one line of 32 bytes per block and 32 columns, in ganged mode too
(DESIGN CHOICE, assumption log 49). -/
def scaleBytes (code d : Nat) : Nat := if scaledB code then 32 * (rowsOf code d / 32) else 0
def streamBytes (code d n : Nat) : Nat := ceilDiv n 32 * scaleBytes code d + n * recordBytes code d

/-- Where the group of column `n` begins, and its record. -/
def groupAt (code d n : Nat) : Nat := n / 32 * (scaleBytes code d + 32 * recordBytes code d)
def recordAt (code d n : Nat) : Nat := groupAt code d n + scaleBytes code d + n % 32 * recordBytes code d

/-- The element at reduction index `i` of streamed column `n`. -/
def streamElement (code d : Nat) (data : List Byte) (n i : Nat) : Nat :=
  let at_ := recordAt code d n
  if fourBit code then
    let v := le data (at_ + i % d) 1
    if i < d then v % 16 else v / 16
  else
    let k := (pairB code).width
    if k = 16 then le data (at_ + 2 * i) 2
    else if k = 8 then le data (at_ + i) 1
    else le data (at_ + k * i / 8) 2 / 2 ^ (k * i % 8) % 2 ^ k

/-- The scale code of block `b` of streamed column `n`. -/
def streamScale (code d : Nat) (data : List Byte) (n b : Nat) : Nat :=
  if scaledB code then le data (groupAt code d n + 32 * b + n % 32) 1 else 127

/-! ## Tiles and sum banks -/

def Core.modTile (x : Core) (t : Nat) (f : Tile → Tile) : Core := x.setTile t (f (x.tile t))

/-- The element at reduction index `r` and column `j` of the live blocks of the array of side `d`; `t` is the tile of a
packed problem. -/
def statTile (d t r j : Nat) : Nat := if d = 128 then 4 * (r % 128 / 32) + j / 32 else t
def Core.liveElement (x : Core) (d t r j : Nat) : Nat :=
  (x.tile (statTile d t r j)).live.elements.getD ((if d = 128 then r / 128 * 32 + r % 32 else r) * 32 + j % 32) 0
def Core.liveScale (x : Core) (d t b j : Nat) : Nat :=
  (x.tile (statTile d t (b * 32) j)).live.scales.getD ((if d = 128 then b / 4 else b) * 32 + j % 32) 127

/-- Key of entry (j, n) of a sum bank. -/
def sumKey (t bank n j : Nat) : Nat := ((t * 2 + bank) * 256 + n) * 32 + j

/-- Tile and entry that hold entry `j` of a column (R75: tiles 12 to 15 of the ganged array). -/
def sumTile (d t j : Nat) : Nat := if d = 128 then 12 + j / 32 else t
def Core.sumAt (x : Core) (d t bank n j : Nat) : Word := sget 0 x.sums (sumKey (sumTile d t j) bank n (j % 32))
/-- Whether an entry was last written by an integer pass. -/
def Core.intAt (x : Core) (d t bank n j : Nat) : Bool := sget false x.integers (sumKey (sumTile d t j) bank n (j % 32))
def Core.setSum (x : Core) (d t bank n j : Nat) (int : Bool) (w : Word) : Core :=
  let k := sumKey (sumTile d t j) bank n (j % 32)
  { x with sums := sput 0 x.sums k w, integers := sput false x.integers k int }

def wBank (w : CoreWord) : Nat := wB w % 2

/-! ## Tile masks and modes (R74 to R76, R92) -/

def Core.mode (x : Core) (t : Nat) : Nat := bits x.arrayMode.toNat (2 * t + 1) (2 * t)

/-- What an array instruction addresses: nothing, tiles one by one, the ganged array, or tiles that it may not. -/
inductive Target where
  | nothing
  | tiles (l : List Nat)
  | ganged
  | refused
  deriving DecidableEq, Repr

/-- The target of a mask (R74 to R76): `ok` says which modes of a packed tile allow the instruction. In an M4 program a mask of
zero is the ganged array, unless a tile is element-wise (DEDUCED, assumption log 18). -/
def Core.target (x : Core) (m4 : Bool) (mask : Nat) (ok : Nat → Bool) : Target :=
  let l := bitsSet mask 16
  if mask = 0 then
    if !m4 then .nothing else if (List.range 16).any fun t => x.mode t == 3 then .refused else .ganged
  else if l.all fun t => x.mode t == 2 then (if l.length = 16 then .ganged else .refused)
  else if l.all fun t => x.mode t != 2 && ok (x.mode t) then .tiles l
  else .refused

/-- Side of the array and its parts: one ganged array or the packed tiles. -/
def Target.side : Target → Nat
  | .ganged => 128
  | _ => 32
def Target.parts : Target → List Nat
  | .ganged => [0]
  | .tiles l => l
  | _ => []
/-- The tiles whose blocks part `t` uses, and those whose sum banks it writes. -/
def Target.blockTiles (g : Target) (t : Nat) : List Nat := match g with | .ganged => List.range 16 | _ => [t]
def Target.sumTiles (g : Target) (t : Nat) : List Nat := match g with | .ganged => [12, 13, 14, 15] | _ => [t]

/-- Whether the core runs a Relhus M4 program. -/
def Core.m4 (x : Core) : Bool := (x.block.map (·.ganged)).getD false

/-! ## MODE -/

/-- Sets the mode of masked tiles; an M4 program's mask of zero names all of them (R76, R89). Ganged mode for part of the tiles
traps with Mode (R92). A mode above 3 does too: the spec names no trap for it (DESIGN CHOICE, assumption log 18). -/
def modeRun (own : Nat) (w : CoreWord) (s : State) : Ran :=
  let x := s.core (s.physical own)
  let mask := if wMask w = 0 ∧ x.m4 then 0xFFFF else wMask w
  if mask = 0 then .ok s
  else if 3 < wA w ∨ (wA w = 2 ∧ mask ≠ 0xFFFF) then .trap s trapMode 0
  else .ok (s.onCore own fun x => { x with
    arrayMode := BitVec.ofNat 32 (sumNat ((List.range 16).map fun t => (if bit mask t then wA w else x.mode t) * 4 ^ t)) })

def execMode (core : Fin 240) (s : State) : Out := s.decode core 1 0 false fun w s => (modeRun core w s).finish core 0

/-! ## LOADSTAT (R70, R104, R110) -/

/-- The block that tile `t` of an array of side `d` keeps of stationary data. -/
def statBlock (code d t : Nat) (data : List Byte) : StatBlock :=
  let q := if 13 ≤ code then quantised d data else []
  let tr := if d = 128 then t / 4 else 0
  let tc := if d = 128 then t % 4 else 0
  let chains := if fourBit code then 2 else 1
  { code := code
    elements := (List.range (chains * 32)).flatMap fun r => (List.range 32).map fun j =>
      statElement code d data q (r / 32 * d + tr * 32 + r % 32) (tc * 32 + j)
    scales := (List.range chains).flatMap fun c => (List.range 32).map fun j =>
      statScale code d data q (c * (d / 32) + tr) (tc * 32 + j) }

/-- Loads the shadow registers of the masked tiles; their blocks follow one another in tile order (DEDUCED, assumption log
18). -/
def loadstatRun (own : Nat) (w : CoreWord) (s : State) : Ran :=
  let p := s.physical own
  let x := s.core p
  let g := x.target x.m4 (wMask w) (· == 0)
  let code := wFormats w
  let d := g.side
  match g with
  | .nothing => .ok s
  | .refused => .trap s trapMode 0
  | _ =>
    match s.fetchLocal own 0 (wA w * 64) (g.parts.length * statBytes code d) with
    | .trap s c a => .trap s c a
    | .ok s data =>
      .ok (s.onCore own fun x => g.parts.zipIdx.foldl (fun x (t, r) =>
        let part := slice data (r * statBytes code d) (statBytes code d)
        (g.blockTiles t).foldl (fun x t => x.modTile t fun y => { y with shadow := statBlock code d t part, fresh := true }) x) x)

def execLoadstat (core : Fin 240) (s : State) : Out :=
  s.decode core 1 1 false fun w s => (loadstatRun core w s).finish core 0

/-! ## PASS (R68, R103 to R109) -/

/-- The block that a pass works with. PASS has no field that names the shadow block: the first PASS after a LOADSTAT reveals it
(DEDUCED, assumption log 18). -/
def Tile.next (t : Tile) : StatBlock := if t.fresh then t.shadow else t.live
def Tile.revealed (t : Tile) : Tile := { t with live := t.next, fresh := false }

/-- An input-stationary pass of `n` columns over part `t`. -/
def Core.pass (x : Core) (code d t bank n : Nat) (add : Bool) (data : List Byte) : Core :=
  (List.range n).foldl (fun x i => (List.range d).foldl (fun x j =>
    let y := columnSum code d (fun r => x.liveElement d t r j) (streamElement code d data i)
      (fun b => x.liveScale d t b j) (streamScale code d data i)
    x.setSum d t bank i j (integerCode code) (if add then addEntry code (x.sumAt d t bank i j) y else y)) x) x

/-- A pass over the masked tiles. Of several trap causes Mode comes before Count (DESIGN CHOICE, assumption log 49). -/
def passRun (own : Nat) (w : CoreWord) (s : State) : Ran :=
  let x := s.core (s.physical own)
  let g := x.target x.m4 (wMask w) (· == 0)
  let code := wFormats w
  let d := g.side
  let n := wCount w
  let tiles := g.parts.flatMap g.blockTiles
  match g with
  | .nothing => .ok s
  | .refused => .trap s trapMode 0
  | _ =>
    if tiles.any fun t => (x.tile t).next.code != code then .trap s trapMode 0
    else if 256 < n then .trap s trapCount 0
    else
      match s.fetchLocal own 0 (wA w * 64) (streamBytes code d n) with
      | .trap s c a => .trap s c a
      | .ok s data =>
        .ok (s.onCore own fun x =>
          let x := tiles.foldl (fun x t => x.modTile t Tile.revealed) x
          g.parts.foldl (fun x t => x.pass code d t (wBank w) n (bit (wC w) 0) data) x)

def execPass (core : Fin 240) (s : State) : Out := s.decode core 1 2 false fun w s => (passRun core w s).finish core 0

/-! ## OSPASS (R72, R73, R103) -/

/-- Bytes of a 8-bit or 16-bit element. -/
def elementBytes (e : Elem) : Nat := e.width / 8

/-- The accumulator of cell (i, j) after `k` steps of records of `d` elements (DEDUCED, assumption log 18). -/
def osSum (code d k : Nat) (xs ws : List Byte) (i j : Nat) : Word :=
  let a (n : Nat) : Nat := le xs ((n * d + i) * elementBytes (pairA code)) (elementBytes (pairA code))
  let b (n : Nat) : Nat := le ws ((n * d + j) * elementBytes (pairB code)) (elementBytes (pairB code))
  if integerCode code then int32 (chainInt ((List.range k).map fun n => (signed 8 (a n), signed 8 (b n))))
  else chainFloat ((List.range k).map fun n => ((pairA code).value (a n), (pairB code).value (b n)))

/-- Row i of the accumulators becomes column i of the bank and overwrites it, with no add; the X blocks of several tiles follow
one another in tile order and share one W (DEDUCED, assumption log 18). -/
def Core.osPass (x : Core) (code d t bank k : Nat) (xs ws : List Byte) : Core :=
  (List.range d).foldl (fun x i => (List.range d).foldl (fun x j =>
    x.setSum d t bank i j (integerCode code) (osSum code d k xs ws i j)) x) x

def ospassRun (own : Nat) (w : CoreWord) (s : State) : Ran :=
  let x := s.core (s.physical own)
  let g := x.target x.m4 (wMask w) (· == 1)
  let code := wFormats w
  let d := g.side
  let k := wCount w
  let xBytes := k * d * elementBytes (pairA code)
  match g with
  | .nothing => .ok s
  | .refused => .trap s trapMode 0
  | _ =>
    if !osCode code then .trap s trapMode 0
    else
      match s.fetchLocal own 0 (wA w * 64) (g.parts.length * xBytes) with
      | .trap s c a => .trap s c a
      | .ok s xs =>
        match s.fetchLocal own 0 (wC w * 64) (k * d * elementBytes (pairB code)) with
        | .trap s c a => .trap s c a
        | .ok s ws =>
          .ok (s.onCore own fun x => g.parts.zipIdx.foldl (fun x (t, r) =>
            x.osPass code d t (wBank w) k (slice xs (r * xBytes) xBytes) ws) x)

def execOspass (core : Fin 240) (s : State) : Out := s.decode core 1 3 false fun w s => (ospassRun core w s).finish core 0

/-! ## DRAIN (R115 to R119) -/

/-- The stored formats of a drain and their bytes. -/
def drainBytes (f : Nat) : Nat := if f = 0 then 4 else if f = 3 then 1 else 2
def drainFmt (f : Nat) : Fmt := if f = 1 then bf16 else if f = 2 then fp16 else e4m3

/-- Rounds a sum to the stored format; FP32 and integer sums pass unchanged. -/
def drainValue (f : Nat) (mode : Round) (v : Word) : Nat :=
  if f = 0 then v.toNat else (drainFmt f).encode mode (ofFp32 v)

/-- The random bits of a stochastic drain (R119). -/
def drainBits (v : Word) (core tile n j planId salt : Nat) : Nat :=
  let p := 2 ^ 20 * core ||| 2 ^ 15 * tile ||| 2 ^ 7 * n ||| j
  let s := planId % 2 ^ 32 ^^^ planId / 2 ^ 32 ^^^ salt
  (chaff32 (BitVec.ofNat 32 (v.toNat % 65536)) (BitVec.ofNat 32 p) (BitVec.ofNat 32 s)).toNat % 65536

def drainRound (code : Nat) (r : Nat) : Round := if code = 1 then .towardZero else if code = 2 then .stochastic r else .nearest

/-- Sums to the vector unit: logical vectors from register C on (DESIGN CHOICE, assumption log 18: the spec names no
register). -/
def drainVector (own : Nat) (w : CoreWord) (sums : List Word) (s : State) : Ran :=
  if (s.core (s.physical own)).usableRegs < rC w + ceilDiv sums.length 512 then .trap s trapCount 0
  else .ok (s.onCore own fun x => x.putWords (rC w) sums)

/-- Several tiles and columns are laid out tile after tile, and within a tile column after column (DEDUCED, assumption log 18).
A drain to the vector unit with Formats other than 0, which R115 forbids, traps with Undefined; and of several causes Mode comes
first, then Count, then Undefined. Entries that mix integer and floating-point sums count as integer as a whole (all DESIGN
CHOICE, assumption log 49). -/
def drainRun (own : Nat) (w : CoreWord) (s : State) : Ran :=
  let x := s.core (s.physical own)
  let g := x.target x.m4 (wMask w) fun _ => true
  let d := g.side
  let n := wCount w
  let f := wFormats w % 4
  let r := wFormats w / 4
  let entries : List (Nat × Nat × Nat) := g.parts.flatMap fun t => (List.range n).flatMap fun i => (List.range d).map fun j => (t, i, j)
  let int := entries.any fun (t, i, j) => x.intAt d t (wBank w) i j
  match g with
  | .nothing => .ok s
  | .refused => .trap s trapMode 0
  | _ =>
    if 256 < n then .trap s trapCount 0
    else if r = 3 ∨ (int ∧ wFormats w ≠ 0) ∨ (wA w = 0xFFFFFF ∧ wFormats w ≠ 0) then .trap s trapUndefined 0
    else if wA w = 0xFFFFFF then
      drainVector own w (entries.map fun (t, i, j) => x.sumAt d t (wBank w) i j) s
    else
      s.storeLocal own 0 (wA w * 64) (entries.flatMap fun (t, i, j) =>
        let v := x.sumAt d t (wBank w) i j
        let bits_ := drainBits v own (if d = 128 then 0 else t) i j ((x.block.map (·.planId)).getD 0) (wC w)
        leBytes (drainBytes f) (drainValue f (drainRound r bits_) v))

def execDrain (core : Fin 240) (s : State) : Out := s.decode core 1 4 false fun w s => (drainRun core w s).finish core 0

/-! ## ELEM (R77, R114) -/

def elemBytes (f : Nat) : Nat := if f = 0 then 1 else if f = 3 then 4 else 2
def elemFormat (f : Nat) : Fmt := if f = 0 then e4m3 else if f = 1 then bf16 else if f = 2 then fp16 else fp32

def elemResult (op : Nat) (a b c : Val) : Word :=
  toFp32 (if op = 0 then (a.mul b).add c else if op = 1 then a.mul b else a.add b)

/-- One tile's elements: element e is entry e mod 32 of column e / 32. -/
def Core.elem (x : Core) (t bank f op n : Nat) (as bs : List Byte) : Core :=
  (List.range n).foldl (fun x e =>
    let at_ (l : List Byte) : Val := (elemFormat f).decode (le l (e * elemBytes f) (elemBytes f))
    x.setSum 32 t bank (e / 32) (e % 32) false (elemResult op (at_ as) (at_ bs) (ofFp32 (x.sumAt 32 t bank (e / 32) (e % 32))))) x

/-- An element-wise pass: each masked tile takes its own Count elements, one tile's after another's (DEDUCED, assumption log
18). A Count above the 8,192 entries of a sum bank traps, and of several trap causes Mode comes first, then Count, then Undefined
(both DESIGN CHOICE, assumption log 49). -/
def elemRun (own : Nat) (w : CoreWord) (s : State) : Ran :=
  let x := s.core (s.physical own)
  let mask := if wMask w = 0 ∧ x.m4 then 0xFFFF else wMask w
  let tiles := bitsSet mask 16
  let n := wCount w
  let f := wFormats w % 4
  let bytes := n * elemBytes f
  if mask = 0 then .ok s
  else if tiles.any fun t => x.mode t != 3 then .trap s trapMode 0
  else if 8192 < n then .trap s trapCount 0
  else if wFormats w / 4 = 3 then .trap s trapUndefined 0
  else
    match s.fetchLocal own 0 (wA w * 64) (tiles.length * bytes) with
    | .trap s c a => .trap s c a
    | .ok s as =>
      match s.fetchLocal own 0 (wC w * 64) (tiles.length * bytes) with
      | .trap s c a => .trap s c a
      | .ok s bs =>
        .ok (s.onCore own fun x => tiles.zipIdx.foldl (fun x (t, r) =>
          x.elem t (wBank w) f (wFormats w / 4) n (slice as (r * bytes) bytes) (slice bs (r * bytes) bytes)) x)

def execElem (core : Fin 240) (s : State) : Out := s.decode core 1 5 false fun w s => (elemRun core w s).finish core 0

end Sys2Proof.Machine
end

