-- ==== Sys2Proof/Machine/Resume.lean ====
section
/-! DEFINITION. Suspended commands (R62, R239, R240): what is saved of their channels, and how they go on. -/

namespace Sys2Proof.Machine

/-- Whether every faulting page of a suspended command is present (R239). -/
def State.pagesPresent (s : State) (c : Nat) (m : Cmd) : Bool := m.faultPages.all fun g => s.mappedFor c g false

/-- The offset, in the band of admission, of the earliest action that has not finished (R62). -/
def Cmd.firstOffset (m : Cmd) : Nat :=
  ((m.actions.filter (·.phase != .ended)).map fun a => a.entry.offsets.getD m.band 0).foldl
    (fun (o : Option Nat) x => some (match o with | some y => min x y | none => x)) none |>.getD 0

/-! ## Channels of a suspended command (R240) -/

/-- Saves what one channel still has to do of an action, and takes it out of the channel; what is queued behind goes on. -/
def State.saveChannel (s : State) (c csn i k chan : Nat) : State :=
  let p := s.physical k
  let h := (s.core p).channel chan
  let own (q : QueuedDesc) : Bool := q.context == c && q.csn == csn && q.action == i
  let mine := (h.queue ++ h.backlog).filter own
  if mine.isEmpty then s
  else
    let headed := (h.queue.head?).any own
    let kept := match mine with
      | q :: l => if headed ∧ h.state ≠ .waitingBarrier then { q with resume := some h.mark } :: l else q :: l
      | [] => []
    let s := s.modCmd c csn fun m => { m with saved := m.saved ++ [{ core := k, channel := chan, action := i, queue := kept }] }
    let s := s.modChannel p chan fun h =>
      let h := if headed then h.cleared else h
      { h with queue := ((s.core p).channel chan).queue.filter fun q => !own q, backlog := h.backlog.filter fun q => !own q }
    if headed then (s.headArrives k chan).fillQueue k chan else s

/-- Saves the channels of a STREAM action that have not finished, and the barrier counters of the command's cores. -/
def State.saveChannels (s : State) (c csn i : Nat) : State :=
  let cores := (List.range 240).filter s.logicalExists
  let barriers := ((quarterCores (s.quartersOf c csn)).filter s.logicalExists).flatMap fun k =>
    (s.core (s.physical k)).barriers.map fun e => (k, e.1, e.2)
  let s := s.modCmd c csn fun m => { m with savedBarriers := barriers }
  cores.foldl (fun s k => (List.range 8).foldl (fun s chan => s.saveChannel c csn i k chan) s) s

/-- Sets the work left of a STREAM action of a suspended command aside: the action starts again when the command resumes. -/
def State.setAside (s : State) (c csn i : Nat) : State :=
  (s.saveChannels c csn i).modCmd c csn fun m =>
    { m with actions := m.actions.modify i fun a => { a with phase := .waiting, overran := 0, aside := true } }

/-- The STREAM actions of a command that run with work left, picked by `p`, are set aside. -/
def State.setAsideAll (s : State) (c csn : Nat) (p : ActionRun → Bool) : State :=
  match s.cmd c csn with
  | none => s
  | some m => (m.actions.zipIdx.filter fun (a, i) => a.entry.action == 2 && a.phase == .running && p a && s.groupBusy c csn i).foldl
      (fun s (_, i) => s.setAside c csn i) s

/-- The saved channels of an action go on where they stopped. -/
def State.restoreChannels (s : State) (c csn i : Nat) (l : List SavedChannel) : State :=
  let l := l.filter (·.action == i)
  let s := l.foldl (fun s v =>
    (s.modChannel (s.physical v.core) v.channel fun h => { h with backlog := h.backlog ++ v.queue }).fillQueue v.core v.channel) s
  s.modCmd c csn fun m => { m with saved := m.saved.filter (·.action != i) }

/-! ## The end of a suspension (R62, R239, R357) -/

/-- Ends the suspension of a command whose pages are all present (R62). Stream work whose window has not ended is set aside
too, and goes on at the new booked start. -/
def State.resumeSuspended (s : State) (c csn : Nat) : State :=
  let ends : Bool := (s.cmd c csn).any fun m => m.phase == .suspended && s.pagesPresent c m
  let s := if ends then s.setAsideAll c csn fun _ => true else s
  match s.cmd c csn with
  | none => s
  | some m =>
    if ends then
      let off := m.firstOffset
      let left := m.span + m.skipped - off
      let s := s.modCmd c csn fun x =>
        { x with skipped := off, suspendedFor := x.suspendedFor + (s.now - x.suspendedAt), faultPages := [],
                 begun := false, resuming := true }
      (s.rebook c csn left 0 0).sendResumed c csn 1
    else s

/-- Ends every suspension of a context whose pages are present, in CSN order. -/
def State.resumeAll (s : State) (c : Nat) : State :=
  ((s.stream c).cmds.map (·.csn)).foldl (fun s n => s.resumeSuspended c n) s

/-- A page mapped as Shared may be present for other contexts too (R255): every context's suspensions are looked at, in
ascending number. -/
def State.resumeEverywhere (s : State) : State := (s.contexts.map (·.1)).foldl State.resumeAll s

end Sys2Proof.Machine
end

