-- ==== Sys2Proof/Machine/PageCommands.lean ====
section
/-! DEFINITION. PAGE.MAP, PAGE.UNMAP (R257, R258), PAGE.RETIRE, SEG.RETIRE (R182), the acceptance of SEG.RECODE (R179) and
the SEQ commands (R259, R260). -/

namespace Sys2Proof.Machine

def pageCount : Nat := 16777216

/-! ## Pages -/

/-- A range of pages lies in a stack that failed (R184). -/
def State.pagesFailed (s : State) (first n : Nat) : Bool := s.inFailedStack (65536 * first) (65536 * n)

def bodyPageMap (f : Frame) (c : Nat) (s : State) : Handled :=
  let p := f.payload
  let first := le p 0 4
  let n := le p 4 4
  let shared := le p 9 1
  let pages := List.range' first (min n pageCount)
  zeroField (n = 0) s
    (checked
      [when (pageCount < first + n) (refuse Status.length 4),
       when (1 < shared) (refuse Status.format 9),
       when (s.pagesFailed first n) (refuseAddress),
       legal 0x0701 c s,
       (pages.find? fun g => s.pageKind c g != 0).map fun g => refuseState 9 g (s.pageKind c g) 1,
       when (pages.any fun g => !(s.grant c).holdsSegment (g / 16384)) (refuse Status.capacity)] s
      (done ((pages.foldl (fun s g => s.mapPage g c 0 0 0 (shared == 1)) s).resumeEverywhere)))

/-- Whether a page is mapped for the context by PAGE.MAP; a retire-pending one is too. -/
def State.unmappable (s : State) (c g : Nat) : Bool :=
  let p := s.page g
  p.mapped && p.context == c && p.use == 0

def bodyPageUnmap (f : Frame) (c : Nat) (s : State) : Handled :=
  let p := f.payload
  let first := le p 0 4
  let n := le p 4 4
  let pages := List.range' first (min n pageCount)
  zeroField (n = 0) s
    (checked
      [when (pageCount < first + n) (refuse Status.length 4),
       when (s.pagesFailed first n) (refuseAddress),
       legal 0x0702 c s,
       (pages.find? fun g => !s.unmappable c g).map fun g => refuseState 9 g (s.pageKind c g) (maskOf [2]),
       when ((s.context c).pins.any fun x => overlaps (65536 * first) (65536 * n) x.destination x.length)
         (refuseState 1 c (s.ctxState c).code (maskOf [1, 2, 3]))] s
      (s.unmapThen f pages))

/-- The first segment of a run that the journal occupies (R182). -/
def State.journalSegment (s : State) (first n : Nat) : Option Nat :=
  (List.range' first n).find? fun g => s.journal.segments.contains g

def bodyPageRetire (f : Frame) (s : State) : Handled :=
  let first := le f.payload 0 4
  let n := le f.payload 4 4
  zeroField (n = 0) s
    (checked
      [when (pageCount < first + n) (refuse Status.length 4),
       when (s.pagesFailed first n) (refuseAddress),
       legalDevice 0x0703 s,
       (s.journalSegment (first / 16384) ((first + n - 1) / 16384 - first / 16384 + 1)).map fun g =>
         refuseState 6 g 4 1] s
      (done ((List.range' first (min n pageCount)).foldl (fun s g => s.retirePending g 3) s)))

/-- Whether a segment lies in the window of a pseudo-channel (R192). -/
def State.inWindow (s : State) (g : Nat) : Bool :=
  (s.stack (g / 128)).pcs.any fun e => (e.2.mode != .plain || e.2.entering) && e.2.firstSeg ≤ g % 128 &&
    g % 128 < e.2.firstSeg + e.2.segCount

def bodySegRetire (f : Frame) (s : State) : Handled :=
  let first := le f.payload 0 2
  let n := le f.payload 2 2
  zeroField (n = 0) s
    (checked
      [when (1024 < first + n) (refuse Status.length 2),
       when (s.pagesFailed (16384 * first) (16384 * n)) (refuseAddress),
       legalDevice 0x0802 s,
       (s.journalSegment first n).map fun g => refuseState 6 g 4 1,
       ((List.range' first n).find? s.inWindow).map fun g => refuseState 6 g 2 1] s
      (done ((List.range' first n).foldl (fun s g => s.retireSegment g 3) s)))

/-! ## SEG.RECODE (R179) -/

/-- The stacks of a run of segments. -/
def stacksOfRun (first n : Nat) : List Nat := (List.range 8).filter fun k => overlaps first n (k * 128) 128

/-- Whether a pseudo-channel of a stack is in COMPUTE or SEALING, or entering COMPUTE. -/
def State.computing (s : State) (k : Nat) : Bool := (s.stack k).pcs.any fun e => e.2.mode != .plain || e.2.entering

/-- Whether a recode is accepted and unfinished, or on its way to the journal, on a stack (R179). -/
def State.recoding (s : State) (k : Nat) : Bool :=
  (s.recodes.map (·.2) ++ (s.journal.staging.map (·.cmd)).filter Cmd.recodes).any fun m => overlaps m.address m.count (k * 128) 128

/-- A sweep runs on a stack (R179 step 4). -/
def State.sweepRuns (s : State) (k : Nat) : Bool := (s.stack k).sweep.isSome

def bodySegRecode (f : Frame) (stream : Nat) (s : State) : Handled :=
  let p := f.payload
  let first := le p 0 2
  let n := le p 2 2
  let code := le p 4 1
  let segs := List.range' first n
  zeroField (n = 0) s
    (checked
      [when (1024 < first + n) (refuse Status.length 2),
       when (2 < code) (refuse Status.format 4),
       when (s.pagesFailed (16384 * first) (16384 * n)) (refuseAddress),
       legalDevice 0x0801 s,
       ((List.range 64).find? fun c => decide (s.ctxState c = .active) && segs.any (s.grant c).holdsSegment).map fun c =>
         refuseState 1 c 3 (maskOf [0, 1, 2, 4, 5]),
       ((stacksOfRun first n).find? s.computing).map fun k => refuseState 6 k 2 1,
       ((stacksOfRun first n).find? s.sweepRuns).map fun k => refuseState 6 k 1 1,
       (s.journalSegment first n).map fun g => refuseState 6 g 4 1,
       when (s.pages.any fun e => e.2.mapped && segs.contains (e.1 / 16384) &&
         decide (usableBytes code ≤ 65536 * (e.1 % 16384))) (refuse Status.capacity),
       flowCheck stream s] s
      (.later (s.stage
        { stream := stream, session := f.session.toNat, number := f.number.toNat, answer := true,
          cmd := { opcode := 0x0801, frame := f, address := first, count := n, value := code, acceptedAt := s.now } })))

/-! ## SEQ (R259, R260) -/

/-- Device-wide sums over the sequence areas of the other contexts: slots, and list entries. -/
def State.areaSums (s : State) (c : Nat) : Nat × Nat :=
  let l := (s.contexts.filter fun e => e.1 != c).filterMap fun e => e.2.area
  (sumNat (l.map (·.capacity)), sumNat (l.map fun a => a.capacity * a.stride))

/-- Replaces the sequence area: records FREE, entries 0xFF00_0000. -/
def State.newArea (s : State) (c : Nat) (a : SeqArea) : State :=
  let s := s.modContext c fun x => { x with area := some a, seqs := [] }
  (s.writeOwn a.base (zeros (64 * a.capacity))).writeOwn (a.base + 64 * a.capacity)
    ((List.replicate (a.capacity * a.stride) (leBytes 4 noPage)).flatten)

def bodySeqArea (f : Frame) (c : Nat) (s : State) : Handled :=
  let p := f.payload
  let a : SeqArea := { base := le p 0 8, capacity := le p 8 4, stride := le p 12 4, poolFirst := le p 16 2,
                       poolCount := le p 18 2 }
  let x := s.context c
  zeroField (a.capacity = 0) s
    (checked
      [when (a.base = 2 ^ 64 - 1) (refuse Status.length 0),
       when (65536 < a.capacity) (refuse Status.length 8),
       when (1048576 < a.stride) (refuse Status.length 12),
       when (1023 < a.poolFirst) (refuse Status.length 16),
       when (1024 < a.poolCount) (refuse Status.length 18),
       when (a.base % 64 ≠ 0) (refuse Status.format 0),
       legal 0x0401 c s,
       ((x.seqs.find? fun e => e.2.isOpen).map fun e => refuseState 3 e.1 1 1),
       when (!x.grant.holdsScratch a.base (64 * a.capacity + 4 * a.stride * a.capacity)) (refuse Status.capacity),
       when ((List.range' a.poolFirst a.poolCount).any fun g => !x.grant.holdsSegment g) (refuse Status.capacity),
       when (65536 < (s.areaSums c).1 + a.capacity) (refuse Status.capacity),
       when (134217728 < (s.areaSums c).2 + a.capacity * a.stride) (refuse Status.capacity)] s
      (done ((s.afterSplits a.base (64 * a.capacity + 4 * a.stride * a.capacity)).newArea c a)))

/-- The initial record that SEQ.OPEN carries, and the fields that must be zero. -/
def seqRecord (p : List Byte) : SeqSlot :=
  { isOpen := true, home := le p 5 1, lanes := le p 6 2, perPage := le p 8 4, limit := le p 0x14 4, ring := le p 0x18 4,
    pageRing := le p 0x1C 4, stack := le p 0x24 1, pc := le p 0x25 1, recordCode := le p 0x26 1, firstRow := le p 0x28 4,
    layerStride := le p 0x2C 4, layers := le p 0x30 2, tag := slice p 52 8 }

/-- The payload offset of the first record field out of its range (R248, R260, R261). The fields that only a record with home QUERN has
are neither tested nor cleared for another home, and are stored as given (DESIGN CHOICE, assumption log 56). -/
def badRecord (p : List Byte) (r : SeqSlot) (stride : Nat) : Option Nat :=
  let paged := r.home = 1
  let quern := r.home = 2
  let bad : List (Bool × Nat) :=
    [(le p 4 1 ≠ 0, 0), (2 < r.home, 1),
     (if paged then r.lanes = 0 ∨ 1024 < r.lanes else r.lanes ≠ 0, 2),
     (if paged then r.perPage = 0 ∨ 65536 < r.perPage else r.perPage ≠ 0, 4),
     (le p 12 4 ≠ 0, 8), (le p 16 4 ≠ 0, 0xC),
     (r.limit = 0 ∨ 1048576 < r.limit, 0x10), (131072 < r.ring, 0x14),
     (r.pageRing ≠ 0 ∧ (¬ paged ∨ r.pageRing % r.perPage ≠ 0 ∨ 131072 < r.pageRing), 0x18),
     (le p 0x20 4 ≠ 0, 0x1C),
     (quern ∧ ¬ [0, 2, 4, 6].contains r.stack, 0x20), (quern ∧ 63 < r.pc, 0x21), (quern ∧ 2 < r.recordCode, 0x22),
     (quern ∧ 32767 < r.firstRow, 0x24), (quern ∧ (r.layerStride = 0 ∨ 32766 < r.layerStride), 0x28),
     (quern ∧ (r.layers = 0 ∨ 1024 < r.layers), 0x2C),
     (paged ∧ stride / r.lanes < r.groupsFor r.limit, 0x10), (r.home = 0 ∧ r.ring < r.limit, 0x10)]
  (bad.find? (·.1)).map fun e => 4 + e.2

/-- Records of one position a row holds in each bank (R197, R198). -/
def recordsPerRow (code : Nat) : Nat := if code = 0 then 4 else if code = 1 then 2 else 1

/-- Rows of one layer of a bank that a Quern home needs (R249, R260). -/
def SeqSlot.layerRows (r : SeqSlot) : Nat := ceilDiv (ceilDiv (r.limit - r.ring) 64) (recordsPerRow r.recordCode)

/-- The check of a Quern home's rows against the window of its pseudo-channel. -/
def quernRows (r : SeqSlot) (s : State) : Option Reply :=
  let w := s.pseudo r.stack r.pc
  let first := 256 * w.firstSeg + 2
  let last := 256 * (w.firstSeg + w.segCount) - 1
  firstFailing
    [when (r.firstRow < first ∨ last < r.firstRow ∨
        last + 1 < r.firstRow + (r.layers - 1) * r.layerStride + r.layerRows) (refuse Status.length 0x28),
     when (r.layerStride < r.layerRows) (refuse Status.length 0x2C)]

/-- A slot beyond the capacity. -/
def badSlot (s : State) (c j : Nat) : Option Reply := when ((s.context c).capacity ≤ j) (refuse Status.length 0)

def needOpen (s : State) (c j : Nat) : Option Reply := when (!(s.seq c j).isOpen) (refuseState 3 j 0 (maskOf [1]))

/-- Whether an accepted, uncompleted command names a slot, or one on its way to the journal. -/
def State.named (s : State) (c j : Nat) : Bool :=
  ((s.stream c).cmds.any fun m => m.phase != .completed && m.slots.contains j) ||
  s.journal.staging.any fun x => x.stream == c && x.cmd.slots.contains j

def bodySeqOpen (f : Frame) (c : Nat) (s : State) : Handled :=
  let p := f.payload
  let j := le p 0 4
  let r := seqRecord p
  let w := s.pseudo r.stack r.pc
  checked
    [badSlot s c j,
     (badRecord p r (s.context c).stride).map fun o => refuse Status.length o,
     legal 0x0402 c s,
     when (s.seq c j).isOpen (refuseState 3 j 1 1),
     when (r.home = 2 ∧ ¬ (w.mode = .compute ∧ w.context = c)) (refuseState 4 (r.stack * 64 + r.pc) w.mode.code (maskOf [1])),
     if r.home = 2 then quernRows r s else none] s
    (done (s.modSeq c j fun _ => r))

def bodySeqExtend (f : Frame) (c : Nat) (s : State) : Handled :=
  let j := le f.payload 0 4
  let n := le f.payload 4 4
  let r := s.seq c j
  let grown := s.grow c j (r.groupsFor n)
  zeroField (n = 0) s
    (checked
      [badSlot s c j,
       when (1048576 < n ∨ (r.isOpen ∧ r.limit < n)) (refuse Status.length 4),
       legal 0x0403 c s,
       needOpen s c j,
       when grown.isNone (refuse Status.capacity)] s
      (done ((grown.getD s).modStagedGroups c fun i g => if i = j then max g (r.groupsFor n) else g)))

def bodySeqTrim (f : Frame) (c : Nat) (s : State) : Handled :=
  let j := le f.payload 0 4
  let n := le f.payload 4 4
  let r := s.seq c j
  checked
    [badSlot s c j,
     when (n = 2 ^ 32 - 1 ∨ (r.isOpen ∧ r.length < n)) (refuse Status.length 4),
     legal 0x0404 c s,
     needOpen s c j,
     when (s.named c j) (refuseState 3 j 2 (maskOf [1]))] s
    (let gone := r.above (s.context c).stride (r.groupsFor n)
     let s := s.dropEntries c j (r.groupsFor n) gone
     (s.modSeq c j fun r => { r with length := n, booked := n }).unmapThen f (gone.map (·.2)))

def bodySeqClose (f : Frame) (c : Nat) (s : State) : Handled :=
  let j := le f.payload 0 4
  let r := s.seq c j
  checked
    [badSlot s c j,
     legal 0x0405 c s,
     needOpen s c j,
     when (s.named c j) (refuseState 3 j 2 (maskOf [1]))] s
    ((s.modSeq c j fun _ => {}).unmapThen f (r.list.map fun e => e.2 - 1))

end Sys2Proof.Machine
end

