-- ==== Sys2Proof/Machine/Programs.lean ====
section
/-! DEFINITION. The program areas of the cores (R64, R65, R86, R87): where the blocks of the loaded plans lie, and how they are
written and read. -/

namespace Sys2Proof.Machine

def programBase : Nat := 0x12E00000

/-- The first `n` granules of a program area that hold no block; `fuel` bounds how many are looked at. -/
def freeGranules (used : List Nat) : Nat → Nat → Nat → List Nat
  | 0, _, _ => []
  | fuel + 1, g, n =>
    if n = 0 then []
    else if used.contains g then freeGranules used fuel (g + 1) n
    else g :: freeGranules used fuel (g + 1) (n - 1)

/-- Blocks of plans no longer loaded leave a core's program area (R86). -/
def State.dropBlocks (s : State) (p : Nat) : State :=
  s.modCore p fun x => { x with programs := x.programs.filter fun h => (s.plan h.context h.planId).isSome }

/-- Copies a block into the first free granules of a core's program area (DESIGN CHOICE, assumption log 39). -/
def State.placeBlock (s : State) (p c id offset : Nat) (instrs : List CoreWord) : State :=
  let kept := (s.core p).programs
  let used := kept.flatMap (·.granules)
  let at_ := freeGranules used (used.length + instrs.length) 0 instrs.length
  let s := s.modCore p fun x =>
    { x with programs := kept ++ [{ context := c, planId := id, offset := offset, granules := at_ }] }
  (at_.zip instrs).foldl (fun s e => s.writeLocal p (programBase + 16 * e.1) (leBytes 16 e.2.toNat)) s

/-- The block offsets that a plan's item tables assign to a core, each once. -/
def Plan.offsetsOf (q : Plan) (k : Nat) : List Nat := ((q.code.map fun m => sget 0 m k).filter (· != 0)).eraseDups

/-- Copies a plan's blocks for logical core `k` into that core's program area, once those of plans no longer loaded have left
it. -/
def State.placeBlocks (s : State) (c : Nat) (q : Plan) (k : Nat) : State :=
  (q.offsetsOf k).foldl (fun s o => s.placeBlock (s.physical k) c q.id o (sget [] q.blocks o)) (s.dropBlocks (s.physical k))

/-- Rebuilds a core's program area from the loaded plans, on a core that has lost it or newly carries its number (R95, R389). -/
def State.rebuildPrograms (s : State) (k : Nat) : State :=
  let t := s.modCore (s.physical k) fun x => { x with programs := [] }
  s.contexts.foldl (fun t e => e.2.plans.foldl (fun t q => t.placeBlocks e.1 q k) t) t

/-- The instructions in some granules of a program area, read in order, with the first error met (R87). -/
def State.readProgram (s : State) (p : Nat) : List Nat → State × List CoreWord × Option LocalFault
  | [] => (s, [], none)
  | g :: l =>
    let (s, data, bad) := s.readLocal p (programBase + 16 * g) 16
    let (s, words, bad') := s.readProgram p l
    (s, BitVec.ofNat 128 (leNat data) :: words, bad.orElse fun _ => bad')

end Sys2Proof.Machine
end

