-- ==== Sys2Proof/Machine/Wake.lean ====
section
/-! DEFINITION. The beginning of a domain's wake (R358): its wake time, the port's retraining at another width (R360), and the
stacks that admitted work needs (R344, R362). -/

namespace Sys2Proof.Machine

/-- The width that the port domains which are on, or that `also` holds, allow (R358): 0 eight lanes, 1 four, 2 lane 0. -/
def State.portWidthWith (s : State) (also : DomainState) : Nat :=
  let has (k : Nat) : Bool := s.isOn k || (s.domain k).state == also
  if !has 76 then 2 else if !has 77 then 1 else 0

/-- The fitted medium does not offer the application on lane 0, the only lane powered (R483). -/
def State.lane0Missing (s : State) (lanes : Nat) : Bool := lanes == 2 && s.dev.medium != 0 && !s.dev.lane0

/-- The width of the port with the lanes given powered: no more than the fitted medium offers (R482), and none where that has no
application on the only lane (R483). -/
def State.widthOver (s : State) (lanes : Nat) : Nat := if s.lane0Missing lanes then 3 else max lanes s.dev.mediumWidth

/-- The width that the port domains which are on, and the medium, allow. -/
def State.portWidthOn (s : State) : Nat := s.widthOver (s.portWidthWith .on)

/-- The link goes down to train again at another width (R360). -/
def State.portDown (s : State) : State :=
  if s.dev.portUp then (s.modDev fun d => { d with portUp := false, negotiated := false }).setTroubleBit .port 0 else s

/-- The link drops to train again at the width the domains allow (R360). A port that carries nothing on lane 0 has no link to
drop; one that loses its last application says so (R483). -/
def State.portDrops (s : State) : State :=
  if s.dev.portWidth = s.portWidthOn ∨ s.dev.portWidth = 3 then s
  else
    let t := s.portDown.modDev fun d => { d with portWidth := s.portWidthOn }
    if s.lane0Missing (s.portWidthWith .on) then t.setTroubleBit .port 1 else t

/-- The port at the width its domains and its medium allow, trained again, under Clause 73 on copper (R360, R482). It trains once
for the domains that wake together. -/
def State.portTrained (s : State) : State :=
  let w := s.portWidthOn
  let up := decide (s.dev.medium ≠ 0 ∧ w ≠ 3 ∧ s.widthOver (s.portWidthWith .waking) = w)
  s.modDev fun d => { d with portWidth := w, portUp := up, negotiated := up && d.medium == 1 }

/-- The wake time of a domain (R358). -/
def wakeTime (k : Nat) : Nat :=
  if k < 64 then 256 else if k < 68 then 1024 else if k < 76 then 2048 else if k < 78 then 262144 else 64

/-- Begins the wake of a domain that is off. The link drops when the width is to grow: its training is part of the wake of the
port's domains (R358, R360). -/
def State.startWake (s : State) (k : Nat) : State :=
  if (s.domain k).state = .off ∧ k < 79 then
    let s := s.modDomain k fun d => { d with state := .waking, gated := false, since := s.uptime,
                                             wakeCount := saturate32 (d.wakeCount + 1) }
    if (k = 76 ∨ k = 77) ∧ s.widthOver (s.portWidthWith .waking) ≠ s.dev.portWidth then s.portDown else s
  else s

/-- A switched-off memory interface that admitted work needs is woken (R344, R358). -/
def State.wakeStacks (s : State) (shares : Nat) : State :=
  ((List.range 8).filter fun k => decide (0 < shareOf shares k)).foldl (fun s k => s.startWake (68 + k)) s

end Sys2Proof.Machine
end

