-- ==== Sys2Proof/Machine/Domains.lean ====
section
/-! DEFINITION. Power domains (R358 to R360), the POWER commands (R361 to R364) and the events of waking. Where a wake begins is in
Wake.lean. -/

namespace Sys2Proof.Machine

/-! ## Switching -/

/-- The physical cores of a core group (R24). -/
def groupCores (g : Nat) : List Nat := (List.range 4).map (4 * g + ·)

/-- Slices and core stores of a core group are lost: zero when it is on again (R157, R358). -/
def State.loseCore (s : State) (p : Nat) : State :=
  (s.clearKey (localKey p 0) (2 ^ 32)).modCore p fun x =>
    { x with state := if x.state = .disabled then .disabled else .off, tiles := [], sums := [], vregs := [], arrayMode := 0,
             integers := [], programs := [], bank0 := none, bank1 := none, channels := [], barriers := [], queues := 0, streamQ := [],
             openWrites := [], wait := .none }

/-- Switches off a domain that is on or waking, with what it loses (R358). -/
def State.switchOff (s : State) (k : Nat) (byDoze gated : Bool) : State :=
  if (s.domain k).state = .off ∨ k = 79 then s
  else
    let s := s.modDomain k fun d => { d with state := .off, byDoze := byDoze, gated := gated, since := s.uptime }
    if k < 64 then (groupCores k).foldl State.loseCore s
    else if k < 68 then
      let d := k - 64
      (s.dropLines d fun _ => true).clearKey (scratchBase d) (s.scratchSize d)
    else if k < 76 then s.modStack (k - 68) fun t => { t with selfRefresh := true }
    else if k < 78 then s.portDrops
    else (List.range 4).foldl (fun s h => s.modHopper h fun x => { x with off := true }) s

/-- Rewrites the sequence areas of a die from their authoritative copies (R364). -/
def State.rewriteAreas (s : State) (die : Nat) : State :=
  s.contexts.foldl (fun s e =>
    match e.2.area with
    | some a =>
      if scratchDie a.base = die then
        let blank := (s.writeOwn a.base (zeros (64 * a.capacity))).writeOwn (a.base + 64 * a.capacity)
          ((List.replicate (a.capacity * a.stride) (leBytes 4 noPage)).flatten)
        e.2.seqs.foldl (fun s x => s.writeSlot e.1 x.1) blank
      else s
    | none => s) s

/-- A domain is on: cores come to IDLE with their program areas rebuilt, a stack leaves self-refresh, the port has retrained (R358).
-/
def State.wakeEnds (s : State) (k : Nat) : State :=
  let s := s.modDomain k fun d => { d with state := .on }
  if k < 64 then
    (groupCores k).foldl (fun s p =>
      let s := s.modCore p fun x => { x with state := if x.state = .disabled then .disabled else .idle }
      if s.logicalOf p = 0xFF then s else s.rebuildPrograms (s.logicalOf p)) s
  else if k < 68 then s.rewriteAreas (k - 64)
  else if k < 76 then s.modStack (k - 68) fun t => { t with selfRefresh := false, lastAccess := s.uptime }
  else if k < 78 then s.portTrained
  else (List.range 4).foldl (fun s h => s.modHopper h fun x => { x with off := false }) s

/-- Unclaimed core groups are kept off, and claimed groups with an enabled core are woken (R359). -/
def State.followClaims (s : State) : State :=
  (List.range 64).foldl (fun s g =>
    if s.groupClaimed g ∧ s.groupEnabled g then s.startWake g
    else s.switchOff g false true) s

/-! ## Conditions of R358 -/

/-- Whether an action on a stack runs or is booked to start within the next `n` notches. -/
def State.stackBusy (s : State) (k n : Nat) : Bool :=
  s.bookedCmds.any fun x => 0 < shareOf x.2.shares k &&
    (x.2.actions.any (·.phase == .running) ||
      (x.2.start ≤ s.clock + n && s.clock < x.2.start + x.2.rampIn + x.2.span))

/-- Whether a command or an occurrence of RUN.BOOK holds the stack within the next `n` notches (R362). -/
def State.stackBooked (s : State) (k n : Nat) : Bool :=
  s.stackBusy k n || (s.holds s.clock (s.clock + n + 1)).any fun h => 0 < shareOf h.shares k

/-- Whether POWER.DOMAIN may switch a domain off now, `mask` naming the others of the command. -/
def State.mayOff (s : State) (mask k : Nat) : Bool :=
  if k < 64 then !s.groupClaimed k
  else if k < 68 then false
  else if k < 76 then
    let t := k - 68
    !s.stackBusy t 2064 && !s.computing t && (s.stack t).sweep.isNone && !s.recoding t && k != 69 && k != 75
  else if k = 76 then (s.domain 77).state == .off || bit mask 77
  else if k = 77 then true
  else if k = 78 then !(s.bookedCmds.any fun x => x.2.hoppers != 0) && !(s.hoppers.any fun e => e.2.running)
  else false

def State.mayOn (s : State) (k : Nat) : Bool := decide (64 ≤ k) || (s.groupClaimed k && s.groupEnabled k)

/-- Whether the domain is in the requested state already. One that wakes is on its way to on; it is not off, so switching it off
asks for its condition and does so. -/
def State.inState (s : State) (op k : Nat) : Bool := decide ((s.domain k).state = .off) == decide (op = 0)

/-- The state that a refusal names (R323); a waking domain is not on yet, and reads 0 (DESIGN CHOICE, assumption log 53). -/
def domainState (s : State) (k : Nat) : Nat := bnat (s.isOn k)

/-- POWER.DOMAIN (R361). -/
def bodyPowerDomain (f : Frame) (s : State) : Handled :=
  let op := le f.payload 0 1
  let mask := le f.payload 6 10
  let named := (bitsSet mask 79).filter fun k => !s.inState op k
  zeroField (mask = 0) s
    (checked
      [when (1 < op) (refuse Status.format 0),
       when (bit mask 79) (refuse Status.format 6),
       legalDevice 0x1301 s,
       (named.find? fun k => !(if op = 0 then s.mayOff mask k else s.mayOn k)).map fun k =>
         refuseState 5 k (domainState s k) (maskOf [op])] s
      (done (named.foldl (fun s k => if op = 0 then s.switchOff k false false else s.startWake k) s)))

/-- POWER.POLICY (R362). -/
def bodyPowerPolicy (f : Frame) (s : State) : Handled :=
  let mask := le f.payload 0 1
  let cap := le f.payload 2 2
  let idle := le f.payload 4 4
  checked
    [when (mask &&& 0x82 ≠ 0) (refuse Status.format 0),
     when (cap < 320 ∨ 2400 < cap) (refuse Status.format 2),
     when (idle < 1024 ∨ 2 ^ 26 < idle) (refuse Status.format 4),
     legalDevice 0x1302 s] s
    (done (s.modPower fun p => { p with autoMask := mask, hostCap := cap, idleThreshold := idle }))

/-- The domains that DOZE leaves on, or waking (R363). -/
def State.dozeKeeps (s : State) (mask : Nat) : List Nat :=
  (List.range 80).filter fun k => (k == 79 || (s.domain k).state != .off) && (k == 79 || bit mask k || (k < 68 && s.claimed k))

/-- After the reply of POWER.DOZE its domains are switched off (R363). -/
def State.dozeOff (s : State) : State :=
  (s.power.dozeDue.filter (·.2.2.2)).foldl (fun s e =>
      ((List.range 79).filter fun k => !e.2.2.1.contains k).foldl (fun s k => s.switchOff k true false) s)
    (s.modPower fun p => { p with dozeDue := p.dozeDue.filter fun e => !e.2.2.2 })

/-- POWER.DOZE (R363): the device is in DOZE from the notch of its reply. -/
def bodyPowerDoze (f : Frame) (s : State) : Handled :=
  let mask := le f.payload 6 10
  let keep := s.dozeKeeps mask
  checked
    [when (bit mask 79) (refuse Status.format 6),
     legalDevice 0x1303 s,
     ((List.range 64).find? fun c => decide (s.ctxState c = .active)).map fun c =>
       refuseState 1 c 3 (maskOf [0, 1, 2, 4, 5]),
     (s.schedule.bookings.find? fun b => !s.bookingOver b).map fun b => 
       refuseState 1 b.context (s.ctxState b.context).code (maskOf [0, 1, 2, 4, 5]),
     ((List.range 8).find? fun k => s.recoding k || (s.stack k).sweep.isSome).map fun k => refuseState 6 k 1 1,
     ((List.range 4).find? fun d => (s.pond d).resplit.isSome).map fun d => refuseState 6 (2 * d) 1 1] s
    (done (s.modPower fun p => { p with dozeDue := p.dozeDue ++ [(f.session.toNat, f.number.toNat, keep, false)] })
      (leBytes 10 (maskOf keep)))

/-- POWER.WAKE (R364). -/
def bodyPowerWake (s : State) : Handled :=
  checked [legalDevice 0x1304 s] s
    (done ((((List.range 79).filter fun k => (s.domain k).byDoze).foldl State.startWake s).modPower fun p =>
      { p with waking := true }))

/-! ## Events -/

/-- DOMAIN_WAKE_DONE (R358): no wake ends before its wake time. -/
def execDomainWakeDone (k : Fin 80) (s : State) : Out :=
  event ((s.domain k).state = .waking ∧ (s.domain k).since + wakeTime k ≤ s.uptime) s (s.wakeEnds k)

/-- WAKE_COMPLETE (R364): every domain that DOZE switched off is on again. -/
def execWakeComplete (s : State) : Out :=
  let back := s.power.domains.all fun e => !e.2.byDoze || e.2.state == .on
  event (s.dev.state = .doze && s.power.waking && back) s
    (let s := { s with power := { s.power with waking := false, domains := smap {} (fun _ d => { d with byDoze := false }) s.power.domains } }
     s.modDev fun d => { d with state := d.wakeTo })

/-- The medium as a link change finds it: its kind, its widest application, and whether it has the one on lane 0 (R482, R483). -/
def Device.fitted (d : Device) (m : Medium) (lane0 : Bool) : Device :=
  { d with medium := m.kind % 3, mediumWidth := if m.kind % 3 = 0 then 3 else min m.width 3, lane0 := lane0 }

/-- PORT_LINK_CHANGE (R360, R482, R483): the link drops, or comes up after training at the width that the domains and the medium
allow, under Clause 73 on copper alone. With only lane 0 powered and a medium that does not offer it, the port carries no traffic. -/
def execPortLinkChange (up : Bool) (m : Medium) (negotiated lane0 : Bool) (s : State) : Out :=
  let u := s.modDev fun d => d.fitted m lane0
  let w := u.portWidthOn
  event (s.dev.state ≠ .off) s
    (if up ∧ w ≠ 3 then
      u.modDev fun d => { d with portUp := true, portWidth := w, negotiated := negotiated && d.medium == 1 }
    else
      let u := if s.dev.portUp then u.setTroubleBit .port 0 else u
      let u := if u.lane0Missing (u.portWidthWith .on) then u.setTroubleBit .port 1 else u
      u.modDev fun d => { d with portUp := false, portWidth := if w = 3 then 3 else d.portWidth, negotiated := false })

end Sys2Proof.Machine
end

