-- ==== Sys2Proof/Machine/Contexts.lean ====
section
/-! DEFINITION. CTX.OPEN (R328), CTX.CLOSE (R497), CTX.RESET (R399, R400), QUERN.MODE (R188 to R192), and the events that
end them. -/

namespace Sys2Proof.Machine

/-! ## CTX.OPEN (R328) -/

/-- The grant that CTX.OPEN parameters give. -/
def grantOf (p : List Byte) : Grant :=
  { quarters := le p 2 2, storeBase := le p 4 4, storeLength := le p 8 4, sliceBase := le p 12 4, sliceLength := le p 16 4,
    ways := (List.range 4).map fun d => le p (20 + 2 * d) 2,
    padFirst := (List.range 4).map fun d => le p (28 + 8 * d) 4, padCount := (List.range 4).map fun d => le p (32 + 8 * d) 4,
    runs := (List.range (le p 60 2)).map fun i => (le p (64 + 4 * i) 2, le p (66 + 4 * i) 2), runBlock := le p 96 8 }

/-- The first field of a size that is beyond its limit. -/
def grantLengths (p : List Byte) (g : Grant) : List (Option Reply) :=
  [when (2 ^ 22 < g.storeBase + g.storeLength ∧ (g.storeBase ≤ 2 ^ 22 ∨ g.storeLength = 2 ^ 32 - 1)) (refuse Status.length 8),
   when (0x12E00000 < g.sliceBase + g.sliceLength ∧ 0 < g.sliceLength ∧
     (g.sliceBase ≤ 0x12E00000 ∨ g.sliceLength = 2 ^ 32 - 1)) (refuse Status.length 16),
   ((List.range 4).find? fun d => decide (16384 < g.padFirst.getD d 0 + g.padCount.getD d 0)).map fun d =>
     refuse Status.length (32 + 8 * d),
   when (8 < le p 60 2) (refuse Status.length 60),
   ((List.range (min 8 (le p 60 2))).find? fun i => decide (1024 < le p (64 + 4 * i) 2 + le p (66 + 4 * i) 2)).map fun i =>
     refuse Status.length (66 + 4 * i)]

def grantFields (p : List Byte) (g : Grant) : List (Option Reply) :=
  [when (g.storeBase % 65536 ≠ 0 ∨ 2 ^ 22 < g.storeBase) (refuse Status.format 4),
   when (g.storeLength % 65536 ≠ 0) (refuse Status.format 8),
   when (g.sliceBase % 65536 ≠ 0 ∨ (0 < g.sliceLength ∧ (g.sliceBase < 0x10000000 ∨ 0x12E00000 < g.sliceBase)))
     (refuse Status.format 12),
   when (g.sliceLength % 65536 ≠ 0) (refuse Status.format 16),
   ((List.range 8).find? fun i => decide (le p 60 2 ≤ i) && !allZero p (64 + 4 * i) 4).map fun i =>
     refuse Status.format (64 + 4 * i),
   when (g.runBlock % 4096 ≠ 0) (refuse Status.format 96)]

def grantPlaces (g : Grant) : List (Option Reply) :=
  [when (!g.holdsScratch g.runBlock 4096) refuseAddress,
   when ((List.range 4).any fun d => decide (0 < g.padCount.getD d 0 ∧ g.padFirst.getD d 0 < 512)) refuseAddress]

/-- Whether two grants share core-local bytes of a core, a way or a scratchpad page. -/
def Grant.shares (g h : Grant) : Bool :=
  (g.quarters &&& h.quarters != 0 &&
    (overlaps g.storeBase g.storeLength h.storeBase h.storeLength ||
     overlaps g.sliceBase g.sliceLength h.sliceBase h.sliceLength)) ||
  (List.range 4).any fun d => g.ways.getD d 0 &&& h.ways.getD d 0 != 0 ||
    overlaps (g.padFirst.getD d 0) (g.padCount.getD d 0) (h.padFirst.getD d 0) (h.padCount.getD d 0)

/-- The capacity checks of CTX.OPEN. -/
def State.grantShort (s : State) (g : Grant) : Bool :=
  (s.anyContext fun x => g.shares x.grant) ||
  ((List.range 4).any fun d =>
    decide (0 < g.padCount.getD d 0 ∧ 1024 * (s.pond d).steps < g.padFirst.getD d 0 + g.padCount.getD d 0) ||
    decide ((s.pond d).steps = 16 ∧ g.ways.getD d 0 ≠ 0) || (d < 2 && bit (g.ways.getD d 0) 15)) ||
  g.runs.any fun r => (List.range' r.1 r.2).any fun n =>
    s.journal.segments.contains n || s.segRetired n || (s.stack (n / 128)).failed

/-- Gives a FREE context its grant; the core groups it claims begin to wake (R359). -/
def State.openContext (s : State) (c : Nat) (g : Grant) : State :=
  let s := s.setContext c { state := .open, grant := g }
  let s := (List.range 4).foldl (fun s d => s.modPond d fun t =>
    { t with ways := (bitsSet (g.ways.getD d 0) 16).foldl (fun w i => sput none w i (some c)) t.ways }) s
  s.followClaims

def bodyCtxOpen (f : Frame) (s : State) : Handled :=
  let p := f.payload
  let g := grantOf p
  let named := le p 0 1
  let free := (List.range 64).find? fun c => decide ((s.context c).state = .free)
  let c := if named = 255 then free.getD 0 else named
  checked
    (grantLengths p g ++ when (63 < named ∧ named ≠ 255) (refuse Status.format 0) :: grantFields p g ++ grantPlaces g ++
      [legalDevice 0x0501 s,
       when (named ≠ 255 ∧ s.ctxState named ≠ .free) (refuseState 1 named (s.ctxState named).code 1),
       when (named = 255 ∧ free.isNone) (refuse Status.capacity),
       when (s.grantShort g) (refuse Status.capacity)]) s
    (done (s.openContext c g) [] c)

/-! ## CTX.CLOSE (R497, R192) -/

/-- The pseudo-channels of a context that are not PLAIN. -/
def State.windowsOf (s : State) (c : Nat) : List (Nat × Nat) :=
  s.memStacks.flatMap fun e => (e.2.pcs.filter fun x => (x.2.mode != .plain || x.2.entering) && x.2.context == c).map fun x =>
    (e.1, x.1)

/-- Discards what a context has queued and running in the banks; its units finish their chunks (R192, R400). -/
def State.discardQuern (s : State) (c : Nat) : State :=
  { s with memStacks := smap {} (fun _ t => { t with pcs := smap {} (fun _ x => x.discard (·.context == c)) t.pcs }) s.memStacks }

/-- Begins the sealing of a pseudo-channel: it accepts no descriptor, and lets a chunk in progress finish (R191). -/
def State.seal (s : State) (k p : Nat) : State :=
  s.modPseudo k p fun x => { (x.discard fun _ => true) with mode := .sealing, entering := false }

/-- Sends the next completion of a stream, when its turn has come and somebody receives it (R320). -/
def State.sendNext (s : State) (c : Nat) : State :=
  let n := (s.stream c).sentThrough + 1
  match s.cmd c n with
  | none => s
  | some m =>
    if m.phase = .completed ∧ (s.receiver c m.sender).isSome then
      let s := (s.sendResults c n).sendCompletion c n 0
      let s := s.modCmd c n fun x => { x with sent := true, sentAt := s.uptime }
      s.modStream c fun t => { t with sentThrough := n }
    else s

/-- Sends every completion of a stream that is ready (R320). -/
def State.sendAll (s : State) (c : Nat) : State := (s.stream c).cmds.foldl (fun s _ => s.sendNext c) s

/-- The grant withdrawn and the context FREE (R497): its pages unmapped, its ways emptied, its bookings ended. -/
def State.freeContext (s : State) (c : Nat) : State :=
  let mine := (s.pages.filter fun e => e.2.mapped && e.2.context == c).map (·.1)
  let s := mine.foldl State.unmapPage s
  let s := (List.range 4).foldl (fun s d =>
    let own (w : Nat) : Bool := sget none (s.pond d).ways w == some c
    (s.dropLines d fun l => own l.way).modPond d fun t => { t with ways := t.ways.filter fun e => e.2 != some c }) s
  let s := s.modSchedule fun x => { x with bookings := x.bookings.filter (·.context != c),
                                           tentative := x.tentative.filter (·.context != c),
                                           fillers := x.fillers.filter (·.1 != c) }
  let g := (s.context c).generation
  ({ s with contexts := sput {} s.contexts c { generation := g } }).followClaims

/-- Whether a context can be set FREE: its Quern windows are sealed (R192), and no piece that was under way when its commands ended
still uses a page of its own (R228). -/
def State.mayFree (s : State) (c : Nat) : Bool :=
  (s.windowsOf c).isEmpty && !(s.pages.any fun e => e.2.mapped && e.2.context == c && s.pageInUse e.1)

def bodyCtxClose (f : Frame) (c : Nat) (s : State) : Handled :=
  checked
    [legal 0x0502 c s,
     when (!(s.context c).pins.isEmpty) (refuseState 1 c (s.ctxState c).code (maskOf [1, 2, 5]))] s
    (let s := if s.ctxState c = .quarantined then
        let l := s.uncompleted c
        (((l.foldl (fun s n => s.endReset c 1 n) s).leaveReplay c).sendAll c).replayStep
      else s
     if s.mayFree c then done (s.releaseUnmaps.freeContext c)
     else
       let s := (s.windowsOf c).foldl (fun s x => s.seal x.1 x.2) s
       .later (s.modJournal fun j => { j with closing := j.closing ++ [(f, c)] }))

/-- Closes the contexts whose windows are all sealed and whose pages no piece uses any more, and answers; PAGE.UNMAP commands of
theirs that waited are answered first (R258). -/
def State.endClosings (s : State) : State :=
  s.journal.closing.foldl (fun s (f, c) =>
    if s.mayFree c then
      let s := s.releaseUnmaps.modJournal fun j => { j with closing := j.closing.filter (· != (f, c)) }
      (s.freeContext c).conclude f.session.toNat f.number.toNat f.opcode.toNat {}
    else s) s

/-! ## CTX.RESET (R399, R400) -/

/-- Steps 1 to 3: running actions stop, bookings, queue places and suspensions end, queues are discarded. A context whose replay
is in progress still owes the commands that had started before its die's reset (R406). -/
def State.beginReset (s : State) (c : Nat) (r : Resetting) : State :=
  let s := s.modContext c fun x => { x with state := .resetting, reset := some r }
  let told := ((s.uncompleted c).flatMap (s.coresFor c)).eraseDups
  let s := ((s.giveUp c).watchCores told).discardQuern c
  let s := if s.dev.replaying = some c then s
    else s.modStream c fun t => { t with cmds := t.cmds.map fun m => { m with startedBefore := false, stoppedBy := [] } }
  { s with hoppers := smap {} (fun _ h => if h.running ∧ h.context = c then h.lastRow else h) s.hoppers }

def bodyCtxReset (f : Frame) (s : State) : Handled :=
  let c := le f.payload 0 1
  let mode := le f.payload 1 1
  let quarantined := s.ctxState c = .quarantined
  checked
    [when (63 < c) (refuse Status.format 0), when (1 < mode) (refuse Status.format 1), legal 0x0503 c s] s
    (if s.dev.state = .faulted then done (s.modContext c fun x => { x with pendingReset := some mode })
     else
       let s := if quarantined then s.leaveReplay c else s
       .later (s.beginReset c
         { mode := mode, quarantined := quarantined, since := s.uptime, session := f.session.toNat, number := f.number.toNat }))

/-- Whether a core still has something of a context to finish. -/
def Core.drains (x : Core) (c : Nat) : Bool := (x.context == c && x.stopToldAt.isSome) || x.flights.any (·.context == c)

/-- Whether every engine is IDLE for a context: cores, channels, in-bank units with their chunk in progress, and Hopper units with
their row (R192, R277, R400). -/
def State.drained (s : State) (c : Nat) : Bool :=
  !(s.cores.any fun e => e.2.drains c) && !(s.hoppers.any fun e => e.2.running && e.2.context == c) &&
  !s.memStacks.any fun e => e.2.pcs.any fun x => x.2.chunkIn && x.2.running.any (·.entry.context == c)

/-- Steps 4 to 6 of R400, and the reply. -/
def State.endReset' (s : State) (c : Nat) (r : Resetting) : State :=
  let l := s.uncompleted c
  let s := s.advanceGeneration c (1 + r.mode)
  let s := if r.mode = 0 ∨ r.quarantined then l.foldl (fun s n => s.endReset c 1 n) s
    else s.modContext c fun x => { x with draining := true }
  let s := s.writeLog (ctxLog 7 c r.mode l.length)
  let s := s.modContext c fun x => { x with state := .open, reset := none }
  let s := if r.replied then s else s.conclude r.session r.number 0x0503 { value := bnat r.late }
  s.replayStep

/-- CONTEXT_RESET_DRAINED (R400). -/
def execContextResetDrained (c : Nat) (s : State) : Out :=
  match (s.context c).reset with
  | none => .next s
  | some r => event (decide ((s.context c).state = .resetting) && s.drained c && r.waits.isEmpty) s (s.endReset' c r)

/-- Whether a piece of a context carries an engine tag of an earlier generation. -/
def State.oldFlight (s : State) (c : Nat) (f : Flight) : Bool := f.context == c && f.tag != (s.context c).generation % 16

/-- Pieces of a context that carry an engine tag of an earlier generation. -/
def State.oldFlights (s : State) (c : Nat) : List Flight := s.cores.flatMap fun e => e.2.flights.filter (s.oldFlight c)

/-- They are gone. -/
def State.dropOldFlights (s : State) (c : Nat) : State :=
  { s with cores := smap {} (fun _ x => { x with channels := smap {} (fun _ h =>
      { h with flights := h.flights.filter fun f => !s.oldFlight c f }.atRest) x.channels }) s.cores }

/-- Cores that were told to stop, and have nothing left in flight, are IDLE. -/
def State.settleCores (s : State) : State := { s with cores := smap {} (fun _ x => x.settled) s.cores }

/-- Restarts the contexts whose tags have drained, in ascending number: each once no lower one still waits for its own (R402). -/
def State.restartDrained (s : State) : State :=
  s.contexts.foldl (fun s e =>
    if (s.context e.1).restartDue ∧ !(s.contexts.any fun y => decide (y.1 < e.1) && y.2.draining) then
      let s := s.modContext e.1 fun x => { x with restartDue := false }
      if (s.context e.1).state = .quarantined then s else s.restartAll e.1
    else s) s

/-- TAGS_DRAINED (R398): no request with the context's old tag remains, so its held commands are booked again. What was left of
them is dropped and counted: the pieces the device still holds, and requests of its other engines, with their
destinations. -/
def execTagsDrained (c : Nat) (dropped : List Nat) (s : State) : Out :=
  event (s.inService && (s.context c).draining && decide ((s.context c).state ≠ .resetting) && !s.dev.affected.contains c) s
    (let s := s.modContext c fun x => { x with draining := false, restartDue := true }
     let s := s.countStales c ((s.oldFlights c).map Flight.destination ++ dropped)
     ((s.dropOldFlights c).settleCores.releaseUnmaps).restartDrained)

/-! ## QUERN.MODE (R188 to R191) -/

/-- Lines of the window of a pseudo-channel leave the cache (R149). -/
def State.dropWindowLines (s : State) (k p first count : Nat) : State :=
  s.dropLines (k / 2) fun l =>
    let a := l.line * 256
    stackOf a == k && pseudoOf a == p && first ≤ bits a 36 30 && bits a 36 30 < first + count

/-- Zeros over the command window and the result window (R190, R194). -/
def State.clearControlRows (s : State) (k p first : Nat) : State :=
  let base := 2 ^ 37 * k + 2 ^ 30 * first
  (List.range 256).foldl (fun s i =>
    let o := 0x10000 * (i / 4) + 0x4000 * (i % 4)
    (s.clearKey (base + o + p * 256) 256).clearKey (0x400000 + base + o + (p ^^^ 1) * 256) 256) s

/-- Steps 1 to 4 of R190 for one pseudo-channel. -/
def State.prepareCompute (s : State) (c k first count p : Nat) : State :=
  let s := (s.dropWindowLines k p first count).clearControlRows k p first
  s.modPseudo k p fun x =>
    { guardTrip := x.guardTrip, queueFull := x.queueFull, entering := true, context := c, firstSeg := first, segCount := count }

/-- The uncompleted command whose QUERN actions name a pseudo-channel (R189). -/
def State.quernNamed (s : State) (k : Nat) (pcs : List Nat) : Option Cmd :=
  s.contexts.findSome? fun e => e.2.stream.cmds.find? fun m => m.opcode == 0x0301 && m.phase != .completed &&
    match s.plan e.1 m.planId with
    | some p => (s.quernPlaces e.1 m p).any fun u => u.1 == k && pcs.contains u.2
    | none => false

/-- What stands against COMPUTE: a pseudo-channel not in PLAIN, a segment not fit, an accepted recode (R189 step 4). One whose entry
into COMPUTE is in progress counts as in COMPUTE, which R189 and R190 leave open (DESIGN CHOICE, assumption log 17). -/
def computeChecks (c k first n : Nat) (pcs : List Nat) (s : State) : List (Option Reply) :=
  [(pcs.find? fun p => (s.pseudo k p).mode != .plain || (s.pseudo k p).entering).map fun p =>
     refuseState 4 (64 * k + p) (if (s.pseudo k p).mode = .sealing then 2 else 1) 1,
   ((List.range' (128 * k + first) n).find? fun g =>
       s.segCode g != 0 || s.segRetired g || !(s.grant c).holdsSegment g).map fun g =>
     refuseState 6 g (if s.segRetired g then 3 else 0) 1,
   when (s.recoding k) (refuseState 6 k 1 1)]

def plainChecks (c k : Nat) (pcs : List Nat) (s : State) : List (Option Reply) :=
  [(pcs.find? fun p => !decide ((s.pseudo k p).mode = .compute ∧ (s.pseudo k p).context = c)).map fun p =>
     refuseState 4 (64 * k + p) (s.pseudo k p).mode.code (maskOf [1]),
   (s.quernNamed k pcs).map fun m => refuseState 8 (m.planId % 2 ^ 32) 2 (maskOf [0, 1])]

def bodyQuernMode (f : Frame) (c : Nat) (s : State) : Handled :=
  let p := f.payload
  let k := le p 0 1
  let mode := le p 1 1
  let n := le p 4 2
  let first := le p 6 2
  let mask := le p 8 8
  let pcs := bitsSet mask 64
  zeroField (mask = 0 ∨ (mode = 1 ∧ n = 0)) s
    (checked
      ([when (mode ≠ 0 ∧ (n = 65535 ∨ 128 < first + n)) (refuse Status.length 4),
        when (!([0, 2, 4, 6].contains k)) (refuse Status.format 0),
        when (1 < mode) (refuse Status.format 1),
        legal 0x0901 c s] ++ if mode = 1 then computeChecks c k first n pcs s else plainChecks c k pcs s) s
      (let s := if mode = 1 then pcs.foldl (fun s p => s.prepareCompute c k first n p) s
         else pcs.foldl (fun s p => s.seal k p) s
       .later (s.modJournal fun j => { j with modeReplies := j.modeReplies ++ [(f, k, mask)] })))

/-- A pseudo-channel has reached the mode a QUERN.MODE asked for: the reply goes out with the last one. -/
def State.modeReached (s : State) (k p : Nat) : State :=
  s.journal.modeReplies.foldl (fun s e =>
    let (f, k', mask) := e
    if k' = k ∧ bit mask p then
      let left := mask - 2 ^ p
      let rest := if left = 0 then s.journal.modeReplies.filter (· != e)
        else s.journal.modeReplies.map fun x => if x = e then (f, k', left) else x
      let s := s.modJournal fun j => { j with modeReplies := rest }
      if left = 0 then s.conclude f.session.toNat f.number.toNat f.opcode.toNat {} else s
    else s) s

/-- QUERN_COMPUTE_ENTERED (R190): the in-bank mode is set. -/
def execQuernComputeEntered (k : Fin 8) (p : Fin 64) (s : State) : Out :=
  event ((s.pseudo k p).entering && decide ((s.pseudo k p).mode = .plain)) s
    ((s.modPseudo k p fun x => { x with mode := .compute, entering := false }).modeReached k p)

/-- QUERN_SEALED (R191): once the units have finished their chunk and the refreshes are done, the pseudo-channel is PLAIN. -/
def execQuernSealed (k : Fin 8) (p : Fin 64) (s : State) : Out :=
  event (decide ((s.pseudo k p).mode = .sealing) && !(s.pseudo k p).chunkIn) s
    (((s.modPseudo k p fun x => { x with mode := .plain, running := none, postponed := [], resting := false, context := 0, firstSeg := 0,
                                         segCount := 0 }).modeReached k p).endClosings)

end Sys2Proof.Machine
end

