-- ==== Sys2Proof/Machine/Control.lean ====
section
/-! DEFINITION. The control and stream classes of core instructions (R89, R234), block loads and the start and end of a CORE
action (R87). -/

namespace Sys2Proof.Machine

/-! ## Blocks (R85 to R87) -/

/-- The block of an item for a logical core, with its offset. -/
def Plan.blockOf (p : Plan) (item core : Nat) : Option (Nat × List CoreWord) :=
  match sget 0 (p.code.getD item []) core with
  | 0 => none
  | o => some (o, sget [] p.blocks o)

/-- The block that a CORE action of a command runs on a core. -/
def State.actionBlock (s : State) (c : Nat) (m : Cmd) (i core : Nat) : Option Block :=
  match s.plan c m.planId, m.actions[i]? with
  | some p, some a =>
    if a.entry.action = 1 ∧ bit a.entry.units (core / 15) then
      (p.blockOf a.entry.argument core).map fun l =>
        { context := c, csn := m.csn, item := a.entry.argument, action := i, ganged := p.ganged, planId := p.id, offset := l.1,
          instrs := l.2 }
    else none
  | _, _ => none

def Block.isFor (b : Block) (c csn action : Nat) : Bool := b.context == c && b.csn == csn && b.action == action

/-- The bank, if any, that holds the block of an action. -/
def Core.bankOf (x : Core) (c csn action : Nat) : Option Bool :=
  if x.bank0.any (·.isFor c csn action) then some false
  else if x.bank1.any (·.isFor c csn action) then some true
  else none

def Core.freeBank (x : Core) : Option Bool := if x.bank0.isNone then some false else if x.bank1.isNone then some true else none

def Core.setBank (x : Core) (bank : Bool) (b : Option Block) : Core := if bank then { x with bank1 := b } else { x with bank0 := b }

/-- The core's next CORE action: the one that starts first of those booked, not started and not loaded. -/
def State.nextBlock (s : State) (core : Nat) : Option Block :=
  let x := s.core (s.physical core)
  let booked := s.contexts.flatMap fun e => (e.2.stream.cmds.filter fun m => m.phase == .booked && m.stop.isNone).map (e.1, ·)
  let all := booked.flatMap fun (c, m) => m.actions.zipIdx.filterMap fun (a, i) =>
    match s.actionBlock c m i core with
    | some b => if a.phase = .waiting ∧ (x.bankOf c m.csn i).isNone then
        some (m.start + m.rampIn + a.entry.offsets.getD m.band 0, b) else none
    | none => none
  (all.foldl (fun (best : Option (Nat × Block)) e => match best with
    | none => some e
    | some d => if e.1 < d.1 then some e else some d) none).map (·.2)

/-- Puts a block into a free bank, its instructions read from the program area (R87). An error traps the core with ProgramLoad;
while it runs an action of another command, whose promise the error may not change (R93), the block stays unloaded instead
(DESIGN CHOICE, assumption log 19). -/
def State.loadBlock (s : State) (core : Nat) (b : Block) : State :=
  let p := s.physical core
  match (s.core p).freeBank with
  | none => s
  | some bank =>
    let at_ := (((s.core p).programs.find? fun h => h.context == b.context && h.planId == b.planId && h.offset == b.offset).map
      (·.granules)).getD []
    match s.readProgram p at_ with
    | (s, _, some e) =>
      let x := s.core p
      if x.state = .running ∧ ¬ (x.context = b.context ∧ x.csn = b.csn) then s
      else s.trapAs core trapLoad 0 0 b.item b.context b.csn e.address
    | (s, words, none) => s.modCore p fun x =>
        let x := x.setBank bank (some { b with instrs := words })
        if x.state = .idle then { x with state := .preload, context := b.context, csn := b.csn } else x

/-- PROGRAM_BLOCK_LOAD (R87): the block of the core's next CORE action enters a free bank. -/
def execProgramBlockLoad (core : Fin 240) (s : State) : Out :=
  let x := s.core (s.physical core)
  if !([CoreState.idle, .preload, .running].contains x.state) then .next s
  else
    match s.nextBlock core with
    | none => .next s
    | some b => .next (s.loadBlock core b)

/-- A core that is to load a block now has a bank for it: with both taken, a block of a later action leaves its own (DESIGN
CHOICE, assumption log 19). -/
def Core.makeRoom (x : Core) : Core := if x.freeBank.isSome then x else x.setBank (!x.bank) none

/-- The first instruction of a CORE action: a block not loaded in time is loaded now. -/
def State.startCore (s : State) (c : Nat) (m : Cmd) (i core : Nat) : State :=
  match s.actionBlock c m i core with
  | none => s
  | some b =>
    let p := s.physical core
    let s := if ((s.core p).bankOf c m.csn i).isSome then s else (s.modCore p Core.makeRoom).loadBlock core b
    match (s.core p).bankOf c m.csn i with
    | none => s
    | some bank =>
      let work := s.worked
      s.modCore p fun x =>
        { x with state := .running, context := c, csn := m.csn, action := i, startedWork := work, bank := bank, pc := 0,
                 loops := [], wait := .none, halted := false, queues := 0, streamQ := [], openWrites := [] }

/-- The core is done with an action: its bank is free, and it waits for the next block's action. An idle core's
CORE.Status.Context stays that of its last action, which R94 leaves open (DESIGN CHOICE, assumption log 48). -/
def Core.endAction (x : Core) : Core :=
  let x := x.setBank x.bank none
  let x := { x with halted := false, queues := 0, streamQ := [], openWrites := [], loops := [], wait := .none, pc := 0 }
  match x.bank0.orElse fun _ => x.bank1 with
  | none => { x with state := .idle }
  | some b => { x with state := .preload, context := b.context, csn := b.csn }

/-- Whether a core is still at work on an action; a core with a program that has not begun counts. -/
def State.coreBusy (s : State) (c : Nat) (m : Cmd) (i core : Nat) : Bool :=
  let x := s.core (s.physical core)
  (s.actionBlock c m i core).isSome &&
    !(x.state == .running && x.context == c && x.csn == m.csn && x.action == i && x.halted && x.streamQ.isEmpty)

/-! ## Control (R89) -/

def execNop (core : Fin 240) (s : State) : Out := s.decode core 0 0 false fun _ s => s.advance core

/-- Continues at instruction C. -/
def execJump (core : Fin 240) (s : State) : Out :=
  s.decode core 0 1 false fun w s => s.onCore core fun x => { x with pc := wC w }

/-- Repetitions left of the LOOP at the pc, and what it does with them: the instructions from C to this one run Count times
in all. A LOOP that a JUMP has left keeps its count and goes on with it when it is reached again (DESIGN CHOICE, assumption log
19). -/
def Core.loopStep (x : Core) (target count : Nat) : Core :=
  let left := ((x.loops.find? (·.1 == x.pc)).map (·.2)).getD (count - 1)
  let rest := x.loops.filter (·.1 != x.pc)
  if left = 0 then { x with pc := x.pc + 1, loops := rest }
  else { x with pc := target, loops := (x.pc, left - 1) :: rest }

def execLoop (core : Fin 240) (s : State) : Out :=
  s.decode core 0 2 false fun w s => s.onCore core fun x => x.loopStep (wC w) (wCount w)

/-- Unpaused notches since the core's action began (R372). -/
def State.offsetOf (s : State) (core : Nat) : Nat := s.worked - (s.core (s.physical core)).startedWork

def execWaitn (core : Fin 240) (s : State) : Out :=
  s.decode core 0 3 false fun w s =>
    if wC w ≤ s.offsetOf core then s.advance core else s.onCore core fun x => { x with wait := .notch (wC w) }

/-- WAITN_RELEASE (R89): the notch offset has come. -/
def execWaitnRelease (core : Fin 240) (s : State) : Out :=
  match (s.core (s.physical core)).wait with
  | .notch n => event (decide (n ≤ s.offsetOf core)) s (s.advance core)
  | _ => .next s

/-- Waits until the queues are empty. -/
def execFence (core : Fin 240) (s : State) : Out :=
  s.decode core 0 4 true fun _ s =>
    let x := s.core (s.physical core)
    if x.queues = 0 ∧ (x.streamQ.isEmpty : Bool) then s.advance core
    else s.onCore core fun x => { x with wait := .fence }

/-- FENCE_RELEASE (R89, R91): the queues have emptied, and their writes are done. -/
def execFenceRelease (core : Fin 240) (s : State) : Out :=
  let x := s.core (s.physical core)
  match x.wait with
  | .fence => event x.streamQ.isEmpty s ((s.onCore core fun x => x.emptied 3).advance core)
  | _ => .next s

/-- HALT (R87): the program has ended; ACTION_END follows once the queues are empty, the stream queue among them. -/
def execHalt (core : Fin 240) (s : State) : Out :=
  s.decode core 0 5 true fun _ s => s.onCore core fun x => { x with halted := true }

/-! ## The stream class (R234)

SPUT, SWAIT, SSIG and SIDLE go through the stream queue in order; while one waits, the control unit decodes on (R91). -/

/-- How far an instruction of the stream queue has come: done, waiting as `op`, or trapped. -/
inductive Streamed where
  | gone (s : State)
  | waits (s : State) (op : StreamOp)
  | trap (s : State) (cause pc address : Nat)
  deriving DecidableEq, Repr

/-- Enqueues `n` descriptors from core store address `a` into a channel while it has room. -/
def State.putFrom (core pc chan : Nat) : Nat → Nat → State → Streamed
  | 0, _, s => .gone s
  | n + 1, a, s =>
    let x := s.core (s.physical core)
    if 16 ≤ (x.channel chan).queue.length then .waits s (.put pc chan a (n + 1))
    else if localRange a 64 ≠ .store then .trap s trapAddress pc a
    else
      match s.fetchLocal core 2 a 64 with
      | .trap s c b => .trap s c pc b
      | .ok s data =>
        let item := (x.block.map (·.item)).getD 0
        State.putFrom core pc chan n (a + 64)
          (s.putDescriptor core chan { bytes := data, item := item, entry := 0, context := x.context, csn := x.csn, action := x.action })

/-- A barrier counter of a core. -/
def State.barrier (s : State) (core i : Nat) : Nat := (sget 0 (s.core (s.physical core)).barriers i).toNat

/-- Whether every channel of a mask is IDLE. -/
def Core.channelsIdle (x : Core) (mask : Nat) : Bool := (bitsSet mask 16).all fun i => (x.channel i).state == .idle

/-- An instruction at the front of the stream queue; a counter that would pass 2^32 − 1 traps the signalling core (R232). -/
def State.streamOp (s : State) (core : Nat) : StreamOp → Streamed
  | .put pc chan a n => if s.paused then .waits s (.put pc chan a n) else State.putFrom core pc chan n a s
  | .wait i n => if n ≤ s.barrier core i then .gone s else .waits s (.wait i n)
  | .signal pc i n target =>
    if (s.core (s.physical core)).queues ≠ 0 then .waits s (.signal pc i n target)
    else match s.signal target i n with
      | none => .trap s trapCount pc 0
      | some t => .gone t
  | .idle mask => if (s.core (s.physical core)).channelsIdle mask then .gone s else .waits s (.idle mask)

/-- Runs the stream queue from its front as far as it goes. -/
def State.runStreamQ (core : Nat) : List StreamOp → State → State
  | [], s => s.onCore core fun x => { x with streamQ := [] }
  | op :: l, s =>
    match s.streamOp core op with
    | .gone s => State.runStreamQ core l s
    | .waits s op => s.onCore core fun x => { x with streamQ := op :: l }
    | .trap s cause pc address => s.trapAt core cause pc address

/-- A decoded instruction enters the stream queue, and issues at once where nothing is ahead of it. -/
def State.toStream (s : State) (core : Nat) (op : StreamOp) : State :=
  let q := (s.core (s.physical core)).streamQ
  let s := s.advance core
  if q.isEmpty then State.runStreamQ core [op] s else s.onCore core fun x => { x with streamQ := q ++ [op] }

/-- The present program counter of a core. -/
def State.pcOf (s : State) (core : Nat) : Nat := (s.core (s.physical core)).pc

/-- SPUT: channels 8 to 15 only. Where one waits at the front for room, it goes on once its channel has some. -/
def execSput (core : Fin 240) (s : State) : Out :=
  match (s.core (s.physical core)).streamQ with
  | .put pc chan a n :: l =>
    if s.paused ∨ 16 ≤ ((s.core (s.physical core)).channel chan).queue.length then
      s.decode core 3 0 false fun w s =>
        if wB w % 16 < 8 then s.trap core trapUndefined
        else s.toStream core (.put (s.pcOf core) (wB w % 16) (wA w * 64) (wCount w))
    else .next (State.runStreamQ core (.put pc chan a n :: l) s)
  | _ => s.decode core 3 0 false fun w s =>
    if wB w % 16 < 8 then s.trap core trapUndefined
    else s.toStream core (.put (s.pcOf core) (wB w % 16) (wA w * 64) (wCount w))

def execSwait (core : Fin 240) (s : State) : Out :=
  s.decode core 3 1 false fun w s => s.toStream core (.wait (rA w) (wCount w))

/-- SWAIT_RELEASE (R234): the counter has reached its threshold. -/
def execSwaitRelease (core : Fin 240) (s : State) : Out :=
  match (s.core (s.physical core)).streamQ with
  | .wait i n :: l => .next (State.runStreamQ core (.wait i n :: l) s)
  | _ => .next s

/-- SSIG: once the array and vector queues are empty, adds Count to counter A of core C. -/
def execSsig (core : Fin 240) (s : State) : Out :=
  s.decode core 3 2 false fun w s =>
    let x := s.core (s.physical core)
    let target := wC w % 256
    if !(bit (s.quartersOf x.context x.csn) (target / 15) && s.logicalExists target) then s.trap core trapAddress
    else s.toStream core (.signal x.pc (rA w) (wCount w) target)

/-- SSIG_RELEASE (R234): the array and vector queues have emptied. -/
def execSsigRelease (core : Fin 240) (s : State) : Out :=
  match (s.core (s.physical core)).streamQ with
  | .signal pc i n target :: l =>
    .next (State.runStreamQ core (.signal pc i n target :: l) (s.onCore core fun x => x.emptied 3))
  | _ => .next s

def execSidle (core : Fin 240) (s : State) : Out :=
  s.decode core 3 3 false fun w s => s.toStream core (.idle (wA w % 65536))

/-- SIDLE_RELEASE (R234): the named channels are IDLE. -/
def execSidleRelease (core : Fin 240) (s : State) : Out :=
  match (s.core (s.physical core)).streamQ with
  | .idle mask :: l => .next (State.runStreamQ core (.idle mask :: l) s)
  | _ => .next s

end Sys2Proof.Machine
end

