-- ==== Sys2Proof/Machine/MemCommands.lean ====
section
/-! DEFINITION. MEM.READ and MEM.WRITE (R332), MEM.SPLIT (R154 to R156), and the ends of their work. -/

namespace Sys2Proof.Machine

/-- The 64 KiB parts of a range: address and length of each. -/
def pageParts (a n : Nat) : List (Nat × Nat) :=
  (unitsOf 65536 a n).map fun b => (max a b, min (a + n) (65536 + b) - max a b)

/-- Whether a MEM command of a session may name a part of the address space (R141, R312, R332). -/
def State.memReach (s : State) (x : Session) (write : Bool) (a n : Nat) : Bool :=
  match s.place a with
  | .unmapped => false
  | .stack k =>
    if (s.stack k).failed then false
    else if x.management then !s.journal.segments.contains (segmentOf a)
    else s.mappedFor x.context (a / 65536) write
  | .table _ => x.management && !write
  | .scratch _ => x.management || (s.grant x.context).holdsScratch a n

/-- The refusals that depend on state: control rows of a pseudo-channel, a segment being swept. -/
def memState (a n : Nat) (s : State) : List (Option Reply) :=
  [s.windowRefusal a n,
   ((pageParts a n).find? fun e => s.sweeping e.1).map fun e => refuseState 6 (segmentOf e.1) 1 1]

def memChecks (op a n : Nat) (x : Session) (c : Nat) (write : Bool) (s : State) : List (Option Reply) :=
  [when ((pageParts a n).any fun e => !s.memReach x write e.1 e.2) refuseAddress, legal op c s] ++ memState a n s

/-- Queues the transfer: it uses bus time that no admitted work has booked (R317). -/
def State.queueTransfer (s : State) (f : Frame) (write : Bool) (a n : Nat) : State :=
  s.modJournal fun j => { j with transfers := j.transfers ++ [{ frame := f, write := write, address := a, length := n }] }

def bodyMemRead (f : Frame) (x : Session) (s : State) : Handled :=
  let a := le f.payload 0 8
  let n := le f.payload 8 4
  zeroField (n = 0) s
    (checked (when (8192 < n ∨ x.maxPayload - 40 < n) (refuse Status.length 8) :: memChecks 0x0601 a n x x.context false s) s
      (.later (s.queueTransfer f false a n)))

def bodyMemWrite (f : Frame) (x : Session) (s : State) : Handled :=
  let a := le f.payload 0 8
  let n := le f.payload 8 4
  zeroField (n = 0) s
    (checked (when (8192 < n) (refuse Status.length 8) :: memChecks 0x0602 a n x x.context true s) s
      (.later (s.queueTransfer f true a n)))

/-- Performs a transfer (R332): MEM commands fill no cache line, and a write reads first what it covers only in part. -/
def State.transfer (s : State) (t : Transfer) : Handled :=
  let lost (s : State) (b : Nat) : Handled := .reply { status := Status.uncorrectable, notchA := b } s
  if t.write then
    match s.partlyLost {} t.address t.length with
    | (s, some b) => lost s b
    | (s, none) => done (s.writeDevice {} t.address (slice t.frame.payload 16 t.length))
  else
    match s.readDevice {} t.address t.length with
    | (s, _, some b) => lost s b
    | (s, data, none) => done s data

/-- MEM_TRANSFER_DONE (R332): it waits while a Millpond's split is changed, and for a chunk in its bank (R156, R196). -/
def execMemTransferDone (sid n : Nat) (s : State) : Out :=
  match s.journal.transfers.find? fun t => t.frame.session.toNat == sid && t.frame.number.toNat == n with
  | none => .next s
  | some t =>
    if s.accessHeld t.address t.length then .next s
    else
      let s := s.modJournal fun j => { j with transfers := j.transfers.filter (· != t) }
      .next (s.answer sid n t.frame.opcode.toNat (s.transfer t))

/-! ## MEM.SPLIT -/

/-- A grant that the new split of a die would not contain (R155). -/
def State.splitShort (s : State) (d steps : Nat) : Bool :=
  s.anyContext fun x => decide (0 < x.grant.padCount.getD d 0 ∧
    1024 * steps < x.grant.padFirst.getD d 0 + x.grant.padCount.getD d 0) ||
    decide (steps = 16 ∧ x.grant.ways.getD d 0 ≠ 0)

/-- MEM.SPLIT (R154). A die whose split is still in progress is refused with REFUSED.STATE, naming its first segment window (kind
6, object 2 × die, state 1): no rule says what happens then (DESIGN CHOICE, assumption log 50). -/
def bodyMemSplit (f : Frame) (s : State) : Handled :=
  let mask := le f.payload 0 1
  let steps := le f.payload 1 1
  let dies := bitsSet mask 4
  zeroField (mask = 0 ∨ steps = 0) s
    (checked
      [when (15 < mask) (refuse Status.length 0),
       when (16 < steps ∨ (steps = 16 ∧ mask % 4 ≠ 0)) (refuse Status.length 1),
       legalDevice 0x0603 s,
       ((List.range 64).find? fun c => decide (s.ctxState c = .active)).map fun c =>
         refuseState 1 c 3 (maskOf [0, 1, 2, 4, 5]),
       (dies.find? fun d => (s.pond d).resplit.isSome).map fun d => refuseState 6 (2 * d) 1 1,
       when (dies.any fun d => s.splitShort d steps) (refuse Status.capacity)] s
      (.later ((dies.foldl (fun s d => s.modPond d fun t => { t with resplit := some steps }) s).modJournal fun j =>
        { j with splitReplies := j.splitReplies ++ [(f, dies)] })))

/-- MEM_SPLIT_DONE (R156). -/
def execMemSplitDone (d : Fin 4) (s : State) : Out :=
  match (s.pond d).resplit with
  | none => .next s
  | some steps => .next ((s.resplit d steps).splitDone d)

end Sys2Proof.Machine
end

