-- ==== Sys2Proof/Machine/Fabric.lean ====
section
/-! DEFINITION. Addresses, membership, beacons and the route table (R430 to R435), cascades and their forwarded commands
(R436 to R441). -/

namespace Sys2Proof.Machine

/-! ## Addresses (R430) -/

/-- FABRIC.ADDRESS writes module flash; the addresses take effect at S1 of the next start. They are little-endian, as R9 has every
value of a command field; a multicast IPv6 address, whose highest byte is 0xFF, is not unicast. -/
def bodyFabricAddress (f : Frame) (s : State) : Handled :=
  let p := f.payload
  checked
    [when (byteAt p 23 == 0xFF) (refuse Status.format 8), legalDevice 0x0E01 s] s
    (done (s.modFabric fun x =>
      { x with flashIpv4 := BitVec.ofNat 32 (le p 0 4), flashIpv6 := BitVec.ofNat 128 (le p 8 16) }))

/-- ARP_REQUEST: the device answers for its own address only. -/
def execArpRequest (sender : BitVec 32 × Option SecTag) (target : BitVec 32) (s : State) : Out :=
  s.through sender.2 fun s => event (s.dev.portUp && s.fabric.ipv4 != 0 && target == s.fabric.ipv4) s (s.send (.arpReply target))

/-- NEIGHBOR_SOLICITATION for the global or the link-local address. -/
def execNeighborSolicitation (sender : BitVec 128 × Option SecTag) (target : BitVec 128) (s : State) : Out :=
  s.through sender.2 fun s => event (s.dev.portUp && ((s.fabric.ipv6 != 0 && target == s.fabric.ipv6) || target.toNat == s.linkLocal)) s
    (s.send (.neighborAdvertisement target))

/-! ## Routes and election (R434, R435) -/

def Fabric.setRoute (x : Fabric) (a : Nat) (b : Option Beacon) (now : Nat) : Fabric :=
  { x with routes := sput {} x.routes a { beacon := b, heardAt := if b.isSome then now else 0 } }

/-- The address a module claims: the preferred one, else the lowest that no entry of another module holds. -/
def Fabric.elect (x : Fabric) (serial : List Byte) : Option Nat :=
  let free (a : Nat) : Bool := match x.entry a with
    | some b => b.serial == serial
    | none => true
  if x.preferred < 4096 ∧ free x.preferred then some x.preferred else (List.range 4096).find? free

/-! ## Membership (R432) -/

/-- The end of a cascade role: a follower's head is its wheel source no more (R436, R437, R441). -/
def State.endRole (s : State) : State :=
  let following := s.fabric.role = 2
  let s := s.modFabric fun x => { x with role := 0, domain := 0, head := 0xFFFF, headSerial := [], mask := 0 }
  if following then
    let s := s.modWheel fun w => { w with ptpValid := false, transmitter := none }
    let s := s.modSchedule fun x => { x with tentative := [] }
    if s.wheel.source = 3 then s.loseSource else s
  else s

/-- Refuses the copies whose destination check is open and answers `p`. -/
def State.refuseChecks (s : State) (p : List Byte → Bool) : State :=
  (s.fabric.checks.filter fun e => p e.2).foldl (fun s e =>
    (s.modFabric fun x => { x with checks := x.checks.filter (· != e) }).sendReply e.1.session.toNat e.1.number.toNat
      e.1.opcode.toNat refuseAddress) s

/-- Claims an address afresh: tentative for four beacons. With every address held there is none, and the module takes part in no
copy, migration or cascade (R434). -/
def State.claim (s : State) : State :=
  match s.fabric.elect s.dev.serial with
  | some a => s.modFabric fun x => { x with address := a, claim := 0, claimBeacons := 0 }
  | none =>
    ((s.endRole.refuseChecks fun _ => true).modFabric fun x =>
      { x with claim := 2, claimBeacons := 0, address := 0 }).setTroubleBit .port 4

/-- A member that has an address claimed or held takes part in copies, migrations and cascades (R434). -/
def State.takesPart (s : State) : Bool := s.fabric.claim != 2

def bodyFabricJoin (f : Frame) (s : State) : Handled :=
  let p := f.payload
  let id := le p 0 8
  let want := le p 8 2
  let vlan := le p 10 2
  checked
    [when (id = 0 ∨ id = 2 ^ 64 - 1) (refuse Status.format 0),
     when (4096 ≤ want ∧ want ≤ 0xFFFE) (refuse Status.format 8),
     when (4094 < vlan) (refuse Status.format 10),
     legalDevice 0x0E02 s] s
    (let s := s.endRole
     done (s.modFabric fun x => { x with member := true, id := id, preferred := want, vlan := vlan, key := slice p 16 32,
                                         routes := [], lastBeacon := none }).claim)

/-- Leaving a fabric ends membership, any role and the beacons. -/
def State.leaveFabric (s : State) : State :=
  s.endRole.modFabric fun x => { x with member := false, id := 0, preferred := 0xFFFF, vlan := 0, key := [], address := 0,
                                        claim := 2, claimBeacons := 0, routes := [], lastBeacon := none }

def bodyFabricLeave (s : State) : Handled := checked [legalDevice 0x0E03 s] s (done s.leaveFabric)

/-! ## Beacons (R433) -/

/-- The fabric address of the head followed, wherever it now beacons. -/
def State.headAddress (s : State) : Nat :=
  if s.fabric.role = 2 then ((s.fabric.routeOf s.fabric.headSerial).map (·.1)).getD s.fabric.head else 0xFFFF

def State.ownBeacon (s : State) : Beacon :=
  let x := s.fabric
  { fabric := x.id, role := x.role, claim := x.claim, deviceState := s.deviceState.code, address := x.address,
    head := s.headAddress, serial := s.dev.serial, mac := leNat s.mac, vlan := x.vlan, ipv4 := x.ipv4, ipv6 := x.ipv6,
    shape := BitVec.ofNat 32 s.shape, featureLevel := s.dev.level, number := x.beacons }

def beaconPeriod : Nat := 262144

/-- BEACON_SEND (R433, R434): every 262,144 notches, tentative for four beacons and then held; the module's own entry
follows. -/
def execBeaconSend (s : State) : Out :=
  let x := s.fabric
  event (x.member && s.stagePassed 9 && x.lastBeacon.all fun t => decide (t + beaconPeriod ≤ s.uptime)) s
    (let s := s.modFabric fun x =>
       { x with beacons := (x.beacons + 1) % 2 ^ 32, lastBeacon := some s.uptime,
                claim := if x.claim = 0 ∧ 4 ≤ x.claimBeacons then 1 else x.claim, claimBeacons := x.claimBeacons + 1 }
     let b := s.ownBeacon
     let s := if x.claim = 2 then s else s.modFabric fun x => x.setRoute x.address (some b) s.uptime
     s.sendFabric none (.beacon b))

/-- A fabric frame that fails its checks is dropped and counted (R431). -/
def State.dropFabric (s : State) : State := s.modPort fun p => { p with fabricDropped := saturate32 (p.fabricDropped + 1) }

/-- Byte order of serial numbers. -/
def bytesBefore : List Byte → List Byte → Bool
  | [], _ => false
  | _, [] => false
  | a :: x, b :: y => if a = b then bytesBefore x y else decide (a.toNat < b.toNat)

/-- A fabric frame concerns this module: it is a member, and the tag, the fabric identifier and the CRC hold. -/
def State.heeds (s : State) (tagOk : Bool) : Bool := tagOk && s.fabric.member

/-- Routes are cleared after 1,048,576 notches of silence. -/
def routeLife : Nat := 1048576

/-! ## FABRIC.STATUS (R435) -/

def Fabric.statusEntry (x : Fabric) (now a : Nat) : List Byte :=
  match x.entry a with
  | none => zeros 3 ++ leBytes 1 2 ++ zeros 60
  | some b =>
    leBytes 2 b.address ++ leBytes 1 b.role ++ leBytes 1 b.claim ++ leBytes 1 b.deviceState ++ zeros 3 ++
    padTo 16 b.serial ++ leBytes 6 b.mac ++ leBytes 2 b.vlan ++ leBytes 4 b.ipv4.toNat ++ leBytes 16 b.ipv6.toNat ++
    leBytes 4 b.shape.toNat ++ leBytes 2 b.featureLevel ++ zeros 2 ++ leBytes 4 (now - (sget {} x.routes a).heardAt)

/-- A Count of 0 is a zero length: DONE at once with the module's own 16 bytes, and not journaled
(R310; DEDUCED, logs 46 and 45: as R394 answers a length of 0). -/
def bodyFabricStatus (f : Frame) (x : Session) (s : State) : Handled :=
  let first := le f.payload 0 2
  let n := le f.payload 2 2
  let y := s.fabric
  let own := leBytes 2 y.address ++ leBytes 1 y.role ++ leBytes 1 y.claim ++ leBytes 8 y.id ++ zeros 4
  if n = 0 then .reply { zero := true, data := own } s else
  checked
    [when (64 < n ∨ x.maxPayload - 56 < 64 * n) (refuse Status.length 2),
     when (4096 < first + n) (refuse Status.length 2),
     when (4095 < first) (refuse Status.format 0),
     legalDevice 0x0E04 s] s
    (done s (own ++ (List.range' first n).flatMap (y.statusEntry s.uptime)))

/-! ## Roles (R436) -/

/-- A member with a held address. -/
def Fabric.settled (x : Fabric) : Bool := x.member && x.claim == 1

/-- The head that a follower follows has left the route table (R441). -/
def Fabric.headGone (x : Fabric) : Bool := x.role == 2 && (x.routeOf x.headSerial).isNone

def deviceStateRefusal (s : State) : Reply := refuseState 0 0 s.deviceState.code (legalMask 0x0F01)

/-- CASCADE.FORM. A survivor whose head is lost may become head (R441): the role of a follower holds it back no longer. -/
def bodyCascadeForm (f : Frame) (s : State) : Handled :=
  let d := le f.payload 0 1
  checked
    [when (127 < d) (refuse Status.format 0), legalDevice 0x0F01 s,
     when (!s.fabric.settled || s.fabric.role == 2 && !s.fabric.headGone) (deviceStateRefusal s)] s
    (done ((if s.fabric.role = 2 then s.endRole else s).modFabric fun x => { x with role := 1, domain := d }))

/-- Followers of the head at an address, as their beacons count them. -/
def Fabric.followersOf (x : Fabric) (a : Nat) (serial : List Byte) : Nat :=
  (x.routes.filter fun e => e.2.beacon.any fun b => b.role == 2 && b.head == a && b.serial != serial).length

def bodyCascadeFollow (f : Frame) (s : State) : Handled :=
  let p := f.payload
  let a := le p 0 2
  let d := le p 2 1
  let x := s.fabric
  checked
    [when (127 < d) (refuse Status.format 2), legalDevice 0x0F02 s,
     when (!(x.member && x.claim != 2) || x.role == 1 || !((x.entry a).any fun b => b.role == 1) || 15 ≤ x.followersOf a s.dev.serial)
       (deviceStateRefusal s)] s
    (let serial := ((x.entry a).map (·.serial)).getD []
     let s := s.endRole.modFabric fun x =>
       { x with role := 2, domain := d, head := a, headSerial := serial, mask := BitVec.ofNat 64 (le p 8 8) }
     let s := s.modWheel fun w => { w with ptpValid := false, transmitter := none, awaitedFollowUp := none }
     done (if s.wheel.inUse.isSome then s.loseSource else s))

def bodyCascadeLeave (s : State) : Handled := checked [legalDevice 0x0F03 s] s (done s.endRole)

/-! ## Candidates (R439) -/

def State.answerOf (s : State) (m : Forward) (r : Reply) : Answer :=
  { member := s.fabric.address, serial := s.dev.serial, session := m.session, number := m.number, status := r.status, detail := r.detail,
    value := r.value, csn := r.csn, notchA := r.notchA, notchB := r.notchB, state := r.state, allowed := r.allowed, data := r.data }

/-- The reply to an accepted RUN.STEP (R318, R353). -/
def Cmd.acceptance (m : Cmd) (position : Nat) : Reply :=
  if m.opcode ≠ 0x0301 then { status := Status.accepted, csn := m.csn }
  else if m.cls = 2 then { status := Status.queued, value := position, csn := m.csn, data := m.acceptData }
  else
    { status := Status.accepted, value := m.rampIn, csn := m.csn, notchA := m.promise,
      notchB := m.promise - m.duration - m.rampIn, data := m.acceptData }

/-- The command frame that a forwarded RUN.STEP stands for. -/
def forwardFrame (m : Forward) : Frame :=
  { opcode := 0x0301, session := BitVec.ofNat 32 m.session, context := BitVec.ofNat 8 m.context,
    number := BitVec.ofNat 64 m.number, payload := m.params }

def forwardKey (m : Forward) : List Byte × Nat × Nat := (m.headSerial, m.session, m.number)

/-- A candidate runs steps 1 to 7 of R352 and holds the placement for 48 notches. -/
def State.candidate (s : State) (m : Forward) : State × Answer :=
  let q := stepParams m.params
  let c := m.context
  match firstFailing (stepForm c 40 q s ++ stepState c q s ++ [flowCheck c s]) with
  | some r => (s, s.answerOf m r)
  | none =>
    match s.judge c (forwardFrame m) q with
    | .inl r => (s, s.answerOf m r)
    | .inr cmd =>
      let cmd := { cmd with forwarded := some (forwardKey m) }
      let t : Tentative := { id := s.schedule.nextTentative, key := forwardKey m, context := c, cmd := cmd, until_ := s.uptime + 48 }
      (s.modSchedule fun x => { x with tentative := x.tentative.filter (·.key != forwardKey m) ++ [t],
                                       nextTentative := x.nextTentative + 1 },
       s.answerOf m (cmd.acceptance s.fillersWaiting))

/-- Whether the head may place work in a context of this module: on a follower, its mask decides. -/
def State.opens (s : State) (c : Nat) : Bool := s.fabric.role == 1 || s.fabric.mask.getLsbD c

/-- A probe is answered with a promise or a refusal. A follower whose context bit is clear answers ADDRESS, which ends the command:
the mask is the follower's own, and no frame but this answer tells the head of it (R439; assumption log 26). -/
def State.probed (s : State) (m : Forward) : State × Answer :=
  if s.opens m.context then s.candidate m else (s, s.answerOf m refuseAddress)

/-- TENTATIVE_BOOKING_LAPSE. -/
def execTentativeBookingLapse (number : Nat) (s : State) : Out :=
  event (s.schedule.tentative.any fun t => t.id == number && t.until_ ≤ s.uptime) s
    (s.modSchedule fun x => { x with tentative := x.tentative.filter (·.id != number) })

/-- The answer kept for a key (R440). -/
def Fabric.keptFor (x : Fabric) (k : List Byte × Nat × Nat) : Option Answer :=
  (x.kept.find? fun e => e.1 == k.1 && e.2.1 == k.2.1 && e.2.2.1 == k.2.2).map (·.2.2.2)

def State.keepAnswer (s : State) (k : List Byte × Nat × Nat) (a : Answer) : State :=
  s.modFabric fun x => { x with kept := (x.kept ++ [(k.1, k.2.1, k.2.2, a)]).drop (x.kept.length + 1 - 4096) }

/-! ## The head's side (R439, R440) -/

def State.modRun (s : State) (sid n : Nat) (f : CascadeRun → CascadeRun) : State :=
  s.modFabric fun x => { x with
    runs := x.runs.map fun r => if r.frame.session.toNat = sid ∧ r.frame.number.toNat = n then f r else r }

def Fabric.run (x : Fabric) (sid n : Nat) : Option CascadeRun :=
  x.runs.find? fun r => r.frame.session.toNat == sid && r.frame.number.toNat == n

def State.endRun (s : State) (sid n : Nat) (r : Reply) : State :=
  (s.modFabric fun x => { x with
    runs := x.runs.filter fun r => !(r.frame.session.toNat == sid && r.frame.number.toNat == n) }).sendReply sid n 0x0F04 r

def answerReply (a : Answer) (data : List Byte) : Reply :=
  { status := a.status, detail := a.detail, value := a.value, csn := a.csn, notchA := a.notchA, notchB := a.notchB,
    state := a.state, allowed := a.allowed, data := data }

/-- Step 5: the member's reply, with its address after its data. -/
def State.commitAnswered (s : State) (a : Answer) : State :=
  match s.fabric.run a.session a.number with
  | none => s
  | some r =>
    if r.chosen = some a.serial then s.endRun a.session a.number (answerReply a (a.data ++ leBytes 2 a.member ++ zeros 6)) else s

/-- The answer of a forwarded command's journaling, kept and given to its head. -/
def State.answerForward (s : State) (k : List Byte × Nat × Nat) (a : Answer) : State :=
  let s := s.keepAnswer k a
  if k.1 = s.dev.serial then s.commitAnswered a else s.sendFabric (some k.1) (.commitAnswer a)

/-- What a tentative booking does not hold is checked again before the command is journaled: its plan, its sequences and their
lengths (R251, R261). -/
def State.commitChecks (s : State) (m : Forward) (t : Tentative) : List (Option Reply) :=
  let q := stepParams m.params
  stepForm t.context 40 q s ++ stepState t.context q s ++ [flowCheck t.context s] ++
  [when ((s.certOf t.context t.cmd).all fun x => s.longHistory t.context q x t.cmd.band) (refuse Status.length 32)] ++
  admitSequences t.context q s

/-- Step 4: the member journals the command; a booking that has lapsed is admitted afresh. -/
def State.commitLocal (s : State) (m : Forward) : State :=
  match s.fabric.keptFor (forwardKey m) with
  | some a => if m.headSerial = s.dev.serial then s.commitAnswered a else s.sendFabric (some m.headSerial) (.commitAnswer a)
  | none =>
    if s.journal.staging.any fun x => x.cmd.forwarded == some (forwardKey m) then s
    else
      let fresh := s.schedule.tentative.find? (·.key == forwardKey m)
      let (s, a) := if fresh.isSome then (s, s.answerOf m { status := Status.accepted }) else s.probed m
      let t := s.schedule.tentative.find? (·.key == forwardKey m)
      let s := s.modSchedule fun x => { x with tentative := x.tentative.filter (·.key != forwardKey m) }
      match t with
      | none => s.answerForward (forwardKey m) a
      | some t =>
        match firstFailing (s.commitChecks m t) with
        | some r => s.answerForward (forwardKey m) (s.answerOf m r)
        | none => s.stageStep t.context t.cmd m.session m.number true

def State.releaseLocal (s : State) (m : Forward) : State :=
  s.modSchedule fun x => { x with tentative := x.tentative.filter (·.key != forwardKey m) }

/-- The forwarded form of a CASCADE.RUN. -/
def State.forwardOf (s : State) (f : Frame) : Forward :=
  { headSerial := s.dev.serial, headAddress := s.fabric.address, session := f.session.toNat, number := f.number.toNat,
    context := le f.payload 0 1, params := f.payload.drop 40 }

/-- Sends the commit or the release to a candidate, by its serial number. -/
def State.commitTo (s : State) (f : Frame) (member : List Byte) (release : Bool) : State :=
  let m := s.forwardOf f
  if member = s.dev.serial then (if release then s.releaseLocal m else s.commitLocal m)
  else s.sendFabric (some member) (.commit m release)

def answerAccepts (a : Answer) : Bool := a.status == Status.accepted || a.status == Status.queued

/-- The better of two answers: the earlier promise, or for FILLER the smaller position; the lower address on a tie. -/
def answerBefore (a b : Answer) : Bool :=
  let key (x : Answer) : Nat := if x.status = Status.queued then x.value else x.notchA
  decide (key a < key b) || (key a == key b && decide (a.member < b.member))

def bestOf (less : Answer → Answer → Bool) : List Answer → Option Answer
  | [] => none
  | a :: l => match bestOf less l with
    | some b => some (if less b a then b else a)
    | none => some a

/-- Steps 3 and 5 once every candidate has answered. -/
def State.decideRun (s : State) (r : CascadeRun) : State :=
  let sid := r.frame.session.toNat
  let n := r.frame.number.toNat
  let byAddress (a b : Answer) : Bool := decide (a.member < b.member)
  let timed (a b : Answer) : Bool := decide (a.notchA < b.notchA) || (a.notchA == b.notchA && byAddress a b)
  if r.answers.length < r.members.length ∨ r.chosen.isSome then s
  else
    match bestOf answerBefore (r.answers.filter answerAccepts) with
    | some a =>
      let s := s.modRun sid n fun x => { x with chosen := some a.serial, committedAt := s.uptime }
      let s := s.commitTo r.frame a.serial false
      (r.answers.filter fun b => answerAccepts b && b.serial != a.serial).foldl (fun s b => s.commitTo r.frame b.serial true) s
    | none =>
      match bestOf timed (r.answers.filter (·.notchA != 0)) with
      | some a => s.endRun sid n (answerReply a a.data)
      | none =>
        match bestOf byAddress r.answers with
        | some a => s.endRun sid n (answerReply a a.data)
        | none => s

def State.decideFor (s : State) (sid n : Nat) : State :=
  match s.fabric.run sid n with
  | some r => s.decideRun r
  | none => s

/-- A candidate's answer arrives; one whose context bit is clear ends the command with REFUSED.ADDRESS, as R439 has it, and every
other candidate is released. -/
def State.addAnswer (s : State) (a : Answer) : State :=
  match s.fabric.run a.session a.number with
  | none => s
  | some r =>
    if !(r.members.contains a.serial) ∨ (r.answers.any (·.serial == a.serial) : Bool) ∨ r.chosen.isSome then s
    else if a.status = Status.address then
      ((r.members.filter (· != a.serial)).foldl (fun s b => s.commitTo r.frame b true) s).endRun a.session a.number refuseAddress
    else (s.modRun a.session a.number fun r => { r with answers := r.answers ++ [a] }).decideFor a.session a.number

/-- The serial number that a listed address binds to, when it is the head or one of its followers (R435, R439). -/
def State.inCascade (s : State) (a : Nat) : Option (List Byte) :=
  if s.fabric.role ≠ 1 ∨ !s.takesPart then none
  else if a = s.fabric.address then some s.dev.serial
  else (s.fabric.entry a).bind fun b => if b.role = 2 ∧ b.head = s.fabric.address then some b.serial else none

/-- Sends the probe to a candidate, or answers it here. -/
def State.probeTo (s : State) (m : Forward) (serial : List Byte) : State :=
  if serial = s.dev.serial then
    let (s, a) := s.probed m
    s.addAnswer a
  else s.sendFabric (some serial) (.probe m)

def bodyCascadeRun (f : Frame) (s : State) : Handled :=
  let p := f.payload
  let c := le p 0 1
  let n := le p 6 2
  let all := (List.range 16).map fun i => le p (8 + 2 * i) 2
  let listed := (all.take n).eraseDups
  zeroField (n = 0 ∨ le p 76 2 = 0) s
    (checked
      [when (16 < n) (refuse Status.length 6),
       when (63 < c) (refuse Status.format 0),
       ((List.range 16).find? fun i => decide (n ≤ i) && all.getD i 0 != 0).map fun i => refuse Status.format (8 + 2 * i),
       when (listed.any fun a => (s.inCascade a).isNone) refuseAddress,
       legalDevice 0x0F04 s] s
      (let serials := listed.filterMap s.inCascade
       let s := s.modFabric fun x => { x with runs := x.runs ++
         [{ frame := f, members := serials, answers := [], chosen := none, committedAt := 0 }] }
       .later (serials.foldl (State.probeTo · (s.forwardOf f)) s)))

/-! ## Frames between modules -/

/-- PROBE (R439): a follower answers its own head. -/
def execProbe (m : Forward) (s : State) : Out :=
  s.through m.secured fun s => if !s.heeds m.tagOk then .next s.dropFabric
  else event (s.fabric.role == 2 && m.headSerial == s.fabric.headSerial) s
    (let (s, a) := s.probed m
     s.sendFabric (some m.headSerial) (.probeAnswer a))

/-- PROBE_ANSWER. -/
def execProbeAnswer (a : Answer) (s : State) : Out :=
  s.through a.secured fun s => if !s.heeds a.tagOk then .next s.dropFabric else .next (s.addAnswer a)

/-- COMMIT (R439, R440): a commit or a release. -/
def execCommit (m : Forward) (release : Bool) (s : State) : Out :=
  s.through m.secured fun s => if !s.heeds m.tagOk then .next s.dropFabric
  else event (s.fabric.role == 2 && m.headSerial == s.fabric.headSerial) s
    (if release then s.releaseLocal m else s.commitLocal m)

/-- COMMIT_ANSWER. -/
def execCommitAnswer (a : Answer) (s : State) : Out :=
  s.through a.secured fun s => if !s.heeds a.tagOk then .next s.dropFabric else .next (s.commitAnswered a)

/-- COMMIT_RESEND (R440): every 24 notches while the commit is unanswered. -/
def execCommitResend (sid n : Nat) (s : State) : Out :=
  match s.fabric.run sid n with
  | none => .next s
  | some r =>
    match r.chosen with
    | none => .next s
    | some a => event (decide (r.committedAt + 24 ≤ s.uptime)) s
        ((s.modRun sid n fun x => { x with committedAt := s.uptime }).commitTo r.frame a false)

/-! ## A module leaves the route table (R435, R440, R441, R443) -/

/-- CASCADE.RUN commands whose chosen member has gone, or that have no candidate left, end without a reply (R440). -/
def Fabric.forget (x : Fabric) (serial : List Byte) : Fabric :=
  { x with runs := (x.runs.map fun r =>
      if r.chosen.isNone then
        { r with members := r.members.filter fun m => m != serial || r.answers.any (·.serial == m) }
      else r).filter fun r => r.chosen != some serial && !r.members.isEmpty }

/-- The head is lost (R441): the wheel enters HOLDOVER and the tentative bookings lapse. -/
def State.headLost (s : State) : State :=
  let s := s.setTroubleBit .port 5
  let s := s.modWheel fun w => { w with ptpValid := false }
  let s := s.modSchedule fun x => { x with tentative := [] }
  if s.wheel.source = 3 then s.loseSource else s

/-- What follows once no entry of the route table is a module's: its runs, its open destination checks, and a follower's head. -/
def State.gone (s : State) (serial : List Byte) : State :=
  if (s.fabric.routeOf serial).isSome then s
  else
    let pending := s.fabric.runs.map fun r => (r.frame.session.toNat, r.frame.number.toNat)
    let s := s.modFabric fun x => x.forget serial
    let s := (pending.foldl (fun s e => s.decideFor e.1 e.2) s).refuseChecks (· == serial)
    if s.fabric.role = 2 ∧ serial = s.fabric.headSerial then s.headLost else s

/-- Fills a route entry from a beacon; the module whose entry it was may have left the table. -/
def State.fillRoute (s : State) (b : Beacon) : State :=
  let old := (s.fabric.entry b.address).map (·.serial)
  let s := s.modFabric fun x => x.setRoute b.address (some b) s.uptime
  match old with
  | some serial => if serial = b.serial then s else s.gone serial
  | none => s

/-- BEACON_RECEIVED (R434, R435). -/
def execBeaconReceived (b : Beacon) (s : State) : Out :=
  s.through b.secured fun s => if !s.heeds b.tagOk ∨ b.fabric ≠ s.fabric.id then .next s.dropFabric
  else if b.claim = 2 ∨ b.serial = s.dev.serial then .next s
  else if s.fabric.claim = 2 ∨ b.address ≠ s.fabric.address then .next (s.fillRoute b)
  else if bytesBefore s.dev.serial b.serial then .next s
  else .next ((s.fillRoute b).claim.setTroubleBit .port 3)

/-- ROUTE_ENTRY_EXPIRY (R435, R440, R441, R443). -/
def execRouteEntryExpiry (a : Nat) (s : State) : Out :=
  match s.fabric.entry a with
  | none => .next s
  | some b =>
    event (decide ((sget {} s.fabric.routes a).heardAt + routeLife ≤ s.uptime)) s
      ((s.modFabric fun x => x.setRoute a none 0).gone b.serial)

end Sys2Proof.Machine
end

