-- ==== Sys2Proof/Machine/Plans.lean ====
section
/-! DEFINITION. Plan containers (R44 to R54, R85, R86, R209, R235, R266), PLAN.LOAD and PLAN.UNLOAD (R330). -/

namespace Sys2Proof.Machine

/-! ## The section table (R45) -/

structure Section where
  kind : Nat
  entry : Nat
  shape : Nat
  floor : Nat
  off : Nat
  len : Nat
  body : List Byte
  deriving DecidableEq, Repr

def sectionAt (b : List Byte) (t i : Nat) : Section :=
  let e := t + 32 * i
  let off := le b (e + 16) 8
  let n := le b (e + 24) 8
  { kind := le b e 2, entry := le b (e + 2) 2, shape := le b (e + 4) 4, floor := le b (e + 8) 1, off := off, len := n,
    body := if off + n ≤ b.length then slice b off n else [] }

/-- A shape code (R49): the family of the M8 or the M4, and a reserved byte of zero. -/
def shapeCode (x : Nat) : Bool := (x / 2 ^ 24 == 8 || x / 2 ^ 24 == 4) && x % 256 == 0

/-- The header checks of R44; the device's feature level is judged later (R46 step 4). -/
def headerOk (b : List Byte) : Bool :=
  let n := le b 0x20 2
  let t := le b 0x28 8
  decide (128 ≤ b.length) && slice b 0 4 == ascii 4 "VXPL" && le b 4 2 == 1 && le b 6 2 == 128 && le b 8 8 == b.length &&
  shapeCode (le b 0x18 4) && 1 ≤ le b 0x1C 2 && 1 ≤ le b 0x1E 2 && le b 0x1E 2 ≤ 256 &&
  1 ≤ n && n ≤ 4096 && le b 0x22 2 ≤ 1 && allZero b 0x24 4 && allZero b 0x30 76 && 128 ≤ t && t + 32 * n ≤ b.length &&
  (crc32c (b.take 0x7C ++ zeros 4 ++ b.drop 0x80)).toNat == le b 0x7C 4

/-- Whether a section table entry stands alone and beside those before it. A SLOT entry whose entry index is not below the entry
count, whose link floor lies outside 1 to 16 or whose shape is no shape code makes the container invalid: R45 gives these no range
(DESIGN CHOICE, assumption log 48). -/
def sectionOk (b : List Byte) (t entries i : Nat) (before : List Section) (x : Section) : Bool :=
  let e := t + 32 * i
  1 ≤ x.kind && x.kind ≤ 8 && allZero b (e + 9) 7 && decide (x.off + x.len ≤ b.length) &&
  (if x.kind = 1 then decide (x.entry < entries) && 1 ≤ x.floor && x.floor ≤ 16 && shapeCode x.shape
   else x.entry == 0 && x.shape == 0 && x.floor == 0) &&
  before.all fun y => !overlaps x.off x.len y.off y.len &&
    (if x.kind ≤ 2 then x.kind == 2 || !(y.kind == 1 && y.entry == x.entry && y.shape == x.shape && y.floor == x.floor)
     else y.kind != x.kind)

/-! ## Sections -/

/-- The items of a section: count in range, reserved bytes zero. -/
def itemCount (b : List Byte) (top : Nat) : Option Nat :=
  let n := le b 0 4
  if 16 ≤ b.length ∧ (allZero b 4 12 : Bool) ∧ 1 ≤ n ∧ n ≤ top then some n else none

/-- Every element of a list through a checked function. -/
def allSome {α β : Type} (f : α → Option β) : List α → Option (List β)
  | [] => some []
  | a :: l => match f a, allSome f l with
    | some b, some r => some (b :: r)
    | _, _ => none

/-- SLOT (R51): what each action may name as its units. -/
def unitsOk (action units : Nat) : Bool :=
  match action with
  | 3 => units < 256
  | 4 => units < 16
  | 6 => units == 0
  | _ => true

def slotEntry (b : List Byte) : Option SlotEntry :=
  let e : SlotEntry :=
    { action := le b 0 2, units := le b 2 2, argument := le b 4 4, offsets := (List.range 3).map fun j => le b (8 + 4 * j) 4,
      windows := (List.range 3).map fun j => le b (0x14 + 4 * j) 4 }
  if 1 ≤ e.action ∧ e.action ≤ 6 ∧ (unitsOk e.action e.units : Bool) ∧
      ((List.range 3).all fun j => decide (1 ≤ e.windows.getD j 0 ∧ e.offsets.getD j 0 + e.windows.getD j 0 ≤ 2 ^ 32 - 1) : Bool)
  then some e else none

def slotSection (x : Section) : Option SlotTable :=
  let n := x.len / 32
  if x.len % 32 ≠ 0 ∨ n = 0 ∨ 65536 < n then none
  else (allSome slotEntry (chunks 32 n x.body)).map fun l => { entry := x.entry, shape := x.shape, floor := x.floor, actions := l }

/-- CODE (R85): per item the block offsets, and the blocks. -/
def codeSection (b : List Byte) : Option (List (Sparse Nat) × Sparse (List CoreWord)) :=
  match itemCount b 4096 with
  | none => none
  | some n =>
    if b.length < 16 + 960 * n then none
    else
      let item (i : Nat) : Sparse Nat := ((List.range 240).map fun c => (c, le b (16 + 960 * i + 4 * c) 4)).filter (·.2 != 0)
      let items := (List.range n).map item
      let offs := (items.flatMap fun m => m.map (·.2)).eraseDups
      let block (o : Nat) : Option (Nat × List CoreWord) :=
        let k := le b o 4
        if o % 16 = 0 ∧ o + 16 ≤ b.length ∧ 1 ≤ k ∧ k ≤ 4096 ∧ (allZero b (o + 4) 12 : Bool) ∧ o + 16 + 16 * k ≤ b.length then
          some (o, (List.range k).map fun i => BitVec.ofNat 128 (le b (o + 16 + 16 * i) 16))
        else none
      (allSome block offs).map fun l => (items, l.foldl (fun m e => sins m e.1 e.2) [])

/-- STREAM (R235). -/
def streamSection (b : List Byte) : Option (List (Sparse Nat) × Sparse (List (Nat × List Byte))) :=
  match itemCount b 4096 with
  | none => none
  | some n =>
    if b.length < 16 + 960 * n then none
    else
      let item (i : Nat) : Sparse Nat := ((List.range 240).map fun c => (c, le b (16 + 960 * i + 4 * c) 4)).filter (·.2 != 0)
      let items := (List.range n).map item
      let offs := (items.flatMap fun m => m.map (·.2)).eraseDups
      let entry (e : List Byte) : Option (Nat × List Byte) :=
        if le e 0 1 ≤ 7 ∧ (allZero e 1 7 : Bool) ∧ (validStream (slice e 8 64) : Bool) then some (le e 0 1, slice e 8 64) else none
      let group (o : Nat) : Option (Nat × List (Nat × List Byte)) :=
        let k := le b o 4
        if o + 16 ≤ b.length ∧ 1 ≤ k ∧ k ≤ 4096 ∧ (allZero b (o + 4) 12 : Bool) ∧ o + 16 + 72 * k ≤ b.length then
          (allSome entry (chunks 72 k (b.drop (o + 16)))).map fun l => (o, l)
        else none
      (allSome group offs).map fun l => (items, l.foldl (fun m e => sins m e.1 e.2) [])

/-- QUERN (R209). -/
def quernSection (b : List Byte) : Option (List (List (Nat × Nat × List Byte))) :=
  match itemCount b 4096 with
  | none => none
  | some n =>
    if b.length < 16 + 8 * n then none
    else
      let entry (e : List Byte) : Option (Nat × Nat × List Byte) :=
        if ([0, 2, 4, 6].contains (le e 0 1) : Bool) ∧ le e 1 1 ≤ 63 ∧ (allZero e 2 6 : Bool) ∧ (validQuern (slice e 8 64) : Bool)
        then some (le e 0 1, le e 1 1, slice e 8 64) else none
      allSome (fun i =>
        let o := le b (16 + 8 * i) 8
        let k := le b o 4
        if o + 16 ≤ b.length ∧ 1 ≤ k ∧ k ≤ 16384 ∧ (allZero b (o + 4) 12 : Bool) ∧ o + 16 + 72 * k ≤ b.length then
          allSome entry (chunks 72 k (b.drop (o + 16)))
        else none) (List.range n)

/-- SAMPLER (R266). -/
def samplerSection (b : List Byte) : Option (List (List Byte)) :=
  match itemCount b 4096 with
  | none => none
  | some n =>
    if b.length < 16 + 8 * n then none
    else allSome (fun i =>
      let o := le b (16 + 8 * i) 8
      if o + 64 ≤ b.length ∧ (validSampler (slice b o 64) : Bool) then some (slice b o 64) else none) (List.range n)

def Region.occupies (r : Region) (g : Nat) : Nat := if r.kind = 1 then laneBytes g r.length else r.length

/-- A region in the ranges of a grant. -/
def Region.inGrant (r : Region) (g : Grant) (lanes : Nat) : Bool :=
  if r.kind = 2 then within r.base (r.occupies lanes) g.sliceBase g.sliceLength
  else within r.base (r.occupies lanes) g.storeBase g.storeLength

/-- GRANT (R47), with the regions of the context's other loaded plans. A section longer than its regions need is invalid (DESIGN
CHOICE, assumption log 39). -/
def grantSection (b : List Byte) (g : Grant) (lanes : Nat) (others : List Region) : Option Needs :=
  let n := le b 0 4
  let regions := (List.range n).map fun i =>
    ({ kind := le b (48 + 16 * i) 1, base := le b (52 + 16 * i) 4, length := le b (56 + 16 * i) 8 } : Region)
  let m : Needs :=
    { quarters := le b 8 2, store := le b 12 4, slice := le b 16 4, pads := (List.range 4).map fun d => le b (20 + 4 * d) 4,
      ways := (List.range 4).map fun d => le b (36 + d) 1, regions := regions }
  let fixed := 48 ≤ b.length && n ≤ 16 && b.length == 48 + 16 * n && allZero b 4 4 && allZero b 10 2 && allZero b 40 8 &&
    m.store ≤ 4194304 && m.store % 65536 == 0 && m.slice ≤ 48234496 && m.slice % 65536 == 0 &&
    m.pads.all (· ≤ 16384) && m.ways.all (· ≤ 15)
  let formed := (List.range n).all fun i =>
    let r := regions.getD i { kind := 0, base := 0, length := 0 }
    allZero b (49 + 16 * i) 3 && r.kind ≤ 2 && r.base % 64 == 0 && r.length % 64 == 0 && (r.kind != 1 || r.length % 2048 == 0) &&
    r.inGrant g lanes && (regions.take i).all fun q => !overlaps r.base (r.occupies lanes) q.base (q.occupies lanes)
  let agree := regions.all fun r => others.all fun q =>
    r == q || !overlaps r.base (r.occupies lanes) q.base (q.occupies lanes)
  if fixed && formed && agree then some m else none

/-- CONST (R48): the records from an offset on. -/
def constRecords (b : List Byte) : Nat → Nat → Option (List ConstRecord)
  | 0, _ => some []
  | k + 1, o =>
    let sp := le b o 1
    let n := le b (o + 16) 8
    let stop := o + 32 + n
    let next := roundUp stop 64
    let r : ConstRecord := { space := sp, quarters := le b (o + 2) 2, address := le b (o + 8) 8, data := slice b (o + 32) n }
    let ok := decide (o + 32 ≤ b.length ∧ sp ≤ 1 ∧ stop ≤ b.length ∧ n % 64 = 0 ∧ r.address % 64 = 0 ∧
        n ≤ (if sp = 0 then 52428800 else 268435456) ∧ (sp = 0 ∨ r.quarters = 0)) &&
      allZero b (o + 1) 1 && allZero b (o + 4) 4 && allZero b (o + 24) 8 && allZero b stop (next - stop)
    if ok then (constRecords b k next).map (r :: ·) else none

def constSection (b : List Byte) : Option (List ConstRecord) :=
  if 16 ≤ b.length ∧ le b 0 4 ≤ 4096 ∧ (allZero b 4 12 : Bool) then constRecords b (le b 0 4) 16 else none

/-! ## Certificates (R53, R54) -/

def certRecord (b : List Byte) : Cert :=
  { entry := le b 0 2, floor := le b 2 1, shape := le b 4 4, spans := (List.range 3).map fun j => le b (8 + 4 * j) 4,
    durations := (List.range 3).map fun j => le b (0x14 + 4 * j) 4, history := (List.range 3).map fun j => le b (0x20 + 4 * j) 4,
    draw := le b 0x2C 2, quarters := le b 0x30 2, hoppers := le b 0x32 1, shares := le b 0x34 4 }

/-- The footprint fits the shape: every logical core of its quarters exists in it (R18, R51). -/
def quartersFit (shape quarters : Nat) : Bool :=
  (bitsSet quarters 16).all fun q => decide ((q % 4 + 1) * 15 ≤ bits shape 23 16)

def certOk (b : List Byte) (entries : Nat) (tables : List SlotTable) : Bool :=
  let c := certRecord b
  match tables.find? fun t => t.entry == c.entry && t.shape == c.shape && t.floor == c.floor with
  | none => false
  | some t =>
    decide (c.entry < entries) && shapeCode c.shape && 1 ≤ c.floor && c.floor ≤ 16 && allZero b 3 1 && allZero b 0x33 1 && allZero b 0x38 8 &&
    (List.range 3).all (fun j =>
      let w := maxNat (t.actions.map fun a => a.offsets.getD j 0 + a.windows.getD j 0)
      c.spans.getD j 0 == w && c.durations.getD j 0 == ceilDiv (16 * w) 15 && c.history.getD j 0 ≤ 1048576) &&
    decide (c.spans.getD 0 0 ≤ c.spans.getD 1 0 ∧ c.spans.getD 1 0 ≤ c.spans.getD 2 0 ∧
      c.history.getD 1 0 ≤ c.history.getD 0 0 ∧ c.history.getD 2 0 ≤ c.history.getD 1 0) &&
    le b 0x2E 2 == 1517 && c.draw ≤ 2400 && c.hoppers < 16 && quartersFit c.shape c.quarters

/-! ## A whole container -/

/-- The item an action names exists; the stacks of a QUERN item lie in the action's mask (R51, R209). -/
def Plan.argumentsOk (p : Plan) (t : SlotTable) : Bool :=
  t.actions.all fun a =>
    match a.action with
    | 1 => a.argument < p.code.length
    | 2 => a.argument < p.streams.length
    | 3 => a.argument < p.querns.length && (p.querns.getD a.argument []).all fun q => bit a.units q.1
    | 4 => a.argument < p.samplers.length
    | _ => true

/-- The first section whose check fails, by its index. -/
def firstBad (l : List Section) (p : Nat → Section → Bool) : Option Nat :=
  (l.zipIdx.find? fun x => !p x.2 x.1).map (·.2)

def sectionOf (l : List Section) (k : Nat) : Option Section := l.find? (·.kind == k)

/-- What a container must be read against: the grant, the lanes and the regions of the context's other plans. -/
structure Against where
  grant : Grant
  lanes : Nat
  others : List Region
  deriving DecidableEq, Repr

/-- Whether a section's own contents are valid. -/
def contentsOk (g : Against) (x : Section) : Bool :=
  match x.kind with
  | 1 => (slotSection x).isSome
  | 2 => x.len % 64 == 0
  | 3 => (codeSection x.body).isSome
  | 4 => (streamSection x.body).isSome
  | 5 => (quernSection x.body).isSome
  | 6 => (grantSection x.body g.grant g.lanes g.others).isSome
  | 7 => (constSection x.body).isSome
  | _ => (samplerSection x.body).isSome

/-- The plan of a container whose sections are valid. -/
def planOf (b : List Byte) (g : Against) (l : List Section) : Plan :=
  let body (k : Nat) : List Byte := ((sectionOf l k).map (·.body)).getD []
  let code := (codeSection (body 3)).getD ([], [])
  let streams := (streamSection (body 4)).getD ([], [])
  { id := le b 0x10 8, level := le b 0x1C 2, ganged := bit (le b 0x22 2) 0, entries := le b 0x1E 2,
    tables := (l.filter (·.kind == 1)).filterMap slotSection,
    certs := (l.filter (·.kind == 2)).flatMap fun x => (chunks 64 (x.len / 64) x.body).map certRecord,
    code := code.1, blocks := code.2, streams := streams.1, groups := streams.2,
    querns := (quernSection (body 5)).getD [], samplers := (samplerSection (body 8)).getD [],
    needs := (grantSection (body 6) g.grant g.lanes g.others).getD {}, consts := (constSection (body 7)).getD [] }

/-- Certificates numbered before a section (R45). -/
def certsBefore (l : List Section) (i : Nat) : Nat := sumNat (((l.take i).filter (·.kind == 2)).map fun x => x.len / 64)

/-- R46 step 1: the plan, or the index of the failing section (0xFFFF for the header or the table as a whole). An entry of the
section table that is itself invalid counts as a failure of that section (DEDUCED, assumption log 39). -/
def parsePlan (b : List Byte) (g : Against) : Nat ⊕ Plan :=
  if !headerOk b then .inl 0xFFFF
  else
    let t := le b 0x28 8
    let entries := le b 0x1E 2
    let l := (List.range (le b 0x20 2)).map (sectionAt b t)
    match firstBad l fun i x => sectionOk b t entries i (l.take i) x with
    | some i => .inl i
    | none =>
      match firstBad l fun _ x => contentsOk g x with
      | some i => .inl i
      | none =>
        let p := planOf b g l
        match firstBad l fun i x =>
            if x.kind = 1 then (slotSection x).all p.argumentsOk
            else if x.kind = 2 then certsBefore l i + x.len / 64 ≤ 1024 &&
              (chunks 64 (x.len / 64) x.body).all fun r => certOk r entries p.tables
            else true with
        | some i => .inl i
        | none => .inr p

/-! ## PLAN.LOAD -/

/-- Bytes of a plan's blocks in the program area of a logical core; a block shared by items is held once (R86). A block counts
16 bytes for each instruction, without its header (DEDUCED, assumption log 39). -/
def Plan.programBytes (p : Plan) (c : Nat) : Nat :=
  sumNat ((((p.code.map fun m => sget 0 m c).filter (· != 0)).eraseDups).map fun o => 16 * (sget [] p.blocks o).length)

/-- The plans of all contexts, those on their way through the journal or still loading included. -/
def State.plansHeld (s : State) : List Plan :=
  (s.contexts.flatMap fun e => e.2.plans ++ (e.2.stream.cmds.filter (·.phase != .completed)).filterMap (·.plan)) ++
  s.journal.staging.filterMap (·.cmd.plan)

/-- A CONST record outside the grant (R48): core-local ranges of its quarters, pages mapped with Use 0, scratchpad pages. -/
def State.constOutside (s : State) (c : Nat) (r : ConstRecord) : Bool :=
  let g := s.grant c
  let n := r.data.length
  if n = 0 then false
  else if r.space = 0 then
    !(r.quarters &&& g.quarters == r.quarters &&
      (within r.address n g.storeBase g.storeLength || within r.address n g.sliceBase g.sliceLength))
  else if isExternal r.address then
    (pagesOf r.address n).any fun q => !(decide ((s.page q).mapped ∧ (s.page q).context = c ∧ (s.page q).use = 0))
  else !g.holdsScratch r.address n
where
  pagesOf (a n : Nat) : List Nat := (unitsOf 65536 a n).map (· / 65536)

/-- A container's bytes lie in the context's grant (R330). -/
def State.planOutside (s : State) (c a n : Nat) : Bool :=
  (s.firstUnmapped a n).isSome || s.inFailedStack a n || (s.firstForeign c a n false).isSome

/-- GRANT needs beyond the grant (R47). -/
def Needs.exceeds (m : Needs) (g : Grant) : Bool :=
  m.quarters &&& g.quarters != m.quarters || decide (g.storeLength < m.store ∨ g.sliceLength < m.slice) ||
  (List.range 4).any fun d => decide (g.padCount.getD d 0 < m.pads.getD d 0) ||
    decide ((bitsSet (g.ways.getD d 0) 16).length < m.ways.getD d 0)

/-- Loaded plans of a context, with those still being loaded. -/
def State.planCount (s : State) (c : Nat) : Nat :=
  (s.context c).plans.length + ((s.stream c).cmds.filter fun m => m.phase != .completed && m.plan.isSome).length +
  (s.journal.staging.filter fun x => x.stream == c && x.cmd.plan.isSome).length

def State.planKnown (s : State) (c id : Nat) : Bool :=
  (s.plan c id).isSome || ((s.stream c).cmds.any fun m => m.phase != .completed && m.plan.any (·.id == id)) ||
  s.journal.staging.any fun x => x.stream == c && x.cmd.plan.any (·.id == id)

/-- Steps 2 to 5 of R46. Constants do not reach the command and result windows of in-bank compute (R195). -/
def planChecks (c : Nat) (p : Plan) (s : State) : List (Option Reply) :=
  let held := s.plansHeld
  [when (p.consts.any (s.constOutside c)) refuseAddress,
   legal 0x0201 c s,
   p.consts.findSome? fun r => if r.space = 0 then none else s.windowRefusal r.address r.data.length,
   when (s.planKnown c p.id) (refuseState 8 (p.id % 2 ^ 32) 1 1),
   when (s.dev.level < p.level) (refuse Status.shape),
   when (32 ≤ s.planCount c) (refuse Status.capacity),
   when (p.needs.exceeds (s.grant c)) (refuse Status.capacity),
   when ((List.range 240).any fun k => s.logicalExists k && decide (0 < p.programBytes k) &&
     decide (2 ^ 21 < p.programBytes k + sumNat (held.map fun q => q.programBytes k))) (refuse Status.capacity),
   flowCheck c s]

def State.against (s : State) (c : Nat) : Against :=
  { grant := s.grant c, lanes := s.dev.lanes, others := (s.context c).plans.flatMap (·.needs.regions) }

/-- The container of a PLAN.LOAD is read, checked and accepted (R46). -/
def readPlan (f : Frame) (c a n : Nat) (s : State) : Handled :=
  match s.readDevice {} a n with
  | (s, _, some b) => .reply { status := Status.uncorrectable, notchA := b } s
  | (s, data, none) =>
    if le data 8 8 ≠ n then .reply (refuse Status.format 0xFFFF) s
    else
      match parsePlan data (s.against c) with
      | .inl i => .reply (refuse Status.format i) s
      | .inr p => checked (planChecks c p s) s
        (.later (s.stage
          { stream := c, session := f.session.toNat, number := f.number.toNat, answer := true,
            cmd := { opcode := 0x0201, frame := f, plan := some p, address := a, count := n, acceptedAt := s.now } }))

/-- A command waits to read its operand. -/
def State.awaitRead (s : State) (f : Frame) : State := s.modJournal fun j => { j with readWaits := j.readWaits ++ [f] }

/-- PLAN.LOAD (R46, R330): every check before the journal; the container is read through the context's ways. The command waits while
a bank or a Millpond that holds the container is held (R156, R196). -/
def bodyPlanLoad (f : Frame) (c : Nat) (s : State) : Handled :=
  let a := le f.payload 0 8
  let n := le f.payload 8 8
  zeroField (n = 0) s
    (checked
      [when (268435456 < n) (refuse Status.length 8), when (a % 64 ≠ 0) (refuse Status.format 0),
       when (s.planOutside c a n) refuseAddress, s.windowRefusal a n] s
      (if s.accessHeld a n then .later (s.awaitRead f) else readPlan f c a n s))

/-- The places that core-local constants are written to: every core of their quarters, in section order (R48). -/
def State.constPlaces (s : State) (p : Plan) : List (Nat × Nat × Nat) :=
  (p.consts.filter fun r => r.space == 0 && !r.data.isEmpty).flatMap fun r =>
    ((quarterCores r.quarters).filter s.logicalExists).map fun k => (k, r.address, r.data.length)

/-- The first lost granule or block that a constant would cover only in part, with its core, 0xFFFF in device memory: nothing is
written (R131, R171). -/
def State.constsLost (s : State) (p : Plan) : State × Option (Nat × Nat) :=
  match s.firstLocalLost (s.constPlaces p) with
  | (s, some e) => (s, some e)
  | (s, none) => (p.consts.filter fun r => r.space != 0 && !r.data.isEmpty).foldl (fun (s, bad) r =>
      let (s, b) := s.partlyLost {} r.address r.data.length
      (s, bad.orElse fun _ => b.map (0xFFFF, ·))) (s, none)

/-- Writes a plan's constants (R48). -/
def State.writeConsts (s : State) (p : Plan) : State :=
  p.consts.foldl (fun s r =>
    if r.data.isEmpty then s
    else if r.space = 0 then
      ((quarterCores r.quarters).filter s.logicalExists).foldl (fun s c => s.writeLocal (s.physical c) r.address r.data) s
    else s.writeDevice {} r.address r.data) s

/-- The end of a PLAN.LOAD: constants written, blocks copied, the plan loaded (R65, R86, R330). -/
def State.loadPlan (s : State) (c : Nat) (p : Plan) : State :=
  let s := ((List.range 240).filter s.logicalExists).foldl (fun s k => s.placeBlocks c p k) (s.writeConsts p)
  s.modContext c fun x => { x with plans := x.plans ++ [p] }

/-- Whether an uncompleted command names a plan, or one on its way to the journal. -/
def State.planInUse (s : State) (c id : Nat) : Bool :=
  ((s.stream c).cmds.any fun m => m.phase != .completed && m.opcode == 0x0301 && m.planId == id) ||
  s.journal.staging.any fun x => x.stream == c && x.cmd.opcode == 0x0301 && x.cmd.planId == id

/-- PLAN.UNLOAD (R330). -/
def bodyPlanUnload (f : Frame) (c : Nat) (s : State) : Handled :=
  let id := le f.payload 0 8
  checked
    [legal 0x0202 c s,
     when (s.plan c id).isNone (refuseState 8 (id % 2 ^ 32) 0 (maskOf [1])),
     when (s.planInUse c id) (refuseState 8 (id % 2 ^ 32) 2 (maskOf [1]))] s
    (done (s.modContext c fun x => { x with plans := x.plans.filter (·.id != id) }))

end Sys2Proof.Machine
end

