-- ==== Sys2Proof/Machine/Image.lean ====
section
/-! DEFINITION. Context images (R95 to R98), CTX.SAVE and CTX.RESTORE (R329). -/

namespace Sys2Proof.Machine

/-! ## The layout of a save -/

/-- The regions that the loaded plans of a context declare for a logical core, each once (R47, R329). -/
def State.declared (s : State) (c core : Nat) : List Region :=
  (((s.context c).plans.filter fun p => bit p.needs.quarters (core / 15)).flatMap (·.needs.regions)).eraseDups.filter
    fun r => 0 < r.length

/-- What a list of occupied ranges leaves of [a, z), in ascending order. -/
def gapsOf : List (Nat × Nat) → Nat → Nat → List (Nat × Nat)
  | [], a, z => if a < z then [(a, z - a)] else []
  | (b, n) :: r, a, z => (if a < b then [(a, b - a)] else []) ++ gapsOf r (max a (b + n)) z

def byBase (l : List Region) : List Region := l.mergeSort fun a b => a.base ≤ b.base

/-- The regions of a core's record: declared ones, and the rest of the grant as BYTE and SLICE regions. -/
def State.imageRegions (s : State) (c core : Nat) : List Region :=
  let g := s.grant c
  let d := byBase (s.declared c core)
  let taken (k : Bool) : List (Nat × Nat) := (d.filter fun r => (r.kind == 2) == k).map fun r => (r.base, r.occupies s.dev.lanes)
  let rest (kind base len : Nat) : List Region :=
    (gapsOf (taken (kind == 2)) base (base + len)).map fun x => { kind := kind, base := x.1, length := x.2 }
  byBase (d ++ rest 0 g.storeBase g.storeLength ++ rest 2 g.sliceBase g.sliceLength)

/-- The core-local ranges of a region in canonical order (R97). -/
def Region.parts (r : Region) (g : Nat) : List (Nat × Nat) :=
  if r.kind = 1 then
    let p := lanePasses g
    (List.range (r.length / 2048)).flatMap fun v => (List.range 16).map fun s =>
      (r.base + ((v * p + s / g) * g + s % g) * 128, 128)
  else [(r.base, r.length)]

/-- Reads a region of a physical core in canonical order; the first error ends the read. -/
def State.readRegion (s : State) (p : Nat) (r : Region) : State × List Byte × Option LocalFault :=
  (r.parts s.dev.lanes).foldl (fun (s, l, bad) (x, n) =>
    match bad with
    | some _ => (s, l, bad)
    | none => let (s, d, e) := s.readLocal p x n
              (s, l ++ d, e)) (s, [], none)

def Region.head (r : Region) : List Byte := leBytes 1 r.kind ++ zeros 3 ++ leBytes 4 r.base ++ leBytes 8 r.length

/-- The length of a core record (R96). -/
def recordLength (l : List Region) : Nat := 16 + 16 * l.length + sumNat (l.map (·.length))

def State.imageLength (s : State) (c : Nat) : Nat :=
  64 + sumNat ((s.grantCores c).map fun k => recordLength (s.imageRegions c k))

/-- The core record of a logical core. -/
def State.coreRecord (s : State) (c k : Nat) : State × List Byte × Option (Nat × LocalFault) :=
  let l := s.imageRegions c k
  let head := leBytes 2 k ++ leBytes 2 l.length ++ zeros 4 ++ leBytes 8 (recordLength l) ++ l.flatMap Region.head
  l.foldl (fun (s, b, bad) r =>
    match bad with
    | some _ => (s, b, bad)
    | none => let (s, d, e) := s.readRegion (s.physical k) r
              (s, b ++ d, e.map (k, ·))) (s, head, none)

/-- The image header with its CRC field zero (R95). -/
def State.imageHeader (s : State) (len records : Nat) : List Byte :=
  ascii 4 "VXCX" ++ leBytes 2 1 ++ leBytes 2 64 ++ leBytes 8 len ++ leBytes 4 s.shape ++ leBytes 2 records ++ zeros 2 ++
  leBytes 8 s.now ++ zeros 32

def withCrc (b : List Byte) : List Byte := b.take 0x3C ++ leBytes 4 (crc32c b).toNat ++ b.drop 64

/-- The image of a context, or the first damaged place read for it. -/
def State.image (s : State) (c : Nat) : State × List Byte × Option (Nat × LocalFault) :=
  let cores := s.grantCores c
  let (s, b, bad) := cores.foldl (fun (s, b, bad) k =>
    match bad with
    | some _ => (s, b, bad)
    | none => let (s, d, e) := s.coreRecord c k
              (s, b ++ d, e)) (s, [], none)
  (s, withCrc (s.imageHeader (64 + b.length) cores.length ++ b), bad)

/-- CTX.SAVE (R329): a core with more than 16 regions has no image (assumption log 13). -/
def bodyCtxSave (f : Frame) (c : Nat) (s : State) : Handled :=
  let a := le f.payload 0 8
  let room := le f.payload 8 8
  let n := s.imageLength c
  zeroField (room = 0) s
    (checked
      [when (room = 2 ^ 64 - 1 ∨ room < n) (refuse Status.length 8),
       when (a % 64 ≠ 0) (refuse Status.format 0),
       when ((s.firstUnmapped a n).isSome || s.inFailedStack a n || (s.firstForeign c a n true).isSome) refuseAddress,
       legal 0x0504 c s, s.windowRefusal a n,
       when ((s.grantCores c).any fun k => decide (16 < (s.imageRegions c k).length)) (refuse Status.capacity),
       flowCheck c s] s
      (.later (s.stage
        { stream := c, session := f.session.toNat, number := f.number.toNat, answer := true,
          cmd := { opcode := 0x0504, frame := f, address := a, count := room, acceptedAt := s.now } })))

/-! ## Reading an image -/

structure CoreRecord where
  core : Nat
  regions : List (Region × List Byte)
  deriving DecidableEq, Repr

/-- The regions of a record, whose data lies from offset `o` on. -/
def regionsAt (b : List Byte) : List Region → Nat → List (Region × List Byte)
  | [], _ => []
  | r :: l, o => (r, slice b o r.length) :: regionsAt b l (o + r.length)

/-- The core records from an offset on; `none` when one is malformed. -/
def coreRecords (b : List Byte) : Nat → Nat → Option (List CoreRecord)
  | 0, o => if o = b.length then some [] else none
  | k + 1, o =>
    let n := le b (o + 2) 2
    let l := (List.range n).map fun i =>
      ({ kind := le b (o + 16 + 16 * i) 1, base := le b (o + 20 + 16 * i) 4, length := le b (o + 24 + 16 * i) 8 } : Region)
    let len := le b (o + 8) 8
    let ok := decide (o + 16 + 16 * n ≤ b.length ∧ n ≤ 16 ∧ len = recordLength l ∧ o + len ≤ b.length) && allZero b (o + 4) 4 &&
      (List.range n).all (fun i => allZero b (o + 17 + 16 * i) 3) && l.all fun r => r.kind ≤ 2 && (r.kind != 1 || r.length % 2048 == 0)
    if ok then (coreRecords b k (o + len)).map ({ core := le b o 2, regions := regionsAt b l (o + 16 + 16 * n) } :: ·) else none

/-- The records of a valid image: header, CRC and records (R95, R96). -/
def imageRecords (b : List Byte) : Option (List CoreRecord) :=
  if 64 ≤ b.length ∧ slice b 0 4 = ascii 4 "VXCX" ∧ le b 4 2 = 1 ∧ le b 6 2 = 64 ∧ le b 8 8 = b.length ∧
      (shapeCode (le b 0x10 4) : Bool) ∧ le b 0x14 2 ≤ 240 ∧ (allZero b 0x16 2 : Bool) ∧ (allZero b 0x20 28 : Bool) ∧
      (crc32c (b.take 0x3C ++ zeros 4 ++ b.drop 64)).toNat = le b 0x3C 4 then
    coreRecords b (le b 0x14 2) 64
  else none

/-- Whether a record's regions can be placed on its core: none overlaps another, none leaves the grant (R98). -/
def State.recordFits (s : State) (c : Nat) (r : CoreRecord) : Bool :=
  let g := s.grant c
  let l := r.regions.map (·.1)
  (s.grantCores c).contains r.core && l.all (fun x => x.inGrant g s.dev.lanes && (x.kind == 2 || x.base + x.occupies s.dev.lanes ≤ 2 ^ 22)) &&
  (l.zipIdx.all fun x => (l.take x.2).all fun y =>
    !overlaps x.1.base (x.1.occupies s.dev.lanes) y.base (y.occupies s.dev.lanes))

def restoreChecks (c : Nat) (l : List CoreRecord) (s : State) : List (Option Reply) :=
  [legal 0x0505 c s,
   when (l.any fun r => !s.logicalExists r.core) (refuse Status.shape),
   when (l.any fun r => !s.recordFits c r) (refuse Status.capacity),
   flowCheck c s]

def imageLimit : Nat := 12582977344

/-- The image of a CTX.RESTORE is read, checked and accepted. -/
def readImage (f : Frame) (c a n : Nat) (s : State) : Handled :=
  match s.readDevice {} a n with
  | (s, _, some b) => .reply { status := Status.uncorrectable, notchA := b } s
  | (s, data, none) =>
    match imageRecords data with
    | none => .reply (refuse Status.format 0) s
    | some l => checked (restoreChecks c l s) s
      (.later (s.stage
        { stream := c, session := f.session.toNat, number := f.number.toNat, answer := true,
          cmd := { opcode := 0x0505, frame := f, address := a, count := n, acceptedAt := s.now } }))

/-- CTX.RESTORE (R98, R329). Like PLAN.LOAD it waits while a bank or a Millpond that holds its source is held (R156, R196). -/
def bodyCtxRestore (f : Frame) (c : Nat) (s : State) : Handled :=
  let a := le f.payload 0 8
  let n := le f.payload 8 8
  zeroField (n = 0) s
    (checked
      [when (n < 64 ∨ imageLimit < n) (refuse Status.length 8), when (a % 64 ≠ 0) (refuse Status.format 0),
       when (s.planOutside c a n) refuseAddress, s.windowRefusal a n] s
      (if s.accessHeld a n then .later (s.awaitRead f) else readImage f c a n s))

/-- The commands that wait to read their operand are taken up again, in their order: one whose operand is still held waits on. -/
def State.retryReads (s : State) : State :=
  s.journal.readWaits.foldl (fun s f =>
    let c := f.context.toNat
    s.answer f.session.toNat f.number.toNat f.opcode.toNat
      (if f.opcode = 0x0201 then bodyPlanLoad f c s else bodyCtxRestore f c s))
    (s.modJournal fun j => { j with readWaits := [] })

/-- Writes one region in the layout of the present lane groups. -/
def State.writeRegion (s : State) (p : Nat) (r : Region) (data : List Byte) : State :=
  ((r.parts s.dev.lanes).foldl (fun (s, o) (x, n) => (State.writeLocal s p x (slice data o n), o + n)) (s, 0)).1

/-- Places the records of an image on the logical cores of the same numbers. -/
def State.applyImage (s : State) (l : List CoreRecord) : State :=
  l.foldl (fun s r => r.regions.foldl (fun s x => s.writeRegion (s.physical r.core) x.1 x.2) s) s

/-- The work of CTX.SAVE: the state, the image length, and the damaged core and address if one was met, core 0xFFFF for a block of
the destination that the image covers only in part (R171). -/
def State.saveImage (s : State) (c a : Nat) : State × Nat × Option (Nat × Nat) :=
  let (s, b, bad) := s.image c
  match bad with
  | some (k, e) => (s, 0, some (k, e.address))
  | none =>
    match s.partlyLost {} a b.length with
    | (s, some x) => (s, 0, some (0xFFFF, x))
    | (s, none) => (s.writeDevice {} a b, b.length, none)

/-- The places that an image is written to: logical core, address, length. -/
def State.imagePlaces (s : State) (l : List CoreRecord) : List (Nat × Nat × Nat) :=
  l.flatMap fun r => r.regions.flatMap fun x => (x.1.parts s.dev.lanes).map fun e => (r.core, e.1, e.2)

/-- The work of CTX.RESTORE: its source is read again (R404). The core, 0xFFFF for the source, and the address of lost data met: a
granule of a slice that the image covers only in part is not written (R131). -/
def State.restoreImage (s : State) (a n : Nat) : State × Option (Nat × Nat) :=
  match s.readDevice {} a n with
  | (s, _, some b) => (s, some (0xFFFF, b))
  | (s, data, none) =>
    let l := (imageRecords data).getD []
    match s.firstLocalLost (s.imagePlaces l) with
    | (s, some e) => (s, some e)
    | (s, none) => (s.applyImage l, none)

end Sys2Proof.Machine
end

