-- ==== Sys2Proof/Machine/Copy.lean ====
section
/-! DEFINITION. FABRIC.COPY and FABRIC.MIGRATE (R442 to R444): the destination check and its pin, the units that are
sent in pieces of 8,192 bytes, their acknowledgement, and the end of the copy.

The manual gives the opcodes of these frames and not their fields: the fields are this model's (assumption log 14). A
unit is named by the number `kind × 2^60 + place`: kind 0 a page at a device address, 1 the context image, 2 a
sequence record, 3 a page of a list, 4 a row of a Quern window. -/

namespace Sys2Proof.Machine

def pageBytes : Nat := 65536

/-! ## The span of a copy -/

/-- Which pages of a span are carved here, one bit each. -/
def State.carveMap (s : State) (a n : Nat) : List Byte :=
  (List.range (ceilDiv (n / pageBytes) 8)).map fun i =>
    BitVec.ofNat 8 (maskOf ((List.range 8).filter fun j =>
      pageBytes * (8 * i + j) < n && isExternal a && s.carved (a + pageBytes * (8 * i + j))))

def mapBit (l : List Byte) (i : Nat) : Bool := (byteAt l (i / 8)).getLsbD (i % 8)

/-- The first page of the source span that is neither carved, nor mapped for the context, nor in its scratchpad grant. -/
def State.copyForeign (s : State) (c a n : Nat) : Bool :=
  (List.range (n / pageBytes)).any fun i =>
    let x := a + pageBytes * i
    !(isExternal x && s.carved x) && (s.place x == .unmapped || s.inFailedStack x pageBytes ||
      (s.firstForeign c x pageBytes false).isSome)

/-! ## FABRIC.COPY and FABRIC.MIGRATE -/

/-- The held route entry of a peer. A module that is no member, or found no address, takes part in no copy (R434). -/
def State.heldPeer (s : State) (a : Nat) : Option Beacon :=
  if s.fabric.member && s.takesPart then (s.fabric.entry a).bind fun b => if b.claim = 1 then some b else none else none

/-- The number under which the check of a command that is not accepted yet is named. -/
def checkTag (f : Frame) : Nat := 2 ^ 64 * f.session.toNat + f.number.toNat

/-- Asks the peer, and waits for its answer. -/
def State.askPeer (s : State) (f : Frame) (serial : List Byte) (m : CopyMsg) : Handled :=
  .later ((s.modFabric fun x => { x with checks := x.checks ++ [(f, serial)] }).sendFabric (some serial) (.check m))

def bodyFabricCopy (f : Frame) (c : Nat) (s : State) : Handled :=
  let p := f.payload
  let peer := le p 0 2
  let ctx := le p 2 1
  let src := le p 8 8
  let dst := le p 16 8
  let n := le p 24 8
  zeroField (n = 0) s
    (checked
      [when (2 ^ 40 < n) (refuse Status.length 24),
       when (4095 < peer) (refuse Status.format 0), when (63 < ctx) (refuse Status.format 2),
       when (src % pageBytes ≠ 0) (refuse Status.format 8), when (dst % pageBytes ≠ 0) (refuse Status.format 16),
       when (n % pageBytes ≠ 0) (refuse Status.format 24),
       when ((s.heldPeer peer).isNone || s.copyForeign c src n) refuseAddress,
       legal 0x0E05 c s, s.windowRefusal src n, flowCheck c s] s
      (s.askPeer f (((s.heldPeer peer).map (·.serial)).getD [])
        { sourceSerial := s.dev.serial, context := ctx, csn := checkTag f, migrate := false, destination := dst, length := n,
          data := s.carveMap src n }))

/-- Every field of a grant (R328), as bytes. -/
def Grant.bytes (g : Grant) : List Byte :=
  leBytes 2 g.quarters ++ leBytes 4 g.storeBase ++ leBytes 4 g.storeLength ++ leBytes 4 g.sliceBase ++
  leBytes 4 g.sliceLength ++ g.ways.flatMap (leBytes 2) ++ g.padFirst.flatMap (leBytes 4) ++ g.padCount.flatMap (leBytes 4) ++
  g.runs.flatMap (fun r => leBytes 2 r.1 ++ leBytes 2 r.2) ++ leBytes 8 g.runBlock

/-- The Quern windows of a context in COMPUTE, as bytes. -/
def State.windowBytes (s : State) (c : Nat) : List Byte :=
  (s.windowsOf c).flatMap fun w =>
    let x := s.pseudo w.1 w.2
    leBytes 1 w.1 ++ leBytes 1 w.2 ++ leBytes 1 x.mode.code ++ leBytes 2 x.firstSeg ++ leBytes 2 x.segCount

/-- The refusal of a migration of which some page lies in a command or result window (R195, assumption log 42). -/
def State.migrateWindow (s : State) (c : Nat) : Option Reply :=
  (s.pages.filter fun e => e.2.mapped && e.2.context == c).findSome? fun e => s.windowRefusal (pageBytes * e.1) pageBytes

def bodyFabricMigrate (f : Frame) (c : Nat) (s : State) : Handled :=
  let peer := le f.payload 0 2
  checked
    [when (4095 < peer) (refuse Status.format 0),
     when (s.heldPeer peer).isNone refuseAddress,
     legal 0x0E06 c s, s.migrateWindow c, flowCheck c s] s
    (s.askPeer f (((s.heldPeer peer).map (·.serial)).getD [])
      { sourceSerial := s.dev.serial, context := c, csn := checkTag f, migrate := true, destination := 2 ^ 60, length := 1,
        data := (s.grant c).bytes ++ s.windowBytes c })

/-! ## The units of a copy -/

/-- The 256-byte parts of a row over all its banks. -/
def rowParts (k p r : Nat) : List Nat := (List.range 256).map fun i => rowAddress k p r (i / 4) (i % 4 * 256)

def unitTag (kind place : Nat) : Nat := 2 ^ 60 * kind + place

/-- The pages of a context mapped by PAGE.MAP. -/
def State.plainPages (s : State) (c : Nat) : List Nat :=
  (s.pages.filter fun e => e.2.mapped && e.2.context == c && e.2.use == 0).map (·.1)

/-- The place in a slot's list of its `n`-th page, counted group by group: both modules count so, each with its own stride (R444). -/
def SeqSlot.placeOf (r : SeqSlot) (stride n : Nat) : Nat := n % r.lanes * (stride / r.lanes) + n / r.lanes

/-- What a migration moves, in order (R444). -/
def State.migrationUnits (s : State) (c : Nat) : List Nat :=
  let x := s.context c
  [unitTag 1 0] ++
  (s.plainPages c).map (fun g => unitTag 0 (pageBytes * g + 2 ^ 48 * bnat (s.page g).shared)) ++
  x.seqs.flatMap (fun e => unitTag 2 e.1 :: (List.range (e.2.groups * e.2.lanes)).map fun n => unitTag 3 (2 ^ 32 * e.1 + n)) ++
  (s.windowsOf c).flatMap fun w =>
    let y := s.pseudo w.1 w.2
    (List.range' (256 * y.firstSeg + 2) (256 * y.segCount - 2)).map fun r => unitTag 4 (2 ^ 40 * w.1 + 2 ^ 32 * w.2 + r)

/-- The units of a command: for a copy, the pages of its span that are not carved, by their addresses on the peer. -/
def State.copyUnits (s : State) (c : Nat) (m : Cmd) : List Nat :=
  if m.opcode = 0x0E06 then s.migrationUnits c
  else ((List.range (m.count / pageBytes)).filter fun i =>
    !(isExternal m.address && s.carved (m.address + pageBytes * i))).map fun i => unitTag 0 (m.value + pageBytes * i)

/-- The places of device memory that a unit of a migration lies in: start and length. -/
def State.migrationPlaces (s : State) (c u : Nat) : List (Nat × Nat) :=
  let v := u % 2 ^ 60
  match u / 2 ^ 60 with
  | 0 => [(v % 2 ^ 48, pageBytes)]
  | 1 | 2 => []
  | 3 =>
    let r := s.seq c (v / 2 ^ 32)
    [(pageBytes * r.entry (r.placeOf (s.context c).stride (v % 2 ^ 32)), pageBytes)]
  | _ => (rowParts (v / 2 ^ 40) (v / 2 ^ 32 % 256) (v % 2 ^ 32)).map (·, 256)

/-- The places that a unit of a copy or migration is read from. -/
def State.unitPlaces (s : State) (c : Nat) (m : Cmd) (u : Nat) : List (Nat × Nat) :=
  if m.opcode ≠ 0x0E06 then [(m.address + (u % 2 ^ 60 - m.value), pageBytes)] else s.migrationPlaces c u

/-- Reads several places one after another; the address of the first damaged block. -/
def State.readPlaces (s : State) (l : List (Nat × Nat)) : State × List Byte × Option Nat :=
  l.foldl (fun (s, l, bad) (a, n) =>
    let (s, d, b) := s.readDevice {} a n
    (s, l ++ d, bad.orElse fun _ => b)) (s, [], none)

/-- Reads the bytes of a unit as MEM.READ does; the address of the first damaged block. -/
def State.unitBytes (s : State) (c : Nat) (m : Cmd) (u : Nat) : State × List Byte × Option Nat :=
  if m.opcode = 0x0E06 ∧ u / 2 ^ 60 = 1 then (s, sget [] m.records 0, none)
  else if m.opcode = 0x0E06 ∧ u / 2 ^ 60 = 2 then (s, (s.seq c (u % 2 ^ 60)).bytes, none)
  else s.readPlaces (s.unitPlaces c m u)

/-- Sends the pieces of a unit. -/
def State.sendPieces (s : State) (c : Nat) (m : Cmd) (u : Nat) (data : List Byte) : State :=
  (List.range (ceilDiv data.length 8192)).foldl (fun s i =>
    s.sendFabric (some m.peer) (.copy
      { sourceSerial := s.dev.serial, context := m.peerContext c, csn := copyTag c m.csn, migrate := m.opcode = 0x0E06,
        destination := u, length := data.length, offset := 8192 * i, data := slice data (8192 * i) 8192 })) s

/-- Sends the present unit of a copy, or ends it when every unit is acknowledged; a damaged read ends it (R443). A unit whose bank
or Millpond is held or that lies in a window of in-bank compute waits (R156, R195, R196), as all do while the module has no address
(R434). -/
def State.copyOn (s : State) (c csn : Nat) : State :=
  match s.cmd c csn with
  | none => s
  | some m =>
    match (s.copyUnits c m)[m.progress]? with
    | none => s.finish c csn Status.done s.now (if m.opcode = 0x0E06 then m.lost else 0) { rank := 0, status := 0 }
    | some u =>
      if !s.takesPart ∨ ((s.unitPlaces c m u).any fun e => s.reachHeld e.1 e.2 : Bool) then s else
      match s.unitBytes c m u with
      | (s, _, some b) =>
        s.finish c csn Status.uncorrectable s.now 0 { rank := 0, status := Status.uncorrectable, address := b }
      | (s, data, none) => s.sendPieces c m u data

/-- Begins an accepted copy or migration, or begins it again: a migration makes its image first (R444). -/
def State.startCopy (s : State) (c csn : Nat) : State :=
  match s.cmd c csn with
  | none => s
  | some m =>
    let s := s.modCmd c csn fun m => { m with progress := 0, lost := 0, begun := true }
    if m.opcode ≠ 0x0E06 then s.copyOn c csn
    else
      let s := s.modContext c fun x => { x with migrating := true }
      match s.image c with
      | (s, _, some (k, e)) =>
        s.finish c csn Status.uncorrectable s.now 0
          { rank := 0, status := Status.uncorrectable, core := k, address := e.address }
      | (s, b, none) => (s.modCmd c csn fun m => { m with records := [(0, b)] }).copyOn c csn

/-! ## The peer's side -/

/-- The check of a destination span, as a MEM.WRITE from a context session (R443): 0 when it holds, else the status. -/
def State.checkSpan (s : State) (m : CopyMsg) : Nat :=
  let n := m.length / pageBytes
  let x : Session := { isOpen := true, context := m.context }
  let bad := (List.range n).any fun i =>
    let a := m.destination + pageBytes * i
    let carved := isExternal a && s.carved a
    carved != mapBit m.data i || (!carved && ((s.firstWindow a pageBytes).isSome || s.sweeping a || !s.memReach x true a pageBytes))
  let closed := (legal 0x0602 m.context s).isSome
  if 63 < m.context ∨ (closed : Bool) ∨ (bad : Bool) then Status.address else 0

/-- The check of a migration (R444): its answer's number is the status, with the context state above 16 bits. -/
def State.checkMigration (s : State) (m : CopyMsg) : Nat :=
  let c := m.context
  let x := s.context c
  let st := s.ctxState c
  if (st ≠ .open ∧ st ≠ .loaded) ∨ (x.migrating : Bool) ∨ (x.seqs.any fun e => e.2.isOpen : Bool) then
    Status.state + 2 ^ 16 * st.code
  else if x.grant.bytes ++ s.windowBytes c ≠ m.data then Status.capacity
  else 0

/-- Releases the pins of a copy that ended. -/
def State.unpin (s : State) (m : CopyMsg) : State :=
  s.modContext m.context fun x =>
    { x with migrating := x.migrating && !m.migrate,
             pins := x.pins.filter fun p => !(p.source == m.sourceSerial && p.migrate == m.migrate && p.destination == m.destination) }

/-- COPY_DESTINATION_CHECK (R443, R444): the peer pins the span and answers. -/
def execCopyDestinationCheck (m : CopyMsg) (s : State) : Out :=
  s.through m.secured fun s => if !s.heeds m.tagOk then .next s.dropFabric
  else if !s.takesPart then .next s
  else if m.length = 0 then .next (s.unpin m)
  else
    let no := if m.migrate then s.checkMigration m else s.checkSpan m
    let answer (s : State) (ok : Bool) : State := s.sendFabric (some m.sourceSerial) (.copyAck m.context m.csn no true ok)
    if no ≠ 0 then .next (answer s false)
    else
      .next (answer ((s.unpin m).modContext m.context fun x =>
        { x with migrating := x.migrating || m.migrate,
                 pins := x.pins ++ [{ source := m.sourceSerial, csn := m.csn, migrate := m.migrate,
                                      destination := m.destination, length := m.length }] }) true)

/-- A sequence record moved: the slot opens with its lengths, and its list begins empty (R444). -/
def State.takeRecord (s : State) (c j : Nat) (b : List Byte) : State :=
  let old := s.seq c j
  let s := (old.list.map fun e => e.2 - 1).foldl State.unmapPage s
  s.modSeq c j fun _ =>
    { isOpen := true, home := le b 1 1, lanes := le b 2 2, perPage := le b 4 4, length := le b 8 4, booked := le b 8 4,
      limit := le b 16 4, ring := le b 20 4, pageRing := le b 24 4, groups := 0, stack := le b 32 1, pc := le b 33 1,
      recordCode := le b 34 1, firstRow := le b 36 4, layerStride := le b 40 4, layers := le b 44 2, tag := slice b 48 8,
      lastAppender := le b 56 8, list := [] }

/-- A peer writes a range of a moved unit. It takes none that lies in a command or result window (R195), none whose bank or Millpond
is held now, which the source sends again (R156, R196), and none whose access the interface fails (R159). -/
def State.takeBytes (s : State) (a : Nat) (data : List Byte) : State × Bool :=
  if s.reachHeld a data.length then (s, false)
  else
    match s.partlyLost {} a data.length with
    | (s, some _) => (s, false)
    | (s, none) => (s.writeDevice {} a data, true)

/-- The `n`-th page of a list moved: mapped afresh at its place (R252), then filled; a list too short for it cannot take it. -/
def State.takeListPage (s : State) (c j n : Nat) (data : List Byte) : State × Bool :=
  match (s.context c).area with
  | none => (s, false)
  | some a =>
    let r := s.seq c j
    if !r.isOpen ∨ r.lanes = 0 then (s, false)
    else
      let g := n / r.lanes
      let i := r.placeOf a.stride n
      match (if a.stride / r.lanes ≤ g then none else if (sget 0 r.list i) ≠ 0 then some s else s.growLane c j a g (n % r.lanes)) with
      | none => (s, false)
      | some s =>
        let s := s.modSeq c j fun r => { r with groups := if n % r.lanes + 1 = r.lanes then max r.groups (g + 1) else r.groups }
        s.takeBytes (pageBytes * (s.seq c j).entry i) data

/-- A page mapped by PAGE.MAP moved to the same page number. -/
def State.takePlainPage (s : State) (c v : Nat) (data : List Byte) : State × Bool :=
  let a := v % 2 ^ 48
  let g := a / pageBytes
  let p := s.page g
  let s := if p.mapped then s else if s.pageBarred g then s else s.mapPage g c 0 0 0 (bit v 48)
  if (s.page g).mapped ∧ (s.page g).context = c then s.takeBytes a data else (s, false)

/-- A context image moved: applied as CTX.RESTORE applies it, under the checks of R98. -/
def State.takeImage (s : State) (c : Nat) (data : List Byte) : State × Bool :=
  match imageRecords data with
  | none => (s, false)
  | some l =>
    if l.all (fun r => s.logicalExists r.core && s.recordFits c r) then
      match s.firstLocalLost (s.imagePlaces l) with
      | (s, some _) => (s, false)
      | (s, none) => (s.applyImage l, true)
    else (s, false)

/-- The data rows of a window moved, part after part; the first that cannot be taken ends it. -/
def State.takeRow (s : State) : List Nat → List Byte → State × Bool
  | [], _ => (s, true)
  | a :: l, data =>
    match s.takeBytes a (data.take 256) with
    | (s, false) => (s, false)
    | (s, true) => s.takeRow l (data.drop 256)

/-- The peer takes a whole unit, or cannot. -/
def State.takeUnit (s : State) (c : Nat) (migrate : Bool) (u : Nat) (data : List Byte) : State × Bool :=
  let v := u % 2 ^ 60
  if !migrate then (if s.inFailedStack v data.length then (s, false) else s.takeBytes v data)
  else
    match u / 2 ^ 60 with
    | 0 => s.takePlainPage c v data
    | 1 => s.takeImage c data
    | 2 => if v < (s.context c).capacity then (s.takeRecord c v data, true) else (s, false)
    | 3 => s.takeListPage c (v / 2 ^ 32) (v % 2 ^ 32) data
    | _ => s.takeRow (rowParts (v / 2 ^ 40) (v / 2 ^ 32 % 256) (v % 2 ^ 32)) data

/-- Whether a piece falls under a pin. -/
def Pin.takes (p : Pin) (m : CopyMsg) : Bool :=
  p.source == m.sourceSerial && p.migrate == m.migrate &&
  (m.migrate || within (m.destination % 2 ^ 60) m.length p.destination p.length)

/-- COPY_PAGE_PIECE (R443): whole units are written and acknowledged. A peer that has begun again, because it restarted,
answers the first unit it does not expect with a request to begin again (R444). -/
def execCopyPagePiece (m : CopyMsg) (s : State) : Out :=
  s.through m.secured fun s => if !s.heeds m.tagOk then .next s.dropFabric
  else if !s.takesPart then .next s
  else
    match (s.context m.context).pins.find? (·.takes m) with
    | none => .next s
    | some p =>
      let ack (s : State) (ok : Bool) : State := s.sendFabric (some m.sourceSerial) (.copyAck m.context m.csn m.destination false ok)
      let set (s : State) (q : Pin) : State := s.modContext m.context fun x =>
        { x with pins := x.pins.map fun y => if y = p then q else y }
      if m.migrate ∧ p.moved = 0 ∧ m.destination ≠ unitTag 1 0 then .next (ack s false)
      else if m.offset ≠ 0 ∧ (p.unit ≠ m.destination ∨ p.buffer.length ≠ m.offset) then .next s
      else
        let data := (if m.offset = 0 then [] else p.buffer) ++ m.data
        if data.length < m.length then .next (set s { p with unit := m.destination, buffer := data })
        else
          match s.takeUnit m.context m.migrate m.destination data with
          | (t, false) => .next t
          | (t, true) => .next (ack (set t { p with unit := 0, buffer := [], moved := p.moved + data.length }) true)

/-! ## Answers at the source -/

/-- The refusal that a failed check gives. -/
def checkRefusal (c n : Nat) (migrate : Bool) : Reply :=
  if !migrate then refuseAddress
  else if n % 2 ^ 16 = Status.state then refuseState 1 c (n / 2 ^ 16) (maskOf [1, 2])
  else if n % 2 ^ 16 = Status.capacity then refuse Status.capacity
  else refuseAddress

/-- The check holds: the command goes to the journal; it is judged again by state, as it may have changed meanwhile. -/
def State.checkHolds (s : State) (f : Frame) (serial : List Byte) : State :=
  let c := f.context.toNat
  let op := f.opcode.toNat
  let migrate := op = 0x0E06
  match firstFailing [legal op c s, if migrate then s.migrateWindow c else s.windowRefusal (le f.payload 8 8) (le f.payload 24 8),
      flowCheck c s] with
  | some r => (s.sendReply f.session.toNat f.number.toNat op r).sendFabric (some serial)
      (.check { sourceSerial := s.dev.serial, context := if migrate then c else le f.payload 2 1, csn := checkTag f,
                       migrate := migrate, destination := if migrate then 2 ^ 60 else le f.payload 16 8, length := 0 })
  | none => s.stage
    { stream := c, session := f.session.toNat, number := f.number.toNat, answer := true,
      cmd := { opcode := op, frame := f, peer := serial, acceptedAt := s.now,
               address := if migrate then 0 else le f.payload 8 8, value := if migrate then 2 ^ 60 else le f.payload 16 8,
               count := if migrate then 0 else le f.payload 24 8 } }

/-- The answer to a destination check. -/
def State.checkAnswered (s : State) (tag n : Nat) (ok : Bool) : State :=
  match s.fabric.checks.find? fun e => checkTag e.1 == tag with
  | none => s
  | some (f, serial) =>
    let s := s.modFabric fun x => { x with checks := x.checks.filter (· != (f, serial)) }
    if ok then s.checkHolds f serial
    else s.sendReply f.session.toNat f.number.toNat f.opcode.toNat
      (checkRefusal f.context.toNat n (f.opcode.toNat = 0x0E06))

/-- The acknowledgement of a unit: the next one follows. -/
def State.unitAcked (s : State) (tag u : Nat) (ok : Bool) : State :=
  let c := tag / 2 ^ 64
  let csn := tag % 2 ^ 64
  match s.cmd c csn with
  | none => s
  | some m =>
    if m.phase = .completed ∨ (s.copyUnits c m)[m.progress]? ≠ some u then s
    else if !ok then s.startCopy c csn
    else
      let n := (s.unitBytes c m u).2.1.length
      (s.modCmd c csn fun m => { m with progress := m.progress + 1, lost := m.lost + n }).copyOn c csn

/-- COPY_ACK (R431, R443, R444): the answer to a check, or the acknowledgement of a unit. -/
def execCopyAck (h : AckHead) (csn page : Nat) (check ok : Bool) (s : State) : Out :=
  s.through h.secured fun s => if !s.heeds h.tagOk ∨ h.opcode ≠ 0x0E87 then .next s.dropFabric
  else event s.takesPart s (if check then s.checkAnswered csn page ok else s.unitAcked csn page ok)

/-- COPY_PAGE_RESEND (R443, R444): the source sends the unit again; a command that came back from the journal begins again. -/
def execCopyPageResend (c csn : Nat) (s : State) : Out :=
  match s.cmd c csn with
  | none => .next s
  | some m => event ((m.opcode = 0x0E05 || m.opcode = 0x0E06) && m.phase == .working) s
      (if m.begun then s.copyOn c csn else s.startCopy c csn)

end Sys2Proof.Machine
end

