-- ==== Sys2Proof/Machine/Sessions.lean ====
section
/-! DEFINITION. Sessions (R306 to R308, R453 to R455) and the host's acknowledgements (R320). -/

namespace Sys2Proof.Machine

/-- The bytes that the device signs in a HELLO and the host in its credential: challenge, and the device's ephemeral key (R454). -/
def Challenge.offer (c : Challenge) : List Byte := c.bytes ++ publicKey c.secret

/-- R454: challenge, ephemeral key, reserved, identity certificate, signature. -/
def Security.helloData (x : Security) (c : Challenge) : List Byte :=
  let head := c.offer ++ zeros 7
  head ++ x.certificate ++ dikSign x.dik head

/-- Whether the device answers one more HELLO in the present housekeeping round (R454). -/
def State.helloAllowed (s : State) : Bool := s.sec.helloRound != s.now / 1024 || s.sec.hellosThisRound < 64

/-- A HELLO frame is answered: it counts, whatever the answer (R454). -/
def State.countHello (s : State) : State :=
  let count := if s.sec.helloRound = s.now / 1024 then s.sec.hellosThisRound + 1 else 1
  s.modSec fun c => { c with helloRound := s.now / 1024, hellosThisRound := count }

/-- The challenge and ephemeral number of the next HELLO. -/
def State.freshChallenge (s : State) : Challenge :=
  { bytes := opaqueBytes 32 (Config.challenge s.sec.hellos), secret := privateNumber (Config.ephemeralPrivate s.sec.hellos),
    given := s.uptime }

/-- SESSION.HELLO (R454): a fresh challenge, the oldest of 16 discarded. -/
def bodyHello (s : State) : Handled :=
  let c := s.freshChallenge
  done (s.modSec fun x => { x with hellos := x.hellos + 1, challenges := (c :: x.challenges).take 16 }) (s.sec.helloData c)

/-- An authorisation at an offset of the payload (R455): its magic, action, reserved bytes, serial number and bound value, and the
factory key's signature over its bytes 0 to 159. -/
def State.authorised (s : State) (p : List Byte) (o action bound : Nat) : Bool :=
  slice p o 4 == ascii 4 "VXAU" && le p (o + 4) 1 == action && allZero p (o + 5) 3 &&
  slice p (o + 8) 16 == s.dev.serial && le p (o + 24) 8 == bound && allZero p (o + 129) 31 &&
  (action == 2 || allZero p (o + 32) 97) && s.sec.factorySigned (slice p o 160) (slice p (o + 160) 96)

/-- The challenge a credential carries, when the device holds it and it is young enough (R454). -/
def State.challengeOf (s : State) (bytes : List Byte) : Option Challenge :=
  s.sec.challenges.find? fun c => c.bytes == bytes && s.uptime - c.given < 2 ^ 20

def Security.operator (x : Security) (i : Nat) : Operator := sget {} x.operators i

/-- A copy of the table is written over the older one, its sequence number one higher (R453). -/
def Security.putTable (x : Security) (l : Sparse Operator) : Security :=
  let c : TableCopy := { sequence := x.operatorSequence + 1, slots := l }
  let x := { x with operators := l, operatorSequence := x.operatorSequence + 1 }
  if x.tableA.sequence ≤ x.tableB.sequence then { x with tableA := c } else { x with tableB := c }

/-- R455 action 2: one management key in slot 0, and every session opened with the old table ends at the end of the notch (R453). -/
def State.replaceOperators (s : State) (key : List Byte) : State :=
  { s with
    sessions := smap {} (fun _ x => { x with ending := true }) s.sessions
    sec := s.sec.putTable (sput {} [] 0 { used := true, ceiling := 1, mask := BitVec.ofNat 64 (2 ^ 64 - 1), key := key }) }

def badByte (p : List Byte) (l : List (Nat × Nat)) : Option Reply :=
  ((l.flatMap fun (o, n) => (List.range n).map (o + ·)).find? fun o => byteAt p o != 0).map fun o => refuse Status.format o

/-- Opens a session under its two keys and replies with its number, generation and lowest undelivered CSN (R307). -/
def State.openSession (s : State) (f : Frame) (slot : Nat) (keys : List Byte) : Handled :=
  let p := f.payload
  let c := le p 0 1
  let n := s.nextSession
  let x : Session :=
    { isOpen := true, context := c, management := le p 1 1 = 1, maxPayload := le p 2 2, idleTimeout := le p 4 4,
      lastFrame := s.uptime, slot := slot, path := f.path, openedOrder := n, tagKey := keys.take 32, wrapKey := keys.drop 32 }
  let s := { s.setSession n x with nextSession := n + 1 }
  done s (leBytes 4 n ++ leBytes 2 (s.generationOf c) ++ zeros 2 ++ leBytes 8 ((s.stream c).sentThrough + 1))

/-- Whether the credential's signature is one by the key, over the challenge, the device's ephemeral key, bytes 0 to 199 of the
credential and parameter bytes 0 to 7 (R454). -/
def State.credentialSigned (s : State) (p key : List Byte) : Bool :=
  match s.challengeOf (slice p 20 32) with
  | some c => signedBy key (c.offer ++ slice p 16 200 ++ slice p 0 8) (slice p 216 96)
  | none => false

/-- SESSION.OPEN (R307, R454, R455). -/
def bodyOpen (f : Frame) (s : State) : Handled :=
  let p := f.payload
  let c := le p 0 1
  let priv := le p 1 1
  let maxPay := le p 2 2
  let idle := le p 4 4
  let len := le p 8 2
  let slot := le p 16 1
  let kind := le p 17 1
  let no := refuse Status.privilege
  let op := s.sec.operator slot
  let replaced := kind = 1
  zeroField (maxPay = 0) s <| checked
    [when (maxPay = 0xFFFF ∨ 8704 < maxPay) (refuse Status.length 2),
     when (len = 0xFFFF ∨ 8192 < len) (refuse Status.length 8),
     when (63 < c ∧ c ≠ 255) (refuse Status.format 0),
     when (1 < priv) (refuse Status.format 1),
     when (maxPay < 1024) (refuse Status.format 2),
     when (idle < 1048576 ∨ 1073741824 < idle) (refuse Status.format 4),
     when (c = 255 ∧ priv = 0) (refuse Status.format 0),
     when (len = 0) no,
     when (15 < slot) (refuse Status.format 16),
     when (1 < kind) (refuse Status.format 17),
     when (len ≠ if kind = 1 then 552 else 296) (refuse Status.format 8),
     when (s.challengeOf (slice p 20 32)).isNone no,
     when (replaced && !s.authorised p 312 2 s.sec.operatorSequence) no,
     when (!replaced && !op.used) no,
     when (!s.credentialSigned p (if replaced then slice p 344 97 else op.key)) no,
     when (!replaced && decide (op.ceiling < priv)) no,
     when (!replaced && c != 255 && !op.mask.getLsbD c) no,
     when (!replaced && decide (256 ≤ s.openSessions)) (refuse Status.capacity)] s
    (match s.challengeOf (slice p 20 32) with
     | none => .reply no s
     | some c =>
       let s := s.modSec fun x => { x with challenges := x.challenges.filter (· != c) }
       let s := if replaced then s.replaceOperators (slice p 344 97) else s
       s.openSession f (if replaced then 0 else slot) (sessionKeys c.bytes c.secret (slice p 52 97)))

/-- SESSION.CLOSE (R308): the session ends after its reply. -/
def bodyClose (sid : Nat) (s : State) : Handled :=
  done (s.modSession sid fun x => { x with endAfter := some (x.next - 1) })

/-! ## Acknowledgements (R320) -/

/-- Frees the records of the sent completions up to `k` (R314). -/
def Stream.acknowledge (t : Stream) (k : Nat) : Stream :=
  { t with
    cmds := t.cmds.filter fun c => !(c.phase == .completed && c.sent && decide (c.csn ≤ k))
    ackedThrough := max t.ackedThrough (min k t.sentThrough) }

/-- Whether a HOST_ACK of a session is honoured (R320). -/
def ackHonoured (f : Frame) (x : Session) : Bool :=
  f.payload.length == 24 && allZero f.payload 1 7 && le f.payload 0 1 == f.context.toNat && f.context.toNat == x.context

/-- Acts on an honoured HOST_ACK; one of another generation is ignored. -/
def State.hostAck (s : State) (f : Frame) : State :=
  let c := f.context.toNat
  if f.generation.toNat ≠ s.generationOf c then s
  else
    let again := le f.payload 16 8
    let s := s.modStream c fun t => t.acknowledge (le f.payload 8 8)
    if again = 0 then s
    else
      let s := s.resendResults c again
      match s.cmd c again with
      | some m => if m.phase = .completed ∧ m.sent then s.sendCompletion c again 1 else s
      | none => s

end Sys2Proof.Machine
end

