-- ==== Sys2Proof/Machine/Firmware.lean ====
section
/-! DEFINITION. Firmware slots and the FW commands (R447 to R453), MACsec (R458), attestation (R457). -/

namespace Sys2Proof.Machine

/-! ## Firmware slots -/

/-- The slot that is not running. -/
def Security.other (x : Security) : FwSlot := if x.running = 0 then x.slotB else x.slotA

def Security.setOther (x : Security) (v : FwSlot) : Security :=
  if x.running = 0 then { x with slotB := v } else { x with slotA := v }

/-- A slot with bytes written at an offset: at 0 it is erased first, elsewhere they follow what is there (R452). -/
def FwSlot.write (v : FwSlot) (o : Nat) (l : List Byte) : FwSlot := { image := v.image.take o ++ l }

/-- Versions of the running image. -/
def Security.runningVersion (x : Security) : Nat := imageVersion x.kept
def Security.runningSecurity (x : Security) : Nat := imageSecurity x.kept

/-! ## FW.STATUS, FW.WRITE, FW.ACTIVATE (R451, R452) -/

def bodyFwStatus (s : State) : Handled :=
  let x := s.sec
  checked [legalDevice 0x1001 s] s
    (done s (leBytes 1 x.running ++ leBytes 1 x.staged ++ leBytes 1 x.rollback ++ zeros 1 ++ leBytes 4 x.writePosition ++
      leBytes 4 x.runningVersion ++ leBytes 4 (if x.staged = 0 then 0 else imageVersion x.other.image) ++ leBytes 4 x.reason))

/-- What the commands of a slot need that the object kinds of R323 do not name: the device (kind 0). -/
def fwState (s : State) : Reply := refuseState 0 0 s.deviceState.code (legalMask 0x1002)

def slotBytes : Nat := 8388608
def programRoom : Nat := 65536
def programRate : Nat := Config.programRate + 1

/-- Bytes that wait in the program buffer. -/
def State.programHeld (s : State) : Nat := s.sec.programBuffer - (s.uptime - s.sec.programAt) * programRate

def bodyFwWrite (f : Frame) (s : State) : Handled :=
  let o := le f.payload 0 4
  let n := le f.payload 4 4
  let held := s.programHeld
  zeroField (n = 0) s
    (checked
      [when (8192 < n ∨ slotBytes < o % slotBytes + n) (refuse Status.length 4),
       when (slotBytes ≤ o) (refuse Status.format 0),
       legalDevice 0x1002 s,
       when (s.sec.staged = 2 ∨ (o ≠ 0 ∧ o ≠ s.sec.writePosition)) (fwState s),
       when (programRoom < held + n)
         { status := Status.capacity, notchA := s.now + ceilDiv (held + n - programRoom) programRate }] s
      (done (s.modSec fun x =>
        { x.setOther (x.other.write o (slice f.payload 8 n)) with
          staged := 1, writePosition := o + n, reason := 0, programBuffer := held + n, programAt := s.uptime })))

def bodyFwActivate (s : State) : Handled :=
  let x := s.sec
  checked
    [legalDevice 0x1003 s,
     when (x.staged = 0 ∨ x.staged = 2 ∨ x.writePosition ≠ imageLength x.other.image) (fwState s)] s
    (done (s.modSec fun x => { x with staged := 2 }))

/-- The check of R448 that the staged image fails, 0 for none. -/
def Security.failing (x : Security) : Nat := x.imageFault x.other.image

/-- FIRMWARE_CHECK_DONE (R448, R452): the check ends with the reason that the image's own bytes give. -/
def execFirmwareCheckDone (reason : Nat) (s : State) : Out :=
  event (s.sec.staged == 2 && reason == s.sec.failing) s
    (s.modSec fun x => { x with staged := if reason = 0 then 3 else 4, reason := reason })

/-! ## FW.AUTHORISE (R420, R455) -/

def authorisationForm (p : List Byte) : List (Option Reply) :=
  [when (slice p 0 4 != ascii 4 "VXAU") (refuse Status.format 0),
   when (le p 4 1 ≠ 1) (refuse Status.format 4),
   badByte p [(32, 97)]]

def bodyFwAuthorise (f : Frame) (s : State) : Handled :=
  checked
    (authorisationForm f.payload ++
      [legalDevice 0x1004 s,
       when (!s.authorised f.payload 0 1 s.dev.listSequence) (refuse Status.privilege)]) s
    (done (s.modDev fun d => { d with clearAuthorised := true }))

/-! ## FW.ENROLL and FW.REMOVE (R453) -/

/-- Whether an operator table holds a management key. -/
def managed (l : Sparse Operator) : Bool := l.any fun e => e.2.used && e.2.ceiling == 1

/-- Writes a slot; every session opened with it ends at the end of the notch, the sender's own after the reply to its command
`n`. -/
def State.setOperator (s : State) (slot sender n : Nat) (v : Operator) : State :=
  let s := s.modSec fun x => x.putTable (sput {} x.operators slot v)
  { s with sessions := smap {} (fun i x =>
      if x.isOpen && x.slot == slot then
        (if i = sender then { x with endAfter := x.endAfter.orElse fun _ => some n } else { x with ending := true })
      else x) s.sessions }

def bodyFwEnroll (f : Frame) (s : State) : Handled :=
  let p := f.payload
  let slot := le p 0 1
  let v : Operator := { used := true, ceiling := le p 1 1, mask := BitVec.ofNat 64 (le p 8 8), key := slice p 16 97 }
  checked
    [when (15 < slot) (refuse Status.format 0), when (1 < v.ceiling) (refuse Status.format 1),
     when (keyPoint v.key).isNone (refuse Status.format 16),
     legalDevice 0x1005 s,
     when (!managed (sput {} s.sec.operators slot v)) (fwState s)] s
    (done (s.setOperator slot f.session.toNat f.number.toNat v))

def bodyFwRemove (f : Frame) (s : State) : Handled :=
  let slot := le f.payload 0 1
  checked
    [when (15 < slot) (refuse Status.format 0), legalDevice 0x1006 s,
     when (!managed (sput {} s.sec.operators slot {})) (fwState s)] s
    (done (s.setOperator slot f.session.toNat f.number.toNat {}))

/-! ## FW.MACSEC (R458) -/

/-- The associations with a new one: it takes the place of that of its number, and of those of another channel in its direction
(R458). -/
def SecAssoc.joins (a : SecAssoc) (l : List SecAssoc) : List SecAssoc :=
  l.filter (fun y => y.receive != a.receive || (y.sci == a.sci && y.an != a.an)) ++ [a]

/-- FW.MACSEC: the key of an association is unwrapped under the session's wrap key. Require takes effect after the reply. -/
def bodyFwMacsec (f : Frame) (s : State) : Handled :=
  let p := f.payload
  let op := le p 0 1
  let an := le p 2 1
  let key := gcmOpen (s.session f.session.toNat).wrapKey (leBytes 8 f.number.toNat ++ zeros 4) (slice p 0 40) (slice p 40 48)
  let a : SecAssoc :=
    { receive := op = 1, an := an, sci := le p 4 8, ssci := le p 12 4, salt := slice p 16 12, window := le p 28 4,
      nextPn := le p 32 8, lowest := le p 32 8, key := key.getD [] }
  checked
    [when (2 < op) (refuse Status.format 0), when (1 < le p 1 1) (refuse Status.format 1), when (3 < an) (refuse Status.format 2),
     when (2 ^ 30 < a.window) (refuse Status.format 28), when (op ≠ 0 && key.isNone) (refuse Status.format 40),
     legalDevice 0x1007 s] s
    (done (s.modSec fun x =>
      { x with macsec := op ≠ 0, requireDue := x.requireDue ++ [(f.session.toNat, f.number.toNat, decide (le p 1 1 = 1))]
               assocs := if op = 0 then [] else a.joins x.assocs }))

/-! ## Attestation (R457) -/

def bodyAttestIdentity (s : State) : Handled :=
  checked [legalDevice 0x1101 s] s (done s s.sec.certificate)

/-- A record of the field defect list (R418). -/
def Defect.bytes (d : Defect) : List Byte :=
  leBytes 1 d.kind ++ leBytes 1 d.source ++ zeros 2 ++ leBytes 4 d.object ++ leBytes 4 d.index ++ leBytes 4 d.count

/-- A slot of the operator table, as its digest takes it (assumption log 15). -/
def Operator.bytes (v : Operator) : List Byte :=
  leBytes 1 (bnat v.used) ++ leBytes 1 v.ceiling ++ zeros 6 ++ leBytes 8 v.mask.toNat ++ padTo 97 v.key ++ zeros 7


/-- Bytes 0 to 303 of the report. -/
def State.reportBody (s : State) (nonce : List Byte) : List Byte :=
  let x := s.sec
  let d := s.dev
  let settled (n : Nat) (l : List Byte) : List Byte := if s.stagePassed n then l else zeros l.length
  ascii 4 "VXAT" ++ leBytes 2 1 ++ leBytes 2 400 ++ padTo 32 nonce ++ s.fromEeprom d.serial ++ leBytes 8 s.now ++
  settled 1 (padTo 48 (x.bodyDigest.getD [])) ++
  leBytes 4 x.runningVersion ++ leBytes 1 x.runningSecurity ++ leBytes 1 x.rollback ++ leBytes 1 s.deviceState.code ++
  leBytes 1 s.wheel.state.code ++
  settled 5 (leBytes 4 s.shape) ++ settled 4 (leBytes 2 d.level) ++ zeros 2 ++ settled 9 (leBytes 8 s.reduction) ++
  leBytes 4 d.coldStarts ++ leBytes 4 d.warmStarts ++ sha384 x.last ++
  settled 1 (leBytes 4 d.listSequence) ++ zeros 4 ++ settled 1 (sha384 (d.defects.flatMap Defect.bytes)) ++
  sha384 ((List.range 16).flatMap fun i => (x.operator i).bytes) ++
  leBytes 8 (bnat x.macsec + bnat x.required * 2)

def bodyAttestReport (f : Frame) (s : State) : Handled :=
  let b := s.reportBody f.payload
  checked [legalDevice 0x1102 s] s (done s (b ++ dikSign s.sec.dik b))

end Sys2Proof.Machine
end

