-- ==== Sys2Proof/Machine/Sfu.lean ====
section
/-! DEFINITION. The special functions of R84. The manual fixes their special cases and bounds their error; the value
within the bound is free (assumption log 6): `Config.sfu` supplies it, and is heeded only while it keeps the bound. A
reference value of more than 60 correct bits judges the bound. -/

namespace Sys2Proof.Machine

/-- The whole square root, bit by bit from bit `b`. -/
def isqrtFrom (n : Nat) : Nat → Nat → Nat
  | 0, r => r
  | b + 1, r => isqrtFrom n b (if (r + 2 ^ b) * (r + 2 ^ b) ≤ n then r + 2 ^ b else r)

/-- floor(√n). -/
def isqrt (n : Nat) : Nat := isqrtFrom n (n.log2 / 2 + 1) 0

/-- 2^(2^-i) for i = 1, 2, …, with 96 fraction bits. -/
def expRoots : Nat → Nat → List Nat
  | 0, _ => []
  | k + 1, r => isqrt (r * 2 ^ 96) :: expRoots k (isqrt (r * 2 ^ 96))

/-- The product of the roots that the fraction's bits select, from bit 95 down. -/
def expProduct (f : Nat) : List Nat → Nat → Nat → Nat
  | [], _, acc => acc
  | r :: rs, i, acc => expProduct f rs (i - 1) (if bit f i then acc * r / 2 ^ 96 else acc)

/-- 2^x for a finite x: a fixed-point significand and an exponent. -/
def exp2Ref (v : Val) : Val :=
  let x := (v.scale 96).floor
  let n := x / (2 ^ 96 : Nat)
  let f := (x % (2 ^ 96 : Nat)).toNat
  .fin false (expProduct f (expRoots 96 (2 ^ 97)) 95 (2 ^ 96)) (n - 96)

/-- The fraction bits of log2 of y in [1, 2), y with 96 fraction bits. -/
def logBits : Nat → Nat → Nat → Nat
  | 0, _, acc => acc
  | k + 1, y, acc =>
    let z := y * y / 2 ^ 96
    if 2 ^ 97 ≤ z then logBits k (z / 2) (2 * acc + 1) else logBits k z (2 * acc)

def log2Ref (m : Nat) (e : Int) : Val :=
  let l := m.log2
  let frac := logBits 64 (m * 2 ^ 96 / 2 ^ l) 0
  let t := (e + l) * (2 ^ 64 : Nat) + frac
  .fin (decide (t < 0)) t.natAbs (-64)

def rcpRef (s : Bool) (m : Nat) (e : Int) : Val :=
  let (q, k) := quotient 1 m
  .fin s q (k - e)

def rsqrtRef (m : Nat) (e : Int) : Val :=
  let (m, e) := if e % 2 = 0 then (m, e) else (2 * m, e - 1)
  .fin false (isqrt (2 ^ 240 / m)) (-120 - e / 2)

/-- floor(log2(e) × 2^96). -/
def log2e96 : Nat := 114302077158074026402637675936

def tanhRef (s : Bool) (m : Nat) (e : Int) : Val :=
  if (m.log2 : Int) + e < -12 then
    let (q, k) := quotient (m ^ 3) 3
    (Val.fin s m e).add (.fin (!s) q (3 * e + k))
  else
    match exp2Ref (.fin false (2 * m * log2e96) (e - 96)) with
    | .fin _ p g =>
      let one := (2 : Nat) ^ (-g).toNat
      let (q, k) := if 0 ≤ g then quotient (p * 2 ^ g.toNat - 1) (p * 2 ^ g.toNat + 1) else quotient (p - one) (p + one)
      .fin s q k
    | v => v

/-- |a − b| ≤ n × 2^k. -/
def near (a b : Val) (n : Nat) (k : Int) : Bool :=
  match a.add b.neg with
  | .fin _ m e => Val.le (.fin false m e) (.fin false n k)
  | _ => false

/-- A subnormal becomes a zero of its sign (R84). -/
def flush (w : Word) : Word := if bits w.toNat 30 23 = 0 then w &&& 0x80000000#32 else w

/-- The exponent of the unit in the last place of a value rounded to FP32. -/
def ulpExp (w : Word) : Int := max (bits w.toNat 30 23 : Nat) 1 - 150

/-- The free result of function `f` at `x` when it keeps the bound of `k` ulp (or, where `abs22`, 2^−22), and the
rounded reference otherwise. -/
def bounded (f : Nat) (x : Word) (k : Nat) (abs22 : Bool) (ref : Val) : Word :=
  let r := toFp32 ref
  let c := flush (Config.sfu f x)
  let ok := if abs22 then near (ofFp32 c) ref 1 (-22) else near (ofFp32 c) ref k (ulpExp r)
  if ok then c else flush r

def fexp2 (x0 : Word) : Word :=
  let x := flush x0
  match ofFp32 x with
  | .nan => 0x7FC00000#32
  | .inf s => if s then 0 else 0x7F800000#32
  | v@(.fin _ m _) =>
    if Val.le (natVal 128) v then 0x7F800000#32
    else if v.lt (intVal (-126)) then 0
    else if m = 0 then bounded 0 x 2 false (natVal 1)
    else bounded 0 x 2 false (exp2Ref v)

def flog2 (x0 : Word) : Word :=
  let x := flush x0
  match ofFp32 x with
  | .nan => 0x7FC00000#32
  | .inf s => if s then 0x7FC00000#32 else 0x7F800000#32
  | v@(.fin s m e) =>
    if m = 0 then 0xFF800000#32
    else if s then 0x7FC00000#32
    else if x = 0x3F800000#32 then 0
    else bounded 1 x 2 (Val.le (.fin false 1 (-1)) v && Val.le v (natVal 2)) (log2Ref m e)

def frcp (x0 : Word) : Word :=
  let x := flush x0
  match ofFp32 x with
  | .nan => 0x7FC00000#32
  | .inf s => BitVec.ofNat 32 (bnat s * 2 ^ 31)
  | .fin s m e =>
    if m = 0 then toFp32 (.inf s)
    else if Val.le (.fin false 1 126) (.fin false m e) then BitVec.ofNat 32 (bnat s * 2 ^ 31)
    else bounded 2 x 1 false (rcpRef s m e)

def frsqrt (x0 : Word) : Word :=
  let x := flush x0
  match ofFp32 x with
  | .nan => 0x7FC00000#32
  | .inf s => if s then 0x7FC00000#32 else 0
  | .fin s m e =>
    if m = 0 then toFp32 (.inf s)
    else if s then 0x7FC00000#32
    else bounded 3 x 2 false (rsqrtRef m e)

def ftanh (x0 : Word) : Word :=
  let x := flush x0
  match ofFp32 x with
  | .nan => 0x7FC00000#32
  | .inf s => toFp32 (.fin s 1 0)
  | .fin s m e =>
    if m = 0 then x
    else if Val.le (natVal 10) (.fin false m e) then toFp32 (.fin s 1 0)
    else bounded 4 x 3 false (tanhRef s m e)

end Sys2Proof.Machine
end

