-- ==== Sys2Proof/Machine/Hopper.lean ====
section
/-! DEFINITION. The Hopper units (R263 to R277): the start of a unit's rows with its grant checks, the sampling of a row, the
result record and its echo. -/

namespace Sys2Proof.Machine

/-! ## Rows of a unit (R268) -/

/-- The rows of the `i`-th of `u` units. -/
def unitRows (r u i : Nat) : Nat × Nat := (i * r / u, (i + 1) * r / u)

def SamplerItem.rowAt (t : SamplerItem) (r : Nat) : Nat := t.base + r * t.stride
def SamplerItem.rowBytes (t : SamplerItem) : Nat := 64 + t.vocab * t.size

/-- The item of a sampler action. -/
def Plan.sampler (p : Plan) (item : Nat) : SamplerItem := samplerItem (p.samplers.getD item [])

/-- The record of row 0 of action `i`: records are numbered across the HOPPER actions in slot table order (R324). -/
def Plan.firstRecord (p : Plan) (l : List SlotEntry) (i : Nat) : Nat :=
  sumNat (((l.take i).filter (·.action == 4)).map fun e => (p.sampler e.argument).rows)

/-- The first address of a range outside the scratchpad part of the present split or outside the context's grant. -/
def State.outsideGrant (s : State) (c a n : Nat) : Option Nat :=
  let bad (x : Nat) : Bool :=
    match s.place x with
    | .scratch _ => !(s.grant c).holdsScratch x 1
    | _ => true
  (a :: (List.range (n / 65536 + 1)).map fun i => 65536 * (a / 65536 + i + 1)).find? fun x => decide (x < a + n) && bad x

/-- The failing address of a unit's grant checks, with its kind: 1 a row, 2 the echo area. -/
def State.grantFault (s : State) (c : Nat) (t : SamplerItem) (j : HopperJob) : Option (Nat × Nat) :=
  ((List.range' j.first (j.stop - j.first)).findSome? fun r =>
    (s.outsideGrant c (t.rowAt r) t.rowBytes).map (·, 1)).orElse fun _ =>
    if t.echo = 0 then none else (s.outsideGrant c t.echo (16 * t.rows)).map (·, 2)

/-- A unit at fault reads nothing more. -/
def State.unitFault (s : State) (h c address kind : Nat) : State :=
  (s.modHopper h fun x => { x with running := false, faultAddress := address, faultKind := kind }).setTroubleBit (.hopper h)
    (if kind = 3 then 1 else 0) (5, c) c

/-- A unit at fault: its command is noted for the end of the notch (R276). -/
def State.hopperFault (s : State) (h c csn address kind : Nat) : State :=
  (s.unitFault h c address kind).noteStop c csn
    { rank := 3, status := if kind = 3 then Status.uncorrectable else Status.hopperFault, detail := kind, cause := kind,
      unit := h, address := address }

/-- A unit begins a job. -/
def State.beginJob (s : State) (h : Nat) (t : SamplerItem) (j : HopperJob) : State :=
  match s.grantFault j.context t j with
  | some (a, kind) => s.hopperFault h j.context j.csn a kind
  | none => s.modHopper h fun x =>
      { x with running := decide (j.first < j.stop), context := j.context, csn := j.csn, action := j.action, item := j.item,
               nextRow := j.first, endRow := j.stop, inRow := !s.paused }

/-- A job comes round on a unit: it waits while the unit is busy (R264). A job of no rows has nothing to wait for (R267), but its
unit makes its checks as the others do (R276). -/
def State.giveJob (s : State) (h : Nat) (t : SamplerItem) (j : HopperJob) : State :=
  if j.first = j.stop then
    match s.grantFault j.context t j with
    | some (a, kind) => s.hopperFault h j.context j.csn a kind
    | none => s
  else if (s.hopper h).running then s.modHopper h fun x => { x with waiting := x.waiting ++ [j] }
  else s.beginJob h t j

/-- The start of a HOPPER action on the units of its mask. -/
def State.startHopper (s : State) (p : Plan) (item c csn action units : Nat) : State :=
  let l := bitsSet units 4
  let t := p.sampler item
  l.zipIdx.foldl (fun s (h, i) =>
    let (a, b) := unitRows t.rows l.length i
    s.giveJob h t { context := c, csn := csn, action := action, item := item, first := a, stop := b }) s

/-- Whether a unit still has rows of a HOPPER action. -/
def State.hopperBusy (s : State) (c csn action : Nat) : Bool :=
  s.hoppers.any fun e =>
    (e.2.running && e.2.context == c && e.2.csn == csn && e.2.action == action) ||
    e.2.waiting.any fun j => j.context == c && j.csn == csn && j.action == action

/-! ## A row's settings (R268, R269) -/

structure RowConfig where
  greedy : Bool
  scale : Word
  keep : Nat
  mass : Word
  deriving DecidableEq, Repr

/-- The settings of a row from its 64-byte header; none for a bad header. -/
def rowConfig (t : SamplerItem) (b : List Byte) : Option RowConfig :=
  let control := le b 2 1
  let scale := le b 8 4
  let mass := le b 0x10 4
  let reserved := control < 8 && allZero b 3 1 && le b 4 4 ≤ 1048575 && allZero b 0x14 44
  if !reserved then none
  else if bit control 0 then
    if 0x00800000 ≤ scale ∧ scale < 0x7F800000 ∧ 1 ≤ le b 0xC 4 ∧ le b 0xC 4 ≤ 4096 ∧ 0 < mass ∧ mass ≤ 0x3F800000 then
      some { greedy := bit control 1, scale := BitVec.ofNat 32 scale, keep := le b 0xC 4, mass := BitVec.ofNat 32 mass }
    else none
  else some { greedy := t.greedy, scale := t.scale, keep := t.keep, mass := t.mass }

/-! ## The algorithm (R270 to R272) -/

def flagGreedy : Nat := 1
def flagInfinite : Nat := 2
def flagNan : Nat := 4
def flagEmpty : Nat := 8
def flagBadHeader : Nat := 16
def flagSkipped : Nat := 32

def noToken : Nat := 0xFFFFFFFF

/-- A candidate put into the list of the best: z descending, index ascending on ties. -/
def insertBest (z : Word) (v : Nat) : List (Word × Nat) → List (Word × Nat)
  | [] => [(z, v)]
  | c :: l => if fless c.1 z then (z, v) :: c :: l else c :: insertBest z v l

/-- What the scan of a row has found: the best candidates, the first +∞, and whether a NaN was met. -/
structure Scan where
  best : List (Word × Nat) := []
  infinite : Option Nat := none
  nan : Bool := false
  deriving DecidableEq, Repr

def Scan.take (x : Scan) (g : RowConfig) (score : Word) (v : Nat) : Scan :=
  if isNaN32 score then { x with nan := true }
  else
    let z := fmul score g.scale
    if z = 0x7F800000#32 then { x with infinite := some (x.infinite.getD v) }
    else if z = negInfinity then x
    else { x with best := (insertBest z v x.best).take g.keep }
where negInfinity : Word := 0xFF800000#32

/-- Running sums of the weights exp2(z − m). -/
def massSums (m : Word) : List (Word × Nat) → Word → List Word
  | [], _ => []
  | c :: l, acc =>
    let a := fadd acc (fexp2 (fsub c.1 m))
    a :: massSums m l a

/-- The index of the first element of which `p` holds, at most `n`. -/
def firstIndex (p : Word → Bool) (l : List Word) (n : Nat) : Nat := min n ((l.findIdx? p).getD n)

/-- The salt of a draw (R272). -/
def drawSalt (planId itemSalt slot : Nat) : Nat :=
  planId % 2 ^ 32 ^^^ planId / 2 ^ 32 ^^^ itemSalt ^^^ 2 ^ 16 * slot

/-- Token, flags and log-probability of a scanned row. -/
def choose (x : Scan) (g : RowConfig) (position salt : Nat) : Nat × Nat × Word :=
  let f := if x.nan then flagNan else 0
  match x.infinite, x.best with
  | some i, _ => (i, f + flagInfinite + flagGreedy, 0)
  | none, [] => (noToken, f + flagEmpty, 0)
  | none, (m, i) :: rest =>
    if g.greedy then (i, f + flagGreedy, 0)
    else
      let c := (m, i) :: rest
      let cum := massSums m c 0
      let last := cum.getD (cum.length - 1) 0
      let t := fmul g.mass last
      let n := firstIndex (fun y => !fless y t) cum (cum.length - 1)
      let cn := cum.getD n 0
      let r := (chaff32 (m ^^^ cn) (BitVec.ofNat 32 position) (BitVec.ofNat 32 salt)).toNat
      let target := fmul cn (toFp32 (.fin false (r / 256) (-24)))
      let j := firstIndex (fun y => fless target y) cum n
      let pick := c.getD j (m, i)
      (pick.2, f, fsub (fsub pick.1 m) (flog2 cn))

/-- The scores of a row as FP32. -/
def SamplerItem.score (t : SamplerItem) (row : List Byte) (v : Nat) : Word :=
  let x := le row (v * t.size) t.size
  if t.format = 0 then toFp32 (bf16.decode x) else if t.format = 1 then toFp32 (fp16.decode x) else BitVec.ofNat 32 x

def sampleRow (t : SamplerItem) (g : RowConfig) (scores : List Byte) (position salt : Nat) : Nat × Nat × Word :=
  choose ((List.range t.vocab).foldl (fun x v => x.take g (t.score scores v) v) {}) g position salt

/-- A result record (R273). -/
def resultRecord (slot flags position token : Nat) (logp : Word) : List Byte :=
  leBytes 2 slot ++ leBytes 1 flags ++ zeros 1 ++ leBytes 4 position ++ leBytes 4 token ++ leBytes 4 logp.toNat

/-- Reads and samples a row: its record and flags, or the address of a lost granule. -/
def State.sampleAt (s : State) (t : SamplerItem) (planId a : Nat) : State × Except Nat (List Byte × Nat) :=
  match s.readDevice {} a 16 with
  | (s, _, some b) => (s, .error b)
  | (s, head, none) =>
    let slot := le head 0 2
    let position := le head 4 4
    let out (flags token : Nat) (logp : Word) : Except Nat (List Byte × Nat) :=
      .ok (resultRecord slot flags position token logp, flags)
    if bit (le head 2 1) 2 then (s, out flagSkipped noToken 0)
    else
      match s.readDevice {} (a + 16) 48 with
      | (s, _, some b) => (s, .error b)
      | (s, tail, none) =>
        match rowConfig t (head ++ tail) with
        | none => (s, out flagBadHeader noToken 0)
        | some g =>
          match s.readDevice {} (a + 64) (t.vocab * t.size) with
          | (s, _, some b) => (s, .error b)
          | (s, scores, none) =>
            let (token, flags, logp) := sampleRow t g scores position (drawSalt planId t.salt slot)
            (s, out flags token logp)

/-- The next job of a unit whose rows are done. -/
def State.nextJob (s : State) (h : Nat) : State :=
  match (s.hopper h).waiting with
  | [] => s
  | j :: l =>
    let s := s.modHopper h fun x => { x with waiting := l }
    match (s.cmd j.context j.csn).bind fun m => s.plan j.context m.planId with
    | none => s
    | some p => s.giveJob h (p.sampler j.item) j

/-- The row in progress of a unit whose command is over has ended: the unit is IDLE, and takes what waits for it (R277). -/
def State.endDropped (s : State) (h : Nat) : State :=
  (s.modHopper h fun x => { x with running := false, dropped := false }).nextJob h

/-- Whether a unit's next row waits: its die's Millpond serves a change of its split (R156), or a pause began before the row did
(R372). -/
def State.rowHeld (s : State) (x : Hopper) (t : SamplerItem) : Bool :=
  (s.paused && !x.inRow) || s.splitHolds (t.rowAt x.nextRow) t.rowBytes || (t.echo != 0 && s.splitHolds (t.echo + 16 * x.nextRow) 16)

/-- What a row leaves beside its record: the echo, the counters, and a trouble bit for a flagged row (R273, R274). -/
def State.rowDone (s : State) (h : Nat) (t : SamplerItem) (record : List Byte) (flags : Nat) : State :=
  let x := s.hopper h
  let flagged := flags &&& (flagEmpty + flagBadHeader + flagNan) != 0
  let s := if t.echo = 0 then s else s.writeOwn (t.echo + 16 * x.nextRow) record
  let s := s.modHopper h fun y =>
    { y with nextRow := y.nextRow + 1, inRow := !s.paused, running := decide (y.nextRow + 1 < y.endRow),
             rowsDone := saturate32 (y.rowsDone + 1),
             flaggedRows := if flagged then saturate16 (y.flaggedRows + 1) else y.flaggedRows }
  if flagged then s.setTroubleBit (.hopper h) 2 (5, x.context) x.context else s

/-- HOPPER_ROW_SAMPLE (R268 to R274, R276): a unit samples its next row, keeps its record and writes its echo. Of a row whose command
is over the record is discarded (R277). -/
def execHopperRowSample (h : Fin 4) (s : State) : Out :=
  let x := s.hopper h
  match (s.cmd x.context x.csn).bind fun m => (s.plan x.context m.planId).map (m, ·) with
  | none => event x.dropped s (s.endDropped h)
  | some (m, p) =>
    let t := p.sampler x.item
    if !x.running ∨ x.endRow ≤ x.nextRow ∨ s.rowHeld x t then .next s
    else
      match s.sampleAt t p.id (t.rowAt x.nextRow) with
      | (s, .error b) =>
        .next (if x.dropped then (s.unitFault h x.context b 3).endDropped h else s.hopperFault h x.context x.csn b 3)
      | (s, .ok (record, flags)) =>
        if x.dropped then .next ((s.rowDone h t record flags).endDropped h)
        else
          let first := p.firstRecord (m.actions.map (·.entry)) x.action
          let s := s.modCmd x.context x.csn fun m => { m with records := sput [] m.records (first + x.nextRow) record }
          let s := s.rowDone h t record flags
          .next (if (s.hopper h).running then s else s.nextJob h)

end Sys2Proof.Machine
end

