-- ==== Sys2Proof/Machine/Quern.lean ====
section
/-! DEFINITION. In-bank compute (R185 to R211): the units' arithmetic, descriptors taken from the queue, chunks, the bank
chain and QUERN actions. -/

namespace Sys2Proof.Machine

/-! ## Units, positions and records (R185, R198) -/

/-- The unit that serves a bank. -/
def unitOf (b : Nat) : Nat := b / 16 * 4 + b % 4

/-- The row and the record within it of position `p`. -/
def QuernDesc.placeOf (d : QuernDesc) (p : Nat) : Nat × Nat :=
  (d.firstRow + p / 64 / d.perRow, p / 64 % d.perRow)

def elemFmt (format : Nat) : Fmt := if format = 0 then e4m3 else if format = 1 then e5m2 else bf16

/-- `n` bytes at offset `x` of the command window (row 0) or the result window (row 1) of a pseudo-channel (R194). -/
def windowKey (k p f r x : Nat) : Nat := rowAddress k p (256 * f + r) (x / 1024) (x % 1024)

def State.windowRead (s : State) (k p x n : Nat) : List Byte :=
  (List.range n).map fun i => memGet s.mem (windowKey k p (s.pseudo k p).firstSeg 0 (x + i))

/-- Writes of the result window go past the check bits, which a NONE segment does not have. -/
def State.resultWrite (s : State) (k p x : Nat) (l : List Byte) : State :=
  { s with mem := l.zipIdx.foldl (fun m (b, i) => memPut m (windowKey k p (s.pseudo k p).firstSeg 1 (x + i)) b) s.mem }

/-- The elements of a record: `n` of them from byte `x` on. -/
def QuernDesc.elems (d : QuernDesc) (rec : List Byte) (x n : Nat) : List Val :=
  (List.range n).map fun j => (elemFmt d.format).decode (le rec (x + j * d.elementSize) d.elementSize)

/-- The key and the value of head `h` in a record. -/
def QuernDesc.keyOf (d : QuernDesc) (rec : List Byte) (h : Nat) : List Val := d.elems rec (h * d.dim * d.elementSize) d.dim
def QuernDesc.valueOf (d : QuernDesc) (rec : List Byte) (h : Nat) : List Val :=
  d.elems rec ((d.heads + h) * d.dim * d.elementSize) d.dim

/-- The record of position `x`, read past the memory controller. -/
def State.record (s : State) (k p : Nat) (d : QuernDesc) (x : Nat) : List Byte :=
  let (row, i) := d.placeOf x
  (List.range d.recordSize).map fun y => memGet s.mem (rowAddress k p row (x % 64) (i * d.recordSize + y))

/-! ## Arithmetic (R201, R202) -/

def fma (x y : Val) (acc : Word) : Word := toFp32 ((x.mul y).add (ofFp32 acc))

/-- Products added in ascending element order, then the scale. -/
def score (q key : List Val) (c : Word) : Word := fmul c ((q.zip key).foldl (fun acc (a, b) => fma a b acc) 0)

def negInf : Word := 0xFF800000#32

/-- A unit before its first position. -/
def emptyPart (dim : Nat) : Part := { m := negInf, l := 0, o := List.replicate dim 0 }

/-- One position of ATTEND in a unit. A NaN that meets no maximum yet becomes the maximum (R202; DEDUCED, assumption log
17); a NaN element of the value makes l and every element of o NaN (R202). -/
def Part.attend (r : Part) (s : Word) (v : List Val) : Part :=
  if s = negInf then r
  else
    let r :=
      if fless r.m s ∨ (isNaN32 s ∧ r.m = negInf) then
        let a := fexp2 (fsub r.m s)
        { m := s, l := fmul r.l a, o := r.o.map fun x => fmul x a }
      else r
    let w := fexp2 (fsub s r.m)
    if v.any Val.isNaN then { r with l := toFp32 .nan, o := r.o.map fun _ => toFp32 .nan }
    else { r with l := fadd r.l w, o := (v.zip r.o).map fun (x, o) => fma (ofFp32 w) x o }

/-- Unit u − 1's result merged with unit u's. -/
def Part.merge (acc r : Part) : Part :=
  if r.m = negInf then acc
  else if acc.m = negInf then r
  else
    let m := fmaxNum acc.m r.m
    let a := fexp2 (fsub acc.m m)
    let b := fexp2 (fsub r.m m)
    { m := m, l := ffma r.l b (fmul acc.l a), o := (r.o.zip acc.o).map fun (x, y) => ffma x b (fmul y a) }

/-- One position of one query in a unit. The queries and weights are read from the command window as the chunk ends: R201 and R206 do
not say when a running descriptor's operands are read (DESIGN CHOICE, assumption log 17). -/
def State.visit (s : State) (k p : Nat) (d : QuernDesc) (x i : Nat) (run : QuernRun) : QuernRun :=
  let rec_ := s.record k p d x
  let h := i / d.queries
  let key := unitOf (x % 64) * 256 + i
  let part := sget (emptyPart d.dim) run.parts key
  let query := (List.range d.dim).map fun j => bf16.decode (leNat (s.windowRead k p (d.operand + i * d.dim * 2 + j * 2) 2))
  if d.op = 1 then { run with scores := sput 0 run.scores (i * d.length + x) (score query (d.keyOf rec_ h) d.scale) }
  else
    let part :=
      if d.op = 2 then
        let w := BitVec.ofNat 32 (leNat (s.windowRead k p (d.operand + (i * d.length + x) * 4) 4))
        { part with o := ((d.valueOf rec_ h).zip part.o).map fun (v, o) => fma (ofFp32 w) v o }
      else part.attend (score query (d.keyOf rec_ h) d.scale) (d.valueOf rec_ h)
    { run with parts := sput (emptyPart d.dim) run.parts key part }

/-- The positions that `n` rows of every bank hold, from row index `r` on. -/
def QuernDesc.positions (d : QuernDesc) (r n : Nat) : List Nat :=
  (List.range' (r * 64 * d.perRow) (n * 64 * d.perRow)).filter (· < d.length)

/-- The row visits of the units for `n` rows from row index `r` on: rows of a bank that hold a position. -/
def QuernDesc.visits (d : QuernDesc) (r n : Nat) : Nat :=
  sumNat ((List.range' r n).map fun i => min 64 (d.length - i * 64 * d.perRow))

/-- Writes words from result offset `x` on. -/
def State.resultWords (s : State) (k p x : Nat) (l : List Word) : State :=
  s.resultWrite k p x (l.flatMap fun w => leBytes 4 w.toNat)

/-- The result of the bank chain for query `i`: the units merged from 0 to 15. -/
def QuernRun.chain (run : QuernRun) (d : QuernDesc) (i : Nat) : Part :=
  let unit (u : Nat) : Part := sget (emptyPart d.dim) run.parts (u * 256 + i)
  (List.range' 1 15).foldl (fun acc u =>
    if d.op = 2 then { acc with o := (acc.o.zip (unit u).o).map fun (x, y) => fadd x y } else acc.merge (unit u)) (unit 0)

/-- Unit 15 writes the result window (R198). -/
def State.writeResult (s : State) (k p : Nat) (d : QuernDesc) (run : QuernRun) : State :=
  if d.length = 0 then s
  else if d.op = 1 then
    s.resultWords k p d.result ((List.range (d.vectors * d.length)).map fun i => sget 0 run.scores i)
  else
    (List.range d.vectors).foldl (fun s i =>
      let r := run.chain d i
      if d.op = 2 then s.resultWords k p (d.result + i * d.dim * 4) r.o
      else s.resultWords k p (d.result + i * (d.dim + 2) * 4) (r.m :: r.l :: r.o)) s

/-! ## The commands of the dispatcher -/

/-- Moves descriptors that wait for a place into the queue (R195). -/
def State.refillQuern (s : State) (k p : Nat) : State :=
  s.modPseudo k p fun x =>
    let n := 16 - x.depth
    { x with queue := x.queue ++ x.backlog.take n, backlog := x.backlog.drop n }

/-- The first row of a descriptor that is no data row of the window. -/
def PseudoChannel.badRow (x : PseudoChannel) (d : QuernDesc) : Option Nat :=
  let lo := 256 * x.firstSeg + 2
  let hi := 256 * (x.firstSeg + x.segCount)
  if d.length = 0 then none
  else if d.firstRow < lo ∨ hi ≤ d.firstRow then some d.firstRow
  else if hi < d.firstRow + d.rows ∨ d.length = 0xFFFFFFFF then some hi
  else none

/-- A descriptor refused: it is not run, the status line names it, and its command fails (R200). -/
def State.guardTrip (s : State) (k p : Nat) (e : QuernEntry) (row : Nat) : State :=
  let s := s.modPseudo k p fun x =>
    { x with guardRow := BitVec.ofNat 32 row, guardTag := BitVec.ofNat 32 (quernDesc e.bytes).tag }
  (s.setPcFlag k p 2 e.context).noteStop e.context e.csn
    { rank := 2, status := Status.quernGuard, unit := k, address := 2 ^ 37 * k }

/-- The QUERN action that wrote a descriptor; a descriptor that a stream wrote has none. -/
def State.quernAction (s : State) (e : QuernEntry) : Option ActionRun := (s.cmd e.context e.csn).bind fun m => m.actions[e.action]?

/-- Chunk band of the next chunk for a descriptor: the highest that its stack has had while its action runs (R207). The chunks of a
descriptor that a stream wrote do not shrink the band either. -/
def State.chunkBandNow (s : State) (k p : Nat) (e : QuernEntry) : Nat :=
  let x := s.pseudo k p
  match s.quernAction e with
  | some a => max (sget 0 a.bankBands k) (s.stack k).band
  | none => if x.running.isSome then max x.chunkBand (s.stack k).band else (s.stack k).band

/-- QUERN_DESCRIPTOR_DEQUEUE (R195, R199, R200): the descriptor at the front is checked, and runs or is refused. -/
def execQuernDescriptorDequeue (k : Fin 8) (p : Fin 64) (s : State) : Out :=
  let x := s.pseudo k p
  match x.queue with
  | [] => .next s
  | e :: rest =>
    if x.mode ≠ .compute ∨ x.running.isSome ∨ x.resting ∨ s.paused then .next s
    else
      let d := quernDesc e.bytes
      let b := s.chunkBandNow k p e
      let s := s.modPseudo k p fun x => { x with queue := rest }
      match x.badRow d with
      | some r => .next ((s.guardTrip k p e r).refillQuern k p)
      | none =>
        if !validQuern e.bytes then .next ((s.guardTrip k p e d.firstRow).refillQuern k p)
        else
          .next (s.modPseudo k p fun x =>
            { x with running := some { entry := e, rowsDone := 0, parts := [], scores := [] }, chunkBand := b, chunkIn := true,
                     flags := if (s.stack k).halfDuty then x.flags ||| 4 else x.flags })

/-- The running descriptor has rows that no chunk has visited. -/
def PseudoChannel.rowsLeft (x : PseudoChannel) : Bool :=
  x.running.any fun run => decide (run.rowsDone < 4 * (quernDesc run.entry.bytes).rows)

/-- The next chunk of a running descriptor begins, in the stack's present band (R204, R207). -/
def State.beginChunk (s : State) (k p : Nat) : State :=
  match (s.pseudo k p).running with
  | none => s
  | some run =>
    let b := s.chunkBandNow k p run.entry
    s.modPseudo k p fun x => { x with chunkIn := true, chunkBand := b }

/-- Whether another chunk may begin now (R191, R208, R372). -/
def State.chunkMayBegin (s : State) (x : PseudoChannel) : Bool := x.mode == .compute && x.running.isSome && !x.resting && !s.paused

/-- The chunk in progress of a discarded descriptor, or in SEALING, was the last: nothing of the descriptor is left, and the
refreshes that it held back are performed (R191, R192, R204). -/
def PseudoChannel.endLast (x : PseudoChannel) : PseudoChannel := { x with running := none, chunkIn := false, postponed := [] }

/-- The rows of the chunk in progress: the first row index and their number. -/
def PseudoChannel.chunkSpan (x : PseudoChannel) (run : QuernRun) : Nat × Nat :=
  let r := run.rowsDone / 4
  (r, min (chunkRows x.chunkBand) ((quernDesc run.entry.bytes).rows - r))

/-- The units have completed the row visits of the chunk in progress (R366). -/
def State.countVisits (s : State) (k p : Nat) (run : QuernRun) : State :=
  let (r, n) := (s.pseudo k p).chunkSpan run
  s.modStack k fun t => { t with rowVisits := t.rowVisits + (quernDesc run.entry.bytes).visits r n }

/-- The chunk in progress: its row visits, the units' parts, and the rest that half duty makes follow it. -/
def State.runChunk (s : State) (k p : Nat) (run : QuernRun) : State :=
  let x := s.pseudo k p
  let d := quernDesc run.entry.bytes
  let (r, n) := x.chunkSpan run
  let pairs := (d.positions r n).flatMap fun y => (List.range d.vectors).map fun i => (y, i)
  let s := s.countVisits k p run
  let run := pairs.foldl (fun run (y, i) => s.visit k p d y i run) run
  let b := s.chunkBandNow k p run.entry
  let half := (s.stack k).halfDuty
  let s := s.modPseudo k p fun x =>
    { x with running := some { run with rowsDone := 4 * (r + n) }, postponed := [], chunkBand := b, chunkIn := false, resting := half,
             flags := if half then x.flags ||| 4 else x.flags }
  s.modPseudo k p fun x => { x with chunkIn := s.chunkMayBegin x && x.rowsLeft }

/-- QUERN_CHUNK_END (R196, R204, R208): a chunk of the running descriptor ends; the refreshes it held back are performed. In a
pause and in SEALING no other chunk follows (R191, R372); at half duty the next one follows after the length of a chunk. -/
def execQuernChunkEnd (k : Fin 8) (p : Fin 64) (s : State) : Out :=
  let x := s.pseudo k p
  if x.resting then
    let s := s.modPseudo k p fun x => { x with resting := false }
    .next (if (s.chunkMayBegin (s.pseudo k p) && (s.pseudo k p).rowsLeft : Bool) then s.beginChunk k p else s)
  else
    match x.running with
    | none => .next s
    | some run =>
      if !x.chunkIn then .next s
      else if run.dropped ∨ x.mode ≠ .compute then .next ((s.countVisits k p run).modPseudo k p PseudoChannel.endLast)
      else .next (s.runChunk k p run)

/-- QUERN_DESCRIPTOR_END (R187, R201, R213): the units have finished, the chain merges and the result is written. -/
def execQuernDescriptorEnd (k : Fin 8) (p : Fin 64) (s : State) : Out :=
  let x := s.pseudo k p
  match x.running with
  | none => .next s
  | some run =>
    let d := quernDesc run.entry.bytes
    if x.mode ≠ .compute ∨ run.dropped ∨ run.rowsDone < 4 * d.rows then .next s
    else
      let s := s.writeResult k p d run
      .next ((s.modPseudo k p fun x =>
        { x with running := none, chunkIn := false, completed := x.completed + 1,
                 lastTag := BitVec.ofNat 32 d.tag }).refillQuern k p)

/-! ## QUERN actions (R211) -/

/-- Writes the entries of an item into the descriptor lines, in entry order; those without a place wait. -/
def State.startQuern (s : State) (plan : Plan) (item c csn action : Nat) : State :=
  let tag := (s.context c).generation % 16
  let uses := plan.querns.getD item []
  let s := uses.foldl (fun s (k, p, b) => s.modPseudo k p fun x => { x with backlog := x.backlog ++
    [{ bytes := b, context := c, csn := csn, action := action, tag := tag }] }) s
  uses.foldl (fun s (k, p, _) => s.refillQuern k p) s

/-- Whether a descriptor of a QUERN action has not ended. -/
def State.quernBusy (s : State) (c csn action : Nat) : Bool :=
  s.memStacks.any fun e => e.2.pcs.any fun x =>
    (x.2.queue ++ x.2.backlog ++ ((x.2.running.filter fun r => !r.dropped).map (·.entry)).toList).any fun q =>
      q.context == c && q.csn == csn && q.action == action

end Sys2Proof.Machine
end

