-- ==== Sys2Proof/Machine/Sweep.lean ====
section
/-! DEFINITION. The sweep of SEG.RECODE (R150, R178, R179, R404): one segment after another, in ascending order. -/

namespace Sys2Proof.Machine

/-- The segments that a SEG.RECODE still has to sweep: those that already carry the new code are skipped. -/
def State.unswept (s : State) (m : Cmd) : List Nat :=
  (List.range' (m.address + m.progress) (m.count - m.progress)).filter fun g => s.segCode g != m.value

/-- A sweep goes on after a restart: the page recorded as being written is rewritten from its copy (R404). -/
def State.resumePage (s : State) (c csn g : Nat) : State :=
  match (s.cmd c csn).bind (·.copied) with
  | none => s
  | some (page, data) =>
    (s.writeKey (2 ^ 30 * g + 65536 * page) data).modCmd c csn fun m => { m with swept := page + 1, copied := none }

/-- Begins the sweep of the next segment once its stack sweeps for no other command, its cached lines written back and dropped
(R150), or ends the command. -/
def State.sweepNext (s : State) (c csn : Nat) : State :=
  match s.cmd c csn with
  | none => s
  | some m =>
    let left := s.unswept m
    let here (k : Nat) : Nat := (left.filter fun g => g / 128 == k).length
    let s := (stacksOfRun m.address m.count).foldl (fun s k =>
      if s.sweepRuns k then s else s.modStack k fun t => { t with sweepLeft := here k }) s
    match left with
    | [] =>
      let status := if 0 < m.lost then Status.uncorrectable else Status.done
      s.finish c csn status s.now m.lost { rank := 0, status := status, address := m.firstLost }
    | g :: _ =>
      if s.sweepRuns (g / 128) then s
      else
        ((s.dropLines (g / 256) fun x => x.line / 4194304 == g).resumePage c csn g).modStack (g / 128) fun t =>
          { t with sweep := some (c, csn), sweepSegment := g, sweepSince := s.uptime }

/-- A block of the segment in its turn, read under the old code: corrected, or lost, as the new code has it; what the new code
carves is discarded (R179). -/
def State.sweepBlock (s : State) (a code : Nat) : State × Bool :=
  match s.readBlock a 4 with
  | (s, false) => (s.clearDamage a, false)
  | (s, true) =>
    (if usableBytes code ≤ a % 2 ^ 30 then s.clearDamage a
     else if code = 0 then (s.clearKey a 64).clearDamage a
     else s.poisonBlock a, true)

/-- The blocks of a segment's pages from `lo` to before `hi` that a read can find wrong. -/
def State.oddBlocks (s : State) (g lo hi : Nat) : List Nat :=
  let t := s.stack (g / 128)
  let base := 2 ^ 30 * g
  ascending ((s.damage.map (·.1) ++ t.caErrors.map (·.1) ++ t.strays.map (·.1)).filter fun a =>
    decide (base + 65536 * lo ≤ a ∧ a < base + 65536 * hi ∧ a % 2 ^ 30 < usableBytes (s.segCode g)))

/-- Sweeps some pages of a segment: the blocks lost, in ascending order. -/
def State.sweepPages (s : State) (g code lo hi : Nat) : State × List Nat :=
  (s.oddBlocks g lo hi).foldl (fun (s, l) a =>
    match s.sweepBlock a code with
    | (s, true) => (s, l ++ [a])
    | (s, false) => (s, l)) (s, [])

/-- Rewrites a segment under a new code from page `from_` on: what the new code carves is discarded; the blocks lost, in ascending
order. -/
def State.sweepSegment (s : State) (g code from_ : Nat) : State × List Nat :=
  let (s, lost) := s.sweepPages g code from_ 16384
  ((s.clearKey (2 ^ 30 * g + usableBytes code) (2 ^ 30 - usableBytes code)).setSegCode g code, lost)

/-- A command has lost some blocks of a sweep. -/
def Cmd.lose (m : Cmd) (l : List Nat) : Cmd :=
  { m with lost := m.lost + l.length, firstLost := if m.lost = 0 then l.head?.getD 0 else m.firstLost }

/-- A sweep is cut short: the pages before the one it has reached are recorded as swept, that one as being written, its decoded data
copied into the journal segments (R404). STACK.Sweep reads zero on every stack from then on (R184). -/
def State.interruptSweep (s : State) (k : Nat) : State :=
  let t := s.stack k
  let s := s.modStack k fun t => { t with sweep := none, sweepSegment := 0, sweepLeft := 0 }
  match t.sweep with
  | none => s
  | some (c, csn) =>
    match s.cmd c csn with
    | none => s
    | some m =>
      let g := t.sweepSegment
      let page := max m.swept (64 * (Config.sweepProgress g (s.uptime - t.sweepSince)).val)
      let (s, lost) := s.sweepPages g m.value m.swept (page + 1)
      s.modCmd c csn fun m =>
        { m.lose lost with swept := page, copied := some (page, s.readRaw (2 ^ 30 * g + 65536 * page) 65536) }

def State.interruptSweeps (s : State) : State := (List.range 8).foldl State.interruptSweep s

/-- A command that swept segment `g` of stack `k` goes on, and then the commands that wait for the stack, in their order. -/
def State.sweepOn (s : State) (c csn : Nat) : State :=
  let s := s.sweepNext c csn
  (s.recodes.filter fun e => !(e.1 == c && e.2.csn == csn)).foldl (fun s e =>
    if s.memStacks.any fun t => t.2.sweep == some (e.1, e.2.csn) then s else s.sweepNext e.1 e.2.csn) s

/-- The sweep of the segment that stack `k` is at ends, and the next begins. -/
def State.endSweep (s : State) (k : Nat) : State :=
  let t := s.stack k
  match t.sweep with
  | none => s
  | some (c, csn) =>
    let s := s.modStack k fun t => { t with sweep := none, sweepSegment := 0, sweepLeft := 0 }
    match s.cmd c csn with
    | none => s
    | some m =>
      let (s, lost) := s.sweepSegment t.sweepSegment m.value m.swept
      (s.modCmd c csn fun m => { m.lose lost with progress := t.sweepSegment + 1 - m.address, swept := 0 }).sweepOn c csn

end Sys2Proof.Machine
end

