-- ==== Sys2Proof/Machine/Schedule.lean ====
section
/-! DEFINITION. Accepted commands and the schedule: the journal's acknowledgement (R312), the start, window and end of actions
(R51, R52, R137), FILLER starts (R351), slip and misses (R60, R61, R354), stops, timeouts and suspensions (R62, R93, R238 to
R240, R390) and completions (R59, R274).

A command's work may go on in two ways at once, so its progress lies in `Cmd.actions`; windows count the notches in which no
pause holds the schedule (`State.worked`). -/

namespace Sys2Proof.Machine

/-! ## Slip (R60, R355) -/

/-- Every command that runs or waits to run changed by a function: booked ones, FILLER commands in the queue, those on their way to
the journal and those held for a head. -/
def State.mapBooked (s : State) (f : Cmd → Cmd) : State :=
  let s := s.modSchedule fun y => { y with tentative := y.tentative.map (fun t => { t with cmd := f t.cmd }) }
  let s := s.modJournal fun j => { j with staging := j.staging.map (fun x => { x with cmd := f x.cmd }) }
  s.mapCmds fun m => if m.phase = .booked ∨ m.phase = .queued then f m else m

/-- Delay charged to a command: it is added once the command's schedule has begun, and carried in until then. -/
def Cmd.charge (m : Cmd) (d : Delay) : Cmd :=
  if m.begun then { m with added := m.added.add d } else { m with carried := m.carried.add d }

/-- Adds delay to the slip and to every command that runs or waits to run. -/
def State.addSlip (s : State) (d : Delay) : State :=
  (s.modSchedule fun x => { x with slip := x.slip.add d }).mapBooked fun m => m.charge d

/-- One notch of delay of a cause. -/
def oneNotch (cause : Nat) : Delay :=
  { thermal := bnat (cause == 1), link := bnat (cause == 2), overrun := bnat (cause == 3) }

/-- What an action's running past its window counts as now: THERMAL in a slowed bank, LINK while a link that its stream or exchange
crosses is narrower than its certificate's floor, or when its traffic is moved or was, and OVERRUN otherwise (R207, R208, R288,
R291, R300). -/
def State.overrunCause (s : State) (m : Cmd) (a : ActionRun) : Nat :=
  let narrow := (a.entry.action = 2 ∨ a.entry.action = 5) ∧ s.linksNarrow a.links m.floor
  if a.entry.action = 3 ∧ a.slowed then 1
  else if narrow ∨ a.moved ∨ s.linksMoved a.links then 2
  else 3

/-- The causes of the overruns that go on now, each judged in the present notch. -/
def State.overrunning (s : State) : List Nat :=
  s.contexts.flatMap fun e => (e.2.stream.cmds.filter fun m => m.phase == .booked).flatMap fun m =>
    (m.actions.filter fun a => a.phase == .running && a.overran != 0 && a.overran != 4).map (s.overrunCause m)

/-- The cause for which the present notch delays the schedule: a pause, else the first cause of the overruns that go on; 0
for none. -/
def State.delayCause (s : State) : Nat :=
  if s.paused then 1 else ([1, 2, 3].find? fun c => s.overrunning.contains c).getD 0

/-- Slip less one notch: THERMAL first, then LINK, then OVERRUN (R60). -/
def Delay.lower (d : Delay) : Delay :=
  if 0 < d.thermal then { d with thermal := d.thermal - 1 }
  else if 0 < d.link then { d with link := d.link - 1 }
  else { d with overrun := d.overrun - 1 }

/-- The slip has fallen by an idle notch. A command not yet begun keeps its booked start on the wheel when the slip falls below
what it was at booking: work never runs early (R26). What it carries in is the delay of its start, and an idle notch takes from
its shares in their order (R60). -/
def Cmd.keepStart (m : Cmd) (slip : Delay) : Cmd :=
  if m.begun then m
  else
    let m := if slip.total < m.slip0.total then
        { m with start := m.start + (m.slip0.total - slip.total), slip0 := slip } else m
    if slip.total < m.slip0.total + m.carried.total then { m with carried := m.carried.lower } else m

/-- The same for the occurrences of a booking. -/
def Booking.keepStart (b : Booking) (slip : Nat) : Booking :=
  if b.slip0 ≤ slip then b else { b with first := b.first + (b.slip0 - slip), slip0 := slip }

def State.lowerSlip (s : State) : State :=
  if s.schedule.slip.total = 0 then s
  else
    let d := s.schedule.slip.lower
    (s.modSchedule fun y => { y with slip := d, bookings := y.bookings.map (fun b => b.keepStart d.total) }).mapBooked
      fun m => m.keepStart d

/-! ## Misses (R61, R354) -/

/-- Sends the notice of a miss that has become certain. -/
def State.checkMiss (s : State) (c : Nat) (m : Cmd) : State :=
  let d := m.delay
  let projected := m.promise - m.duration + m.span + d.total
  if m.phase = .booked ∧ m.promise ≠ 0 ∧ !m.missSent ∧ m.promise < projected then
    (s.modCmd c m.csn fun x => { x with missSent := true }).notice c m.sender Status.noticeMiss m.csn projected m.promise
      (d.largest + 2 ^ 32 * d.total)
  else s

def State.checkMisses (s : State) : State :=
  (s.contexts.flatMap fun e => e.2.stream.cmds.map (e.1, ·)).foldl (fun s (c, m) => s.checkMiss c m) s

/-! ## The journal's acknowledgement (R312) -/

/-- The command as it enters its stream. -/
def State.accepted (s : State) (x : Staged) (csn : Nat) : Cmd :=
  let m := { x.cmd with csn := csn }
  if m.opcode = 0x0301 then
    if m.cls = 2 then { m with phase := .queued } else { m with phase := .booked, actions := s.freshActions x.stream m }
  else
    { m with phase := .working, timeout := m.workTimeout s.now }

/-- The reply of an accepted or refused command, to its session or to the head that forwarded it. -/
def State.replyStaged (s : State) (x : Staged) (r : Reply) : State :=
  match x.cmd.forwarded with
  | some k => s.answerForward k (s.answerOf
      { headSerial := k.1, headAddress := 0, session := k.2.1, number := k.2.2, context := x.stream, params := [] } r)
  | none => if x.answer then s.sendReply x.session x.number x.cmd.opcode r else s

/-- The record of a command is in both copies: the command enters its stream, and booked work wakes the stacks that it needs. One
that comes while its context's commands wait for their restart waits with them. -/
def State.journaled (s : State) (x : Staged) : State :=
  let csn := (s.stream x.stream).next
  let m := s.accepted x csn
  let wait := s.holdsBack x.stream && m.restarts
  let position := s.fillersWaiting
  let s := s.modStream x.stream fun t => { t with next := t.next + 1, cmds := t.cmds ++ [if wait then m.given else m] }
  let s := if m.opcode = 0x0301 ∧ m.cls = 2 ∧ !wait then s.modSchedule fun y => { y with fillers := y.fillers ++ [(x.stream, csn)] } else s
  let s := s.modStagedGroups x.stream fun j g => if m.slots.contains j then max g (s.bookedGroups x.stream j) else g
  let s := s.replyStaged x (m.acceptance position)
  if wait then s
  else if m.opcode = 0x0301 then (if m.cls = 2 then s else s.wakeStacks m.shares)
  else if m.opcode = 0x0E05 ∨ m.opcode = 0x0E06 then s.startCopy x.stream csn
  else if m.opcode = 0x0801 then s.sweepNext x.stream csn
  else s

/-- A record that was not written: the booking goes, pages are unmapped, and the command is refused. -/
def State.unjournaled (s : State) (x : Staged) : State :=
  let s := s.undoBooked x.stream x.cmd.append x.groupsBefore
  let s := if x.cmd.opcode = 0x0E05 ∨ x.cmd.opcode = 0x0E06 then s.endCopy x.stream x.cmd else s
  s.replyStaged x (refuse Status.journal)

/-- The effect that is written next: the oldest, when no record of a command waits before it. -/
def Journal.effectDue (j : Journal) : Option Effect := j.effects.head?.filter fun e => e.behind == 0 || j.staging.isEmpty

/-- Both journal copies hold the effect of an immediate command: its reply goes out. -/
def State.effectHeld (s : State) (e : Effect) : State :=
  (s.modJournal fun j => { j with effects := j.effects.drop 1, waitingSince := s.uptime }).deliverReply e.session e.number e.opcode e.payload

/-- The oldest command record is out of the staging area. -/
def State.unstage (s : State) : State :=
  s.modJournal fun j => { j with
    staging := j.staging.drop 1, effects := j.effects.map fun e => { e with behind := e.behind - 1 }, waitingSince := s.uptime }

/-- JOURNAL_WRITE_ACK (R312, R313): both copies have acknowledged the oldest waiting record or effect, or one has failed. The
write of an effect that failed is made again: its command has acted, and its DONE waits for it (assumption log 45). -/
def execJournalWriteAck (ok : Bool) (s : State) : Out :=
  match s.journal.effectDue, s.journal.staging with
  | some e, _ => .next (if ok then s.effectHeld e else s)
  | none, [] => .next s
  | none, x :: _ => .next (if ok then s.unstage.journaled x else s.unstage.unjournaled x)

/-! ## The start of an action (R51, R52, R137) -/

/-- The commands' parameter bytes in the run block, and barrier counters and descriptor counts zero on their cores (R232,
R241, R328). -/
def State.beginSchedule (s : State) (c : Nat) (m : Cmd) : State :=
  let s := s.writeScratch (s.grant c).runBlock m.frame.payload
  ((quarterCores m.quarters).filter s.logicalExists).foldl (fun s k => s.modCore (s.physical k) fun x =>
    { x with barriers := [], channels := smap {} (fun _ h => { h with done := 0, enqueued := 0 }) x.channels }) s

/-- A resumed command's barrier counters as they were saved (R240). -/
def State.restoreBarriers (s : State) (m : Cmd) : State :=
  let s := ((quarterCores m.quarters).filter s.logicalExists).foldl (fun s k =>
    s.modCore (s.physical k) fun x => { x with barriers := [] }) s
  m.savedBarriers.foldl (fun s (k, i, v) => s.modCore (s.physical k) fun x => { x with barriers := sput 0 x.barriers i v }) s

/-- Whether the notch has come in which a command's schedule begins: its ramp-in is over. -/
def State.beginsNow (s : State) (m : Cmd) : Bool :=
  decide (m.phase = .booked) && !m.begun && !m.actions.isEmpty && decide (m.start + m.rampIn ≤ s.clock)

/-- A command's schedule begins. -/
def State.beginCmd (s : State) (c : Nat) (m : Cmd) : State :=
  if m.begun then s
  else
    let s := if m.resuming then s.restoreBarriers m else s.beginSchedule c m
    s.modCmd c m.csn fun x => { x with begun := true, resuming := false }

/-- What starting an action does in its units. -/
def State.startUnits (s : State) (c : Nat) (m : Cmd) (i : Nat) (e : SlotEntry) : State :=
  match s.plan c m.planId with
  | none => s
  | some p =>
    let cores := (quarterCores e.units).filter s.logicalExists
    match e.action with
    | 1 => cores.foldl (fun s k => if (s.core (s.physical k)).state = .running then s else s.startCore c m i k) s
    | 2 =>
      if m.saved.any (·.action == i) then s.restoreChannels c m.csn i m.saved
      else cores.foldl (fun s k => s.startGroup p e.argument c m.csn i k) s
    | 3 => s.startQuern p e.argument c m.csn i
    | 4 => s.startHopper p e.argument c m.csn i e.units
    | _ => s

/-- Whether a logical core of some quarters is in reset. -/
def State.coresInReset (s : State) (quarters : Nat) : Bool :=
  (quarterCores quarters).any fun k => s.logicalExists k &&
    (s.dev.groupResets.any (·.1 == s.groupOf k) || s.dev.dieResets.any (·.1 == dieOfCore (s.physical k)))

/-- Whether an action is still running at the end of its window: it holds every later action of every command (R52, R60). -/
def State.overdue (s : State) : Bool :=
  s.contexts.any fun e => e.2.stream.cmds.any fun m => m.phase == .booked &&
    m.actions.any fun a => a.phase == .running && a.overran != 4 && decide (a.startedAt + a.window ≤ s.worked)

/-- No earlier action of the command still waits to start: work is never reordered (R26). -/
def Cmd.inOrder (m : Cmd) (a : ActionRun) : Bool :=
  m.actions.all fun b => b.phase != .waiting || decide (a.entry.offsets.getD m.band 0 ≤ b.entry.offsets.getD m.band 0)

/-- Whether an action may start now: no pause, its command running to schedule, its offset come, no overrunning action, none
of its command before it. A command stopped for a fault of an earlier notch starts nothing; faults of one notch are all looked
for (R93, R276). What the starts of this notch have added to the slip does not put off the others of the notch (R31). -/
def State.mayStart (s : State) (m : Cmd) (a : ActionRun) : Bool :=
  decide (m.phase = .booked) && m.stop.all (·.notch == s.now) && decide (a.phase = .waiting) && m.inOrder a && !s.paused &&
  !s.coresInReset m.quarters && (s.dev.state == .ready || s.dev.state == .degraded) &&
  decide (m.start + m.rampIn + a.entry.offsets.getD m.band 0 ≤ s.clock + s.schedule.startSlip + m.skipped) && !s.overdue

/-- Running QUERN actions: the highest bands of their stacks, and whether one has a band above their command's or runs at half duty
(R207, R208). -/
def State.noteSlowed (s : State) : State :=
  let banks (a : ActionRun) : List Nat := if a.entry.action == 3 && a.phase == .running then bitsSet a.entry.units 8 else []
  let slow (m : Cmd) (a : ActionRun) : Bool := (banks a).any fun k => decide (m.band < (s.stack k).band) || (s.stack k).halfDuty
  s.mapCmds fun m => { m with actions := m.actions.map fun a =>
    { a with slowed := a.slowed || slow m a,
             bankBands := (banks a).foldl (fun l k => sput 0 l k (max (sget 0 l k) (s.stack k).band)) a.bankBands } }

/-- Running actions whose traffic is moved by a die in reset or a down link (R300). -/
def State.noteMoved (s : State) : State :=
  if s.detoured then
    s.mapCmds fun m => { m with actions := m.actions.map fun a =>
      { a with moved := a.moved || (a.phase == .running && s.linksMoved a.links) } }
  else s

/-- The links that an action's traffic is known to cross when it starts: an exchange crosses those between the dies of its quarters,
a Hopper unit reads its rows over its Sluice link (R137, R263). A stream's follow with its pieces. -/
def State.actionLinks (s : State) (c : Nat) (m : Cmd) (e : SlotEntry) : Nat :=
  if e.action = 5 then
    let dies := ((bitsSet e.units 16).map (· / 4)).eraseDups
    (dies.flatMap fun a => dies.map fun b => linksBetween a b).foldl (· ||| ·) 0
  else if e.action = 4 then
    match s.plan c m.planId with
    | none => 0
    | some p => ((bitsSet e.units 4).map fun h => hopperLinks h (dieOfAddress (p.sampler e.argument).base)).foldl (· ||| ·) 0
  else 0

/-- Starts an action that may start. -/
def State.startAction (s : State) (c csn i : Nat) : State :=
  match s.cmd c csn with
  | none => s
  | some m =>
    match m.actions[i]? with
    | none => s
    | some a =>
      if !s.mayStart m a then s
      else
        let band := max m.band s.presentBand
        let window := a.entry.windows.getD band 0
        let s := s.beginCmd c m
        let more := window - a.entry.windows.getD m.band 0
        let s := (s.addSlip { thermal := more }).modSchedule fun y => { y with startSlip := y.startSlip + more }
        let now := s.worked
        let s := s.modCmd c csn fun x =>
          let run := { a with phase := .running, startedAt := now, window := window, overran := 0, slowed := false, bankBands := [],
                              links := s.actionLinks c m a.entry, moved := false }
          { x with actions := x.actions.set i run }
        match s.cmd c csn with
        | some m => (s.startUnits c m i a.entry).noteSlowed.noteMoved.checkMisses
        | none => s

/-- ACTION_START (R51, R52, R137). -/
def execActionStart (c csn i : Nat) (s : State) : Out := .next (s.startAction c csn i)

/-- Schedules that begin in the present notch begin (R232, R241). -/
def State.beginDue (s : State) : State :=
  (s.contexts.flatMap fun e => (e.2.stream.cmds.filter s.beginsNow).map (e.1, ·)).foldl (fun s (c, m) => s.beginCmd c m) s

/-- The places of a command's waiting actions, those of smaller offset first. -/
def Cmd.startOrder (m : Cmd) : List Nat :=
  let off (i : Nat) : Nat := ((m.actions[i]?).map fun a => a.entry.offsets.getD m.band 0).getD 0
  let put (i : Nat) (l : List Nat) : List Nat := l.filter (fun j => off j ≤ off i) ++ i :: l.filter (fun j => off i < off j)
  ((m.actions.zipIdx.filter fun (a, _) => a.phase == .waiting).map (·.2)).foldl (fun l i => put i l) []

/-- Every action whose point has come starts in its notch, in the plan's order: never early, never later than its point unless
the schedule is delayed (R26). -/
def State.startDue (s : State) : State :=
  (s.contexts.flatMap fun e => e.2.stream.cmds.flatMap fun m => m.startOrder.map fun i => (e.1, m.csn, i)).foldl
    (fun s (c, csn, i) => s.startAction c csn i) s.beginDue

/-! ## The end of an action (R52, R87, R211, R236, R274) -/

/-- Records that the HOPPER actions begun before an action will have. -/
def State.recordsBefore (s : State) (c : Nat) (m : Cmd) (a : ActionRun) : Nat :=
  match s.plan c m.planId with
  | none => 0
  | some p =>
    let l := m.actions.map (·.entry)
    maxNat ((m.actions.zipIdx.filter fun (b, _) => b.entry.action == 4 && b.phase != .waiting && decide (b.startedAt ≤ a.startedAt)).map
      fun (b, i) => p.firstRecord l i + (p.sampler b.entry.argument).rows)

/-- Whether an action has work left that the model sees. Of an EXCHANGE it sees none: its end is the mesh's (assumption log 20). -/
def State.actionBusy (s : State) (c : Nat) (m : Cmd) (i : Nat) (a : ActionRun) : Bool :=
  match a.entry.action with
  | 1 => ((quarterCores a.entry.units).filter s.logicalExists).any fun k => s.coreBusy c m i k
  | 2 => s.groupBusy c m.csn i || m.saved.any (·.action == i)
  | 3 => s.quernBusy c m.csn i
  | 4 => s.hopperBusy c m.csn i
  | 6 => decide (m.handed < s.recordsBefore c m a)
  | _ => false

/-- CORE actions of the command that wait for a core that has become free. -/
def State.startHeld (s : State) (c csn k : Nat) : State :=
  match s.cmd c csn with
  | none => s
  | some m =>
    match m.actions.zipIdx.find? fun (b, j) => b.phase == .running && b.entry.action == 1 && (s.actionBlock c m j k).isSome &&
        s.coreBusy c m j k with
    | some (_, j) => s.startCore c m j k
    | none => s

/-- ACTION_END: the action's work is done; its cores are free. -/
def execActionEnd (c csn i : Nat) (s : State) : Out :=
  match s.cmd c csn with
  | none => .next s
  | some m =>
    match m.actions[i]? with
    | none => .next s
    | some a =>
      if a.phase ≠ .running ∨ s.actionBusy c m i a then .next s
      else
        let cores := if a.entry.action = 1 then
            (quarterCores a.entry.units).filter fun k => s.logicalExists k && (s.actionBlock c m i k).isSome else []
        let s := cores.foldl (fun s k => s.onCore k Core.endAction) s
        let now := s.now
        let s := s.modCmd c csn fun x => { x with actions := x.actions.set i { a with phase := .ended }, endNotch := now }
        .next (cores.foldl (fun s k => s.startHeld c csn k) s)

/-- ACTION_WINDOW_END (R52, R62, R240): work left is an overrun; of a suspended command it is set aside. -/
def execActionWindowEnd (c csn i : Nat) (s : State) : Out :=
  match s.cmd c csn with
  | none => .next s
  | some m =>
    match m.actions[i]? with
    | none => .next s
    | some a =>
      if a.phase ≠ .running ∨ a.overran ≠ 0 ∨ s.worked < a.startedAt + a.window ∨ !(a.entry.action == 5 || s.actionBusy c m i a) then .next s
      else if m.phase = .suspended then
        .next (if a.entry.action = 2 then s.setAside c csn i
          else s.modCmd c csn fun x => { x with actions := x.actions.set i { a with overran := 4 } })
      else
        let cause := s.overrunCause m a
        .next (s.modCmd c csn fun x => { x with actions := x.actions.set i { a with overran := cause } })

/-! ## FILLER starts and bookings (R348, R351) -/

/-- The present band; none while a DRAM die is above 105 °C (R56, R134). -/
def State.fillerBand (s : State) : Option Nat := (bandOf (s.hottestOf dramSpots)).map fun _ => s.presentBand

/-- The record that a queued FILLER command would start with at the present band: its own once it has started before. -/
def State.fillerRecord (s : State) (c : Nat) (m : Cmd) : Option (Nat × Cert × Nat) :=
  match s.fillerBand, s.plan c m.planId with
  | some band, some p =>
    if m.chosen then (p.certs[m.certIndex]?).map fun x => (m.certIndex, x, band)
    else (s.chooseCert p m.entry band true).map fun x => (x.1, x.2, band)
  | _, _ => none

/-- A queued FILLER command starts if it fits the unbooked capacity; before, the stacks that it needs wake (R344). It carries in the
slip that came while it waited (R60). -/
def State.tryFiller (s : State) (c csn : Nat) : State :=
  match s.cmd c csn with
  | none => s
  | some m =>
    match s.fillerRecord c m with
    | none => s
    | some (i, x, band) =>
      let span := if m.resuming then m.span else x.spans.getD band 0
      let duration := if m.resuming then m.duration else x.durations.getD band 0
      let m := { m with certIndex := i, floor := x.floor, band := if m.resuming then m.band else band, span := span,
                        duration := duration, bandDuration := if m.resuming then m.bandDuration else x.durations.getD band 0,
                        draw := x.draw, quarters := x.quarters, hoppers := x.hoppers, shares := x.shares }
      let v := s.clock + 16
      let f := m.footprint
      let g := s.rampIn v f.draw
      if m.phase = .queued ∧ s.wakeLead f ≠ 0 then s.wakeStacks f.shares
      else if m.phase ≠ .queued ∨ v < s.lowest f m.notBefore ∨ s.blockers v g duration f s.powerCap ≠ 0 then s
      else
        let m := { m with phase := .booked, chosen := true, start := v, rampIn := g, slip0 := s.schedule.slip,
                          timeout := s.projected v + g + duration + max m.bandDuration 65536 }
        let actions := if m.resuming then m.actions else s.freshActions c m
        (s.modCmd c csn fun _ => { m with actions := actions }).modSchedule fun y =>
          { y with fillers := y.fillers.filter (· != (c, csn)) }

/-- FILLER_START (R351): queued FILLER commands in queue order. -/
def execFillerStart (s : State) : Out :=
  .next (if s.dev.state = .ready ∨ s.dev.state = .degraded then
    s.schedule.fillers.foldl (fun s e => s.tryFiller e.1 e.2) s else s)

/-- BOOKING_EXPIRY (R348). -/
def execBookingExpiry (n : Nat) (s : State) : Out :=
  event (s.schedule.bookings.any fun b => b.id == n && s.bookingOver b) s
    (s.modSchedule fun y => { y with bookings := y.bookings.filter (·.id != n) })

/-! ## Stops and timeouts (R93, R238, R276, R390) -/

/-- COMMAND_STOP: at the end of the notch of a fault, the command ends with its failure. -/
def execCommandStop (c csn : Nat) (s : State) : Out :=
  match (s.cmd c csn).bind (·.stop) with
  | none => .next s
  | some x => .next (((s.stopCommand c csn).watchCores (s.coresFor c csn)).finish c csn x.status s.now 0 x)

/-- The timeout notch with the delay charged to the command (R356). -/
def State.timeoutOf (s : State) (m : Cmd) : Nat :=
  if m.opcode = 0x0301 then m.timeout + (m.delay).thermal + (m.delay).link else m.timeout

/-- The logical cores at work for a command, in order. -/
def State.coresAt (s : State) (c csn : Nat) (p : Core → Bool) : List Nat :=
  (List.range 240).filter fun k => s.logicalExists k &&
    (let x := s.core (s.physical k)
     x.worksFor c csn && p x)

/-- Where a command that times out is waiting: the Detail of R392, core, count, unit. -/
def State.waitingIn (s : State) (c : Nat) (m : Cmd) : Stop :=
  let base : Stop := { rank := 4, status := Status.timeout }
  let chans (x : Core) (p : Channel → Bool) : List Nat :=
    (x.channels.filter fun e => e.2.worksFor c m.csn && p e.2).map (·.1)
  let at_ (detail : Nat) (l : List Nat) (u : Nat) : Stop := { base with detail := detail, core := l.headD 0xFFFF, unit := u }
  let chanOf (l : List Nat) (p : Channel → Bool) : Nat := (l.head?.bind fun k => (chans (s.core (s.physical k)) p).head?).getD 0
  let waits (h : Channel) : Bool := h.state == .waitingBarrier
  let moves (h : Channel) : Bool := h.state == .running && !h.flights.isEmpty
  let inSwait (x : Core) : Bool := match x.streamQ with | .wait _ _ :: _ => true | _ => false
  let barrier := s.coresAt c m.csn fun x => !(chans x waits).isEmpty || inSwait x
  let moving := s.coresAt c m.csn fun x => !(chans x moves).isEmpty
  let querns := (s.memStacks.filter fun e => e.2.pcs.any fun x =>
    (x.2.queue ++ x.2.backlog ++ (x.2.running.map (·.entry)).toList).any fun q => q.context == c && q.csn == m.csn).map (·.1)
  let hops := (s.hoppers.filter fun e => e.2.running && e.2.context == c && e.2.csn == m.csn).map (·.1)
  let running := s.coresAt c m.csn fun x => x.state == .running
  if m.opcode ≠ 0x0301 then { base with detail := 6 }
  else if !m.actions.any fun a => a.phase != .waiting || a.aside then { base with detail := 7 }
  else if !barrier.isEmpty then at_ 2 barrier (chanOf barrier waits)
  else if !moving.isEmpty then at_ 3 moving (chanOf moving moves)
  else if !querns.isEmpty then { base with detail := 4, unit := querns.headD 0 }
  else if !hops.isEmpty then { base with detail := 5, unit := hops.headD 0 }
  else if !running.isEmpty then at_ 1 running 0
  else base

/-- COMMAND_TIMEOUT (R356, R390, R391, R397): the capture of the command's cores is written, and the command stops at the end of
the notch. -/
def execCommandTimeout (c csn : Nat) (s : State) : Out :=
  match s.cmd c csn with
  | none => .next s
  | some m =>
    if m.timeout = 0 ∨ (m.phase ≠ .booked ∧ m.phase ≠ .working) ∨ s.now < s.timeoutOf m ∨ m.stop.isSome then .next s
    else
      let x := s.waitingIn c m
      let s := s.snapshotCores (s.coresFor c csn)
      let s := s.setTroubleBit .device 2 (5, c) c
      .next (s.noteStop c csn x)

/-! ## Suspension (R62, R239) -/

/-- The faulting address that the lowest logical core of a command met. -/
def State.lowestFault (s : State) (c csn : Nat) : Nat :=
  ((List.range 240).findSome? fun k =>
    if !s.logicalExists k then none
    else ((s.core (s.physical k)).channels.find? fun e => e.2.state == .haltedPage && e.2.worksFor c csn).map (·.2.faultAddress)).getD 0

/-- PROMISE_SUSPEND: at the end of the notch of a HALTED_PAGE. Stream work whose window has ended already is set aside at once
(R240). -/
def execPromiseSuspend (c csn : Nat) (s : State) : Out :=
  match s.cmd c csn with
  | none => .next s
  | some m =>
    event (decide (m.phase = .booked) && m.stop.isNone && !m.faultPages.isEmpty) s
      (let now := s.now
       let s := s.modCmd c csn fun x => { x with phase := .suspended, suspendedAt := now }
       let s := s.notice c m.sender Status.suspendedPage csn now (s.lowestFault c csn) m.faultPages.length
       s.setAsideAll c csn fun a => a.overran != 0)

/-! ## Results and completions (R59, R274, R322, R324) -/

/-- Records ready from `first` on. -/
def readyFrom (l : Sparse (List Byte)) : Nat → Nat → Nat
  | 0, _ => 0
  | fuel + 1, first => if (sget [] l first).isEmpty then 0 else readyFrom l fuel (first + 1) + 1

/-- Records that all HOPPER actions of a command will have. -/
def State.recordsInAll (s : State) (c : Nat) (m : Cmd) : Nat :=
  match s.plan c m.planId with
  | none => 0
  | some p => p.firstRecord (m.actions.map (·.entry)) m.actions.length

/-- RESULT_FRAME_HANDOFF (R274, R324): under a RESULT action, the ready records go out in order, as many as a frame holds. -/
def execResultFrameHandoff (c csn : Nat) (s : State) : Out :=
  match s.cmd c csn with
  | none => .next s
  | some m =>
    let room := (((s.receiver c m.sender).map fun i => (s.session i).maxPayload).getD 8704 - 24) / 16
    let n := min room (readyFrom m.records (m.records.length) m.handed)
    if m.stop.isSome ∨ n = 0 ∨ !(m.actions.any fun a => a.phase == .running && a.entry.action == 6) then .next s
    else
      let now := s.now
      let all := s.recordsInAll c m
      .next ((s.modCmd c csn fun x =>
        { x with expected := all, handed := x.handed + n, resultFrames := x.resultFrames ++ [(m.handed, n)],
                 resultNotch := now }).sendResults c csn)

/-- The work of a journaled command other than RUN.STEP that ends by itself: status, extra and fault address. -/
def State.endWork (s : State) (c : Nat) (m : Cmd) : State × Nat × Nat × Stop :=
  let ok (s : State) (extra : Nat) : State × Nat × Nat × Stop := (s, Status.done, extra, { rank := 0, status := Status.done })
  let lost (s : State) (core a : Nat) : State × Nat × Nat × Stop :=
    (s, Status.uncorrectable, 0, { rank := 0, status := Status.uncorrectable, core := core, address := a })
  if m.opcode = 0x0201 then
    match m.plan with
    | some p =>
      match s.constsLost p with
      | (s, some (k, a)) => lost s k a
      | (s, none) => ok (s.loadPlan c p) 0
    | none => ok s 0
  else if m.opcode = 0x0504 then
    match s.saveImage c m.address with
    | (s, n, none) => ok s n
    | (s, _, some (k, a)) => lost s k a
  else
    match s.restoreImage m.address m.count with
    | (s, none) => ok s 0
    | (s, some (k, a)) => lost s k a

/-- Whether the work of a command waits for a bank, a Millpond or the end of a window of in-bank compute (R156, R195, R196). -/
def State.workHeld (s : State) (c : Nat) (m : Cmd) : Bool :=
  if m.opcode = 0x0201 then
    m.plan.any fun p => p.consts.any fun r => r.space != 0 && s.reachHeld r.address r.data.length
  else s.reachHeld m.address (if m.opcode = 0x0504 then s.imageLength c else m.count)

/-- COMMAND_COMPLETION (R59, R61, R330): the last action has ended and every record is handed, or the command's own work is
done. A command completes no earlier than its projected completion, as work never runs early (R26, R354). -/
def execCommandCompletion (c csn : Nat) (s : State) : Out :=
  match s.cmd c csn with
  | none => .next s
  | some m =>
    if m.stop.isSome then .next s
    else if m.opcode = 0x0301 then
      let all := m.phase = .booked ∧ m.begun ∧ (m.actions.all fun a => a.phase == .ended : Bool)
      if !all ∨ s.clock < m.intervalEnd then .next s
      else
        let notch := max (if m.resultFrames.isEmpty then m.endNotch else m.resultNotch) (s.projected m.intervalEnd)
        let status := lateStatus m notch
        .next (s.finish c csn status notch 0 { rank := 0, status := status })
    else if m.phase = .working ∧ (m.opcode = 0x0201 ∨ m.opcode = 0x0504 ∨ m.opcode = 0x0505) ∧ !s.workHeld c m then
      let (s, status, extra, x) := s.endWork c m
      .next (s.finish c csn status s.now extra x)
    else .next s

end Sys2Proof.Machine
end

