-- ==== Sys2Proof/Machine/Recovery.lean ====
section
/-! DEFINITION. Recovery in service (R384 to R408, R498): core-group resets, die resets, suspects and their conviction, entry to
FAULTED, and the watchdogs that lead to them. -/

namespace Sys2Proof.Machine

/-! ## What was running (R385, R498) -/

/-- A command that has started work on die `d` (R385). -/
def Cmd.startedOn (m : Cmd) (d : Nat) : Bool :=
  m.hasStarted && m.phase != .completed &&
  (bits m.quarters (4 * d + 3) (4 * d) != 0 || shareOf m.shares (2 * d) != 0 || shareOf m.shares (2 * d + 1) != 0 ||
   (decide (d < 2) && bits m.hoppers (2 * d + 1) (2 * d) != 0))

/-- A command that has started work on a core group (R498). -/
def State.startedOnGroup (s : State) (m : Cmd) (g : Nat) : Bool :=
  m.hasStarted && m.phase != .completed && (quarterCores m.quarters).any fun k => s.logicalExists k && s.groupOf k == g

/-- Contexts, in ascending number, that hold a command with some property. -/
def State.contextsWith (s : State) (p : Cmd → Bool) : List Nat :=
  (List.range 64).filter fun c => (s.stream c).cmds.any p

/-! ## A reset of cores -/

/-- A channel after a reset of its core: what CORE.ChanStatus and CORE.ChanFault keep. -/
def Channel.rebooted (h : Channel) : Channel :=
  { cause := h.cause, faultAddress := h.faultAddress, faultSpace := h.faultSpace, faultCore := h.faultCore, context := h.context }

/-- A core whose logic is reset: its registers as after a warm start; core store and slice stay (R384). -/
def Core.rebooted (x : Core) : Core :=
  { state := x.state, logical := x.logical, retiredLanes := x.retiredLanes, lanes := x.lanes, trouble := x.trouble,
    trapCause := x.trapCause, trapPc := x.trapPc, trapAddr := x.trapAddr, parityCount := x.parityCount,
    correctedCount := x.correctedCount, correctedSince := x.correctedSince, streamTrouble := x.streamTrouble,
    programs := x.programs,
    channels := smap {} (fun _ h => h.rebooted) x.channels }

/-- The pieces that cores have in flight are dropped with a reset that advances their contexts' generations, and counted (R398). -/
def State.dropFlights (s : State) (l : List Nat) : State :=
  let old := l.flatMap fun p => (s.core p).flights
  ((old.map (·.context)).eraseDups).foldl (fun s c => s.countStales c ((old.filter (·.context == c)).map Flight.destination)) s

/-- Cores held in reset: they decode nothing until it ends. -/
def State.holdCores (s : State) (l : List Nat) : State :=
  l.foldl (fun s p => s.modCore p fun x => { x.rebooted with halted := true }) (s.dropFlights l)

/-- Cores back from reset. -/
def State.freeCores (s : State) (l : List Nat) : State :=
  l.foldl (fun s p => s.modCore p fun x =>
    { x with halted := false, state := if x.state = .disabled ∨ x.state = .off then x.state else .idle }) s

/-- Whether a core group is IDLE: nothing runs and nothing is in flight. -/
def State.groupIdle (s : State) (g : Nat) : Bool :=
  (groupCores g).all fun p => !([CoreState.preload, .running, .trapped].contains (s.core p).state) && (s.core p).flights.isEmpty

/-! ## Records (R396, R411) -/

/-- A RECOVERY record and DEVICE.LastRecovery. -/
def State.recovered (s : State) (level cause object : Nat) (scope : Nat × Nat) (duration : Nat) : State :=
  (s.modDev fun d => { d with recoveryLevel := level, recoveryCause := cause, recoveryObject := object }).writeLog
    { kind := 6, scope := scope.1, object := scope.2, cause := cause, valueA := level, valueB := duration }

/-- The links that end on a die (R301). -/
def linksOf (d : Nat) : List Nat := (List.range 6).filter fun i => (linkEnds i).1 == d || (i < 4 && (linkEnds i).2 == d)

/-! ## FAULTED (R387, R388) -/

/-- A command of a context that the reset of die `d` hits, with what it had started by then (R385, R406). -/
def Cmd.marked (m : Cmd) (d : Nat) : Cmd :=
  { m with startedBefore := m.startedBefore || m.hasStarted && m.phase != .completed,
           stoppedBy := if m.startedOn d then d :: m.stoppedBy else m.stoppedBy }

/-- The commands that have started on a die are marked with it, and all that have started of their contexts with having started
before its reset (R385, R388, R406). -/
def State.markStarted (s : State) (d : Nat) : State :=
  (s.contextsWith fun m => m.startedOn d).foldl (fun s c => s.modStream c fun t => { t with cmds := t.cmds.map (Cmd.marked · d) }) s

/-- Every context gives up its uncompleted commands to their journal records. -/
def State.giveUpAll (s : State) : State := (s.contexts.map (·.1)).foldl State.giveUp s

/-- Entry to FAULTED on a cause of R386: the capture, every command stopped, the record (R387, R396, R397). -/
def State.enterFaulted (s : State) (cause object : Nat) (scope : Nat × Nat) (suspects : Bool) : State :=
  let s := s.snapshotCores (List.range 256)
  let s := ((s.dev.dieResets.flatMap fun x => linksOf x.1).eraseDups.foldl State.snapshotLink s).giveUpAll.interruptSweeps
  let s := s.modDev fun d => { d with state := .faulted, faultedAt := s.uptime, mayWarm := true, suspectsAtWarm := suspects,
                                      groupResets := [], dieResets := [] }
  (s.recovered 5 cause object scope 0).setTroubleBit .device 9

/-! ## Core-group reset (R386, R498) -/

/-- A context's commands are stopped and wait for their restart, under a new generation. -/
def State.interrupt (s : State) (c cause : Nat) : State :=
  ((s.giveUp c).advanceGeneration c cause).modContext c fun x => { x with draining := true }

/-- Contexts under CTX.RESET with an engine of core group `g` not IDLE 40 notches after the reset was taken: they wait for the
group's reset (R400). -/
def State.lateResets (s : State) (g : Nat) : State :=
  s.contexts.foldl (fun s e =>
    match e.2.reset with
    | none => s
    | some r =>
      if r.since + 40 ≤ s.uptime ∧ ((groupCores g).any fun p => (s.core p).drains e.1) then
        s.modContext e.1 fun x => { x with reset := some { r with late := true, waits := g :: r.waits } }
      else s) s

/-- Contexts under CTX.RESET wait no longer for the resets of some core groups. -/
def State.groupsBack (s : State) (p : Nat → Bool) : State :=
  { s with contexts := smap {} (fun _ x =>
      { x with reset := x.reset.map fun r => { r with waits := r.waits.filter fun g => !p g } }) s.contexts }

/-- The reply of a CTX.RESET that waits for a core-group reset goes out at notch 48, with Value 1 (R400). -/
def State.answerLate (s : State) : State :=
  s.contexts.foldl (fun s e =>
    match e.2.reset with
    | none => s
    | some r =>
      if r.late ∧ !r.replied ∧ r.since + 48 ≤ s.uptime then
        (s.conclude r.session r.number 0x0503 { value := 1 }).modContext e.1 fun x =>
          { x with reset := some { r with replied := true } }
      else s) s

/-- The reset of the core group of core `p`: capture, interrupted contexts, cores held. -/
def State.resetGroup (s : State) (p : Nat) : State :=
  let g := p / 4
  let s := (s.snapshotCores (groupCores g)).setTroubleBit .device 3 (2, p)
  let s := s.lateResets g
  let hit := (s.contextsWith fun m => s.startedOnGroup m g).filter fun c => (s.context c).reset.isNone
  let s := hit.foldl (fun s c => s.interrupt c 3) s
  let s := (s.holdCores (groupCores g)).releaseUnmaps
  s.modDev fun d => { d with groupResets := d.groupResets ++ [(g, s.uptime, p)], affected := d.affected ++ hit }

/-- With no reset left in progress, what waited for it may go on. -/
def State.resetsOver (s : State) : State :=
  if s.dev.groupResets.isEmpty ∧ s.dev.dieResets.isEmpty then s.modDev fun d => { d with affected := [] } else s

/-- CORE_STOP_WATCHDOG (code 2): a core told to stop is not IDLE 40 notches later. -/
def execCoreStopWatchdog (p : Fin 256) (s : State) : Out :=
  let late := match (s.core p).stopToldAt with
    | some t => decide (t + 40 ≤ s.uptime)
    | none => false
  event (late && s.inService && !s.dev.groupResets.any (·.1 == p.val / 4) && !s.dev.dieResets.any (·.1 == dieOfCore p)) s
    (s.resetGroup p)

/-- CORE_GROUP_RESET_DONE (R498). -/
def execCoreGroupResetDone (g : Fin 64) (s : State) : Out :=
  match s.dev.groupResets.find? (·.1 == g.val) with
  | none => .next s
  | some (_, t, p) =>
    let s := s.freeCores (groupCores g)
    let s := s.recovered 1 2 p (2, p) (s.uptime - t)
    .next ((s.modDev fun d => { d with groupResets := d.groupResets.filter (·.1 != g.val) }).groupsBack (· == g.val)).resetsOver

/-! ## Die reset (R299, R385, R405, R407) -/

/-- STUCK_FLIT records, up to 64 (R397): router position, port and class, 64 notches without progress. -/
def State.logStuck (s : State) (d : Nat) (l : List (Nat × Nat)) : State :=
  (l.take 64).foldl (fun s (x, y) => s.writeLog { kind := 5, scope := 1, object := d, address := x, valueA := y, valueB := 64 }) s

/-- Whether two dies that are not in reset, the Sluice die among them, have lost every route that packets between them may take
(R295, R299, R300). -/
def State.noRoute (s : State) (resetting : List Nat) : Bool :=
  let up := (List.range 5).filter fun d => !resetting.contains d
  let shut (l : List (Nat × Bool)) : Bool :=
    l.any (fun x => s.width x.1 == 0) || (l.drop 1).any fun x => resetting.contains (senderOf x.1 x.2)
  up.any fun a => up.any fun b => a != b && (routesBetween a b none).all shut

/-- The convicted suspect's commands end, and it stays QUARANTINED (R407). A CTX.RESET of it that is in progress goes on, and ends
the quarantine as R408 gives (DEDUCED, assumption log 22). -/
def State.convict (s : State) (c : Nat) : State :=
  let l := s.uncompleted c
  let s := l.foldl (fun s n => s.endReset c 2 n) s
  let s := s.modContext c fun x => { x with state := if x.reset.isSome then .resetting else .quarantined }
  let s := (s.modDev fun d => { d with replaying := none }).advanceGeneration c 6
  (s.writeLog (ctxLog 11 c l.length 0)).setTroubleBit .device 7 (5, c) c

/-- Stops the commands that have started work on a die, and marks them. -/
def State.stopStarted (s : State) (d : Nat) : State :=
  let l := (List.range 64).flatMap fun c => ((s.stream c).cmds.filter fun m => m.startedOn d).map fun m => (c, m.csn)
  l.foldl (fun s e => (s.stopCommand e.1 e.2).modCmd e.1 e.2 Cmd.given) (s.markStarted d)

/-- Core groups of a die that are not IDLE, or already in reset. -/
def State.busyGroups (s : State) (d : Nat) : List Nat :=
  ((List.range 16).map (16 * d + ·)).filter fun g => !s.groupIdle g || s.dev.groupResets.any (·.1 == g)

/-- The reset of a die's mesh domain. -/
def State.resetDie (s : State) (d cause : Nat) (stuck : List (Nat × Nat)) : State :=
  let convicts := if s.dev.replay then s.dev.replaying else none
  let cause := if convicts.isSome then 11 else cause
  let again := s.dev.lastDieReset.any fun x => x.1 == d && decide (s.uptime < 2 ^ 20 + x.2)
  if convicts.isNone ∧ (again : Bool) then ((s.logStuck d stuck).markStarted d).enterFaulted 6 d (1, d) true
  else
    let s := s.snapshotCores ((List.range 64).map (64 * d + ·))
    let s := (linksOf d).foldl State.snapshotLink s
    let s := (s.logStuck d stuck).setTroubleBit .device 4 (1, d)
    let s := match convicts with
      | some c => s.convict c
      | none => s
    let groups := s.busyGroups d
    let s := ((s.stopStarted d).holdCores (groups.flatMap groupCores)).releaseUnmaps
    let s := s.modDev fun x =>
      { x with dieResets := x.dieResets ++ [(d, s.uptime, cause)], groupResets := x.groupResets.filter fun y => y.1 / 16 != d,
               lastDieReset := if convicts.isSome then x.lastDieReset else (d, s.uptime) :: x.lastDieReset.filter (·.1 != d) }
    if s.noRoute (s.dev.dieResets.map (·.1)) then s.enterFaulted 9 d (1, d) false else s

/-- CORE_GROUP_RESET_CHECK (code 3). -/
def execCoreGroupResetCheck (g : Fin 64) (s : State) : Out :=
  event (s.inService && s.dev.groupResets.any fun x => x.1 == g.val && decide (x.2.1 + 64 ≤ s.uptime)) s (s.resetDie (g / 16) 3 [])

/-- MESH_PROGRESS_WATCHDOG (code 4). -/
def execMeshProgressWatchdog (d : Fin 4) (stuck : List (Nat × Nat)) (s : State) : Out :=
  event (s.inService && s.dev.state != .doze && !s.dev.dieResets.any (·.1 == d.val)) s (s.resetDie d 4 stuck)

/-- Adds a suspect to those that wait, in ascending order (R406). -/
def addSuspect (c : Nat) (l : List Nat) : List Nat := l.filter (· < c) ++ c :: l.filter (c < ·)

/-- A context becomes a suspect: the `i`-th of a batch of `n` (R405). -/
def State.quarantine (s : State) (c n i : Nat) : State :=
  let s := s.modContext c fun x => { x with state := .quarantined }
  let s := s.modStream c fun t => { t with cmds := t.cmds.map fun m => { m with stoppedBy := [] } }
  let s := s.modDev fun d => { d with suspects := addSuspect c d.suspects }
  (s.writeLog (ctxLog 9 c n i)).setTroubleBit .device 6 (5, c) c

/-- The contexts whose started work the reset of a die stopped, those that wait in the replay apart. -/
def State.stoppedContexts (s : State) (d : Nat) : List Nat :=
  (s.contextsWith fun m => m.stoppedBy.contains d && m.phase != .completed).filter fun c =>
    (s.context c).state != .quarantined && (s.context c).reset.isNone && s.dev.replaying != some c

/-- A context whose work the reset of a die stopped is to restart as an ordinary one: its commands that had started wait for it under
a new generation, and the others keep their bookings (R385). One that the reset of another die has stopped too waits for that. -/
def State.interruptStarted (s : State) (c d cause : Nat) : State :=
  let s := s.modStream c fun t => { t with cmds := t.cmds.map fun m => { m with stoppedBy := m.stoppedBy.filter (· != d) } }
  if (s.stream c).cmds.any fun m => !m.stoppedBy.isEmpty && m.phase != .completed then s
  else
    let s := ((s.giveUpStarted c).advanceGeneration c cause).modContext c fun x => { x with draining := true }
    s.modStream c fun t => { t with cmds := t.cmds.map fun m => { m with startedBefore := false } }

/-- Interrupts the contexts whose work the reset of a die stopped, as suspects or to restart as ordinary contexts (R405, R408). -/
def State.makeSuspects (s : State) (suspect : Bool) (d cause : Nat) : State :=
  let l := s.stoppedContexts d
  l.zipIdx.foldl (fun s (c, i) =>
    if suspect then (s.interrupt c cause).quarantine c l.length (i + 1) else s.interruptStarted c d cause) s

/-- A flit direction restarts after its die's reset; its lanes stay as they are. What it carried comes again from the delivery
stores (R299). -/
def LinkDir.restarted (x : LinkDir) : LinkDir :=
  { failed := x.failed, injected := x.injected, sparesUsed := x.sparesUsed, retrains := x.retrains }

/-- The links that end on a die have retrained: held flits are sent to it in order, and its own again (R299). -/
def State.relink (s : State) (d : Nat) : State :=
  let old := s
  let s := s.modDev fun x => { x with diverted := x.diverted.filter (· != d) }
  let s := (linksOf d).foldl (fun s i => s.modLink i fun l =>
    { l with bundles := smap {} (fun _ b => { b with aToB := b.aToB.restarted, bToA := b.bToA.restarted }) l.bundles }) s
  s.reroute old fun p => sourceDie p == d

/-- DIE_RESET_DONE (R299, R405). -/
def execDieResetDone (d : Fin 4) (s : State) : Out :=
  match s.dev.dieResets.find? (·.1 == d.val) with
  | none => .next s
  | some (_, t, cause) =>
    let s := s.freeCores ((List.range 64).map (64 * d.val + ·))
    let s := (s.relink d).recovered 2 cause d (1, d) (s.uptime - t)
    let s := s.modDev fun x => { x with dieResets := x.dieResets.filter (·.1 != d.val) }
    .next (((s.makeSuspects (s.dev.replay && cause != 3) d 4).groupsBack fun g => g / 16 == d.val).resetsOver.replayStep)

/-- DIE_RESET_CHECK (code 5): the warm start that follows makes suspects of what has started on the die by now (R388). -/
def execDieResetCheck (d : Fin 4) (s : State) : Out :=
  event (s.inService && s.dev.dieResets.any fun x => x.1 == d.val && decide (2048 + x.2.1 ≤ s.uptime)) s
    ((s.markStarted d).enterFaulted 5 d (1, d) true)

/-! ## The other watchdogs -/

/-- MAELYN_WATCHDOG (code 7). -/
def execMaelynWatchdog (s : State) : Out := event s.inService s (s.enterFaulted 7 0 (0, 0) false)

/-- JOURNAL_KEEPER_WATCHDOG (code 10). -/
def execJournalKeeperWatchdog (s : State) : Out :=
  event (s.inService && !(s.journal.staging.isEmpty && s.journal.effects.isEmpty) && decide (s.journal.waitingSince + 256 ≤ s.uptime)) s
    (s.enterFaulted 10 0 (0, 0) false)

end Sys2Proof.Machine
end

