-- ==== Sys2Proof/Machine/Bundles.lean ====
section
/-! DEFINITION. Bundles of a link (R281, R283, R286, R291): their directions, and their removal at the end of a notch. -/

namespace Sys2Proof.Machine

/-- One direction of a bundle: from the A end, or from the B end. -/
def Bundle.dir (b : Bundle) (toB : Bool) : LinkDir := if toB then b.aToB else b.bToA
def Bundle.setDir (b : Bundle) (toB : Bool) (d : LinkDir) : Bundle :=
  if toB then { b with aToB := d } else { b with bToA := d }

def State.linkDir (s : State) (i b : Nat) (toB : Bool) : LinkDir := ((s.link i).bundle b).dir toB
def State.setLinkDir (s : State) (i b : Nat) (toB : Bool) (d : LinkDir) : State :=
  s.modLink i fun l => l.setBundle b ((l.bundle b).setDir toB d)

/-! ## Removal (R286, R287, R291, R300) -/

/-- The device is in DEGRADED from now on (R287, R426). -/
def State.degrade (s : State) : State :=
  s.modDev fun d =>
    { d with state := if d.state = .ready ∨ d.state = .running then .degraded else d.state,
             wakeTo := if d.wakeTo = .ready then .degraded else d.wakeTo }

/-- The bundle of the same Welt link that carries a removed one's traffic: the other port of its crossing, else one of the nearest
open crossing (R286). -/
def State.carrier (s : State) (i b : Nat) : Option Nat :=
  let live (x : Nat) : Bool := !((s.link i).bundle x).removed
  let c := b / 2
  let near := c :: (List.range' 1 7).flatMap fun k => (if k ≤ c then [c - k] else []) ++ (if c + k < 8 then [c + k] else [])
  near.findSome? fun c => [2 * c + b % 2, 2 * c + 1 - b % 2].find? live

/-- The flits of a direction that its receiver has not accepted; accepted ones are not delivered twice (R286). -/
def LinkDir.unaccepted (d : LinkDir) : List Flit :=
  (match d.replay.findIdx? (·.sequence == d.expected) with
   | some k => d.replay.drop k
   | none => []) ++ d.moved

/-- A direction that carries nothing more; its lanes stay as they are. -/
def LinkDir.emptied (d : LinkDir) : LinkDir :=
  { failed := d.failed, injected := d.injected, sparesUsed := d.sparesUsed, retrains := d.retrains, inbox := d.inbox }

/-- The replay buffers of a removed bundle move to its carrier, in order; they go out there before any new flit (R286). -/
def State.moveFlits (s : State) (i b : Nat) : State :=
  [true, false].foldl (fun s toB =>
    let d := s.linkDir i b toB
    let s := match s.carrier i b with
      | some x => s.setLinkDir i x toB { s.linkDir i x toB with moved := (s.linkDir i x toB).moved ++ d.unaccepted }
      | none => s
    s.setLinkDir i b toB d.emptied) s

/-- A bundle is removed, in both directions together; once S4 has passed, a device that has lost both Sluices, or every route
between two dies, is FAULTED. What a link that is down carried is sent again by the route that remains (R291, R300). -/
def State.removeBundle (s : State) (i b : Nat) : State :=
  let old := s
  let s := s.modLink i fun l => l.setBundle b { l.bundle b with removed := true, failing := false }
  let s := (s.moveFlits i b).setTroubleBit (.link i) 1
  let s := (if s.width i = 0 then (s.reroute old fun _ => false).setTroubleBit (.link i) 2 else s).degrade
  if !s.inService ∧ !(s.dev.state = .staging ∧ 5 ≤ s.dev.stage) then s
  else if s.width 4 = 0 ∧ s.width 5 = 0 then s.enterFaulted 8 0 (0, 0) false
  else if s.noRoute (s.dev.dieResets.map (·.1)) then s.enterFaulted 9 0 (0, 0) false
  else s

/-- A bundle has failed: it carries nothing more, and is removed at the end of the notch. -/
def State.failBundle (s : State) (i b : Nat) : State :=
  s.modLink i fun l => l.setBundle b { l.bundle b with failing := true }

/-- The bundles that failed in a notch are removed at its end. -/
def State.endBundles (s : State) : State :=
  ((List.range 6).flatMap fun i => ((List.range (bundlesOf i)).filter fun b => ((s.link i).bundle b).failing).map (i, ·)).foldl
    (fun s x => s.removeBundle x.1 x.2) s

/-- The acts of R299 at the end of the notch in which a die's reset begins. -/
def State.divertDue (s : State) : State :=
  let l := (s.dev.dieResets.map (·.1)).filter fun d => !s.dev.diverted.contains d
  l.foldl (fun s d =>
    let t := s.modDev fun x => { x with diverted := x.diverted ++ [d] }
    let t := (linksOf d).foldl (fun t i => (t.modLink i fun l => { l with detour := true }).setTroubleBit (.link i) 4) t
    t.reroute s fun _ => false) s

/-- What the links do at the end of a notch. -/
def State.endLinks (s : State) : State := s.endBundles.divertDue.routesReturn.noteMoved

end Sys2Proof.Machine
end

