-- ==== Sys2Proof/Machine/Info.lean ====
section
/-! DEFINITION. Commands that read the device, and the register commands: STATUS (R334), LOG.READ (R394), REG.READ and
REG.WRITE (R333, R491 to R494). -/

namespace Sys2Proof.Machine

/-! ## STATUS (R334) -/

/-- The band that STATUS.DEVICE shows: 3, none, while a Bedstone layer or a stack is above 105 °C (R56, R334). -/
def State.shownBand (s : State) : Nat :=
  if ((List.range 8).any fun k => (s.stack k).hot) || (List.range 4).any fun d => (s.pond d).hotLayers != 0 then 3 else s.presentBand

def State.statusData (s : State) : List Byte :=
  leBytes 1 s.deviceState.code ++ leBytes 1 (min s.dev.stage 9) ++ leBytes 4 (s.atStage 5 s.shape) ++
  leBytes 2 (s.atStage 4 s.dev.level) ++ leBytes 1 s.shownBand ++ leBytes 1 s.wheel.state.code ++ zeros 2 ++
  leBytes 4 s.errorBound ++ leBytes 8 s.now ++ leBytes 4 s.dev.coldStarts ++ leBytes 4 s.dev.warmStarts ++
  leBytes 4 s.summary ++ leBytes 4 s.dev.trouble.toNat ++ leBytes 8 (s.atStage 9 s.reduction)

def bodyStatusDevice (f : Frame) (s : State) : Handled :=
  checked [legalDevice f.opcode.toNat s] s (done s s.statusData)

/-- The least of some numbers, 0 when there is none. -/
def leastOf (l : List Nat) : Nat :=
  match l with
  | [] => 0
  | a :: r => r.foldl min a

def Stream.oldest (t : Stream) : Nat := leastOf (t.cmds.map (·.csn))
def Stream.suspended (t : Stream) : Nat := leastOf ((t.cmds.filter (·.phase == .suspended)).map (·.csn))

def State.contextData (s : State) (c : Nat) : List Byte :=
  let t := s.stream c
  let x := s.context c
  let dev := c = 255
  leBytes 1 (if dev then 0xFF else x.present.code) ++ leBytes 2 (s.generationOf c) ++ zeros 1 ++
  leBytes 4 t.cmds.length ++ leBytes 8 t.next ++ leBytes 8 t.oldest ++ leBytes 8 t.lastCompleted ++
  leBytes 8 t.suspended ++ leBytes 2 (if dev then 0 else x.plans.length) ++
  leBytes 4 (if dev then 0 else (x.seqs.filter (·.2.isOpen)).length)

def bodyStatusContext (f : Frame) (s : State) : Handled :=
  let c := le f.payload 0 1
  checked
    [when (63 < c ∧ c ≠ 255) (refuse Status.format 0),
     legalDevice f.opcode.toNat s,
     when (c ≠ 255 ∧ s.ctxState c = .free) (refuseState 1 c 0 (maskOf [1, 2, 3, 4, 5]))] s
    (done s (s.contextData c))

/-! ## LOG.READ (R394, R395) -/

def LogRecord.bytes (r : LogRecord) (hidden : Bool) : List Byte :=
  if hidden then leBytes 8 r.number ++ leBytes 8 r.notch ++ zeros 48
  else
    leBytes 8 r.number ++ leBytes 8 r.notch ++ leBytes 2 r.kind ++ leBytes 1 r.scope ++ leBytes 1 r.object ++
    leBytes 1 r.context ++ leBytes 1 r.cause ++ leBytes 2 r.generation ++ leBytes 8 r.csn ++ leBytes 8 r.address ++
    leBytes 8 r.valueA ++ leBytes 8 r.valueB ++ zeros 8

def State.oldestRecord (s : State) : Nat := s.logNext - s.log.length

/-- Whether a record is hidden from a session (R394): a context session sees other contexts' records empty. -/
def hiddenFrom (x : Session) (r : LogRecord) : Bool := !x.management && r.context != 0xFF && r.context != x.context

def bodyLogRead (f : Frame) (x : Session) (s : State) : Handled :=
  let first := le f.payload 0 8
  let n := le f.payload 8 2
  let old := s.oldestRecord
  let head := leBytes 8 old ++ leBytes 8 (s.logNext - 1)
  if n = 0 then checked [legalDevice f.opcode.toNat s] s (done s head)
  else
    checked
      [when (64 < n ∨ x.maxPayload - 56 < 64 * n) (refuse Status.length 8),
       when (first < old) (refuse Status.length 0),
       when (s.logNext < first + n) (refuse Status.length 8),
       legalDevice f.opcode.toNat s] s
      (done s (head ++ ((s.log.drop (first - old)).take n).flatMap fun r => r.bytes (hiddenFrom x r)))

/-! ## REG.READ and REG.WRITE -/

/-- The first unmapped register of a range (R491). -/
def firstUnmappedReg (a n : Nat) : Option Nat := ((List.range n).map (a + 4 * ·)).find? fun r => !isMapped r

/-- A read of WHEEL.PositionLo latches WHEEL.PositionHi, whatever else the read covers (R41). A PositionHi in the same
read shows the value latched with it (R492). -/
def State.latchPosition (s : State) (a n : Nat) : State :=
  if a ≤ 0x100000 ∧ 0x100000 < a + 4 * n then
    s.modWheel fun w => { w with latchedHi := BitVec.ofNat 32 (w.position / 2 ^ 32) }
  else s

def bodyRegRead (f : Frame) (x : Session) (s : State) : Handled :=
  let a := le f.payload 0 4
  let n := le f.payload 4 2
  zeroField (n = 0) s
    (checked
      [when (256 < n ∨ x.maxPayload - 40 < 4 * n) (refuse Status.length 4),
       when (a % 4 ≠ 0) (refuse Status.format 0),
       (firstUnmappedReg a n).map fun r => refuseAddress r,
       legalDevice f.opcode.toNat s] s
      (let t := s.latchPosition a n
       done t (t.regBytes a n)))

/-- What a write of a read-write register is refused with (R494). -/
def badWrite (r : RwReg) (v : Nat) (s : State) : Bool :=
  match r with
  | .sourceCfg => (badSource v s.wheel.config.ptp s.wheel.config.asymmetry).isSome
  | .ptpCfg => (badSource s.wheel.config.cfg v s.wheel.config.asymmetry).isSome
  | .asymmetry => (badSource s.wheel.config.cfg s.wheel.config.ptp (signed 32 v)).isSome
  | _ => false

/-- A write to a read-write register acts as the command that owns it (R494, R40, R484, R387, R405, R381). -/
def State.writeRw (s : State) (r : RwReg) (v : Nat) : State :=
  match r with
  | .sourceCfg => s.setSource { s.wheel.config with cfg := v }
  | .ptpCfg => s.setSource { s.wheel.config with ptp := v }
  | .asymmetry => s.setSource { s.wheel.config with asymmetry := signed 32 v }
  | .holdLimit => s.modWheel fun w => { w with holdLimit := max 16 v }
  | .udpPort => s.modPort fun p => { p with udpPort := if v % 65536 = 0 then 47310 else v % 65536 }
  | .recoveryCfg => s.modDev fun d => { d with autoWarm := bit v 0, replay := bit v 1, faultHold := bits v 23 8 }
  | .lastLatch => s.modPower fun p => { p with latchCause := 0, latchSpot := 0 }

/-- A write to a mapped register: read-write fields, W1C bits, counters; every other write is ignored (R491). -/
def State.writeReg (s : State) (a v : Nat) : State :=
  let r := regPlace a
  if !s.regWritable r then s
  else
    match rwAt r with
    | some w => s.writeRw w v
    | none =>
      match troubleAt r with
      | some t => s.clearTrouble t (BitVec.ofNat 32 v)
      | none => if isCounterPlace r then s.clearCounter r else s.clearFlags r a (BitVec.ofNat 32 v)

/-- The writes of a notch take effect at its end (R492). -/
def State.applyWrites (s : State) : State :=
  s.dev.regWrites.foldl (fun s e => s.writeReg e.1 e.2) (s.modDev fun d => { d with regWrites := [] })

/-- REG.WRITE (R333, R494): it takes effect from the next notch on (R492). -/
def bodyRegWrite (f : Frame) (s : State) : Handled :=
  let a := le f.payload 0 4
  let v := le f.payload 4 4
  checked
    [when (a % 4 ≠ 0) (refuse Status.format 0),
     when (!isMapped a) (refuseAddress a),
     (rwAt (regPlace a)).bind fun r => when (badWrite r v s) (refuse Status.format 4),
     legalDevice f.opcode.toNat s] s
    (done (s.modDev fun d => { d with regWrites := d.regWrites ++ [(a, v)] }))

end Sys2Proof.Machine
end

