-- ==== Sys2Proof/Machine/Inject.lean ====
section
/-! DEFINITION. The INJECT commands (R460 to R469). Injections on device frames act in Machine/Port.lean, those on link
flits in Machine/Links.lean. -/

namespace Sys2Proof.Machine

/-- Armed, or planted and not yet overwritten or corrected (R461, R467). -/
def State.liveInjection (s : State) (j : Injection) : Bool :=
  j.armed || (j.verb == 3 && (s.damageAt j.key).planted && (s.damageAt j.key).kind != .none)

/-- Injections that are over, and hold nothing back, are forgotten: a block planted again is another injection's (R461). -/
def State.forgetEnded (s : State) : State :=
  { s with injections := s.injections.filter fun x => s.liveInjection x || !(x.heldIn.isEmpty && x.heldOut.isEmpty) }

/-- Arms or plants an injection, its number in the reply. It acts from the notch after the reply of its command (R461). -/
def State.arm (s : State) (f : Frame) (j : Injection) : Handled :=
  let j := { j with number := s.nextInjection, armedAt := s.uptime, session := f.session.toNat,
                    waiting := some f.number.toNat }
  let s := { s with injections := s.injections ++ [j], nextInjection := s.nextInjection + 1 }
  done (s.logInjected j) [] j.number

def State.armFull (s : State) : Option Reply :=
  when (16 ≤ (s.injections.filter s.liveInjection).length) (refuse Status.capacity)

/-! ## INJECT.LINK (R462, R463) -/

/-- A lane of a bundle direction is made to fail. -/
def State.failLane (s : State) (link bundle direction lane : Nat) : State :=
  s.modLink link fun l =>
    let b := l.bundle bundle
    let add (d : LinkDir) : LinkDir := { d with injected := if d.injected.contains lane then d.injected else d.injected ++ [lane] }
    l.setBundle bundle (if direction = 0 then { b with aToB := add b.aToB } else { b with bToA := add b.bToA })

def bodyInjectLink (f : Frame) (s : State) : Handled :=
  let p := f.payload
  let link := le p 0 1
  let action := le p 3 1
  let lane := le p 4 2
  let skip := le p 8 4
  let count := le p 12 4
  let j : Injection :=
    { number := 0, verb := 1, action := action, link := link, bundle := le p 1 1, direction := le p 2 1, lane := lane,
      skip := skip, left := count }
  zeroField (count = 0) s
    (checked
      [when (65534 < count ∨ (action = 3 ∧ count ≠ 1)) (refuse Status.length 12),
       when (5 < link) (refuse Status.format 0), when (bundlesOf link ≤ j.bundle) (refuse Status.format 1),
       when (1 < j.direction) (refuse Status.format 2), when (action = 0 ∨ 3 < action) (refuse Status.format 3),
       when (297 < lane ∨ (action ≠ 3 ∧ lane ≠ 0)) (refuse Status.format 4), when (skip = 2 ^ 32 - 1) (refuse Status.format 8),
       legalDevice 0x1201 s, s.armFull] s
      (s.forgetEnded.arm f j))

/-- Lanes that fail with no flit let past fail in the notch after the reply (R463). -/
def State.failLanes (s : State) : State :=
  (s.injections.filter fun j =>
    j.verb == 1 && j.action == 3 && j.skip == 0 && j.armed && j.waiting.isNone && decide (j.armedAt < s.uptime)).foldl (fun s j =>
      (s.failLane j.link j.bundle j.direction j.lane).injectionHit j) s

/-! ## INJECT.PORT (R464) -/

def bodyInjectPort (f : Frame) (s : State) : Handled :=
  let p := f.payload
  let action := le p 1 1
  let depth := le p 2 1
  let ctx := le p 3 1
  let kinds := le p 4 1
  let skip := le p 8 4
  let count := le p 12 4
  let every := le p 16 4
  zeroField (count = 0) s
    (checked
      [when (65534 < count) (refuse Status.length 12),
       when (1 < le p 0 1) (refuse Status.format 0), when (action = 0 ∨ 4 < action) (refuse Status.format 1),
       when (if action = 3 then depth = 0 ∨ 63 < depth else depth ≠ 0) (refuse Status.format 2),
       when (63 < ctx ∧ ctx ≠ 255) (refuse Status.format 3), when (kinds = 0 ∨ 63 < kinds) (refuse Status.format 4),
       when (skip = 2 ^ 32 - 1) (refuse Status.format 8), when (every = 0 ∨ 65536 < every) (refuse Status.format 16),
       legalDevice 0x1202 s, s.armFull] s
      (s.forgetEnded.arm f
        { number := 0, verb := 2, action := action, direction := le p 0 1, depth := depth, context := ctx, kinds := kinds,
          skip := skip, left := count, every := every }))

/-! ## INJECT.ECC (R466, R467) -/

/-- The target of an INJECT.ECC that the device accepts. -/
def State.plantable (s : State) (target core a : Nat) : Bool :=
  if target = 1 then s.logicalExists core && localPlace a == .slice
  else
    match s.place a with
    | .stack k => s.segCode (segmentOf a) != 0 && (s.windowOf a).isNone && !(s.stack k).failed
    | .table _ | .scratch _ => true
    | .unmapped => false

/-- Which journal copy an address lies in: ES1's or ES7's. -/
def State.journalCopy (s : State) (a : Nat) : Option Nat :=
  if isExternal a && s.journal.segments.contains (segmentOf a) then some (stackOf a) else none

/-- A planted block in the other copy of the journal. -/
def State.otherCopyPlanted (s : State) (a : Nat) : Bool :=
  match s.journalCopy a with
  | none => false
  | some k => s.injections.any fun j => j.verb == 3 && j.link == 0 && s.liveInjection j &&
      (match s.journalCopy j.address with | some i => i != k | none => false)

/-- Two data bits that one correction covers: of one 16-bit symbol under STRONG, else the same bit (R128, the segment code table).
-/
def sameUnit (strong : Bool) (x y : Nat) : Bool := if strong then x / 16 == y / 16 else x == y

/-- The data bits wrong after a flip of some of them. -/
def flipBits (old new : List Nat) : List Nat := old.filter (!new.contains ·) ++ new.filter (!old.contains ·)

/-- The mark of a block after `bits` flips at `pos` on top of the mark it had (R467). A block lost otherwise stays lost. Of flips,
the bits left wrong decide: none, one, or several in one symbol are right or correctable; others are uncorrectable, three and more
in a code that detects two among them (R128 says nothing of those; DESIGN CHOICE, assumption log 51). A correction names the symbol
under STRONG, else the bit. -/
def DamageMark.flipped (m : DamageMark) (strong : Bool) (bits pos : Nat) : DamageMark :=
  if m.lost ∧ m.flips.isEmpty then { m with planted := true }
  else
    match flipBits m.flips (if bits = 1 then [pos] else [pos, pos + 16]) with
    | [] => {}
    | b :: l =>
      { kind := if l.all (sameUnit strong b) then .correctable else .uncorrectable, planted := true,
        position := if l.all (sameUnit strong b) then (if strong then b / 16 else b) else 0, flips := b :: l }

/-- Plants the pattern: a cached line of the block is written back and invalidated first. -/
def State.plant (s : State) (key a bits pos : Nat) (cached : Bool) : State :=
  let s := if cached then s.dropLines (homeDie a) fun l => l.line == a / 256 else s
  let m := (s.damageAt key).flipped (cached && s.segCode (segmentOf a) == 2) bits pos
  { s with damage := sput {} s.damage key m }

/-- The patterns of INJECT.ECC commands that have been answered are planted at the end of the notch: they act from the next (R461). -/
def State.plantDue (s : State) : State :=
  (s.injections.filter fun j => j.verb == 3 && j.armed && j.waiting.isNone).foldl (fun s j =>
    (s.plant j.key j.address j.action j.position (j.link == 0 && isExternal j.address)).modInjection j.number fun x =>
      { x with armed := false }) s

/-- INJECT.ECC (R466, R467). -/
def bodyInjectEcc (f : Frame) (s : State) : Handled :=
  let p := f.payload
  let target := le p 0 1
  let nbits := le p 1 1
  let core := le p 2 2
  let pos := le p 4 2
  let a := le p 8 8
  let inStack := target = 0 ∧ isExternal a
  let limit := (if inStack then 511 else 127) - (if nbits = 2 then 16 else 0)
  let j : Injection :=
    { number := 0, verb := 3, action := nbits, link := target, lane := s.physical core, address := a, position := pos }
  zeroField (nbits = 0) s
    (checked
      [when (1 < target) (refuse Status.format 0), when (2 < nbits) (refuse Status.format 1),
       when (if target = 1 then 239 < core else core ≠ 0) (refuse Status.format 2), when (limit < pos) (refuse Status.format 4),
       when (a % (if inStack then 64 else 16) ≠ 0) (refuse Status.format 8),
       when (!s.plantable target core a) refuseAddress,
       legalDevice 0x1203 s,
       when (target = 0 && s.otherCopyPlanted a) (refuseState 6 (segmentOf a) 4 1), s.armFull] s
      (s.forgetEnded.arm f j))

/-! ## INJECT.CLEAR and INJECT.STATUS (R468) -/

/-- Disarms an injection; what it has caused stays. -/
def State.disarm (s : State) (j : Injection) : State :=
  if j.armed then (s.modInjection j.number fun x => { x with armed := false }).logInjected j else s

def bodyInjectClear (f : Frame) (s : State) : Handled :=
  let n := le f.payload 0 2
  let live := s.injections.filter s.liveInjection
  checked
    [when (n ≠ 0 && !live.any (·.number == n)) (refuse Status.format 0), legalDevice 0x1204 s] s
    (done ((live.filter fun j => n == 0 || j.number == n).foldl State.disarm s))

def bodyInjectStatus (s : State) : Handled :=
  let live := s.injections.filter s.liveInjection
  checked [legalDevice 0x1205 s] s
    (done s (padTo 256 (live.flatMap fun j =>
      leBytes 2 j.number ++ leBytes 1 j.verb ++ leBytes 1 j.action ++ leBytes 4 j.left ++ leBytes 8 j.hits)))

end Sys2Proof.Machine
end

