-- ==== Sys2Proof/Machine/Notch.lean ====
section
/-! DEFINITION. The passing of a notch (R27, R60, R355, R372): the wheel moves on, delay adds to slip and idle notches take it
away. -/

namespace Sys2Proof.Machine

/-- Whether the present notch is idle: no booked interval is projected to run in it, that of a command whose overrun goes on among
them (R354, R355). -/
def State.idle (s : State) : Bool := !s.intervalAt s.clock && s.overrunning.isEmpty

/-- The slip after the present notch: a notch that delays the schedule adds to it, an idle one takes from it (R60). -/
def State.passSlip (s : State) : State :=
  let cause := s.delayCause
  let idle := s.idle
  let s := if cause = 0 then s else s.addSlip (oneNotch cause)
  if idle then s.lowerSlip else s

/-- The clocks and counters after the present notch. A device without power has no wheel. -/
def State.passClocks (s : State) : State :=
  if s.dev.state = .off then { s with uptime := s.uptime + 1 }
  else
    let paused := s.paused
    { s with
      uptime := s.uptime + 1
      worked := s.worked + bnat !paused
      freshTrouble := []
      schedule := { s.schedule with startSlip := 0 }
      wheel := { s.wheel with position := (s.wheel.position + 1) % 2 ^ 64 }
      power := { s.power with pauseCount := saturate32 (s.power.pauseCount + bnat paused) } }

/-- The occurrences whose lead has begun since schedule notch `from_` with a command in them: their lead has raised the draw
(R341, R348). -/
def State.raiseLeads (s : State) (from_ : Nat) : State :=
  let now := s.clock
  let due (b : Booking) : List Nat :=
    (b.between from_ (now + 1)).filter fun k =>
      decide (from_ < b.first + k * b.period ∧ b.first + k * b.period ≤ now) && !(s.placedIn b.id k).isEmpty
  s.modSchedule fun y => { y with bookings := y.bookings.map fun b => { b with raised := b.raised ++ due b } }

/-- Booked intervals of ended commands that have passed are forgotten, and occurrences that nothing holds any more (R349). -/
def State.pruneSpent (s : State) : State :=
  if s.schedule.spent.all fun e => decide (s.clock < e.2.intervalEnd) then s
  else (s.modSchedule fun y => { y with spent := y.spent.filter fun e => decide (s.clock < e.2.intervalEnd) }).pruneBookings

/-- Sessions whose operator slot has been removed or replaced end (R453). -/
def State.dropSessions (s : State) : State := { s with sessions := s.sessions.filter fun e => !e.2.ending }

/-- What takes effect at the end of a notch: failed bundles are removed and the traffic of a reset die is turned round (R286, R299);
sessions of a replaced operator slot end (R453); registers written in the notch change (R492); and what waits for the end of the notch
of its reply, the patterns of INJECT.ECC (R461) and the domains of a DOZE (R363). -/
def State.endNotch (s : State) : State := s.endLinks.dropSessions.applyWrites.plantDue.dozeOff

/-- What takes effect with the next notch: a late CTX.RESET is answered in its notch (R400), a new wheel configuration holds (R43), an
injected lane fails in the notch after its reply (R463); reads that a bank or a split held back are taken up (R156, R196), pages that
no piece uses any more are unmapped (R228), and a change of Replay is acted upon (R408). -/
def State.beginNotch (s : State) : State :=
  s.pruneSpent.answerLate.applySource.failLanes.retryReads.releaseUnmaps.endClosings.replayStep

/-- One notch passes, everything due in it started; a miss is certain in the notch whose delay passes the reserve (R354). -/
def State.passNotch (s : State) : State :=
  if s.dev.state = .off then s.passClocks
  else (s.startDue.passSlip.checkMisses.endNotch.passClocks.raiseLeads s.clock).beginNotch

/-- IDLE_NOTCH (R355): a notch passes in which no booked interval runs. -/
def execIdleNotch (s : State) : Out := event s.idle s s.passNotch

end Sys2Proof.Machine
end

