-- ==== Sys2Proof/Machine/Thermal.lean ====
section
/-! DEFINITION. The housekeeping round (R365 to R374), pauses and their end (R372, R375), trips (R377, R378) and latches
(R376, R379).

The thermal model works in FP32, each operation rounded once, as R367's code; thresholds, caps and pause lengths are compared
and computed exactly. -/

namespace Sys2Proof.Machine

/-! ## Exact ratios -/

/-- A finite value as a fraction; 0 for a NaN or an infinity. -/
def Val.ratio : Val → Int × Nat
  | .fin s m e => if 0 ≤ e then (sgn s m * (2 ^ e.toNat : Nat), 1) else (sgn s m, 2 ^ (-e).toNat)
  | _ => (0, 1)

/-- The whole number at or above n / d, 0 for a negative one. -/
def ceilRatio (n : Int) (d : Nat) : Nat := ceilDiv n.toNat d

/-- a − n for a whole number n. -/
def Val.less (a : Val) (n : Nat) : Val := a.add (intVal (-(n : Int)))

/-- Whether a value is above n / d. -/
def Val.above (a : Val) (n d : Nat) : Bool := (natVal n).lt (a.mul (natVal d))

/-- Whether a value is at or above a whole number. -/
def Val.atLeast (a : Val) (n : Nat) : Bool := !a.isNaN && !a.lt (natVal n)

def half : Word := fdec 1 2

/-! ## Fusion and the model (R366, R367, R368) -/

/-- The in-bank draw of a stack in the previous round (R366). -/
def State.inBankDraw (s : State) (k : Nat) : Word := fdiv (fnat (24 * (s.stack k).rowVisits)) (fnat 14680064)

/-- The local draw of a spot (R366). -/
def State.localDraw (s : State) (r : Readings) (i : Nat) : Word :=
  let pd (k : Nat) : Word := r.domainDraw.getD k 0
  let total (l : List Nat) : Word := l.foldl (fun a k => fadd a (pd k)) 0
  if i < 68 then (if i % 17 < 16 then pd (16 * (i / 17) + i % 17) else pd (64 + i / 17))
  else if i < 84 then
    let d := (i - 68) / 4
    total ((List.range 16).map (16 * d + ·) ++ [64 + d])
  else if i = 84 then total [76, 77, 78, 79]
  else fadd (pd (68 + (i - 85))) (s.inBankDraw (i - 85))

def fabs (w : Word) : Word := w &&& 0x7FFFFFFF#32

/-- Whether a reading lies in −20 °C to 150 °C. -/
def inRange (d : Word) : Bool := fle (fint (-20)) d && fle d (fnat 150)

/-- The pair of readings of a spot; a stack passes its readout twice (R367). -/
def pairOf (r : Readings) (i : Nat) : Option (Word × Word) :=
  (r.spots.getD i none).map fun x => if i < 85 then x else (x.1, x.1)

/-- The round of one spot but for its calibration: model, flags, excess and governing temperature (R367). A missing reading
makes the spot faulted. -/
def Spot.fuse (x : Spot) (i : Nat) (r : Readings) (start : Bool) (ploc theta : Word) : Spot :=
  let old := if start then r.inlet else x.model
  let steady := fadd r.inlet (fmul theta (fadd (fmul (Config.spotA i) r.moduleDraw) (fmul (Config.spotB i) ploc)))
  let model := fadd old (fmul (fsub steady old) (Config.spotAlpha i))
  let stood (x : Spot) : Spot := { x with faulted := true, governing := fadd (fadd x.model x.cal) (fnat 10) }
  let x := { x with model := model }
  match pairOf r i with
  | none => stood x
  | some (d0, d1) =>
    let diff := fabs (fsub d0 d1)
    let x := { x with disagree := x.disagree || fless (fnat 4) diff,
                      difference := min 255 ((ofFp32 diff).scale 2).floor.toNat }
    if x.faulted ∨ fless (fnat 15) diff ∨ !inRange d0 ∨ !inRange d1 then stood x
    else
      let g := fmaxNum d0 d1
      { x with governing := g, excess := (fsub g (fadd model x.cal) :: x.excess).take 17 }

/-- ex[n], newest first. -/
def Spot.ex (x : Spot) (n : Nat) : Word := x.excess.getD n 0

/-- The rate test of a spot (R377). -/
def Spot.rateTest (x : Spot) : Bool := !x.faulted && ((ofFp32 (x.ex 0)).add (ofFp32 (x.ex 16)).neg).above 1 2

/-- The calibration's step, when the round does not freeze it (R367, R368). -/
def Spot.calibrate (x : Spot) : Spot :=
  if x.faulted then x
  else
    let c := fadd x.cal (fdiv (x.ex 0) (fnat 1024))
    { x with cal := if fless c (fint (-8)) then fint (-8) else if fless (fnat 8) c then fnat 8 else c }

def spotsIn : List Nat := List.range 93

/-- The two readings of a spot disagree in a round (R367). -/
def readingsDisagree (r : Readings) (i : Nat) : Bool :=
  match pairOf r i with
  | none => false
  | some (d0, d1) => fless (fnat 4) (fabs (fsub d0 d1))

/-- The spots' Disagree bits that a round sets, for writes that would clear them in the same notch (R492). -/
def State.freshSpots (s : State) (r : Readings) : State :=
  { s with freshTrouble := (spotsIn.filter (readingsDisagree r)).map (fun i => (0x300400 + 4 * i, 16)) ++ s.freshTrouble }

/-- Fuses every spot and updates its model. -/
def State.fuseSpots (s : State) (r : Readings) : State :=
  let theta := fdiv (s.power.theta.getD Config.theta0) Config.theta0
  let start := s.power.rounds = 0
  let spots := spotsIn.map fun i => (s.spot i).fuse i r start (s.localDraw r i) theta
  let tests := spotsIn.filter fun i => (spots.getD i {}).rateTest
  let freeze := s.power.trip || !tests.isEmpty
  s.modPower fun p =>
    { p with spots := spotsIn.foldl (fun m i =>
        let x := spots.getD i {}
        sput {} m i (if freeze then x else x.calibrate)) p.spots }

/-- The spots whose rate test is true now. -/
def State.rateTests (s : State) : List Nat := spotsIn.filter fun i => (s.spot i).rateTest

/-! ## Thermal resistance, flow and cap (R369 to R371) -/

def State.thetaNow (s : State) : Word := s.power.theta.getD Config.theta0

/-- θ_m after the round (R369). -/
def State.updateTheta (s : State) (r : Readings) : State :=
  if !(ofFp32 r.moduleDraw).atLeast 600 ∨ s.power.trip ∨ !s.rateTests.isEmpty then s
  else
    let sample := fdiv (fsub (toFp32 (s.hottestOf (List.range 68))) r.inlet) r.moduleDraw
    let t := s.thetaNow
    s.modPower fun p => { p with theta := some (fadd t (fdiv (fsub sample t) (fnat 256))) }

/-- ΔP / ΔP_0 as a fraction; the square of Q / 2.0 L/min (R370). -/
def pressureRatio (r : Readings) : Nat × Nat :=
  let a := (ofFp32 r.pressure).ratio
  let b := (ofFp32 Config.pressure0).ratio
  (a.1.toNat * b.2, a.2 * b.1.toNat)

/-- Whether Q is at least n / 4 L/min. -/
def flowAtLeast (r : Readings) (n : Nat) : Bool :=
  let x := pressureRatio r
  decide (n * n * x.2 ≤ 64 * x.1)

/-- Q in units of 0.02 L/min, as far as PWR.Coolant shows it. -/
def flowUnits (r : Readings) : Nat :=
  let x := pressureRatio r
  maxNat ((List.range 256).filter fun i => decide (i * i * x.2 ≤ 10000 * x.1))

/-- Whether the heat-balance flow differs from Q by more than 25 % of Q, where the round can judge it (R370). -/
def flowsDiffer (r : Readings) : Bool :=
  let p := (ofFp32 r.moduleDraw).ratio
  let t := ((ofFp32 r.outlet).add (ofFp32 r.inlet).neg).ratio
  let x := pressureRatio r
  let n := (60 * p.1 * t.2).toNat
  let d := (3980 * t.1 * p.2).toNat
  (ofFp32 r.moduleDraw).atLeast 600 && ((ofFp32 r.outlet).add (ofFp32 r.inlet).neg).atLeast 2 &&
  (decide (25 * x.1 * d * d < 4 * (n * n) * x.2) || decide (4 * (n * n) * x.2 < 9 * x.1 * d * d))

/-- The thermal cap (R371). -/
def thermalCapOf (inlet theta : Word) : Nat :=
  let a := ((natVal 92).add (ofFp32 inlet).neg).ratio
  let t := (ofFp32 theta).ratio
  let n := (a.1 * t.2).toNat
  let d := (10 * t.1 * a.2).toNat
  if d = 0 then 320 else max 320 (min 2400 (10 * (n / d)))

/-- The counters of the flow and the sampled values of the board (R370, R381). -/
def State.updateFlow (s : State) (r : Readings) : State :=
  s.modPower fun p =>
    { p with
      flow := flowUnits r, inlet := r.inlet, outlet := r.outlet, pressure := r.pressure, voltage := r.voltage,
      current := r.current, draw := (ofFp32 r.moduleDraw).floor.toNat
      flowLowRounds := if flowAtLeast r 6 then 0 else p.flowLowRounds + 1
      flowDisagreeRounds := if flowsDiffer r then p.flowDisagreeRounds + 1 else 0
      hottest := maxNat (spotsIn.filter fun i => spotsIn.all fun j =>
        let a := ofFp32 (sget {} p.spots i).governing
        let b := ofFp32 (sget {} p.spots j).governing
        b.lt a || (a.le b && b.le a && decide (i ≤ j))) }

/-- The draws of the domains, and the readouts and interfaces of the stacks (R365, R159, R165). -/
def State.updateUnits (s : State) (r : Readings) : State :=
  let s := r.parityErrors.foldl (fun s x => s.modStack (stackOf x.1) fun t => { t with caErrors := sput 0 t.caErrors x.1 x.2 }) s
  let s := r.strays.foldl (fun s x => s.modStack (stackOf x.1) fun t => { t with strays := x :: t.strays.filter (·.1 != x.1) }) s
  let s := (List.range 80).foldl (fun s k => s.modDomain k fun d => { d with draw := (ofFp32 (r.domainDraw.getD k 0)).floor.toNat }) s
  (List.range 8).foldl (fun s k =>
    let g := (ofFp32 (s.spot (85 + k)).governing).floor.toNat
    s.modStack k fun t => { t with temperature := g, rowVisits := 0 }) s

/-- A trouble bit is set when its condition holds. -/
def State.troubleWhen (s : State) (r : TroubleReg) (i : Nat) (b : Bool) : State := if b then s.setTroubleBit r i else s

/-- The trouble bits that the round's readings set (R367, R369, R370, R371), and those of the lasting conditions that it finds:
an input outside its range and a REFCLK_IN out of range (R33, R382). -/
def State.roundTrouble (s : State) (r : Readings) : State :=
  let p := s.power
  let theta := (ofFp32 s.thetaNow).mul (natVal 5)
  let s := s.troubleWhen .power 0 (p.spots.any fun e => e.2.disagree)
  let s := s.troubleWhen .power 1 (p.spots.any fun e => e.2.faulted)
  let s := s.troubleWhen .power 2 (((ofFp32 Config.theta0).mul (natVal 6)).lt theta)
  let s := s.troubleWhen .power 3 (decide (64 ≤ p.flowLowRounds))
  let s := s.troubleWhen .power 4 (decide (64 ≤ p.flowDisagreeRounds))
  let s := s.troubleWhen .power 5 ((ofFp32 r.inlet).lt (natVal 15) || (natVal 45).lt (ofFp32 r.inlet))
  (s.troubleWhen .power 10 (p.lowInput || (natVal 50).lt (ofFp32 r.voltage))).troubleWhen .wheel 3 (!s.wheel.refclkValid)

/-! ## Bands and pauses (R134, R172, R373, R374) -/

/-- Whether a temperature is at least 3 K below the limit that divides a band from the one below it (R134). -/
def belowBand (g : Val) (band : Nat) : Bool := band != 0 && !(natVal ((if band = 2 then 95 else 85) - 3)).lt g

/-- The band of a layer or stack after a round, with the mark from which it has stayed 3 K below its band's limit, in
`uptime` plus one, 0 when it has not: up at once, down one band after 1,024 notches, which begin anew for the next one with the
fall (R134). -/
def bandAfter (g : Val) (band since now : Nat) : Nat × Nat :=
  let b := (bandOf g).getD 2
  let mark (b : Nat) : Nat := if belowBand g b then now + 1 else 0
  if band < b then (b, 0)
  else if !belowBand g band then (band, 0)
  else if since = 0 then (band, now + 1)
  else if 1024 + since ≤ now + 1 then (band - 1, mark (band - 1))
  else (band, since)

/-- b of R373: the ballast that lifts the draw back to L. -/
def ballastOf (l : Val) : Nat :=
  let x := (l.less 320).ratio
  16 * ceilRatio x.1 (400 * x.2)

/-- The schedule notch that the present one becomes when issue rests for `n` notches: idle notches move the schedule on up to the
next booked start (R60, R355). -/
def State.clockAfter (s : State) (n : Nat) : Nat :=
  if s.idle then ((s.bookedCmds.map (·.2.start)).filter (s.clock < ·)).foldl min (s.clock + n) else s.clock

/-- The booked draw in the notch at which issue is next to resume, when the pause that its ballast b gives lasts `wait b` notches
from now (R373): that of the shortest b that lifts the draw to it. -/
def State.resumeDraw (s : State) (wait : Nat → Nat) : Val :=
  let draw (b : Nat) : Val := intVal (s.bookedDraw (s.clockAfter (wait b)))
  draw ((((List.range 8).map (16 * ·)).find? fun b => decide (ballastOf (draw b) ≤ b)).getD 112)

/-- The temperature pause (R373). -/
def temperaturePause (t : Val) (b : Nat) : Nat :=
  if !t.above 96 1 then 0
  else if t.above 199 2 then 1024
  else
    let x := ((t.less 96).scale 1).ratio
    min 1024 (b + 128 * ceilRatio x.1 x.2)

/-- L of R373 for a round whose previous one had `unpaused` notches without a pause. Its decisions hold 16 notches from now. -/
def State.drawBefore (s : State) (r : Readings) (unpaused : Bool) (t : Val) : Val :=
  if unpaused then ofFp32 r.unpausedDraw else s.resumeDraw fun b => 16 + max b (temperaturePause t b)

/-- The cap pause (R374). -/
def capPause (l : Val) (cap b : Nat) : Nat :=
  if !l.above cap 1 then 0
  else if cap = 320 then 1024
  else
    let x := (l.less cap).ratio
    let y := (l.less 320).ratio
    min 1024 (b + 64 * ceilRatio (16 * x.1 * y.2) (y.1.toNat * x.2))

/-- A Quern stack that runs at half duty (R208). -/
def State.runsHot (s : State) (k : Nat) : Bool :=
  isQuern k && (s.stack k).pcs.any (fun e => e.2.mode == .compute) && (ofFp32 (s.spot (85 + k)).governing).above 100 1

/-- The latch that the round's test finds: a spot at 110 °C, or 15 K above its value at the trip in force (R376). -/
def State.latchFound (s : State) : Option (Nat × Nat) :=
  match spotsIn.find? fun i => (ofFp32 (s.spot i).governing).atLeast 110 with
  | some i => some (1, i)
  | none =>
    if s.power.trip then
      (spotsIn.find? fun i => ((ofFp32 (s.spot i).governing).add (ofFp32 (s.spot i).atTrip).neg).atLeast 15).map (3, ·)
    else none

/-- Interfaces to gate, and those that are off, but not for DOZE, to switch on again for bookings up to the round after next (R358,
R362). -/
def State.mayGate (s : State) (k : Nat) : Bool := s.mayOff 0 (68 + k) && !s.stackBooked k 2064
def State.gatesOff (s : State) : List Nat :=
  (List.range 8).filter fun k => bit s.power.autoMask k && s.isOn (68 + k) &&
    decide ((s.stack k).lastAccess + s.power.idleThreshold ≤ s.uptime) && s.mayGate k
def State.gatesOn (s : State) : List Nat :=
  (List.range 8).filter fun k => !(s.domain (68 + k)).byDoze && (s.domain (68 + k)).state == .off && s.stackBooked k 3088

/-- The decisions of a round, from the state its tests leave (R365, R373 to R378). A trip that the round decides lowers the cap only
at the end of the notch in which it takes effect (R377), and so adds nothing to the round's own pause. -/
def State.decideRound (s : State) (r : Readings) (unpaused trip clear : Bool) : Decisions :=
  let governing (i : Nat) : Val := ofFp32 (s.spot i).governing
  let hotStacks := (List.range 8).filter fun k => (governing (85 + k)).above 105 1
  let hotDies := (List.range 4).filter fun d => (List.range 4).any fun l => (governing (68 + 4 * d + l)).above 105 1
  let t := s.hottestOf logicSpots
  let hold := !hotStacks.isEmpty || !hotDies.isEmpty || t.above 199 2
  let thermal := thermalCapOf r.inlet s.thetaNow
  let held := hold || s.power.lowInput || (s.power.trip && !clear)
  let cap := if held then 320 else min thermal s.power.hostCap
  let l := s.drawBefore r unpaused t
  let b := ballastOf l
  let pt := temperaturePause t b
  let pc := capPause l cap b
  { round := s.now / 1024, due := s.now + 16,
    pause := if s.holding && !held && !trip then max b (max pt pc) else max pt pc,
    ballast := b, byTemperature := decide (0 < pt ∧ pc ≤ pt), byCap := decide (0 < pc ∧ pt ≤ pc), hold := hold, trip := trip,
    clearTrip := clear, latch := s.latchFound, thermalCap := thermal, hotStacks := hotStacks, hotDies := hotDies,
    stackBands := (List.range 8).map fun k => bandAfter (governing (85 + k)) (s.stack k).band (s.stack k).coolSince s.uptime,
    layerBands := (List.range 4).map fun d => (List.range 4).map fun l =>
      bandAfter (governing (68 + 4 * d + l)) ((s.pond d).bands.getD l 0) ((s.pond d).coolSince.getD l 0) s.uptime,
    halfDuty := (List.range 8).filter s.runsHot, gateOff := s.gatesOff, gateOn := s.gatesOn }

/-! ## Latch (R379) -/

/-- Accepted commands that will never complete: nothing of them is left (R379). -/
def Stream.lost (t : Stream) : Stream := { t with cmds := t.cmds.filter (·.phase == .completed) }
def State.loseWork (s : State) : State :=
  { s with
    contexts := smap {} (fun _ x => { x with stream := x.stream.lost }) s.contexts
    devStream := s.devStream.lost
    schedule := { s.schedule with fillers := [], bookings := [], tentative := [], spent := [] }
    journal := { s.journal with staging := [], effects := [], transfers := [], modeReplies := [], splitReplies := [], closing := [],
                                lateWrites := [], readWaits := [], unmapWaits := [] }
    fabric := { s.fabric with runs := [], checks := [] } }

/-- The device latches: every domain but PD79 goes off, and the cause and the spot are in flash (R379). -/
def State.latch (s : State) (cause spot : Nat) : State :=
  let s := s.loseWork
  let s := (List.range 79).foldl (fun s k => s.switchOff k false false) s
  { (s.modPower fun p => { p with latchCause := cause, latchSpot := spot, decisions := none, dozeDue := [] }).modDev fun d =>
      { d with state := .latched, dieResets := [], groupResets := [], affected := [], diverted := [], suspects := [],
               replaying := none } with
    pins := { s.pins with thermtrip := s.pins.thermtrip || decide (cause ≤ 3) } }

/-! ## The round (R365) -/

/-- At the end of a pause in-bank units start their next chunk (R372), in their stack's present band (R204, R207). -/
def PseudoChannel.resumed (x : PseudoChannel) (band : Nat) : PseudoChannel :=
  if x.mode = .compute ∧ !x.resting ∧ x.rowsLeft then { x with chunkIn := true, chunkBand := band } else x

/-- The band of the next chunk of a pseudo-channel's running descriptor. -/
def State.nextBand (s : State) (k p : Nat) (x : PseudoChannel) : Nat :=
  (x.running.map fun run => s.chunkBandNow k p run.entry).getD x.chunkBand

def State.resumeUnits (s : State) : State :=
  { s with memStacks := smap {} (fun k t => { t with pcs := smap {} (fun p x => x.resumed (s.nextBand k p x)) t.pcs }) s.memStacks }

/-- The trouble bits of decisions that take effect. -/
def State.effectTrouble (s : State) (d : Decisions) : State :=
  let set (b : Bool) (i : Nat) (s : State) : State := if b then s.setTroubleBit .power i else s
  let s := set (decide (d.thermalCap < 2400)) 6 s
  let s := set d.byTemperature 7 s
  let s := set d.byCap 8 s
  let s := set d.trip 9 s
  let s := d.hotDies.foldl (fun s k => s.setTroubleBit (.millpond k) 5) s
  d.hotStacks.foldl (fun s k => s.setTroubleBit (.stack k) 6) s

/-- Bands and half duty. -/
def State.effectUnits (s : State) (d : Decisions) : State :=
  let s := (List.range 8).foldl (fun s k =>
    let x := d.stackBands.getD k (0, 0)
    s.modStack k fun t =>
      { t with band := x.1, coolSince := x.2, halfDuty := d.halfDuty.contains k, hot := (ofFp32 (s.spot (85 + k)).governing).above 105 1 }) s
  let s := (List.range 4).foldl (fun s k =>
    let l := d.layerBands.getD k []
    let hot := (List.range 4).filter fun i => (ofFp32 (s.spot (68 + 4 * k + i)).governing).above 105 1
    s.modPond k fun t => { t with bands := l.map (·.1), coolSince := l.map (·.2), hotLayers := maskOf hot }) s
  s

/-- Gating (R362). -/
def State.effectGating (s : State) (d : Decisions) : State :=
  let s := d.gateOff.foldl (fun s k => if s.mayGate k then s.switchOff (68 + k) false true else s) s
  d.gateOn.foldl (fun s k => s.startWake (68 + k)) s

/-- The decisions of the round take effect: the trip, the holds, the pause and the rest. A latched device has nothing that they
could gate, and latches no more (R379). -/
def State.takeDecisions (s : State) (d : Decisions) : State :=
  let was := s.paused
  let stop := max (s.now + d.pause) (s.power.pauseUntil.getD 0)
  let s := s.modPower fun p =>
    { p with
      decisions := none, thermalCap := d.thermalCap, hotHold := d.hold
      trip := d.trip || (p.trip && !d.clearTrip), tripAt := if d.trip then s.uptime else p.tripAt
      pausing := decide (s.now < stop), pauseUntil := if s.now < stop then some stop else none, pauseNow := d.pause }
  let s := (s.effectUnits d).effectTrouble d
  if s.dev.state = .latched then s
  else
    let s := (s.effectGating d).noteSlowed
    let s := if was && !s.paused then s.resumeUnits else s
    match d.latch with
    | some (cause, spot) => s.latch cause spot
    | none => s

/-- What the coolant monitor shows of a round (R480), bit 0 of its status clear. -/
def State.monitorValues (s : State) : List Byte :=
  let p := s.power
  leBytes 1 p.rounds ++
  leBytes 1 (bnat (p.trouble.getLsbD 3) * 2 + bnat p.trip * 4 + bnat (s.dev.state == .latched) * 8 + bnat (p.trouble.getLsbD 5) * 16) ++
  leBytes 1 (inUnits p.inlet 4 8) ++ leBytes 1 (inUnits p.outlet 4 8) ++ leBytes 1 (min p.flow 255) ++
  leBytes 1 (min (inUnits p.pressure 1 9 / 2) 255) ++ leBytes 2 (inUnits p.voltage 10 16) ++ leBytes 2 (inUnits p.current 10 16) ++
  leBytes 2 (unsigned 16 (((ofFp32 (s.spot p.hottest).governing).mul (natVal 16)).floor)) ++ leBytes 2 s.powerCap ++ zeros 2

/-- The codewords that the port's FEC corrected, and those it could not (R484). -/
def State.countFec (s : State) (r : Readings) : State :=
  let s := s.modPort fun p =>
    { p with fecCorrected := saturate32 (p.fecCorrected + r.fecCorrected), fecUncorrected := saturate32 (p.fecUncorrected + r.fecUncorrected) }
  s.troubleWhen .port 2 (decide (0 < r.fecUncorrected))

/-- The round is taken for the coolant monitor, whole (R480). -/
def State.takeMonitor (s : State) : State := s.modPower fun p => { p with monitored := s.monitorValues }

/-- A round's sample and tests, up to its decisions. -/
def State.sample (s : State) (r : Readings) : State :=
  let unpaused := decide (s.power.rounds = 0 ∨ s.power.workedAt < s.worked)
  let s := (((s.freshSpots r).fuseSpots r).updateTheta r).updateFlow r
  let tests := s.rateTests
  let flowTest := !flowAtLeast r 2
  let again := (flowTest && s.power.flowTest) || tests.any s.power.rateTests.contains
  let trip := again && !s.power.trip
  let good := flowAtLeast r 6 && spotsIn.all fun i => (s.spot i).faulted || !(ofFp32 ((s.spot i).ex 0)).above 2 1
  let run := if s.power.trip && good then s.power.goodRounds + 1 else 0
  let clear := decide (64 ≤ run)
  let s := if trip then s.modPower fun p => { p with spots := smap {} (fun _ x => { x with atTrip := x.governing }) p.spots } else s
  let s := s.roundTrouble r
  let d := s.decideRound r unpaused trip clear
  (s.updateUnits r).modPower fun p =>
    { p with flowTest := flowTest, rateTests := tests, goodRounds := run, decisions := some d, rounds := p.rounds + 1,
             lastRound := some (s.now / 1024), workedAt := s.worked }

/-- Whether the present notch is one in which a round samples: its first, or the one to which a step of the wheel or TIME.SET came
over a round's first notch (R365). The Maelyn controller runs its rounds from S1 on (R413). -/
def State.samples (s : State) : Bool :=
  s.dev.state != .off && !(s.dev.state == .staging && s.dev.stage == 0 && !s.dev.warm) && s.power.lastRound != some (s.now / 1024) &&
  (s.now % 1024 == 0 || s.power.steppedAt == some s.uptime)

/-- HOUSEKEEPING_ROUND (R365). A round follows the wheel: one for each stretch of 1,024 notches that the wheel meets. -/
def execHousekeepingRound (r : Readings) (s : State) : Out :=
  event (s.samples && !r.maelynMissed) s
    (((match s.power.decisions with
      | some d => s.takeDecisions d
      | none => s).sample r).takeMonitor.countFec r)

/-- ROUND_DECISIONS_EFFECT (R365). -/
def execRoundDecisionsEffect (s : State) : Out :=
  match s.power.decisions with
  | some d => event (decide (d.due ≤ s.now) && s.dev.state != .off) s (s.takeDecisions d)
  | none => .next s

/-- PAUSE_END (R372, R375): after its ballast the pause ends, and every engine resumes where it stopped. -/
def execPauseEnd (s : State) : Out :=
  match s.power.pauseUntil with
  | some n =>
    event (s.power.pausing && decide (n ≤ s.now)) s
      (let s := s.modPower fun p => { p with pausing := false, pauseUntil := none }
       if s.paused then s else s.resumeUnits)
  | none => .next s

/-- COMPARATOR_LATCH (R376). A stack's readout has no diode, and so no comparator. -/
def execComparatorLatch (i : Fin 93) (s : State) : Out :=
  event (s.dev.state != .off && s.dev.state != .latched && decide (i.val < 85)) s (s.latch 2 i)

/-! ## The input (R376) -/

/-- The pause that ends a hold, of its ballast alone (R373, R375). -/
def State.endHold (s : State) : State :=
  if s.holding then s
  else
    let b := ballastOf (s.resumeDraw id)
    let n := max (s.now + b) (if s.power.pausing then s.power.pauseUntil.getD 0 else 0)
    if n ≤ s.now then s.resumeUnits
    else s.modPower fun p => { p with pausing := true, pauseUntil := some n, pauseNow := min 1024 (max p.pauseNow (n - s.now)) }

/-- INPUT_VOLTAGE_LOW. -/
def execInputVoltageLow (s : State) : Out :=
  event (s.dev.state != .off && !s.power.lowInput) s
    ((s.modPower fun p => { p with lowInput := true }).setTroubleBit .power 10)

/-- INPUT_VOLTAGE_RESTORED. -/
def execInputVoltageRestored (s : State) : Out :=
  event (s.dev.state != .off && s.power.lowInput) s ((s.modPower fun p => { p with lowInput := false }).endHold)

/-- INPUT_VOLTAGE_HIGH. -/
def execInputVoltageHigh (s : State) : Out := event (s.dev.state != .off) s (s.setTroubleBit .power 10)

/-- INPUT_OVERLIMIT_LATCH. -/
def execInputOverlimitLatch (overVoltage : Bool) (s : State) : Out :=
  event (s.dev.state != .off && s.dev.state != .latched) s (s.latch (if overVoltage then 4 else 5) 0)

end Sys2Proof.Machine
end

