-- ==== Sys2Proof/Machine/Background.lean ====
section
/-! DEFINITION. What the memories do by themselves: the recode sweep (R179), patrol scrubs (R132, R169) and refreshes (R135, R172,
R204). -/

namespace Sys2Proof.Machine

/-- SEGMENT_SWEEP: the sweep of a stack's present segment ends. -/
def execSegmentSweep (k : Fin 8) (s : State) : Out := event (s.inService && (s.stack k).sweep.isSome) s (s.endSweep k)

/-- SLICE_PATROL_SCRUB (R132): the four granules of a line. An uncorrectable one sets the trouble bit and records nothing else. -/
def execSlicePatrolScrub (p : Fin 256) (line : Nat) (s : State) : Out :=
  event (decide ((s.core p).state ≠ .running ∧ (s.core p).state ≠ .trapped) && s.isOn (p / 4) && decide (line < 786432)) s
    ((unitsOf 16 (0x10000000 + line * 64) 64).foldl (fun s g =>
      let m := s.damageAt (localKey p g)
      if m.kind = .correctable then s.sliceCorrected p g
      else if m.lost then (s.plantedHit (localKey p g) m).setTroubleBit (.core p) 2
      else s) s)

/-- Whether patrol scrub reads a block: not of a NONE segment, a retired page, or a pseudo-channel in COMPUTE or SEALING (R169). -/
def State.scrubs (s : State) (k a : Nat) : Bool :=
  s.segCode (segmentOf a) != 0 && !(s.page (a / 65536)).retired && (s.pseudo k (pseudoOf a)).mode == .plain

/-- STACK_PATROL_SCRUB (R169): row `row / 64` of bank `row % 64` of each pseudo-channel; corrected blocks are rewritten. A lost
block of a journal copy is a lost copy (R315). -/
def execStackPatrolScrub (k : Fin 8) (row : Nat) (s : State) : Out :=
  let t := s.stack k
  let here (a : Nat) : Bool := isExternal a && stackOf a == k.val && bankOf a == row % 64 && rowOf a == row / 64 && s.scrubs k a
  event (s.isOn (68 + k) && t.trained && !t.selfRefresh) s
    (((s.damage.map (·.1) ++ t.caErrors.map (·.1) ++ t.strays.map (·.1)).eraseDups.filter here).foldl (fun s a =>
      let planted := (s.damageAt a).planted
      match s.readBlock a 3 with
      | (s, true) => s.journalBlockLost a
      | (s, false) =>
        let s := if planted then s.journalBlockLost a else s
        if (s.damageAt a).kind = .correctable then s.clearDamage a else s) s)

/-- BEDSTONE_REFRESH (R135): issued at its time and never postponed. A refresh keeps the bank's contents, and nothing the device
shows tells of it. -/
def execBedstoneRefresh (_die : Fin 4) (_layer : Fin 4) (_bank : Fin 16) (s : State) : Out := .next s

/-- Whether the refresh of a bank of a stack starts in the present notch (R172, R173): bank k at k × I / 64 after each notch that I
divides; above 105 °C in every notch. -/
def State.refreshDue (s : State) (k bank : Nat) : Bool :=
  let i := if (s.stack k).band = 0 then 4 else if (s.stack k).band = 1 then 2 else 1
  s.now % i == bank * i / 64 || (ofFp32 (s.spot (85 + k)).governing).above 105 1

/-- STACK_REFRESH (R172, R204): a pseudo-channel whose running chunk uses the bank postpones it until the chunk ends. -/
def execStackRefresh (k : Fin 8) (bank : Fin 64) (s : State) : Out :=
  let t := s.stack k
  let hold (x : PseudoChannel) : PseudoChannel :=
    if x.chunkBanks.contains bank.val && !x.postponed.contains bank.val then { x with postponed := x.postponed ++ [bank.val] } else x
  event (t.trained && !t.selfRefresh && s.refreshDue k bank) s
    (s.modStack k fun t => { t with pcs := smap {} (fun _ x => hold x) t.pcs })

end Sys2Proof.Machine
end

