-- ==== Sys2Proof/Machine/Links.lean ====
section
/-! DEFINITION. Link flits (R281 to R285, R295, R298): a flit sent, spoiled by injections and received; acks, credits, nacks and
resends; retrains and sparing; the delivery stores. -/

namespace Sys2Proof.Machine

/-- Mesh, retrain and exchange flits take sequence numbers (R283). -/
def sequenced (f : Flit) : Bool := f.kind == 1 || f.kind == 3 || f.kind == 4

/-! ## The flit's bits (R282) -/

/-- Bits [543:0] of a flit. -/
def flitBody (f : Flit) : Nat :=
  f.payload.toNat + 2 ^ 512 * f.sequence + 2 ^ 522 * f.ack + 2 ^ 532 * f.kind + 2 ^ 535 * f.creditClass + 2 ^ 537 * f.credits

/-- The CRC-32C of 544 bits, taken as 68 bytes, bits [7:0] first (DEDUCED, assumption log 23). -/
def bodyCrc (n : Nat) : Nat := (crc32c (leBytes 68 n)).toNat

/-- The 576 bits that a flit's sender forms. -/
def flitWord (f : Flit) : BitVec 576 := BitVec.ofNat 576 (flitBody f + 2 ^ 544 * bodyCrc (flitBody f))

/-- The flit that its receiver reads; none when the CRC-32C is not correct. -/
def flitArrived (f : Flit) : Option Flit :=
  let w := (flitWord f ^^^ f.damage).toNat
  let n := w % 2 ^ 544
  if bodyCrc n ≠ w / 2 ^ 544 then none
  else some { payload := BitVec.ofNat 512 n, packet := f.packet, sequence := bits n 521 512, ack := bits n 531 522, kind := bits n 534 532,
              creditClass := bits n 536 535, credits := bits n 543 537 }

/-- Whether a flit can be formed: its fields fit, no kind or class is reserved, and its packet goes from one die to another. -/
def flitFormed (f : Flit) : Bool :=
  decide (f.sequence < 1024 ∧ f.ack < 1024 ∧ f.kind ≤ 4 ∧ f.creditClass ≤ 2 ∧ f.credits < 128) &&
  (f.kind != 1 || decide (f.packet.source ≤ 260 ∧ f.packet.destination ≤ 260 ∧ f.packet.delivery < 65536 ∧ f.packet.cls ≤ 2 ∧
    sourceDie f.packet ≠ destinationDie f.packet))

/-! ## The sender (R283, R284) -/

/-- Whether two flits have the same content. -/
def sameFlit (f g : Flit) : Bool := f.payload == g.payload && f.packet == g.packet && f.kind == g.kind

/-- A flit takes the next sequence number, a place in the replay buffer and, a mesh flit, a credit of its class. -/
def LinkDir.numbers (d : LinkDir) (f : Flit) : LinkDir :=
  { d with nextSeq := (d.nextSeq + 1) % 1024, replay := d.replay ++ [f],
           credits := if f.kind = 1 then d.credits.set f.packet.cls (d.credits.getD f.packet.cls 0 - 1) else d.credits }

/-- The sender after a flit: one it must send again, one moved to it, a new one, or an idle or nack flit; none when it sends no such
flit. -/
def LinkDir.sends (d : LinkDir) (f : Flit) : Option LinkDir :=
  if sequenced f then
    match d.resending with
    | g :: rest => if sameFlit f g ∧ f.sequence = g.sequence then some { d with resending := rest } else none
    | [] =>
      if f.sequence ≠ d.nextSeq ∨ 256 ≤ d.replay.length ∨ (f.kind = 1 ∧ d.credits.getD f.packet.cls 0 = 0) then none
      else
        match d.moved with
        | g :: rest => if sameFlit f g then some { d.numbers f with moved := rest } else none
        | [] => some (d.numbers f)
  else if f.sequence = (1023 + d.nextSeq) % 1024 then some d else none

/-- Whether a mesh flit is neither sent again nor moved here. -/
def LinkDir.isNew (d : LinkDir) (f : Flit) : Bool := f.kind == 1 && d.resending.isEmpty && d.moved.isEmpty

/-- The flits from the first after sequence `a` on; all of them when none has that sequence. -/
def afterSequence (a : Nat) (l : List Flit) : List Flit :=
  match l.findIdx? (·.sequence == a) with
  | some i => l.drop (i + 1)
  | none => l

/-- An Ack covers flits of the replay buffer (R283). -/
def LinkDir.acked (d : LinkDir) (a : Nat) : LinkDir :=
  let rest := afterSequence a d.replay
  { d with replay := rest, resending := afterSequence a d.resending,
           resends := if rest.length < d.replay.length then 0 else d.resends }

/-- The sequence of the last flit received in order, which a flit of the other direction carries as its Ack. -/
def LinkDir.lastAccepted (d : LinkDir) : Nat := (1023 + d.expected) % 1024

/-- Credits for input buffer places freed at the receiver. -/
def LinkDir.credited (d : LinkDir) (c n : Nat) : LinkDir := { d with credits := d.credits.set c (d.credits.getD c 0 + n) }

/-- The oldest `n` flits of a class leave the input buffer. -/
def freePlaces (c : Nat) : Nat → List (Nat × BitVec 512) → List (Nat × BitVec 512)
  | _, [] => []
  | 0, l => l
  | n + 1, x :: l => if x.1 = c then freePlaces c n l else x :: freePlaces c (n + 1) l

/-! ## The receiver (R283) -/

/-- A run of discards begins; it owes one nack. -/
def LinkDir.discards (d : LinkDir) : LinkDir :=
  if d.discarding then d else { d with discarding := true, nacksOwed := d.nacksOwed + 1 }

/-- The receiver after a flit as it arrived, and whether it counts: one that follows a discarded flit does not, until the expected
one arrives. An idle or nack flit that repeats a sequence the receiver has not seen shows a loss. -/
def LinkDir.receives (d : LinkDir) (g : Option Flit) : LinkDir × Bool :=
  match g with
  | none => (d.discards, false)
  | some f =>
    if 4 < f.kind ∨ 2 < f.creditClass then (d.discards, false)
    else if sequenced f then
      if f.sequence = d.expected then
        ({ d with expected := (d.expected + 1) % 1024, discarding := false,
                  inbox := if f.kind = 1 then d.inbox ++ [(f.packet.cls, f.payload)] else d.inbox }, true)
      else (d.discards, false)
    else if !d.discarding ∧ f.sequence = d.lastAccepted then (d, true)
    else (d.discards, false)

/-- A nack is sent. -/
def LinkDir.nacked (d : LinkDir) (now : Nat) : LinkDir :=
  { d with nacksOwed := d.nacksOwed - 1, nacks := now :: d.nacks.filter fun t => decide (now < 1024 + t) }

/-! ## Retrains (R285, R286) -/

/-- The retrains of a bundle within the last 2^20 notches. -/
def State.recentRetrains (s : State) (i b : Nat) : List Nat :=
  ((s.linkDir i b true).retrains ++ (s.linkDir i b false).retrains).filter fun t => decide (s.uptime < 2 ^ 20 + t)

/-- A bundle direction needs a retrain; the third within 2^20 notches removes the bundle. -/
def State.beginRetrain (s : State) (i b : Nat) (toB : Bool) : State :=
  let d := s.linkDir i b toB
  if d.retraining then s
  else
    if 2 ≤ (s.recentRetrains i b).length then s.failBundle i b
    else
      (s.setLinkDir i b toB { d with retraining := true, retrains := s.uptime :: d.retrains }).modLink i fun l =>
        { l with retrainCount := saturate16 (l.retrainCount + 1) }

/-- A lane that a retrain finds, as the field defect list names it (R418). -/
def laneDefect (i b : Nat) (toB : Bool) (source lane : Nat) : Defect :=
  { kind := if i < 4 then 5 else 6, source := source, object := i + b * 256, index := lane + 2 ^ 31 * bnat (!toB) }

/-- Whether the failing lanes of a direction are more than its spares cover, or both its clocks (R281, R286). -/
def beyondSpares (l : List Nat) : Bool := decide (8 < (l.filter (· < 296)).length) || (l.contains 296 && l.contains 297)

/-- Lanes of a direction that run on a spare. -/
def sparesFor (l : List Nat) : Nat := (l.filter (· < 288)).length

def merged (a b : List Nat) : List Nat := a ++ b.filter fun x => !a.contains x

/-- RETRAIN_DONE (R285, R463): failing lanes move to spares and are listed, but for injected failures. -/
def execRetrainDone (i : Fin 6) (b : Fin 16) (toB : Bool) (failing : List Nat) (s : State) : Out :=
  let d := s.linkDir i b toB
  if !d.retraining then .next s
  else
    let found := merged d.failed (failing.filter fun x => !d.injected.contains x)
    let all := merged found d.injected
    let s := (found.filter fun x => !d.failed.contains x).foldl (fun s x => s.addDefect (laneDefect i b toB 4 x)) s
    let s := s.setLinkDir i b toB { d with failed := found, sparesUsed := min 8 (sparesFor all), retraining := false,
                                           resending := d.replay, resends := 0, nacks := [], discarding := false }
    let s := if d.sparesUsed < sparesFor all then s.setTroubleBit (.link i) 0 else s
    .next (if beyondSpares all then s.failBundle i b else s)

/-! ## Injections (R463) -/

/-- A sequenced flit leaves the sender past the injections of its direction: what goes out. -/
def State.spoilFlit (s : State) (i b : Nat) (toB : Bool) (f : Flit) : State × Option Flit :=
  let mine (j : Injection) : Bool := j.armed && j.verb == 1 && j.link == i && j.bundle == b && j.direction == bnat (!toB) &&
    j.waiting.isNone && decide (j.armedAt < s.uptime)
  (s.injections.filter mine).foldl (fun (s, a) j =>
    match a with
    | none => (s, none)
    | some f =>
      let seen := j.seen + 1
      let s := s.modInjection j.number fun x => { x with seen := seen }
      if seen ≤ j.skip then
        if j.action = 3 ∧ seen = j.skip then ((s.failLane i b j.direction j.lane).injectionHit { j with seen := seen }, a) else (s, a)
      else if j.action = 3 then (s, a)
      else
        let s := s.injectionHit { j with seen := seen }
        if j.action = 1 then (s, none) else (s, some { f with damage := f.damage ||| crcBits })) (s, some f)
where
  crcBits : BitVec 576 := BitVec.ofNat 576 (2 ^ 576 - 2 ^ 544)

/-! ## A flit (R283, R284, R295, R298) -/

/-- What a flit that counts does to the other direction: its Ack and Credits reach the sender, the places leave the input buffer,
and a nack makes the sender send again. With the resend a new run of discards can begin, so that a resend that fails is nacked in its
turn (DEDUCED, assumption log 23); one that has failed 16 times leads to a retrain (R285). -/
def State.tellSender (s : State) (i b : Nat) (toB : Bool) (f : Flit) : State :=
  let r := ((s.linkDir i b (!toB)).acked f.ack).credited f.creditClass f.credits
  let r := { r with inbox := freePlaces f.creditClass f.credits r.inbox }
  let s := s.setLinkDir i b (!toB) r
  if f.kind = 2 ∧ !r.replay.isEmpty then
    let s := s.setLinkDir i b (!toB) { r with resending := r.replay, resends := r.resends + 1, discarding := false }
    let s := s.modLink i fun l => { l with replayCount := saturate16 (l.replayCount + 1), replaySince := l.replaySince + 1 }
    let s := if (s.link i).replaySince = 256 then s.setTroubleBit (.link i) 3 else s
    if 16 ≤ r.resends then s.beginRetrain i b (!toB) else s
  else s

/-- A mesh flit accepted on its destination die is delivered (R298); on another die it waits to go on. -/
def State.deliver (s : State) (die : Nat) (f : Flit) : State :=
  let p := f.packet
  if destinationDie p = die then s.modPair (sourceDie p) die fun x => x.arrives p
  else s.modDev fun d => { d with transit := d.transit ++ [(die, f.payload, p)] }

/-- What the receiver does with what it read, `none` where the CRC is wrong. -/
def State.flitRead (s : State) (i b : Nat) (toB : Bool) (a : Option Flit) : State :=
  let (d, counts) := (s.linkDir i b toB).receives a
  let s := s.setLinkDir i b toB d
  match a with
  | none => s
  | some g =>
    if !counts then s
    else
      let s := if g.kind = 1 then s.deliver (receiverOf i toB) g else s
      s.tellSender i b toB g

/-- What arrives at the receiver. -/
def State.flitArrives (s : State) (i b : Nat) (toB : Bool) (f : Flit) : State := s.flitRead i b toB (flitArrived f)

/-- A nack goes out for a direction; 8 of them within 1,024 notches lead to a retrain (R285). -/
def State.sendNack (s : State) (i b : Nat) (toB : Bool) : State :=
  let r := (s.linkDir i b toB).nacked s.uptime
  let s := s.setLinkDir i b toB r
  if 8 ≤ r.nacks.length then s.beginRetrain i b toB else s

/-- The ends of a link have power: those on a Runner die belong to its mesh domain (R20, R24), that on the Sluice die is always on.
-/
def State.endsOn (s : State) (i : Nat) : Bool := s.isOn (64 + (linkEnds i).1) && (decide (4 ≤ i) || s.isOn (64 + (linkEnds i).2))

/-- Whether a bundle carries flits: its ends have power, it is not removed or failing, no retrain, and no end in a die that is
turned round (R285, R286, R299). -/
def State.carries (s : State) (i b : Nat) : Bool :=
  let x := (s.link i).bundle b
  s.endsOn i && (s.link i).trained && decide (b < bundlesOf i) && !x.removed && !x.failing && !x.retraining &&
  !s.dev.diverted.contains (linkEnds i).1 && !s.dev.diverted.contains (linkEnds i).2

/-- The delivery store of an end after a flit that leaves its source die: the next of its pair to be sent again, or a new one, while
the store has room and none of its pair waits (R298, R299). -/
def State.storeFlit (s : State) (i : Nat) (toB : Bool) (f : Flit) : Option State :=
  let p := f.packet
  let store := s.storeAt i toB
  let mine := (s.storedBy (sourceDie p)).filter fun e => samePair e.2.2.packet p && e.2.2.phase != .sent
  match store.findIdx? fun y => samePair y.packet p && y.phase == .again with
  | some k =>
    match store[k]? with
    | some y =>
      if y.payload = f.payload ∧ y.packet = p then some (s.setStoreAt i toB (store.set k { y with phase := .sent, way := s.wayFrom p })) else none
    | none => none
  | none =>
    if !mine.isEmpty ∨ 16384 ≤ store.length then none
    else
      ((s.pair (sourceDie p) (destinationDie p)).sends p).map fun x =>
        (s.setStoreAt i toB (store ++ [{ payload := f.payload, packet := p, way := s.wayFrom p }])).modPair (sourceDie p) (destinationDie p) fun _ => x

/-- A mesh flit that its routers hand to an end: on its packet's route (R295), from the delivery store of its source die or into it,
or one that has come to this die on its way. -/
def State.meshSends (s : State) (i b : Nat) (toB : Bool) (f : Flit) : Option State :=
  let die := senderOf i toB
  let p := f.packet
  if s.nextHop p die ≠ some (i, toB, b) then none
  else if sourceDie p = die then s.storeFlit i toB f
  else if s.dev.transit.contains (die, f.payload, p) then
    some (s.modDev fun d => { d with transit := d.transit.erase (die, f.payload, p) })
  else none

/-- LINK_FLIT_RECEIVED (R283, R284): a flit that its sender can send now leaves it, meets the injections, and is received. In DOZE
no mesh flit is sent, be it new, moved or sent again (R364). -/
def execLinkFlitReceived (i : Fin 6) (b : Fin 16) (toB : Bool) (f : Flit) (s : State) : Out :=
  let d := s.linkDir i b toB
  let r := s.linkDir i b (!toB)
  let freed := (r.inbox.filter (·.1 == f.creditClass)).length
  if !s.carries i b ∨ !flitFormed f ∨ f.ack ≠ r.lastAccepted ∨ freed < f.credits ∨ (f.kind = 2 ∧ r.nacksOwed = 0) ∨
      (f.kind = 1 ∧ s.dev.state = .doze) then .next s
  else
    match if d.isNew f then s.meshSends i b toB f else some s, d.sends f with
    | some s, some d =>
      let s := s.setLinkDir i b toB d
      let s := if f.kind = 2 then s.sendNack i b (!toB) else s
      if sequenced f then
        match s.spoilFlit i b toB f with
        | (s, some f) => .next (s.flitArrives i b toB f)
        | (s, none) => .next s
      else .next (s.flitArrives i b toB f)
    | _, _ => .next s

/-- DELIVERY_ACK (R298): the destination router acknowledges a packet delivered on its die; its flits leave the delivery store of
the end by which it left. -/
def execDeliveryAck (i : Fin 6) (fromB : Bool) (m : DeliveryMsg) (s : State) : Out :=
  let a := senderOf i (!fromB)
  event (deliveredBefore m.delivery (s.pair a m.die).expected) s
    (s.setStoreAt i (!fromB) ((s.storeAt i (!fromB)).filter fun y =>
      !(destinationDie y.packet == m.die.val && y.packet.delivery == m.delivery.val && y.phase == .sent)))

end Sys2Proof.Machine
end

