-- ==== Sys2Proof/Machine/Stages.lean ====
section
/-! DEFINITION. The stages S0 to S8 of a start (R412 to R425): tests, units and their condition, the start reports, and failing
readiness. -/

namespace Sys2Proof.Machine

/-! ## Start reports (R429) -/

/-- The words of a start report from word 2 on. -/
structure Tally where
  tested : Nat := 0
  fused : Nat := 0
  listed : Nat := 0
  failed : Nat := 0
  passed : Nat := 0
  fresh : Nat := 0
  spares : Nat := 0
  first : Nat := 0xFFFFFFFF
  values : List Nat := []
  deriving DecidableEq, Repr

/-- Writes the report of stage `n`: outcome 1 passed, 2 failed, 3 skipped. -/
def State.report (s : State) (n outcome code : Nat) (t : Tally) : State :=
  let words := [outcome + n * 16 + code * 256, if outcome = 3 then 0 else s.uptime - s.dev.stageAt, t.tested, t.fused, t.listed,
    t.failed, t.passed, t.fresh, t.spares, t.first] ++ t.values
  s.modDev fun d =>
    { d with reports := words.zipIdx.foldl (fun m (v, i) => sput 0 m (16 * n + i) (BitVec.ofNat 32 v)) d.reports }

/-- Stage `n` is in progress. -/
def State.inStage (s : State) (n : Nat) : Bool := s.dev.state == .staging && s.dev.stage == n && !s.dev.quiescing

/-- Stage `n` has passed and the next begins. -/
def State.stagePasses (s : State) (n : Nat) (t : Tally) : State :=
  (s.report n 1 0 t).modDev fun d => { d with stage := n + 1, stageAt := s.uptime }

/-- Stage `n` is skipped. -/
def State.stageSkips (s : State) (n : Nat) : State := (s.report n 3 0 {}).modDev fun d => { d with stage := n + 1, stageAt := s.uptime }

/-- A stage that counts the checks it makes. -/
def checksOf (n : Nat) : Tally := { tested := Config.stageChecks n }

/-- The same stage when one of them fails (R429). -/
def failedCheck (n : Nat) : Tally := { checksOf n with failed := 1 }

/-- The start cannot pass stage `n`: the device enters FAULTED, and no warm start leaves it by itself (R388, R425). -/
def State.failReadiness (s : State) (n code detail : Nat) (t : Tally) : State :=
  let s := (s.report n 2 code t).enterFaulted 0 0 (0, 0) s.dev.suspectsAtWarm
  s.modDev fun d => { d with outcome := 3, readiness := code, readinessStage := n, readinessDetail := detail, mayWarm := false }

/-! ## Units (R415 to R417) -/

/-- A unit as the field defect list names it: kind, object, index. -/
abbrev UnitId := Nat × Nat × Nat

def Defect.unit (d : Defect) : UnitId := (d.kind, d.object, d.index)

/-- The listed units of some kinds, those kept for this start only among them. -/
def State.listedUnits (s : State) (kinds : List Nat) : List UnitId :=
  (((s.dev.defects ++ s.dev.onlyThisStart).filter fun d => kinds.contains d.kind).map Defect.unit).eraseDups

/-- What a test of units comes to: every bad unit, those newly found, and the counts. -/
structure Tested where
  bad : List UnitId
  fresh : List UnitId
  tally : Tally
  deriving DecidableEq, Repr

/-- Units of `kinds`, `total` of them, with the fused ones and those that fail this start's test. A unit that only the list marks
is not tested. -/
def State.testUnits (s : State) (kinds : List Nat) (total : Nat) (fused failing : List UnitId) (object : UnitId → Nat) : Tested :=
  let fused := fused.eraseDups
  let listed := s.listedUnits kinds
  let skipped := listed.filter fun u => !fused.contains u
  let found := failing.eraseDups.filter fun u => !skipped.contains u
  let fresh := found.filter fun u => !fused.contains u
  { bad := fused ++ skipped ++ fresh, fresh := fresh
    tally := { tested := total - skipped.length, fused := fused.length, listed := listed.length, failed := found.length,
               passed := (fused.filter fun u => !found.contains u).length, fresh := fresh.length,
               first := (found.head?.map object).getD 0xFFFFFFFF } }

/-- Adds the newly found units to the list, and sets StartTrouble as R416 and R417 say. -/
def State.listFresh (s : State) (t : Tested) : State :=
  let s := t.fresh.foldl (fun s u => s.addDefect { kind := u.1, source := 1, object := u.2.1, index := u.2.2 }) s
  let s := if 0 < t.tally.passed then s.setTroubleBit .start 0 else s
  if t.fresh.isEmpty then s else s.setTroubleBit .start 1

/-! ## S0 to S2 -/

/-- STAGE_S0_POWER_GOOD. With TEST_MODE# low the device stays in S0 (R489). -/
def execStageS0PowerGood (s : State) : Out := event (s.inStage 0 && !s.dev.testMode) s (s.stagePasses 0 (checksOf 0))

def Security.slot (x : Security) (i : Nat) : FwSlot := if i = 0 then x.slotA else x.slotB

/-- The image the boot ROM runs: the valid one of the higher version, slot A on a tie (R448). -/
def Security.bootImage (x : Security) : Option Nat :=
  let a := x.imageFault x.slotA.image = 0
  let b := x.imageFault x.slotB.image = 0
  if a ∧ (¬ b ∨ imageVersion x.slotB.image ≤ imageVersion x.slotA.image) then some 0 else if b then some 1 else none

/-- The newest of two copies that verify, the first when they are equal (R418, R453). -/
def newestCopy {α : Type} (seq : α → Nat) (a b : α) (aOk bOk : Bool) : Option α :=
  if aOk && (!bOk || decide (seq b ≤ seq a)) then some a else if bOk then some b else none

/-- The field defect list as S1 of a cold start reads it: the newest copy that verifies, written over the other (R418). -/
def Device.readList (d : Device) (r : S1Facts) : Option Device :=
  (newestCopy ListCopy.sequence d.listA d.listB r.listA r.listB).map fun x =>
    { d with defects := x.records, listSequence := x.sequence, listA := x, listB := x }

/-- The operator table, read in the same way (R453); with no copy that verifies the device uses none of it (R459). -/
def Security.readTable (x : Security) (r : S1Facts) : Security :=
  match newestCopy TableCopy.sequence x.tableA x.tableB r.tableA r.tableB with
  | some c => { x with operators := c.slots, operatorSequence := c.sequence, tableA := c, tableB := c }
  | none => { x with operators := [] }

/-- Records of module flash whose check fails are not used: the addresses and the latch record read as empty, and without its key
the module is in no fabric (R459). -/
def State.readRecords (s : State) (r : S1Facts) : State :=
  let s := if r.addressesOk then s else s.modFabric fun x => { x with flashIpv4 := 0, flashIpv6 := 0 }
  let s := if r.latchOk then s else s.modPower fun p => { p with latchCause := 0, latchSpot := 0 }
  if r.fabricOk then s else s.modFabric fun x => { x with member := false, id := 0, preferred := 0xFFFF, vlan := 0, key := [] }

/-- The retired pages and segments of the list (R256). -/
def State.applyList (s : State) : State :=
  s.dev.defects.foldl (fun s d =>
    if d.kind = 8 then
      (List.range' d.index d.count).foldl (fun s g => s.setPage g { s.page g with pending := true, retired := true }) s
    else if d.kind = 9 then
      (List.range' d.index d.count).foldl (fun s g => if s.segRetired g then s else s.markSegRetired g) s
    else s) s

/-- A reset authorisation takes effect: the list is empty (R420). -/
def State.clearList (s : State) : State :=
  if s.dev.clearAuthorised then (s.writeList []).modDev fun d => { d with clearAuthorised := false } else s

/-- The port and the EEPROM as S1 finds them; the port trains at the width found (R418, R479, R482). -/
def State.findPort (s : State) (r : S1Facts) : State :=
  let s := s.modDev fun d =>
    { d.fitted { kind := r.medium, width := r.portWidth } r.lane0Offered with
      portWidth := r.portWidth, negotiated := r.negotiated && r.medium % 3 == 1,
      portUp := decide (r.medium % 3 ≠ 0 ∧ r.portWidth ≠ 3) }
  [76, 77, 78].foldl (fun s k => s.modDomain k fun d => { d with state := .on }) s

/-- S1 has read the operator table, or fails as it does for the field defect list (R418, R453). -/
def State.tableRead (s : State) (r : S1Facts) : State :=
  if r.tableA || r.tableB then s.stagePasses 1 (checksOf 1) else s.failReadiness 1 2 0 (failedCheck 1)

/-- S1 of a cold start. A start that fails for want of a list has its failing check counted. -/
def State.coldBoot (s : State) (r : S1Facts) : State :=
  let s := (s.findPort r).modSec fun x => x.readTable r
  let s := s.modDev fun d =>
    { d with calibration := r.calibration.getD d.calibration, calibrationDigest := sha384 (r.calibration.getD d.calibration) }
  match s.sec.bootImage with
  | none => (s.modDev fun d => { d with portUp := false }).failReadiness 1 1 0 (failedCheck 1)
  | some i =>
    let l := (s.sec.slot i).image
    let s := s.modSec fun x => { x with running := i, kept := l, bodyDigest := some (sha384 (imageBody l)), staged := 0, testImage := false }
    match s.dev.readList r, s.dev.clearAuthorised with
    | some d, _ => (s.modDev fun _ => d).clearList.applyList.tableRead r
    | none, true => s.clearList.applyList.tableRead r
    | none, false => s.failReadiness 1 2 0 (failedCheck 1)

/-- S1 of a warm start: the image kept in PD79 runs if its digest is the recorded one; S2 is skipped. -/
def State.warmBoot (s : State) : State :=
  let ok := s.sec.bodyDigest == some (sha384 (imageBody s.sec.kept)) && !s.sec.testImage
  let s := s.modSec fun x => { x with testImage := false, bodyDigest := if ok then x.bodyDigest else none }
  if !ok then (s.modDev fun d => { d with portUp := false }).failReadiness 1 1 0 (failedCheck 1)
  else
    let s := if (s.domain 76).byDoze || (s.domain 77).byDoze then s.portDown else s
    let s := ([76, 77, 78].filter fun k => (s.domain k).byDoze || k == 78).foldl State.wakeEnds s
    (s.stagePasses 1 (checksOf 1)).stageSkips 2

/-- The addresses of module flash take effect (R430). -/
def State.takeAddresses (s : State) : State := s.modFabric fun x => { x with ipv4 := x.flashIpv4, ipv6 := x.flashIpv6 }

/-- STAGE_S1_SLUICE_BOOT (R413, R418, R430, R448). -/
def execStageS1SluiceBoot (r : S1Facts) (s : State) : Out :=
  event (s.inStage 1) s
    (let s := if s.dev.warm then s else s.readRecords r
     let s := s.takeAddresses.modDev fun d => { d with eepromOk := r.eepromCrcOk }
     if s.dev.warm then s.warmBoot else s.coldBoot r)

/-- STAGE_S2_FUSE_READ (R413, R425). -/
def execStageS2FuseRead (r : S2Facts) (s : State) : Out :=
  event (s.inStage 2) s
    (if !r.readsAgree then s.failReadiness 2 3 0 (failedCheck 2)
     else
       (s.modDev fun d =>
         { d with revisions := (List.range 5).map fun i => (Config.dieRevision i).toNat,
                  fusedCores := r.badCores, fusedLanes := r.badLanes, fusedRows := r.badRows,
                  fusedLinkLanes := r.badLinkLanes, dieIds := r.dieIds, fuseDigest := sha384 r.fuseMaps }).stagePasses 2 (checksOf 2))

/-! ## S3 -/

def coreUnit (p : Nat) : UnitId := (1, p, 0)
def laneUnit (x : Nat × Nat) : UnitId := (2, x.1, x.2)

/-- Lane groups of a core that are bad (R81). -/
def State.badLanesOf (s : State) (p : Nat) : List Nat := (s.dev.badLanes.filter (·.1 == p)).map (·.2)

/-- A warm start reads the parity of every core store byte, and writes none (R80, R413). -/
def State.readStores (s : State) : State :=
  (s.damage.filter fun e => decide (2 ^ 41 ≤ e.1 ∧ e.1 < 2 ^ 50) && localPlace (e.1 % 2 ^ 32) == .store).foldl (fun s e =>
    (s.readLocal (e.1 / 2 ^ 32 % 512) (e.1 % 2 ^ 32) 1).1) s

/-- STAGE_S3_RUNNER_DIES_UP (R413, R415, R416). -/
def execStageS3RunnerDiesUp (r : S3Facts) (s : State) : Out :=
  event (s.inStage 3) s
    (match r.absentDie with
     | some d => s.failReadiness 3 4 d { tested := 1, failed := 1, first := d }
     | none =>
       let t := s.testUnits [1, 2] (256 + 256 * 17) (s.dev.fusedCores.map coreUnit ++ s.dev.fusedLanes.map laneUnit)
         (r.failedCores.map coreUnit ++ r.failedLanes.map laneUnit) fun u => u.2.1
       let cores := (t.bad.filter (·.1 == 1)).map fun u => u.2.1
       let lanes := (t.bad.filter (·.1 == 2)).map fun u => (u.2.1, u.2.2)
       let s := (s.listFresh t).modDev fun d => { d with badCores := cores, badLanes := lanes }
       let s := (List.range 68).foldl (fun s k => if s.isOn k then s else s.wakeEnds k) s
       let s := if s.dev.warm then s.readStores else s
       let spared := (List.range 256).filter fun p => !cores.contains p && !(s.badLanesOf p).isEmpty
       s.stagePasses 3 { t.tally with spares := spared.length })

/-! ## S4 (R281, R289, R292, R293) -/

/-- A link lane by its number in a direction: 0 from the A end, 1 from the B end. -/
def linkLaneUnit (x : Nat × Nat × Nat × Nat) : UnitId :=
  (laneDefect x.1 x.2.1 (x.2.2.1 == 0) 1 x.2.2.2).unit

/-- Lanes of a bundle direction among bad units. -/
def lanesAmong (l : List UnitId) (i b : Nat) (toB : Bool) : List Nat :=
  let x := laneDefect i b toB 1 0
  let here := (l.filter fun u => u.1 == x.kind && u.2.1 == x.object).map (·.2.2)
  (List.range 298).filter fun lane => here.contains (laneDefect i b toB 1 lane).index

/-- A direction on its good lanes; what it has been retrained before still counts (R286). -/
def sentLane (bad : List Nat) (old : LinkDir) : LinkDir :=
  { failed := bad, sparesUsed := min 8 (sparesFor bad), retrains := old.retrains }

/-- A bundle rebuilt from its lanes (R289). -/
def rebuilt (bad : List UnitId) (i b : Nat) (old : Bundle) : Bundle :=
  let x := lanesAmong bad i b true
  let y := lanesAmong bad i b false
  { removed := beyondSpares x || beyondSpares y, aToB := sentLane x old.aToB, bToA := sentLane y old.bToA }

/-! ## The exchange (R292) -/

/-- The payload of a die's exchange flits. -/
def exchangePayload (die revision : Nat) (x : Exchange) : BitVec 512 :=
  BitVec.ofNat 512 (die % 8 + 2 ^ 8 * (revision % 256) + 2 ^ 16 * (x.featureLevel % 65536) + 2 ^ 32 * (x.protocolLow % 256) +
    2 ^ 40 * (x.protocolHigh % 256) + 2 ^ 48 * x.featureMask.toNat)

/-- The record that a payload carries. -/
def exchangeOf (w : BitVec 512) : Exchange :=
  let n := w.toNat
  { featureLevel := bits n 31 16, protocolLow := bits n 39 32, protocolHigh := bits n 47 40, featureMask := BitVec.ofNat 64 (bits n 111 48) }

/-- What a die sends on every bundle. -/
def State.sentContent (s : State) (r : S4Facts) (die : Nat) : BitVec 512 :=
  exchangePayload die (s.dev.revisions.getD die 0) (r.records.getD die ⟨0, 0, 0, 0⟩)

/-- What arrived on a bundle direction at first, and after a retrain. -/
def State.content (s : State) (r : S4Facts) (i b : Nat) (toB : Bool) : BitVec 512 × BitVec 512 :=
  match r.odd.find? fun x => x.link == i && x.bundle == b && x.toB == toB with
  | some x => (x.first, x.again)
  | none => (s.sentContent r (senderOf i toB), s.sentContent r (senderOf i toB))

/-- The content that most of a list carry, the first of those when some are equally many (DEDUCED, assumption log 24). -/
def majority (l : List (BitVec 512)) : Option (BitVec 512) :=
  l.foldl (fun o x => if (o.map fun y => decide (l.count y < l.count x)).getD true then some x else o) none

/-- What the receiver of a link direction takes from its bundles that are not removed. -/
def State.taken (s : State) (r : S4Facts) (i : Nat) (toB : Bool) : Option (BitVec 512) :=
  majority ((s.liveBundles i).map fun b => (s.content r i b toB).1)

/-- The record of a die as its neighbours received it, over its first link with a bundle; what it sent where there is none. -/
def State.forwarded (s : State) (r : S4Facts) (die : Nat) : Exchange :=
  exchangeOf (((linkSides.filter fun x => senderOf x.1 x.2 == die).findSome? fun x => s.taken r x.1 x.2).getD (s.sentContent r die))

/-- Whether a bundle direction carries something else than its link's majority, at first or after its retrain. -/
def State.differs (s : State) (r : S4Facts) (i b : Nat) (toB again : Bool) : Bool :=
  let x := s.content r i b toB
  s.taken r i toB != some (if again then x.2 else x.1)

/-- The bundle of a direction that the exchange finds odd is retrained; whether that is its third retrain within 2^20 notches
(R286). -/
def State.exchangeRetrain (s : State) (i b : Nat) (toB : Bool) : State × Bool :=
  let third := decide (2 ≤ (s.recentRetrains i b).length)
  let d := s.linkDir i b toB
  ((s.setLinkDir i b toB { d with retrains := s.uptime :: d.retrains }).modLink i fun l =>
    { l with retrainCount := saturate16 (l.retrainCount + 1) }, third)

/-- The exchange on a link: a bundle that differs from the majority is retrained once, and removed if it still differs (R292) or
needs its third retrain. -/
def State.exchangeLink (s : State) (r : S4Facts) (i : Nat) : State :=
  let odd := (s.liveBundles i).flatMap fun b => ([true, false].filter fun toB => s.differs r i b toB false).map (b, ·)
  if odd.isEmpty then s
  else
    (odd.foldl (fun t x =>
      let (t, third) := t.exchangeRetrain i x.1 x.2
      if third ∨ (s.differs r i x.1 x.2 true : Bool) then t.modLink i fun l => l.setBundle x.1 { l.bundle x.1 with removed := true } else t)
      s).setTroubleBit (.link i) 5

def windowsApart (x y : Exchange) : Bool := decide (x.protocolHigh < y.protocolLow ∨ y.protocolHigh < x.protocolLow)

/-- The record that the dies hold of a die. -/
def State.exchange (s : State) (d : Nat) : Exchange := s.dev.records.getD d ⟨0, 0, 0, 0⟩

/-- The lowest-numbered pair of dies whose windows do not overlap (R293). -/
def State.apartPair (s : State) : Option (Nat × Nat) :=
  ((List.range 5).flatMap fun a => (List.range' (a + 1) (4 - a)).map fun b => (a, b)).find? fun p =>
    windowsApart (s.exchange p.1) (s.exchange p.2)

/-- The optional features that lie above a feature level. -/
def featuresAbove (level : Nat) : BitVec 64 :=
  BitVec.ofNat 64 (maskOf ((List.range 64).filter fun k => decide (level < Config.featureLevel k)))

/-- The package as the five records settle it (R293). -/
def Device.settle (d : Device) (records : List Exchange) : Device :=
  let all := records.foldl (fun m x => m &&& x.featureMask) (~~~ 0)
  let any := records.foldl (fun m x => m ||| x.featureMask) 0
  let level := (records.take 4).foldl (fun m x => min m x.featureLevel) 65535
  { d with records := records, level := level, protocol := records.foldl (fun m x => min m x.protocolHigh) 255,
           disabled := any &&& (~~~ all ||| featuresAbove level) }

/-- The lanes of a link tested anew, and its bundles rebuilt; its counters and trouble bits stay. -/
def State.testLink (s : State) (bad : List UnitId) (i : Nat) : State :=
  let l := s.link i
  let bundles := (List.range (bundlesOf i)).foldl (fun m b => sput {} m b (rebuilt bad i b (l.bundle b))) []
  s.setLink i { trained := true, bundles := bundles, trouble := l.trouble, replayCount := l.replayCount,
                replaySince := l.replaySince, retrainCount := l.retrainCount }

/-- What a start notes of a link once its exchange has ended. -/
def State.noteLink (s : State) (fresh : List UnitId) (i : Nat) : State :=
  let e := linkEnds i
  let s := s.modLink i fun l => { l with disjoint := windowsApart (s.exchange e.1) (s.exchange e.2) }
  let s := if fresh.any fun u => u.2.1 % 256 == i && decide (u.2.2 % 2 ^ 31 < 288) then s.setTroubleBit (.link i) 0 else s
  let s := if s.width i < bundlesOf i then s.setTroubleBit (.link i) 1 else s
  if s.width i = 0 then s.setTroubleBit (.link i) 2 else s

/-- What the lanes and the exchange of S4 make of the six links: the lane tests, the records that the dies receive and forward, and
the bundles that carried another content. -/
def State.trainLinks (s : State) (t : Tested) (r : S4Facts) : State :=
  let s := (List.range 6).foldl (fun s i => s.testLink t.bad i) (s.listFresh t)
  let s := s.modDev fun d =>
    { d.settle ((List.range 5).map (s.forwarded r)) with pairs := List.replicate 25 {}, transit := [], diverted := [] }
  (List.range 6).foldl (fun s i => (s.exchangeLink r i).noteLink t.fresh i) s

/-- The counts of S4: spare lanes in use, and the six widths. -/
def State.weltTally (s : State) (t : Tally) : Tally :=
  let spares := sumNat (s.links.flatMap fun l => l.2.bundles.map fun b => b.2.aToB.sparesUsed + b.2.bToA.sparesUsed)
  let widths := (List.range 6).map s.width
  { t with spares := spares, values := [leNat ((widths.take 4).map (BitVec.ofNat 8)), leNat ((widths.drop 4).map (BitVec.ofNat 8))] }

/-- How S4 ends: disjoint windows before a missing Welt, a missing Welt before missing Sluices. -/
def State.endWelt (s : State) (tally : Tally) : State :=
  match s.apartPair with
  | some (a, b) => s.failReadiness 4 6 (a + b * 256) { tally with first := a + b * 256 }
  | none =>
    match (List.range 4).find? fun i => s.width i == 0 with
    | some i => s.failReadiness 4 7 i { tally with first := i }
    | none =>
      if s.width 4 = 0 ∧ s.width 5 = 0 then s.failReadiness 4 8 0 { tally with first := 4 }
      else s.stagePasses 4 tally

/-- STAGE_S4_WELT_TRAINING. -/
def execStageS4WeltTraining (r : S4Facts) (s : State) : Out :=
  event (s.inStage 4) s
    (let t := s.testUnits [5, 6] (132 * 298) (s.dev.fusedLinkLanes.map linkLaneUnit) (r.failedLanes.map linkLaneUnit) fun u =>
       u.2.1 % 256
     let s := s.trainLinks t r
     s.endWelt (s.weltTally t.tally))

/-! ## S5 (R133, R421, R422) -/

/-- Working lane groups of a core. -/
def State.workingLanes (s : State) (p : Nat) : Nat := 17 - (s.badLanesOf p).length

/-- A core that can be enabled (R421). -/
def State.usableCore (s : State) (p : Nat) : Bool := !s.dev.badCores.contains p && decide (8 ≤ s.workingLanes p)

def State.usableCores (s : State) (d : Nat) : List Nat := ((List.range 64).map (64 * d + ·)).filter s.usableCore

/-- Cores per die of the shape (R421). -/
def State.coresPerDie (s : State) : Nat := (List.range 4).foldl (fun n d => min n (s.usableCores d).length) 60

/-- The cores enabled on a die, in ascending order: those with 16 or more working lane groups first (R421). -/
def State.enabledOn (s : State) (d n : Nat) : List Nat :=
  let l := s.usableCores d
  let chosen := (l.filter (16 ≤ s.workingLanes ·) ++ l.filter (s.workingLanes · < 16)).take n
  l.filter chosen.contains

/-- Whether the start keeps the map of the last one (R389, R422). -/
def State.keepsMap (s : State) : Bool := s.dev.warm && !s.dev.map.isEmpty && s.dev.map.all fun e => s.usableCore e.2

/-- The logical core map of this start: logical core and physical core (R18). -/
def State.chosenMap (s : State) : List (Nat × Nat) :=
  if s.keepsMap then s.dev.map
  else (List.range 4).flatMap fun d => (s.enabledOn d s.coresPerDie).zipIdx.map fun (p, j) => (60 * d + j, p)

/-- Units of a bank of rows (R133): a slice's 16 banks in 16 channels, or a Millpond's 16 banks in 128 channels. -/
def bankOfRow (u : UnitId) : UnitId := (u.1, u.2.1, u.2.2 % (if u.1 = 4 then 4096 else 256))

/-- Banks with more bad rows than spares. -/
def fullBanks (l : List UnitId) : List UnitId :=
  (l.map bankOfRow).eraseDups.filter fun b => decide (8 < (l.filter fun u => bankOfRow u == b).length)

/-- A warm start reads every granule of Bedstone once, correcting where it can (R413, R129, R133). -/
def State.readBedstone (s : State) : State :=
  (s.damage.filter fun e => decide (2 ^ 40 ≤ e.1 ∧ e.1 < 2 ^ 50)).foldl (fun s e =>
    if e.1 < 2 ^ 41 then (s.readGranules (scratchDie e.1) e.1 16).1
    else
      let p := e.1 / 2 ^ 32 % 512
      let x := e.1 % 2 ^ 32
      if localPlace x = .store then s else (s.readLocal p x 16).1) s

/-- Cores of the near pool that S5 finds without a working row bank are retired. -/
def State.loseRowCores (s : State) (lost : List Nat) : State :=
  let s := lost.foldl (fun s p => s.addDefect { kind := 1, source := 1, object := p, index := 0 }) s
  let s := if lost.isEmpty then s else s.setTroubleBit .start 1
  s.modDev fun d => { d with badCores := d.badCores ++ lost }

/-- The lane groups of core `p` as this start retires them (R81, R94). -/
def State.retireLanes (s : State) (p : Nat) : State :=
  let s := s.modCore p fun x => { x with retiredLanes := maskOf (s.badLanesOf p) }
  if (s.badLanesOf p).isEmpty then s else s.setTroubleBit (.core p) 4

/-- The number of cores and of lane groups that the device has from S5 on. -/
def State.shapeCores (s : State) : State :=
  let n := if s.keepsMap then s.dev.cores else s.coresPerDie
  let g := s.chosenMap.foldl (fun m e => min m (s.workingLanes e.2)) 16
  let s := s.modDev fun d => { d with cores := n, lanes := g }
  (List.range 256).foldl State.retireLanes s

/-- The counts of S5, with the cores that their rows have lost. -/
def State.rowTally (s : State) (rows : Tested) (lost : List Nat) : Tally :=
  let t := rows.tally
  let full := fullBanks rows.bad
  { t with failed := t.failed + lost.length, fresh := t.fresh + lost.length,
           spares := (rows.bad.filter fun u => !full.contains (bankOfRow u)).length,
           first := if t.first = 0xFFFFFFFF then lost.head?.getD t.first else t.first,
           values := [s.dev.cores + s.dev.lanes * 256] }

/-- How S5 ends: a far bank without a working row, then too small a shape. -/
def State.endRows (s : State) (full : List UnitId) (tally : Tally) : State :=
  match full.find? (·.1 == 4) with
  | some u => s.failReadiness 5 9 u.2.1 { tally with first := u.2.1 }
  | none => if s.dev.cores < 32 ∨ s.dev.lanes < 8 then s.failReadiness 5 5 0 tally else s.stagePasses 5 tally

/-- STAGE_S5_BEDSTONE_TEST. -/
def execStageS5BedstoneTest (r : S5Facts) (s : State) : Out :=
  event (s.inStage 5) s
    (let rows := s.testUnits [3, 4] (2 ^ 23) s.dev.fusedRows r.badRows fun u => u.2.1
     let full := fullBanks rows.bad
     let lost := (((full.filter (·.1 == 3)).map fun u => u.2.1).eraseDups).filter fun p => !s.dev.badCores.contains p
     let s := (s.listFresh rows).loseRowCores lost
     let s := (if s.dev.warm then s.readBedstone else s).shapeCores
     s.endRows full (s.rowTally rows lost))

/-! ## S6 and S7 (R159, R181, R183) -/

def stackLaneUnit (k lane : Nat) : UnitId := (7, k, lane)

/-- A stack after its training. -/
def State.trainStack (s : State) (k : Nat) (f : S6Stack) : State :=
  let s := s.modStack k fun t =>
    { t with trained := f.trained, failed := !f.trained, selfRefresh := false, lanesRepaired := f.lanesRepaired,
             unrepaired := f.unrepaired, lastAccess := s.uptime }
  let s := s.modDomain (68 + k) fun d => { d with state := .on }
  let fresh := (f.unreadableSegments.map (128 * k + ·)).filter fun g => !s.segRetired g
  let s := if fresh.isEmpty then s else s.setTroubleBit .start 1
  fresh.foldl (fun s g => s.retireSegment g 1) s

/-- STAGE_S6_MEMORY_TRAINING. -/
def execStageS6MemoryTraining (r : S6Facts) (s : State) : Out :=
  event (s.inStage 6) s
    (let t := s.testUnits [7] (8 * Config.stackLanes) []
       (r.perStack.zipIdx.flatMap fun (f, k) => f.badLanes.map (stackLaneUnit k)) fun u => u.2.1
     let s := s.listFresh t
     let s := r.perStack.zipIdx.foldl (fun s (f, k) => s.trainStack k f) s
     let found := r.perStack.map fun f => padTo 12 f.identifier ++ leBytes 2 f.capacity ++ leBytes 1 (bnat f.quern) ++ zeros 1
     let s := s.modDev fun d => { d with stackIds := found }
     let bytes := r.perStack.map fun f => BitVec.ofNat 8 f.lanesRepaired
     let tally := { t.tally with spares := sumNat (r.perStack.map (·.lanesRepaired)), values := [leNat (bytes.take 4), leNat (bytes.drop 4)] }
     match [1, 7].find? fun k => !(s.stack k).trained with
     | some k => s.failReadiness 6 10 0 { tally with first := k }
     | none => s.stagePasses 6 tally)

/-- A stack's checker self-test; a stack that failed training does not run step 7. -/
def State.checkStack (s : State) (k : Nat) (x : Nat × Nat) : State :=
  let skip := !(s.stack k).trained
  let step := if skip ∧ x.1 = 7 then 0 else x.1
  let s := s.modStack k fun t =>
    { t with testDone := true, testFailed := step ≠ 0, testStep := step, testCode := if step = 0 then 0 else x.2, rowSkipped := skip,
             failed := t.failed || decide (step ≠ 0) }
  if step = 0 then s else s.setTroubleBit (.stack k) 8

/-- STAGE_S7_CHECKER_TEST. -/
def execStageS7CheckerTest (r : S7Facts) (s : State) : Out :=
  event (s.inStage 7) s
    (let s := r.steps.zipIdx.foldl (fun s (x, k) => s.checkStack k x) s
     let bad := (List.range 8).filter fun k => (s.stack k).testFailed
     let steps := sumNat ((List.range 8).map fun k => (s.stack k).testStep * 16 ^ k)
     let tally := { checksOf 7 with failed := bad.length, first := bad.head?.getD 0xFFFFFFFF, values := [steps] }
     if bad.any fun k => k == 1 || k == 7 then s.failReadiness 7 10 0 tally else s.stagePasses 7 tally)

/-! ## S8 (R424) -/

/-- What the device found for each field of the Last, by its offset (R423, R424): part number and serial number of the EEPROM, then
of each die, RD0 to RD3 and the Sluice die, identifier, revision, feature level and protocol window, then of each stack identifier,
capacity and Quern flag, then the two digests. The offset of a part of a die's or a stack's entry is that part's own (DESIGN CHOICE,
assumption log 54). -/
def State.found (s : State) : List (Nat × List Byte) :=
  let d := s.dev
  [(0x008, s.fromEeprom partNumber), (0x018, s.fromEeprom d.serial)] ++
  (List.range 5).flatMap (fun i =>
    let o := 0x028 + 16 * i
    let x := s.exchange i
    [(o, padTo 8 (d.dieIds.getD i [])), (o + 8, leBytes 1 (d.revisions.getD i 0)), (o + 9, leBytes 2 x.featureLevel),
     (o + 11, leBytes 1 x.protocolLow), (o + 12, leBytes 1 x.protocolHigh)]) ++
  (List.range 8).flatMap (fun k =>
    let o := 0x078 + 16 * k
    let x := d.stackIds.getD k []
    [(o, slice x 0 12), (o + 12, slice x 12 2), (o + 14, slice x 14 1)]) ++
  [(0x0F8, d.fuseDigest), (0x128, d.calibrationDigest)]

/-- The offset of the first field in which the package differs from a Last. -/
def State.lastDiffers (s : State) (last : List Byte) : Option Nat :=
  (s.found.find? fun x => slice last x.1 x.2.length != x.2).map (·.1)

/-- The Last as S8 of a cold start reads it. -/
def Security.readLast (x : Security) (r : S8Facts) : List Byte :=
  r.misread.foldl (fun l e => l.set e.1 e.2) x.last

/-- STAGE_S8_LAST_CHECK: a warm start compares with the Last verified at the last cold start. -/
def execStageS8LastCheck (r : S8Facts) (s : State) : Out :=
  event (s.inStage 8) s
    (let l := if s.dev.warm then s.sec.verifiedLast else s.sec.readLast r
     if !s.dev.warm ∧ !s.sec.factorySigned (slice l 0 0x160) (slice l 0x160 96) then s.failReadiness 8 11 0 (failedCheck 8)
     else
       match s.lastDiffers l with
       | some o => s.failReadiness 8 12 o (failedCheck 8)
       | none => (s.modSec fun x => { x with verifiedLast := l }).stagePasses 8 (checksOf 8))

end Sys2Proof.Machine
end

