-- ==== Sys2Proof/Machine/Starts.lean ====
section
/-! DEFINITION. Cold and warm starts (R384, R386 to R389, R413, R414): what each keeps, the quiesce, S9, RESET_IN#, and the end of
the hold in FAULTED. -/

namespace Sys2Proof.Machine

/-! ## What a loss of power keeps (R384) -/

/-- What module flash, fuses and pins keep; the rest is as after a cold start. The model's own queue, clock and traces go on. -/
def State.flash (s : State) : State :=
  { pending := s.pending, uptime := s.uptime, free := s.free, out := s.out, wire := s.wire, i2c := s.i2c, monitor := s.monitor,
    pins := { pwrEn := s.pins.pwrEn, precharging := s.pins.precharging, closed := s.pins.closed, offAt := s.pins.offAt,
              inputLow := s.pins.inputLow, aux := s.pins.aux, i2cAck := s.pins.i2cAck }
    dev := { coldStarts := s.dev.coldStarts, warmStarts := s.dev.warmStarts, defects := s.dev.defects,
             listA := s.dev.listA, listB := s.dev.listB, serial := s.dev.serial, calibration := s.dev.calibration,
             listSequence := s.dev.listSequence, clearAuthorised := s.dev.clearAuthorised, testMode := s.dev.testMode }
    power := { latchCause := s.power.latchCause, latchSpot := s.power.latchSpot }
    fabric := { flashIpv4 := s.fabric.flashIpv4, flashIpv6 := s.fabric.flashIpv6, member := s.fabric.member, id := s.fabric.id,
                preferred := s.fabric.preferred, vlan := s.fabric.vlan, key := s.fabric.key }
    sec := { slotA := s.sec.slotA, slotB := s.sec.slotB, rollback := s.sec.rollback, operators := s.sec.operators,
             operatorSequence := s.sec.operatorSequence, tableA := s.sec.tableA, tableB := s.sec.tableB, hellos := s.sec.hellos,
             firmwareKeyDigest := s.sec.firmwareKeyDigest, factoryKeyDigest := s.sec.factoryKeyDigest,
             factoryKey := s.sec.factoryKey, last := s.sec.last, certificate := s.sec.certificate, dik := s.sec.dik,
             storageKey := s.sec.storageKey } }

/-- A cold start begins at S0 (R413). -/
def State.coldStart (s : State) : State :=
  s.flash.modDev fun d => { d with coldStarts := d.coldStarts + 1, startedAt := s.uptime, stageAt := s.uptime }

/-- A cold start begins again at S1: the same start, with its wheel (R414). -/
def State.coldAgain (s : State) : State :=
  { s.flash with wheel := s.wheel }.modDev fun d =>
    { d with stage := 1, startedAt := s.dev.startedAt, stageAt := s.uptime, reports := s.dev.reports.filter fun e => decide (e.1 < 16) }

/-! ## A warm start begins (R387, R388, R413, R499) -/

/-- The suspect whose replay was in progress waits again, ahead of the others (R499). -/
def State.backToSuspects (s : State) : State :=
  match s.dev.replaying with
  | none => s
  | some c =>
    (s.modContext c fun x => { x with state := .quarantined }).modDev fun d =>
      { d with replaying := none, suspects := c :: d.suspects }

/-- Only planted memory errors outlast a warm start; frames held back still pass when their time comes (R461, R465). -/
def Injection.disarm (j : Injection) : Injection := { j with armed := false }

/-- Row and page error counts begin again. -/
def State.forgetErrors (s : State) : State :=
  { s with rowErrors := [], pages := smap {} (fun _ p => { p with errors := 0 }) s.pages,
           injections := s.injections.map Injection.disarm }

/-- SelfTestFail of every stack is set anew at S7 (R184, R493). -/
def State.forgetSelfTests (s : State) : State :=
  (List.range 8).foldl (fun s k => s.modStack k fun t => { t with trouble := t.trouble &&& ~~~256#32 }) s

/-- A warm start begins with its quiesce. Injections are disarmed (R461); errors count from now (R133, R180). -/
def State.warmStart (s : State) (cause : Nat) : State :=
  let s := s.backToSuspects.giveUpAll
  let s := s.modDev fun d =>
    { d with state := .staging, warm := true, quiescing := true, stage := 0, outcome := 0, readiness := 0, readinessStage := 0,
             readinessDetail := 0, startTrouble := d.startTrouble &&& 4, reports := [], warmStarts := d.warmStarts + 1,
             warmAt := s.uptime :: d.warmAt.filter fun t => decide (s.uptime < 2 ^ 24 + t), startCause := cause,
             suspectsAtWarm := d.suspectsAtWarm && (cause == 5 || cause == 6), startedAt := s.uptime, stageAt := s.uptime,
             groupResets := [], dieResets := [], affected := [] }
  s.forgetErrors.forgetSelfTests.setTroubleBit .device 5

/-- A warm start would be the third within 2^24 notches (R388). -/
def State.thirdWarm (s : State) : Bool := decide (2 ≤ (s.dev.warmAt.filter fun t => decide (s.uptime < 2 ^ 24 + t)).length)

/-- FAULT_HOLD_EXPIRY (R387, R388). -/
def execFaultHoldExpiry (s : State) : Out :=
  let d := s.dev
  event (d.state == .faulted && d.autoWarm && d.mayWarm && decide (d.faultedAt + 1024 * d.faultHold ≤ s.uptime)) s
    (if s.thirdWarm then s.modDev fun d => { d with mayWarm := false } else s.warmStart d.recoveryCause)

/-- RESET_IN_RELEASE (R386, R414, R474): pulses of 1 ms (1,049 notches) and more count, 100 ms (104,858) make a cold start. -/
def execResetInRelease (low : Nat) (s : State) : Out :=
  let d := s.dev
  let cold := d.state == .staging && !d.warm
  event (s.pins.pwrEn && decide (1049 ≤ low) && d.state != .off && d.state != .latched) s
    (if cold then (if d.stage = 0 then s else s.coldAgain)
     else if 104858 ≤ low then s.coldStart
     else s.warmStart 1)

/-! ## The quiesce (R413) -/

/-- The bytes of a line that the device lost: any (R157). -/
def State.loseBytes (s : State) (a n : Nat) : State :=
  let l := (List.range n).map fun i => (Config.freeWord (s.free + i)).setWidth 8
  { s.writeKey a l with free := s.free + n }

/-- A die's cache part is written back and emptied; a dirty line whose stack cannot be reached is lost, its page retired and listed
in the report of the warm start (R157; R429 gives the list no word: assumption log 41). -/
def State.emptyCache (s : State) (unreachable : List Nat) (d : Nat) : State :=
  let lost := (s.pond d).lines.filter fun l => l.dirty && unreachable.contains (stackOf (l.line * 256))
  let s := s.modPond d fun t => { t with lines := t.lines.filter fun l => !lost.contains l }
  let s := lost.foldl (fun s l => (s.loseBytes (l.line * 256) 256).retirePending (l.line / 256) 2) s
  let s := s.modDev fun x => { x with lostPages := (x.lostPages ++ lost.map (CacheLine.line · / 256)).eraseDups }
  let s := if lost.isEmpty then s else s.setTroubleBit (.millpond d) 4
  s.dropLines d fun _ => true

/-- Every pseudo-channel returns to PLAIN; the windows are in the journal, to be entered again at S9 (R192). -/
def State.plainAll (s : State) : State :=
  let busy := s.memStacks.flatMap fun e => (e.2.pcs.filter fun x => x.2.mode != .plain || x.2.entering).map fun x => (e.1, x.1, x.2)
  let windows := (busy.filter fun e => e.2.2.mode != .sealing).map fun (k, p, x) => (k, p, x.context, x.firstSeg, x.segCount)
  let s := busy.foldl (fun s (k, p, x) =>
    let s := s.modPseudo k p fun y => { guardTrip := y.guardTrip, queueFull := y.queueFull, completed := y.completed, lastTag := y.lastTag,
                                        guardRow := y.guardRow, guardTag := y.guardTag }
    if x.mode = .sealing then (s.modeReached k p).endClosings else s) s
  s.modJournal fun j => { j with windows := j.windows ++ windows }

/-- A MEM.SPLIT in progress ends (R156). -/
def State.endSplit (s : State) : State :=
  (List.range 4).foldl (fun s d => match (s.pond d).resplit with
    | some n => (s.resplit d n).splitDone d
    | none => s) s

/-- Links carry nothing on through a warm start. -/
def Link.quiet (l : Link) : Link := { l with storeA := [], storeB := [], detour := false, trained := false }

def Hopper.quiet (h : Hopper) : Hopper :=
  { trouble := h.trouble, rowsDone := h.rowsDone, flaggedRows := h.flaggedRows, faultAddress := h.faultAddress, faultKind := h.faultKind,
    off := h.off }

/-- Cores, hoppers and links as the quiet device leaves them. -/
def State.restUnits (s : State) : State :=
  { s with
    cores := smap {} (fun _ x => { x.rebooted with state := .disabled }) s.cores
    hoppers := smap {} (fun _ h => h.quiet) s.hoppers
    links := smap {} (fun _ l => l.quiet) s.links }

/-- The stacks keep their contents by self-refresh; a sweep under way is cut short. -/
def State.restStacks (s : State) : State :=
  (List.range 8).foldl (fun s k => s.modStack k fun t => { t with selfRefresh := true, trained := false }) s.interruptSweeps

/-- QUIESCE: the end of the notch in which a warm start begins. -/
def execQuiesce (unreachable : List Nat) (s : State) : Out :=
  event (s.dev.state == .staging && s.dev.quiescing) s
    (let s := ((List.range 4).foldl (State.emptyCache · unreachable)
      (s.modDev fun d => { d with lostPages := [] })).plainAll.endSplit.restUnits.restStacks
     (s.releaseUnmaps.modDev fun d => { d with quiescing := false, stageAt := s.uptime }).stageSkips 0)

/-! ## S9: the core map (R18, R389) -/

/-- Logical cores whose physical core differs in a new map: logical, new physical. -/
def State.moved (s : State) (map : List (Nat × Nat)) : List (Nat × Nat) := map.filter fun e => s.physical e.1 != e.2 && s.logicalExists e.1

/-- The contexts whose quarters include a logical core that moved lose their core-local data there (R389). -/
def State.loseMoved (s : State) (moved : List (Nat × Nat)) : State :=
  s.contexts.foldl (fun s e =>
    let g := e.2.grant
    let mine := moved.filter fun x => bit g.quarters (x.1 / 15)
    if mine.isEmpty then s
    else
      let s := mine.foldl (fun s x =>
        (s.clearKey (localKey x.2 g.storeBase) g.storeLength).clearKey (localKey x.2 g.sliceBase) g.sliceLength) s
      (s.uncompleted e.1).foldl (fun s n => s.endReset e.1 3 n) s) s

/-- Fixes the map, and each core's state and lane groups (R18, R421, R496); a core that takes a moved number has its program area
rebuilt (R95, R389). -/
def State.fixMap (s : State) : State :=
  let map := s.chosenMap
  let s := if s.dev.warm then s.loseMoved (s.moved map) else s
  let moved := if s.dev.warm then (s.moved map).map (·.1) else []
  let s := s.modDev fun d => { d with map := map.foldl (fun m e => sput 256 m e.1 e.2) [] }
  let s := moved.foldl State.rebuildPrograms s
  (List.range 256).foldl (fun s p =>
    match map.find? fun e => e.2 == p with
    | some e => s.modCore p fun x => { x with state := .idle, halted := false, logical := e.1, lanes := s.dev.lanes }
    | none => s.modCore p fun x => { x with state := .disabled, halted := false, logical := 0xFF, lanes := s.dev.lanes }) s

/-! ## S9: the journal (R313, R315) -/

/-- A segment goes to the journal (R312): STRONG, with nothing of a context's in it. No grant holds it any longer, the pages mapped
there are mapped no longer, and its contents and their errors are gone (log 44). -/
def State.takeSegment (s : State) (g : Nat) : State :=
  let s := s.contexts.foldl (fun s e => s.modContext e.1 fun x =>
    { x with grant := { x.grant with runs := x.grant.runs.flatMap (runsWithout g) } }) s
  let s := (s.pages.filter fun e => e.1 / 16384 == g && e.2.mapped).foldl (fun s e => s.unmapPage e.1) s
  let s := (s.clearKey (2 ^ 30 * g) (2 ^ 30)).setSegCode g 2
  (s.damage.filter fun e => decide (2 ^ 30 * g ≤ e.1 ∧ e.1 < 2 ^ 30 * (g + 1))).foldl (fun s e => s.clearDamage e.1) s

/-- Retired journal segments are replaced by the highest fit ones of their stacks (R313). -/
def State.replaceJournal (s : State) : State :=
  s.journal.segments.foldl (fun s g =>
    if s.segRetired g then
      let fit := ((List.range 120).map (g / 128 * 128 + ·)).filter fun h => !s.segRetired h && !s.journal.segments.contains h
      match fit.getLast? with
      | some h => (s.takeSegment h).modJournal fun j => { j with segments := j.segments.map fun x => if x = g then h else x }
      | none => s
    else s) s

/-- The journal keeper meets a damaged block of a copy: an uncorrectable read of the stack (R168). -/
def State.copyUnreadable (s : State) (b : Nat) : State :=
  let m := s.damageAt b
  (s.stackUncorrectable b 1 (if m.lost then m else { kind := .uncorrectable })).modJournal fun j =>
    { j with lostBlocks := b :: j.lostBlocks }

/-- Journal records that cannot be read (R168, R315, R396). -/
def State.readJournal (s : State) (r : S9Facts) : State :=
  r.unreadable.foldl (fun s (c, csn, b, other) =>
    let s := (b :: other.toList).foldl State.copyUnreadable s
    let s := s.writeLog { kind := 12, context := if c < 64 then c else 0xFF, csn := csn, address := segmentOf b,
                          valueA := if other.isSome then 2 else 1 }
    if other.isSome then (s.setTroubleBit .device 1).loseRecord c csn else s.setTroubleBit .device 0) s

/-! ## S9: windows and commands of a warm start (R192, R387, R388, R402 to R405, R410) -/

/-- Enters the windows of the journal again; one that fails a check stays PLAIN. -/
def State.enterWindows (s : State) : State :=
  let l := s.journal.windows
  l.foldl (fun s (k, p, c, first, n) =>
    if (firstFailing (computeChecks c k first n [p] s)).isSome then s
    else ((s.prepareCompute c k first n p).modPseudo k p fun x => { x with mode := .compute, entering := false }).modeReached k p)
    (s.modJournal fun j => { j with windows := [] })

/-- Context resets that were taken in FAULTED or were draining take effect (R387, R400). -/
def State.applyResets (s : State) : State :=
  (List.range 64).foldl (fun s c =>
    let x := s.context c
    match x.reset, x.pendingReset with
    | some r, _ => s.endReset' c r
    | none, some mode =>
      let quarantined := s.ctxState c = .quarantined
      let s := if quarantined then s.leaveReplay c else s
      let s := s.modContext c fun y => { y with pendingReset := none }
      s.endReset' c { mode := mode, quarantined := quarantined, since := s.uptime, session := 0, number := 0, replied := true }
    | none, none => s) s

/-- A start under code 5 or 6 makes suspects of the contexts with started work on the die (R388, R405). -/
def State.warmSuspects (s : State) : State :=
  let l := if s.dev.suspectsAtWarm && s.dev.replay then s.stoppedContexts s.dev.recoveryObject else []
  let s := l.zipIdx.foldl (fun s (c, i) => s.quarantine c l.length (i + 1)) s
  (s.modDev fun d => { d with suspectsAtWarm := false })

/-- Commands restart from the journal, contexts in ascending number, under a new generation (R325, R402, R409). -/
def State.restartContexts (s : State) : State :=
  (List.range 64).foldl (fun s c =>
    let s := if (s.uncompleted c).isEmpty then s else s.advanceGeneration c 5
    let s := s.modContext c fun x => { x with draining := false, restartDue := false }
    if (s.context c).state = .quarantined then s
    else
      let s := s.modStream c fun t => { t with cmds := t.cmds.map fun m => { m with startedBefore := false, stoppedBy := [] } }
      s.restartAll c) s

/-! ## S9 -/

/-- The conditions of R426. -/
def State.reduced (s : State) : Bool :=
  decide (s.dev.cores < 60 ∨ s.dev.lanes < 16) || (List.range 4).any (fun i => decide (s.width i < 16)) ||
  s.width 4 == 0 || s.width 5 == 0 || s.memStacks.any fun e => e.2.failed

/-- S9 ends the start: outcome, state, records (R396, R411, R426, R428). -/
def State.endStart (s : State) : State :=
  let s := s.stagePasses 9 (checksOf 9)
  let low := s.reduced
  let s := s.modDev fun d => { d with outcome := if low then 2 else 1, readiness := 0, readinessStage := 9, readinessDetail := 0,
                                      state := if low then .degraded else .ready, wakeTo := if low then .degraded else .ready }
  let s := if low then s.setTroubleBit .start 3 else s
  s.recovered (if s.dev.warm then 3 else 4) s.dev.startCause 0 (0, 0) (s.uptime - s.dev.startedAt)

/-- What only a cold start does: the rollback counter rises to the running image's version (R449). -/
def State.coldReady (s : State) : State :=
  s.endStart.modSec fun x => { x with rollback := max x.rollback x.runningSecurity }

/-- What only a warm start does. -/
def State.warmReady (s : State) (r : S9Facts) : State :=
  let s := ((s.enterWindows.readJournal r).applyResets).warmSuspects
  let s := s.endStart.restartContexts
  let s := s.recodes.foldl (fun s (c, m) => s.sweepNext c m.csn) s
  (s.modJournal fun j => { j with waitingSince := s.uptime }).replayStep

/-- Every domain is on again, and none wakes. -/
def State.ungate (s : State) : State :=
  s.modPower fun p => { p with waking := false, domains := smap {} (fun _ d => { d with byDoze := false, gated := false }) p.domains }

/-- STAGE_S9_READY (R18, R359, R402, R413, R426, R432). -/
def execStageS9Ready (r : S9Facts) (s : State) : Out :=
  event (s.inStage 9) s
    (let s := s.fixMap.replaceJournal.ungate.followClaims
     let s := if s.fabric.member then (s.modFabric fun x => { x with lastBeacon := none }).claim else s
     if s.dev.warm then s.warmReady r else s.coldReady)

end Sys2Proof.Machine
end

