-- ==== Sys2Proof/Machine/Pins.lean ====
section
/-! DEFINITION. The platform's pins (R379, R380, R470 to R480, R489): the input and its switch, PWR_EN, the I²C targets, the test
connector's firmware load. -/

namespace Sys2Proof.Machine

/-! ## Power (R472 to R474) -/

/-- PD79 loses power: the device is OFF (R380). -/
def State.powerOff (s : State) : State :=
  let s := s.flash.modDev fun d => { d with state := .off }
  { s with pins := { s.pins with closed := false, precharging := false, offAt := s.uptime } }

/-- 100 ms have passed since PD79 last lost power (R473). -/
def State.offLongEnough (s : State) : Bool := decide (104858 + s.pins.offAt ≤ s.uptime)

/-- PWR_EN_ASSERT (R473, R489): TEST_MODE# is sampled, and pre-charge begins if its conditions hold. -/
def execPwrEnAssert (p : Asserted) (s : State) : Out :=
  event (!s.pins.pwrEn) s
    (let s := s.modDev fun d => { d with testMode := p.testMode }
     { s with pins := { s.pins with pwrEn := true, precharging := !s.pins.closed && p.inRange && s.offLongEnough,
                                    inputLow := s.pins.inputLow && !p.inRange } })

/-- PRECHARGE_START (R473): the input is at or above 40 V, and the other two conditions hold. -/
def execPrechargeStart (s : State) : Out :=
  event (s.pins.pwrEn && !s.pins.closed && s.offLongEnough) s
    { s with pins := { s.pins with precharging := true, inputLow := false } }

/-- PRECHARGE_DONE (R413, R473): the switch closes and a cold start begins. -/
def execPrechargeDone (s : State) : Out :=
  event (s.pins.precharging && !s.pins.closed && !s.pins.inputLow) s
    ({ s with pins := { s.pins with precharging := false, closed := true } }.coldStart)

/-- PWR_EN_DEASSERT (R474): the switch opens and every rail goes, with nothing written back. -/
def execPwrEnDeassert (s : State) : Out :=
  event s.pins.pwrEn s
    (let s := if s.pins.closed then s.powerOff else s
     { s with pins := { s.pins with pwrEn := false, precharging := false } })

/-- POWER_LOSS (R380, R473): the input falls below 36 V; during pre-charge the controller stops. -/
def execPowerLoss (s : State) : Out :=
  let s := if s.pins.closed then s.powerOff else s
  .next { s with pins := { s.pins with precharging := false, inputLow := true } }

/-- BREAKER_OPEN (R472). -/
def execBreakerOpen (s : State) : Out := event s.pins.closed s s.powerOff

/-- PRSNT# is tied to ground on the module (R471). -/
def Pins.prsnt (_ : Pins) : Bool := false

/-- ALERT# (R380): released while PD79 is without power (R477). -/
def State.alertPin (s : State) : Bool :=
  s.dev.state != .off && (s.power.trouble != 0 || s.dev.state == .faulted || s.dev.state == .latched)

/-! ## The test connector (R450, R489) -/

/-- TEST_FIRMWARE_LOAD: an image loaded into Sluice SRAM after FIRMWARE, given as its header fields, signing key, signature and
body, runs if it is valid under R448. -/
def execTestFirmwareLoad (fields key signature body : List Byte) (s : State) : Out :=
  let l := padTo 64 fields ++ padTo 160 key ++ padTo 96 signature ++ body
  event (s.dev.state == .faulted && s.dev.readiness == 1 && !s.dev.testMode && s.sec.imageFault l == 0) s
    ((s.modSec fun x => { x with testImage := true, kept := l, bodyDigest := some (sha384 (imageBody l)) }).modDev
      fun d => { d with portUp := decide (d.medium ≠ 0 ∧ d.portWidth ≠ 3) })

/-! ## The I²C targets (R478 to R480) -/

/-- The identity EEPROM: bytes 0 to 251, and their CRC-32C. -/
def State.eepromBytes (s : State) : List Byte :=
  let l := leBytes 1 1 ++ zeros 3 ++ partNumber ++ s.dev.serial ++ macBytes ++ zeros 2 ++ (List.range 5).map Config.dieRevision ++
    zeros 3 ++ (List.range 4).map Config.manufactureDate ++ zeros 196
  l ++ leBytes 4 (crc32c l).toNat

/-- Bytes of a table from an offset; the manual gives none beyond the table's end. -/
def State.tableBytes (s : State) (l : List Byte) (offset length : Nat) : List Byte :=
  (List.range length).map fun i => (l[offset + i]?).getD ((Config.freeWord (s.free + i)).setWidth 8)

/-- Whether a target at an address answers a transfer (R478): it needs P3V3_AUX, and refuses writes with a NACK. -/
def targetReads (x : I2cAccess) (address : Nat) : Bool := x.aux && x.address == address && !x.write

/-- The pair after a transfer: P3V3_AUX as it found it, and whether it was acknowledged. -/
def State.transferred (s : State) (x : I2cAccess) (address : Nat) : State :=
  { s with pins := { s.pins with aux := x.aux, i2cAck := targetReads x address } }

/-- I2C_EEPROM_READ: the identity EEPROM answers at 0x50. -/
def execI2cEepromRead (x : I2cAccess) (length : Nat) (s : State) : Out :=
  let t := s.transferred x 0x50
  .next (if targetReads x 0x50 then { t with i2c := s.tableBytes s.eepromBytes x.offset length, free := s.free + length } else t)

/-- The coolant monitor's 16 bytes, from the last housekeeping round. Whether this round has sampled is said as it is read. -/
def State.monitorBytes (s : State) : List Byte :=
  if s.dev.state = .off then zeros 16
  else
    let l := padTo 16 s.power.monitored
    l.set 1 (byteAt l 1 ||| bnat (s.power.lastRound == some (s.now / 1024)))

/-- COOLANT_MONITOR_READ: the coolant monitor answers at 0x4C. -/
def execCoolantMonitorRead (x : I2cAccess) (length : Nat) (s : State) : Out :=
  let t := s.transferred x 0x4C
  .next (if targetReads x 0x4C then { t with monitor := s.tableBytes s.monitorBytes x.offset length, free := s.free + length } else t)

end Sys2Proof.Machine
end

