-- ==== Sys2Proof/Machine/HostBody.lean ====
section
/-! DEFINITION. What each opcode of the catalogue does with a frame that R309 has let as far as step 7. -/

namespace Sys2Proof.Machine

/-- The commands of the groups 0x01 to 0x05. -/
def bodyLow (op : Nat) (f : Frame) (c sid : Nat) (s : State) : Handled :=
  match op with
  | 0x0101 => bodyHello s
  | 0x0102 => bodyOpen f s
  | 0x0103 => bodyClose sid s
  | 0x0201 => bodyPlanLoad f c s
  | 0x0202 => bodyPlanUnload f c s
  | 0x0301 => bodyRunStep f c s
  | 0x0302 => bodyRunBook f s
  | 0x0303 => bodyRunUnbook f s
  | 0x0401 => bodySeqArea f c s
  | 0x0402 => bodySeqOpen f c s
  | 0x0403 => bodySeqExtend f c s
  | 0x0404 => bodySeqTrim f c s
  | 0x0405 => bodySeqClose f c s
  | 0x0501 => bodyCtxOpen f s
  | 0x0502 => bodyCtxClose f c s
  | 0x0503 => bodyCtxReset f s
  | 0x0504 => bodyCtxSave f c s
  | _ => bodyCtxRestore f c s

/-- The commands of the groups 0x06 to 0x0D. -/
def bodyMiddle (op : Nat) (f : Frame) (c : Nat) (x : Session) (s : State) : Handled :=
  match op with
  | 0x0601 => bodyMemRead f x s
  | 0x0602 => bodyMemWrite f x s
  | 0x0603 => bodyMemSplit f s
  | 0x0701 => bodyPageMap f c s
  | 0x0702 => bodyPageUnmap f c s
  | 0x0703 => bodyPageRetire f s
  | 0x0801 => bodySegRecode f c s
  | 0x0802 => bodySegRetire f s
  | 0x0901 => bodyQuernMode f c s
  | 0x0A01 => bodyRegRead f x s
  | 0x0A02 => bodyRegWrite f s
  | 0x0B01 => bodyLogRead f x s
  | 0x0C01 => bodyStatusDevice f s
  | 0x0C02 => bodyStatusContext f s
  | 0x0D01 => bodyTimeSet f s
  | _ => bodyTimeSource f s

/-- The commands of the groups 0x0E and 0x0F. -/
def bodyFabric (op : Nat) (f : Frame) (c : Nat) (x : Session) (s : State) : Handled :=
  match op with
  | 0x0E01 => bodyFabricAddress f s
  | 0x0E02 => bodyFabricJoin f s
  | 0x0E03 => bodyFabricLeave s
  | 0x0E04 => bodyFabricStatus f x s
  | 0x0E05 => bodyFabricCopy f c s
  | 0x0E06 => bodyFabricMigrate f c s
  | 0x0F01 => bodyCascadeForm f s
  | 0x0F02 => bodyCascadeFollow f s
  | 0x0F03 => bodyCascadeLeave s
  | _ => bodyCascadeRun f s

/-- The commands of the groups 0x10 to 0x13. -/
def bodyHigh (op : Nat) (f : Frame) (s : State) : Handled :=
  match op with
  | 0x1001 => bodyFwStatus s
  | 0x1002 => bodyFwWrite f s
  | 0x1003 => bodyFwActivate s
  | 0x1004 => bodyFwAuthorise f s
  | 0x1005 => bodyFwEnroll f s
  | 0x1006 => bodyFwRemove f s
  | 0x1007 => bodyFwMacsec f s
  | 0x1101 => bodyAttestIdentity s
  | 0x1102 => bodyAttestReport f s
  | 0x1201 => bodyInjectLink f s
  | 0x1202 => bodyInjectPort f s
  | 0x1203 => bodyInjectEcc f s
  | 0x1204 => bodyInjectClear f s
  | 0x1205 => bodyInjectStatus s
  | 0x1301 => bodyPowerDomain f s
  | 0x1302 => bodyPowerPolicy f s
  | 0x1303 => bodyPowerDoze f s
  | _ => bodyPowerWake s

/-- Step 7 of R309 on, for a frame of the session `x`. -/
def body (f : Frame) (sid : Nat) (x : Session) (s : State) : Handled :=
  let op := f.opcode.toNat
  let c := x.context
  if op < 0x0600 then bodyLow op f c sid s
  else if op < 0x0E00 then bodyMiddle op f c x s
  else if op < 0x1000 then bodyFabric op f c x s
  else bodyHigh op f s

end Sys2Proof.Machine
end

