-- ==== Sys2Proof/Machine/Receive.lean ====
section
/-! DEFINITION. The way of a received device frame: encapsulation (R303), MACsec (R458), injections (R465), integrity and
session (R305), command numbers (R316), the checks of R309, and the host commands as commands of the block. -/

namespace Sys2Proof.Machine

/-! ## Acting on a command (R309 steps 3 to 10) -/

/-- A catalogued command of a session, or REFUSED.OPCODE. A HELLO counts here too (R454). -/
def act (f : Frame) (sid : Nat) (x : Session) (s : State) : Handled :=
  let op := f.opcode.toNat
  let s := if op = 0x0101 then s.countHello else s
  if !catalogue.contains op then .reply (refuse Status.opcode) s
  else checked [privilegeCheck op f x, generationCheck f x s, formCheck op f.payload] s (body f sid x s)

/-- SESSION.HELLO and SESSION.OPEN outside any session: neither numbered nor kept (R307). -/
def State.actUnnumbered (s : State) (f : Frame) : State :=
  let op := f.opcode.toNat
  let s := if op = 0x0101 then s.countHello else s
  let go := checked [formCheck op f.payload, legalDevice op s] s (if op = 0x0101 then bodyHello s else bodyOpen f s)
  match go with
  | .later s => s
  | .reply r s => s.emit (replyFrame op 0 f.context.toNat 0 0 0 r.payload f.path)

/-! ## Command numbers (R316) -/

/-- Takes command `e` of a session: it acts on it and keeps a place for its reply. -/
def State.takeFrame (s : State) (sid : Nat) (f : Frame) : State :=
  let n := f.number.toNat
  let s := s.modSession sid fun x =>
    { x with next := n + 1, kept := trimKept (x.kept ++ [{ number := n, matchCode := matchCode f, reply := none }]) }
  s.answer sid n f.opcode.toNat (act f sid (s.session sid) s)

/-- Takes in turn the held frames that are now next. -/
def State.takeHeld (sid : Nat) : Nat → State → State
  | 0, s => s
  | fuel + 1, s =>
    let x := s.session sid
    match x.held.find? fun h => h.1.number.toNat == x.next with
    | none => s
    | some h => ((s.modSession sid fun x => { x with held := x.held.filter (· != h) }).takeFrame sid h.1).takeHeld sid fuel

/-- A frame whose number is below the next expected one: the kept reply again, or REFUSED.SEQUENCE. -/
def State.oldNumber (s : State) (sid : Nat) (f : Frame) : State :=
  let x := s.session sid
  let n := f.number.toNat
  let refused := s.emit (replyFrame f.opcode.toNat sid x.context (s.generationOf x.context) n 0
    { status := Status.sequence, notchA := x.next : Reply }.payload x.path)
  match x.kept.find? (·.number == n) with
  | none => refused
  | some k =>
    match k.reply with
    | none => s
    | some (op, g, payload) =>
      if k.matchCode = matchCode f then s.emit (replyFrame op sid x.context g n 1 payload x.path) else refused

def State.number (s : State) (sid : Nat) (f : Frame) : State :=
  let x := s.session sid
  let n := f.number.toNat
  if n = x.next then (s.takeFrame sid f).takeHeld sid 64
  else if n < x.next then s.oldNumber sid f
  else if x.next + 63 < n ∨ (x.held.any fun h => h.1.number == f.number) then s
  else s.modSession sid fun x => { x with held := x.held ++ [(f, s.uptime)] }

/-! ## Integrity (R305) -/

/-- Drops a frame and counts it; 256 since the bit was last cleared set PORT.Trouble bit 6. -/
def State.dropFrame (s : State) : State :=
  let s := s.modPort fun p => { p with dropped := saturate32 (p.dropped + 1), droppedSince := p.droppedSince + 1 }
  if s.port.droppedSince = 256 then s.setTroubleBit .port 6 else s

def unnumbered (f : Frame) : Bool := f.session == 0 && (f.opcode == 0x0101 || f.opcode == 0x0102) && f.kind == 0

/-- The first row of R305 that a frame fails. -/
def State.badFrame (s : State) (f : Frame) : Bool :=
  let x := s.session f.session.toNat
  f.crc != frameCrc f || f.version != 1 || !(f.kind == 0 || f.kind == 5) || f.length.toNat != f.payload.length ||
  (!unnumbered f && (f.session == 0 || !x.isOpen || f.tag != frameTag x.tagKey f)) || (f.kind == 5 && !ackHonoured f x)

/-- A frame after the injections. A HELLO beyond the 64 of a round is dropped, in a session or outside any (R454). -/
def State.receiveFrame (s : State) (f : Frame) : State :=
  let sid := f.session.toNat
  if s.badFrame f then s.dropFrame
  else if f.opcode = 0x0101 ∧ f.kind = 0 ∧ !s.helloAllowed then s
  else if unnumbered f then s.actUnnumbered f
  else
    let s := s.modSession sid fun x => { x with lastFrame := s.uptime, path := f.path }
    if f.kind = 5 then s.hostAck f else s.number sid f

/-! ## The port -/

/-- Whether the port takes frames and firmware answers them (R360, R412, R425, R450): from the end of S1, and in FAULTED unless no
image verified. -/
def State.answers (s : State) : Bool :=
  let faulted := s.dev.state == .faulted
  s.dev.portUp && s.dev.state != .off && (s.stagePassed 1 || faulted) &&
  !(faulted && s.dev.readiness == 1 && !s.sec.testImage)

/-- Receives the frames that the injections let through. -/
def State.receiveAll (s : State) (l : List Carried) : State :=
  l.foldl (fun s c => match c with
    | .inward f => s.receiveFrame f
    | .outward o => s.putOut o) s

/-- A device frame arrives at the port. -/
def State.receive (s : State) (f : Frame) : State :=
  if !s.answers then s
  else
    let (s, ok) := s.letIn f.path.secured
    if !ok ∨ !s.accepts f then s
    else
      let (s, l) := s.throughInjections (.inward f)
      s.receiveAll l

/-- A frame arrives as the command of one row: a frame that spells another row's command is that row's. -/
def State.receiveAs (s : State) (op : Nat) (f : Frame) : State :=
  let o := f.opcode.toNat
  if f.kind = 5 ∨ (o ≠ op ∧ (catalogue.contains o : Bool)) then s else s.receive f

/-! ## The host commands, one for each row of the catalogue -/

/-- SESSION.HELLO (R454). -/
def execSessionHello (f : Frame) (s : State) : Out := .next (s.receiveAs 0x0101 f)
/-- SESSION.OPEN (R307). -/
def execSessionOpen (f : Frame) (s : State) : Out := .next (s.receiveAs 0x0102 f)
/-- SESSION.CLOSE (R308). -/
def execSessionClose (f : Frame) (s : State) : Out := .next (s.receiveAs 0x0103 f)
/-- PLAN.LOAD (R46). -/
def execPlanLoad (f : Frame) (s : State) : Out := .next (s.receiveAs 0x0201 f)
/-- PLAN.UNLOAD (R330). -/
def execPlanUnload (f : Frame) (s : State) : Out := .next (s.receiveAs 0x0202 f)
/-- RUN.STEP (R352). -/
def execRunStep (f : Frame) (s : State) : Out := .next (s.receiveAs 0x0301 f)
/-- RUN.BOOK (R347). -/
def execRunBook (f : Frame) (s : State) : Out := .next (s.receiveAs 0x0302 f)
/-- RUN.UNBOOK (R349). -/
def execRunUnbook (f : Frame) (s : State) : Out := .next (s.receiveAs 0x0303 f)
/-- SEQ.AREA (R260). -/
def execSeqArea (f : Frame) (s : State) : Out := .next (s.receiveAs 0x0401 f)
/-- SEQ.OPEN (R260). -/
def execSeqOpen (f : Frame) (s : State) : Out := .next (s.receiveAs 0x0402 f)
/-- SEQ.EXTEND (R260). -/
def execSeqExtend (f : Frame) (s : State) : Out := .next (s.receiveAs 0x0403 f)
/-- SEQ.TRIM (R260). -/
def execSeqTrim (f : Frame) (s : State) : Out := .next (s.receiveAs 0x0404 f)
/-- SEQ.CLOSE (R260). -/
def execSeqClose (f : Frame) (s : State) : Out := .next (s.receiveAs 0x0405 f)
/-- CTX.OPEN (R328). -/
def execCtxOpen (f : Frame) (s : State) : Out := .next (s.receiveAs 0x0501 f)
/-- CTX.CLOSE (R497). -/
def execCtxClose (f : Frame) (s : State) : Out := .next (s.receiveAs 0x0502 f)
/-- CTX.RESET (R400). -/
def execCtxReset (f : Frame) (s : State) : Out := .next (s.receiveAs 0x0503 f)
/-- CTX.SAVE (R329). -/
def execCtxSave (f : Frame) (s : State) : Out := .next (s.receiveAs 0x0504 f)
/-- CTX.RESTORE (R98). -/
def execCtxRestore (f : Frame) (s : State) : Out := .next (s.receiveAs 0x0505 f)
/-- MEM.READ (R332). -/
def execMemRead (f : Frame) (s : State) : Out := .next (s.receiveAs 0x0601 f)
/-- MEM.WRITE (R332). -/
def execMemWrite (f : Frame) (s : State) : Out := .next (s.receiveAs 0x0602 f)
/-- MEM.SPLIT (R156). -/
def execMemSplit (f : Frame) (s : State) : Out := .next (s.receiveAs 0x0603 f)
/-- PAGE.MAP (R258). -/
def execPageMap (f : Frame) (s : State) : Out := .next (s.receiveAs 0x0701 f)
/-- PAGE.UNMAP (R258). -/
def execPageUnmap (f : Frame) (s : State) : Out := .next (s.receiveAs 0x0702 f)
/-- PAGE.RETIRE (R182). -/
def execPageRetire (f : Frame) (s : State) : Out := .next (s.receiveAs 0x0703 f)
/-- SEG.RECODE (R179). -/
def execSegRecode (f : Frame) (s : State) : Out := .next (s.receiveAs 0x0801 f)
/-- SEG.RETIRE (R182). -/
def execSegRetire (f : Frame) (s : State) : Out := .next (s.receiveAs 0x0802 f)
/-- QUERN.MODE (R189). -/
def execQuernMode (f : Frame) (s : State) : Out := .next (s.receiveAs 0x0901 f)
/-- REG.READ (R333). -/
def execRegRead (f : Frame) (s : State) : Out := .next (s.receiveAs 0x0A01 f)
/-- REG.WRITE (R491). -/
def execRegWrite (f : Frame) (s : State) : Out := .next (s.receiveAs 0x0A02 f)
/-- LOG.READ (R394). -/
def execLogRead (f : Frame) (s : State) : Out := .next (s.receiveAs 0x0B01 f)
/-- STATUS.DEVICE (R334). -/
def execStatusDevice (f : Frame) (s : State) : Out := .next (s.receiveAs 0x0C01 f)
/-- STATUS.CONTEXT (R334). -/
def execStatusContext (f : Frame) (s : State) : Out := .next (s.receiveAs 0x0C02 f)
/-- TIME.SET (R42). -/
def execTimeSet (f : Frame) (s : State) : Out := .next (s.receiveAs 0x0D01 f)
/-- TIME.SOURCE (R43). -/
def execTimeSource (f : Frame) (s : State) : Out := .next (s.receiveAs 0x0D02 f)
/-- FABRIC.ADDRESS (R430). -/
def execFabricAddress (f : Frame) (s : State) : Out := .next (s.receiveAs 0x0E01 f)
/-- FABRIC.JOIN (R432). -/
def execFabricJoin (f : Frame) (s : State) : Out := .next (s.receiveAs 0x0E02 f)
/-- FABRIC.LEAVE (R432). -/
def execFabricLeave (f : Frame) (s : State) : Out := .next (s.receiveAs 0x0E03 f)
/-- FABRIC.STATUS (R435). -/
def execFabricStatus (f : Frame) (s : State) : Out := .next (s.receiveAs 0x0E04 f)
/-- FABRIC.COPY (R443). -/
def execFabricCopy (f : Frame) (s : State) : Out := .next (s.receiveAs 0x0E05 f)
/-- FABRIC.MIGRATE (R444). -/
def execFabricMigrate (f : Frame) (s : State) : Out := .next (s.receiveAs 0x0E06 f)
/-- CASCADE.FORM (R436). -/
def execCascadeForm (f : Frame) (s : State) : Out := .next (s.receiveAs 0x0F01 f)
/-- CASCADE.FOLLOW (R436). -/
def execCascadeFollow (f : Frame) (s : State) : Out := .next (s.receiveAs 0x0F02 f)
/-- CASCADE.LEAVE (R436). -/
def execCascadeLeave (f : Frame) (s : State) : Out := .next (s.receiveAs 0x0F03 f)
/-- CASCADE.RUN (R439). -/
def execCascadeRun (f : Frame) (s : State) : Out := .next (s.receiveAs 0x0F04 f)
/-- FW.STATUS (R451). -/
def execFwStatus (f : Frame) (s : State) : Out := .next (s.receiveAs 0x1001 f)
/-- FW.WRITE (R452). -/
def execFwWrite (f : Frame) (s : State) : Out := .next (s.receiveAs 0x1002 f)
/-- FW.ACTIVATE (R452). -/
def execFwActivate (f : Frame) (s : State) : Out := .next (s.receiveAs 0x1003 f)
/-- FW.AUTHORISE (R455). -/
def execFwAuthorise (f : Frame) (s : State) : Out := .next (s.receiveAs 0x1004 f)
/-- FW.ENROLL (R453). -/
def execFwEnroll (f : Frame) (s : State) : Out := .next (s.receiveAs 0x1005 f)
/-- FW.REMOVE (R453). -/
def execFwRemove (f : Frame) (s : State) : Out := .next (s.receiveAs 0x1006 f)
/-- FW.MACSEC (R458). -/
def execFwMacsec (f : Frame) (s : State) : Out := .next (s.receiveAs 0x1007 f)
/-- ATTEST.IDENTITY (R457). -/
def execAttestIdentity (f : Frame) (s : State) : Out := .next (s.receiveAs 0x1101 f)
/-- ATTEST.REPORT (R457). -/
def execAttestReport (f : Frame) (s : State) : Out := .next (s.receiveAs 0x1102 f)
/-- INJECT.LINK (R462). -/
def execInjectLink (f : Frame) (s : State) : Out := .next (s.receiveAs 0x1201 f)
/-- INJECT.PORT (R464). -/
def execInjectPort (f : Frame) (s : State) : Out := .next (s.receiveAs 0x1202 f)
/-- INJECT.ECC (R467). -/
def execInjectEcc (f : Frame) (s : State) : Out := .next (s.receiveAs 0x1203 f)
/-- INJECT.CLEAR (R468). -/
def execInjectClear (f : Frame) (s : State) : Out := .next (s.receiveAs 0x1204 f)
/-- INJECT.STATUS (R468). -/
def execInjectStatus (f : Frame) (s : State) : Out := .next (s.receiveAs 0x1205 f)
/-- POWER.DOMAIN (R361). -/
def execPowerDomain (f : Frame) (s : State) : Out := .next (s.receiveAs 0x1301 f)
/-- POWER.POLICY (R362). -/
def execPowerPolicy (f : Frame) (s : State) : Out := .next (s.receiveAs 0x1302 f)
/-- POWER.DOZE (R363). -/
def execPowerDoze (f : Frame) (s : State) : Out := .next (s.receiveAs 0x1303 f)
/-- POWER.WAKE (R364). -/
def execPowerWake (f : Frame) (s : State) : Out := .next (s.receiveAs 0x1304 f)

/-- HOST_ACK (R320). -/
def execHostAck (f : Frame) (s : State) : Out := .next (if f.kind = 5 then s.receive f else s)

/-- REG.READ that covers WHEEL.PositionLo (R41). -/
def execPositionLoRead (f : Frame) (s : State) : Out :=
  event (f.opcode == 0x0A01 && le f.payload 0 4 ≤ 0x100000 && 0x100000 < le f.payload 0 4 + 4 * le f.payload 4 2) s
    (s.receiveAs 0x0A01 f)

/-- A REG.WRITE whose register has the given place. -/
def State.writeAs (s : State) (p : Nat → Bool) (f : Frame) : Out :=
  event (f.opcode == 0x0A02 && p (le f.payload 0 4)) s (s.receiveAs 0x0A02 f)

/-- REG.WRITE of a trouble register (R383, R492). -/
def execTroubleBitClear (f : Frame) (s : State) : Out := s.writeAs (fun a => isTroublePlace (regPlace a)) f
/-- REG.WRITE of a counter (R301, R493). -/
def execCounterClear (f : Frame) (s : State) : Out := s.writeAs (fun a => isCounterPlace (regPlace a)) f
/-- REG.WRITE of WHEEL.SourceCfg (R494). -/
def execWheelSourceWrite (f : Frame) (s : State) : Out :=
  s.writeAs (fun a => [some .sourceCfg, some .ptpCfg, some .asymmetry].contains (rwAt (regPlace a))) f
/-- REG.WRITE of WHEEL.HoldLimit (R494). -/
def execHoldLimitWrite (f : Frame) (s : State) : Out := s.writeAs (fun a => rwAt (regPlace a) == some .holdLimit) f
/-- REG.WRITE of PORT.UdpPort (R484, R494). -/
def execUdpPortWrite (f : Frame) (s : State) : Out := s.writeAs (fun a => rwAt (regPlace a) == some .udpPort) f
/-- REG.WRITE of DEVICE.RecoveryCfg (R494). -/
def execRecoveryCfgWrite (f : Frame) (s : State) : Out := s.writeAs (fun a => rwAt (regPlace a) == some .recoveryCfg) f
/-- REG.WRITE of PWR.LastLatch (R379). -/
def execLastLatchClear (f : Frame) (s : State) : Out := s.writeAs (fun a => rwAt (regPlace a) == some .lastLatch) f

/-! ## Events of the sessions and the port -/

/-- HELD_FRAME_EXPIRY (R316): a frame held for 1,024 notches is discarded. -/
def execHeldFrameExpiry (sid n : Nat) (s : State) : Out :=
  .next (s.modSession sid fun x =>
    { x with held := x.held.filter fun h => !(h.1.number.toNat == n && 1024 + h.2 ≤ s.uptime) })

/-- SESSION_IDLE_TIMEOUT (R308). -/
def execSessionIdleTimeout (sid : Nat) (s : State) : Out :=
  let x := s.session sid
  event (x.isOpen && decide (x.lastFrame + x.idleTimeout ≤ s.uptime)) s (s.endSession sid)

/-- INJECT_REORDER_RELEASE (R465): frames held for 1,024 notches pass, and meet the later injections. -/
def execInjectReorderRelease (n : Nat) (s : State) : Out :=
  match s.injections.find? (·.number == n) with
  | none => .next s
  | some j =>
    let due (t : Nat) : Bool := decide (1024 + t ≤ s.uptime)
    let freed := (j.heldIn.filter fun h => due h.2.2).map (fun h => Carried.inward h.1) ++
      (j.heldOut.filter fun h => due h.2.2).map fun h => Carried.outward h.1
    let s := s.modInjection n fun x =>
      { x with heldIn := x.heldIn.filter (fun h => !due h.2.2), heldOut := x.heldOut.filter fun h => !due h.2.2 }
    let later := (s.injections.map (·.number)).filter (n < ·)
    .next (freed.foldl (fun s c =>
      let (s, l) := s.passInjections later c
      s.receiveAll l) s)

/-- COMPLETION_RESEND_TIMER (R320): the oldest unacknowledged completion was sent 32,768 notches ago. -/
def execCompletionResendTimer (c : Nat) (s : State) : Out :=
  let sent := (s.stream c).cmds.filter fun m => m.phase == .completed && m.sent
  match sent with
  | [] => .next s
  | m :: _ =>
    event (decide (32768 + m.sentAt ≤ s.uptime)) s
      (sent.foldl (fun s x => (s.sendCompletion c x.csn 1).modCmd c x.csn fun y => { y with sentAt := s.uptime }) s)

/-- COMPLETION_SEND (R320): in CSN order. -/
def execCompletionSend (c : Nat) (s : State) : Out := .next (s.sendNext c)

end Sys2Proof.Machine
end

