-- ==== Sys2Proof/Machine/Vector.lean ====
section
/-! DEFINITION. The vector unit (R81 to R84, R111 to R113): loads and stores of logical vectors, the lane operations, special
functions, conversions and the reduction. -/

namespace Sys2Proof.Machine

/-! ## Logical vectors in the core store (R82, R97) -/

/-- Bytes that a logical vector occupies, and the offset of slice `s` of vector `v`. -/
def vectorBytes (g : Nat) : Nat := lanePasses g * g * 128
def sliceAt (g v s : Nat) : Nat := ((v * lanePasses g + s / g) * g + s % g) * 128

/-- Slices of a mask. -/
def wSlices (w : CoreWord) : List Nat := bitsSet (wMask w) 16

/-- Whether the range of `n` bytes from `x` passes the end of its address range. -/
def pastRange (x n : Nat) : Bool :=
  match localPlace x with
  | .store => decide (0x400000 < x + n)
  | .slice => decide (0x12E00000 < x + n)
  | _ => false

/-- A load or store of more vectors than the registers or the address range can hold (R90). -/
def tooMany (x : Core) (w : CoreWord) : Bool :=
  decide (x.usableRegs < rB w + wCount w) || pastRange (wA w * 64) (wCount w * vectorBytes x.groups)

/-- The masked slices of a load or store: register and slice with their core-local address. -/
def vectorParts (x : Core) (w : CoreWord) : List (Nat × Nat × Nat) :=
  (List.range (wCount w)).flatMap fun v => (wSlices w).map fun k => (rB w + v, k, wA w * 64 + sliceAt x.groups v k)

/-- The 32 lanes of a slice written from 128 bytes, and read as them. -/
def Core.putSlice (x : Core) (r k : Nat) (data : List Byte) : Core :=
  (List.range 32).foldl (fun x i => x.setLane r (k * 32 + i) (BitVec.ofNat 32 (le data (4 * i) 4))) x
def Core.sliceBytes (x : Core) (r k : Nat) : List Byte :=
  (List.range 32).flatMap fun i => leBytes 4 (x.lane r (k * 32 + i)).toNat

/-- Reads the parts of a load; nothing is loaded when one of them traps. -/
def State.loadParts (s : State) (own : Nat) : List (Nat × Nat × Nat) → Ran
  | [] => .ok s
  | (r, k, a) :: l =>
    match s.fetchLocal own 1 a 128 with
    | .trap s c a => .trap s c a
    | .ok s data =>
      match s.loadParts own l with
      | .trap s c a => .trap s c a
      | .ok s => .ok (s.onCore own fun x => x.putSlice r k data)

def State.storeParts (s : State) (own : Nat) : List (Nat × Nat × Nat) → Ran
  | [] => .ok s
  | (r, k, a) :: l =>
    match s.storeLocal own 1 a ((s.core (s.physical own)).sliceBytes r k) with
    | .trap s c a => .trap s c a
    | .ok s => s.storeParts own l

/-- A store's addresses and partly covered granules are sound before it writes anything. -/
def State.storeMiss (s : State) (own : Nat) (l : List (Nat × Nat × Nat)) : Option (Nat × Nat) :=
  l.findSome? fun (_, _, a) =>
    ((s.localMiss own a 128).map fun y => (trapAddress, y)).orElse fun _ =>
      (s.localPartlyLost (s.physical own) a 128).map fun y => (trapSlice, y)

/-- VLD. The spec gives no order among trap causes that apply together: as for every vector instruction an undefined Formats value
comes before a Count beyond its limit, and both before the addresses (DESIGN CHOICE, assumption log 49). -/
def vldRun (own : Nat) (w : CoreWord) (s : State) : Ran :=
  let x := s.core (s.physical own)
  if wFormats w ≠ 0 then .trap s trapUndefined 0
  else if tooMany x w then .trap s trapCount 0
  else s.loadParts own (vectorParts x w)

/-- VST, with the causes in the order of `vldRun` (DESIGN CHOICE, assumption log 49). -/
def vstRun (own : Nat) (w : CoreWord) (s : State) : Ran :=
  let x := s.core (s.physical own)
  if wFormats w ≠ 0 then .trap s trapUndefined 0
  else if tooMany x w then .trap s trapCount 0
  else
    match s.storeMiss own (vectorParts x w) with
    | some (c, a) => .trap (if c = trapSlice then s.sliceUncorrectable (s.physical own) a x.context else s) c a
    | none => s.storeParts own (vectorParts x w)

def execVld (core : Fin 240) (s : State) : Out := s.decode core 2 0 false fun w s => (vldRun core w s).finish core 1

def execVst (core : Fin 240) (s : State) : Out := s.decode core 2 1 false fun w s => (vstRun core w s).finish core 1

/-! ## Lane operations -/

/-- Writes register `r` over the masked slices. -/
def Core.mapLanes (x : Core) (w : CoreWord) (r : Nat) (f : Nat → Word) : Core :=
  (wSlices w).foldl (fun y k => (List.range 32).foldl (fun y i => y.setLane r (k * 32 + i) (f (k * 32 + i))) y) x

/-- A lane operation over the registers it names; a Formats value outside its table traps as Undefined (R111 to R113), and a
register beyond the usable ones as Count, in that order (DESIGN CHOICE, assumption log 49). A Count other than 0 and all ones runs
the operation once (DESIGN CHOICE, assumption log 19). -/
def laneRun (own : Nat) (w : CoreWord) (formats : Nat) (regs : List Nat) (dst : Nat) (f : Core → Nat → Word) (s : State) : Ran :=
  let x := s.core (s.physical own)
  if formats ≤ wFormats w then .trap s trapUndefined 0
  else if regs.any fun r => x.usableRegs ≤ r then .trap s trapCount 0
  else .ok (s.onCore own fun x => x.mapLanes w dst (f x))

/-- Register C = A op B. -/
def binaryRun (op : Word → Word → Word) (own : Nat) (w : CoreWord) (s : State) : Ran :=
  laneRun own w 1 [rA w, rB w, rC w] (rC w) (fun x i => op (x.lane (rA w) i) (x.lane (rB w) i)) s

/-- Register B = A × B + C, rounded once. -/
def vfmaRun (own : Nat) (w : CoreWord) (s : State) : Ran :=
  laneRun own w 1 [rA w, rB w, rC w] (rB w)
    (fun x i => ffma (x.lane (rA w) i) (x.lane (rB w) i) (x.lane (rC w) i)) s

def execVfma (core : Fin 240) (s : State) : Out := s.decode core 2 2 false fun w s => (vfmaRun core w s).finish core 1

def execVadd (core : Fin 240) (s : State) : Out := s.decode core 2 3 false fun w s => (binaryRun fadd core w s).finish core 1

def execVmul (core : Fin 240) (s : State) : Out := s.decode core 2 4 false fun w s => (binaryRun fmul core w s).finish core 1

def execVmax (core : Fin 240) (s : State) : Out := s.decode core 2 5 false fun w s => (binaryRun fmaxNum core w s).finish core 1

def execVmin (core : Fin 240) (s : State) : Out := s.decode core 2 6 false fun w s => (binaryRun fminNum core w s).finish core 1

/-! ## Special functions and conversions (R112, R113) -/

def special (f : Nat) (v : Word) : Word :=
  match f with
  | 0 => fexp2 v
  | 1 => flog2 v
  | 2 => frcp v
  | 3 => frsqrt v
  | _ => ftanh v

def execVsfu (core : Fin 240) (s : State) : Out :=
  s.decode core 2 7 false fun w s =>
    (laneRun core w 5 [rA w, rC w] (rC w) (fun x i => special (wFormats w) (x.lane (rA w) i)) s).finish core 1

/-- The conversions of R113; a narrow source sits in the low bits of its lane. -/
def convert (code : Nat) (v : Word) : Word :=
  let narrow (f : Fmt) (m : Round) : Word := BitVec.ofNat 32 (f.encode m (ofFp32 v))
  let widen (f : Fmt) : Word := toFp32 (f.decode (v.toNat % 2 ^ f.width))
  match code with
  | 0 => narrow bf16 .nearest
  | 1 => narrow bf16 .towardZero
  | 2 => narrow fp16 .nearest
  | 3 => narrow fp16 .towardZero
  | 4 => narrow e4m3 .nearest
  | 5 => narrow e5m2 .nearest
  | 6 => widen bf16
  | 7 => widen fp16
  | 8 => widen e4m3
  | 9 => widen e5m2
  | 10 => toInt32 (ofFp32 v)
  | _ => fint v.toInt

def execVcvt (core : Fin 240) (s : State) : Out :=
  s.decode core 2 8 false fun w s =>
    (laneRun core w 12 [rA w, rC w] (rC w) (fun x i => convert (wFormats w) (x.lane (rA w) i)) s).finish core 1

/-! ## Reduction (R83) -/

/-- One level of the tree: neighbours combined; a lane that takes no part leaves its neighbour as it is. -/
def reduceLevel (op : Word → Word → Word) : List (Option Word) → List (Option Word)
  | a :: b :: l => (match a, b with
      | some x, some y => some (op x y)
      | some x, none => some x
      | none, y => y) :: reduceLevel op l
  | l => l

def reduceTree (op : Word → Word → Word) : Nat → List (Option Word) → Option Word
  | 0, l => (l.head?).join
  | n + 1, l => reduceTree op n (reduceLevel op l)

/-- Element 0 of register C = the reduction of the masked lanes of A; other elements keep their values (assumption log 19). -/
def vredRun (own : Nat) (w : CoreWord) (s : State) : Ran :=
  let x := s.core (s.physical own)
  let op := if wFormats w = 0 then fadd else fmaxNum
  if 1 < wFormats w then .trap s trapUndefined 0
  else if x.usableRegs ≤ rA w ∨ x.usableRegs ≤ rC w then .trap s trapCount 0
  else
    let lanes := (List.range 512).map fun i => if bit (wMask w) (i / 32) then some (x.lane (rA w) i) else none
    match reduceTree op 9 lanes with
    | none => .ok s
    | some v => .ok (s.onCore own fun x => x.setLane (rC w) 0 v)

def execVred (core : Fin 240) (s : State) : Out := s.decode core 2 9 false fun w s => (vredRun core w s).finish core 1

end Sys2Proof.Machine
end

