-- ==== Sys2Proof/Machine/Dispatch.lean ====
section
/-! DEFINITION. The dispatcher: one arm per command, each one direct call of its meaning. -/

namespace Sys2Proof.Machine

def exec (i : Instr) (s : State) : Host.Outcome State Fault Refusal :=
  match i with
  | .sessionHello f => Sys2Proof.Machine.execSessionHello f s
  | .sessionOpen f => Sys2Proof.Machine.execSessionOpen f s
  | .sessionClose f => Sys2Proof.Machine.execSessionClose f s
  | .planLoad f => Sys2Proof.Machine.execPlanLoad f s
  | .planUnload f => Sys2Proof.Machine.execPlanUnload f s
  | .runStep f => Sys2Proof.Machine.execRunStep f s
  | .runBook f => Sys2Proof.Machine.execRunBook f s
  | .runUnbook f => Sys2Proof.Machine.execRunUnbook f s
  | .seqArea f => Sys2Proof.Machine.execSeqArea f s
  | .seqOpen f => Sys2Proof.Machine.execSeqOpen f s
  | .seqExtend f => Sys2Proof.Machine.execSeqExtend f s
  | .seqTrim f => Sys2Proof.Machine.execSeqTrim f s
  | .seqClose f => Sys2Proof.Machine.execSeqClose f s
  | .ctxOpen f => Sys2Proof.Machine.execCtxOpen f s
  | .ctxClose f => Sys2Proof.Machine.execCtxClose f s
  | .ctxReset f => Sys2Proof.Machine.execCtxReset f s
  | .ctxSave f => Sys2Proof.Machine.execCtxSave f s
  | .ctxRestore f => Sys2Proof.Machine.execCtxRestore f s
  | .memRead f => Sys2Proof.Machine.execMemRead f s
  | .memWrite f => Sys2Proof.Machine.execMemWrite f s
  | .memSplit f => Sys2Proof.Machine.execMemSplit f s
  | .pageMap f => Sys2Proof.Machine.execPageMap f s
  | .pageUnmap f => Sys2Proof.Machine.execPageUnmap f s
  | .pageRetire f => Sys2Proof.Machine.execPageRetire f s
  | .segRecode f => Sys2Proof.Machine.execSegRecode f s
  | .segRetire f => Sys2Proof.Machine.execSegRetire f s
  | .quernMode f => Sys2Proof.Machine.execQuernMode f s
  | .regRead f => Sys2Proof.Machine.execRegRead f s
  | .regWrite f => Sys2Proof.Machine.execRegWrite f s
  | .logRead f => Sys2Proof.Machine.execLogRead f s
  | .statusDevice f => Sys2Proof.Machine.execStatusDevice f s
  | .statusContext f => Sys2Proof.Machine.execStatusContext f s
  | .timeSet f => Sys2Proof.Machine.execTimeSet f s
  | .timeSource f => Sys2Proof.Machine.execTimeSource f s
  | .fabricAddress f => Sys2Proof.Machine.execFabricAddress f s
  | .fabricJoin f => Sys2Proof.Machine.execFabricJoin f s
  | .fabricLeave f => Sys2Proof.Machine.execFabricLeave f s
  | .fabricStatus f => Sys2Proof.Machine.execFabricStatus f s
  | .fabricCopy f => Sys2Proof.Machine.execFabricCopy f s
  | .fabricMigrate f => Sys2Proof.Machine.execFabricMigrate f s
  | .cascadeForm f => Sys2Proof.Machine.execCascadeForm f s
  | .cascadeFollow f => Sys2Proof.Machine.execCascadeFollow f s
  | .cascadeLeave f => Sys2Proof.Machine.execCascadeLeave f s
  | .cascadeRun f => Sys2Proof.Machine.execCascadeRun f s
  | .fwStatus f => Sys2Proof.Machine.execFwStatus f s
  | .fwWrite f => Sys2Proof.Machine.execFwWrite f s
  | .fwActivate f => Sys2Proof.Machine.execFwActivate f s
  | .fwAuthorise f => Sys2Proof.Machine.execFwAuthorise f s
  | .fwEnroll f => Sys2Proof.Machine.execFwEnroll f s
  | .fwRemove f => Sys2Proof.Machine.execFwRemove f s
  | .fwMacsec f => Sys2Proof.Machine.execFwMacsec f s
  | .attestIdentity f => Sys2Proof.Machine.execAttestIdentity f s
  | .attestReport f => Sys2Proof.Machine.execAttestReport f s
  | .injectLink f => Sys2Proof.Machine.execInjectLink f s
  | .injectPort f => Sys2Proof.Machine.execInjectPort f s
  | .injectEcc f => Sys2Proof.Machine.execInjectEcc f s
  | .injectClear f => Sys2Proof.Machine.execInjectClear f s
  | .injectStatus f => Sys2Proof.Machine.execInjectStatus f s
  | .powerDomain f => Sys2Proof.Machine.execPowerDomain f s
  | .powerPolicy f => Sys2Proof.Machine.execPowerPolicy f s
  | .powerDoze f => Sys2Proof.Machine.execPowerDoze f s
  | .powerWake f => Sys2Proof.Machine.execPowerWake f s
  | .hostAck f => Sys2Proof.Machine.execHostAck f s
  | .heldFrameExpiry session number => Sys2Proof.Machine.execHeldFrameExpiry session number s
  | .completionResendTimer context => Sys2Proof.Machine.execCompletionResendTimer context s
  | .sessionIdleTimeout session => Sys2Proof.Machine.execSessionIdleTimeout session s
  | .journalWriteAck ok => Sys2Proof.Machine.execJournalWriteAck ok s
  | .completionSend context => Sys2Proof.Machine.execCompletionSend context s
  | .commandCompletion context csn => Sys2Proof.Machine.execCommandCompletion context csn s
  | .actionStart context csn index => Sys2Proof.Machine.execActionStart context csn index s
  | .actionWindowEnd context csn index => Sys2Proof.Machine.execActionWindowEnd context csn index s
  | .actionEnd context csn index => Sys2Proof.Machine.execActionEnd context csn index s
  | .fillerStart => Sys2Proof.Machine.execFillerStart s
  | .bookingExpiry booking => Sys2Proof.Machine.execBookingExpiry booking s
  | .commandStop context csn => Sys2Proof.Machine.execCommandStop context csn s
  | .commandTimeout context csn => Sys2Proof.Machine.execCommandTimeout context csn s
  | .promiseSuspend context csn => Sys2Proof.Machine.execPromiseSuspend context csn s
  | .programBlockLoad core => Sys2Proof.Machine.execProgramBlockLoad core s
  | .nop core => Sys2Proof.Machine.execNop core s
  | .jump core => Sys2Proof.Machine.execJump core s
  | .loop core => Sys2Proof.Machine.execLoop core s
  | .waitn core => Sys2Proof.Machine.execWaitn core s
  | .waitnRelease core => Sys2Proof.Machine.execWaitnRelease core s
  | .fence core => Sys2Proof.Machine.execFence core s
  | .fenceRelease core => Sys2Proof.Machine.execFenceRelease core s
  | .halt core => Sys2Proof.Machine.execHalt core s
  | .mode core => Sys2Proof.Machine.execMode core s
  | .loadstat core => Sys2Proof.Machine.execLoadstat core s
  | .pass core => Sys2Proof.Machine.execPass core s
  | .ospass core => Sys2Proof.Machine.execOspass core s
  | .drain core => Sys2Proof.Machine.execDrain core s
  | .elem core => Sys2Proof.Machine.execElem core s
  | .vld core => Sys2Proof.Machine.execVld core s
  | .vst core => Sys2Proof.Machine.execVst core s
  | .vfma core => Sys2Proof.Machine.execVfma core s
  | .vadd core => Sys2Proof.Machine.execVadd core s
  | .vmul core => Sys2Proof.Machine.execVmul core s
  | .vmax core => Sys2Proof.Machine.execVmax core s
  | .vmin core => Sys2Proof.Machine.execVmin core s
  | .vsfu core => Sys2Proof.Machine.execVsfu core s
  | .vcvt core => Sys2Proof.Machine.execVcvt core s
  | .vred core => Sys2Proof.Machine.execVred core s
  | .sput core => Sys2Proof.Machine.execSput core s
  | .swait core => Sys2Proof.Machine.execSwait core s
  | .swaitRelease core => Sys2Proof.Machine.execSwaitRelease core s
  | .ssig core => Sys2Proof.Machine.execSsig core s
  | .sidle core => Sys2Proof.Machine.execSidle core s
  | .sidleRelease core => Sys2Proof.Machine.execSidleRelease core s
  | .translationGroup core channel => Sys2Proof.Machine.execTranslationGroup core channel s
  | .pieceComplete core channel piece => Sys2Proof.Machine.execPieceComplete core channel piece s
  | .descriptorComplete core channel => Sys2Proof.Machine.execDescriptorComplete core channel s
  | .barrierWaitRelease core channel => Sys2Proof.Machine.execBarrierWaitRelease core channel s
  | .quernDescriptorDequeue stack pc => Sys2Proof.Machine.execQuernDescriptorDequeue stack pc s
  | .quernChunkEnd stack pc => Sys2Proof.Machine.execQuernChunkEnd stack pc s
  | .quernDescriptorEnd stack pc => Sys2Proof.Machine.execQuernDescriptorEnd stack pc s
  | .quernSealed stack pc => Sys2Proof.Machine.execQuernSealed stack pc s
  | .hopperRowSample unit => Sys2Proof.Machine.execHopperRowSample unit s
  | .resultFrameHandoff context csn => Sys2Proof.Machine.execResultFrameHandoff context csn s
  | .segmentSweep stack => Sys2Proof.Machine.execSegmentSweep stack s
  | .memSplitDone die => Sys2Proof.Machine.execMemSplitDone die s
  | .slicePatrolScrub core line => Sys2Proof.Machine.execSlicePatrolScrub core line s
  | .stackPatrolScrub stack row => Sys2Proof.Machine.execStackPatrolScrub stack row s
  | .bedstoneRefresh die layer bank => Sys2Proof.Machine.execBedstoneRefresh die layer bank s
  | .stackRefresh stack bank => Sys2Proof.Machine.execStackRefresh stack bank s
  | .housekeepingRound r => Sys2Proof.Machine.execHousekeepingRound r s
  | .roundDecisionsEffect => Sys2Proof.Machine.execRoundDecisionsEffect s
  | .pauseEnd => Sys2Proof.Machine.execPauseEnd s
  | .comparatorLatch spot => Sys2Proof.Machine.execComparatorLatch spot s
  | .inputVoltageLow => Sys2Proof.Machine.execInputVoltageLow s
  | .inputVoltageRestored => Sys2Proof.Machine.execInputVoltageRestored s
  | .inputVoltageHigh => Sys2Proof.Machine.execInputVoltageHigh s
  | .inputOverlimitLatch overVoltage => Sys2Proof.Machine.execInputOverlimitLatch overVoltage s
  | .powerLoss => Sys2Proof.Machine.execPowerLoss s
  | .breakerOpen => Sys2Proof.Machine.execBreakerOpen s
  | .pwrEnAssert testMode => Sys2Proof.Machine.execPwrEnAssert testMode s
  | .prechargeDone => Sys2Proof.Machine.execPrechargeDone s
  | .pwrEnDeassert => Sys2Proof.Machine.execPwrEnDeassert s
  | .resetInRelease lowNotches => Sys2Proof.Machine.execResetInRelease lowNotches s
  | .quiesce unreachable => Sys2Proof.Machine.execQuiesce unreachable s
  | .stageS0PowerGood => Sys2Proof.Machine.execStageS0PowerGood s
  | .stageS1SluiceBoot r => Sys2Proof.Machine.execStageS1SluiceBoot r s
  | .stageS2FuseRead r => Sys2Proof.Machine.execStageS2FuseRead r s
  | .stageS3RunnerDiesUp r => Sys2Proof.Machine.execStageS3RunnerDiesUp r s
  | .stageS4WeltTraining r => Sys2Proof.Machine.execStageS4WeltTraining r s
  | .stageS5BedstoneTest r => Sys2Proof.Machine.execStageS5BedstoneTest r s
  | .stageS6MemoryTraining r => Sys2Proof.Machine.execStageS6MemoryTraining r s
  | .stageS7CheckerTest r => Sys2Proof.Machine.execStageS7CheckerTest r s
  | .stageS8LastCheck r => Sys2Proof.Machine.execStageS8LastCheck r s
  | .stageS9Ready r => Sys2Proof.Machine.execStageS9Ready r s
  | .coreStopWatchdog core => Sys2Proof.Machine.execCoreStopWatchdog core s
  | .coreGroupResetCheck group => Sys2Proof.Machine.execCoreGroupResetCheck group s
  | .meshProgressWatchdog die stuck => Sys2Proof.Machine.execMeshProgressWatchdog die stuck s
  | .dieResetDone die => Sys2Proof.Machine.execDieResetDone die s
  | .dieResetCheck die => Sys2Proof.Machine.execDieResetCheck die s
  | .maelynWatchdog => Sys2Proof.Machine.execMaelynWatchdog s
  | .journalKeeperWatchdog => Sys2Proof.Machine.execJournalKeeperWatchdog s
  | .faultHoldExpiry => Sys2Proof.Machine.execFaultHoldExpiry s
  | .contextResetDrained context => Sys2Proof.Machine.execContextResetDrained context s
  | .tagsDrained context dropped => Sys2Proof.Machine.execTagsDrained context dropped s
  | .linkFlitReceived link bundle toB flit => Sys2Proof.Machine.execLinkFlitReceived link bundle toB flit s
  | .retrainDone link bundle toB failing => Sys2Proof.Machine.execRetrainDone link bundle toB failing s
  | .deliveryAck link fromB m => Sys2Proof.Machine.execDeliveryAck link fromB m s
  | .domainWakeDone domain => Sys2Proof.Machine.execDomainWakeDone domain s
  | .wakeComplete => Sys2Proof.Machine.execWakeComplete s
  | .portLinkChange up medium negotiated lane0Offered => Sys2Proof.Machine.execPortLinkChange up medium negotiated lane0Offered s
  | .ptpSync m => Sys2Proof.Machine.execPtpSync m s
  | .ptpFollowUp head offset sourceTime => Sys2Proof.Machine.execPtpFollowUp head offset sourceTime s
  | .ptpAnnounce m => Sys2Proof.Machine.execPtpAnnounce m s
  | .ptpDelayResp m => Sys2Proof.Machine.execPtpDelayResp m s
  | .ppsEdge fromPredicted offset => Sys2Proof.Machine.execPpsEdge fromPredicted offset s
  | .ppsEdgeTimeout => Sys2Proof.Machine.execPpsEdgeTimeout s
  | .refclkRangeChange inRange => Sys2Proof.Machine.execRefclkRangeChange inRange s
  | .sourceLost => Sys2Proof.Machine.execSourceLost s
  | .wheelLocked => Sys2Proof.Machine.execWheelLocked s
  | .wheelLearned => Sys2Proof.Machine.execWheelLearned s
  | .holdLimitExceeded => Sys2Proof.Machine.execHoldLimitExceeded s
  | .sourcePriorityReturn => Sys2Proof.Machine.execSourcePriorityReturn s
  | .ppsOutRise => Sys2Proof.Machine.execPpsOutRise s
  | .ppsOutFall => Sys2Proof.Machine.execPpsOutFall s
  | .cascadeSyncSend => Sys2Proof.Machine.execCascadeSyncSend s
  | .arpRequest sender target => Sys2Proof.Machine.execArpRequest sender target s
  | .neighborSolicitation sender target => Sys2Proof.Machine.execNeighborSolicitation sender target s
  | .beaconSend => Sys2Proof.Machine.execBeaconSend s
  | .beaconReceived b => Sys2Proof.Machine.execBeaconReceived b s
  | .routeEntryExpiry address => Sys2Proof.Machine.execRouteEntryExpiry address s
  | .probe m => Sys2Proof.Machine.execProbe m s
  | .probeAnswer a => Sys2Proof.Machine.execProbeAnswer a s
  | .commit m release => Sys2Proof.Machine.execCommit m release s
  | .commitAnswer a => Sys2Proof.Machine.execCommitAnswer a s
  | .commitResend session number => Sys2Proof.Machine.execCommitResend session number s
  | .tentativeBookingLapse number => Sys2Proof.Machine.execTentativeBookingLapse number s
  | .copyDestinationCheck m => Sys2Proof.Machine.execCopyDestinationCheck m s
  | .copyPagePiece m => Sys2Proof.Machine.execCopyPagePiece m s
  | .copyAck head csn page check ok => Sys2Proof.Machine.execCopyAck head csn page check ok s
  | .firmwareCheckDone reason => Sys2Proof.Machine.execFirmwareCheckDone reason s
  | .testFirmwareLoad valid version security digest => Sys2Proof.Machine.execTestFirmwareLoad valid version security digest s
  | .injectReorderRelease number => Sys2Proof.Machine.execInjectReorderRelease number s
  | .i2cEepromRead offset length => Sys2Proof.Machine.execI2cEepromRead offset length s
  | .coolantMonitorRead offset length => Sys2Proof.Machine.execCoolantMonitorRead offset length s
  | .positionLoRead f => Sys2Proof.Machine.execPositionLoRead f s
  | .troubleBitClear f => Sys2Proof.Machine.execTroubleBitClear f s
  | .counterClear f => Sys2Proof.Machine.execCounterClear f s
  | .wheelSourceWrite f => Sys2Proof.Machine.execWheelSourceWrite f s
  | .holdLimitWrite f => Sys2Proof.Machine.execHoldLimitWrite f s
  | .udpPortWrite f => Sys2Proof.Machine.execUdpPortWrite f s
  | .recoveryCfgWrite f => Sys2Proof.Machine.execRecoveryCfgWrite f s
  | .lastLatchClear f => Sys2Proof.Machine.execLastLatchClear f s
  | .quernComputeEntered stack pc => Sys2Proof.Machine.execQuernComputeEntered stack pc s
  | .memTransferDone session number => Sys2Proof.Machine.execMemTransferDone session number s
  | .coreGroupResetDone group => Sys2Proof.Machine.execCoreGroupResetDone group s
  | .ssigRelease core => Sys2Proof.Machine.execSsigRelease core s
  | .prechargeStart => Sys2Proof.Machine.execPrechargeStart s
  | .copyPageResend context csn => Sys2Proof.Machine.execCopyPageResend context csn s
  | .idleNotch => Sys2Proof.Machine.execIdleNotch s

end Sys2Proof.Machine
end

