-- ==== Sys2Proof/Safety.lean ====
section
/-! DEFINITION. What counts as a sound state: memory and every family of the device's parts in canonical form, the log a
run of consecutive numbers, the wheel a 64-bit count. -/

namespace Sys2Proof.Machine

/-- A family is canonical, and each listed entry has a property. -/
def Family {β : Type} [DecidableEq β] (d : β) (ok : β → Prop) (m : Sparse β) : Prop :=
  swf d m = true ∧ ∀ e ∈ m, ok e.2

/-- A channel has at most 16 descriptors queued (R215). -/
def Channel.Fits (h : Channel) : Prop := h.queue.length ≤ 16

/-- A core whose families are canonical, and whose channels keep to their queues. -/
structure Core.Canonical (c : Core) : Prop where
  tiles : swf {} c.tiles = true
  sums : swf 0 c.sums = true
  integers : swf false c.integers = true
  vregs : swf 0 c.vregs = true
  channels : Family {} Channel.Fits c.channels
  barriers : swf 0 c.barriers = true

/-- The owners of a Millpond's ways are canonical. -/
def Millpond.Canonical (d : Millpond) : Prop := swf none d.ways = true

/-- A stack whose families are canonical. -/
structure Stack.Canonical (k : Stack) : Prop where
  capture : swf 0 k.capture = true
  pcs : swf {} k.pcs = true
  caErrors : swf 0 k.caErrors = true

/-- The replay buffer of a direction holds at most 256 flits (R283). -/
def LinkDir.Fits (d : LinkDir) : Prop := d.replay.length ≤ 256

/-- Both directions of a bundle keep to their replay buffers. -/
def Bundle.Fits (b : Bundle) : Prop := b.aToB.Fits ∧ b.bToA.Fits

/-- The bundles of a link are canonical, and keep to their replay buffers. -/
def Link.Canonical (l : Link) : Prop := Family {} Bundle.Fits l.bundles

/-- The sequence slots of a context are canonical. -/
def Context.Canonical (c : Context) : Prop := swf {} c.seqs = true

/-- The log holds at most 16,384 records, numbered one after another up to the last number given (R394, R395). -/
def LogRising (l : List LogRecord) (next : Nat) : Prop :=
  l.length ≤ 16384 ∧ l.length ≤ next ∧ ∀ i, ∀ h : i < l.length, (l[i]'h).number = next - l.length + i

/-- The state's own canonical form. -/
structure State.Canonical (s : State) : Prop where
  mem : Memory.wf s.mem = true
  damage : swf {} s.damage = true
  cores : Family {} Core.Canonical s.cores
  ponds : Family {} Millpond.Canonical s.ponds
  memStacks : Family {} Stack.Canonical s.memStacks
  rowErrors : swf 0 s.rowErrors = true
  segCodes : swf 2 s.segCodes = true
  pages : swf {} s.pages = true
  links : Family {} Link.Canonical s.links
  hoppers : swf {} s.hoppers = true
  contexts : Family {} Context.Canonical s.contexts
  sessions : swf {} s.sessions = true
  domains : swf {} s.power.domains = true
  spots : swf {} s.power.spots = true
  reports : swf 0 s.dev.reports = true
  map : swf 256 s.dev.map = true
  routes : swf {} s.fabric.routes = true
  operators : swf {} s.sec.operators = true
  tableA : swf {} s.sec.tableA.slots = true
  tableB : swf {} s.sec.tableB.slots = true
  log : LogRising s.log s.logNext
  position : s.wheel.position < 2 ^ 64

/-! ## A frame that reaches its command

What R303, R305, R309 and R458 ask of a frame before the command it spells has its own effect. Protected or not, a frame first
passes MACsec: the states below are the ones after that, and the row answers so from every state that the port's admission leaves in
them. -/

/-- The row answers `t` wherever the port admits the frame and is then in `s` (R458). -/
def Runs (i : Instr) (f : Frame) (s t : State) : Prop :=
  ∀ s0 : State, s0.letIn f.path.secured = (s, true) → exec i s0 = .next t

/-- What goes out leaves as it is formed: the link is up, and no association protects what the port sends (R458, R483). -/
structure State.Clear (s : State) : Prop where
  up : s.dev.portUp = true
  clear : s.sec.transmits = none

/-- And no injection of INJECT.PORT meets a frame. -/
structure State.Plain (s : State) : Prop extends State.Clear s where
  injections : ∀ j ∈ s.injections, j.verb ≠ 2

/-- Memory reads as it was stored: no granule or block is lost, and no stack answers a read with another block. -/
structure State.Sound (s : State) : Prop where
  kept : ∀ e ∈ s.damage, e.2.lost = false
  straight : ∀ e ∈ s.memStacks, e.2.strays = []

/-- The memory `m'` is `m` with `data` written from key `a` on, and no other byte changed. -/
def Wrote (m : List Host.Cell) (a : Nat) (data : List Byte) (m' : List Host.Cell) : Prop :=
  ∀ k, memGet m' k = if a ≤ k ∧ k < a + data.length then byteAt data (k - a) else memGet m k

/-- `data` is the `n` bytes that the memory `m` holds from key `a` on. -/
def Holds (m : List Host.Cell) (a n : Nat) (data : List Byte) : Prop :=
  data.length = n ∧ ∀ i, i < n → data[i]? = some (memGet m (a + i))

/-- Every byte of a device range lies in a stack or in a scratchpad. -/
def State.stored (s : State) (a n : Nat) : Prop :=
  ∀ i, i < n → ∃ d, s.place (a + i) = .stack d ∨ s.place (a + i) = .scratch d

/-- The port takes the frame and no rule drops it; no injection of INJECT.PORT lies on its way or on the reply's, and no association
protects what the port sends. -/
structure Arrives (f : Frame) (s : State) : Prop where
  canonical : s.Canonical
  answers : s.answers = true
  admitted : ∃ s0 : State, s0.letIn f.path.secured = (s, true)
  accepts : s.accepts f = true
  plain : ∀ j ∈ s.injections, j.verb ≠ 2
  clear : s.sec.transmits = none
  sound : s.badFrame f = false

/-- The frame is the next command of its session, which holds no later frame and does not end with an earlier command. -/
structure Numbered (op : Nat) (f : Frame) (s : State) : Prop extends Arrives f s where
  kind : f.kind = 0
  opcode : f.opcode.toNat = op
  inSession : f.session ≠ 0
  number : f.number.toNat = (s.session f.session.toNat).next
  held : (s.session f.session.toNat).held = []
  stays : (s.session f.session.toNat).endAfter = none

/-- The steps 3 to 6 of R309 let the frame pass. -/
structure Delivered (op : Nat) (f : Frame) (s : State) : Prop extends Numbered op f s where
  privilege : privilegeCheck op f (s.session f.session.toNat) = none
  generation : generationCheck f (s.session f.session.toNat) s = none
  form : formCheck op f.payload = none

/-- The state in which a delivered command acts: its frame noted, and a place kept for its reply (R307, R316). -/
def State.noted (s : State) (f : Frame) : State :=
  (s.modSession f.session.toNat fun x => { x with lastFrame := s.uptime, path := f.path }).modSession f.session.toNat fun x =>
    { x with next := f.number.toNat + 1,
             kept := trimKept (x.kept ++ [{ number := f.number.toNat, matchCode := matchCode f, reply := none }]) }

/-- The command acts in `u`, in a session bound to context `c`, 255 for none. -/
structure Acts (op : Nat) (f : Frame) (s u : State) (c : Nat) : Prop where
  delivered : Delivered op f s
  state : u = s.noted f
  bound : (u.session f.session.toNat).context = c

/-- The command completes with the outcome `h`: its reply is sent and kept, at once or once the journal holds its effect (R313), or
later by an event of its own; and then a frame that was held for the next number would follow. -/
def Handles (i : Instr) (f : Frame) (s : State) (h : Handled) : Prop :=
  Runs i f s (((s.noted f).answer f.session.toNat f.number.toNat f.opcode.toNat h).takeHeld f.session.toNat 64)

/-- The context a frame's session is bound to, 255 for none. -/
def State.boundTo (s : State) (f : Frame) : Nat := (s.session f.session.toNat).context

/-- The frame of the reply `r` to the command frame `f`, with the generation `g`, as the device forms it in `s`. -/
def State.replyTo (s : State) (f : Frame) (g : Nat) (r : Reply) : OutFrame :=
  s.formed (replyFrame f.opcode.toNat f.session.toNat (s.boundTo f) g f.number.toNat 0 r.payload f.path)

/-- One frame went out between two states: the reply `r` to the command frame `f`. -/
def Replied (f : Frame) (r : Reply) (s t : State) : Prop :=
  t.out = s.out ++ [s.replyTo f (t.generationOf (s.boundTo f)) r]

/-- No session but the frame's own changed, and that one waits for the next number. -/
def OneSession (f : Frame) (s t : State) : Prop :=
  (t.session f.session.toNat).next = f.number.toNat + 1 ∧ ∀ i, i ≠ f.session.toNat → t.session i = s.session i

/-- The command completes: its next state is `t`, its reply `r` went out, and no other session changed. -/
def Serves (i : Instr) (f : Frame) (r : Reply) (s t : State) : Prop :=
  Runs i f s t ∧ Replied f r s t ∧ OneSession f s t

/-- The command completes with the effect that `t` shows; no frame goes out yet: the effect waits to be written to both journal
copies, and its reply `r` follows (R313). No other session changed. -/
def Effects (i : Instr) (f : Frame) (r : Reply) (s t : State) : Prop :=
  Runs i f s t ∧ t.out = s.out ∧
  t.journal = s.journal.awaits s.uptime f.session.toNat f.number.toNat f.opcode.toNat r ∧ OneSession f s t

/-- The command has written operator slot `slot`, and a copy of the table over the older one: its DONE waits for the journal; of the
sessions opened with the slot, the sender's ends after its reply and every other one with the notch (R453); no other changed. -/
def OperatorSet (f : Frame) (slot : Nat) (v : Operator) (s t : State) : Prop :=
  t.out = s.out ∧
  t.journal = s.journal.awaits s.uptime f.session.toNat f.number.toNat f.opcode.toNat {} ∧
  t.sec.operator slot = v ∧ (∀ i, i ≠ slot → t.sec.operator i = s.sec.operator i) ∧
  (t.sec.tableA = ⟨s.sec.operatorSequence + 1, t.sec.operators⟩ ∨ t.sec.tableB = ⟨s.sec.operatorSequence + 1, t.sec.operators⟩) ∧
  t.sec = { s.sec with operators := t.sec.operators, operatorSequence := s.sec.operatorSequence + 1,
                       tableA := t.sec.tableA, tableB := t.sec.tableB } ∧
  (∀ i, i ≠ f.session.toNat → (s.session i).isOpen = true → (s.session i).slot = slot →
    t.session i = { s.session i with ending := true }) ∧
  (∀ i, i ≠ f.session.toNat → ((s.session i).isOpen = false ∨ (s.session i).slot ≠ slot) → t.session i = s.session i) ∧
  (t.session f.session.toNat).endAfter = (if (s.session f.session.toNat).slot = slot then some f.number.toNat else none) ∧
  t = { s with sessions := t.sessions, journal := t.journal, sec := t.sec }

/-- Slot `j` of context `c` has a new record, and the last thing done was to write record and page list to its area again (R248). -/
def Rewrites (c j : Nat) (v : State) : Prop := ∃ w : State, v = w.writeSlot c j ∧ w.seq c j = v.seq c j

/-- Between two states only slot `j` of context `c` changed among the slots, and no other context. -/
def OneSlot (c j : Nat) (u v : State) : Prop :=
  (∀ i, i ≠ j → v.seq c i = u.seq c i) ∧ ∀ d, d ≠ c → v.context d = u.context d

/-! ## Rows of one kind -/

/-- The opcode and the frame of a host command. -/
def hostRow : Instr → Option (Nat × Frame)
  | .sessionHello f => some (0x0101, f)
  | .sessionOpen f => some (0x0102, f)
  | .sessionClose f => some (0x0103, f)
  | .planLoad f => some (0x0201, f)
  | .planUnload f => some (0x0202, f)
  | .runStep f => some (0x0301, f)
  | .runBook f => some (0x0302, f)
  | .runUnbook f => some (0x0303, f)
  | .seqArea f => some (0x0401, f)
  | .seqOpen f => some (0x0402, f)
  | .seqExtend f => some (0x0403, f)
  | .seqTrim f => some (0x0404, f)
  | .seqClose f => some (0x0405, f)
  | .ctxOpen f => some (0x0501, f)
  | .ctxClose f => some (0x0502, f)
  | .ctxReset f => some (0x0503, f)
  | .ctxSave f => some (0x0504, f)
  | .ctxRestore f => some (0x0505, f)
  | .memRead f => some (0x0601, f)
  | .memWrite f => some (0x0602, f)
  | .memSplit f => some (0x0603, f)
  | .pageMap f => some (0x0701, f)
  | .pageUnmap f => some (0x0702, f)
  | .pageRetire f => some (0x0703, f)
  | .segRecode f => some (0x0801, f)
  | .segRetire f => some (0x0802, f)
  | .quernMode f => some (0x0901, f)
  | .regRead f => some (0x0A01, f)
  | .regWrite f => some (0x0A02, f)
  | .logRead f => some (0x0B01, f)
  | .statusDevice f => some (0x0C01, f)
  | .statusContext f => some (0x0C02, f)
  | .timeSet f => some (0x0D01, f)
  | .timeSource f => some (0x0D02, f)
  | .fabricAddress f => some (0x0E01, f)
  | .fabricJoin f => some (0x0E02, f)
  | .fabricLeave f => some (0x0E03, f)
  | .fabricStatus f => some (0x0E04, f)
  | .fabricCopy f => some (0x0E05, f)
  | .fabricMigrate f => some (0x0E06, f)
  | .cascadeForm f => some (0x0F01, f)
  | .cascadeFollow f => some (0x0F02, f)
  | .cascadeLeave f => some (0x0F03, f)
  | .cascadeRun f => some (0x0F04, f)
  | .fwStatus f => some (0x1001, f)
  | .fwWrite f => some (0x1002, f)
  | .fwActivate f => some (0x1003, f)
  | .fwAuthorise f => some (0x1004, f)
  | .fwEnroll f => some (0x1005, f)
  | .fwRemove f => some (0x1006, f)
  | .fwMacsec f => some (0x1007, f)
  | .attestIdentity f => some (0x1101, f)
  | .attestReport f => some (0x1102, f)
  | .injectLink f => some (0x1201, f)
  | .injectPort f => some (0x1202, f)
  | .injectEcc f => some (0x1203, f)
  | .injectClear f => some (0x1204, f)
  | .injectStatus f => some (0x1205, f)
  | .powerDomain f => some (0x1301, f)
  | .powerPolicy f => some (0x1302, f)
  | .powerDoze f => some (0x1303, f)
  | .powerWake f => some (0x1304, f)
  | _ => none

/-- The core, class and opcode of a core instruction, and whether it ignores its Count (R89, R90, R234). -/
def coreRow : Instr → Option (Fin 240 × Nat × Nat × Bool)
  | .nop k => some (k, 0, 0, false)
  | .jump k => some (k, 0, 1, false)
  | .loop k => some (k, 0, 2, false)
  | .waitn k => some (k, 0, 3, false)
  | .fence k => some (k, 0, 4, true)
  | .halt k => some (k, 0, 5, true)
  | .mode k => some (k, 1, 0, false)
  | .loadstat k => some (k, 1, 1, false)
  | .pass k => some (k, 1, 2, false)
  | .ospass k => some (k, 1, 3, false)
  | .drain k => some (k, 1, 4, false)
  | .elem k => some (k, 1, 5, false)
  | .vld k => some (k, 2, 0, false)
  | .vst k => some (k, 2, 1, false)
  | .vfma k => some (k, 2, 2, false)
  | .vadd k => some (k, 2, 3, false)
  | .vmul k => some (k, 2, 4, false)
  | .vmax k => some (k, 2, 5, false)
  | .vmin k => some (k, 2, 6, false)
  | .vsfu k => some (k, 2, 7, false)
  | .vcvt k => some (k, 2, 8, false)
  | .vred k => some (k, 2, 9, false)
  | .sput k => some (k, 3, 0, false)
  | .swait k => some (k, 3, 1, false)
  | .ssig k => some (k, 3, 2, false)
  | .sidle k => some (k, 3, 3, false)
  | _ => none

/-! ## A core that decodes -/

/-- Logical core `k` decodes its block `b`, and nothing holds it. -/
structure Fetches (k : Fin 240) (b : Block) (s : State) : Prop where
  canonical : s.Canonical
  running : (s.core (s.physical k)).state = .running
  decodes : (s.core (s.physical k)).halted = false
  free : (s.core (s.physical k)).wait = .none
  stays : (s.core (s.physical k)).stopToldAt = none
  unpaused : s.paused = false
  block : (s.core (s.physical k)).block = some b

/-- The instruction `w` of a class and opcode is at the pc of core `k`. -/
structure Meets (k : Fin 240) (cls op : Nat) (w : CoreWord) (s : State) : Prop where
  fetches : ∃ b, Fetches k b s ∧ b.instrs[(s.core (s.physical k)).pc]? = some w
  cls : wClass w = cls
  op : wOp w = op

/-- It is one that issues: its Count is neither zero nor all ones. -/
structure Issues (k : Fin 240) (cls op : Nat) (w : CoreWord) (s : State) : Prop extends Meets k cls op w s where
  some_ : wCount w ≠ 0
  few : wCount w ≠ 0xFFFFFF

/-- Only core `k` differs between two states, and in the second it is `x`. -/
def OnlyCore (k : Fin 240) (s t : State) (x : Core) : Prop :=
  t.core (s.physical k) = x ∧ (∀ p, p ≠ s.physical k → t.core p = s.core p) ∧ t = { s with cores := t.cores }

/-- A core after an instruction of its array (bit 0), vector (1) or stream (2) queue: that queue is not empty, and the next
instruction follows. -/
def Core.went (x : Core) (q : Nat) : Core := { x with queues := x.queues ||| 2 ^ q, pc := x.pc + 1, wait := .none }

/-- Register `r` of core `k` holds `f i` in every lane `i` of the slices that `w` masks; all else of it is as before. -/
def Lanes (k : Fin 240) (w : CoreWord) (r : Nat) (f : Nat → Word) (s t : State) : Prop :=
  let x := s.core (s.physical k)
  ∃ y, OnlyCore k s t y ∧ y = { x.went 1 with vregs := y.vregs } ∧
    (∀ i, i < 512 → y.lane r i = if bit (wMask w) (i / 32) then f i else x.lane r i) ∧
    ∀ q i, q ≠ r → i < 512 → y.lane q i = x.lane q i

end Sys2Proof.Machine
end

