-- ==== Sys2Proof/Certificates/Slice0/Obligations.lean ====
section
/-! DEFINITION. The statements of this model for the provers. A statement about a command says that its meaning answers a
next state, what that state holds, and that nothing else changed: the last conjunct lists the only fields that may differ. -/

open Sys2Proof Sys2Proof.Machine

/-! ## The block -/

/-- A step with a command waiting is the meaning of the command at the front, with the rest of the queue waiting. -/
def Obligations.StepRunsTheFrontCommand : Prop :=
  ∀ (i : Instr) (rest : List Instr) (s : State),
    step { s with pending := i :: rest } = exec i { s with pending := rest }

/-- With no command waiting one notch passes (assumption log 1, the model's choice): the wheel, a count of 64 bits
(R27), advances by one, and so does the count of notches; a device without power only counts. -/
def Obligations.AnEmptyQueuePassesANotch : Prop :=
  ∀ s : State, s.pending = [] →
    ∃ t, step s = .next t ∧ t.pending = [] ∧ t.uptime = s.uptime + 1 ∧
      t.wheel.position = (if s.dev.state = .off then s.wheel.position else (s.wheel.position + 1) % 2 ^ 64)

/-- Every command answers a next state in every state, never a fault or a refusal; and its meaning leaves the queue to the
step. -/
def Obligations.EveryCommandAnswersANextState : Prop :=
  (∀ (i : Instr) (s : State), ∃ t, exec i s = .next t) ∧
  (∀ (i : Instr) (s t : State), s.Canonical → exec i s = .next t → t.pending = s.pending)

/-- The invariant of the model: memory and every family of parts keep their canonical form, the log its consecutive numbers and its
16,384 places (R394, R395), the wheel its 64 bits, every replay buffer of a link its 256 flits (R283), every channel its 16 queued
descriptors (R215). -/
def Obligations.EveryStepKeepsTheStateCanonical : Prop :=
  ∀ s t : State, s.Canonical → step s = .next t → t.Canonical

def Obligations.ResetIsCanonical : Prop := State.reset.Canonical

/-- The device as a cold start begins: in STAGING at S0, the wheel UNSET at 0, every context FREE, no session, no log record,
no register's trouble bit set (the reset column of the register tables). That the state after reset is this one, and no other start,
is the model's choice (assumption log 8), and so is that a step of it, with no command waiting, lets one notch pass (log 1). -/
def Obligations.ResetBeginsAColdStart : Prop :=
  State.reset.dev.state = .staging ∧ State.reset.dev.stage = 0 ∧ State.reset.wheel.state = .unset ∧
  State.reset.wheel.position = 0 ∧ (∀ c, State.reset.ctxState c = .free) ∧ State.reset.sessions = [] ∧
  State.reset.log = [] ∧ (∀ r, State.reset.trouble r = 0) ∧ State.reset.pending = [] ∧
  step State.reset = .next State.reset.passNotch

/-! ## Sessions (R305 to R308, R316, R454) -/

/-- SESSION.HELLO, outside any session: the newest of at most 16 challenges, and the reply with its data. SESSION.OPEN with a
credential that an enrolled operator's key signed over a challenge that the device holds: a new session with the number, privilege,
limits, context and keys asked for, expecting command 1; the challenge is used up. One with the device key and an authorisation that
the factory key signed opens it as operator 0 of a table that holds only the new key; every session opened before is to end with the
notch. -/
def Obligations.SessionsAreOpened : Prop :=
  (∀ (f : Frame) (s : State) (e : Challenge), Arrives f s → f.kind = 0 → f.opcode = 0x0101 → f.session = 0 →
    formCheck 0x0101 f.payload = none → s.helloAllowed = true → s.freshChallenge = e →
    ∃ t, Runs (.sessionHello f) f s t ∧
      t.out = s.out ++ [s.formed (replyFrame 0x0101 0 f.context.toNat 0 0 0
        ({ data := s.sec.helloData e } : Reply).payload f.path)] ∧
      t.sec = { s.sec with
        hellos := s.sec.hellos + 1, challenges := (e :: s.sec.challenges).take 16, helloRound := s.now / 1024
        hellosThisRound := if s.sec.helloRound = s.now / 1024 then s.sec.hellosThisRound + 1 else 1 } ∧
      t = { s with out := t.out, sec := t.sec }) ∧
  (∀ (f : Frame) (s : State), Arrives f s → f.kind = 0 → f.opcode = 0x0102 → f.session = 0 →
    formCheck 0x0102 f.payload = none →
    ∀ p c slot e, f.payload = p → le p 0 1 = c → le p 16 1 = slot →
    (c ≤ 63 ∨ (c = 255 ∧ le p 1 1 = 1)) → le p 1 1 ≤ 1 → 1024 ≤ le p 2 2 → le p 2 2 ≤ 8704 →
    1048576 ≤ le p 4 4 → le p 4 4 ≤ 1073741824 → slot ≤ 15 → s.challengeOf (slice p 20 32) = some e →
    (le p 8 2 = 296 → le p 17 1 = 0 → (s.sec.operator slot).used = true →
      s.credentialSigned p (s.sec.operator slot).key = true → le p 1 1 ≤ (s.sec.operator slot).ceiling →
      (c = 255 ∨ (s.sec.operator slot).mask.getLsbD c = true) → s.openSessions < 256 →
      ∃ t, Runs (.sessionOpen f) f s t ∧
        t.session s.nextSession =
          { isOpen := true, context := c, management := decide (le p 1 1 = 1), maxPayload := le p 2 2, idleTimeout := le p 4 4,
            lastFrame := s.uptime, slot := slot, path := f.path, openedOrder := s.nextSession, next := 1,
            tagKey := (sessionKeys e.bytes e.secret (slice p 52 97)).take 32,
            wrapKey := (sessionKeys e.bytes e.secret (slice p 52 97)).drop 32 } ∧
        t.nextSession = s.nextSession + 1 ∧ (∀ i, i ≠ s.nextSession → t.session i = s.session i) ∧
        t.sec = { s.sec with challenges := s.sec.challenges.filter (· != e) } ∧
        t.out = s.out ++ [s.formed (replyFrame 0x0102 0 f.context.toNat 0 0 0
          ({ data := leBytes 4 s.nextSession ++ leBytes 2 (s.generationOf c) ++ zeros 2 ++
               leBytes 8 ((s.stream c).sentThrough + 1) } : Reply).payload f.path)] ∧
        t = { s with out := t.out, sec := t.sec, sessions := t.sessions, nextSession := t.nextSession }) ∧
    (le p 8 2 = 552 → le p 17 1 = 1 → s.authorised p 312 2 s.sec.operatorSequence = true →
      s.credentialSigned p (slice p 344 97) = true →
      ∃ t, Runs (.sessionOpen f) f s t ∧ (t.session s.nextSession).isOpen = true ∧ (t.session s.nextSession).slot = 0 ∧
        (t.session s.nextSession).context = c ∧ (t.session s.nextSession).ending = false ∧ t.nextSession = s.nextSession + 1 ∧
        (∀ i, i ≠ s.nextSession → (s.session i).isOpen = true → t.session i = { s.session i with ending := true }) ∧
        t.sec.operator 0 = { used := true, ceiling := 1, mask := BitVec.ofNat 64 (2 ^ 64 - 1), key := slice p 344 97 } ∧
        (∀ i, i ≠ 0 → (t.sec.operator i).used = false) ∧ t.sec.operatorSequence = s.sec.operatorSequence + 1 ∧
        t = { s with out := t.out, sec := t.sec, sessions := t.sessions, nextSession := t.nextSession }))

/-- SESSION.CLOSE: the reply goes out, and the session has ended; no context and no command is touched. A session whose last
authenticated frame is its idle timeout old ends, and only it; one that is to end with the notch has ended after it. A frame held
out of order for 1,024 notches is discarded; the others stay held. -/
def Obligations.SessionsEnd : Prop :=
  (∀ (f : Frame) (s : State), Delivered 0x0103 f s →
    ∃ t, Runs (.sessionClose f) f s t ∧ Replied f {} s t ∧ (t.session f.session.toNat).isOpen = false ∧
      (∀ i, i ≠ f.session.toNat → t.session i = s.session i) ∧ t = { s with out := t.out, sessions := t.sessions }) ∧
  (∀ (sid : Nat) (s : State), s.Canonical → (s.session sid).isOpen = true →
    (s.session sid).lastFrame + (s.session sid).idleTimeout ≤ s.uptime →
    ∃ t, exec (.sessionIdleTimeout sid) s = .next t ∧ (t.session sid).isOpen = false ∧
      (∀ i, i ≠ sid → t.session i = s.session i) ∧ t = { s with sessions := t.sessions }) ∧
  (∀ (sid : Nat) (s : State), s.Canonical → s.dev.state ≠ .off → (s.session sid).ending = true → s.pending = [] →
    ∃ t, step s = .next t ∧ (t.session sid).isOpen = false) ∧
  (∀ (sid n : Nat) (s : State), s.Canonical →
    ∃ t, exec (.heldFrameExpiry sid n) s = .next t ∧
      (t.session sid).held = (s.session sid).held.filter (fun h => !(h.1.number.toNat == n && decide (1024 + h.2 ≤ s.uptime))) ∧
      (∀ i, i ≠ sid → t.session i = s.session i) ∧ t = { s with sessions := t.sessions })

/-! ## Reading the device (R41, R333, R334, R394, R395) -/

/-- STATUS.DEVICE, STATUS.CONTEXT, LOG.READ, ATTEST.IDENTITY and ATTEST.REPORT reply with their data and change nothing. -/
def Obligations.ReadsChangeNothing : Prop :=
  (∀ (f : Frame) (s : State), Delivered 0x0C01 f s →
    ∃ t, Serves (.statusDevice f) f { data := s.statusData } s t ∧ t = { s with out := t.out, sessions := t.sessions }) ∧
  (∀ (f : Frame) (s : State) (c : Nat), Delivered 0x0C02 f s → le f.payload 0 1 = c →
    (c = 255 ∨ (c ≤ 63 ∧ s.ctxState c ≠ .free)) →
    ∃ t, Serves (.statusContext f) f { data := s.contextData c } s t ∧ t = { s with out := t.out, sessions := t.sessions }) ∧
  (∀ (f : Frame) (s : State) (first n : Nat), Delivered 0x0B01 f s → le f.payload 0 8 = first → le f.payload 8 2 = n →
    1 ≤ n → n ≤ 64 → 64 * n + 56 ≤ (s.session f.session.toNat).maxPayload → s.oldestRecord ≤ first → first + n ≤ s.logNext →
    ∃ t, Serves (.logRead f) f { data := leBytes 8 s.oldestRecord ++ leBytes 8 (s.logNext - 1) ++
        (((s.log.drop (first - s.oldestRecord)).take n).flatMap fun r =>
          r.bytes (hiddenFrom (s.session f.session.toNat) r)) } s t ∧
      t = { s with out := t.out, sessions := t.sessions }) ∧
  (∀ (f : Frame) (s : State), Delivered 0x1101 f s → legalDevice 0x1101 s = none →
    ∃ t, Serves (.attestIdentity f) f { data := s.sec.certificate } s t ∧
      t = { s with out := t.out, sessions := t.sessions }) ∧
  (∀ (f : Frame) (s u : State) (c : Nat), Acts 0x1102 f s u c → legalDevice 0x1102 u = none →
    Handles (.attestReport f) f s (.reply
      { data := u.reportBody f.payload ++ dikSign u.sec.dik (u.reportBody f.payload) } u))

/-- REG.READ returns a snapshot of its registers; a read that covers WHEEL.PositionLo latches WHEEL.PositionHi and shows it. -/
def Obligations.RegReadIsASnapshot : Prop :=
  ∀ (f : Frame) (s : State) (a n : Nat), Delivered 0x0A01 f s → le f.payload 0 4 = a → le f.payload 4 2 = n →
    1 ≤ n → n ≤ 256 → 4 * n + 40 ≤ (s.session f.session.toNat).maxPayload → a % 4 = 0 → firstUnmappedReg a n = none →
    s.dev.state ≠ .latched →
    (a ≤ 0x100000 ∧ 0x100000 < a + 4 * n →
      ∃ t, Serves (.positionLoRead f) f { data := (s.latchPosition a n).regBytes a n } s t ∧ Runs (.regRead f) f s t ∧
        t.wheel = { s.wheel with latchedHi := BitVec.ofNat 32 (s.wheel.position / 2 ^ 32) } ∧
        t = { s with out := t.out, sessions := t.sessions, wheel := t.wheel }) ∧
    (¬(a ≤ 0x100000 ∧ 0x100000 < a + 4 * n) →
      ∃ t, Serves (.regRead f) f { data := s.regBytes a n } s t ∧ t = { s with out := t.out, sessions := t.sessions })

/-! ## Plans, runs and bookings (R46, R312, R330, R331, R346 to R349, R352) -/

/-- PLAN.LOAD reads its container through the context's grant and stages a command with the plan it holds; PLAN.UNLOAD takes
a plan that no command uses out of its context, and changes nothing else: its reply waits for the journal. CTX.SAVE and
CTX.RESTORE of an image that fits are staged; the work itself is done at completion. A container or image in a bank or a Millpond that
is held is read later. -/
def Obligations.PlansAndImagesAreStaged : Prop :=
  (∀ (f : Frame) (s u v : State) (c a n : Nat) (data : List Byte) (p : Plan), Acts 0x0201 f s u c → le f.payload 0 8 = a →
    le f.payload 8 8 = n → 0 < n → n ≤ 268435456 → a % 64 = 0 → u.planOutside c a n = false → u.windowRefusal a n = none →
    u.accessHeld a n = false → u.readDevice {} a n = (v, data, none) → le data 8 8 = n → parsePlan data (v.against c) = .inr p →
    firstFailing (planChecks c p v) = none →
    Handles (.planLoad f) f s (.later (v.stage
      { stream := c, session := f.session.toNat, number := f.number.toNat, answer := true,
        cmd := { opcode := 0x0201, frame := f, plan := some p, address := a, count := n, acceptedAt := v.now } }))) ∧
  (∀ (i : Instr) (f : Frame) (s u : State) (c op a n : Nat), (i = .planLoad f ∧ op = 0x0201 ∧ 0 < n ∧ n ≤ 268435456) ∨
      (i = .ctxRestore f ∧ op = 0x0505 ∧ 64 ≤ n ∧ n ≤ imageLimit) → Acts op f s u c → le f.payload 0 8 = a → le f.payload 8 8 = n →
    a % 64 = 0 → u.planOutside c a n = false → u.windowRefusal a n = none → u.accessHeld a n = true →
    Handles i f s (.later { u with journal := { u.journal with readWaits := u.journal.readWaits ++ [f] } })) ∧
  (∀ (f : Frame) (s : State) (c id : Nat), Delivered 0x0202 f s → s.boundTo f = c → le f.payload 0 8 = id →
    legal 0x0202 c s = none → (s.plan c id).isSome = true → s.planInUse c id = false →
    ∃ t, Effects (.planUnload f) f {} s t ∧ (t.context c).plans = (s.context c).plans.filter (·.id != id) ∧
      t = { (s.modContext c fun x => { x with plans := x.plans.filter (·.id != id) }) with
              sessions := t.sessions, journal := t.journal }) ∧
  (∀ (f : Frame) (s u : State) (c a room : Nat), Acts 0x0504 f s u c → le f.payload 0 8 = a → le f.payload 8 8 = room →
    0 < room → room < 18446744073709551615 → u.imageLength c ≤ room → a % 64 = 0 → u.firstUnmapped a (u.imageLength c) = none →
    u.inFailedStack a (u.imageLength c) = false → u.firstForeign c a (u.imageLength c) true = none → legal 0x0504 c u = none →
    (∀ k ∈ u.grantCores c, (u.imageRegions c k).length ≤ 16) → flowCheck c u = none →
    Handles (.ctxSave f) f s (.later (u.stage
      { stream := c, session := f.session.toNat, number := f.number.toNat, answer := true,
        cmd := { opcode := 0x0504, frame := f, address := a, count := room, acceptedAt := u.now } }))) ∧
  (∀ (f : Frame) (s u v : State) (c a n : Nat) (data : List Byte) (l : List CoreRecord), Acts 0x0505 f s u c →
    le f.payload 0 8 = a → le f.payload 8 8 = n → 64 ≤ n → n ≤ imageLimit → a % 64 = 0 → u.planOutside c a n = false → u.windowRefusal a n = none →
    u.accessHeld a n = false → u.readDevice {} a n = (v, data, none) → imageRecords data = some l → firstFailing (restoreChecks c l v) = none →
    Handles (.ctxRestore f) f s (.later (v.stage
      { stream := c, session := f.session.toNat, number := f.number.toNat, answer := true,
        cmd := { opcode := 0x0505, frame := f, address := a, count := n, acceptedAt := v.now } })))

/-- RUN.STEP that admission places: Booked length of each slot it names goes up by its append, other slots and contexts stay, and
its record waits for the journal. When both copies hold the record, the command enters its stream under the next number, booked, or
queued for FILLER, and the session that sent it has the reply; the wait for the next record begins. A record that was not written is
taken back: no command enters, Booked length is what it was, and the reply is REFUSED.JOURNAL. An immediate command's reply goes out
when both copies hold its effect (R313), and what takes effect with the reply of FW.MACSEC, RUN.BOOK or an
INJECT command does so then (R348, R458, R461). -/
def Obligations.StepsAreAdmittedAndJournaled : Prop :=
  (∀ (f : Frame) (s u v : State) (c : Nat) (q : StepParams) (m : Cmd), Acts 0x0301 f s u c → stepParams f.payload = q →
    0 < q.count → firstFailing (stepForm c 0 q u ++ stepState c q u ++ [flowCheck c u]) = none → u.judge c f q = .inr m →
    u.appendBooked c m.slots m.append = some v →
    Handles (.runStep f) f s (.later (v.stage
      { stream := c, cmd := m, session := f.session.toNat, number := f.number.toNat,
        groupsBefore := u.groupsNow c m.slots, answer := true })) ∧
    (∀ j, (v.seq c j).booked = (s.seq c j).booked + m.slots.count j * m.append) ∧
    (∀ j, j ∉ m.slots → v.seq c j = s.seq c j) ∧ (∀ d, d ≠ c → v.context d = s.context d)) ∧
  (∀ (s : State) (x : Staged) (l : List Staged) (sid b : Nat), s.Canonical → s.journal.effectDue = none →
    s.journal.staging = x :: l → x.cmd.opcode = 0x0301 → x.cmd.forwarded = none → x.answer = true →
    s.Plain → x.stream < 64 → x.session = sid → (s.session sid).isOpen = true →
    (s.session sid).context = b →
    (∃ t, exec (.journalWriteAck true) s = .next t ∧ (t.stream x.stream).next = (s.stream x.stream).next + 1 ∧
      (∃ m : Cmd, (t.stream x.stream).cmds = (s.stream x.stream).cmds ++ [m] ∧
        m = { x.cmd with csn := (s.stream x.stream).next, phase := m.phase, actions := m.actions } ∧
        (x.cmd.cls ≠ 2 → m.phase = .booked ∧ t.schedule = s.schedule) ∧
        (x.cmd.cls = 2 → m.phase = .queued ∧
          t.schedule = { s.schedule with fillers := s.schedule.fillers ++ [(x.stream, (s.stream x.stream).next)] }) ∧
        t.out = s.out ++ [s.formed (replyFrame 0x0301 sid b (s.generationOf b) x.number 0
          (m.acceptance s.fillersWaiting).payload (s.session sid).path)]) ∧
      t.journal = { s.unstage.journal with staging := t.journal.staging } ∧
      t.journal.staging.map (fun y => { y with groupsBefore := [] }) = l.map (fun y => { y with groupsBefore := [] }) ∧
      (∀ d, d ≠ x.stream → t.context d = s.context d) ∧
      t = { s with contexts := t.contexts, schedule := t.schedule, journal := t.journal, out := t.out, sessions := t.sessions }) ∧
    (x.groupsBefore.map (·.1) = x.cmd.slots →
      ∃ t, exec (.journalWriteAck false) s = .next t ∧ (∀ d, t.stream d = s.stream d) ∧
        (∀ j, (t.seq x.stream j).booked = (s.seq x.stream j).booked - x.cmd.slots.count j * x.cmd.append) ∧
        t.out = s.out ++ [s.formed (replyFrame 0x0301 sid b (s.generationOf b) x.number 0
          (refuse Status.journal).payload (s.session sid).path)] ∧
        t.journal.staging.map (fun y => { y with groupsBefore := [] }) = l.map (fun y => { y with groupsBefore := [] }))) ∧
  (∀ (s : State) (e : Effect) (l : List Effect), s.Canonical → s.journal.effects = e :: l →
    (e.behind = 0 ∨ s.journal.staging = []) → s.Plain → (s.session e.session).isOpen = true →
    (s.session e.session).endAfter ≠ some e.number →
    ∃ t, exec (.journalWriteAck true) s = .next t ∧
      t.out = s.out ++ [s.formed (replyFrame e.opcode e.session (s.session e.session).context
        (s.generationOf (s.session e.session).context) e.number 0 e.payload (s.session e.session).path)] ∧
      t.journal = { s.journal with effects := l, waitingSince := s.uptime } ∧
      (e.opcode ∉ [0x0302, 0x1007, 0x1201, 0x1202, 0x1203, 0x1303] →
        t = { s with journal := t.journal, out := t.out, sessions := t.sessions }) ∧
      (∀ b, e.opcode = 0x1007 → s.sec.requireDue = [(e.session, e.number, b)] →
        t.sec = { s.sec with required := b, requireDue := [] } ∧
        t = { s with journal := t.journal, out := t.out, sessions := t.sessions, sec := t.sec }) ∧
      (e.opcode = 0x0302 →
        t.schedule.bookings = (s.schedule.bookings.map fun b => if b.due = some (e.session, e.number) then { b with due := none } else b) ∧
        t = { s with journal := t.journal, out := t.out, sessions := t.sessions, schedule := t.schedule }) ∧
      (e.opcode = 0x1201 ∨ e.opcode = 0x1202 ∨ e.opcode = 0x1203 →
        t.injections = (s.injections.map fun j =>
          if j.waiting = some e.number ∧ j.session = e.session then { j with waiting := none, armedAt := s.uptime } else j) ∧
        t = { s with journal := t.journal, out := t.out, sessions := t.sessions, injections := t.injections }))

/-- Admission keeps its word on the record it returns: a command that is not FILLER has a promise that is its projected start,
its ramp-in and its duration, and a timeout after that; none is placed over the power cap, nor past the latest promise. -/
def Obligations.AdmissionPromisesWhatItBooks : Prop :=
  ∀ (s : State) (c : Nat) (f : Frame) (q : StepParams) (m : Cmd), s.judge c f q = .inr m →
    m.opcode = 0x0301 ∧ m.planId = q.plan ∧ m.slots = q.slots ∧ m.append = q.append ∧
    (q.cls = 2 → m.phase = .queued ∧ m.promise = 0) ∧
    (q.cls ≠ 2 → m.phase = .booked ∧ s.wheel.state ≠ .unset ∧ m.draw ≤ s.powerCap ∧
      m.promise = s.projected m.start + m.rampIn + m.duration ∧ m.original = m.promise ∧
      m.timeout = m.promise + max m.duration 65536 ∧ (q.latest ≠ 0 → m.promise ≤ q.latest))

/-- RUN.BOOK that conflicts with nothing and stays below the cap: a booking under the next number, which commands may name from the
reply on; the reply, which waits for the journal, tells its number, lead and last start. RUN.UNBOOK leaves a booking exactly the occurrences that hold a command, and none if
there is none; other bookings that stand whole stay. A booking whose last occurrence is over goes. -/
def Obligations.BookingsAreMadeAndTaken : Prop :=
  (∀ (f : Frame) (s u : State) (c : Nat) (p : List Byte) (b : Booking), Acts 0x0302 f s u c → f.payload = p →
    b = { id := s.schedule.nextBooking, context := le p 0 1, hoppers := le p 1 1, quarters := le p 2 2, shares := le p 4 4,
          draw := le p 8 2, period := le p 12 4, span := le p 16 4, count := le p 20 4, first := u.scheduled (le p 24 8),
          lead := bookingLead (le p 8 2), slip0 := u.schedule.slip.total,
          due := some (f.session.toNat, f.number.toNat) } →
    0 < b.span → 0 < b.count → 1024 ≤ b.period → b.period ≤ 67108864 → b.span + b.lead ≤ b.period → b.span < 4294967295 →
    b.count < 4294967295 → b.context ≤ 63 → b.hoppers ≤ 15 → 320 ≤ b.draw → b.draw ≤ 2400 →
    u.now + 16 ≤ le p 24 8 → le p 24 8 ≤ u.now + 67108864 → legalDevice 0x0302 u = none →
    (u.ctxState b.context = .open ∨ u.ctxState b.context = .loaded ∨ u.ctxState b.context = .active) →
    (∀ k, k < b.count → u.bookingOverCap b k = false ∧ u.bookingClash b k = 0) →
    (u.schedule.bookings.filter fun x => x.only.isNone && !u.bookingOver x).length < 256 →
    ∃ t, Effects (.runBook f) f
        { data := leBytes 4 b.id ++ leBytes 4 b.lead ++ leBytes 8 (le p 24 8 + (b.count - 1) * b.period) } s t ∧
      t.schedule = { s.schedule with bookings := s.schedule.bookings ++ [b], nextBooking := s.schedule.nextBooking + 1 } ∧
      t = { s with schedule := t.schedule, sessions := t.sessions, journal := t.journal }) ∧
  (∀ (f : Frame) (s u : State) (c n : Nat), Acts 0x0303 f s u c → le f.payload 0 4 = n → (u.booking n).isSome = true →
    legalDevice 0x0303 u = none →
    ∃ t, Effects (.runUnbook f) f {} s t ∧ t.schedule = { s.schedule with bookings := t.schedule.bookings } ∧
      (∀ b ∈ t.schedule.bookings, b.only ≠ some []) ∧
      (∀ b ∈ t.schedule.bookings, b.id = n → ∃ l, b.only = some l ∧
        ∀ k ∈ l, ∃ e ∈ s.bookedCmds, e.2.booking = n ∧ e.2.occurrence = some k) ∧
      (∀ b ∈ s.schedule.bookings, b.id = n → ∀ e ∈ s.bookedCmds, ∀ k, e.2.booking = n → e.2.occurrence = some k → k < b.count →
        ∃ b' ∈ t.schedule.bookings, ∃ l, b' = { b with only := some l } ∧ k ∈ l) ∧
      (∀ b ∈ s.schedule.bookings, b.id ≠ n → b.only = none → b ∈ t.schedule.bookings) ∧
      t = { s with schedule := t.schedule, sessions := t.sessions, journal := t.journal }) ∧
  (∀ (s : State) (n : Nat) (b : Booking), b ∈ s.schedule.bookings → b.id = n → s.bookingOver b = true →
    exec (.bookingExpiry n) s =
      .next { s with schedule := { s.schedule with bookings := s.schedule.bookings.filter (·.id != n) } })

/-! ## Sequences (R248, R250, R252, R259, R260) -/

/-- SEQ.AREA gives a context with no open slot a new area: every slot free, its record and list entries rewritten. SEQ.OPEN opens a
slot with the record it carries. SEQ.EXTEND raises Groups to what a length needs and gives each missing group a page in every lane;
all or none: a pool too short is refused with nothing done. SEQ.TRIM sets Length and Booked length, and the groups above go with
their pages; SEQ.CLOSE frees the slot and its pages. The four write the slot's record and list to the area again; other slots and
contexts stay. -/
def Obligations.SequencesKeepTheirSlots : Prop :=
  (∀ (f : Frame) (s u v : State) (c : Nat) (p : List Byte) (a : SeqArea), Acts 0x0401 f s u c → f.payload = p →
    a = { base := le p 0 8, capacity := le p 8 4, stride := le p 12 4, poolFirst := le p 16 2, poolCount := le p 18 2 } →
    0 < a.capacity → a.capacity ≤ 65536 → a.stride ≤ 1048576 → a.poolFirst ≤ 1023 → a.poolFirst + a.poolCount ≤ 1024 →
    a.base % 64 = 0 → legal 0x0401 c u = none → (∀ e ∈ (u.context c).seqs, e.2.isOpen = false) →
    (u.grant c).holdsScratch a.base (64 * a.capacity + 4 * a.stride * a.capacity) = true →
    (∀ g, a.poolFirst ≤ g → g < a.poolFirst + a.poolCount → (u.grant c).holdsSegment g = true) →
    (u.areaSums c).1 + a.capacity ≤ 65536 → (u.areaSums c).2 + a.capacity * a.stride ≤ 134217728 →
    v = ((u.modContext c fun x => { x with area := some a, seqs := [] }).writeOwn a.base (zeros (64 * a.capacity))).writeOwn
      (a.base + 64 * a.capacity) ((List.replicate (a.capacity * a.stride) (leBytes 4 0xFF000000)).flatten) →
    Handles (.seqArea f) f s (.reply {} v) ∧ (v.context c).area = some a ∧ (∀ j, (v.seq c j).isOpen = false) ∧
      (∀ d, d ≠ c → v.context d = u.context d)) ∧
  (∀ (f : Frame) (s u : State) (c j : Nat) (p : List Byte) (r : SeqSlot), Acts 0x0402 f s u c → f.payload = p →
    le p 0 4 = j → seqRecord p = r → j < (u.context c).capacity → badRecord p r (u.context c).stride = none →
    legal 0x0402 c u = none → (u.seq c j).isOpen = false →
    (r.home = 2 → (u.pseudo r.stack r.pc).mode = .compute ∧ (u.pseudo r.stack r.pc).context = c ∧ quernRows r u = none) →
    ∃ v, Handles (.seqOpen f) f s (.reply {} v) ∧ v.seq c j = r ∧ OneSlot c j u v ∧ Rewrites c j v) ∧
  (∀ (f : Frame) (s u : State) (c j n groups : Nat), Acts 0x0403 f s u c → le f.payload 0 4 = j → le f.payload 4 4 = n → 0 < n →
    n ≤ 1048576 → j < (u.context c).capacity → legal 0x0403 c u = none → (u.seq c j).isOpen = true → n ≤ (u.seq c j).limit →
    (u.seq c j).groupsFor n = groups →
    (∀ v, u.grow c j groups = some v →
      Handles (.seqExtend f) f s (.reply {} (v.modStagedGroups c fun i g => if i = j then max g groups else g)) ∧
      v.seq c j = { u.seq c j with groups := max (u.seq c j).groups groups, list := (v.seq c j).list } ∧
      (∀ g lane, (u.seq c j).groups ≤ g → g < groups → lane < (u.seq c j).lanes → ∀ a, (u.context c).area = some a →
        sget 0 (v.seq c j).list (lane * (a.stride / (u.seq c j).lanes) + g) ≠ 0) ∧
      OneSlot c j u v ∧ Rewrites c j v) ∧
    (u.grow c j groups = none → Handles (.seqExtend f) f s (.reply (refuse Status.capacity) u))) ∧
  (∀ (f : Frame) (s u v w : State) (c j n : Nat) (gone : List (Nat × Nat)), Acts 0x0404 f s u c → le f.payload 0 4 = j →
    le f.payload 4 4 = n → n < 4294967295 → j < (u.context c).capacity → legal 0x0404 c u = none → (u.seq c j).isOpen = true →
    n ≤ (u.seq c j).length → u.named c j = false →
    (u.seq c j).above (u.context c).stride ((u.seq c j).groupsFor n) = gone →
    u.dropEntries c j ((u.seq c j).groupsFor n) gone = v →
    v.modSeq c j (fun r => { r with length := n, booked := n }) = w → (∀ g ∈ gone, w.pageInUse g.2 = false) →
    Rewrites c j w ∧
    ∃ t, Handles (.seqTrim f) f s (.reply {} t) ∧ t = (gone.map (·.2)).foldl State.unmapPage w ∧
      t.seq c j = { u.seq c j with
        length := n, booked := n, groups := min (u.seq c j).groups ((u.seq c j).groupsFor n), list := (t.seq c j).list } ∧
      (∀ g ∈ gone, (t.seq c j).entry g.1 = noPage ∧ (t.page g.2).mapped = false) ∧ OneSlot c j u t) ∧
  (∀ (f : Frame) (s u v : State) (c j : Nat) (pages : List Nat), Acts 0x0405 f s u c → le f.payload 0 4 = j →
    j < (u.context c).capacity → legal 0x0405 c u = none → (u.seq c j).isOpen = true → u.named c j = false →
    ((u.seq c j).list.map fun e => e.2 - 1) = pages → u.modSeq c j (fun _ => {}) = v → (∀ g ∈ pages, v.pageInUse g = false) →
    Rewrites c j v ∧
    ∃ t, Handles (.seqClose f) f s (.reply {} t) ∧ t = pages.foldl State.unmapPage v ∧ t.seq c j = {} ∧
      (∀ g ∈ pages, (t.page g).mapped = false) ∧ OneSlot c j u t)

/-- A slot grows by a page of its context's pool: the lowest free page of the pool segments whose bank field differs from those of its
lane's last three groups, and where there is none the lowest free page; lane after lane for each new group. No page but it changes. -/
def Obligations.GrowthTakesAFreePage : Prop :=
  (∀ (s t : State) (c j g lane : Nat) (a : SeqArea), s.Canonical → s.growLane c j a g lane = some t →
    let free (q : Nat) : Prop := 16384 * a.poolFirst ≤ q ∧ q < 16384 * (a.poolFirst + a.poolCount) ∧ (s.page q).mapped = false ∧
      s.pageBarred q = false
    let apart (q : Nat) : Prop := ∀ h, h < g → g ≤ h + 3 →
      (s.seq c j).entry (lane * (a.stride / (s.seq c j).lanes) + h) % 64 ≠ q % 64
    ∃ p, ((apart p ∧ ∀ q, q < p → free q → ¬ apart q) ∨ ((∀ q, free q → ¬ apart q) ∧ ∀ q, q < p → ¬ free q)) ∧
      (s.page p).mapped = false ∧ s.pageBarred p = false ∧ 16384 * a.poolFirst ≤ p ∧
      p < 16384 * (a.poolFirst + a.poolCount) ∧
      t.page p = { s.page p with mapped := true, shared := false, context := c, use := 1, slot := j,
                                 index := lane * (a.stride / (s.seq c j).lanes) + g, mapCount := ((s.page p).mapCount + 1) % 256 } ∧
      (∀ q, q ≠ p → t.page q = s.page q) ∧ (∀ d, d ≠ c → t.context d = s.context d) ∧
      (t.seq c j).entry (lane * (a.stride / (s.seq c j).lanes) + g) = p ∧
      t = { s with pages := t.pages, contexts := t.contexts }) ∧
  (∀ (s : State) (c j g lane : Nat) (a : SeqArea), s.growLane c j a g lane = none →
    ∀ q, 16384 * a.poolFirst ≤ q → q < 16384 * (a.poolFirst + a.poolCount) → (s.page q).mapped = true ∨ s.pageBarred q = true) ∧
  (∀ (s : State) (c j n : Nat) (a : SeqArea), (s.context c).area = some a →
    s.grow c j ((s.seq c j).groups + n) =
      (((List.range' (s.seq c j).groups n).flatMap fun g => (List.range (s.seq c j).lanes).map fun lane => (g, lane)).foldl
        (fun (o : Option State) e => o.bind fun x => x.growLane c j a e.1 e.2) (some s)).map fun x =>
          x.modSeq c j fun r => { r with groups := max r.groups ((s.seq c j).groups + n) })

/-! ## Contexts (R328, R399, R400, R497) -/

/-- CTX.OPEN of a FREE context with a grant that nothing else holds: the context is OPEN with that grant, the ways it names
are its own, and its core groups begin to wake. CTX.CLOSE of a context without windows and pins: the context is FREE, keeps its
generation, and no page, booking or queued FILLER command of it is left; while a piece uses a page of it, the command waits. -/
def Obligations.ContextsAreOpenedAndClosed : Prop :=
  (∀ (f : Frame) (s u : State) (b c : Nat) (p : List Byte) (g : Grant), Acts 0x0501 f s u b → f.payload = p → grantOf p = g →
    firstFailing (grantLengths p g ++ grantFields p g ++ grantPlaces g) = none → le p 0 1 = c → c < 64 →
    legalDevice 0x0501 u = none → (u.context c).state = .free → u.grantShort g = false →
    Handles (.ctxOpen f) f s (.reply { value := c } (u.openContext c g)) ∧
      ((u.openContext c g).context c).state = .open ∧ ((u.openContext c g).context c).grant = g ∧
      ((u.openContext c g).context c).plans = [] ∧ (∀ d, d ≠ c → (u.openContext c g).context d = u.context d) ∧
      (∀ d w, d < 4 → w < 16 → sget none ((u.openContext c g).pond d).ways w =
        if bit (g.ways.getD d 0) w then some c else sget none (u.pond d).ways w) ∧
      (∀ k, k < 240 → u.logicalExists k = true → bit g.quarters (k / 15) = true →
        (u.openContext c g).domain (u.groupOf k) = if (u.domain (u.groupOf k)).state = .off then
          { u.domain (u.groupOf k) with state := .waking, gated := false, since := u.uptime,
                                        wakeCount := saturate32 ((u.domain (u.groupOf k)).wakeCount + 1) }
        else u.domain (u.groupOf k))) ∧
  (∀ (f : Frame) (s u : State) (c : Nat), Acts 0x0502 f s u c → legal 0x0502 c u = none → (u.context c).pins = [] →
    u.ctxState c ≠ .quarantined → u.windowsOf c = [] → (∀ e ∈ u.pages, e.2.context = c → u.pageInUse e.1 = false) →
    u.journal.unmapWaits = [] →
    Handles (.ctxClose f) f s (.reply {} (u.freeContext c)) ∧
      (u.freeContext c).context c = { generation := (u.context c).generation } ∧
      (∀ g, ((u.freeContext c).page g).mapped = true → ((u.freeContext c).page g).context ≠ c) ∧
      (∀ b ∈ (u.freeContext c).schedule.bookings, b.context ≠ c) ∧ (∀ e ∈ (u.freeContext c).schedule.fillers, e.1 ≠ c)) ∧
  (∀ (f : Frame) (s u : State) (c g : Nat), Acts 0x0502 f s u c → legal 0x0502 c u = none → (u.context c).pins = [] →
    u.ctxState c ≠ .quarantined → u.windowsOf c = [] → (u.page g).mapped = true → (u.page g).context = c → u.pageInUse g = true →
    Handles (.ctxClose f) f s (.later { u with journal := { u.journal with closing := u.journal.closing ++ [(f, c)] } }))

/-- CTX.RESET makes the context RESETTING, stops what runs and waits; in FAULTED it is noted for the next start. Once every engine
is idle for the context, its generation goes up by one and it is OPEN; under mode 0 its uncompleted commands have ended with
FAILED.RESET, under mode 1 they stay and wait for their tags, but those of a QUARANTINED context end in either mode; the effect and its
reply wait for the journal, unless the reply has gone. When no request with the old tag is left, the wait for tags ends; the ones that
the device or another agent drops are counted. -/
def Obligations.CtxResetWaitsAndAdvances : Prop :=
  (∀ (f : Frame) (s u : State) (b c mode : Nat), Acts 0x0503 f s u b → le f.payload 0 1 = c → c ≤ 63 → le f.payload 1 1 = mode →
    mode ≤ 1 → legal 0x0503 c u = none → u.dev.state ≠ .faulted → u.ctxState c ≠ .quarantined →
    ∃ v r, Handles (.ctxReset f) f s (.later v) ∧
      r = { mode := mode, since := s.uptime, session := f.session.toNat, number := f.number.toNat } ∧ v = u.beginReset c r ∧
      (v.context c).state = .resetting ∧ (v.context c).reset = some r ∧ (v.context c).generation = (u.context c).generation ∧
      (∀ m ∈ (v.context c).stream.cmds, m.opcode = 0x0301 → m.phase = .completed ∨ m.phase = .held) ∧
      (∀ e ∈ v.schedule.fillers, e.1 ≠ c)) ∧
  (∀ (f : Frame) (s u : State) (b c mode : Nat), Acts 0x0503 f s u b → le f.payload 0 1 = c → c ≤ 63 → le f.payload 1 1 = mode →
    mode ≤ 1 → legal 0x0503 c u = none → u.dev.state = .faulted →
    Handles (.ctxReset f) f s (.reply {} (u.modContext c fun x => { x with pendingReset := some mode }))) ∧
  (∀ (s : State) (c : Nat) (r : Resetting), s.Canonical → c < 64 → (s.context c).reset = some r → (s.context c).state = .resetting →
    s.drained c = true → r.waits = [] → r.mode ≤ 1 → s.dev.replaying = none → s.dev.suspects = [] →
    ∃ t, exec (.contextResetDrained c) s = .next t ∧ (t.context c).state = .open ∧ (t.context c).reset = none ∧
      (t.context c).generation = ((s.context c).generation + 1) % 65536 ∧
      (r.mode = 0 ∨ r.quarantined = true → ∀ n m, s.cmd c n = some m → m.phase ≠ .completed →
        ∃ m', t.cmd c n = some m' ∧ m'.phase = .completed ∧ m'.status = Status.failedReset) ∧
      (r.mode = 1 → r.quarantined = false → (t.context c).stream = (s.context c).stream ∧ (t.context c).draining = true) ∧
      (s.journal.unmapWaits = [] →
        t.journal = if r.replied = true then s.journal else s.journal.awaits s.uptime r.session r.number 0x0503 { value := bnat r.late })) ∧
  (∀ (s : State) (c : Nat) (l : List Nat), s.Canonical → s.inService = true → (s.context c).draining = true →
    (s.context c).state = .quarantined →
    s.dev.affected.contains c = false → s.journal.unmapWaits = [] → s.dev.staleDropped ≤ 4294967295 →
    (∀ d, d ≠ c → (s.context d).restartDue = false) → (∀ d, d < c → (s.context d).draining = false) →
    ∃ t, exec (.tagsDrained c l) s = .next t ∧ (t.context c).draining = false ∧ (t.context c).restartDue = false ∧
      (t.context c).stream = (s.context c).stream ∧ (∀ d, d ≠ c → t.context d = s.context d) ∧
      t.dev.staleDropped = min 4294967295 (s.dev.staleDropped + (s.oldFlights c).length + l.length) ∧
      (s.oldFlights c = [] → l = [] → t = { s with contexts := t.contexts, cores := t.cores }))

/-! ## Memory (R154 to R156, R332) -/

/-- MEM.READ and MEM.WRITE queue a transfer, which waits while a bank or a Millpond in its way is held. When a read is done, its reply
carries the bytes that memory holds at its address, or of the page table the entries as they are; when a write is done, memory holds
the bytes sent there, and every other byte is as it was. One that meets a lost block ends with FAILED.UNCORRECTABLE and its address. -/
def Obligations.TransfersMoveTheirBytes : Prop :=
  (∀ (f : Frame) (s u : State) (c a n : Nat), Acts 0x0601 f s u c → le f.payload 0 8 = a → le f.payload 8 4 = n → 0 < n →
    n ≤ 8192 → n + 40 ≤ (u.session f.session.toNat).maxPayload →
    firstFailing (memChecks 0x0601 a n (u.session f.session.toNat) c false u) = none →
    Handles (.memRead f) f s (.later { u with journal := { u.journal with
      transfers := u.journal.transfers ++ [{ frame := f, write := false, address := a, length := n }] } })) ∧
  (∀ (f : Frame) (s u : State) (c a n : Nat), Acts 0x0602 f s u c → le f.payload 0 8 = a → le f.payload 8 4 = n → 0 < n →
    n ≤ 8192 → firstFailing (memChecks 0x0602 a n (u.session f.session.toNat) c true u) = none →
    Handles (.memWrite f) f s (.later { u with journal := { u.journal with
      transfers := u.journal.transfers ++ [{ frame := f, write := true, address := a, length := n }] } })) ∧
  (∀ (s : State) (t : Transfer) (l : List Transfer) (sid n a k : Nat), s.Canonical → s.Plain → s.journal.transfers = t :: l → t ∉ l →
    t.write = false → t.frame.session.toNat = sid → t.frame.number.toNat = n → t.frame.opcode.toNat = 0x0601 → t.address = a →
    t.length = k → (s.session sid).isOpen = true → (s.session sid).endAfter ≠ some n → s.accessHeld a k = false → s.Sound →
    (s.readDevice {} a k).2.2 = none →
    ∃ u data, exec (.memTransferDone sid n) s = .next u ∧ data.length = k ∧
      (∀ i, i < k → (∀ d, s.place (a + i) ≠ .table d) → data[i]? = some (memGet s.mem (a + i))) ∧
      (∀ i d, i < k → s.place (a + i) = .table d →
        data[i]? = some (byteAt (s.pageEntry (4194304 * d + (a + i) % 2 ^ 30 / 8)) ((a + i) % 8))) ∧
      u.out = s.out ++ [s.formed (replyFrame 0x0601 sid (s.session sid).context (s.generationOf (s.session sid).context) n 0
        ({ data := data } : Reply).payload (s.session sid).path)] ∧
      u.journal = { s.journal with transfers := l } ∧ u.mem = s.mem ∧ u.contexts = s.contexts) ∧
  (∀ (s : State) (t : Transfer) (l : List Transfer) (sid n a k : Nat), s.Canonical → s.Plain → s.journal.transfers = t :: l → t ∉ l →
    t.write = true → t.frame.session.toNat = sid → t.frame.number.toNat = n → t.frame.opcode.toNat = 0x0602 → t.address = a →
    t.length = k → (s.session sid).isOpen = true → (s.session sid).endAfter ≠ some n → s.accessHeld a k = false → s.Sound →
    t.frame.payload.length = 16 + k → s.stored a k → (s.partlyLost {} a k).2 = none →
    ∃ u, exec (.memTransferDone sid n) s = .next u ∧ Wrote s.mem a (slice t.frame.payload 16 k) u.mem ∧
      u.out = s.out ++ [s.formed (replyFrame 0x0602 sid (s.session sid).context (s.generationOf (s.session sid).context) n 0
        ({} : Reply).payload (s.session sid).path)] ∧
      u.journal = { s.journal with transfers := l } ∧ u.contexts = s.contexts) ∧
  (∀ (s : State) (t : Transfer) (l : List Transfer), s.journal.transfers = t :: l → s.accessHeld t.address t.length = true →
    exec (.memTransferDone t.frame.session.toNat t.frame.number.toNat) s = .next s) ∧
  (∀ (s v w : State) (t : Transfer) (l : List Transfer) (data : List Byte) (b : Nat), s.journal.transfers = t :: l → t ∉ l →
    v = { s with journal := { s.journal with transfers := l } } → s.accessHeld t.address t.length = false →
    (t.write = false ∧ v.readDevice {} t.address t.length = (w, data, some b)) ∨
      (t.write = true ∧ v.partlyLost {} t.address t.length = (w, some b)) →
    exec (.memTransferDone t.frame.session.toNat t.frame.number.toNat) s =
      .next (w.answer t.frame.session.toNat t.frame.number.toNat t.frame.opcode.toNat
        (.reply { status := Status.uncorrectable, notchA := b } w)))

/-- The laws of the one list of bytes: a read after a write finds what was written, inside the range, and what was there before,
outside it; and a list in canonical form stays so. Every access of the device reads and writes that list: a device range, a core's
own memory for its program, a piece of a stream, outside the control rows of a window, and a region of a context image, byte by byte
or in its vectors of 16 parts. -/
def Obligations.BytesReadBackAsWritten : Prop :=
  (∀ (m : List Host.Cell) (a k : Nat) (l : List Byte), Memory.wf m = true → k < l.length →
    memGet (memWrite m a l) (a + k) = l.getD k 0) ∧
  (∀ (m : List Host.Cell) (a k : Nat) (l : List Byte), Memory.wf m = true → (k < a ∨ a + l.length ≤ k) →
    memGet (memWrite m a l) k = memGet m k) ∧
  (∀ (m : List Host.Cell) (a n k : Nat), Memory.wf m = true →
    memGet (memClear m a n) k = if a ≤ k ∧ k < a + n then 0 else memGet m k) ∧
  (∀ (m₁ m₂ : List Host.Cell), Memory.wf m₁ = true → Memory.wf m₂ = true → (∀ k, memGet m₁ k = memGet m₂ k) → m₁ = m₂) ∧
  (∀ (s v : State) (who : Requester) (a n : Nat) (data : List Byte), s.Sound → s.stored a n → s.readDevice who a n = (v, data, none) →
    Holds s.mem a n data ∧ v.mem = s.mem) ∧
  (∀ (s : State) (who : Requester) (a : Nat) (data : List Byte), s.Canonical → s.Sound → s.stored a data.length →
    Wrote s.mem a data (s.writeDevice who a data).mem) ∧
  (∀ (s : State) (a : Nat) (data : List Byte), s.Canonical → s.Sound → s.stored a data.length →
    (s.partlyLost {} a data.length).2 = none → Wrote s.mem a data (s.writeOwn a data).mem) ∧
  (∀ (k : Fin 240) (s v : State) (q a n : Nat) (data : List Byte), s.fetchLocal k q a n = .ok v data →
    (s.core (s.physical k)).openWrites = [] → Holds s.mem (localKey (s.physical k) a) n data ∧ v.mem = s.mem) ∧
  (∀ (k : Fin 240) (s v : State) (q a : Nat) (data : List Byte), s.Canonical → s.storeLocal k q a data = .ok v →
    Wrote s.mem (localKey (s.physical k) a) data v.mem) ∧
  (∀ (s v : State) (w : Piece) (c : Nat) (who : Requester) (data : List Byte), s.Sound → s.readPiece w c who = (v, data, none) →
    (w.srcSpace = 1 → s.controlRow w.src = none → s.stored w.src w.length → Holds s.mem w.src w.length data ∧ v.mem = s.mem) ∧
    (w.srcSpace ≠ 1 → Holds s.mem (localKey (s.physical w.srcCore) w.src) w.length data ∧ v.mem = s.mem)) ∧
  (∀ (s : State) (f : Flight) (data : List Byte), s.Canonical → s.Sound →
    (f.piece.dstSpace = 1 → s.controlRow f.piece.dst = none → s.stored f.piece.dst data.length →
      Wrote s.mem f.piece.dst data (s.writePiece f data).mem) ∧
    (f.piece.dstSpace ≠ 1 → Wrote s.mem (localKey (s.physical f.piece.dstCore) f.piece.dst) data (s.writePiece f data).mem)) ∧
  (∀ (s v : State) (p i : Nat) (r : Region) (data : List Byte) (e : Nat × Nat), s.readRegion p r = (v, data, none) →
    (r.parts s.dev.lanes)[i]? = some e → v.mem = s.mem ∧
    (r.kind ≠ 1 → Holds s.mem (localKey p r.base) r.length data) ∧
    (r.kind = 1 → Holds s.mem (localKey p e.1) 128 (slice data (128 * i) 128))) ∧
  (∀ (s : State) (p i : Nat) (r : Region) (data : List Byte) (e : Nat × Nat), s.Canonical → data.length = r.length →
    0 < s.dev.lanes → (r.parts s.dev.lanes)[i]? = some e →
    (r.kind ≠ 1 → Wrote s.mem (localKey p r.base) data (s.writeRegion p r data).mem) ∧
    (r.kind = 1 → Holds (s.writeRegion p r data).mem (localKey p e.1) 128 (slice data (128 * i) 128)))

/-- MEM.SPLIT marks its dies and waits for them; when a die is done, it has the new split, the bytes of the steps between the old
and the new are zero, and it is off the lists of the MEM.SPLIT commands at work; the end of a command's last die takes it off too,
and its reply waits for the journal. -/
def Obligations.SplitsZeroTheStepsTheyMove : Prop :=
  (∀ (f : Frame) (s u : State) (c mask steps : Nat), Acts 0x0603 f s u c → le f.payload 0 1 = mask → le f.payload 1 1 = steps →
    0 < mask → mask ≤ 15 → 0 < steps → steps ≤ 16 → (steps = 16 → mask % 4 = 0) → legalDevice 0x0603 u = none →
    (∀ d, d < 64 → u.ctxState d ≠ .active) →
    (∀ d ∈ bitsSet mask 4, (u.pond d).resplit = none ∧ u.splitShort d steps = false) →
    ∃ v : State, Handles (.memSplit f) f s (.later v) ∧ (∀ d ∈ bitsSet mask 4, (v.pond d).resplit = some steps) ∧
      (∀ d, d ∉ bitsSet mask 4 → v.pond d = u.pond d) ∧
      v.journal = { u.journal with splitReplies := u.journal.splitReplies ++ [(f, bitsSet mask 4)] } ∧
      v = { u with ponds := v.ponds, journal := v.journal }) ∧
  (∀ (s : State) (d : Fin 4) (steps : Nat), s.Canonical → (s.pond d).resplit = some steps → s.journal.lateWrites = [] →
    ∃ t, exec (.memSplitDone d) s = .next t ∧ (t.pond d).steps = steps ∧ (t.pond d).resplit = none ∧
      (∀ a, scratchBase d + 67108864 * min (s.pond d).steps steps ≤ a → a < scratchBase d + 67108864 * max (s.pond d).steps steps →
        memGet t.mem a = 0) ∧
      t.journal.splitReplies =
        (s.journal.splitReplies.map fun e => (e.1, e.2.filter (· != d.val))).filter fun e => !e.2.isEmpty) ∧
  (∀ (s : State) (d : Fin 4) (steps : Nat) (f : Frame), s.Canonical → (s.pond d).resplit = some steps →
    s.journal.lateWrites = [] → s.journal.splitReplies = [(f, [d.val])] → f.opcode = 0x0603 →
    ∃ t, exec (.memSplitDone d) s = .next t ∧ t.out = s.out ∧
      t.journal = Journal.awaits { s.journal with splitReplies := [] } s.uptime f.session.toNat f.number.toNat 0x0603 {})

/-! ## Pages and segments (R178 to R182, R254 to R258) -/

/-- PAGE.MAP maps free pages of the grant for the context, each map count one higher modulo 256 and no other page changed, and then
ends the suspensions that waited for them in every context; PAGE.UNMAP of pages no piece is using unmaps them, and of pages in use
waits. PAGE.RETIRE and SEG.RETIRE mark what they name, outside the journal and the windows of in-bank compute, for good, and nothing
else: a free page is retired at once, a mapped one stays mapped and is retire-pending. -/
def Obligations.PagesComeAndGo : Prop :=
  (∀ (f : Frame) (s u : State) (c first n sh : Nat), Acts 0x0701 f s u c → le f.payload 0 4 = first → le f.payload 4 4 = n →
    0 < n → first + n ≤ 16777216 → le f.payload 9 1 = sh → sh ≤ 1 → u.pagesFailed first n = false → legal 0x0701 c u = none →
    (∀ g, first ≤ g → g < first + n → u.pageKind c g = 0 ∧ (u.grant c).holdsSegment (g / 16384) = true) →
    ∃ v : State, Handles (.pageMap f) f s (.reply {} v.resumeEverywhere) ∧ v = { u with pages := v.pages } ∧
      (∀ g, first ≤ g → g < first + n → v.page g = { u.page g with
        mapped := true, shared := decide (sh = 1), context := c, use := 0, slot := 0, index := 0,
        mapCount := ((u.page g).mapCount + 1) % 256 }) ∧
      (∀ g, g < first ∨ first + n ≤ g → v.page g = u.page g)) ∧
  (∀ (f : Frame) (s u : State) (c first n : Nat), Acts 0x0702 f s u c → le f.payload 0 4 = first → le f.payload 4 4 = n →
    0 < n → first + n ≤ 16777216 → u.pagesFailed first n = false → legal 0x0702 c u = none →
    (∀ g, first ≤ g → g < first + n → u.unmappable c g = true) →
    (∀ x ∈ (u.context c).pins, overlaps (65536 * first) (65536 * n) x.destination x.length = false) →
    ((∀ g, first ≤ g → g < first + n → u.pageInUse g = false) →
      ∃ v : State, Handles (.pageUnmap f) f s (.reply {} v) ∧ v = (List.range' first n).foldl State.unmapPage u ∧
        (∀ g, first ≤ g → g < first + n → (v.page g).mapped = false) ∧
        (∀ g, g < first ∨ first + n ≤ g → v.page g = u.page g)) ∧
    ((∃ g, first ≤ g ∧ g < first + n ∧ u.pageInUse g = true) →
      Handles (.pageUnmap f) f s (.later { u with journal := { u.journal with unmapWaits := u.journal.unmapWaits ++
        [{ session := f.session.toNat, number := f.number.toNat, opcode := 0x0702, pages := List.range' first n }] } }))) ∧
  (∀ (f : Frame) (s u : State) (c first n : Nat), Acts 0x0703 f s u c → le f.payload 0 4 = first → le f.payload 4 4 = n →
    0 < n → first + n ≤ 16777216 → u.pagesFailed first n = false → legalDevice 0x0703 u = none →
    u.journalSegment (first / 16384) ((first + n - 1) / 16384 - first / 16384 + 1) = none →
    ∃ v : State, Handles (.pageRetire f) f s (.reply {} v) ∧
      (∀ g, first ≤ g → g < first + n → (u.page g).pending = false → (u.page g).retired = false →
        v.page g = { u.page g with pending := true, retired := !(u.page g).mapped, source := 3 }) ∧
      (∀ g, first ≤ g → g < first + n → ((u.page g).pending = true ∨ (u.page g).retired = true) → v.page g = u.page g) ∧
      (∀ g, g < first ∨ first + n ≤ g → v.page g = u.page g)) ∧
  (∀ (f : Frame) (s u : State) (c first n : Nat), Acts 0x0802 f s u c → le f.payload 0 2 = first → le f.payload 2 2 = n →
    0 < n → first + n ≤ 1024 → u.pagesFailed (16384 * first) (16384 * n) = false → legalDevice 0x0802 u = none →
    u.journalSegment first n = none → (∀ g, first ≤ g → g < first + n → u.inWindow g = false) →
    ∃ v : State, Handles (.segRetire f) f s (.reply {} v) ∧ (∀ g, first ≤ g → g < first + n → v.segRetired g = true) ∧
      (∀ g, g < first ∨ first + n ≤ g → v.segRetired g = u.segRetired g))

/-- SEG.RECODE outside the journal, in-bank compute and a running sweep is staged; the sweep of its segment ends with the new code
in force for that segment, its progress and losses are noted, and the command goes on, and then those that wait for the stack. With no
segment left it completes DONE, or UNCORRECTABLE with the number of blocks it lost and the first of them. -/
def Obligations.RecodesAreStagedAndSwept : Prop :=
  (∀ (f : Frame) (s u : State) (c first n code : Nat), Acts 0x0801 f s u c → le f.payload 0 2 = first → le f.payload 2 2 = n →
    le f.payload 4 1 = code → 0 < n → first + n ≤ 1024 → code ≤ 2 → u.pagesFailed (16384 * first) (16384 * n) = false →
    legalDevice 0x0801 u = none →
    (∀ d, d < 64 → u.ctxState d = .active → ∀ g, first ≤ g → g < first + n → (u.grant d).holdsSegment g = false) →
    (∀ k, k < 8 → overlaps first n (k * 128) 128 = true → u.computing k = false ∧ u.sweepRuns k = false) →
    u.journalSegment first n = none →
    (∀ e ∈ u.pages, e.2.mapped = true → first ≤ e.1 / 16384 → e.1 / 16384 < first + n → 65536 * (e.1 % 16384) < usableBytes code) →
    flowCheck c u = none →
    Handles (.segRecode f) f s (.later (u.stage
      { stream := c, session := f.session.toNat, number := f.number.toNat, answer := true,
        cmd := { opcode := 0x0801, frame := f, address := first, count := n, value := code, acceptedAt := u.now } }))) ∧
  (∀ (s v : State) (k : Fin 8) (c csn g : Nat) (m : Cmd) (lost : List Nat), s.Canonical → s.inService = true →
    (s.stack k).sweep = some (c, csn) → (s.stack k).sweepSegment = g → s.cmd c csn = some m → m.value ≤ 2 →
    (s.modStack k fun t => { t with sweep := none, sweepSegment := 0, sweepLeft := 0 }).sweepSegment g m.value m.swept = (v, lost) →
    v.segCode g = m.value ∧ exec (.segmentSweep k) s = .next ((v.modCmd c csn fun x =>
      { x.lose lost with progress := g + 1 - x.address, swept := 0 }).sweepOn c csn)) ∧
  (∀ (s : State) (c csn st : Nat) (m : Cmd), s.Canonical → c < 64 → s.cmd c csn = some m → m.opcode = 0x0801 → m.phase ≠ .completed →
    s.unswept m = [] → st = (if 0 < m.lost then Status.uncorrectable else Status.done) →
    ∃ (v : State) (m' : Cmd), s.sweepNext c csn = v.replayStep ∧ v.cmd c csn = some m' ∧ m'.phase = .completed ∧ m'.status = st ∧
      m'.completion = completionPayload m st s.now m.lost { rank := 0, status := st, address := m.firstLost })

/-! ## In-bank compute: modes (R188 to R192) -/

/-- QUERN.MODE toward COMPUTE prepares the pseudo-channels it names: window and context theirs, queue empty, the mode not yet set;
QUERN_COMPUTE_ENTERED sets it. QUERN.MODE toward PLAIN seals the pseudo-channels it names: what they have queued is discarded, and a
chunk in progress is waited for; QUERN_SEALED makes one PLAIN, without a window. The reply of a QUERN.MODE waits for the last
pseudo-channel that it names. -/
def Obligations.ComputeIsEnteredAndLeftInTwoSteps : Prop :=
  (∀ (f : Frame) (s u : State) (c k first n mask : Nat), Acts 0x0901 f s u c → le f.payload 0 1 = k → le f.payload 1 1 = 1 →
    le f.payload 4 2 = n → le f.payload 6 2 = first → le f.payload 8 8 = mask → 0 < mask → 0 < n → first + n ≤ 128 →
    (k = 0 ∨ k = 2 ∨ k = 4 ∨ k = 6) → legal 0x0901 c u = none →
    (∀ p ∈ bitsSet mask 64, (u.pseudo k p).mode = .plain ∧ (u.pseudo k p).entering = false) →
    (∀ g, 128 * k + first ≤ g → g < 128 * k + first + n →
      u.segCode g = 0 ∧ u.segRetired g = false ∧ (u.grant c).holdsSegment g = true) → u.recoding k = false →
    ∃ v : State, Handles (.quernMode f) f s (.later { v with journal := { v.journal with
        modeReplies := v.journal.modeReplies ++ [(f, k, mask)] } }) ∧
      (∀ p ∈ bitsSet mask 64, (v.pseudo k p).mode = .plain ∧ (v.pseudo k p).entering = true ∧ (v.pseudo k p).context = c ∧
        (v.pseudo k p).firstSeg = first ∧ (v.pseudo k p).segCount = n ∧ (v.pseudo k p).queue = [])) ∧
  (∀ (s : State) (k : Fin 8) (p : Fin 64), s.Canonical → (s.pseudo k p).entering = true → (s.pseudo k p).mode = .plain →
    ∃ t, exec (.quernComputeEntered k p) s = .next t ∧ (t.pseudo k p).mode = .compute ∧ (t.pseudo k p).entering = false ∧
      t.mem = s.mem ∧ t.contexts = s.contexts) ∧
  (∀ (f : Frame) (s u : State) (c k mask : Nat), Acts 0x0901 f s u c → le f.payload 0 1 = k → le f.payload 1 1 = 0 →
    le f.payload 8 8 = mask → 0 < mask → (k = 0 ∨ k = 2 ∨ k = 4 ∨ k = 6) → legal 0x0901 c u = none →
    (∀ p ∈ bitsSet mask 64, (u.pseudo k p).mode = .compute ∧ (u.pseudo k p).context = c) →
    u.quernNamed k (bitsSet mask 64) = none →
    ∃ v : State, Handles (.quernMode f) f s (.later { v with journal := { v.journal with
        modeReplies := v.journal.modeReplies ++ [(f, k, mask)] } }) ∧ v = { u with memStacks := v.memStacks } ∧
      (∀ p ∈ bitsSet mask 64, (v.pseudo k p).mode = .sealing ∧ (v.pseudo k p).queue = [] ∧ (v.pseudo k p).backlog = [])) ∧
  (∀ (s : State) (k : Fin 8) (p : Fin 64), s.Canonical → (s.pseudo k p).mode = .sealing → (s.pseudo k p).chunkIn = false →
    s.journal.closing = [] →
    ∃ t, exec (.quernSealed k p) s = .next t ∧ (t.pseudo k p).mode = .plain ∧ (t.pseudo k p).running = none ∧
      (t.pseudo k p).segCount = 0 ∧ t.mem = s.mem ∧ t.contexts = s.contexts) ∧
  (∀ (s : State) (k : Fin 8) (p : Fin 64), (s.pseudo k p).chunkIn = true → exec (.quernSealed k p) s = .next s) ∧
  (∀ (s : State) (k : Fin 8) (p : Fin 64) (f : Frame) (mask : Nat), s.Canonical → (s.pseudo k p).entering = true →
    (s.pseudo k p).mode = .plain → s.journal.modeReplies = [(f, k.val, mask)] → f.opcode = 0x0901 →
    (mask = 2 ^ p.val → ∃ t, exec (.quernComputeEntered k p) s = .next t ∧
      t.journal = Journal.awaits { s.journal with modeReplies := [] } s.uptime f.session.toNat f.number.toNat 0x0901 {}) ∧
    (mask.testBit p = true → mask ≠ 2 ^ p.val → ∃ t, exec (.quernComputeEntered k p) s = .next t ∧
      t.journal = { s.journal with modeReplies := [(f, k.val, mask - 2 ^ p.val)] }))

/-! ## Registers (R41, R379, R382, R387, R484, R491 to R494) -/

/-- REG.WRITE of a mapped, aligned address with a value its register takes is noted, whichever register it is, and its reply waits for
the journal; from the next notch on the register is written. Ones written to a trouble register clear its bits but those set in the
notch of the write; any value written to a counter makes it read 0. WHEEL.HoldLimit stores at least 16, PORT.UdpPort 0 stores 47310,
DEVICE.RecoveryCfg its three fields, PWR.LastLatch forgets the latch, and WHEEL.SourceCfg acts as TIME.SOURCE does. -/
def Obligations.RegisterWrites : Prop :=
  (∀ (i : Instr) (f : Frame) (s : State) (a v : Nat), (i = .regWrite f ∨ (i = .troubleBitClear f ∧ isTroublePlace (regPlace a) = true) ∨
      (i = .counterClear f ∧ isCounterPlace (regPlace a) = true) ∨
      (i = .wheelSourceWrite f ∧ (a = 0x100018 ∨ rwAt (regPlace a) = some .ptpCfg ∨ rwAt (regPlace a) = some .asymmetry)) ∨
      (i = .holdLimitWrite f ∧ a = 0x10001C) ∨ (i = .udpPortWrite f ∧ a = 0x200008) ∨ (i = .recoveryCfgWrite f ∧ a = 0x108) ∨
      (i = .lastLatchClear f ∧ a = 0x300028)) →
    Delivered 0x0A02 f s → le f.payload 0 4 = a → le f.payload 4 4 = v → a % 4 = 0 → isMapped a = true →
    (∀ r, rwAt (regPlace a) = some r → badWrite r v s = false) → legalDevice 0x0A02 s = none →
    ∃ t, Effects i f {} s t ∧ t.dev = { s.dev with regWrites := s.dev.regWrites ++ [(a, v)] } ∧
      t = { s with sessions := t.sessions, journal := t.journal, dev := t.dev }) ∧
  (∀ s : State, s.applyWrites =
    s.dev.regWrites.foldl (fun s e => s.writeReg e.1 e.2) { s with dev := { s.dev with regWrites := [] } }) ∧
  (∀ (s : State) (a v : Nat), s.Canonical → s.dev.state ≠ .off → s.pending = [] → s.dev.regWrites = [(a, v)] →
    ∃ t, step s = .next t ∧ t.dev.regWrites = [] ∧ (a = 0x10001C → t.wheel.holdLimit = max 16 v) ∧
      (a = 0x200008 → t.port.udpPort = if v % 65536 = 0 then 47310 else v % 65536)) ∧
  (∀ (s : State) (a v : Nat) (r : TroubleReg), s.Canonical → rwAt (regPlace a) = none → troubleAt (regPlace a) = some r →
    s.regWritable (regPlace a) = true →
    (s.writeReg a v).trouble r = s.trouble r &&& ~~~(s.clearing r.address (BitVec.ofNat 32 v)) ∧
      (∀ q, q ≠ r → (s.writeReg a v).trouble q = s.trouble q) ∧ (s.writeReg a v).log = s.log ∧ (s.writeReg a v).mem = s.mem ∧
      (s.writeReg a v).contexts = s.contexts) ∧
  (∀ (s : State) (a v : Nat), s.Canonical → isCounterPlace (regPlace a) = true → s.regWritable (regPlace a) = true →
    (s.writeReg a v).regValue a = 0 ∧ (s.writeReg a v).log = s.log ∧ (s.writeReg a v).mem = s.mem ∧
      (s.writeReg a v).contexts = s.contexts) ∧
  (∀ (s : State) (v : Nat), s.writeReg 0x10001C v = { s with wheel := { s.wheel with holdLimit := max 16 v } }) ∧
  (∀ (s : State) (v : Nat), s.writeReg 0x200008 v = { s with
    port := { s.port with udpPort := if v % 65536 = 0 then 47310 else v % 65536 } }) ∧
  (∀ (s : State) (v : Nat), s.writeReg 0x108 v = { s with
    dev := { s.dev with autoWarm := v.testBit 0, replay := v.testBit 1, faultHold := v / 256 % 65536 } }) ∧
  (∀ (s : State) (v : Nat), s.writeReg 0x300028 v = { s with power := { s.power with latchCause := 0, latchSpot := 0 } }) ∧
  (∀ (s : State) (v : Nat), s.writeReg 0x100018 v = { s with wheel := { s.wheel with
    nextSource := some { s.wheel.config with cfg := v } } })

/-! ## Time (R27 to R43, R437) -/

/-- TIME.SET, only while UNSET, places the wheel and makes it FREE (R42); in every other state of the wheel it is refused with
REFUSED.STATE, and a position of 2^64 - 1, or a reserved byte that is not zero, with REFUSED.FORMAT. -/
def Obligations.TimeCommandsSetTheWheel : Prop :=
  (∀ (f : Frame) (s u : State) (c n : Nat), Acts 0x0D01 f s u c → le f.payload 0 8 = n → n < 18446744073709551615 →
    legal 0x0D01 f.context.toNat u = none → u.wheel.state = .unset →
    ∃ v : State, Handles (.timeSet f) f s (.reply {} v) ∧ v.wheel.state = .free ∧ v.wheel.position = n ∧ v = { u with wheel := v.wheel, contexts := v.contexts, power := v.power }) ∧
  (∀ (f : Frame) (s u : State) (c : Nat), Acts 0x0D01 f s u c → le f.payload 0 8 < 18446744073709551615 →
    legal 0x0D01 f.context.toNat u = none → u.wheel.state ≠ .unset →
    Handles (.timeSet f) f s (.reply (refuseState 2 0 u.wheel.state.code 1) u)) ∧
  (∀ (f : Frame) (s u : State) (c : Nat), Acts 0x0D01 f s u c → le f.payload 0 8 = 18446744073709551615 →
    Handles (.timeSet f) f s (.reply (refuse Status.format 0) u)) ∧
  (∀ (f : Frame) (s : State) (o : Nat), Numbered 0x0D01 f s → privilegeCheck 0x0D01 f (s.session f.session.toNat) = none →
    generationCheck f (s.session f.session.toNat) s = none → f.payload.length = 16 → 8 ≤ o → o < 16 → byteAt f.payload o ≠ 0 →
    (∀ k, 8 ≤ k → k < o → byteAt f.payload k = 0) →
    ∃ t, Serves (.timeSet f) f (refuse Status.format o) s t ∧ t = { s with out := t.out, sessions := t.sessions })

/-- Messages of time: a one-step Sync of the selected transmitter, or the Follow_Up of a two-step one, sets an UNSET wheel to the
source's time, corrected by the path delay and the asymmetry, and makes it ACQUIRING; a Sync of any other transmitter does nothing;
the second Announce of a transmitter within its window selects it when no better one is heard (the fields, the window and their order
are IEEE 1588's, PRESUMED, assumption log 38); a delay response goes through the path-delay filter. All of them after MACsec has
let the message in, which only its association's window shows. -/
def Obligations.TimeMessagesReachTheWheel : Prop :=
  (∀ (m : SyncMsg) (s₀ s : State), s₀.letIn m.head.secured = (s, true) → s.selects m.head = true → -7 ≤ m.head.logInterval →
    m.head.logInterval ≤ 1 → m.twoStep = true → exec (.ptpSync m) s₀ = .next { s with wheel := { s.wheel with
      lastSync := some s.uptime, syncInterval := m.head.logInterval, awaitedFollowUp := some m.head.sequence } }) ∧
  (∀ (m : SyncMsg) (s₀ s : State) (n : Nat), s₀.letIn m.head.secured = (s, true) → s.selects m.head = true →
    -7 ≤ m.head.logInterval → m.head.logInterval ≤ 1 → m.twoStep = false → s.wheel.state = .unset → s.names 0 = true →
    (4294967296 * m.sourceTime + fineOf s.wheel.correction : Int) = n →
    ∃ t, exec (.ptpSync m) s₀ = .next t ∧ t.wheel.state = .acquiring ∧ t.wheel.position = n / 4294967296 % 2 ^ 64 ∧
      t.wheel.fraction.toNat = n % 4294967296 ∧ t.wheel.ptpValid = true ∧ t.wheel.lastSync = some s.uptime ∧
      t = { s with wheel := t.wheel, contexts := t.contexts, power := t.power }) ∧
  (∀ (m : SyncMsg) (s₀ s : State), s₀.letIn m.head.secured = (s, true) → s.isFollower = false →
    s.wheel.transmitter ≠ some m.head.transmitter → exec (.ptpSync m) s₀ = .next s) ∧
  (∀ (h : PtpHead) (n x : Nat) (off : Int) (s₀ s : State), s₀.letIn h.secured = (s, true) → s.selects h = true →
  s.wheel.awaitedFollowUp = some h.sequence →
    s.wheel.state = .unset → s.names 0 = true → (4294967296 * n + fineOf s.wheel.correction : Int) = x →
    ∃ t, exec (.ptpFollowUp h off n) s₀ = .next t ∧ t.wheel.state = .acquiring ∧
      t.wheel.position = x / 4294967296 % 2 ^ 64 ∧ t.wheel.ptpValid = true ∧ t.wheel.awaitedFollowUp = none ∧
      t = { s with wheel := t.wheel, contexts := t.contexts, power := t.power }) ∧
  (∀ (m : AnnounceMsg) (s₀ s : State), s₀.letIn m.head.secured = (s, true) → s.hears m.head = true → -7 ≤ m.head.logInterval →
    m.head.logInterval ≤ 1 → s.isFollower = false → s.wheel.foreign = [] → s.wheel.transmitter = none →
    exec (.ptpAnnounce m) s₀ = .next { s with wheel := { s.wheel with foreign :=
      [{ transmitter := m.head.transmitter, clock := m.clock, interval := m.head.logInterval, heard := s.uptime, before := none }] } }) ∧
  (∀ (m : AnnounceMsg) (s₀ s : State) (x y : ForeignClock), s₀.letIn m.head.secured = (s, true) → s.hears m.head = true →
    -7 ≤ m.head.logInterval → m.head.logInterval ≤ 1 → s.isFollower = false → s.wheel.foreign = [x] →
    x.transmitter = m.head.transmitter → m.clock.steps < 255 → s.wheel.transmitter = none →
    y = { transmitter := m.head.transmitter, clock := m.clock, interval := m.head.logInterval, heard := s.uptime,
          before := some x.heard } → s.uptime ≤ x.heard + y.window →
    exec (.ptpAnnounce m) s₀ = .next { s with wheel := { s.wheel with
      foreign := [y], transmitter := some m.head.transmitter, awaitedFollowUp := none,
      seconds := some (1048576 * m.seconds - s.uptime) } }) ∧
  (∀ (w : Wheel) (x y : ForeignClock), w.foreign = [x, y] → x.qualified = true → y.qualified = true →
    w.elected.transmitter = some (if y.better x = true then y.transmitter else x.transmitter)) ∧
  (∀ x y : ForeignClock, x.clock.grandmaster ≠ y.clock.grandmaster →
    (x.clock.priority1 < y.clock.priority1 → x.better y = true) ∧
    (x.clock.priority1 = y.clock.priority1 → x.clock.clockClass < y.clock.clockClass → x.better y = true) ∧
    (y.clock.priority1 < x.clock.priority1 → x.better y = false)) ∧
  (∀ (m : DelayMsg) (s₀ s : State), s₀.letIn m.head.secured = (s, true) → m.peer = s.wheel.peerDelay → s.selects m.head = true →
    exec (.ptpDelayResp m) s₀ =
      .next { s with wheel := { s.wheel with pathDelay := Config.pathDelay s.wheel.pathDelay m.delay } })

/-- The 1PPS input and the reference clock: an edge more than 1 µs from its prediction makes the input invalid and sets
PpsWindow; one within it keeps the input valid, or, on one that was lost, makes it valid again from the fourth in a row on, and disciplines a
wheel that uses it; a missing edge makes it invalid; REFCLK out of range sets
RefclkRange. The 1PPS output rises at each whole second of a set wheel and falls 2^17 notches later; a cascade's head sends its
one-step Sync every 2^16 notches, and its Announce with it (assumption log 38). -/
def Obligations.EdgesAreJudgedAndGiven : Prop :=
  (∀ (p o : Int) (s : State), s.wheel.lastPps = none →
    exec (.ppsEdge p o) s = .next { s with wheel := { s.wheel with lastPps := some s.uptime } }) ∧
  (∀ (p o : Int) (s : State), s.wheel.lastPps.isSome = true → 1000 < p.natAbs →
    ∃ t, exec (.ppsEdge p o) s = .next t ∧ t.wheel.ppsValid = false ∧ t.wheel.ppsRun = 0 ∧
      t.wheel.trouble = s.wheel.trouble ||| 4#32 ∧ t.logNext = s.logNext + 1 ∧ t.wheel.position = s.wheel.position) ∧
  (∀ (p o : Int) (s : State), s.wheel.lastPps.isSome = true → p.natAbs ≤ 1000 → s.names 1 = false → s.isFollower = false →
    ∃ t, exec (.ppsEdge p o) s = .next t ∧ t.wheel.ppsValid = (!s.wheel.ppsLost || decide (4 ≤ s.wheel.ppsRun + 1)) ∧
      t.wheel.ppsLost = (s.wheel.ppsLost && decide (s.wheel.ppsRun + 1 < 4)) ∧ t.wheel.lastValidPps = some s.uptime ∧
      t.wheel.ppsRun = s.wheel.ppsRun + 1 ∧ t.wheel.position = s.wheel.position ∧ t = { s with wheel := t.wheel }) ∧
  (∀ (p o f : Int) (s : State), s.wheel.lastPps.isSome = true → p.natAbs ≤ 1000 → s.names 1 = true → s.isFollower = false →
    s.wheel.inUse = some 1 → s.wheel.state = .locked → s.wheel.ppsLost = false → 1048576 * o.natAbs ≤ 1024000000000 →
    f = Config.servoFilter s.wheel.offset o →
    ∃ t, exec (.ppsEdge p o) s = .next t ∧ t.wheel.ppsValid = true ∧ t.wheel.ppsRun = s.wheel.ppsRun + 1 ∧ t.wheel.offset = f ∧
      t.wheel.freqAdj = max (-100000) (min 100000 (Config.servoRate f)) ∧ t.wheel.errorBound = s.wheel.boundOf f ∧
      t.wheel.state = .locked ∧ t.wheel.position = s.wheel.position ∧ t = { s with wheel := t.wheel }) ∧
  (∀ (n : Nat) (s : State), s.wheel.lastValidPps = some n → 1048576 + n + 2 ≤ s.uptime →
    exec .ppsEdgeTimeout s = .next { s with wheel := { s.wheel with ppsValid := false, ppsRun := 0 } }) ∧
  (∀ s : State, exec (.refclkRangeChange true) s = .next { s with wheel := { s.wheel with refclkValid := true } }) ∧
  (∀ s : State, ∃ t, exec (.refclkRangeChange false) s = .next t ∧ t.wheel.refclkValid = false ∧
    t.wheel.trouble = s.wheel.trouble ||| 8#32 ∧ t.logNext = s.logNext + 1) ∧
  (∀ s : State, s.wheel.ppsOut = true → s.wheel.state ≠ .unset → s.wheel.position % 1048576 = 0 →
    exec .ppsOutRise s = .next { s with pins := { s.pins with ppsOut := true, ppsOutRose := s.wheel.position } }) ∧
  (∀ s : State, s.pins.ppsOut = true → 131072 + s.pins.ppsOutRose ≤ s.wheel.position →
    exec .ppsOutFall s = .next { s with pins := { s.pins with ppsOut := false } }) ∧
  (∀ s : State, s.Clear → s.fabric.role = 1 → (∀ n, s.fabric.syncSent = some n → 65536 + n ≤ s.uptime) → exec .cascadeSyncSend s =
    .next { s with fabric := { s.fabric with syncSent := some s.uptime },
                   wire := s.wire ++ [.ptpSync s.fabric.domain s.wheel.position (-4) true, .ptpAnnounce s.fabric.domain (-4)] })

/-- The wheel's states. In HOLDOVER the error bound is its bound at entry and, for each whole second, 53 hundredths of a notch after
600 s of LOCKED and 21 notches otherwise (R39). ACQUIRING becomes LOCKED after 16 s within ±200 ns; LOCKED has learned after 600 s;
a LOCKED wheel whose only source falls silent is in HOLDOVER from its last bound (R37, R38, R40); HOLDOVER beyond the limit is FREE,
without a bound; a first source valid for 16 s is taken back. TIME.SOURCE gives the source order, the PTP settings and the asymmetry,
which take effect at the next notch (R43). The unicast address's form, the fraction that a placement sets, that FREE is no source to
take and the bound shown after a loss are the model's choices (assumption log 38). -/
def Obligations.WheelStatesFollowTheirSources : Prop :=
  (∀ (f : Frame) (s u : State) (c : Nat) (p : List Byte), Acts 0x0D02 f s u c → f.payload = p →
    badSource (le p 0 4) (le p 4 4) (signed 32 (le p 8 4)) = none → badUnicast (le p 4 4) (slice p 12 16) = false →
    legal 0x0D02 f.context.toNat u = none →
    Handles (.timeSource f) f s (.reply {} { u with wheel := { u.wheel with
      nextSource := some ⟨le p 0 4, le p 4 4, signed 32 (le p 8 4), slice p 12 16⟩ } })) ∧
  (∀ (s t : State) (c : SourceConfig), s.wheel.nextSource = some c → s.applySource = t →
    t.wheel.nextSource = none ∧ t.wheel.first = c.cfg % 4 ∧ t.wheel.second = c.cfg / 4 % 4 ∧
      t.wheel.asymmetry = c.asymmetry ∧ t.wheel.unicastAddress = c.unicast ∧ t.wheel.domain = c.ptp % 256 ∧
      t.wheel.position = s.wheel.position ∧ t.mem = s.mem ∧ t.contexts = s.contexts) ∧
  (∀ (f : Frame) (s u : State) (c n : Nat), Acts 0x0D01 f s u c → le f.payload 0 8 = n → n < 18446744073709551615 →
    legal 0x0D01 f.context.toNat u = none → u.wheel.state = .unset →
    ∃ v : State, Handles (.timeSet f) f s (.reply {} v) ∧ v.wheel.fraction = 0 ∧ v.wheel.bounded = false ∧ v.wheel.source = 0) ∧
  (∀ (s : State) (t : Nat), s.wheel.state = .holdover → (s.uptime - s.wheel.holdSince) / 1048576 = t →
    s.errorBound = s.wheel.holdBound + (if s.wheel.holdLearned = true then (53 * t + 99) / 100 else 21 * t)) ∧
  (∀ (n : Nat) (s : State), s.wheel.state = .acquiring → s.wheel.inBandSince = some n → 16777216 + n ≤ s.uptime →
    exec .wheelLocked s = .next { s with wheel := { s.wheel with
      state := .locked, lockedSince := some s.uptime, learned := false, bounded := true,
      errorBound := s.wheel.boundOf s.wheel.offset } }) ∧
  (∀ (n : Nat) (s : State), s.wheel.state = .locked → s.wheel.lockedSince = some n → 629145600 + n ≤ s.uptime →
    exec .wheelLearned s = .next { s with wheel := { s.wheel with learned := true } }) ∧
  (∀ s : State, s.wheel.state = .locked → s.wheel.source = 1 → s.ptpSilent = true → s.isFollower = false →
    s.names 1 = false →
    ∃ t, exec .sourceLost s = .next t ∧ t.wheel.state = .holdover ∧ t.wheel.source = 0 ∧ t.wheel.ptpValid = false ∧
      t.wheel.holdBound = s.wheel.errorBound ∧ t.wheel.holdSince = s.uptime ∧ t.wheel.holdLearned = s.wheel.learned ∧
      t.wheel.trouble = s.wheel.trouble ||| 1#32 ∧ t.wheel.position = s.wheel.position) ∧
  (∀ s : State, s.wheel.state = .holdover → s.wheel.holdLimit < s.errorBound →
    ∃ t, exec .holdLimitExceeded s = .next t ∧ t.wheel.state = .free ∧ t.wheel.bounded = false ∧
      t.wheel.trouble = s.wheel.trouble ||| 2#32 ∧ t.wheel.position = s.wheel.position) ∧
  (∀ s : State, s.isFollower = false → s.wheel.first = 0 → s.wheel.source = 2 → s.wheel.ptpValid = true →
    16777216 + s.wheel.ptpValidSince ≤ s.uptime →
    ∃ t, exec .sourcePriorityReturn s = .next t ∧ t.wheel.state = .acquiring ∧ t.wheel.source = 1 ∧
      t.wheel.position = s.wheel.position ∧ t = { s with wheel := t.wheel })

/-! ## Fabric (R430 to R435) -/

/-- FABRIC.ADDRESS keeps both addresses, little-endian, in module flash for the next start; FABRIC.JOIN makes a module a member that
claims its preferred address, or address 0 without one, tentatively, with an empty route table, no role and a beacon due;
FABRIC.LEAVE ends all that. A follower that joins or leaves gives up its head as wheel source and its tentative bookings; the wheel
of any other module stays. The three replies wait for the journal. FABRIC.STATUS shows the membership and the route entries asked
for. That the two addresses are read with their lowest byte first is DEDUCED (assumption log 25). -/
def Obligations.FabricCommandsSetMembership : Prop :=
  (∀ (f : Frame) (s : State) (p : List Byte), Delivered 0x0E01 f s → f.payload = p → byteAt p 23 ≠ 0xFF →
    legalDevice 0x0E01 s = none →
    ∃ t, Effects (.fabricAddress f) f {} s t ∧ t.fabric = { s.fabric with
      flashIpv4 := BitVec.ofNat 32 (le p 0 4), flashIpv6 := BitVec.ofNat 128 (le p 8 16) } ∧
      t = { s with sessions := t.sessions, journal := t.journal, fabric := t.fabric }) ∧
  (∀ (f : Frame) (s : State) (p : List Byte) (id want vlan : Nat), Delivered 0x0E02 f s → f.payload = p → le p 0 8 = id →
    le p 8 2 = want → le p 10 2 = vlan → 0 < id → id < 18446744073709551615 → (want < 4096 ∨ want = 65535) → vlan ≤ 4094 →
    legalDevice 0x0E02 s = none →
    ∃ t, Effects (.fabricJoin f) f {} s t ∧ t.fabric = { s.fabric with
      role := 0, domain := 0, head := 0xFFFF, headSerial := [], mask := 0, member := true, id := id, preferred := want,
      vlan := vlan, key := slice p 16 32, routes := [], lastBeacon := none, address := if want < 4096 then want else 0, claim := 0,
      claimBeacons := 0 } ∧
      (s.fabric.role = 2 → t.wheel.ptpValid = false ∧ t.wheel.transmitter = none ∧ t.schedule.tentative = []) ∧
      (s.fabric.role ≠ 2 → t = { s with sessions := t.sessions, journal := t.journal, fabric := t.fabric })) ∧
  (∀ (f : Frame) (s : State), Delivered 0x0E03 f s → legalDevice 0x0E03 s = none →
    ∃ t, Effects (.fabricLeave f) f {} s t ∧ t.fabric.member = false ∧ t.fabric.role = 0 ∧ t.fabric.claim = 2 ∧
      t.fabric.key = [] ∧ t.fabric.routes = [] ∧ t.fabric.lastBeacon = none ∧ t.fabric.ipv4 = s.fabric.ipv4 ∧
      (s.fabric.role = 2 → t.wheel.ptpValid = false ∧ t.wheel.transmitter = none ∧ t.schedule.tentative = []) ∧
      (s.fabric.role ≠ 2 → t = { s with sessions := t.sessions, journal := t.journal, fabric := t.fabric })) ∧
  (∀ (f : Frame) (s : State) (first n : Nat), Delivered 0x0E04 f s → le f.payload 0 2 = first → le f.payload 2 2 = n →
    n ≤ 64 → 64 * n + 56 ≤ (s.session f.session.toNat).maxPayload → first + n ≤ 4096 → first ≤ 4095 →
    legalDevice 0x0E04 s = none →
    ∃ t, Serves (.fabricStatus f) f {
        data := leBytes 2 s.fabric.address ++ leBytes 1 s.fabric.role ++
        leBytes 1 s.fabric.claim ++ leBytes 8 s.fabric.id ++ zeros 4 ++
        (List.range' first n).flatMap (s.fabric.statusEntry s.uptime) } s t ∧
      t = { s with out := t.out, sessions := t.sessions })

/-- Neighbours: the device answers for its own addresses; a due beacon goes out and is the module's own route entry, held from
the fifth on; a beacon of another module enters the route table, and a route silent for 1,048,576 notches leaves it; of two
modules that claim one address, the one with the higher serial number claims another. -/
def Obligations.RoutesFollowBeacons : Prop :=
  (∀ (a : BitVec 32) (g : Option SecTag) (b : BitVec 32) (s₀ s : State), s₀.letIn g = (s, true) → s.dev.portUp = true →
    s.fabric.ipv4 ≠ 0 → b = s.fabric.ipv4 →
    exec (.arpRequest (a, g) b) s₀ = .next (s.send (.arpReply b))) ∧
  (∀ (a : BitVec 128) (g : Option SecTag) (b : BitVec 128) (s₀ s : State), s₀.letIn g = (s, true) → s.dev.portUp = true →
    (b.toNat = s.linkLocal ∨ (s.fabric.ipv6 ≠ 0 ∧ b = s.fabric.ipv6)) →
    exec (.neighborSolicitation (a, g) b) s₀ = .next (s.send (.neighborAdvertisement b))) ∧
  (∀ s : State, s.Canonical → s.fabric.member = true → s.stagePassed 9 = true →
    (∀ n, s.fabric.lastBeacon = some n → n + 262144 ≤ s.uptime) → s.fabric.claim < 2 →
    ∃ t b, exec .beaconSend s = .next t ∧ t.wire = (s.send (t.fabricFrame none (.beacon b))).wire ∧
      t.fabric.entry s.fabric.address = some b ∧
      b.address = s.fabric.address ∧ b.fabric = s.fabric.id ∧ b.number = t.fabric.beacons ∧
      t.fabric.beacons = (s.fabric.beacons + 1) % 2 ^ 32 ∧ t.fabric.lastBeacon = some s.uptime ∧
      t.fabric.claim = (if s.fabric.claim = 0 ∧ 4 ≤ s.fabric.claimBeacons then 1 else s.fabric.claim) ∧
      t = { s.send (t.fabricFrame none (.beacon b)) with fabric := t.fabric }) ∧
  (∀ (b : Beacon) (s₀ s : State), s.Canonical → s₀.letIn b.secured = (s, true) → b.tagOk = true → s.fabric.member = true →
    b.fabric = s.fabric.id → b.claim ≠ 2 → b.serial ≠ s.dev.serial → (s.fabric.claim = 2 ∨ b.address ≠ s.fabric.address) →
    (∀ x, s.fabric.entry b.address = some x → x.serial = b.serial) →
    ∃ t, exec (.beaconReceived b) s₀ = .next t ∧ t.fabric.entry b.address = some b ∧
      (∀ a, a ≠ b.address → t.fabric.entry a = s.fabric.entry a) ∧ t = { s with fabric := t.fabric }) ∧
  (∀ (b : Beacon) (s₀ s : State), s₀.letIn b.secured = (s, true) → b.tagOk = true → s.fabric.member = true →
    b.fabric = s.fabric.id → b.claim ≠ 2 → b.serial ≠ s.dev.serial → b.address = s.fabric.address → s.fabric.claim ≠ 2 →
    exec (.beaconReceived b) s₀ = .next (if bytesBefore s.dev.serial b.serial = true then s
      else ((s.fillRoute b).claim).setTroubleBit .port 3)) ∧
  (∀ (a : Nat) (b : Beacon) (s : State), s.Canonical → s.fabric.entry a = some b →
    (sget {} s.fabric.routes a).heardAt + 1048576 ≤ s.uptime → s.fabric.runs = [] → s.fabric.checks = [] → s.fabric.role ≠ 2 →
    ∃ t, exec (.routeEntryExpiry a) s = .next t ∧ t.fabric.entry a = none ∧
      (∀ d, d ≠ a → t.fabric.entry d = s.fabric.entry d) ∧ t = { s with fabric := t.fabric })

/-- A fabric frame whose tag fails, or that reaches a module that is no member, or whose opcode is reserved, is dropped and counted,
and does nothing else once MACsec has let it in. That a frame with a reserved opcode arrives as the row of the copy acknowledgement is
the model's choice (assumption log 14). -/
def Obligations.BadFabricFramesAreDropped : Prop :=
  ∀ (s₀ s : State) (i : Instr) (ok : Bool) (g : Option SecTag), s₀.letIn g = (s, true) → ok = false ∨ s.fabric.member = false →
    (∃ b : Beacon, i = .beaconReceived b ∧ b.tagOk = ok ∧ b.secured = g) ∨
    (∃ m : Forward, (i = .probe m ∨ i = .commit m true ∨ i = .commit m false) ∧ m.tagOk = ok ∧ m.secured = g) ∨
    (∃ a : Answer, (i = .probeAnswer a ∨ i = .commitAnswer a) ∧ a.tagOk = ok ∧ a.secured = g) ∨
    (∃ m : CopyMsg, (i = .copyDestinationCheck m ∨ i = .copyPagePiece m) ∧ m.tagOk = ok ∧ m.secured = g) ∨
    (∃ h : AckHead, ∃ n p c y, i = .copyAck h n p c y ∧ h.secured = g ∧ (h.tagOk = ok ∨ h.opcode ≠ 0x0E87)) →
    exec i s₀ = .next { s with port := { s.port with fabricDropped := min (s.port.fabricDropped + 1) 4294967295 } }

/-! ## Cascades (R436 to R441) -/

/-- CASCADE.FORM makes a settled module a head, a follower of no head still in its route table among them; CASCADE.FOLLOW makes a
module that claims an address the follower of a head in its route table, with the head's Sync as its only source; CASCADE.LEAVE ends
the role, and a follower's tentative bookings with it. The replies wait for the journal. That a follower whose head is gone may form a
cascade at once is assumption log 26 (DEDUCED from R441). -/
def Obligations.CascadeRolesAreTakenAndLeft : Prop :=
  (∀ (f : Frame) (s : State) (d : Nat), Delivered 0x0F01 f s → le f.payload 0 1 = d → d ≤ 127 → legalDevice 0x0F01 s = none →
    s.fabric.member = true → s.fabric.claim = 1 →
    (s.fabric.role ≠ 2 →
      ∃ t, Effects (.cascadeForm f) f {} s t ∧ t.fabric = { s.fabric with role := 1, domain := d } ∧
        t = { s with sessions := t.sessions, journal := t.journal, fabric := t.fabric }) ∧
    (s.fabric.role = 2 → s.fabric.routeOf s.fabric.headSerial = none →
      ∃ t, Effects (.cascadeForm f) f {} s t ∧ t.fabric.role = 1 ∧ t.fabric.domain = d ∧ t.fabric.headSerial = [] ∧
        t.wheel.ptpValid = false ∧ t.schedule.tentative = [])) ∧
  (∀ (f : Frame) (s : State) (p : List Byte) (a d : Nat) (b : Beacon), Delivered 0x0F02 f s → f.payload = p → le p 0 2 = a →
    le p 2 1 = d → d ≤ 127 → legalDevice 0x0F02 s = none → s.fabric.member = true → s.fabric.claim ≠ 2 → s.fabric.role ≠ 1 →
    s.fabric.entry a = some b → b.role = 1 → s.fabric.followersOf a s.dev.serial < 15 →
    ∃ t, Effects (.cascadeFollow f) f {} s t ∧
      t.fabric = { s.fabric with role := 2, domain := d, head := a, headSerial := b.serial, mask := BitVec.ofNat 64 (le p 8 8) } ∧
      t.wheel.ptpValid = false ∧ t.wheel.transmitter = none ∧ t.wheel.awaitedFollowUp = none ∧
      (s.fabric.role = 0 → s.wheel.inUse = none →
        t.wheel = { s.wheel with ptpValid := false, transmitter := none, awaitedFollowUp := none } ∧
        t = { s with sessions := t.sessions, journal := t.journal, fabric := t.fabric, wheel := t.wheel })) ∧
  (∀ (f : Frame) (s : State), Delivered 0x0F03 f s → legalDevice 0x0F03 s = none →
    ∃ t, Effects (.cascadeLeave f) f {} s t ∧
      t.fabric = { s.fabric with role := 0, domain := 0, head := 0xFFFF, headSerial := [], mask := 0 } ∧
      (s.fabric.role = 2 → t.wheel.ptpValid = false ∧ t.wheel.transmitter = none ∧ t.schedule.tentative = []) ∧
      (s.fabric.role ≠ 2 → t = { s with sessions := t.sessions, journal := t.journal, fabric := t.fabric }))

/-- The head's side of one forwarded command with one follower, bound by its serial number: CASCADE.RUN sends a probe; the
follower's acceptance makes it the chosen one and a commit goes out; an answer REFUSED.ADDRESS ends the command; an unanswered
commit goes out again every 24 notches; the answer of the commit becomes the reply, with the follower's address after its data. That a
member's REFUSED.ADDRESS ends the whole command is assumption log 26, and the fields of the frames are log 14, the model's choices. -/
def Obligations.TheHeadForwardsItsRuns : Prop :=
  (∀ (f : Frame) (s u : State) (c a : Nat) (b : Beacon), Acts 0x0F04 f s u c → le f.payload 0 1 ≤ 63 → le f.payload 6 2 = 1 →
    0 < le f.payload 76 2 → le f.payload 8 2 = a → (∀ i, 1 ≤ i → i < 16 → le f.payload (8 + 2 * i) 2 = 0) →
    u.fabric.role = 1 → u.fabric.claim ≠ 2 → u.fabric.entry a = some b → b.role = 2 → b.head = u.fabric.address →
    a ≠ u.fabric.address → b.serial ≠ u.dev.serial → legalDevice 0x0F04 u = none →
    Handles (.cascadeRun f) f s (.later { u with
      wire := u.wire ++ [u.fabricFrame (some b.serial) (.probe (u.forwardOf f))],
      fabric := { u.fabric with runs := u.fabric.runs ++
        [{ frame := f, members := [b.serial], answers := [], chosen := none, committedAt := 0 }] } })) ∧
  (∀ (s₀ s : State) (r : CascadeRun) (a : Answer), s₀.letIn a.secured = (s, true) → s.fabric.runs = [r] → r.members = [a.serial] →
    r.answers = [] → r.chosen = none → r.frame.session.toNat = a.session → r.frame.number.toNat = a.number → a.tagOk = true →
    s.fabric.member = true → a.serial ≠ s.dev.serial →
    (a.status = Status.accepted →
      exec (.probeAnswer a) s₀ = .next { s.send (s.fabricFrame (some a.serial) (.commit (s.forwardOf r.frame) false)) with
        fabric := { s.fabric with runs := [{ r with answers := [a], chosen := some a.serial, committedAt := s.uptime }] } }) ∧
    (a.status = Status.address →
      exec (.probeAnswer a) s₀ = .next (State.sendReply { s with fabric := { s.fabric with runs := [] } } a.session a.number 0x0F04
        (refuse Status.address)))) ∧
  (∀ (s : State) (r : CascadeRun) (a : List Byte) (sid n : Nat), s.fabric.runs = [r] → r.chosen = some a →
    r.frame.session.toNat = sid → r.frame.number.toNat = n → r.committedAt + 24 ≤ s.uptime → a ≠ s.dev.serial →
    exec (.commitResend sid n) s = .next { s.send (s.fabricFrame (some a) (.commit (s.forwardOf r.frame) false)) with
      fabric := { s.fabric with runs := [{ r with committedAt := s.uptime }] } }) ∧
  (∀ (s₀ s : State) (r : CascadeRun) (a : Answer), s₀.letIn a.secured = (s, true) → s.fabric.runs = [r] → r.chosen = some a.serial →
    r.frame.session.toNat = a.session → r.frame.number.toNat = a.number → a.tagOk = true → s.fabric.member = true →
    exec (.commitAnswer a) s₀ = .next (State.sendReply { s with fabric := { s.fabric with runs := [] } } a.session a.number 0x0F04
      (answerReply a (a.data ++ leBytes 2 a.member ++ zeros 6))))

/-- The follower's side: a probe of its head is answered with the promise, or the place in the queue, that the follower could give, and
an admitted one holds its placement for 48 notches; one for a context that its mask leaves out is answered REFUSED.ADDRESS (assumption
log 26); a release lets it go, a commit that still passes its checks sends it to the journal with its pages, and after 48 notches it
lapses. The fields of the answer are the model's choice (log 14). -/
def Obligations.TheFollowerHoldsItsPlacement : Prop :=
  (∀ (s₀ s : State) (m : Forward) (q : StepParams) (cmd : Cmd), s₀.letIn m.secured = (s, true) → m.tagOk = true →
    s.fabric.member = true → s.fabric.role = 2 → m.headSerial = s.fabric.headSerial →
    (s.fabric.mask.getLsbD m.context = true → stepParams m.params = q →
      firstFailing (stepForm m.context 40 q s ++ stepState m.context q s ++ [flowCheck m.context s]) = none →
      s.judge m.context (forwardFrame m) q = .inr cmd →
      ∃ a : Answer, a.member = s.fabric.address ∧ a.serial = s.dev.serial ∧ a.session = m.session ∧ a.number = m.number ∧
        (cmd.cls ≠ 2 → a.status = Status.accepted ∧ a.value = cmd.rampIn ∧ a.notchA = cmd.promise ∧
          a.notchB = cmd.promise - cmd.duration - cmd.rampIn) ∧
        (cmd.cls = 2 → a.status = Status.queued ∧ a.value = s.fillersWaiting) ∧
        exec (.probe m) s₀ = .next { s.send (s.fabricFrame (some m.headSerial) (.probeAnswer a)) with schedule := { s.schedule with
          nextTentative := s.schedule.nextTentative + 1,
          tentative := s.schedule.tentative.filter (·.key != forwardKey m) ++
            [{ id := s.schedule.nextTentative, key := forwardKey m, context := m.context,
               cmd := { cmd with forwarded := some (forwardKey m) }, until_ := s.uptime + 48 }] } }) ∧
    (s.fabric.mask.getLsbD m.context = false →
      exec (.probe m) s₀ = .next (s.send (s.fabricFrame (some m.headSerial) (.probeAnswer
        { member := s.fabric.address, serial := s.dev.serial, session := m.session, number := m.number,
          status := Status.address }))))) ∧
  (∀ (s₀ s : State) (m : Forward), s₀.letIn m.secured = (s, true) → m.tagOk = true → s.fabric.member = true → s.fabric.role = 2 →
    m.headSerial = s.fabric.headSerial →
    exec (.commit m true) s₀ = .next { s with schedule := { s.schedule with
      tentative := s.schedule.tentative.filter (·.key != forwardKey m) } }) ∧
  (∀ (s₀ s u : State) (m : Forward) (t : Tentative), s₀.letIn m.secured = (s, true) → m.tagOk = true → s.fabric.member = true →
    s.fabric.role = 2 → m.headSerial = s.fabric.headSerial → s.fabric.keptFor (forwardKey m) = none →
    (∀ x ∈ s.journal.staging, x.cmd.forwarded ≠ some (forwardKey m)) →
    s.schedule.tentative.find? (·.key == forwardKey m) = some t →
    u = { s with schedule := { s.schedule with tentative := s.schedule.tentative.filter (·.key != forwardKey m) } } →
    firstFailing (u.commitChecks m t) = none → (u.appendBooked t.context t.cmd.slots t.cmd.append).isSome = true →
    exec (.commit m false) s₀ = .next (u.stageStep t.context t.cmd m.session m.number true)) ∧
  (∀ (s : State) (n : Nat) (t : Tentative), t ∈ s.schedule.tentative → t.id = n → t.until_ ≤ s.uptime →
    exec (.tentativeBookingLapse n) s = .next { s with schedule := { s.schedule with
      tentative := s.schedule.tentative.filter (·.id != n) } })

/-! ## Copies between modules (R442 to R444) -/

/-- The source: FABRIC.COPY and FABRIC.MIGRATE ask a held peer; its consent sends the command to the journal; each acknowledged
unit moves the copy on by one, and a resend sends the present one again in pieces of 8,192 bytes, or begins a command that came back
from the journal; when its last unit is acknowledged, the command completes and releases its pin. The frames' fields and the check
that a migration asks for are the model's (assumption log 14). -/
def Obligations.TheSourceCopiesUnitByUnit : Prop :=
  (∀ (f : Frame) (s u : State) (c peer ctx src dst n : Nat) (b : Beacon), Acts 0x0E05 f s u c → le f.payload 0 2 = peer →
    le f.payload 2 1 = ctx → le f.payload 8 8 = src → le f.payload 16 8 = dst → le f.payload 24 8 = n → 0 < n → n ≤ 2 ^ 40 →
    peer ≤ 4095 → ctx ≤ 63 → src % 65536 = 0 → dst % 65536 = 0 → n % 65536 = 0 → u.heldPeer peer = some b →
    u.copyForeign c src n = false → legal 0x0E05 c u = none → u.windowRefusal src n = none → flowCheck c u = none →
    Handles (.fabricCopy f) f s (.later { u with
      wire := u.wire ++ [u.fabricFrame (some b.serial) (.check
        { sourceSerial := u.dev.serial, context := ctx, csn := checkTag f, migrate := false, destination := dst, length := n,
          data := u.carveMap src n })],
      fabric := { u.fabric with checks := u.fabric.checks ++ [(f, b.serial)] } })) ∧
  (∀ (f : Frame) (s u : State) (c peer : Nat) (b : Beacon), Acts 0x0E06 f s u c → le f.payload 0 2 = peer → peer ≤ 4095 →
    u.heldPeer peer = some b → legal 0x0E06 c u = none → u.migrateWindow c = none → flowCheck c u = none →
    Handles (.fabricMigrate f) f s (.later { u with
      wire := u.wire ++ [u.fabricFrame (some b.serial) (.check
        { sourceSerial := u.dev.serial, context := c, csn := checkTag f, migrate := true, destination := 2 ^ 60, length := 1,
          data := (u.grant c).bytes ++ u.windowBytes c })],
      fabric := { u.fabric with checks := u.fabric.checks ++ [(f, b.serial)] } })) ∧
  (∀ (h : AckHead) (s₀ s u : State) (f : Frame) (serial : List Byte) (n : Nat), s₀.letIn h.secured = (s, true) → h.tagOk = true →
    h.opcode = 0x0E87 → s.fabric.member = true → s.fabric.claim ≠ 2 →
    s.fabric.checks.find? (fun e => checkTag e.1 == checkTag f) = some (f, serial) → f.opcode.toNat = 0x0E05 →
    u = { s with fabric := { s.fabric with checks := s.fabric.checks.filter fun e => e != (f, serial) } } →
    firstFailing [legal 0x0E05 f.context.toNat u, u.windowRefusal (le f.payload 8 8) (le f.payload 24 8),
      flowCheck f.context.toNat u] = none →
    exec (.copyAck h (checkTag f) n true true) s₀ = .next (u.stage
      { stream := f.context.toNat, session := f.session.toNat, number := f.number.toNat, answer := true,
        cmd := { opcode := 0x0E05, frame := f, peer := serial, acceptedAt := u.now, address := le f.payload 8 8,
                 value := le f.payload 16 8, count := le f.payload 24 8 } })) ∧
  (∀ (h : AckHead) (s₀ s : State) (c csn unit : Nat) (m : Cmd), s₀.letIn h.secured = (s, true) → h.tagOk = true →
    h.opcode = 0x0E87 → s.fabric.member = true → s.fabric.claim ≠ 2 → csn < 2 ^ 64 → s.cmd c csn = some m → m.phase ≠ .completed →
    (s.copyUnits c m)[m.progress]? = some unit →
    exec (.copyAck h (2 ^ 64 * c + csn) unit false true) s₀ = .next ((s.modCmd c csn fun y =>
      { y with progress := y.progress + 1, lost := y.lost + (s.unitBytes c m unit).2.1.length }).copyOn c csn)) ∧
  (∀ (s u v : State) (c csn : Nat) (m : Cmd), s.Canonical → c < 64 → s.cmd c csn = some m → m.opcode = 0x0E05 ∨ m.opcode = 0x0E06 →
    m.phase = .working → (s.copyUnits c m)[m.progress]? = none → m.stop = none → s.complete c csn 0 s.now
      (if m.opcode = 0x0E06 then m.lost else 0) { rank := 0, status := 0 } = v → v.replayStep = u →
    s.copyOn c csn = u ∧ (∃ m', v.cmd c csn = some m' ∧ m'.phase = .completed ∧ m'.status = Status.done) ∧
      v.wire = (s.send (s.fabricFrame (some m.peer) (.check {
        sourceSerial := s.dev.serial, context := if m.opcode = 0x0E05 then le m.frame.payload 2 1 else c,
        csn := 2 ^ 64 * c + m.csn, migrate := decide (m.opcode = 0x0E06), destination := m.value, length := 0 }))).wire) ∧
  (∀ (s : State) (c csn unit : Nat) (m : Cmd), s.cmd c csn = some m → m.opcode = 0x0E05 → m.phase = .working →
    (s.copyUnits c m)[m.progress]? = some unit → s.fabric.claim ≠ 2 → (∀ e ∈ s.unitPlaces c m unit, s.reachHeld e.1 e.2 = false) →
    (∀ v data, m.begun = true → s.Clear → s.unitBytes c m unit = (v, data, none) →
      exec (.copyPageResend c csn) s = .next { v with
        wire := v.wire ++ (List.range ((data.length + 8191) / 8192)).map fun i =>
          v.fabricFrame (some m.peer) (.copy {
            sourceSerial := s.dev.serial, context := le m.frame.payload 2 1, csn := 2 ^ 64 * c + m.csn, migrate := false,
            destination := unit, length := data.length, offset := 8192 * i, data := slice data (8192 * i) 8192 }) }) ∧
    (m.begun = false → exec (.copyPageResend c csn) s =
      .next ((s.modCmd c csn fun y => { y with progress := 0, lost := 0, begun := true }).copyOn c csn)))

/-- The peer: a span that a MEM.WRITE of the context could write is pinned, and the check answered; the first piece of a unit under
a pin is kept until the unit is whole; a whole unit is in memory then, and acknowledged, outside a held bank and a window. The fields of
the answers, and that a piece names its place and the kind of its unit in one number, are the model's (assumption log 14). -/
def Obligations.ThePeerPinsAndTakes : Prop :=
  (∀ (s₀ s : State) (m : CopyMsg), s₀.letIn m.secured = (s, true) → m.tagOk = true → s.fabric.member = true → s.fabric.claim ≠ 2 →
    m.length ≠ 0 → m.migrate = false → s.checkSpan m = 0 →
    exec (.copyDestinationCheck m) s₀ = .next (State.send ((s.unpin m).modContext m.context fun x => { x with pins := x.pins ++
        [{ source := m.sourceSerial, csn := m.csn, migrate := false, destination := m.destination, length := m.length }] })
      (s.fabricFrame (some m.sourceSerial) (.copyAck m.context m.csn 0 true true)))) ∧
  (∀ (s₀ s v : State) (m : CopyMsg) (p : Pin) (a : Nat), s₀.letIn m.secured = (s, true) → m.tagOk = true →
    s.fabric.member = true → s.fabric.claim ≠ 2 → m.migrate = false → m.offset = 0 → m.data.length = m.length →
    (s.context m.context).pins.find? (·.takes m) = some p → m.destination % 2 ^ 60 = a → s.inFailedStack a m.length = false →
    s.firstWindow a m.length = none → s.accessHeld a m.length = false → s.partlyLost {} a m.length = (v, none) →
    ∃ t, exec (.copyPagePiece m) s₀ = .next t ∧ t = State.send ((v.writeDevice {} a m.data).modContext m.context fun x => { x with
          pins := x.pins.map fun y => if y = p then { p with unit := 0, buffer := [], moved := p.moved + m.length } else y })
        (s.fabricFrame (some m.sourceSerial) (.copyAck m.context m.csn m.destination false true)) ∧
      (s.Canonical → s.Sound → s.stored a m.data.length → Wrote s.mem a m.data t.mem)) ∧
  (∀ (s₀ s : State) (m : CopyMsg) (p : Pin), s₀.letIn m.secured = (s, true) → m.tagOk = true → s.fabric.member = true →
    s.fabric.claim ≠ 2 → m.migrate = false → m.offset = 0 → m.data.length < m.length →
    (s.context m.context).pins.find? (·.takes m) = some p →
    exec (.copyPagePiece m) s₀ = .next (s.modContext m.context fun x => { x with
      pins := x.pins.map fun y => if y = p then { p with unit := m.destination, buffer := m.data } else y }))

/-! ## Firmware, operators, MACsec and attestation (R447 to R458) -/

/-- FW.STATUS shows the slots; FW.WRITE at the first byte, or where the last one ended, goes to the slot that does not run;
FW.ACTIVATE of a whole image starts its check, and FIRMWARE_CHECK_DONE stages a valid image for the next start or names the first
check it fails; the slot that runs stays as it is. The replies of FW.WRITE and FW.ACTIVATE wait for the journal. In FAULTED without
a bootable image the test connector loads an image that passes the same checks. The numbers of the reasons, and
what the test connector leaves in the device, are the model's (assumption log 27). -/
def Obligations.FirmwareIsWrittenAndChecked : Prop :=
  (∀ (f : Frame) (s : State), Delivered 0x1001 f s → legalDevice 0x1001 s = none →
    ∃ t, Serves (.fwStatus f) f {
        data := leBytes 1 s.sec.running ++ leBytes 1 s.sec.staged ++ leBytes 1 s.sec.rollback ++
        zeros 1 ++ leBytes 4 s.sec.writePosition ++ leBytes 4 s.sec.runningVersion ++
        leBytes 4 (if s.sec.staged = 0 then 0 else imageVersion s.sec.other.image) ++ leBytes 4 s.sec.reason } s t ∧
      t = { s with out := t.out, sessions := t.sessions }) ∧
  (∀ (f : Frame) (s : State) (o n : Nat), Delivered 0x1002 f s → le f.payload 0 4 = o → le f.payload 4 4 = n → 0 < n → n ≤ 8192 →
    (o = 0 ∨ o = s.sec.writePosition) → o + n ≤ 8388608 →
    legalDevice 0x1002 s = none → s.sec.staged ≠ 2 → s.programHeld + n ≤ 65536 →
    ∃ t, Effects (.fwWrite f) f {} s t ∧ t.sec.staged = 1 ∧ t.sec.writePosition = o + n ∧
      (s.sec.running = 0 → t.sec.slotA = s.sec.slotA) ∧ (s.sec.running ≠ 0 → t.sec.slotB = s.sec.slotB) ∧
      t.sec.other.image = s.sec.other.image.take o ++ slice f.payload 8 n ∧
      t.sec = { s.sec with slotA := t.sec.slotA, slotB := t.sec.slotB, staged := 1, writePosition := o + n, reason := 0,
                           programBuffer := t.sec.programBuffer, programAt := s.uptime } ∧
      t = { s with sessions := t.sessions, journal := t.journal, sec := t.sec }) ∧
  (∀ (f : Frame) (s : State), Delivered 0x1003 f s → legalDevice 0x1003 s = none → s.sec.staged ≠ 0 → s.sec.staged ≠ 2 →
    s.sec.writePosition = imageLength s.sec.other.image →
    ∃ t, Effects (.fwActivate f) f {} s t ∧ t.sec = { s.sec with staged := 2 } ∧
      t = { s with sessions := t.sessions, journal := t.journal, sec := t.sec }) ∧
  (∀ (r : Nat) (s : State), s.sec.staged = 2 → r = imageFault s.sec.other.image s.sec.firmwareKeyDigest s.sec.rollback →
    exec (.firmwareCheckDone r) s =
      .next { s with sec := { s.sec with staged := if r = 0 then 3 else 4, reason := r } }) ∧
  (∀ (fields key signature body l : List Byte) (s : State), s.dev.state = .faulted → s.dev.readiness = 1 → s.dev.testMode = false →
    l = padTo 64 fields ++ padTo 160 key ++ padTo 96 signature ++ body → imageFault l s.sec.firmwareKeyDigest s.sec.rollback = 0 →
    ∃ t, exec (.testFirmwareLoad fields key signature body) s = .next t ∧
      t.sec = { s.sec with testImage := true, kept := l, bodyDigest := some (sha384 (imageBody l)) } ∧
      t.dev.state = .faulted ∧ t = { s with sec := t.sec, dev := t.dev })

/-- FW.AUTHORISE with an authorisation that the factory key signed arms the clearing of the defect list; FW.ENROLL and FW.REMOVE
write one operator slot and a copy of the table under the next sequence number; every session opened with that slot ends with the
notch, the sender's own after its reply. FW.MACSEC turns protection off, or adds an association, with its key unwrapped, in place of the one of
its direction and number and of those of another channel in its direction; its Require waits for its reply. The replies wait for the
journal. That a table is refused, with REFUSED.STATE, that would lose its last management operator, is the model's choice of the
refusal (assumption log 27), as is the copy of the table that is written (log 54). -/
def Obligations.KeysAreSet : Prop :=
  (∀ (f : Frame) (s : State), Delivered 0x1004 f s → firstFailing (authorisationForm f.payload) = none →
    legalDevice 0x1004 s = none → s.authorised f.payload 0 1 s.dev.listSequence = true →
    ∃ t, Effects (.fwAuthorise f) f {} s t ∧ t.dev = { s.dev with clearAuthorised := true } ∧
      t = { s with sessions := t.sessions, journal := t.journal, dev := t.dev }) ∧
  (∀ (f : Frame) (s : State) (p : List Byte) (slot : Nat) (v : Operator), Delivered 0x1005 f s → f.payload = p →
    le p 0 1 = slot → slot ≤ 15 → v = { used := true, ceiling := le p 1 1, mask := BitVec.ofNat 64 (le p 8 8), key := slice p 16 97 } →
    v.ceiling ≤ 1 → (keyPoint v.key).isSome = true → legalDevice 0x1005 s = none →
    (managed (sput {} s.sec.operators slot v) = true →
      ∃ t, Runs (.fwEnroll f) f s t ∧ OperatorSet f slot v s t) ∧
    (managed (sput {} s.sec.operators slot v) = false → Handles (.fwEnroll f) f s (.reply (fwState (s.noted f)) (s.noted f)))) ∧
  (∀ (f : Frame) (s : State) (slot : Nat), Delivered 0x1006 f s → le f.payload 0 1 = slot → slot ≤ 15 →
    legalDevice 0x1006 s = none →
    (managed (sput {} s.sec.operators slot {}) = true →
      ∃ t, Runs (.fwRemove f) f s t ∧ OperatorSet f slot {} s t) ∧
    (managed (sput {} s.sec.operators slot {}) = false → Handles (.fwRemove f) f s (.reply (fwState (s.noted f)) (s.noted f)))) ∧
  (∀ (f : Frame) (s : State), Delivered 0x1007 f s → le f.payload 0 1 = 0 → le f.payload 1 1 ≤ 1 → le f.payload 2 1 ≤ 3 →
    le f.payload 28 4 ≤ 1073741824 → legalDevice 0x1007 s = none →
    ∃ t, Effects (.fwMacsec f) f {} s t ∧
      t.sec = { s.sec with macsec := false, assocs := [],
                           requireDue := s.sec.requireDue ++ [(f.session.toNat, f.number.toNat, decide (le f.payload 1 1 = 1))] } ∧
      t = { s with sessions := t.sessions, journal := t.journal, sec := t.sec }) ∧
  (∀ (f : Frame) (s : State) (p key : List Byte) (op : Nat) (a : SecAssoc), Delivered 0x1007 f s → f.payload = p → le p 0 1 = op →
    (op = 1 ∨ op = 2) → le p 1 1 ≤ 1 → le p 2 1 ≤ 3 →
    gcmOpen (s.session f.session.toNat).wrapKey (leBytes 8 f.number.toNat ++ zeros 4) (slice p 0 40) (slice p 40 48) = some key →
    a = { receive := decide (op = 1), an := le p 2 1, sci := le p 4 8, ssci := le p 12 4, salt := slice p 16 12, window := le p 28 4,
          nextPn := le p 32 8, lowest := le p 32 8, key := key } →
    a.window ≤ 1073741824 → legalDevice 0x1007 s = none →
    ∃ t, Effects (.fwMacsec f) f {} s t ∧
      t.sec = { s.sec with
        macsec := true
        requireDue := s.sec.requireDue ++ [(f.session.toNat, f.number.toNat, decide (le p 1 1 = 1))]
        assocs := a.joins s.sec.assocs } ∧
      (∀ x, x ∈ t.sec.assocs ↔ x = a ∨ (x ∈ s.sec.assocs ∧ (x.receive ≠ a.receive ∨ (x.sci = a.sci ∧ x.an ≠ a.an)))) ∧
      t = { s with sessions := t.sessions, journal := t.journal, sec := t.sec })

/-! ## Injections (R460 to R469) -/

/-- INJECT.LINK, INJECT.PORT and INJECT.ECC arm an injection under the next number, which the reply gives, and record it. A lane
that is to fail with no flit let past fails once the reply has gone, and an INJECT.ECC then flips its bits of its granule, or of its
block, and of nothing else. INJECT.CLEAR disarms the injection it names, or all, and what they caused stays; INJECT.STATUS lists
and changes nothing; a frame held by a reorder for 1,024 notches goes out. -/
def Obligations.InjectionsAreArmedAndCleared : Prop :=
  (∀ (f : Frame) (s u : State) (c : Nat) (p : List Byte) (j : Injection), Acts 0x1201 f s u c → f.payload = p →
    j = { number := u.nextInjection, verb := 1, action := le p 3 1, link := le p 0 1, bundle := le p 1 1, direction := le p 2 1,
          lane := le p 4 2, skip := le p 8 4, left := le p 12 4, armedAt := u.uptime, session := f.session.toNat,
          waiting := some f.number.toNat } →
    0 < j.left → j.left ≤ 65534 → j.link ≤ 5 → j.bundle < bundlesOf j.link → j.direction ≤ 1 →
    (((j.action = 1 ∨ j.action = 2) ∧ j.lane = 0) ∨ (j.action = 3 ∧ j.lane ≤ 297 ∧ j.left = 1)) →
    j.skip < 4294967295 → legalDevice 0x1201 u = none → u.injections = [] →
    ∃ v : State, Handles (.injectLink f) f s (.reply { value := u.nextInjection } v) ∧
      v.nextInjection = u.nextInjection + 1 ∧ v.injections = [j] ∧ v.logNext = u.logNext + 1 ∧ v.links = u.links) ∧
  (∀ (s : State) (j : Injection), s.Canonical → s.injections = [j] → j.verb = 1 → j.action = 3 → j.skip = 0 → j.armed = true →
    j.left = 1 → j.hits = 0 → j.link ≤ 5 → j.bundle < bundlesOf j.link → j.direction ≤ 1 →
    ((j.waiting.isSome = true ∨ s.uptime ≤ j.armedAt) → s.failLanes = s) ∧
    (j.waiting = none → j.armedAt < s.uptime →
      s.failLanes.injections = [{ j with hits := 1, left := 0, armed := false }] ∧ s.failLanes.logNext = s.logNext + 2 ∧
      j.lane ∈ (s.failLanes.linkDir j.link j.bundle (j.direction == 0)).injected)) ∧
  (∀ (f : Frame) (s u : State) (c : Nat) (p : List Byte) (j : Injection), Acts 0x1202 f s u c → f.payload = p →
    j = { number := u.nextInjection, verb := 2, action := le p 1 1, direction := le p 0 1, depth := le p 2 1, context := le p 3 1,
          kinds := le p 4 1, session := f.session.toNat, skip := le p 8 4, left := le p 12 4, every := le p 16 4,
          armedAt := u.uptime, waiting := some f.number.toNat } →
    0 < j.left → j.left ≤ 65534 → j.direction ≤ 1 →
    (((j.action = 1 ∨ j.action = 2 ∨ j.action = 4) ∧ j.depth = 0) ∨ (j.action = 3 ∧ 0 < j.depth ∧ j.depth ≤ 63)) →
    (j.context ≤ 63 ∨ j.context = 255) → 0 < j.kinds → j.kinds ≤ 63 → j.skip < 4294967295 → 0 < j.every → j.every ≤ 65536 →
    legalDevice 0x1202 u = none → u.injections = [] →
    ∃ v : State, Handles (.injectPort f) f s (.reply { value := u.nextInjection } v) ∧ v.injections = [j] ∧
      v.nextInjection = u.nextInjection + 1 ∧ v.logNext = u.logNext + 1) ∧
  (∀ (f : Frame) (s u : State) (c : Nat) (p : List Byte) (j : Injection), Acts 0x1203 f s u c → f.payload = p →
    j = { number := u.nextInjection, verb := 3, action := le p 1 1, link := le p 0 1, lane := u.physical (le p 2 2),
          address := le p 8 8, position := le p 4 2, armedAt := u.uptime, session := f.session.toNat,
          waiting := some f.number.toNat } →
    (j.action = 1 ∨ j.action = 2) →
    ((j.link = 1 ∧ le p 2 2 ≤ 239 ∧ j.position + 16 * (j.action - 1) ≤ 127 ∧ j.address % 16 = 0) ∨
      (j.link = 0 ∧ le p 2 2 = 0 ∧ u.otherCopyPlanted j.address = false ∧
        j.position + 16 * (j.action - 1) ≤ (if isExternal j.address then 511 else 127) ∧
        j.address % (if isExternal j.address then 64 else 16) = 0)) →
    u.plantable j.link (le p 2 2) j.address = true → legalDevice 0x1203 u = none → u.injections = [] →
    ∃ v : State, Handles (.injectEcc f) f s (.reply { value := u.nextInjection } v) ∧ v.injections = [j] ∧
      v.nextInjection = u.nextInjection + 1 ∧ v.logNext = u.logNext + 1 ∧ v.damage = u.damage ∧ v.mem = u.mem) ∧
  (∀ (s : State) (j : Injection) (outside : Bool), s.Canonical → s.injections = [j] → j.verb = 3 → j.armed = true →
    outside = (j.link == 0 && isExternal j.address) →
    (outside = true → s.dropLines (homeDie j.address) (fun l => l.line == j.address / 256) = s) →
    (j.waiting.isSome = true → s.plantDue = s) ∧
    (j.waiting = none → s.plantDue.injections = [{ j with armed := false }] ∧ s.plantDue.mem = s.mem ∧
      s.plantDue.damageAt j.key = (s.damageAt j.key).flipped (outside && s.segCode (segmentOf j.address) == 2) j.action j.position ∧
      (s.damageAt j.key = {} → j.action = 1 → (s.plantDue.damageAt j.key).kind = .correctable) ∧
      (∀ k, k ≠ j.key → s.plantDue.damageAt k = s.damageAt k))) ∧
  (∀ (f : Frame) (s u : State) (c n : Nat), Acts 0x1204 f s u c → le f.payload 0 2 = n → legalDevice 0x1204 u = none →
    (n = 0 ∨ ∃ j ∈ u.injections, j.number = n ∧ u.liveInjection j = true) →
    ∃ v : State, Handles (.injectClear f) f s (.reply {} v) ∧
      (∀ j ∈ v.injections, (n = 0 ∨ j.number = n) → j.armed = false) ∧
      (n ≠ 0 → ∀ j ∈ u.injections, j.number ≠ n → j ∈ v.injections) ∧
      v.links = u.links ∧ v.damage = u.damage ∧ v.mem = u.mem) ∧
  (∀ (f : Frame) (s u : State) (c : Nat), Acts 0x1205 f s u c → legalDevice 0x1205 u = none →
    Handles (.injectStatus f) f s (.reply { data := padTo 256 ((u.injections.filter u.liveInjection).flatMap fun j =>
      leBytes 2 j.number ++ leBytes 1 j.verb ++ leBytes 1 j.action ++ leBytes 4 j.left ++ leBytes 8 j.hits) } u)) ∧
  (∀ (s : State) (j : Injection) (o : OutFrame) (d at_ : Nat), s.injections = [j] → j.heldIn = [] → j.heldOut = [(o, d, at_)] →
    1024 + at_ ≤ s.uptime → s.Clear →
    exec (.injectReorderRelease j.number) s = .next { s with
      out := s.out ++ [o], injections := [{ j with heldOut := [] }] })

/-! ## Power domains (R358 to R364) and the port (R360, R483) -/

/-- POWER.POLICY stores its fields; POWER.DOMAIN begins the wake of every domain it names that is off, or switches off every one it
names that is not; when the port lanes go or come, the link drops, and its width follows. POWER.DOZE answers with what it keeps; with
its reply the device is in DOZE and remembers the state it leaves, and what is not kept is then switched off. POWER.WAKE begins the
wake of what DOZE switched off; a wake's end, not before its time, puts the domain ON, and the last one's ends DOZE. The replies wait
for the journal. That a DOZE is checked when it is received and acts with its reply is assumption log 53. -/
def Obligations.PowerCommandsSwitchDomains : Prop :=
  (∀ (f : Frame) (s : State) (m c i : Nat), Delivered 0x1302 f s → le f.payload 0 1 = m → le f.payload 2 2 = c →
    le f.payload 4 4 = i → m &&& 0x82 = 0 → 320 ≤ c → c ≤ 2400 → 1024 ≤ i → i ≤ 67108864 → legalDevice 0x1302 s = none →
    ∃ t, Effects (.powerPolicy f) f {} s t ∧ t.power = { s.power with autoMask := m, hostCap := c, idleThreshold := i } ∧
      t = { s with sessions := t.sessions, journal := t.journal, power := t.power }) ∧
  (∀ (f : Frame) (s u : State) (c mask : Nat), Acts 0x1301 f s u c → le f.payload 6 10 = mask → 0 < mask →
    mask.testBit 79 = false → legalDevice 0x1301 u = none →
    (le f.payload 0 1 = 1 → (∀ k ∈ bitsSet mask 79, (u.domain k).state = .off → u.mayOn k = true) →
      ∃ v : State, Handles (.powerDomain f) f s (.reply {} v) ∧
        (mask.testBit 76 = false → mask.testBit 77 = false → v = { u with power := v.power }) ∧
        (mask = 2 ^ 77 → (u.domain 77).state = .off → u.dev.mediumWidth = 0 → u.portWidthOn = 1 → u.dev.portWidth = 1 →
          v.dev.portUp = false) ∧
        (∀ k ∈ bitsSet mask 79, v.domain k = if (u.domain k).state = .off then { u.domain k with
            state := .waking, gated := false, since := u.uptime, wakeCount := saturate32 ((u.domain k).wakeCount + 1) }
          else u.domain k) ∧
        (∀ k, k ∉ bitsSet mask 79 → v.domain k = u.domain k)) ∧
    (le f.payload 0 1 = 0 → (∀ k ∈ bitsSet mask 79, (u.domain k).state ≠ .off → u.mayOff mask k = true) →
      ∃ v : State, Handles (.powerDomain f) f s (.reply {} v) ∧
        (∀ k ∈ bitsSet mask 79, (v.domain k).state = .off) ∧ (∀ k, k ∉ bitsSet mask 79 → v.domain k = u.domain k) ∧
        (mask = 2 ^ 77 → (u.domain 77).state = .on → u.isOn 76 = true → u.dev.mediumWidth ≤ 1 →
          u.dev.portWidth = 0 → v.dev.portWidth = 1 ∧ v.dev.portUp = false) ∧
        v.wheel = u.wheel ∧ v.contexts = u.contexts)) ∧
  (∀ (f : Frame) (s u : State) (c : Nat), Acts 0x1303 f s u c → (le f.payload 6 10).testBit 79 = false → legalDevice 0x1303 u = none →
    (∀ d, d < 64 → u.ctxState d ≠ .active) → (∀ b ∈ u.schedule.bookings, u.bookingOver b = true) →
    (∀ k, k < 8 → u.recoding k = false ∧ (u.stack k).sweep = none) → (∀ d, d < 4 → (u.pond d).resplit = none) →
    ∃ v : State, Handles (.powerDoze f) f s (.reply { data := leBytes 10 (maskOf (u.dozeKeeps (le f.payload 6 10))) } v) ∧
      v = { u with power := { u.power with
        dozeDue := u.power.dozeDue ++ [(f.session.toNat, f.number.toNat, u.dozeKeeps (le f.payload 6 10), false)] } }) ∧
  (∀ (s : State) (e : Effect) (keep : List Nat), s.journal.effectDue = some e → e.opcode = 0x1303 → s.inService = true →
    s.dev.state ≠ .doze → s.power.dozeDue = [(e.session, e.number, keep, false)] →
    ∃ t, exec (.journalWriteAck true) s = .next t ∧ t.dev = { s.dev with state := .doze, wakeTo := s.dev.state } ∧
      t.power = { s.power with waking := false, dozeDue := [(e.session, e.number, keep, true)] }) ∧
  (∀ (s : State) (k sid n : Nat) (keep : List Nat), s.Canonical → s.power.dozeDue = [(sid, n, keep, true)] →
    s.dozeOff.power.dozeDue = [] ∧ s.dozeOff.wheel = s.wheel ∧ s.dozeOff.dev.state = s.dev.state ∧
    (k < 79 → keep.contains k = false → (s.dozeOff.domain k).state = .off ∧
      ((s.domain k).state ≠ .off → (s.dozeOff.domain k).byDoze = true)) ∧
    (keep.contains k = true → s.dozeOff.domain k = s.domain k)) ∧
  (∀ (f : Frame) (s u : State) (c : Nat), Acts 0x1304 f s u c → legalDevice 0x1304 u = none →
    ∃ v : State, Handles (.powerWake f) f s (.reply {} v) ∧ v.power.waking = true ∧
      ((u.domain 76).byDoze = false → (u.domain 77).byDoze = false → v = { u with power := v.power }) ∧
      (∀ k, k < 79 → (u.domain k).byDoze = true → (u.domain k).state = .off → (v.domain k).state = .waking) ∧
      (∀ k, (u.domain k).byDoze = false → v.domain k = u.domain k)) ∧
  (∀ (s : State) (k : Fin 80), s.Canonical → (s.domain k).state = .waking →
    ((s.domain k).since + (if k < 64 then 256 else if k < 68 then 1024 else if k < 76 then 2048 else if k < 78 then 262144 else 64) ≤
        s.uptime →
      ∃ t, exec (.domainWakeDone k) s = .next t ∧ (t.domain k).state = .on ∧
        (∀ j, j ≠ k.val → t.domain j = s.domain j) ∧ t.dev.state = s.dev.state ∧ t.wheel = s.wheel) ∧
    (s.uptime < (s.domain k).since + wakeTime k → exec (.domainWakeDone k) s = .next s)) ∧
  (∀ s : State, s.dev.state = .doze → s.power.waking = true →
    (∀ e ∈ s.power.domains, e.2.byDoze = true → e.2.state = .on) →
    ∃ t, exec .wakeComplete s = .next t ∧ t.dev = { s.dev with state := s.dev.wakeTo } ∧ t.power.waking = false ∧
      (∀ e ∈ t.power.domains, e.2.byDoze = false) ∧ t = { s with dev := t.dev, power := t.power })

/-- The link comes up at the width its domains and its medium allow, under Clause 73 on copper; a link that was up and drops sets
PORT.Trouble bit 0, and a medium without the application on the only lane powered bit 1. What the device sends with the link down is
lost; under a transmitting association it leaves with the next packet number, and plain without one. -/
def Obligations.ThePortFollowsItsLink : Prop :=
  (∀ (s u : State) (m : Medium) (n l : Bool), s.dev.state ≠ .off → u = { s with dev := s.dev.fitted m l } → u.portWidthOn ≠ 3 →
    exec (.portLinkChange true m n l) s = .next { s with dev := { u.dev with
      portUp := true, portWidth := u.portWidthOn, negotiated := n && m.kind % 3 == 1 } }) ∧
  (∀ (s u : State) (m : Medium) (n l : Bool), s.dev.state ≠ .off → u = { s with dev := s.dev.fitted m l } →
    ∃ t, exec (.portLinkChange false m n l) s = .next t ∧ t.dev.portUp = false ∧ t.dev.negotiated = false ∧
      t.dev.medium = m.kind % 3 ∧ t.dev.state = s.dev.state ∧
      (m.kind % 3 ≠ 0 → l = false → u.isOn 76 = false → t.port.trouble = (s.port.trouble ||| 2#32) ||| (if s.dev.portUp then 1#32 else 0)) ∧
      ((m.kind % 3 = 0 ∨ l = true ∨ u.isOn 76 = true) → t.port.trouble = s.port.trouble ||| (if s.dev.portUp then 1#32 else 0) ∧
        t.logNext = s.logNext + (if s.dev.portUp then 1 else 0))) ∧
  (∀ (s : State) (o : OutFrame) (w : WireFrame), (s.dev.portUp = false → s.putOut o = s ∧ s.send w = s) ∧
    (s.Clear → s.putOut o = { s with out := s.out ++ [o] } ∧ s.send w = { s with wire := s.wire ++ [w] }) ∧
    (∀ a, s.dev.portUp = true → s.sec.transmits = some a →
      (s.putOut o).out = s.out ++ [{ o with secured := some { sci := a.sci, an := a.an, pn := a.nextPn } }] ∧
      (s.send w).wire = s.wire ++ [.secured { sci := a.sci, an := a.an, pn := a.nextPn } w] ∧
      (s.putOut o).sec = (s.send w).sec ∧
      { a with nextPn := a.nextPn + 1 } ∈ (s.putOut o).sec.assocs))

/-! ## Every frame, and every record (R305, R309, R316, R383, R393) -/

/-- What never acts: a frame that MACsec turns away leaves nothing but its count; one that fails a row of R305 is dropped and
counted; one that a check of R309 steps 4 to 6 fails is refused with the first such check, and changes nothing but its session; one
sent again, whose reply is kept, has that reply again, and one whose reply is not kept yet none; a number whose reply is gone, or that
comes with another match code, is refused with the next expected number. A number at most 63 ahead waits, one further ahead does
not; an opcode outside the catalogue is refused. -/
def Obligations.FramesActOnce : Prop :=
  (∀ (i : Instr) (op : Nat) (f : Frame) (s : State), hostRow i = some (op, f) → f.opcode.toNat = op → f.kind ≠ 5 → s.answers = true →
    (∃ s0 : State, s0.letIn f.path.secured = (s, true)) → s.accepts f = true → (∀ j ∈ s.injections, j.verb ≠ 2) →
      s.badFrame f = true → Runs i f s s.dropFrame) ∧
  (∀ (i : Instr) (op : Nat) (f : Frame) (s0 s : State), hostRow i = some (op, f) → f.opcode.toNat = op → f.kind ≠ 5 →
    s0.answers = true → s0.letIn f.path.secured = (s, false) → exec i s0 = .next s) ∧
  (∀ (i : Instr) (op : Nat) (f : Frame) (s : State) (r : Reply), hostRow i = some (op, f) → Numbered op f s →
    firstFailing [privilegeCheck op f (s.session f.session.toNat), generationCheck f (s.session f.session.toNat) s,
      formCheck op f.payload] = some r →
    ∃ t, Serves i f r s t ∧ t = { s with out := t.out, sessions := t.sessions }) ∧
  (∀ (i : Instr) (op : Nat) (f : Frame) (s : State) (k : KeptReply) (o g : Nat) (p : List Byte), hostRow i = some (op, f) →
    Arrives f s → f.kind = 0 → f.opcode.toNat = op → f.session ≠ 0 → f.number.toNat < (s.session f.session.toNat).next →
    (s.session f.session.toNat).kept.find? (·.number == f.number.toNat) = some k → k.reply = some (o, g, p) →
    k.matchCode = matchCode f →
    ∃ t, Runs i f s t ∧
      t.out = s.out ++ [s.formed (replyFrame o f.session.toNat (s.boundTo f) g f.number.toNat 1 p f.path)] ∧
      t = { s with out := t.out, sessions := t.sessions }) ∧
  (∀ (i : Instr) (op n : Nat) (f : Frame) (s : State) (x : Session), hostRow i = some (op, f) → Arrives f s → f.kind = 0 →
    f.opcode.toNat = op → op ≠ 0x0101 → f.session ≠ 0 → s.session f.session.toNat = x → f.number.toNat = n →
    ∃ t, Runs i f s t ∧
      (n < x.next → ((∃ k, x.kept.find? (·.number == n) = some k ∧ k.reply.isSome = true ∧ k.matchCode ≠ matchCode f) ∨
          x.kept.find? (·.number == n) = none) →
        t.out = s.out ++ [s.formed (replyFrame op f.session.toNat x.context (s.generationOf x.context) n 0
          (Reply.payload { status := Status.sequence, notchA := x.next }) f.path)]) ∧
      (n < x.next → (∃ k, x.kept.find? (·.number == n) = some k ∧ k.reply = none) → t.out = s.out) ∧
      (x.next < n → n ≤ x.next + 63 → (x.held.any fun h => h.1.number == f.number) = false → t.out = s.out ∧
        (t.session f.session.toNat).held = x.held ++ [(f, s.uptime)]) ∧
      (x.next < n → (x.next + 63 < n ∨ (x.held.any fun h => h.1.number == f.number) = true) → t.out = s.out ∧
        (t.session f.session.toNat).held = x.held) ∧
      (n ≠ x.next → (t.session f.session.toNat).next = x.next ∧ t = { s with out := t.out, sessions := t.sessions })) ∧
  (∀ (i : Instr) (op : Nat) (f : Frame) (s : State), hostRow i = some (op, f) → Numbered f.opcode.toNat f s →
    catalogue.contains f.opcode.toNat = false → ∃ t, Serves i f { status := Status.opcode } s t ∧
      t = { s with out := t.out, sessions := t.sessions })

/-- Setting a trouble bit sets it in its register, leaves the others, and writes one record that names the register, the bit and
the new value; of the log's 16,384 records the oldest goes. -/
def Obligations.TroubleBitsAreRecorded : Prop :=
  (∀ (s : State) (r q : TroubleReg) (b c : Nat) (x : Nat × Nat), s.Canonical → b < 32 →
    (s.setTroubleBit r b x c).trouble q = if q = r then s.trouble r ||| BitVec.ofNat 32 (2 ^ b) else s.trouble q) ∧
  (∀ (s : State) (r : TroubleReg) (b c : Nat) (x : Nat × Nat), s.Canonical →
    ∃ e, (s.setTroubleBit r b x c).log.getLast? = some e ∧ e.number = s.logNext ∧ e.notch = s.now ∧ e.kind = 1 ∧ e.scope = x.1 ∧
      e.object = x.2 ∧ e.context = c ∧ e.address = r.address ∧ e.valueA = b ∧
      e.valueB = (s.trouble r ||| BitVec.ofNat 32 (2 ^ b)).toNat) ∧
  (∀ (s : State) (e : LogEntry), s.Canonical → (s.writeLog e).logNext = s.logNext + 1 ∧
    (s.writeLog e).log.length = min 16384 (s.log.length + 1) ∧
    (∀ r ∈ s.log, r ∈ (s.writeLog e).log ∨ (s.log.length = 16384 ∧ s.log.head? = some r)))

/-! ## Completions (R59, R61, R314, R320, R322) -/

/-- Completions go out in CSN order, one after another, behind the RESULT frames of their command that have not gone out, no frame
with more records than its receiver takes; a HOST_ACK frees what it acknowledges, one of another generation nothing, and one that
asks for a completion has the RESULT frames that have gone out and itself again, marked as sent again; a completion alone
unacknowledged for 32,768 notches goes out again; in LATCHED none goes out. That a RESULT frame is cut to what its receiver takes,
and how, is assumption log 52. -/
def Obligations.CompletionsGoOutInOrder : Prop :=
  (∀ (s : State) (c n i : Nat) (w m : Cmd), s.Canonical → c < 64 → (s.stream c).sentThrough + 1 = n → s.cmd c n = some w →
    w.phase = .completed → s.receiver c w.sender = some i → w.fitted (s.session i).maxPayload = m →
    s.Plain →
    ∃ t l, exec (.completionSend c) s = .next t ∧ t.out = s.out ++ l ++ [s.formed (completionFrame s c m 0 i)] ∧
      l.length = m.resultFrames.length - m.shown ∧
      (∀ k e, m.resultFrames[m.shown + k]? = some e → l[k]? = some (s.formed (s.resultFrame c m (m.shown + k) e.1 e.2
        (if m.shown + k + 1 < m.resultFrames.length then 2 else 0) i))) ∧
      (t.stream c).sentThrough = n ∧
      t.cmd c n = some { m with shown := m.resultFrames.length, sent := true, sentAt := s.uptime } ∧
      (∀ d, d ≠ c → t.context d = s.context d) ∧ t = { s with out := t.out, contexts := t.contexts }) ∧
  (∀ (s : State) (c : Nat), (s.dev.state = .latched ∨
      ∀ m, s.cmd c ((s.stream c).sentThrough + 1) = some m → m.phase ≠ .completed ∨ s.receiver c m.sender = none) →
    exec (.completionSend c) s = .next s) ∧
  (∀ (f : Frame) (s : State) (c k : Nat), Arrives f s → f.kind = 5 → f.context.toNat = c → c < 64 → le f.payload 8 8 = k →
    le f.payload 16 8 = 0 → f.generation.toNat = s.generationOf c →
    ∃ t, Runs (.hostAck f) f s t ∧
      (t.stream c).cmds = (s.stream c).cmds.filter (fun m => !(m.phase == .completed && m.sent && decide (m.csn ≤ k))) ∧
      (t.stream c).ackedThrough = max (s.stream c).ackedThrough (min k (s.stream c).sentThrough) ∧
      (∀ d, d ≠ c → t.context d = s.context d) ∧ t = { s with contexts := t.contexts, sessions := t.sessions }) ∧
  (∀ (f : Frame) (s : State), Arrives f s → f.kind = 5 → f.generation.toNat ≠ s.generationOf f.context.toNat →
    ∃ t, Runs (.hostAck f) f s t ∧ t = { s with sessions := t.sessions }) ∧
  (∀ (f : Frame) (s u : State) (c k a i : Nat) (w m : Cmd), Arrives f s → f.kind = 5 → f.context.toNat = c → c < 64 →
    le f.payload 8 8 = k → le f.payload 16 8 = a → k < a → f.generation.toNat = s.generationOf c →
    u = s.modSession f.session.toNat (fun x => { x with lastFrame := s.uptime, path := f.path }) → u.cmd c a = some w →
    w.phase = .completed → w.sent = true → u.receiver c w.sender = some i → w.fitted (u.session i).maxPayload = m →
    ∃ t l, Runs (.hostAck f) f s t ∧ t.out = s.out ++ l ++ [u.formed (completionFrame u c m 1 i)] ∧
      l.length = m.shown ∧
      (∀ j e, j < m.shown → m.resultFrames[j]? = some e → l[j]? = some (u.formed (u.resultFrame c m j e.1 e.2
        (if j + 1 < m.resultFrames.length then 3 else 1) i))) ∧
      t = { s with out := t.out, contexts := t.contexts, sessions := t.sessions }) ∧
  (∀ (m : Cmd) (n : Nat), 40 ≤ n → (∀ e ∈ (m.fitted n).resultFrames, 24 + 16 * e.2 ≤ n) ∧
    (m.fitted n).resultFrames.flatMap (fun e => List.range' e.1 e.2) = m.resultFrames.flatMap fun e => List.range' e.1 e.2) ∧
  (∀ (s : State) (c i : Nat) (m : Cmd), ((s.stream c).cmds.filter fun m => m.phase == .completed && m.sent) = [m] →
    s.cmd c m.csn = some m → 32768 + m.sentAt ≤ s.uptime → s.receiver c m.sender = some i → s.Plain →
    exec (.completionResendTimer c) s = .next (State.modCmd { s with
      out := s.out ++ [s.formed (completionFrame s c m 1 i)] } c m.csn fun x => { x with sentAt := s.uptime }))

/-- The end of a command. A RUN.STEP whose actions have ended completes at its last action's end, or its last result's, DONE, or,
when its delay exceeded its reserve or it ended after its promise, late with the name of its largest delay; a PLAN.LOAD completes
with the plan loaded, a CTX.SAVE with its image in memory and a CTX.RESTORE with the image placed. No step completes before its
booked interval ends. A command that ends DONE keeps its status, its payload and its records, and advances the length of each of its
sequences that no earlier command appends to; after a fault of a Hopper unit no record goes out any more. A faulted one ends with its failure; one past its timeout is stopped with
FAILED.TIMEOUT and sets DEVICE.Trouble bit 2; a page fault suspends it, with a notice. -/
def Obligations.CommandsEnd : Prop :=
  (∀ (s : State) (c csn st n : Nat) (m : Cmd), s.cmd c csn = some m → m.stop = none → m.opcode = 0x0301 → m.phase = .booked →
    m.begun = true → (∀ a ∈ m.actions, a.phase = .ended) → m.intervalEnd ≤ s.clock →
    n = max (if m.resultFrames = [] then m.endNotch else m.resultNotch) (s.projected m.intervalEnd) →
    (st = if m.promise ≠ 0 ∧ (m.duration - m.span < m.delay.thermal + m.delay.link + m.delay.overrun ∨ m.promise < n) then
        (if m.delay.link ≤ m.delay.thermal ∧ m.delay.overrun ≤ m.delay.thermal then 0x5001
         else if m.delay.overrun ≤ m.delay.link then 0x5002 else 0x5003)
      else 0) →
    exec (.commandCompletion c csn) s = .next (s.finish c csn st n 0 { rank := 0, status := st })) ∧
  (∀ (s v : State) (c csn : Nat) (m : Cmd) (p : Plan), s.cmd c csn = some m → m.stop = none → m.opcode = 0x0201 →
    m.phase = .working → m.plan = some p → s.workHeld c m = false → s.constsLost p = (v, none) →
    exec (.commandCompletion c csn) s = .next ((v.loadPlan c p).finish c csn 0 (v.loadPlan c p).now 0 { rank := 0, status := 0 })) ∧
  (∀ (s : State) (c csn : Nat) (m : Cmd), s.cmd c csn = some m → m.opcode = 0x0301 → s.clock < m.intervalEnd → m.stop = none →
    exec (.commandCompletion c csn) s = .next s) ∧
  (∀ (s v w u : State) (c csn : Nat) (m : Cmd) (data : List Byte), s.cmd c csn = some m → m.stop = none → m.opcode = 0x0504 →
    m.phase = .working → s.workHeld c m = false → s.image c = (v, data, none) →
    v.partlyLost {} m.address data.length = (w, none) → w.writeDevice {} m.address data = u →
    exec (.commandCompletion c csn) s = .next (u.finish c csn 0 u.now data.length { rank := 0, status := 0 }) ∧
    (s.Canonical → s.Sound → s.stored m.address data.length → Wrote s.mem m.address data u.mem)) ∧
  (∀ (s v w u : State) (c csn : Nat) (m : Cmd) (data : List Byte) (l : List CoreRecord), s.cmd c csn = some m → m.stop = none →
    m.opcode = 0x0505 → m.phase = .working → s.workHeld c m = false → s.readDevice {} m.address m.count = (v, data, none) →
    imageRecords data = some l → v.firstLocalLost (v.imagePlaces l) = (w, none) → w.applyImage l = u →
    exec (.commandCompletion c csn) s = .next (u.finish c csn 0 u.now 0 { rank := 0, status := 0 }) ∧
    (∀ k r bytes, l = [{ core := k, regions := [(r, bytes)] }] → s.Canonical → s.Sound → r.kind ≠ 1 → bytes.length = r.length →
      Wrote s.mem (localKey (s.physical k) r.base) bytes u.mem)) ∧
  (∀ (s : State) (c csn st notch extra : Nat) (m : Cmd) (x : Stop), s.Canonical → c < 64 → s.cmd c csn = some m →
    m.phase ≠ .completed → st / 4096 ≠ 3 → st / 4096 ≠ 4 →
    ∃ m', (s.complete c csn st notch extra x).cmd c csn = some m' ∧ m'.phase = .completed ∧ m'.status = st ∧
      m'.completion = completionPayload m st notch extra x ∧ m'.completedAt = s.uptime ∧
      m'.records = (if x.rank = 3 then [] else m.records) ∧
      m'.resultFrames = (if x.rank = 3 then m.resultFrames.take m.shown else m.resultFrames) ∧
      (s.complete c csn st notch extra x).mem = s.mem ∧ (s.complete c csn st notch extra x).log = s.log) ∧
  (∀ (s t : State) (c csn j st notch extra : Nat) (m : Cmd) (x : Stop), s.Canonical → c < 64 → s.cmd c csn = some m →
    m.phase ≠ .completed → m.opcode = 0x0301 → st / 4096 ≠ 3 → st / 4096 ≠ 4 → s.complete c csn st notch extra x = t →
    ((s.stream c).cmds.filter fun y => y.csn == csn) = [m] → (∀ y ∈ (s.stream c).cmds, y.owes = []) →
    m.append ≠ 0 → m.slots.Nodup → j ∈ m.slots → (s.seq c j).isOpen = true →
    ((s.stream c).appendsBefore csn j = false → (t.seq c j).length = (s.seq c j).length + m.append ∧ (t.seq c j).lastAppender = csn) ∧
      ((s.stream c).appendsBefore csn j = true → t.seq c j = s.seq c j) ∧
      (∀ i, i ∉ m.slots → t.seq c i = s.seq c i)) ∧
  (∀ (s : State) (c csn : Nat) (m : Cmd) (x : Stop), s.cmd c csn = some m → m.stop = some x →
    exec (.commandStop c csn) s =
      .next (((s.stopCommand c csn).watchCores (s.coresFor c csn)).finish c csn x.status s.now 0 x)) ∧
  (∀ (s : State) (c csn : Nat) (m : Cmd), s.Canonical → c < 64 → s.cmd c csn = some m → m.timeout ≠ 0 →
    (m.phase = .booked ∨ m.phase = .working) → s.timeoutOf m ≤ s.now → m.stop = none →
    ∃ t m' x, exec (.commandTimeout c csn) s = .next t ∧ t.dev.trouble = s.dev.trouble ||| 4#32 ∧ t.cmd c csn = some m' ∧
      m'.stop = some x ∧ x.status = 0x4009 ∧ x.notch = s.now ∧ m' = { m with stop := m'.stop } ∧
      t = { s with dev := t.dev, contexts := t.contexts, log := t.log, logNext := t.logNext, freshTrouble := t.freshTrouble }) ∧
  (∀ (s : State) (c csn : Nat) (m : Cmd), s.Canonical → c < 64 → s.cmd c csn = some m → m.phase = .booked → m.stop = none →
    m.faultPages ≠ [] → s.Plain →
    ∃ v : State, exec (.promiseSuspend c csn) s = .next (v.setAsideAll c csn fun a => a.overran != 0) ∧
      v.cmd c csn = some { m with phase := .suspended, suspendedAt := s.now } ∧
      v.out = s.out ++ ((s.receiver c m.sender).map fun i => s.formed {
        kind := 4, opcode := if m.forwarded.isSome then 0x0F04 else 0, session := ((m.forwarded.map fun k => k.2.1).getD i),
        context := c, flags := 0, generation := s.generationOf c, number := ((m.forwarded.map fun k => k.2.2).getD 0),
        payload := noticePayload Status.suspendedPage csn s.now (s.lowestFault c csn) m.faultPages.length,
        path := (s.session i).path }).toList ∧
      v = { s with contexts := v.contexts, out := v.out } ∧
      ((∀ a ∈ m.actions, a.overran = 0) → v.setAsideAll c csn (fun a => a.overran != 0) = v))

/-- Actions start at their offset, never in a pause and never past one that overruns, and their windows are those of the higher
band; one whose work is left at its window's end overruns, but for a suspended command, whose action is set aside; an action
without work left ends. A queued FILLER command starts with the record it fits. A RESULT action hands over the records that are
ready, in a frame that goes out when somebody receives it. That an EXCHANGE overruns until its event ends it, and that the other
actions of a suspended command go on, are the model's choices (assumption log 20). -/
def Obligations.ActionsFollowTheirTable : Prop :=
  (∀ (s u v : State) (c csn i w : Nat) (m m' : Cmd) (a : ActionRun), s.cmd c csn = some m → m.actions[i]? = some a →
    s.mayStart m a = true → a.entry.windows.getD (max m.band s.presentBand) 0 = w →
    v = (s.beginCmd c m |>.addSlip { thermal := w - a.entry.windows.getD m.band 0 }).modSchedule (fun y =>
      { y with startSlip := y.startSlip + (w - a.entry.windows.getD m.band 0) }) →
    u = v.modCmd c csn (fun x => { x with actions := x.actions.set i { a with
      phase := .running, startedAt := v.worked, window := w, overran := 0, slowed := false, bankBands := [],
      links := v.actionLinks c m a.entry, moved := false } }) →
    u.cmd c csn = some m' →
    exec (.actionStart c csn i) s = .next (u.startUnits c m' i a.entry).noteSlowed.noteMoved.checkMisses) ∧
  (∀ (s : State) (c csn i : Nat), (s.paused = true ∨ s.overdue = true) → exec (.actionStart c csn i) s = .next s) ∧
  (∀ (s : State) (c csn i : Nat) (m : Cmd) (a : ActionRun), s.cmd c csn = some m → m.actions[i]? = some a →
    s.clock + s.schedule.startSlip + m.skipped < m.start + m.rampIn + a.entry.offsets.getD m.band 0 → exec (.actionStart c csn i) s = .next s) ∧
  (∀ (s : State) (c csn i : Nat) (m : Cmd) (a : ActionRun), s.cmd c csn = some m → m.actions[i]? = some a → a.phase = .running →
    a.overran = 0 → a.startedAt + a.window ≤ s.worked → (a.entry.action = 5 ∨ s.actionBusy c m i a = true) → m.phase ≠ .suspended →
    exec (.actionWindowEnd c csn i) s = .next (s.modCmd c csn fun x =>
      { x with actions := x.actions.set i { a with overran := s.overrunCause m a } })) ∧
  (∀ (s : State) (c csn i : Nat) (m : Cmd) (a : ActionRun), s.cmd c csn = some m → m.actions[i]? = some a → a.phase = .running →
    a.overran = 0 → a.startedAt + a.window ≤ s.worked → (a.entry.action = 5 ∨ s.actionBusy c m i a = true) → m.phase = .suspended →
    exec (.actionWindowEnd c csn i) s = .next (if a.entry.action = 2 then s.setAside c csn i
      else s.modCmd c csn fun x => { x with actions := x.actions.set i { a with overran := 4 } })) ∧
  (∀ (s : State) (c csn i : Nat) (m : Cmd) (a : ActionRun), s.cmd c csn = some m → m.actions[i]? = some a → a.phase = .running →
    s.actionBusy c m i a = false → a.entry.action ≠ 1 →
    exec (.actionEnd c csn i) s = .next (s.modCmd c csn fun x =>
      { x with actions := x.actions.set i { a with phase := .ended }, endNotch := s.now })) ∧
  (∀ (s : State) (c csn i : Nat) (m : Cmd) (a : ActionRun) (l : List Nat), s.cmd c csn = some m → m.actions[i]? = some a →
    a.phase = .running → s.actionBusy c m i a = false → a.entry.action = 1 →
    ((quarterCores a.entry.units).filter fun k => s.logicalExists k && (s.actionBlock c m i k).isSome) = l →
    exec (.actionEnd c csn i) s = .next (l.foldl (fun s k => s.startHeld c csn k)
      ((l.foldl (fun s k => s.onCore k Core.endAction) s).modCmd c csn fun x =>
        { x with actions := x.actions.set i { a with phase := .ended }, endNotch := s.now }))) ∧
  (∀ s : State, (s.dev.state = .ready ∨ s.dev.state = .degraded) →
    exec .fillerStart s = .next (s.schedule.fillers.foldl (fun s e => s.tryFiller e.1 e.2) s)) ∧
  (∀ (s : State) (c csn i j band : Nat) (m n : Cmd) (x : Cert), s.Canonical → c < 64 → s.cmd c csn = some m →
    m.phase = .queued → s.fillerRecord c m = some (j, x, band) →
    n = { m with certIndex := j, floor := x.floor, draw := x.draw, quarters := x.quarters, hoppers := x.hoppers, shares := x.shares,
                 band := if m.resuming then m.band else band, span := if m.resuming then m.span else x.spans.getD band 0,
                 duration := if m.resuming then m.duration else x.durations.getD band 0,
                 bandDuration := if m.resuming then m.bandDuration else x.durations.getD band 0 } →
    s.wakeLead n.footprint = 0 → s.rampIn (s.clock + 16) n.draw = i → s.lowest n.footprint m.notBefore ≤ s.clock + 16 →
    s.blockers (s.clock + 16) i n.duration n.footprint s.powerCap = 0 →
    ∃ t, s.tryFiller c csn = t ∧ t.schedule = { s.schedule with fillers := s.schedule.fillers.filter (· != (c, csn)) } ∧
      (∃ m', t.cmd c csn = some m' ∧ m' = { n with
        phase := .booked, chosen := true, start := s.clock + 16, rampIn := i, slip0 := s.schedule.slip,
        timeout := s.projected (s.clock + 16) + i + n.duration + max n.bandDuration 65536,
        actions := if m.resuming then m.actions else m'.actions }) ∧
      t = { s with contexts := t.contexts, schedule := t.schedule }) ∧
  (∀ (s : State) (c csn n : Nat) (m : Cmd) (r : Option Nat), s.Canonical → c < 64 → s.cmd c csn = some m →
    s.receiver c m.sender = r → m.stop = none →
    min (((r.map fun i => (s.session i).maxPayload).getD 8704 - 24) / 16) (readyFrom m.records m.records.length m.handed) = n →
    0 < n → (∃ a ∈ m.actions, a.phase = .running ∧ a.entry.action = 6) → s.Plain →
    ∃ t l, exec (.resultFrameHandoff c csn) s = .next t ∧ t.out = s.out ++ l ∧
      l.length = (if r = none then 0 else m.resultFrames.length + 1 - m.shown) ∧
      (∀ i j e, r = some i → (m.resultFrames ++ [(m.handed, n)])[m.shown + j]? = some e →
        l[j]? = some (s.formed (s.resultFrame c m (m.shown + j) e.1 e.2
          (if (m.phase ≠ .completed ∧ m.handed + n < s.recordsInAll c m) ∨ m.shown + j < m.resultFrames.length then 2 else 0) i))) ∧
      t.cmd c csn = some { m with
        expected := s.recordsInAll c m, handed := m.handed + n, resultFrames := m.resultFrames ++ [(m.handed, n)],
        resultNotch := s.now, shown := if r = none then m.shown else m.resultFrames.length + 1 } ∧
      t = { s with contexts := t.contexts, out := t.out })

/-! ## Core programs (R85 to R93, R234) -/

/-- PROGRAM_BLOCK_LOAD reads the block of the core's next action from the program area into a free bank, and an error there traps
the core with ProgramLoad; control instructions move the pc: NOP on, JUMP to C, LOOP to C for Count passes in all, WAITN and FENCE
on or into their waits, HALT nowhere. -/
def Obligations.CoresRunTheirPrograms : Prop :=
  (∀ (k : Fin 240) (s v : State) (b : Block) (bank : Bool) (g : List Nat) (l : List CoreWord),
    ((s.core (s.physical k)).state = .idle ∨ (s.core (s.physical k)).state = .preload ∨ (s.core (s.physical k)).state = .running) →
    s.nextBlock k = some b → (s.core (s.physical k)).freeBank = some bank →
    (((s.core (s.physical k)).programs.find? fun h => h.context == b.context && h.planId == b.planId && h.offset == b.offset).map
      (·.granules)).getD [] = g →
    s.readProgram (s.physical k) g = (v, l, none) →
    exec (.programBlockLoad k) s = .next (v.modCore (s.physical k) fun x =>
      if x.state = .idle then
        { x.setBank bank (some { b with instrs := l }) with state := .preload, context := b.context, csn := b.csn }
      else x.setBank bank (some { b with instrs := l }))) ∧
  (∀ (k : Fin 240) (s v : State) (b : Block) (bank : Bool) (g : List Nat) (l : List CoreWord) (e : LocalFault),
    ((s.core (s.physical k)).state = .idle ∨ (s.core (s.physical k)).state = .preload) →
    s.nextBlock k = some b → (s.core (s.physical k)).freeBank = some bank →
    (((s.core (s.physical k)).programs.find? fun h => h.context == b.context && h.planId == b.planId && h.offset == b.offset).map
      (·.granules)).getD [] = g →
    s.readProgram (s.physical k) g = (v, l, some e) → (v.core (s.physical k)).state ≠ .running →
    exec (.programBlockLoad k) s = .next (v.trapAs k 6 0 0 b.item b.context b.csn e.address)) ∧
  (∀ (k : Fin 240) (w : CoreWord) (s : State) (x : Core), Issues k 0 0 w s → s.core (s.physical k) = x →
    ∃ t, exec (.nop k) s = .next t ∧ OnlyCore k s t { x with pc := x.pc + 1 }) ∧
  (∀ (k : Fin 240) (w : CoreWord) (s : State) (x : Core), Issues k 0 1 w s → s.core (s.physical k) = x →
    ∃ t, exec (.jump k) s = .next t ∧ OnlyCore k s t { x with pc := wC w }) ∧
  (∀ (k : Fin 240) (w : CoreWord) (s : State) (x : Core) (left : Nat), Issues k 0 2 w s → s.core (s.physical k) = x →
    (left = match x.loops.find? (·.1 == x.pc) with | some e => e.2 | none => wCount w - 1) →
    ∃ t, exec (.loop k) s = .next t ∧ OnlyCore k s t (if left = 0 then
        { x with pc := x.pc + 1, loops := x.loops.filter (·.1 != x.pc) }
      else { x with pc := wC w, loops := (x.pc, left - 1) :: x.loops.filter (·.1 != x.pc) })) ∧
  (∀ (k : Fin 240) (w : CoreWord) (s : State) (x : Core), Issues k 0 3 w s → s.core (s.physical k) = x →
    ∃ t, exec (.waitn k) s = .next t ∧ OnlyCore k s t (if wC w + x.startedWork ≤ s.worked ∨ wC w = 0 then { x with pc := x.pc + 1 }
      else { x with wait := .notch (wC w) })) ∧
  (∀ (k : Fin 240) (s : State) (x : Core) (n : Nat), s.Canonical → s.core (s.physical k) = x → x.wait = .notch n →
    ∃ t, exec (.waitnRelease k) s = .next t ∧
      OnlyCore k s t (if n + x.startedWork ≤ s.worked ∨ n = 0 then { x with pc := x.pc + 1, wait := .none } else x)) ∧
  (∀ (k : Fin 240) (w : CoreWord) (s : State) (x : Core), Meets k 0 4 w s → s.core (s.physical k) = x →
    ∃ t, exec (.fence k) s = .next t ∧ OnlyCore k s t (if x.queues = 0 ∧ x.streamQ = [] then { x with pc := x.pc + 1 }
      else { x with wait := .fence })) ∧
  (∀ (k : Fin 240) (s : State) (x : Core), s.Canonical → s.core (s.physical k) = x → x.wait = .fence →
    ∃ t, exec (.fenceRelease k) s = .next t ∧ OnlyCore k s t (if x.streamQ = [] then { x with
      pc := x.pc + 1, wait := .none, queues := if bit x.queues 2 then 4 else 0,
      openWrites := x.openWrites.filter fun o => decide (2 ≤ o.queue) } else x)) ∧
  (∀ (k : Fin 240) (w : CoreWord) (s : State) (x : Core), Meets k 0 5 w s → s.core (s.physical k) = x →
    ∃ t, exec (.halt k) s = .next t ∧ OnlyCore k s t { x with halted := true })

/-- A core that decodes a block traps past its end with FetchRange, at an undefined instruction with Undefined, at a Count of all
ones with Count; a Count of zero completes without effect; FENCE and HALT look at no Count. A trap stops the core, keeps its
cause and pc, sets CORE.Trouble bit 0 and stops its command. -/
def Obligations.BadInstructionsTrap : Prop :=
  (∀ (i : Instr) (k : Fin 240) (cls op : Nat) (free : Bool) (b : Block) (s : State), coreRow i = some (k, cls, op, free) →
    Fetches k b s →
    (∀ pc c a n l, i = .sput k → (s.core (s.physical k)).streamQ = .put pc c a n :: l →
      16 ≤ ((s.core (s.physical k)).channel c).queue.length) →
    (b.instrs[(s.core (s.physical k)).pc]? = none → exec i s = .next (s.trap k 1)) ∧
    (∀ w, b.instrs[(s.core (s.physical k)).pc]? = some w →
      (wDefined w = false → exec i s = .next (s.trap k 2)) ∧
      (wDefined w = true → ¬(wClass w = cls ∧ wOp w = op) → exec i s = .next s) ∧
      (wClass w = cls → wOp w = op → free = false → wCount w = 0xFFFFFF → exec i s = .next (s.trap k 8)) ∧
      (wClass w = cls → wOp w = op → free = false → wCount w = 0 →
        ∃ t, exec i s = .next t ∧ OnlyCore k s t { s.core (s.physical k) with pc := (s.core (s.physical k)).pc + 1 }))) ∧
  (∀ (k : Fin 240) (b : Block) (s : State) (cause a : Nat) (x : Core), Fetches k b s → s.core (s.physical k) = x → cause < 16 →
    let t := s.trap k cause a
    (t.core (s.physical k)).state = .trapped ∧ (t.core (s.physical k)).pc = x.pc ∧
      (t.core (s.physical k)).trapCause.toNat % 16 = cause ∧ (t.core (s.physical k)).trapPc.toNat % 4096 = x.pc % 4096 ∧
      (t.core (s.physical k)).trapAddr = BitVec.ofNat 32 a ∧ (t.core (s.physical k)).trouble.getLsbD 0 = true ∧
      (∀ p, p ≠ s.physical k → t.core p = s.core p) ∧ t.mem = s.mem ∧ t.wheel = s.wheel ∧
      (x.context < 64 → ∀ m, s.cmd x.context x.csn = some m → m.phase ≠ .completed → m.stop = none →
        ∃ m' y, t.cmd x.context x.csn = some m' ∧ m'.stop = some y ∧ y.core = k.val ∧ y.cause = cause ∧ y.address = a ∧
          m' = { m with stop := m'.stop }))

/-! ## The matrix array (R66 to R77, R103 to R119) -/

/-- The array instructions. Each completes where its run does, and traps where that traps; on one packed tile MODE sets the modes of
the tiles it masks; LOADSTAT fills the shadow registers; PASS reveals them and writes or adds one column of sums for each streamed
column; OSPASS writes its accumulators; ELEM its elements; DRAIN hands the sums to the vector unit, or rounded to the core store. That
DRAIN names the vector unit's first register in C, that the first PASS reveals the shadow registers, and where OSPASS places its rows
and columns, are assumption log 18; the layouts of ganged tiles, the causes that come first and the sums of mixed kinds log 49. -/
def Obligations.ArrayInstructionsComplete : Prop :=
  (∀ (i : Instr) (n : Nat) (run : Nat → CoreWord → State → Ran) (k : Fin 240) (w : CoreWord) (s : State),
    ((i = .mode k ∧ n = 0 ∧ run = modeRun) ∨ (i = .loadstat k ∧ n = 1 ∧ run = loadstatRun) ∨
      (i = .pass k ∧ n = 2 ∧ run = passRun) ∨ (i = .ospass k ∧ n = 3 ∧ run = ospassRun) ∨
      (i = .drain k ∧ n = 4 ∧ run = drainRun) ∨ (i = .elem k ∧ n = 5 ∧ run = elemRun)) → Issues k 1 n w s →
    (∀ v, run k w s = .ok v → ∃ t, exec i s = .next t ∧ OnlyCore k v t ((v.core (s.physical k)).went 0)) ∧
    (∀ v c a, run k w s = .trap v c a → exec i s = .next (v.trap k c a))) ∧
  (∀ (k : Fin 240) (w : CoreWord) (s : State) (x : Core), Issues k 1 0 w s → s.core (s.physical k) = x → wMask w ≠ 0 →
    wA w ≤ 3 → (wA w = 2 → wMask w = 0xFFFF) →
    ∃ t y, exec (.mode k) s = .next t ∧ OnlyCore k s t y ∧ y = { x.went 0 with arrayMode := y.arrayMode } ∧
      ∀ i, i < 16 → y.mode i = if bit (wMask w) i then wA w else x.mode i) ∧
  (∀ (k : Fin 240) (w : CoreWord) (s v : State) (j : Nat) (data : List Byte), Issues k 1 1 w s → wMask w = 2 ^ j → j < 16 →
    (s.core (s.physical k)).mode j = 0 →
    s.fetchLocal k 0 (wA w * 64) (statBytes (wFormats w) 32) = .ok v data →
    ∃ t y, exec (.loadstat k) s = .next t ∧ OnlyCore k v t y ∧
      y = { (v.core (s.physical k)).went 0 with tiles := y.tiles } ∧
      y.tile j = { (v.core (s.physical k)).tile j with
        shadow := statBlock (wFormats w) 32 0 (slice data 0 (statBytes (wFormats w) 32)), fresh := true } ∧
      ∀ i, i ≠ j → y.tile i = (v.core (s.physical k)).tile i) ∧
  (∀ (k : Fin 240) (w : CoreWord) (s v : State) (j : Nat) (data : List Byte) (x : Core), Issues k 1 2 w s → wMask w = 2 ^ j →
    j < 16 → (s.core (s.physical k)).mode j = 0 → ((s.core (s.physical k)).tile j).next.code = wFormats w → wCount w ≤ 256 →
    s.fetchLocal k 0 (wA w * 64) (streamBytes (wFormats w) 32 (wCount w)) = .ok v data →
    x = (v.core (s.physical k)).modTile j Tile.revealed →
    ∃ t y, exec (.pass k) s = .next t ∧ OnlyCore k v t y ∧
      y = { (v.core (s.physical k)).went 0 with tiles := y.tiles, sums := y.sums } ∧
      (∀ n i, n < wCount w → i < 32 → y.sumAt 32 j (wBank w) n i =
        let c := columnSum (wFormats w) 32 (fun r => x.liveElement 32 j r i) (streamElement (wFormats w) 32 data n)
          (fun b => x.liveScale 32 j b i) (streamScale (wFormats w) 32 data n)
        if bit (wC w) 0 then addEntry (wFormats w) (x.sumAt 32 j (wBank w) n i) c else c) ∧
      (∀ u bank n i, u < 16 → bank < 2 → n < 256 → i < 32 → (u ≠ j ∨ bank ≠ wBank w ∨ wCount w ≤ n) →
        y.sumAt 32 u bank n i = x.sumAt 32 u bank n i)) ∧
  (∀ (k : Fin 240) (w : CoreWord) (s u v : State) (j : Nat) (xs ws : List Byte), Issues k 1 3 w s → wMask w = 2 ^ j → j < 16 →
    (s.core (s.physical k)).mode j = 1 → osCode (wFormats w) = true →
    s.fetchLocal k 0 (wA w * 64) (wCount w * 32 * elementBytes (pairA (wFormats w))) = .ok u xs →
    u.fetchLocal k 0 (wC w * 64) (wCount w * 32 * elementBytes (pairB (wFormats w))) = .ok v ws →
    ∃ t y, exec (.ospass k) s = .next t ∧ OnlyCore k v t y ∧
      y = { (v.core (s.physical k)).went 0 with tiles := y.tiles, sums := y.sums } ∧
      (∀ n i, n < 32 → i < 32 → y.sumAt 32 j (wBank w) n i = osSum (wFormats w) 32 (wCount w)
        (slice xs 0 (wCount w * 32 * elementBytes (pairA (wFormats w)))) ws n i) ∧
      (∀ q bank n i, q < 16 → bank < 2 → n < 256 → i < 32 → (q ≠ j ∨ bank ≠ wBank w ∨ 32 ≤ n) →
        y.sumAt 32 q bank n i = (v.core (s.physical k)).sumAt 32 q bank n i)) ∧
  (∀ (k : Fin 240) (w : CoreWord) (s : State) (j : Nat) (x : Core), Issues k 1 4 w s → s.core (s.physical k) = x →
    wMask w = 2 ^ j → j < 16 → x.mode j ≠ 2 → wCount w ≤ 256 → wFormats w = 0 → wA w = 0xFFFFFF →
    rC w + ceilDiv (wCount w * 32) 512 ≤ x.usableRegs →
    ∃ t y, exec (.drain k) s = .next t ∧ OnlyCore k s t y ∧ y = { x.went 0 with vregs := y.vregs } ∧
      ∀ n i, n < wCount w → i < 32 →
        y.lane (rC w + (n * 32 + i) / 512) ((n * 32 + i) % 512) = x.sumAt 32 j (wBank w) n i) ∧
  (∀ (k : Fin 240) (w : CoreWord) (s v : State) (j f r : Nat) (x : Core), Issues k 1 4 w s → s.core (s.physical k) = x →
    wMask w = 2 ^ j → j < 16 → x.mode j ≠ 2 → wCount w ≤ 256 → wFormats w % 4 = f → wFormats w / 4 = r → r ≠ 3 →
    (∀ n i, n < wCount w → i < 32 → x.intAt 32 j (wBank w) n i = true → wFormats w = 0) → wA w ≠ 0xFFFFFF →
    s.storeLocal k 0 (wA w * 64) ((List.range (wCount w)).flatMap fun n => (List.range 32).flatMap fun i =>
      leBytes (drainBytes f) (drainValue f (drainRound r (drainBits (x.sumAt 32 j (wBank w) n i) k j n i
        ((x.block.map (·.planId)).getD 0) (wC w))) (x.sumAt 32 j (wBank w) n i))) = .ok v →
    ∃ t, exec (.drain k) s = .next t ∧ OnlyCore k v t ((v.core (s.physical k)).went 0)) ∧
  (∀ (k : Fin 240) (w : CoreWord) (s u v : State) (j f n : Nat) (as bs : List Byte), Issues k 1 5 w s → wMask w = 2 ^ j → j < 16 →
    (s.core (s.physical k)).mode j = 3 → wCount w = n → n ≤ 8192 → wFormats w % 4 = f → wFormats w / 4 ≠ 3 →
    s.fetchLocal k 0 (wA w * 64) (n * elemBytes f) = .ok u as → u.fetchLocal k 0 (wC w * 64) (n * elemBytes f) = .ok v bs →
    as.length = n * elemBytes f → bs.length = n * elemBytes f →
    ∃ t y, exec (.elem k) s = .next t ∧ OnlyCore k v t y ∧
      y = { (v.core (s.physical k)).went 0 with tiles := y.tiles, sums := y.sums } ∧
      ∀ e, e < n → y.sumAt 32 j (wBank w) (e / 32) (e % 32) = elemResult (wFormats w / 4)
        ((elemFormat f).decode (le as (e * elemBytes f) (elemBytes f))) ((elemFormat f).decode (le bs (e * elemBytes f) (elemBytes f)))
        (ofFp32 ((v.core (s.physical k)).sumAt 32 j (wBank w) (e / 32) (e % 32))))

/-! ## The vector unit (R81 to R84, R111 to R113) -/

/-- Lane operations write the masked lanes of one register, and leave every other lane: VFMA rounds once, VADD, VMUL, VMAX and VMIN
as their names, VSFU and VCVT by their Formats; VRED writes element 0 of C; VLD and VST move the masked slices of Count logical
vectors. That a masked lane keeps its value, that VRED takes the mask too, and that any other Count runs VFMA to VRED once, are the
model's choices (assumption log 19). -/
def Obligations.VectorInstructionsComplete : Prop :=
  (∀ (k : Fin 240) (w : CoreWord) (s : State) (x : Core), Issues k 2 2 w s → s.core (s.physical k) = x → wFormats w = 0 →
    rA w < x.usableRegs → rB w < x.usableRegs → rC w < x.usableRegs →
    ∃ t, exec (.vfma k) s = .next t ∧
      Lanes k w (rB w) (fun i => ffma (x.lane (rA w) i) (x.lane (rB w) i) (x.lane (rC w) i)) s t) ∧
  (∀ (i : Instr) (op : Word → Word → Word) (n : Nat) (k : Fin 240) (w : CoreWord) (s : State) (x : Core),
    ((i = .vadd k ∧ n = 3 ∧ op = fadd) ∨ (i = .vmul k ∧ n = 4 ∧ op = fmul) ∨ (i = .vmax k ∧ n = 5 ∧ op = fmaxNum) ∨
      (i = .vmin k ∧ n = 6 ∧ op = fminNum)) → Issues k 2 n w s → s.core (s.physical k) = x → wFormats w = 0 →
    rA w < x.usableRegs → rB w < x.usableRegs → rC w < x.usableRegs →
    ∃ t, exec i s = .next t ∧ Lanes k w (rC w) (fun i => op (x.lane (rA w) i) (x.lane (rB w) i)) s t) ∧
  (∀ (i : Instr) (op : Nat → Word → Word) (n formats : Nat) (k : Fin 240) (w : CoreWord) (s : State) (x : Core),
    ((i = .vsfu k ∧ n = 7 ∧ formats = 5 ∧ op = special) ∨ (i = .vcvt k ∧ n = 8 ∧ formats = 12 ∧ op = convert)) →
    Issues k 2 n w s → s.core (s.physical k) = x → wFormats w < formats → rA w < x.usableRegs → rC w < x.usableRegs →
    ∃ t, exec i s = .next t ∧ Lanes k w (rC w) (fun i => op (wFormats w) (x.lane (rA w) i)) s t) ∧
  (∀ (k : Fin 240) (w : CoreWord) (s : State) (x : Core) (v : Option Word), Issues k 2 9 w s → s.core (s.physical k) = x →
    wFormats w ≤ 1 → rA w < x.usableRegs → rC w < x.usableRegs →
    reduceTree (if wFormats w = 0 then fadd else fmaxNum) 9 ((List.range 512).map fun i =>
      if bit (wMask w) (i / 32) then some (x.lane (rA w) i) else none) = v →
    ∃ t y, exec (.vred k) s = .next t ∧ OnlyCore k s t y ∧ y = { x.went 1 with vregs := y.vregs } ∧
      y.lane (rC w) 0 = v.getD (x.lane (rC w) 0) ∧
      ∀ r i, i < 512 → (r ≠ rC w ∨ i ≠ 0) → y.lane r i = x.lane r i) ∧
  (∀ (k : Fin 240) (w : CoreWord) (s v : State) (j : Nat) (data : List Byte), Issues k 2 0 w s → wFormats w = 0 → wCount w = 1 →
    wMask w = 2 ^ j → j < 16 → tooMany (s.core (s.physical k)) w = false →
    s.fetchLocal k 1 (wA w * 64 + sliceAt (s.core (s.physical k)).groups 0 j) 128 = .ok v data →
    ∃ t, exec (.vld k) s = .next t ∧
      Lanes k w (rB w) (fun i => BitVec.ofNat 32 (le data (4 * (i - 32 * j)) 4)) v t) ∧
  (∀ (k : Fin 240) (w : CoreWord) (s v : State), Issues k 2 0 w s → wFormats w = 0 → tooMany (s.core (s.physical k)) w = false →
    s.loadParts k (vectorParts (s.core (s.physical k)) w) = .ok v →
    ∃ t, exec (.vld k) s = .next t ∧ OnlyCore k v t ((v.core (s.physical k)).went 1)) ∧
  (∀ (k : Fin 240) (w : CoreWord) (s v : State), Issues k 2 1 w s → wFormats w = 0 → tooMany (s.core (s.physical k)) w = false →
    s.storeMiss k (vectorParts (s.core (s.physical k)) w) = none →
    s.storeParts k (vectorParts (s.core (s.physical k)) w) = .ok v →
    ∃ t, exec (.vst k) s = .next t ∧ OnlyCore k v t ((v.core (s.physical k)).went 1)) ∧
  (∀ (k : Fin 240) (w : CoreWord) (s : State) (j : Nat) (x : Core), Issues k 2 1 w s → s.core (s.physical k) = x → wFormats w = 0 →
    wCount w = 1 → wMask w = 2 ^ j → j < 16 → tooMany x w = false → s.storeMiss k (vectorParts x w) = none →
    ∃ t, exec (.vst k) s = .next t ∧ Wrote s.mem (localKey (s.physical k) (wA w * 64 + sliceAt x.groups 0 j))
      ((List.range 32).flatMap fun i => leBytes 4 (x.lane (rB w) (32 * j + i)).toNat) t.mem)

/-! ## The stream instructions and the channels (R215 to R237) -/

/-- The stream instructions enter the stream queue while the core decodes on, and one that finds it empty goes through at once: SPUT
enqueues its descriptors one after another while its channel has room; SWAIT and SIDLE go once their condition holds; SSIG signals
once the array and vector queues are empty. What waits at the front goes on, with what follows it, when its condition has come. -/
def Obligations.StreamInstructionsComplete : Prop :=
  (∀ (k : Fin 240) (w : CoreWord) (s : State) (x : Core), Issues k 3 0 w s → s.core (s.physical k) = x → 8 ≤ wB w % 16 →
    x.streamQ = [] → exec (.sput k) s =
      .next (State.runStreamQ k [.put x.pc (wB w % 16) (wA w * 64) (wCount w)] (s.advance k))) ∧
  (∀ (k : Fin 240) (w : CoreWord) (s : State) (x : Core), Issues k 3 0 w s → s.core (s.physical k) = x → 8 ≤ wB w % 16 →
    x.streamQ ≠ [] → (∀ pc c a n l, x.streamQ = .put pc c a n :: l → 16 ≤ (x.channel c).queue.length) →
    ∃ t, exec (.sput k) s = .next t ∧ OnlyCore k s t { x with
      pc := x.pc + 1, streamQ := x.streamQ ++ [.put x.pc (wB w % 16) (wA w * 64) (wCount w)] }) ∧
  (∀ (k : Fin 240) (w : CoreWord) (s : State), Issues k 3 0 w s → wB w % 16 < 8 → (s.core (s.physical k)).streamQ = [] →
    exec (.sput k) s = .next (s.trap k 2)) ∧
  (∀ (k : Fin 240) (s : State) (pc chan a n : Nat) (l : List StreamOp), (s.core (s.physical k)).streamQ = .put pc chan a n :: l →
    s.paused = false → ((s.core (s.physical k)).channel chan).queue.length < 16 →
    exec (.sput k) s = .next (match State.putFrom k pc chan n a s with
      | .gone v => State.runStreamQ k l v
      | .waits v op => v.onCore k fun x => { x with streamQ := op :: l }
      | .trap v cause pc b => v.trapAt k cause pc b)) ∧
  (∀ (k : Fin 240) (s v : State) (pc chan n a : Nat) (data : List Byte) (x : Core),
    s.core (s.physical k) = x → (x.channel chan).queue.length < 16 → localRange a 64 = .store →
    s.fetchLocal k 2 a 64 = .ok v data →
    State.putFrom k pc chan (n + 1) a s = State.putFrom k pc chan n (a + 64) (v.putDescriptor k chan
      { bytes := data, item := (x.block.map (·.item)).getD 0, entry := 0, context := x.context, csn := x.csn, action := x.action })) ∧
  (∀ (k : Fin 240) (s : State) (pc chan n a : Nat), 16 ≤ ((s.core (s.physical k)).channel chan).queue.length →
    State.putFrom k pc chan (n + 1) a s = .waits s (.put pc chan a (n + 1))) ∧
  (∀ (k : Fin 240) (w : CoreWord) (s : State) (x : Core), Issues k 3 1 w s → s.core (s.physical k) = x →
    ∃ t, exec (.swait k) s = .next t ∧ OnlyCore k s t { x with
      pc := x.pc + 1
      streamQ := if x.streamQ = [] ∧ wCount w ≤ s.barrier k (rA w) then [] else x.streamQ ++ [.wait (rA w) (wCount w)] }) ∧
  (∀ (k : Fin 240) (s : State) (i n : Nat) (l : List StreamOp), (s.core (s.physical k)).streamQ = .wait i n :: l →
    n ≤ s.barrier k i → exec (.swaitRelease k) s = .next (State.runStreamQ k l s)) ∧
  (∀ (k : Fin 240) (s : State) (i n : Nat) (l : List StreamOp) (x : Core), s.Canonical → s.core (s.physical k) = x →
    x.streamQ = .wait i n :: l → s.barrier k i < n → ∃ t, exec (.swaitRelease k) s = .next t ∧ OnlyCore k s t x) ∧
  (∀ (k : Fin 240) (w : CoreWord) (s u : State) (x : Core) (c : Nat), Issues k 3 2 w s → s.core (s.physical k) = x →
    wC w % 256 = c → bit (s.quartersOf x.context x.csn) (c / 15) = true → s.logicalExists c = true → x.streamQ = [] →
    x.queues = 0 → (s.advance k).signal c (rA w) (wCount w) = some u →
    exec (.ssig k) s = .next (u.onCore k fun y => { y with streamQ := [] })) ∧
  (∀ (k : Fin 240) (w : CoreWord) (s : State) (x : Core) (c : Nat), Issues k 3 2 w s → s.core (s.physical k) = x →
    wC w % 256 = c → bit (s.quartersOf x.context x.csn) (c / 15) = true → s.logicalExists c = true →
    (x.streamQ ≠ [] ∨ x.queues ≠ 0) →
    ∃ t, exec (.ssig k) s = .next t ∧ OnlyCore k s t { x with
      pc := x.pc + 1, streamQ := x.streamQ ++ [.signal x.pc (rA w) (wCount w) c] }) ∧
  (∀ (k : Fin 240) (w : CoreWord) (s : State) (x : Core), Issues k 3 2 w s → s.core (s.physical k) = x →
    (bit (s.quartersOf x.context x.csn) (wC w % 256 / 15) = false ∨ s.logicalExists (wC w % 256) = false) →
    exec (.ssig k) s = .next (s.trap k 5)) ∧
  (∀ (k : Fin 240) (s u v : State) (pc i n c : Nat) (l : List StreamOp), s.Canonical →
    (s.core (s.physical k)).streamQ = .signal pc i n c :: l → (s.core (s.physical k)).queues < 4 →
    s.onCore k (fun x => x.emptied 3) = u → u.signal c i n = some v →
    exec (.ssigRelease k) s = .next (State.runStreamQ k l v)) ∧
  (∀ (s t : State) (c i n : Nat), s.Canonical → s.signal c i n = some t →
    (t.barrier c i = s.barrier c i + n ∧ s.barrier c i + n < 2 ^ 32 ∧ (∀ j, j ≠ i → t.barrier c j = s.barrier c j) ∧
      (∀ p, p ≠ s.physical c → t.core p = s.core p) ∧ t = { s with cores := t.cores })) ∧
  (∀ (k : Fin 240) (w : CoreWord) (s : State) (x : Core), Issues k 3 3 w s → s.core (s.physical k) = x →
    ∃ t, exec (.sidle k) s = .next t ∧ OnlyCore k s t { x with
      pc := x.pc + 1
      streamQ := if x.streamQ = [] ∧ x.channelsIdle (wA w % 65536) = true then [] else x.streamQ ++ [.idle (wA w % 65536)] }) ∧
  (∀ (k : Fin 240) (s : State) (m : Nat) (l : List StreamOp), (s.core (s.physical k)).streamQ = .idle m :: l →
    (s.core (s.physical k)).channelsIdle m = true → exec (.sidleRelease k) s = .next (State.runStreamQ k l s))

/-- A channel translates a group and issues its pieces, up to 64 reads of the channel and 384 of the core; a fault halts it, with
its cause and address; a piece's read fills it, its write ends it, one that meets lost data fails, and one with an old tag is
dropped and counted; a descriptor without anything left signals, counts and makes way; one that waits goes on at its threshold. -/
def Obligations.ChannelsMoveTheirRows : Prop :=
  (∀ (k : Fin 240) (c : Fin 16) (s u v : State) (h : Channel) (q : QueuedDesc) (l : List QueuedDesc) (d : StreamDesc) (g : Group),
    (s.core (s.physical k)).channel c = h → h.queue = q :: l → h.state = .running → s.paused = false → h.ready = [] →
    h.fault = none → streamDesc q.bytes = d → d.exhausted h.cursor = false →
    (if d.kind = 1 then s.nextCopy q.context k c d h
      else s.nextListed { context := if d.noAllocate then none else some q.context } q.context k c d h) = (v, g) →
    s.groupHeld d h.cursor g = false →
    v.markLinks q.context q.csn q.action (s.listLinks d k h.cursor ||| s.signalLinks d k) = u →
    (∀ ps cur pages begins after, g = .pieces ps cur pages begins after →
      exec (.translationGroup k c) s = .next ((u.modChannel (s.physical k) c fun h =>
        h.translated d k ps cur pages begins after).issue k c)) ∧
    (∀ f, g = .fault f → exec (.translationGroup k c) s = .next (u.streamFails k c q.context q.csn f))) ∧
  (∀ (h : Channel) (d : StreamDesc) (own cur : Nat) (ps : List (Nat × Nat × Nat)) (pages : List Nat) (begins : List (List Nat))
      (after : Option StreamFault), h.first ≤ h.position → h.position ≤ h.first + ps.length →
    (h.translated d own ps cur pages begins after).ready = (numbered d own h.first pages begins ps).drop (h.position - h.first) ∧
      (h.translated d own ps cur pages begins after).position = h.first + ps.length) ∧
  (∀ (k : Fin 240) (c : Fin 16) (s t : State) (cc csn : Nat) (f : StreamFault) (h : Channel), s.Canonical → f.cause ≠ 0 →
    (s.uncompleted cc).contains csn = true → s.streamFails k c cc csn f = t → (t.core (s.physical k)).channel c = h →
    h.cause = f.cause ∧ h.faultAddress = f.address ∧ h.faultSpace = f.space ∧ h.faultCore = f.core ∧
      (((s.core (s.physical k)).channel c).heads cc csn = true →
        h.state = (if f.cause = 1 then .haltedPage else .haltedError) ∧ h.ready = []) ∧
      (((s.core (s.physical k)).channel c).heads cc csn = false → h.state = ((s.core (s.physical k)).channel c).state ∧
        h.queue = ((s.core (s.physical k)).channel c).queue) ∧
      (∀ p, p ≠ s.physical k → t.core p = s.core p) ∧ t.mem = s.mem) ∧
  (∀ (k : Fin 240) (c : Fin 16) (s : State) (cc csn : Nat) (f : StreamFault), (s.uncompleted cc).contains csn = false →
    s.streamFails k c cc csn f = s) ∧
  (∀ (k : Fin 240) (c : Fin 16) (s t : State) (x : Core) (n : Nat), s.Canonical → s.core (s.physical k) = x →
    (x.channel c).queue ≠ [] → min (64 - ((x.channel c).flights.filter (·.data.isNone)).length) (384 - x.readsInFlight) = n →
    s.issue k c = t →
    ∃ l, (t.core (s.physical k)).channel c = { x.channel c with
        ready := (x.channel c).ready.drop n, flights := (x.channel c).flights ++ l,
        begun := ((x.channel c).ready.take n).foldl (fun b w => w.begins.foldl begin_ b) (x.channel c).begun } ∧
      l.map (·.piece) = (x.channel c).ready.take n ∧ (∀ f ∈ l, f.data = none) ∧
      (∀ i, i ≠ c.val → (t.core (s.physical k)).channel i = x.channel i) ∧
      (∀ p, p ≠ s.physical k → t.core p = s.core p) ∧ t = { s with cores := t.cores, contexts := t.contexts }) ∧
  (∀ (k : Fin 240) (c : Fin 16) (s v : State) (n : Nat) (f : Flight) (data : List Byte),
    ((s.core (s.physical k)).channel c).flights.find? (·.piece.number == n) = some f → s.stalePiece f = false → f.data = none →
    s.pieceHeld f = false →
    (s.core (s.physical k)).writesInFlight < 128 →
    s.readPiece f.piece f.context f.requester = (v, data, none) →
    exec (.pieceComplete k c n) s = .next (v.modChannel (s.physical k) c fun h => { h with
      flights := changeFlight n (fun x => some { x with data := some data }) h.flights })) ∧
  (∀ (k : Fin 240) (c : Fin 16) (s v : State) (n cause : Nat) (f : Flight) (data : List Byte),
    ((s.core (s.physical k)).channel c).flights.find? (·.piece.number == n) = some f → s.stalePiece f = false → f.data = none →
    s.pieceHeld f = false →
    (s.core (s.physical k)).writesInFlight < 128 →
    s.readPiece f.piece f.context f.requester = (v, data, some cause) →
    exec (.pieceComplete k c n) s = .next (((v.modChannel (s.physical k) c fun h => { h with
      flights := changeFlight n (fun _ => none) h.flights }).streamFails k c f.context f.csn
        { cause := cause, space := f.piece.srcSpace, core := if f.piece.srcSpace = 2 then f.piece.srcCore else 0,
          address := f.piece.src }).pieceEnded k c)) ∧
  (∀ (k : Fin 240) (c : Fin 16) (s v : State) (n : Nat) (f : Flight) (data : List Byte),
    ((s.core (s.physical k)).channel c).flights.find? (·.piece.number == n) = some f → s.stalePiece f = false →
    f.data = some data → s.pieceHeld f = false →
    (s.pieceLost f = (v, none) →
      exec (.pieceComplete k c n) s = .next (((v.writePiece f data).modChannel (s.physical k) c fun h => { h with
        flights := changeFlight n (fun _ => none) h.flights }).pieceEnded k c)) ∧
    (∀ a, s.pieceLost f = (v, some a) →
      exec (.pieceComplete k c n) s = .next (((v.modChannel (s.physical k) c fun h => { h with
        flights := changeFlight n (fun _ => none) h.flights }).streamFails k c f.context f.csn
          { cause := 5, space := f.piece.dstSpace, core := if f.piece.dstSpace = 2 then f.piece.dstCore else 0, address := a }).pieceEnded
            k c))) ∧
  (∀ (k : Fin 240) (c : Fin 16) (s : State) (n : Nat) (f : Flight),
    ((s.core (s.physical k)).channel c).flights.find? (·.piece.number == n) = some f → s.stalePiece f = false →
    s.pieceHeld f = true → exec (.pieceComplete k c n) s = .next s) ∧
  (∀ (k : Fin 240) (c : Fin 16) (s : State) (n : Nat) (f : Flight),
    ((s.core (s.physical k)).channel c).flights.find? (·.piece.number == n) = some f →
    f.tag ≠ (s.context f.context).generation % 16 →
    exec (.pieceComplete k c n) s = .next (((s.countStale f.context 1 (if f.data = none then f.piece.src else f.piece.dst)).modChannel
      (s.physical k) c fun h => { h with flights := changeFlight n (fun _ => none) h.flights }).pieceEnded k c)) ∧
  (∀ (k : Fin 240) (c : Fin 16) (s u : State) (h : Channel) (q : QueuedDesc) (l : List QueuedDesc) (d : StreamDesc),
    (s.core (s.physical k)).channel c = h → h.queue = q :: l → h.state = .running → h.ready = [] → h.flights = [] → h.fault = none →
    streamDesc q.bytes = d → d.exhausted h.cursor = true →
    (if d.signal then bit (s.quartersOf q.context q.csn) (d.signalCore / 15) = true ∧ s.logicalExists d.signalCore = true ∧
        s.signal d.signalCore d.signalCounter d.increment = some u
      else u = s) →
    exec (.descriptorComplete k c) s = .next (((u.modChannel (s.physical k) c fun h => { h with
      queue := l, done := saturate32 (h.done + 1), issuing := false }).headArrives k c).fillQueue k c)) ∧
  (∀ (k : Fin 240) (c : Fin 16) (s : State) (h : Channel) (q : QueuedDesc) (l : List QueuedDesc),
    (s.core (s.physical k)).channel c = h → h.queue = q :: l → h.state = .waitingBarrier →
    (streamDesc q.bytes).threshold ≤ s.barrier k (streamDesc q.bytes).waitCounter →
    exec (.barrierWaitRelease k c) s = .next (s.modChannel (s.physical k) c fun h => { h with state := .running }))

/-! ## In-bank compute and the Hopper units (R195 to R213, R268 to R276) -/

/-- A unit takes a good descriptor and refuses a bad one with GuardTrip; a chunk's end visits its rows, lets the refreshes go and,
at half duty, rests before the next; the last chunk of a discarded descriptor counts its visits and leaves nothing of it; the last
row writes the result and counts. A visit of a position adds it to the scores of DOT, the outputs of WSUM, or the running maximum,
sum and outputs of ATTEND, the units merge in chain order, and the result window holds the words. A Hopper unit samples its next row
into a record and its echo, begins none in a pause, and goes on to its next job after its last row; of a row the record says what R269
to R273 say: skipped, a bad header, the lowest index of +∞, nothing to choose, the best score, or the draw. The row that GuardTrip
names for an invalid descriptor, how many rows a chunk of each band visits, and the rest at half duty, are assumption log 17. -/
def Obligations.UnitsTakeTheirWork : Prop :=
  (∀ (k : Fin 8) (p : Fin 64) (s : State) (x : PseudoChannel) (e : QuernEntry) (l : List QuernEntry), s.Canonical →
    s.pseudo k p = x → x.queue = e :: l → x.mode = .compute → x.running = none → x.resting = false → s.paused = false →
    x.badRow (quernDesc e.bytes) = none → validQuern e.bytes = true →
    ∃ t, exec (.quernDescriptorDequeue k p) s = .next t ∧ t.pseudo k p = { x with
        queue := l, running := some { entry := e, rowsDone := 0, parts := [], scores := [] }, chunkIn := true,
        chunkBand := match s.quernAction e with
          | some a => max (sget 0 a.bankBands k) (s.stack k).band
          | none => (s.stack k).band,
        flags := if (s.stack k).halfDuty then x.flags ||| 4 else x.flags } ∧
      t = { s with memStacks := t.memStacks }) ∧
  (∀ (k : Fin 8) (p : Fin 64) (s : State) (x : PseudoChannel) (e : QuernEntry) (l : List QuernEntry) (r : Nat),
    s.pseudo k p = x → x.queue = e :: l → x.mode = .compute → x.running = none → x.resting = false → s.paused = false →
    (x.badRow (quernDesc e.bytes) = some r ∨
      (x.badRow (quernDesc e.bytes) = none ∧ validQuern e.bytes = false ∧ r = (quernDesc e.bytes).firstRow)) →
    exec (.quernDescriptorDequeue k p) s =
      .next (((s.modPseudo k p fun x => { x with queue := l }).guardTrip k p e r).refillQuern k p)) ∧
  (∀ (k : Fin 8) (p : Fin 64) (s : State) (x : PseudoChannel) (run : QuernRun) (d : QuernDesc) (r n : Nat), s.Canonical →
    s.pseudo k p = x → x.running = some run → quernDesc run.entry.bytes = d → run.rowsDone / 4 = r → x.mode = .compute →
    run.dropped = false → x.resting = false → r < d.rows → x.chunkIn = true → min (chunkRows x.chunkBand) (d.rows - r) = n →
    ∃ t run', exec (.quernChunkEnd k p) s = .next t ∧ (t.pseudo k p).running = some run' ∧ run'.rowsDone = 4 * (r + n) ∧
      run'.entry = run.entry ∧ (t.pseudo k p).postponed = [] ∧ (t.stack k).rowVisits = (s.stack k).rowVisits + d.visits r n ∧
      (t.pseudo k p).resting = (s.stack k).halfDuty ∧ (t.pseudo k p).chunkBand = s.chunkBandNow k p run.entry ∧
      (t.pseudo k p).chunkIn = (!(s.stack k).halfDuty && !s.paused && decide (r + n < d.rows)) ∧
      t = { s with memStacks := t.memStacks }) ∧
  (∀ (k : Fin 8) (p : Fin 64) (s : State) (x : PseudoChannel) (run : QuernRun), s.Canonical → s.pseudo k p = x → x.resting = true →
    x.running = some run →
    ∃ t, exec (.quernChunkEnd k p) s = .next t ∧ t.pseudo k p = (if x.mode = .compute ∧ s.paused = false ∧ x.rowsLeft = true then
        { x with resting := false, chunkIn := true, chunkBand := s.chunkBandNow k p run.entry }
      else { x with resting := false }) ∧
      t = { s with memStacks := t.memStacks }) ∧
  (∀ (k : Fin 8) (p : Fin 64) (s : State) (x : PseudoChannel) (run : QuernRun), s.Canonical → s.pseudo k p = x →
    x.running = some run → x.resting = false → x.chunkIn = true → (run.dropped = true ∨ x.mode ≠ .compute) →
    ∃ t, exec (.quernChunkEnd k p) s = .next t ∧
      t.pseudo k p = { x with running := none, chunkIn := false, postponed := [] } ∧
      (t.stack k).rowVisits = (s.stack k).rowVisits + (quernDesc run.entry.bytes).visits (run.rowsDone / 4)
        (min (chunkRows x.chunkBand) ((quernDesc run.entry.bytes).rows - run.rowsDone / 4)) ∧
      t = { s with memStacks := t.memStacks }) ∧
  (∀ (k : Fin 8) (p : Fin 64) (s : State) (x : PseudoChannel) (run : QuernRun) (d : QuernDesc), s.Canonical →
    s.pseudo k p = x → x.running = some run → quernDesc run.entry.bytes = d → x.mode = .compute → run.dropped = false →
    4 * d.rows ≤ run.rowsDone →
    ∃ t, exec (.quernDescriptorEnd k p) s = .next t ∧ t.mem = (s.writeResult k p d run).mem ∧ (t.pseudo k p).running = none ∧
      (t.pseudo k p).completed = x.completed + 1 ∧ (t.pseudo k p).lastTag = BitVec.ofNat 32 d.tag ∧
      (∀ j q, (j, q) ≠ (k.val, p.val) → t.pseudo j q = s.pseudo j q) ∧ t = { s with memStacks := t.memStacks, mem := t.mem }) ∧
  (∀ (s : State) (k p x i h : Nat) (d : QuernDesc) (run : QuernRun) (q key val : List Val), i / d.queries = h →
    ((List.range d.dim).map fun j => bf16.decode (leNat (s.windowRead k p (d.operand + i * d.dim * 2 + j * 2) 2))) = q →
    ((List.range d.dim).map fun j => (elemFmt d.format).decode
      (le (s.record k p d x) ((h * d.dim + j) * d.elementSize) d.elementSize)) = key →
    ((List.range d.dim).map fun j => (elemFmt d.format).decode
      (le (s.record k p d x) (((d.heads + h) * d.dim + j) * d.elementSize) d.elementSize)) = val →
    (d.op = 1 → s.visit k p d x i run = { run with
      scores := sput 0 run.scores (i * d.length + x) (fmul d.scale ((q.zip key).foldl (fun acc e => fma e.1 e.2 acc) 0)) }) ∧
    (∀ r w, sget (emptyPart d.dim) run.parts (unitOf (x % 64) * 256 + i) = r →
      BitVec.ofNat 32 (leNat (s.windowRead k p (d.operand + (i * d.length + x) * 4) 4)) = w → d.op = 2 →
      s.visit k p d x i run = { run with
        parts := sput (emptyPart d.dim) run.parts (unitOf (x % 64) * 256 + i)
          { r with o := (val.zip r.o).map fun e => fma (ofFp32 w) e.1 e.2 } }) ∧
    (∀ r sc, sget (emptyPart d.dim) run.parts (unitOf (x % 64) * 256 + i) = r → d.op = 3 →
      fmul d.scale ((q.zip key).foldl (fun acc e => fma e.1 e.2 acc) 0) = sc →
      s.visit k p d x i run = { run with parts := sput (emptyPart d.dim) run.parts (unitOf (x % 64) * 256 + i) (r.attend sc val) })) ∧
  (∀ (r : Part) (sc a w : Word) (v : List Val), (∀ e ∈ v, e ≠ .nan) → isNaN32 sc = false →
    (sc = negInf → r.attend sc v = r) ∧
    (sc ≠ negInf → fless r.m sc = true → fexp2 (fsub r.m sc) = a → fexp2 (fsub sc sc) = w →
      r.attend sc v = { m := sc, l := fadd (fmul r.l a) w, o := (v.zip r.o).map fun e => fma (ofFp32 w) e.1 (fmul e.2 a) }) ∧
    (sc ≠ negInf → fless r.m sc = false → fexp2 (fsub sc r.m) = w →
      r.attend sc v = { r with l := fadd r.l w, o := (v.zip r.o).map fun e => fma (ofFp32 w) e.1 e.2 })) ∧
  (∀ (acc r : Part) (m a b : Word), (r.m = negInf → acc.merge r = acc) ∧ (r.m ≠ negInf → acc.m = negInf → acc.merge r = r) ∧
    (r.m ≠ negInf → acc.m ≠ negInf → m = fmaxNum acc.m r.m → a = fexp2 (fsub acc.m m) → b = fexp2 (fsub r.m m) →
      acc.merge r = { m := m, l := ffma r.l b (fmul acc.l a), o := (r.o.zip acc.o).map fun e => ffma e.1 b (fmul e.2 a) })) ∧
  (∀ (k : Fin 8) (p : Fin 64) (s t : State) (run : QuernRun) (d : QuernDesc) (words : List Word) (n b : Nat) (y : Word), s.Canonical →
    quernDesc run.entry.bytes = d → validQuern run.entry.bytes = true → d.length ≠ 0 → s.writeResult k p d run = t →
    (∀ i, (run.chain d i).o.length = d.dim) → (s.pseudo k p).firstSeg < 128 →
    words = (if d.op = 1 then (List.range (d.vectors * d.length)).map (sget 0 run.scores)
      else if d.op = 2 then (List.range d.vectors).flatMap fun i => (run.chain d i).o
      else (List.range d.vectors).flatMap fun i => (run.chain d i).m :: (run.chain d i).l :: (run.chain d i).o) →
    (words[n]? = some y → b < 4 →
      memGet t.mem (windowKey k p (s.pseudo k p).firstSeg 1 (d.result + 4 * n + b)) = byteAt (leBytes 4 y.toNat) b) ∧
    (∀ a, (∀ i, i < 4 * words.length → a ≠ windowKey k p (s.pseudo k p).firstSeg 1 (d.result + i)) → memGet t.mem a = memGet s.mem a)) ∧
  (∀ (h : Fin 4) (s v w : State) (x : Hopper) (m : Cmd) (p : Plan) (t : SamplerItem) (record : List Byte) (flags : Nat),
    s.hopper h = x → s.cmd x.context x.csn = some m → s.plan x.context m.planId = some p → x.running = true → x.dropped = false →
    x.nextRow < x.endRow → p.sampler x.item = t → s.rowHeld x t = false → s.sampleAt t p.id (t.rowAt x.nextRow) = (v, .ok (record, flags)) →
    v.modCmd x.context x.csn (fun y => { y with
      records := sput [] y.records (p.firstRecord (m.actions.map (·.entry)) x.action + x.nextRow) record }) = w →
    (if t.echo = 0 then w else w.writeOwn (t.echo + 16 * x.nextRow) record).Canonical →
    (if t.echo = 0 then w else w.writeOwn (t.echo + 16 * x.nextRow) record).hopper h = x →
    ∃ u, exec (.hopperRowSample h) s = .next (if x.nextRow + 1 < x.endRow then u else u.nextJob h) ∧
      u.hopper h = { x with
        nextRow := x.nextRow + 1, inRow := !s.paused, running := decide (x.nextRow + 1 < x.endRow), rowsDone := saturate32 (x.rowsDone + 1),
        flaggedRows := if flags &&& 28 = 0 then x.flaggedRows else saturate16 (x.flaggedRows + 1),
        trouble := if flags &&& 28 = 0 then x.trouble else x.trouble ||| 4#32 } ∧
      u = { (if t.echo = 0 then w else w.writeOwn (t.echo + 16 * x.nextRow) record) with
        hoppers := u.hoppers, log := u.log, logNext := u.logNext, freshTrouble := u.freshTrouble }) ∧
  (∀ (h : Nat) (s : State) (m : Cmd) (p : Plan) (j : HopperJob) (l : List HopperJob), (s.hopper h).waiting = j :: l →
    s.cmd j.context j.csn = some m → s.plan j.context m.planId = some p →
    s.nextJob h = (s.modHopper h fun x => { x with waiting := l }).giveJob h (p.sampler j.item) j) ∧
  (∀ (h : Fin 4) (s v : State) (x : Hopper) (m : Cmd) (p : Plan) (t : SamplerItem) (b : Nat),
    s.hopper h = x → s.cmd x.context x.csn = some m → s.plan x.context m.planId = some p → x.running = true → x.dropped = false →
    x.nextRow < x.endRow → p.sampler x.item = t → s.rowHeld x t = false → s.sampleAt t p.id (t.rowAt x.nextRow) = (v, .error b) →
    exec (.hopperRowSample h) s = .next (v.hopperFault h x.context x.csn b 3)) ∧
  (∀ (h : Fin 4) (s : State), s.paused = true → (s.hopper h).inRow = false → (s.hopper h).dropped = false →
    exec (.hopperRowSample h) s = .next s) ∧
  (∀ (h : Fin 4) (s : State) (x : Hopper), s.Canonical → s.hopper h = x → x.dropped = true → x.waiting = [] →
    s.cmd x.context x.csn = none →
    ∃ t, exec (.hopperRowSample h) s = .next t ∧ t.hopper h = { x with running := false, dropped := false } ∧
      t = { s with hoppers := t.hoppers }) ∧
  (∀ (s v : State) (t : SamplerItem) (id a : Nat) (head : List Byte), s.readDevice {} a 16 = (v, head, none) →
    bit (le head 2 1) 2 = true → s.sampleAt t id a =
      (v, .ok (leBytes 2 (le head 0 2) ++ [32#8, 0#8] ++ leBytes 4 (le head 4 4) ++ leBytes 4 0xFFFFFFFF ++ zeros 4, 32))) ∧
  (∀ (s v w u : State) (t : SamplerItem) (id a token flags : Nat) (logp : Word) (head tail scores : List Byte) (g : RowConfig),
    s.readDevice {} a 16 = (v, head, none) → bit (le head 2 1) 2 = false → v.readDevice {} (a + 16) 48 = (w, tail, none) →
    (rowConfig t (head ++ tail) = none → s.sampleAt t id a =
      (w, .ok (leBytes 2 (le head 0 2) ++ [16#8, 0#8] ++ leBytes 4 (le head 4 4) ++ leBytes 4 0xFFFFFFFF ++ zeros 4, 16))) ∧
    (rowConfig t (head ++ tail) = some g → w.readDevice {} (a + 64) (t.vocab * t.size) = (u, scores, none) →
      sampleRow t g scores (le head 4 4) (id % 2 ^ 32 ^^^ id / 2 ^ 32 ^^^ t.salt ^^^ 2 ^ 16 * le head 0 2) = (token, flags, logp) →
      s.sampleAt t id a = (u, .ok (leBytes 2 (le head 0 2) ++ leBytes 1 flags ++ zeros 1 ++ leBytes 4 (le head 4 4) ++
        leBytes 4 token ++ leBytes 4 logp.toNat, flags)))) ∧
  (∀ (t : SamplerItem) (g : RowConfig) (scores : List Byte) (position salt : Nat) (nan : Nat) (z : Nat → Word), 0 < g.keep →
    (∀ v, z v = fmul (t.score scores v) g.scale) →
    nan = (if (List.range t.vocab).any (fun v => isNaN32 (t.score scores v)) then 4 else 0) →
    (∀ i, i < t.vocab → isNaN32 (t.score scores i) = false → z i = 0x7F800000#32 →
      (∀ v, v < i → isNaN32 (t.score scores v) = true ∨ z v ≠ 0x7F800000#32) →
      sampleRow t g scores position salt = (i, nan + 3, 0)) ∧
    ((∀ v, v < t.vocab → isNaN32 (t.score scores v) = true ∨ z v = 0xFF800000#32) →
      sampleRow t g scores position salt = (0xFFFFFFFF, nan + 8, 0)) ∧
    (∀ i, i < t.vocab → isNaN32 (t.score scores i) = false → z i ≠ 0xFF800000#32 → g.greedy = true → nan = 0 →
      (∀ v, v < t.vocab → z v ≠ 0x7F800000#32 ∧ isNaN32 (z v) = false ∧ fless (z i) (z v) = false ∧ (v < i → fless (z v) (z i) = true)) →
      sampleRow t g scores position salt = (i, 1, 0))) ∧
  (∀ (t : SamplerItem) (g : RowConfig) (scores : List Byte) (position salt n j : Nat) (x : Scan) (m cn target : Word) (i : Nat)
      (rest : List (Word × Nat)) (cum : List Word), g.greedy = false →
    (List.range t.vocab).foldl (fun x v => x.take g (t.score scores v) v) {} = x → x.infinite = none → x.best = (m, i) :: rest →
    massSums m ((m, i) :: rest) 0 = cum → n < cum.length → cum.getD n 0 = cn →
    (∀ l, l < n → fless (cum.getD l 0) (fmul g.mass (cum.getD (cum.length - 1) 0)) = true) →
    fless cn (fmul g.mass (cum.getD (cum.length - 1) 0)) = false →
    target = fmul cn (toFp32 (.fin false
      ((chaff32 (m ^^^ cn) (BitVec.ofNat 32 position) (BitVec.ofNat 32 salt)).toNat / 256) (-24))) →
    j ≤ n → (∀ l, l < j → fless target (cum.getD l 0) = false) → (j = n ∨ fless target (cum.getD j 0) = true) →
    sampleRow t g scores position salt = ((((m, i) :: rest).getD j (m, i)).2, (if x.nan then 4 else 0),
      fsub (fsub (((m, i) :: rest).getD j (m, i)).1 m) (flog2 cn)))

/-! ## What happens by itself (R132, R135, R169, R172, R355, R478 to R480) -/

/-- Patrol scrub corrects what it can, notes what it cannot and leaves a sound line alone; a refresh of Bedstone tells nothing, one
of a stack waits for the chunks that use its bank; the I²C targets, under P3V3_AUX, answer a read at their address with their table
and nothing else; an idle notch passes. The row that a stack's scrub command names and a Bedstone refresh that tells nothing are
assumption log 32, the free bytes past a table's end log 33. -/
def Obligations.MemoriesKeepThemselves : Prop :=
  (∀ (p : Fin 256) (line : Nat) (s : State), (∀ g ∈ unitsOf 16 (0x10000000 + line * 64) 64, (s.damageAt (localKey p g)).kind = .none) →
    exec (.slicePatrolScrub p line) s = .next s) ∧
  (∀ (p : Fin 256) (line g : Nat) (s : State), s.Canonical → (s.core p).state ≠ .running → (s.core p).state ≠ .trapped →
    s.isOn (p / 4) = true → line < 786432 →
    g ∈ unitsOf 16 (0x10000000 + line * 64) 64 → (s.damageAt (localKey p g)).kind ≠ .correctable →
    (s.damageAt (localKey p g)).lost = true →
    (∀ x ∈ unitsOf 16 (0x10000000 + line * 64) 64, x ≠ g → (s.damageAt (localKey p x)).kind = .none) →
    ∃ t, exec (.slicePatrolScrub p line) s = .next t ∧ (t.core p).trouble = (s.core p).trouble ||| 4#32 ∧ t.mem = s.mem ∧
      (∀ q, q ≠ p.val → t.core q = s.core q)) ∧
  (∀ (p : Fin 256) (line g : Nat) (s : State), s.Canonical → (s.core p).state ≠ .running → (s.core p).state ≠ .trapped →
    s.isOn (p / 4) = true → line < 786432 →
    g ∈ unitsOf 16 (0x10000000 + line * 64) 64 → (s.damageAt (localKey p g)).kind = .correctable →
    (∀ x ∈ unitsOf 16 (0x10000000 + line * 64) 64, x ≠ g → (s.damageAt (localKey p x)).kind = .none) →
    exec (.slicePatrolScrub p line) s = .next (s.sliceCorrected p g) ∧
      ((s.sliceCorrected p g).damageAt (localKey p g)).kind = .none ∧ (s.sliceCorrected p g).mem = s.mem ∧
      ((s.sliceCorrected p g).core p).correctedCount = saturate16 ((s.core p).correctedCount + 1)) ∧
  (∀ (k : Fin 8) (row a : Nat) (m : DamageMark) (s : State), s.isOn (68 + k) = true → (s.stack k).trained = true →
    (s.stack k).selfRefresh = false →
    (s.damage.filter fun e => isExternal e.1 && stackOf e.1 == k.val && bankOf e.1 == row % 64 && rowOf e.1 == row / 64 &&
      s.scrubs k e.1) = [(a, m)] → (s.stack k).caErrors = [] → (s.stack k).strays = [] → s.damageAt a = m →
    s.journal.segments.contains (segmentOf a) = false →
    exec (.stackPatrolScrub k row) s = .next (if m.lost then s.stackUncorrectable a 3 m
      else if m.kind = .correctable then (s.stackCorrected a 3 m).clearDamage a else s)) ∧
  (∀ (d l : Fin 4) (b : Fin 16) (s : State), exec (.bedstoneRefresh d l b) s = .next s) ∧
  (∀ (k : Fin 8) (b : Fin 64) (s : State), s.Canonical → (s.stack k).trained = true → (s.stack k).selfRefresh = false →
    s.refreshDue k b = true →
    ∃ t, exec (.stackRefresh k b) s = .next t ∧ t = { s with memStacks := t.memStacks } ∧
      (∀ p, t.pseudo k p = if b.val ∈ (s.pseudo k p).chunkBanks ∧ b.val ∉ (s.pseudo k p).postponed then
        { s.pseudo k p with postponed := (s.pseudo k p).postponed ++ [b.val] } else s.pseudo k p)) ∧
  (∀ (x : I2cAccess) (n : Nat) (s : State), ∃ t, exec (.i2cEepromRead x n) s = .next t ∧
    t.pins = { s.pins with aux := x.aux, i2cAck := decide (x.aux = true ∧ x.address = 0x50 ∧ x.write = false) } ∧
    (t.pins.i2cAck = true → t.i2c.length = n ∧
      (∀ i, i < n → x.offset + i < s.eepromBytes.length → t.i2c[i]? = s.eepromBytes[x.offset + i]?)) ∧
    (t.pins.i2cAck = false → t.i2c = s.i2c) ∧ t = { s with i2c := t.i2c, free := t.free, pins := t.pins }) ∧
  (∀ (x : I2cAccess) (n : Nat) (s : State), ∃ t, exec (.coolantMonitorRead x n) s = .next t ∧
    t.pins = { s.pins with aux := x.aux, i2cAck := decide (x.aux = true ∧ x.address = 0x4C ∧ x.write = false) } ∧
    (t.pins.i2cAck = true → t.monitor.length = n ∧
      (∀ i, i < n → x.offset + i < s.monitorBytes.length → t.monitor[i]? = s.monitorBytes[x.offset + i]?)) ∧
    (t.pins.i2cAck = false → t.monitor = s.monitor) ∧ t = { s with monitor := t.monitor, free := t.free, pins := t.pins }) ∧
  (∀ s : State, s.idle = true → exec .idleNotch s = .next s.passNotch)

/-! ## Power and heat (R365 to R379) -/

/-- A housekeeping round samples, counts and decides for 16 notches later, with a thermal cap between 320 and 2400 W; its decisions
then take effect; a pause ends after its ballast; a comparator or the input's limits latch the device. That decisions still due when
a round comes are taken first, that a latch completes every command, and that an electrical latch names spot 0, are assumption
log 21. -/
def Obligations.RoundsDecide : Prop :=
  (∀ (r : Readings) (s : State), s.samples = true → r.maelynMissed = false → s.power.decisions = none →
    ∃ t d, exec (.housekeepingRound r) s = .next t ∧ t.power.rounds = s.power.rounds + 1 ∧
      t.power.lastRound = some (s.now / 1024) ∧ t.power.decisions = some d ∧ d.due = s.now + 16 ∧ 320 ≤ d.thermalCap ∧
      d.thermalCap ≤ 2400 ∧ t.mem = s.mem ∧ t.wheel.position = s.wheel.position ∧ t.contexts = s.contexts) ∧
  (∀ s : State, s.samples = true ↔ s.dev.state ≠ .off ∧ (s.dev.state = .staging → s.dev.stage = 0 → s.dev.warm = true) ∧
    s.power.lastRound ≠ some (s.now / 1024) ∧ (s.now % 1024 = 0 ∨ s.power.steppedAt = some s.uptime)) ∧
  (∀ (r : Readings) (s : State) (d : Decisions), s.samples = true → r.maelynMissed = false → s.power.decisions = some d →
    exec (.housekeepingRound r) s = .next (((s.takeDecisions d).sample r).takeMonitor.countFec r)) ∧
  (∀ (r : Readings) (s : State), (r.maelynMissed = true ∨ s.samples = false) → exec (.housekeepingRound r) s = .next s) ∧
  (∀ (s : State) (d : Decisions) (n : Nat), s.power.decisions = some d → d.due ≤ s.now → s.dev.state ≠ .off →
    (d.latch = none ∨ s.dev.state = .latched) → n = max (s.now + d.pause) (s.power.pauseUntil.getD 0) →
    ∃ t, exec .roundDecisionsEffect s = .next t ∧ t.power.decisions = none ∧ t.power.thermalCap = d.thermalCap ∧
      t.power.hotHold = d.hold ∧ t.power.trip = (d.trip || (s.power.trip && !d.clearTrip)) ∧
      (d.trip = true → t.power.tripAt = s.uptime) ∧
      t.power.pausing = decide (s.now < n) ∧ t.power.pauseUntil = (if s.now < n then some n else none) ∧
      t.wheel = s.wheel ∧ t.dev.state = s.dev.state) ∧
  (∀ (s : State) (n : Nat), s.power.pauseUntil = some n → s.power.pausing = true → n ≤ s.now →
    exec .pauseEnd s = .next (if s.holding then { s with power := { s.power with pausing := false, pauseUntil := none } }
      else State.resumeUnits { s with power := { s.power with pausing := false, pauseUntil := none } })) ∧
  (∀ (i : Fin 93) (s : State), s.dev.state ≠ .off → s.dev.state ≠ .latched → i.val < 85 →
    exec (.comparatorLatch i) s = .next (s.latch 2 i)) ∧
  (∀ (b : Bool) (s : State), s.dev.state ≠ .off → s.dev.state ≠ .latched →
    exec (.inputOverlimitLatch b) s = .next (s.latch (if b then 4 else 5) 0)) ∧
  (∀ (s : State) (cause spot c : Nat), s.Canonical → (s.latch cause spot).dev.state = .latched ∧
    (s.latch cause spot).power.latchCause = cause ∧ (s.latch cause spot).power.latchSpot = spot ∧
    (s.latch cause spot).pins.thermtrip = (s.pins.thermtrip || decide (cause ≤ 3)) ∧
    (∀ m ∈ ((s.latch cause spot).stream c).cmds, m.phase = .completed) ∧
    (∀ k, k < 79 → ((s.latch cause spot).domain k).state = .off) ∧ (s.latch cause spot).wheel = s.wheel) ∧
  (∀ s : State, s.dev.state ≠ .off → s.power.lowInput = false →
    ∃ t, exec .inputVoltageLow s = .next t ∧ t.power = { s.power with lowInput := true, trouble := s.power.trouble ||| 1024#32 } ∧
      t.logNext = s.logNext + 1 ∧
      t = { s with power := t.power, log := t.log, logNext := t.logNext, freshTrouble := t.freshTrouble }) ∧
  (∀ s : State, s.dev.state ≠ .off → s.power.lowInput = true →
    ∃ t, exec .inputVoltageRestored s = .next t ∧ t.power.lowInput = false ∧
      (s.power.hotHold = true → t = { s with power := { s.power with lowInput := false } }) ∧
      t = { s with power := t.power, memStacks := t.memStacks }) ∧
  (∀ s : State, s.dev.state ≠ .off →
    ∃ t, exec .inputVoltageHigh s = .next t ∧ t.power = { s.power with trouble := s.power.trouble ||| 1024#32 } ∧
      t = { s with power := t.power, log := t.log, logNext := t.logNext, freshTrouble := t.freshTrouble })

/-! ## The pins (R380, R384, R386, R413, R414, R470 to R474) -/

/-- The input: a device that loses it is OFF with nothing but its flash and fuses; PWR_EN and 40 V start the pre-charge 100 ms after
the last loss, whose end begins a cold start; RESET_IN# held 100 ms begins one, held 1 ms a warm start, and shorter nothing. That
PRECHARGE_START itself says that the input is at 40 V or more is assumption log 33. -/
def Obligations.PowerComesAndGoes : Prop :=
  (∀ s : State, s.pins.closed = true →
    ∃ t, exec .powerLoss s = .next t ∧ t.dev.state = .off ∧ t.mem = [] ∧ t.sessions = [] ∧ t.contexts = [] ∧
      t.dev.defects = s.dev.defects ∧ t.sec.slotA = s.sec.slotA ∧ t.sec.rollback = s.sec.rollback ∧
      t.sec.operators = s.sec.operators ∧ t.power.latchCause = s.power.latchCause ∧ t.pins.closed = false ∧
      t.pins.inputLow = true ∧ t.pins.offAt = s.uptime) ∧
  (∀ s : State, s.pins.closed = false →
    exec .powerLoss s = .next { s with pins := { s.pins with precharging := false, inputLow := true } }) ∧
  (∀ s : State, s.pins.closed = true →
    ∃ t, exec .breakerOpen s = .next t ∧ t.dev.state = .off ∧ t.mem = [] ∧ t.sessions = [] ∧ t.dev.defects = s.dev.defects ∧
      t.pins.closed = false ∧ t.pins.inputLow = s.pins.inputLow ∧ t.pins.offAt = s.uptime) ∧
  (∀ (p : Asserted) (s : State), s.pins.pwrEn = false →
    exec (.pwrEnAssert p) s = .next { s with
      dev := { s.dev with testMode := p.testMode },
      pins := { s.pins with pwrEn := true, precharging := !s.pins.closed && p.inRange && s.offLongEnough,
                            inputLow := s.pins.inputLow && !p.inRange } }) ∧
  (∀ s : State, s.pins.pwrEn = true → s.pins.closed = false → 104858 + s.pins.offAt ≤ s.uptime →
    exec .prechargeStart s = .next { s with pins := { s.pins with precharging := true, inputLow := false } }) ∧
  (∀ s : State, s.pins.precharging = true → s.pins.closed = false → s.pins.inputLow = false →
    ∃ t, exec .prechargeDone s = .next t ∧ t.dev.state = .staging ∧ t.dev.stage = 0 ∧ t.dev.warm = false ∧
      t.dev.coldStarts = s.dev.coldStarts + 1 ∧ t.wheel.state = .unset ∧ t.wheel.position = 0 ∧ t.mem = [] ∧
      t.pins.closed = true ∧ t.pins.precharging = false) ∧
  (∀ s : State, s.pins.pwrEn = true →
    ∃ t, exec .pwrEnDeassert s = .next t ∧ t.pins.pwrEn = false ∧ t.pins.closed = false ∧
      (s.pins.closed = true → t.dev.state = .off ∧ t.mem = []) ∧ (s.pins.closed = false → t.dev = s.dev ∧ t.mem = s.mem)) ∧
  (∀ (n : Nat) (s : State), s.pins.pwrEn = true → s.dev.state ≠ .off → s.dev.state ≠ .latched → s.dev.state ≠ .staging →
    104858 ≤ n →
    ∃ t, exec (.resetInRelease n) s = .next t ∧ t.dev.state = .staging ∧ t.dev.stage = 0 ∧ t.dev.warm = false ∧
      t.dev.coldStarts = s.dev.coldStarts + 1 ∧ t.mem = [] ∧ t.dev.defects = s.dev.defects) ∧
  (∀ (n : Nat) (s : State), s.pins.pwrEn = true → s.dev.state ≠ .off → s.dev.state ≠ .latched → s.dev.state ≠ .staging →
    1049 ≤ n → n < 104858 →
    ∃ t, exec (.resetInRelease n) s = .next t ∧ t.dev.state = .staging ∧ t.dev.quiescing = true ∧ t.dev.warm = true ∧
      t.dev.warmStarts = s.dev.warmStarts + 1 ∧ t.dev.startCause = 1 ∧ t.mem = s.mem ∧ t.wheel = s.wheel) ∧
  (∀ (n : Nat) (s : State), n < 1049 → exec (.resetInRelease n) s = .next s)

/-! ## Starts (R412 to R428) -/

/-- The quiesce and the stages S0 to S9: each passes to the next, or fails readiness with its code and enters FAULTED; S9 ends in
READY or DEGRADED, and a cold start raises the rollback counter, a warm one does not. That a start whose operator table has no copy
fails with the code of the field defect list is assumption log 54. -/
def Obligations.StagesPassInTurn : Prop :=
  (∀ (l : List Nat) (s : State), s.Canonical → s.dev.state = .staging → s.dev.quiescing = true →
    ∃ t, exec (.quiesce l) s = .next t ∧ t.dev.quiescing = false ∧ t.dev.state = .staging ∧ t.dev.stage = 1 ∧ t.wheel = s.wheel ∧
      (∀ p, (t.core p).state = .disabled) ∧ (∀ k, k < 8 → (t.stack k).selfRefresh = true)) ∧
  (∀ s : State, s.dev.state = .staging → s.dev.stage = 0 → s.dev.quiescing = false → s.dev.testMode = false →
    ∃ t, exec .stageS0PowerGood s = .next t ∧ t.dev = { s.dev with stage := 1, stageAt := s.uptime, reports := t.dev.reports } ∧
      t = { s with dev := t.dev }) ∧
  (∀ (r : S1Facts) (s : State) (i : Nat), s.dev.state = .staging → s.dev.stage = 1 → s.dev.quiescing = false → s.dev.warm = false →
    s.sec.bootImage = some i → (r.listA = true ∨ r.listB = true) → (r.tableA = true ∨ r.tableB = true) →
    ∃ t, exec (.stageS1SluiceBoot r) s = .next t ∧ t.dev.stage = 2 ∧ t.dev.state = .staging ∧ t.sec.running = i ∧
      t.sec.bodyDigest = some (sha384 (imageBody (s.sec.slot i).image)) ∧ t.sec.kept = (s.sec.slot i).image ∧
      t.dev.portWidth = r.portWidth ∧ t.dev.portUp = decide (r.medium % 3 ≠ 0 ∧ r.portWidth ≠ 3) ∧
      t.fabric.ipv4 = (if r.addressesOk = true then s.fabric.flashIpv4 else 0) ∧
      t.dev.negotiated = (r.negotiated && r.medium % 3 == 1)) ∧
  (∀ (r : S1Facts) (s : State) (i : Nat), s.dev.state = .staging → s.dev.stage = 1 → s.dev.quiescing = false → s.dev.warm = false →
    s.sec.bootImage = some i → ((r.tableA = false ∧ r.tableB = false) ∨
      (r.listA = false ∧ r.listB = false ∧ s.dev.clearAuthorised = false)) →
    ∃ t, exec (.stageS1SluiceBoot r) s = .next t ∧ t.dev.state = .faulted ∧ t.dev.readiness = 2 ∧ t.dev.readinessStage = 1 ∧
      (r.tableA = false → r.tableB = false → t.sec.operators = [])) ∧
  (∀ (r : S1Facts) (s : State), s.dev.state = .staging → s.dev.stage = 1 → s.dev.quiescing = false → s.dev.warm = false →
    s.sec.bootImage = none →
    ∃ t, exec (.stageS1SluiceBoot r) s = .next t ∧ t.dev.state = .faulted ∧ t.dev.readiness = 1 ∧ t.dev.readinessStage = 1 ∧
      t.dev.portUp = false ∧ t.dev.mayWarm = false) ∧
  (∀ (x : Security) (i : Nat), x.bootImage = some i → i < 2 ∧
    imageFault (x.slot i).image x.firmwareKeyDigest x.rollback = 0 ∧
    (imageFault (x.slot (1 - i)).image x.firmwareKeyDigest x.rollback = 0 →
      imageVersion (x.slot (1 - i)).image < imageVersion (x.slot i).image ∨
      (imageVersion (x.slot (1 - i)).image = imageVersion (x.slot i).image ∧ i = 0))) ∧
  (∀ (r : S1Facts) (s : State), s.dev.state = .staging → s.dev.stage = 1 → s.dev.quiescing = false → s.dev.warm = true →
    s.sec.bodyDigest = some (sha384 (imageBody s.sec.kept)) → s.sec.testImage = false →
    ∃ t, exec (.stageS1SluiceBoot r) s = .next t ∧ t.dev.stage = 3 ∧ t.dev.state = .staging ∧ t.sec.bodyDigest = s.sec.bodyDigest) ∧
  (∀ (r : S2Facts) (s : State), s.dev.state = .staging → s.dev.stage = 2 → s.dev.quiescing = false → r.readsAgree = true →
    ∃ t, exec (.stageS2FuseRead r) s = .next t ∧ t.dev = { s.dev with
        stage := 3, stageAt := s.uptime, reports := t.dev.reports,
        revisions := (List.range 5).map fun i => (Config.dieRevision i).toNat, fusedCores := r.badCores,
        fusedLanes := r.badLanes, fusedRows := r.badRows, fusedLinkLanes := r.badLinkLanes, dieIds := r.dieIds,
        fuseDigest := sha384 r.fuseMaps } ∧ t = { s with dev := t.dev }) ∧
  (∀ (r : S2Facts) (s : State), s.dev.state = .staging → s.dev.stage = 2 → s.dev.quiescing = false → r.readsAgree = false →
    ∃ t, exec (.stageS2FuseRead r) s = .next t ∧ t.dev.state = .faulted ∧ t.dev.readiness = 3 ∧ t.dev.readinessStage = 2) ∧
  (∀ (r : S3Facts) (s : State), s.dev.state = .staging → s.dev.stage = 3 → s.dev.quiescing = false → r.absentDie = none →
    ∃ t, exec (.stageS3RunnerDiesUp r) s = .next t ∧ t.dev.stage = 4 ∧ t.dev.state = .staging ∧ t.wheel = s.wheel) ∧
  (∀ (r : S3Facts) (s : State) (d : Nat), s.dev.state = .staging → s.dev.stage = 3 → s.dev.quiescing = false → r.absentDie = some d →
    ∃ t, exec (.stageS3RunnerDiesUp r) s = .next t ∧ t.dev.state = .faulted ∧ t.dev.readiness = 4 ∧ t.dev.readinessStage = 3 ∧
      t.dev.readinessDetail = d) ∧
  (∀ (r : S4Facts) (s u : State) (t : Tested), s.dev.state = .staging → s.dev.stage = 4 → s.dev.quiescing = false →
    s.testUnits [5, 6] (132 * 298) (s.dev.fusedLinkLanes.map linkLaneUnit) (r.failedLanes.map linkLaneUnit) (fun u => u.2.1 % 256) = t →
    s.trainLinks t r = u → u.apartPair = none → (∀ i, i < 4 → u.width i ≠ 0) → (u.width 4 ≠ 0 ∨ u.width 5 ≠ 0) →
    ∃ v, exec (.stageS4WeltTraining r) s = .next v ∧ v.dev.stage = 5 ∧ v.dev.state = .staging ∧ v.links = u.links ∧
      v.dev = { u.dev with stage := 5, stageAt := u.uptime, reports := v.dev.reports }) ∧
  (∀ (r : S4Facts) (s u : State) (t : Tested), s.dev.state = .staging → s.dev.stage = 4 → s.dev.quiescing = false →
    s.testUnits [5, 6] (132 * 298) (s.dev.fusedLinkLanes.map linkLaneUnit) (r.failedLanes.map linkLaneUnit) (fun u => u.2.1 % 256) = t →
    s.trainLinks t r = u → (u.apartPair.isSome = true ∨ (∃ i, i < 4 ∧ u.width i = 0) ∨ (u.width 4 = 0 ∧ u.width 5 = 0)) →
    ∃ v, exec (.stageS4WeltTraining r) s = .next v ∧ v.dev.state = .faulted ∧ v.dev.readinessStage = 4 ∧
      (∀ a b, u.apartPair = some (a, b) → v.dev.readiness = 6 ∧ v.dev.readinessDetail = a + 256 * b) ∧
      (∀ i, u.apartPair = none → i < 4 → u.width i = 0 → (∀ j, j < i → u.width j ≠ 0) →
        v.dev.readiness = 7 ∧ v.dev.readinessDetail = i) ∧
      (u.apartPair = none → (∀ i, i < 4 → u.width i ≠ 0) → v.dev.readiness = 8)) ∧
  (∀ (r : S5Facts) (s t : State), s.dev.state = .staging → s.dev.stage = 5 → s.dev.quiescing = false →
    exec (.stageS5BedstoneTest r) s = .next t → (t.dev.state = .staging ∧ t.dev.stage = 6 ∧ 32 ≤ t.dev.cores ∧ 8 ≤ t.dev.lanes) ∨
      (t.dev.state = .faulted ∧ (t.dev.readiness = 5 ∨ t.dev.readiness = 9) ∧ t.dev.readinessStage = 5)) ∧
  (∀ (r : S5Facts) (s : State), s.dev.state = .staging → s.dev.stage = 5 → s.dev.quiescing = false → s.dev.warm = false →
    s.dev.badCores = [] → s.dev.badLanes = [] → s.dev.fusedRows = [] → s.dev.defects = [] → s.dev.onlyThisStart = [] → r.badRows = [] →
    ∃ t, exec (.stageS5BedstoneTest r) s = .next t ∧ t.dev.stage = 6 ∧ t.dev.state = .staging ∧ t.dev.cores = 60 ∧
      t.dev.lanes = 16) ∧
  (∀ (r : S6Facts) (s : State), s.Canonical → s.dev.state = .staging → s.dev.stage = 6 → s.dev.quiescing = false → r.perStack.length = 8 →
    (∀ f ∈ r.perStack, f.trained = true) →
    ∃ t, exec (.stageS6MemoryTraining r) s = .next t ∧ t.dev.stage = 7 ∧ t.dev.state = .staging ∧
      (∀ k, k < 8 → (t.stack k).trained = true ∧ (t.stack k).failed = false ∧ (t.stack k).selfRefresh = false)) ∧
  (∀ (r : S6Facts) (s : State) (k : Nat) (f : S6Stack), s.Canonical → s.dev.state = .staging → s.dev.stage = 6 →
    s.dev.quiescing = false → r.perStack.length = 8 → (k = 1 ∨ k = 7) → r.perStack[k]? = some f → f.trained = false →
    ∃ t, exec (.stageS6MemoryTraining r) s = .next t ∧ t.dev.state = .faulted ∧ t.dev.readiness = 10 ∧ t.dev.readinessStage = 6) ∧
  (∀ (r : S7Facts) (s : State), s.Canonical → s.dev.state = .staging → s.dev.stage = 7 → s.dev.quiescing = false → r.steps.length = 8 →
    (∀ x ∈ r.steps, x.1 = 0) →
    ∃ t, exec (.stageS7CheckerTest r) s = .next t ∧ t.dev.stage = 8 ∧ t.dev.state = .staging ∧
      (∀ k, k < 8 → (t.stack k).testDone = true ∧ (t.stack k).testFailed = false)) ∧
  (∀ (r : S7Facts) (s : State) (k : Nat) (x : Nat × Nat), s.Canonical → s.dev.state = .staging → s.dev.stage = 7 →
    s.dev.quiescing = false → r.steps.length = 8 → (k = 1 ∨ k = 7) → (s.stack k).trained = true → r.steps[k]? = some x → x.1 ≠ 0 →
    ∃ t, exec (.stageS7CheckerTest r) s = .next t ∧ t.dev.state = .faulted ∧ t.dev.readiness = 10 ∧ t.dev.readinessStage = 7) ∧
  (∀ (r : S8Facts) (s : State) (l : List Byte), s.dev.state = .staging → s.dev.stage = 8 → s.dev.quiescing = false →
    l = (if s.dev.warm = true then s.sec.verifiedLast else s.sec.readLast r) →
    (s.dev.warm = true ∨ s.sec.factorySigned (slice l 0 352) (slice l 352 96) = true) →
    (s.lastDiffers l = none →
      ∃ t, exec (.stageS8LastCheck r) s = .next t ∧
        t.dev = { s.dev with stage := 9, stageAt := s.uptime, reports := t.dev.reports } ∧
        t = { s with dev := t.dev, sec := { s.sec with verifiedLast := l } }) ∧
    (∀ o, s.lastDiffers l = some o →
      ∃ t, exec (.stageS8LastCheck r) s = .next t ∧ t.dev.state = .faulted ∧ t.dev.readiness = 12 ∧ t.dev.readinessDetail = o)) ∧
  (∀ (r : S8Facts) (s : State) (l : List Byte), s.dev.state = .staging → s.dev.stage = 8 → s.dev.quiescing = false →
    s.dev.warm = false → l = s.sec.readLast r → s.sec.factorySigned (slice l 0 352) (slice l 352 96) = false →
    ∃ t, exec (.stageS8LastCheck r) s = .next t ∧ t.dev.state = .faulted ∧ t.dev.readiness = 11 ∧ t.dev.readinessStage = 8) ∧
  (∀ (r : S9Facts) (s : State), s.Canonical → s.dev.state = .staging → s.dev.stage = 9 → s.dev.quiescing = false →
    s.dev.warm = false →
    ∃ t, exec (.stageS9Ready r) s = .next t ∧ (t.dev.state = .ready ∨ t.dev.state = .degraded) ∧
      (t.dev.outcome = if t.dev.state = .ready then 1 else 2) ∧ t.sec.rollback = max s.sec.rollback s.sec.runningSecurity ∧
      ((∀ g ∈ s.journal.segments, s.segRetired g = false) → ∀ a, a < 2 ^ 40 → memGet t.mem a = memGet s.mem a)) ∧
  (∀ (r : S9Facts) (s : State), s.Canonical → s.dev.state = .staging → s.dev.stage = 9 → s.dev.quiescing = false →
    s.dev.warm = true → (∀ c, c < 64 → (s.stream c).cmds = []) → s.devStream.cmds = [] → s.dev.replaying = none →
    s.dev.suspects = [] → s.dev.suspectsAtWarm = false → r.unreadable = [] →
    ∃ t, exec (.stageS9Ready r) s = .next t ∧ (t.dev.state = .ready ∨ t.dev.state = .degraded) ∧
      (t.dev.outcome = if t.dev.state = .ready then 1 else 2) ∧ t.sec.rollback = s.sec.rollback ∧ t.wheel = s.wheel ∧
      t.dev.recoveryLevel = 3 ∧ t.dev.recoveryCause = s.dev.startCause)

/-! ## Recovery (R385 to R408, R498) -/

/-- The watchdogs and resets: a core told to stop for 40 notches has its group reset; a group reset ends, or after 64 notches
becomes a die reset; a die reset ends, or after 2,048 notches leads to FAULTED; Maelyn and the journal keeper lead there too; after
the hold the device starts warm, but for a third time within 2^24 notches. A group's reset holds its cores, drains the contexts with
work on the group under a new generation, and is recorded; a die's holds the cores of its busy groups; a second one within 2^20
notches leads to FAULTED, and one during a replay convicts the suspect. -/
def Obligations.ResetsRecover : Prop :=
  (∀ (p : Fin 256) (s : State) (n : Nat), (s.core p).stopToldAt = some n → n + 40 ≤ s.uptime → s.inService = true →
    (∀ g ∈ s.dev.groupResets, g.1 ≠ p.val / 4) → (∀ d ∈ s.dev.dieResets, d.1 ≠ dieOfCore p) →
    exec (.coreStopWatchdog p) s = .next (s.resetGroup p)) ∧
  (∀ (g : Fin 64) (s : State) (n p : Nat), s.Canonical → s.dev.groupResets = [(g.val, n, p)] → s.dev.dieResets = [] →
    ∃ t, exec (.coreGroupResetDone g) s = .next t ∧ t.dev.groupResets = [] ∧ t.dev.affected = [] ∧ t.dev.recoveryLevel = 1 ∧
      t.dev.recoveryCause = 2 ∧ t.dev.recoveryObject = p ∧ t.logNext = s.logNext + 1 ∧
      (∀ q ∈ groupCores g, (t.core q).halted = false) ∧ t.mem = s.mem ∧ t.wheel = s.wheel) ∧
  (∀ (g : Fin 64) (s : State) (n p : Nat), (g.val, n, p) ∈ s.dev.groupResets → n + 64 ≤ s.uptime → s.inService = true →
    exec (.coreGroupResetCheck g) s = .next (s.resetDie (g / 16) 3 [])) ∧
  (∀ (d : Fin 4) (l : List (Nat × Nat)) (s : State), s.inService = true → s.dev.state ≠ .doze →
    (∀ x ∈ s.dev.dieResets, x.1 ≠ d.val) → exec (.meshProgressWatchdog d l) s = .next (s.resetDie d 4 l)) ∧
  (∀ (d : Fin 4) (s : State) (n cause : Nat), s.Canonical → s.dev.dieResets = [(d.val, n, cause)] → s.dev.groupResets = [] →
    (∀ c, c < 64 → (s.stream c).cmds = []) → s.dev.replaying = none → s.dev.suspects = [] →
    ∃ t, exec (.dieResetDone d) s = .next t ∧ t.dev.dieResets = [] ∧ t.dev.recoveryLevel = 2 ∧ t.dev.recoveryCause = cause ∧
      t.logNext = s.logNext + 1 ∧ d.val ∉ t.dev.diverted ∧ t.mem = s.mem ∧ t.wheel = s.wheel) ∧
  (∀ (d : Fin 4) (s : State) (n cause : Nat), (d.val, n, cause) ∈ s.dev.dieResets → 2048 + n ≤ s.uptime → s.inService = true →
    exec (.dieResetCheck d) s = .next ((s.markStarted d).enterFaulted 5 d (1, d) true)) ∧
  (∀ (g : Fin 64) (d : Fin 4) (s : State), s.inService = false → exec (.coreGroupResetCheck g) s = .next s ∧
    exec (.dieResetCheck d) s = .next s) ∧
  (∀ (p : Fin 256) (s t : State), s.Canonical → s.resetGroup p = t →
    t.dev.groupResets = s.dev.groupResets ++ [(p.val / 4, s.uptime, p.val)] ∧ t.dev.trouble &&& 8#32 = 8#32 ∧
    (∀ q ∈ groupCores (p.val / 4), (t.core q).halted = true ∧ (t.core q).streamQ = [] ∧ (t.core q).arrayMode = 0) ∧
    (∀ c m, c < 64 → m ∈ (s.stream c).cmds → s.startedOnGroup m (p.val / 4) = true → (s.context c).reset = none →
      c ∈ t.dev.affected ∧ (t.context c).draining = true ∧
      (t.context c).generation = ((s.context c).generation + 1) % 65536) ∧ t.wheel = s.wheel) ∧
  (∀ (d : Fin 4) (cause : Nat) (l : List (Nat × Nat)) (s t : State), s.Canonical → s.dev.replaying = none →
    (∀ x ∈ s.dev.lastDieReset, x.1 = d.val → 2 ^ 20 + x.2 ≤ s.uptime) →
    s.noRoute ((s.dev.dieResets.map (·.1)) ++ [d.val]) = false → s.resetDie d cause l = t →
    t.dev.dieResets = s.dev.dieResets ++ [(d.val, s.uptime, cause)] ∧ (d.val, s.uptime) ∈ t.dev.lastDieReset ∧
    t.dev.trouble &&& 16#32 = 16#32 ∧ t.dev.state = s.dev.state ∧
    (∀ q, dieOfCore q = d.val → s.groupIdle (q / 4) = false → (t.core q).halted = true) ∧ t.wheel = s.wheel) ∧
  (∀ (d : Fin 4) (cause : Nat) (l : List (Nat × Nat)) (s : State) (x : Nat × Nat), s.dev.replaying = none → x ∈ s.dev.lastDieReset →
    x.1 = d.val → s.uptime < 2 ^ 20 + x.2 →
    (s.resetDie d cause l).dev.state = .faulted ∧ (s.resetDie d cause l).dev.recoveryCause = 6 ∧
    (s.resetDie d cause l).dev.suspectsAtWarm = true) ∧
  (∀ (d : Fin 4) (cause c : Nat) (l : List (Nat × Nat)) (s t : State), s.Canonical → s.dev.replaying = some c → s.dev.replay = true →
    c < 64 → (s.context c).reset = none →
    s.noRoute ((s.dev.dieResets.map (·.1)) ++ [d.val]) = false → s.resetDie d cause l = t →
    t.dev.dieResets = s.dev.dieResets ++ [(d.val, s.uptime, 11)] ∧ (t.context c).state = .quarantined ∧ t.dev.replaying = none ∧
    t.dev.trouble &&& 144#32 = 144#32) ∧
  (∀ s : State, s.inService = true → exec .maelynWatchdog s = .next (s.enterFaulted 7 0 (0, 0) false)) ∧
  (∀ s : State, s.inService = true → (s.journal.staging ≠ [] ∨ s.journal.effects ≠ []) → s.journal.waitingSince + 256 ≤ s.uptime →
    exec .journalKeeperWatchdog s = .next (s.enterFaulted 10 0 (0, 0) false)) ∧
  (∀ (s : State) (cause object : Nat) (x : Nat × Nat) (b : Bool), (s.enterFaulted cause object x b).dev.state = .faulted ∧
    (s.enterFaulted cause object x b).dev.faultedAt = s.uptime ∧ (s.enterFaulted cause object x b).dev.recoveryCause = cause ∧
    (s.enterFaulted cause object x b).dev.recoveryLevel = 5 ∧
    (s.enterFaulted cause object x b).dev.trouble = s.dev.trouble ||| 512#32 ∧ (s.enterFaulted cause object x b).mem = s.mem ∧
    (s.enterFaulted cause object x b).wheel = s.wheel) ∧
  (∀ s : State, s.dev.state = .faulted → s.dev.autoWarm = true → s.dev.mayWarm = true →
    s.dev.faultedAt + 1024 * s.dev.faultHold ≤ s.uptime → s.thirdWarm = false →
    ∃ t, exec .faultHoldExpiry s = .next t ∧ t.dev.state = .staging ∧ t.dev.quiescing = true ∧ t.dev.warm = true ∧
      t.dev.warmStarts = s.dev.warmStarts + 1 ∧ t.dev.startCause = s.dev.recoveryCause ∧ t.mem = s.mem) ∧
  (∀ s : State, s.dev.state = .faulted → s.dev.autoWarm = true → s.dev.mayWarm = true →
    s.dev.faultedAt + 1024 * s.dev.faultHold ≤ s.uptime → s.thirdWarm = true →
    exec .faultHoldExpiry s = .next { s with dev := { s.dev with mayWarm := false } })

/-! ## Links (R281 to R298) -/

/-- A mesh flit leaves a die only on its packet's route, a new one from its source die through the delivery store, and one on its
way from where it has arrived; a packet is delivered once all of its flits have arrived. A flit that arrives in order takes a
number, a credit and a place of the replay buffer, is received, and is delivered on its destination die; one whose CRC does not
match is discarded with one nack; a nack has the flits sent again, and a run of discards may then begin anew (the model's reading,
assumption log 23). In DOZE no mesh flit passes. A retrain that finds no more failing lanes than the spares cover
ends, and one that finds more fails its bundle. An acknowledged packet leaves the delivery store. -/
def Obligations.FlitsAreDelivered : Prop :=
  (∀ (i : Fin 6) (b : Fin 16) (s u : State) (f : Flit) (d r : LinkDir) (toB : Bool), s.Canonical → u.Canonical →
    s.carries i b = true → s.linkDir i b toB = d → s.linkDir i b (!toB) = r → flitFormed f = true → f.kind = 1 → f.damage = 0 →
    f.ack = r.lastAccepted → f.credits ≤ (r.inbox.filter (·.1 == f.creditClass)).length → d.resending = [] → d.moved = [] →
    s.meshSends i b toB f = some u → f.sequence = d.nextSeq → d.replay.length < 256 → 0 < d.credits.getD f.packet.cls 0 →
    f.sequence = d.expected → (∀ j ∈ s.injections, j.verb ≠ 1) → s.dev.state ≠ .doze →
    ∃ t, exec (.linkFlitReceived i b toB f) s = .next t ∧
      t.linkDir i b toB = { d with
        nextSeq := (d.nextSeq + 1) % 1024, replay := d.replay ++ [f], discarding := false,
        credits := d.credits.set f.packet.cls (d.credits.getD f.packet.cls 0 - 1), expected := (d.expected + 1) % 1024,
        inbox := d.inbox ++ [(f.packet.cls, f.payload)] } ∧
      t.linkDir i b (!toB) = (LinkDir.acked { r with inbox := freePlaces f.creditClass f.credits r.inbox } f.ack).credited
        f.creditClass f.credits ∧
      (∀ j, j ≠ i.val → t.link j = u.link j) ∧ (∀ j x, t.storeAt j x = u.storeAt j x) ∧
      t = { u.deliver (receiverOf i toB) f with links := t.links }) ∧
  (∀ (i : Fin 6) (b : Fin 16) (s u : State) (f : Flit) (d r : LinkDir) (toB : Bool), s.Canonical → u.Canonical →
    s.carries i b = true → s.linkDir i b toB = d → s.linkDir i b (!toB) = r → flitFormed f = true → f.kind = 1 →
    flitArrived f = none → f.ack = r.lastAccepted → f.credits ≤ (r.inbox.filter (·.1 == f.creditClass)).length →
    d.resending = [] → d.moved = [] → s.meshSends i b toB f = some u → f.sequence = d.nextSeq → d.replay.length < 256 →
    0 < d.credits.getD f.packet.cls 0 → d.discarding = false → (∀ j ∈ s.injections, j.verb ≠ 1) →
    s.dev.state ≠ .doze →
    ∃ t, exec (.linkFlitReceived i b toB f) s = .next t ∧
      t.linkDir i b toB = { d with
        nextSeq := (d.nextSeq + 1) % 1024, replay := d.replay ++ [f], discarding := true, nacksOwed := d.nacksOwed + 1,
        credits := d.credits.set f.packet.cls (d.credits.getD f.packet.cls 0 - 1) } ∧
      t.linkDir i b (!toB) = r ∧ (∀ j, j ≠ i.val → t.link j = u.link j) ∧ (∀ j x, t.storeAt j x = u.storeAt j x) ∧
      t = { u with links := t.links }) ∧
  (∀ (i : Fin 6) (b : Fin 16) (s : State) (f : Flit) (d r x : LinkDir) (toB : Bool), s.Canonical → s.carries i b = true →
    s.linkDir i b toB = d → s.linkDir i b (!toB) = r → flitFormed f = true → f.kind = 2 → f.damage = 0 → f.ack = r.lastAccepted →
    f.credits ≤ (r.inbox.filter (·.1 == f.creditClass)).length → 0 < r.nacksOwed → f.sequence = (1023 + d.nextSeq) % 1024 →
    d.discarding = false → f.sequence = d.lastAccepted → (r.nacks.filter fun t => decide (s.uptime < 1024 + t)).length < 7 →
    (LinkDir.acked { r with
      nacksOwed := r.nacksOwed - 1, nacks := s.uptime :: r.nacks.filter fun t => decide (s.uptime < 1024 + t) } f.ack).credited
        f.creditClass f.credits = x →
    x.replay ≠ [] → x.resends < 16 →
    ∃ t, exec (.linkFlitReceived i b toB f) s = .next t ∧ t.linkDir i b toB = d ∧
      t.linkDir i b (!toB) = { x with
        inbox := freePlaces f.creditClass f.credits x.inbox, resending := x.replay, resends := x.resends + 1,
        discarding := false } ∧
      (t.link i).replayCount = saturate16 ((s.link i).replayCount + 1) ∧ (∀ j, j ≠ i.val → t.link j = s.link j)) ∧
  (∀ (i : Fin 6) (b : Nat) (s : State) (f : Flit) (toB : Bool), s.nextHop f.packet (senderOf i toB) ≠ some (i.val, toB, b) →
    s.meshSends i b toB f = none) ∧
  (∀ (i : Fin 6) (b a e : Nat) (s : State) (f : Flit) (toB : Bool), s.Canonical → s.dev.pairs.length = 25 →
    s.nextHop f.packet a = some (i.val, toB, b) → senderOf i toB = a → sourceDie f.packet = a → destinationDie f.packet = e →
    (∀ y ∈ s.storedBy a, samePair y.2.2.packet f.packet = true → y.2.2.phase = .sent) → (s.storeAt i toB).length < 16384 →
    f.packet.delivery = (s.pair a e).next → f.packet.index = 0 → (∀ x ∈ (s.pair a e).opened, x.1 ≠ f.packet.delivery) →
    ∃ u, s.meshSends i b toB f = some u ∧ u.storeAt i toB = s.storeAt i toB ++
        [{ payload := f.payload, packet := f.packet, way := s.wayFrom f.packet }] ∧
      (u.pair a e).next = ((s.pair a e).next + 1) % 65536 ∧
      (∀ j x, (j, x) ≠ (i.val, toB) → u.storeAt j x = s.storeAt j x) ∧ u = { s with links := u.links, dev := u.dev }) ∧
  (∀ (i : Fin 6) (b a : Nat) (s : State) (f : Flit) (toB : Bool),
    s.nextHop f.packet a = some (i.val, toB, b) → senderOf i toB = a → sourceDie f.packet ≠ a →
    (a, f.payload, f.packet) ∈ s.dev.transit →
    s.meshSends i b toB f = some { s with dev := { s.dev with transit := s.dev.transit.erase (a, f.payload, f.packet) } }) ∧
  (∀ (i : Fin 6) (b : Fin 16) (s : State) (f : Flit) (toB : Bool), f.kind = 1 → s.dev.state = .doze →
    exec (.linkFlitReceived i b toB f) s = .next s) ∧
  (∀ (s : State) (die : Nat) (f : Flit), destinationDie f.packet ≠ die →
    s.deliver die f = { s with dev := { s.dev with transit := s.dev.transit ++ [(die, f.payload, f.packet)] } }) ∧
  (∀ (x : Pair) (p : Packet), deliveredBefore p.delivery x.expected = false → x.arrived = [] → p.delivery = x.expected →
    (p.last = true → (∀ i, i < p.index → ∃ y, (p.delivery, i, y) ∈ x.flits) → (x.arrives p).expected = (x.expected + 1) % 65536) ∧
    ((∀ e ∈ x.flits, e.1 = p.delivery → e.2.2 = false) → p.last = false → (x.arrives p).expected = x.expected)) ∧
  (∀ (i : Fin 6) (b : Fin 16) (toB : Bool) (l : List Nat) (s : State) (d : LinkDir), s.Canonical → s.linkDir i b toB = d →
    d.retraining = true → (∀ x ∈ l, x ∈ d.failed ∨ x ∈ d.injected) → beyondSpares (merged d.failed d.injected) = false →
    sparesFor (merged d.failed d.injected) ≤ d.sparesUsed →
    ∃ t, exec (.retrainDone i b toB l) s = .next t ∧ t.linkDir i b toB = { d with
        retraining := false, sparesUsed := min 8 (sparesFor (merged d.failed d.injected)), resending := d.replay, resends := 0,
        nacks := [], discarding := false } ∧
      t = { s with links := t.links }) ∧
  (∀ (i : Fin 6) (b : Fin 16) (toB : Bool) (l : List Nat) (s : State) (d : LinkDir), s.Canonical → s.linkDir i b toB = d →
    d.retraining = true → beyondSpares (merged (merged d.failed (l.filter fun x => !d.injected.contains x)) d.injected) = true →
    ∃ t, exec (.retrainDone i b toB l) s = .next t ∧ (t.linkDir i b toB).retraining = false ∧
      ((t.link i).bundle b).failing = true ∧ ((t.link i).bundle b).removed = ((s.link i).bundle b).removed) ∧
  (∀ (i : Fin 6) (fromB : Bool) (die : Fin 5) (n : Fin 65536) (s : State), s.Canonical →
    deliveredBefore n (s.pair (senderOf i (!fromB)) die).expected = true →
    ∃ t, exec (.deliveryAck i fromB ⟨die, n⟩) s = .next t ∧
      t.storeAt i (!fromB) = (s.storeAt i (!fromB)).filter (fun y =>
        !(destinationDie y.packet == die.val && y.packet.delivery == n.val && y.phase == .sent)) ∧
      (∀ j x, (j, x) ≠ (i.val, !fromB) → t.storeAt j x = s.storeAt j x) ∧ t = { s with links := t.links })
end

