-- ==== Sys2Proof/Laws/Sparse.lean ====
section
/-! SUPPORT. The laws of families in canonical form: what a read finds after each write, and that every operation keeps
the canonical form. -/

namespace Sys2Proof.Machine

variable {β : Type} [DecidableEq β]

/-! ## The canonical form as a statement about all entries -/

omit [DecidableEq β] in
/-- Keys strictly rise: the part of the canonical form that every removal keeps. -/
theorem rising_tail {a : Nat} {x : β} {r : Sparse β} (h : ((a, x) :: r).Pairwise fun e f => e.1 < f.1) :
    (∀ e ∈ r, a < e.1) ∧ r.Pairwise fun e f => e.1 < f.1 := List.pairwise_cons.mp h

theorem swf_iff {d : β} {m : Sparse β} :
    swf d m = true ↔ (m.Pairwise fun e f => e.1 < f.1) ∧ ∀ e ∈ m, e.2 ≠ d := by
  induction m with
  | nil => simp [swf]
  | cons e r ih =>
    cases r with
    | nil => simp [swf]
    | cons f r =>
      obtain ⟨a, x⟩ := e
      obtain ⟨b, y⟩ := f
      simp only [swf, Bool.and_eq_true, decide_eq_true_eq, ih, List.pairwise_cons, List.mem_cons, forall_eq_or_imp]
      constructor
      · rintro ⟨⟨hab, hx⟩, ⟨hb, hp⟩, hy, hr⟩
        exact ⟨⟨⟨hab, fun e he => Nat.lt_trans hab (hb e he)⟩, hb, hp⟩, hx, hy, hr⟩
      · rintro ⟨⟨⟨hab, _⟩, hb, hp⟩, hx, hy, hr⟩
        exact ⟨⟨hab, hx⟩, ⟨hb, hp⟩, hy, hr⟩

@[simp] theorem swf_nil {d : β} : swf d [] = true := rfl

/-! ## Where the entries of a changed family come from -/

omit [DecidableEq β] in
theorem mem_sins {m : Sparse β} {k : Nat} {v : β} {e : Nat × β} (h : e ∈ sins m k v) : e = (k, v) ∨ e ∈ m := by
  induction m with
  | nil => simpa [sins] using h
  | cons f r ih =>
    obtain ⟨a, x⟩ := f
    simp only [sins] at h
    split at h
    · simpa using h
    · split at h
      · simp only [List.mem_cons] at h ⊢
        exact h.imp_right Or.inr
      · simp only [List.mem_cons] at h ⊢
        rcases h with h | h
        · exact Or.inr (Or.inl h)
        · exact (ih h).imp_right Or.inr

omit [DecidableEq β] in
theorem mem_sdel {m : Sparse β} {k : Nat} {e : Nat × β} (h : e ∈ sdel m k) : e ∈ m := by
  induction m with
  | nil => simp [sdel] at h
  | cons f r ih =>
    obtain ⟨a, x⟩ := f
    simp only [sdel] at h
    split at h
    · exact List.mem_cons_of_mem _ h
    · simp only [List.mem_cons] at h ⊢
      exact h.imp_right ih

theorem mem_sput {d : β} {m : Sparse β} {k : Nat} {v : β} {e : Nat × β} (h : e ∈ sput d m k v) : e = (k, v) ∨ e ∈ m := by
  unfold sput at h
  split at h
  · exact Or.inr (mem_sdel h)
  · exact mem_sins h

/-! ## Every operation keeps the canonical form -/

omit [DecidableEq β] in
theorem rising_sins {m : Sparse β} {k : Nat} {v : β} (h : m.Pairwise fun e f => e.1 < f.1) :
    (sins m k v).Pairwise fun e f => e.1 < f.1 := by
  induction m with
  | nil => simp [sins]
  | cons f r ih =>
    obtain ⟨a, x⟩ := f
    obtain ⟨ha, hr⟩ := rising_tail h
    simp only [sins]
    split
    · rename_i hk
      refine List.pairwise_cons.mpr ⟨?_, h⟩
      intro e he
      rcases List.mem_cons.mp he with rfl | he
      · exact hk
      · exact Nat.lt_trans hk (ha e he)
    · split
      · rename_i hk
        exact List.pairwise_cons.mpr ⟨fun e he => hk ▸ ha e he, hr⟩
      · rename_i h1 h2
        refine List.pairwise_cons.mpr ⟨?_, ih hr⟩
        intro e he
        rcases mem_sins he with rfl | he
        · simp only; omega
        · exact ha e he

omit [DecidableEq β] in
theorem rising_sdel {m : Sparse β} {k : Nat} (h : m.Pairwise fun e f => e.1 < f.1) :
    (sdel m k).Pairwise fun e f => e.1 < f.1 := by
  induction m with
  | nil => simp [sdel]
  | cons f r ih =>
    obtain ⟨a, x⟩ := f
    obtain ⟨ha, hr⟩ := rising_tail h
    simp only [sdel]
    split
    · exact hr
    · exact List.pairwise_cons.mpr ⟨fun e he => ha e (mem_sdel he), ih hr⟩

theorem swf_sdel {d : β} {m : Sparse β} {k : Nat} (h : swf d m = true) : swf d (sdel m k) = true := by
  rw [swf_iff] at *
  exact ⟨rising_sdel h.1, fun e he => h.2 e (mem_sdel he)⟩

theorem swf_sins {d : β} {m : Sparse β} {k : Nat} {v : β} (hv : v ≠ d) (h : swf d m = true) :
    swf d (sins m k v) = true := by
  rw [swf_iff] at *
  refine ⟨rising_sins h.1, fun e he => ?_⟩
  rcases mem_sins he with rfl | he
  · exact hv
  · exact h.2 e he

theorem swf_sput {d : β} {m : Sparse β} {k : Nat} {v : β} (h : swf d m = true) : swf d (sput d m k v) = true := by
  unfold sput
  split
  · exact swf_sdel h
  · exact swf_sins ‹_› h

theorem swf_smod {d : β} {m : Sparse β} {k : Nat} {f : β → β} (h : swf d m = true) : swf d (smod d m k f) = true :=
  swf_sput h

theorem swf_filter {d : β} {m : Sparse β} {p : Nat × β → Bool} (h : swf d m = true) : swf d (m.filter p) = true := by
  rw [swf_iff] at *
  exact ⟨h.1.filter _, fun e he => h.2 e (List.mem_filter.mp he).1⟩

theorem swf_sfilter {d : β} {m : Sparse β} {p : Nat → Bool} (h : swf d m = true) : swf d (sfilter p m) = true :=
  swf_filter h

theorem swf_smap {d : β} {m : Sparse β} {f : Nat → β → β} (h : swf d m = true) : swf d (smap d f m) = true := by
  rw [swf_iff] at *
  refine ⟨List.Pairwise.filter _ ?_, fun e he => by simpa using (List.mem_filter.mp he).2⟩
  rw [List.pairwise_map]
  exact h.1

theorem mem_smap {d : β} {m : Sparse β} {f : Nat → β → β} {e : Nat × β} (h : e ∈ smap d f m) :
    ∃ x, (e.1, x) ∈ m ∧ e.2 = f e.1 x := by
  unfold smap at h
  obtain ⟨g, hg, rfl⟩ := List.mem_map.mp (List.mem_filter.mp h).1
  exact ⟨g.2, hg, rfl⟩

/-! ## What a read finds -/

omit [DecidableEq β] in
theorem sget_of_lt {d : β} {m : Sparse β} {k : Nat} (h : ∀ e ∈ m, k < e.1) : sget d m k = d := by
  induction m with
  | nil => rfl
  | cons f r ih =>
    obtain ⟨a, x⟩ := f
    have h1 : k < a := h (a, x) (by simp)
    have h2 : a ≠ k := by omega
    simp only [sget, h2, if_false]
    exact ih fun e he => h e (by simp [he])

omit [DecidableEq β] in
theorem sget_sins {d : β} {m : Sparse β} {k j : Nat} {v : β} : sget d (sins m k v) j = if j = k then v else sget d m j := by
  induction m with
  | nil => simp [sins, sget, eq_comm]
  | cons f r ih =>
    obtain ⟨a, x⟩ := f
    simp only [sins]
    split
    · simp [sget, eq_comm]
    · split
      · rename_i h
        subst h
        by_cases hj : k = j <;> simp [sget, hj, eq_comm]
      · rename_i h1 h2
        simp only [sget, ih]
        by_cases ha : a = j
        · subst ha; simp [Ne.symm h2]
        · simp [ha]

omit [DecidableEq β] in
theorem sget_sdel {d : β} {m : Sparse β} {k j : Nat} (h : m.Pairwise fun e f => e.1 < f.1) :
    sget d (sdel m k) j = if j = k then d else sget d m j := by
  induction m with
  | nil => simp [sdel, sget]
  | cons f r ih =>
    obtain ⟨a, x⟩ := f
    obtain ⟨ha, hr⟩ := rising_tail h
    simp only [sdel]
    split
    · rename_i hk
      subst hk
      by_cases hj : a = j
      · subst hj; simp [sget_of_lt ha]
      · simp [sget, hj, Ne.symm hj]
    · rename_i hk
      simp only [sget, ih hr]
      by_cases haj : a = j
      · subst haj; simp [hk]
      · simp [haj]

/-- A read after a write: the entry written at its key, the old entry everywhere else. -/
theorem sget_sput {d : β} {m : Sparse β} {k j : Nat} {v : β} (h : swf d m = true) :
    sget d (sput d m k v) j = if j = k then v else sget d m j := by
  unfold sput
  split
  · rename_i hv
    rw [sget_sdel (swf_iff.mp h).1, hv]
  · exact sget_sins

theorem sget_sput_self {d : β} {m : Sparse β} {k : Nat} {v : β} (h : swf d m = true) : sget d (sput d m k v) k = v := by
  simp [sget_sput h]

theorem sget_sput_other {d : β} {m : Sparse β} {k j : Nat} {v : β} (h : swf d m = true) (hj : j ≠ k) :
    sget d (sput d m k v) j = sget d m j := by
  simp [sget_sput h, hj]

omit [DecidableEq β] in
/-- An entry read is the reset entry or a listed one. -/
theorem sget_mem {d : β} {m : Sparse β} {k : Nat} : sget d m k = d ∨ (k, sget d m k) ∈ m := by
  induction m with
  | nil => exact Or.inl rfl
  | cons f r ih =>
    obtain ⟨a, x⟩ := f
    simp only [sget]
    split
    · rename_i h; subst h; simp
    · exact ih.imp_right (List.mem_cons_of_mem _)


end Sys2Proof.Machine
end

