-- ==== Sys2Proof/Laws/Kept.lean ====
section
/-! SUPPORT. The queue untouched and the state canonical: the property that every operation of the device keeps, the rules
that put operations together, and the property for each setter of Machine/Memory.lean. -/

namespace Sys2Proof.Machine

/-- The queue is `q`, and the state is canonical. -/
def Kept (q : List Instr) (s : State) : Prop := s.pending = q ∧ s.Canonical

/-- The same of a state that comes with a result. -/
def PairKept {α : Type} (q : List Instr) (r : State × α) : Prop := Kept q r.1

/-- The same of the state that acting on a command leaves. -/
def HandledKept (q : List Instr) (h : Handled) : Prop := Kept q h.state

/-- The same of a next state, when there is one. -/
def OptKept (q : List Instr) (o : Option State) : Prop := ∀ t, o = some t → Kept q t

/-- The same of a step's next state, when there is one. -/
def OutKept (q : List Instr) (o : Host.Outcome State Fault Refusal) : Prop := ∀ t, o = .next t → Kept q t

variable {q : List Instr} {s t : State}

/-! ## How operations compose -/

theorem Kept.foldl {α : Type} {f : State → α → State} {l : List α} (h : Kept q s)
    (hf : ∀ s a, Kept q s → Kept q (f s a)) : Kept q (l.foldl f s) := by
  induction l generalizing s with
  | nil => exact h
  | cons a l ih => exact ih (hf s a h)

theorem PairKept.foldl {α β : Type} {f : State × β → α → State × β} {l : List α} {r : State × β} (h : PairKept q r)
    (hf : ∀ r a, PairKept q r → PairKept q (f r a)) : PairKept q (l.foldl f r) := by
  induction l generalizing r with
  | nil => exact h
  | cons a l ih => exact ih (hf r a h)

theorem PairKept.mk {α : Type} {x : α} (h : Kept q s) : PairKept q (s, x) := h
theorem PairKept.left {α : Type} {x : α} (h : PairKept q (s, x)) : Kept q s := h
theorem PairKept.fst {α : Type} {r : State × α} (h : PairKept q r) : Kept q r.1 := h
theorem PairKept.of_eq {α : Type} {r : State × α} {x : α} (h : PairKept q r) (e : r = (t, x)) : Kept q t := by
  subst e; exact h

theorem HandledKept.reply {r : Reply} (h : Kept q s) : HandledKept q (.reply r s) := h
theorem HandledKept.later (h : Kept q s) : HandledKept q (.later s) := h
theorem HandledKept.state {x : Handled} (h : HandledKept q x) : Kept q x.state := h
theorem HandledKept.of_reply {x : Handled} {r : Reply} (h : HandledKept q x) (e : x = .reply r t) : Kept q t := by
  subst e; exact h
theorem HandledKept.of_later {x : Handled} (h : HandledKept q x) (e : x = .later t) : Kept q t := by
  subst e; exact h
theorem HandledKept.done {d : List Byte} {v : Nat} (h : Kept q s) : HandledKept q (done s d v) := h

theorem HandledKept.checked {l : List (Option Reply)} {go : Handled} (h : Kept q s) (hg : HandledKept q go) :
    HandledKept q (checked l s go) := by
  unfold Machine.checked
  split
  · exact h
  · exact hg

theorem HandledKept.zeroField {b : Bool} {go : Handled} (h : Kept q s) (hg : HandledKept q go) :
    HandledKept q (zeroField b s go) := by
  unfold Machine.zeroField
  split
  · exact h
  · exact hg

theorem OptKept.some (h : Kept q s) : OptKept q (some s) := fun _ e => by cases e; exact h
theorem OptKept.none : OptKept q none := fun _ e => by cases e
theorem OptKept.of_eq {o : Option State} (h : OptKept q o) (e : o = Option.some t) : Kept q t := h t e
theorem OptKept.getD {o : Option State} (h : OptKept q o) (hs : Kept q s) : Kept q (o.getD s) := by
  cases o with
  | none => exact hs
  | some t => exact h t rfl

theorem OptKept.map {o : Option State} {f : State → State} (h : OptKept q o) (hf : ∀ s, Kept q s → Kept q (f s)) :
    OptKept q (o.map f) := by
  cases o with
  | none => exact OptKept.none
  | some t => exact OptKept.some (hf t (h t rfl))

theorem OptKept.foldl_bind {α : Type} {f : State → α → Option State} {l : List α} (h : Kept q s)
    (hf : ∀ s a, Kept q s → OptKept q (f s a)) :
    OptKept q (l.foldl (fun (o : Option State) a => o.bind fun s => f s a) (Option.some s)) := by
  have gen (o : Option State) (ho : OptKept q o) :
      OptKept q (l.foldl (fun (o : Option State) a => o.bind fun s => f s a) o) := by
    induction l generalizing o with
    | nil => exact ho
    | cons a l ih =>
      refine ih _ ?_
      cases o with
      | none => exact OptKept.none
      | some t => exact hf t a (ho t rfl)
  exact gen _ (OptKept.some h)

theorem OutKept.next (h : Kept q s) : OutKept q (.next s) := fun _ e => by cases e; exact h
theorem OutKept.event {b : Bool} (h : Kept q s) (ht : Kept q t) : OutKept q (event b s t) := by
  unfold Machine.event
  split
  · exact OutKept.next ht
  · exact OutKept.next h

/-- The operator table and its copies in flash, in canonical form (R453). -/
structure Security.Canonical (x : Security) : Prop where
  operators : swf {} x.operators = true
  tableA : swf {} x.tableA.slots = true
  tableB : swf {} x.tableB.slots = true

/-- What the canonical form reads of the security state. -/
def Security.tables (x : Security) : Sparse Operator × TableCopy × TableCopy := (x.operators, x.tableA, x.tableB)

theorem Security.canonical_of {x y : Security} (h : x.Canonical) (e : y.tables = x.tables) : y.Canonical := by
  simp only [Security.tables, Prod.mk.injEq] at e
  exact ⟨e.1 ▸ h.operators, e.2.1 ▸ h.tableA, e.2.2 ▸ h.tableB⟩

/-- A state that differs from a kept one only in fields of which the canonical form says nothing. -/
theorem Kept.of (h : Kept q s) (h0 : t.pending = s.pending) (h1 : t.mem = s.mem) (h2 : t.damage = s.damage)
    (h3 : t.cores = s.cores) (h4 : t.ponds = s.ponds) (h5 : t.memStacks = s.memStacks) (h6 : t.rowErrors = s.rowErrors)
    (h7 : t.segCodes = s.segCodes) (h8 : t.pages = s.pages) (h9 : t.links = s.links) (h10 : t.hoppers = s.hoppers)
    (h11 : t.contexts = s.contexts) (h12 : t.sessions = s.sessions) (h13 : t.power.domains = s.power.domains)
    (h14 : t.power.spots = s.power.spots) (h15 : t.dev.reports = s.dev.reports) (h16 : t.dev.map = s.dev.map)
    (h17 : t.fabric.routes = s.fabric.routes) (h18 : t.sec.tables = s.sec.tables) (h19 : t.log = s.log)
    (h20 : t.logNext = s.logNext) (h21 : t.wheel.position = s.wheel.position) : Kept q t := by
  obtain ⟨p, c⟩ := h
  refine ⟨h0.trans p, ?_⟩
  have k := Security.canonical_of ⟨c.operators, c.tableA, c.tableB⟩ h18
  constructor
  all_goals first
    | (rw [h1]; exact c.mem) | (rw [h2]; exact c.damage) | (rw [h3]; exact c.cores) | (rw [h4]; exact c.ponds)
    | (rw [h5]; exact c.memStacks) | (rw [h6]; exact c.rowErrors) | (rw [h7]; exact c.segCodes)
    | (rw [h8]; exact c.pages) | (rw [h9]; exact c.links) | (rw [h10]; exact c.hoppers)
    | (rw [h11]; exact c.contexts) | (rw [h12]; exact c.sessions) | (rw [h13]; exact c.domains)
    | (rw [h14]; exact c.spots) | (rw [h15]; exact c.reports) | (rw [h16]; exact c.map)
    | (rw [h17]; exact c.routes) | exact k.operators | exact k.tableA | exact k.tableB | (rw [h19, h20]; exact c.log)
    | (rw [h21]; exact c.position)

/-- A state written out whole that differs from a kept one only in fields of which the canonical form says nothing. -/
theorem Kept.ctor {x0 x1 x2 x3 x4 x5 x6 x7 x8 x9 x10 x11 x12 x13 x14 x15 x16 x17 x18 x19 x20 x21 x22 x23 x24 x25 x26
    x27 x28 x29 x30 x31 x32 x33 x34 x35} (h : Kept q s) (h0 : x0 = s.pending) (h1 : x10 = s.mem) (h2 : x11 = s.damage)
    (h3 : x12 = s.cores) (h4 : x13 = s.ponds) (h5 : x14 = s.memStacks) (h6 : x15 = s.rowErrors) (h7 : x16 =
    s.segCodes) (h8 : x17 = s.pages) (h9 : x18 = s.links) (h10 : x19 = s.hoppers) (h11 : x20 = s.contexts) (h12 : x22
    = s.sessions) (h13 : x8.domains = s.power.domains) (h14 : x8.spots = s.power.spots) (h15 : x5.reports =
    s.dev.reports) (h16 : x5.map = s.dev.map) (h17 : x28.routes = s.fabric.routes) (h18 : x29.tables = s.sec.tables)
    (h19 : x26 = s.log) (h20 : x27 = s.logNext) (h21 : x6.position = s.wheel.position) : Kept q (State.mk x0 x1 x2 x3
    x4 x5 x6 x7 x8 x9 x10 x11 x12 x13 x14 x15 x16 x17 x18 x19 x20 x21 x22 x23 x24 x25 x26 x27 x28 x29 x30 x31 x32 x33
    x34 x35) := h.of h0 h1 h2 h3 h4 h5 h6 h7 h8 h9 h10 h11 h12 h13 h14 h15 h16 h17 h18 h19 h20 h21

/-! ## Families -/

section
variable {β : Type} [DecidableEq β] {d : β} {ok : β → Prop} {m : Sparse β}

theorem Family.nil : Family d ok [] := ⟨rfl, fun _ h => by cases h⟩

theorem Family.sput {k : Nat} {v : β} (h : Family d ok m) (hv : ok v) : Family d ok (sput d m k v) := by
  refine ⟨swf_sput h.1, fun e he => ?_⟩
  rcases mem_sput he with rfl | he
  · exact hv
  · exact h.2 e he

theorem Family.sdel {k : Nat} (h : Family d ok m) : Family d ok (sdel m k) :=
  ⟨swf_sdel h.1, fun e he => h.2 e (mem_sdel he)⟩

theorem Family.filter {p : Nat × β → Bool} (h : Family d ok m) : Family d ok (m.filter p) :=
  ⟨swf_filter h.1, fun e he => h.2 e (List.mem_filter.mp he).1⟩

theorem Family.smap {f : Nat → β → β} (h : Family d ok m) (hf : ∀ k x, ok x → ok (f k x)) : Family d ok (smap d f m) := by
  refine ⟨swf_smap h.1, fun e he => ?_⟩
  obtain ⟨x, hx, he⟩ := mem_smap he
  exact he ▸ hf _ _ (h.2 _ hx)

omit [DecidableEq β] in
theorem ok_sget {k : Nat} (h : ∀ e ∈ m, ok e.2) (hd : ok d) : ok (sget d m k) := by
  rcases sget_mem (d := d) (m := m) (k := k) with e | e
  · rw [e]; exact hd
  · exact h _ e

theorem Family.sget {k : Nat} (h : Family d ok m) (hd : ok d) : ok (sget d m k) := ok_sget h.2 hd

theorem swf_foldl {α : Type} {f : Sparse β → α → Sparse β} {l : List α} (h : swf d m = true)
    (hf : ∀ m a, swf d m = true → swf d (f m a) = true) : swf d (l.foldl f m) = true := by
  induction l generalizing m with
  | nil => exact h
  | cons a l ih => exact ih (hf m a h)

theorem Family.foldl {α : Type} {f : Sparse β → α → Sparse β} {l : List α} (h : Family d ok m)
    (hf : ∀ m a, Family d ok m → Family d ok (f m a)) : Family d ok (l.foldl f m) := by
  induction l generalizing m with
  | nil => exact h
  | cons a l ih => exact ih (hf m a h)
end

/-! ## Memory -/

theorem Memory.wf_put {m : List Host.Cell} {k : Nat} {b : Byte} (h : Memory.wf m = true) : Memory.wf (memPut m k b) = true :=
  swf_sput h

theorem Memory.wf_write {m : List Host.Cell} {k : Nat} {l : List Byte} (h : Memory.wf m = true) :
    Memory.wf (memWrite m k l) = true := by
  induction l generalizing m k with
  | nil => exact h
  | cons b l ih => exact ih (Memory.wf_put h)

theorem Memory.wf_clear {m : List Host.Cell} {k n : Nat} (h : Memory.wf m = true) : Memory.wf (memClear m k n) = true :=
  swf_sfilter h

/-- A byte written reads back, and every other byte reads as before. -/
theorem memGet_put {m : List Host.Cell} {k j : Nat} {b : Byte} (h : Memory.wf m = true) :
    memGet (memPut m k b) j = if j = k then b else memGet m j := sget_sput h

/-- Bytes written read back; bytes outside the range read as before. -/
theorem memGet_write {m : List Host.Cell} {k j : Nat} {l : List Byte} (h : Memory.wf m = true) :
    memGet (memWrite m k l) j = if k ≤ j ∧ j < k + l.length then l.getD (j - k) 0 else memGet m j := by
  induction l generalizing m k with
  | nil =>
    have h1 : ¬(k ≤ j ∧ j < k + ([] : List Byte).length) := by simp only [List.length_nil]; omega
    rw [if_neg h1, memWrite]
  | cons b l ih =>
    simp only [memWrite, ih (Memory.wf_put h), memGet_put h, List.length_cons]
    by_cases h1 : k + 1 ≤ j ∧ j < k + 1 + l.length
    · have h2 : k ≤ j ∧ j < k + (l.length + 1) := by omega
      have h3 : j - k = (j - (k + 1)) + 1 := by omega
      rw [if_pos h1, if_pos h2, h3, List.getD_cons_succ]
    · by_cases h4 : j = k
      · rw [if_neg h1, if_pos h4, if_pos (by omega), h4, Nat.sub_self, List.getD_cons_zero]
      · rw [if_neg h1, if_neg h4, if_neg (by omega)]

/-- A cleared range reads as unwritten; bytes outside it read as before. -/
theorem memGet_clear {m : List Host.Cell} {k n j : Nat} : memGet (memClear m k n) j =
    if k ≤ j ∧ j < k + n then unwritten else memGet m j := by
  unfold memGet memClear sfilter
  induction m with
  | nil => simp [sget]
  | cons f r ih =>
    obtain ⟨a, x⟩ := f
    by_cases ha : k ≤ a ∧ a < k + n
    · have : (!(decide (k ≤ a) && decide (a < k + n))) = false := by simp [ha]
      simp only [List.filter_cons, this]
      simp only [Bool.false_eq_true, if_false, ih, sget]
      by_cases hj : k ≤ j ∧ j < k + n
      · simp [hj]
      · have : a ≠ j := by rintro rfl; exact hj ha
        simp [hj, this]
    · have : (!(decide (k ≤ a) && decide (a < k + n))) = true := by
        simp only [Bool.not_eq_true', Bool.and_eq_false_iff, decide_eq_false_iff_not]; omega
      simp only [List.filter_cons, this, if_true, sget, ih]
      by_cases hj : a = j
      · subst hj; simp [ha]
      · simp [hj]

/-! ## The parts of a kept state -/

theorem Core.canonical_default : Core.Canonical {} := ⟨rfl, rfl, rfl, rfl, Family.nil, rfl⟩
theorem Channel.fits_default : Channel.Fits {} := Nat.zero_le _
theorem Millpond.canonical_default : Millpond.Canonical {} := rfl
theorem Stack.canonical_default : Stack.Canonical {} := ⟨rfl, rfl, rfl⟩
theorem Link.canonical_default : Link.Canonical {} := ⟨rfl, fun _ h => by cases h⟩
theorem Bundle.fits_default : Bundle.Fits {} := ⟨Nat.zero_le _, Nat.zero_le _⟩
theorem Context.canonical_default : Context.Canonical {} := rfl

theorem Kept.mem (h : Kept q s) : Memory.wf s.mem = true := h.2.mem
theorem Kept.damage (h : Kept q s) : swf {} s.damage = true := h.2.damage
theorem Kept.cores (h : Kept q s) : Family {} Core.Canonical s.cores := h.2.cores
theorem Kept.ponds (h : Kept q s) : Family {} Millpond.Canonical s.ponds := h.2.ponds
theorem Kept.memStacks (h : Kept q s) : Family {} Stack.Canonical s.memStacks := h.2.memStacks
theorem Kept.rowErrors (h : Kept q s) : swf 0 s.rowErrors = true := h.2.rowErrors
theorem Kept.segCodes (h : Kept q s) : swf 2 s.segCodes = true := h.2.segCodes
theorem Kept.pages (h : Kept q s) : swf {} s.pages = true := h.2.pages
theorem Kept.links (h : Kept q s) : Family {} Link.Canonical s.links := h.2.links
theorem Kept.hoppers (h : Kept q s) : swf {} s.hoppers = true := h.2.hoppers
theorem Kept.contexts (h : Kept q s) : Family {} Context.Canonical s.contexts := h.2.contexts
theorem Kept.sessions (h : Kept q s) : swf {} s.sessions = true := h.2.sessions
theorem Kept.domains (h : Kept q s) : swf {} s.power.domains = true := h.2.domains
theorem Kept.spots (h : Kept q s) : swf {} s.power.spots = true := h.2.spots
theorem Kept.reports (h : Kept q s) : swf 0 s.dev.reports = true := h.2.reports
theorem Kept.map (h : Kept q s) : swf 256 s.dev.map = true := h.2.map
theorem Kept.routes (h : Kept q s) : swf {} s.fabric.routes = true := h.2.routes
theorem Kept.sec (h : Kept q s) : s.sec.Canonical := ⟨h.2.operators, h.2.tableA, h.2.tableB⟩
theorem Kept.log (h : Kept q s) : LogRising s.log s.logNext := h.2.log
theorem Kept.position (h : Kept q s) : s.wheel.position < 2 ^ 64 := h.2.position

/-! Changes of a part's other fields leave it canonical. -/

theorem Core.canonical_of {c x : Core} (h : c.Canonical) (h1 : x.tiles = c.tiles) (h2 : x.sums = c.sums)
    (h3 : x.integers = c.integers) (h4 : x.vregs = c.vregs) (h5 : x.channels = c.channels)
    (h6 : x.barriers = c.barriers) : x.Canonical :=
  ⟨h1 ▸ h.tiles, h2 ▸ h.sums, h3 ▸ h.integers, h4 ▸ h.vregs, h5 ▸ h.channels, h6 ▸ h.barriers⟩
theorem Millpond.canonical_of {c x : Millpond} (h : c.Canonical) (h1 : x.ways = c.ways) : x.Canonical := by
  unfold Millpond.Canonical at *; rw [h1]; exact h
theorem Stack.canonical_of {c x : Stack} (h : c.Canonical) (h1 : x.capture = c.capture) (h2 : x.pcs = c.pcs)
    (h3 : x.caErrors = c.caErrors) : x.Canonical := ⟨h1 ▸ h.capture, h2 ▸ h.pcs, h3 ▸ h.caErrors⟩
theorem Link.canonical_of {c x : Link} (h : c.Canonical) (h1 : x.bundles = c.bundles) : x.Canonical := by
  unfold Link.Canonical at *; rw [h1]; exact h
theorem Context.canonical_of {c x : Context} (h : c.Canonical) (h1 : x.seqs = c.seqs) : x.Canonical := by
  unfold Context.Canonical at *; rw [h1]; exact h

theorem Core.canonical_ctor {x0 x1 x2 x3 x4 x5 x6 x7 x8 x9 x10 x11 x12 x13 x14 x15 x16 x17 x18 x19 x20 x21 x22 x23 x24
    x25 x26 x27 x28 x29 x30 x31 x32 x33 x34} {c : Core} (h : c.Canonical) (h1 : x17 = c.tiles) (h2 : x18 = c.sums) (h3
    : x19 = c.integers) (h4 : x20 = c.vregs) (h5 : x31 = c.channels) (h6 : x32 = c.barriers) : Core.Canonical (Core.mk
    x0 x1 x2 x3 x4 x5 x6 x7 x8 x9 x10 x11 x12 x13 x14 x15 x16 x17 x18 x19 x20 x21 x22 x23 x24 x25 x26 x27 x28 x29 x30
    x31 x32 x33 x34) := Core.canonical_of h h1 h2 h3 h4 h5 h6
theorem Millpond.canonical_ctor {x0 x1 x2 x3 x4 x5 x6 x7 x8 x9 x10 x11} {c : Millpond} (h : c.Canonical) (h1 : x10 =
    c.ways) : Millpond.Canonical (Millpond.mk x0 x1 x2 x3 x4 x5 x6 x7 x8 x9 x10 x11) := Millpond.canonical_of h h1
theorem Stack.canonical_ctor {x0 x1 x2 x3 x4 x5 x6 x7 x8 x9 x10 x11 x12 x13 x14 x15 x16 x17 x18 x19 x20 x21 x22 x23
    x24 x25 x26 x27 x28 x29 x30 x31 x32 x33} {c : Stack} (h : c.Canonical) (h1 : x29 = c.capture) (h2 : x30 = c.pcs)
    (h3 : x1 = c.caErrors) : Stack.Canonical (Stack.mk x0 x1 x2 x3 x4 x5 x6 x7 x8 x9 x10 x11 x12 x13 x14 x15 x16 x17
    x18 x19 x20 x21 x22 x23 x24 x25 x26 x27 x28 x29 x30 x31 x32 x33) := Stack.canonical_of h h1 h2 h3
theorem Link.canonical_ctor {x0 x1 x2 x3 x4 x5 x6 x7 x8 x9} {c : Link} (h : c.Canonical) (h1 : x1 = c.bundles) :
    Link.Canonical (Link.mk x0 x1 x2 x3 x4 x5 x6 x7 x8 x9) := Link.canonical_of h h1
theorem Context.canonical_ctor {x0 x1 x2 x3 x4 x5 x6 x7 x8 x9 x10 x11 x12} {c : Context} (h : c.Canonical) (h1 : x6 =
    c.seqs) : Context.Canonical (Context.mk x0 x1 x2 x3 x4 x5 x6 x7 x8 x9 x10 x11 x12) := Context.canonical_of h h1
theorem Stack.smap_pcs_canonical {k : Stack} {f : Nat → PseudoChannel → PseudoChannel} (h : k.Canonical) :
    Stack.Canonical { k with pcs := smap {} f k.pcs } := { h with pcs := swf_smap (f := f) h.pcs }

theorem Core.canonical_foldl {α : Type} {f : Core → α → Core} {l : List α} {c : Core} (h : c.Canonical)
    (hf : ∀ c a, c.Canonical → (f c a).Canonical) : (l.foldl f c).Canonical := by
  induction l generalizing c with
  | nil => exact h
  | cons a l ih => exact ih (hf c a h)

theorem Kept.core (h : Kept q s) (p : Nat) : (s.core p).Canonical := h.cores.sget Core.canonical_default
theorem Kept.pond (h : Kept q s) (d : Nat) : (s.pond d).Canonical := h.ponds.sget Millpond.canonical_default
theorem Kept.stack (h : Kept q s) (k : Nat) : (s.stack k).Canonical := h.memStacks.sget Stack.canonical_default
theorem Kept.link (h : Kept q s) (i : Nat) : (s.link i).Canonical := h.links.sget Link.canonical_default
theorem Kept.context (h : Kept q s) (c : Nat) : (s.context c).Canonical := h.contexts.sget Context.canonical_default

/-! ## One part replaced -/

theorem Kept.with_mem (h : Kept q s) {v : List Host.Cell} (hv : Memory.wf v = true) : Kept q { s with mem := v } :=
  ⟨h.1, { h.2 with mem := hv }⟩
theorem Kept.with_damage (h : Kept q s) {v : Sparse DamageMark} (hv : swf {} v = true) : Kept q { s with damage := v } :=
  ⟨h.1, { h.2 with damage := hv }⟩
theorem Kept.with_cores (h : Kept q s) {v : Sparse Core} (hv : Family {} Core.Canonical v) : Kept q { s with cores := v } :=
  ⟨h.1, { h.2 with cores := hv }⟩
theorem Kept.with_ponds (h : Kept q s) {v : Sparse Millpond} (hv : Family {} Millpond.Canonical v) : Kept q { s with ponds := v } :=
  ⟨h.1, { h.2 with ponds := hv }⟩
theorem Kept.with_stacks (h : Kept q s) {v : Sparse Stack} (hv : Family {} Stack.Canonical v) : Kept q { s with memStacks := v } :=
  ⟨h.1, { h.2 with memStacks := hv }⟩
theorem Kept.with_rowErrors (h : Kept q s) {v : Sparse Nat} (hv : swf 0 v = true) : Kept q { s with rowErrors := v } :=
  ⟨h.1, { h.2 with rowErrors := hv }⟩
theorem Kept.with_segCodes (h : Kept q s) {v : Sparse Nat} (hv : swf 2 v = true) : Kept q { s with segCodes := v } :=
  ⟨h.1, { h.2 with segCodes := hv }⟩
theorem Kept.with_pages (h : Kept q s) {v : Sparse Page} (hv : swf {} v = true) : Kept q { s with pages := v } :=
  ⟨h.1, { h.2 with pages := hv }⟩
theorem Kept.with_links (h : Kept q s) {v : Sparse Link} (hv : Family {} Link.Canonical v) : Kept q { s with links := v } :=
  ⟨h.1, { h.2 with links := hv }⟩
theorem Kept.with_hoppers (h : Kept q s) {v : Sparse Hopper} (hv : swf {} v = true) : Kept q { s with hoppers := v } :=
  ⟨h.1, { h.2 with hoppers := hv }⟩
theorem Kept.with_contexts (h : Kept q s) {v : Sparse Context} (hv : Family {} Context.Canonical v) : Kept q { s with contexts := v } :=
  ⟨h.1, { h.2 with contexts := hv }⟩
theorem Kept.with_sessions (h : Kept q s) {v : Sparse Session} (hv : swf {} v = true) : Kept q { s with sessions := v } :=
  ⟨h.1, { h.2 with sessions := hv }⟩
theorem Kept.with_power (h : Kept q s) {v : Power} (h1 : swf {} v.domains = true) (h2 : swf {} v.spots = true) : Kept q { s with power := v } :=
  ⟨h.1, { h.2 with domains := h1, spots := h2 }⟩
theorem Kept.with_dev (h : Kept q s) {v : Device} (h1 : swf 0 v.reports = true) (h2 : swf 256 v.map = true) : Kept q { s with dev := v } :=
  ⟨h.1, { h.2 with reports := h1, map := h2 }⟩
theorem Kept.with_fabric (h : Kept q s) {v : Fabric} (hv : swf {} v.routes = true) : Kept q { s with fabric := v } :=
  ⟨h.1, { h.2 with routes := hv }⟩
theorem Kept.with_sec (h : Kept q s) {v : Security} (hv : v.Canonical) : Kept q { s with sec := v } :=
  ⟨h.1, { h.2 with operators := hv.operators, tableA := hv.tableA, tableB := hv.tableB }⟩
theorem Kept.with_log (h : Kept q s) {v : List LogRecord} {n : Nat} (hv : LogRising v n) :
    Kept q { s with log := v, logNext := n } :=
  ⟨h.1, { h.2 with log := hv }⟩
theorem Kept.with_wheel (h : Kept q s) {v : Wheel} (hv : v.position < 2 ^ 64) : Kept q { s with wheel := v } :=
  ⟨h.1, { h.2 with position := hv }⟩

/-! ## The setters of Machine/Memory.lean -/

theorem State.writeKey_kept {k : Nat} {l : List Byte} (h : Kept q s) : Kept q (s.writeKey k l) :=
  h.with_mem (Memory.wf_write h.mem)
theorem State.clearKey_kept {k n : Nat} (h : Kept q s) : Kept q (s.clearKey k n) :=
  (h.with_mem (Memory.wf_clear h.mem)).with_damage (swf_sfilter h.damage)
theorem State.setCore_kept {p : Nat} {c : Core} (h : Kept q s) (hc : c.Canonical) : Kept q (s.setCore p c) :=
  h.with_cores (h.cores.sput hc)
theorem State.modCore_kept {p : Nat} {f : Core → Core} (h : Kept q s) (hf : ∀ c, c.Canonical → (f c).Canonical) :
    Kept q (s.modCore p f) := State.setCore_kept h (hf _ (h.core p))
theorem Core.channel_fits {c : Core} {i : Nat} (h : c.Canonical) : (c.channel i).Fits := h.channels.sget Channel.fits_default
theorem Core.setChannel_canonical {c : Core} {i : Nat} {x : Channel} (h : c.Canonical) (hx : x.Fits) :
    (c.setChannel i x).Canonical := { h with channels := h.channels.sput hx }
theorem Core.setTile_canonical {c : Core} {i : Nat} {x : Tile} (h : c.Canonical) : (c.setTile i x).Canonical :=
  { h with tiles := swf_sput h.tiles }
theorem State.modChannel_kept {p i : Nat} {f : Channel → Channel} (h : Kept q s)
    (hf : Channel.Fits ((s.core p).channel i) → (f ((s.core p).channel i)).Fits) : Kept q (s.modChannel p i f) :=
  State.setCore_kept h (Core.setChannel_canonical (h.core p) (hf (Core.channel_fits (h.core p))))
theorem State.setPond_kept {d : Nat} {v : Millpond} (h : Kept q s) (hv : v.Canonical) : Kept q (s.setPond d v) :=
  h.with_ponds (h.ponds.sput hv)
theorem State.modPond_kept {d : Nat} {f : Millpond → Millpond} (h : Kept q s) (hf : ∀ c, c.Canonical → (f c).Canonical) :
    Kept q (s.modPond d f) := State.setPond_kept h (hf _ (h.pond d))
theorem State.setStack_kept {k : Nat} {v : Stack} (h : Kept q s) (hv : v.Canonical) : Kept q (s.setStack k v) :=
  h.with_stacks (h.memStacks.sput hv)
theorem State.modStack_kept {k : Nat} {f : Stack → Stack} (h : Kept q s) (hf : ∀ c, c.Canonical → (f c).Canonical) :
    Kept q (s.modStack k f) := State.setStack_kept h (hf _ (h.stack k))
theorem Stack.setPc_canonical {k : Stack} {p : Nat} {v : PseudoChannel} (h : k.Canonical) : (k.setPc p v).Canonical :=
  { h with pcs := swf_sput h.pcs }
theorem State.modPseudo_kept {k p : Nat} {f : PseudoChannel → PseudoChannel} (h : Kept q s) : Kept q (s.modPseudo k p f) :=
  State.modStack_kept h fun _ hc => Stack.setPc_canonical hc
theorem State.setLink_kept {i : Nat} {v : Link} (h : Kept q s) (hv : v.Canonical) : Kept q (s.setLink i v) :=
  h.with_links (h.links.sput hv)
theorem State.modLink_kept {i : Nat} {f : Link → Link} (h : Kept q s) (hf : ∀ c, c.Canonical → (f c).Canonical) :
    Kept q (s.modLink i f) := State.setLink_kept h (hf _ (h.link i))
theorem State.setHopper_kept {i : Nat} {v : Hopper} (h : Kept q s) : Kept q (s.setHopper i v) :=
  h.with_hoppers (swf_sput h.hoppers)
theorem State.modHopper_kept {i : Nat} {f : Hopper → Hopper} (h : Kept q s) : Kept q (s.modHopper i f) :=
  State.setHopper_kept h
theorem State.setContext_kept {c : Nat} {v : Context} (h : Kept q s) (hv : v.Canonical) : Kept q (s.setContext c v) :=
  h.with_contexts (h.contexts.sput hv)
theorem State.modContext_kept {c : Nat} {f : Context → Context} (h : Kept q s) (hf : ∀ c, c.Canonical → (f c).Canonical) :
    Kept q (s.modContext c f) := State.setContext_kept h (hf _ (h.context c))
theorem State.setSession_kept {i : Nat} {v : Session} (h : Kept q s) : Kept q (s.setSession i v) :=
  h.with_sessions (swf_sput h.sessions)
theorem State.modSession_kept {i : Nat} {f : Session → Session} (h : Kept q s) : Kept q (s.modSession i f) :=
  State.setSession_kept h
theorem State.setPage_kept {g : Nat} {v : Page} (h : Kept q s) : Kept q (s.setPage g v) := h.with_pages (swf_sput h.pages)
theorem State.setDomain_kept {k : Nat} {v : Domain} (h : Kept q s) : Kept q (s.setDomain k v) :=
  h.with_power (swf_sput h.domains) h.spots
theorem State.modDomain_kept {k : Nat} {f : Domain → Domain} (h : Kept q s) : Kept q (s.modDomain k f) :=
  State.setDomain_kept h
theorem State.modPower_kept {f : Power → Power} (h : Kept q s)
    (h1 : swf {} s.power.domains = true → swf {} (f s.power).domains = true)
    (h2 : swf {} s.power.spots = true → swf {} (f s.power).spots = true) : Kept q (s.modPower f) :=
  h.with_power (h1 h.domains) (h2 h.spots)
theorem State.modDev_kept {f : Device → Device} (h : Kept q s)
    (h1 : swf 0 s.dev.reports = true → swf 0 (f s.dev).reports = true)
    (h2 : swf 256 s.dev.map = true → swf 256 (f s.dev).map = true) : Kept q (s.modDev f) :=
  h.with_dev (h1 h.reports) (h2 h.map)
theorem State.modWheel_kept {f : Wheel → Wheel} (h : Kept q s)
    (h1 : s.wheel.position < 2 ^ 64 → (f s.wheel).position < 2 ^ 64) : Kept q (s.modWheel f) :=
  h.with_wheel (h1 h.position)
theorem State.modSchedule_kept {f : Schedule → Schedule} (h : Kept q s) : Kept q (s.modSchedule f) := ⟨h.1, { h.2 with }⟩
theorem State.modJournal_kept {f : Journal → Journal} (h : Kept q s) : Kept q (s.modJournal f) := ⟨h.1, { h.2 with }⟩
theorem State.modPort_kept {f : Port → Port} (h : Kept q s) : Kept q (s.modPort f) := ⟨h.1, { h.2 with }⟩
theorem State.modFabric_kept {f : Fabric → Fabric} (h : Kept q s)
    (h1 : swf {} s.fabric.routes = true → swf {} (f s.fabric).routes = true) : Kept q (s.modFabric f) :=
  h.with_fabric (h1 h.routes)
theorem State.modSec_kept {f : Security → Security} (h : Kept q s)
    (h1 : s.sec.Canonical → (f s.sec).Canonical) : Kept q (s.modSec f) := h.with_sec (h1 h.sec)
theorem State.setStream_kept {c : Nat} {v : Stream} (h : Kept q s) : Kept q (s.setStream c v) := by
  unfold State.setStream
  split
  · exact ⟨h.1, { h.2 with }⟩
  · exact State.modContext_kept h fun _ hc => hc
theorem State.modStream_kept {c : Nat} {f : Stream → Stream} (h : Kept q s) : Kept q (s.modStream c f) :=
  State.setStream_kept h
theorem State.modCmd_kept {c n : Nat} {f : Cmd → Cmd} (h : Kept q s) : Kept q (s.modCmd c n f) := State.modStream_kept h
theorem State.setSegCode_kept {g c : Nat} (h : Kept q s) : Kept q (s.setSegCode g c) := h.with_segCodes (swf_sput h.segCodes)
theorem State.markSegRetired_kept {g : Nat} (h : Kept q s) : Kept q (s.markSegRetired g) :=
  h.with_segCodes (swf_sput h.segCodes)

/-- The reset state is canonical. -/
theorem reset_kept : Kept [] State.reset := by
  refine ⟨rfl, ?_⟩
  constructor <;> first
    | rfl
    | exact Family.nil
    | exact ⟨by decide, by decide, fun i h => by cases h⟩
    | decide

end Sys2Proof.Machine
end

