-- ==== Sys2Proof/Laws/KeptMacsec.lean ====
section
/-! SUPPORT. What the port's admission of a frame can do (R458): it counts an unprotected frame that it drops, or advances the
association of a protected one that it takes; nothing else. -/

namespace Sys2Proof.Machine

variable {q : List Instr} {s : State}

/-- What admission leaves: the state but for its count of unprotected frames and its associations. -/
theorem State.letIn_cases (t : Option SecTag) :
    (∃ n l, (s.letIn t).1 = { s with port := { s.port with unprotected := n }, sec := { s.sec with assocs := l } }) := by
  unfold State.letIn
  by_cases hp : s.dev.portUp = true
  · rw [hp]
    dsimp only
    rw [if_neg (by decide)]
    split
    · split
      · exact ⟨_, s.sec.assocs, rfl⟩
      · exact ⟨s.port.unprotected, s.sec.assocs, rfl⟩
    · split
      · exact ⟨s.port.unprotected, s.sec.assocs, rfl⟩
      · split
        · exact ⟨s.port.unprotected, s.sec.assocs, rfl⟩
        · exact ⟨s.port.unprotected, _, rfl⟩
  · rw [Bool.not_eq_true] at hp
    rw [hp]
    exact ⟨s.port.unprotected, s.sec.assocs, rfl⟩

/-- An unprotected frame that goes on leaves everything as it was. -/
theorem State.letIn_none {v : State} (h : s.letIn none = (v, true)) : v = s := by
  unfold State.letIn at h
  dsimp only at h
  split at h
  · cases h
  · split at h
    · cases h
    · cases h; rfl

theorem State.letIn_kept {t : Option SecTag} (h : Kept q s) : PairKept q (s.letIn t) := by
  obtain ⟨n, l, e⟩ := State.letIn_cases (s := s) t
  unfold PairKept
  rw [e]
  exact ⟨h.1, { h.2 with }⟩

/-- What the tag of a frame to be sent leaves: the state but for the associations. -/
theorem State.nextTag_cases : ∃ l, s.nextTag.1 = { s with sec := { s.sec with assocs := l } } := by
  unfold State.nextTag
  split
  · exact ⟨s.sec.assocs, rfl⟩
  · exact ⟨_, rfl⟩

theorem State.nextTag_kept (h : Kept q s) : Kept q s.nextTag.1 := by
  obtain ⟨l, e⟩ := State.nextTag_cases (s := s)
  rw [e]
  exact ⟨h.1, { h.2 with }⟩

/-- With no transmit association a frame goes out as it is. -/
theorem State.nextTag_none (h : s.sec.transmits = none) : s.nextTag = (s, none) := by
  unfold State.nextTag
  rw [h]

end Sys2Proof.Machine
end

