-- ==== Sys2Proof/Laws/KeptOps.lean ====
section
/-! SUPPORT. Every operation of Machine/Ops.lean leaves the queue alone and keeps the state canonical. -/

namespace Sys2Proof.Machine

variable {q : List Instr} {s t : State}

theorem State.writeLog_kept {e : LogEntry} (h : Kept q s) : Kept q (s.writeLog e) := by
  unfold State.writeLog
  refine h.with_log ?_
  obtain ⟨h1, h2, h3⟩ := h.log
  refine ⟨by simp; omega, by simp; omega, fun i hi => ?_⟩
  simp only [List.length_drop, List.length_append, List.length_cons, List.length_nil] at hi ⊢
  rw [List.getElem_drop]
  by_cases hlt : s.log.length + 1 - 16384 + i < s.log.length
  · rw [List.getElem_append_left hlt, h3 _ hlt]; omega
  · rw [List.getElem_append_right (by omega)]; simp; omega

theorem State.setTrouble_kept {r : TroubleReg} {v : Word} (h : Kept q s) : Kept q (State.setTrouble s r v) := by
  unfold State.setTrouble
  try dsimp only
  repeat' with_reducible first
    | assumption
    | split
    | refine Core.canonical_ctor ?_ rfl rfl rfl rfl rfl rfl
    | apply State.modCore_kept
    | apply State.modPond_kept
    | apply State.modStack_kept
    | apply State.modLink_kept
    | apply State.modHopper_kept
    | apply State.modPower_kept
    | apply State.modDev_kept
    | apply State.modWheel_kept
    | apply State.modPort_kept
    | refine fun c (hc : Core.Canonical c) => ?_
    | refine fun c (hc : Millpond.Canonical c) => ?_
    | exact Millpond.canonical_of hc rfl
    | refine fun c (hc : Stack.Canonical c) => ?_
    | exact Stack.canonical_of hc rfl rfl rfl
    | refine fun c (hc : Link.Canonical c) => ?_
    | exact Link.canonical_of hc rfl
    | exact id

theorem State.troubleRecord_kept {address : Nat} {bitNo : Nat} {value : Word} {scope : Nat × Nat} {context : Nat} (h :
    Kept q s) : Kept q (State.troubleRecord s address bitNo value scope context) := by
  unfold State.troubleRecord
  try dsimp only
  repeat' with_reducible first
    | assumption
    | apply State.writeLog_kept
    | refine Kept.ctor ?_ rfl rfl rfl rfl rfl rfl rfl rfl rfl rfl rfl rfl rfl rfl rfl rfl rfl rfl rfl rfl rfl rfl

theorem State.setTroubleBit_kept {r : TroubleReg} {b : Nat} {scope : Nat × Nat} {context : Nat} (h : Kept q s) : Kept
    q (State.setTroubleBit s r b scope context) := by
  unfold State.setTroubleBit
  try dsimp only
  repeat' with_reducible first
    | assumption
    | apply State.setTrouble_kept
    | apply State.troubleRecord_kept

theorem State.writeList_kept {l : List Defect} (h : Kept q s) : Kept q (State.writeList s l) :=
  State.modDev_kept h (fun x => by unfold Device.putList; dsimp only; split <;> exact x)
    (fun x => by unfold Device.putList; dsimp only; split <;> exact x)

theorem State.addDefect_kept {x : Defect} (h : Kept q s) : Kept q (State.addDefect s x) := by
  unfold State.addDefect
  try dsimp only
  repeat' with_reducible first
    | assumption
    | apply State.modDev_kept
    | apply State.markSegRetired_kept
    | apply State.setTroubleBit_kept
    | apply State.writeList_kept
    | split
    | exact id

theorem State.retireSegment_kept {g : Nat} {source : Nat} (h : Kept q s) : Kept q (State.retireSegment s g source) :=
    by
  unfold State.retireSegment
  try dsimp only
  repeat' with_reducible first
    | assumption
    | apply State.markSegRetired_kept
    | apply State.addDefect_kept
    | split

theorem State.retirePage_kept {g : Nat} {source : Nat} (h : Kept q s) : Kept q (State.retirePage s g source) := by
  unfold State.retirePage
  try dsimp only
  repeat' with_reducible first
    | assumption
    | apply State.setPage_kept
    | apply State.addDefect_kept
    | apply State.retireSegment_kept
    | split

theorem State.retirePending_kept {g : Nat} {source : Nat} (h : Kept q s) : Kept q (State.retirePending s g source) :=
    by
  unfold State.retirePending
  try dsimp only
  repeat' with_reducible first
    | assumption
    | apply State.setPage_kept
    | apply State.setTroubleBit_kept
    | apply State.retirePage_kept
    | split

theorem State.unmapPage_kept {g : Nat} (h : Kept q s) : Kept q (State.unmapPage s g) := by
  unfold State.unmapPage
  try dsimp only
  repeat' with_reducible first
    | assumption
    | apply State.setPage_kept
    | apply State.retirePage_kept
    | split

theorem State.modInjection_kept {n : Nat} {f : Injection → Injection} (h : Kept q s) : Kept q (State.modInjection s n
    f) := by
  unfold State.modInjection
  try dsimp only
  repeat' with_reducible first
    | assumption
    | refine Kept.ctor ?_ rfl rfl rfl rfl rfl rfl rfl rfl rfl rfl rfl rfl rfl rfl rfl rfl rfl rfl rfl rfl rfl rfl

theorem State.logInjected_kept {j : Injection} (h : Kept q s) : Kept q (State.logInjected s j) := by
  unfold State.logInjected
  try dsimp only
  repeat' with_reducible first
    | assumption
    | apply State.writeLog_kept

theorem State.plantedHit_kept {k : Nat} {m : DamageMark} (h : Kept q s) : Kept q (State.plantedHit s k m) := by
  unfold State.plantedHit
  try dsimp only
  repeat' with_reducible first
    | assumption
    | apply State.modInjection_kept
    | apply State.logInjected_kept
    | split

theorem State.capture_kept {k a kind pos : Nat} (h : Kept q s) : Kept q (s.capture k a kind pos) :=
  State.modStack_kept h fun _ hc =>
    { hc with capture := swf_sput (swf_sput (swf_sput (swf_sput hc.capture))) }

theorem State.stackCorrected_kept {a : Nat} {kind : Nat} {m : DamageMark} (h : Kept q s) : Kept q
    (State.stackCorrected s a kind m) := by
  unfold State.stackCorrected
  try dsimp only
  repeat' with_reducible first
    | assumption
    | apply State.modStack_kept
    | apply State.setPage_kept
    | apply State.setTroubleBit_kept
    | apply State.retirePending_kept
    | apply State.plantedHit_kept
    | apply State.capture_kept
    | split
    | refine fun c (hc : Stack.Canonical c) => ?_
    | exact Stack.canonical_of hc rfl rfl rfl

theorem State.stackUncorrectable_kept {a : Nat} {kind : Nat} {m : DamageMark} (h : Kept q s) : Kept q
    (State.stackUncorrectable s a kind m) := by
  unfold State.stackUncorrectable
  try dsimp only
  repeat' with_reducible first
    | assumption
    | apply State.modStack_kept
    | apply State.setTroubleBit_kept
    | apply State.retirePending_kept
    | apply State.plantedHit_kept
    | apply State.capture_kept
    | split
    | refine fun c (hc : Stack.Canonical c) => ?_
    | exact Stack.canonical_of hc rfl rfl rfl

theorem State.poisonBlock_kept {a : Nat} (h : Kept q s) : Kept q (s.poisonBlock a) :=
  (State.clearKey_kept h).with_damage (swf_sput (State.clearKey_kept h).damage)

theorem State.clearDamage_kept {k : Nat} (h : Kept q s) : Kept q (s.clearDamage k) := h.with_damage (swf_sdel h.damage)

theorem State.rowError_kept {key : Nat} {bad planted : Bool} {x : Defect} (h : Kept q s) :
    Kept q (s.rowError key bad planted x) := by
  unfold State.rowError
  split
  · exact h
  · dsimp only
    split
    · exact State.addDefect_kept (h.with_rowErrors (swf_sput h.rowErrors))
    · exact h.with_rowErrors (swf_sput h.rowErrors)

theorem State.sliceCorrected_kept {p : Nat} {x : Nat} (h : Kept q s) : Kept q (State.sliceCorrected s p x) := by
  unfold State.sliceCorrected
  try dsimp only
  repeat' with_reducible first
    | assumption
    | split
    | refine Core.canonical_ctor ?_ rfl rfl rfl rfl rfl rfl
    | apply State.modCore_kept
    | apply State.setTroubleBit_kept
    | apply State.plantedHit_kept
    | apply State.clearDamage_kept
    | apply State.rowError_kept
    | refine fun c (hc : Core.Canonical c) => ?_

theorem State.sliceUncorrectable_kept {p : Nat} {x : Nat} {c : Nat} (h : Kept q s) : Kept q (State.sliceUncorrectable
    s p x c) := by
  unfold State.sliceUncorrectable
  try dsimp only
  repeat' with_reducible first
    | assumption
    | exact PairKept.left (by with_reducible assumption)
    | apply State.plantedHit_kept
    | apply State.rowError_kept
    | apply State.setTroubleBit_kept
    | split
    | exact id
    | intro

theorem State.millpondCorrected_kept {d : Nat} {key : Nat} {off : Nat} (h : Kept q s) : Kept q
    (State.millpondCorrected s d key off) := by
  unfold State.millpondCorrected
  try dsimp only
  repeat' with_reducible first
    | assumption
    | apply State.modPond_kept
    | apply State.setTroubleBit_kept
    | apply State.plantedHit_kept
    | apply State.clearDamage_kept
    | apply State.rowError_kept
    | split
    | refine fun c (hc : Millpond.Canonical c) => ?_
    | exact Millpond.canonical_of hc rfl

theorem State.millpondUncorrectable_kept {d : Nat} {a : Nat} {kind : Nat} {off : Nat} {m : DamageMark} (h : Kept q s)
    : Kept q (State.millpondUncorrectable s d a kind off m) := by
  unfold State.millpondUncorrectable
  try dsimp only
  repeat' with_reducible first
    | assumption
    | apply State.modPond_kept
    | apply State.setTroubleBit_kept
    | apply State.plantedHit_kept
    | apply State.rowError_kept
    | refine fun c (hc : Millpond.Canonical c) => ?_
    | exact Millpond.canonical_of hc rfl

theorem State.touchLine_kept {d : Nat} {l : CacheLine} (h : Kept q s) : Kept q (State.touchLine s d l) := by
  unfold State.touchLine
  try dsimp only
  repeat' with_reducible first
    | assumption
    | apply State.modPond_kept
    | refine fun c (hc : Millpond.Canonical c) => ?_
    | exact Millpond.canonical_of hc rfl

theorem State.reached_kept {a : Nat} (h : Kept q s) : Kept q (State.reached s a) := by
  unfold State.reached
  try dsimp only
  repeat' with_reducible first
    | assumption
    | apply State.modStack_kept
    | refine fun c (hc : Stack.Canonical c) => ?_
    | exact Stack.canonical_of hc rfl rfl rfl

theorem State.interface_kept {b kind : Nat} (h : Kept q s) : PairKept q (State.interface s b kind) := by
  unfold State.interface
  try dsimp only
  repeat' with_reducible first
    | assumption
    | apply PairKept.mk
    | exact PairKept.left (by assumption)
    | apply State.modStack_kept
    | apply State.reached_kept
    | apply State.setTroubleBit_kept
    | apply State.stackUncorrectable_kept
    | split
    | refine fun c (hc : Stack.Canonical c) => ?_
    | exact { hc with caErrors := swf_sdel hc.caErrors }
    | exact id
    | intro

theorem State.takeStray_kept {b : Nat} (h : Kept q s) : Kept q (State.takeStray s b) := by
  unfold State.takeStray
  try dsimp only
  repeat' with_reducible first
    | assumption
    | exact PairKept.left (by with_reducible assumption)
    | apply State.modStack_kept
    | split
    | refine fun c (hc : Stack.Canonical c) => ?_
    | exact Stack.canonical_of hc rfl rfl rfl
    | exact id
    | intro

theorem State.readCached_kept {kind : Nat} {g : Nat} (h : Kept q s) : Kept q (State.readCached s kind g) := by
  unfold State.readCached
  try dsimp only
  repeat' with_reducible first
    | assumption
    | exact PairKept.left (by assumption)
    | apply State.millpondCorrected_kept
    | apply State.millpondUncorrectable_kept
    | split
    | exact id
    | intro

theorem State.writeBackBlock_kept {b : Nat} (h : Kept q s) : Kept q (State.writeBackBlock s b) := by
  unfold State.writeBackBlock
  dsimp only
  have e : PairKept q (((unitsOf 16 b 64).foldl (State.readCached · 4) s).interface b) :=
    State.interface_kept (Kept.foldl h fun _ _ k => State.readCached_kept k)
  split
  · exact e.with_damage (swf_sput (Kept.damage e))
  · split
    · exact State.poisonBlock_kept e
    · exact State.clearDamage_kept e

theorem State.writeBackLine_kept {l : CacheLine} (h : Kept q s) : Kept q (State.writeBackLine s l) := by
  unfold State.writeBackLine
  try dsimp only
  repeat' with_reducible first
    | assumption
    | apply Kept.foldl
    | exact PairKept.left (by with_reducible assumption)
    | apply State.writeBackBlock_kept
    | split
    | refine PairKept.fst (PairKept.foldl ?_ ?_)
    | exact id
    | intro

theorem State.dropLines_kept {d : Nat} {p : CacheLine → Bool} (h : Kept q s) : Kept q (State.dropLines s d p) := by
  unfold State.dropLines
  try dsimp only
  repeat' with_reducible first
    | assumption
    | apply Kept.foldl
    | apply State.modPond_kept
    | apply State.clearDamage_kept
    | apply State.writeBackLine_kept
    | refine fun c (hc : Millpond.Canonical c) => ?_
    | exact Millpond.canonical_of hc rfl
    | intro

theorem State.allocLine_kept {d : Nat} {ctx : Nat} {line : Nat} {dirty : Bool} (h : Kept q s) : Kept q
    (State.allocLine s d ctx line dirty) := by
  unfold State.allocLine
  try dsimp only
  repeat' with_reducible first
    | assumption
    | apply State.touchLine_kept
    | apply State.dropLines_kept
    | split

theorem State.readBlock_kept {b : Nat} {kind : Nat} (h : Kept q s) : PairKept q (State.readBlock s b kind) := by
  unfold State.readBlock
  dsimp only
  have e : PairKept q (s.interface b kind) := State.interface_kept h
  have k : Kept q (if ((s.interface b kind).1.strayAt b).isSome = true then (s.interface b kind).1.takeStray b
      else (s.interface b kind).1) := by
    split
    · exact State.takeStray_kept e
    · exact e
  generalize (if ((s.interface b kind).1.strayAt b).isSome = true then (s.interface b kind).1.takeStray b
      else (s.interface b kind).1) = v at k ⊢
  generalize (s.interface b kind).1.segCode (segmentOf b) = code
  generalize ((s.interface b kind).1.strayAt b).isSome = stray
  generalize (s.interface b kind).1.damageAt b = m
  generalize (s.interface b kind).2 = failed
  have k1 : Kept q (v.stackUncorrectable b kind m) := State.stackUncorrectable_kept k
  have k2 : Kept q (v.stackUncorrectable b kind { kind := .uncorrectable }) := State.stackUncorrectable_kept k
  have k3 : Kept q (v.stackCorrected b kind m) := State.stackCorrected_kept k
  repeat' split
  all_goals first
    | exact k
    | exact k1
    | exact k2
    | exact k3

theorem State.readBlocks_kept {blocks : List Nat} (h : Kept q s) : PairKept q (State.readBlocks s blocks) := by
  unfold State.readBlocks
  try dsimp only
  repeat' with_reducible first
    | assumption
    | apply PairKept.foldl
    | apply PairKept.mk
    | exact PairKept.left (by with_reducible assumption)
    | apply State.readBlock_kept
    | split
    | apply Kept.foldl
    | (refine PairKept.of_eq ?_ (by with_reducible assumption); apply State.readBlock_kept)
    | (refine PairKept.of_eq ?_ (by with_reducible assumption); split)
    | refine PairKept.fst (State.readBlock_kept ?_)
    | refine PairKept.fst (PairKept.foldl ?_ ?_)
    | refine PairKept.fst (PairKept.mk ?_)
    | exact id
    | intro

theorem State.readLine_kept {d : Nat} {l : CacheLine} {granules : List Nat} (h : Kept q s) : PairKept q
    (State.readLine s d l granules) := by
  unfold State.readLine
  try dsimp only
  repeat' with_reducible first
    | assumption
    | apply PairKept.foldl
    | apply PairKept.mk
    | exact PairKept.left (by with_reducible assumption)
    | apply State.dropLines_kept
    | apply State.readBlocks_kept
    | apply State.readCached_kept
    | apply State.touchLine_kept
    | split
    | apply Kept.foldl
    | (refine PairKept.of_eq ?_ (by with_reducible assumption); apply State.readBlocks_kept)
    | (refine PairKept.of_eq ?_ (by with_reducible assumption); split)
    | refine PairKept.fst (State.readBlocks_kept ?_)
    | refine PairKept.fst (PairKept.foldl ?_ ?_)
    | refine PairKept.fst (PairKept.mk ?_)
    | exact id
    | intro

theorem State.readExternalLine_kept {who : Requester} {a : Nat} {n : Nat} (h : Kept q s) : PairKept q
    (State.readExternalLine s who a n) := by
  unfold State.readExternalLine
  try dsimp only
  repeat' with_reducible first
    | assumption
    | apply PairKept.mk
    | exact PairKept.left (by with_reducible assumption)
    | apply State.allocLine_kept
    | apply State.readBlocks_kept
    | apply State.readLine_kept
    | apply State.touchLine_kept
    | split
    | (refine PairKept.of_eq ?_ (by with_reducible assumption); apply State.readBlocks_kept)
    | (refine PairKept.of_eq ?_ (by with_reducible assumption); apply State.readLine_kept)
    | (refine PairKept.of_eq ?_ (by with_reducible assumption); split)
    | refine PairKept.fst (State.readBlocks_kept ?_)
    | refine PairKept.fst (State.readLine_kept ?_)
    | refine PairKept.fst (PairKept.mk ?_)
    | exact id
    | intro

theorem State.readGranules_kept {d : Nat} {a : Nat} {n : Nat} (h : Kept q s) : PairKept q (State.readGranules s d a n)
    := by
  unfold State.readGranules
  try dsimp only
  repeat' with_reducible first
    | assumption
    | apply PairKept.foldl
    | apply PairKept.mk
    | exact PairKept.left (by assumption)
    | apply State.clearDamage_kept
    | apply State.millpondCorrected_kept
    | apply State.millpondUncorrectable_kept
    | split
    | intro

theorem State.readPart_kept {who : Requester} {a : Nat} {n : Nat} (h : Kept q s) : PairKept q (State.readPart s who a
    n) := by
  unfold State.readPart
  try dsimp only
  repeat' with_reducible first
    | assumption
    | apply PairKept.mk
    | exact PairKept.left (by assumption)
    | apply State.readExternalLine_kept
    | refine PairKept.fst (State.readExternalLine_kept ?_)
    | apply State.readGranules_kept
    | refine PairKept.fst (State.readGranules_kept ?_)
    | split
    | exact id
    | intro

theorem State.readDevice_kept {who : Requester} {a : Nat} {n : Nat} (h : Kept q s) : PairKept q (State.readDevice s
    who a n) := by
  unfold State.readDevice
  try dsimp only
  repeat' with_reducible first
    | assumption
    | apply PairKept.foldl
    | apply PairKept.mk
    | exact PairKept.left (by with_reducible assumption)
    | apply State.readPart_kept
    | split
    | (refine PairKept.of_eq ?_ (by with_reducible assumption); apply State.readPart_kept)
    | refine PairKept.fst (State.readPart_kept ?_)
    | refine PairKept.fst (PairKept.foldl ?_ ?_)
    | refine PairKept.fst (PairKept.mk ?_)
    | exact id
    | intro

theorem State.writeBlocks_kept {a : Nat} {n : Nat} (h : Kept q s) : PairKept q (State.writeBlocks s a n) := by
  unfold State.writeBlocks
  try dsimp only
  repeat' with_reducible first
    | assumption
    | apply PairKept.foldl
    | apply PairKept.mk
    | exact PairKept.left (by with_reducible assumption)
    | apply State.interface_kept
    | apply State.readBlock_kept
    | split
    | apply Kept.foldl
    | (refine PairKept.of_eq ?_ (by with_reducible assumption); apply State.interface_kept)
    | (refine PairKept.of_eq ?_ (by with_reducible assumption); apply State.readBlock_kept)
    | (refine PairKept.of_eq ?_ (by with_reducible assumption); split)
    | refine PairKept.fst (State.interface_kept ?_)
    | refine PairKept.fst (State.readBlock_kept ?_)
    | refine PairKept.fst (PairKept.foldl ?_ ?_)
    | refine PairKept.fst (PairKept.mk ?_)
    | exact id
    | intro

theorem State.partLost_kept {who : Requester} {a : Nat} {n : Nat} (h : Kept q s) :
    PairKept q (State.partLost s who a n) := by
  unfold State.partLost
  split
  · split
    · split
      · exact State.readBlocks_kept h
      · exact State.writeBlocks_kept h
    · rename_i l _
      have hl : PairKept q (s.readLine (homeDie a) l (partUnits 16 a n)) := State.readLine_kept h
      dsimp only
      split
      · exact hl
      · exact State.writeBlocks_kept hl.fst
  · refine PairKept.foldl (PairKept.mk h) fun r g hr => ?_
    exact (State.readGranules_kept hr.fst).fst
  · refine PairKept.foldl (PairKept.mk h) fun r g hr => ?_
    exact (State.readGranules_kept hr.fst).fst
  · exact h

theorem State.partlyLost_kept {who : Requester} {a : Nat} {n : Nat} (h : Kept q s) : PairKept q (State.partlyLost s
    who a n) := by
  unfold State.partlyLost
  try dsimp only
  repeat' with_reducible first
    | assumption
    | apply PairKept.foldl
    | apply PairKept.mk
    | exact PairKept.left (by with_reducible assumption)
    | apply State.partLost_kept
    | split
    | (refine PairKept.of_eq ?_ (by with_reducible assumption); apply State.partLost_kept)
    | refine PairKept.fst (State.partLost_kept ?_)
    | refine PairKept.fst (PairKept.foldl ?_ ?_)
    | refine PairKept.fst (PairKept.mk ?_)
    | exact id
    | intro

theorem State.writeExternalLine_kept {who : Requester} {a : Nat} {data : List Byte} (h : Kept q s) : Kept q
    (State.writeExternalLine s who a data) := by
  unfold State.writeExternalLine
  try dsimp only
  repeat' with_reducible first
    | assumption
    | apply Kept.foldl
    | apply State.writeKey_kept
    | apply State.clearDamage_kept
    | apply State.touchLine_kept
    | apply State.reached_kept
    | apply State.allocLine_kept
    | refine PairKept.fst (State.readBlocks_kept ?_)
    | split
    | intro

theorem State.writePart_kept {who : Requester} {a : Nat} {data : List Byte} (h : Kept q s) : Kept q (State.writePart s
    who a data) := by
  unfold State.writePart
  try dsimp only
  repeat' with_reducible first
    | assumption
    | apply Kept.foldl
    | exact PairKept.left (by assumption)
    | apply State.clearDamage_kept
    | apply State.writeExternalLine_kept
    | apply State.writeKey_kept
    | refine PairKept.fst (PairKept.foldl ?_ ?_)
    | split
    | exact id
    | intro

theorem State.writeDevice_kept {who : Requester} {a : Nat} {data : List Byte} (h : Kept q s) : Kept q
    (State.writeDevice s who a data) := by
  unfold State.writeDevice
  try dsimp only
  repeat' with_reducible first
    | assumption
    | apply Kept.foldl
    | exact PairKept.left (by assumption)
    | apply State.writePart_kept
    | refine PairKept.fst (PairKept.foldl ?_ ?_)
    | split
    | exact id
    | intro

theorem State.writeOwn_kept {a : Nat} {data : List Byte} (h : Kept q s) : Kept q (State.writeOwn s a data) := by
  unfold State.writeOwn
  try dsimp only
  repeat' with_reducible first
    | assumption
    | apply Kept.foldl
    | exact PairKept.left (by with_reducible assumption)
    | apply State.partlyLost_kept
    | apply State.writeDevice_kept
    | split
    | (refine PairKept.of_eq ?_ (by with_reducible assumption); apply State.partlyLost_kept)
    | refine PairKept.fst (State.partlyLost_kept ?_)
    | refine PairKept.fst (PairKept.foldl ?_ ?_)
    | exact id
    | intro

theorem State.writeScratch_kept {a : Nat} {data : List Byte} (h : Kept q s) : Kept q (State.writeScratch s a data) := by
  unfold State.writeScratch
  split
  · exact State.modJournal_kept h
  · exact State.writeOwn_kept h

theorem State.writeLate_kept (h : Kept q s) : Kept q s.writeLate :=
  Kept.foldl (State.modJournal_kept h) fun _ _ h => State.writeScratch_kept h

theorem State.readLocal_kept {p : Nat} {x : Nat} {n : Nat} {c : Nat} (h : Kept q s) : PairKept q (State.readLocal s p
    x n c) := by
  unfold State.readLocal
  try dsimp only
  repeat' with_reducible first
    | assumption
    | apply PairKept.foldl
    | apply PairKept.mk
    | exact PairKept.left (by with_reducible assumption)
    | apply State.modCore_kept
    | apply State.setTroubleBit_kept
    | apply State.sliceCorrected_kept
    | apply State.sliceUncorrectable_kept
    | split
    | refine fun c (hc : Core.Canonical c) => ?_
    | exact Core.canonical_of hc rfl rfl rfl rfl rfl rfl
    | apply Kept.foldl
    | refine PairKept.fst (PairKept.foldl ?_ ?_)
    | refine PairKept.fst (PairKept.mk ?_)
    | exact id
    | intro

theorem State.firstLocalLost_kept {l : List (Nat × Nat × Nat)} (h : Kept q s) : PairKept q (State.firstLocalLost s l)
    := by
  unfold State.firstLocalLost
  try dsimp only
  repeat' with_reducible first
    | assumption
    | apply PairKept.mk
    | exact PairKept.left (by with_reducible assumption)
    | apply State.sliceUncorrectable_kept
    | split
    | refine PairKept.fst (PairKept.mk ?_)
    | exact id
    | intro

theorem State.writeLocal_kept {p : Nat} {x : Nat} {data : List Byte} (h : Kept q s) : Kept q (State.writeLocal s p x
    data) := by
  unfold State.writeLocal
  try dsimp only
  repeat' with_reducible first
    | assumption
    | apply Kept.foldl
    | apply State.writeKey_kept
    | apply State.clearDamage_kept
    | apply State.sliceCorrected_kept
    | split
    | intro

end Sys2Proof.Machine
end

