-- ==== Sys2Proof/Laws/KeptReply.lean ====
section
/-! SUPPORT. Every operation of Machine/Reply.lean leaves the queue alone and keeps the state canonical. -/

namespace Sys2Proof.Machine

variable {q : List Instr} {s t : State}

theorem done_kept {data : List Byte} {value : Nat} (h : Kept q s) : HandledKept q (done s data value) := by
  unfold done
  try dsimp only
  repeat' with_reducible first
    | assumption
    | apply HandledKept.reply

end Sys2Proof.Machine
end

