-- ==== Sys2Proof/Laws/KeptPort.lean ====
section
/-! SUPPORT. Every operation of Machine/Port.lean leaves the queue alone and keeps the state canonical. -/

namespace Sys2Proof.Machine

variable {q : List Instr} {s t : State}

theorem State.injectionHit_kept {j : Injection} (h : Kept q s) : Kept q (State.injectionHit s j) := by
  unfold State.injectionHit
  try dsimp only
  repeat' with_reducible first
    | assumption
    | apply State.modInjection_kept
    | apply State.logInjected_kept
    | split

theorem State.passHeld_kept {n : Nat} (h : Kept q s) : PairKept q (State.passHeld s n) := by
  unfold State.passHeld
  try dsimp only
  repeat' with_reducible first
    | assumption
    | apply PairKept.mk
    | apply State.modInjection_kept
    | split

theorem State.meetInjection_kept {n : Nat} {c : Carried} (h : Kept q s) : PairKept q (State.meetInjection s n c) := by
  unfold State.meetInjection
  try dsimp only
  repeat' with_reducible first
    | assumption
    | apply PairKept.mk
    | apply State.modInjection_kept
    | apply State.injectionHit_kept
    | refine PairKept.fst (State.passHeld_kept ?_)
    | split

theorem State.passInjections_kept {l : List Nat} {c : Carried} (h : Kept q s) : PairKept q (State.passInjections s l
    c) := by
  unfold State.passInjections
  try dsimp only
  repeat' with_reducible first
    | assumption
    | apply PairKept.foldl
    | apply PairKept.mk
    | exact PairKept.left (by with_reducible assumption)
    | apply State.meetInjection_kept
    | split
    | apply Kept.foldl
    | (refine PairKept.of_eq ?_ (by with_reducible assumption); apply State.meetInjection_kept)
    | (refine PairKept.of_eq ?_ (by with_reducible assumption); split)
    | refine PairKept.fst (State.meetInjection_kept ?_)
    | refine PairKept.fst (PairKept.foldl ?_ ?_)
    | refine PairKept.fst (PairKept.mk ?_)
    | exact id
    | intro

theorem State.throughInjections_kept {c : Carried} (h : Kept q s) : PairKept q (State.throughInjections s c) := by
  unfold State.throughInjections
  try dsimp only
  repeat' with_reducible first
    | assumption
    | apply PairKept.mk
    | exact PairKept.left (by with_reducible assumption)
    | apply State.number_kept
    | apply State.passInjections_kept
    | split
    | (refine PairKept.of_eq ?_ (by with_reducible assumption); apply State.passInjections_kept)
    | (refine PairKept.of_eq ?_ (by with_reducible assumption); split)
    | refine PairKept.fst (State.passInjections_kept ?_)
    | refine PairKept.fst (PairKept.mk ?_)
    | exact id
    | intro

theorem State.putOut_kept {o : OutFrame} (h : Kept q s) : Kept q (State.putOut s o) := by
  unfold State.putOut
  split
  · have k := State.nextTag_kept h
    exact ⟨k.1, { k.2 with }⟩
  · exact h

theorem State.emit_kept {o : OutFrame} (h : Kept q s) : Kept q (State.emit s o) := by
  unfold State.emit
  try dsimp only
  repeat' with_reducible first
    | assumption
    | apply Kept.foldl
    | refine PairKept.fst (State.throughInjections_kept ?_)
    | apply State.putOut_kept
    | split
    | intro

theorem State.send_kept {w : WireFrame} (h : Kept q s) : Kept q (State.send s w) := by
  unfold State.send
  split
  · have k := State.nextTag_kept h
    exact ⟨k.1, { k.2 with }⟩
  · exact h

theorem State.sendFabric_kept {peer : Option (List Byte)} {m : FabricMsg} (h : Kept q s) : Kept q (State.sendFabric s
    peer m) := by
  unfold State.sendFabric
  try dsimp only
  repeat' with_reducible first
    | assumption
    | exact PairKept.left (by with_reducible assumption)
    | apply State.send_kept
    | split
    | exact id
    | intro

theorem State.sendPayload_kept {sid : Nat} {n : Nat} {op : Nat} {payload : List Byte} (h : Kept q s) : Kept q
    (State.sendPayload s sid n op payload) := by
  unfold State.sendPayload
  try dsimp only
  repeat' with_reducible first
    | assumption
    | exact PairKept.left (by with_reducible assumption)
    | apply State.emit_kept
    | apply State.modSession_kept
    | apply State.number_kept
    | split
    | exact id
    | intro

theorem State.sendReply_kept {sid : Nat} {n : Nat} {op : Nat} {r : Reply} (h : Kept q s) : Kept q (State.sendReply s
    sid n op r) := by
  unfold State.sendReply
  try dsimp only
  repeat' with_reducible first
    | assumption
    | exact PairKept.left (by with_reducible assumption)
    | apply State.sendPayload_kept
    | split
    | exact id
    | intro

theorem State.endSession_kept {sid : Nat} (h : Kept q s) : Kept q (s.endSession sid) := h.with_sessions (swf_sdel h.sessions)

theorem State.requireReplied_kept {sid n : Nat} (h : Kept q s) : Kept q (State.requireReplied s sid n) :=
  State.modSec_kept h fun x => Security.canonical_of x rfl

theorem State.bookingReplied_kept {sid n : Nat} (h : Kept q s) : Kept q (State.bookingReplied s sid n) :=
  State.modSchedule_kept h

theorem State.injectionReplied_kept {sid n : Nat} (h : Kept q s) : Kept q (State.injectionReplied s sid n) :=
  ⟨h.1, { h.2 with }⟩

theorem State.dozeReplied_kept {sid n : Nat} (h : Kept q s) : Kept q (State.dozeReplied s sid n) := by
  unfold State.dozeReplied
  split
  · exact State.modPower_kept (State.modDev_kept h id id) id id
  · exact h

theorem State.afterReply_kept {sid : Nat} {n : Nat} {op : Nat} (h : Kept q s) : Kept q (State.afterReply s sid n op)
    := by
  unfold State.afterReply
  repeat' split
  · exact State.requireReplied_kept h
  · exact State.bookingReplied_kept h
  · exact State.injectionReplied_kept h
  · exact State.dozeReplied_kept h
  · exact h

theorem State.deliverReply_kept {sid : Nat} {n : Nat} {op : Nat} {payload : List Byte} (h : Kept q s) : Kept q
    (State.deliverReply s sid n op payload) := by
  unfold State.deliverReply
  try dsimp only
  repeat' with_reducible first
    | assumption
    | exact PairKept.left (by with_reducible assumption)
    | apply State.afterReply_kept
    | apply State.endSession_kept
    | apply State.sendPayload_kept
    | split
    | exact id
    | intro

theorem State.conclude_kept {sid : Nat} {n : Nat} {op : Nat} {r : Reply} (h : Kept q s) : Kept q (State.conclude s sid
    n op r) := by
  unfold State.conclude
  try dsimp only
  repeat' with_reducible first
    | assumption
    | exact PairKept.left (by with_reducible assumption)
    | apply State.deliverReply_kept
    | apply State.modJournal_kept
    | apply State.number_kept
    | apply done_kept
    | refine HandledKept.of_reply (done_kept ?_) (by with_reducible assumption)
    | refine HandledKept.of_later (done_kept ?_) (by with_reducible assumption)
    | refine HandledKept.state (done_kept ?_)
    | split
    | exact id
    | intro

theorem State.answer_kept {sid n op : Nat} {x : Handled} (h : HandledKept q x) : Kept q (s.answer sid n op x) := by
  unfold State.answer
  cases x with
  | later t => exact h
  | reply r t => exact State.conclude_kept h

theorem State.notice_kept {c : Nat} {sid : Nat} {code : Nat} {csn : Nat} {notch : Nat} {address : Nat} {value : Nat}
    (h : Kept q s) : Kept q (State.notice s c sid code csn notch address value) := by
  unfold State.notice
  try dsimp only
  repeat' with_reducible first
    | assumption
    | apply State.emit_kept
    | split

theorem State.sendCompletion_kept {stream : Nat} {csn : Nat} {flags : Nat} (h : Kept q s) : Kept q
    (State.sendCompletion s stream csn flags) := by
  unfold State.sendCompletion
  try dsimp only
  repeat' with_reducible first
    | assumption
    | apply State.emit_kept
    | split

theorem State.emitResults_kept {stream : Nat} {c : Cmd} {k : Nat} {z : Nat} {flags : Nat} {i : Nat} (h : Kept q s) :
    Kept q (State.emitResults s stream c k z flags i) := by
  unfold State.emitResults
  try dsimp only
  repeat' with_reducible first
    | assumption
    | apply Kept.foldl
    | exact PairKept.left (by with_reducible assumption)
    | apply State.drop_kept
    | apply State.emit_kept
    | split
    | refine PairKept.fst (PairKept.foldl ?_ ?_)
    | exact id
    | intro

theorem State.sendResults_kept {stream : Nat} {csn : Nat} (h : Kept q s) : Kept q (State.sendResults s stream csn) :=
    by
  unfold State.sendResults
  try dsimp only
  repeat' with_reducible first
    | assumption
    | exact PairKept.left (by with_reducible assumption)
    | apply State.emitResults_kept
    | apply State.modCmd_kept
    | split
    | exact id
    | intro

theorem State.resendResults_kept {stream : Nat} {csn : Nat} (h : Kept q s) : Kept q (State.resendResults s stream csn)
    := by
  unfold State.resendResults
  try dsimp only
  repeat' with_reducible first
    | assumption
    | exact PairKept.left (by with_reducible assumption)
    | apply State.emitResults_kept
    | apply State.modCmd_kept
    | split
    | exact id
    | intro

end Sys2Proof.Machine
end

