-- ==== Sys2Proof/Laws/KeptRegisters.lean ====
section
/-! SUPPORT. Every operation of Machine/Registers.lean leaves the queue alone and keeps the state canonical. -/

namespace Sys2Proof.Machine

variable {q : List Instr} {s t : State}

theorem Link.setBundle_canonical {l : Link} {i : Nat} {v : Bundle} (h : l.Canonical) (hv : v.Fits) : (l.setBundle i v).Canonical :=
  Family.sput h hv

theorem Link.bundle_fits {l : Link} {b : Nat} (h : l.Canonical) : (l.bundle b).Fits := Family.sget h Bundle.fits_default

theorem State.restartSince_kept {r : TroubleReg} {v : Word} (h : Kept q s) : Kept q (State.restartSince s r v) := by
  unfold State.restartSince
  try dsimp only
  repeat' with_reducible first
    | assumption
    | split
    | refine Core.canonical_ctor ?_ rfl rfl rfl rfl rfl rfl
    | apply State.modCore_kept
    | apply State.modPond_kept
    | apply State.modStack_kept
    | apply State.modLink_kept
    | apply State.modPort_kept
    | refine fun c (hc : Core.Canonical c) => ?_
    | refine fun c (hc : Millpond.Canonical c) => ?_
    | exact Millpond.canonical_of hc rfl
    | refine fun c (hc : Stack.Canonical c) => ?_
    | exact Stack.canonical_of hc rfl rfl rfl
    | refine fun c (hc : Link.Canonical c) => ?_
    | exact Link.canonical_of hc rfl

theorem State.clearTrouble_kept {r : TroubleReg} {v : Word} (h : Kept q s) : Kept q (State.clearTrouble s r v) := by
  unfold State.clearTrouble
  try dsimp only
  repeat' with_reducible first
    | assumption
    | apply State.setTrouble_kept
    | apply State.restartSince_kept

theorem State.clearFlags_kept {r : RegPlace} {a : Nat} {v : Word} (h : Kept q s) : Kept q (s.clearFlags r a v) := by
  unfold State.clearFlags
  split
  · split
    · exact State.modPower_kept h id fun h => swf_sput h
    · exact h
  · split
    · exact State.modPseudo_kept h
    · exact h
  · exact h

theorem State.clearCounter_kept {r : RegPlace} (h : Kept q s) : Kept q (State.clearCounter s r) := by
  unfold State.clearCounter
  try dsimp only
  repeat' with_reducible first
    | assumption
    | split
    | refine Core.canonical_ctor ?_ rfl rfl rfl rfl rfl rfl
    | apply State.modCore_kept
    | apply State.modPond_kept
    | apply State.modStack_kept
    | apply State.modLink_kept
    | apply State.modHopper_kept
    | apply State.modDomain_kept
    | apply State.modPower_kept
    | apply State.modDev_kept
    | apply State.modPort_kept
    | refine fun c (hc : Core.Canonical c) => ?_
    | refine fun c (hc : Millpond.Canonical c) => ?_
    | exact Millpond.canonical_of hc rfl
    | refine fun c (hc : Stack.Canonical c) => ?_
    | exact Stack.canonical_of hc rfl rfl rfl
    | refine fun c (hc : Link.Canonical c) => ?_
    | exact Link.canonical_of hc rfl
    | exact id

end Sys2Proof.Machine
end

