-- ==== Sys2Proof/Laws/KeptPages.lean ====
section
/-! SUPPORT. Every operation of Machine/Pages.lean leaves the queue alone and keeps the state canonical. -/

namespace Sys2Proof.Machine

variable {q : List Instr} {s t : State}

theorem State.mapPage_kept {g : Nat} {c : Nat} {use : Nat} {slot : Nat} {index : Nat} {shared : Bool} (h : Kept q s) :
    Kept q (State.mapPage s g c use slot index shared) := by
  unfold State.mapPage
  try dsimp only
  repeat' with_reducible first
    | assumption
    | apply State.setPage_kept

theorem State.unmapThen_kept {f : Frame} {pages : List Nat} (h : Kept q s) : HandledKept q (State.unmapThen s f pages)
    := by
  unfold State.unmapThen
  try dsimp only
  repeat' with_reducible first
    | assumption
    | apply Kept.foldl
    | apply HandledKept.done
    | apply HandledKept.later
    | apply State.modJournal_kept
    | apply State.unmapPage_kept
    | split

theorem State.releaseUnmaps_kept  (h : Kept q s) : Kept q (State.releaseUnmaps s) := by
  unfold State.releaseUnmaps
  try dsimp only
  repeat' with_reducible first
    | assumption
    | apply Kept.foldl
    | exact PairKept.left (by with_reducible assumption)
    | apply State.conclude_kept
    | apply State.modJournal_kept
    | apply State.number_kept
    | apply State.unmapPage_kept
    | split
    | refine PairKept.fst (PairKept.foldl ?_ ?_)
    | exact id
    | intro

theorem State.writeSlot_kept {c : Nat} {j : Nat} (h : Kept q s) : Kept q (State.writeSlot s c j) := by
  unfold State.writeSlot
  try dsimp only
  repeat' with_reducible first
    | assumption
    | exact PairKept.left (by with_reducible assumption)
    | apply State.writeScratch_kept
    | split
    | exact id
    | intro

theorem State.modSeq_kept {c j : Nat} {f : SeqSlot → SeqSlot} (h : Kept q s) : Kept q (s.modSeq c j f) :=
  State.writeSlot_kept (State.modContext_kept h fun _ hc => swf_sput hc)

theorem State.growLane_kept {c j : Nat} {a : SeqArea} {g lane : Nat} (h : Kept q s) : OptKept q (s.growLane c j a g lane) := by
  unfold State.growLane
  dsimp only
  split
  · exact OptKept.none
  · exact OptKept.some (State.modContext_kept (State.mapPage_kept h) fun _ hc => swf_sput hc)

theorem State.grow_kept {c j want : Nat} (h : Kept q s) : OptKept q (s.grow c j want) := by
  unfold State.grow
  split
  · exact OptKept.some h
  · refine OptKept.map (OptKept.foldl_bind h fun s e h => State.growLane_kept h) fun s h => State.modSeq_kept h

theorem State.appendBooked_kept {c : Nat} {slots : List Nat} {a : Nat} (h : Kept q s) : OptKept q (s.appendBooked c slots a) :=
  OptKept.foldl_bind h fun _ _ h => OptKept.map (State.grow_kept h) fun _ h => State.modSeq_kept h

theorem State.dropEntries_kept {c : Nat} {j : Nat} {keep : Nat} {gone : List (Nat × Nat)} (h : Kept q s) : Kept q
    (State.dropEntries s c j keep gone) := by
  unfold State.dropEntries
  try dsimp only
  repeat' with_reducible first
    | assumption
    | apply State.modSeq_kept

theorem State.modStagedGroups_kept {c : Nat} {f : Nat → Nat → Nat} (h : Kept q s) : Kept q (State.modStagedGroups s c
    f) := by
  unfold State.modStagedGroups
  try dsimp only
  repeat' with_reducible first
    | assumption
    | exact PairKept.left (by with_reducible assumption)
    | apply State.modJournal_kept
    | split
    | exact id
    | intro

theorem State.undoBooked_kept {c : Nat} {a : Nat} {old : List (Nat × Nat)} (h : Kept q s) : Kept q (State.undoBooked s
    c a old) := by
  unfold State.undoBooked
  try dsimp only
  repeat' with_reducible first
    | assumption
    | apply Kept.foldl
    | exact PairKept.left (by with_reducible assumption)
    | apply State.dropEntries_kept
    | apply State.modSeq_kept
    | apply State.modStagedGroups_kept
    | apply State.unmapPage_kept
    | split
    | refine PairKept.fst (PairKept.foldl ?_ ?_)
    | exact id
    | intro

theorem State.advanceLengths_kept {c : Nat} {csn : Nat} {slots : List Nat} {a : Nat} (h : Kept q s) : Kept q
    (State.advanceLengths s c csn slots a) := by
  unfold State.advanceLengths
  try dsimp only
  repeat' with_reducible first
    | assumption
    | apply Kept.foldl
    | apply State.modSeq_kept
    | split
    | intro

theorem State.lowerBooked_kept {c : Nat} {slots : List Nat} {a : Nat} (h : Kept q s) : Kept q (State.lowerBooked s c
    slots a) := by
  unfold State.lowerBooked
  try dsimp only
  repeat' with_reducible first
    | assumption
    | apply Kept.foldl
    | apply State.modSeq_kept
    | split
    | intro

theorem State.settleAppends_kept {c : Nat} (h : Kept q s) : Kept q (State.settleAppends s c) := by
  unfold State.settleAppends
  try dsimp only
  repeat' with_reducible first
    | assumption
    | apply Kept.foldl
    | exact PairKept.left (by with_reducible assumption)
    | apply State.advanceLengths_kept
    | apply State.modCmd_kept
    | split
    | refine PairKept.fst (PairKept.foldl ?_ ?_)
    | exact id
    | intro

theorem State.resplit_kept {d : Nat} {steps : Nat} (h : Kept q s) : Kept q (State.resplit s d steps) := by
  unfold State.resplit
  try dsimp only
  repeat' with_reducible first
    | assumption
    | exact PairKept.left (by with_reducible assumption)
    | apply State.writeLate_kept
    | apply State.clearKey_kept
    | apply State.dropLines_kept
    | apply State.modPond_kept
    | split
    | refine fun c (hc : Millpond.Canonical c) => ?_
    | exact Millpond.canonical_of hc rfl
    | exact id
    | intro

theorem State.splitDone_kept {d : Nat} (h : Kept q s) : Kept q (State.splitDone s d) := by
  unfold State.splitDone
  try dsimp only
  repeat' with_reducible first
    | assumption
    | apply Kept.foldl
    | exact PairKept.left (by with_reducible assumption)
    | apply State.conclude_kept
    | apply State.modJournal_kept
    | apply State.number_kept
    | split
    | refine PairKept.fst (PairKept.foldl ?_ ?_)
    | exact id
    | intro

theorem State.afterSplits_kept {a : Nat} {n : Nat} (h : Kept q s) : Kept q (State.afterSplits s a n) := by
  unfold State.afterSplits
  try dsimp only
  repeat' with_reducible first
    | assumption
    | apply Kept.foldl
    | exact PairKept.left (by with_reducible assumption)
    | apply State.resplit_kept
    | apply State.splitDone_kept
    | split
    | refine PairKept.fst (PairKept.foldl ?_ ?_)
    | exact id
    | intro

end Sys2Proof.Machine
end

