-- ==== Sys2Proof/Laws/KeptAdmission.lean ====
section
/-! SUPPORT. Every operation of Machine/Admission.lean leaves the queue alone and keeps the state canonical. -/

namespace Sys2Proof.Machine

variable {q : List Instr} {s t : State}

theorem State.stage_kept {x : Staged} (h : Kept q s) : Kept q (State.stage s x) := by
  unfold State.stage
  try dsimp only
  repeat' with_reducible first
    | assumption
    | apply State.modJournal_kept

theorem State.stageStep_kept {c : Nat} {m : Cmd} {sid : Nat} {n : Nat} {answer : Bool} (h : Kept q s) : Kept q
    (State.stageStep s c m sid n answer) := by
  unfold State.stageStep
  try dsimp only
  repeat' with_reducible first
    | assumption
    | refine OptKept.of_eq (State.appendBooked_kept ?_) (by assumption)
    | apply State.stage_kept
    | split

theorem bodyRunStep_kept {f : Frame} {c : Nat} (h : Kept q s) : HandledKept q (bodyRunStep f c s) := by
  unfold bodyRunStep
  try dsimp only
  repeat' with_reducible first
    | assumption
    | apply HandledKept.checked
    | apply HandledKept.zeroField
    | apply HandledKept.reply
    | apply HandledKept.later
    | apply State.stageStep_kept
    | split

theorem State.rebook_kept {c : Nat} {csn : Nat} {span : Nat} {from_ : Nat} {behind : Nat} (h : Kept q s) : Kept q
    (State.rebook s c csn span from_ behind) := by
  unfold State.rebook
  try dsimp only
  repeat' with_reducible first
    | assumption
    | apply State.modSchedule_kept
    | apply State.modCmd_kept
    | split

theorem State.sendResumed_kept {c : Nat} {csn : Nat} {value : Nat} (h : Kept q s) : Kept q (State.sendResumed s c csn
    value) := by
  unfold State.sendResumed
  try dsimp only
  repeat' with_reducible first
    | assumption
    | apply State.notice_kept
    | split

theorem bodyRunBook_kept {f : Frame} (h : Kept q s) : HandledKept q (bodyRunBook f s) := by
  unfold bodyRunBook
  try dsimp only
  repeat' with_reducible first
    | assumption
    | apply HandledKept.checked
    | apply HandledKept.zeroField
    | apply HandledKept.done
    | apply State.modSchedule_kept

theorem State.pruneBookings_kept (h : Kept q s) : Kept q (State.pruneBookings s) := by
  unfold State.pruneBookings
  try dsimp only
  repeat' with_reducible first
    | assumption
    | apply State.modSchedule_kept

theorem bodyRunUnbook_kept {f : Frame} (h : Kept q s) : HandledKept q (bodyRunUnbook f s) := by
  unfold bodyRunUnbook
  try dsimp only
  repeat' with_reducible first
    | assumption
    | apply HandledKept.checked
    | apply HandledKept.done
    | apply State.modSchedule_kept
    | apply State.pruneBookings_kept

end Sys2Proof.Machine
end

