-- ==== Sys2Proof/Laws/KeptMesh.lean ====
section
/-! SUPPORT. Every operation of Machine/Mesh.lean leaves the queue untouched and a canonical state canonical. -/

namespace Sys2Proof.Machine

variable {q : List Instr} {s : State}

theorem State.modPair_kept {a : Nat} {b : Nat} {f : Pair → Pair} (h : Kept q s) : Kept q (State.modPair s a b f) := by
  unfold State.modPair
  try dsimp only
  repeat' with_reducible first
    | assumption
    | exact PairKept.left (by with_reducible assumption)
    | apply State.modDev_kept
    | split
    | exact id
    | intro


theorem Link.setStore_canonical {l : Link} {atA : Bool} {v : List Stored} (h : l.Canonical) : (l.setStore atA v).Canonical := by
  cases atA <;> exact h

theorem State.setStoreAt_kept {i : Nat} {atA : Bool} {v : List Stored} (h : Kept q s) : Kept q (State.setStoreAt s i
    atA v) := by
  unfold State.setStoreAt
  try dsimp only
  repeat' with_reducible first
    | assumption
    | exact PairKept.left (by with_reducible assumption)
    | apply State.modLink_kept
    | split
    | refine fun c (hc : Link.Canonical c) => ?_
    | exact Link.canonical_of hc rfl
    | apply Link.setStore_canonical
    | exact id
    | intro

theorem State.reroute_kept {old : State} {gone : Packet → Bool} (h : Kept q s) : Kept q (State.reroute s old gone) :=
    by
  unfold State.reroute
  try dsimp only
  repeat' with_reducible first
    | assumption
    | apply Kept.foldl
    | exact PairKept.left (by with_reducible assumption)
    | apply State.modDev_kept
    | apply State.modPair_kept
    | apply State.setStoreAt_kept
    | split
    | refine PairKept.fst (PairKept.foldl ?_ ?_)
    | exact id
    | intro

theorem State.routesReturn_kept  (h : Kept q s) : Kept q (State.routesReturn s) := by
  unfold State.routesReturn
  try dsimp only
  repeat' with_reducible first
    | assumption
    | apply Kept.foldl
    | exact PairKept.left (by with_reducible assumption)
    | apply State.modDev_kept
    | apply State.modLink_kept
    | split
    | refine fun c (hc : Link.Canonical c) => ?_
    | exact Link.canonical_of hc rfl
    | refine PairKept.fst (PairKept.foldl ?_ ?_)
    | exact id
    | intro

theorem State.markLinks_kept {c : Nat} {csn : Nat} {i : Nat} {mask : Nat} (h : Kept q s) : Kept q (State.markLinks s c
    csn i mask) := by
  unfold State.markLinks
  try dsimp only
  repeat' with_reducible first
    | assumption
    | exact PairKept.left (by with_reducible assumption)
    | apply State.modCmd_kept
    | split
    | exact id
    | intro

end Sys2Proof.Machine
end

