-- ==== Sys2Proof/Laws/KeptStopping.lean ====
section
/-! SUPPORT. Every operation of Machine/Stopping.lean leaves the queue alone and keeps the state canonical. -/

namespace Sys2Proof.Machine

variable {q : List Instr} {s t : State}

theorem Core.smap_channels_canonical {x y : Core} {f : Nat → Channel → Channel} (h : x.Canonical) (h1 : y.tiles = x.tiles)
    (h2 : y.sums = x.sums) (h3 : y.integers = x.integers) (h4 : y.vregs = x.vregs)
    (h5 : y.channels = smap {} f x.channels) (h6 : y.barriers = x.barriers) (hf : ∀ k x, Channel.Fits x → (f k x).Fits) :
    y.Canonical := ⟨h1 ▸ h.tiles, h2 ▸ h.sums, h3 ▸ h.integers, h4 ▸ h.vregs, h5 ▸ h.channels.smap hf, h6 ▸ h.barriers⟩

theorem Channel.cleared_fits {h : Channel} : h.cleared.Fits := Nat.zero_le _

theorem Channel.stopped_fits {h : Channel} {c csn : Nat} (k : h.Fits) : (h.stopped c csn).Fits := by
  unfold Channel.stopped
  dsimp only
  split
  · exact Channel.cleared_fits
  · exact k

theorem Channel.atRest_fits {h : Channel} (k : h.Fits) : h.atRest.Fits := by
  unfold Channel.atRest
  split <;> exact k

theorem Core.settled_canonical {x : Core} (h : x.Canonical) : x.settled.Canonical := by
  unfold Core.settled
  split
  · exact h
  · exact Core.canonical_of h rfl rfl rfl rfl rfl rfl

theorem Core.told_canonical {x : Core} {c csn : Nat} (h : x.Canonical) : (x.told c csn).Canonical := by
  unfold Core.told
  refine Core.settled_canonical ?_
  split <;> exact Core.smap_channels_canonical (f := fun _ y => y.stopped c csn) h rfl rfl rfl rfl rfl rfl fun _ _ => Channel.stopped_fits

theorem State.stopCores_kept {c : Nat} {csn : Nat} {l : List Nat} (h : Kept q s) : Kept q (State.stopCores s c csn l) :=
  Kept.foldl h fun _ _ k => State.modCore_kept k fun _ => Core.told_canonical

theorem State.watchCores_kept {l : List Nat} (h : Kept q s) : Kept q (State.watchCores s l) := by
  unfold State.watchCores
  try dsimp only
  repeat' with_reducible first
    | assumption
    | apply Kept.foldl
    | exact PairKept.left (by with_reducible assumption)
    | apply State.modCore_kept
    | split
    | refine fun c (hc : Core.Canonical c) => ?_
    | exact Core.canonical_of hc rfl rfl rfl rfl rfl rfl
    | apply Core.settled_canonical
    | refine PairKept.fst (PairKept.foldl ?_ ?_)
    | exact id
    | intro

theorem Core.dropBlocks_canonical {x : Core} {c csn : Nat} (h : x.Canonical) : (x.dropBlocks c csn).Canonical :=
  Core.canonical_of h rfl rfl rfl rfl rfl rfl

theorem State.drop_kept {c csn : Nat} (h : Kept q s) : Kept q { s with
    cores := smap {} (fun _ x => x.dropBlocks c csn) s.cores,
    memStacks := smap {} (fun _ t => { t with pcs := smap {} (fun _ x => x.drop c csn) t.pcs }) s.memStacks,
    hoppers := smap {} (fun _ x => x.drop c csn) s.hoppers } := by
  have h2 := h.with_cores (h.cores.smap (f := fun _ x => x.dropBlocks c csn) fun _ _ hc => Core.dropBlocks_canonical (c := c) (csn := csn) hc)
  have h3 := h2.with_stacks (h2.memStacks.smap (f := fun _ t => { t with pcs := smap {} (fun _ x => x.drop c csn) t.pcs })
    fun _ _ hc => Stack.smap_pcs_canonical hc)
  exact h3.with_hoppers (swf_smap h3.hoppers)

theorem State.stopCommand_kept {c csn : Nat} (h : Kept q s) : Kept q (s.stopCommand c csn) := by
  exact State.releaseUnmaps_kept (State.drop_kept (State.stopCores_kept h))

theorem State.snapshotCore_kept {p : Nat} (h : Kept q s) : Kept q (State.snapshotCore s p) := by
  unfold State.snapshotCore
  try dsimp only
  repeat' with_reducible first
    | assumption
    | apply State.writeLog_kept

theorem State.snapshotLink_kept {i : Nat} (h : Kept q s) : Kept q (State.snapshotLink s i) := by
  unfold State.snapshotLink
  try dsimp only
  repeat' with_reducible first
    | assumption
    | apply State.writeLog_kept

theorem State.snapshotCores_kept {l : List Nat} (h : Kept q s) : Kept q (State.snapshotCores s l) := by
  unfold State.snapshotCores
  try dsimp only
  repeat' with_reducible first
    | assumption
    | apply Kept.foldl
    | apply State.snapshotCore_kept

theorem State.noteStop_kept {c : Nat} {csn : Nat} {x : Stop} (h : Kept q s) : Kept q (State.noteStop s c csn x) := by
  unfold State.noteStop
  try dsimp only
  repeat' with_reducible first
    | assumption
    | apply State.modCmd_kept

theorem State.endCopy_kept {c : Nat} {m : Cmd} (h : Kept q s) : Kept q (State.endCopy s c m) := by
  unfold State.endCopy
  try dsimp only
  repeat' with_reducible first
    | assumption
    | exact PairKept.left (by with_reducible assumption)
    | apply State.modContext_kept
    | apply State.sendFabric_kept
    | split
    | refine fun c (hc : Context.Canonical c) => ?_
    | exact Context.canonical_of hc rfl
    | exact id
    | intro

theorem State.complete_kept {c : Nat} {csn : Nat} {status : Nat} {notch : Nat} {extra : Nat} {x : Stop} (h : Kept q s)
    : Kept q (State.complete s c csn status notch extra x) := by
  unfold State.complete
  try dsimp only
  repeat' with_reducible first
    | assumption
    | exact PairKept.left (by with_reducible assumption)
    | apply State.endCopy_kept
    | apply State.lowerBooked_kept
    | apply State.modCmd_kept
    | apply State.modSchedule_kept
    | apply State.modStream_kept
    | apply State.pruneBookings_kept
    | apply State.settleAppends_kept
    | apply State.writeLog_kept
    | split
    | exact id
    | intro

theorem State.endReset_kept {c : Nat} {detail : Nat} {csn : Nat} (h : Kept q s) : Kept q (State.endReset s c detail
    csn) := by
  unfold State.endReset
  try dsimp only
  repeat' with_reducible first
    | assumption
    | apply State.stopCommand_kept
    | apply State.complete_kept

theorem State.advanceGeneration_kept {c : Nat} {cause : Nat} (h : Kept q s) : Kept q (State.advanceGeneration s c
    cause) := by
  unfold State.advanceGeneration
  try dsimp only
  repeat' with_reducible first
    | assumption
    | apply State.modContext_kept
    | apply State.notice_kept
    | refine fun c (hc : Context.Canonical c) => ?_
    | exact Context.canonical_of hc rfl

theorem State.giveUp_kept {c : Nat} (h : Kept q s) : Kept q (State.giveUp s c) := by
  unfold State.giveUp
  try dsimp only
  repeat' with_reducible first
    | assumption
    | apply Kept.foldl
    | apply State.modSchedule_kept
    | apply State.modCmd_kept
    | apply State.pruneBookings_kept
    | apply State.stopCommand_kept
    | intro

theorem State.giveUpStarted_kept {c : Nat} (h : Kept q s) : Kept q (s.giveUpStarted c) := by
  unfold State.giveUpStarted
  exact State.pruneBookings_kept (State.modSchedule_kept (Kept.foldl h fun _ _ h => State.modCmd_kept (State.stopCommand_kept h)))

theorem State.restarted_kept {c : Nat} {csn : Nat} (h : Kept q s) : Kept q (State.restarted s c csn) := by
  unfold State.restarted
  try dsimp only
  repeat' with_reducible first
    | assumption
    | exact PairKept.left (by with_reducible assumption)
    | apply State.sendResumed_kept
    | apply State.writeLog_kept
    | split
    | exact id
    | intro

theorem State.restartCmd_kept {c : Nat} {behind : Nat} {csn : Nat} (h : Kept q s) : Kept q (State.restartCmd s c
    behind csn) := by
  unfold State.restartCmd
  try dsimp only
  repeat' with_reducible first
    | assumption
    | exact PairKept.left (by with_reducible assumption)
    | apply State.complete_kept
    | apply State.endReset_kept
    | apply State.modCmd_kept
    | apply State.rebook_kept
    | apply State.restarted_kept
    | split
    | exact id
    | intro

theorem State.journalBlockLost_kept {b : Nat} (h : Kept q s) : Kept q (State.journalBlockLost s b) := by
  unfold State.journalBlockLost
  try dsimp only
  repeat' with_reducible first
    | assumption
    | exact PairKept.left (by with_reducible assumption)
    | apply State.modJournal_kept
    | apply State.setTroubleBit_kept
    | apply State.writeLog_kept
    | split
    | exact id
    | intro

theorem State.loseRecord_kept {c : Nat} {csn : Nat} (h : Kept q s) : Kept q (State.loseRecord s c csn) := by
  unfold State.loseRecord
  try dsimp only
  repeat' with_reducible first
    | assumption
    | exact PairKept.left (by with_reducible assumption)
    | apply State.complete_kept
    | apply State.lowerBooked_kept
    | apply State.modCmd_kept
    | split
    | exact id
    | intro

theorem State.bothLost_kept {c csn : Nat} (h : Kept q s) : Kept q (s.bothLost c csn) :=
  State.loseRecord_kept (State.setTroubleBit_kept (State.writeLog_kept h))

theorem State.readDamage_kept (h : Kept q s) : PairKept q s.readDamage := by
  unfold State.readDamage
  refine PairKept.foldl (PairKept.mk h) fun r b hr => ?_
  dsimp only
  split
  · rename_i e
    exact State.journalBlockLost_kept (PairKept.of_eq (State.readBlock_kept (PairKept.fst hr)) e)
  · rename_i e
    have k := PairKept.of_eq (State.readBlock_kept (PairKept.fst hr)) e
    split
    · exact State.journalBlockLost_kept k
    · exact k

theorem State.readCopies_kept (h : Kept q s) : Kept q (State.readCopies s) := by
  unfold State.readCopies
  have k := PairKept.fst (State.readDamage_kept h)
  dsimp only
  have one : ∀ (s : State) (c n : Nat) (b : Bool), Kept q s → Kept q (if b = true then s.bothLost c n else s) := by
    intro s c n b h
    split
    · exact State.bothLost_kept h
    · exact h
  split
  · exact k
  · exact Kept.foldl (Kept.foldl k fun _ _ h => one _ _ _ _ h) fun _ _ h => Kept.foldl h fun _ _ h => one _ _ _ _ h

theorem State.restartAll_kept {c : Nat} (h : Kept q s) : Kept q (State.restartAll s c) := by
  unfold State.restartAll
  dsimp only
  have k : Kept q (s.modContext c fun x => { x with pins := x.pins.map Pin.again }) :=
    State.modContext_kept h fun _ hc => Context.canonical_of hc rfl
  refine PairKept.fst (PairKept.foldl (PairKept.mk ?_) fun _ _ hr => State.restartCmd_kept (PairKept.fst hr))
  split
  · exact State.readCopies_kept k
  · exact k

theorem State.countStale_kept {c : Nat} {n : Nat} {destination : Nat} (h : Kept q s) : Kept q (State.countStale s c n
    destination) := by
  unfold State.countStale
  try dsimp only
  repeat' with_reducible first
    | assumption
    | exact PairKept.left (by with_reducible assumption)
    | apply State.modDev_kept
    | apply State.setTroubleBit_kept
    | apply State.writeLog_kept
    | split
    | exact id
    | intro

theorem State.countStales_kept {c : Nat} {l : List Nat} (h : Kept q s) : Kept q (s.countStales c l) :=
  Kept.foldl h fun _ _ h => State.countStale_kept h

theorem State.mapCmds_kept {f : Cmd → Cmd} (h : Kept q s) : Kept q (s.mapCmds f) :=
  h.with_contexts (h.contexts.smap fun _ _ hc => hc)

theorem State.releaseSuspects_kept (h : Kept q s) : Kept q s.releaseSuspects := by
  unfold State.releaseSuspects
  dsimp only
  refine Kept.foldl (State.mapCmds_kept (State.modDev_kept h id id)) fun s c h => ?_
  have h1 : Kept q (s.modContext c fun x => { x with state := .open }) := State.modContext_kept h fun _ hc => hc
  split
  · exact h1
  · exact State.restartAll_kept h1

theorem State.replayNext_kept {n : Nat} (h : Kept q s) : Kept q (s.replayNext n) := by
  induction n generalizing s with
  | zero => exact h
  | succ n ih =>
    unfold State.replayNext
    split
    · split
      · exact ih (State.writeLog_kept (State.modDev_kept (State.modStream_kept h) id id))
      · exact h
    · split
      · exact h
      · dsimp only
        refine ih ?_
        have h1 := fun l c => State.modContext_kept (c := c) (f := fun x => { x with state := .open })
          (State.modDev_kept (f := fun d => { d with suspects := l, replaying := some c }) h id id) fun _ hc => hc
        split
        · exact h1 _ _
        · exact State.restartAll_kept (h1 _ _)

theorem State.replayStep_kept (h : Kept q s) : Kept q (State.replayStep s) := by
  unfold State.replayStep
  try dsimp only
  repeat' with_reducible first
    | assumption
    | apply State.replayNext_kept
    | apply State.releaseSuspects_kept
    | split

theorem State.leaveReplay_kept {c : Nat} (h : Kept q s) : Kept q (State.leaveReplay s c) := by
  unfold State.leaveReplay
  try dsimp only
  repeat' with_reducible first
    | assumption
    | apply State.modDev_kept
    | split
    | exact id

theorem State.finish_kept {c : Nat} {csn : Nat} {status : Nat} {notch : Nat} {extra : Nat} {x : Stop} (h : Kept q s) :
    Kept q (State.finish s c csn status notch extra x) := by
  unfold State.finish
  try dsimp only
  repeat' with_reducible first
    | assumption
    | apply State.complete_kept
    | apply State.replayStep_kept

end Sys2Proof.Machine
end

