-- ==== Sys2Proof/Laws/KeptTraps.lean ====
section
/-! SUPPORT. Every operation of Machine/Traps.lean leaves the queue untouched and a canonical state canonical. -/

namespace Sys2Proof.Machine

variable {q : List Instr} {s : State}

theorem State.trapAs_kept {own : Nat} {cause : Nat} {w : CoreWord} {pc : Nat} {item : Nat} {c : Nat} {csn : Nat}
    {address : Nat} (h : Kept q s) : Kept q (State.trapAs s own cause w pc item c csn address) := by
  unfold State.trapAs
  try dsimp only
  repeat' with_reducible first
    | assumption
    | exact PairKept.left (by with_reducible assumption)
    | apply State.modCore_kept
    | apply State.noteStop_kept
    | apply State.setTroubleBit_kept
    | split
    | refine fun c (hc : Core.Canonical c) => ?_
    | exact Core.canonical_of hc rfl rfl rfl rfl rfl rfl
    | exact id
    | intro


theorem State.trapAt_kept {own : Nat} {cause : Nat} {pc : Nat} {address : Nat} (h : Kept q s) : Kept q (State.trapAt s
    own cause pc address) := by
  unfold State.trapAt
  try dsimp only
  repeat' with_reducible first
    | assumption
    | exact PairKept.left (by with_reducible assumption)
    | apply State.trapAs_kept
    | split
    | exact id
    | intro

theorem State.trap_kept {own : Nat} {cause : Nat} {address : Nat} (h : Kept q s) : Kept q (State.trap s own cause
    address) := by
  unfold State.trap
  try dsimp only
  repeat' with_reducible first
    | assumption
    | exact PairKept.left (by with_reducible assumption)
    | apply State.trapAt_kept
    | split
    | exact id
    | intro

end Sys2Proof.Machine
end

