-- ==== Sys2Proof/Laws/KeptStreamAccess.lean ====
section
/-! SUPPORT. Every operation of Machine/StreamAccess.lean leaves the queue alone and keeps the state canonical. -/

namespace Sys2Proof.Machine

variable {q : List Instr} {s t : State}

theorem State.readTable_kept {g : Nat} (h : Kept q s) : Kept q (State.readTable s g) := by
  unfold State.readTable
  try dsimp only
  repeat' with_reducible first
    | assumption
    | exact PairKept.left (by with_reducible assumption)
    | apply State.readGranules_kept
    | split
    | (refine PairKept.of_eq ?_ (by with_reducible assumption); apply State.readGranules_kept)
    | refine PairKept.fst (State.readGranules_kept ?_)
    | exact id
    | intro


theorem State.noteAbsent_kept {p : Nat} {chan : Nat} {c : Nat} {csn : Nat} {a : Nat} (h : Kept q s) : Kept q
    (State.noteAbsent s p chan c csn a) := by
  unfold State.noteAbsent
  try dsimp only
  repeat' with_reducible first
    | assumption
    | exact PairKept.left (by with_reducible assumption)
    | apply State.modCmd_kept
    | apply State.writeLog_kept
    | split
    | exact id
    | intro

theorem State.haltChannel_kept {own : Nat} {chan : Nat} {c : Nat} {csn : Nat} {f : StreamFault} (h : Kept q s) : Kept
    q (State.haltChannel s own chan c csn f) := by
  unfold State.haltChannel
  try dsimp only
  repeat' with_reducible first
    | assumption
    | exact PairKept.left (by with_reducible assumption)
    | refine State.modChannel_kept ?_ (by intro hf; unfold Channel.Fits at *; dsimp only; split <;> with_unfolding_all exact hf)
    | apply State.noteAbsent_kept
    | apply State.noteStop_kept
    | apply State.setTroubleBit_kept
    | split
    | exact id
    | intro

theorem State.setPcFlag_kept {k : Nat} {p : Nat} {b : Nat} {c : Nat} (h : Kept q s) : Kept q (State.setPcFlag s k p b
    c) := by
  unfold State.setPcFlag
  try dsimp only
  repeat' with_reducible first
    | assumption
    | apply State.modPseudo_kept
    | apply State.troubleRecord_kept

theorem State.enqueueQuern_kept {k : Nat} {p : Nat} {e : QuernEntry} (h : Kept q s) : Kept q (State.enqueueQuern s k p
    e) := by
  unfold State.enqueueQuern
  try dsimp only
  repeat' with_reducible first
    | assumption
    | apply State.modPseudo_kept
    | apply State.noteStop_kept
    | apply State.setPcFlag_kept
    | split

theorem State.streamRead_kept {who : Requester} {a : Nat} {n : Nat} (h : Kept q s) : PairKept q (State.streamRead s
    who a n) := by
  unfold State.streamRead
  try dsimp only
  repeat' with_reducible first
    | assumption
    | apply PairKept.mk
    | refine PairKept.fst (State.readDevice_kept ?_)
    | split

theorem State.writeLine_kept {k p : Nat} {e : QuernEntry} {l : List (List Byte)} (h : Kept q s) :
    Kept q (s.writeLine k p e l) := by
  induction l generalizing s with
  | nil => exact h
  | cons b l ih => exact ih (State.enqueueQuern_kept h)

theorem State.streamWrite_kept {who : Requester} {e : QuernEntry} {a : Nat} {data : List Byte} (h : Kept q s) : Kept q
    (State.streamWrite s who e a data) := by
  unfold State.streamWrite
  try dsimp only
  repeat' with_reducible first
    | assumption
    | apply State.writeDevice_kept
    | apply State.writeLine_kept
    | split

end Sys2Proof.Machine
end

