-- ==== Sys2Proof/Laws/KeptWheel.lean ====
section
/-! SUPPORT. Every operation of Machine/Wheel.lean leaves the queue alone and keeps the state canonical. -/

namespace Sys2Proof.Machine

variable {q : List Instr} {s t : State}

theorem event_kept {b : Bool} {t : State} (h : Kept q s) (h1 : Kept q t) : OutKept q (event b s t) := by
  unfold event
  try dsimp only
  repeat' with_reducible first
    | assumption
    | apply OutKept.next
    | split

theorem State.through_kept {x : Option SecTag} {go : State → Out} (h : Kept q s) (hg : ∀ v, Kept q v → OutKept q (go v)) :
    OutKept q (s.through x go) := by
  unfold State.through
  dsimp only
  split
  · exact hg _ (State.letIn_kept h)
  · exact OutKept.next (State.letIn_kept h)

theorem State.acquire_kept {c : Nat} (h : Kept q s) : Kept q (State.acquire s c) := by
  unfold State.acquire
  try dsimp only
  repeat' with_reducible first
    | assumption
    | apply State.modWheel_kept
    | split
    | exact id

theorem State.holdover_kept {bound : Nat} {since : Nat} {learned : Bool} (h : Kept q s) : Kept q (State.holdover s
    bound since learned) := by
  unfold State.holdover
  try dsimp only
  repeat' with_reducible first
    | assumption
    | apply State.modWheel_kept
    | apply State.setTroubleBit_kept
    | exact id

theorem State.runFree_kept (h : Kept q s) : Kept q (State.runFree s) := by
  unfold State.runFree
  try dsimp only
  repeat' with_reducible first
    | assumption
    | apply State.modWheel_kept
    | exact id

theorem State.loseSource_kept  (h : Kept q s) : Kept q (State.loseSource s) := by
  unfold State.loseSource
  try dsimp only
  repeat' with_reducible first
    | assumption
    | exact PairKept.left (by assumption)
    | apply State.acquire_kept
    | apply State.holdover_kept
    | apply State.modWheel_kept
    | apply State.runFree_kept
    | split
    | exact id
    | intro

theorem State.placeWheel_kept {n : Nat} {x : BitVec 32} (h : Kept q s) : Kept q (s.placeWheel n x) := by
  have h1 := h.with_wheel (v := (s.placeWheel n x).wheel) (Nat.mod_lt _ (by decide))
  have h2 := h1.with_power (v := (s.placeWheel n x).power) h.domains h.spots
  exact h2.with_contexts (h1.contexts.smap fun _ _ hc => hc)

theorem State.placeFine_kept {x : Nat} (h : Kept q s) : Kept q (s.placeFine x) := State.placeWheel_kept h

theorem State.discipline_kept {offset : Int} (h : Kept q s) : Kept q (State.discipline s offset) := by
  unfold State.discipline
  try dsimp only
  repeat' with_reducible first
    | assumption
    | exact PairKept.left (by assumption)
    | apply State.modWheel_kept
    | apply State.placeFine_kept
    | apply State.setTroubleBit_kept
    | split
    | exact id
    | intro

theorem State.measured_kept {c : Nat} {offset : Int} {sourceTime : Nat} (h : Kept q s) : Kept q (State.measured s c
    offset sourceTime) := by
  unfold State.measured
  try dsimp only
  repeat' with_reducible first
    | assumption
    | exact PairKept.left (by assumption)
    | apply State.acquire_kept
    | apply State.discipline_kept
    | apply State.holdover_kept
    | apply State.placeFine_kept
    | split
    | exact id
    | intro

theorem bodyTimeSet_kept {f : Frame} (h : Kept q s) : HandledKept q (bodyTimeSet f s) := by
  unfold bodyTimeSet
  try dsimp only
  repeat' with_reducible first
    | assumption
    | apply HandledKept.checked
    | apply HandledKept.done
    | apply State.modWheel_kept
    | apply State.placeWheel_kept
    | exact id

theorem State.setSource_kept {c : SourceConfig} (h : Kept q s) : Kept q (State.setSource s c) := by
  unfold State.setSource
  try dsimp only
  repeat' with_reducible first
    | assumption
    | exact PairKept.left (by assumption)
    | apply State.modWheel_kept
    | split
    | exact id
    | intro

theorem State.applySource_kept  (h : Kept q s) : Kept q (State.applySource s) := by
  unfold State.applySource
  try dsimp only
  repeat' with_reducible first
    | assumption
    | exact PairKept.left (by assumption)
    | apply State.acquire_kept
    | apply State.loseSource_kept
    | apply State.modWheel_kept
    | split
    | exact id
    | intro

theorem bodyTimeSource_kept {f : Frame} (h : Kept q s) : HandledKept q (bodyTimeSource f s) := by
  unfold bodyTimeSource
  try dsimp only
  repeat' with_reducible first
    | assumption
    | apply HandledKept.checked
    | apply HandledKept.done
    | apply State.setSource_kept

theorem State.syncTime_kept {offset : Int} {sourceTime : Nat} (h : Kept q s) : Kept q (State.syncTime s offset
    sourceTime) := by
  unfold State.syncTime
  try dsimp only
  repeat' with_reducible first
    | assumption
    | exact PairKept.left (by assumption)
    | apply State.measured_kept
    | apply State.modWheel_kept
    | split
    | exact id
    | intro

theorem execPtpSync_kept {m : SyncMsg} (h : Kept q s) : OutKept q (execPtpSync m s) := by
  unfold execPtpSync
  try dsimp only
  repeat' with_reducible first
    | assumption
    | apply OutKept.event
    | apply OutKept.next
    | exact PairKept.left (by with_reducible assumption)
    | apply State.modWheel_kept
    | apply State.syncTime_kept
    | apply State.through_kept
    | apply event_kept
    | split
    | exact id
    | intro

theorem execPtpFollowUp_kept {h_ : PtpHead} {offset : Int} {sourceTime : Nat} (h : Kept q s) : OutKept q
    (execPtpFollowUp h_ offset sourceTime s) := by
  unfold execPtpFollowUp
  try dsimp only
  repeat' with_reducible first
    | assumption
    | apply OutKept.event
    | apply OutKept.next
    | exact PairKept.left (by with_reducible assumption)
    | apply State.syncTime_kept
    | apply State.through_kept
    | apply event_kept
    | split
    | exact id
    | intro

theorem Wheel.elected_position (w : Wheel) : w.elected.position = w.position := by
  unfold Wheel.elected
  split
  · rfl
  · split <;> rfl

theorem State.announced_kept {m : AnnounceMsg} (h : Kept q s) : Kept q (s.announced m) := by
  unfold State.announced
  split
  · exact h
  · exact State.modWheel_kept h fun e => by rw [Wheel.elected_position]; exact e

theorem execPtpAnnounce_kept {m : AnnounceMsg} (h : Kept q s) : OutKept q (execPtpAnnounce m s) := by
  unfold execPtpAnnounce
  refine State.through_kept h fun s h => ?_
  have k := State.announced_kept (m := m) h
  dsimp only
  refine OutKept.event h ?_
  split
  · exact State.modWheel_kept k id
  · exact k

theorem execPtpDelayResp_kept {m : DelayMsg} (h : Kept q s) : OutKept q (execPtpDelayResp m s) := by
  unfold execPtpDelayResp
  try dsimp only
  repeat' with_reducible first
    | assumption
    | apply OutKept.event
    | apply OutKept.next
    | exact PairKept.left (by with_reducible assumption)
    | apply State.modWheel_kept
    | apply State.through_kept
    | apply event_kept
    | split
    | exact id
    | intro

theorem execPpsEdge_kept {fromPredicted : Int} {offset : Int} (h : Kept q s) : OutKept q (execPpsEdge fromPredicted
    offset s) := by
  unfold execPpsEdge
  try dsimp only
  repeat' with_reducible first
    | assumption
    | apply OutKept.event
    | apply OutKept.next
    | exact PairKept.left (by assumption)
    | apply State.measured_kept
    | apply State.modWheel_kept
    | apply State.setTroubleBit_kept
    | split
    | exact id
    | intro

theorem execPpsEdgeTimeout_kept  (h : Kept q s) : OutKept q (execPpsEdgeTimeout s) := by
  unfold execPpsEdgeTimeout
  try dsimp only
  repeat' with_reducible first
    | assumption
    | apply OutKept.event
    | apply OutKept.next
    | exact PairKept.left (by assumption)
    | apply State.modWheel_kept
    | apply event_kept
    | split
    | exact id
    | intro

theorem execRefclkRangeChange_kept {inRange : Bool} (h : Kept q s) : OutKept q (execRefclkRangeChange inRange s) := by
  unfold execRefclkRangeChange
  try dsimp only
  repeat' with_reducible first
    | assumption
    | apply OutKept.next
    | apply State.modWheel_kept
    | apply State.setTroubleBit_kept
    | split
    | exact id

theorem execSourceLost_kept (h : Kept q s) : OutKept q (execSourceLost s) := by
  unfold execSourceLost
  try dsimp only
  repeat' with_reducible first
    | assumption
    | apply OutKept.next
    | apply State.modWheel_kept
    | apply State.loseSource_kept
    | split
    | exact id

theorem execWheelLocked_kept (h : Kept q s) : OutKept q (execWheelLocked s) := by
  unfold execWheelLocked
  try dsimp only
  repeat' with_reducible first
    | assumption
    | apply OutKept.event
    | apply State.modWheel_kept
    | exact id

theorem execWheelLearned_kept (h : Kept q s) : OutKept q (execWheelLearned s) := by
  unfold execWheelLearned
  try dsimp only
  repeat' with_reducible first
    | assumption
    | apply OutKept.event
    | apply State.modWheel_kept
    | exact id

theorem execHoldLimitExceeded_kept (h : Kept q s) : OutKept q (execHoldLimitExceeded s) := by
  unfold execHoldLimitExceeded
  try dsimp only
  repeat' with_reducible first
    | assumption
    | apply OutKept.event
    | apply State.setTroubleBit_kept
    | apply State.runFree_kept

theorem execSourcePriorityReturn_kept (h : Kept q s) : OutKept q (execSourcePriorityReturn s) := by
  unfold execSourcePriorityReturn
  try dsimp only
  repeat' with_reducible first
    | assumption
    | apply OutKept.event
    | apply State.acquire_kept

theorem execPpsOutRise_kept (h : Kept q s) : OutKept q (execPpsOutRise s) := by
  unfold execPpsOutRise
  try dsimp only
  repeat' with_reducible first
    | assumption
    | apply OutKept.event
    | refine Kept.ctor ?_ rfl rfl rfl rfl rfl rfl rfl rfl rfl rfl rfl rfl rfl rfl rfl rfl rfl rfl rfl rfl rfl rfl

theorem execPpsOutFall_kept (h : Kept q s) : OutKept q (execPpsOutFall s) := by
  unfold execPpsOutFall
  try dsimp only
  repeat' with_reducible first
    | assumption
    | apply OutKept.event
    | refine Kept.ctor ?_ rfl rfl rfl rfl rfl rfl rfl rfl rfl rfl rfl rfl rfl rfl rfl rfl rfl rfl rfl rfl rfl rfl

theorem execCascadeSyncSend_kept  (h : Kept q s) : OutKept q (execCascadeSyncSend s) := by
  unfold execCascadeSyncSend
  try dsimp only
  repeat' with_reducible first
    | assumption
    | apply OutKept.event
    | apply OutKept.next
    | exact PairKept.left (by with_reducible assumption)
    | apply State.modFabric_kept
    | apply State.send_kept
    | apply event_kept
    | split
    | exact id
    | intro

end Sys2Proof.Machine
end

