-- ==== Sys2Proof/Laws/KeptStreams.lean ====
section
/-! SUPPORT. Every operation of Machine/Streams.lean leaves the queue alone and keeps the state canonical. -/

namespace Sys2Proof.Machine

variable {q : List Instr} {s t : State}

theorem State.nextCopy_kept {c : Nat} {own : Nat} {chan : Nat} {d : StreamDesc} {h_ : Channel} (h : Kept q s) :
    PairKept q (State.nextCopy s c own chan d h_) := by
  unfold State.nextCopy
  try dsimp only
  repeat' with_reducible first
    | assumption
    | apply PairKept.foldl
    | apply PairKept.mk
    | exact PairKept.left (by with_reducible assumption)
    | apply State.readTable_kept
    | split
    | apply Kept.foldl
    | refine PairKept.fst (PairKept.foldl ?_ ?_)
    | refine PairKept.fst (PairKept.mk ?_)
    | exact id
    | intro


theorem State.readEntry_kept {who : Requester} {c : Nat} {own : Nat} {chan : Nat} {d : StreamDesc} {i : Nat} (h : Kept
    q s) : PairKept q (State.readEntry s who c own chan d i) := by
  unfold State.readEntry
  try dsimp only
  repeat' with_reducible first
    | assumption
    | apply PairKept.mk
    | refine PairKept.fst (State.readLocal_kept ?_)
    | refine PairKept.fst (State.streamRead_kept ?_)
    | split

theorem State.readEntries_kept {who : Requester} {c own chan : Nat} {d : StreamDesc} {l : List Nat} (h : Kept q s) :
    PairKept q (s.readEntries who c own chan d l) := by
  induction l generalizing s with
  | nil => exact h
  | cons i l ih =>
    have h1 : PairKept q (s.readEntry who c own chan d i) := State.readEntry_kept h
    unfold State.readEntries
    split
    · exact PairKept.mk (PairKept.of_eq h1 (by assumption))
    · have h2 := ih (PairKept.of_eq h1 (by assumption))
      split
      · exact PairKept.mk (PairKept.of_eq h2 (by assumption))
      · exact PairKept.mk (PairKept.of_eq h2 (by assumption))

theorem State.nextListed_kept {who : Requester} {c : Nat} {own : Nat} {chan : Nat} {d : StreamDesc} {h_ : Channel} (h
    : Kept q s) : PairKept q (State.nextListed s who c own chan d h_) := by
  unfold State.nextListed
  try dsimp only
  repeat' with_reducible first
    | assumption
    | apply PairKept.foldl
    | apply PairKept.mk
    | exact PairKept.left (by with_reducible assumption)
    | apply State.readEntries_kept
    | apply State.readTable_kept
    | split
    | apply Kept.foldl
    | (refine PairKept.of_eq ?_ (by with_reducible assumption); apply State.readEntries_kept)
    | refine PairKept.fst (State.readEntries_kept ?_)
    | refine PairKept.fst (PairKept.foldl ?_ ?_)
    | refine PairKept.fst (PairKept.mk ?_)
    | exact id
    | intro

theorem State.issue_kept {own : Nat} {chan : Nat} (h : Kept q s) : Kept q (State.issue s own chan) := by
  unfold State.issue
  try dsimp only
  repeat' with_reducible first
    | assumption
    | apply Kept.foldl
    | exact PairKept.left (by with_reducible assumption)
    | apply State.drop_kept
    | apply State.markLinks_kept
    | refine State.modChannel_kept ?_ (by with_unfolding_all exact id)
    | split
    | refine PairKept.fst (PairKept.foldl ?_ ?_)
    | exact id
    | intro

theorem State.headArrives_kept {own : Nat} {chan : Nat} (h : Kept q s) : Kept q (State.headArrives s own chan) := by
  unfold State.headArrives
  try dsimp only
  repeat' with_reducible first
    | assumption
    | refine State.modChannel_kept ?_ (by with_unfolding_all exact id)
    | apply State.haltChannel_kept
    | split

theorem State.fillQueue_kept {own : Nat} {chan : Nat} (h : Kept q s) : Kept q (State.fillQueue s own chan) := by
  unfold State.fillQueue
  dsimp only
  split
  · exact h
  · split
    · exact h
    · have k (l : List QueuedDesc) (n : Nat) (hl : l.length ≤ 16 - ((s.core (s.physical own)).channel chan).queue.length) :
          Kept q (s.modChannel (s.physical own) chan fun x => { x with queue := x.queue ++ l, backlog := x.backlog.drop n }) :=
        State.modChannel_kept h fun hf => by
          unfold Channel.Fits at *
          rw [List.length_append]
          omega
      split
      · exact State.headArrives_kept (k _ _ (List.length_take_le _ _))
      · exact k _ _ (List.length_take_le _ _)

theorem State.putDescriptor_kept {own : Nat} {chan : Nat} {q_ : QueuedDesc} (h : Kept q s) : Kept q
    (State.putDescriptor s own chan q_) := by
  unfold State.putDescriptor
  dsimp only
  split
  · exact h
  · have k : Kept q (s.modChannel (s.physical own) chan fun x => { x with
        queue := x.queue ++ [{ q_ with entry := x.enqueued }], enqueued := x.enqueued + 1 }) :=
      State.modChannel_kept h fun _ => by
        unfold Channel.Fits
        simp only [List.length_append, List.length_singleton]
        omega
    split
    · exact State.headArrives_kept k
    · exact k

theorem State.signal_kept {own : Nat} {counter : Nat} {n : Nat} (h : Kept q s) : OptKept q (State.signal s own counter
    n) := by
  unfold State.signal
  try dsimp only
  repeat' with_reducible first
    | assumption
    | apply OptKept.some
    | exact OptKept.none
    | apply OptKept.map
    | apply OptKept.foldl_bind
    | exact PairKept.left (by with_reducible assumption)
    | apply State.modCore_kept
    | split
    | refine fun c (hc : Core.Canonical c) => ?_
    | exact Core.canonical_of hc rfl rfl rfl rfl rfl rfl
    | exact { hc with barriers := swf_sput hc.barriers }
    | exact id
    | intro

theorem State.streamFails_kept {own : Nat} {chan : Nat} {c : Nat} {csn : Nat} {f : StreamFault} (h : Kept q s) : Kept
    q (State.streamFails s own chan c csn f) := by
  unfold State.streamFails
  try dsimp only
  repeat' with_reducible first
    | assumption
    | exact PairKept.left (by with_reducible assumption)
    | apply State.haltChannel_kept
    | apply State.trapAs_kept
    | apply State.trapAt_kept
    | split
    | exact id
    | intro

theorem execTranslationGroup_kept {own : Fin 240} {chan : Fin 16} (h : Kept q s) : OutKept q (execTranslationGroup own
    chan s) := by
  unfold execTranslationGroup
  try dsimp only
  repeat' with_reducible first
    | assumption
    | apply OutKept.event
    | apply OutKept.next
    | exact PairKept.left (by with_reducible assumption)
    | apply State.fillQueue_kept
    | apply State.issue_kept
    | apply State.markLinks_kept
    | refine State.modChannel_kept ?_ (by with_unfolding_all exact id)
    | apply State.nextCopy_kept
    | apply State.nextListed_kept
    | apply State.streamFails_kept
    | split
    | (refine PairKept.of_eq ?_ (by with_reducible assumption); apply State.nextCopy_kept)
    | (refine PairKept.of_eq ?_ (by with_reducible assumption); apply State.nextListed_kept)
    | (refine PairKept.of_eq ?_ (by with_reducible assumption); split)
    | refine PairKept.fst (State.nextCopy_kept ?_)
    | refine PairKept.fst (State.nextListed_kept ?_)
    | exact id
    | intro

theorem State.readPiece_kept {w : Piece} {c : Nat} {who : Requester} (h : Kept q s) : PairKept q (State.readPiece s w
    c who) := by
  unfold State.readPiece
  try dsimp only
  repeat' with_reducible first
    | assumption
    | apply PairKept.mk
    | exact PairKept.left (by with_reducible assumption)
    | apply State.readLocal_kept
    | apply State.streamRead_kept
    | split
    | (refine PairKept.of_eq ?_ (by with_reducible assumption); apply State.readLocal_kept)
    | (refine PairKept.of_eq ?_ (by with_reducible assumption); apply State.streamRead_kept)
    | refine PairKept.fst (State.readLocal_kept ?_)
    | refine PairKept.fst (State.streamRead_kept ?_)
    | refine PairKept.fst (PairKept.mk ?_)
    | exact id
    | intro

theorem State.pieceLost_kept {f : Flight} (h : Kept q s) : PairKept q (State.pieceLost s f) := by
  unfold State.pieceLost
  try dsimp only
  repeat' with_reducible first
    | assumption
    | apply PairKept.mk
    | exact PairKept.left (by with_reducible assumption)
    | apply State.partlyLost_kept
    | apply State.sliceUncorrectable_kept
    | split
    | (refine PairKept.of_eq ?_ (by with_reducible assumption); apply State.partlyLost_kept)
    | refine PairKept.fst (State.partlyLost_kept ?_)
    | refine PairKept.fst (PairKept.mk ?_)
    | exact id
    | intro

theorem State.writePiece_kept {f : Flight} {data : List Byte} (h : Kept q s) : Kept q (State.writePiece s f data) :=
    by
  unfold State.writePiece
  try dsimp only
  repeat' with_reducible first
    | assumption
    | apply State.writeLocal_kept
    | apply State.streamWrite_kept
    | split

theorem State.pieceEnded_kept {own : Nat} {chan : Nat} (h : Kept q s) : Kept q (State.pieceEnded s own chan) :=
  State.releaseUnmaps_kept (State.fillQueue_kept (State.modCore_kept (State.modChannel_kept h Channel.atRest_fits)
    fun _ => Core.settled_canonical))

theorem execPieceComplete_kept {own : Fin 240} {chan : Fin 16} {n : Nat} (h : Kept q s) : OutKept q (execPieceComplete
    own chan n s) := by
  unfold execPieceComplete
  try dsimp only
  repeat' with_reducible first
    | assumption
    | apply OutKept.event
    | apply OutKept.next
    | exact PairKept.left (by with_reducible assumption)
    | apply State.countStale_kept
    | refine State.modChannel_kept ?_ (by with_unfolding_all exact id)
    | apply State.number_kept
    | apply State.pieceEnded_kept
    | apply State.pieceLost_kept
    | apply State.readPiece_kept
    | apply State.streamFails_kept
    | apply State.writePiece_kept
    | split
    | (refine PairKept.of_eq ?_ (by with_reducible assumption); apply State.pieceLost_kept)
    | (refine PairKept.of_eq ?_ (by with_reducible assumption); apply State.readPiece_kept)
    | (refine PairKept.of_eq ?_ (by with_reducible assumption); split)
    | refine PairKept.fst (State.pieceLost_kept ?_)
    | refine PairKept.fst (State.readPiece_kept ?_)
    | exact id
    | intro

theorem execDescriptorComplete_kept {own : Fin 240} {chan : Fin 16} (h : Kept q s) : OutKept q (execDescriptorComplete
    own chan s) := by
  unfold execDescriptorComplete
  dsimp only
  split
  · exact OutKept.next h
  · rename_i x rest hq
    have go {t : State} (k : Kept q t) : Kept q (((t.modChannel (s.physical own) chan fun h =>
        { h with queue := rest, done := saturate32 (h.done + 1), issuing := false }).headArrives own chan).fillQueue own chan) :=
      State.fillQueue_kept (State.headArrives_kept (State.modChannel_kept k fun _ => by
        have hf : Channel.Fits ((s.core (s.physical own)).channel chan) := Core.channel_fits (h.core _)
        unfold Channel.Fits at *
        rw [hq, List.length_cons] at hf
        dsimp only
        omega))
    repeat' with_reducible first
      | apply OutKept.next
      | exact go h
      | exact go (OptKept.of_eq (State.signal_kept h) (by assumption))
      | assumption
      | apply State.haltChannel_kept
      | split

theorem execBarrierWaitRelease_kept {own : Fin 240} {chan : Fin 16} (h : Kept q s) : OutKept q (execBarrierWaitRelease
    own chan s) := by
  unfold execBarrierWaitRelease
  try dsimp only
  repeat' with_reducible first
    | assumption
    | apply OutKept.event
    | apply OutKept.next
    | refine State.modChannel_kept ?_ (by with_unfolding_all exact id)
    | split

theorem State.startGroup_kept {p : Plan} {item : Nat} {c : Nat} {csn : Nat} {action : Nat} {own : Nat} (h : Kept q s)
    : Kept q (State.startGroup s p item c csn action own) := by
  unfold State.startGroup
  try dsimp only
  repeat' with_reducible first
    | assumption
    | apply Kept.foldl
    | refine State.modChannel_kept ?_ (by with_unfolding_all exact id)
    | apply State.fillQueue_kept
    | intro

end Sys2Proof.Machine
end

