-- ==== Sys2Proof/Laws/KeptCoreOps.lean ====
section
/-! SUPPORT. Every operation of Machine/CoreOps.lean leaves the queue alone and keeps the state canonical. -/

namespace Sys2Proof.Machine

variable {q : List Instr} {s t : State}

/-- The state that an instruction leaves, whether it goes on or traps. -/
def RanKept (q : List Instr) (r : Ran) : Prop :=
  match r with
  | .ok s => Kept q s
  | .trap s _ _ => Kept q s

/-- The state that a read of core-local memory leaves. -/
def GotKept (q : List Instr) (r : Got) : Prop :=
  match r with
  | .ok s _ => Kept q s
  | .trap s _ _ => Kept q s

theorem RanKept.ok (h : Kept q s) : RanKept q (.ok s) := h
theorem RanKept.trap {c a : Nat} (h : Kept q s) : RanKept q (.trap s c a) := h
theorem RanKept.of_ok {r : Ran} (h : RanKept q r) (e : r = .ok t) : Kept q t := by subst e; exact h
theorem RanKept.of_trap {r : Ran} {c a : Nat} (h : RanKept q r) (e : r = .trap t c a) : Kept q t := by subst e; exact h
theorem GotKept.ok {d : List Byte} (h : Kept q s) : GotKept q (.ok s d) := h
theorem GotKept.trap {c a : Nat} (h : Kept q s) : GotKept q (.trap s c a) := h
theorem GotKept.of_ok {r : Got} {d : List Byte} (h : GotKept q r) (e : r = .ok t d) : Kept q t := by subst e; exact h
theorem GotKept.of_trap {r : Got} {c a : Nat} (h : GotKept q r) (e : r = .trap t c a) : Kept q t := by subst e; exact h

theorem State.onCore_kept {own : Nat} {f : Core → Core} (h : Kept q s) (hf : ∀ c, c.Canonical → (f c).Canonical) :
    Kept q (s.onCore own f) := State.modCore_kept h hf


theorem State.advance_kept {own : Nat} (h : Kept q s) : Kept q (State.advance s own) := by
  unfold State.advance
  try dsimp only
  repeat' with_reducible first
    | assumption
    | refine Core.canonical_ctor ?_ rfl rfl rfl rfl rfl rfl
    | apply State.onCore_kept
    | refine fun c (hc : Core.Canonical c) => ?_

theorem State.decode_kept {own cls op : Nat} {ic : Bool} {run : CoreWord → State → State} (h : Kept q s)
    (hr : ∀ w, Kept q (run w s)) : OutKept q (s.decode own cls op ic run) := by
  unfold State.decode
  dsimp only
  split
  · exact OutKept.next h
  · split
    · exact OutKept.next h
    · split
      · exact OutKept.next (State.trap_kept h)
      · repeat' split
        · exact OutKept.next (State.trap_kept h)
        · exact OutKept.next h
        · exact OutKept.next (State.trap_kept h)
        · exact OutKept.next (State.advance_kept h)
        · exact OutKept.next (hr _)

theorem Ran.finish_kept {own k : Nat} {r : Ran} (h : RanKept q r) : Kept q (r.finish own k) := by
  cases r with
  | ok s => exact State.advance_kept (State.onCore_kept h fun _ hc => Core.canonical_of hc rfl rfl rfl rfl rfl rfl)
  | trap s c a => exact State.trap_kept h

theorem State.race_kept {own : Nat} {q_ : Nat} {x : Nat} {data : List Byte} (h : Kept q s) : PairKept q (State.race s
    own q_ x data) := by
  unfold State.race
  try dsimp only
  repeat' with_reducible first
    | assumption
    | apply PairKept.foldl
    | apply PairKept.mk
    | exact PairKept.left (by assumption)
    | split
    | refine Kept.ctor ?_ rfl rfl rfl rfl rfl rfl rfl rfl rfl rfl rfl rfl rfl rfl rfl rfl rfl rfl rfl rfl rfl rfl
    | intro

theorem State.fetchLocal_kept {own : Nat} {q_ : Nat} {x : Nat} {n : Nat} (h : Kept q s) : GotKept q (State.fetchLocal
    s own q_ x n) := by
  unfold State.fetchLocal
  try dsimp only
  repeat' with_reducible first
    | assumption
    | apply GotKept.ok
    | apply GotKept.trap
    | refine PairKept.of_eq (State.readLocal_kept ?_) (by assumption)
    | refine PairKept.fst (State.race_kept ?_)
    | split

theorem State.openLines_kept {own : Nat} {q_ : Nat} {x : Nat} {n : Nat} (h : Kept q s) : Kept q (State.openLines s own
    q_ x n) := by
  unfold State.openLines
  try dsimp only
  repeat' with_reducible first
    | assumption
    | split
    | refine Core.canonical_ctor ?_ rfl rfl rfl rfl rfl rfl
    | apply Kept.foldl
    | apply State.modCore_kept
    | refine fun c (hc : Core.Canonical c) => ?_
    | intro

theorem State.storeLocal_kept {own : Nat} {q_ : Nat} {x : Nat} {data : List Byte} (h : Kept q s) : RanKept q
    (State.storeLocal s own q_ x data) := by
  unfold State.storeLocal
  try dsimp only
  repeat' with_reducible first
    | assumption
    | apply RanKept.ok
    | apply RanKept.trap
    | exact PairKept.left (by with_reducible assumption)
    | apply State.openLines_kept
    | apply State.sliceUncorrectable_kept
    | apply State.trap_kept
    | apply State.writeLocal_kept
    | split
    | exact id
    | intro

theorem Core.setLane_canonical {x : Core} {r i : Nat} {v : Word} (h : x.Canonical) : (x.setLane r i v).Canonical :=
  { h with vregs := swf_sput h.vregs }

theorem Core.putWords_canonical {x : Core} {r : Nat} {l : List Word} (h : x.Canonical) : Core.Canonical (Core.putWords
    x r l) := by
  unfold Core.putWords
  try dsimp only
  repeat' with_reducible first
    | assumption
    | apply Core.setLane_canonical
    | apply Core.canonical_foldl
    | intro

theorem Core.emptied_canonical {x : Core} {mask : Nat} (h : x.Canonical) : Core.Canonical (Core.emptied x mask) := by
  unfold Core.emptied
  try dsimp only
  repeat' with_reducible first
    | assumption
    | refine Core.canonical_ctor ?_ rfl rfl rfl rfl rfl rfl

end Sys2Proof.Machine
end

