-- ==== Sys2Proof/Laws/KeptArray.lean ====
section
/-! SUPPORT. Every operation of Machine/Array.lean leaves the queue alone and keeps the state canonical. -/

namespace Sys2Proof.Machine

variable {q : List Instr} {s t : State}

theorem Core.modTile_canonical {x : Core} {t : Nat} {f : Tile → Tile} (h : x.Canonical) : Core.Canonical (Core.modTile
    x t f) := by
  unfold Core.modTile
  try dsimp only
  repeat' with_reducible first
    | assumption
    | apply Core.setTile_canonical

theorem Core.setSum_canonical {x : Core} {d t bank n j : Nat} {int : Bool} {w : Word} (h : x.Canonical) :
    (x.setSum d t bank n j int w).Canonical :=
  { h with sums := swf_sput h.sums, integers := swf_sput h.integers }

theorem modeRun_kept {own : Nat} {w : CoreWord} (h : Kept q s) : RanKept q (modeRun own w s) := by
  unfold modeRun
  try dsimp only
  repeat' with_reducible first
    | assumption
    | split
    | refine Core.canonical_ctor ?_ rfl rfl rfl rfl rfl rfl
    | apply RanKept.ok
    | apply RanKept.trap
    | apply State.onCore_kept
    | refine fun c (hc : Core.Canonical c) => ?_

theorem execMode_kept {core : Fin 240} (h : Kept q s) : OutKept q (execMode core s) := by
  unfold execMode
  try dsimp only
  repeat' with_reducible first
    | assumption
    | refine State.decode_kept ?_ fun w => ?_
    | apply Ran.finish_kept
    | apply modeRun_kept

theorem loadstatRun_kept {own : Nat} {w : CoreWord} (h : Kept q s) : RanKept q (loadstatRun own w s) := by
  unfold loadstatRun
  try dsimp only
  repeat' with_reducible first
    | assumption
    | apply Core.modTile_canonical
    | apply Core.canonical_foldl
    | split
    | apply RanKept.ok
    | apply RanKept.trap
    | apply State.onCore_kept
    | refine GotKept.of_ok (State.fetchLocal_kept ?_) (by assumption)
    | refine GotKept.of_trap (State.fetchLocal_kept ?_) (by assumption)
    | refine fun c (hc : Core.Canonical c) => ?_
    | intro

theorem execLoadstat_kept {core : Fin 240} (h : Kept q s) : OutKept q (execLoadstat core s) := by
  unfold execLoadstat
  try dsimp only
  repeat' with_reducible first
    | assumption
    | refine State.decode_kept ?_ fun w => ?_
    | apply Ran.finish_kept
    | apply loadstatRun_kept

theorem Core.pass_canonical {x : Core} {code : Nat} {d : Nat} {t : Nat} {bank : Nat} {n : Nat} {add : Bool} {data :
    List Byte} (h : x.Canonical) : Core.Canonical (Core.pass x code d t bank n add data) := by
  unfold Core.pass
  try dsimp only
  repeat' with_reducible first
    | assumption
    | apply Core.setSum_canonical
    | apply Core.canonical_foldl
    | split
    | intro

theorem passRun_kept {own : Nat} {w : CoreWord} (h : Kept q s) : RanKept q (passRun own w s) := by
  unfold passRun
  try dsimp only
  repeat' with_reducible first
    | assumption
    | apply Core.modTile_canonical
    | apply Core.pass_canonical
    | apply Core.canonical_foldl
    | split
    | apply RanKept.ok
    | apply RanKept.trap
    | apply State.onCore_kept
    | refine GotKept.of_ok (State.fetchLocal_kept ?_) (by assumption)
    | refine GotKept.of_trap (State.fetchLocal_kept ?_) (by assumption)
    | refine fun c (hc : Core.Canonical c) => ?_
    | intro

theorem execPass_kept {core : Fin 240} (h : Kept q s) : OutKept q (execPass core s) := by
  unfold execPass
  try dsimp only
  repeat' with_reducible first
    | assumption
    | refine State.decode_kept ?_ fun w => ?_
    | apply Ran.finish_kept
    | apply passRun_kept

theorem Core.osPass_canonical {x : Core} {code : Nat} {d : Nat} {t : Nat} {bank : Nat} {k : Nat} {xs : List Byte} {ws
    : List Byte} (h : x.Canonical) : Core.Canonical (Core.osPass x code d t bank k xs ws) := by
  unfold Core.osPass
  try dsimp only
  repeat' with_reducible first
    | assumption
    | apply Core.setSum_canonical
    | apply Core.canonical_foldl
    | intro

theorem ospassRun_kept {own : Nat} {w : CoreWord} (h : Kept q s) : RanKept q (ospassRun own w s) := by
  unfold ospassRun
  try dsimp only
  repeat' with_reducible first
    | assumption
    | apply Core.osPass_canonical
    | apply Core.canonical_foldl
    | split
    | apply RanKept.ok
    | apply RanKept.trap
    | apply State.onCore_kept
    | refine GotKept.of_ok (State.fetchLocal_kept ?_) (by assumption)
    | refine GotKept.of_trap (State.fetchLocal_kept ?_) (by assumption)
    | refine fun c (hc : Core.Canonical c) => ?_
    | intro

theorem execOspass_kept {core : Fin 240} (h : Kept q s) : OutKept q (execOspass core s) := by
  unfold execOspass
  try dsimp only
  repeat' with_reducible first
    | assumption
    | refine State.decode_kept ?_ fun w => ?_
    | apply Ran.finish_kept
    | apply ospassRun_kept

theorem drainVector_kept {own : Nat} {w : CoreWord} {sums : List Word} (h : Kept q s) : RanKept q (drainVector own w
    sums s) := by
  unfold drainVector
  try dsimp only
  repeat' with_reducible first
    | assumption
    | apply Core.putWords_canonical
    | split
    | apply RanKept.ok
    | apply RanKept.trap
    | apply State.onCore_kept
    | refine fun c (hc : Core.Canonical c) => ?_

theorem drainRun_kept {own : Nat} {w : CoreWord} (h : Kept q s) : RanKept q (drainRun own w s) := by
  unfold drainRun
  try dsimp only
  repeat' with_reducible first
    | assumption
    | apply RanKept.ok
    | apply RanKept.trap
    | apply State.storeLocal_kept
    | apply drainVector_kept
    | split

theorem execDrain_kept {core : Fin 240} (h : Kept q s) : OutKept q (execDrain core s) := by
  unfold execDrain
  try dsimp only
  repeat' with_reducible first
    | assumption
    | refine State.decode_kept ?_ fun w => ?_
    | apply Ran.finish_kept
    | apply drainRun_kept

theorem Core.elem_canonical {x : Core} {t : Nat} {bank : Nat} {f : Nat} {op : Nat} {n : Nat} {as : List Byte} {bs :
    List Byte} (h : x.Canonical) : Core.Canonical (Core.elem x t bank f op n as bs) := by
  unfold Core.elem
  try dsimp only
  repeat' with_reducible first
    | assumption
    | apply Core.setSum_canonical
    | apply Core.canonical_foldl
    | intro

theorem elemRun_kept {own : Nat} {w : CoreWord} (h : Kept q s) : RanKept q (elemRun own w s) := by
  unfold elemRun
  try dsimp only
  repeat' with_reducible first
    | assumption
    | apply Core.elem_canonical
    | apply Core.canonical_foldl
    | split
    | apply RanKept.ok
    | apply RanKept.trap
    | apply State.onCore_kept
    | refine GotKept.of_ok (State.fetchLocal_kept ?_) (by assumption)
    | refine GotKept.of_trap (State.fetchLocal_kept ?_) (by assumption)
    | refine fun c (hc : Core.Canonical c) => ?_
    | intro

theorem execElem_kept {core : Fin 240} (h : Kept q s) : OutKept q (execElem core s) := by
  unfold execElem
  try dsimp only
  repeat' with_reducible first
    | assumption
    | refine State.decode_kept ?_ fun w => ?_
    | apply Ran.finish_kept
    | apply elemRun_kept

end Sys2Proof.Machine
end

