-- ==== Sys2Proof/Laws/KeptResume.lean ====
section
/-! SUPPORT. Every operation of Machine/Resume.lean leaves the queue untouched and a canonical state canonical. -/

namespace Sys2Proof.Machine

variable {q : List Instr} {s : State}

theorem State.saveChannel_kept {c : Nat} {csn : Nat} {i : Nat} {k : Nat} {chan : Nat} (h : Kept q s) : Kept q
    (State.saveChannel s c csn i k chan) := by
  unfold State.saveChannel
  try dsimp only
  repeat' with_reducible first
    | assumption
    | exact PairKept.left (by with_reducible assumption)
    | apply State.fillQueue_kept
    | apply State.headArrives_kept
    | refine State.modChannel_kept ?_ (by intro hf; with_unfolding_all exact Nat.le_trans (List.length_filter_le _ _) hf)
    | apply State.modCmd_kept
    | split
    | exact id
    | intro


theorem State.saveChannels_kept {c : Nat} {csn : Nat} {i : Nat} (h : Kept q s) : Kept q (State.saveChannels s c csn i)
    := by
  unfold State.saveChannels
  try dsimp only
  repeat' with_reducible first
    | assumption
    | apply Kept.foldl
    | exact PairKept.left (by with_reducible assumption)
    | apply State.modCmd_kept
    | apply State.saveChannel_kept
    | split
    | refine PairKept.fst (PairKept.foldl ?_ ?_)
    | exact id
    | intro

theorem State.setAside_kept {c : Nat} {csn : Nat} {i : Nat} (h : Kept q s) : Kept q (State.setAside s c csn i) := by
  unfold State.setAside
  try dsimp only
  repeat' with_reducible first
    | assumption
    | exact PairKept.left (by with_reducible assumption)
    | apply State.modCmd_kept
    | apply State.saveChannels_kept
    | split
    | exact id
    | intro

theorem State.setAsideAll_kept {c : Nat} {csn : Nat} {p : ActionRun → Bool} (h : Kept q s) : Kept q (State.setAsideAll
    s c csn p) := by
  unfold State.setAsideAll
  try dsimp only
  repeat' with_reducible first
    | assumption
    | apply Kept.foldl
    | exact PairKept.left (by with_reducible assumption)
    | apply State.setAside_kept
    | split
    | refine PairKept.fst (PairKept.foldl ?_ ?_)
    | exact id
    | intro

theorem State.restoreChannels_kept {c : Nat} {csn : Nat} {i : Nat} {l : List SavedChannel} (h : Kept q s) : Kept q
    (State.restoreChannels s c csn i l) := by
  unfold State.restoreChannels
  try dsimp only
  repeat' with_reducible first
    | assumption
    | apply Kept.foldl
    | exact PairKept.left (by with_reducible assumption)
    | apply State.fillQueue_kept
    | refine State.modChannel_kept ?_ (by with_unfolding_all exact id)
    | apply State.modCmd_kept
    | split
    | refine PairKept.fst (PairKept.foldl ?_ ?_)
    | exact id
    | intro

theorem State.resumeSuspended_kept {c : Nat} {csn : Nat} (h : Kept q s) : Kept q (State.resumeSuspended s c csn) := by
  unfold State.resumeSuspended
  try dsimp only
  repeat' with_reducible first
    | assumption
    | exact PairKept.left (by with_reducible assumption)
    | apply State.modCmd_kept
    | apply State.rebook_kept
    | apply State.sendResumed_kept
    | apply State.setAsideAll_kept
    | split
    | exact id
    | intro

theorem State.resumeAll_kept {c : Nat} (h : Kept q s) : Kept q (State.resumeAll s c) := by
  unfold State.resumeAll
  try dsimp only
  repeat' with_reducible first
    | assumption
    | apply Kept.foldl
    | exact PairKept.left (by with_reducible assumption)
    | apply State.resumeSuspended_kept
    | split
    | refine PairKept.fst (PairKept.foldl ?_ ?_)
    | exact id
    | intro

theorem State.resumeEverywhere_kept  (h : Kept q s) : Kept q (State.resumeEverywhere s) := by
  unfold State.resumeEverywhere
  try dsimp only
  repeat' with_reducible first
    | assumption
    | apply Kept.foldl
    | exact PairKept.left (by with_reducible assumption)
    | apply State.resumeAll_kept
    | split
    | refine PairKept.fst (PairKept.foldl ?_ ?_)
    | exact id
    | intro

end Sys2Proof.Machine
end

