-- ==== Sys2Proof/Laws/KeptPageCommands.lean ====
section
/-! SUPPORT. Every operation of Machine/PageCommands.lean leaves the queue alone and keeps the state canonical. -/

namespace Sys2Proof.Machine

variable {q : List Instr} {s t : State}

theorem bodyPageMap_kept {f : Frame} {c : Nat} (h : Kept q s) : HandledKept q (bodyPageMap f c s) := by
  unfold bodyPageMap
  try dsimp only
  repeat' with_reducible first
    | assumption
    | apply HandledKept.checked
    | apply HandledKept.zeroField
    | apply HandledKept.done
    | apply HandledKept.reply
    | apply HandledKept.later
    | apply Kept.foldl
    | exact PairKept.left (by with_reducible assumption)
    | apply State.mapPage_kept
    | apply State.resumeEverywhere_kept
    | apply done_kept
    | refine HandledKept.of_reply (done_kept ?_) (by with_reducible assumption)
    | refine HandledKept.of_later (done_kept ?_) (by with_reducible assumption)
    | refine HandledKept.state (done_kept ?_)
    | split
    | refine PairKept.fst (PairKept.foldl ?_ ?_)
    | exact id
    | intro

theorem bodyPageUnmap_kept {f : Frame} {c : Nat} (h : Kept q s) : HandledKept q (bodyPageUnmap f c s) := by
  unfold bodyPageUnmap
  try dsimp only
  repeat' with_reducible first
    | assumption
    | apply HandledKept.checked
    | apply HandledKept.zeroField
    | apply State.unmapThen_kept

theorem bodyPageRetire_kept {f : Frame} (h : Kept q s) : HandledKept q (bodyPageRetire f s) := by
  unfold bodyPageRetire
  try dsimp only
  repeat' with_reducible first
    | assumption
    | apply Kept.foldl
    | apply HandledKept.checked
    | apply HandledKept.zeroField
    | apply HandledKept.done
    | apply State.retirePending_kept
    | intro

theorem bodySegRetire_kept {f : Frame} (h : Kept q s) : HandledKept q (bodySegRetire f s) := by
  unfold bodySegRetire
  try dsimp only
  repeat' with_reducible first
    | assumption
    | apply Kept.foldl
    | apply HandledKept.checked
    | apply HandledKept.zeroField
    | apply HandledKept.done
    | apply State.retireSegment_kept
    | intro

theorem bodySegRecode_kept {f : Frame} {stream : Nat} (h : Kept q s) : HandledKept q (bodySegRecode f stream s) := by
  unfold bodySegRecode
  try dsimp only
  repeat' with_reducible first
    | assumption
    | apply HandledKept.checked
    | apply HandledKept.zeroField
    | apply HandledKept.later
    | apply State.stage_kept

theorem State.newArea_kept {c : Nat} {a : SeqArea} (h : Kept q s) : Kept q (s.newArea c a) :=
  State.writeOwn_kept (State.writeOwn_kept (State.modContext_kept h fun _ _ => rfl))

theorem bodySeqArea_kept {f : Frame} {c : Nat} (h : Kept q s) : HandledKept q (bodySeqArea f c s) := by
  unfold bodySeqArea
  try dsimp only
  repeat' with_reducible first
    | assumption
    | apply HandledKept.checked
    | apply HandledKept.zeroField
    | apply HandledKept.done
    | apply HandledKept.reply
    | apply HandledKept.later
    | exact PairKept.left (by with_reducible assumption)
    | apply State.afterSplits_kept
    | apply State.newArea_kept
    | apply done_kept
    | refine HandledKept.of_reply (done_kept ?_) (by with_reducible assumption)
    | refine HandledKept.of_later (done_kept ?_) (by with_reducible assumption)
    | refine HandledKept.state (done_kept ?_)
    | split
    | exact id
    | intro

theorem bodySeqOpen_kept {f : Frame} {c : Nat} (h : Kept q s) : HandledKept q (bodySeqOpen f c s) := by
  unfold bodySeqOpen
  try dsimp only
  repeat' with_reducible first
    | assumption
    | apply HandledKept.checked
    | apply HandledKept.done
    | apply State.modSeq_kept

theorem bodySeqExtend_kept {f : Frame} {c : Nat} (h : Kept q s) : HandledKept q (bodySeqExtend f c s) := by
  unfold bodySeqExtend
  try dsimp only
  repeat' with_reducible first
    | assumption
    | apply HandledKept.checked
    | apply HandledKept.zeroField
    | apply HandledKept.done
    | apply HandledKept.reply
    | apply HandledKept.later
    | exact PairKept.left (by with_reducible assumption)
    | apply State.grow_kept
    | refine OptKept.of_eq (State.grow_kept ?_) (by with_reducible assumption)
    | refine OptKept.getD (State.grow_kept ?_) ?_
    | apply State.modStagedGroups_kept
    | apply done_kept
    | refine HandledKept.of_reply (done_kept ?_) (by with_reducible assumption)
    | refine HandledKept.of_later (done_kept ?_) (by with_reducible assumption)
    | refine HandledKept.state (done_kept ?_)
    | split
    | exact id
    | intro

theorem bodySeqTrim_kept {f : Frame} {c : Nat} (h : Kept q s) : HandledKept q (bodySeqTrim f c s) := by
  unfold bodySeqTrim
  try dsimp only
  repeat' with_reducible first
    | assumption
    | apply HandledKept.checked
    | apply State.unmapThen_kept
    | apply State.modSeq_kept
    | apply State.dropEntries_kept

theorem bodySeqClose_kept {f : Frame} {c : Nat} (h : Kept q s) : HandledKept q (bodySeqClose f c s) := by
  unfold bodySeqClose
  try dsimp only
  repeat' with_reducible first
    | assumption
    | apply HandledKept.checked
    | apply State.unmapThen_kept
    | apply State.modSeq_kept

end Sys2Proof.Machine
end

