-- ==== Sys2Proof/Laws/KeptPrograms.lean ====
section
/-! SUPPORT. Every operation of Machine/Programs.lean leaves the queue untouched and a canonical state canonical. -/

namespace Sys2Proof.Machine

variable {q : List Instr} {s : State}

theorem State.dropBlocks_kept {p : Nat} (h : Kept q s) : Kept q (State.dropBlocks s p) := by
  unfold State.dropBlocks
  try dsimp only
  repeat' with_reducible first
    | assumption
    | exact PairKept.left (by with_reducible assumption)
    | apply State.modCore_kept
    | split
    | refine fun c (hc : Core.Canonical c) => ?_
    | exact Core.canonical_of hc rfl rfl rfl rfl rfl rfl
    | exact id
    | intro


theorem State.placeBlock_kept {p : Nat} {c : Nat} {id : Nat} {offset : Nat} {instrs : List CoreWord} (h : Kept q s) :
    Kept q (State.placeBlock s p c id offset instrs) := by
  unfold State.placeBlock
  try dsimp only
  repeat' with_reducible first
    | assumption
    | apply Kept.foldl
    | exact PairKept.left (by with_reducible assumption)
    | apply State.modCore_kept
    | apply State.writeLocal_kept
    | split
    | refine fun c (hc : Core.Canonical c) => ?_
    | exact Core.canonical_of hc rfl rfl rfl rfl rfl rfl
    | refine PairKept.fst (PairKept.foldl ?_ ?_)
    | exact id
    | intro


theorem State.placeBlocks_kept {c : Nat} {q_ : Plan} {k : Nat} (h : Kept q s) : Kept q (State.placeBlocks s c q_ k) :=
    by
  unfold State.placeBlocks
  try dsimp only
  repeat' with_reducible first
    | assumption
    | apply Kept.foldl
    | exact PairKept.left (by with_reducible assumption)
    | apply State.dropBlocks_kept
    | apply State.placeBlock_kept
    | split
    | apply Core.dropBlocks_canonical
    | refine PairKept.fst (PairKept.foldl ?_ ?_)
    | exact id
    | intro

theorem State.rebuildPrograms_kept {k : Nat} (h : Kept q s) : Kept q (State.rebuildPrograms s k) := by
  unfold State.rebuildPrograms
  try dsimp only
  repeat' with_reducible first
    | assumption
    | apply Kept.foldl
    | exact PairKept.left (by with_reducible assumption)
    | apply State.modCore_kept
    | apply State.placeBlocks_kept
    | split
    | refine fun c (hc : Core.Canonical c) => ?_
    | exact Core.canonical_of hc rfl rfl rfl rfl rfl rfl
    | refine PairKept.fst (PairKept.foldl ?_ ?_)
    | exact id
    | intro

theorem State.readProgram_kept {p : Nat} {l : List Nat} (h : Kept q s) : PairKept q (s.readProgram p l) := by
  induction l generalizing s with
  | nil => exact h
  | cons a l ih => exact (ih (State.readLocal_kept h).fst : PairKept q _)

end Sys2Proof.Machine
end

