-- ==== Sys2Proof/Laws/KeptWake.lean ====
section
/-! SUPPORT. Every operation of Machine/Wake.lean leaves the queue untouched and a canonical state canonical. -/

namespace Sys2Proof.Machine

variable {q : List Instr} {s : State}

theorem State.portDown_kept  (h : Kept q s) : Kept q (State.portDown s) := by
  unfold State.portDown
  try dsimp only
  repeat' with_reducible first
    | assumption
    | exact PairKept.left (by with_reducible assumption)
    | apply State.modDev_kept
    | apply State.setTroubleBit_kept
    | split
    | exact id
    | intro


theorem State.portDrops_kept  (h : Kept q s) : Kept q (State.portDrops s) := by
  unfold State.portDrops
  try dsimp only
  repeat' with_reducible first
    | assumption
    | exact PairKept.left (by with_reducible assumption)
    | apply State.setTroubleBit_kept
    | apply State.modDev_kept
    | apply State.portDown_kept
    | split
    | exact id
    | intro

theorem State.portTrained_kept (h : Kept q s) : Kept q (State.portTrained s) := by
  unfold State.portTrained
  exact State.modDev_kept h id id

theorem State.startWake_kept {k : Nat} (h : Kept q s) : Kept q (State.startWake s k) := by
  unfold State.startWake
  try dsimp only
  repeat' with_reducible first
    | assumption
    | exact PairKept.left (by with_reducible assumption)
    | apply State.modDomain_kept
    | apply State.portDown_kept
    | split
    | exact id
    | intro

theorem State.wakeStacks_kept {shares : Nat} (h : Kept q s) : Kept q (State.wakeStacks s shares) := by
  unfold State.wakeStacks
  try dsimp only
  repeat' with_reducible first
    | assumption
    | apply Kept.foldl
    | exact PairKept.left (by with_reducible assumption)
    | apply State.startWake_kept
    | split
    | refine PairKept.fst (PairKept.foldl ?_ ?_)
    | exact id
    | intro

end Sys2Proof.Machine
end

