-- ==== Sys2Proof/Laws/KeptDomains.lean ====
section
/-! SUPPORT. Every operation of Machine/Domains.lean leaves the queue alone and keeps the state canonical. -/

namespace Sys2Proof.Machine

variable {q : List Instr} {s t : State}

theorem State.loseCore_kept {p : Nat} (h : Kept q s) : Kept q (s.loseCore p) :=
  State.modCore_kept (State.clearKey_kept h) fun _ _ => by constructor <;> first | exact Family.nil | rfl

theorem State.switchOff_kept {k : Nat} {byDoze : Bool} {gated : Bool} (h : Kept q s) : Kept q (State.switchOff s k
    byDoze gated) := by
  unfold State.switchOff
  try dsimp only
  repeat' with_reducible first
    | assumption
    | apply Kept.foldl
    | apply State.clearKey_kept
    | apply State.modStack_kept
    | apply State.modHopper_kept
    | apply State.modDomain_kept
    | apply State.dropLines_kept
    | apply State.loseCore_kept
    | apply State.portDrops_kept
    | split
    | refine fun c (hc : Stack.Canonical c) => ?_
    | exact Stack.canonical_of hc rfl rfl rfl
    | intro

theorem State.rewriteAreas_kept {die : Nat} (h : Kept q s) : Kept q (State.rewriteAreas s die) := by
  unfold State.rewriteAreas
  try dsimp only
  repeat' with_reducible first
    | assumption
    | apply Kept.foldl
    | exact PairKept.left (by with_reducible assumption)
    | apply State.writeOwn_kept
    | apply State.writeSlot_kept
    | split
    | refine PairKept.fst (PairKept.foldl ?_ ?_)
    | exact id
    | intro

theorem State.wakeEnds_kept {k : Nat} (h : Kept q s) : Kept q (State.wakeEnds s k) := by
  unfold State.wakeEnds
  try dsimp only
  repeat' with_reducible first
    | assumption
    | apply Kept.foldl
    | exact PairKept.left (by with_reducible assumption)
    | apply State.modCore_kept
    | apply State.portTrained_kept
    | apply State.modDomain_kept
    | apply State.modHopper_kept
    | apply State.modStack_kept
    | apply State.rebuildPrograms_kept
    | apply State.rewriteAreas_kept
    | split
    | refine fun c (hc : Core.Canonical c) => ?_
    | exact Core.canonical_of hc rfl rfl rfl rfl rfl rfl
    | refine fun c (hc : Stack.Canonical c) => ?_
    | exact Stack.canonical_of hc rfl rfl rfl
    | refine PairKept.fst (PairKept.foldl ?_ ?_)
    | exact id
    | intro

theorem State.followClaims_kept (h : Kept q s) : Kept q (State.followClaims s) := by
  unfold State.followClaims
  try dsimp only
  repeat' with_reducible first
    | assumption
    | apply Kept.foldl
    | apply State.modDomain_kept
    | apply State.switchOff_kept
    | apply State.startWake_kept
    | split
    | intro

theorem bodyPowerDomain_kept {f : Frame} (h : Kept q s) : HandledKept q (bodyPowerDomain f s) := by
  unfold bodyPowerDomain
  try dsimp only
  repeat' with_reducible first
    | assumption
    | apply Kept.foldl
    | apply HandledKept.checked
    | apply HandledKept.zeroField
    | apply HandledKept.done
    | apply State.switchOff_kept
    | apply State.startWake_kept
    | split
    | intro

theorem bodyPowerPolicy_kept {f : Frame} (h : Kept q s) : HandledKept q (bodyPowerPolicy f s) := by
  unfold bodyPowerPolicy
  try dsimp only
  repeat' with_reducible first
    | assumption
    | apply HandledKept.checked
    | apply HandledKept.done
    | apply State.modPower_kept
    | exact id

theorem State.dozeOff_kept (h : Kept q s) : Kept q s.dozeOff :=
  Kept.foldl (State.modPower_kept h id id) fun _ _ h => Kept.foldl h fun _ _ h => State.switchOff_kept h

theorem bodyPowerDoze_kept {f : Frame} (h : Kept q s) : HandledKept q (bodyPowerDoze f s) := by
  unfold bodyPowerDoze
  dsimp only
  exact HandledKept.checked h (HandledKept.done (State.modPower_kept h id id))

theorem bodyPowerWake_kept (h : Kept q s) : HandledKept q (bodyPowerWake s) := by
  unfold bodyPowerWake
  try dsimp only
  repeat' with_reducible first
    | assumption
    | apply Kept.foldl
    | apply HandledKept.checked
    | apply HandledKept.done
    | apply State.modPower_kept
    | apply State.startWake_kept
    | exact id

theorem execDomainWakeDone_kept {k : Fin 80} (h : Kept q s) : OutKept q (execDomainWakeDone k s) := by
  unfold execDomainWakeDone
  try dsimp only
  repeat' with_reducible first
    | assumption
    | apply OutKept.event
    | apply State.wakeEnds_kept

theorem execWakeComplete_kept (h : Kept q s) : OutKept q (execWakeComplete s) :=
  OutKept.event h (State.modDev_kept (h.with_power
    (v := { s.power with waking := false, domains := smap {} (fun _ d => { d with byDoze := false }) s.power.domains })
    (by dsimp only; exact swf_smap h.domains) h.spots) id id)

theorem Device.fitted_reports {d : Device} {m : Medium} {l : Bool} : (d.fitted m l).reports = d.reports := rfl
theorem Device.fitted_map {d : Device} {m : Medium} {l : Bool} : (d.fitted m l).map = d.map := rfl

theorem execPortLinkChange_kept {up : Bool} {m : Medium} {negotiated : Bool} {lane0 : Bool} (h : Kept q s) : OutKept
    q (execPortLinkChange up m negotiated lane0 s) := by
  have k : Kept q (s.modDev fun d => d.fitted m lane0) := State.modDev_kept h id id
  unfold execPortLinkChange
  dsimp only
  generalize (s.modDev fun d => d.fitted m lane0) = u at *
  repeat' with_reducible first
    | assumption
    | apply OutKept.event
    | apply State.modDev_kept
    | apply State.setTroubleBit_kept
    | split
    | exact id

end Sys2Proof.Machine
end

