-- ==== Sys2Proof/Laws/KeptContexts.lean ====
section
/-! SUPPORT. Every operation of Machine/Contexts.lean leaves the queue alone and keeps the state canonical. -/

namespace Sys2Proof.Machine

variable {q : List Instr} {s t : State}

theorem State.openContext_kept {c : Nat} {g : Grant} (h : Kept q s) : Kept q (s.openContext c g) := by
  unfold State.openContext
  refine State.followClaims_kept (Kept.foldl (State.setContext_kept h rfl) fun s d h => ?_)
  exact State.modPond_kept h fun t hc => swf_foldl hc fun m a hm => swf_sput hm

theorem bodyCtxOpen_kept {f : Frame} (h : Kept q s) : HandledKept q (bodyCtxOpen f s) := by
  unfold bodyCtxOpen
  try dsimp only
  repeat' with_reducible first
    | assumption
    | apply HandledKept.checked
    | apply HandledKept.done
    | apply State.openContext_kept

theorem State.discardQuern_kept {c : Nat} (h : Kept q s) : Kept q (s.discardQuern c) :=
  h.with_stacks (h.memStacks.smap fun _ _ hc => Stack.smap_pcs_canonical hc)

theorem State.seal_kept {k : Nat} {p : Nat} (h : Kept q s) : Kept q (State.seal s k p) := by
  unfold State.seal
  try dsimp only
  repeat' with_reducible first
    | assumption
    | apply State.modPseudo_kept

theorem State.sendNext_kept {c : Nat} (h : Kept q s) : Kept q (State.sendNext s c) := by
  unfold State.sendNext
  try dsimp only
  repeat' with_reducible first
    | assumption
    | exact PairKept.left (by with_reducible assumption)
    | apply State.modCmd_kept
    | apply State.modStream_kept
    | apply State.sendCompletion_kept
    | apply State.sendResults_kept
    | split
    | exact id
    | intro

theorem State.sendAll_kept {c : Nat} (h : Kept q s) : Kept q (State.sendAll s c) := by
  unfold State.sendAll
  try dsimp only
  repeat' with_reducible first
    | assumption
    | apply Kept.foldl
    | exact PairKept.left (by with_reducible assumption)
    | apply State.sendNext_kept
    | split
    | refine PairKept.fst (PairKept.foldl ?_ ?_)
    | exact id
    | intro

theorem State.freeContext_kept {c : Nat} (h : Kept q s) : Kept q (s.freeContext c) := by
  unfold State.freeContext
  dsimp only
  have hp : Kept q (((s.pages.filter fun e => e.2.mapped && e.2.context == c).map (·.1)).foldl State.unmapPage s) :=
    Kept.foldl h fun s a h => State.unmapPage_kept h
  refine State.followClaims_kept (Kept.with_contexts (State.modSchedule_kept (Kept.foldl hp fun s d h => ?_)) ?_)
  · exact State.modPond_kept (State.dropLines_kept h) fun t hc => swf_filter hc
  · refine Family.sput (Kept.contexts (q := q) ?_) rfl
    refine State.modSchedule_kept (Kept.foldl hp fun s d h => ?_)
    exact State.modPond_kept (State.dropLines_kept h) fun t hc => swf_filter hc

theorem bodyCtxClose_kept {f : Frame} {c : Nat} (h : Kept q s) : HandledKept q (bodyCtxClose f c s) := by
  unfold bodyCtxClose
  try dsimp only
  repeat' with_reducible first
    | assumption
    | apply HandledKept.checked
    | apply HandledKept.zeroField
    | apply HandledKept.done
    | apply HandledKept.reply
    | apply HandledKept.later
    | apply Kept.foldl
    | exact PairKept.left (by with_reducible assumption)
    | apply State.endReset_kept
    | apply State.freeContext_kept
    | apply State.leaveReplay_kept
    | apply State.modJournal_kept
    | apply State.releaseUnmaps_kept
    | apply State.replayStep_kept
    | apply State.seal_kept
    | apply State.sendAll_kept
    | apply done_kept
    | refine HandledKept.of_reply (done_kept ?_) (by with_reducible assumption)
    | refine HandledKept.of_later (done_kept ?_) (by with_reducible assumption)
    | refine HandledKept.state (done_kept ?_)
    | split
    | refine PairKept.fst (PairKept.foldl ?_ ?_)
    | exact id
    | intro

theorem State.endClosings_kept  (h : Kept q s) : Kept q (State.endClosings s) := by
  unfold State.endClosings
  try dsimp only
  repeat' with_reducible first
    | assumption
    | apply Kept.foldl
    | exact PairKept.left (by with_reducible assumption)
    | apply State.conclude_kept
    | apply State.freeContext_kept
    | apply State.modJournal_kept
    | apply State.number_kept
    | apply State.releaseUnmaps_kept
    | split
    | refine PairKept.fst (PairKept.foldl ?_ ?_)
    | exact id
    | intro

theorem State.beginReset_kept {c : Nat} {r : Resetting} (h : Kept q s) : Kept q (State.beginReset s c r) := by
  unfold State.beginReset
  dsimp only
  have k : Kept q (s.modContext c fun x => { x with state := .resetting, reset := some r }) :=
    State.modContext_kept h fun _ hc => Context.canonical_of hc rfl
  have d := State.discardQuern_kept (c := c) (State.watchCores_kept
    (l := (((s.modContext c fun x => { x with state := .resetting, reset := some r }).uncompleted c).flatMap
      ((s.modContext c fun x => { x with state := .resetting, reset := some r }).coresFor c)).eraseDups)
    (State.giveUp_kept (c := c) k))
  split
  · exact d.with_hoppers (swf_smap d.hoppers)
  · exact (State.modStream_kept d).with_hoppers (swf_smap (State.modStream_kept d).hoppers)

theorem bodyCtxReset_kept {f : Frame} (h : Kept q s) : HandledKept q (bodyCtxReset f s) := by
  unfold bodyCtxReset
  try dsimp only
  repeat' with_reducible first
    | assumption
    | apply HandledKept.checked
    | apply HandledKept.done
    | apply HandledKept.later
    | apply State.modContext_kept
    | apply State.leaveReplay_kept
    | apply State.beginReset_kept
    | split
    | refine fun c (hc : Context.Canonical c) => ?_
    | exact Context.canonical_of hc rfl

theorem State.endReset'_kept {c : Nat} {r : Resetting} (h : Kept q s) : Kept q (State.endReset' s c r) := by
  unfold State.endReset'
  try dsimp only
  repeat' with_reducible first
    | assumption
    | apply Kept.foldl
    | exact PairKept.left (by with_reducible assumption)
    | apply State.advanceGeneration_kept
    | apply State.conclude_kept
    | apply State.endReset_kept
    | apply State.modContext_kept
    | apply State.number_kept
    | apply State.replayStep_kept
    | apply State.writeLog_kept
    | apply reset_kept
    | split
    | refine fun c (hc : Context.Canonical c) => ?_
    | exact Context.canonical_of hc rfl
    | refine PairKept.fst (PairKept.foldl ?_ ?_)
    | exact id
    | intro

theorem execContextResetDrained_kept {c : Nat} (h : Kept q s) : OutKept q (execContextResetDrained c s) := by
  unfold execContextResetDrained
  try dsimp only
  repeat' with_reducible first
    | assumption
    | apply OutKept.event
    | apply OutKept.next
    | apply State.endReset'_kept
    | split

theorem State.dropOldFlights_kept {c : Nat} (h : Kept q s) : Kept q (State.dropOldFlights s c) :=
  h.with_cores (h.cores.smap fun _ _ hc => Core.smap_channels_canonical
    (f := fun _ y => { y with flights := y.flights.filter fun f =>
      !(f.context == c && f.tag != (s.context c).generation % 16) }.atRest)
    hc rfl rfl rfl rfl rfl rfl fun _ y h => Channel.atRest_fits (h := { y with flights := y.flights.filter fun f =>
      !(f.context == c && f.tag != (s.context c).generation % 16) }) h)

theorem State.settleCores_kept (h : Kept q s) : Kept q s.settleCores :=
  h.with_cores (h.cores.smap fun _ _ hc => Core.settled_canonical hc)

theorem State.restartDrained_kept  (h : Kept q s) : Kept q (State.restartDrained s) := by
  unfold State.restartDrained
  try dsimp only
  repeat' with_reducible first
    | assumption
    | apply Kept.foldl
    | exact PairKept.left (by with_reducible assumption)
    | apply State.modContext_kept
    | apply State.restartAll_kept
    | split
    | refine fun c (hc : Context.Canonical c) => ?_
    | exact Context.canonical_of hc rfl
    | refine PairKept.fst (PairKept.foldl ?_ ?_)
    | exact id
    | intro

theorem execTagsDrained_kept {c : Nat} {dropped : List Nat} (h : Kept q s) : OutKept q (execTagsDrained c dropped s) := by
  unfold execTagsDrained
  try dsimp only
  repeat' with_reducible first
    | assumption
    | apply OutKept.event
    | apply OutKept.next
    | exact PairKept.left (by with_reducible assumption)
    | apply State.countStales_kept
    | apply State.dropOldFlights_kept
    | apply State.modContext_kept
    | apply State.releaseUnmaps_kept
    | apply State.restartDrained_kept
    | apply State.settleCores_kept
    | apply event_kept
    | split
    | refine fun c (hc : Context.Canonical c) => ?_
    | exact Context.canonical_of hc rfl
    | exact id
    | intro

theorem State.dropWindowLines_kept {k : Nat} {p : Nat} {first : Nat} {count : Nat} (h : Kept q s) : Kept q
    (State.dropWindowLines s k p first count) := by
  unfold State.dropWindowLines
  try dsimp only
  repeat' with_reducible first
    | assumption
    | apply State.dropLines_kept

theorem State.clearControlRows_kept {k : Nat} {p : Nat} {first : Nat} (h : Kept q s) : Kept q (State.clearControlRows
    s k p first) := by
  unfold State.clearControlRows
  try dsimp only
  repeat' with_reducible first
    | assumption
    | apply Kept.foldl
    | apply State.clearKey_kept
    | intro

theorem State.prepareCompute_kept {c : Nat} {k : Nat} {first : Nat} {count : Nat} {p : Nat} (h : Kept q s) : Kept q
    (State.prepareCompute s c k first count p) := by
  unfold State.prepareCompute
  try dsimp only
  repeat' with_reducible first
    | assumption
    | apply State.modPseudo_kept
    | apply State.dropWindowLines_kept
    | apply State.clearControlRows_kept

theorem bodyQuernMode_kept {f : Frame} {c : Nat} (h : Kept q s) : HandledKept q (bodyQuernMode f c s) := by
  unfold bodyQuernMode
  try dsimp only
  repeat' with_reducible first
    | assumption
    | apply Kept.foldl
    | apply HandledKept.checked
    | apply HandledKept.zeroField
    | apply HandledKept.later
    | apply State.modJournal_kept
    | apply State.seal_kept
    | apply State.prepareCompute_kept
    | split
    | intro

theorem State.modeReached_kept {k : Nat} {p : Nat} (h : Kept q s) : Kept q (State.modeReached s k p) := by
  unfold State.modeReached
  try dsimp only
  repeat' with_reducible first
    | assumption
    | apply Kept.foldl
    | exact PairKept.left (by with_reducible assumption)
    | apply State.conclude_kept
    | apply State.modJournal_kept
    | apply State.number_kept
    | split
    | refine PairKept.fst (PairKept.foldl ?_ ?_)
    | exact id
    | intro

theorem execQuernComputeEntered_kept {k : Fin 8} {p : Fin 64} (h : Kept q s) : OutKept q (execQuernComputeEntered k p
    s) := by
  unfold execQuernComputeEntered
  try dsimp only
  repeat' with_reducible first
    | assumption
    | apply OutKept.event
    | apply State.modPseudo_kept
    | apply State.modeReached_kept

theorem execQuernSealed_kept {k : Fin 8} {p : Fin 64} (h : Kept q s) : OutKept q (execQuernSealed k p s) := by
  unfold execQuernSealed
  try dsimp only
  repeat' with_reducible first
    | assumption
    | apply OutKept.event
    | apply State.modPseudo_kept
    | apply State.endClosings_kept
    | apply State.modeReached_kept

end Sys2Proof.Machine
end

