-- ==== Sys2Proof/Laws/KeptControl.lean ====
section
/-! SUPPORT. Every operation of Machine/Control.lean leaves the queue alone and keeps the state canonical. -/

namespace Sys2Proof.Machine

variable {q : List Instr} {s t : State}

theorem Core.setBank_canonical {x : Core} {bank : Bool} {b : Option Block} (h : x.Canonical) : Core.Canonical
    (Core.setBank x bank b) := by
  unfold Core.setBank
  try dsimp only
  repeat' with_reducible first
    | assumption
    | split
    | refine Core.canonical_ctor ?_ rfl rfl rfl rfl rfl rfl

theorem Core.makeRoom_canonical {x : Core} (h : x.Canonical) : x.makeRoom.Canonical := by
  unfold Core.makeRoom
  split
  · exact h
  · exact Core.setBank_canonical h

theorem Core.preload_canonical {x : Core} {c csn : Nat} (h : x.Canonical) :
    Core.Canonical (if x.state = .idle then { x with state := .preload, context := c, csn := csn } else x) := by
  split
  · exact Core.canonical_of h rfl rfl rfl rfl rfl rfl
  · exact h

theorem State.loadBlock_kept {core : Nat} {b : Block} (h : Kept q s) : Kept q (State.loadBlock s core b) := by
  unfold State.loadBlock
  dsimp only
  split
  · exact h
  · split
    · rename_i hr
      have hs := PairKept.of_eq (State.readProgram_kept h) hr
      split
      · exact hs
      · exact State.trapAs_kept hs
    · rename_i hr
      exact State.modCore_kept (PairKept.of_eq (State.readProgram_kept h) hr) fun _ hc =>
        Core.preload_canonical (Core.setBank_canonical hc)

theorem execProgramBlockLoad_kept {core : Fin 240} (h : Kept q s) : OutKept q (execProgramBlockLoad core s) := by
  unfold execProgramBlockLoad
  try dsimp only
  repeat' with_reducible first
    | assumption
    | apply OutKept.next
    | apply State.loadBlock_kept
    | split

theorem State.startCore_kept {c : Nat} {m : Cmd} {i : Nat} {core : Nat} (h : Kept q s) : Kept q (State.startCore s c m
    i core) := by
  unfold State.startCore
  try dsimp only
  repeat' with_reducible first
    | assumption
    | exact PairKept.left (by with_reducible assumption)
    | apply State.loadBlock_kept
    | apply State.modCore_kept
    | split
    | refine fun c (hc : Core.Canonical c) => ?_
    | exact Core.canonical_of hc rfl rfl rfl rfl rfl rfl
    | apply Core.makeRoom_canonical
    | exact id
    | intro

theorem Core.endAction_canonical {x : Core}  (h : x.Canonical) : Core.Canonical (Core.endAction x) := by
  unfold Core.endAction
  try dsimp only
  repeat' with_reducible first
    | assumption
    | apply Core.setBank_canonical
    | split
    | refine Core.canonical_ctor ?_ rfl rfl rfl rfl rfl rfl

theorem execNop_kept {core : Fin 240} (h : Kept q s) : OutKept q (execNop core s) := by
  unfold execNop
  try dsimp only
  repeat' with_reducible first
    | assumption
    | refine State.decode_kept ?_ fun w => ?_
    | apply State.advance_kept

theorem execJump_kept {core : Fin 240} (h : Kept q s) : OutKept q (execJump core s) := by
  unfold execJump
  try dsimp only
  repeat' with_reducible first
    | assumption
    | refine State.decode_kept ?_ fun w => ?_
    | refine Core.canonical_ctor ?_ rfl rfl rfl rfl rfl rfl
    | apply State.onCore_kept
    | refine fun c (hc : Core.Canonical c) => ?_

theorem Core.loopStep_canonical {x : Core} {target : Nat} {count : Nat} (h : x.Canonical) : Core.Canonical
    (Core.loopStep x target count) := by
  unfold Core.loopStep
  try dsimp only
  repeat' with_reducible first
    | assumption
    | split
    | refine Core.canonical_ctor ?_ rfl rfl rfl rfl rfl rfl

theorem execLoop_kept {core : Fin 240} (h : Kept q s) : OutKept q (execLoop core s) := by
  unfold execLoop
  try dsimp only
  repeat' with_reducible first
    | assumption
    | refine State.decode_kept ?_ fun w => ?_
    | apply Core.loopStep_canonical
    | apply State.onCore_kept
    | refine fun c (hc : Core.Canonical c) => ?_

theorem execWaitn_kept {core : Fin 240} (h : Kept q s) : OutKept q (execWaitn core s) := by
  unfold execWaitn
  try dsimp only
  repeat' with_reducible first
    | assumption
    | refine State.decode_kept ?_ fun w => ?_
    | split
    | refine Core.canonical_ctor ?_ rfl rfl rfl rfl rfl rfl
    | apply State.onCore_kept
    | apply State.advance_kept
    | refine fun c (hc : Core.Canonical c) => ?_

theorem execWaitnRelease_kept {core : Fin 240} (h : Kept q s) : OutKept q (execWaitnRelease core s) := by
  unfold execWaitnRelease
  try dsimp only
  repeat' with_reducible first
    | assumption
    | apply OutKept.event
    | apply OutKept.next
    | apply State.advance_kept
    | split

theorem execFence_kept {core : Fin 240} (h : Kept q s) : OutKept q (execFence core s) := by
  unfold execFence
  try dsimp only
  repeat' with_reducible first
    | assumption
    | refine State.decode_kept ?_ fun w => ?_
    | split
    | refine Core.canonical_ctor ?_ rfl rfl rfl rfl rfl rfl
    | apply State.onCore_kept
    | apply State.advance_kept
    | refine fun c (hc : Core.Canonical c) => ?_

theorem execFenceRelease_kept {core : Fin 240} (h : Kept q s) : OutKept q (execFenceRelease core s) := by
  unfold execFenceRelease
  try dsimp only
  repeat' with_reducible first
    | assumption
    | apply OutKept.event
    | apply OutKept.next
    | exact PairKept.left (by with_reducible assumption)
    | apply State.advance_kept
    | apply State.onCore_kept
    | apply event_kept
    | split
    | apply Core.emptied_canonical
    | exact id
    | intro

theorem execHalt_kept {core : Fin 240} (h : Kept q s) : OutKept q (execHalt core s) := by
  unfold execHalt
  try dsimp only
  repeat' with_reducible first
    | assumption
    | refine State.decode_kept ?_ fun w => ?_
    | refine Core.canonical_ctor ?_ rfl rfl rfl rfl rfl rfl
    | apply State.onCore_kept
    | refine fun c (hc : Core.Canonical c) => ?_

/-- The state of an instruction of the stream queue, wherever it has come to. -/
def StreamedKept (q : List Instr) : Streamed → Prop
  | .gone s => Kept q s
  | .waits s _ => Kept q s
  | .trap s _ _ _ => Kept q s

theorem State.putFrom_kept {core pc chan n a : Nat} (h : Kept q s) : StreamedKept q (State.putFrom core pc chan n a s) := by
  induction n generalizing s a with
  | zero => exact h
  | succ n ih =>
    unfold State.putFrom
    dsimp only
    split
    · exact h
    · split
      · exact h
      · have hf : GotKept q (s.fetchLocal core 2 a 64) := State.fetchLocal_kept h
        split
        · rename_i hg; rw [hg] at hf; exact hf
        · rename_i hg; rw [hg] at hf; exact ih (State.putDescriptor_kept hf)

theorem State.streamOp_kept {core : Nat} {op : StreamOp} (h : Kept q s) : StreamedKept q (s.streamOp core op) := by
  cases op <;> unfold State.streamOp <;> dsimp only
  · split
    · exact h
    · exact State.putFrom_kept h
  · split <;> exact h
  · split
    · exact h
    · split
      · exact h
      · rename_i hs; exact OptKept.of_eq (State.signal_kept h) hs
  · split <;> exact h

theorem State.runStreamQ_kept {core : Nat} {l : List StreamOp} (h : Kept q s) : Kept q (State.runStreamQ core l s) := by
  induction l generalizing s with
  | nil => exact State.onCore_kept h fun _ hc => Core.canonical_of hc rfl rfl rfl rfl rfl rfl
  | cons op l ih =>
    unfold State.runStreamQ
    have ho : StreamedKept q (s.streamOp core op) := State.streamOp_kept h
    split
    · rename_i hs; rw [hs] at ho; exact ih ho
    · rename_i hs; rw [hs] at ho
      exact State.onCore_kept ho fun _ hc => Core.canonical_of hc rfl rfl rfl rfl rfl rfl
    · rename_i hs; rw [hs] at ho; exact State.trapAt_kept ho

theorem State.toStream_kept {core : Nat} {op : StreamOp} (h : Kept q s) : Kept q (State.toStream s core op) := by
  unfold State.toStream
  try dsimp only
  repeat' with_reducible first
    | assumption
    | exact PairKept.left (by with_reducible assumption)
    | apply State.advance_kept
    | apply State.onCore_kept
    | apply State.runStreamQ_kept
    | split
    | refine fun c (hc : Core.Canonical c) => ?_
    | exact Core.canonical_of hc rfl rfl rfl rfl rfl rfl
    | exact id
    | intro

theorem execSput_kept {core : Fin 240} (h : Kept q s) : OutKept q (execSput core s) := by
  unfold execSput
  try dsimp only
  repeat' with_reducible first
    | assumption
    | apply OutKept.event
    | apply OutKept.next
    | exact PairKept.left (by with_reducible assumption)
    | apply State.decode_kept
    | apply State.runStreamQ_kept
    | apply State.toStream_kept
    | apply State.trap_kept
    | split
    | exact id
    | intro

theorem execSwait_kept {core : Fin 240} (h : Kept q s) : OutKept q (execSwait core s) := by
  unfold execSwait
  try dsimp only
  repeat' with_reducible first
    | assumption
    | apply OutKept.event
    | apply OutKept.next
    | exact PairKept.left (by with_reducible assumption)
    | apply State.decode_kept
    | apply State.toStream_kept
    | split
    | exact id
    | intro

theorem execSwaitRelease_kept {core : Fin 240} (h : Kept q s) : OutKept q (execSwaitRelease core s) := by
  unfold execSwaitRelease
  try dsimp only
  repeat' with_reducible first
    | assumption
    | apply OutKept.event
    | apply OutKept.next
    | exact PairKept.left (by with_reducible assumption)
    | apply State.runStreamQ_kept
    | split
    | exact id
    | intro

theorem execSsig_kept {core : Fin 240} (h : Kept q s) : OutKept q (execSsig core s) := by
  unfold execSsig
  try dsimp only
  repeat' with_reducible first
    | assumption
    | apply OutKept.event
    | apply OutKept.next
    | exact PairKept.left (by with_reducible assumption)
    | apply State.decode_kept
    | apply State.signal_kept
    | refine OptKept.of_eq (State.signal_kept ?_) (by with_reducible assumption)
    | refine OptKept.getD (State.signal_kept ?_) ?_
    | apply State.toStream_kept
    | apply State.trap_kept
    | split
    | exact id
    | intro

theorem execSsigRelease_kept {core : Fin 240} (h : Kept q s) : OutKept q (execSsigRelease core s) := by
  unfold execSsigRelease
  try dsimp only
  repeat' with_reducible first
    | assumption
    | apply OutKept.event
    | apply OutKept.next
    | exact PairKept.left (by with_reducible assumption)
    | apply State.onCore_kept
    | apply State.runStreamQ_kept
    | apply State.signal_kept
    | refine OptKept.of_eq (State.signal_kept ?_) (by with_reducible assumption)
    | refine OptKept.getD (State.signal_kept ?_) ?_
    | split
    | refine fun c (hc : Core.Canonical c) => ?_
    | exact Core.canonical_of hc rfl rfl rfl rfl rfl rfl
    | apply Core.emptied_canonical
    | exact id
    | intro

theorem execSidle_kept {core : Fin 240} (h : Kept q s) : OutKept q (execSidle core s) := by
  unfold execSidle
  try dsimp only
  repeat' with_reducible first
    | assumption
    | apply OutKept.event
    | apply OutKept.next
    | exact PairKept.left (by with_reducible assumption)
    | apply State.decode_kept
    | apply State.toStream_kept
    | split
    | exact id
    | intro

theorem execSidleRelease_kept {core : Fin 240} (h : Kept q s) : OutKept q (execSidleRelease core s) := by
  unfold execSidleRelease
  try dsimp only
  repeat' with_reducible first
    | assumption
    | apply OutKept.event
    | apply OutKept.next
    | exact PairKept.left (by with_reducible assumption)
    | apply State.runStreamQ_kept
    | split
    | exact id
    | intro

end Sys2Proof.Machine
end

