-- ==== Sys2Proof/Laws/KeptMemCommands.lean ====
section
/-! SUPPORT. Every operation of Machine/MemCommands.lean leaves the queue alone and keeps the state canonical. -/

namespace Sys2Proof.Machine

variable {q : List Instr} {s t : State}

theorem State.queueTransfer_kept {f : Frame} {write : Bool} {a : Nat} {n : Nat} (h : Kept q s) : Kept q
    (State.queueTransfer s f write a n) := by
  unfold State.queueTransfer
  try dsimp only
  repeat' with_reducible first
    | assumption
    | apply State.modJournal_kept

theorem bodyMemRead_kept {f : Frame} {x : Session} (h : Kept q s) : HandledKept q (bodyMemRead f x s) := by
  unfold bodyMemRead
  try dsimp only
  repeat' with_reducible first
    | assumption
    | apply HandledKept.checked
    | apply HandledKept.zeroField
    | apply HandledKept.later
    | apply State.queueTransfer_kept

theorem bodyMemWrite_kept {f : Frame} {x : Session} (h : Kept q s) : HandledKept q (bodyMemWrite f x s) := by
  unfold bodyMemWrite
  try dsimp only
  repeat' with_reducible first
    | assumption
    | apply HandledKept.checked
    | apply HandledKept.zeroField
    | apply HandledKept.later
    | apply State.queueTransfer_kept

theorem State.transfer_kept {t : Transfer} (h : Kept q s) : HandledKept q (State.transfer s t) := by
  unfold State.transfer
  try dsimp only
  repeat' with_reducible first
    | assumption
    | apply HandledKept.done
    | apply HandledKept.reply
    | refine PairKept.of_eq (State.readDevice_kept ?_) (by assumption)
    | refine PairKept.of_eq (State.partlyLost_kept ?_) (by assumption)
    | apply State.writeDevice_kept
    | split

theorem execMemTransferDone_kept {sid : Nat} {n : Nat} (h : Kept q s) : OutKept q (execMemTransferDone sid n s) := by
  unfold execMemTransferDone
  try dsimp only
  repeat' with_reducible first
    | assumption
    | apply OutKept.next
    | apply State.modJournal_kept
    | apply State.answer_kept
    | apply State.transfer_kept
    | split

theorem bodyMemSplit_kept {f : Frame} (h : Kept q s) : HandledKept q (bodyMemSplit f s) := by
  unfold bodyMemSplit
  try dsimp only
  repeat' with_reducible first
    | assumption
    | apply Kept.foldl
    | apply HandledKept.checked
    | apply HandledKept.zeroField
    | apply HandledKept.later
    | apply State.modPond_kept
    | apply State.modJournal_kept
    | refine fun c (hc : Millpond.Canonical c) => ?_
    | exact Millpond.canonical_of hc rfl
    | intro

theorem execMemSplitDone_kept {d : Fin 4} (h : Kept q s) : OutKept q (execMemSplitDone d s) := by
  unfold execMemSplitDone
  try dsimp only
  repeat' with_reducible first
    | assumption
    | apply OutKept.event
    | apply OutKept.next
    | exact PairKept.left (by with_reducible assumption)
    | apply State.resplit_kept
    | apply State.splitDone_kept
    | split
    | exact id
    | intro

end Sys2Proof.Machine
end

