-- ==== Sys2Proof/Laws/KeptFabric.lean ====
section
/-! SUPPORT. Every operation of Machine/Fabric.lean leaves the queue alone and keeps the state canonical. -/

namespace Sys2Proof.Machine

variable {q : List Instr} {s t : State}

theorem bodyFabricAddress_kept {f : Frame} (h : Kept q s) : HandledKept q (bodyFabricAddress f s) := by
  unfold bodyFabricAddress
  try dsimp only
  repeat' with_reducible first
    | assumption
    | apply HandledKept.checked
    | apply HandledKept.done
    | apply State.modFabric_kept
    | exact id

theorem execArpRequest_kept {sender : BitVec 32 × Option SecTag} {target : BitVec 32} (h : Kept q s) : OutKept q
    (execArpRequest sender target s) := by
  unfold execArpRequest
  try dsimp only
  repeat' with_reducible first
    | assumption
    | apply OutKept.event
    | apply OutKept.next
    | exact PairKept.left (by with_reducible assumption)
    | apply State.send_kept
    | apply State.through_kept
    | apply event_kept
    | split
    | exact id
    | intro

theorem execNeighborSolicitation_kept {sender : BitVec 128 × Option SecTag} {target : BitVec 128} (h : Kept q s) :
    OutKept q (execNeighborSolicitation sender target s) := by
  unfold execNeighborSolicitation
  try dsimp only
  repeat' with_reducible first
    | assumption
    | apply OutKept.event
    | apply OutKept.next
    | exact PairKept.left (by with_reducible assumption)
    | apply State.send_kept
    | apply State.through_kept
    | apply event_kept
    | split
    | exact id
    | intro

theorem State.endRole_kept (h : Kept q s) : Kept q (State.endRole s) := by
  unfold State.endRole
  try dsimp only
  repeat' with_reducible first
    | assumption
    | apply State.modWheel_kept
    | apply State.modSchedule_kept
    | apply State.modFabric_kept
    | apply State.loseSource_kept
    | split
    | exact id

theorem State.refuseChecks_kept {p : List Byte → Bool} (h : Kept q s) : Kept q (State.refuseChecks s p) := by
  unfold State.refuseChecks
  try dsimp only
  repeat' with_reducible first
    | assumption
    | apply Kept.foldl
    | exact PairKept.left (by with_reducible assumption)
    | apply State.modFabric_kept
    | apply State.number_kept
    | apply State.sendReply_kept
    | split
    | refine PairKept.fst (PairKept.foldl ?_ ?_)
    | exact id
    | intro

theorem Fabric.setRoute_routes {x : Fabric} {a n : Nat} {b : Option Beacon} (h : swf {} x.routes = true) :
    swf {} (x.setRoute a b n).routes = true := swf_sput h

theorem State.claim_kept  (h : Kept q s) : Kept q (State.claim s) := by
  unfold State.claim
  try dsimp only
  repeat' with_reducible first
    | assumption
    | exact PairKept.left (by with_reducible assumption)
    | apply State.endRole_kept
    | apply State.modFabric_kept
    | apply State.refuseChecks_kept
    | apply State.setTroubleBit_kept
    | split
    | exact id
    | intro

theorem bodyFabricJoin_kept {f : Frame} (h : Kept q s) : HandledKept q (bodyFabricJoin f s) := by
  unfold bodyFabricJoin
  try dsimp only
  repeat' with_reducible first
    | assumption
    | apply HandledKept.checked
    | apply HandledKept.done
    | apply State.modFabric_kept
    | apply State.claim_kept
    | apply State.endRole_kept
    | exact fun _ => swf_nil

theorem State.leaveFabric_kept (h : Kept q s) : Kept q (State.leaveFabric s) := by
  unfold State.leaveFabric
  try dsimp only
  repeat' with_reducible first
    | assumption
    | apply State.modFabric_kept
    | apply State.endRole_kept
    | exact fun _ => swf_nil

theorem bodyFabricLeave_kept (h : Kept q s) : HandledKept q (bodyFabricLeave s) := by
  unfold bodyFabricLeave
  try dsimp only
  repeat' with_reducible first
    | assumption
    | apply HandledKept.checked
    | apply HandledKept.done
    | apply State.leaveFabric_kept

theorem execBeaconSend_kept  (h : Kept q s) : OutKept q (execBeaconSend s) := by
  unfold execBeaconSend
  try dsimp only
  repeat' with_reducible first
    | assumption
    | apply OutKept.event
    | apply OutKept.next
    | exact PairKept.left (by with_reducible assumption)
    | apply State.claim_kept
    | apply State.modFabric_kept
    | apply State.sendFabric_kept
    | apply event_kept
    | split
    | exact fun h => Fabric.setRoute_routes h
    | exact id
    | intro

theorem State.dropFabric_kept (h : Kept q s) : Kept q (State.dropFabric s) := by
  unfold State.dropFabric
  try dsimp only
  repeat' with_reducible first
    | assumption
    | apply State.modPort_kept

theorem bodyFabricStatus_kept {f : Frame} {x : Session} (h : Kept q s) : HandledKept q (bodyFabricStatus f x s) := by
  unfold bodyFabricStatus
  dsimp only
  split
  · exact HandledKept.reply h
  · exact HandledKept.checked h (HandledKept.done h)

theorem bodyCascadeForm_kept {f : Frame} (h : Kept q s) : HandledKept q (bodyCascadeForm f s) := by
  unfold bodyCascadeForm
  try dsimp only
  repeat' with_reducible first
    | assumption
    | apply HandledKept.checked
    | apply HandledKept.zeroField
    | apply HandledKept.done
    | apply HandledKept.reply
    | apply HandledKept.later
    | exact PairKept.left (by with_reducible assumption)
    | apply State.endRole_kept
    | apply State.modFabric_kept
    | apply done_kept
    | refine HandledKept.of_reply (done_kept ?_) (by with_reducible assumption)
    | refine HandledKept.of_later (done_kept ?_) (by with_reducible assumption)
    | refine HandledKept.state (done_kept ?_)
    | split
    | apply Core.settled_canonical
    | exact id
    | intro

theorem bodyCascadeFollow_kept {f : Frame} (h : Kept q s) : HandledKept q (bodyCascadeFollow f s) := by
  unfold bodyCascadeFollow
  try dsimp only
  repeat' with_reducible first
    | assumption
    | apply HandledKept.checked
    | apply HandledKept.done
    | apply State.modWheel_kept
    | apply State.modFabric_kept
    | apply State.loseSource_kept
    | apply State.endRole_kept
    | split
    | exact id

theorem bodyCascadeLeave_kept (h : Kept q s) : HandledKept q (bodyCascadeLeave s) := by
  unfold bodyCascadeLeave
  try dsimp only
  repeat' with_reducible first
    | assumption
    | apply HandledKept.checked
    | apply HandledKept.done
    | apply State.endRole_kept

theorem State.candidate_kept {m : Forward} (h : Kept q s) : PairKept q (State.candidate s m) := by
  unfold State.candidate
  try dsimp only
  repeat' with_reducible first
    | assumption
    | apply PairKept.mk
    | apply State.modSchedule_kept
    | split

theorem State.probed_kept {m : Forward} (h : Kept q s) : PairKept q (State.probed s m) := by
  unfold State.probed
  try dsimp only
  repeat' with_reducible first
    | assumption
    | apply PairKept.mk
    | refine PairKept.fst (State.candidate_kept ?_)
    | split

theorem execTentativeBookingLapse_kept {number : Nat} (h : Kept q s) : OutKept q (execTentativeBookingLapse number s)
    := by
  unfold execTentativeBookingLapse
  try dsimp only
  repeat' with_reducible first
    | assumption
    | apply OutKept.event
    | apply State.modSchedule_kept

theorem State.keepAnswer_kept {k : List Byte × Nat × Nat} {a : Answer} (h : Kept q s) : Kept q (State.keepAnswer s k
    a) := by
  unfold State.keepAnswer
  try dsimp only
  repeat' with_reducible first
    | assumption
    | apply State.modFabric_kept
    | exact id

theorem State.modRun_kept {sid : Nat} {n : Nat} {f : CascadeRun → CascadeRun} (h : Kept q s) : Kept q (State.modRun s
    sid n f) := by
  unfold State.modRun
  try dsimp only
  repeat' with_reducible first
    | assumption
    | apply State.modFabric_kept
    | exact id

theorem State.endRun_kept {sid : Nat} {n : Nat} {r : Reply} (h : Kept q s) : Kept q (State.endRun s sid n r) := by
  unfold State.endRun
  try dsimp only
  repeat' with_reducible first
    | assumption
    | apply State.modFabric_kept
    | apply State.sendReply_kept
    | exact id

theorem State.commitAnswered_kept {a : Answer} (h : Kept q s) : Kept q (State.commitAnswered s a) := by
  unfold State.commitAnswered
  try dsimp only
  repeat' with_reducible first
    | assumption
    | apply State.endRun_kept
    | split

theorem State.answerForward_kept {k : List Byte × Nat × Nat} {a : Answer} (h : Kept q s) : Kept q (State.answerForward
    s k a) := by
  unfold State.answerForward
  try dsimp only
  repeat' with_reducible first
    | assumption
    | exact PairKept.left (by with_reducible assumption)
    | apply State.commitAnswered_kept
    | apply State.keepAnswer_kept
    | apply State.sendFabric_kept
    | split
    | exact id
    | intro

theorem State.commitLocal_kept {m : Forward} (h : Kept q s) : Kept q (State.commitLocal s m) := by
  unfold State.commitLocal
  try dsimp only
  repeat' with_reducible first
    | assumption
    | exact PairKept.left (by with_reducible assumption)
    | apply State.answerForward_kept
    | apply State.commitAnswered_kept
    | apply State.modSchedule_kept
    | apply State.number_kept
    | apply State.probed_kept
    | apply State.sendFabric_kept
    | apply State.stageStep_kept
    | split
    | (refine PairKept.of_eq ?_ (by with_reducible assumption); apply State.probed_kept)
    | (refine PairKept.of_eq ?_ (by with_reducible assumption); split)
    | refine PairKept.fst (State.probed_kept ?_)
    | exact id
    | intro

theorem State.releaseLocal_kept {m : Forward} (h : Kept q s) : Kept q (State.releaseLocal s m) := by
  unfold State.releaseLocal
  try dsimp only
  repeat' with_reducible first
    | assumption
    | apply State.modSchedule_kept

theorem State.commitTo_kept {f : Frame} {member : List Byte} {release : Bool} (h : Kept q s) : Kept q (State.commitTo
    s f member release) := by
  unfold State.commitTo
  try dsimp only
  repeat' with_reducible first
    | assumption
    | exact PairKept.left (by with_reducible assumption)
    | apply State.commitLocal_kept
    | apply State.releaseLocal_kept
    | apply State.sendFabric_kept
    | split
    | exact id
    | intro

theorem State.decideRun_kept {r : CascadeRun} (h : Kept q s) : Kept q (State.decideRun s r) := by
  unfold State.decideRun
  try dsimp only
  repeat' with_reducible first
    | assumption
    | apply Kept.foldl
    | exact PairKept.left (by with_reducible assumption)
    | apply State.commitTo_kept
    | apply State.endRun_kept
    | apply State.modRun_kept
    | apply State.number_kept
    | split
    | refine PairKept.fst (PairKept.foldl ?_ ?_)
    | exact id
    | intro

theorem State.decideFor_kept {sid : Nat} {n : Nat} (h : Kept q s) : Kept q (State.decideFor s sid n) := by
  unfold State.decideFor
  try dsimp only
  repeat' with_reducible first
    | assumption
    | apply State.decideRun_kept
    | split

theorem State.addAnswer_kept {a : Answer} (h : Kept q s) : Kept q (State.addAnswer s a) := by
  unfold State.addAnswer
  try dsimp only
  repeat' with_reducible first
    | assumption
    | apply Kept.foldl
    | exact PairKept.left (by with_reducible assumption)
    | apply State.commitTo_kept
    | apply State.decideFor_kept
    | apply State.endRun_kept
    | apply State.modRun_kept
    | apply State.number_kept
    | split
    | refine PairKept.fst (PairKept.foldl ?_ ?_)
    | exact id
    | intro

theorem State.probeTo_kept {m : Forward} {serial : List Byte} (h : Kept q s) : Kept q (State.probeTo s m serial) := by
  unfold State.probeTo
  try dsimp only
  repeat' with_reducible first
    | assumption
    | exact PairKept.left (by with_reducible assumption)
    | apply State.addAnswer_kept
    | apply State.probed_kept
    | apply State.sendFabric_kept
    | split
    | (refine PairKept.of_eq ?_ (by with_reducible assumption); apply State.probed_kept)
    | (refine PairKept.of_eq ?_ (by with_reducible assumption); split)
    | refine PairKept.fst (State.probed_kept ?_)
    | exact id
    | intro

theorem bodyCascadeRun_kept {f : Frame} (h : Kept q s) : HandledKept q (bodyCascadeRun f s) := by
  unfold bodyCascadeRun
  try dsimp only
  repeat' with_reducible first
    | assumption
    | apply HandledKept.checked
    | apply HandledKept.zeroField
    | apply HandledKept.done
    | apply HandledKept.reply
    | apply HandledKept.later
    | apply Kept.foldl
    | exact PairKept.left (by with_reducible assumption)
    | apply State.modFabric_kept
    | apply State.probeTo_kept
    | split
    | refine PairKept.fst (PairKept.foldl ?_ ?_)
    | exact id
    | intro

theorem execProbe_kept {m : Forward} (h : Kept q s) : OutKept q (execProbe m s) := by
  unfold execProbe
  try dsimp only
  repeat' with_reducible first
    | assumption
    | apply OutKept.event
    | apply OutKept.next
    | exact PairKept.left (by with_reducible assumption)
    | apply State.dropFabric_kept
    | apply State.probed_kept
    | apply State.sendFabric_kept
    | apply State.through_kept
    | apply event_kept
    | split
    | (refine PairKept.of_eq ?_ (by with_reducible assumption); apply State.probed_kept)
    | (refine PairKept.of_eq ?_ (by with_reducible assumption); split)
    | refine PairKept.fst (State.probed_kept ?_)
    | exact id
    | intro

theorem execProbeAnswer_kept {a : Answer} (h : Kept q s) : OutKept q (execProbeAnswer a s) := by
  unfold execProbeAnswer
  try dsimp only
  repeat' with_reducible first
    | assumption
    | apply OutKept.event
    | apply OutKept.next
    | exact PairKept.left (by with_reducible assumption)
    | apply State.addAnswer_kept
    | apply State.dropFabric_kept
    | apply State.through_kept
    | split
    | exact id
    | intro

theorem execCommit_kept {m : Forward} {release : Bool} (h : Kept q s) : OutKept q (execCommit m release s) := by
  unfold execCommit
  try dsimp only
  repeat' with_reducible first
    | assumption
    | apply OutKept.event
    | apply OutKept.next
    | exact PairKept.left (by with_reducible assumption)
    | apply State.commitLocal_kept
    | apply State.dropFabric_kept
    | apply State.releaseLocal_kept
    | apply State.through_kept
    | apply event_kept
    | split
    | exact id
    | intro

theorem execCommitAnswer_kept {a : Answer} (h : Kept q s) : OutKept q (execCommitAnswer a s) := by
  unfold execCommitAnswer
  try dsimp only
  repeat' with_reducible first
    | assumption
    | apply OutKept.event
    | apply OutKept.next
    | exact PairKept.left (by with_reducible assumption)
    | apply State.commitAnswered_kept
    | apply State.dropFabric_kept
    | apply State.through_kept
    | split
    | exact id
    | intro

theorem execCommitResend_kept {sid : Nat} {n : Nat} (h : Kept q s) : OutKept q (execCommitResend sid n s) := by
  unfold execCommitResend
  try dsimp only
  repeat' with_reducible first
    | assumption
    | apply OutKept.event
    | apply OutKept.next
    | exact PairKept.left (by with_reducible assumption)
    | apply State.commitTo_kept
    | apply State.modRun_kept
    | apply event_kept
    | split
    | exact id
    | intro

theorem Fabric.forget_routes {x : Fabric} {serial : List Byte} (h : swf {} x.routes = true) :
    swf {} (x.forget serial).routes = true := h

theorem State.headLost_kept (h : Kept q s) : Kept q (State.headLost s) := by
  unfold State.headLost
  try dsimp only
  repeat' with_reducible first
    | assumption
    | apply State.modWheel_kept
    | apply State.modSchedule_kept
    | apply State.setTroubleBit_kept
    | apply State.loseSource_kept
    | split
    | exact id

theorem State.gone_kept {serial : List Byte} (h : Kept q s) : Kept q (State.gone s serial) := by
  unfold State.gone
  try dsimp only
  repeat' with_reducible first
    | assumption
    | apply Kept.foldl
    | exact PairKept.left (by with_reducible assumption)
    | apply State.decideFor_kept
    | apply State.headLost_kept
    | apply State.modFabric_kept
    | apply State.number_kept
    | apply State.refuseChecks_kept
    | split
    | refine PairKept.fst (PairKept.foldl ?_ ?_)
    | exact fun h => Fabric.forget_routes h
    | exact id
    | intro

theorem State.fillRoute_kept {b : Beacon} (h : Kept q s) : Kept q (State.fillRoute s b) := by
  unfold State.fillRoute
  try dsimp only
  repeat' with_reducible first
    | assumption
    | exact PairKept.left (by with_reducible assumption)
    | apply State.gone_kept
    | apply State.modFabric_kept
    | split
    | exact fun h => Fabric.setRoute_routes h
    | exact id
    | intro

theorem execBeaconReceived_kept {b : Beacon} (h : Kept q s) : OutKept q (execBeaconReceived b s) := by
  unfold execBeaconReceived
  try dsimp only
  repeat' with_reducible first
    | assumption
    | apply OutKept.event
    | apply OutKept.next
    | exact PairKept.left (by with_reducible assumption)
    | apply State.claim_kept
    | apply State.dropFabric_kept
    | apply State.fillRoute_kept
    | apply State.setTroubleBit_kept
    | apply State.through_kept
    | split
    | exact id
    | intro

theorem execRouteEntryExpiry_kept {a : Nat} (h : Kept q s) : OutKept q (execRouteEntryExpiry a s) := by
  unfold execRouteEntryExpiry
  try dsimp only
  repeat' with_reducible first
    | assumption
    | apply OutKept.event
    | apply OutKept.next
    | exact PairKept.left (by with_reducible assumption)
    | apply State.gone_kept
    | apply State.modFabric_kept
    | apply event_kept
    | split
    | exact fun h => Fabric.setRoute_routes h
    | exact id
    | intro

end Sys2Proof.Machine
end

