-- ==== Sys2Proof/Laws/KeptPlans.lean ====
section
/-! SUPPORT. Every operation of Machine/Plans.lean leaves the queue alone and keeps the state canonical. -/

namespace Sys2Proof.Machine

variable {q : List Instr} {s t : State}

theorem readPlan_kept {f : Frame} {c a n : Nat} (h : Kept q s) : HandledKept q (readPlan f c a n s) := by
  unfold readPlan
  try dsimp only
  repeat' with_reducible first
    | assumption
    | apply HandledKept.checked
    | apply HandledKept.done
    | apply HandledKept.reply
    | apply HandledKept.later
    | exact PairKept.left (by with_reducible assumption)
    | apply State.answer_kept
    | apply State.number_kept
    | apply State.readDevice_kept
    | apply State.stage_kept
    | split
    | (refine PairKept.of_eq ?_ (by with_reducible assumption); apply State.readDevice_kept)
    | (refine PairKept.of_eq ?_ (by with_reducible assumption); split)
    | refine PairKept.fst (State.readDevice_kept ?_)
    | exact id
    | intro

theorem State.awaitRead_kept {f : Frame} (h : Kept q s) : Kept q (s.awaitRead f) := State.modJournal_kept h

theorem bodyPlanLoad_kept {f : Frame} {c : Nat} (h : Kept q s) : HandledKept q (bodyPlanLoad f c s) := by
  unfold bodyPlanLoad
  exact HandledKept.zeroField h (HandledKept.checked h (by
    split
    · exact HandledKept.later (State.awaitRead_kept h)
    · exact readPlan_kept h))

theorem State.constsLost_kept {p : Plan} (h : Kept q s) : PairKept q (State.constsLost s p) := by
  unfold State.constsLost
  try dsimp only
  repeat' with_reducible first
    | assumption
    | apply PairKept.foldl
    | apply PairKept.mk
    | exact PairKept.left (by with_reducible assumption)
    | apply State.firstLocalLost_kept
    | apply State.partlyLost_kept
    | split
    | apply Kept.foldl
    | (refine PairKept.of_eq ?_ (by with_reducible assumption); apply State.firstLocalLost_kept)
    | (refine PairKept.of_eq ?_ (by with_reducible assumption); apply State.partlyLost_kept)
    | (refine PairKept.of_eq ?_ (by with_reducible assumption); split)
    | refine PairKept.fst (State.firstLocalLost_kept ?_)
    | refine PairKept.fst (State.partlyLost_kept ?_)
    | refine PairKept.fst (PairKept.foldl ?_ ?_)
    | refine PairKept.fst (PairKept.mk ?_)
    | exact id
    | intro

theorem State.writeConsts_kept {p : Plan} (h : Kept q s) : Kept q (State.writeConsts s p) := by
  unfold State.writeConsts
  try dsimp only
  repeat' with_reducible first
    | assumption
    | apply Kept.foldl
    | apply State.writeDevice_kept
    | apply State.writeLocal_kept
    | split
    | intro

theorem State.loadPlan_kept {c : Nat} {p : Plan} (h : Kept q s) : Kept q (State.loadPlan s c p) := by
  unfold State.loadPlan
  try dsimp only
  repeat' with_reducible first
    | assumption
    | apply Kept.foldl
    | exact PairKept.left (by with_reducible assumption)
    | apply State.modContext_kept
    | apply State.placeBlocks_kept
    | apply State.writeConsts_kept
    | split
    | refine fun c (hc : Context.Canonical c) => ?_
    | exact Context.canonical_of hc rfl
    | refine PairKept.fst (PairKept.foldl ?_ ?_)
    | exact id
    | intro

theorem bodyPlanUnload_kept {f : Frame} {c : Nat} (h : Kept q s) : HandledKept q (bodyPlanUnload f c s) := by
  unfold bodyPlanUnload
  try dsimp only
  repeat' with_reducible first
    | assumption
    | apply HandledKept.checked
    | apply HandledKept.done
    | apply State.modContext_kept
    | refine fun c (hc : Context.Canonical c) => ?_
    | exact Context.canonical_of hc rfl

end Sys2Proof.Machine
end

