-- ==== Sys2Proof/Laws/KeptImage.lean ====
section
/-! SUPPORT. Every operation of Machine/Image.lean leaves the queue alone and keeps the state canonical. -/

namespace Sys2Proof.Machine

variable {q : List Instr} {s t : State}

theorem State.readRegion_kept {p : Nat} {r : Region} (h : Kept q s) : PairKept q (State.readRegion s p r) := by
  unfold State.readRegion
  try dsimp only
  repeat' with_reducible first
    | assumption
    | apply PairKept.foldl
    | apply PairKept.mk
    | exact PairKept.left (by assumption)
    | refine PairKept.fst (State.readLocal_kept ?_)
    | split
    | intro

theorem State.coreRecord_kept {c : Nat} {k : Nat} (h : Kept q s) : PairKept q (State.coreRecord s c k) := by
  unfold State.coreRecord
  try dsimp only
  repeat' with_reducible first
    | assumption
    | apply PairKept.foldl
    | apply PairKept.mk
    | exact PairKept.left (by assumption)
    | refine PairKept.fst (State.readRegion_kept ?_)
    | split
    | intro

theorem State.image_kept {c : Nat} (h : Kept q s) : PairKept q (State.image s c) := by
  unfold State.image
  try dsimp only
  repeat' with_reducible first
    | assumption
    | apply PairKept.mk
    | exact PairKept.left (by assumption)
    | refine PairKept.fst (State.coreRecord_kept ?_)
    | refine PairKept.fst (PairKept.foldl ?_ ?_)
    | split
    | intro

theorem bodyCtxSave_kept {f : Frame} {c : Nat} (h : Kept q s) : HandledKept q (bodyCtxSave f c s) := by
  unfold bodyCtxSave
  try dsimp only
  repeat' with_reducible first
    | assumption
    | apply HandledKept.checked
    | apply HandledKept.zeroField
    | apply HandledKept.later
    | apply State.stage_kept

theorem readImage_kept {f : Frame} {c a n : Nat} (h : Kept q s) : HandledKept q (readImage f c a n s) := by
  unfold readImage
  try dsimp only
  repeat' with_reducible first
    | assumption
    | apply HandledKept.checked
    | apply HandledKept.done
    | apply HandledKept.reply
    | apply HandledKept.later
    | exact PairKept.left (by with_reducible assumption)
    | apply State.answer_kept
    | apply State.number_kept
    | apply State.readDevice_kept
    | apply State.stage_kept
    | split
    | (refine PairKept.of_eq ?_ (by with_reducible assumption); apply State.readDevice_kept)
    | (refine PairKept.of_eq ?_ (by with_reducible assumption); split)
    | refine PairKept.fst (State.readDevice_kept ?_)
    | exact id
    | intro

theorem bodyCtxRestore_kept {f : Frame} {c : Nat} (h : Kept q s) : HandledKept q (bodyCtxRestore f c s) := by
  unfold bodyCtxRestore
  exact HandledKept.zeroField h (HandledKept.checked h (by
    split
    · exact HandledKept.later (State.awaitRead_kept h)
    · exact readImage_kept h))

theorem State.retryReads_kept (h : Kept q s) : Kept q s.retryReads :=
  Kept.foldl (State.modJournal_kept h) fun s f h => State.answer_kept (by
    split
    · exact bodyPlanLoad_kept h
    · exact bodyCtxRestore_kept h)

theorem State.writeRegion_kept {p : Nat} {r : Region} {data : List Byte} (h : Kept q s) :
    Kept q (s.writeRegion p r data) :=
  PairKept.fst (PairKept.foldl (PairKept.mk h) fun _ _ h => State.writeLocal_kept h)

theorem State.applyImage_kept {l : List CoreRecord} (h : Kept q s) : Kept q (State.applyImage s l) := by
  unfold State.applyImage
  try dsimp only
  repeat' with_reducible first
    | assumption
    | apply Kept.foldl
    | apply State.writeRegion_kept
    | intro

theorem State.saveImage_kept {c : Nat} {a : Nat} (h : Kept q s) : PairKept q (State.saveImage s c a) := by
  unfold State.saveImage
  try dsimp only
  repeat' with_reducible first
    | assumption
    | apply PairKept.mk
    | exact PairKept.left (by with_reducible assumption)
    | apply State.image_kept
    | apply State.partlyLost_kept
    | apply State.writeDevice_kept
    | split
    | (refine PairKept.of_eq ?_ (by with_reducible assumption); apply State.image_kept)
    | (refine PairKept.of_eq ?_ (by with_reducible assumption); apply State.partlyLost_kept)
    | (refine PairKept.of_eq ?_ (by with_reducible assumption); split)
    | refine PairKept.fst (State.image_kept ?_)
    | refine PairKept.fst (State.partlyLost_kept ?_)
    | refine PairKept.fst (PairKept.mk ?_)
    | exact id
    | intro

theorem State.restoreImage_kept {a : Nat} {n : Nat} (h : Kept q s) : PairKept q (State.restoreImage s a n) := by
  unfold State.restoreImage
  try dsimp only
  repeat' with_reducible first
    | assumption
    | apply PairKept.mk
    | exact PairKept.left (by with_reducible assumption)
    | apply State.applyImage_kept
    | apply State.firstLocalLost_kept
    | apply State.readDevice_kept
    | split
    | (refine PairKept.of_eq ?_ (by with_reducible assumption); apply State.firstLocalLost_kept)
    | (refine PairKept.of_eq ?_ (by with_reducible assumption); apply State.readDevice_kept)
    | (refine PairKept.of_eq ?_ (by with_reducible assumption); split)
    | refine PairKept.fst (State.firstLocalLost_kept ?_)
    | refine PairKept.fst (State.readDevice_kept ?_)
    | refine PairKept.fst (PairKept.mk ?_)
    | exact id
    | intro

end Sys2Proof.Machine
end

