-- ==== Sys2Proof/Laws/KeptCopy.lean ====
section
/-! SUPPORT. Every operation of Machine/Copy.lean leaves the queue alone and keeps the state canonical. -/

namespace Sys2Proof.Machine

variable {q : List Instr} {s t : State}

theorem State.askPeer_kept {f : Frame} {serial : List Byte} {m : CopyMsg} (h : Kept q s) : HandledKept q
    (State.askPeer s f serial m) := by
  unfold State.askPeer
  try dsimp only
  repeat' with_reducible first
    | assumption
    | apply HandledKept.checked
    | apply HandledKept.zeroField
    | apply HandledKept.done
    | apply HandledKept.reply
    | apply HandledKept.later
    | exact PairKept.left (by with_reducible assumption)
    | apply State.modFabric_kept
    | apply State.sendFabric_kept
    | split
    | exact id
    | intro

theorem bodyFabricCopy_kept {f : Frame} {c : Nat} (h : Kept q s) : HandledKept q (bodyFabricCopy f c s) := by
  unfold bodyFabricCopy
  try dsimp only
  repeat' with_reducible first
    | assumption
    | apply HandledKept.checked
    | apply HandledKept.zeroField
    | apply State.askPeer_kept

theorem bodyFabricMigrate_kept {f : Frame} {c : Nat} (h : Kept q s) : HandledKept q (bodyFabricMigrate f c s) := by
  unfold bodyFabricMigrate
  try dsimp only
  repeat' with_reducible first
    | assumption
    | apply HandledKept.checked
    | apply State.askPeer_kept

theorem State.readPlaces_kept {l : List (Nat × Nat)} (h : Kept q s) : PairKept q (State.readPlaces s l) := by
  unfold State.readPlaces
  try dsimp only
  repeat' with_reducible first
    | assumption
    | apply PairKept.foldl
    | apply PairKept.mk
    | exact PairKept.left (by with_reducible assumption)
    | apply State.readDevice_kept
    | split
    | apply Kept.foldl
    | (refine PairKept.of_eq ?_ (by with_reducible assumption); apply State.readDevice_kept)
    | (refine PairKept.of_eq ?_ (by with_reducible assumption); split)
    | refine PairKept.fst (State.readDevice_kept ?_)
    | refine PairKept.fst (PairKept.foldl ?_ ?_)
    | refine PairKept.fst (PairKept.mk ?_)
    | exact id
    | intro

theorem State.unitBytes_kept {c : Nat} {m : Cmd} {u : Nat} (h : Kept q s) : PairKept q (State.unitBytes s c m u) := by
  unfold State.unitBytes
  try dsimp only
  repeat' with_reducible first
    | assumption
    | apply PairKept.mk
    | exact PairKept.left (by with_reducible assumption)
    | apply State.readPlaces_kept
    | split
    | (refine PairKept.of_eq ?_ (by with_reducible assumption); apply State.readPlaces_kept)
    | (refine PairKept.of_eq ?_ (by with_reducible assumption); split)
    | refine PairKept.fst (State.readPlaces_kept ?_)
    | refine PairKept.fst (PairKept.mk ?_)
    | exact id
    | intro

theorem State.sendPieces_kept {c : Nat} {m : Cmd} {u : Nat} {data : List Byte} (h : Kept q s) : Kept q
    (State.sendPieces s c m u data) := by
  unfold State.sendPieces
  try dsimp only
  repeat' with_reducible first
    | assumption
    | apply Kept.foldl
    | exact PairKept.left (by with_reducible assumption)
    | apply State.sendFabric_kept
    | split
    | refine PairKept.fst (PairKept.foldl ?_ ?_)
    | exact id
    | intro

theorem State.copyOn_kept {c : Nat} {csn : Nat} (h : Kept q s) : Kept q (State.copyOn s c csn) := by
  unfold State.copyOn
  try dsimp only
  repeat' with_reducible first
    | assumption
    | apply State.finish_kept
    | refine PairKept.of_eq (State.unitBytes_kept ?_) (by assumption)
    | apply State.sendPieces_kept
    | split

theorem State.startCopy_kept {c : Nat} {csn : Nat} (h : Kept q s) : Kept q (State.startCopy s c csn) := by
  unfold State.startCopy
  try dsimp only
  repeat' with_reducible first
    | assumption
    | apply State.modContext_kept
    | apply State.modCmd_kept
    | apply State.finish_kept
    | refine PairKept.of_eq (State.image_kept ?_) (by assumption)
    | apply State.copyOn_kept
    | split
    | refine fun c (hc : Context.Canonical c) => ?_
    | exact Context.canonical_of hc rfl

theorem State.unpin_kept {m : CopyMsg} (h : Kept q s) : Kept q (State.unpin s m) := by
  unfold State.unpin
  try dsimp only
  repeat' with_reducible first
    | assumption
    | apply State.modContext_kept
    | refine fun c (hc : Context.Canonical c) => ?_
    | exact Context.canonical_of hc rfl

theorem execCopyDestinationCheck_kept {m : CopyMsg} (h : Kept q s) : OutKept q (execCopyDestinationCheck m s) := by
  unfold execCopyDestinationCheck
  try dsimp only
  repeat' with_reducible first
    | assumption
    | apply OutKept.event
    | apply OutKept.next
    | exact PairKept.left (by with_reducible assumption)
    | apply State.answer_kept
    | apply State.dropFabric_kept
    | apply State.modContext_kept
    | apply State.sendFabric_kept
    | apply State.through_kept
    | apply State.unpin_kept
    | split
    | refine fun c (hc : Context.Canonical c) => ?_
    | exact Context.canonical_of hc rfl
    | exact id
    | intro

theorem State.takeRecord_kept {c : Nat} {j : Nat} {b : List Byte} (h : Kept q s) : Kept q (State.takeRecord s c j b)
    := by
  unfold State.takeRecord
  try dsimp only
  repeat' with_reducible first
    | assumption
    | apply Kept.foldl
    | apply State.unmapPage_kept
    | apply State.modSeq_kept

theorem State.takeBytes_kept {a : Nat} {data : List Byte} (h : Kept q s) : PairKept q (State.takeBytes s a data) := by
  unfold State.takeBytes
  try dsimp only
  repeat' with_reducible first
    | assumption
    | apply PairKept.mk
    | exact PairKept.left (by with_reducible assumption)
    | apply State.partlyLost_kept
    | apply State.writeDevice_kept
    | split
    | (refine PairKept.of_eq ?_ (by with_reducible assumption); apply State.partlyLost_kept)
    | (refine PairKept.of_eq ?_ (by with_reducible assumption); split)
    | refine PairKept.fst (State.partlyLost_kept ?_)
    | refine PairKept.fst (PairKept.mk ?_)
    | exact id
    | intro

theorem State.takeListPage_kept {c j i : Nat} {data : List Byte} (h : Kept q s) : PairKept q (s.takeListPage c j i data) := by
  unfold State.takeListPage
  dsimp only
  split
  · exact PairKept.mk h
  · split
    · exact PairKept.mk h
    · split
      · exact PairKept.mk h
      · rename_i v e
        refine State.takeBytes_kept (State.modSeq_kept ?_)
        revert e
        split
        · exact fun e => nomatch e
        · split
          · exact fun e => Option.some.inj e ▸ h
          · exact fun e => OptKept.of_eq (State.growLane_kept h) e

theorem State.takePlainPage_kept {c : Nat} {v : Nat} {data : List Byte} (h : Kept q s) : PairKept q
    (State.takePlainPage s c v data) := by
  unfold State.takePlainPage
  try dsimp only
  repeat' with_reducible first
    | assumption
    | apply PairKept.mk
    | exact PairKept.left (by with_reducible assumption)
    | apply State.mapPage_kept
    | apply State.takeBytes_kept
    | split
    | (refine PairKept.of_eq ?_ (by with_reducible assumption); apply State.takeBytes_kept)
    | (refine PairKept.of_eq ?_ (by with_reducible assumption); split)
    | refine PairKept.fst (State.takeBytes_kept ?_)
    | refine PairKept.fst (PairKept.mk ?_)
    | exact id
    | intro

theorem State.takeImage_kept {c : Nat} {data : List Byte} (h : Kept q s) : PairKept q (State.takeImage s c data) := by
  unfold State.takeImage
  try dsimp only
  repeat' with_reducible first
    | assumption
    | apply PairKept.mk
    | exact PairKept.left (by with_reducible assumption)
    | apply State.applyImage_kept
    | apply State.firstLocalLost_kept
    | split
    | (refine PairKept.of_eq ?_ (by with_reducible assumption); apply State.firstLocalLost_kept)
    | (refine PairKept.of_eq ?_ (by with_reducible assumption); split)
    | refine PairKept.fst (State.firstLocalLost_kept ?_)
    | refine PairKept.fst (PairKept.mk ?_)
    | exact id
    | intro

theorem State.takeRow_kept {l : List Nat} {data : List Byte} (h : Kept q s) : PairKept q (s.takeRow l data) := by
  induction l generalizing s data with
  | nil => exact PairKept.mk h
  | cons a l ih =>
    have e : PairKept q (s.takeBytes a (data.take 256)) := State.takeBytes_kept h
    unfold State.takeRow
    split
    · exact PairKept.of_eq e ‹_›
    · exact ih (PairKept.of_eq e ‹_›)

theorem State.takeUnit_kept {c : Nat} {migrate : Bool} {u : Nat} {data : List Byte} (h : Kept q s) :
    PairKept q (s.takeUnit c migrate u data) := by
  unfold State.takeUnit
  dsimp only
  split
  · split
    · exact PairKept.mk h
    · exact State.takeBytes_kept h
  · split
    · exact State.takePlainPage_kept h
    · exact State.takeImage_kept h
    · split
      · exact PairKept.mk (State.takeRecord_kept h)
      · exact PairKept.mk h
    · exact State.takeListPage_kept h
    · exact State.takeRow_kept h

theorem execCopyPagePiece_kept {m : CopyMsg} (h : Kept q s) : OutKept q (execCopyPagePiece m s) := by
  unfold execCopyPagePiece
  try dsimp only
  repeat' with_reducible first
    | assumption
    | apply OutKept.event
    | apply OutKept.next
    | exact PairKept.left (by with_reducible assumption)
    | apply State.dropFabric_kept
    | apply State.modContext_kept
    | apply State.sendFabric_kept
    | apply State.takeUnit_kept
    | apply State.through_kept
    | split
    | refine fun c (hc : Context.Canonical c) => ?_
    | exact Context.canonical_of hc rfl
    | (refine PairKept.of_eq ?_ (by with_reducible assumption); apply State.takeUnit_kept)
    | (refine PairKept.of_eq ?_ (by with_reducible assumption); split)
    | refine PairKept.fst (State.takeUnit_kept ?_)
    | exact id
    | intro

theorem State.checkHolds_kept {f : Frame} {serial : List Byte} (h : Kept q s) : Kept q (State.checkHolds s f serial)
    := by
  unfold State.checkHolds
  try dsimp only
  repeat' with_reducible first
    | assumption
    | exact PairKept.left (by with_reducible assumption)
    | apply State.answer_kept
    | apply State.number_kept
    | apply State.sendFabric_kept
    | apply State.sendReply_kept
    | apply State.stage_kept
    | split
    | exact id
    | intro

theorem State.checkAnswered_kept {tag : Nat} {n : Nat} {ok : Bool} (h : Kept q s) : Kept q (State.checkAnswered s tag
    n ok) := by
  unfold State.checkAnswered
  try dsimp only
  repeat' with_reducible first
    | assumption
    | apply State.modFabric_kept
    | apply State.sendReply_kept
    | apply State.checkHolds_kept
    | split
    | exact id

theorem State.unitAcked_kept {tag : Nat} {u : Nat} {ok : Bool} (h : Kept q s) : Kept q (State.unitAcked s tag u ok) :=
    by
  unfold State.unitAcked
  try dsimp only
  repeat' with_reducible first
    | assumption
    | apply State.modCmd_kept
    | apply State.copyOn_kept
    | apply State.startCopy_kept
    | split

theorem execCopyAck_kept {h_ : AckHead} {csn : Nat} {page : Nat} {check : Bool} {ok : Bool} (h : Kept q s) : OutKept q
    (execCopyAck h_ csn page check ok s) := by
  unfold execCopyAck
  try dsimp only
  repeat' with_reducible first
    | assumption
    | apply OutKept.event
    | apply OutKept.next
    | exact PairKept.left (by with_reducible assumption)
    | apply State.checkAnswered_kept
    | apply State.dropFabric_kept
    | apply State.through_kept
    | apply State.unitAcked_kept
    | apply event_kept
    | split
    | exact id
    | intro

theorem execCopyPageResend_kept {c : Nat} {csn : Nat} (h : Kept q s) : OutKept q (execCopyPageResend c csn s) := by
  unfold execCopyPageResend
  try dsimp only
  repeat' with_reducible first
    | assumption
    | apply OutKept.event
    | apply OutKept.next
    | exact PairKept.left (by with_reducible assumption)
    | apply State.copyOn_kept
    | apply State.startCopy_kept
    | apply event_kept
    | split
    | exact id
    | intro

end Sys2Proof.Machine
end

