-- ==== Sys2Proof/Laws/KeptSessions.lean ====
section
/-! SUPPORT. Every operation of Machine/Sessions.lean leaves the queue alone and keeps the state canonical. -/

namespace Sys2Proof.Machine

variable {q : List Instr} {s t : State}

theorem State.countHello_kept  (h : Kept q s) : Kept q (State.countHello s) := by
  unfold State.countHello
  try dsimp only
  repeat' with_reducible first
    | assumption
    | exact PairKept.left (by with_reducible assumption)
    | apply State.modSec_kept
    | split
    | exact fun x => Security.canonical_of x rfl
    | exact id
    | intro


theorem bodyHello_kept (h : Kept q s) : HandledKept q (bodyHello s) := by
  unfold bodyHello
  try dsimp only
  repeat' with_reducible first
    | assumption
    | apply HandledKept.done
    | apply State.modSec_kept
    | exact fun x => Security.canonical_of x rfl
    | split
    | exact id

/-- A table written whole and canonical is canonical in both copies. -/
theorem Security.putTable_canonical {x : Security} {l : Sparse Operator} (h : x.Canonical) (hl : swf {} l = true) :
    (x.putTable l).Canonical := by
  unfold Security.putTable
  dsimp only
  split
  · exact ⟨hl, hl, h.tableB⟩
  · exact ⟨hl, h.tableA, hl⟩

theorem State.replaceOperators_kept {key : List Byte} (h : Kept q s) : Kept q (State.replaceOperators s key) :=
  (h.with_sessions (swf_smap (f := fun _ (x : Session) => { x with ending := true }) h.sessions)).with_sec
    (Security.putTable_canonical h.sec (swf_sput rfl))

theorem State.openSession_kept {f : Frame} {slot : Nat} {keys : List Byte} (h : Kept q s) : HandledKept q
    (State.openSession s f slot keys) := by
  unfold State.openSession
  try dsimp only
  repeat' with_reducible first
    | assumption
    | apply HandledKept.checked
    | apply HandledKept.zeroField
    | apply HandledKept.done
    | apply HandledKept.reply
    | apply HandledKept.later
    | exact PairKept.left (by with_reducible assumption)
    | apply State.drop_kept
    | apply State.setSession_kept
    | apply done_kept
    | refine HandledKept.of_reply (done_kept ?_) (by with_reducible assumption)
    | refine HandledKept.of_later (done_kept ?_) (by with_reducible assumption)
    | refine HandledKept.state (done_kept ?_)
    | split
    | refine Kept.ctor ?_ rfl rfl rfl rfl rfl rfl rfl rfl rfl rfl rfl rfl rfl rfl rfl rfl rfl rfl rfl rfl rfl rfl
    | exact id
    | intro

theorem bodyOpen_kept {f : Frame} (h : Kept q s) : HandledKept q (bodyOpen f s) := by
  unfold bodyOpen
  try dsimp only
  repeat' with_reducible first
    | assumption
    | apply HandledKept.checked
    | apply HandledKept.zeroField
    | apply HandledKept.done
    | apply HandledKept.reply
    | apply HandledKept.later
    | exact PairKept.left (by with_reducible assumption)
    | apply State.modSec_kept
    | exact fun x => Security.canonical_of x rfl
    | apply State.openSession_kept
    | refine HandledKept.of_reply (State.openSession_kept ?_) (by with_reducible assumption)
    | refine HandledKept.of_later (State.openSession_kept ?_) (by with_reducible assumption)
    | refine HandledKept.state (State.openSession_kept ?_)
    | apply State.replaceOperators_kept
    | split
    | exact id
    | intro

theorem bodyClose_kept {sid : Nat} (h : Kept q s) : HandledKept q (bodyClose sid s) := by
  unfold bodyClose
  try dsimp only
  repeat' with_reducible first
    | assumption
    | apply HandledKept.done
    | apply State.modSession_kept

theorem State.hostAck_kept {f : Frame} (h : Kept q s) : Kept q (State.hostAck s f) := by
  unfold State.hostAck
  try dsimp only
  repeat' with_reducible first
    | assumption
    | apply State.modStream_kept
    | apply State.sendCompletion_kept
    | apply State.resendResults_kept
    | split

end Sys2Proof.Machine
end

