-- ==== Sys2Proof/Laws/KeptFirmware.lean ====
section
/-! SUPPORT. Every operation of Machine/Firmware.lean leaves the queue alone and keeps the state canonical. -/

namespace Sys2Proof.Machine

variable {q : List Instr} {s t : State}

/-- Writing the slot that does not run leaves the operator table alone. -/
theorem Security.setOther_canonical {x : Security} {v : FwSlot} (h : x.Canonical) : (x.setOther v).Canonical := by
  unfold Security.setOther
  split <;> exact Security.canonical_of h rfl

theorem bodyFwStatus_kept (h : Kept q s) : HandledKept q (bodyFwStatus s) := by
  unfold bodyFwStatus
  try dsimp only
  repeat' with_reducible first
    | assumption
    | apply HandledKept.checked
    | apply HandledKept.done

theorem bodyFwWrite_kept {f : Frame} (h : Kept q s) : HandledKept q (bodyFwWrite f s) := by
  unfold bodyFwWrite
  try dsimp only
  repeat' with_reducible first
    | assumption
    | apply HandledKept.checked
    | apply HandledKept.zeroField
    | apply HandledKept.done
    | apply State.modSec_kept
    | exact fun x => Security.canonical_of (Security.setOther_canonical x) rfl

theorem bodyFwActivate_kept (h : Kept q s) : HandledKept q (bodyFwActivate s) := by
  unfold bodyFwActivate
  try dsimp only
  repeat' with_reducible first
    | assumption
    | apply HandledKept.checked
    | apply HandledKept.done
    | apply State.modSec_kept
    | exact fun x => Security.canonical_of x rfl
    | exact id

theorem execFirmwareCheckDone_kept {reason : Nat} (h : Kept q s) : OutKept q (execFirmwareCheckDone reason s) := by
  unfold execFirmwareCheckDone
  try dsimp only
  repeat' with_reducible first
    | assumption
    | apply OutKept.event
    | apply State.modSec_kept
    | exact fun x => Security.canonical_of x rfl
    | split
    | exact fun h => by dsimp only; rw [Security.setOther_operators]; exact h

theorem bodyFwAuthorise_kept {f : Frame} (h : Kept q s) : HandledKept q (bodyFwAuthorise f s) := by
  unfold bodyFwAuthorise
  try dsimp only
  repeat' with_reducible first
    | assumption
    | apply HandledKept.checked
    | apply HandledKept.done
    | apply State.modDev_kept
    | exact id

theorem State.setOperator_kept {slot sender n : Nat} {v : Operator} (h : Kept q s) : Kept q (s.setOperator slot sender n v) := by
  have h1 := State.modSec_kept (f := fun x : Security => x.putTable (sput {} x.operators slot v)) h
    fun h => Security.putTable_canonical h (swf_sput h.operators)
  exact h1.with_sessions (swf_smap h1.sessions)

theorem bodyFwEnroll_kept {f : Frame} (h : Kept q s) : HandledKept q (bodyFwEnroll f s) := by
  unfold bodyFwEnroll
  try dsimp only
  repeat' with_reducible first
    | assumption
    | apply HandledKept.checked
    | apply HandledKept.done
    | apply State.setOperator_kept

theorem bodyFwRemove_kept {f : Frame} (h : Kept q s) : HandledKept q (bodyFwRemove f s) := by
  unfold bodyFwRemove
  try dsimp only
  repeat' with_reducible first
    | assumption
    | apply HandledKept.checked
    | apply HandledKept.done
    | apply State.setOperator_kept

theorem bodyFwMacsec_kept {f : Frame} (h : Kept q s) : HandledKept q (bodyFwMacsec f s) := by
  unfold bodyFwMacsec
  try dsimp only
  repeat' with_reducible first
    | assumption
    | apply HandledKept.checked
    | apply HandledKept.done
    | apply State.modSec_kept
    | exact fun x => Security.canonical_of x rfl
    | split
    | exact id

theorem bodyAttestIdentity_kept (h : Kept q s) : HandledKept q (bodyAttestIdentity s) := by
  unfold bodyAttestIdentity
  try dsimp only
  repeat' with_reducible first
    | assumption
    | apply HandledKept.checked
    | apply HandledKept.done

theorem bodyAttestReport_kept {f : Frame} (h : Kept q s) : HandledKept q (bodyAttestReport f s) := by
  unfold bodyAttestReport
  try dsimp only
  repeat' with_reducible first
    | assumption
    | apply HandledKept.checked
    | apply HandledKept.done

end Sys2Proof.Machine
end

