-- ==== Sys2Proof/Laws/KeptHopper.lean ====
section
/-! SUPPORT. Every operation of Machine/Hopper.lean leaves the queue alone and keeps the state canonical. -/

namespace Sys2Proof.Machine

variable {q : List Instr} {s t : State}

theorem State.unitFault_kept {h_ c address kind : Nat} (h : Kept q s) : Kept q (s.unitFault h_ c address kind) :=
  State.setTroubleBit_kept (State.modHopper_kept h)

theorem State.hopperFault_kept {h_ : Nat} {c : Nat} {csn : Nat} {address : Nat} {kind : Nat} (h : Kept q s) : Kept q
    (State.hopperFault s h_ c csn address kind) := State.noteStop_kept (State.unitFault_kept h)

theorem State.beginJob_kept {h_ : Nat} {t : SamplerItem} {j : HopperJob} (h : Kept q s) : Kept q (State.beginJob s h_
    t j) := by
  unfold State.beginJob
  try dsimp only
  repeat' with_reducible first
    | assumption
    | apply State.modHopper_kept
    | apply State.hopperFault_kept
    | split

theorem State.giveJob_kept {h_ : Nat} {t : SamplerItem} {j : HopperJob} (h : Kept q s) : Kept q (State.giveJob s h_ t
    j) := by
  unfold State.giveJob
  try dsimp only
  repeat' with_reducible first
    | assumption
    | exact PairKept.left (by with_reducible assumption)
    | apply State.beginJob_kept
    | apply State.hopperFault_kept
    | apply State.modHopper_kept
    | split
    | exact id
    | intro

theorem State.startHopper_kept {p : Plan} {item : Nat} {c : Nat} {csn : Nat} {action : Nat} {units : Nat} (h : Kept q
    s) : Kept q (State.startHopper s p item c csn action units) := by
  unfold State.startHopper
  try dsimp only
  repeat' with_reducible first
    | assumption
    | apply Kept.foldl
    | apply State.giveJob_kept
    | intro

theorem State.sampleAt_kept {t : SamplerItem} {planId : Nat} {a : Nat} (h : Kept q s) : PairKept q (State.sampleAt s t
    planId a) := by
  unfold State.sampleAt
  try dsimp only
  repeat' with_reducible first
    | assumption
    | apply PairKept.mk
    | refine PairKept.of_eq (State.readDevice_kept ?_) (by assumption)
    | split

theorem State.nextJob_kept {h_ : Nat} (h : Kept q s) : Kept q (State.nextJob s h_) := by
  unfold State.nextJob
  try dsimp only
  repeat' with_reducible first
    | assumption
    | apply State.modHopper_kept
    | apply State.giveJob_kept
    | split

theorem State.endDropped_kept {h_ : Nat} (h : Kept q s) : Kept q (s.endDropped h_) :=
  State.nextJob_kept (State.modHopper_kept h)

theorem State.rowDone_kept {h_ : Nat} {t : SamplerItem} {record : List Byte} {flags : Nat} (h : Kept q s) :
    Kept q (s.rowDone h_ t record flags) := by
  unfold State.rowDone
  try dsimp only
  repeat' with_reducible first
    | assumption
    | exact PairKept.left (by with_reducible assumption)
    | apply State.modHopper_kept
    | apply State.setTroubleBit_kept
    | apply State.writeOwn_kept
    | split
    | exact id
    | intro

theorem execHopperRowSample_kept {h_ : Fin 4} (h : Kept q s) : OutKept q (execHopperRowSample h_ s) := by
  unfold execHopperRowSample
  try dsimp only
  repeat' with_reducible first
    | assumption
    | apply OutKept.event
    | apply OutKept.next
    | exact PairKept.left (by with_reducible assumption)
    | apply State.hopperFault_kept
    | apply State.modCmd_kept
    | apply State.nextJob_kept
    | apply State.endDropped_kept
    | apply State.unitFault_kept
    | apply State.rowDone_kept
    | apply State.sampleAt_kept
    | split
    | (refine PairKept.of_eq ?_ (by with_reducible assumption); apply State.sampleAt_kept)
    | (refine PairKept.of_eq ?_ (by with_reducible assumption); split)
    | refine PairKept.fst (State.sampleAt_kept ?_)
    | exact id
    | intro

end Sys2Proof.Machine
end

