-- ==== Sys2Proof/Laws/KeptQuern.lean ====
section
/-! SUPPORT. Every operation of Machine/Quern.lean leaves the queue alone and keeps the state canonical. -/

namespace Sys2Proof.Machine

variable {q : List Instr} {s t : State}

theorem State.resultWrite_kept {k p x : Nat} {l : List Byte} (h : Kept q s) : Kept q (s.resultWrite k p x l) := by
  refine h.with_mem ?_
  generalize l.zipIdx = z
  induction z generalizing s with
  | nil => exact h.mem
  | cons e z ih => exact ih (h.with_mem (Memory.wf_put h.mem))

theorem State.resultWords_kept {k : Nat} {p : Nat} {x : Nat} {l : List Word} (h : Kept q s) : Kept q
    (State.resultWords s k p x l) := by
  unfold State.resultWords
  try dsimp only
  repeat' with_reducible first
    | assumption
    | apply State.resultWrite_kept

theorem State.writeResult_kept {k : Nat} {p : Nat} {d : QuernDesc} {run : QuernRun} (h : Kept q s) : Kept q
    (State.writeResult s k p d run) := by
  unfold State.writeResult
  try dsimp only
  repeat' with_reducible first
    | assumption
    | apply Kept.foldl
    | apply State.resultWords_kept
    | split
    | intro

theorem State.refillQuern_kept {k : Nat} {p : Nat} (h : Kept q s) : Kept q (State.refillQuern s k p) := by
  unfold State.refillQuern
  try dsimp only
  repeat' with_reducible first
    | assumption
    | apply State.modPseudo_kept

theorem State.guardTrip_kept {k : Nat} {p : Nat} {e : QuernEntry} {row : Nat} (h : Kept q s) : Kept q (State.guardTrip
    s k p e row) := by
  unfold State.guardTrip
  try dsimp only
  repeat' with_reducible first
    | assumption
    | apply State.modPseudo_kept
    | apply State.noteStop_kept
    | apply State.setPcFlag_kept

theorem execQuernDescriptorDequeue_kept {k : Fin 8} {p : Fin 64} (h : Kept q s) : OutKept q
    (execQuernDescriptorDequeue k p s) := by
  unfold execQuernDescriptorDequeue
  try dsimp only
  repeat' with_reducible first
    | assumption
    | apply OutKept.next
    | apply State.modPseudo_kept
    | apply State.refillQuern_kept
    | apply State.guardTrip_kept
    | split

theorem State.countVisits_kept {k : Nat} {p : Nat} {run : QuernRun} (h : Kept q s) : Kept q (State.countVisits s k p
    run) := by
  unfold State.countVisits
  try dsimp only
  repeat' with_reducible first
    | assumption
    | exact PairKept.left (by with_reducible assumption)
    | apply State.modStack_kept
    | split
    | refine fun c (hc : Stack.Canonical c) => ?_
    | exact Stack.canonical_of hc rfl rfl rfl
    | exact id
    | intro

theorem State.runChunk_kept {k : Nat} {p : Nat} {run : QuernRun} (h : Kept q s) : Kept q (State.runChunk s k p run) :=
    by
  unfold State.runChunk
  try dsimp only
  repeat' with_reducible first
    | assumption
    | apply Kept.foldl
    | exact PairKept.left (by with_reducible assumption)
    | apply State.countVisits_kept
    | apply State.modPseudo_kept
    | split
    | refine PairKept.fst (PairKept.foldl ?_ ?_)
    | exact id
    | intro

theorem State.beginChunk_kept {k p : Nat} (h : Kept q s) : Kept q (s.beginChunk k p) := by
  unfold State.beginChunk
  split
  · exact h
  · exact State.modPseudo_kept h

theorem execQuernChunkEnd_kept {k : Fin 8} {p : Fin 64} (h : Kept q s) : OutKept q (execQuernChunkEnd k p s) := by
  unfold execQuernChunkEnd
  try dsimp only
  repeat' with_reducible first
    | assumption
    | apply OutKept.event
    | apply OutKept.next
    | exact PairKept.left (by with_reducible assumption)
    | apply State.beginChunk_kept
    | apply State.countVisits_kept
    | apply State.modPseudo_kept
    | apply State.runChunk_kept
    | split
    | exact id
    | intro

theorem execQuernDescriptorEnd_kept {k : Fin 8} {p : Fin 64} (h : Kept q s) : OutKept q (execQuernDescriptorEnd k p s)
    := by
  unfold execQuernDescriptorEnd
  try dsimp only
  repeat' with_reducible first
    | assumption
    | apply OutKept.next
    | apply State.modPseudo_kept
    | apply State.writeResult_kept
    | apply State.refillQuern_kept
    | split

theorem State.startQuern_kept {plan : Plan} {item : Nat} {c : Nat} {csn : Nat} {action : Nat} (h : Kept q s) : Kept q
    (State.startQuern s plan item c csn action) := by
  unfold State.startQuern
  try dsimp only
  repeat' with_reducible first
    | assumption
    | apply Kept.foldl
    | apply State.modPseudo_kept
    | apply State.refillQuern_kept
    | intro

end Sys2Proof.Machine
end

