-- ==== Sys2Proof/Laws/KeptSweep.lean ====
section
/-! SUPPORT. Every operation of Machine/Sweep.lean leaves the queue alone and keeps the state canonical. -/

namespace Sys2Proof.Machine

variable {q : List Instr} {s t : State}

theorem State.resumePage_kept {c : Nat} {csn : Nat} {g : Nat} (h : Kept q s) : Kept q (State.resumePage s c csn g) :=
    by
  unfold State.resumePage
  try dsimp only
  repeat' with_reducible first
    | assumption
    | exact PairKept.left (by with_reducible assumption)
    | apply State.modCmd_kept
    | apply State.writeKey_kept
    | split
    | exact id
    | intro


theorem State.sweepNext_kept {c : Nat} {csn : Nat} (h : Kept q s) : Kept q (State.sweepNext s c csn) := by
  unfold State.sweepNext
  try dsimp only
  repeat' with_reducible first
    | assumption
    | apply Kept.foldl
    | exact PairKept.left (by with_reducible assumption)
    | apply Ran.finish_kept
    | apply State.dropLines_kept
    | apply State.finish_kept
    | apply State.modStack_kept
    | apply State.resumePage_kept
    | apply State.sweepSegment_kept
    | apply done_kept
    | refine HandledKept.of_reply (done_kept ?_) (by with_reducible assumption)
    | refine HandledKept.of_later (done_kept ?_) (by with_reducible assumption)
    | refine HandledKept.state (done_kept ?_)
    | split
    | refine fun c (hc : Stack.Canonical c) => ?_
    | exact Stack.canonical_of hc rfl rfl rfl
    | (refine PairKept.of_eq ?_ (by with_reducible assumption); apply State.sweepSegment_kept)
    | (refine PairKept.of_eq ?_ (by with_reducible assumption); split)
    | refine PairKept.fst (State.sweepSegment_kept ?_)
    | refine PairKept.fst (PairKept.foldl ?_ ?_)
    | exact id
    | intro

theorem State.sweepBlock_kept {a : Nat} {code : Nat} (h : Kept q s) : PairKept q (State.sweepBlock s a code) := by
  unfold State.sweepBlock
  try dsimp only
  repeat' with_reducible first
    | assumption
    | apply PairKept.mk
    | exact PairKept.left (by with_reducible assumption)
    | apply State.clearDamage_kept
    | apply State.clearKey_kept
    | apply State.poisonBlock_kept
    | apply State.readBlock_kept
    | split
    | (refine PairKept.of_eq ?_ (by with_reducible assumption); apply State.readBlock_kept)
    | (refine PairKept.of_eq ?_ (by with_reducible assumption); split)
    | refine PairKept.fst (State.readBlock_kept ?_)
    | refine PairKept.fst (PairKept.mk ?_)
    | exact id
    | intro

theorem State.sweepPages_kept {g : Nat} {code : Nat} {lo : Nat} {hi : Nat} (h : Kept q s) : PairKept q
    (State.sweepPages s g code lo hi) := by
  unfold State.sweepPages
  try dsimp only
  repeat' with_reducible first
    | assumption
    | apply PairKept.foldl
    | apply PairKept.mk
    | exact PairKept.left (by with_reducible assumption)
    | apply State.sweepBlock_kept
    | split
    | apply Kept.foldl
    | (refine PairKept.of_eq ?_ (by with_reducible assumption); apply State.sweepBlock_kept)
    | (refine PairKept.of_eq ?_ (by with_reducible assumption); split)
    | refine PairKept.fst (State.sweepBlock_kept ?_)
    | refine PairKept.fst (PairKept.foldl ?_ ?_)
    | refine PairKept.fst (PairKept.mk ?_)
    | exact id
    | intro

theorem State.sweepSegment_kept {g : Nat} {code : Nat} {from_ : Nat} (h : Kept q s) : PairKept q (State.sweepSegment s
    g code from_) := by
  unfold State.sweepSegment
  try dsimp only
  repeat' with_reducible first
    | assumption
    | apply PairKept.mk
    | exact PairKept.left (by with_reducible assumption)
    | apply State.clearKey_kept
    | apply State.setSegCode_kept
    | apply State.sweepPages_kept
    | split
    | (refine PairKept.of_eq ?_ (by with_reducible assumption); apply State.sweepPages_kept)
    | (refine PairKept.of_eq ?_ (by with_reducible assumption); split)
    | refine PairKept.fst (State.sweepPages_kept ?_)
    | refine PairKept.fst (PairKept.mk ?_)
    | exact id
    | intro

theorem State.interruptSweep_kept {k : Nat} (h : Kept q s) : Kept q (State.interruptSweep s k) := by
  unfold State.interruptSweep
  try dsimp only
  repeat' with_reducible first
    | assumption
    | exact PairKept.left (by with_reducible assumption)
    | apply State.modCmd_kept
    | apply State.modStack_kept
    | apply State.sweepPages_kept
    | apply State.sweepSegment_kept
    | split
    | refine fun c (hc : Stack.Canonical c) => ?_
    | exact Stack.canonical_of hc rfl rfl rfl
    | (refine PairKept.of_eq ?_ (by with_reducible assumption); apply State.sweepPages_kept)
    | (refine PairKept.of_eq ?_ (by with_reducible assumption); apply State.sweepSegment_kept)
    | (refine PairKept.of_eq ?_ (by with_reducible assumption); split)
    | refine PairKept.fst (State.sweepPages_kept ?_)
    | refine PairKept.fst (State.sweepSegment_kept ?_)
    | exact id
    | intro

theorem State.interruptSweeps_kept  (h : Kept q s) : Kept q (State.interruptSweeps s) := by
  unfold State.interruptSweeps
  try dsimp only
  repeat' with_reducible first
    | assumption
    | apply Kept.foldl
    | exact PairKept.left (by with_reducible assumption)
    | apply State.interruptSweep_kept
    | split
    | refine PairKept.fst (PairKept.foldl ?_ ?_)
    | exact id
    | intro

theorem State.sweepOn_kept {c : Nat} {csn : Nat} (h : Kept q s) : Kept q (State.sweepOn s c csn) := by
  unfold State.sweepOn
  try dsimp only
  repeat' with_reducible first
    | assumption
    | apply Kept.foldl
    | exact PairKept.left (by with_reducible assumption)
    | apply State.sweepNext_kept
    | split
    | refine PairKept.fst (PairKept.foldl ?_ ?_)
    | exact id
    | intro

theorem State.endSweep_kept {k : Nat} (h : Kept q s) : Kept q (State.endSweep s k) := by
  unfold State.endSweep
  try dsimp only
  repeat' with_reducible first
    | assumption
    | exact PairKept.left (by with_reducible assumption)
    | apply State.modCmd_kept
    | apply State.modStack_kept
    | apply State.sweepOn_kept
    | apply State.sweepSegment_kept
    | split
    | refine fun c (hc : Stack.Canonical c) => ?_
    | exact Stack.canonical_of hc rfl rfl rfl
    | (refine PairKept.of_eq ?_ (by with_reducible assumption); apply State.sweepSegment_kept)
    | (refine PairKept.of_eq ?_ (by with_reducible assumption); split)
    | refine PairKept.fst (State.sweepSegment_kept ?_)
    | exact id
    | intro

end Sys2Proof.Machine
end

