-- ==== Sys2Proof/Laws/KeptSchedule.lean ====
section
/-! SUPPORT. Every operation of Machine/Schedule.lean leaves the queue alone and keeps the state canonical. -/

namespace Sys2Proof.Machine

variable {q : List Instr} {s t : State}

theorem State.mapBooked_kept {f : Cmd → Cmd} (h : Kept q s) : Kept q (State.mapBooked s f) := by
  unfold State.mapBooked
  try dsimp only
  repeat' with_reducible first
    | assumption
    | exact PairKept.left (by with_reducible assumption)
    | apply State.mapCmds_kept
    | apply State.modJournal_kept
    | apply State.modSchedule_kept
    | split
    | exact id
    | intro

theorem State.addSlip_kept {d : Delay} (h : Kept q s) : Kept q (State.addSlip s d) := by
  unfold State.addSlip
  try dsimp only
  repeat' with_reducible first
    | assumption
    | exact PairKept.left (by with_reducible assumption)
    | apply State.mapBooked_kept
    | apply State.modSchedule_kept
    | split
    | exact id
    | intro

theorem State.lowerSlip_kept  (h : Kept q s) : Kept q (State.lowerSlip s) := by
  unfold State.lowerSlip
  try dsimp only
  repeat' with_reducible first
    | assumption
    | exact PairKept.left (by with_reducible assumption)
    | apply State.mapBooked_kept
    | apply State.modSchedule_kept
    | split
    | exact id
    | intro

theorem State.checkMiss_kept {c : Nat} {m : Cmd} (h : Kept q s) : Kept q (State.checkMiss s c m) := by
  unfold State.checkMiss
  try dsimp only
  repeat' with_reducible first
    | assumption
    | apply State.modCmd_kept
    | apply State.notice_kept
    | split

theorem State.checkMisses_kept (h : Kept q s) : Kept q (State.checkMisses s) := by
  unfold State.checkMisses
  try dsimp only
  repeat' with_reducible first
    | assumption
    | apply Kept.foldl
    | apply State.checkMiss_kept
    | intro

theorem State.replyStaged_kept {x : Staged} {r : Reply} (h : Kept q s) : Kept q (State.replyStaged s x r) := by
  unfold State.replyStaged
  try dsimp only
  repeat' with_reducible first
    | assumption
    | apply State.sendReply_kept
    | apply State.answerForward_kept
    | split

theorem State.journaled_kept {x : Staged} (h : Kept q s) : Kept q (State.journaled s x) := by
  unfold State.journaled
  try dsimp only
  repeat' with_reducible first
    | assumption
    | exact PairKept.left (by with_reducible assumption)
    | apply State.modSchedule_kept
    | apply State.modStagedGroups_kept
    | apply State.modStream_kept
    | apply State.replyStaged_kept
    | apply State.startCopy_kept
    | apply State.sweepNext_kept
    | apply State.wakeStacks_kept
    | split
    | exact id
    | intro

theorem State.unjournaled_kept {x : Staged} (h : Kept q s) : Kept q (State.unjournaled s x) := by
  unfold State.unjournaled
  try dsimp only
  repeat' with_reducible first
    | assumption
    | apply State.undoBooked_kept
    | apply State.endCopy_kept
    | apply State.replyStaged_kept
    | split

theorem State.effectHeld_kept {e : Effect} (h : Kept q s) : Kept q (State.effectHeld s e) := by
  unfold State.effectHeld
  try dsimp only
  repeat' with_reducible first
    | assumption
    | exact PairKept.left (by with_reducible assumption)
    | apply State.deliverReply_kept
    | apply State.drop_kept
    | apply State.modJournal_kept
    | apply State.number_kept
    | split
    | exact id
    | intro

theorem State.unstage_kept  (h : Kept q s) : Kept q (State.unstage s) := by
  unfold State.unstage
  try dsimp only
  repeat' with_reducible first
    | assumption
    | exact PairKept.left (by with_reducible assumption)
    | apply State.drop_kept
    | apply State.modJournal_kept
    | split
    | exact id
    | intro

theorem execJournalWriteAck_kept {ok : Bool} (h : Kept q s) : OutKept q (execJournalWriteAck ok s) := by
  unfold execJournalWriteAck
  try dsimp only
  repeat' with_reducible first
    | assumption
    | apply OutKept.event
    | apply OutKept.next
    | exact PairKept.left (by with_reducible assumption)
    | apply State.effectHeld_kept
    | apply State.journaled_kept
    | apply State.unjournaled_kept
    | apply State.unstage_kept
    | split
    | exact id
    | intro

theorem State.beginSchedule_kept {c : Nat} {m : Cmd} (h : Kept q s) : Kept q (s.beginSchedule c m) :=
  Kept.foldl (State.writeScratch_kept h) fun _ _ h => State.modCore_kept h fun _ hc =>
    { hc with
      barriers := swf_nil
      channels := by dsimp only; exact hc.channels.smap (f := fun _ y => { y with done := 0, enqueued := 0 }) fun _ _ h => h }

theorem State.restoreBarriers_kept {m : Cmd} (h : Kept q s) : Kept q (s.restoreBarriers m) :=
  Kept.foldl (Kept.foldl h fun _ _ h => State.modCore_kept h fun _ hc => { hc with barriers := swf_nil })
    fun _ _ h => State.modCore_kept h fun _ hc => { hc with barriers := swf_sput hc.barriers }

theorem State.beginCmd_kept {c : Nat} {m : Cmd} (h : Kept q s) : Kept q (State.beginCmd s c m) := by
  unfold State.beginCmd
  try dsimp only
  repeat' with_reducible first
    | assumption
    | apply State.modCmd_kept
    | apply State.beginSchedule_kept
    | apply State.restoreBarriers_kept
    | split

theorem State.startUnits_kept {c : Nat} {m : Cmd} {i : Nat} {e : SlotEntry} (h : Kept q s) : Kept q (State.startUnits
    s c m i e) := by
  unfold State.startUnits
  try dsimp only
  repeat' with_reducible first
    | assumption
    | apply Kept.foldl
    | apply State.startGroup_kept
    | apply State.startCore_kept
    | apply State.startHopper_kept
    | apply State.startQuern_kept
    | apply State.restoreChannels_kept
    | split
    | intro

theorem State.noteSlowed_kept  (h : Kept q s) : Kept q (State.noteSlowed s) := by
  unfold State.noteSlowed
  try dsimp only
  repeat' with_reducible first
    | assumption
    | exact PairKept.left (by with_reducible assumption)
    | apply State.mapCmds_kept
    | split
    | exact id
    | intro

theorem State.noteMoved_kept  (h : Kept q s) : Kept q (State.noteMoved s) := by
  unfold State.noteMoved
  try dsimp only
  repeat' with_reducible first
    | assumption
    | exact PairKept.left (by with_reducible assumption)
    | apply State.mapCmds_kept
    | split
    | exact id
    | intro

theorem State.startAction_kept {c : Nat} {csn : Nat} {i : Nat} (h : Kept q s) : Kept q (State.startAction s c csn i)
    := by
  unfold State.startAction
  try dsimp only
  repeat' with_reducible first
    | assumption
    | exact PairKept.left (by with_reducible assumption)
    | apply State.addSlip_kept
    | apply State.beginCmd_kept
    | apply State.checkMisses_kept
    | apply State.modCmd_kept
    | apply State.modSchedule_kept
    | apply State.noteMoved_kept
    | apply State.noteSlowed_kept
    | apply State.startUnits_kept
    | split
    | exact id
    | intro

theorem execActionStart_kept {c : Nat} {csn : Nat} {i : Nat} (h : Kept q s) : OutKept q (execActionStart c csn i s) :=
    by
  unfold execActionStart
  try dsimp only
  repeat' with_reducible first
    | assumption
    | apply OutKept.event
    | apply OutKept.next
    | exact PairKept.left (by with_reducible assumption)
    | apply State.startAction_kept
    | split
    | exact id
    | intro

theorem State.beginDue_kept  (h : Kept q s) : Kept q (State.beginDue s) := by
  unfold State.beginDue
  try dsimp only
  repeat' with_reducible first
    | assumption
    | apply Kept.foldl
    | exact PairKept.left (by with_reducible assumption)
    | apply State.beginCmd_kept
    | split
    | refine PairKept.fst (PairKept.foldl ?_ ?_)
    | exact id
    | intro

theorem State.startDue_kept  (h : Kept q s) : Kept q (State.startDue s) := by
  unfold State.startDue
  try dsimp only
  repeat' with_reducible first
    | assumption
    | apply Kept.foldl
    | exact PairKept.left (by with_reducible assumption)
    | apply State.beginDue_kept
    | apply State.startAction_kept
    | split
    | refine PairKept.fst (PairKept.foldl ?_ ?_)
    | exact id
    | intro

theorem State.startHeld_kept {c : Nat} {csn : Nat} {k : Nat} (h : Kept q s) : Kept q (State.startHeld s c csn k) := by
  unfold State.startHeld
  try dsimp only
  repeat' with_reducible first
    | assumption
    | apply State.startCore_kept
    | split

theorem execActionEnd_kept {c : Nat} {csn : Nat} {i : Nat} (h : Kept q s) : OutKept q (execActionEnd c csn i s) := by
  unfold execActionEnd
  try dsimp only
  repeat' with_reducible first
    | assumption
    | apply Core.endAction_canonical
    | split
    | apply Kept.foldl
    | apply OutKept.next
    | apply State.modCmd_kept
    | apply State.onCore_kept
    | apply State.startHeld_kept
    | intro

theorem execActionWindowEnd_kept {c : Nat} {csn : Nat} {i : Nat} (h : Kept q s) : OutKept q (execActionWindowEnd c csn
    i s) := by
  unfold execActionWindowEnd
  try dsimp only
  repeat' with_reducible first
    | assumption
    | apply OutKept.event
    | apply OutKept.next
    | exact PairKept.left (by with_reducible assumption)
    | apply State.modCmd_kept
    | apply State.setAside_kept
    | split
    | exact id
    | intro

theorem State.tryFiller_kept {c : Nat} {csn : Nat} (h : Kept q s) : Kept q (State.tryFiller s c csn) := by
  unfold State.tryFiller
  try dsimp only
  repeat' with_reducible first
    | assumption
    | exact PairKept.left (by with_reducible assumption)
    | apply State.modCmd_kept
    | apply State.modSchedule_kept
    | apply State.wakeStacks_kept
    | split
    | exact id
    | intro

theorem execFillerStart_kept (h : Kept q s) : OutKept q (execFillerStart s) := by
  unfold execFillerStart
  try dsimp only
  repeat' with_reducible first
    | assumption
    | apply Kept.foldl
    | apply OutKept.next
    | apply State.tryFiller_kept
    | split
    | intro

theorem execBookingExpiry_kept {n : Nat} (h : Kept q s) : OutKept q (execBookingExpiry n s) := by
  unfold execBookingExpiry
  try dsimp only
  repeat' with_reducible first
    | assumption
    | apply OutKept.event
    | apply State.modSchedule_kept

theorem execCommandStop_kept {c : Nat} {csn : Nat} (h : Kept q s) : OutKept q (execCommandStop c csn s) := by
  unfold execCommandStop
  try dsimp only
  repeat' with_reducible first
    | assumption
    | apply OutKept.event
    | apply OutKept.next
    | exact PairKept.left (by with_reducible assumption)
    | apply Ran.finish_kept
    | apply State.finish_kept
    | apply State.stopCommand_kept
    | apply State.watchCores_kept
    | split
    | exact id
    | intro

theorem execCommandTimeout_kept {c : Nat} {csn : Nat} (h : Kept q s) : OutKept q (execCommandTimeout c csn s) := by
  unfold execCommandTimeout
  try dsimp only
  repeat' with_reducible first
    | assumption
    | apply OutKept.next
    | apply State.setTroubleBit_kept
    | apply State.snapshotCores_kept
    | apply State.noteStop_kept
    | split

theorem execPromiseSuspend_kept {c : Nat} {csn : Nat} (h : Kept q s) : OutKept q (execPromiseSuspend c csn s) := by
  unfold execPromiseSuspend
  try dsimp only
  repeat' with_reducible first
    | assumption
    | apply OutKept.event
    | apply OutKept.next
    | exact PairKept.left (by with_reducible assumption)
    | apply State.modCmd_kept
    | apply State.notice_kept
    | apply State.setAsideAll_kept
    | apply event_kept
    | split
    | exact id
    | intro

theorem execResultFrameHandoff_kept {c : Nat} {csn : Nat} (h : Kept q s) : OutKept q (execResultFrameHandoff c csn s)
    := by
  unfold execResultFrameHandoff
  try dsimp only
  repeat' with_reducible first
    | assumption
    | apply OutKept.event
    | apply OutKept.next
    | exact PairKept.left (by with_reducible assumption)
    | apply State.modCmd_kept
    | apply State.sendResults_kept
    | split
    | exact id
    | intro

theorem State.endWork_kept {c : Nat} {m : Cmd} (h : Kept q s) : PairKept q (State.endWork s c m) := by
  unfold State.endWork
  try dsimp only
  repeat' with_reducible first
    | assumption
    | apply PairKept.mk
    | exact PairKept.left (by with_reducible assumption)
    | apply State.constsLost_kept
    | apply State.loadPlan_kept
    | apply State.restoreImage_kept
    | apply State.saveImage_kept
    | apply done_kept
    | refine HandledKept.of_reply (done_kept ?_) (by with_reducible assumption)
    | refine HandledKept.of_later (done_kept ?_) (by with_reducible assumption)
    | refine HandledKept.state (done_kept ?_)
    | split
    | (refine PairKept.of_eq ?_ (by with_reducible assumption); apply State.constsLost_kept)
    | (refine PairKept.of_eq ?_ (by with_reducible assumption); apply State.restoreImage_kept)
    | (refine PairKept.of_eq ?_ (by with_reducible assumption); apply State.saveImage_kept)
    | (refine PairKept.of_eq ?_ (by with_reducible assumption); split)
    | refine PairKept.fst (State.constsLost_kept ?_)
    | refine PairKept.fst (State.restoreImage_kept ?_)
    | refine PairKept.fst (State.saveImage_kept ?_)
    | refine PairKept.fst (PairKept.mk ?_)
    | exact id
    | intro

theorem execCommandCompletion_kept {c : Nat} {csn : Nat} (h : Kept q s) : OutKept q (execCommandCompletion c csn s) :=
    by
  unfold execCommandCompletion
  try dsimp only
  repeat' with_reducible first
    | assumption
    | apply OutKept.next
    | apply State.finish_kept
    | refine PairKept.fst (State.endWork_kept ?_)
    | split

end Sys2Proof.Machine
end

