-- ==== Sys2Proof/Laws/KeptRecovery.lean ====
section
/-! SUPPORT. Every operation of Machine/Recovery.lean leaves the queue alone and keeps the state canonical. -/

namespace Sys2Proof.Machine

variable {q : List Instr} {s t : State}

theorem Core.rebooted_canonical {x : Core} (h : x.Canonical) : x.rebooted.Canonical := by
  constructor
  case channels => unfold Core.rebooted; dsimp only; exact h.channels.smap fun _ _ _ => Nat.zero_le _
  all_goals first | exact swf_nil | rfl

theorem State.dropFlights_kept {l : List Nat} (h : Kept q s) : Kept q (s.dropFlights l) :=
  Kept.foldl h fun _ _ h => State.countStales_kept h

theorem State.holdCores_kept {l : List Nat} (h : Kept q s) : Kept q (State.holdCores s l) := by
  unfold State.holdCores
  try dsimp only
  repeat' with_reducible first
    | assumption
    | apply State.dropFlights_kept
    | apply Core.rebooted_canonical
    | refine Core.canonical_ctor ?_ rfl rfl rfl rfl rfl rfl
    | apply Kept.foldl
    | apply State.modCore_kept
    | refine fun c (hc : Core.Canonical c) => ?_
    | intro

theorem State.freeCores_kept {l : List Nat} (h : Kept q s) : Kept q (State.freeCores s l) := by
  unfold State.freeCores
  try dsimp only
  repeat' with_reducible first
    | assumption
    | split
    | refine Core.canonical_ctor ?_ rfl rfl rfl rfl rfl rfl
    | apply Kept.foldl
    | apply State.modCore_kept
    | refine fun c (hc : Core.Canonical c) => ?_
    | intro

theorem State.recovered_kept {level : Nat} {cause : Nat} {object : Nat} {scope : Nat × Nat} {duration : Nat} (h : Kept
    q s) : Kept q (State.recovered s level cause object scope duration) := by
  unfold State.recovered
  try dsimp only
  repeat' with_reducible first
    | assumption
    | apply State.modDev_kept
    | apply State.writeLog_kept
    | exact id

theorem State.markStarted_kept {d : Nat} (h : Kept q s) : Kept q (State.markStarted s d) := by
  unfold State.markStarted
  exact Kept.foldl h fun _ _ h => State.modStream_kept h

theorem State.giveUpAll_kept (h : Kept q s) : Kept q (State.giveUpAll s) := by
  unfold State.giveUpAll
  try dsimp only
  repeat' with_reducible first
    | assumption
    | apply Kept.foldl
    | apply State.giveUp_kept

theorem State.enterFaulted_kept {cause : Nat} {object : Nat} {scope : Nat × Nat} {suspects : Bool} (h : Kept q s) :
    Kept q (State.enterFaulted s cause object scope suspects) := by
  unfold State.enterFaulted
  try dsimp only
  repeat' with_reducible first
    | assumption
    | apply Kept.foldl
    | exact PairKept.left (by with_reducible assumption)
    | apply State.giveUpAll_kept
    | apply State.interruptSweeps_kept
    | apply State.modDev_kept
    | apply State.recovered_kept
    | apply State.setTroubleBit_kept
    | apply State.snapshotCores_kept
    | apply State.snapshotLink_kept
    | split
    | refine PairKept.fst (PairKept.foldl ?_ ?_)
    | exact id
    | intro

theorem State.interrupt_kept {c : Nat} {cause : Nat} (h : Kept q s) : Kept q (State.interrupt s c cause) := by
  unfold State.interrupt
  try dsimp only
  repeat' with_reducible first
    | assumption
    | apply State.modContext_kept
    | apply State.advanceGeneration_kept
    | apply State.giveUp_kept
    | refine fun c (hc : Context.Canonical c) => ?_
    | exact Context.canonical_of hc rfl

theorem State.lateResets_kept {g : Nat} (h : Kept q s) : Kept q (State.lateResets s g) := by
  unfold State.lateResets
  try dsimp only
  repeat' with_reducible first
    | assumption
    | apply Kept.foldl
    | exact PairKept.left (by with_reducible assumption)
    | apply State.modContext_kept
    | apply reset_kept
    | split
    | refine fun c (hc : Context.Canonical c) => ?_
    | exact Context.canonical_of hc rfl
    | refine PairKept.fst (PairKept.foldl ?_ ?_)
    | exact id
    | intro

theorem State.groupsBack_kept {p : Nat → Bool} (h : Kept q s) : Kept q (State.groupsBack s p) :=
  h.with_contexts (h.contexts.smap fun _ _ hc => hc)

theorem State.answerLate_kept  (h : Kept q s) : Kept q (State.answerLate s) := by
  unfold State.answerLate
  try dsimp only
  repeat' with_reducible first
    | assumption
    | apply Kept.foldl
    | exact PairKept.left (by with_reducible assumption)
    | apply State.conclude_kept
    | apply State.modContext_kept
    | apply State.number_kept
    | apply reset_kept
    | split
    | refine fun c (hc : Context.Canonical c) => ?_
    | exact Context.canonical_of hc rfl
    | refine PairKept.fst (PairKept.foldl ?_ ?_)
    | exact id
    | intro

theorem State.resetGroup_kept {p : Nat} (h : Kept q s) : Kept q (State.resetGroup s p) := by
  unfold State.resetGroup
  try dsimp only
  repeat' with_reducible first
    | assumption
    | apply Kept.foldl
    | exact PairKept.left (by with_reducible assumption)
    | apply State.holdCores_kept
    | apply State.interrupt_kept
    | apply State.lateResets_kept
    | apply State.modDev_kept
    | apply State.releaseUnmaps_kept
    | apply State.setTroubleBit_kept
    | apply State.snapshotCores_kept
    | apply reset_kept
    | split
    | refine PairKept.fst (PairKept.foldl ?_ ?_)
    | exact id
    | intro

theorem State.resetsOver_kept  (h : Kept q s) : Kept q (State.resetsOver s) := by
  unfold State.resetsOver
  try dsimp only
  repeat' with_reducible first
    | assumption
    | exact PairKept.left (by with_reducible assumption)
    | apply State.modDev_kept
    | split
    | exact id
    | intro

theorem execCoreStopWatchdog_kept {p : Fin 256} (h : Kept q s) : OutKept q (execCoreStopWatchdog p s) := by
  unfold execCoreStopWatchdog
  try dsimp only
  repeat' with_reducible first
    | assumption
    | apply OutKept.event
    | apply State.resetGroup_kept

theorem execCoreGroupResetDone_kept {g : Fin 64} (h : Kept q s) : OutKept q (execCoreGroupResetDone g s) := by
  unfold execCoreGroupResetDone
  try dsimp only
  repeat' with_reducible first
    | assumption
    | apply OutKept.event
    | apply OutKept.next
    | exact PairKept.left (by with_reducible assumption)
    | apply State.freeCores_kept
    | apply State.groupsBack_kept
    | apply State.modDev_kept
    | apply State.recovered_kept
    | apply State.resetsOver_kept
    | split
    | exact id
    | intro

theorem State.logStuck_kept {d : Nat} {l : List (Nat × Nat)} (h : Kept q s) : Kept q (State.logStuck s d l) := by
  unfold State.logStuck
  try dsimp only
  repeat' with_reducible first
    | assumption
    | apply Kept.foldl
    | apply State.writeLog_kept
    | intro

theorem State.convict_kept {c : Nat} (h : Kept q s) : Kept q (State.convict s c) := by
  unfold State.convict
  try dsimp only
  repeat' with_reducible first
    | assumption
    | apply Kept.foldl
    | apply State.modContext_kept
    | apply State.modDev_kept
    | apply State.writeLog_kept
    | apply State.setTroubleBit_kept
    | apply State.endReset_kept
    | apply State.advanceGeneration_kept
    | refine fun c (hc : Context.Canonical c) => ?_
    | exact Context.canonical_of hc rfl
    | exact id
    | intro

theorem State.stopStarted_kept {d : Nat} (h : Kept q s) : Kept q (State.stopStarted s d) := by
  unfold State.stopStarted
  try dsimp only
  repeat' with_reducible first
    | assumption
    | apply Kept.foldl
    | apply State.markStarted_kept
    | apply State.modCmd_kept
    | apply State.stopCommand_kept
    | intro

theorem State.resetDie_kept {d : Nat} {cause : Nat} {stuck : List (Nat × Nat)} (h : Kept q s) : Kept q (State.resetDie
    s d cause stuck) := by
  unfold State.resetDie
  try dsimp only
  repeat' with_reducible first
    | assumption
    | apply Kept.foldl
    | exact PairKept.left (by with_reducible assumption)
    | apply State.convict_kept
    | apply State.enterFaulted_kept
    | apply State.holdCores_kept
    | apply State.logStuck_kept
    | apply State.markStarted_kept
    | apply State.modDev_kept
    | apply State.releaseUnmaps_kept
    | apply State.setTroubleBit_kept
    | apply State.snapshotCores_kept
    | apply State.snapshotLink_kept
    | apply State.stopStarted_kept
    | split
    | refine PairKept.fst (PairKept.foldl ?_ ?_)
    | exact id
    | intro

theorem execCoreGroupResetCheck_kept {g : Fin 64} (h : Kept q s) : OutKept q (execCoreGroupResetCheck g s) := by
  unfold execCoreGroupResetCheck
  try dsimp only
  repeat' with_reducible first
    | assumption
    | apply OutKept.event
    | apply State.resetDie_kept

theorem execMeshProgressWatchdog_kept {d : Fin 4} {stuck : List (Nat × Nat)} (h : Kept q s) : OutKept q
    (execMeshProgressWatchdog d stuck s) := by
  unfold execMeshProgressWatchdog
  try dsimp only
  repeat' with_reducible first
    | assumption
    | apply OutKept.event
    | apply State.resetDie_kept

theorem State.quarantine_kept {c : Nat} {n : Nat} {i : Nat} (h : Kept q s) : Kept q (State.quarantine s c n i) := by
  unfold State.quarantine
  try dsimp only
  repeat' with_reducible first
    | assumption
    | apply State.modContext_kept
    | apply State.modDev_kept
    | apply State.modStream_kept
    | apply State.writeLog_kept
    | apply State.setTroubleBit_kept
    | refine fun c (hc : Context.Canonical c) => ?_
    | exact Context.canonical_of hc rfl
    | exact id

theorem State.interruptStarted_kept {c d cause : Nat} (h : Kept q s) : Kept q (s.interruptStarted c d cause) := by
  unfold State.interruptStarted
  dsimp only
  split
  · exact State.modStream_kept h
  · refine State.modStream_kept (State.modContext_kept (State.advanceGeneration_kept (State.giveUpStarted_kept
      (State.modStream_kept h))) fun _ hc => ?_)
    exact Context.canonical_of hc rfl

theorem State.makeSuspects_kept {suspect : Bool} {d cause : Nat} (h : Kept q s) : Kept q (State.makeSuspects s suspect d
    cause) := by
  unfold State.makeSuspects
  refine Kept.foldl h fun _ _ h => ?_
  dsimp only
  split
  · exact State.quarantine_kept (State.interrupt_kept h)
  · exact State.interruptStarted_kept h

theorem State.relink_kept {d : Nat} (h : Kept q s) : Kept q (State.relink s d) := by
  unfold State.relink
  refine State.reroute_kept (Kept.foldl (State.modDev_kept h id id) fun _ i h => State.modLink_kept h fun l hc => ?_)
  exact Family.smap (f := fun _ b => { b with aToB := b.aToB.restarted, bToA := b.bToA.restarted }) hc fun _ _ _ =>
    ⟨Nat.zero_le _, Nat.zero_le _⟩

theorem execDieResetDone_kept {d : Fin 4} (h : Kept q s) : OutKept q (execDieResetDone d s) := by
  unfold execDieResetDone
  try dsimp only
  repeat' with_reducible first
    | assumption
    | apply OutKept.event
    | apply OutKept.next
    | exact PairKept.left (by with_reducible assumption)
    | apply State.freeCores_kept
    | apply State.groupsBack_kept
    | apply State.makeSuspects_kept
    | apply State.modDev_kept
    | apply State.recovered_kept
    | apply State.relink_kept
    | apply State.replayStep_kept
    | apply State.resetsOver_kept
    | split
    | exact id
    | intro

theorem execDieResetCheck_kept {d : Fin 4} (h : Kept q s) : OutKept q (execDieResetCheck d s) := by
  unfold execDieResetCheck
  try dsimp only
  repeat' with_reducible first
    | assumption
    | apply OutKept.event
    | apply OutKept.next
    | exact PairKept.left (by with_reducible assumption)
    | apply State.enterFaulted_kept
    | apply State.markStarted_kept
    | apply event_kept
    | split
    | exact id
    | intro

theorem execMaelynWatchdog_kept (h : Kept q s) : OutKept q (execMaelynWatchdog s) := by
  unfold execMaelynWatchdog
  try dsimp only
  repeat' with_reducible first
    | assumption
    | apply OutKept.event
    | apply State.enterFaulted_kept

theorem execJournalKeeperWatchdog_kept (h : Kept q s) : OutKept q (execJournalKeeperWatchdog s) := by
  unfold execJournalKeeperWatchdog
  try dsimp only
  repeat' with_reducible first
    | assumption
    | apply OutKept.event
    | apply State.enterFaulted_kept

end Sys2Proof.Machine
end

