-- ==== Sys2Proof/Laws/KeptBundles.lean ====
section
/-! SUPPORT. Every operation of Machine/Bundles.lean leaves the queue untouched and a canonical state canonical. -/

namespace Sys2Proof.Machine

variable {q : List Instr} {s : State}

theorem Bundle.dir_fits {b : Bundle} {toB : Bool} (h : b.Fits) : (b.dir toB).Fits := by
  cases toB
  · exact h.2
  · exact h.1

theorem Bundle.setDir_fits {b : Bundle} {toB : Bool} {d : LinkDir} (h : b.Fits) (hd : d.Fits) : (b.setDir toB d).Fits := by
  cases toB
  · exact ⟨h.1, hd⟩
  · exact ⟨hd, h.2⟩

theorem Kept.linkDir (h : Kept q s) (i b : Nat) (toB : Bool) : (s.linkDir i b toB).Fits :=
  Bundle.dir_fits (Link.bundle_fits (h.link i))

theorem State.setLinkDir_kept {i : Nat} {b : Nat} {toB : Bool} {d : LinkDir} (h : Kept q s) (hd : d.Fits) :
    Kept q (State.setLinkDir s i b toB d) :=
  State.modLink_kept h fun _ hc => Link.setBundle_canonical hc (Bundle.setDir_fits (Link.bundle_fits hc) hd)

theorem State.degrade_kept  (h : Kept q s) : Kept q (State.degrade s) := by
  unfold State.degrade
  try dsimp only
  repeat' with_reducible first
    | assumption
    | exact PairKept.left (by with_reducible assumption)
    | apply State.modDev_kept
    | split
    | exact id
    | intro

theorem State.moveFlits_kept {i : Nat} {b : Nat} (h : Kept q s) : Kept q (State.moveFlits s i b) := by
  unfold State.moveFlits
  refine Kept.foldl h fun s toB h => State.setLinkDir_kept ?_ (Nat.zero_le _)
  dsimp only
  split
  · exact State.setLinkDir_kept h (h.linkDir i _ toB)
  · exact h

theorem State.removeBundle_kept {i : Nat} {b : Nat} (h : Kept q s) : Kept q (State.removeBundle s i b) := by
  unfold State.removeBundle
  try dsimp only
  repeat' with_reducible first
    | assumption
    | exact PairKept.left (by with_reducible assumption)
    | apply State.degrade_kept
    | apply State.enterFaulted_kept
    | apply State.modLink_kept
    | apply State.moveFlits_kept
    | apply State.reroute_kept
    | apply State.setTroubleBit_kept
    | split
    | refine fun c (hc : Link.Canonical c) => ?_
    | exact Link.canonical_of hc rfl
    | exact Link.setBundle_canonical hc (by with_unfolding_all exact Link.bundle_fits hc)
    | exact id
    | intro

theorem State.failBundle_kept {i : Nat} {b : Nat} (h : Kept q s) : Kept q (State.failBundle s i b) := by
  unfold State.failBundle
  try dsimp only
  repeat' with_reducible first
    | assumption
    | exact PairKept.left (by with_reducible assumption)
    | apply State.modLink_kept
    | split
    | refine fun c (hc : Link.Canonical c) => ?_
    | exact Link.canonical_of hc rfl
    | exact Link.setBundle_canonical hc (by with_unfolding_all exact Link.bundle_fits hc)
    | exact id
    | intro

theorem State.endBundles_kept  (h : Kept q s) : Kept q (State.endBundles s) := by
  unfold State.endBundles
  try dsimp only
  repeat' with_reducible first
    | assumption
    | apply Kept.foldl
    | exact PairKept.left (by with_reducible assumption)
    | apply State.removeBundle_kept
    | split
    | refine PairKept.fst (PairKept.foldl ?_ ?_)
    | exact id
    | intro

theorem State.divertDue_kept  (h : Kept q s) : Kept q (State.divertDue s) := by
  unfold State.divertDue
  try dsimp only
  repeat' with_reducible first
    | assumption
    | apply Kept.foldl
    | exact PairKept.left (by with_reducible assumption)
    | apply State.modDev_kept
    | apply State.modLink_kept
    | apply State.reroute_kept
    | apply State.setTroubleBit_kept
    | split
    | refine fun c (hc : Link.Canonical c) => ?_
    | exact Link.canonical_of hc rfl
    | refine PairKept.fst (PairKept.foldl ?_ ?_)
    | exact id
    | intro

theorem State.endLinks_kept  (h : Kept q s) : Kept q (State.endLinks s) := by
  unfold State.endLinks
  try dsimp only
  repeat' with_reducible first
    | assumption
    | exact PairKept.left (by with_reducible assumption)
    | apply State.divertDue_kept
    | apply State.endBundles_kept
    | apply State.noteMoved_kept
    | apply State.routesReturn_kept
    | split
    | exact id
    | intro

end Sys2Proof.Machine
end

