-- ==== Sys2Proof/Laws/KeptInfo.lean ====
section
/-! SUPPORT. Every operation of Machine/Info.lean leaves the queue alone and keeps the state canonical. -/

namespace Sys2Proof.Machine

variable {q : List Instr} {s t : State}

theorem bodyStatusDevice_kept {f : Frame} (h : Kept q s) : HandledKept q (bodyStatusDevice f s) := by
  unfold bodyStatusDevice
  try dsimp only
  repeat' with_reducible first
    | assumption
    | apply HandledKept.checked
    | apply HandledKept.done

theorem bodyStatusContext_kept {f : Frame} (h : Kept q s) : HandledKept q (bodyStatusContext f s) := by
  unfold bodyStatusContext
  try dsimp only
  repeat' with_reducible first
    | assumption
    | apply HandledKept.checked
    | apply HandledKept.done

theorem bodyLogRead_kept {f : Frame} {x : Session} (h : Kept q s) : HandledKept q (bodyLogRead f x s) := by
  unfold bodyLogRead
  try dsimp only
  repeat' with_reducible first
    | assumption
    | apply HandledKept.checked
    | apply HandledKept.done
    | split

theorem State.latchPosition_kept {a : Nat} {n : Nat} (h : Kept q s) : Kept q (State.latchPosition s a n) := by
  unfold State.latchPosition
  try dsimp only
  repeat' with_reducible first
    | assumption
    | apply State.modWheel_kept
    | split
    | exact id

theorem bodyRegRead_kept {f : Frame} {x : Session} (h : Kept q s) : HandledKept q (bodyRegRead f x s) := by
  unfold bodyRegRead
  try dsimp only
  repeat' with_reducible first
    | assumption
    | apply HandledKept.checked
    | apply HandledKept.zeroField
    | apply HandledKept.done
    | apply State.latchPosition_kept

theorem State.writeRw_kept {r : RwReg} {v : Nat} (h : Kept q s) : Kept q (State.writeRw s r v) := by
  unfold State.writeRw
  try dsimp only
  repeat' with_reducible first
    | assumption
    | apply State.modPower_kept
    | apply State.modDev_kept
    | apply State.modWheel_kept
    | apply State.modPort_kept
    | apply State.setSource_kept
    | split
    | exact id

theorem State.writeReg_kept {a : Nat} {v : Nat} (h : Kept q s) : Kept q (State.writeReg s a v) := by
  unfold State.writeReg
  try dsimp only
  repeat' with_reducible first
    | assumption
    | apply State.clearTrouble_kept
    | apply State.clearFlags_kept
    | apply State.clearCounter_kept
    | apply State.writeRw_kept
    | split

theorem bodyRegWrite_kept {f : Frame} (h : Kept q s) : HandledKept q (bodyRegWrite f s) := by
  unfold bodyRegWrite
  try dsimp only
  repeat' with_reducible first
    | assumption
    | apply HandledKept.checked
    | apply HandledKept.done
    | apply State.modDev_kept
    | exact id

theorem State.applyWrites_kept (h : Kept q s) : Kept q s.applyWrites :=
  Kept.foldl (State.modDev_kept h id id) fun _ _ h => State.writeReg_kept h

end Sys2Proof.Machine
end

