-- ==== Sys2Proof/Laws/KeptInject.lean ====
section
/-! SUPPORT. Every operation of Machine/Inject.lean leaves the queue alone and keeps the state canonical. -/

namespace Sys2Proof.Machine

variable {q : List Instr} {s t : State}

theorem State.forgetEnded_kept  (h : Kept q s) : Kept q (State.forgetEnded s) := by
  unfold State.forgetEnded
  try dsimp only
  repeat' with_reducible first
    | assumption
    | exact PairKept.left (by with_reducible assumption)
    | split
    | refine Kept.ctor ?_ rfl rfl rfl rfl rfl rfl rfl rfl rfl rfl rfl rfl rfl rfl rfl rfl rfl rfl rfl rfl rfl rfl
    | exact id
    | intro


theorem State.arm_kept {f : Frame} {j : Injection} (h : Kept q s) : HandledKept q (State.arm s f j) := by
  unfold State.arm
  try dsimp only
  repeat' with_reducible first
    | assumption
    | apply HandledKept.checked
    | apply HandledKept.zeroField
    | apply HandledKept.done
    | apply HandledKept.reply
    | apply HandledKept.later
    | exact PairKept.left (by with_reducible assumption)
    | apply State.logInjected_kept
    | apply State.number_kept
    | apply done_kept
    | refine HandledKept.of_reply (done_kept ?_) (by with_reducible assumption)
    | refine HandledKept.of_later (done_kept ?_) (by with_reducible assumption)
    | refine HandledKept.state (done_kept ?_)
    | split
    | refine Kept.ctor ?_ rfl rfl rfl rfl rfl rfl rfl rfl rfl rfl rfl rfl rfl rfl rfl rfl rfl rfl rfl rfl rfl rfl
    | exact id
    | intro

theorem State.failLane_kept {link bundle direction lane : Nat} (h : Kept q s) : Kept q (s.failLane link bundle direction lane) :=
  State.modLink_kept h fun _ hc => Link.setBundle_canonical hc (by dsimp only; split <;> exact Link.bundle_fits hc)

theorem bodyInjectLink_kept {f : Frame} (h : Kept q s) : HandledKept q (bodyInjectLink f s) := by
  unfold bodyInjectLink
  try dsimp only
  repeat' with_reducible first
    | assumption
    | apply HandledKept.checked
    | apply HandledKept.zeroField
    | apply HandledKept.done
    | apply HandledKept.reply
    | apply HandledKept.later
    | exact PairKept.left (by with_reducible assumption)
    | apply State.arm_kept
    | refine HandledKept.of_reply (State.arm_kept ?_) (by with_reducible assumption)
    | refine HandledKept.of_later (State.arm_kept ?_) (by with_reducible assumption)
    | refine HandledKept.state (State.arm_kept ?_)
    | apply State.forgetEnded_kept
    | apply State.number_kept
    | split
    | exact id
    | intro

theorem State.failLanes_kept  (h : Kept q s) : Kept q (State.failLanes s) := by
  unfold State.failLanes
  try dsimp only
  repeat' with_reducible first
    | assumption
    | apply Kept.foldl
    | exact PairKept.left (by with_reducible assumption)
    | apply State.failLane_kept
    | apply State.injectionHit_kept
    | split
    | refine PairKept.fst (PairKept.foldl ?_ ?_)
    | exact id
    | intro

theorem bodyInjectPort_kept {f : Frame} (h : Kept q s) : HandledKept q (bodyInjectPort f s) := by
  unfold bodyInjectPort
  try dsimp only
  repeat' with_reducible first
    | assumption
    | apply HandledKept.checked
    | apply HandledKept.zeroField
    | apply HandledKept.done
    | apply HandledKept.reply
    | apply HandledKept.later
    | exact PairKept.left (by with_reducible assumption)
    | apply State.arm_kept
    | refine HandledKept.of_reply (State.arm_kept ?_) (by with_reducible assumption)
    | refine HandledKept.of_later (State.arm_kept ?_) (by with_reducible assumption)
    | refine HandledKept.state (State.arm_kept ?_)
    | apply State.forgetEnded_kept
    | apply State.number_kept
    | split
    | exact id
    | intro

theorem State.plant_kept {key a b pos : Nat} {cached : Bool} (h : Kept q s) : Kept q (s.plant key a b pos cached) := by
  unfold State.plant
  dsimp only
  refine Kept.with_damage ?_ (swf_sput ?_) <;> split
  · exact State.dropLines_kept h
  · exact h
  · exact (State.dropLines_kept h).damage
  · exact h.damage

theorem State.plantDue_kept (h : Kept q s) : Kept q s.plantDue :=
  Kept.foldl h fun _ _ h => State.modInjection_kept (State.plant_kept h)

theorem bodyInjectEcc_kept {f : Frame} (h : Kept q s) : HandledKept q (bodyInjectEcc f s) := by
  unfold bodyInjectEcc
  try dsimp only
  repeat' with_reducible first
    | assumption
    | apply HandledKept.checked
    | apply HandledKept.zeroField
    | apply HandledKept.done
    | apply HandledKept.reply
    | apply HandledKept.later
    | exact PairKept.left (by with_reducible assumption)
    | apply State.arm_kept
    | refine HandledKept.of_reply (State.arm_kept ?_) (by with_reducible assumption)
    | refine HandledKept.of_later (State.arm_kept ?_) (by with_reducible assumption)
    | refine HandledKept.state (State.arm_kept ?_)
    | apply State.forgetEnded_kept
    | apply State.number_kept
    | apply State.plant_kept
    | split
    | exact id
    | intro

theorem State.disarm_kept {j : Injection} (h : Kept q s) : Kept q (State.disarm s j) := by
  unfold State.disarm
  try dsimp only
  repeat' with_reducible first
    | assumption
    | apply State.modInjection_kept
    | apply State.logInjected_kept
    | split

theorem bodyInjectClear_kept {f : Frame} (h : Kept q s) : HandledKept q (bodyInjectClear f s) := by
  unfold bodyInjectClear
  try dsimp only
  repeat' with_reducible first
    | assumption
    | apply Kept.foldl
    | apply HandledKept.checked
    | apply HandledKept.done
    | apply State.disarm_kept

theorem bodyInjectStatus_kept (h : Kept q s) : HandledKept q (bodyInjectStatus s) := by
  unfold bodyInjectStatus
  try dsimp only
  repeat' with_reducible first
    | assumption
    | apply HandledKept.checked
    | apply HandledKept.done

end Sys2Proof.Machine
end

