-- ==== Sys2Proof/Laws/KeptNotch.lean ====
section
/-! SUPPORT. Every operation of Machine/Notch.lean leaves the queue alone and keeps the state canonical. -/

namespace Sys2Proof.Machine

variable {q : List Instr} {s t : State}

theorem State.passSlip_kept (h : Kept q s) : Kept q (State.passSlip s) := by
  unfold State.passSlip
  try dsimp only
  repeat' with_reducible first
    | assumption
    | apply State.addSlip_kept
    | apply State.lowerSlip_kept
    | split

theorem State.passClocks_kept (h : Kept q s) : Kept q s.passClocks := by
  unfold State.passClocks
  split
  · exact ⟨h.1, { h.2 with }⟩
  · exact ⟨h.1, { h.2 with position := by dsimp only; exact Nat.mod_lt _ (by decide) }⟩

theorem State.raiseLeads_kept {from_ : Nat} (h : Kept q s) : Kept q (State.raiseLeads s from_) := by
  unfold State.raiseLeads
  try dsimp only
  repeat' with_reducible first
    | assumption
    | exact PairKept.left (by with_reducible assumption)
    | apply State.modSchedule_kept
    | split
    | exact id
    | intro

theorem State.dropSessions_kept (h : Kept q s) : Kept q (State.dropSessions s) :=
  h.with_sessions (swf_filter h.sessions)

theorem State.pruneSpent_kept (h : Kept q s) : Kept q s.pruneSpent := by
  unfold State.pruneSpent
  split
  · exact h
  · exact State.pruneBookings_kept (State.modSchedule_kept h)

theorem State.endNotch_kept (h : Kept q s) : Kept q s.endNotch :=
  State.dozeOff_kept (State.plantDue_kept (State.applyWrites_kept (State.dropSessions_kept (State.endLinks_kept h))))

theorem State.beginNotch_kept (h : Kept q s) : Kept q s.beginNotch :=
  State.replayStep_kept (State.endClosings_kept (State.releaseUnmaps_kept (State.retryReads_kept (State.failLanes_kept
    (State.applySource_kept (State.answerLate_kept (State.pruneSpent_kept h)))))))

theorem State.passNotch_kept  (h : Kept q s) : Kept q (State.passNotch s) := by
  unfold State.passNotch
  split
  · exact State.passClocks_kept h
  · exact State.beginNotch_kept (State.raiseLeads_kept (State.passClocks_kept (State.endNotch_kept
      (State.checkMisses_kept (State.passSlip_kept (State.startDue_kept h))))))

theorem execIdleNotch_kept (h : Kept q s) : OutKept q (execIdleNotch s) := by
  unfold execIdleNotch
  try dsimp only
  repeat' with_reducible first
    | assumption
    | apply OutKept.event
    | apply State.passNotch_kept

end Sys2Proof.Machine
end

