-- ==== Sys2Proof/Laws/KeptThermal.lean ====
section
/-! SUPPORT. Every operation of Machine/Thermal.lean leaves the queue alone and keeps the state canonical. -/

namespace Sys2Proof.Machine

variable {q : List Instr} {s t : State}

theorem State.fuseSpots_kept {r : Readings} (h : Kept q s) : Kept q (s.fuseSpots r) := by
  unfold State.fuseSpots
  refine State.modPower_kept h id fun h => ?_
  dsimp only
  exact swf_foldl h fun _ _ h => swf_sput h

theorem State.updateTheta_kept {r : Readings} (h : Kept q s) : Kept q (State.updateTheta s r) := by
  unfold State.updateTheta
  try dsimp only
  repeat' with_reducible first
    | assumption
    | apply State.modPower_kept
    | split
    | exact id

theorem State.updateFlow_kept {r : Readings} (h : Kept q s) : Kept q (State.updateFlow s r) := by
  unfold State.updateFlow
  try dsimp only
  repeat' with_reducible first
    | assumption
    | apply State.modPower_kept
    | split
    | exact id

theorem State.updateUnits_kept {r : Readings} (h : Kept q s) : Kept q (State.updateUnits s r) := by
  unfold State.updateUnits
  try dsimp only
  repeat' with_reducible first
    | assumption
    | apply Kept.foldl
    | apply State.modStack_kept
    | apply State.modDomain_kept
    | refine fun c (hc : Stack.Canonical c) => ?_
    | exact Stack.canonical_of hc rfl rfl rfl
    | exact { hc with caErrors := swf_sput hc.caErrors }
    | intro

theorem State.troubleWhen_kept {r : TroubleReg} {i : Nat} {b : Bool} (h : Kept q s) : Kept q (State.troubleWhen s r i
    b) := by
  unfold State.troubleWhen
  try dsimp only
  repeat' with_reducible first
    | assumption
    | exact PairKept.left (by with_reducible assumption)
    | apply State.setTroubleBit_kept
    | split
    | exact id
    | intro

theorem State.roundTrouble_kept {r : Readings} (h : Kept q s) : Kept q (State.roundTrouble s r) := by
  unfold State.roundTrouble
  try dsimp only
  repeat' with_reducible first
    | assumption
    | exact PairKept.left (by with_reducible assumption)
    | apply State.troubleWhen_kept
    | split
    | exact id
    | intro

theorem State.loseWork_kept (h : Kept q s) : Kept q (State.loseWork s) := by
  have hc := h.contexts.smap (f := fun _ (x : Context) => { x with stream := x.stream.lost }) fun _ _ hx => hx
  exact ⟨h.1, { h.2 with contexts := hc }⟩

theorem State.latch_kept {cause : Nat} {spot : Nat} (h : Kept q s) : Kept q (State.latch s cause spot) := by
  unfold State.latch
  try dsimp only
  repeat' with_reducible first
    | assumption
    | apply Kept.foldl
    | apply State.modPower_kept
    | apply State.modDev_kept
    | apply State.switchOff_kept
    | apply State.loseWork_kept
    | exact id
    | refine Kept.ctor ?_ rfl rfl rfl rfl rfl rfl rfl rfl rfl rfl rfl rfl rfl rfl rfl rfl rfl rfl rfl rfl rfl rfl
    | intro

theorem State.resumeUnits_kept (h : Kept q s) : Kept q s.resumeUnits :=
  h.with_stacks (h.memStacks.smap fun _ _ hc => Stack.smap_pcs_canonical hc)

theorem State.effectTrouble_kept {d : Decisions} (h : Kept q s) : Kept q (State.effectTrouble s d) := by
  unfold State.effectTrouble
  try dsimp only
  repeat' with_reducible first
    | assumption
    | apply Kept.foldl
    | apply State.setTroubleBit_kept
    | split
    | intro

theorem State.effectUnits_kept {d : Decisions} (h : Kept q s) : Kept q (State.effectUnits s d) := by
  unfold State.effectUnits
  try dsimp only
  repeat' with_reducible first
    | assumption
    | apply Kept.foldl
    | apply State.modPond_kept
    | apply State.modStack_kept
    | apply State.switchOff_kept
    | apply State.startWake_kept
    | split
    | refine fun c (hc : Millpond.Canonical c) => ?_
    | exact Millpond.canonical_of hc rfl
    | refine fun c (hc : Stack.Canonical c) => ?_
    | exact Stack.canonical_of hc rfl rfl rfl
    | intro

theorem State.effectGating_kept {d : Decisions} (h : Kept q s) : Kept q (State.effectGating s d) := by
  unfold State.effectGating
  try dsimp only
  repeat' with_reducible first
    | assumption
    | apply Kept.foldl
    | exact PairKept.left (by with_reducible assumption)
    | apply State.startWake_kept
    | apply State.switchOff_kept
    | split
    | refine PairKept.fst (PairKept.foldl ?_ ?_)
    | exact id
    | intro

theorem State.takeDecisions_kept {d : Decisions} (h : Kept q s) : Kept q (State.takeDecisions s d) := by
  unfold State.takeDecisions
  try dsimp only
  repeat' with_reducible first
    | assumption
    | exact PairKept.left (by with_reducible assumption)
    | apply State.effectGating_kept
    | apply State.effectTrouble_kept
    | apply State.effectUnits_kept
    | apply State.latch_kept
    | apply State.modPower_kept
    | apply State.noteSlowed_kept
    | apply State.resumeUnits_kept
    | split
    | exact id
    | intro

theorem State.freshSpots_kept {r : Readings} (h : Kept q s) : Kept q (s.freshSpots r) := ⟨h.1, { h.2 with }⟩

theorem State.takeMonitor_kept (h : Kept q s) : Kept q s.takeMonitor := State.modPower_kept h id id

theorem State.countFec_kept {r : Readings} (h : Kept q s) : Kept q (s.countFec r) :=
  State.troubleWhen_kept (State.modPort_kept h)

theorem State.sample_kept {r : Readings} (h : Kept q s) : Kept q (State.sample s r) := by
  unfold State.sample
  try dsimp only
  repeat' with_reducible first
    | assumption
    | apply State.modPower_kept
    | apply State.freshSpots_kept
    | apply State.fuseSpots_kept
    | apply State.updateTheta_kept
    | apply State.updateFlow_kept
    | apply State.updateUnits_kept
    | apply State.roundTrouble_kept
    | split
    | exact id
    | exact fun h => by dsimp only; exact swf_smap h

theorem execHousekeepingRound_kept {r : Readings} (h : Kept q s) : OutKept q (execHousekeepingRound r s) := by
  unfold execHousekeepingRound
  try dsimp only
  repeat' with_reducible first
    | assumption
    | apply OutKept.event
    | apply State.countFec_kept
    | apply State.takeMonitor_kept
    | apply State.sample_kept
    | apply State.takeDecisions_kept
    | split

theorem execRoundDecisionsEffect_kept (h : Kept q s) : OutKept q (execRoundDecisionsEffect s) := by
  unfold execRoundDecisionsEffect
  try dsimp only
  repeat' with_reducible first
    | assumption
    | apply OutKept.event
    | apply OutKept.next
    | apply State.takeDecisions_kept
    | split

theorem execPauseEnd_kept (h : Kept q s) : OutKept q (execPauseEnd s) := by
  unfold execPauseEnd
  try dsimp only
  repeat' with_reducible first
    | assumption
    | apply OutKept.event
    | apply OutKept.next
    | apply State.modPower_kept
    | apply State.resumeUnits_kept
    | split
    | exact id

theorem execComparatorLatch_kept {i : Fin 93} (h : Kept q s) : OutKept q (execComparatorLatch i s) := by
  unfold execComparatorLatch
  try dsimp only
  repeat' with_reducible first
    | assumption
    | apply OutKept.event
    | apply State.latch_kept

theorem State.endHold_kept (h : Kept q s) : Kept q (State.endHold s) := by
  unfold State.endHold
  try dsimp only
  repeat' with_reducible first
    | assumption
    | apply State.modPower_kept
    | apply State.resumeUnits_kept
    | split
    | exact id

theorem execInputVoltageLow_kept (h : Kept q s) : OutKept q (execInputVoltageLow s) := by
  unfold execInputVoltageLow
  try dsimp only
  repeat' with_reducible first
    | assumption
    | apply OutKept.event
    | apply State.modPower_kept
    | apply State.setTroubleBit_kept
    | exact id

theorem execInputVoltageRestored_kept (h : Kept q s) : OutKept q (execInputVoltageRestored s) := by
  unfold execInputVoltageRestored
  try dsimp only
  repeat' with_reducible first
    | assumption
    | apply OutKept.event
    | apply State.modPower_kept
    | apply State.endHold_kept
    | exact id

theorem execInputVoltageHigh_kept (h : Kept q s) : OutKept q (execInputVoltageHigh s) := by
  unfold execInputVoltageHigh
  try dsimp only
  repeat' with_reducible first
    | assumption
    | apply OutKept.event
    | apply State.setTroubleBit_kept

theorem execInputOverlimitLatch_kept {overVoltage : Bool} (h : Kept q s) : OutKept q (execInputOverlimitLatch
    overVoltage s) := by
  unfold execInputOverlimitLatch
  try dsimp only
  repeat' with_reducible first
    | assumption
    | apply OutKept.event
    | apply State.latch_kept

end Sys2Proof.Machine
end

