-- ==== Sys2Proof/Laws/KeptBackground.lean ====
section
/-! SUPPORT. Every operation of Machine/Background.lean leaves the queue alone and keeps the state canonical. -/

namespace Sys2Proof.Machine

variable {q : List Instr} {s t : State}

theorem execSegmentSweep_kept {k : Fin 8} (h : Kept q s) : OutKept q (execSegmentSweep k s) := by
  unfold execSegmentSweep
  try dsimp only
  repeat' with_reducible first
    | assumption
    | apply OutKept.event
    | apply State.endSweep_kept

theorem execSlicePatrolScrub_kept {p : Fin 256} {line : Nat} (h : Kept q s) : OutKept q (execSlicePatrolScrub p line
    s) := by
  unfold execSlicePatrolScrub
  try dsimp only
  repeat' with_reducible first
    | assumption
    | apply Kept.foldl
    | apply OutKept.event
    | apply State.setTroubleBit_kept
    | apply State.plantedHit_kept
    | apply State.sliceCorrected_kept
    | split
    | intro

theorem execStackPatrolScrub_kept {k : Fin 8} {row : Nat} (h : Kept q s) : OutKept q (execStackPatrolScrub k row s) :=
    by
  unfold execStackPatrolScrub
  try dsimp only
  repeat' with_reducible first
    | assumption
    | apply OutKept.event
    | apply OutKept.next
    | apply Kept.foldl
    | exact PairKept.left (by with_reducible assumption)
    | apply State.clearDamage_kept
    | apply State.journalBlockLost_kept
    | apply State.readBlock_kept
    | apply event_kept
    | split
    | (refine PairKept.of_eq ?_ (by with_reducible assumption); apply State.readBlock_kept)
    | (refine PairKept.of_eq ?_ (by with_reducible assumption); split)
    | refine PairKept.fst (State.readBlock_kept ?_)
    | refine PairKept.fst (PairKept.foldl ?_ ?_)
    | exact id
    | intro

theorem execBedstoneRefresh_kept {_die : Fin 4} {_layer : Fin 4} {_bank : Fin 16} (h : Kept q s) : OutKept q
    (execBedstoneRefresh _die _layer _bank s) := by
  unfold execBedstoneRefresh
  try dsimp only
  repeat' with_reducible first
    | assumption
    | apply OutKept.next

theorem execStackRefresh_kept {k : Fin 8} {bank : Fin 64} (h : Kept q s) : OutKept q (execStackRefresh k bank s) := by
  unfold execStackRefresh
  exact OutKept.event h (State.modStack_kept h fun _ hc => Stack.smap_pcs_canonical hc)

end Sys2Proof.Machine
end

