-- ==== Sys2Proof/Laws/KeptLinks.lean ====
section
/-! SUPPORT. Every operation of Machine/Links.lean leaves the queue alone and keeps the state canonical. -/

namespace Sys2Proof.Machine

variable {q : List Instr} {s t : State}

/-! ## The replay buffer (R283) -/

theorem afterSequence_length {a : Nat} {l : List Flit} : (afterSequence a l).length ≤ l.length := by
  unfold afterSequence
  split
  · rw [List.length_drop]; omega
  · exact Nat.le_refl _

theorem LinkDir.acked_fits {d : LinkDir} {a : Nat} (h : d.Fits) : (d.acked a).Fits := Nat.le_trans afterSequence_length h

theorem LinkDir.discards_fits {d : LinkDir} (h : d.Fits) : d.discards.Fits := by
  unfold LinkDir.discards
  split <;> exact h

theorem LinkDir.receives_fits {d : LinkDir} {g : Option Flit} (h : d.Fits) : (d.receives g).1.Fits := by
  unfold LinkDir.receives
  split
  · exact LinkDir.discards_fits h
  · repeat' split
    all_goals first | exact LinkDir.discards_fits h | exact h

theorem LinkDir.numbers_fits {d : LinkDir} {f : Flit} (h : d.replay.length < 256) : (d.numbers f).Fits := by
  unfold LinkDir.Fits LinkDir.numbers
  simp only [List.length_append, List.length_singleton]
  omega

theorem LinkDir.sends_fits {d e : LinkDir} {f : Flit} (h : d.Fits) (hs : d.sends f = some e) : e.Fits := by
  unfold LinkDir.sends at hs
  split at hs
  · split at hs
    · split at hs
      · cases hs; exact h
      · cases hs
    · split at hs
      · cases hs
      · have hn : (d.numbers f).Fits := LinkDir.numbers_fits (by omega)
        split at hs
        · split at hs
          · cases hs; exact hn
          · cases hs
        · cases hs; exact hn
  · split at hs
    · cases hs; exact h
    · cases hs

theorem State.beginRetrain_kept {i : Nat} {b : Nat} {toB : Bool} (h : Kept q s) : Kept q (State.beginRetrain s i b
    toB) := by
  unfold State.beginRetrain
  try dsimp only
  repeat' with_reducible first
    | assumption
    | exact PairKept.left (by with_reducible assumption)
    | apply State.failBundle_kept
    | apply State.modLink_kept
    | refine State.setLinkDir_kept ?_ (by with_unfolding_all exact Kept.linkDir h _ _ _)
    | split
    | refine fun c (hc : Link.Canonical c) => ?_
    | exact Link.canonical_of hc rfl
    | exact id
    | intro

theorem execRetrainDone_kept {i : Fin 6} {b : Fin 16} {toB : Bool} {failing : List Nat} (h : Kept q s) : OutKept q
    (execRetrainDone i b toB failing s) := by
  unfold execRetrainDone
  try dsimp only
  repeat' with_reducible first
    | assumption
    | apply OutKept.event
    | apply OutKept.next
    | apply Kept.foldl
    | exact PairKept.left (by with_reducible assumption)
    | apply State.addDefect_kept
    | apply State.failBundle_kept
    | refine State.setLinkDir_kept ?_ (by with_unfolding_all exact Kept.linkDir h _ _ _)
    | apply State.setTroubleBit_kept
    | split
    | refine PairKept.fst (PairKept.foldl ?_ ?_)
    | exact id
    | intro

theorem State.spoilFlit_kept {i : Nat} {b : Nat} {toB : Bool} {f : Flit} (h : Kept q s) : PairKept q (State.spoilFlit
    s i b toB f) := by
  unfold State.spoilFlit
  try dsimp only
  repeat' with_reducible first
    | assumption
    | apply PairKept.foldl
    | apply PairKept.mk
    | exact PairKept.left (by assumption)
    | apply State.modInjection_kept
    | apply State.injectionHit_kept
    | apply State.failLane_kept
    | split
    | intro

theorem State.tellSender_kept {i : Nat} {b : Nat} {toB : Bool} {f : Flit} (h : Kept q s) : Kept q (State.tellSender s
    i b toB f) := by
  have hr : (LinkDir.acked (s.linkDir i b (!toB)) f.ack).Fits := LinkDir.acked_fits (h.linkDir _ _ _)
  unfold State.tellSender
  dsimp only
  repeat' with_reducible first
    | assumption
    | apply State.modLink_kept
    | apply State.setTroubleBit_kept
    | refine State.setLinkDir_kept ?_ (by with_unfolding_all exact hr)
    | apply State.beginRetrain_kept
    | split
    | refine fun c (hc : Link.Canonical c) => ?_
    | exact Link.canonical_of hc rfl

theorem State.deliver_kept {die : Nat} {f : Flit} (h : Kept q s) : Kept q (State.deliver s die f) := by
  unfold State.deliver
  try dsimp only
  repeat' with_reducible first
    | assumption
    | exact PairKept.left (by with_reducible assumption)
    | apply State.modDev_kept
    | apply State.modPair_kept
    | split
    | exact id
    | intro

theorem State.flitRead_kept {i : Nat} {b : Nat} {toB : Bool} {a : Option Flit} (h : Kept q s) :
    Kept q (State.flitRead s i b toB a) := by
  unfold State.flitRead
  have hf : ((s.linkDir i b toB).receives a).1.Fits := LinkDir.receives_fits (h.linkDir i b toB)
  generalize (s.linkDir i b toB).receives a = r at hf
  have hs : Kept q (s.setLinkDir i b toB r.1) := State.setLinkDir_kept h hf
  cases a with
  | none => exact hs
  | some g =>
    dsimp only
    split
    · exact hs
    · split
      · exact State.tellSender_kept (State.deliver_kept hs)
      · exact State.tellSender_kept hs

theorem State.flitArrives_kept {i : Nat} {b : Nat} {toB : Bool} {f : Flit} (h : Kept q s) :
    Kept q (State.flitArrives s i b toB f) := State.flitRead_kept h

theorem State.sendNack_kept {i : Nat} {b : Nat} {toB : Bool} (h : Kept q s) : Kept q (State.sendNack s i b toB) := by
  unfold State.sendNack
  try dsimp only
  repeat' with_reducible first
    | assumption
    | exact PairKept.left (by with_reducible assumption)
    | apply State.beginRetrain_kept
    | refine State.setLinkDir_kept ?_ (by with_unfolding_all exact Kept.linkDir h _ _ _)
    | split
    | exact id
    | intro

theorem State.storeFlit_kept {i : Nat} {toB : Bool} {f : Flit} (h : Kept q s) :
    OptKept q (State.storeFlit s i toB f) := by
  unfold State.storeFlit
  dsimp only
  split
  · split
    · split
      · exact OptKept.some (State.setStoreAt_kept h)
      · exact OptKept.none
    · exact OptKept.none
  · split
    · exact OptKept.none
    · generalize ((s.pair (sourceDie f.packet) (destinationDie f.packet)).sends f.packet) = o
      cases o with
      | none => exact OptKept.none
      | some x => exact OptKept.some (State.modPair_kept (State.setStoreAt_kept h))

theorem State.meshSends_kept {i : Nat} {b : Nat} {toB : Bool} {f : Flit} (h : Kept q s) : OptKept q (State.meshSends s
    i b toB f) := by
  unfold State.meshSends
  try dsimp only
  repeat' with_reducible first
    | assumption
    | apply OptKept.some
    | exact OptKept.none
    | apply OptKept.map
    | apply OptKept.foldl_bind
    | exact PairKept.left (by with_reducible assumption)
    | apply State.modDev_kept
    | apply State.storeFlit_kept
    | refine OptKept.of_eq (State.storeFlit_kept ?_) (by with_reducible assumption)
    | refine OptKept.getD (State.storeFlit_kept ?_) ?_
    | split
    | exact id
    | intro

theorem execLinkFlitReceived_kept {i : Fin 6} {b : Fin 16} {toB : Bool} {f : Flit} (h : Kept q s) :
    OutKept q (execLinkFlitReceived i b toB f s) := by
  unfold execLinkFlitReceived
  dsimp only
  split
  · exact OutKept.next h
  · split
    · rename_i s1 d1 h1 h2
      have k1 : Kept q s1 := by
        split at h1
        · exact OptKept.of_eq (State.meshSends_kept h) h1
        · cases h1; exact h
      have k2 : Kept q (s1.setLinkDir i b toB d1) := State.setLinkDir_kept k1 (LinkDir.sends_fits (h.linkDir i b toB) h2)
      have k3 : Kept q (if f.kind = 2 then (s1.setLinkDir i b toB d1).sendNack i b (!toB) else s1.setLinkDir i b toB d1) := by
        split
        · exact State.sendNack_kept k2
        · exact k2
      split
      · split
        · rename_i hs; exact OutKept.next (State.flitArrives_kept (PairKept.of_eq (State.spoilFlit_kept k3) hs))
        · rename_i hs; exact OutKept.next (PairKept.of_eq (State.spoilFlit_kept k3) hs)
      · exact OutKept.next (State.flitArrives_kept k3)
    · exact OutKept.next h

theorem execDeliveryAck_kept {i : Fin 6} {fromB : Bool} {m : DeliveryMsg} (h : Kept q s) :
    OutKept q (execDeliveryAck i fromB m s) := by
  unfold execDeliveryAck
  try dsimp only
  repeat' with_reducible first
    | assumption
    | apply OutKept.event
    | apply OutKept.next
    | exact PairKept.left (by with_reducible assumption)
    | apply State.setStoreAt_kept
    | apply event_kept
    | split
    | exact id
    | intro

end Sys2Proof.Machine
end

