-- ==== Sys2Proof/Laws/KeptStages.lean ====
section
/-! SUPPORT. Every operation of Machine/Stages.lean leaves the queue alone and keeps the state canonical. -/

namespace Sys2Proof.Machine

variable {q : List Instr} {s t : State}

theorem State.report_kept {n outcome code : Nat} {t : Tally} (h : Kept q s) : Kept q (s.report n outcome code t) := by
  unfold State.report
  refine State.modDev_kept h (fun h => ?_) id
  exact swf_foldl h fun _ _ h => swf_sput h

theorem State.stagePasses_kept {n : Nat} {t : Tally} (h : Kept q s) : Kept q (State.stagePasses s n t) := by
  unfold State.stagePasses
  try dsimp only
  repeat' with_reducible first
    | assumption
    | apply State.modDev_kept
    | apply State.report_kept
    | exact id

theorem State.stageSkips_kept {n : Nat} (h : Kept q s) : Kept q (State.stageSkips s n) := by
  unfold State.stageSkips
  try dsimp only
  repeat' with_reducible first
    | assumption
    | apply State.modDev_kept
    | apply State.report_kept
    | exact id

theorem State.failReadiness_kept {n : Nat} {code : Nat} {detail : Nat} {t : Tally} (h : Kept q s) : Kept q
    (State.failReadiness s n code detail t) := by
  unfold State.failReadiness
  try dsimp only
  repeat' with_reducible first
    | assumption
    | apply State.modDev_kept
    | apply State.enterFaulted_kept
    | apply State.report_kept
    | exact id

theorem State.listFresh_kept {t : Tested} (h : Kept q s) : Kept q (State.listFresh s t) := by
  unfold State.listFresh
  try dsimp only
  repeat' with_reducible first
    | assumption
    | apply Kept.foldl
    | apply State.setTroubleBit_kept
    | apply State.addDefect_kept
    | split
    | intro

theorem execStageS0PowerGood_kept (h : Kept q s) : OutKept q (execStageS0PowerGood s) := by
  unfold execStageS0PowerGood
  try dsimp only
  repeat' with_reducible first
    | assumption
    | apply OutKept.event
    | apply State.stagePasses_kept

/-- The table read at S1 is one of its copies, or empty. -/
theorem Security.readTable_canonical {x : Security} {r : S1Facts} (h : x.Canonical) : (x.readTable r).Canonical := by
  have k : ∀ c, newestCopy TableCopy.sequence x.tableA x.tableB r.tableA r.tableB = some c → swf {} c.slots = true := by
    intro c e
    unfold newestCopy at e
    repeat' split at e
    all_goals cases e
    all_goals first | exact h.tableA | exact h.tableB
  unfold Security.readTable
  split
  · exact ⟨k _ ‹_›, k _ ‹_›, k _ ‹_›⟩
  · exact ⟨rfl, h.tableA, h.tableB⟩

/-- The list read at S1 changes the list alone. -/
theorem Device.readList_eq {d x : Device} {r : S1Facts} (h : d.readList r = some x) :
    ∃ l n a, x = { d with defects := l, listSequence := n, listA := a, listB := a } := by
  obtain ⟨c, -, rfl⟩ := Option.map_eq_some_iff.mp h
  exact ⟨_, _, c, rfl⟩

theorem State.readRecords_kept {r : S1Facts} (h : Kept q s) : Kept q (State.readRecords s r) := by
  unfold State.readRecords
  try dsimp only
  repeat' with_reducible first
    | assumption
    | exact PairKept.left (by with_reducible assumption)
    | apply State.modFabric_kept
    | apply State.modPower_kept
    | split
    | exact id
    | intro

theorem State.applyList_kept (h : Kept q s) : Kept q (State.applyList s) := by
  unfold State.applyList
  try dsimp only
  repeat' with_reducible first
    | assumption
    | apply Kept.foldl
    | apply State.setPage_kept
    | apply State.markSegRetired_kept
    | split
    | intro

theorem State.clearList_kept (h : Kept q s) : Kept q (State.clearList s) := by
  unfold State.clearList
  try dsimp only
  repeat' with_reducible first
    | assumption
    | apply State.modDev_kept
    | apply State.writeList_kept
    | split
    | exact id

theorem State.findPort_kept {r : S1Facts} (h : Kept q s) : Kept q (State.findPort s r) := by
  unfold State.findPort
  exact Kept.foldl (State.modDev_kept h id id) fun _ _ h => State.modDomain_kept h

theorem State.tableRead_kept {r : S1Facts} (h : Kept q s) : Kept q (s.tableRead r) := by
  unfold State.tableRead
  split
  · exact State.stagePasses_kept h
  · exact State.failReadiness_kept h

theorem State.coldBoot_kept {r : S1Facts} (h : Kept q s) : Kept q (State.coldBoot s r) := by
  unfold State.coldBoot
  dsimp only
  have k : Kept q (((s.findPort r).modSec fun x => x.readTable r).modDev
      fun d => { d with calibration := r.calibration.getD d.calibration, calibrationDigest := sha384 (r.calibration.getD d.calibration) }) :=
    State.modDev_kept (State.modSec_kept (State.findPort_kept h) Security.readTable_canonical) id id
  generalize ((s.findPort r).modSec fun x => x.readTable r).modDev
      (fun d => { d with calibration := r.calibration.getD d.calibration, calibrationDigest := sha384 (r.calibration.getD d.calibration) }) = v at k ⊢
  split
  · exact State.failReadiness_kept (State.modDev_kept k id id)
  · rename_i i _
    have m : Kept q (v.modSec fun x => { x with
        running := i, kept := (v.sec.slot i).image, bodyDigest := some (sha384 (imageBody (v.sec.slot i).image)), staged := 0,
        testImage := false }) := State.modSec_kept k fun x => Security.canonical_of x rfl
    split
    · rename_i e
      obtain ⟨l, n, a, rfl⟩ := Device.readList_eq e
      exact State.tableRead_kept (State.applyList_kept (State.clearList_kept (State.modDev_kept m id id)))
    · exact State.tableRead_kept (State.applyList_kept (State.clearList_kept m))
    · exact State.failReadiness_kept m

theorem State.warmBoot_kept  (h : Kept q s) : Kept q (State.warmBoot s) := by
  unfold State.warmBoot
  try dsimp only
  repeat' with_reducible first
    | assumption
    | apply Kept.foldl
    | exact PairKept.left (by with_reducible assumption)
    | apply State.failReadiness_kept
    | apply State.modDev_kept
    | apply State.modSec_kept
    | apply State.stagePasses_kept
    | apply State.stageSkips_kept
    | apply State.wakeEnds_kept
    | apply State.portDown_kept
    | split
    | refine PairKept.fst (PairKept.foldl ?_ ?_)
    | exact fun x => Security.canonical_of x rfl
    | exact id
    | intro

theorem State.takeAddresses_kept  (h : Kept q s) : Kept q (State.takeAddresses s) := by
  unfold State.takeAddresses
  try dsimp only
  repeat' with_reducible first
    | assumption
    | exact PairKept.left (by with_reducible assumption)
    | apply State.modFabric_kept
    | split
    | exact id
    | intro

theorem execStageS1SluiceBoot_kept {r : S1Facts} (h : Kept q s) : OutKept q (execStageS1SluiceBoot r s) := by
  unfold execStageS1SluiceBoot
  try dsimp only
  repeat' with_reducible first
    | assumption
    | apply OutKept.event
    | apply OutKept.next
    | exact PairKept.left (by with_reducible assumption)
    | apply State.coldBoot_kept
    | apply State.modDev_kept
    | apply State.readRecords_kept
    | apply State.takeAddresses_kept
    | apply State.warmBoot_kept
    | apply event_kept
    | split
    | exact id
    | intro

theorem execStageS2FuseRead_kept {r : S2Facts} (h : Kept q s) : OutKept q (execStageS2FuseRead r s) := by
  unfold execStageS2FuseRead
  try dsimp only
  repeat' with_reducible first
    | assumption
    | apply OutKept.event
    | apply State.modDev_kept
    | apply State.stagePasses_kept
    | apply State.failReadiness_kept
    | split
    | exact id

theorem State.readStores_kept  (h : Kept q s) : Kept q (State.readStores s) := by
  unfold State.readStores
  try dsimp only
  repeat' with_reducible first
    | assumption
    | apply Kept.foldl
    | exact PairKept.left (by with_reducible assumption)
    | apply State.readLocal_kept
    | split
    | (refine PairKept.of_eq ?_ (by with_reducible assumption); apply State.readLocal_kept)
    | (refine PairKept.of_eq ?_ (by with_reducible assumption); split)
    | refine PairKept.fst (State.readLocal_kept ?_)
    | refine PairKept.fst (PairKept.foldl ?_ ?_)
    | exact id
    | intro

theorem execStageS3RunnerDiesUp_kept {r : S3Facts} (h : Kept q s) : OutKept q (execStageS3RunnerDiesUp r s) := by
  unfold execStageS3RunnerDiesUp
  try dsimp only
  repeat' with_reducible first
    | assumption
    | apply OutKept.event
    | apply OutKept.next
    | apply Kept.foldl
    | exact PairKept.left (by with_reducible assumption)
    | apply State.failReadiness_kept
    | apply State.listFresh_kept
    | apply State.modDev_kept
    | apply State.readStores_kept
    | apply State.stagePasses_kept
    | apply State.wakeEnds_kept
    | apply event_kept
    | split
    | refine PairKept.fst (PairKept.foldl ?_ ?_)
    | exact id
    | intro

theorem State.exchangeRetrain_kept {i : Nat} {b : Nat} {toB : Bool} (h : Kept q s) : PairKept q (State.exchangeRetrain
    s i b toB) := by
  unfold State.exchangeRetrain
  try dsimp only
  repeat' with_reducible first
    | assumption
    | apply PairKept.mk
    | exact PairKept.left (by with_reducible assumption)
    | apply State.modLink_kept
    | refine State.setLinkDir_kept ?_ (by with_unfolding_all exact Kept.linkDir h _ _ _)
    | split
    | refine fun c (hc : Link.Canonical c) => ?_
    | exact Link.canonical_of hc rfl
    | refine PairKept.fst (PairKept.mk ?_)
    | exact id
    | intro

theorem State.exchangeLink_kept {r : S4Facts} {i : Nat} (h : Kept q s) : Kept q (State.exchangeLink s r i) := by
  unfold State.exchangeLink
  try dsimp only
  repeat' with_reducible first
    | assumption
    | apply Kept.foldl
    | exact PairKept.left (by with_reducible assumption)
    | apply State.exchangeRetrain_kept
    | apply State.modLink_kept
    | apply State.setTroubleBit_kept
    | split
    | refine fun c (hc : Link.Canonical c) => ?_
    | exact Link.canonical_of hc rfl
    | exact Link.setBundle_canonical hc (by with_unfolding_all exact Link.bundle_fits hc)
    | (refine PairKept.of_eq ?_ (by with_reducible assumption); apply State.exchangeRetrain_kept)
    | (refine PairKept.of_eq ?_ (by with_reducible assumption); split)
    | refine PairKept.fst (State.exchangeRetrain_kept ?_)
    | refine PairKept.fst (PairKept.foldl ?_ ?_)
    | exact id
    | intro

theorem State.testLink_kept {bad : List UnitId} {i : Nat} (h : Kept q s) : Kept q (s.testLink bad i) :=
  State.setLink_kept h (Family.foldl Family.nil fun _ _ hm => Family.sput hm ⟨Nat.zero_le _, Nat.zero_le _⟩)

theorem State.noteLink_kept {fresh : List UnitId} {i : Nat} (h : Kept q s) : Kept q (State.noteLink s fresh i) := by
  unfold State.noteLink
  try dsimp only
  repeat' with_reducible first
    | assumption
    | exact PairKept.left (by with_reducible assumption)
    | apply State.modLink_kept
    | apply State.setTroubleBit_kept
    | split
    | refine fun c (hc : Link.Canonical c) => ?_
    | exact Link.canonical_of hc rfl
    | exact id
    | intro

theorem State.trainLinks_kept {t : Tested} {r : S4Facts} (h : Kept q s) : Kept q (State.trainLinks s t r) :=
  Kept.foldl (State.modDev_kept (Kept.foldl (State.listFresh_kept h) fun _ _ h => State.testLink_kept h) id id)
    fun _ _ h => State.noteLink_kept (State.exchangeLink_kept h)

theorem State.endWelt_kept {tally : Tally} (h : Kept q s) : Kept q (State.endWelt s tally) := by
  unfold State.endWelt
  try dsimp only
  repeat' with_reducible first
    | assumption
    | apply State.stagePasses_kept
    | apply State.failReadiness_kept
    | split

theorem execStageS4WeltTraining_kept {r : S4Facts} (h : Kept q s) : OutKept q (execStageS4WeltTraining r s) := by
  unfold execStageS4WeltTraining
  try dsimp only
  repeat' with_reducible first
    | assumption
    | apply OutKept.event
    | apply OutKept.next
    | exact PairKept.left (by with_reducible assumption)
    | apply State.endWelt_kept
    | apply State.trainLinks_kept
    | apply event_kept
    | split
    | exact id
    | intro

theorem State.readBedstone_kept (h : Kept q s) : Kept q (State.readBedstone s) := by
  unfold State.readBedstone
  try dsimp only
  repeat' with_reducible first
    | assumption
    | apply Kept.foldl
    | refine PairKept.fst (State.readGranules_kept ?_)
    | refine PairKept.fst (State.readLocal_kept ?_)
    | split
    | intro

theorem State.loseRowCores_kept {lost : List Nat} (h : Kept q s) : Kept q (State.loseRowCores s lost) := by
  unfold State.loseRowCores
  try dsimp only
  repeat' with_reducible first
    | assumption
    | apply Kept.foldl
    | apply State.modDev_kept
    | apply State.setTroubleBit_kept
    | apply State.addDefect_kept
    | split
    | exact id
    | intro

theorem State.retireLanes_kept {p : Nat} (h : Kept q s) : Kept q (State.retireLanes s p) := by
  unfold State.retireLanes
  try dsimp only
  repeat' with_reducible first
    | assumption
    | exact PairKept.left (by with_reducible assumption)
    | apply State.modCore_kept
    | apply State.setTroubleBit_kept
    | split
    | refine fun c (hc : Core.Canonical c) => ?_
    | exact Core.canonical_of hc rfl rfl rfl rfl rfl rfl
    | exact id
    | intro

theorem State.shapeCores_kept  (h : Kept q s) : Kept q (State.shapeCores s) := by
  unfold State.shapeCores
  try dsimp only
  repeat' with_reducible first
    | assumption
    | apply Kept.foldl
    | exact PairKept.left (by with_reducible assumption)
    | apply State.modDev_kept
    | apply State.retireLanes_kept
    | split
    | refine PairKept.fst (PairKept.foldl ?_ ?_)
    | exact id
    | intro

theorem State.endRows_kept {full : List UnitId} {tally : Tally} (h : Kept q s) : Kept q (State.endRows s full tally)
    := by
  unfold State.endRows
  try dsimp only
  repeat' with_reducible first
    | assumption
    | apply State.stagePasses_kept
    | apply State.failReadiness_kept
    | split

theorem execStageS5BedstoneTest_kept {r : S5Facts} (h : Kept q s) : OutKept q (execStageS5BedstoneTest r s) := by
  unfold execStageS5BedstoneTest
  try dsimp only
  repeat' with_reducible first
    | assumption
    | apply OutKept.event
    | apply State.listFresh_kept
    | apply State.readBedstone_kept
    | apply State.loseRowCores_kept
    | apply State.shapeCores_kept
    | apply State.endRows_kept
    | split

theorem State.trainStack_kept {k : Nat} {f : S6Stack} (h : Kept q s) : Kept q (State.trainStack s k f) := by
  unfold State.trainStack
  try dsimp only
  repeat' with_reducible first
    | assumption
    | apply Kept.foldl
    | apply State.modStack_kept
    | apply State.modDomain_kept
    | apply State.setTroubleBit_kept
    | apply State.retireSegment_kept
    | split
    | refine fun c (hc : Stack.Canonical c) => ?_
    | exact Stack.canonical_of hc rfl rfl rfl
    | intro

theorem execStageS6MemoryTraining_kept {r : S6Facts} (h : Kept q s) : OutKept q (execStageS6MemoryTraining r s) := by
  unfold execStageS6MemoryTraining
  try dsimp only
  repeat' with_reducible first
    | assumption
    | apply OutKept.event
    | apply OutKept.next
    | apply Kept.foldl
    | exact PairKept.left (by with_reducible assumption)
    | apply State.drop_kept
    | apply State.failReadiness_kept
    | apply State.listFresh_kept
    | apply State.modDev_kept
    | apply State.stagePasses_kept
    | apply State.trainStack_kept
    | apply event_kept
    | split
    | refine PairKept.fst (PairKept.foldl ?_ ?_)
    | exact id
    | intro

theorem State.checkStack_kept {k : Nat} {x : Nat × Nat} (h : Kept q s) : Kept q (State.checkStack s k x) := by
  unfold State.checkStack
  try dsimp only
  repeat' with_reducible first
    | assumption
    | apply State.modStack_kept
    | apply State.setTroubleBit_kept
    | split
    | refine fun c (hc : Stack.Canonical c) => ?_
    | exact Stack.canonical_of hc rfl rfl rfl

theorem execStageS7CheckerTest_kept {r : S7Facts} (h : Kept q s) : OutKept q (execStageS7CheckerTest r s) := by
  unfold execStageS7CheckerTest
  try dsimp only
  repeat' with_reducible first
    | assumption
    | apply Kept.foldl
    | apply OutKept.event
    | apply State.stagePasses_kept
    | apply State.failReadiness_kept
    | apply State.checkStack_kept
    | split
    | intro

theorem execStageS8LastCheck_kept {r : S8Facts} (h : Kept q s) : OutKept q (execStageS8LastCheck r s) := by
  unfold execStageS8LastCheck
  try dsimp only
  repeat' with_reducible first
    | assumption
    | apply OutKept.event
    | apply OutKept.next
    | exact PairKept.left (by with_reducible assumption)
    | apply State.failReadiness_kept
    | apply State.modSec_kept
    | apply State.stagePasses_kept
    | apply event_kept
    | split
    | exact fun x => Security.canonical_of x rfl
    | exact id
    | intro

end Sys2Proof.Machine
end

