-- ==== Sys2Proof/Laws/KeptStarts.lean ====
section
/-! SUPPORT. Every operation of Machine/Starts.lean leaves the queue alone and keeps the state canonical. -/

namespace Sys2Proof.Machine

variable {q : List Instr} {s t : State}

theorem State.flash_kept (h : Kept q s) : Kept q s.flash := by
  refine ⟨h.1, ?_⟩
  constructor
  case operators => exact h.sec.operators
  case tableA => exact h.sec.tableA
  case tableB => exact h.sec.tableB
  case log => exact ⟨Nat.zero_le _, Nat.zero_le _, fun i h => by cases h⟩
  case position => exact Nat.two_pow_pos 64
  all_goals first | rfl | exact Family.nil

theorem State.coldStart_kept (h : Kept q s) : Kept q (State.coldStart s) := by
  unfold State.coldStart
  try dsimp only
  repeat' with_reducible first
    | assumption
    | apply State.modDev_kept
    | apply State.flash_kept
    | exact id

theorem State.coldAgain_kept (h : Kept q s) : Kept q s.coldAgain := by
  have h1 := Kept.with_wheel (State.flash_kept h) (v := s.wheel) h.position
  refine State.modDev_kept h1 (fun _ => ?_) id
  dsimp only
  exact swf_filter h.reports

theorem State.backToSuspects_kept (h : Kept q s) : Kept q (State.backToSuspects s) := by
  unfold State.backToSuspects
  try dsimp only
  repeat' with_reducible first
    | assumption
    | apply State.modContext_kept
    | apply State.modDev_kept
    | split
    | refine fun c (hc : Context.Canonical c) => ?_
    | exact Context.canonical_of hc rfl
    | exact id

theorem State.forgetErrors_kept (h : Kept q s) : Kept q s.forgetErrors := by
  have hp := swf_smap (f := fun _ (p : Page) => { p with errors := 0 }) h.pages
  exact ⟨h.1, { h.2 with rowErrors := swf_nil, pages := hp }⟩

theorem State.forgetSelfTests_kept (h : Kept q s) : Kept q s.forgetSelfTests :=
  Kept.foldl h fun _ _ h => State.modStack_kept h fun _ hc => Stack.canonical_of hc rfl rfl rfl

theorem State.warmStart_kept {cause : Nat} (h : Kept q s) : Kept q (State.warmStart s cause) := by
  unfold State.warmStart
  try dsimp only
  repeat' with_reducible first
    | assumption
    | apply State.modDev_kept
    | apply State.setTroubleBit_kept
    | apply State.giveUpAll_kept
    | apply State.backToSuspects_kept
    | apply State.forgetSelfTests_kept
    | apply State.forgetErrors_kept
    | exact id
    | exact fun _ => swf_nil

theorem execFaultHoldExpiry_kept (h : Kept q s) : OutKept q (execFaultHoldExpiry s) := by
  unfold execFaultHoldExpiry
  try dsimp only
  repeat' with_reducible first
    | assumption
    | apply OutKept.event
    | apply State.modDev_kept
    | apply State.warmStart_kept
    | split
    | exact id

theorem execResetInRelease_kept {low : Nat} (h : Kept q s) : OutKept q (execResetInRelease low s) := by
  unfold execResetInRelease
  try dsimp only
  repeat' with_reducible first
    | assumption
    | apply OutKept.event
    | apply State.coldStart_kept
    | apply State.coldAgain_kept
    | apply State.warmStart_kept
    | split

theorem State.loseBytes_kept {a : Nat} {n : Nat} (h : Kept q s) : Kept q (State.loseBytes s a n) := by
  unfold State.loseBytes
  try dsimp only
  repeat' with_reducible first
    | assumption
    | apply State.writeKey_kept
    | refine Kept.ctor ?_ rfl rfl rfl rfl rfl rfl rfl rfl rfl rfl rfl rfl rfl rfl rfl rfl rfl rfl rfl rfl rfl rfl

theorem State.emptyCache_kept {unreachable : List Nat} {d : Nat} (h : Kept q s) : Kept q (State.emptyCache s
    unreachable d) := by
  unfold State.emptyCache
  try dsimp only
  repeat' with_reducible first
    | assumption
    | apply Kept.foldl
    | exact PairKept.left (by with_reducible assumption)
    | apply State.dropLines_kept
    | apply State.loseBytes_kept
    | apply State.modDev_kept
    | apply State.modPond_kept
    | apply State.retirePending_kept
    | apply State.setTroubleBit_kept
    | split
    | refine fun c (hc : Millpond.Canonical c) => ?_
    | exact Millpond.canonical_of hc rfl
    | refine PairKept.fst (PairKept.foldl ?_ ?_)
    | exact id
    | intro

theorem State.plainAll_kept (h : Kept q s) : Kept q (State.plainAll s) := by
  unfold State.plainAll
  try dsimp only
  repeat' with_reducible first
    | assumption
    | apply Kept.foldl
    | apply State.modPseudo_kept
    | apply State.modJournal_kept
    | apply State.endClosings_kept
    | apply State.modeReached_kept
    | split
    | intro

theorem State.endSplit_kept  (h : Kept q s) : Kept q (State.endSplit s) := by
  unfold State.endSplit
  try dsimp only
  repeat' with_reducible first
    | assumption
    | apply Kept.foldl
    | exact PairKept.left (by with_reducible assumption)
    | apply State.resplit_kept
    | apply State.splitDone_kept
    | split
    | refine PairKept.fst (PairKept.foldl ?_ ?_)
    | exact id
    | intro

theorem Link.quiet_canonical {l : Link} (h : l.Canonical) : l.quiet.Canonical := by
  unfold Link.Canonical Link.quiet at *
  dsimp only
  first | exact swf_smap h | exact h

theorem State.restUnits_kept (h : Kept q s) : Kept q s.restUnits := by
  refine ⟨h.1, { h.2 with cores := ?_, links := ?_, hoppers := ?_ }⟩
  · exact h.cores.smap (f := fun _ (x : Core) => { x.rebooted with state := .disabled }) fun _ _ hc =>
      Core.canonical_of (Core.rebooted_canonical hc) rfl rfl rfl rfl rfl rfl
  · exact h.links.smap fun _ _ hc => Link.quiet_canonical hc
  · exact swf_smap (f := fun _ (h : Hopper) => h.quiet) h.hoppers

theorem State.restStacks_kept  (h : Kept q s) : Kept q (State.restStacks s) := by
  unfold State.restStacks
  try dsimp only
  repeat' with_reducible first
    | assumption
    | apply Kept.foldl
    | exact PairKept.left (by with_reducible assumption)
    | apply State.interruptSweeps_kept
    | apply State.modStack_kept
    | split
    | refine fun c (hc : Stack.Canonical c) => ?_
    | exact Stack.canonical_of hc rfl rfl rfl
    | refine PairKept.fst (PairKept.foldl ?_ ?_)
    | exact id
    | intro

theorem execQuiesce_kept {unreachable : List Nat} (h : Kept q s) : OutKept q (execQuiesce unreachable s) := by
  unfold execQuiesce
  try dsimp only
  repeat' with_reducible first
    | assumption
    | apply Kept.foldl
    | apply OutKept.event
    | apply State.modDev_kept
    | apply State.releaseUnmaps_kept
    | apply State.stageSkips_kept
    | apply State.emptyCache_kept
    | apply State.plainAll_kept
    | apply State.endSplit_kept
    | apply State.restUnits_kept
    | apply State.restStacks_kept
    | exact id
    | intro

theorem State.loseMoved_kept {moved : List (Nat × Nat)} (h : Kept q s) : Kept q (State.loseMoved s moved) := by
  unfold State.loseMoved
  try dsimp only
  repeat' with_reducible first
    | assumption
    | apply Kept.foldl
    | apply State.clearKey_kept
    | apply State.endReset_kept
    | split
    | intro

theorem State.fixMap_kept (h : Kept q s) : Kept q s.fixMap := by
  have hm : ∀ (l : List (Nat × Nat)), swf 256 (l.foldl (fun m e => sput 256 m e.1 e.2) []) = true :=
    fun l => swf_foldl swf_nil fun _ _ h => swf_sput h
  unfold State.fixMap
  dsimp only
  refine Kept.foldl (Kept.foldl (State.modDev_kept ?_ id fun _ => hm _) fun s k h => State.rebuildPrograms_kept h)
    fun s p h => ?_
  · split
    · exact State.loseMoved_kept h
    · exact h
  · split
    · exact State.modCore_kept h fun _ hc => Core.canonical_of hc rfl rfl rfl rfl rfl rfl
    · exact State.modCore_kept h fun _ hc => Core.canonical_of hc rfl rfl rfl rfl rfl rfl

theorem State.takeSegment_kept {g : Nat} (h : Kept q s) : Kept q (State.takeSegment s g) := by
  unfold State.takeSegment
  try dsimp only
  repeat' with_reducible first
    | assumption
    | apply Kept.foldl
    | exact PairKept.left (by with_reducible assumption)
    | apply State.clearDamage_kept
    | apply State.clearKey_kept
    | apply State.modContext_kept
    | apply State.setSegCode_kept
    | apply State.unmapPage_kept
    | split
    | refine fun c (hc : Context.Canonical c) => ?_
    | exact Context.canonical_of hc rfl
    | refine PairKept.fst (PairKept.foldl ?_ ?_)
    | exact id
    | intro

theorem State.replaceJournal_kept  (h : Kept q s) : Kept q (State.replaceJournal s) := by
  unfold State.replaceJournal
  try dsimp only
  repeat' with_reducible first
    | assumption
    | apply Kept.foldl
    | exact PairKept.left (by with_reducible assumption)
    | apply State.modJournal_kept
    | apply State.takeSegment_kept
    | split
    | refine PairKept.fst (PairKept.foldl ?_ ?_)
    | exact id
    | intro

theorem State.copyUnreadable_kept {b : Nat} (h : Kept q s) : Kept q (State.copyUnreadable s b) := by
  unfold State.copyUnreadable
  try dsimp only
  repeat' with_reducible first
    | assumption
    | exact PairKept.left (by with_reducible assumption)
    | apply State.modJournal_kept
    | apply State.stackUncorrectable_kept
    | split
    | exact id
    | intro

theorem State.readJournal_kept {r : S9Facts} (h : Kept q s) : Kept q (State.readJournal s r) := by
  unfold State.readJournal
  try dsimp only
  repeat' with_reducible first
    | assumption
    | apply Kept.foldl
    | exact PairKept.left (by with_reducible assumption)
    | apply State.copyUnreadable_kept
    | apply State.loseRecord_kept
    | apply State.setTroubleBit_kept
    | apply State.writeLog_kept
    | split
    | refine PairKept.fst (PairKept.foldl ?_ ?_)
    | exact id
    | intro

theorem State.enterWindows_kept (h : Kept q s) : Kept q (State.enterWindows s) := by
  unfold State.enterWindows
  try dsimp only
  repeat' with_reducible first
    | assumption
    | apply Kept.foldl
    | apply State.modPseudo_kept
    | apply State.modJournal_kept
    | apply State.prepareCompute_kept
    | apply State.modeReached_kept
    | split
    | intro

theorem State.applyResets_kept (h : Kept q s) : Kept q (State.applyResets s) := by
  unfold State.applyResets
  try dsimp only
  repeat' with_reducible first
    | assumption
    | apply Kept.foldl
    | apply State.modContext_kept
    | apply State.leaveReplay_kept
    | apply State.endReset'_kept
    | split
    | refine fun c (hc : Context.Canonical c) => ?_
    | exact Context.canonical_of hc rfl
    | intro

theorem State.warmSuspects_kept (h : Kept q s) : Kept q (State.warmSuspects s) := by
  unfold State.warmSuspects
  try dsimp only
  repeat' with_reducible first
    | assumption
    | apply Kept.foldl
    | apply State.modDev_kept
    | apply State.quarantine_kept
    | split
    | exact id
    | intro

theorem State.restartContexts_kept (h : Kept q s) : Kept q (State.restartContexts s) := by
  unfold State.restartContexts
  try dsimp only
  repeat' with_reducible first
    | assumption
    | apply Kept.foldl
    | apply State.modContext_kept
    | apply State.modStream_kept
    | apply State.advanceGeneration_kept
    | apply State.restartAll_kept
    | split
    | refine fun c (hc : Context.Canonical c) => ?_
    | exact Context.canonical_of hc rfl
    | intro

theorem State.endStart_kept (h : Kept q s) : Kept q (State.endStart s) := by
  unfold State.endStart
  try dsimp only
  repeat' with_reducible first
    | assumption
    | apply State.modDev_kept
    | apply State.setTroubleBit_kept
    | apply State.recovered_kept
    | apply State.stagePasses_kept
    | split
    | exact id

theorem State.coldReady_kept (h : Kept q s) : Kept q (State.coldReady s) := by
  unfold State.coldReady
  try dsimp only
  repeat' with_reducible first
    | assumption
    | apply State.modSec_kept
    | exact fun x => Security.canonical_of x rfl
    | apply State.endStart_kept
    | exact id

theorem State.warmReady_kept {r : S9Facts} (h : Kept q s) : Kept q (State.warmReady s r) := by
  unfold State.warmReady
  try dsimp only
  repeat' with_reducible first
    | assumption
    | apply Kept.foldl
    | apply State.modJournal_kept
    | apply State.replayStep_kept
    | apply State.sweepNext_kept
    | apply State.readJournal_kept
    | apply State.enterWindows_kept
    | apply State.applyResets_kept
    | apply State.warmSuspects_kept
    | apply State.restartContexts_kept
    | apply State.endStart_kept
    | intro

theorem State.ungate_kept (h : Kept q s) : Kept q (State.ungate s) := by
  unfold State.ungate
  try dsimp only
  repeat' with_reducible first
    | assumption
    | apply State.modPower_kept
    | exact id
    | exact fun h => by dsimp only; exact swf_smap h

theorem execStageS9Ready_kept {r : S9Facts} (h : Kept q s) : OutKept q (execStageS9Ready r s) := by
  unfold execStageS9Ready
  try dsimp only
  repeat' with_reducible first
    | assumption
    | apply OutKept.event
    | apply State.modFabric_kept
    | apply State.followClaims_kept
    | apply State.claim_kept
    | apply State.fixMap_kept
    | apply State.replaceJournal_kept
    | apply State.coldReady_kept
    | apply State.warmReady_kept
    | apply State.ungate_kept
    | split
    | exact id

end Sys2Proof.Machine
end

