-- ==== Sys2Proof/Laws/KeptPins.lean ====
section
/-! SUPPORT. Every operation of Machine/Pins.lean leaves the queue alone and keeps the state canonical. -/

namespace Sys2Proof.Machine

variable {q : List Instr} {s t : State}

theorem State.powerOff_kept (h : Kept q s) : Kept q (State.powerOff s) := by
  unfold State.powerOff
  try dsimp only
  repeat' with_reducible first
    | assumption
    | apply State.modDev_kept
    | apply State.flash_kept
    | exact id
    | refine Kept.ctor ?_ rfl rfl rfl rfl rfl rfl rfl rfl rfl rfl rfl rfl rfl rfl rfl rfl rfl rfl rfl rfl rfl rfl

theorem execPwrEnAssert_kept {p : Asserted} (h : Kept q s) : OutKept q (execPwrEnAssert p s) := by
  have k : Kept q (s.modDev fun d => { d with testMode := p.testMode }) := State.modDev_kept h id id
  exact OutKept.event h ⟨k.1, { k.2 with }⟩

theorem execPrechargeStart_kept (h : Kept q s) : OutKept q (execPrechargeStart s) := by
  unfold execPrechargeStart
  try dsimp only
  repeat' with_reducible first
    | assumption
    | apply OutKept.event
    | refine Kept.ctor ?_ rfl rfl rfl rfl rfl rfl rfl rfl rfl rfl rfl rfl rfl rfl rfl rfl rfl rfl rfl rfl rfl rfl

theorem execPrechargeDone_kept (h : Kept q s) : OutKept q (execPrechargeDone s) := by
  unfold execPrechargeDone
  try dsimp only
  repeat' with_reducible first
    | assumption
    | apply OutKept.event
    | apply State.coldStart_kept
    | refine Kept.ctor ?_ rfl rfl rfl rfl rfl rfl rfl rfl rfl rfl rfl rfl rfl rfl rfl rfl rfl rfl rfl rfl rfl rfl

theorem execPwrEnDeassert_kept (h : Kept q s) : OutKept q (execPwrEnDeassert s) := by
  unfold execPwrEnDeassert
  try dsimp only
  repeat' with_reducible first
    | assumption
    | apply OutKept.event
    | apply State.powerOff_kept
    | split
    | refine Kept.ctor ?_ rfl rfl rfl rfl rfl rfl rfl rfl rfl rfl rfl rfl rfl rfl rfl rfl rfl rfl rfl rfl rfl rfl

theorem execPowerLoss_kept (h : Kept q s) : OutKept q (execPowerLoss s) := by
  unfold execPowerLoss
  try dsimp only
  repeat' with_reducible first
    | assumption
    | apply OutKept.next
    | apply State.powerOff_kept
    | split
    | refine Kept.ctor ?_ rfl rfl rfl rfl rfl rfl rfl rfl rfl rfl rfl rfl rfl rfl rfl rfl rfl rfl rfl rfl rfl rfl

theorem execBreakerOpen_kept (h : Kept q s) : OutKept q (execBreakerOpen s) := by
  unfold execBreakerOpen
  try dsimp only
  repeat' with_reducible first
    | assumption
    | apply OutKept.event
    | apply State.powerOff_kept

theorem execTestFirmwareLoad_kept {fields : List Byte} {key : List Byte} {signature : List Byte} {body : List Byte} (h
    : Kept q s) : OutKept q (execTestFirmwareLoad fields key signature body s) := by
  unfold execTestFirmwareLoad
  try dsimp only
  repeat' with_reducible first
    | assumption
    | apply OutKept.event
    | apply OutKept.next
    | exact PairKept.left (by with_reducible assumption)
    | apply State.modDev_kept
    | apply State.modSec_kept
    | apply body_kept
    | refine HandledKept.of_reply (body_kept ?_) (by with_reducible assumption)
    | refine HandledKept.of_later (body_kept ?_) (by with_reducible assumption)
    | refine HandledKept.state (body_kept ?_)
    | apply event_kept
    | split
    | exact fun x => Security.canonical_of x rfl
    | exact id
    | intro

theorem execI2cEepromRead_kept {x : I2cAccess} {length : Nat} (h : Kept q s) : OutKept q (execI2cEepromRead x length s) := by
  unfold execI2cEepromRead State.transferred
  refine OutKept.next ?_
  split
  · exact ⟨h.1, { h.2 with }⟩
  · exact ⟨h.1, { h.2 with }⟩

theorem execCoolantMonitorRead_kept {x : I2cAccess} {length : Nat} (h : Kept q s) :
    OutKept q (execCoolantMonitorRead x length s) := by
  unfold execCoolantMonitorRead State.transferred
  refine OutKept.next ?_
  split
  · exact ⟨h.1, { h.2 with }⟩
  · exact ⟨h.1, { h.2 with }⟩

end Sys2Proof.Machine
end

