-- ==== Sys2Proof/Laws/KeptHostBody.lean ====
section
/-! SUPPORT. Every operation of Machine/HostBody.lean leaves the queue alone and keeps the state canonical. -/

namespace Sys2Proof.Machine

variable {q : List Instr} {s t : State}

theorem bodyLow_kept {op : Nat} {f : Frame} {c : Nat} {sid : Nat} (h : Kept q s) : HandledKept q (bodyLow op f c sid
    s) := by
  unfold bodyLow
  try dsimp only
  repeat' with_reducible first
    | assumption
    | apply bodyRunStep_kept
    | apply bodyRunBook_kept
    | apply bodyRunUnbook_kept
    | apply bodySeqArea_kept
    | apply bodySeqOpen_kept
    | apply bodySeqExtend_kept
    | apply bodySeqTrim_kept
    | apply bodySeqClose_kept
    | apply bodyCtxOpen_kept
    | apply bodyCtxClose_kept
    | apply bodyCtxReset_kept
    | apply bodyPlanLoad_kept
    | apply bodyPlanUnload_kept
    | apply bodyCtxSave_kept
    | apply bodyCtxRestore_kept
    | apply bodyHello_kept
    | apply bodyOpen_kept
    | apply bodyClose_kept
    | split

theorem bodyMiddle_kept {op : Nat} {f : Frame} {c : Nat} {x : Session} (h : Kept q s) : HandledKept q (bodyMiddle op f
    c x s) := by
  unfold bodyMiddle
  try dsimp only
  repeat' with_reducible first
    | assumption
    | apply bodyPageMap_kept
    | apply bodyPageUnmap_kept
    | apply bodyPageRetire_kept
    | apply bodySegRetire_kept
    | apply bodySegRecode_kept
    | apply bodyTimeSet_kept
    | apply bodyTimeSource_kept
    | apply bodyQuernMode_kept
    | apply bodyMemRead_kept
    | apply bodyMemWrite_kept
    | apply bodyMemSplit_kept
    | apply bodyStatusDevice_kept
    | apply bodyStatusContext_kept
    | apply bodyLogRead_kept
    | apply bodyRegRead_kept
    | apply bodyRegWrite_kept
    | split

theorem bodyFabric_kept {op : Nat} {f : Frame} {c : Nat} {x : Session} (h : Kept q s) : HandledKept q (bodyFabric op f
    c x s) := by
  unfold bodyFabric
  try dsimp only
  repeat' with_reducible first
    | assumption
    | apply bodyFabricAddress_kept
    | apply bodyFabricJoin_kept
    | apply bodyFabricLeave_kept
    | apply bodyFabricStatus_kept
    | apply bodyCascadeForm_kept
    | apply bodyCascadeFollow_kept
    | apply bodyCascadeLeave_kept
    | apply bodyCascadeRun_kept
    | apply bodyFabricCopy_kept
    | apply bodyFabricMigrate_kept
    | split

theorem bodyHigh_kept {op : Nat} {f : Frame} (h : Kept q s) : HandledKept q (bodyHigh op f s) := by
  unfold bodyHigh
  try dsimp only
  repeat' with_reducible first
    | assumption
    | apply bodyPowerDomain_kept
    | apply bodyPowerPolicy_kept
    | apply bodyPowerDoze_kept
    | apply bodyPowerWake_kept
    | apply bodyFwStatus_kept
    | apply bodyFwWrite_kept
    | apply bodyFwActivate_kept
    | apply bodyFwAuthorise_kept
    | apply bodyFwEnroll_kept
    | apply bodyFwRemove_kept
    | apply bodyFwMacsec_kept
    | apply bodyAttestIdentity_kept
    | apply bodyAttestReport_kept
    | apply bodyInjectLink_kept
    | apply bodyInjectPort_kept
    | apply bodyInjectEcc_kept
    | apply bodyInjectClear_kept
    | apply bodyInjectStatus_kept
    | split

theorem body_kept {f : Frame} {sid : Nat} {x : Session} (h : Kept q s) : HandledKept q (body f sid x s) := by
  unfold body
  try dsimp only
  repeat' with_reducible first
    | assumption
    | apply bodyLow_kept
    | apply bodyMiddle_kept
    | apply bodyFabric_kept
    | apply bodyHigh_kept
    | split

end Sys2Proof.Machine
end

