-- ==== Sys2Proof/Laws/KeptReceive.lean ====
section
/-! SUPPORT. Every operation of Machine/Receive.lean leaves the queue alone and keeps the state canonical. -/

namespace Sys2Proof.Machine

variable {q : List Instr} {s t : State}

theorem act_kept {f : Frame} {sid : Nat} {x : Session} (h : Kept q s) : HandledKept q (act f sid x s) := by
  have k : Kept q (if f.opcode.toNat = 0x0101 then s.countHello else s) := by
    split
    · exact State.countHello_kept h
    · exact h
  unfold act
  dsimp only
  generalize (if f.opcode.toNat = 0x0101 then s.countHello else s) = v at *
  split
  · exact HandledKept.reply k
  · exact HandledKept.checked k (body_kept k)

theorem State.actUnnumbered_kept {f : Frame} (h : Kept q s) : Kept q (State.actUnnumbered s f) := by
  unfold State.actUnnumbered
  dsimp only
  have k : Kept q (if f.opcode.toNat = 0x0101 then s.countHello else s) := by
    split
    · exact State.countHello_kept h
    · exact h
  generalize (if f.opcode.toNat = 0x0101 then s.countHello else s) = v at k ⊢
  have c : HandledKept q (checked [formCheck f.opcode.toNat f.payload, legalDevice f.opcode.toNat v] v
      (if f.opcode.toNat = 0x0101 then bodyHello v else bodyOpen f v)) := by
    refine HandledKept.checked k ?_
    split
    · exact bodyHello_kept k
    · exact bodyOpen_kept k
  split
  · exact HandledKept.of_later c ‹_›
  · exact State.emit_kept (HandledKept.of_reply c ‹_›)

theorem State.takeFrame_kept {sid : Nat} {f : Frame} (h : Kept q s) : Kept q (State.takeFrame s sid f) := by
  unfold State.takeFrame
  try dsimp only
  repeat' with_reducible first
    | assumption
    | apply State.modSession_kept
    | apply State.answer_kept
    | apply act_kept

theorem State.takeHeld_kept {sid n : Nat} (h : Kept q s) : Kept q (s.takeHeld sid n) := by
  induction n generalizing s with
  | zero => exact h
  | succ n ih =>
    unfold State.takeHeld
    dsimp only
    split
    · exact h
    · exact ih (State.takeFrame_kept (State.modSession_kept h))

theorem State.oldNumber_kept {sid : Nat} {f : Frame} (h : Kept q s) : Kept q (State.oldNumber s sid f) := by
  unfold State.oldNumber
  try dsimp only
  repeat' with_reducible first
    | assumption
    | apply State.emit_kept
    | split

theorem State.number_kept {sid : Nat} {f : Frame} (h : Kept q s) : Kept q (s.number sid f) := by
  unfold State.number
  dsimp only
  split
  · exact State.takeHeld_kept (State.takeFrame_kept h)
  · split
    · exact State.oldNumber_kept h
    · split
      · exact h
      · exact State.modSession_kept h

theorem State.dropFrame_kept (h : Kept q s) : Kept q (State.dropFrame s) := by
  unfold State.dropFrame
  try dsimp only
  repeat' with_reducible first
    | assumption
    | apply State.modPort_kept
    | apply State.setTroubleBit_kept
    | split

theorem State.receiveFrame_kept {f : Frame} (h : Kept q s) : Kept q (State.receiveFrame s f) := by
  unfold State.receiveFrame
  try dsimp only
  repeat' with_reducible first
    | assumption
    | apply State.modSession_kept
    | apply State.hostAck_kept
    | apply State.actUnnumbered_kept
    | apply State.number_kept
    | apply State.dropFrame_kept
    | split

theorem State.receiveAll_kept {l : List Carried} (h : Kept q s) : Kept q (State.receiveAll s l) := by
  unfold State.receiveAll
  try dsimp only
  repeat' with_reducible first
    | assumption
    | apply Kept.foldl
    | apply State.receiveFrame_kept
    | apply State.putOut_kept
    | split
    | intro

theorem State.receive_kept {f : Frame} (h : Kept q s) : Kept q (State.receive s f) := by
  unfold State.receive
  try dsimp only
  repeat' with_reducible first
    | assumption
    | exact PairKept.left (by with_reducible assumption)
    | apply State.letIn_kept
    | apply State.receiveAll_kept
    | apply State.throughInjections_kept
    | split
    | (refine PairKept.of_eq ?_ (by with_reducible assumption); apply State.letIn_kept)
    | (refine PairKept.of_eq ?_ (by with_reducible assumption); apply State.throughInjections_kept)
    | (refine PairKept.of_eq ?_ (by with_reducible assumption); split)
    | refine PairKept.fst (State.letIn_kept ?_)
    | refine PairKept.fst (State.throughInjections_kept ?_)
    | exact id
    | intro

theorem State.receiveAs_kept {op : Nat} {f : Frame} (h : Kept q s) : Kept q (State.receiveAs s op f) := by
  unfold State.receiveAs
  try dsimp only
  repeat' with_reducible first
    | assumption
    | apply State.receive_kept
    | split

theorem execSessionHello_kept {f : Frame} (h : Kept q s) : OutKept q (execSessionHello f s) := by
  unfold execSessionHello
  try dsimp only
  repeat' with_reducible first
    | assumption
    | apply OutKept.next
    | apply State.receiveAs_kept

theorem execSessionOpen_kept {f : Frame} (h : Kept q s) : OutKept q (execSessionOpen f s) := by
  unfold execSessionOpen
  try dsimp only
  repeat' with_reducible first
    | assumption
    | apply OutKept.next
    | apply State.receiveAs_kept

theorem execSessionClose_kept {f : Frame} (h : Kept q s) : OutKept q (execSessionClose f s) := by
  unfold execSessionClose
  try dsimp only
  repeat' with_reducible first
    | assumption
    | apply OutKept.next
    | apply State.receiveAs_kept

theorem execPlanLoad_kept {f : Frame} (h : Kept q s) : OutKept q (execPlanLoad f s) := by
  unfold execPlanLoad
  try dsimp only
  repeat' with_reducible first
    | assumption
    | apply OutKept.next
    | apply State.receiveAs_kept

theorem execPlanUnload_kept {f : Frame} (h : Kept q s) : OutKept q (execPlanUnload f s) := by
  unfold execPlanUnload
  try dsimp only
  repeat' with_reducible first
    | assumption
    | apply OutKept.next
    | apply State.receiveAs_kept

theorem execRunStep_kept {f : Frame} (h : Kept q s) : OutKept q (execRunStep f s) := by
  unfold execRunStep
  try dsimp only
  repeat' with_reducible first
    | assumption
    | apply OutKept.next
    | apply State.receiveAs_kept

theorem execRunBook_kept {f : Frame} (h : Kept q s) : OutKept q (execRunBook f s) := by
  unfold execRunBook
  try dsimp only
  repeat' with_reducible first
    | assumption
    | apply OutKept.next
    | apply State.receiveAs_kept

theorem execRunUnbook_kept {f : Frame} (h : Kept q s) : OutKept q (execRunUnbook f s) := by
  unfold execRunUnbook
  try dsimp only
  repeat' with_reducible first
    | assumption
    | apply OutKept.next
    | apply State.receiveAs_kept

theorem execSeqArea_kept {f : Frame} (h : Kept q s) : OutKept q (execSeqArea f s) := by
  unfold execSeqArea
  try dsimp only
  repeat' with_reducible first
    | assumption
    | apply OutKept.next
    | apply State.receiveAs_kept

theorem execSeqOpen_kept {f : Frame} (h : Kept q s) : OutKept q (execSeqOpen f s) := by
  unfold execSeqOpen
  try dsimp only
  repeat' with_reducible first
    | assumption
    | apply OutKept.next
    | apply State.receiveAs_kept

theorem execSeqExtend_kept {f : Frame} (h : Kept q s) : OutKept q (execSeqExtend f s) := by
  unfold execSeqExtend
  try dsimp only
  repeat' with_reducible first
    | assumption
    | apply OutKept.next
    | apply State.receiveAs_kept

theorem execSeqTrim_kept {f : Frame} (h : Kept q s) : OutKept q (execSeqTrim f s) := by
  unfold execSeqTrim
  try dsimp only
  repeat' with_reducible first
    | assumption
    | apply OutKept.next
    | apply State.receiveAs_kept

theorem execSeqClose_kept {f : Frame} (h : Kept q s) : OutKept q (execSeqClose f s) := by
  unfold execSeqClose
  try dsimp only
  repeat' with_reducible first
    | assumption
    | apply OutKept.next
    | apply State.receiveAs_kept

theorem execCtxOpen_kept {f : Frame} (h : Kept q s) : OutKept q (execCtxOpen f s) := by
  unfold execCtxOpen
  try dsimp only
  repeat' with_reducible first
    | assumption
    | apply OutKept.next
    | apply State.receiveAs_kept

theorem execCtxClose_kept {f : Frame} (h : Kept q s) : OutKept q (execCtxClose f s) := by
  unfold execCtxClose
  try dsimp only
  repeat' with_reducible first
    | assumption
    | apply OutKept.next
    | apply State.receiveAs_kept

theorem execCtxReset_kept {f : Frame} (h : Kept q s) : OutKept q (execCtxReset f s) := by
  unfold execCtxReset
  try dsimp only
  repeat' with_reducible first
    | assumption
    | apply OutKept.next
    | apply State.receiveAs_kept

theorem execCtxSave_kept {f : Frame} (h : Kept q s) : OutKept q (execCtxSave f s) := by
  unfold execCtxSave
  try dsimp only
  repeat' with_reducible first
    | assumption
    | apply OutKept.next
    | apply State.receiveAs_kept

theorem execCtxRestore_kept {f : Frame} (h : Kept q s) : OutKept q (execCtxRestore f s) := by
  unfold execCtxRestore
  try dsimp only
  repeat' with_reducible first
    | assumption
    | apply OutKept.next
    | apply State.receiveAs_kept

theorem execMemRead_kept {f : Frame} (h : Kept q s) : OutKept q (execMemRead f s) := by
  unfold execMemRead
  try dsimp only
  repeat' with_reducible first
    | assumption
    | apply OutKept.next
    | apply State.receiveAs_kept

theorem execMemWrite_kept {f : Frame} (h : Kept q s) : OutKept q (execMemWrite f s) := by
  unfold execMemWrite
  try dsimp only
  repeat' with_reducible first
    | assumption
    | apply OutKept.next
    | apply State.receiveAs_kept

theorem execMemSplit_kept {f : Frame} (h : Kept q s) : OutKept q (execMemSplit f s) := by
  unfold execMemSplit
  try dsimp only
  repeat' with_reducible first
    | assumption
    | apply OutKept.next
    | apply State.receiveAs_kept

theorem execPageMap_kept {f : Frame} (h : Kept q s) : OutKept q (execPageMap f s) := by
  unfold execPageMap
  try dsimp only
  repeat' with_reducible first
    | assumption
    | apply OutKept.next
    | apply State.receiveAs_kept

theorem execPageUnmap_kept {f : Frame} (h : Kept q s) : OutKept q (execPageUnmap f s) := by
  unfold execPageUnmap
  try dsimp only
  repeat' with_reducible first
    | assumption
    | apply OutKept.next
    | apply State.receiveAs_kept

theorem execPageRetire_kept {f : Frame} (h : Kept q s) : OutKept q (execPageRetire f s) := by
  unfold execPageRetire
  try dsimp only
  repeat' with_reducible first
    | assumption
    | apply OutKept.next
    | apply State.receiveAs_kept

theorem execSegRecode_kept {f : Frame} (h : Kept q s) : OutKept q (execSegRecode f s) := by
  unfold execSegRecode
  try dsimp only
  repeat' with_reducible first
    | assumption
    | apply OutKept.next
    | apply State.receiveAs_kept

theorem execSegRetire_kept {f : Frame} (h : Kept q s) : OutKept q (execSegRetire f s) := by
  unfold execSegRetire
  try dsimp only
  repeat' with_reducible first
    | assumption
    | apply OutKept.next
    | apply State.receiveAs_kept

theorem execQuernMode_kept {f : Frame} (h : Kept q s) : OutKept q (execQuernMode f s) := by
  unfold execQuernMode
  try dsimp only
  repeat' with_reducible first
    | assumption
    | apply OutKept.next
    | apply State.receiveAs_kept

theorem execRegRead_kept {f : Frame} (h : Kept q s) : OutKept q (execRegRead f s) := by
  unfold execRegRead
  try dsimp only
  repeat' with_reducible first
    | assumption
    | apply OutKept.next
    | apply State.receiveAs_kept

theorem execRegWrite_kept {f : Frame} (h : Kept q s) : OutKept q (execRegWrite f s) := by
  unfold execRegWrite
  try dsimp only
  repeat' with_reducible first
    | assumption
    | apply OutKept.next
    | apply State.receiveAs_kept

theorem execLogRead_kept {f : Frame} (h : Kept q s) : OutKept q (execLogRead f s) := by
  unfold execLogRead
  try dsimp only
  repeat' with_reducible first
    | assumption
    | apply OutKept.next
    | apply State.receiveAs_kept

theorem execStatusDevice_kept {f : Frame} (h : Kept q s) : OutKept q (execStatusDevice f s) := by
  unfold execStatusDevice
  try dsimp only
  repeat' with_reducible first
    | assumption
    | apply OutKept.next
    | apply State.receiveAs_kept

theorem execStatusContext_kept {f : Frame} (h : Kept q s) : OutKept q (execStatusContext f s) := by
  unfold execStatusContext
  try dsimp only
  repeat' with_reducible first
    | assumption
    | apply OutKept.next
    | apply State.receiveAs_kept

theorem execTimeSet_kept {f : Frame} (h : Kept q s) : OutKept q (execTimeSet f s) := by
  unfold execTimeSet
  try dsimp only
  repeat' with_reducible first
    | assumption
    | apply OutKept.next
    | apply State.receiveAs_kept

theorem execTimeSource_kept {f : Frame} (h : Kept q s) : OutKept q (execTimeSource f s) := by
  unfold execTimeSource
  try dsimp only
  repeat' with_reducible first
    | assumption
    | apply OutKept.next
    | apply State.receiveAs_kept

theorem execFabricAddress_kept {f : Frame} (h : Kept q s) : OutKept q (execFabricAddress f s) := by
  unfold execFabricAddress
  try dsimp only
  repeat' with_reducible first
    | assumption
    | apply OutKept.next
    | apply State.receiveAs_kept

theorem execFabricJoin_kept {f : Frame} (h : Kept q s) : OutKept q (execFabricJoin f s) := by
  unfold execFabricJoin
  try dsimp only
  repeat' with_reducible first
    | assumption
    | apply OutKept.next
    | apply State.receiveAs_kept

theorem execFabricLeave_kept {f : Frame} (h : Kept q s) : OutKept q (execFabricLeave f s) := by
  unfold execFabricLeave
  try dsimp only
  repeat' with_reducible first
    | assumption
    | apply OutKept.next
    | apply State.receiveAs_kept

theorem execFabricStatus_kept {f : Frame} (h : Kept q s) : OutKept q (execFabricStatus f s) := by
  unfold execFabricStatus
  try dsimp only
  repeat' with_reducible first
    | assumption
    | apply OutKept.next
    | apply State.receiveAs_kept

theorem execFabricCopy_kept {f : Frame} (h : Kept q s) : OutKept q (execFabricCopy f s) := by
  unfold execFabricCopy
  try dsimp only
  repeat' with_reducible first
    | assumption
    | apply OutKept.next
    | apply State.receiveAs_kept

theorem execFabricMigrate_kept {f : Frame} (h : Kept q s) : OutKept q (execFabricMigrate f s) := by
  unfold execFabricMigrate
  try dsimp only
  repeat' with_reducible first
    | assumption
    | apply OutKept.next
    | apply State.receiveAs_kept

theorem execCascadeForm_kept {f : Frame} (h : Kept q s) : OutKept q (execCascadeForm f s) := by
  unfold execCascadeForm
  try dsimp only
  repeat' with_reducible first
    | assumption
    | apply OutKept.next
    | apply State.receiveAs_kept

theorem execCascadeFollow_kept {f : Frame} (h : Kept q s) : OutKept q (execCascadeFollow f s) := by
  unfold execCascadeFollow
  try dsimp only
  repeat' with_reducible first
    | assumption
    | apply OutKept.next
    | apply State.receiveAs_kept

theorem execCascadeLeave_kept {f : Frame} (h : Kept q s) : OutKept q (execCascadeLeave f s) := by
  unfold execCascadeLeave
  try dsimp only
  repeat' with_reducible first
    | assumption
    | apply OutKept.next
    | apply State.receiveAs_kept

theorem execCascadeRun_kept {f : Frame} (h : Kept q s) : OutKept q (execCascadeRun f s) := by
  unfold execCascadeRun
  try dsimp only
  repeat' with_reducible first
    | assumption
    | apply OutKept.next
    | apply State.receiveAs_kept

theorem execFwStatus_kept {f : Frame} (h : Kept q s) : OutKept q (execFwStatus f s) := by
  unfold execFwStatus
  try dsimp only
  repeat' with_reducible first
    | assumption
    | apply OutKept.next
    | apply State.receiveAs_kept

theorem execFwWrite_kept {f : Frame} (h : Kept q s) : OutKept q (execFwWrite f s) := by
  unfold execFwWrite
  try dsimp only
  repeat' with_reducible first
    | assumption
    | apply OutKept.next
    | apply State.receiveAs_kept

theorem execFwActivate_kept {f : Frame} (h : Kept q s) : OutKept q (execFwActivate f s) := by
  unfold execFwActivate
  try dsimp only
  repeat' with_reducible first
    | assumption
    | apply OutKept.next
    | apply State.receiveAs_kept

theorem execFwAuthorise_kept {f : Frame} (h : Kept q s) : OutKept q (execFwAuthorise f s) := by
  unfold execFwAuthorise
  try dsimp only
  repeat' with_reducible first
    | assumption
    | apply OutKept.next
    | apply State.receiveAs_kept

theorem execFwEnroll_kept {f : Frame} (h : Kept q s) : OutKept q (execFwEnroll f s) := by
  unfold execFwEnroll
  try dsimp only
  repeat' with_reducible first
    | assumption
    | apply OutKept.next
    | apply State.receiveAs_kept

theorem execFwRemove_kept {f : Frame} (h : Kept q s) : OutKept q (execFwRemove f s) := by
  unfold execFwRemove
  try dsimp only
  repeat' with_reducible first
    | assumption
    | apply OutKept.next
    | apply State.receiveAs_kept

theorem execFwMacsec_kept {f : Frame} (h : Kept q s) : OutKept q (execFwMacsec f s) := by
  unfold execFwMacsec
  try dsimp only
  repeat' with_reducible first
    | assumption
    | apply OutKept.next
    | apply State.receiveAs_kept

theorem execAttestIdentity_kept {f : Frame} (h : Kept q s) : OutKept q (execAttestIdentity f s) := by
  unfold execAttestIdentity
  try dsimp only
  repeat' with_reducible first
    | assumption
    | apply OutKept.next
    | apply State.receiveAs_kept

theorem execAttestReport_kept {f : Frame} (h : Kept q s) : OutKept q (execAttestReport f s) := by
  unfold execAttestReport
  try dsimp only
  repeat' with_reducible first
    | assumption
    | apply OutKept.next
    | apply State.receiveAs_kept

theorem execInjectLink_kept {f : Frame} (h : Kept q s) : OutKept q (execInjectLink f s) := by
  unfold execInjectLink
  try dsimp only
  repeat' with_reducible first
    | assumption
    | apply OutKept.next
    | apply State.receiveAs_kept

theorem execInjectPort_kept {f : Frame} (h : Kept q s) : OutKept q (execInjectPort f s) := by
  unfold execInjectPort
  try dsimp only
  repeat' with_reducible first
    | assumption
    | apply OutKept.next
    | apply State.receiveAs_kept

theorem execInjectEcc_kept {f : Frame} (h : Kept q s) : OutKept q (execInjectEcc f s) := by
  unfold execInjectEcc
  try dsimp only
  repeat' with_reducible first
    | assumption
    | apply OutKept.next
    | apply State.receiveAs_kept

theorem execInjectClear_kept {f : Frame} (h : Kept q s) : OutKept q (execInjectClear f s) := by
  unfold execInjectClear
  try dsimp only
  repeat' with_reducible first
    | assumption
    | apply OutKept.next
    | apply State.receiveAs_kept

theorem execInjectStatus_kept {f : Frame} (h : Kept q s) : OutKept q (execInjectStatus f s) := by
  unfold execInjectStatus
  try dsimp only
  repeat' with_reducible first
    | assumption
    | apply OutKept.next
    | apply State.receiveAs_kept

theorem execPowerDomain_kept {f : Frame} (h : Kept q s) : OutKept q (execPowerDomain f s) := by
  unfold execPowerDomain
  try dsimp only
  repeat' with_reducible first
    | assumption
    | apply OutKept.next
    | apply State.receiveAs_kept

theorem execPowerPolicy_kept {f : Frame} (h : Kept q s) : OutKept q (execPowerPolicy f s) := by
  unfold execPowerPolicy
  try dsimp only
  repeat' with_reducible first
    | assumption
    | apply OutKept.next
    | apply State.receiveAs_kept

theorem execPowerDoze_kept {f : Frame} (h : Kept q s) : OutKept q (execPowerDoze f s) := by
  unfold execPowerDoze
  try dsimp only
  repeat' with_reducible first
    | assumption
    | apply OutKept.next
    | apply State.receiveAs_kept

theorem execPowerWake_kept {f : Frame} (h : Kept q s) : OutKept q (execPowerWake f s) := by
  unfold execPowerWake
  try dsimp only
  repeat' with_reducible first
    | assumption
    | apply OutKept.next
    | apply State.receiveAs_kept

theorem execHostAck_kept {f : Frame} (h : Kept q s) : OutKept q (execHostAck f s) := by
  unfold execHostAck
  try dsimp only
  repeat' with_reducible first
    | assumption
    | apply OutKept.next
    | apply State.receive_kept
    | split

theorem execPositionLoRead_kept {f : Frame} (h : Kept q s) : OutKept q (execPositionLoRead f s) := by
  unfold execPositionLoRead
  try dsimp only
  repeat' with_reducible first
    | assumption
    | apply OutKept.event
    | apply State.receiveAs_kept

theorem State.writeAs_kept {p : Nat → Bool} {f : Frame} (h : Kept q s) : OutKept q (State.writeAs s p f) := by
  unfold State.writeAs
  try dsimp only
  repeat' with_reducible first
    | assumption
    | apply OutKept.event
    | apply State.receiveAs_kept

theorem execTroubleBitClear_kept {f : Frame} (h : Kept q s) : OutKept q (execTroubleBitClear f s) := by
  unfold execTroubleBitClear
  try dsimp only
  repeat' with_reducible first
    | assumption
    | apply State.writeAs_kept

theorem execCounterClear_kept {f : Frame} (h : Kept q s) : OutKept q (execCounterClear f s) := by
  unfold execCounterClear
  try dsimp only
  repeat' with_reducible first
    | assumption
    | apply State.writeAs_kept

theorem execWheelSourceWrite_kept {f : Frame} (h : Kept q s) : OutKept q (execWheelSourceWrite f s) := by
  unfold execWheelSourceWrite
  try dsimp only
  repeat' with_reducible first
    | assumption
    | apply State.writeAs_kept

theorem execHoldLimitWrite_kept {f : Frame} (h : Kept q s) : OutKept q (execHoldLimitWrite f s) := by
  unfold execHoldLimitWrite
  try dsimp only
  repeat' with_reducible first
    | assumption
    | apply State.writeAs_kept

theorem execUdpPortWrite_kept {f : Frame} (h : Kept q s) : OutKept q (execUdpPortWrite f s) := by
  unfold execUdpPortWrite
  try dsimp only
  repeat' with_reducible first
    | assumption
    | apply State.writeAs_kept

theorem execRecoveryCfgWrite_kept {f : Frame} (h : Kept q s) : OutKept q (execRecoveryCfgWrite f s) := by
  unfold execRecoveryCfgWrite
  try dsimp only
  repeat' with_reducible first
    | assumption
    | apply State.writeAs_kept

theorem execLastLatchClear_kept {f : Frame} (h : Kept q s) : OutKept q (execLastLatchClear f s) := by
  unfold execLastLatchClear
  try dsimp only
  repeat' with_reducible first
    | assumption
    | apply State.writeAs_kept

theorem execHeldFrameExpiry_kept {sid : Nat} {n : Nat} (h : Kept q s) : OutKept q (execHeldFrameExpiry sid n s) := by
  unfold execHeldFrameExpiry
  try dsimp only
  repeat' with_reducible first
    | assumption
    | apply OutKept.next
    | apply State.modSession_kept

theorem execSessionIdleTimeout_kept {sid : Nat} (h : Kept q s) : OutKept q (execSessionIdleTimeout sid s) := by
  unfold execSessionIdleTimeout
  try dsimp only
  repeat' with_reducible first
    | assumption
    | apply OutKept.event
    | apply State.endSession_kept

theorem execInjectReorderRelease_kept {n : Nat} (h : Kept q s) : OutKept q (execInjectReorderRelease n s) := by
  unfold execInjectReorderRelease
  try dsimp only
  repeat' with_reducible first
    | assumption
    | apply OutKept.event
    | apply OutKept.next
    | apply Kept.foldl
    | exact PairKept.left (by with_reducible assumption)
    | apply State.modInjection_kept
    | apply State.number_kept
    | apply State.passInjections_kept
    | apply State.receiveAll_kept
    | split
    | (refine PairKept.of_eq ?_ (by with_reducible assumption); apply State.passInjections_kept)
    | (refine PairKept.of_eq ?_ (by with_reducible assumption); split)
    | refine PairKept.fst (State.passInjections_kept ?_)
    | refine PairKept.fst (PairKept.foldl ?_ ?_)
    | exact id
    | intro

theorem execCompletionResendTimer_kept {c : Nat} (h : Kept q s) : OutKept q (execCompletionResendTimer c s) := by
  unfold execCompletionResendTimer
  try dsimp only
  repeat' with_reducible first
    | assumption
    | apply Kept.foldl
    | apply OutKept.event
    | apply OutKept.next
    | apply State.modCmd_kept
    | apply State.sendCompletion_kept
    | split
    | intro

theorem execCompletionSend_kept {c : Nat} (h : Kept q s) : OutKept q (execCompletionSend c s) := by
  unfold execCompletionSend
  try dsimp only
  repeat' with_reducible first
    | assumption
    | apply OutKept.next
    | apply State.sendNext_kept

end Sys2Proof.Machine
end

