-- ==== Sys2Proof/Laws/KeptVector.lean ====
section
/-! SUPPORT. Every operation of Machine/Vector.lean leaves the queue alone and keeps the state canonical. -/

namespace Sys2Proof.Machine

variable {q : List Instr} {s t : State}

theorem Core.putSlice_canonical {x : Core} {r : Nat} {k : Nat} {data : List Byte} (h : x.Canonical) : Core.Canonical
    (Core.putSlice x r k data) := by
  unfold Core.putSlice
  try dsimp only
  repeat' with_reducible first
    | assumption
    | apply Core.setLane_canonical
    | apply Core.canonical_foldl
    | intro

theorem State.loadParts_kept {own : Nat} {l : List (Nat × Nat × Nat)} (h : Kept q s) : RanKept q (s.loadParts own l) := by
  induction l generalizing s with
  | nil => exact h
  | cons p l ih =>
    unfold State.loadParts
    split
    · next e => exact RanKept.trap (GotKept.of_trap (State.fetchLocal_kept h) e)
    · next e =>
      split
      · next e' => exact RanKept.trap (RanKept.of_trap (ih (GotKept.of_ok (State.fetchLocal_kept h) e)) e')
      · next e' =>
        exact RanKept.ok (State.onCore_kept (RanKept.of_ok (ih (GotKept.of_ok (State.fetchLocal_kept h) e)) e')
          fun c hc => Core.putSlice_canonical hc)

theorem State.storeParts_kept {own : Nat} {l : List (Nat × Nat × Nat)} (h : Kept q s) : RanKept q (s.storeParts own l) := by
  induction l generalizing s with
  | nil => exact h
  | cons p l ih =>
    unfold State.storeParts
    split
    · next e => exact RanKept.trap (RanKept.of_trap (State.storeLocal_kept h) e)
    · next e => exact ih (RanKept.of_ok (State.storeLocal_kept h) e)

theorem vldRun_kept {own : Nat} {w : CoreWord} (h : Kept q s) : RanKept q (vldRun own w s) := by
  unfold vldRun
  try dsimp only
  repeat' with_reducible first
    | assumption
    | apply RanKept.trap
    | apply State.loadParts_kept
    | split

theorem vstRun_kept {own : Nat} {w : CoreWord} (h : Kept q s) : RanKept q (vstRun own w s) := by
  unfold vstRun
  try dsimp only
  repeat' with_reducible first
    | assumption
    | apply RanKept.ok
    | apply RanKept.trap
    | exact PairKept.left (by with_reducible assumption)
    | apply State.sliceUncorrectable_kept
    | apply State.storeParts_kept
    | apply State.trap_kept
    | split
    | exact id
    | intro

theorem execVld_kept {core : Fin 240} (h : Kept q s) : OutKept q (execVld core s) := by
  unfold execVld
  try dsimp only
  repeat' with_reducible first
    | assumption
    | refine State.decode_kept ?_ fun w => ?_
    | apply Ran.finish_kept
    | apply vldRun_kept

theorem execVst_kept {core : Fin 240} (h : Kept q s) : OutKept q (execVst core s) := by
  unfold execVst
  try dsimp only
  repeat' with_reducible first
    | assumption
    | refine State.decode_kept ?_ fun w => ?_
    | apply Ran.finish_kept
    | apply vstRun_kept

theorem Core.mapLanes_canonical {x : Core} {w : CoreWord} {r : Nat} {f : Nat → Word} (h : x.Canonical) :
    Core.Canonical (Core.mapLanes x w r f) := by
  unfold Core.mapLanes
  try dsimp only
  repeat' with_reducible first
    | assumption
    | apply Core.setLane_canonical
    | apply Core.canonical_foldl
    | intro

theorem laneRun_kept {own : Nat} {w : CoreWord} {formats : Nat} {regs : List Nat} {dst : Nat} {f : Core → Nat → Word}
    (h : Kept q s) : RanKept q (laneRun own w formats regs dst f s) := by
  unfold laneRun
  try dsimp only
  repeat' with_reducible first
    | assumption
    | apply Core.mapLanes_canonical
    | split
    | apply RanKept.ok
    | apply RanKept.trap
    | apply State.onCore_kept
    | refine fun c (hc : Core.Canonical c) => ?_

theorem binaryRun_kept {op : Word → Word → Word} {own : Nat} {w : CoreWord} (h : Kept q s) : RanKept q (binaryRun op
    own w s) := by
  unfold binaryRun
  try dsimp only
  repeat' with_reducible first
    | assumption
    | apply laneRun_kept

theorem vfmaRun_kept {own : Nat} {w : CoreWord} (h : Kept q s) : RanKept q (vfmaRun own w s) := by
  unfold vfmaRun
  try dsimp only
  repeat' with_reducible first
    | assumption
    | apply laneRun_kept

theorem execVfma_kept {core : Fin 240} (h : Kept q s) : OutKept q (execVfma core s) := by
  unfold execVfma
  try dsimp only
  repeat' with_reducible first
    | assumption
    | refine State.decode_kept ?_ fun w => ?_
    | apply Ran.finish_kept
    | apply vfmaRun_kept

theorem execVadd_kept {core : Fin 240} (h : Kept q s) : OutKept q (execVadd core s) := by
  unfold execVadd
  try dsimp only
  repeat' with_reducible first
    | assumption
    | refine State.decode_kept ?_ fun w => ?_
    | apply Ran.finish_kept
    | apply binaryRun_kept

theorem execVmul_kept {core : Fin 240} (h : Kept q s) : OutKept q (execVmul core s) := by
  unfold execVmul
  try dsimp only
  repeat' with_reducible first
    | assumption
    | refine State.decode_kept ?_ fun w => ?_
    | apply Ran.finish_kept
    | apply binaryRun_kept

theorem execVmax_kept {core : Fin 240} (h : Kept q s) : OutKept q (execVmax core s) := by
  unfold execVmax
  try dsimp only
  repeat' with_reducible first
    | assumption
    | refine State.decode_kept ?_ fun w => ?_
    | apply Ran.finish_kept
    | apply binaryRun_kept

theorem execVmin_kept {core : Fin 240} (h : Kept q s) : OutKept q (execVmin core s) := by
  unfold execVmin
  try dsimp only
  repeat' with_reducible first
    | assumption
    | refine State.decode_kept ?_ fun w => ?_
    | apply Ran.finish_kept
    | apply binaryRun_kept

theorem execVsfu_kept {core : Fin 240} (h : Kept q s) : OutKept q (execVsfu core s) := by
  unfold execVsfu
  try dsimp only
  repeat' with_reducible first
    | assumption
    | refine State.decode_kept ?_ fun w => ?_
    | apply Ran.finish_kept
    | apply laneRun_kept

theorem execVcvt_kept {core : Fin 240} (h : Kept q s) : OutKept q (execVcvt core s) := by
  unfold execVcvt
  try dsimp only
  repeat' with_reducible first
    | assumption
    | refine State.decode_kept ?_ fun w => ?_
    | apply Ran.finish_kept
    | apply laneRun_kept

theorem vredRun_kept {own : Nat} {w : CoreWord} (h : Kept q s) : RanKept q (vredRun own w s) := by
  unfold vredRun
  dsimp only
  split
  · exact RanKept.trap h
  · split
    · exact RanKept.trap h
    · split
      · exact RanKept.ok h
      · exact RanKept.ok (State.onCore_kept h fun _ hc => Core.setLane_canonical hc)

theorem execVred_kept {core : Fin 240} (h : Kept q s) : OutKept q (execVred core s) := by
  unfold execVred
  try dsimp only
  repeat' with_reducible first
    | assumption
    | refine State.decode_kept ?_ fun w => ?_
    | apply Ran.finish_kept
    | apply vredRun_kept

end Sys2Proof.Machine
end

