-- ==== Sys2Proof/Laws/KeptDispatch.lean ====
section
/-! SUPPORT. Every operation of Machine/Dispatch.lean leaves the queue alone and keeps the state canonical. -/

namespace Sys2Proof.Machine

variable {q : List Instr} {s t : State}

/-- Every command leaves the queue alone and keeps the state canonical. -/
theorem exec_kept {i : Instr} (h : Kept q s) : OutKept q (exec i s) := by
  unfold exec
  try dsimp only
  repeat' with_reducible first
    | assumption
    | apply OutKept.event
    | apply OutKept.next
    | exact PairKept.left (by with_reducible assumption)
    | apply State.hostAck_kept
    | apply State.number_kept
    | apply execActionEnd_kept
    | apply execActionStart_kept
    | apply execActionWindowEnd_kept
    | apply execArpRequest_kept
    | apply execAttestIdentity_kept
    | apply execAttestReport_kept
    | apply execBarrierWaitRelease_kept
    | apply execBeaconReceived_kept
    | apply execBeaconSend_kept
    | apply execBedstoneRefresh_kept
    | apply execBookingExpiry_kept
    | apply execBreakerOpen_kept
    | apply execCascadeFollow_kept
    | apply execCascadeForm_kept
    | apply execCascadeLeave_kept
    | apply execCascadeRun_kept
    | apply execCascadeSyncSend_kept
    | apply execCommandCompletion_kept
    | apply execCommandStop_kept
    | apply execCommandTimeout_kept
    | apply execCommit_kept
    | apply execCommitAnswer_kept
    | apply execCommitResend_kept
    | apply execComparatorLatch_kept
    | apply execCompletionResendTimer_kept
    | apply execCompletionSend_kept
    | apply execContextResetDrained_kept
    | apply execCoolantMonitorRead_kept
    | apply execCopyAck_kept
    | apply execCopyDestinationCheck_kept
    | apply execCopyPagePiece_kept
    | apply execCopyPageResend_kept
    | apply execCoreGroupResetCheck_kept
    | apply execCoreGroupResetDone_kept
    | apply execCoreStopWatchdog_kept
    | apply execCounterClear_kept
    | apply execCtxClose_kept
    | apply execCtxOpen_kept
    | apply execCtxReset_kept
    | apply execCtxRestore_kept
    | apply execCtxSave_kept
    | apply execDeliveryAck_kept
    | apply execDescriptorComplete_kept
    | apply execDieResetCheck_kept
    | apply execDieResetDone_kept
    | apply execDomainWakeDone_kept
    | apply execDrain_kept
    | apply execElem_kept
    | apply execFabricAddress_kept
    | apply execFabricCopy_kept
    | apply execFabricJoin_kept
    | apply execFabricLeave_kept
    | apply execFabricMigrate_kept
    | apply execFabricStatus_kept
    | apply execFaultHoldExpiry_kept
    | apply execFence_kept
    | apply execFenceRelease_kept
    | apply execFillerStart_kept
    | apply execFirmwareCheckDone_kept
    | apply execFwActivate_kept
    | apply execFwAuthorise_kept
    | apply execFwEnroll_kept
    | apply execFwMacsec_kept
    | apply execFwRemove_kept
    | apply execFwStatus_kept
    | apply execFwWrite_kept
    | apply execHalt_kept
    | apply execHeldFrameExpiry_kept
    | apply execHoldLimitExceeded_kept
    | apply execHoldLimitWrite_kept
    | apply execHopperRowSample_kept
    | apply execHostAck_kept
    | apply execHousekeepingRound_kept
    | apply execI2cEepromRead_kept
    | apply execIdleNotch_kept
    | apply execInjectClear_kept
    | apply execInjectEcc_kept
    | apply execInjectLink_kept
    | apply execInjectPort_kept
    | apply execInjectReorderRelease_kept
    | apply execInjectStatus_kept
    | apply execInputOverlimitLatch_kept
    | apply execInputVoltageHigh_kept
    | apply execInputVoltageLow_kept
    | apply execInputVoltageRestored_kept
    | apply execJournalKeeperWatchdog_kept
    | apply execJournalWriteAck_kept
    | apply execJump_kept
    | apply execLastLatchClear_kept
    | apply execLinkFlitReceived_kept
    | apply execLoadstat_kept
    | apply execLogRead_kept
    | apply execLoop_kept
    | apply execMaelynWatchdog_kept
    | apply execMemRead_kept
    | apply execMemSplit_kept
    | apply execMemSplitDone_kept
    | apply execMemTransferDone_kept
    | apply execMemWrite_kept
    | apply execMeshProgressWatchdog_kept
    | apply execMode_kept
    | apply execNeighborSolicitation_kept
    | apply execNop_kept
    | apply execOspass_kept
    | apply execPageMap_kept
    | apply execPageRetire_kept
    | apply execPageUnmap_kept
    | apply execPass_kept
    | apply execPauseEnd_kept
    | apply execPieceComplete_kept
    | apply execPlanLoad_kept
    | apply execPlanUnload_kept
    | apply execPortLinkChange_kept
    | apply execPositionLoRead_kept
    | apply execPowerDomain_kept
    | apply execPowerDoze_kept
    | apply execPowerLoss_kept
    | apply execPowerPolicy_kept
    | apply execPowerWake_kept
    | apply execPpsEdge_kept
    | apply execPpsEdgeTimeout_kept
    | apply execPpsOutFall_kept
    | apply execPpsOutRise_kept
    | apply execPrechargeDone_kept
    | apply execPrechargeStart_kept
    | apply execProbe_kept
    | apply execProbeAnswer_kept
    | apply execProgramBlockLoad_kept
    | apply execPromiseSuspend_kept
    | apply execPtpAnnounce_kept
    | apply execPtpDelayResp_kept
    | apply execPtpFollowUp_kept
    | apply execPtpSync_kept
    | apply execPwrEnAssert_kept
    | apply execPwrEnDeassert_kept
    | apply execQuernChunkEnd_kept
    | apply execQuernComputeEntered_kept
    | apply execQuernDescriptorDequeue_kept
    | apply execQuernDescriptorEnd_kept
    | apply execQuernMode_kept
    | apply execQuernSealed_kept
    | apply execQuiesce_kept
    | apply execRecoveryCfgWrite_kept
    | apply execRefclkRangeChange_kept
    | apply execRegRead_kept
    | apply execRegWrite_kept
    | apply execResetInRelease_kept
    | apply execResultFrameHandoff_kept
    | apply execRetrainDone_kept
    | apply execRoundDecisionsEffect_kept
    | apply execRouteEntryExpiry_kept
    | apply execRunBook_kept
    | apply execRunStep_kept
    | apply execRunUnbook_kept
    | apply execSegRecode_kept
    | apply execSegRetire_kept
    | apply execSegmentSweep_kept
    | apply execSeqArea_kept
    | apply execSeqClose_kept
    | apply execSeqExtend_kept
    | apply execSeqOpen_kept
    | apply execSeqTrim_kept
    | apply execSessionClose_kept
    | apply execSessionHello_kept
    | apply execSessionIdleTimeout_kept
    | apply execSessionOpen_kept
    | apply execSidle_kept
    | apply execSidleRelease_kept
    | apply execSlicePatrolScrub_kept
    | apply execSourceLost_kept
    | apply execSourcePriorityReturn_kept
    | apply execSput_kept
    | apply execSsig_kept
    | apply execSsigRelease_kept
    | apply execStackPatrolScrub_kept
    | apply execStackRefresh_kept
    | apply execStageS0PowerGood_kept
    | apply execStageS1SluiceBoot_kept
    | apply execStageS2FuseRead_kept
    | apply execStageS3RunnerDiesUp_kept
    | apply execStageS4WeltTraining_kept
    | apply execStageS5BedstoneTest_kept
    | apply execStageS6MemoryTraining_kept
    | apply execStageS7CheckerTest_kept
    | apply execStageS8LastCheck_kept
    | apply execStageS9Ready_kept
    | apply execStatusContext_kept
    | apply execStatusDevice_kept
    | apply execSwait_kept
    | apply execSwaitRelease_kept
    | apply execTagsDrained_kept
    | apply execTentativeBookingLapse_kept
    | apply execTestFirmwareLoad_kept
    | apply execTimeSet_kept
    | apply execTimeSource_kept
    | apply execTranslationGroup_kept
    | apply execTroubleBitClear_kept
    | apply execUdpPortWrite_kept
    | apply execVadd_kept
    | apply execVcvt_kept
    | apply execVfma_kept
    | apply execVld_kept
    | apply execVmax_kept
    | apply execVmin_kept
    | apply execVmul_kept
    | apply execVred_kept
    | apply execVsfu_kept
    | apply execVst_kept
    | apply execWaitn_kept
    | apply execWaitnRelease_kept
    | apply execWakeComplete_kept
    | apply execWheelLearned_kept
    | apply execWheelLocked_kept
    | apply execWheelSourceWrite_kept
    | split
    | apply Core.elem_canonical
    | apply Core.pass_canonical
    | exact id
    | intro

end Sys2Proof.Machine
end

