-- ==== Sys2Proof/Laws/State.lean ====
section
/-! SUPPORT. What each setter of Machine/Memory.lean leaves in each field of the state. -/

namespace Sys2Proof.Machine

variable (s : State)

/-! `State.writeKey` -/

section
variable (k : Nat) (l : List Byte)
@[simp] theorem State.writeKey_pending : (s.writeKey k l).pending = s.pending := rfl
@[simp] theorem State.writeKey_uptime : (s.writeKey k l).uptime = s.uptime := rfl
@[simp] theorem State.writeKey_worked : (s.writeKey k l).worked = s.worked := rfl
@[simp] theorem State.writeKey_freshTrouble : (s.writeKey k l).freshTrouble = s.freshTrouble := rfl
@[simp] theorem State.writeKey_free : (s.writeKey k l).free = s.free := rfl
@[simp] theorem State.writeKey_dev : (s.writeKey k l).dev = s.dev := rfl
@[simp] theorem State.writeKey_wheel : (s.writeKey k l).wheel = s.wheel := rfl
@[simp] theorem State.writeKey_port : (s.writeKey k l).port = s.port := rfl
@[simp] theorem State.writeKey_power : (s.writeKey k l).power = s.power := rfl
@[simp] theorem State.writeKey_pins : (s.writeKey k l).pins = s.pins := rfl
@[simp] theorem State.writeKey_damage : (s.writeKey k l).damage = s.damage := rfl
@[simp] theorem State.writeKey_cores : (s.writeKey k l).cores = s.cores := rfl
@[simp] theorem State.writeKey_ponds : (s.writeKey k l).ponds = s.ponds := rfl
@[simp] theorem State.writeKey_memStacks : (s.writeKey k l).memStacks = s.memStacks := rfl
@[simp] theorem State.writeKey_rowErrors : (s.writeKey k l).rowErrors = s.rowErrors := rfl
@[simp] theorem State.writeKey_segCodes : (s.writeKey k l).segCodes = s.segCodes := rfl
@[simp] theorem State.writeKey_pages : (s.writeKey k l).pages = s.pages := rfl
@[simp] theorem State.writeKey_links : (s.writeKey k l).links = s.links := rfl
@[simp] theorem State.writeKey_hoppers : (s.writeKey k l).hoppers = s.hoppers := rfl
@[simp] theorem State.writeKey_contexts : (s.writeKey k l).contexts = s.contexts := rfl
@[simp] theorem State.writeKey_devStream : (s.writeKey k l).devStream = s.devStream := rfl
@[simp] theorem State.writeKey_sessions : (s.writeKey k l).sessions = s.sessions := rfl
@[simp] theorem State.writeKey_nextSession : (s.writeKey k l).nextSession = s.nextSession := rfl
@[simp] theorem State.writeKey_schedule : (s.writeKey k l).schedule = s.schedule := rfl
@[simp] theorem State.writeKey_journal : (s.writeKey k l).journal = s.journal := rfl
@[simp] theorem State.writeKey_log : (s.writeKey k l).log = s.log := rfl
@[simp] theorem State.writeKey_logNext : (s.writeKey k l).logNext = s.logNext := rfl
@[simp] theorem State.writeKey_fabric : (s.writeKey k l).fabric = s.fabric := rfl
@[simp] theorem State.writeKey_sec : (s.writeKey k l).sec = s.sec := rfl
@[simp] theorem State.writeKey_injections : (s.writeKey k l).injections = s.injections := rfl
@[simp] theorem State.writeKey_nextInjection : (s.writeKey k l).nextInjection = s.nextInjection := rfl
@[simp] theorem State.writeKey_out : (s.writeKey k l).out = s.out := rfl
@[simp] theorem State.writeKey_wire : (s.writeKey k l).wire = s.wire := rfl
@[simp] theorem State.writeKey_i2c : (s.writeKey k l).i2c = s.i2c := rfl
@[simp] theorem State.writeKey_monitor : (s.writeKey k l).monitor = s.monitor := rfl
end

/-! `State.clearKey` -/

section
variable (k n : Nat)
@[simp] theorem State.clearKey_pending : (s.clearKey k n).pending = s.pending := rfl
@[simp] theorem State.clearKey_uptime : (s.clearKey k n).uptime = s.uptime := rfl
@[simp] theorem State.clearKey_worked : (s.clearKey k n).worked = s.worked := rfl
@[simp] theorem State.clearKey_freshTrouble : (s.clearKey k n).freshTrouble = s.freshTrouble := rfl
@[simp] theorem State.clearKey_free : (s.clearKey k n).free = s.free := rfl
@[simp] theorem State.clearKey_dev : (s.clearKey k n).dev = s.dev := rfl
@[simp] theorem State.clearKey_wheel : (s.clearKey k n).wheel = s.wheel := rfl
@[simp] theorem State.clearKey_port : (s.clearKey k n).port = s.port := rfl
@[simp] theorem State.clearKey_power : (s.clearKey k n).power = s.power := rfl
@[simp] theorem State.clearKey_pins : (s.clearKey k n).pins = s.pins := rfl
@[simp] theorem State.clearKey_cores : (s.clearKey k n).cores = s.cores := rfl
@[simp] theorem State.clearKey_ponds : (s.clearKey k n).ponds = s.ponds := rfl
@[simp] theorem State.clearKey_memStacks : (s.clearKey k n).memStacks = s.memStacks := rfl
@[simp] theorem State.clearKey_rowErrors : (s.clearKey k n).rowErrors = s.rowErrors := rfl
@[simp] theorem State.clearKey_segCodes : (s.clearKey k n).segCodes = s.segCodes := rfl
@[simp] theorem State.clearKey_pages : (s.clearKey k n).pages = s.pages := rfl
@[simp] theorem State.clearKey_links : (s.clearKey k n).links = s.links := rfl
@[simp] theorem State.clearKey_hoppers : (s.clearKey k n).hoppers = s.hoppers := rfl
@[simp] theorem State.clearKey_contexts : (s.clearKey k n).contexts = s.contexts := rfl
@[simp] theorem State.clearKey_devStream : (s.clearKey k n).devStream = s.devStream := rfl
@[simp] theorem State.clearKey_sessions : (s.clearKey k n).sessions = s.sessions := rfl
@[simp] theorem State.clearKey_nextSession : (s.clearKey k n).nextSession = s.nextSession := rfl
@[simp] theorem State.clearKey_schedule : (s.clearKey k n).schedule = s.schedule := rfl
@[simp] theorem State.clearKey_journal : (s.clearKey k n).journal = s.journal := rfl
@[simp] theorem State.clearKey_log : (s.clearKey k n).log = s.log := rfl
@[simp] theorem State.clearKey_logNext : (s.clearKey k n).logNext = s.logNext := rfl
@[simp] theorem State.clearKey_fabric : (s.clearKey k n).fabric = s.fabric := rfl
@[simp] theorem State.clearKey_sec : (s.clearKey k n).sec = s.sec := rfl
@[simp] theorem State.clearKey_injections : (s.clearKey k n).injections = s.injections := rfl
@[simp] theorem State.clearKey_nextInjection : (s.clearKey k n).nextInjection = s.nextInjection := rfl
@[simp] theorem State.clearKey_out : (s.clearKey k n).out = s.out := rfl
@[simp] theorem State.clearKey_wire : (s.clearKey k n).wire = s.wire := rfl
@[simp] theorem State.clearKey_i2c : (s.clearKey k n).i2c = s.i2c := rfl
@[simp] theorem State.clearKey_monitor : (s.clearKey k n).monitor = s.monitor := rfl
end

/-! `State.setCore` -/

section
variable (i : Nat) (v : Core)
@[simp] theorem State.setCore_pending : (s.setCore i v).pending = s.pending := rfl
@[simp] theorem State.setCore_uptime : (s.setCore i v).uptime = s.uptime := rfl
@[simp] theorem State.setCore_worked : (s.setCore i v).worked = s.worked := rfl
@[simp] theorem State.setCore_freshTrouble : (s.setCore i v).freshTrouble = s.freshTrouble := rfl
@[simp] theorem State.setCore_free : (s.setCore i v).free = s.free := rfl
@[simp] theorem State.setCore_dev : (s.setCore i v).dev = s.dev := rfl
@[simp] theorem State.setCore_wheel : (s.setCore i v).wheel = s.wheel := rfl
@[simp] theorem State.setCore_port : (s.setCore i v).port = s.port := rfl
@[simp] theorem State.setCore_power : (s.setCore i v).power = s.power := rfl
@[simp] theorem State.setCore_pins : (s.setCore i v).pins = s.pins := rfl
@[simp] theorem State.setCore_mem : (s.setCore i v).mem = s.mem := rfl
@[simp] theorem State.setCore_damage : (s.setCore i v).damage = s.damage := rfl
@[simp] theorem State.setCore_ponds : (s.setCore i v).ponds = s.ponds := rfl
@[simp] theorem State.setCore_memStacks : (s.setCore i v).memStacks = s.memStacks := rfl
@[simp] theorem State.setCore_rowErrors : (s.setCore i v).rowErrors = s.rowErrors := rfl
@[simp] theorem State.setCore_segCodes : (s.setCore i v).segCodes = s.segCodes := rfl
@[simp] theorem State.setCore_pages : (s.setCore i v).pages = s.pages := rfl
@[simp] theorem State.setCore_links : (s.setCore i v).links = s.links := rfl
@[simp] theorem State.setCore_hoppers : (s.setCore i v).hoppers = s.hoppers := rfl
@[simp] theorem State.setCore_contexts : (s.setCore i v).contexts = s.contexts := rfl
@[simp] theorem State.setCore_devStream : (s.setCore i v).devStream = s.devStream := rfl
@[simp] theorem State.setCore_sessions : (s.setCore i v).sessions = s.sessions := rfl
@[simp] theorem State.setCore_nextSession : (s.setCore i v).nextSession = s.nextSession := rfl
@[simp] theorem State.setCore_schedule : (s.setCore i v).schedule = s.schedule := rfl
@[simp] theorem State.setCore_journal : (s.setCore i v).journal = s.journal := rfl
@[simp] theorem State.setCore_log : (s.setCore i v).log = s.log := rfl
@[simp] theorem State.setCore_logNext : (s.setCore i v).logNext = s.logNext := rfl
@[simp] theorem State.setCore_fabric : (s.setCore i v).fabric = s.fabric := rfl
@[simp] theorem State.setCore_sec : (s.setCore i v).sec = s.sec := rfl
@[simp] theorem State.setCore_injections : (s.setCore i v).injections = s.injections := rfl
@[simp] theorem State.setCore_nextInjection : (s.setCore i v).nextInjection = s.nextInjection := rfl
@[simp] theorem State.setCore_out : (s.setCore i v).out = s.out := rfl
@[simp] theorem State.setCore_wire : (s.setCore i v).wire = s.wire := rfl
@[simp] theorem State.setCore_i2c : (s.setCore i v).i2c = s.i2c := rfl
@[simp] theorem State.setCore_monitor : (s.setCore i v).monitor = s.monitor := rfl
end

/-! `State.modCore` -/

section
variable (i : Nat) (f : Core → Core)
@[simp] theorem State.modCore_pending : (s.modCore i f).pending = s.pending := rfl
@[simp] theorem State.modCore_uptime : (s.modCore i f).uptime = s.uptime := rfl
@[simp] theorem State.modCore_worked : (s.modCore i f).worked = s.worked := rfl
@[simp] theorem State.modCore_freshTrouble : (s.modCore i f).freshTrouble = s.freshTrouble := rfl
@[simp] theorem State.modCore_free : (s.modCore i f).free = s.free := rfl
@[simp] theorem State.modCore_dev : (s.modCore i f).dev = s.dev := rfl
@[simp] theorem State.modCore_wheel : (s.modCore i f).wheel = s.wheel := rfl
@[simp] theorem State.modCore_port : (s.modCore i f).port = s.port := rfl
@[simp] theorem State.modCore_power : (s.modCore i f).power = s.power := rfl
@[simp] theorem State.modCore_pins : (s.modCore i f).pins = s.pins := rfl
@[simp] theorem State.modCore_mem : (s.modCore i f).mem = s.mem := rfl
@[simp] theorem State.modCore_damage : (s.modCore i f).damage = s.damage := rfl
@[simp] theorem State.modCore_ponds : (s.modCore i f).ponds = s.ponds := rfl
@[simp] theorem State.modCore_memStacks : (s.modCore i f).memStacks = s.memStacks := rfl
@[simp] theorem State.modCore_rowErrors : (s.modCore i f).rowErrors = s.rowErrors := rfl
@[simp] theorem State.modCore_segCodes : (s.modCore i f).segCodes = s.segCodes := rfl
@[simp] theorem State.modCore_pages : (s.modCore i f).pages = s.pages := rfl
@[simp] theorem State.modCore_links : (s.modCore i f).links = s.links := rfl
@[simp] theorem State.modCore_hoppers : (s.modCore i f).hoppers = s.hoppers := rfl
@[simp] theorem State.modCore_contexts : (s.modCore i f).contexts = s.contexts := rfl
@[simp] theorem State.modCore_devStream : (s.modCore i f).devStream = s.devStream := rfl
@[simp] theorem State.modCore_sessions : (s.modCore i f).sessions = s.sessions := rfl
@[simp] theorem State.modCore_nextSession : (s.modCore i f).nextSession = s.nextSession := rfl
@[simp] theorem State.modCore_schedule : (s.modCore i f).schedule = s.schedule := rfl
@[simp] theorem State.modCore_journal : (s.modCore i f).journal = s.journal := rfl
@[simp] theorem State.modCore_log : (s.modCore i f).log = s.log := rfl
@[simp] theorem State.modCore_logNext : (s.modCore i f).logNext = s.logNext := rfl
@[simp] theorem State.modCore_fabric : (s.modCore i f).fabric = s.fabric := rfl
@[simp] theorem State.modCore_sec : (s.modCore i f).sec = s.sec := rfl
@[simp] theorem State.modCore_injections : (s.modCore i f).injections = s.injections := rfl
@[simp] theorem State.modCore_nextInjection : (s.modCore i f).nextInjection = s.nextInjection := rfl
@[simp] theorem State.modCore_out : (s.modCore i f).out = s.out := rfl
@[simp] theorem State.modCore_wire : (s.modCore i f).wire = s.wire := rfl
@[simp] theorem State.modCore_i2c : (s.modCore i f).i2c = s.i2c := rfl
@[simp] theorem State.modCore_monitor : (s.modCore i f).monitor = s.monitor := rfl
end

/-! `State.setPond` -/

section
variable (i : Nat) (v : Millpond)
@[simp] theorem State.setPond_pending : (s.setPond i v).pending = s.pending := rfl
@[simp] theorem State.setPond_uptime : (s.setPond i v).uptime = s.uptime := rfl
@[simp] theorem State.setPond_worked : (s.setPond i v).worked = s.worked := rfl
@[simp] theorem State.setPond_freshTrouble : (s.setPond i v).freshTrouble = s.freshTrouble := rfl
@[simp] theorem State.setPond_free : (s.setPond i v).free = s.free := rfl
@[simp] theorem State.setPond_dev : (s.setPond i v).dev = s.dev := rfl
@[simp] theorem State.setPond_wheel : (s.setPond i v).wheel = s.wheel := rfl
@[simp] theorem State.setPond_port : (s.setPond i v).port = s.port := rfl
@[simp] theorem State.setPond_power : (s.setPond i v).power = s.power := rfl
@[simp] theorem State.setPond_pins : (s.setPond i v).pins = s.pins := rfl
@[simp] theorem State.setPond_mem : (s.setPond i v).mem = s.mem := rfl
@[simp] theorem State.setPond_damage : (s.setPond i v).damage = s.damage := rfl
@[simp] theorem State.setPond_cores : (s.setPond i v).cores = s.cores := rfl
@[simp] theorem State.setPond_memStacks : (s.setPond i v).memStacks = s.memStacks := rfl
@[simp] theorem State.setPond_rowErrors : (s.setPond i v).rowErrors = s.rowErrors := rfl
@[simp] theorem State.setPond_segCodes : (s.setPond i v).segCodes = s.segCodes := rfl
@[simp] theorem State.setPond_pages : (s.setPond i v).pages = s.pages := rfl
@[simp] theorem State.setPond_links : (s.setPond i v).links = s.links := rfl
@[simp] theorem State.setPond_hoppers : (s.setPond i v).hoppers = s.hoppers := rfl
@[simp] theorem State.setPond_contexts : (s.setPond i v).contexts = s.contexts := rfl
@[simp] theorem State.setPond_devStream : (s.setPond i v).devStream = s.devStream := rfl
@[simp] theorem State.setPond_sessions : (s.setPond i v).sessions = s.sessions := rfl
@[simp] theorem State.setPond_nextSession : (s.setPond i v).nextSession = s.nextSession := rfl
@[simp] theorem State.setPond_schedule : (s.setPond i v).schedule = s.schedule := rfl
@[simp] theorem State.setPond_journal : (s.setPond i v).journal = s.journal := rfl
@[simp] theorem State.setPond_log : (s.setPond i v).log = s.log := rfl
@[simp] theorem State.setPond_logNext : (s.setPond i v).logNext = s.logNext := rfl
@[simp] theorem State.setPond_fabric : (s.setPond i v).fabric = s.fabric := rfl
@[simp] theorem State.setPond_sec : (s.setPond i v).sec = s.sec := rfl
@[simp] theorem State.setPond_injections : (s.setPond i v).injections = s.injections := rfl
@[simp] theorem State.setPond_nextInjection : (s.setPond i v).nextInjection = s.nextInjection := rfl
@[simp] theorem State.setPond_out : (s.setPond i v).out = s.out := rfl
@[simp] theorem State.setPond_wire : (s.setPond i v).wire = s.wire := rfl
@[simp] theorem State.setPond_i2c : (s.setPond i v).i2c = s.i2c := rfl
@[simp] theorem State.setPond_monitor : (s.setPond i v).monitor = s.monitor := rfl
end

/-! `State.modPond` -/

section
variable (i : Nat) (f : Millpond → Millpond)
@[simp] theorem State.modPond_pending : (s.modPond i f).pending = s.pending := rfl
@[simp] theorem State.modPond_uptime : (s.modPond i f).uptime = s.uptime := rfl
@[simp] theorem State.modPond_worked : (s.modPond i f).worked = s.worked := rfl
@[simp] theorem State.modPond_freshTrouble : (s.modPond i f).freshTrouble = s.freshTrouble := rfl
@[simp] theorem State.modPond_free : (s.modPond i f).free = s.free := rfl
@[simp] theorem State.modPond_dev : (s.modPond i f).dev = s.dev := rfl
@[simp] theorem State.modPond_wheel : (s.modPond i f).wheel = s.wheel := rfl
@[simp] theorem State.modPond_port : (s.modPond i f).port = s.port := rfl
@[simp] theorem State.modPond_power : (s.modPond i f).power = s.power := rfl
@[simp] theorem State.modPond_pins : (s.modPond i f).pins = s.pins := rfl
@[simp] theorem State.modPond_mem : (s.modPond i f).mem = s.mem := rfl
@[simp] theorem State.modPond_damage : (s.modPond i f).damage = s.damage := rfl
@[simp] theorem State.modPond_cores : (s.modPond i f).cores = s.cores := rfl
@[simp] theorem State.modPond_memStacks : (s.modPond i f).memStacks = s.memStacks := rfl
@[simp] theorem State.modPond_rowErrors : (s.modPond i f).rowErrors = s.rowErrors := rfl
@[simp] theorem State.modPond_segCodes : (s.modPond i f).segCodes = s.segCodes := rfl
@[simp] theorem State.modPond_pages : (s.modPond i f).pages = s.pages := rfl
@[simp] theorem State.modPond_links : (s.modPond i f).links = s.links := rfl
@[simp] theorem State.modPond_hoppers : (s.modPond i f).hoppers = s.hoppers := rfl
@[simp] theorem State.modPond_contexts : (s.modPond i f).contexts = s.contexts := rfl
@[simp] theorem State.modPond_devStream : (s.modPond i f).devStream = s.devStream := rfl
@[simp] theorem State.modPond_sessions : (s.modPond i f).sessions = s.sessions := rfl
@[simp] theorem State.modPond_nextSession : (s.modPond i f).nextSession = s.nextSession := rfl
@[simp] theorem State.modPond_schedule : (s.modPond i f).schedule = s.schedule := rfl
@[simp] theorem State.modPond_journal : (s.modPond i f).journal = s.journal := rfl
@[simp] theorem State.modPond_log : (s.modPond i f).log = s.log := rfl
@[simp] theorem State.modPond_logNext : (s.modPond i f).logNext = s.logNext := rfl
@[simp] theorem State.modPond_fabric : (s.modPond i f).fabric = s.fabric := rfl
@[simp] theorem State.modPond_sec : (s.modPond i f).sec = s.sec := rfl
@[simp] theorem State.modPond_injections : (s.modPond i f).injections = s.injections := rfl
@[simp] theorem State.modPond_nextInjection : (s.modPond i f).nextInjection = s.nextInjection := rfl
@[simp] theorem State.modPond_out : (s.modPond i f).out = s.out := rfl
@[simp] theorem State.modPond_wire : (s.modPond i f).wire = s.wire := rfl
@[simp] theorem State.modPond_i2c : (s.modPond i f).i2c = s.i2c := rfl
@[simp] theorem State.modPond_monitor : (s.modPond i f).monitor = s.monitor := rfl
end

/-! `State.setStack` -/

section
variable (i : Nat) (v : Stack)
@[simp] theorem State.setStack_pending : (s.setStack i v).pending = s.pending := rfl
@[simp] theorem State.setStack_uptime : (s.setStack i v).uptime = s.uptime := rfl
@[simp] theorem State.setStack_worked : (s.setStack i v).worked = s.worked := rfl
@[simp] theorem State.setStack_freshTrouble : (s.setStack i v).freshTrouble = s.freshTrouble := rfl
@[simp] theorem State.setStack_free : (s.setStack i v).free = s.free := rfl
@[simp] theorem State.setStack_dev : (s.setStack i v).dev = s.dev := rfl
@[simp] theorem State.setStack_wheel : (s.setStack i v).wheel = s.wheel := rfl
@[simp] theorem State.setStack_port : (s.setStack i v).port = s.port := rfl
@[simp] theorem State.setStack_power : (s.setStack i v).power = s.power := rfl
@[simp] theorem State.setStack_pins : (s.setStack i v).pins = s.pins := rfl
@[simp] theorem State.setStack_mem : (s.setStack i v).mem = s.mem := rfl
@[simp] theorem State.setStack_damage : (s.setStack i v).damage = s.damage := rfl
@[simp] theorem State.setStack_cores : (s.setStack i v).cores = s.cores := rfl
@[simp] theorem State.setStack_ponds : (s.setStack i v).ponds = s.ponds := rfl
@[simp] theorem State.setStack_rowErrors : (s.setStack i v).rowErrors = s.rowErrors := rfl
@[simp] theorem State.setStack_segCodes : (s.setStack i v).segCodes = s.segCodes := rfl
@[simp] theorem State.setStack_pages : (s.setStack i v).pages = s.pages := rfl
@[simp] theorem State.setStack_links : (s.setStack i v).links = s.links := rfl
@[simp] theorem State.setStack_hoppers : (s.setStack i v).hoppers = s.hoppers := rfl
@[simp] theorem State.setStack_contexts : (s.setStack i v).contexts = s.contexts := rfl
@[simp] theorem State.setStack_devStream : (s.setStack i v).devStream = s.devStream := rfl
@[simp] theorem State.setStack_sessions : (s.setStack i v).sessions = s.sessions := rfl
@[simp] theorem State.setStack_nextSession : (s.setStack i v).nextSession = s.nextSession := rfl
@[simp] theorem State.setStack_schedule : (s.setStack i v).schedule = s.schedule := rfl
@[simp] theorem State.setStack_journal : (s.setStack i v).journal = s.journal := rfl
@[simp] theorem State.setStack_log : (s.setStack i v).log = s.log := rfl
@[simp] theorem State.setStack_logNext : (s.setStack i v).logNext = s.logNext := rfl
@[simp] theorem State.setStack_fabric : (s.setStack i v).fabric = s.fabric := rfl
@[simp] theorem State.setStack_sec : (s.setStack i v).sec = s.sec := rfl
@[simp] theorem State.setStack_injections : (s.setStack i v).injections = s.injections := rfl
@[simp] theorem State.setStack_nextInjection : (s.setStack i v).nextInjection = s.nextInjection := rfl
@[simp] theorem State.setStack_out : (s.setStack i v).out = s.out := rfl
@[simp] theorem State.setStack_wire : (s.setStack i v).wire = s.wire := rfl
@[simp] theorem State.setStack_i2c : (s.setStack i v).i2c = s.i2c := rfl
@[simp] theorem State.setStack_monitor : (s.setStack i v).monitor = s.monitor := rfl
end

/-! `State.modStack` -/

section
variable (i : Nat) (f : Stack → Stack)
@[simp] theorem State.modStack_pending : (s.modStack i f).pending = s.pending := rfl
@[simp] theorem State.modStack_uptime : (s.modStack i f).uptime = s.uptime := rfl
@[simp] theorem State.modStack_worked : (s.modStack i f).worked = s.worked := rfl
@[simp] theorem State.modStack_freshTrouble : (s.modStack i f).freshTrouble = s.freshTrouble := rfl
@[simp] theorem State.modStack_free : (s.modStack i f).free = s.free := rfl
@[simp] theorem State.modStack_dev : (s.modStack i f).dev = s.dev := rfl
@[simp] theorem State.modStack_wheel : (s.modStack i f).wheel = s.wheel := rfl
@[simp] theorem State.modStack_port : (s.modStack i f).port = s.port := rfl
@[simp] theorem State.modStack_power : (s.modStack i f).power = s.power := rfl
@[simp] theorem State.modStack_pins : (s.modStack i f).pins = s.pins := rfl
@[simp] theorem State.modStack_mem : (s.modStack i f).mem = s.mem := rfl
@[simp] theorem State.modStack_damage : (s.modStack i f).damage = s.damage := rfl
@[simp] theorem State.modStack_cores : (s.modStack i f).cores = s.cores := rfl
@[simp] theorem State.modStack_ponds : (s.modStack i f).ponds = s.ponds := rfl
@[simp] theorem State.modStack_rowErrors : (s.modStack i f).rowErrors = s.rowErrors := rfl
@[simp] theorem State.modStack_segCodes : (s.modStack i f).segCodes = s.segCodes := rfl
@[simp] theorem State.modStack_pages : (s.modStack i f).pages = s.pages := rfl
@[simp] theorem State.modStack_links : (s.modStack i f).links = s.links := rfl
@[simp] theorem State.modStack_hoppers : (s.modStack i f).hoppers = s.hoppers := rfl
@[simp] theorem State.modStack_contexts : (s.modStack i f).contexts = s.contexts := rfl
@[simp] theorem State.modStack_devStream : (s.modStack i f).devStream = s.devStream := rfl
@[simp] theorem State.modStack_sessions : (s.modStack i f).sessions = s.sessions := rfl
@[simp] theorem State.modStack_nextSession : (s.modStack i f).nextSession = s.nextSession := rfl
@[simp] theorem State.modStack_schedule : (s.modStack i f).schedule = s.schedule := rfl
@[simp] theorem State.modStack_journal : (s.modStack i f).journal = s.journal := rfl
@[simp] theorem State.modStack_log : (s.modStack i f).log = s.log := rfl
@[simp] theorem State.modStack_logNext : (s.modStack i f).logNext = s.logNext := rfl
@[simp] theorem State.modStack_fabric : (s.modStack i f).fabric = s.fabric := rfl
@[simp] theorem State.modStack_sec : (s.modStack i f).sec = s.sec := rfl
@[simp] theorem State.modStack_injections : (s.modStack i f).injections = s.injections := rfl
@[simp] theorem State.modStack_nextInjection : (s.modStack i f).nextInjection = s.nextInjection := rfl
@[simp] theorem State.modStack_out : (s.modStack i f).out = s.out := rfl
@[simp] theorem State.modStack_wire : (s.modStack i f).wire = s.wire := rfl
@[simp] theorem State.modStack_i2c : (s.modStack i f).i2c = s.i2c := rfl
@[simp] theorem State.modStack_monitor : (s.modStack i f).monitor = s.monitor := rfl
end

/-! `State.setLink` -/

section
variable (i : Nat) (v : Link)
@[simp] theorem State.setLink_pending : (s.setLink i v).pending = s.pending := rfl
@[simp] theorem State.setLink_uptime : (s.setLink i v).uptime = s.uptime := rfl
@[simp] theorem State.setLink_worked : (s.setLink i v).worked = s.worked := rfl
@[simp] theorem State.setLink_freshTrouble : (s.setLink i v).freshTrouble = s.freshTrouble := rfl
@[simp] theorem State.setLink_free : (s.setLink i v).free = s.free := rfl
@[simp] theorem State.setLink_dev : (s.setLink i v).dev = s.dev := rfl
@[simp] theorem State.setLink_wheel : (s.setLink i v).wheel = s.wheel := rfl
@[simp] theorem State.setLink_port : (s.setLink i v).port = s.port := rfl
@[simp] theorem State.setLink_power : (s.setLink i v).power = s.power := rfl
@[simp] theorem State.setLink_pins : (s.setLink i v).pins = s.pins := rfl
@[simp] theorem State.setLink_mem : (s.setLink i v).mem = s.mem := rfl
@[simp] theorem State.setLink_damage : (s.setLink i v).damage = s.damage := rfl
@[simp] theorem State.setLink_cores : (s.setLink i v).cores = s.cores := rfl
@[simp] theorem State.setLink_ponds : (s.setLink i v).ponds = s.ponds := rfl
@[simp] theorem State.setLink_memStacks : (s.setLink i v).memStacks = s.memStacks := rfl
@[simp] theorem State.setLink_rowErrors : (s.setLink i v).rowErrors = s.rowErrors := rfl
@[simp] theorem State.setLink_segCodes : (s.setLink i v).segCodes = s.segCodes := rfl
@[simp] theorem State.setLink_pages : (s.setLink i v).pages = s.pages := rfl
@[simp] theorem State.setLink_hoppers : (s.setLink i v).hoppers = s.hoppers := rfl
@[simp] theorem State.setLink_contexts : (s.setLink i v).contexts = s.contexts := rfl
@[simp] theorem State.setLink_devStream : (s.setLink i v).devStream = s.devStream := rfl
@[simp] theorem State.setLink_sessions : (s.setLink i v).sessions = s.sessions := rfl
@[simp] theorem State.setLink_nextSession : (s.setLink i v).nextSession = s.nextSession := rfl
@[simp] theorem State.setLink_schedule : (s.setLink i v).schedule = s.schedule := rfl
@[simp] theorem State.setLink_journal : (s.setLink i v).journal = s.journal := rfl
@[simp] theorem State.setLink_log : (s.setLink i v).log = s.log := rfl
@[simp] theorem State.setLink_logNext : (s.setLink i v).logNext = s.logNext := rfl
@[simp] theorem State.setLink_fabric : (s.setLink i v).fabric = s.fabric := rfl
@[simp] theorem State.setLink_sec : (s.setLink i v).sec = s.sec := rfl
@[simp] theorem State.setLink_injections : (s.setLink i v).injections = s.injections := rfl
@[simp] theorem State.setLink_nextInjection : (s.setLink i v).nextInjection = s.nextInjection := rfl
@[simp] theorem State.setLink_out : (s.setLink i v).out = s.out := rfl
@[simp] theorem State.setLink_wire : (s.setLink i v).wire = s.wire := rfl
@[simp] theorem State.setLink_i2c : (s.setLink i v).i2c = s.i2c := rfl
@[simp] theorem State.setLink_monitor : (s.setLink i v).monitor = s.monitor := rfl
end

/-! `State.modLink` -/

section
variable (i : Nat) (f : Link → Link)
@[simp] theorem State.modLink_pending : (s.modLink i f).pending = s.pending := rfl
@[simp] theorem State.modLink_uptime : (s.modLink i f).uptime = s.uptime := rfl
@[simp] theorem State.modLink_worked : (s.modLink i f).worked = s.worked := rfl
@[simp] theorem State.modLink_freshTrouble : (s.modLink i f).freshTrouble = s.freshTrouble := rfl
@[simp] theorem State.modLink_free : (s.modLink i f).free = s.free := rfl
@[simp] theorem State.modLink_dev : (s.modLink i f).dev = s.dev := rfl
@[simp] theorem State.modLink_wheel : (s.modLink i f).wheel = s.wheel := rfl
@[simp] theorem State.modLink_port : (s.modLink i f).port = s.port := rfl
@[simp] theorem State.modLink_power : (s.modLink i f).power = s.power := rfl
@[simp] theorem State.modLink_pins : (s.modLink i f).pins = s.pins := rfl
@[simp] theorem State.modLink_mem : (s.modLink i f).mem = s.mem := rfl
@[simp] theorem State.modLink_damage : (s.modLink i f).damage = s.damage := rfl
@[simp] theorem State.modLink_cores : (s.modLink i f).cores = s.cores := rfl
@[simp] theorem State.modLink_ponds : (s.modLink i f).ponds = s.ponds := rfl
@[simp] theorem State.modLink_memStacks : (s.modLink i f).memStacks = s.memStacks := rfl
@[simp] theorem State.modLink_rowErrors : (s.modLink i f).rowErrors = s.rowErrors := rfl
@[simp] theorem State.modLink_segCodes : (s.modLink i f).segCodes = s.segCodes := rfl
@[simp] theorem State.modLink_pages : (s.modLink i f).pages = s.pages := rfl
@[simp] theorem State.modLink_hoppers : (s.modLink i f).hoppers = s.hoppers := rfl
@[simp] theorem State.modLink_contexts : (s.modLink i f).contexts = s.contexts := rfl
@[simp] theorem State.modLink_devStream : (s.modLink i f).devStream = s.devStream := rfl
@[simp] theorem State.modLink_sessions : (s.modLink i f).sessions = s.sessions := rfl
@[simp] theorem State.modLink_nextSession : (s.modLink i f).nextSession = s.nextSession := rfl
@[simp] theorem State.modLink_schedule : (s.modLink i f).schedule = s.schedule := rfl
@[simp] theorem State.modLink_journal : (s.modLink i f).journal = s.journal := rfl
@[simp] theorem State.modLink_log : (s.modLink i f).log = s.log := rfl
@[simp] theorem State.modLink_logNext : (s.modLink i f).logNext = s.logNext := rfl
@[simp] theorem State.modLink_fabric : (s.modLink i f).fabric = s.fabric := rfl
@[simp] theorem State.modLink_sec : (s.modLink i f).sec = s.sec := rfl
@[simp] theorem State.modLink_injections : (s.modLink i f).injections = s.injections := rfl
@[simp] theorem State.modLink_nextInjection : (s.modLink i f).nextInjection = s.nextInjection := rfl
@[simp] theorem State.modLink_out : (s.modLink i f).out = s.out := rfl
@[simp] theorem State.modLink_wire : (s.modLink i f).wire = s.wire := rfl
@[simp] theorem State.modLink_i2c : (s.modLink i f).i2c = s.i2c := rfl
@[simp] theorem State.modLink_monitor : (s.modLink i f).monitor = s.monitor := rfl
end

/-! `State.setHopper` -/

section
variable (i : Nat) (v : Hopper)
@[simp] theorem State.setHopper_pending : (s.setHopper i v).pending = s.pending := rfl
@[simp] theorem State.setHopper_uptime : (s.setHopper i v).uptime = s.uptime := rfl
@[simp] theorem State.setHopper_worked : (s.setHopper i v).worked = s.worked := rfl
@[simp] theorem State.setHopper_freshTrouble : (s.setHopper i v).freshTrouble = s.freshTrouble := rfl
@[simp] theorem State.setHopper_free : (s.setHopper i v).free = s.free := rfl
@[simp] theorem State.setHopper_dev : (s.setHopper i v).dev = s.dev := rfl
@[simp] theorem State.setHopper_wheel : (s.setHopper i v).wheel = s.wheel := rfl
@[simp] theorem State.setHopper_port : (s.setHopper i v).port = s.port := rfl
@[simp] theorem State.setHopper_power : (s.setHopper i v).power = s.power := rfl
@[simp] theorem State.setHopper_pins : (s.setHopper i v).pins = s.pins := rfl
@[simp] theorem State.setHopper_mem : (s.setHopper i v).mem = s.mem := rfl
@[simp] theorem State.setHopper_damage : (s.setHopper i v).damage = s.damage := rfl
@[simp] theorem State.setHopper_cores : (s.setHopper i v).cores = s.cores := rfl
@[simp] theorem State.setHopper_ponds : (s.setHopper i v).ponds = s.ponds := rfl
@[simp] theorem State.setHopper_memStacks : (s.setHopper i v).memStacks = s.memStacks := rfl
@[simp] theorem State.setHopper_rowErrors : (s.setHopper i v).rowErrors = s.rowErrors := rfl
@[simp] theorem State.setHopper_segCodes : (s.setHopper i v).segCodes = s.segCodes := rfl
@[simp] theorem State.setHopper_pages : (s.setHopper i v).pages = s.pages := rfl
@[simp] theorem State.setHopper_links : (s.setHopper i v).links = s.links := rfl
@[simp] theorem State.setHopper_contexts : (s.setHopper i v).contexts = s.contexts := rfl
@[simp] theorem State.setHopper_devStream : (s.setHopper i v).devStream = s.devStream := rfl
@[simp] theorem State.setHopper_sessions : (s.setHopper i v).sessions = s.sessions := rfl
@[simp] theorem State.setHopper_nextSession : (s.setHopper i v).nextSession = s.nextSession := rfl
@[simp] theorem State.setHopper_schedule : (s.setHopper i v).schedule = s.schedule := rfl
@[simp] theorem State.setHopper_journal : (s.setHopper i v).journal = s.journal := rfl
@[simp] theorem State.setHopper_log : (s.setHopper i v).log = s.log := rfl
@[simp] theorem State.setHopper_logNext : (s.setHopper i v).logNext = s.logNext := rfl
@[simp] theorem State.setHopper_fabric : (s.setHopper i v).fabric = s.fabric := rfl
@[simp] theorem State.setHopper_sec : (s.setHopper i v).sec = s.sec := rfl
@[simp] theorem State.setHopper_injections : (s.setHopper i v).injections = s.injections := rfl
@[simp] theorem State.setHopper_nextInjection : (s.setHopper i v).nextInjection = s.nextInjection := rfl
@[simp] theorem State.setHopper_out : (s.setHopper i v).out = s.out := rfl
@[simp] theorem State.setHopper_wire : (s.setHopper i v).wire = s.wire := rfl
@[simp] theorem State.setHopper_i2c : (s.setHopper i v).i2c = s.i2c := rfl
@[simp] theorem State.setHopper_monitor : (s.setHopper i v).monitor = s.monitor := rfl
end

/-! `State.modHopper` -/

section
variable (i : Nat) (f : Hopper → Hopper)
@[simp] theorem State.modHopper_pending : (s.modHopper i f).pending = s.pending := rfl
@[simp] theorem State.modHopper_uptime : (s.modHopper i f).uptime = s.uptime := rfl
@[simp] theorem State.modHopper_worked : (s.modHopper i f).worked = s.worked := rfl
@[simp] theorem State.modHopper_freshTrouble : (s.modHopper i f).freshTrouble = s.freshTrouble := rfl
@[simp] theorem State.modHopper_free : (s.modHopper i f).free = s.free := rfl
@[simp] theorem State.modHopper_dev : (s.modHopper i f).dev = s.dev := rfl
@[simp] theorem State.modHopper_wheel : (s.modHopper i f).wheel = s.wheel := rfl
@[simp] theorem State.modHopper_port : (s.modHopper i f).port = s.port := rfl
@[simp] theorem State.modHopper_power : (s.modHopper i f).power = s.power := rfl
@[simp] theorem State.modHopper_pins : (s.modHopper i f).pins = s.pins := rfl
@[simp] theorem State.modHopper_mem : (s.modHopper i f).mem = s.mem := rfl
@[simp] theorem State.modHopper_damage : (s.modHopper i f).damage = s.damage := rfl
@[simp] theorem State.modHopper_cores : (s.modHopper i f).cores = s.cores := rfl
@[simp] theorem State.modHopper_ponds : (s.modHopper i f).ponds = s.ponds := rfl
@[simp] theorem State.modHopper_memStacks : (s.modHopper i f).memStacks = s.memStacks := rfl
@[simp] theorem State.modHopper_rowErrors : (s.modHopper i f).rowErrors = s.rowErrors := rfl
@[simp] theorem State.modHopper_segCodes : (s.modHopper i f).segCodes = s.segCodes := rfl
@[simp] theorem State.modHopper_pages : (s.modHopper i f).pages = s.pages := rfl
@[simp] theorem State.modHopper_links : (s.modHopper i f).links = s.links := rfl
@[simp] theorem State.modHopper_contexts : (s.modHopper i f).contexts = s.contexts := rfl
@[simp] theorem State.modHopper_devStream : (s.modHopper i f).devStream = s.devStream := rfl
@[simp] theorem State.modHopper_sessions : (s.modHopper i f).sessions = s.sessions := rfl
@[simp] theorem State.modHopper_nextSession : (s.modHopper i f).nextSession = s.nextSession := rfl
@[simp] theorem State.modHopper_schedule : (s.modHopper i f).schedule = s.schedule := rfl
@[simp] theorem State.modHopper_journal : (s.modHopper i f).journal = s.journal := rfl
@[simp] theorem State.modHopper_log : (s.modHopper i f).log = s.log := rfl
@[simp] theorem State.modHopper_logNext : (s.modHopper i f).logNext = s.logNext := rfl
@[simp] theorem State.modHopper_fabric : (s.modHopper i f).fabric = s.fabric := rfl
@[simp] theorem State.modHopper_sec : (s.modHopper i f).sec = s.sec := rfl
@[simp] theorem State.modHopper_injections : (s.modHopper i f).injections = s.injections := rfl
@[simp] theorem State.modHopper_nextInjection : (s.modHopper i f).nextInjection = s.nextInjection := rfl
@[simp] theorem State.modHopper_out : (s.modHopper i f).out = s.out := rfl
@[simp] theorem State.modHopper_wire : (s.modHopper i f).wire = s.wire := rfl
@[simp] theorem State.modHopper_i2c : (s.modHopper i f).i2c = s.i2c := rfl
@[simp] theorem State.modHopper_monitor : (s.modHopper i f).monitor = s.monitor := rfl
end

/-! `State.setContext` -/

section
variable (i : Nat) (v : Context)
@[simp] theorem State.setContext_pending : (s.setContext i v).pending = s.pending := rfl
@[simp] theorem State.setContext_uptime : (s.setContext i v).uptime = s.uptime := rfl
@[simp] theorem State.setContext_worked : (s.setContext i v).worked = s.worked := rfl
@[simp] theorem State.setContext_freshTrouble : (s.setContext i v).freshTrouble = s.freshTrouble := rfl
@[simp] theorem State.setContext_free : (s.setContext i v).free = s.free := rfl
@[simp] theorem State.setContext_dev : (s.setContext i v).dev = s.dev := rfl
@[simp] theorem State.setContext_wheel : (s.setContext i v).wheel = s.wheel := rfl
@[simp] theorem State.setContext_port : (s.setContext i v).port = s.port := rfl
@[simp] theorem State.setContext_power : (s.setContext i v).power = s.power := rfl
@[simp] theorem State.setContext_pins : (s.setContext i v).pins = s.pins := rfl
@[simp] theorem State.setContext_mem : (s.setContext i v).mem = s.mem := rfl
@[simp] theorem State.setContext_damage : (s.setContext i v).damage = s.damage := rfl
@[simp] theorem State.setContext_cores : (s.setContext i v).cores = s.cores := rfl
@[simp] theorem State.setContext_ponds : (s.setContext i v).ponds = s.ponds := rfl
@[simp] theorem State.setContext_memStacks : (s.setContext i v).memStacks = s.memStacks := rfl
@[simp] theorem State.setContext_rowErrors : (s.setContext i v).rowErrors = s.rowErrors := rfl
@[simp] theorem State.setContext_segCodes : (s.setContext i v).segCodes = s.segCodes := rfl
@[simp] theorem State.setContext_pages : (s.setContext i v).pages = s.pages := rfl
@[simp] theorem State.setContext_links : (s.setContext i v).links = s.links := rfl
@[simp] theorem State.setContext_hoppers : (s.setContext i v).hoppers = s.hoppers := rfl
@[simp] theorem State.setContext_devStream : (s.setContext i v).devStream = s.devStream := rfl
@[simp] theorem State.setContext_sessions : (s.setContext i v).sessions = s.sessions := rfl
@[simp] theorem State.setContext_nextSession : (s.setContext i v).nextSession = s.nextSession := rfl
@[simp] theorem State.setContext_schedule : (s.setContext i v).schedule = s.schedule := rfl
@[simp] theorem State.setContext_journal : (s.setContext i v).journal = s.journal := rfl
@[simp] theorem State.setContext_log : (s.setContext i v).log = s.log := rfl
@[simp] theorem State.setContext_logNext : (s.setContext i v).logNext = s.logNext := rfl
@[simp] theorem State.setContext_fabric : (s.setContext i v).fabric = s.fabric := rfl
@[simp] theorem State.setContext_sec : (s.setContext i v).sec = s.sec := rfl
@[simp] theorem State.setContext_injections : (s.setContext i v).injections = s.injections := rfl
@[simp] theorem State.setContext_nextInjection : (s.setContext i v).nextInjection = s.nextInjection := rfl
@[simp] theorem State.setContext_out : (s.setContext i v).out = s.out := rfl
@[simp] theorem State.setContext_wire : (s.setContext i v).wire = s.wire := rfl
@[simp] theorem State.setContext_i2c : (s.setContext i v).i2c = s.i2c := rfl
@[simp] theorem State.setContext_monitor : (s.setContext i v).monitor = s.monitor := rfl
end

/-! `State.modContext` -/

section
variable (i : Nat) (f : Context → Context)
@[simp] theorem State.modContext_pending : (s.modContext i f).pending = s.pending := rfl
@[simp] theorem State.modContext_uptime : (s.modContext i f).uptime = s.uptime := rfl
@[simp] theorem State.modContext_worked : (s.modContext i f).worked = s.worked := rfl
@[simp] theorem State.modContext_freshTrouble : (s.modContext i f).freshTrouble = s.freshTrouble := rfl
@[simp] theorem State.modContext_free : (s.modContext i f).free = s.free := rfl
@[simp] theorem State.modContext_dev : (s.modContext i f).dev = s.dev := rfl
@[simp] theorem State.modContext_wheel : (s.modContext i f).wheel = s.wheel := rfl
@[simp] theorem State.modContext_port : (s.modContext i f).port = s.port := rfl
@[simp] theorem State.modContext_power : (s.modContext i f).power = s.power := rfl
@[simp] theorem State.modContext_pins : (s.modContext i f).pins = s.pins := rfl
@[simp] theorem State.modContext_mem : (s.modContext i f).mem = s.mem := rfl
@[simp] theorem State.modContext_damage : (s.modContext i f).damage = s.damage := rfl
@[simp] theorem State.modContext_cores : (s.modContext i f).cores = s.cores := rfl
@[simp] theorem State.modContext_ponds : (s.modContext i f).ponds = s.ponds := rfl
@[simp] theorem State.modContext_memStacks : (s.modContext i f).memStacks = s.memStacks := rfl
@[simp] theorem State.modContext_rowErrors : (s.modContext i f).rowErrors = s.rowErrors := rfl
@[simp] theorem State.modContext_segCodes : (s.modContext i f).segCodes = s.segCodes := rfl
@[simp] theorem State.modContext_pages : (s.modContext i f).pages = s.pages := rfl
@[simp] theorem State.modContext_links : (s.modContext i f).links = s.links := rfl
@[simp] theorem State.modContext_hoppers : (s.modContext i f).hoppers = s.hoppers := rfl
@[simp] theorem State.modContext_devStream : (s.modContext i f).devStream = s.devStream := rfl
@[simp] theorem State.modContext_sessions : (s.modContext i f).sessions = s.sessions := rfl
@[simp] theorem State.modContext_nextSession : (s.modContext i f).nextSession = s.nextSession := rfl
@[simp] theorem State.modContext_schedule : (s.modContext i f).schedule = s.schedule := rfl
@[simp] theorem State.modContext_journal : (s.modContext i f).journal = s.journal := rfl
@[simp] theorem State.modContext_log : (s.modContext i f).log = s.log := rfl
@[simp] theorem State.modContext_logNext : (s.modContext i f).logNext = s.logNext := rfl
@[simp] theorem State.modContext_fabric : (s.modContext i f).fabric = s.fabric := rfl
@[simp] theorem State.modContext_sec : (s.modContext i f).sec = s.sec := rfl
@[simp] theorem State.modContext_injections : (s.modContext i f).injections = s.injections := rfl
@[simp] theorem State.modContext_nextInjection : (s.modContext i f).nextInjection = s.nextInjection := rfl
@[simp] theorem State.modContext_out : (s.modContext i f).out = s.out := rfl
@[simp] theorem State.modContext_wire : (s.modContext i f).wire = s.wire := rfl
@[simp] theorem State.modContext_i2c : (s.modContext i f).i2c = s.i2c := rfl
@[simp] theorem State.modContext_monitor : (s.modContext i f).monitor = s.monitor := rfl
end

/-! `State.setSession` -/

section
variable (i : Nat) (v : Session)
@[simp] theorem State.setSession_pending : (s.setSession i v).pending = s.pending := rfl
@[simp] theorem State.setSession_uptime : (s.setSession i v).uptime = s.uptime := rfl
@[simp] theorem State.setSession_worked : (s.setSession i v).worked = s.worked := rfl
@[simp] theorem State.setSession_freshTrouble : (s.setSession i v).freshTrouble = s.freshTrouble := rfl
@[simp] theorem State.setSession_free : (s.setSession i v).free = s.free := rfl
@[simp] theorem State.setSession_dev : (s.setSession i v).dev = s.dev := rfl
@[simp] theorem State.setSession_wheel : (s.setSession i v).wheel = s.wheel := rfl
@[simp] theorem State.setSession_port : (s.setSession i v).port = s.port := rfl
@[simp] theorem State.setSession_power : (s.setSession i v).power = s.power := rfl
@[simp] theorem State.setSession_pins : (s.setSession i v).pins = s.pins := rfl
@[simp] theorem State.setSession_mem : (s.setSession i v).mem = s.mem := rfl
@[simp] theorem State.setSession_damage : (s.setSession i v).damage = s.damage := rfl
@[simp] theorem State.setSession_cores : (s.setSession i v).cores = s.cores := rfl
@[simp] theorem State.setSession_ponds : (s.setSession i v).ponds = s.ponds := rfl
@[simp] theorem State.setSession_memStacks : (s.setSession i v).memStacks = s.memStacks := rfl
@[simp] theorem State.setSession_rowErrors : (s.setSession i v).rowErrors = s.rowErrors := rfl
@[simp] theorem State.setSession_segCodes : (s.setSession i v).segCodes = s.segCodes := rfl
@[simp] theorem State.setSession_pages : (s.setSession i v).pages = s.pages := rfl
@[simp] theorem State.setSession_links : (s.setSession i v).links = s.links := rfl
@[simp] theorem State.setSession_hoppers : (s.setSession i v).hoppers = s.hoppers := rfl
@[simp] theorem State.setSession_contexts : (s.setSession i v).contexts = s.contexts := rfl
@[simp] theorem State.setSession_devStream : (s.setSession i v).devStream = s.devStream := rfl
@[simp] theorem State.setSession_nextSession : (s.setSession i v).nextSession = s.nextSession := rfl
@[simp] theorem State.setSession_schedule : (s.setSession i v).schedule = s.schedule := rfl
@[simp] theorem State.setSession_journal : (s.setSession i v).journal = s.journal := rfl
@[simp] theorem State.setSession_log : (s.setSession i v).log = s.log := rfl
@[simp] theorem State.setSession_logNext : (s.setSession i v).logNext = s.logNext := rfl
@[simp] theorem State.setSession_fabric : (s.setSession i v).fabric = s.fabric := rfl
@[simp] theorem State.setSession_sec : (s.setSession i v).sec = s.sec := rfl
@[simp] theorem State.setSession_injections : (s.setSession i v).injections = s.injections := rfl
@[simp] theorem State.setSession_nextInjection : (s.setSession i v).nextInjection = s.nextInjection := rfl
@[simp] theorem State.setSession_out : (s.setSession i v).out = s.out := rfl
@[simp] theorem State.setSession_wire : (s.setSession i v).wire = s.wire := rfl
@[simp] theorem State.setSession_i2c : (s.setSession i v).i2c = s.i2c := rfl
@[simp] theorem State.setSession_monitor : (s.setSession i v).monitor = s.monitor := rfl
end

/-! `State.modSession` -/

section
variable (i : Nat) (f : Session → Session)
@[simp] theorem State.modSession_pending : (s.modSession i f).pending = s.pending := rfl
@[simp] theorem State.modSession_uptime : (s.modSession i f).uptime = s.uptime := rfl
@[simp] theorem State.modSession_worked : (s.modSession i f).worked = s.worked := rfl
@[simp] theorem State.modSession_freshTrouble : (s.modSession i f).freshTrouble = s.freshTrouble := rfl
@[simp] theorem State.modSession_free : (s.modSession i f).free = s.free := rfl
@[simp] theorem State.modSession_dev : (s.modSession i f).dev = s.dev := rfl
@[simp] theorem State.modSession_wheel : (s.modSession i f).wheel = s.wheel := rfl
@[simp] theorem State.modSession_port : (s.modSession i f).port = s.port := rfl
@[simp] theorem State.modSession_power : (s.modSession i f).power = s.power := rfl
@[simp] theorem State.modSession_pins : (s.modSession i f).pins = s.pins := rfl
@[simp] theorem State.modSession_mem : (s.modSession i f).mem = s.mem := rfl
@[simp] theorem State.modSession_damage : (s.modSession i f).damage = s.damage := rfl
@[simp] theorem State.modSession_cores : (s.modSession i f).cores = s.cores := rfl
@[simp] theorem State.modSession_ponds : (s.modSession i f).ponds = s.ponds := rfl
@[simp] theorem State.modSession_memStacks : (s.modSession i f).memStacks = s.memStacks := rfl
@[simp] theorem State.modSession_rowErrors : (s.modSession i f).rowErrors = s.rowErrors := rfl
@[simp] theorem State.modSession_segCodes : (s.modSession i f).segCodes = s.segCodes := rfl
@[simp] theorem State.modSession_pages : (s.modSession i f).pages = s.pages := rfl
@[simp] theorem State.modSession_links : (s.modSession i f).links = s.links := rfl
@[simp] theorem State.modSession_hoppers : (s.modSession i f).hoppers = s.hoppers := rfl
@[simp] theorem State.modSession_contexts : (s.modSession i f).contexts = s.contexts := rfl
@[simp] theorem State.modSession_devStream : (s.modSession i f).devStream = s.devStream := rfl
@[simp] theorem State.modSession_nextSession : (s.modSession i f).nextSession = s.nextSession := rfl
@[simp] theorem State.modSession_schedule : (s.modSession i f).schedule = s.schedule := rfl
@[simp] theorem State.modSession_journal : (s.modSession i f).journal = s.journal := rfl
@[simp] theorem State.modSession_log : (s.modSession i f).log = s.log := rfl
@[simp] theorem State.modSession_logNext : (s.modSession i f).logNext = s.logNext := rfl
@[simp] theorem State.modSession_fabric : (s.modSession i f).fabric = s.fabric := rfl
@[simp] theorem State.modSession_sec : (s.modSession i f).sec = s.sec := rfl
@[simp] theorem State.modSession_injections : (s.modSession i f).injections = s.injections := rfl
@[simp] theorem State.modSession_nextInjection : (s.modSession i f).nextInjection = s.nextInjection := rfl
@[simp] theorem State.modSession_out : (s.modSession i f).out = s.out := rfl
@[simp] theorem State.modSession_wire : (s.modSession i f).wire = s.wire := rfl
@[simp] theorem State.modSession_i2c : (s.modSession i f).i2c = s.i2c := rfl
@[simp] theorem State.modSession_monitor : (s.modSession i f).monitor = s.monitor := rfl
end

/-! `State.setPage` -/

section
variable (i : Nat) (v : Page)
@[simp] theorem State.setPage_pending : (s.setPage i v).pending = s.pending := rfl
@[simp] theorem State.setPage_uptime : (s.setPage i v).uptime = s.uptime := rfl
@[simp] theorem State.setPage_worked : (s.setPage i v).worked = s.worked := rfl
@[simp] theorem State.setPage_freshTrouble : (s.setPage i v).freshTrouble = s.freshTrouble := rfl
@[simp] theorem State.setPage_free : (s.setPage i v).free = s.free := rfl
@[simp] theorem State.setPage_dev : (s.setPage i v).dev = s.dev := rfl
@[simp] theorem State.setPage_wheel : (s.setPage i v).wheel = s.wheel := rfl
@[simp] theorem State.setPage_port : (s.setPage i v).port = s.port := rfl
@[simp] theorem State.setPage_power : (s.setPage i v).power = s.power := rfl
@[simp] theorem State.setPage_pins : (s.setPage i v).pins = s.pins := rfl
@[simp] theorem State.setPage_mem : (s.setPage i v).mem = s.mem := rfl
@[simp] theorem State.setPage_damage : (s.setPage i v).damage = s.damage := rfl
@[simp] theorem State.setPage_cores : (s.setPage i v).cores = s.cores := rfl
@[simp] theorem State.setPage_ponds : (s.setPage i v).ponds = s.ponds := rfl
@[simp] theorem State.setPage_memStacks : (s.setPage i v).memStacks = s.memStacks := rfl
@[simp] theorem State.setPage_rowErrors : (s.setPage i v).rowErrors = s.rowErrors := rfl
@[simp] theorem State.setPage_segCodes : (s.setPage i v).segCodes = s.segCodes := rfl
@[simp] theorem State.setPage_links : (s.setPage i v).links = s.links := rfl
@[simp] theorem State.setPage_hoppers : (s.setPage i v).hoppers = s.hoppers := rfl
@[simp] theorem State.setPage_contexts : (s.setPage i v).contexts = s.contexts := rfl
@[simp] theorem State.setPage_devStream : (s.setPage i v).devStream = s.devStream := rfl
@[simp] theorem State.setPage_sessions : (s.setPage i v).sessions = s.sessions := rfl
@[simp] theorem State.setPage_nextSession : (s.setPage i v).nextSession = s.nextSession := rfl
@[simp] theorem State.setPage_schedule : (s.setPage i v).schedule = s.schedule := rfl
@[simp] theorem State.setPage_journal : (s.setPage i v).journal = s.journal := rfl
@[simp] theorem State.setPage_log : (s.setPage i v).log = s.log := rfl
@[simp] theorem State.setPage_logNext : (s.setPage i v).logNext = s.logNext := rfl
@[simp] theorem State.setPage_fabric : (s.setPage i v).fabric = s.fabric := rfl
@[simp] theorem State.setPage_sec : (s.setPage i v).sec = s.sec := rfl
@[simp] theorem State.setPage_injections : (s.setPage i v).injections = s.injections := rfl
@[simp] theorem State.setPage_nextInjection : (s.setPage i v).nextInjection = s.nextInjection := rfl
@[simp] theorem State.setPage_out : (s.setPage i v).out = s.out := rfl
@[simp] theorem State.setPage_wire : (s.setPage i v).wire = s.wire := rfl
@[simp] theorem State.setPage_i2c : (s.setPage i v).i2c = s.i2c := rfl
@[simp] theorem State.setPage_monitor : (s.setPage i v).monitor = s.monitor := rfl
end

/-! `State.setDomain` -/

section
variable (i : Nat) (v : Domain)
@[simp] theorem State.setDomain_pending : (s.setDomain i v).pending = s.pending := rfl
@[simp] theorem State.setDomain_uptime : (s.setDomain i v).uptime = s.uptime := rfl
@[simp] theorem State.setDomain_worked : (s.setDomain i v).worked = s.worked := rfl
@[simp] theorem State.setDomain_freshTrouble : (s.setDomain i v).freshTrouble = s.freshTrouble := rfl
@[simp] theorem State.setDomain_free : (s.setDomain i v).free = s.free := rfl
@[simp] theorem State.setDomain_dev : (s.setDomain i v).dev = s.dev := rfl
@[simp] theorem State.setDomain_wheel : (s.setDomain i v).wheel = s.wheel := rfl
@[simp] theorem State.setDomain_port : (s.setDomain i v).port = s.port := rfl
@[simp] theorem State.setDomain_pins : (s.setDomain i v).pins = s.pins := rfl
@[simp] theorem State.setDomain_mem : (s.setDomain i v).mem = s.mem := rfl
@[simp] theorem State.setDomain_damage : (s.setDomain i v).damage = s.damage := rfl
@[simp] theorem State.setDomain_cores : (s.setDomain i v).cores = s.cores := rfl
@[simp] theorem State.setDomain_ponds : (s.setDomain i v).ponds = s.ponds := rfl
@[simp] theorem State.setDomain_memStacks : (s.setDomain i v).memStacks = s.memStacks := rfl
@[simp] theorem State.setDomain_rowErrors : (s.setDomain i v).rowErrors = s.rowErrors := rfl
@[simp] theorem State.setDomain_segCodes : (s.setDomain i v).segCodes = s.segCodes := rfl
@[simp] theorem State.setDomain_pages : (s.setDomain i v).pages = s.pages := rfl
@[simp] theorem State.setDomain_links : (s.setDomain i v).links = s.links := rfl
@[simp] theorem State.setDomain_hoppers : (s.setDomain i v).hoppers = s.hoppers := rfl
@[simp] theorem State.setDomain_contexts : (s.setDomain i v).contexts = s.contexts := rfl
@[simp] theorem State.setDomain_devStream : (s.setDomain i v).devStream = s.devStream := rfl
@[simp] theorem State.setDomain_sessions : (s.setDomain i v).sessions = s.sessions := rfl
@[simp] theorem State.setDomain_nextSession : (s.setDomain i v).nextSession = s.nextSession := rfl
@[simp] theorem State.setDomain_schedule : (s.setDomain i v).schedule = s.schedule := rfl
@[simp] theorem State.setDomain_journal : (s.setDomain i v).journal = s.journal := rfl
@[simp] theorem State.setDomain_log : (s.setDomain i v).log = s.log := rfl
@[simp] theorem State.setDomain_logNext : (s.setDomain i v).logNext = s.logNext := rfl
@[simp] theorem State.setDomain_fabric : (s.setDomain i v).fabric = s.fabric := rfl
@[simp] theorem State.setDomain_sec : (s.setDomain i v).sec = s.sec := rfl
@[simp] theorem State.setDomain_injections : (s.setDomain i v).injections = s.injections := rfl
@[simp] theorem State.setDomain_nextInjection : (s.setDomain i v).nextInjection = s.nextInjection := rfl
@[simp] theorem State.setDomain_out : (s.setDomain i v).out = s.out := rfl
@[simp] theorem State.setDomain_wire : (s.setDomain i v).wire = s.wire := rfl
@[simp] theorem State.setDomain_i2c : (s.setDomain i v).i2c = s.i2c := rfl
@[simp] theorem State.setDomain_monitor : (s.setDomain i v).monitor = s.monitor := rfl
end

/-! `State.modDomain` -/

section
variable (i : Nat) (f : Domain → Domain)
@[simp] theorem State.modDomain_pending : (s.modDomain i f).pending = s.pending := rfl
@[simp] theorem State.modDomain_uptime : (s.modDomain i f).uptime = s.uptime := rfl
@[simp] theorem State.modDomain_worked : (s.modDomain i f).worked = s.worked := rfl
@[simp] theorem State.modDomain_freshTrouble : (s.modDomain i f).freshTrouble = s.freshTrouble := rfl
@[simp] theorem State.modDomain_free : (s.modDomain i f).free = s.free := rfl
@[simp] theorem State.modDomain_dev : (s.modDomain i f).dev = s.dev := rfl
@[simp] theorem State.modDomain_wheel : (s.modDomain i f).wheel = s.wheel := rfl
@[simp] theorem State.modDomain_port : (s.modDomain i f).port = s.port := rfl
@[simp] theorem State.modDomain_pins : (s.modDomain i f).pins = s.pins := rfl
@[simp] theorem State.modDomain_mem : (s.modDomain i f).mem = s.mem := rfl
@[simp] theorem State.modDomain_damage : (s.modDomain i f).damage = s.damage := rfl
@[simp] theorem State.modDomain_cores : (s.modDomain i f).cores = s.cores := rfl
@[simp] theorem State.modDomain_ponds : (s.modDomain i f).ponds = s.ponds := rfl
@[simp] theorem State.modDomain_memStacks : (s.modDomain i f).memStacks = s.memStacks := rfl
@[simp] theorem State.modDomain_rowErrors : (s.modDomain i f).rowErrors = s.rowErrors := rfl
@[simp] theorem State.modDomain_segCodes : (s.modDomain i f).segCodes = s.segCodes := rfl
@[simp] theorem State.modDomain_pages : (s.modDomain i f).pages = s.pages := rfl
@[simp] theorem State.modDomain_links : (s.modDomain i f).links = s.links := rfl
@[simp] theorem State.modDomain_hoppers : (s.modDomain i f).hoppers = s.hoppers := rfl
@[simp] theorem State.modDomain_contexts : (s.modDomain i f).contexts = s.contexts := rfl
@[simp] theorem State.modDomain_devStream : (s.modDomain i f).devStream = s.devStream := rfl
@[simp] theorem State.modDomain_sessions : (s.modDomain i f).sessions = s.sessions := rfl
@[simp] theorem State.modDomain_nextSession : (s.modDomain i f).nextSession = s.nextSession := rfl
@[simp] theorem State.modDomain_schedule : (s.modDomain i f).schedule = s.schedule := rfl
@[simp] theorem State.modDomain_journal : (s.modDomain i f).journal = s.journal := rfl
@[simp] theorem State.modDomain_log : (s.modDomain i f).log = s.log := rfl
@[simp] theorem State.modDomain_logNext : (s.modDomain i f).logNext = s.logNext := rfl
@[simp] theorem State.modDomain_fabric : (s.modDomain i f).fabric = s.fabric := rfl
@[simp] theorem State.modDomain_sec : (s.modDomain i f).sec = s.sec := rfl
@[simp] theorem State.modDomain_injections : (s.modDomain i f).injections = s.injections := rfl
@[simp] theorem State.modDomain_nextInjection : (s.modDomain i f).nextInjection = s.nextInjection := rfl
@[simp] theorem State.modDomain_out : (s.modDomain i f).out = s.out := rfl
@[simp] theorem State.modDomain_wire : (s.modDomain i f).wire = s.wire := rfl
@[simp] theorem State.modDomain_i2c : (s.modDomain i f).i2c = s.i2c := rfl
@[simp] theorem State.modDomain_monitor : (s.modDomain i f).monitor = s.monitor := rfl
end

/-! `State.setSegCode` -/

section
variable (g c : Nat)
@[simp] theorem State.setSegCode_pending : (s.setSegCode g c).pending = s.pending := rfl
@[simp] theorem State.setSegCode_uptime : (s.setSegCode g c).uptime = s.uptime := rfl
@[simp] theorem State.setSegCode_worked : (s.setSegCode g c).worked = s.worked := rfl
@[simp] theorem State.setSegCode_freshTrouble : (s.setSegCode g c).freshTrouble = s.freshTrouble := rfl
@[simp] theorem State.setSegCode_free : (s.setSegCode g c).free = s.free := rfl
@[simp] theorem State.setSegCode_dev : (s.setSegCode g c).dev = s.dev := rfl
@[simp] theorem State.setSegCode_wheel : (s.setSegCode g c).wheel = s.wheel := rfl
@[simp] theorem State.setSegCode_port : (s.setSegCode g c).port = s.port := rfl
@[simp] theorem State.setSegCode_power : (s.setSegCode g c).power = s.power := rfl
@[simp] theorem State.setSegCode_pins : (s.setSegCode g c).pins = s.pins := rfl
@[simp] theorem State.setSegCode_mem : (s.setSegCode g c).mem = s.mem := rfl
@[simp] theorem State.setSegCode_damage : (s.setSegCode g c).damage = s.damage := rfl
@[simp] theorem State.setSegCode_cores : (s.setSegCode g c).cores = s.cores := rfl
@[simp] theorem State.setSegCode_ponds : (s.setSegCode g c).ponds = s.ponds := rfl
@[simp] theorem State.setSegCode_memStacks : (s.setSegCode g c).memStacks = s.memStacks := rfl
@[simp] theorem State.setSegCode_rowErrors : (s.setSegCode g c).rowErrors = s.rowErrors := rfl
@[simp] theorem State.setSegCode_pages : (s.setSegCode g c).pages = s.pages := rfl
@[simp] theorem State.setSegCode_links : (s.setSegCode g c).links = s.links := rfl
@[simp] theorem State.setSegCode_hoppers : (s.setSegCode g c).hoppers = s.hoppers := rfl
@[simp] theorem State.setSegCode_contexts : (s.setSegCode g c).contexts = s.contexts := rfl
@[simp] theorem State.setSegCode_devStream : (s.setSegCode g c).devStream = s.devStream := rfl
@[simp] theorem State.setSegCode_sessions : (s.setSegCode g c).sessions = s.sessions := rfl
@[simp] theorem State.setSegCode_nextSession : (s.setSegCode g c).nextSession = s.nextSession := rfl
@[simp] theorem State.setSegCode_schedule : (s.setSegCode g c).schedule = s.schedule := rfl
@[simp] theorem State.setSegCode_journal : (s.setSegCode g c).journal = s.journal := rfl
@[simp] theorem State.setSegCode_log : (s.setSegCode g c).log = s.log := rfl
@[simp] theorem State.setSegCode_logNext : (s.setSegCode g c).logNext = s.logNext := rfl
@[simp] theorem State.setSegCode_fabric : (s.setSegCode g c).fabric = s.fabric := rfl
@[simp] theorem State.setSegCode_sec : (s.setSegCode g c).sec = s.sec := rfl
@[simp] theorem State.setSegCode_injections : (s.setSegCode g c).injections = s.injections := rfl
@[simp] theorem State.setSegCode_nextInjection : (s.setSegCode g c).nextInjection = s.nextInjection := rfl
@[simp] theorem State.setSegCode_out : (s.setSegCode g c).out = s.out := rfl
@[simp] theorem State.setSegCode_wire : (s.setSegCode g c).wire = s.wire := rfl
@[simp] theorem State.setSegCode_i2c : (s.setSegCode g c).i2c = s.i2c := rfl
@[simp] theorem State.setSegCode_monitor : (s.setSegCode g c).monitor = s.monitor := rfl
end

/-! `State.modPower` -/

section
variable (f : Power → Power)
@[simp] theorem State.modPower_pending : (s.modPower f).pending = s.pending := rfl
@[simp] theorem State.modPower_uptime : (s.modPower f).uptime = s.uptime := rfl
@[simp] theorem State.modPower_worked : (s.modPower f).worked = s.worked := rfl
@[simp] theorem State.modPower_freshTrouble : (s.modPower f).freshTrouble = s.freshTrouble := rfl
@[simp] theorem State.modPower_free : (s.modPower f).free = s.free := rfl
@[simp] theorem State.modPower_dev : (s.modPower f).dev = s.dev := rfl
@[simp] theorem State.modPower_wheel : (s.modPower f).wheel = s.wheel := rfl
@[simp] theorem State.modPower_port : (s.modPower f).port = s.port := rfl
@[simp] theorem State.modPower_power : (s.modPower f).power = f s.power := rfl
@[simp] theorem State.modPower_pins : (s.modPower f).pins = s.pins := rfl
@[simp] theorem State.modPower_mem : (s.modPower f).mem = s.mem := rfl
@[simp] theorem State.modPower_damage : (s.modPower f).damage = s.damage := rfl
@[simp] theorem State.modPower_cores : (s.modPower f).cores = s.cores := rfl
@[simp] theorem State.modPower_ponds : (s.modPower f).ponds = s.ponds := rfl
@[simp] theorem State.modPower_memStacks : (s.modPower f).memStacks = s.memStacks := rfl
@[simp] theorem State.modPower_rowErrors : (s.modPower f).rowErrors = s.rowErrors := rfl
@[simp] theorem State.modPower_segCodes : (s.modPower f).segCodes = s.segCodes := rfl
@[simp] theorem State.modPower_pages : (s.modPower f).pages = s.pages := rfl
@[simp] theorem State.modPower_links : (s.modPower f).links = s.links := rfl
@[simp] theorem State.modPower_hoppers : (s.modPower f).hoppers = s.hoppers := rfl
@[simp] theorem State.modPower_contexts : (s.modPower f).contexts = s.contexts := rfl
@[simp] theorem State.modPower_devStream : (s.modPower f).devStream = s.devStream := rfl
@[simp] theorem State.modPower_sessions : (s.modPower f).sessions = s.sessions := rfl
@[simp] theorem State.modPower_nextSession : (s.modPower f).nextSession = s.nextSession := rfl
@[simp] theorem State.modPower_schedule : (s.modPower f).schedule = s.schedule := rfl
@[simp] theorem State.modPower_journal : (s.modPower f).journal = s.journal := rfl
@[simp] theorem State.modPower_log : (s.modPower f).log = s.log := rfl
@[simp] theorem State.modPower_logNext : (s.modPower f).logNext = s.logNext := rfl
@[simp] theorem State.modPower_fabric : (s.modPower f).fabric = s.fabric := rfl
@[simp] theorem State.modPower_sec : (s.modPower f).sec = s.sec := rfl
@[simp] theorem State.modPower_injections : (s.modPower f).injections = s.injections := rfl
@[simp] theorem State.modPower_nextInjection : (s.modPower f).nextInjection = s.nextInjection := rfl
@[simp] theorem State.modPower_out : (s.modPower f).out = s.out := rfl
@[simp] theorem State.modPower_wire : (s.modPower f).wire = s.wire := rfl
@[simp] theorem State.modPower_i2c : (s.modPower f).i2c = s.i2c := rfl
@[simp] theorem State.modPower_monitor : (s.modPower f).monitor = s.monitor := rfl
end

/-! `State.modDev` -/

section
variable (f : Device → Device)
@[simp] theorem State.modDev_pending : (s.modDev f).pending = s.pending := rfl
@[simp] theorem State.modDev_uptime : (s.modDev f).uptime = s.uptime := rfl
@[simp] theorem State.modDev_worked : (s.modDev f).worked = s.worked := rfl
@[simp] theorem State.modDev_freshTrouble : (s.modDev f).freshTrouble = s.freshTrouble := rfl
@[simp] theorem State.modDev_free : (s.modDev f).free = s.free := rfl
@[simp] theorem State.modDev_dev : (s.modDev f).dev = f s.dev := rfl
@[simp] theorem State.modDev_wheel : (s.modDev f).wheel = s.wheel := rfl
@[simp] theorem State.modDev_port : (s.modDev f).port = s.port := rfl
@[simp] theorem State.modDev_power : (s.modDev f).power = s.power := rfl
@[simp] theorem State.modDev_pins : (s.modDev f).pins = s.pins := rfl
@[simp] theorem State.modDev_mem : (s.modDev f).mem = s.mem := rfl
@[simp] theorem State.modDev_damage : (s.modDev f).damage = s.damage := rfl
@[simp] theorem State.modDev_cores : (s.modDev f).cores = s.cores := rfl
@[simp] theorem State.modDev_ponds : (s.modDev f).ponds = s.ponds := rfl
@[simp] theorem State.modDev_memStacks : (s.modDev f).memStacks = s.memStacks := rfl
@[simp] theorem State.modDev_rowErrors : (s.modDev f).rowErrors = s.rowErrors := rfl
@[simp] theorem State.modDev_segCodes : (s.modDev f).segCodes = s.segCodes := rfl
@[simp] theorem State.modDev_pages : (s.modDev f).pages = s.pages := rfl
@[simp] theorem State.modDev_links : (s.modDev f).links = s.links := rfl
@[simp] theorem State.modDev_hoppers : (s.modDev f).hoppers = s.hoppers := rfl
@[simp] theorem State.modDev_contexts : (s.modDev f).contexts = s.contexts := rfl
@[simp] theorem State.modDev_devStream : (s.modDev f).devStream = s.devStream := rfl
@[simp] theorem State.modDev_sessions : (s.modDev f).sessions = s.sessions := rfl
@[simp] theorem State.modDev_nextSession : (s.modDev f).nextSession = s.nextSession := rfl
@[simp] theorem State.modDev_schedule : (s.modDev f).schedule = s.schedule := rfl
@[simp] theorem State.modDev_journal : (s.modDev f).journal = s.journal := rfl
@[simp] theorem State.modDev_log : (s.modDev f).log = s.log := rfl
@[simp] theorem State.modDev_logNext : (s.modDev f).logNext = s.logNext := rfl
@[simp] theorem State.modDev_fabric : (s.modDev f).fabric = s.fabric := rfl
@[simp] theorem State.modDev_sec : (s.modDev f).sec = s.sec := rfl
@[simp] theorem State.modDev_injections : (s.modDev f).injections = s.injections := rfl
@[simp] theorem State.modDev_nextInjection : (s.modDev f).nextInjection = s.nextInjection := rfl
@[simp] theorem State.modDev_out : (s.modDev f).out = s.out := rfl
@[simp] theorem State.modDev_wire : (s.modDev f).wire = s.wire := rfl
@[simp] theorem State.modDev_i2c : (s.modDev f).i2c = s.i2c := rfl
@[simp] theorem State.modDev_monitor : (s.modDev f).monitor = s.monitor := rfl
end

/-! `State.modWheel` -/

section
variable (f : Wheel → Wheel)
@[simp] theorem State.modWheel_pending : (s.modWheel f).pending = s.pending := rfl
@[simp] theorem State.modWheel_uptime : (s.modWheel f).uptime = s.uptime := rfl
@[simp] theorem State.modWheel_worked : (s.modWheel f).worked = s.worked := rfl
@[simp] theorem State.modWheel_freshTrouble : (s.modWheel f).freshTrouble = s.freshTrouble := rfl
@[simp] theorem State.modWheel_free : (s.modWheel f).free = s.free := rfl
@[simp] theorem State.modWheel_dev : (s.modWheel f).dev = s.dev := rfl
@[simp] theorem State.modWheel_wheel : (s.modWheel f).wheel = f s.wheel := rfl
@[simp] theorem State.modWheel_port : (s.modWheel f).port = s.port := rfl
@[simp] theorem State.modWheel_power : (s.modWheel f).power = s.power := rfl
@[simp] theorem State.modWheel_pins : (s.modWheel f).pins = s.pins := rfl
@[simp] theorem State.modWheel_mem : (s.modWheel f).mem = s.mem := rfl
@[simp] theorem State.modWheel_damage : (s.modWheel f).damage = s.damage := rfl
@[simp] theorem State.modWheel_cores : (s.modWheel f).cores = s.cores := rfl
@[simp] theorem State.modWheel_ponds : (s.modWheel f).ponds = s.ponds := rfl
@[simp] theorem State.modWheel_memStacks : (s.modWheel f).memStacks = s.memStacks := rfl
@[simp] theorem State.modWheel_rowErrors : (s.modWheel f).rowErrors = s.rowErrors := rfl
@[simp] theorem State.modWheel_segCodes : (s.modWheel f).segCodes = s.segCodes := rfl
@[simp] theorem State.modWheel_pages : (s.modWheel f).pages = s.pages := rfl
@[simp] theorem State.modWheel_links : (s.modWheel f).links = s.links := rfl
@[simp] theorem State.modWheel_hoppers : (s.modWheel f).hoppers = s.hoppers := rfl
@[simp] theorem State.modWheel_contexts : (s.modWheel f).contexts = s.contexts := rfl
@[simp] theorem State.modWheel_devStream : (s.modWheel f).devStream = s.devStream := rfl
@[simp] theorem State.modWheel_sessions : (s.modWheel f).sessions = s.sessions := rfl
@[simp] theorem State.modWheel_nextSession : (s.modWheel f).nextSession = s.nextSession := rfl
@[simp] theorem State.modWheel_schedule : (s.modWheel f).schedule = s.schedule := rfl
@[simp] theorem State.modWheel_journal : (s.modWheel f).journal = s.journal := rfl
@[simp] theorem State.modWheel_log : (s.modWheel f).log = s.log := rfl
@[simp] theorem State.modWheel_logNext : (s.modWheel f).logNext = s.logNext := rfl
@[simp] theorem State.modWheel_fabric : (s.modWheel f).fabric = s.fabric := rfl
@[simp] theorem State.modWheel_sec : (s.modWheel f).sec = s.sec := rfl
@[simp] theorem State.modWheel_injections : (s.modWheel f).injections = s.injections := rfl
@[simp] theorem State.modWheel_nextInjection : (s.modWheel f).nextInjection = s.nextInjection := rfl
@[simp] theorem State.modWheel_out : (s.modWheel f).out = s.out := rfl
@[simp] theorem State.modWheel_wire : (s.modWheel f).wire = s.wire := rfl
@[simp] theorem State.modWheel_i2c : (s.modWheel f).i2c = s.i2c := rfl
@[simp] theorem State.modWheel_monitor : (s.modWheel f).monitor = s.monitor := rfl
end

/-! `State.modSchedule` -/

section
variable (f : Schedule → Schedule)
@[simp] theorem State.modSchedule_pending : (s.modSchedule f).pending = s.pending := rfl
@[simp] theorem State.modSchedule_uptime : (s.modSchedule f).uptime = s.uptime := rfl
@[simp] theorem State.modSchedule_worked : (s.modSchedule f).worked = s.worked := rfl
@[simp] theorem State.modSchedule_freshTrouble : (s.modSchedule f).freshTrouble = s.freshTrouble := rfl
@[simp] theorem State.modSchedule_free : (s.modSchedule f).free = s.free := rfl
@[simp] theorem State.modSchedule_dev : (s.modSchedule f).dev = s.dev := rfl
@[simp] theorem State.modSchedule_wheel : (s.modSchedule f).wheel = s.wheel := rfl
@[simp] theorem State.modSchedule_port : (s.modSchedule f).port = s.port := rfl
@[simp] theorem State.modSchedule_power : (s.modSchedule f).power = s.power := rfl
@[simp] theorem State.modSchedule_pins : (s.modSchedule f).pins = s.pins := rfl
@[simp] theorem State.modSchedule_mem : (s.modSchedule f).mem = s.mem := rfl
@[simp] theorem State.modSchedule_damage : (s.modSchedule f).damage = s.damage := rfl
@[simp] theorem State.modSchedule_cores : (s.modSchedule f).cores = s.cores := rfl
@[simp] theorem State.modSchedule_ponds : (s.modSchedule f).ponds = s.ponds := rfl
@[simp] theorem State.modSchedule_memStacks : (s.modSchedule f).memStacks = s.memStacks := rfl
@[simp] theorem State.modSchedule_rowErrors : (s.modSchedule f).rowErrors = s.rowErrors := rfl
@[simp] theorem State.modSchedule_segCodes : (s.modSchedule f).segCodes = s.segCodes := rfl
@[simp] theorem State.modSchedule_pages : (s.modSchedule f).pages = s.pages := rfl
@[simp] theorem State.modSchedule_links : (s.modSchedule f).links = s.links := rfl
@[simp] theorem State.modSchedule_hoppers : (s.modSchedule f).hoppers = s.hoppers := rfl
@[simp] theorem State.modSchedule_contexts : (s.modSchedule f).contexts = s.contexts := rfl
@[simp] theorem State.modSchedule_devStream : (s.modSchedule f).devStream = s.devStream := rfl
@[simp] theorem State.modSchedule_sessions : (s.modSchedule f).sessions = s.sessions := rfl
@[simp] theorem State.modSchedule_nextSession : (s.modSchedule f).nextSession = s.nextSession := rfl
@[simp] theorem State.modSchedule_schedule : (s.modSchedule f).schedule = f s.schedule := rfl
@[simp] theorem State.modSchedule_journal : (s.modSchedule f).journal = s.journal := rfl
@[simp] theorem State.modSchedule_log : (s.modSchedule f).log = s.log := rfl
@[simp] theorem State.modSchedule_logNext : (s.modSchedule f).logNext = s.logNext := rfl
@[simp] theorem State.modSchedule_fabric : (s.modSchedule f).fabric = s.fabric := rfl
@[simp] theorem State.modSchedule_sec : (s.modSchedule f).sec = s.sec := rfl
@[simp] theorem State.modSchedule_injections : (s.modSchedule f).injections = s.injections := rfl
@[simp] theorem State.modSchedule_nextInjection : (s.modSchedule f).nextInjection = s.nextInjection := rfl
@[simp] theorem State.modSchedule_out : (s.modSchedule f).out = s.out := rfl
@[simp] theorem State.modSchedule_wire : (s.modSchedule f).wire = s.wire := rfl
@[simp] theorem State.modSchedule_i2c : (s.modSchedule f).i2c = s.i2c := rfl
@[simp] theorem State.modSchedule_monitor : (s.modSchedule f).monitor = s.monitor := rfl
end

/-! `State.modJournal` -/

section
variable (f : Journal → Journal)
@[simp] theorem State.modJournal_pending : (s.modJournal f).pending = s.pending := rfl
@[simp] theorem State.modJournal_uptime : (s.modJournal f).uptime = s.uptime := rfl
@[simp] theorem State.modJournal_worked : (s.modJournal f).worked = s.worked := rfl
@[simp] theorem State.modJournal_freshTrouble : (s.modJournal f).freshTrouble = s.freshTrouble := rfl
@[simp] theorem State.modJournal_free : (s.modJournal f).free = s.free := rfl
@[simp] theorem State.modJournal_dev : (s.modJournal f).dev = s.dev := rfl
@[simp] theorem State.modJournal_wheel : (s.modJournal f).wheel = s.wheel := rfl
@[simp] theorem State.modJournal_port : (s.modJournal f).port = s.port := rfl
@[simp] theorem State.modJournal_power : (s.modJournal f).power = s.power := rfl
@[simp] theorem State.modJournal_pins : (s.modJournal f).pins = s.pins := rfl
@[simp] theorem State.modJournal_mem : (s.modJournal f).mem = s.mem := rfl
@[simp] theorem State.modJournal_damage : (s.modJournal f).damage = s.damage := rfl
@[simp] theorem State.modJournal_cores : (s.modJournal f).cores = s.cores := rfl
@[simp] theorem State.modJournal_ponds : (s.modJournal f).ponds = s.ponds := rfl
@[simp] theorem State.modJournal_memStacks : (s.modJournal f).memStacks = s.memStacks := rfl
@[simp] theorem State.modJournal_rowErrors : (s.modJournal f).rowErrors = s.rowErrors := rfl
@[simp] theorem State.modJournal_segCodes : (s.modJournal f).segCodes = s.segCodes := rfl
@[simp] theorem State.modJournal_pages : (s.modJournal f).pages = s.pages := rfl
@[simp] theorem State.modJournal_links : (s.modJournal f).links = s.links := rfl
@[simp] theorem State.modJournal_hoppers : (s.modJournal f).hoppers = s.hoppers := rfl
@[simp] theorem State.modJournal_contexts : (s.modJournal f).contexts = s.contexts := rfl
@[simp] theorem State.modJournal_devStream : (s.modJournal f).devStream = s.devStream := rfl
@[simp] theorem State.modJournal_sessions : (s.modJournal f).sessions = s.sessions := rfl
@[simp] theorem State.modJournal_nextSession : (s.modJournal f).nextSession = s.nextSession := rfl
@[simp] theorem State.modJournal_schedule : (s.modJournal f).schedule = s.schedule := rfl
@[simp] theorem State.modJournal_journal : (s.modJournal f).journal = f s.journal := rfl
@[simp] theorem State.modJournal_log : (s.modJournal f).log = s.log := rfl
@[simp] theorem State.modJournal_logNext : (s.modJournal f).logNext = s.logNext := rfl
@[simp] theorem State.modJournal_fabric : (s.modJournal f).fabric = s.fabric := rfl
@[simp] theorem State.modJournal_sec : (s.modJournal f).sec = s.sec := rfl
@[simp] theorem State.modJournal_injections : (s.modJournal f).injections = s.injections := rfl
@[simp] theorem State.modJournal_nextInjection : (s.modJournal f).nextInjection = s.nextInjection := rfl
@[simp] theorem State.modJournal_out : (s.modJournal f).out = s.out := rfl
@[simp] theorem State.modJournal_wire : (s.modJournal f).wire = s.wire := rfl
@[simp] theorem State.modJournal_i2c : (s.modJournal f).i2c = s.i2c := rfl
@[simp] theorem State.modJournal_monitor : (s.modJournal f).monitor = s.monitor := rfl
end

/-! `State.modFabric` -/

section
variable (f : Fabric → Fabric)
@[simp] theorem State.modFabric_pending : (s.modFabric f).pending = s.pending := rfl
@[simp] theorem State.modFabric_uptime : (s.modFabric f).uptime = s.uptime := rfl
@[simp] theorem State.modFabric_worked : (s.modFabric f).worked = s.worked := rfl
@[simp] theorem State.modFabric_freshTrouble : (s.modFabric f).freshTrouble = s.freshTrouble := rfl
@[simp] theorem State.modFabric_free : (s.modFabric f).free = s.free := rfl
@[simp] theorem State.modFabric_dev : (s.modFabric f).dev = s.dev := rfl
@[simp] theorem State.modFabric_wheel : (s.modFabric f).wheel = s.wheel := rfl
@[simp] theorem State.modFabric_port : (s.modFabric f).port = s.port := rfl
@[simp] theorem State.modFabric_power : (s.modFabric f).power = s.power := rfl
@[simp] theorem State.modFabric_pins : (s.modFabric f).pins = s.pins := rfl
@[simp] theorem State.modFabric_mem : (s.modFabric f).mem = s.mem := rfl
@[simp] theorem State.modFabric_damage : (s.modFabric f).damage = s.damage := rfl
@[simp] theorem State.modFabric_cores : (s.modFabric f).cores = s.cores := rfl
@[simp] theorem State.modFabric_ponds : (s.modFabric f).ponds = s.ponds := rfl
@[simp] theorem State.modFabric_memStacks : (s.modFabric f).memStacks = s.memStacks := rfl
@[simp] theorem State.modFabric_rowErrors : (s.modFabric f).rowErrors = s.rowErrors := rfl
@[simp] theorem State.modFabric_segCodes : (s.modFabric f).segCodes = s.segCodes := rfl
@[simp] theorem State.modFabric_pages : (s.modFabric f).pages = s.pages := rfl
@[simp] theorem State.modFabric_links : (s.modFabric f).links = s.links := rfl
@[simp] theorem State.modFabric_hoppers : (s.modFabric f).hoppers = s.hoppers := rfl
@[simp] theorem State.modFabric_contexts : (s.modFabric f).contexts = s.contexts := rfl
@[simp] theorem State.modFabric_devStream : (s.modFabric f).devStream = s.devStream := rfl
@[simp] theorem State.modFabric_sessions : (s.modFabric f).sessions = s.sessions := rfl
@[simp] theorem State.modFabric_nextSession : (s.modFabric f).nextSession = s.nextSession := rfl
@[simp] theorem State.modFabric_schedule : (s.modFabric f).schedule = s.schedule := rfl
@[simp] theorem State.modFabric_journal : (s.modFabric f).journal = s.journal := rfl
@[simp] theorem State.modFabric_log : (s.modFabric f).log = s.log := rfl
@[simp] theorem State.modFabric_logNext : (s.modFabric f).logNext = s.logNext := rfl
@[simp] theorem State.modFabric_fabric : (s.modFabric f).fabric = f s.fabric := rfl
@[simp] theorem State.modFabric_sec : (s.modFabric f).sec = s.sec := rfl
@[simp] theorem State.modFabric_injections : (s.modFabric f).injections = s.injections := rfl
@[simp] theorem State.modFabric_nextInjection : (s.modFabric f).nextInjection = s.nextInjection := rfl
@[simp] theorem State.modFabric_out : (s.modFabric f).out = s.out := rfl
@[simp] theorem State.modFabric_wire : (s.modFabric f).wire = s.wire := rfl
@[simp] theorem State.modFabric_i2c : (s.modFabric f).i2c = s.i2c := rfl
@[simp] theorem State.modFabric_monitor : (s.modFabric f).monitor = s.monitor := rfl
end

/-! `State.modSec` -/

section
variable (f : Security → Security)
@[simp] theorem State.modSec_pending : (s.modSec f).pending = s.pending := rfl
@[simp] theorem State.modSec_uptime : (s.modSec f).uptime = s.uptime := rfl
@[simp] theorem State.modSec_worked : (s.modSec f).worked = s.worked := rfl
@[simp] theorem State.modSec_freshTrouble : (s.modSec f).freshTrouble = s.freshTrouble := rfl
@[simp] theorem State.modSec_free : (s.modSec f).free = s.free := rfl
@[simp] theorem State.modSec_dev : (s.modSec f).dev = s.dev := rfl
@[simp] theorem State.modSec_wheel : (s.modSec f).wheel = s.wheel := rfl
@[simp] theorem State.modSec_port : (s.modSec f).port = s.port := rfl
@[simp] theorem State.modSec_power : (s.modSec f).power = s.power := rfl
@[simp] theorem State.modSec_pins : (s.modSec f).pins = s.pins := rfl
@[simp] theorem State.modSec_mem : (s.modSec f).mem = s.mem := rfl
@[simp] theorem State.modSec_damage : (s.modSec f).damage = s.damage := rfl
@[simp] theorem State.modSec_cores : (s.modSec f).cores = s.cores := rfl
@[simp] theorem State.modSec_ponds : (s.modSec f).ponds = s.ponds := rfl
@[simp] theorem State.modSec_memStacks : (s.modSec f).memStacks = s.memStacks := rfl
@[simp] theorem State.modSec_rowErrors : (s.modSec f).rowErrors = s.rowErrors := rfl
@[simp] theorem State.modSec_segCodes : (s.modSec f).segCodes = s.segCodes := rfl
@[simp] theorem State.modSec_pages : (s.modSec f).pages = s.pages := rfl
@[simp] theorem State.modSec_links : (s.modSec f).links = s.links := rfl
@[simp] theorem State.modSec_hoppers : (s.modSec f).hoppers = s.hoppers := rfl
@[simp] theorem State.modSec_contexts : (s.modSec f).contexts = s.contexts := rfl
@[simp] theorem State.modSec_devStream : (s.modSec f).devStream = s.devStream := rfl
@[simp] theorem State.modSec_sessions : (s.modSec f).sessions = s.sessions := rfl
@[simp] theorem State.modSec_nextSession : (s.modSec f).nextSession = s.nextSession := rfl
@[simp] theorem State.modSec_schedule : (s.modSec f).schedule = s.schedule := rfl
@[simp] theorem State.modSec_journal : (s.modSec f).journal = s.journal := rfl
@[simp] theorem State.modSec_log : (s.modSec f).log = s.log := rfl
@[simp] theorem State.modSec_logNext : (s.modSec f).logNext = s.logNext := rfl
@[simp] theorem State.modSec_fabric : (s.modSec f).fabric = s.fabric := rfl
@[simp] theorem State.modSec_sec : (s.modSec f).sec = f s.sec := rfl
@[simp] theorem State.modSec_injections : (s.modSec f).injections = s.injections := rfl
@[simp] theorem State.modSec_nextInjection : (s.modSec f).nextInjection = s.nextInjection := rfl
@[simp] theorem State.modSec_out : (s.modSec f).out = s.out := rfl
@[simp] theorem State.modSec_wire : (s.modSec f).wire = s.wire := rfl
@[simp] theorem State.modSec_i2c : (s.modSec f).i2c = s.i2c := rfl
@[simp] theorem State.modSec_monitor : (s.modSec f).monitor = s.monitor := rfl
end

/-! `State.modPort` -/

section
variable (f : Port → Port)
@[simp] theorem State.modPort_pending : (s.modPort f).pending = s.pending := rfl
@[simp] theorem State.modPort_uptime : (s.modPort f).uptime = s.uptime := rfl
@[simp] theorem State.modPort_worked : (s.modPort f).worked = s.worked := rfl
@[simp] theorem State.modPort_freshTrouble : (s.modPort f).freshTrouble = s.freshTrouble := rfl
@[simp] theorem State.modPort_free : (s.modPort f).free = s.free := rfl
@[simp] theorem State.modPort_dev : (s.modPort f).dev = s.dev := rfl
@[simp] theorem State.modPort_wheel : (s.modPort f).wheel = s.wheel := rfl
@[simp] theorem State.modPort_port : (s.modPort f).port = f s.port := rfl
@[simp] theorem State.modPort_power : (s.modPort f).power = s.power := rfl
@[simp] theorem State.modPort_pins : (s.modPort f).pins = s.pins := rfl
@[simp] theorem State.modPort_mem : (s.modPort f).mem = s.mem := rfl
@[simp] theorem State.modPort_damage : (s.modPort f).damage = s.damage := rfl
@[simp] theorem State.modPort_cores : (s.modPort f).cores = s.cores := rfl
@[simp] theorem State.modPort_ponds : (s.modPort f).ponds = s.ponds := rfl
@[simp] theorem State.modPort_memStacks : (s.modPort f).memStacks = s.memStacks := rfl
@[simp] theorem State.modPort_rowErrors : (s.modPort f).rowErrors = s.rowErrors := rfl
@[simp] theorem State.modPort_segCodes : (s.modPort f).segCodes = s.segCodes := rfl
@[simp] theorem State.modPort_pages : (s.modPort f).pages = s.pages := rfl
@[simp] theorem State.modPort_links : (s.modPort f).links = s.links := rfl
@[simp] theorem State.modPort_hoppers : (s.modPort f).hoppers = s.hoppers := rfl
@[simp] theorem State.modPort_contexts : (s.modPort f).contexts = s.contexts := rfl
@[simp] theorem State.modPort_devStream : (s.modPort f).devStream = s.devStream := rfl
@[simp] theorem State.modPort_sessions : (s.modPort f).sessions = s.sessions := rfl
@[simp] theorem State.modPort_nextSession : (s.modPort f).nextSession = s.nextSession := rfl
@[simp] theorem State.modPort_schedule : (s.modPort f).schedule = s.schedule := rfl
@[simp] theorem State.modPort_journal : (s.modPort f).journal = s.journal := rfl
@[simp] theorem State.modPort_log : (s.modPort f).log = s.log := rfl
@[simp] theorem State.modPort_logNext : (s.modPort f).logNext = s.logNext := rfl
@[simp] theorem State.modPort_fabric : (s.modPort f).fabric = s.fabric := rfl
@[simp] theorem State.modPort_sec : (s.modPort f).sec = s.sec := rfl
@[simp] theorem State.modPort_injections : (s.modPort f).injections = s.injections := rfl
@[simp] theorem State.modPort_nextInjection : (s.modPort f).nextInjection = s.nextInjection := rfl
@[simp] theorem State.modPort_out : (s.modPort f).out = s.out := rfl
@[simp] theorem State.modPort_wire : (s.modPort f).wire = s.wire := rfl
@[simp] theorem State.modPort_i2c : (s.modPort f).i2c = s.i2c := rfl
@[simp] theorem State.modPort_monitor : (s.modPort f).monitor = s.monitor := rfl
end

end Sys2Proof.Machine
end

