-- ==== Sys2Proof/Laws/Served.lean ====
section
/-! SUPPORT. What becomes of a frame that reaches its command: the command acts in the state that notes the frame, and its
reply goes out and is kept. -/

namespace Sys2Proof.Machine

variable {s t u : State} {f : Frame} {op : Nat} {r : Reply}

theorem State.session_modSession_self {i : Nat} {g : Session → Session} (h : swf {} s.sessions = true) :
    (s.modSession i g).session i = g (s.session i) := sget_sput_self h

theorem State.session_modSession_other {i j : Nat} {g : Session → Session} (h : swf {} s.sessions = true) (hj : j ≠ i) :
    (s.modSession i g).session j = s.session j := sget_sput_other h hj

/-! ## Checks -/

theorem checked_nil {go : Handled} : checked [] s go = go := rfl
theorem checked_none {o : Option Reply} {l : List (Option Reply)} {go : Handled} (h : o = none) :
    checked (o :: l) s go = checked l s go := by subst h; rfl
theorem checked_when {b : Bool} {l : List (Option Reply)} {go : Handled} (h : b = false) :
    checked (when b r :: l) s go = checked l s go := by subst h; rfl
theorem zeroField_false {b : Bool} {go : Handled} (h : b = false) : zeroField b s go = go := by subst h; rfl

theorem State.deviceState_ne_off (h : s.dev.state ≠ .off) : s.deviceState ≠ .off := by
  unfold State.deviceState
  split
  · split <;> simp
  · split <;> simp
  · exact h

/-- A command that R336 allows in every state but OFF. -/
theorem legalDevice_always (hm : legalMask op = 254) (h : s.dev.state ≠ .off) : legalDevice op s = none := by
  have h2 := State.deviceState_ne_off h
  unfold legalDevice
  rw [hm]
  generalize s.deviceState = d at *
  cases d <;> first | exact absurd rfl h2 | rfl

theorem State.ne_off_of_answers (h : s.answers = true) : s.dev.state ≠ .off := by
  intro e
  simp [State.answers, e] at h

/-! ## The port -/

theorem Arrives.open_ (h : Arrives f s) : s.Plain :=
  ⟨⟨by have := h.answers; unfold State.answers at this; simp_all, h.clear⟩, h.plain⟩

theorem State.meetInjection_plain {c : Carried} {n : Nat} (h : s.Plain) : s.meetInjection n c = (s, [c]) := by
  unfold State.meetInjection
  split
  · rfl
  · rename_i j hj
    have hv : (j.verb == 2) = false := by
      have := h.injections j (List.mem_of_find?_eq_some hj)
      simpa using this
    have hm : ∀ k : Injection, k.verb = j.verb → k.matches c s.uptime = false := by
      intro k hk
      unfold Injection.matches
      rw [hk, hv]
      simp
    dsimp only
    rw [hm j rfl, hv]
    rfl

theorem State.throughInjections_plain {c : Carried} (h : s.Plain) : s.throughInjections c = (s, [c]) := by
  unfold State.throughInjections State.passInjections
  induction s.injections.map (·.number) with
  | nil => rfl
  | cons n l ih =>
    simp only [List.foldl_cons, List.foldl_nil, State.meetInjection_plain h, List.nil_append]
    exact ih

/-- With no injection of INJECT.PORT, a frame sent is formed and goes straight out. -/
theorem State.emit_plain {o : OutFrame} (h : s.Plain) : s.emit o = { s with out := s.out ++ [s.formed o] } := by
  unfold State.emit
  rw [State.throughInjections_plain h]
  unfold State.putOut
  simp only [List.foldl_cons, List.foldl_nil, h.up, State.nextTag_none h.clear]
  rfl

/-- How a frame is formed depends on its session's tag key alone. -/
theorem State.formed_congr {o : OutFrame} (h : (s.session o.session).tagKey = (t.session o.session).tagKey) :
    s.formed o = t.formed o := by
  unfold State.formed
  dsimp only
  rw [h]

theorem State.takeHeld_empty {sid n : Nat} (h : (s.session sid).held = []) : s.takeHeld sid n = s := by
  cases n with
  | zero => rfl
  | succ n => simp [State.takeHeld, h]

/-- Admission leaves the device answering, or not, as it was. -/
theorem State.letIn_answers {s0 : State} {x : Option SecTag} (h : s0.letIn x = (s, true)) : s0.answers = s.answers := by
  obtain ⟨n, l, e⟩ := State.letIn_cases (s := s0) x
  rw [h] at e
  dsimp only at e
  rw [e]
  rfl

/-- A frame that arrives is received by its session. -/
theorem Arrives.receive {s0 : State} (h : Arrives f s) (h0 : s0.letIn f.path.secured = (s, true)) :
    s0.receive f = s.receiveFrame f := by
  have ha := (State.letIn_answers h0).trans h.answers
  unfold State.receive
  rw [ha, h0]
  simp [h.accepts, State.throughInjections_plain h.open_, State.receiveAll]

/-- A command outside any session that answers; a SESSION.HELLO is counted first (R454). -/
theorem State.actUnnumbered_reply {v : State} (hv : (if f.opcode.toNat = 0x0101 then s.countHello else s) = v)
    (h : checked [formCheck f.opcode.toNat f.payload, legalDevice f.opcode.toNat v] v
      (if f.opcode.toNat = 0x0101 then bodyHello v else bodyOpen f v) = .reply r u) :
    s.actUnnumbered f = u.emit (replyFrame f.opcode.toNat 0 f.context.toNat 0 0 0 r.payload f.path) := by
  unfold State.actUnnumbered
  dsimp only
  rw [hv, h]

theorem Delivered.isOpen (h : Delivered op f s) : (s.session f.session.toNat).isOpen = true := by
  have h1 := h.sound
  simp only [State.badFrame, unnumbered, Bool.or_eq_false_iff, Bool.and_eq_false_iff, Bool.not_eq_false', beq_eq_false_iff_ne] at h1
  have h2 := h.inSession
  simp_all

theorem Delivered.noted_session (h : Delivered op f s) : (s.noted f).session f.session.toNat =
    { s.session f.session.toNat with
      lastFrame := s.uptime, path := f.path, next := f.number.toNat + 1,
      kept := trimKept ((s.session f.session.toNat).kept ++
        [{ number := f.number.toNat, matchCode := matchCode f, reply := none }]) } := by
  have hc := h.canonical.sessions
  unfold State.noted
  rw [State.session_modSession_self (by exact swf_sput hc), State.session_modSession_self hc]

theorem State.noted_session_other {i : Nat} (h : swf {} s.sessions = true) (hi : i ≠ f.session.toNat) :
    (s.noted f).session i = s.session i := by
  unfold State.noted
  rw [State.session_modSession_other (by exact swf_sput h) hi, State.session_modSession_other h hi]

/-- The steps of R309 up to 6 let a delivered command act. -/
theorem Delivered.received {s0 : State} (h : Delivered op f s) (h0 : s0.letIn f.path.secured = (s, true))
    (hc : catalogue.contains op = true) (hq : op ≠ 0x0101) : s0.receiveAs op f = ((s.noted f).answer f.session.toNat f.number.toNat op
      (body f f.session.toNat ((s.noted f).session f.session.toNat) (s.noted f))).takeHeld f.session.toNat 64 := by
  have h1 : unnumbered f = false := by
    have h2 := h.inSession
    simp_all [unnumbered]
  have h3 : ¬(f.kind = 5 ∨ (f.opcode.toNat ≠ op ∧ (catalogue.contains f.opcode.toNat : Bool))) := by
    rw [h.kind, h.opcode]
    simp
  have h4 : ¬(f.kind = 5) := by rw [h.kind]; decide
  have hs := h.canonical.sessions
  have h5 : f.number.toNat = ((s.modSession f.session.toNat fun x =>
      { x with lastFrame := s.uptime, path := f.path }).session f.session.toNat).next := by
    rw [State.session_modSession_self hs]; exact h.number
  have h6 : act f f.session.toNat ((s.noted f).session f.session.toNat) (s.noted f) =
      body f f.session.toNat ((s.noted f).session f.session.toNat) (s.noted f) := by
    have e1 : privilegeCheck op f ((s.noted f).session f.session.toNat) = none := by
      rw [h.noted_session]; exact h.privilege
    have e2 : generationCheck f ((s.noted f).session f.session.toNat) (s.noted f) = none := by
      rw [h.noted_session]; exact h.generation
    unfold act
    simp only [h.opcode, hc, if_neg hq, e1, e2, h.form, checked, firstFailing]
    rfl
  unfold State.receiveAs
  rw [if_neg h3, h.toArrives.receive h0]
  unfold State.receiveFrame
  simp only [h.sound, h1]
  have h7 : ¬(f.opcode = 0x0101 ∧ f.kind = 0 ∧ (!s.helloAllowed) = true) := by
    rintro ⟨e, -⟩
    exact hq (h.opcode ▸ by rw [e]; rfl)
  rw [if_neg (by decide), if_neg h7, if_neg (by decide), if_neg h4]
  unfold State.number
  dsimp only
  rw [if_pos h5]
  unfold State.takeFrame
  dsimp only
  rw [h.opcode, ← h6]
  rfl

/-- What a delivered command does is the outcome of its body. -/
theorem Acts.handles {c : Nat} {i : Instr} {v : Handled} (h : Acts op f s t c) (hc : catalogue.contains op = true) (hq : op ≠ 0x0101)
    (he : ∀ s0 : State, exec i s0 = .next (s0.receiveAs op f)) (hb : body f f.session.toNat (t.session f.session.toNat) t = v) :
    Handles i f s v := by
  obtain ⟨hd, rfl, -⟩ := h
  intro s0 h0
  rw [he, hd.received h0 hc hq, hb, hd.opcode]

/-- The body of a command, by its group. -/
theorem Acts.low {c : Nat} (h : Acts op f s t c) (ho : op < 0x0600) :
    body f f.session.toNat (t.session f.session.toNat) t = bodyLow op f c f.session.toNat t := by
  unfold body
  simp only [h.delivered.opcode, h.bound, if_pos ho]

theorem Acts.middle {c : Nat} (h : Acts op f s t c) (ho : ¬op < 0x0600) (hp : op < 0x0E00) :
    body f f.session.toNat (t.session f.session.toNat) t = bodyMiddle op f c (t.session f.session.toNat) t := by
  unfold body
  simp only [h.delivered.opcode, h.bound, if_neg ho, if_pos hp]

theorem Acts.fabric {c : Nat} (h : Acts op f s t c) (ho : ¬op < 0x0600) (hp : ¬op < 0x0E00) (hq : op < 0x1000) :
    body f f.session.toNat (t.session f.session.toNat) t = bodyFabric op f c (t.session f.session.toNat) t := by
  unfold body
  simp only [h.delivered.opcode, h.bound, if_neg ho, if_neg hp, if_pos hq]

theorem Acts.high {c : Nat} (h : Acts op f s t c) (ho : ¬op < 0x0600) (hp : ¬op < 0x0E00) (hq : ¬op < 0x1000) :
    body f f.session.toNat (t.session f.session.toNat) t = bodyHigh op f t := by
  unfold body
  simp only [h.delivered.opcode, if_neg ho, if_neg hp, if_neg hq]

/-- An open session, after the reply `r` to its command `n` has been sent and kept. -/
def State.answered (u : State) (sid n op : Nat) (r : Reply) : State :=
  let x := u.session sid
  let g := u.generationOf x.context
  { u.modSession sid fun x =>
      { x with kept := x.kept.map fun k => if k.number = n then { k with reply := some (op, g, r.payload) } else k } with
    out := u.out ++ [u.formed (replyFrame op sid x.context g n 0 r.payload x.path)] }

theorem State.answered_session_self {sid n : Nat} (hs : swf {} u.sessions = true) :
    (u.answered sid n op r).session sid = { u.session sid with
      kept := (u.session sid).kept.map fun k =>
        if k.number = n then { k with reply := some (op, u.generationOf (u.session sid).context, r.payload) } else k } := by
  unfold State.answered State.session
  exact sget_sput_self hs

theorem State.answered_session_other {sid n i : Nat} (hs : swf {} u.sessions = true) (hi : i ≠ sid) :
    (u.answered sid n op r).session i = u.session i := by
  unfold State.answered State.session
  exact sget_sput_other hs hi

theorem State.sendReply_open {sid n : Nat} (hs : swf {} u.sessions = true) (hi : u.Plain) (ho : (u.session sid).isOpen = true) :
    u.sendReply sid n op r = u.answered sid n op r := by
  unfold State.sendReply State.sendPayload State.answered
  rw [ho]
  have hf (g : Session → Session) (x : List Byte) (y : Path) (c n' : Nat) (hg : ∀ z, (g z).tagKey = z.tagKey) :
      (u.modSession sid g).formed (replyFrame op sid c n' n 0 x y) = u.formed (replyFrame op sid c n' n 0 x y) :=
    State.formed_congr ((congrArg Session.tagKey (State.session_modSession_self hs)).trans (hg _))
  refine Eq.trans (State.emit_plain (s := u.modSession sid _) ⟨⟨hi.up, hi.clear⟩, hi.injections⟩) ?_
  rw [hf]
  · rfl
  · intro z; rfl

theorem State.endSession_self {sid : Nat} (hs : swf {} u.sessions = true) : (u.endSession sid).session sid = {} := by
  unfold State.endSession State.session
  dsimp only
  rw [sget_sdel (swf_iff.mp hs).1, if_pos rfl]

theorem State.endSession_other {sid i : Nat} (hs : swf {} u.sessions = true) (hi : i ≠ sid) :
    (u.endSession sid).session i = u.session i := by
  unfold State.endSession State.session
  dsimp only
  rw [sget_sdel (swf_iff.mp hs).1, if_neg hi]

/-- A command whose reply need not wait for the journal, no immediate effect (R313) or no DONE, and with whose reply nothing takes
effect. -/
def Prompt (op : Nat) (r : Reply) : Prop :=
  ¬(r.status = Status.done ∧ (!r.zero) = true ∧ journalsEffect op = true) ∧ op ∉ [0x1007, 0x0302, 0x1201, 0x1202, 0x1203, 0x1303]

/-- Only FW.MACSEC, RUN.BOOK, the injections and POWER.DOZE have an effect that waits for their reply (R458, R348, R461, R363). -/
theorem State.afterReply_of {sid n : Nat} (h : op ∉ [0x1007, 0x0302, 0x1201, 0x1202, 0x1203, 0x1303]) :
    u.afterReply sid n op = u := by
  simp only [List.mem_cons, List.not_mem_nil, or_false, not_or] at h
  obtain ⟨h1, h2, h3, h4, h5, h6⟩ := h
  unfold State.afterReply
  rw [if_neg h1, if_neg h2, if_neg (by simp [h3, h4, h5]), if_neg h6]

theorem State.answer_prompt {sid n : Nat} {a : State} (hp : Prompt op r) (hs : swf {} u.sessions = true) (hi : u.Plain)
    (ho : (u.session sid).isOpen = true) :
    a.answer sid n op (.reply r u) =
      if (u.session sid).endAfter = some n then (u.answered sid n op r).endSession sid else u.answered sid n op r := by
  unfold State.answer State.conclude State.deliverReply
  dsimp only
  rw [if_neg hp.1, ← State.sendReply, State.afterReply_of hp.2, State.sendReply_open hs hi ho,
    State.answered_session_self hs]

/-- A prompt reply to a session that is open, has no end due and holds no frame. -/
theorem State.answer_reply {sid n : Nat} {a : State} (hp : Prompt op r) (hs : swf {} u.sessions = true) (hi : u.Plain)
    (ho : (u.session sid).isOpen = true) (he : (u.session sid).endAfter = none) (hh : (u.session sid).held = []) :
    (a.answer sid n op (.reply r u)).takeHeld sid 64 = u.answered sid n op r := by
  rw [State.answer_prompt hp hs hi ho, he, if_neg (by simp)]
  refine State.takeHeld_empty ?_
  rw [State.answered_session_self hs]
  exact hh

/-- A prompt reply to a session that ends with it. -/
theorem State.answer_ends {sid n : Nat} {a : State} (hp : Prompt op r) (hs : swf {} u.sessions = true) (hi : u.Plain)
    (ho : (u.session sid).isOpen = true) (he : (u.session sid).endAfter = some n) :
    (a.answer sid n op (.reply r u)).takeHeld sid 64 = (u.answered sid n op r).endSession sid := by
  rw [State.answer_prompt hp hs hi ho, he, if_pos rfl]
  refine State.takeHeld_empty ?_
  rw [State.endSession_self (by unfold State.answered; exact swf_sput hs)]

/-- An immediate effect: its DONE waits for the journal, and the session for its next command. -/
theorem State.answer_effect {sid n : Nat} {a : State} (hr : r.status = Status.done) (hz : r.zero = false) (hj : journalsEffect op = true)
    (hh : (u.session sid).held = []) :
    (a.answer sid n op (.reply r u)).takeHeld sid 64 = { u with journal := u.journal.awaits u.uptime sid n op r } := by
  unfold State.answer State.conclude
  dsimp only
  rw [if_pos ⟨hr, by rw [hz]; rfl, hj⟩]
  exact State.takeHeld_empty hh

/-- A command that answers at once: its reply goes out and is kept, and nothing else of its session changes. -/
theorem Delivered.replied (h : Delivered op f s) (hc : catalogue.contains op = true) (hp : Prompt op r)
    (hb : body f f.session.toNat ((s.noted f).session f.session.toNat) (s.noted f) = .reply r u)
    (hu : u.sessions = (s.noted f).sessions) (hi : u.injections = s.injections) (hd : u.dev.portUp = s.dev.portUp)
    (ht : u.sec.transmits = s.sec.transmits) (ho : u.out = s.out) (hq : op ≠ 0x0101) :
    ∃ t, (∀ s0 : State, s0.letIn f.path.secured = (s, true) → s0.receiveAs op f = t) ∧ Replied f r s t ∧ OneSession f s t ∧
      t = { u with out := t.out, sessions := t.sessions } := by
  have hs := h.canonical.sessions
  have hn : swf {} u.sessions = true := by rw [hu]; exact swf_sput (swf_sput hs)
  have hx : u.session f.session.toNat = _ := (by unfold State.session; rw [hu] :
    u.session f.session.toNat = (s.noted f).session f.session.toNat).trans h.noted_session
  have e : ∀ s0 : State, s0.letIn f.path.secured = (s, true) →
      s0.receiveAs op f = u.answered f.session.toNat f.number.toNat op r := by
    intro s0 h0
    rw [h.received h0 hc hq, hb]
    have k := h.toArrives.open_
    exact State.answer_reply hp hn ⟨⟨by rw [hd]; exact k.up, by rw [ht]; exact k.clear⟩, by rw [hi]; exact k.injections⟩ (by rw [hx]; exact h.isOpen)
      (by rw [hx]; exact h.stays) (by rw [hx]; exact h.held)
  have hk : (u.session f.session.toNat).tagKey = (s.session f.session.toNat).tagKey := by rw [hx]
  have hf (g : Nat) (x : List Byte) (y : Path) (c : Nat) :
      u.formed (replyFrame op f.session.toNat c g f.number.toNat 0 x y) =
        s.formed (replyFrame op f.session.toNat c g f.number.toNat 0 x y) := State.formed_congr hk
  refine ⟨_, e, ?_, ⟨?_, fun i hj => ?_⟩, rfl⟩
  · unfold Replied State.answered State.replyTo State.boundTo
    dsimp only
    rw [ho, hf, hx, h.opcode]
    rfl
  · rw [State.answered_session_self hn, hx]
  · rw [State.answered_session_other hn hj]
    have : u.session i = (s.noted f).session i := by unfold State.session; rw [hu]
    rw [this, State.noted_session_other hs hj]

/-- A command with an immediate effect: the effect stands, its reply waits for the journal, and its session for the next number. -/
theorem Delivered.effects (h : Delivered op f s) (hc : catalogue.contains op = true) (hr : r.status = Status.done)
    (hz : r.zero = false) (hj : journalsEffect op = true)
    (hb : body f f.session.toNat ((s.noted f).session f.session.toNat) (s.noted f) = .reply r u)
    (hu : u.sessions = (s.noted f).sessions) (hl : u.journal = s.journal) (hn : u.uptime = s.uptime) (ho : u.out = s.out)
    (hq : op ≠ 0x0101) :
    ∃ t, (∀ s0 : State, s0.letIn f.path.secured = (s, true) → s0.receiveAs op f = t) ∧ t.out = s.out ∧
      t.journal = s.journal.awaits s.uptime f.session.toNat f.number.toNat f.opcode.toNat r ∧ OneSession f s t ∧
      t = { u with journal := t.journal } := by
  have hs := h.canonical.sessions
  have hx (i : Nat) : u.session i = (s.noted f).session i := by unfold State.session; rw [hu]
  refine ⟨{ u with journal := u.journal.awaits u.uptime f.session.toNat f.number.toNat op r }, ?_, ho, ?_, ⟨?_, fun i hj => ?_⟩, rfl⟩
  · intro s0 h0
    rw [h.received h0 hc hq, hb]
    exact State.answer_effect hr hz hj (by rw [hx, h.noted_session]; exact h.held)
  · dsimp only
    rw [hl, hn, h.opcode]
  · exact (congrArg Session.next (hx _)).trans (congrArg Session.next h.noted_session)
  · exact (hx i).trans (State.noted_session_other hs hj)

end Sys2Proof.Machine
end

