-- ==== Sys2Proof/WellFormed.lean ====
section
/-! DEFINITION. What an operand must satisfy for a command to be one the device can be given: fields that fit their
carriers, and lists as long as the rule that defines them says. -/

namespace Sys2Proof

/-- Two bits of association number, 64 of channel and 32 of packet number (R458). -/
def SecTag.wellFormed (t : SecTag) : Bool := t.an < 4 && decide (t.sci < 2 ^ 64) && decide (t.pn < 2 ^ 32)

def securedWellFormed (t : Option SecTag) : Bool := t.all SecTag.wellFormed

/-- UDP ports, VLAN numbers and the source address fit their fields (R303). -/
def Path.wellFormed (p : Path) : Bool :=
  p.vlan < 4096 && p.sourcePort < 65536 && securedWellFormed p.secured &&
  match p.encap with
  | .ethernet => true
  | .udp4 port _ _ => port < 65536
  | .udp6 port _ _ => port < 65536

/-- What one jumbo frame of the port carries (R305): at most 9,216 bytes. -/
def Frame.wellFormed (f : Frame) : Bool := f.payload.length ≤ 9216 && f.path.wellFormed

/-- Positions, delivery sequence and class as a packet has them (R295, R298); the longest packet is 2,048 flits. -/
def Packet.wellFormed (p : Packet) : Bool :=
  p.source < 261 && p.destination < 261 && p.delivery < 65536 && p.cls < 3 && p.index < 2048

/-- A flit's sequence and acknowledgement are 10 bits, its kind 3 bits, its class below 3 (R282, R284). -/
def Flit.wellFormed (f : Flit) : Bool :=
  f.packet.wellFormed &&
  f.sequence < 1024 && f.ack < 1024 && f.kind < 8 && f.creditClass < 3 && f.credits < 128

/-- The first byte of a block of the stacks (R22). -/
def blockInRange (b : Nat) : Bool := b < 2 ^ 40 && b % 64 == 0

/-- One reading for each of the 93 spots and one draw for each of the 80 domains (R366, R365); parity errors and stray reads at
blocks of the stacks (R22). -/
def Readings.wellFormed (r : Readings) : Bool :=
  r.spots.length == 93 && r.domainDraw.length == 80 && r.parityErrors.all (blockInRange ·.1) &&
  r.strays.all fun x => blockInRange x.1 && blockInRange x.2

def lanesInRange (l : List (Nat × Nat)) : Bool := l.all fun x => x.1 < 256 && x.2 < 17

/-- Port widths 0 to 3 (R482). -/
def S1Facts.wellFormed (r : S1Facts) : Bool := r.portWidth < 4

/-- A Bedstone row as a defect record names it: kind 3 of a core's slice or kind 4 of a die's Millpond (R418). -/
def rowInRange (x : Nat × Nat × Nat) : Bool :=
  ((x.1 == 3 && decide (x.2.1 < 256)) || (x.1 == 4 && decide (x.2.1 < 4))) && decide (x.2.2 < 2 ^ 32)

/-- Links 0 to 5, bundles 0 to 15, directions 0 and 1, lanes 0 to 297 (R281). -/
def linkLaneInRange (x : Nat × Nat × Nat × Nat) : Bool := x.1 < 6 && x.2.1 < 16 && x.2.2.1 < 2 && x.2.2.2 < 298

/-- Units of the device (R413, R416). -/
def S2Facts.wellFormed (r : S2Facts) : Bool :=
  r.badCores.all (· < 256) && lanesInRange r.badLanes &&
  r.badRows.all rowInRange && r.badLinkLanes.all linkLaneInRange

def S3Facts.wellFormed (r : S3Facts) : Bool :=
  r.failedCores.all (· < 256) && lanesInRange r.failedLanes && (r.absentDie.getD 0 < 5)

/-- Five records, and lanes and bundles of the links (R292). -/
def S4Facts.wellFormed (r : S4Facts) : Bool :=
  r.records.length == 5 && r.failedLanes.all linkLaneInRange &&
  r.odd.all (fun x => x.link < 6 && x.bundle < 16)

def S5Facts.wellFormed (r : S5Facts) : Bool := r.badRows.all rowInRange

def S6Facts.wellFormed (r : S6Facts) : Bool :=
  r.perStack.length == 8 && r.perStack.all fun k => k.lanesRepaired < 256 && k.unreadableSegments.all (· < 128)

def S7Facts.wellFormed (r : S7Facts) : Bool :=
  r.steps.length == 8 && r.steps.all fun x => x.1 < 8 && x.2 < 3

/-- Byte offsets of the Last (R423). -/
def S8Facts.wellFormed (r : S8Facts) : Bool := r.misread.all fun x => x.1 < 448

def PtpHead.wellFormed (h : PtpHead) : Bool := h.domain < 256 && h.sequence < 65536 && h.transport < 3 && h.source.length == 16 &&
  securedWellFormed h.secured

def Beacon.wellFormed (b : Beacon) : Bool := b.serial.length == 16 && b.address < 65536 && securedWellFormed b.secured

def Forward.wellFormed (m : Forward) : Bool := m.headSerial.length == 16 && m.context < 64 && securedWellFormed m.secured

def Answer.wellFormed (a : Answer) : Bool := a.status < 65536 && securedWellFormed a.secured

def CopyMsg.wellFormed (m : CopyMsg) : Bool := m.sourceSerial.length == 16 && m.data.length ≤ 8704 && securedWellFormed m.secured

/-- A reply's opcode is 0x0E87 or a reserved one (R431). -/
def AckHead.wellFormed (h : AckHead) : Bool :=
  decide (0x0E87 ≤ h.opcode) && h.opcode ≤ 0x0EFF && h.context < 64 && securedWellFormed h.secured

/-- The fields of an image's header, its key, its signature and its body, no longer than a slot (R447). -/
def imageWellFormed (fields key signature body : List Byte) : Bool :=
  fields.length == 64 && key.length == 97 && signature.length == 96 && body.length + 320 ≤ 8388608

/-- The frame of a command of the host. -/
def Instr.frame? : Instr → Option Frame
  | .sessionHello f | .sessionOpen f | .sessionClose f | .planLoad f | .planUnload f | .runStep f | .runBook f
  | .runUnbook f | .seqArea f | .seqOpen f | .seqExtend f | .seqTrim f | .seqClose f | .ctxOpen f | .ctxClose f
  | .ctxReset f | .ctxSave f | .ctxRestore f | .memRead f | .memWrite f | .memSplit f | .pageMap f | .pageUnmap f
  | .pageRetire f | .segRecode f | .segRetire f | .quernMode f | .regRead f | .regWrite f | .logRead f
  | .statusDevice f | .statusContext f | .timeSet f | .timeSource f | .fabricAddress f | .fabricJoin f
  | .fabricLeave f | .fabricStatus f | .fabricCopy f | .fabricMigrate f | .cascadeForm f | .cascadeFollow f
  | .cascadeLeave f | .cascadeRun f | .fwStatus f | .fwWrite f | .fwActivate f | .fwAuthorise f | .fwEnroll f
  | .fwRemove f | .fwMacsec f | .attestIdentity f | .attestReport f | .injectLink f | .injectPort f | .injectEcc f
  | .injectClear f | .injectStatus f | .powerDomain f | .powerPolicy f | .powerDoze f | .powerWake f | .hostAck f
  | .positionLoRead f | .troubleBitClear f | .counterClear f | .wheelSourceWrite f | .holdLimitWrite f
  | .udpPortWrite f | .recoveryCfgWrite f | .lastLatchClear f => some f
  | _ => none

/-- The widths of an Announce message's fields (IEEE 1588; PRESUMED, assumption log 38). -/
def ClockData.wellFormed (c : ClockData) : Bool :=
  c.priority1 < 256 && c.clockClass < 256 && c.accuracy < 256 && c.variance < 65536 && c.priority2 < 256 &&
  c.grandmaster < 2 ^ 64 && c.steps < 65536

/-- The operands of a command are ones the device can be given. -/
def Instr.wellFormed (i : Instr) : Bool :=
  match i.frame? with
  | some f => f.wellFormed
  | none =>
    match i with
    | .linkFlitReceived _ _ _ f => f.wellFormed
    | .retrainDone _ _ _ failing => failing.all (· < 298)
    | .housekeepingRound r => r.wellFormed
    | .stageS1SluiceBoot r => r.wellFormed
    | .stageS2FuseRead r => r.wellFormed
    | .stageS3RunnerDiesUp r => r.wellFormed
    | .stageS4WeltTraining r => r.wellFormed
    | .stageS5BedstoneTest r => r.wellFormed
    | .stageS6MemoryTraining r => r.wellFormed
    | .stageS7CheckerTest r => r.wellFormed
    | .stageS8LastCheck r => r.wellFormed
    | .ptpSync m => m.head.wellFormed
    | .ptpAnnounce m => m.head.wellFormed && m.clock.wellFormed
    | .ptpFollowUp h _ _ => h.wellFormed
    | .ptpDelayResp m => m.head.wellFormed
    | .beaconReceived b => b.wellFormed
    | .probe m => m.wellFormed
    | .commit m _ => m.wellFormed
    | .probeAnswer a => a.wellFormed
    | .commitAnswer a => a.wellFormed
    | .copyDestinationCheck m => m.wellFormed
    | .copyPagePiece m => m.wellFormed
    | .contextResetDrained c => c < 64
    | .tagsDrained c _ => c < 64
    | .completionSend c => c < 64 || c == 255
    | .completionResendTimer c => c < 64 || c == 255
    | .commandCompletion c _ => c < 64 || c == 255
    | .slicePatrolScrub _ line => line < 786432
    | .stackPatrolScrub _ row => row < 2097152
    | .meshProgressWatchdog _ stuck => stuck.all (·.1 < 256)
    | .i2cEepromRead x n => x.address < 128 && x.offset < 256 && n ≤ 256
    | .coolantMonitorRead x n => x.address < 128 && x.offset < 16 && n ≤ 16
    | .copyAck h _ _ _ _ => h.wellFormed
    | .arpRequest sender _ => securedWellFormed sender.2
    | .neighborSolicitation sender _ => securedWellFormed sender.2
    | .testFirmwareLoad fields key signature body => imageWellFormed fields key signature body
    | .portLinkChange _ m _ _ => m.kind < 3 && m.width < 4
    | _ => true

end Sys2Proof
end

