-- ==== Sys2Proof/Tests/Slice0.lean ====
section
/-! SUPPORT. Tests: for every statement that has hypotheses, states and operands that meet them together, clause by clause;
and for each check of well-formedness a term that it refuses. -/

namespace Sys2Proof.Tests

open Sys2Proof.Machine

/-! ## Witness states -/

/-- A family and its values, one Bool. -/
def familyB {β : Type} [DecidableEq β] (d : β) (ok : β → Bool) (m : Sparse β) : Bool := swf d m && m.all fun e => ok e.2

theorem family_of {β : Type} [DecidableEq β] {d : β} {ok : β → Bool} {P : β → Prop} {m : Sparse β}
    (h : familyB d ok m = true) (hp : ∀ x, ok x = true → P x) : Family d P m := by
  simp only [familyB, Bool.and_eq_true, List.all_eq_true] at h
  exact ⟨h.1, fun e he => hp _ (h.2 e he)⟩

def channelB (h : Channel) : Bool := decide (h.queue.length ≤ 16)

theorem channel_of {h : Channel} (k : channelB h = true) : h.Fits := by
  simpa only [channelB, decide_eq_true_eq, Channel.Fits] using k

/-- A link's replay buffers and its family of bundles. -/
def linkB (l : Link) : Bool :=
  familyB {} (fun b : Bundle => decide (b.aToB.replay.length ≤ 256 ∧ b.bToA.replay.length ≤ 256)) l.bundles

theorem link_of {l : Link} (h : linkB l = true) : l.Canonical := family_of h fun _ e => by
  simpa only [decide_eq_true_eq, Bundle.Fits, LinkDir.Fits] using e

/-- A record's families, one Bool. -/
def coreB (c : Core) : Bool :=
  decide ((swf {} c.tiles = true ∧ swf 0 c.sums = true ∧ swf false c.integers = true) ∧
    swf 0 c.vregs = true ∧ familyB {} channelB c.channels = true ∧ swf 0 c.barriers = true)

theorem core_of {c : Core} (h : coreB c = true) : c.Canonical := by
  simp only [coreB, decide_eq_true_eq] at h
  exact { tiles := h.1.1, sums := h.1.2.1, integers := h.1.2.2, vregs := h.2.1, channels := family_of h.2.2.1 fun _ => channel_of, barriers := h.2.2.2 }

def stackB (k : Stack) : Bool := decide (swf 0 k.capture = true ∧ swf {} k.pcs = true ∧ swf 0 k.caErrors = true)

theorem stack_of {k : Stack} (h : stackB k = true) : k.Canonical := by
  simp only [stackB, decide_eq_true_eq] at h
  exact { capture := h.1, pcs := h.2.1, caErrors := h.2.2 }

def logB (l : List LogRecord) (next : Nat) : Bool :=
  decide (l.length ≤ 16384 ∧ l.length ≤ next) && l.zipIdx.all fun e => e.1.number == next - l.length + e.2

theorem log_of {l : List LogRecord} {next : Nat} (h : logB l next = true) : LogRising l next := by
  simp only [logB, Bool.and_eq_true, decide_eq_true_eq, List.all_eq_true, beq_iff_eq] at h
  refine ⟨h.1.1, h.1.2, fun i hi => ?_⟩
  exact h.2 (l[i], i) (by simp [List.mem_zipIdx_iff_getElem?, hi])

/-- The families of plain values, in two groups. -/
def memoriesB (s : State) : Bool :=
  decide (Memory.wf s.mem = true ∧ swf {} s.damage = true ∧ swf 0 s.rowErrors = true ∧ swf 2 s.segCodes = true ∧
    swf {} s.pages = true ∧ s.wheel.position < 2 ^ 64)

def tablesB (s : State) : Bool :=
  decide ((swf {} s.hoppers = true ∧ swf {} s.sessions = true ∧ swf {} s.power.domains = true ∧ swf {} s.power.spots = true) ∧
    swf 0 s.dev.reports = true ∧ swf 256 s.dev.map = true ∧ swf {} s.fabric.routes = true ∧
    (swf {} s.sec.operators = true ∧ swf {} s.sec.tableA.slots = true ∧ swf {} s.sec.tableB.slots = true))

/-- The families of records that hold families, and the log. -/
def partsB (s : State) : Bool :=
  decide (familyB {} coreB s.cores = true ∧ familyB {} (fun d : Millpond => swf none d.ways) s.ponds = true ∧
    familyB {} stackB s.memStacks = true ∧ familyB {} linkB s.links = true ∧
    familyB {} (fun c : Context => swf {} c.seqs) s.contexts = true ∧ logB s.log s.logNext = true)

def canonB (s : State) : Bool := memoriesB s && tablesB s && partsB s

theorem canonical_of {s : State} (h : canonB s = true) : s.Canonical := by
  simp only [canonB, Bool.and_eq_true] at h
  obtain ⟨⟨a, b⟩, c⟩ := h
  simp only [memoriesB, decide_eq_true_eq] at a
  simp only [tablesB, decide_eq_true_eq] at b
  simp only [partsB, decide_eq_true_eq] at c
  exact
    { mem := a.1, damage := a.2.1, rowErrors := a.2.2.1, segCodes := a.2.2.2.1, pages := a.2.2.2.2.1, position := a.2.2.2.2.2
      hoppers := b.1.1, sessions := b.1.2.1, domains := b.1.2.2.1, spots := b.1.2.2.2
      reports := b.2.1, map := b.2.2.1, routes := b.2.2.2.1, operators := b.2.2.2.2.1
      tableA := b.2.2.2.2.2.1, tableB := b.2.2.2.2.2.2
      cores := family_of c.1 fun _ => core_of, ponds := family_of c.2.1 fun _ e => e
      memStacks := family_of c.2.2.1 fun _ => stack_of, links := family_of c.2.2.2.1 fun _ => link_of
      contexts := family_of c.2.2.2.2.1 fun _ e => e, log := log_of c.2.2.2.2.2 }

theorem clear_of {s : State} (h : decide (s.dev.portUp = true ∧ s.sec.transmits = none) = true) : s.Clear :=
  ⟨(of_decide_eq_true h).1, (of_decide_eq_true h).2⟩

theorem plain_of {s : State} (h : decide ((s.dev.portUp = true ∧ s.sec.transmits = none) ∧ ∀ j ∈ s.injections, j.verb ≠ 2) = true) :
    s.Plain :=
  { clear_of (decide_eq_true (of_decide_eq_true h).1) with injections := (of_decide_eq_true h).2 }

theorem intact_of {s : State} (h : decide ((∀ e ∈ s.damage, e.2.lost = false) ∧ ∀ e ∈ s.memStacks, e.2.strays = []) = true) :
    s.Sound :=
  ⟨(of_decide_eq_true h).1, (of_decide_eq_true h).2⟩

/-- Whether a place holds bytes of its own. -/
def holdsBytes : Place → Bool
  | .stack _ | .scratch _ => true
  | _ => false

theorem stored_of {s : State} {a n : Nat} (h : ((List.range n).all fun i => holdsBytes (s.place (a + i))) = true) : s.stored a n := by
  intro i hi
  have k := List.all_eq_true.mp h i (List.mem_range.mpr hi)
  revert k
  cases s.place (a + i) with
  | stack d => exact fun _ => ⟨d, .inl rfl⟩
  | scratch d => exact fun _ => ⟨d, .inr rfl⟩
  | table d => exact fun k => absurd k Bool.false_ne_true
  | unmapped => exact fun k => absurd k Bool.false_ne_true

/-- A device whose only context is 0. -/
theorem others_of {s : State} {x : Context} (h : s.contexts = [(0, x)]) {d : Nat} (hd : d ≠ 0) : s.context d = {} := by
  rw [State.context, h]
  exact if_neg (Ne.symm hd)

theorem fless_nan (a b : Word) : fless a (fmul 0x7FC00000#32 b) = false := by
  have n : fmul 0x7FC00000#32 b = 0x7FC00000#32 := by
    have e : ofFp32 0x7FC00000#32 = .nan := by decide +kernel
    rw [fmul, e]
    rfl
  have l : ∀ x : Val, x.lt .nan = false := fun x => by rcases x with _ | (_ | _) | _ <;> rfl
  have e : ofFp32 0x7FC00000#32 = .nan := by decide +kernel
  rw [n, fless, e, l, Bool.false_and]

/-- A frame with its length, its tag under the empty key and its CRC. -/
def sealFrame (f : Frame) : Frame :=
  let f := { f with length := BitVec.ofNat 16 f.payload.length }
  let f := { f with tag := frameTag [] f }
  { f with crc := frameCrc f }

/-- What the two opaque computations over a frame give, as its fields show them. -/
structure Sealed (f : Frame) : Prop where
  crc : f.crc = frameCrc f
  tag : f.tag = frameTag [] f

theorem sealed (f : Frame) : Sealed (sealFrame f) :=
  ⟨by simp only [sealFrame, frameCrc, headerBytes], by simp only [sealFrame, frameTag, headerBytes]⟩

/-- What R305 asks of a frame beside its CRC and its tag. -/
def soundB (f : Frame) (s : State) : Bool :=
  decide (f.version = 1 ∧ (f.kind = 0 ∨ f.kind = 5) ∧ f.length.toNat = f.payload.length ∧
    (unnumbered f = true ∨ (f.session ≠ 0 ∧ (s.session f.session.toNat).isOpen = true ∧ (s.session f.session.toNat).tagKey = [])) ∧
    (f.kind ≠ 5 ∨ ackHonoured f (s.session f.session.toNat) = true))

theorem sound_of {f : Frame} {s : State} (c : Sealed f) (h : soundB f s = true) : s.badFrame f = false := by
  simp only [soundB, decide_eq_true_eq] at h
  have t : (!unnumbered f && (f.session == 0 || !(s.session f.session.toNat).isOpen ||
      f.tag != frameTag (s.session f.session.toNat).tagKey f)) = false := by
    rcases h.2.2.2.1 with u | ⟨u, v, w⟩
    · simp [u]
    · rw [v, w, ← c.tag, beq_false_of_ne u, bne_self_eq_false]; simp
  have a : (f.kind == 5 && !ackHonoured f (s.session f.session.toNat)) = false := by
    rcases h.2.2.2.2 with u | u
    · rw [beq_false_of_ne u, Bool.false_and]
    · simp [u]
  have k : (f.kind == 0 || f.kind == 5) = true := by rcases h.2.1 with u | u <;> rw [u] <;> rfl
  have v : (f.crc != frameCrc f || f.version != 1 || !(f.kind == 0 || f.kind == 5) || f.length.toNat != f.payload.length) = false := by
    rw [← c.crc, h.1, h.2.2.1, k]; simp
  simp only [State.badFrame, v, t, a, Bool.or_false]

def portB (f : Frame) (s : State) : Bool :=
  decide ((s.answers = true ∧ f.path.secured = none ∧ s.sec.required = false) ∧
    s.accepts f = true ∧ (s.sec.transmits = none ∧ s.dev.portUp = true) ∧ ∀ j ∈ s.injections, j.verb ≠ 2)

def arrivesB (f : Frame) (s : State) : Bool := canonB s && portB f s && soundB f s

theorem arrives_of {f : Frame} {s : State} (c : Sealed f) (h : arrivesB f s = true) : Arrives f s := by
  simp only [arrivesB, portB, Bool.and_eq_true, decide_eq_true_eq] at h
  have p := h.1.2
  exact
    { canonical := canonical_of h.1.1, sound := sound_of c h.2
      answers := p.1.1, accepts := p.2.1, clear := p.2.2.1.1, plain := p.2.2.2
      admitted := ⟨s, by simp [p.1.2.1, State.letIn, p.1.2.2, p.2.2.1.2]⟩ }

def nextB (op : Nat) (f : Frame) (s : State) : Bool :=
  decide ((f.kind = 0 ∧ f.opcode.toNat = op ∧ f.session ≠ 0) ∧ f.number.toNat = (s.session f.session.toNat).next ∧
    (s.session f.session.toNat).held = [] ∧ (s.session f.session.toNat).endAfter = none)

theorem numbered_of {op : Nat} {f : Frame} {s : State} (c : Sealed f) (h : (arrivesB f s && nextB op f s) = true) :
    Numbered op f s := by
  simp only [nextB, Bool.and_eq_true, decide_eq_true_eq] at h
  have p := h.2
  exact
    { toArrives := arrives_of c h.1, kind := p.1.1, opcode := p.1.2.1, inSession := p.1.2.2
      number := p.2.1, held := p.2.2.1, stays := p.2.2.2 }

/-- The steps 3 to 6 of R309. -/
def letsPass (op : Nat) (f : Frame) (s : State) : Bool :=
  decide (privilegeCheck op f (s.session f.session.toNat) = none ∧ generationCheck f (s.session f.session.toNat) s = none ∧
    formCheck op f.payload = none)

theorem delivered_of {op : Nat} {f : Frame} {s : State} (c : Sealed f)
    (h : ((arrivesB f s && nextB op f s) && letsPass op f s) = true) : Delivered op f s := by
  simp only [Bool.and_eq_true (arrivesB f s && nextB op f s), letsPass, decide_eq_true_eq] at h
  have p := h.2
  exact { toNumbered := numbered_of c h.1, privilege := p.1, generation := p.2.1, form := p.2.2 }

theorem acts_of {op c : Nat} {f : Frame} {s : State} (e : Sealed f)
    (h : ((arrivesB f s && nextB op f s) && letsPass op f s && ((s.noted f).session f.session.toNat).context == c) = true) :
    Acts op f s (s.noted f) c := by
  simp only [Bool.and_eq_true ((arrivesB f s && nextB op f s) && letsPass op f s), beq_iff_eq] at h
  exact { delivered := delivered_of e h.1, state := rfl, bound := h.2 }

/-- Sessions 1 and 2 are management sessions, bound to no context and to context 0; session 3 is a context session of context 0. -/
abbrev hostFrame (op sid : Nat) (p : List Byte) : Frame :=
  sealFrame { opcode := BitVec.ofNat 16 op, session := BitVec.ofNat 32 sid, context := if sid = 1 then 255 else 0, number := 1, payload := p }

/-- Bytes given by fields: offset, size and value of each. -/
def pay (n : Nat) (l : List (Nat × Nat × Nat)) : List Byte :=
  (List.range n).map fun i =>
    match l.find? fun x => decide (x.1 ≤ i ∧ i < x.1 + x.2.1) with
    | some x => BitVec.ofNat 8 (x.2.2 / 256 ^ (i - x.1))
    | none => 0

/-- The first scratchpad byte after the table region of die 0. -/
def scratch0 : Nat := 2 ^ 40 + 2 ^ 25

def entry0 : SlotEntry := { action := 6, units := 0, argument := 0, offsets := [0, 0, 0], windows := [15, 15, 15] }

/-- A plan of one entry and one action, for the full shape. -/
def plan0 : Plan :=
  { id := 7, level := 0, ganged := false, entries := 1,
    tables := [{ entry := 0, shape := 0x083C1000, floor := 1, actions := [entry0] }],
    certs := [{ entry := 0, floor := 1, shape := 0x083C1000, spans := [15, 15, 15], durations := [16, 16, 16],
                history := [1024, 1024, 1024], draw := 400, quarters := 1, hoppers := 0, shares := 0 }],
    code := [], blocks := [], streams := [], groups := [], querns := [], samplers := [], needs := {}, consts := [] }

def grant0 : Grant :=
  { quarters := 1, storeBase := 0, storeLength := 0x100000, sliceBase := 0x10000000, sliceLength := 0x100000,
    padFirst := [512, 0, 0, 0], padCount := [64, 0, 0, 0], runs := [(0, 4)] }

/-- A context with a grant, a loaded plan and a sequence area with slot 0 open. -/
def context0 : Context :=
  { state := .open, grant := grant0, plans := [plan0],
    area := some { base := scratch0 + 0x100000, capacity := 4, stride := 4, poolFirst := 2, poolCount := 1 },
    seqs := [(0, { isOpen := true, home := 1, lanes := 1, perPage := 16, limit := 64 })] }

/-- The serial number of the witnesses' module. -/
def serial0 : List Byte := List.replicate 16 7

/-- A device in service, at notch 2^22, with the three sessions, and context 0 open. -/
def up : State :=
  { ({} : State) with
    uptime := 2097152
    dev := { ({} : Device) with state := .ready, stage := 10, portUp := true, portWidth := 0, cores := 60, lanes := 16, map := [(0, 0), (1, 1)], serial := serial0 }
    wheel := { ({} : Wheel) with position := 4194304, state := .locked, bounded := true }
    power := { ({} : Power) with domains := (List.range 79).map fun k => (k, { state := .on }) }
    links := (List.range 6).map fun k => (k, { trained := true })
    memStacks := (List.range 8).map fun k => (k, { trained := true })
    contexts := [(0, context0)]
    sessions := [(1, { ({} : Session) with isOpen := true, management := true, idleTimeout := 1048576, lastFrame := 1048576 }),
                 (2, { ({} : Session) with isOpen := true, management := true, context := 0, idleTimeout := 1048576 }),
                 (3, { ({} : Session) with isOpen := true, context := 0, idleTimeout := 1048576 })]
    nextSession := 4 }

/-- The same with context 0 without plans, sequences and area. -/
def bare : State := up.modContext 0 fun _ => { state := .open, grant := grant0 }

/-- A frame whose parameters are given by fields over the length that the catalogue calls for. -/
abbrev fieldFrame (op sid : Nat) (l : List (Nat × Nat × Nat)) : Frame := hostFrame op sid (pay (formOf op).fixed l)

def cmd0 : Cmd := { frame := { opcode := 0 } }
def cert0 : Cert :=
  { entry := 0, floor := 1, shape := 0x083C1000, spans := [15, 15, 15], durations := [16, 16, 16],
    history := [1024, 1024, 1024], draw := 400, quarters := 1, hoppers := 0, shares := 0 }

/-! ## Hypotheses decided together, before the rest -/

theorem and2 {a b r : Prop} (h : a ∧ b) (k : r) : a ∧ b ∧ r := ⟨h.1, h.2, k⟩
theorem and3 {a b c r : Prop} (h : a ∧ b ∧ c) (k : r) : a ∧ b ∧ c ∧ r := ⟨h.1, and2 h.2 k⟩
theorem and4 {a b c d r : Prop} (h : a ∧ b ∧ c ∧ d) (k : r) : a ∧ b ∧ c ∧ d ∧ r := ⟨h.1, and3 h.2 k⟩

/-! ## Values of a computation that succeeds -/

def rightOr {α β : Type} (d : β) : α ⊕ β → β
  | .inl _ => d
  | .inr b => b

theorem right_of {α β : Type} {d : β} {x : α ⊕ β} (h : x.isRight = true) : x = .inr (rightOr d x) := by
  cases x <;> simp_all [rightOr]

theorem some_of {α : Type} {d : α} {o : Option α} (h : o.isSome = true) : o = some (o.getD d) := by
  cases o <;> simp_all

theorem pair_of {α β : Type} {x : α × Option β} (h : x.2.isNone = true) : x = (x.1, none) := by
  cases x; simp_all

theorem triple_of {α β γ : Type} {x : α × β × Option γ} (h : x.2.2.isNone = true) : x = (x.1, x.2.1, none) := by
  obtain ⟨a, b, c⟩ := x; simp_all

theorem pair_eta {α β : Type} {x : α × Option β} {b : β} (h : x.2 = some b) : x = (x.1, some b) := by
  cases x; simp_all

/-- A computation that meets something. -/
theorem triple_some {α β γ : Type} {x : α × β × Option γ} {e : γ} (h : x.2.2 = some e) : x = (x.1, x.2.1, some e) := by
  obtain ⟨a, b, c⟩ := x; simp_all

def groupOk : Group → Bool
  | .pieces .. => true
  | .fault _ => false

def gotState : Got → State
  | .ok s _ => s
  | .trap s _ _ => s
def gotData : Got → List Byte
  | .ok _ l => l
  | .trap _ _ _ => []
def gotOk : Got → Bool
  | .ok _ _ => true
  | .trap _ _ _ => false
theorem got_of {x : Got} (h : gotOk x = true) : x = .ok (gotState x) (gotData x) := by
  cases x <;> simp_all [gotOk, gotState, gotData]

def ranState : Ran → State
  | .ok s => s
  | .trap s _ _ => s
def ranOk : Ran → Bool
  | .ok _ => true
  | .trap _ _ _ => false
theorem ran_of {x : Ran} (h : ranOk x = true) : x = .ok (ranState x) := by
  cases x <;> simp_all [ranOk, ranState]

/-- The next state that a meaning answers. -/
def stateOf : Out → State
  | .next t => t
  | _ => {}
theorem next_of {x : Out} (h : ∃ t, x = .next t) : x = .next (stateOf x) := by
  obtain ⟨t, rfl⟩ := h; rfl

def sampleOk (x : State × Except Nat (List Byte × Nat)) : Bool :=
  match x.2 with
  | .ok _ => true
  | .error _ => false
def sampled (x : State × Except Nat (List Byte × Nat)) : List Byte × Nat :=
  match x.2 with
  | .ok r => r
  | .error _ => ([], 0)
theorem sampled_of {x : State × Except Nat (List Byte × Nat)} (h : sampleOk x = true) :
    x = (x.1, .ok ((sampled x).1, (sampled x).2)) := by
  obtain ⟨s, e | r⟩ := x <;> simp_all [sampleOk, sampled]

/-- A store of a device that has the bytes and has lost none of them runs, whatever they are. -/
theorem storeLocal_runs {s : State} {own q x n : Nat} {data : List Byte} (hl : data.length = n)
    (h : (s.localMiss own x n).isNone = true) (h' : (s.localPartlyLost (s.physical own) x n).isNone = true) :
    ∃ t, s.storeLocal own q x data = .ok t := by
  subst hl
  unfold State.storeLocal
  generalize s.localMiss own x data.length = a at h ⊢
  cases a with
  | some a => cases h
  | none =>
    dsimp only
    generalize s.localPartlyLost (s.physical own) x data.length = b at h' ⊢
    cases b with
    | some b => cases h'
    | none => exact ⟨_, rfl⟩

theorem storeLocal_ok {s : State} {own q x n : Nat} {data : List Byte} (hl : data.length = n)
    (h : (s.localMiss own x n).isNone = true) (h' : (s.localPartlyLost (s.physical own) x n).isNone = true) :
    s.storeLocal own q x data = .ok (ranState (s.storeLocal own q x data)) := by
  obtain ⟨t, e⟩ := storeLocal_runs (q := q) hl h h'
  rw [e]
  rfl

theorem length_leBytes (n v : Nat) : (leBytes n v).length = n := by
  induction n generalizing v with
  | zero => rfl
  | succ n ih => exact congrArg (· + 1) (ih _)

theorem drained_length (c b : Nat) (g : Nat → Nat → Nat) :
    ((List.range c).flatMap fun n => (List.range 32).flatMap fun i => leBytes b (g n i)).length = c * (32 * b) := by
  simp only [List.length_flatMap, length_leBytes, List.map_const', List.sum_replicate, List.length_range, smul_eq_mul]

/-- The credits of a fresh direction are there for every class. -/
theorem credit_there (x : Fin 3) : 0 < [64, 64, 64].getD x.val 0 := by revert x; decide

theorem leNat_small (l : List Byte) : leNat l < 256 ^ l.length := by
  induction l with
  | nil => simp [leNat]
  | cons b l ih =>
    have hb := b.isLt
    simp only [leNat, List.length_cons, Nat.pow_succ]
    omega

theorem mac_length (s : State) : s.mac.length = 6 := by
  unfold State.mac State.fromEeprom
  split <;> simp [macBytes, zeros]

theorem linkLocal_fits (s : State) : (BitVec.ofNat 128 s.linkLocal).toNat = s.linkLocal := by
  have h := leNat_small ([0xFE, 0x80] ++ zeros 6 ++
    [byteAt s.mac 0 ^^^ 2, byteAt s.mac 1, byteAt s.mac 2, 0xFF, 0xFE] ++ s.mac.drop 3).reverse
  have e : ([0xFE, 0x80] ++ zeros 6 ++
    [byteAt s.mac 0 ^^^ 2, byteAt s.mac 1, byteAt s.mac 2, 0xFF, 0xFE] ++ s.mac.drop 3).reverse.length = 16 := by
    simp only [List.length_reverse, List.length_append, List.length_drop, mac_length, zeros, List.length_replicate,
      List.length_cons, List.length_nil]
  rw [e] at h
  rw [BitVec.toNat_ofNat]
  exact Nat.mod_eq_of_lt h

/-! ## Cores that decode -/

def fetchesB (k : Fin 240) (s : State) : Bool :=
  decide (((s.core (s.physical k)).state = .running ∧ (s.core (s.physical k)).halted = false ∧
      (s.core (s.physical k)).wait = .none) ∧ (s.core (s.physical k)).stopToldAt = none ∧ s.paused = false)

theorem fetches_of {k : Fin 240} {b : Block} {s : State} (h : (canonB s && fetchesB k s) = true)
    (hb : (s.core (s.physical k)).block = some b) : Fetches k b s := by
  simp only [fetchesB, Bool.and_eq_true, decide_eq_true_eq] at h
  have p := h.2
  exact
    { canonical := canonical_of h.1, running := p.1.1, decodes := p.1.2.1, free := p.1.2.2
      stays := p.2.1, unpaused := p.2.2, block := hb }

def atPc (k : Fin 240) (cls op : Nat) (w : CoreWord) (s : State) : Bool :=
  ((s.core (s.physical k)).block.any fun b => b.instrs[(s.core (s.physical k)).pc]? == some w) &&
  decide (wClass w = cls ∧ wOp w = op)

def meetsB (k : Fin 240) (cls op : Nat) (w : CoreWord) (s : State) : Bool := (canonB s && fetchesB k s) && atPc k cls op w s

theorem meets_of {k : Fin 240} {cls op : Nat} {w : CoreWord} {s : State} (h : meetsB k cls op w s = true) : Meets k cls op w s := by
  simp only [meetsB, atPc, Bool.and_eq_true (canonB s && fetchesB k s), Bool.and_eq_true (Option.any _ _), decide_eq_true_eq] at h
  have i := h.2
  obtain ⟨b, e, x⟩ := (Option.any_eq_true _ _).mp i.1
  exact { fetches := ⟨b, fetches_of h.1 e, by simpa using x⟩, cls := i.2.1, op := i.2.2 }

theorem issues_of {k : Fin 240} {cls op : Nat} {w : CoreWord} {s : State}
    (h : (meetsB k cls op w s && decide (wCount w ≠ 0 ∧ wCount w ≠ 0xFFFFFF)) = true) : Issues k cls op w s := by
  simp only [Bool.and_eq_true, decide_eq_true_eq] at h
  exact ⟨meets_of h.1, h.2.1, h.2.2⟩



/-! Log records, plans and images. -/

def logS : State := (up.setTroubleBit .wheel 1).setTroubleBit .port 0
def contBody : List Byte :=
  pay 192 [(0,4,0x4C505856),(4,2,1),(6,2,128),(8,8,192),(0x10,8,9),(0x1B,1,8),(0x1C,2,1),(0x1E,2,1),(0x20,2,1),(0x28,8,128), (128,2,1),(132,4,0x083C1000),(136,1,1),(144,8,160),(152,8,32),(160,2,6),(180,4,1),(184,4,1),(188,4,1)]
def container : List Byte := contBody.take 0x7C ++ leBytes 4 (crc32c contBody).toNat ++ contBody.drop 0x80
def withPlan : State := { up with mem := memWrite [] scratch0 container , dev := { up.dev with level := 1 } }

/-! Steps, bookings and sequences. -/

def stepF : Frame := hostFrame 0x0301 3 (pay 42 [(0,8,7),(8,2,0),(10,1,1),(32,4,4),(36,2,1),(40,2,0)])
def planF : Frame := hostFrame 0x0201 3 (leBytes 8 scratch0 ++ leBytes 8 192)
def imgHead : List Byte :=
  ascii 4 "VXCX" ++ leBytes 2 1 ++ leBytes 2 64 ++ leBytes 8 80 ++ leBytes 4 0x083C1000 ++ leBytes 2 1 ++ zeros 2 ++ leBytes 8 0 ++ zeros 32
def imgBody : List Byte := leBytes 2 0 ++ leBytes 2 0 ++ zeros 4 ++ leBytes 8 16
def image1 : List Byte := withCrc (imgHead ++ imgBody)
def withImage : State := { up with mem := memWrite [] scratch0 image1 }
def bookF : Frame := fieldFrame 0x0302 1 [(0,1,0),(2,2,1),(8,2,400),(12,4,4096),(16,4,64),(20,4,2),(24,8,4194304+65536)]
def bk (n : Nat) : Booking :=
  { id := n, context := 0, hoppers := 0, quarters := 1, shares := 0, draw := 400, period := 4096, span := 64, count := 2,
    first := 4194304, lead := 100, slip0 := 0 }
def pooled : State := up.modSeq 0 0 fun r => { r with length := 20, booked := 20, groups := 2, list := [(0,32769),(1,32770)] }
def pooledPages : State :=
  { pooled with pages := [(32768, { mapped := true, use := 1 }), (32769, { mapped := true, use := 1, index := 1 })] }
def cop : List Byte :=
  pay 104 [(0,1,5),(2,2,2),(4,4,0),(8,4,65536),(12,4,0x10000000),(16,4,65536),(28,4,600),(32,4,1),(60,2,1),(64,2,8),(66,2,2),(96,8,2^40+600*65536)]
/-- The Millpond of die 0 changes its split. -/
def heldS : State := up.modPond 0 fun d => { d with resplit := some 4 }
/-- A frame of session 3 with a number of its own. -/
abbrev numberedFrame (n : Nat) : Frame := sealFrame { hostFrame 0x0C01 3 [] with number := BitVec.ofNat 64 n }
def mapped3 : State := { up with pages := [(3, { mapped := true }), (4, { mapped := true })] }

def area0 : SeqArea := { base := scratch0 + 0x100000, capacity := 4, stride := 4, poolFirst := 2, poolCount := 1 }
/-- The pool's segment is retired. -/
def retiredS : State := { up with segCodes := [(2, 4)] }

theorem retired_barred {q : Nat} (h : q / 16384 = 2) : retiredS.pageBarred q = true := by
  have p : retiredS.page q = {} := rfl
  have r : retiredS.segRetired 2 = true := rfl
  simp only [State.pageBarred, p, h, r, Bool.or_true, Bool.not_false, Bool.and_self]

theorem find_none {f : Nat → Bool} {a n : Nat} (h : ∀ q, a ≤ q → q < a + n → f q = false) : (List.range' a n).find? f = none :=
  List.find?_eq_none.mpr fun q m => by
    rw [List.mem_range'_1] at m
    rw [h q m.1 m.2]
    exact Bool.false_ne_true

theorem poolPage_none {s : State} {a : SeqArea} {l : List Nat}
    (h : ∀ q, 16384 * a.poolFirst ≤ q → q < 16384 * a.poolFirst + 16384 * a.poolCount → s.pageBarred q = true) :
    s.poolPage a l = none := by
  unfold State.poolPage
  dsimp only
  rw [find_none fun q x y => by rw [h q x y]; simp]
  exact find_none fun q x y => by rw [h q x y]; simp

theorem retired_short : retiredS.growLane 0 0 area0 0 0 = none := by
  have e : ∀ l, retiredS.poolPage area0 l = none := fun l => poolPage_none fun q x y => by
    have x : 32768 ≤ q := x
    have y : q < 49152 := y
    exact retired_barred (by omega)
  simp only [State.growLane, e]

/-! Commands at work. -/

def waitCmd (op csn : Nat) : Cmd :=
  { csn := csn, opcode := op, frame := { opcode := BitVec.ofNat 16 op, session := 2, number := 9 } }
def psS (m : PcMode) (e : Bool) : State :=
  up.modPseudo 2 1 fun x => { x with mode := m, entering := e, context := 0, firstSeg := 0, segCount := 1, queue := [{ bytes := [], context := 0, csn := 1, action := 0, tag := 0 }] }
def runs2 : State :=
  { up with segCodes := [(257,0)] }.modContext 0 fun x => { x with grant := { x.grant with runs := [(256,4)] } }
def runF : Frame := hostFrame 0x0F04 1 (pay 82 [(6,2,1),(8,2,7),(40,8,7),(50,1,1),(72,4,4),(76,2,1)])

/-! Time, fabric and cascade. -/

def ptpHead : PtpHead :=
  { domain := 0, transmitter := 4, sequence := 3, transport := 0, source := zeros 16, logInterval := -2, fromHead := false }
def clock1 : ClockData :=
  { priority1 := 8, clockClass := 6, accuracy := 0x20, variance := 1, priority2 := 8, grandmaster := 4, steps := 1 }
def foreign1 : ForeignClock := { transmitter := 4, clock := clock1, interval := -2, heard := 2000000 }
def sync (two : Bool) : SyncMsg := { head := ptpHead, twoStep := two, offset := 5, sourceTime := 9000 }
def unset : State := { up with wheel := { ({} : Wheel) with transmitter := some 4 } }
def member : State :=
  { up with fabric := { up.fabric with member := true, id := 9, address := 3, claim := 1, key := zeros 32 } }
/-- The serial number of a peer. -/
def serial1 : List Byte := List.replicate 16 5
def beacon1 : Beacon :=
  { fabric := 9, role := 1, claim := 1, deviceState := 2, address := 7, head := 0xFFFF, serial := serial1 }
def knows : State :=
  { member with fabric := { member.fabric with routes := [(7, { beacon := some beacon1, heardAt := up.uptime })] } }
def follower : State :=
  { knows with fabric := { knows.fabric with role := 2, head := 7, headSerial := serial1, mask := 1 } }
def forward1 : Forward :=
  { headSerial := serial1, headAddress := 7, session := 4, number := 2, context := 0, params := stepF.payload }
def head : State :=
  { knows with
    fabric := { knows.fabric with role := 1, routes := [(7, { beacon := some { beacon1 with role := 2, head := 3 }, heardAt := up.uptime })] } }
def run1 : CascadeRun := { frame := runF, members := [serial1], answers := [], chosen := none, committedAt := 0 }
def ans : Answer := { member := 7, serial := serial1, session := 1, number := 1, status := 0, notchA := 9 }

/-! Copies. -/

def copyF2 : Frame := fieldFrame 0x0E05 2 [(0,2,7),(2,1,3),(8,8,196608),(16,8,65536),(24,8,65536)]
def migF : Frame := fieldFrame 0x0E06 2 [(0,2,7)]
def mapped4 : State := { knows with pages := [(3, { mapped := true }), (4, { mapped := true })] }
def copying : State :=
  mapped4.modStream 0 fun t => { t with cmds := [{ waitCmd 0x0E05 3 with address := 196608, value := 65536, count := 131072, peer := beacon1.serial }] }
def page1 : CopyMsg :=
  { sourceSerial := serial1, context := 0, csn := 3, migrate := false, destination := 196608, length := 65536,
    data := [0] }

/-- A piece in flight still uses page 5 of context 0. -/
def pageHeldS : State :=
  { up with
    pages := [(5, { mapped := true, context := 0 })]
    cores := [(0, { ({} : Core) with channels := [(1, { ({} : Channel) with
      state := .running
      flights := [{ piece := { number := 0, srcSpace := 1, srcCore := 0, src := 5 * 65536, dstSpace := 0, dstCore := 0, dst := 0,
                               length := 64, pages := [5] },
                    data := none, context := 0, tag := 0, csn := 4, noAllocate := false }] })] })] }

/-! Injections, operators, completions. -/

def inj1 : Injection := { number := 1, verb := 1, action := 1, left := 2, skip := 0 }
def ops : State :=
  { up with
    sec := { up.sec with operators := [(0, { used := true, ceiling := 1, mask := 1 }), (2, { used := true, ceiling := 1 })] } }
/-- Only one operator, who is the last of management privilege. -/
def oneOp : State := { up with sec := { up.sec with operators := [(0, { used := true, ceiling := 1, mask := 1 })] } }
def outF : OutFrame :=
  { kind := 1, opcode := 0x0C01, session := 3, context := 0, flags := 0, generation := 0, number := 5, payload := [] }
def doneCmd : Cmd :=
  { frame := { opcode := 0x0201, session := 3, number := 9 }, csn := 1, opcode := 0x0301, phase := .completed,
    completion := [1,2] }
def oneCmd (m : Cmd) : State := up.modStream 0 fun t => { t with cmds := [m] }
def stepM : Cmd := { rightOr cmd0 (up.judge 0 stepF (stepParams stepF.payload)) with csn := 4 }

/-! Core programs. -/

def word (cls op mask fm a b c n : Nat) : CoreWord :=
  BitVec.ofNat 128 (cls * 2^124 + op * 2^116 + mask * 2^100 + fm * 2^96 + a * 2^72 + b * 2^48 + c * 2^24 + n)
def blk (l : List CoreWord) : Block :=
  { context := 0, csn := 4, item := 0, action := 0, ganged := false, planId := 7, offset := 64, instrs := l }
def core0 (l : List CoreWord) : Core :=
  { state := .running, logical := 0, context := 0, csn := 4, action := 0, bank0 := some (blk l), lanes := 16, startedWork := 0 }
def coreS (x : Core) : State := { up with cores := [(0, x)] }
def run (w : CoreWord) : State := coreS (core0 [w])
def lanesOn (x : Core) : Core :=
  { x with vregs := [(0, 0x3F800000), (1, 0x40400000), (512, 0x40000000), (513, 0x40000000), (1024, 0x3F000000)] }
def runL (w : CoreWord) : State := coreS (lanesOn (core0 [w]))
def act (n : Nat) (ph : ActionPhase) : ActionRun :=
  { entry := { entry0 with action := n, units := 1, offsets := [0,0,0], windows := [15,20,25] }, phase := ph, window := 15 }
def acting (n : Nat) (ph : ActionPhase) : Cmd :=
  { stepM with phase := .booked, start := 0, rampIn := 0, promise := 0, actions := [act n ph], quarters := 1 }
def actS (m : Cmd) : State := { oneCmd m with worked := 100 }
def fillC : Cmd := { stepM with phase := .queued, cls := 2, begun := false }
def fillS : State := { oneCmd fillC with schedule := { up.schedule with fillers := [(0, 4)] } }
def planB : Plan := { plan0 with code := [[(0, 64)]], blocks := [(64, [word 0 0 0 0 0 0 0 1])] }
def blockS : State :=
  { oneCmd (acting 1 .waiting) with
    mem := memWrite [] (localKey 0 programBase) (leBytes 16 1),
    cores := [(0, { core0 [] with
      state := .idle, bank0 := none, programs := [{ context := 0, planId := 7, offset := 64, granules := [0] }] })] }.modContext 0
    fun x => { x with plans := [planB] }

/-! Streams, in-bank compute, the sampler. -/

def copyD : List Byte :=
  pay 64 [(0,1,1),(2,1,0),(3,1,1),(8,8,128),(16,8,2^40+2^25),(0x18,4,256),(0x1C,4,2),(0x20,4,256),(0x24,4,256)]
/-- The same with Signal: counter 3 of core 1 goes up by 2. -/
def signalD : List Byte :=
  pay 64 [(0,1,1),(1,1,8),(2,1,0),(3,1,1),(8,8,128),(16,8,2^40+2^25),(0x18,4,256),(0x1C,4,2),(0x20,4,256),(0x24,4,256),(0x37,1,3),(0x3C,2,1),(0x3E,2,2)]
def gatherD : List Byte :=
  pay 64 [(0,1,2),(2,1,1),(3,1,0),(8,8,2^40+2^25),(16,8,4096),(0x18,4,64),(0x1C,4,2),(0x24,4,64),(0x28,4,0),(0x2C,4,4),(0x30,2,1024),(0x32,2,1)]
def qd (b : List Byte) : QueuedDesc := { bytes := b, item := 0, entry := 0, context := 0, csn := 4, action := 0 }
def flight0 (n : Nat) (d : Option (List Byte)) : Flight :=
  { piece := { number := n, srcSpace := 0, srcCore := 0, src := 128, dstSpace := 1, dstCore := 0, dst := 2^40+2^25, length := 64 },
    data := d, context := 0, tag := 0, csn := 4, noAllocate := false }
def farFlight : Flight :=
  { piece := { number := 7, srcSpace := 1, srcCore := 0, src := scratch0, dstSpace := 0, dstCore := 0, dst := 128, length := 64 },
    data := none, context := 0, tag := 0, csn := 4, noAllocate := false }
def chanS (h : Channel) : State :=
  { coreS { core0 [] with state := .idle, channels := [(1, h)] } with contexts := (oneCmd { stepM with quarters := 1 }).contexts }
def qdesc (op len : Nat) (row : Nat) : List Byte :=
  pay 64 [(0,1,op),(2,1,1),(3,1,1),(8,4,row),(0xC,4,len),(0x14,2,1024),(0x18,4,5)]
def qe (b : List Byte) : QuernEntry := { bytes := b, context := 0, csn := 4, action := 0, tag := 0 }
def scored : QuernRun := { entry := qe (qdesc 1 2 2), rowsDone := 2, parts := [], scores := [(0, 7), (1, 9)] }
def attended : QuernRun := { entry := qe (qdesc 3 2 2), rowsDone := 2, parts := [], scores := [] }
def part1 : Part := { m := 0x3F800000, l := 0x3F800000, o := [0x3F800000, 0] }
def part2 : Part := { m := 0x40000000, l := 0x3F800000, o := [0x3F800000, 0] }
def qS (x : PseudoChannel) : State := (oneCmd stepM).modPseudo 2 1 fun _ => { x with mode := .compute, segCount := 1 }
def smp : List Byte :=
  pay 64 [(0,8,scratch0),(8,4,256),(0xC,4,2),(0x10,4,4),(0x14,1,2),(0x18,4,0x3F800000),(0x1C,4,1),(0x20,4,0x3F800000)]
def hopS (n : Nat) : State :=
  { (oneCmd { stepM with actions := [act 4 .running] }).modContext 0 fun x => { x with plans := [{ plan0 with samplers := [smp] }] } with hoppers := [(1, { running := true, context := 0, csn := 4, action := 0, item := 0, nextRow := 0, endRow := n })] }
def planS : Plan := { plan0 with samplers := [smp] }
def took : State × Except Nat (List Byte × Nat) :=
  (hopS 2).sampleAt (samplerItem smp) planS.id ((samplerItem smp).rowAt ((hopS 2).hopper 1).nextRow)
def rowConfig0 : RowConfig := { greedy := false, scale := 0x3F800000, keep := 1, mass := 0x3F800000 }
def hopLost : State := { hopS 2 with damage := [(scratch0, { kind := .uncorrectable })] }

/-! Keys, signatures and images of a module made for the witnesses. -/

/-- A key of the curve, with which an operator, the factory and the firmware of this module sign. -/
def testKey : List Byte :=
  4 :: beBytes 48 0x2c962b8458c409ccf59bdd7041c3ccd25689a2bd03a21653fc42acee1cfd38563b69a01616741d250933a9affc3970dc ++
    beBytes 48 0x16c6851b675633b9d191dd19e2aeb8d7eb228c9259e854bd2f6f6687058afffeda71d40495e55c6e1a2001e6f1e285b6
/-- The first half of the key's signatures: they share their nonce. -/
def signR : List Byte :=
  beBytes 48 0x53684d50854f78187f19be5de56c0495767ba8e5f2b270d172f4d040d307868d0c13084bd87e0d40a306a2cb0e69539d
def signedS (s : Nat) : List Byte := signR ++ beBytes 48 s

/-- A SESSION.OPEN payload of operator 0, signed over the challenge of zeros and the ephemeral key of the number 1. -/
def credential (kind s : Nat) : List Byte :=
  leBytes 2 (256 * kind) ++ zeros 34 ++ testKey ++ zeros 67 ++ signedS s
def openHead (n : Nat) : List Byte := pay 16 [(2, 2, 1024), (4, 4, 1048576), (8, 2, n)]
def openPayload : List Byte :=
  openHead 296 ++ credential 0
    0x2ac8a694782c381eb5f75863f5c76436c6b0495ac470f0d541c488863f3f68d563bc871b612e12b150da7cba8074665a

/-- An authorisation for this module, its bound value 0. -/
def authPayload (action s : Nat) (key : List Byte) : List Byte :=
  ascii 4 "VXAU" ++ leBytes 4 action ++ serial0 ++ zeros 8 ++ key ++ zeros 31 ++ signedS s
def transferPayload : List Byte :=
  openHead 552 ++ credential 1
    0x53353773a0e031ff5f811cfe343e32eac87e7f8359fbe72f3250e4a393500799049809dac02d16e749b481e4d62ecad7 ++
  authPayload 2 0x0c2c13e6001ab1557740af87890dc28a83845cd0394df27e58e3dc7381832579b989b397918576d3d33d986199f31177 testKey
/-- Clears the field defect list. -/
def clearPayload : List Byte :=
  authPayload 1 0x5681c58e5d86beb0cd987e46418789d6541a571717700a6772dc883ae06d24ebe860b3a733d541d0a7da8cbef1547e42 (zeros 97)

/-- A firmware image of version 2 and security version 1, with a body of four bytes. -/
def imageFields : List Byte :=
  ascii 4 "VXFW" ++ leBytes 2 1 ++ leBytes 2 1 ++ leBytes 4 324 ++ leBytes 4 2 ++
    beBytes 48 0x5a667d62430a8c253ebae433333904dc6e1d41dcdc479704773159b905a3ad82d2bad7762d81a366cc46fbb2e2327f5c
def imageSigned : List Byte :=
  signedS 0x64116300fb7cd13ad871741d6e537b6e3652d3cf29cf3c7ea3ec018bfabceac6e5508b3ad9dfdbf6abb3a3840012c4c1
def image0 : List Byte := imageFields ++ testKey ++ zeros 63 ++ imageSigned ++ [1, 2, 3, 4]

/-- A key wrapped under the key of zeros, with the FW.MACSEC fields before it. -/
def wrapPayload : List Byte :=
  [1, 1, 1, 0] ++ leBytes 8 5 ++ leBytes 4 6 ++ zeros 12 ++ leBytes 4 64 ++ leBytes 8 1 ++
    beBytes 48 0xa688a33a6f63c32701ec8d6356366def80c2f351015b6161e67cd76c44d6afca32236b676a471121012ce9ef5e2eca7a

def challenge0 (n : Nat) : Challenge := { bytes := zeros 32, secret := 1, given := n }

/-! Rounds, starts and links. -/

def rd : Readings :=
  { spots := List.replicate 93 (some (0x42480000, 0x42480000)), inlet := 0x41F00000, outlet := 0x42200000,
    pressure := 0x42480000, voltage := 0x42400000, current := 0x41200000, moduleDraw := 0x43FA0000,
    domainDraw := List.replicate 80 0, unpausedDraw := 0x43FA0000 }
def dec1 : Decisions :=
  { round := 1, due := 5, pause := 3, ballast := 0, byTemperature := true, byCap := false, hold := true, trip := true,
    clearTrip := false, latch := none, thermalCap := 700, hotStacks := [1], hotDies := [2], stackBands := [(1,1)],
    layerBands := [[(0,1)]], halfDuty := [1], gateOff := [3], gateOn := [4] }
/-- A start at a stage, with no bootable image unless the other slot holds the test image. -/
def staging (n : Nat) : State :=
  { ({} : State) with
    dev := { ({} : Device) with stage := n, serial := serial0 }
    sec := { ({} : Security) with slotA := {}, slotB := {}, kept := image0, firmwareKeyDigest := sha384 testKey } }
def warmS (n : Nat) : State :=
  { staging n with dev := { (staging n).dev with warm := true }, sec := { (staging n).sec with bodyDigest := some (sha384 [1, 2, 3, 4]) } }
def s1 : S1Facts :=
  { listA := true, listB := false, eepromCrcOk := true, portWidth := 0, medium := 1, negotiated := true, lane0Offered := true }
def s2 (b : Bool) : S2Facts := { readsAgree := b, badCores := [], badLanes := [] }
def s4 : S4Facts :=
  { failedLanes := [],
    records := List.replicate 5 { featureLevel := 1, protocolLow := 1, protocolHigh := 1, featureMask := 0 } }
/-- Die 2 speaks another protocol than the rest. -/
def s4apart : S4Facts :=
  { s4 with records := s4.records.set 2 { featureLevel := 1, protocolLow := 3, protocolHigh := 4, featureMask := 0 } }
/-- Every bundle of Welt link 3 has lost two lanes more than it can spare. -/
def s4ringOpen : S4Facts :=
  { s4 with failedLanes := (List.range 16).flatMap fun b => (List.range 2).map fun l => (3, b, 0, 296 + l) }
/-- So have both Sluice links. -/
def s4cutOff : S4Facts :=
  { s4 with failedLanes := [(4, 0, 0, 296), (4, 0, 0, 297), (5, 0, 1, 296), (5, 0, 1, 297)] }
/-- Stack 7 does not train. -/
def s6one : S6Facts :=
  { perStack := List.replicate 7 { trained := true, badLanes := [], lanesRepaired := 0, unrepaired := false, unreadableSegments := [] }
      ++ [{ trained := false, badLanes := [], lanesRepaired := 0, unrepaired := false, unreadableSegments := [] }] }
def withCmds100 : State := up.modStream 100 fun t => { t with cmds := [waitCmd 0x0301 3] }
/-- A packet from router 0 of die 0 to router 8 of die 1, over Welt link 0. -/
def packet0 : Packet := { source := 0, destination := 8, delivery := 0, cls := 0, last := true }
def flit0 (x : Packet) (damage : BitVec 576) : Flit :=
  { payload := 5, packet := x, sequence := 0, ack := 1023, kind := 1, creditClass := 0, credits := 0, damage := damage }
def faultedS (l : List Nat) : State :=
  { up with uptime := 20000000, dev := { up.dev with state := .faulted, faultedAt := 5, warmAt := l } }

theorem buffer_free {s : State} {n : Nat} (h : s.sec.programBuffer = 0) (hn : n ≤ 65536) : s.programHeld + n ≤ 65536 := by
  rw [State.programHeld, h, Nat.zero_sub, Nat.zero_add]
  exact hn

/-- A module with those keys that has given its first challenge and knows one operator. -/
def opening : State :=
  { up with
    sec := { up.sec with
      factoryKey := testKey, factoryKeyDigest := sha384 testKey, firmwareKeyDigest := sha384 testKey, slotA := {},
      slotB := { image := image0 }, challenges := [challenge0 up.uptime],
      operators := [(0, { used := true, ceiling := 1, mask := 1, key := testKey })] }
    sessions := up.sessions.map fun e => (e.1, { e.2 with wrapKey := zeros 32 }) }

/-! States given to the witnesses below. -/

def given1 : State :=
  { up with
    sessions := up.sessions.map fun e => (e.1, { e.2 with ending := true }) }
def given2 : State :=
  up.modSession 2 fun x => { x with held := [({ hostFrame 0x0C01 2 [] with number := 5 }, 1), ({ hostFrame 0x0C01 2 [] with number := 6 }, 1)] }
def given3 : State :=
  up.modContext 0 fun x => { x with grant := { x.grant with storeLength := 64, sliceLength := 0 } }
def given4 : State :=
  given3.noted (hostFrame 0x0504 3 (leBytes 8 scratch0 ++ leBytes 8 65536))
def given5 : State :=
  withImage.noted (hostFrame 0x0505 3 (leBytes 8 scratch0 ++ leBytes 8 80))
def given6 : State :=
  ((up.noted stepF).appendBooked 0 (rightOr cmd0 ((up.noted stepF).judge 0 stepF (stepParams stepF.payload))).slots (rightOr cmd0 ((up.noted stepF).judge 0 stepF (stepParams stepF.payload))).append).getD (up.noted stepF)
def given7 : State :=
  { up with
    journal := { up.journal with staging := [({ stream := 0, cmd := rightOr cmd0 (up.judge 0 stepF (stepParams stepF.payload)), session := 3, number := 1, answer := true })] } }
def given8 : State :=
  { up with
    journal := { up.journal with staging := [({ stream := 0, cmd := rightOr cmd0 (up.judge 0 stepF (stepParams stepF.payload)), session := 3, number := 1, answer := true, groupsBefore := [(0, 0)] })] } }
def given9 : State :=
  { up with
    journal := { up.journal with effects := [({ session := 3, number := 1, opcode := 0x0404, payload := [0, 0] })] } }
def given10 : State :=
  ({ up with schedule := { up.schedule with bookings := [bk 7, bk 8] } }).noted (fieldFrame 0x0303 1 [(0,4,7)])
def given11 : State :=
  { up with
    schedule := { up.schedule with bookings := [{ bk 7 with first := 4000000 }, bk 8] } }
def given12 : State :=
  bare.noted (hostFrame 0x0401 3 (leBytes 8 scratch0 ++ leBytes 4 2 ++ leBytes 4 3 ++ leBytes 2 1 ++ leBytes 2 2 ++ zeros 4))
def given13 : State :=
  ((given12.modContext 0 fun x => { x with area := some { base := scratch0, capacity := 2, stride := 3, poolFirst := 1, poolCount := 2 }, seqs := [] }).writeOwn scratch0 (zeros 128)).writeOwn (scratch0 + 128) ((List.replicate 6 (leBytes 4 0xFF000000)).flatten)
def given14 : State :=
  up.noted (fieldFrame 0x0402 3 [(0,4,1),(5,1,1),(6,2,2),(8,4,16),(20,4,32),(52,8,77)])
def given15 : State :=
  up.modContext 0 fun x => { x with area := some { base := scratch0 + 0x100000, capacity := 4, stride := 4, poolFirst := 2, poolCount := 0 } }
def given16 : State :=
  (pooledPages.noted (hostFrame 0x0404 3 (leBytes 4 0 ++ leBytes 4 16))).dropEntries 0 0 1 ([(1,32769)])
def given17 : State :=
  (pooledPages.growLane 0 0 ({ base := scratch0 + 0x100000, capacity := 4, stride := 4, poolFirst := 2, poolCount := 1 }) 2 0).getD pooledPages
def given18 : State :=
  ({ up with dev := { up.dev with state := .faulted } }).noted (fieldFrame 0x0503 1 [(1,1,1)])
def given19 : State :=
  up.modContext 0 fun x => { x with state := .resetting, reset := some { mode := 1, since := 2000000, session := 2, number := 0 } }
def given20 : State :=
  up.modContext 0 fun x => { x with state := .quarantined, draining := true }
def given21 : State :=
  up.noted (hostFrame 0x0602 3 (leBytes 8 scratch0 ++ leBytes 4 4 ++ zeros 4 ++ [1,2,3,4]))
def given22 : State :=
  { heldS with
    journal := { heldS.journal with transfers := [{ frame := hostFrame 0x0602 3 (leBytes 8 scratch0 ++ leBytes 4 4 ++ zeros 4 ++ [1,2,3,4]), write := true, address := scratch0, length := 4 }] } }
def given23 : State :=
  { up with
    damage := [(scratch0, { kind := .uncorrectable })],
    journal := { up.journal with transfers := [{ frame := fieldFrame 0x0601 3 [(0,8,scratch0),(8,4,16)], write := false, address := scratch0, length := 16 }] } }
def given24 : State :=
  { up with
    mem := memWrite [] (scratchBase 1 + 2^29) [5],
    ponds := [(1, { ({} : Millpond) with resplit := some 9 }), (2, { ({} : Millpond) with resplit := some 9 })] }
def given25 : State :=
  { up with
    ponds := [(1, { ({} : Millpond) with resplit := some 9 })],
    journal := { up.journal with splitReplies := [((fieldFrame 0x0603 1 [(0,1,2),(1,1,9)]), [1])] } }
def given26 : State :=
  { mapped3 with
    cores := [(0, { core0 [] with channels := [(1, { state := .running, ready := [{ (flight0 0 none).piece with pages := [3] }] })] })] }
def given27 : State :=
  (up.modStack 0 fun k => { k with sweep := some (0, 3), sweepSegment := 5 }).modStream 0 fun t => { t with cmds := [{ waitCmd 0x0801 3 with address := 5, count := 2, value := 1 }] }
def given28 : State :=
  runs2.noted (fieldFrame 0x0901 2 [(0,1,2),(1,1,1),(4,2,1),(6,2,1),(8,8,6)])
def given29 : State :=
  (psS .compute false).noted (fieldFrame 0x0901 2 [(0,1,2),(1,1,0),(8,8,2)])
def given30 : State :=
  let t := psS .plain true; { t with journal := { t.journal with modeReplies := [((fieldFrame 0x0901 2 [(0,1,2),(1,1,1),(4,2,1),(6,2,1),(8,8,2)]), 2, 2)] } }
def given31 : State :=
  let t := psS .plain true; { t with journal := { t.journal with modeReplies := [((fieldFrame 0x0901 2 [(0,1,2),(1,1,1),(4,2,1),(6,2,1),(8,8,6)]), 2, 6)] } }
def given32 : State :=
  { up with
    wheel := { up.wheel with trouble := 7 },
    freshTrouble := [(0x100024, 0)] }
def given33 : State :=
  { up with
    wheel := { ({} : Wheel) with transmitter := some 4, awaitedFollowUp := some 3 } }
def given34 : State :=
  { up with
    wheel := { up.wheel with lastPps := some 5, lastValidPps := some 5, ppsValid := true } }
def given35 : State :=
  { up with
    pins := { up.pins with ppsOut := true, ppsOutRose := 4000000 } }
def given36 : State :=
  { up with
    wheel := { up.wheel with state := .holdover, holdSince := 5, holdBound := 7 } }
def given37 : State :=
  { up with
    uptime := 16777216,
    wheel := { up.wheel with state := .acquiring, inBandSince := some 0 } }
def given38 : State :=
  { up with
    uptime := 629145600,
    wheel := { up.wheel with lockedSince := some 0 } }
def given39 : State :=
  { up with
    wheel := { up.wheel with source := 1, second := 0, ptpValid := true, lastSync := some 5, syncInterval := -3 } }
def given40 : State :=
  { up with
    wheel := { up.wheel with state := .holdover, holdSince := 5, holdBound := 2000 } }
def given41 : State :=
  { up with
    uptime := 16777300,
    wheel := { up.wheel with source := 2, second := 1, ptpValid := true, ptpValidSince := 7 } }
def given42 : State :=
  { member with
    fabric := { member.fabric with claim := 0, claimBeacons := 4 } }
def given43 : State :=
  { member with
    fabric := { member.fabric with role := 1, domain := 5 } }
def given44 : State :=
  { head with
    fabric := { head.fabric with runs := [{ run1 with chosen := some serial1, committedAt := 9 }] } }
def given45 : State :=
  { follower with
    schedule := { follower.schedule with tentative := [{ id := 1, key := forwardKey forward1, context := 0, cmd := { frame := stepF }, until_ := 9 }] } }
def given46 : State :=
  { follower with
    schedule := { follower.schedule with tentative := [{ id := 1, key := forwardKey forward1, context := 0, cmd := rightOr cmd0 (follower.judge 0 stepF (stepParams stepF.payload)), until_ := 3000000 }] } }
def given47 : State :=
  { mapped4 with
    fabric := { mapped4.fabric with checks := [(copyF2, beacon1.serial)] } }
def given48 : State :=
  { given47 with
    fabric := { given47.fabric with checks := given47.fabric.checks.filter fun e => e != (copyF2, beacon1.serial) } }
def given49 : State :=
  mapped4.modContext 0 fun x => { x with pins := [{ source := serial1, csn := 3, migrate := false, destination := 196608, length := 65536 }] }
def given50 : State :=
  { opening with
    sec := { opening.sec with staged := 1, writePosition := 324 } }
def given51 : State :=
  { opening with
    dev := { opening.dev with state := .faulted, readiness := 1 } }
def given52 : State :=
  { up with
    injections := [{ number := 1, verb := 1, action := 3, left := 1, skip := 0, lane := 7, armedAt := 9, waiting := some 1 }] }
def given53 : State :=
  { up with
    injections := [{ number := 1, verb := 1, action := 3, left := 1, skip := 0, lane := 7, armedAt := 9 }] }
def given54 : State :=
  up.noted (fieldFrame 0x1203 1 [(0,1,1),(1,1,1),(2,2,1),(4,2,5),(8,8,0x10000000)])
def given55 : State :=
  ({ up with injections := [inj1] }).noted (fieldFrame 0x1204 1 [(0,2,1)])
def given56 : State :=
  { up with
    injections := [{ inj1 with verb := 2, action := 4, heldOut := [(outF, 3, 5)] }] }
def given57 : State :=
  (up.setDomain 70 { state := .off }).noted (fieldFrame 0x1301 1 [(0,1,1),(6,10,2^70)])
def given58 : State :=
  ({ up with dev := { up.dev with state := .doze } }.setDomain 70 { state := .off, byDoze := true }).setDomain 3 { state := .off }
def given59 : State :=
  { up with
    dev := { up.dev with state := .doze },
    power := { up.power with waking := true } }
def given60 : State :=
  { ({ up with dev := { up.dev with portUp := false } }) with dev := ({ up with dev := { up.dev with portUp := false } }).dev.fitted ({ kind := 1 }) true }
def given61 : State :=
  ({ up with sec := { up.sec with required := true } }).modPort fun p => { p with unprotected := 1 }
def given62 : State :=
  up.modSession 3 fun x => { x with next := 2, kept := [{ number := 1, matchCode := matchCode (hostFrame 0x0C01 3 []), reply := some (0x0C01, 0, [1]) }] }
def given63 : State :=
  oneCmd ({ doneCmd with resultFrames := [(0,1),(1,1)], records := [(0,[1,2]),(1,[3])], shown := 1 })
def given64 : State :=
  oneCmd ({ doneCmd with sent := true, resultFrames := [(0,1)], records := [(0,[1,2])] })
def given65 : State :=
  given64.modSession (sealFrame { opcode := 0, kind := 5, session := 3, context := 0, payload := leBytes 8 0 ++ leBytes 8 0 ++ leBytes 8 1 }).session.toNat (fun x => { x with lastFrame := given64.uptime, path := (sealFrame { opcode := 0, kind := 5, session := 3, context := 0, payload := leBytes 8 0 ++ leBytes 8 0 ++ leBytes 8 1 }).path })
def given66 : State :=
  oneCmd ({ stepM with start := 0, rampIn := 0, begun := true, phase := .booked, promise := 5, endNotch := 6, actions := [act 6 .ended] })
def given67 : State :=
  (oneCmd ({ stepM with slots := [0], append := 3 })).complete 0 4 0 9 0 ({ rank := 0, status := 0 })
def given68 : State :=
  ((actS (acting 5 .waiting)).beginCmd 0 (acting 5 .waiting)).addSlip { thermal := 15 - (act 5 .waiting).entry.windows.getD (acting 5 .waiting).band 0 }
def given69 : State :=
  given68.modCmd 0 4 (fun x => { x with actions := x.actions.set 0 { (act 5 .waiting) with phase := .running, startedAt := given68.worked, window := 15, overran := 0, slowed := false, links := given68.actionLinks 0 (acting 5 .waiting) (act 5 .waiting).entry, moved := false } })
def given70 : State :=
  { oneCmd ({ acting 6 .running with actions := [act 4 .ended, act 6 .running] }) with worked := 15 }.modContext 0 fun x => { x with plans := [{ plan0 with samplers := [pay 64 [(12,4,2)]] }] }
def given71 : State :=
  { oneCmd ({ acting 6 .running with phase := .suspended, actions := [act 4 .ended, act 6 .running] }) with worked := 15 }.modContext 0 fun x => { x with plans := [{ plan0 with samplers := [pay 64 [(12,4,2)]] }] }
def given72 : State :=
  { actS (acting 1 .running) with
    cores := [(0, { core0 [word 0 5 0 0 0 0 0 1] with halted := true })] }.modContext 0 fun x => { x with plans := [planB] }
def given73 : State :=
  { oneCmd ({ acting 6 .running with records := [(0, [1,2])] }) with sessions := [] }
def given74 : State :=
  { blockS with
    damage := [(localKey 0 programBase, { kind := .uncorrectable })] }
def given75 : State :=
  coreS { core0 [word 0 4 0 0 0 0 0 0] with queues := 1, wait := .fence, openWrites := [{ queue := 0, line := 0, old := [] }, { queue := 5, line := 0, old := [] }] }
def given76 : State :=
  { run (word 0 0 0 0 0 0 0 0xFFFFFF) with
    contexts := (oneCmd stepM).contexts }
def given77 : State :=
  gotState ((run (word 1 1 2 0 1 0 0 1)).fetchLocal 0 0 (wA (word 1 1 2 0 1 0 0 1) * 64) (statBytes (wFormats (word 1 1 2 0 1 0 0 1)) 32))
def given78 : State :=
  gotState ((run (word 1 2 2 0 1 1 1 2)).fetchLocal 0 0 (wA (word 1 2 2 0 1 1 1 2) * 64) (streamBytes (wFormats (word 1 2 2 0 1 1 1 2)) 32 (wCount (word 1 2 2 0 1 1 1 2))))
def given79 : State :=
  gotState ((coreS { core0 [(word 1 3 2 0 1 1 9 1)] with arrayMode := 4 }).fetchLocal 0 0 (wA (word 1 3 2 0 1 1 9 1) * 64) (wCount (word 1 3 2 0 1 1 9 1) * 32 * elementBytes (pairA (wFormats (word 1 3 2 0 1 1 9 1)))))
def given80 : State :=
  gotState (given79.fetchLocal 0 0 (wC (word 1 3 2 0 1 1 9 1) * 64) (wCount (word 1 3 2 0 1 1 9 1) * 32 * elementBytes (pairB (wFormats (word 1 3 2 0 1 1 9 1)))))
def given81 : State :=
  coreS ({ core0 [(word 1 4 2 0 0xFFFFFF 1 2 17)] with sums := [] }.putWords 0 [])
def given82 : State :=
  ranState ((run (word 1 4 2 5 3 1 2 2)).storeLocal ((0 : Fin 240)) 0 (wA (word 1 4 2 5 3 1 2 2) * 64) ((List.range (wCount (word 1 4 2 5 3 1 2 2))).flatMap fun n => (List.range 32).flatMap fun i => leBytes (drainBytes 1) (drainValue 1 (drainRound 1 (drainBits (((run (word 1 4 2 5 3 1 2 2)).core 0).sumAt 32 1 (wBank (word 1 4 2 5 3 1 2 2)) n i) ((0 : Fin 240)) 1 n i ((((run (word 1 4 2 5 3 1 2 2)).core 0).block.map (·.planId)).getD 0) (wC (word 1 4 2 5 3 1 2 2)))) (((run (word 1 4 2 5 3 1 2 2)).core 0).sumAt 32 1 (wBank (word 1 4 2 5 3 1 2 2)) n i))))
def given83 : State :=
  gotState ((coreS { core0 [(word 1 5 2 5 3 1 2 3)] with arrayMode := 12 }).fetchLocal 0 0 (wA (word 1 5 2 5 3 1 2 3) * 64) (3 * elemBytes 1))
def given84 : State :=
  gotState (given83.fetchLocal 0 0 (wC (word 1 5 2 5 3 1 2 3) * 64) (3 * elemBytes 1))
def given85 : State :=
  gotState ((runL (word 2 0 2 0 3 1 0 1)).fetchLocal 0 1 (wA (word 2 0 2 0 3 1 0 1) * 64 + sliceAt ((runL (word 2 0 2 0 3 1 0 1)).core ((runL (word 2 0 2 0 3 1 0 1)).physical 0)).groups 0 1) 128)
def given86 : State :=
  ranState ((runL (word 2 0 3 0 3 1 0 2)).loadParts 0 (vectorParts ((runL (word 2 0 3 0 3 1 0 2)).core ((runL (word 2 0 3 0 3 1 0 2)).physical 0)) (word 2 0 3 0 3 1 0 2)))
def given87 : State :=
  ranState ((runL (word 2 1 3 0 3 1 0 2)).storeParts 0 (vectorParts ((runL (word 2 1 3 0 3 1 0 2)).core ((runL (word 2 1 3 0 3 1 0 2)).physical 0)) (word 2 1 3 0 3 1 0 2)))
def given88 : State :=
  coreS { core0 [] with channels := [(9, { queue := List.replicate 16 (qd (zeros 64)) })] }
def given89 : State :=
  { run (word 3 2 0 0 3 0 1 2) with
    contexts := (oneCmd { stepM with quarters := 1 }).contexts }
def given90 : State :=
  { coreS { core0 [(word 3 2 0 0 3 0 1 2)] with queues := 1 } with contexts := (oneCmd { stepM with quarters := 1 }).contexts }
def given91 : State :=
  { run (word 3 2 0 0 3 0 100 2) with
    contexts := (oneCmd { stepM with quarters := 1 }).contexts }
def given92 : State :=
  (coreS { core0 [] with streamQ := [.signal 0 3 2 1], queues := 1 }).onCore 0 (fun x => x.emptied 3)
def given93 : State :=
  (((chanS { state := .running, queue := [qd copyD] }).nextCopy 0 0 1 (streamDesc copyD) (({ state := .running, queue := [qd copyD] } : Channel))).1).markLinks (qd copyD).context (qd copyD).csn (qd copyD).action ((chanS { state := .running, queue := [qd copyD] }).listLinks (streamDesc copyD) 0 (({ state := .running, queue := [qd copyD] } : Channel)).cursor)
def given94 : State :=
  { chanS { state := .running, queue := [qd gatherD] } with pages := [(1, { mapped := true })], mem := memWrite [] (2^40+2^25) [1,0,0,0,1,0,0,0] }
def given95 : State :=
  ((given94.nextListed { context := if (streamDesc gatherD).noAllocate then none else some (qd gatherD).context } (qd gatherD).context 0 1 (streamDesc gatherD) (({ state := .running, queue := [qd gatherD] } : Channel))).1).markLinks (qd gatherD).context (qd gatherD).csn (qd gatherD).action (given94.listLinks (streamDesc gatherD) 0 (({ state := .running, queue := [qd gatherD] } : Channel)).cursor)
def given96 : State :=
  { chanS { state := .running, queue := [qd gatherD] } with mem := memWrite [] (2^40+2^25) [1,0,0,0,1,0,0,0] }
def given97 : State :=
  ((given96.nextListed { context := if (streamDesc gatherD).noAllocate then none else some (qd gatherD).context } (qd gatherD).context 0 1 (streamDesc gatherD) (({ state := .running, queue := [qd gatherD] } : Channel))).1).markLinks (qd gatherD).context (qd gatherD).csn (qd gatherD).action (given96.listLinks (streamDesc gatherD) 0 (({ state := .running, queue := [qd gatherD] } : Channel)).cursor)
def given98 : State :=
  (chanS { state := .running, queue := [qd copyD] }).streamFails 0 1 0 4 ({ cause := 1, space := 1, core := 0, address := 65536 })
def given99 : State :=
  (chanS { state := .running, queue := [qd copyD] }).streamFails 0 1 0 4 ({ cause := 9, space := 1, core := 0, address := 65536 })
def given100 : State :=
  chanS { state := .running, queue := [qd copyD], ready := [(flight0 0 none).piece, (flight0 1 none).piece], flights := [flight0 7 none] }
def given101 : State :=
  chanS { state := .running, queue := [qd copyD], flights := [flight0 7 none] }
def given102 : State :=
  { chanS { state := .running, queue := [qd copyD], flights := [farFlight] } with damage := [(scratch0, { kind := .uncorrectable })] }
def given103 : State :=
  chanS { state := .running, queue := [qd copyD], flights := [flight0 7 (some (zeros 64))] }
def given104 : State :=
  { chanS { state := .running, queue := [qd copyD], flights := [flight0 7 (some (zeros 64))] } with ponds := [(0, { ({} : Millpond) with resplit := some 9 })] }
def given105 : State :=
  chanS { state := .running, queue := [qd copyD], flights := [{ flight0 7 none with tag := 3 }] }
def given106 : State :=
  chanS { state := .running, queue := [qd copyD, qd copyD], cursor := 2 * 2^25 }
def given107 : State :=
  chanS { state := .running, queue := [qd signalD, qd copyD], cursor := 2 * 2^25 }
def given108 : State :=
  (given107.signal (streamDesc signalD).signalCore (streamDesc signalD).signalCounter (streamDesc signalD).increment).getD given107
def given109 : State :=
  qS { chunkIn := true, running := some { entry := qe (qdesc 1 64 2), rowsDone := 0, parts := [], scores := [] } }
def given110 : State :=
  qS { resting := true, running := some { entry := qe (qdesc 1 64 2), rowsDone := 0, parts := [], scores := [] } }
def given111 : State :=
  qS { chunkIn := true, running := some { entry := qe (qdesc 1 64 2), dropped := true, rowsDone := 0, parts := [], scores := [] } }
def given112 : State :=
  qS { chunkIn := true, running := some { entry := qe (qdesc 1 64 2), rowsDone := 4, parts := [], scores := [(3,7)] } }
def given113 : State :=
  took.1.modCmd 0 4 (fun y => { y with records := sput [] y.records (planS.firstRecord ((((hopS 2).cmd 0 4).getD cmd0).actions.map (·.entry)) 0 + 0) (sampled took).1 })
def given114 : State :=
  { hopS 2 with
    hoppers := [(1, { waiting := [({ context := 0, csn := 4, action := 1, item := 0, first := 0, stop := 2 })] })] }
def given115 : State :=
  { coreS { core0 [] with state := .preload } with damage := [(localKey 0 (0x10000000 + 192 + 16), { kind := .uncorrectable, position := 3 })] }
def given116 : State :=
  { coreS { core0 [] with state := .idle } with damage := [(localKey 0 (0x10000000 + 192 + 16), { kind := .correctable, position := 3 })] }
def given117 : State :=
  { up with
    power := { up.power with pausing := true, pauseUntil := some 5 } }
def given118 : State :=
  { up with
    pins := { up.pins with closed := false, precharging := true } }
def given119 : State :=
  { up with
    dev := { up.dev with state := .staging, quiescing := true, warm := true, stage := 0 } }
def given120 : State :=
  { staging 1 with
    sec := { (staging 1).sec with slotB := { image := image0 } } }
def given121 : State :=
  (staging 4).trainLinks ((staging 4).testUnits [5, 6] (132 * 298) ((staging 4).dev.fusedLinkLanes.map linkLaneUnit) (s4.failedLanes.map linkLaneUnit) (fun u => u.2.1 % 256)) s4
def given122 : State :=
  { staging 8 with
    dev := { (staging 8).dev with warm := true },
    sec := { (staging 8).sec with verifiedLast := zeros 448 } }
def given123 : State :=
  { staging 8 with
    dev := { (staging 8).dev with warm := true, eepromOk := false },
    sec := { (staging 8).sec with verifiedLast := zeros 448 } }
def given124 : State :=
  { staging 8 with
    sec := { (staging 8).sec with last := zeros 448, factoryKey := zeros 97, factoryKeyDigest := sha384 (zeros 97) } }
def given125 : State :=
  { coreS (core0 []) with
    dev := { up.dev with groupResets := [(0,5,0)] } }
def given126 : State :=
  { up with
    journal := { up.journal with staging := [{ stream := 0, cmd := waitCmd 0x0201 3, session := 3, number := 1 }], waitingSince := 5 } }
def given127 : State :=
  up.modLink 0 fun x => x.setBundle 0 { bToA := { nacksOwed := 1, nextSeq := 1, replay := [flit0 { packet0 with source := 8, destination := 0 } 0] } }
def given128 : State :=
  { up with
    dev := { up.dev with transit := [(1, 5, { packet0 with destination := 200 })] } }
def given129 : State :=
  up.modLink 0 fun x => x.setBundle 0 { aToB := { retraining := true, failed := [3], sparesUsed := 8, replay := [flit0 packet0 0] } }
def given130 : State :=
  { up with
    dev := { up.dev with pairs := up.dev.pairs.set 1 { next := 1, expected := 1 } } }.modLink 0 fun x => { x with storeA := [{ payload := 5, packet := packet0 }] }
def given131 : State :=
  { up with
    mem := memWrite [] scratch0 [1,2,3],
    journal := { up.journal with transfers := [{ frame := fieldFrame 0x0601 3 [(0,8,scratch0),(8,4,4)], write := false, address := scratch0, length := 4 }] } }
def given132 : State :=
  { up with
    pages := [(1, { mapped := true, context := 0 })],
    journal := { up.journal with transfers := [{ frame := fieldFrame 0x0601 1 [(0,8,2^40+8),(8,4,8)], write := false, address := 2^40+8, length := 8 }] } }
def given133 : State :=
  { up with
    journal := { up.journal with transfers := [{ frame := hostFrame 0x0602 3 (leBytes 8 scratch0 ++ leBytes 4 4 ++ zeros 4 ++ [1,2,3,4]), write := true, address := scratch0, length := 4 }] } }
def given134 : State :=
  { up with
    mem := memWrite [] 0x4003F0 (zeros 14 ++ [7,7,7,7,7,9]),
    journal := { up.journal with transfers := [{ frame := hostFrame 0x0602 1 (leBytes 8 0x4003FE ++ leBytes 4 4 ++ zeros 4 ++ [1,2,3,4]), write := true, address := 0x4003FE, length := 4 }] } }
def given135 : State :=
  { up with
    damage := [(scratch0, { kind := .uncorrectable })],
    journal := { up.journal with transfers := [{ frame := hostFrame 0x0602 3 (leBytes 8 scratch0 ++ leBytes 4 4 ++ zeros 4 ++ [1,2,3,4]), write := true, address := scratch0, length := 4 }] } }
def given136 : State :=
  oneCmd ({ waitCmd 0x0801 3 with address := 5, count := 2, value := 2, phase := .working })
def given137 : State :=
  oneCmd ({ waitCmd 0x0801 3 with address := 5, count := 2, value := 2, phase := .working, lost := 1, firstLost := 77 })
def given138 : State :=
  { up with
    wheel := { up.wheel with first := 2, source := 2, lastPps := some 5, ppsValid := true } }
def given139 : State :=
  { up with
    wheel := { up.wheel with nextSource := some { cfg := 9, ptp := 3, asymmetry := -5, unicast := zeros 16 } } }
def given140 : State :=
  mapped4.modStream 0 fun t => { t with cmds := [({ waitCmd 0x0E05 3 with address := 196608, value := 65536, count := 65536, peer := serial1, phase := .working, progress := 1 })] }
def given141 : State :=
  (given140.complete 0 3 0 given140.now 0 { rank := 0, status := 0 }).replayStep
def given142 : State :=
  { up with
    injections := [{ number := 1, verb := 3, action := 1, left := 0, skip := 0, link := 1, lane := 1, address := 0x10000000, position := 5, armedAt := 9, waiting := some 1 }] }
def given143 : State :=
  { up with
    injections := [{ number := 1, verb := 3, action := 1, left := 0, skip := 0, link := 0, lane := 0, address := 0x400040, position := 5, armedAt := 9 }] }
def given144 : State :=
  { up with
    journal := { up.journal with effects := [{ session := 2, number := 1, opcode := 0x1303, payload := [] }] },
    power := { up.power with dozeDue := [(2, 1, [78], false)] } }
def given145 : State :=
  { up with
    dev := { up.dev with state := .doze },
    power := { up.power with dozeDue := [(2, 1, [78], true)] } }
def given146 : State :=
  { ({ up with dev := { up.dev with portUp := false } }) with dev := ({ up with dev := { up.dev with portUp := false } }).dev.fitted ({ kind := 2, width := 1 }) false }
def given147 : State :=
  { (up.setDomain 76 { state := .off }) with dev := (up.setDomain 76 { state := .off }).dev.fitted ({ kind := 1 }) false }
def given148 : State :=
  up.modSession 3 fun x => { x with next := 2, kept := [{ number := 1, matchCode := 7, reply := some (0x0C01, 0, [1]) }] }
def given149 : State :=
  up.modSession 3 fun x => { x with next := 2, kept := [{ number := 1, matchCode := 7, reply := none }] }
def given150 : State :=
  (oneCmd ({ waitCmd 0x0504 3 with address := scratch0, phase := .working })).modContext 0 fun x => { x with grant := { x.grant with storeLength := 64, sliceLength := 0 } }
def given151 : State :=
  ((((given150.image 0).1).partlyLost {} scratch0 ((given150.image 0).2.1).length).1).writeDevice {} scratch0 ((given150.image 0).2.1)
def given152 : State :=
  { oneCmd ({ waitCmd 0x0505 3 with address := scratch0, count := 80, phase := .working }) with mem := memWrite [] scratch0 image1 }
def given153 : State :=
  ((((given152.readDevice {} scratch0 80).1).firstLocalLost (((given152.readDevice {} scratch0 80).1).imagePlaces ((imageRecords ((given152.readDevice {} scratch0 80).2.1)).getD []))).1).applyImage ((imageRecords ((given152.readDevice {} scratch0 80).2.1)).getD [])
def given154 : State :=
  { hopS 2 with
    hoppers := [(1, { running := true, dropped := true, context := 0, csn := 99 })] }
def given155 : State :=
  ((((({ up with mem := memWrite [] scratch0 [5, 0, 8] }).readDevice {} scratch0 16).1).readDevice {} (scratch0 + 16) 48).1)
def given156 : State :=
  { up with
    mem := memWrite [] scratch0 (pay 80 [(0,2,5),(2,1,3),(8,4,0x3F800000),(12,4,1),(16,4,0x3F800000),(64,4,0x3F800000),(68,4,0x40000000)]) }
def given157 : State :=
  (staging 4).trainLinks ((staging 4).testUnits [5, 6] (132 * 298) ((staging 4).dev.fusedLinkLanes.map linkLaneUnit) (s4apart.failedLanes.map linkLaneUnit) (fun u => u.2.1 % 256)) s4apart
def given158 : State :=
  (staging 4).trainLinks ((staging 4).testUnits [5, 6] (132 * 298) ((staging 4).dev.fusedLinkLanes.map linkLaneUnit) (s4ringOpen.failedLanes.map linkLaneUnit) (fun u => u.2.1 % 256)) s4ringOpen
def given159 : State :=
  (staging 4).trainLinks ((staging 4).testUnits [5, 6] (132 * 298) ((staging 4).dev.fusedLinkLanes.map linkLaneUnit) (s4cutOff.failedLanes.map linkLaneUnit) (fun u => u.2.1 % 256)) s4cutOff
def given160 : State :=
  { up with
    dev := { up.dev with state := .staging, stage := 9, warm := true } }
def given161 : State :=
  ({ actS (acting 1 .running) with cores := [(0, core0 [])] }).resetGroup 0
def given162 : State :=
  ({ actS (acting 1 .running) with cores := [(0, core0 [])] }).resetDie 0 4 [(0, 3)]
def given163 : State :=
  { actS (acting 1 .running) with
    dev := { up.dev with replaying := some 0 } }

set_option maxRecDepth 4000
set_option Elab.async false

/-! ## Witnesses: what meets the hypotheses of each statement's clauses -/

theorem witness_AnEmptyQueuePassesANotch :
    ∃ (s : State), s.pending = [] :=
  ⟨up, by decide +kernel⟩

theorem witness_EveryCommandAnswersANextState :
    ∃ (i : Instr) (s t : State), s.Canonical ∧ exec i s = .next t :=
  ⟨.idleNotch, up, stateOf (exec .idleNotch up), canonical_of (by decide +kernel), next_of (by exact ⟨_, rfl⟩)⟩

theorem witness_EveryStepKeepsTheStateCanonical :
    ∃ (s t : State), s.Canonical ∧ step s = .next t :=
  ⟨up, stateOf (step up), canonical_of (by decide +kernel), next_of (by exact ⟨_, rfl⟩)⟩

theorem witness_SessionsAreOpened :
    (∃ (f : Frame) (s : State) (e : Challenge), Arrives f s ∧ f.kind = 0 ∧ f.opcode = 0x0101 ∧ f.session = 0 ∧ formCheck 0x0101
      f.payload = none ∧ s.helloAllowed = true ∧ s.freshChallenge = e) ∧
    (∃ (f : Frame) (s : State) (p c slot e : _), Arrives f s ∧ f.kind = 0 ∧ f.opcode = 0x0102 ∧ f.session = 0 ∧ formCheck 0x0102
      f.payload = none ∧ f.payload = p ∧ le p 0 1 = c ∧ le p 16 1 = slot ∧ (c ≤ 63 ∨ (c = 255 ∧ le p 1 1 = 1)) ∧ le p 1 1 ≤ 1 ∧ 1024
      ≤ le p 2 2 ∧ le p 2 2 ≤ 8704 ∧ 1048576 ≤ le p 4 4 ∧ le p 4 4 ≤ 1073741824 ∧ slot ≤ 15 ∧ s.challengeOf (slice p 20 32) = some
      e) ∧
    (∃ (f : Frame) (s : State) (p c slot e : _), Arrives f s ∧ f.kind = 0 ∧ f.opcode = 0x0102 ∧ f.session = 0 ∧ formCheck 0x0102
      f.payload = none ∧ f.payload = p ∧ le p 0 1 = c ∧ le p 16 1 = slot ∧ (c ≤ 63 ∨ (c = 255 ∧ le p 1 1 = 1)) ∧ le p 1 1 ≤ 1 ∧ 1024
      ≤ le p 2 2 ∧ le p 2 2 ≤ 8704 ∧ 1048576 ≤ le p 4 4 ∧ le p 4 4 ≤ 1073741824 ∧ slot ≤ 15 ∧ s.challengeOf (slice p 20 32) = some e
      ∧ le p 8 2 = 296 ∧ le p 17 1 = 0 ∧ (s.sec.operator slot).used = true ∧ s.credentialSigned p (s.sec.operator slot).key = true ∧
      le p 1 1 ≤ (s.sec.operator slot).ceiling ∧ (c = 255 ∨ (s.sec.operator slot).mask.getLsbD c = true) ∧ s.openSessions < 256) ∧
    (∃ (f : Frame) (s : State) (p c slot e : _), Arrives f s ∧ f.kind = 0 ∧ f.opcode = 0x0102 ∧ f.session = 0 ∧ formCheck 0x0102
      f.payload = none ∧ f.payload = p ∧ le p 0 1 = c ∧ le p 16 1 = slot ∧ (c ≤ 63 ∨ (c = 255 ∧ le p 1 1 = 1)) ∧ le p 1 1 ≤ 1 ∧ 1024
      ≤ le p 2 2 ∧ le p 2 2 ≤ 8704 ∧ 1048576 ≤ le p 4 4 ∧ le p 4 4 ≤ 1073741824 ∧ slot ≤ 15 ∧ s.challengeOf (slice p 20 32) = some e
      ∧ le p 8 2 = 552 ∧ le p 17 1 = 1 ∧ s.authorised p 312 2 s.sec.operatorSequence = true ∧ s.credentialSigned p (slice p 344 97)
      = true) :=
  ⟨⟨sealFrame { opcode := 0x0101, payload := zeros 8 }, up, up.freshChallenge, arrives_of (sealed _) (by decide +kernel), and4
      (by decide +kernel) ⟨by decide +kernel, rfl⟩⟩,
    ⟨sealFrame { opcode := 0x0102, payload := openPayload }, opening, openPayload, 0, 0, challenge0 opening.uptime, arrives_of
      (sealed _) (by decide +kernel), by decide +kernel⟩,
    ⟨sealFrame { opcode := 0x0102, payload := openPayload }, opening, openPayload, 0, 0, challenge0 opening.uptime, arrives_of
      (sealed _) (by decide +kernel), by decide +kernel⟩,
    ⟨sealFrame { opcode := 0x0102, payload := transferPayload }, opening, transferPayload, 0, 0, challenge0 opening.uptime,
      arrives_of (sealed _) (by decide +kernel), by decide +kernel⟩⟩

theorem witness_SessionsEnd :
    (∃ (f : Frame) (s : State), Delivered 0x0103 f s) ∧
    (∃ (sid : Nat) (s : State), s.Canonical ∧ (s.session sid).isOpen = true ∧ (s.session sid).lastFrame + (s.session
      sid).idleTimeout ≤ s.uptime) ∧
    (∃ (sid : Nat) (s : State), s.Canonical ∧ s.dev.state ≠ .off ∧ (s.session sid).ending = true ∧ s.pending = []) ∧
    (∃ (s : State), s.Canonical) :=
  ⟨⟨hostFrame 0x0103 3 [], up, delivered_of (sealed _) (by decide +kernel)⟩,
    ⟨2, up, canonical_of (by decide +kernel), by decide +kernel⟩,
    ⟨3, given1, canonical_of (by decide +kernel), by decide +kernel⟩,
    ⟨given2, canonical_of (by decide +kernel)⟩⟩

theorem witness_ReadsChangeNothing :
    (∃ (f : Frame) (s : State), Delivered 0x0C01 f s) ∧
    (∃ (f : Frame) (s : State) (c : Nat), Delivered 0x0C02 f s ∧ le f.payload 0 1 = c ∧ (c = 255 ∨ (c ≤ 63 ∧ s.ctxState c ≠ .free))) ∧
    (∃ (f : Frame) (s : State) (first n : Nat), Delivered 0x0B01 f s ∧ le f.payload 0 8 = first ∧ le f.payload 8 2 = n ∧ 1 ≤ n ∧ n ≤
      64 ∧ 64 * n + 56 ≤ (s.session f.session.toNat).maxPayload ∧ s.oldestRecord ≤ first ∧ first + n ≤ s.logNext) ∧
    (∃ (f : Frame) (s : State), Delivered 0x1101 f s ∧ legalDevice 0x1101 s = none) ∧
    (∃ (f : Frame) (s u : State) (c : Nat), Acts 0x1102 f s u c ∧ legalDevice 0x1102 u = none) :=
  ⟨⟨hostFrame 0x0C01 3 [], up, delivered_of (sealed _) (by decide +kernel)⟩,
    ⟨hostFrame 0x0C02 3 (zeros 8), up, 0, delivered_of (sealed _) (by decide +kernel), by decide +kernel⟩,
    ⟨hostFrame 0x0B01 3 (leBytes 8 1 ++ leBytes 8 2), logS, 1, 2, delivered_of (sealed _) (by decide +kernel), by decide +kernel⟩,
    ⟨hostFrame 0x1101 3 [], up, delivered_of (sealed _) (by decide +kernel), by decide +kernel⟩,
    ⟨hostFrame 0x1102 3 (zeros 32), up, up.noted (hostFrame 0x1102 3 (zeros 32)), 0, acts_of (sealed _) (by decide +kernel),
      by decide +kernel⟩⟩

theorem witness_RegReadIsASnapshot :
    (∃ (f : Frame) (s : State) (a n : Nat), Delivered 0x0A01 f s ∧ le f.payload 0 4 = a ∧ le f.payload 4 2 = n ∧ 1 ≤ n ∧ n ≤ 256 ∧ 4
      * n + 40 ≤ (s.session f.session.toNat).maxPayload ∧ a % 4 = 0 ∧ firstUnmappedReg a n = none ∧ s.dev.state ≠ .latched) ∧
    (∃ (f : Frame) (s : State) (a n : Nat), Delivered 0x0A01 f s ∧ le f.payload 0 4 = a ∧ le f.payload 4 2 = n ∧ 1 ≤ n ∧ n ≤ 256 ∧ 4
      * n + 40 ≤ (s.session f.session.toNat).maxPayload ∧ a % 4 = 0 ∧ firstUnmappedReg a n = none ∧ s.dev.state ≠ .latched ∧ (¬(a ≤
      0x100000 ∧ 0x100000 < a + 4 * n))) ∧
    (∃ (f : Frame) (s : State) (a n : Nat), Delivered 0x0A01 f s ∧ le f.payload 0 4 = a ∧ le f.payload 4 2 = n ∧ 1 ≤ n ∧ n ≤ 256 ∧ 4
      * n + 40 ≤ (s.session f.session.toNat).maxPayload ∧ a % 4 = 0 ∧ firstUnmappedReg a n = none ∧ s.dev.state ≠ .latched ∧ (a ≤
      0x100000 ∧ 0x100000 < a + 4 * n)) :=
  ⟨⟨hostFrame 0x0A01 1 (leBytes 4 0x100000 ++ leBytes 4 2), up, 0x100000, 2, delivered_of (sealed _) (by decide +kernel),
      by decide +kernel⟩,
    ⟨hostFrame 0x0A01 1 (leBytes 4 0x200008 ++ leBytes 4 1), up, 0x200008, 1, delivered_of (sealed _) (by decide +kernel),
      by decide +kernel⟩,
    ⟨hostFrame 0x0A01 1 (leBytes 4 0x100000 ++ leBytes 4 2), up, 0x100000, 2, delivered_of (sealed _) (by decide +kernel),
      by decide +kernel⟩⟩

theorem witness_PlansAndImagesAreStaged :
    (∃ (f : Frame) (s u v : State) (c a n : Nat) (data : List Byte) (p : Plan), Acts 0x0201 f s u c ∧ le f.payload 0 8 = a ∧ le
      f.payload 8 8 = n ∧ 0 < n ∧ n ≤ 268435456 ∧ a % 64 = 0 ∧ u.planOutside c a n = false ∧ u.windowRefusal a n = none ∧
      u.accessHeld a n = false ∧ u.readDevice {} a n = (v, data, none) ∧ le data 8 8 = n ∧ parsePlan data (v.against c) = .inr p ∧
      firstFailing (planChecks c p v) = none) ∧
    (∃ (i : Instr) (f : Frame) (s u : State) (c op a n : Nat), ((i = .planLoad f ∧ op = 0x0201 ∧ 0 < n ∧ n ≤ 268435456) ∨ (i =
      .ctxRestore f ∧ op = 0x0505 ∧ 64 ≤ n ∧ n ≤ imageLimit)) ∧ Acts op f s u c ∧ le f.payload 0 8 = a ∧ le f.payload 8 8 = n ∧ a %
      64 = 0 ∧ u.planOutside c a n = false ∧ u.windowRefusal a n = none ∧ u.accessHeld a n = true) ∧
    (∃ (i : Instr) (f : Frame) (s u : State) (c op a n : Nat), ((i = .planLoad f ∧ op = 0x0201 ∧ 0 < n ∧ n ≤ 268435456) ∨ (i =
      .ctxRestore f ∧ op = 0x0505 ∧ 64 ≤ n ∧ n ≤ imageLimit)) ∧ Acts op f s u c ∧ le f.payload 0 8 = a ∧ le f.payload 8 8 = n ∧ a %
      64 = 0 ∧ u.planOutside c a n = false ∧ u.windowRefusal a n = none ∧ u.accessHeld a n = true) ∧
    (∃ (f : Frame) (s : State) (c id : Nat), Delivered 0x0202 f s ∧ s.boundTo f = c ∧ le f.payload 0 8 = id ∧ legal 0x0202 c s =
      none ∧ (s.plan c id).isSome = true ∧ s.planInUse c id = false) ∧
    (∃ (f : Frame) (s u : State) (c a room : Nat), Acts 0x0504 f s u c ∧ le f.payload 0 8 = a ∧ le f.payload 8 8 = room ∧ 0 < room ∧
      room < 18446744073709551615 ∧ u.imageLength c ≤ room ∧ a % 64 = 0 ∧ u.firstUnmapped a (u.imageLength c) = none ∧
      u.inFailedStack a (u.imageLength c) = false ∧ u.firstForeign c a (u.imageLength c) true = none ∧ legal 0x0504 c u = none ∧ (∀
      k ∈ u.grantCores c, (u.imageRegions c k).length ≤ 16) ∧ flowCheck c u = none) ∧
    (∃ (f : Frame) (s u v : State) (c a n : Nat) (data : List Byte) (l : List CoreRecord), Acts 0x0505 f s u c ∧ le f.payload 0 8 =
      a ∧ le f.payload 8 8 = n ∧ 64 ≤ n ∧ n ≤ imageLimit ∧ a % 64 = 0 ∧ u.planOutside c a n = false ∧ u.windowRefusal a n = none ∧
      u.accessHeld a n = false ∧ u.readDevice {} a n = (v, data, none) ∧ imageRecords data = some l ∧ firstFailing (restoreChecks c
      l v) = none) :=
  ⟨⟨planF, withPlan, withPlan.noted planF, ((withPlan.noted planF).readDevice {} scratch0 192).1, 0, scratch0, 192,
      ((withPlan.noted planF).readDevice {} scratch0 192).2.1, rightOr plan0 (parsePlan (((withPlan.noted planF).readDevice {}
      scratch0 192).2.1) ((((withPlan.noted planF).readDevice {} scratch0 192).1).against 0)), acts_of (sealed _)
      (by decide +kernel), and4 (by decide +kernel) (and4 (by decide +kernel) ⟨triple_of (by decide +kernel), by decide +kernel,
      right_of (by decide +kernel), by decide +kernel⟩)⟩,
    ⟨.planLoad planF, planF, heldS, heldS.noted planF, 0, 0x0201, scratch0, 192, by decide +kernel, acts_of (sealed _)
      (by decide +kernel), by decide +kernel⟩,
    ⟨.ctxRestore (hostFrame 0x0505 3 (leBytes 8 scratch0 ++ leBytes 8 80)), hostFrame 0x0505 3 (leBytes 8 scratch0 ++ leBytes 8 80),
      heldS, heldS.noted (hostFrame 0x0505 3 (leBytes 8 scratch0 ++ leBytes 8 80)), 0, 0x0505, scratch0, 80, by decide +kernel,
      acts_of (sealed _) (by decide +kernel), by decide +kernel⟩,
    ⟨hostFrame 0x0202 3 (leBytes 8 7), up, 0, 7, delivered_of (sealed _) (by decide +kernel), by decide +kernel⟩,
    ⟨hostFrame 0x0504 3 (leBytes 8 scratch0 ++ leBytes 8 65536), given3, given4, 0, scratch0, 65536, acts_of (sealed _)
      (by decide +kernel), by decide +kernel⟩,
    ⟨hostFrame 0x0505 3 (leBytes 8 scratch0 ++ leBytes 8 80), withImage, given5, (given5.readDevice {} scratch0 80).1, 0, scratch0,
      80, (given5.readDevice {} scratch0 80).2.1, (imageRecords ((given5.readDevice {} scratch0 80).2.1)).getD [], acts_of (sealed
      _) (by decide +kernel), and4 (by decide +kernel) (and4 (by decide +kernel) ⟨triple_of (by decide +kernel), some_of
      (by decide +kernel), by decide +kernel⟩)⟩⟩

theorem witness_StepsAreAdmittedAndJournaled :
    (∃ (f : Frame) (s u v : State) (c : Nat) (q : StepParams) (m : Cmd), Acts 0x0301 f s u c ∧ stepParams f.payload = q ∧ 0 <
      q.count ∧ firstFailing (stepForm c 0 q u ++ stepState c q u ++ [flowCheck c u]) = none ∧ u.judge c f q = .inr m ∧
      u.appendBooked c m.slots m.append = some v) ∧
    (∃ (s : State) (x : Staged) (l : List Staged) (sid b : Nat), s.Canonical ∧ s.journal.effectDue = none ∧ s.journal.staging = x ::
      l ∧ x.cmd.opcode = 0x0301 ∧ x.cmd.forwarded = none ∧ x.answer = true ∧ s.Plain ∧ x.stream < 64 ∧ x.session = sid ∧ (s.session
      sid).isOpen = true ∧ (s.session sid).context = b) ∧
    (∃ (s : State) (x : Staged) (l : List Staged) (sid b : Nat), s.Canonical ∧ s.journal.effectDue = none ∧ s.journal.staging = x ::
      l ∧ x.cmd.opcode = 0x0301 ∧ x.cmd.forwarded = none ∧ x.answer = true ∧ s.Plain ∧ x.stream < 64 ∧ x.session = sid ∧ (s.session
      sid).isOpen = true ∧ (s.session sid).context = b ∧ x.groupsBefore.map (·.1) = x.cmd.slots) ∧
    (∃ (s : State) (e : Effect) (l : List Effect), s.Canonical ∧ s.journal.effects = e :: l ∧ (e.behind = 0 ∨ s.journal.staging =
      []) ∧ s.Plain ∧ (s.session e.session).isOpen = true ∧ (s.session e.session).endAfter ≠ some e.number) :=
  ⟨⟨stepF, up, up.noted stepF, given6, 0, stepParams stepF.payload, rightOr cmd0 ((up.noted stepF).judge 0 stepF (stepParams
      stepF.payload)), acts_of (sealed _) (by decide +kernel), and3 (by decide +kernel) ⟨right_of (by decide +kernel), some_of
      (by decide +kernel)⟩⟩,
    ⟨given7,
      { stream := 0, cmd := rightOr cmd0 (up.judge 0 stepF (stepParams stepF.payload)), session := 3, number := 1, answer := true },
      [], 3, 0, canonical_of (by decide +kernel), and4 (by decide +kernel) ⟨by decide +kernel, plain_of (by decide +kernel),
      by decide +kernel⟩⟩,
    ⟨given8,
      { stream := 0, cmd := rightOr cmd0 (up.judge 0 stepF (stepParams stepF.payload)), session := 3, number := 1, answer := true, groupsBefore := [(0, 0)] },
      [], 3, 0, canonical_of (by decide +kernel), and4 (by decide +kernel) ⟨by decide +kernel, plain_of (by decide +kernel),
      by decide +kernel⟩⟩,
    ⟨given9, { session := 3, number := 1, opcode := 0x0404, payload := [0, 0] }, [], canonical_of (by decide +kernel), and2
      (by decide +kernel) ⟨plain_of (by decide +kernel), by decide +kernel⟩⟩⟩

theorem witness_AdmissionPromisesWhatItBooks :
    ∃ (s : State) (c : Nat) (f : Frame) (q : StepParams) (m : Cmd), s.judge c f q = .inr m :=
  ⟨up, 0, stepF, stepParams stepF.payload, rightOr cmd0 (up.judge 0 stepF (stepParams stepF.payload)), right_of
      (by decide +kernel)⟩

theorem witness_BookingsAreMadeAndTaken :
    (∃ (f : Frame) (s u : State) (c : Nat) (p : List Byte) (b : Booking), Acts 0x0302 f s u c ∧ f.payload = p ∧ b =
      { id := s.schedule.nextBooking, context := le p 0 1, hoppers := le p 1 1, quarters := le p 2 2, shares := le p 4 4, draw := le p 8 2, period := le p 12 4, span := le p 16 4, count := le p 20 4, first := u.scheduled (le p 24 8), lead := bookingLead (le p 8 2), slip0 := u.schedule.slip.total, due := some (f.session.toNat, f.number.toNat) }
      ∧ 0 < b.span ∧ 0 < b.count ∧ 1024 ≤ b.period ∧ b.period ≤ 67108864 ∧ b.span + b.lead ≤ b.period ∧ b.span < 4294967295 ∧
      b.count < 4294967295 ∧ b.context ≤ 63 ∧ b.hoppers ≤ 15 ∧ 320 ≤ b.draw ∧ b.draw ≤ 2400 ∧ u.now + 16 ≤ le p 24 8 ∧ le p 24 8 ≤
      u.now + 67108864 ∧ legalDevice 0x0302 u = none ∧ (u.ctxState b.context = .open ∨ u.ctxState b.context = .loaded ∨ u.ctxState
      b.context = .active) ∧ (∀ k, k < b.count → u.bookingOverCap b k = false ∧ u.bookingClash b k = 0) ∧
      ((u.schedule.bookings.filter fun x => x.only.isNone && !u.bookingOver x).length < 256)) ∧
    (∃ (f : Frame) (s u : State) (c n : Nat), Acts 0x0303 f s u c ∧ le f.payload 0 4 = n ∧ (u.booking n).isSome = true ∧ legalDevice
      0x0303 u = none) ∧
    (∃ (s : State) (n : Nat) (b : Booking), b ∈ s.schedule.bookings ∧ b.id = n ∧ s.bookingOver b = true) :=
  ⟨⟨bookF, up, up.noted bookF, 255, bookF.payload,
      { id := up.schedule.nextBooking, context := 0, hoppers := 0, quarters := 1, shares := 0, draw := 400, period := 4096, span := 64, count := 2, first := (up.noted bookF).scheduled (4194304+65536), lead := bookingLead 400, slip0 := (up.noted bookF).schedule.slip.total, due := some (bookF.session.toNat, bookF.number.toNat) },
      acts_of (sealed _) (by decide +kernel), by decide +kernel⟩,
    ⟨fieldFrame 0x0303 1 [(0,4,7)], { up with schedule := { up.schedule with bookings := [bk 7, bk 8] } }, given10, 255, 7, acts_of
      (sealed _) (by decide +kernel), by decide +kernel⟩,
    ⟨given11, 7, { bk 7 with first := 4000000 }, by decide +kernel⟩⟩

theorem witness_SequencesKeepTheirSlots :
    (∃ (f : Frame) (s u v : State) (c : Nat) (p : List Byte) (a : SeqArea), Acts 0x0401 f s u c ∧ f.payload = p ∧ a =
      { base := le p 0 8, capacity := le p 8 4, stride := le p 12 4, poolFirst := le p 16 2, poolCount := le p 18 2 } ∧ 0 <
      a.capacity ∧ a.capacity ≤ 65536 ∧ a.stride ≤ 1048576 ∧ a.poolFirst ≤ 1023 ∧ a.poolFirst + a.poolCount ≤ 1024 ∧ a.base % 64 = 0
      ∧ legal 0x0401 c u = none ∧ (∀ e ∈ (u.context c).seqs, e.2.isOpen = false) ∧ (u.grant c).holdsScratch a.base (64 * a.capacity
      + 4 * a.stride * a.capacity) = true ∧ (∀ g, a.poolFirst ≤ g → g < a.poolFirst + a.poolCount → (u.grant c).holdsSegment g =
      true) ∧ (u.areaSums c).1 + a.capacity ≤ 65536 ∧ (u.areaSums c).2 + a.capacity * a.stride ≤ 134217728 ∧ (v = ((u.modContext c
      fun x => { x with area := some a, seqs := [] }).writeOwn a.base (zeros (64 * a.capacity))).writeOwn (a.base + 64 * a.capacity)
      ((List.replicate (a.capacity * a.stride) (leBytes 4 0xFF000000)).flatten))) ∧
    (∃ (f : Frame) (s u : State) (c j : Nat) (p : List Byte) (r : SeqSlot), Acts 0x0402 f s u c ∧ f.payload = p ∧ le p 0 4 = j ∧
      seqRecord p = r ∧ j < (u.context c).capacity ∧ badRecord p r (u.context c).stride = none ∧ legal 0x0402 c u = none ∧ (u.seq c
      j).isOpen = false ∧ (r.home = 2 → (u.pseudo r.stack r.pc).mode = .compute ∧ (u.pseudo r.stack r.pc).context = c ∧ quernRows r
      u = none)) ∧
    (∃ (f : Frame) (s u : State) (c j n groups : Nat), Acts 0x0403 f s u c ∧ le f.payload 0 4 = j ∧ le f.payload 4 4 = n ∧ 0 < n ∧ n
      ≤ 1048576 ∧ j < (u.context c).capacity ∧ legal 0x0403 c u = none ∧ (u.seq c j).isOpen = true ∧ n ≤ (u.seq c j).limit ∧ (u.seq
      c j).groupsFor n = groups) ∧
    (∃ (f : Frame) (s u : State) (c j n groups : Nat), Acts 0x0403 f s u c ∧ le f.payload 0 4 = j ∧ le f.payload 4 4 = n ∧ 0 < n ∧ n
      ≤ 1048576 ∧ j < (u.context c).capacity ∧ legal 0x0403 c u = none ∧ (u.seq c j).isOpen = true ∧ n ≤ (u.seq c j).limit ∧ (u.seq
      c j).groupsFor n = groups ∧ (u.grow c j groups).isSome = true) ∧
    (∃ (f : Frame) (s u : State) (c j n groups : Nat), Acts 0x0403 f s u c ∧ le f.payload 0 4 = j ∧ le f.payload 4 4 = n ∧ 0 < n ∧ n
      ≤ 1048576 ∧ j < (u.context c).capacity ∧ legal 0x0403 c u = none ∧ (u.seq c j).isOpen = true ∧ n ≤ (u.seq c j).limit ∧ (u.seq
      c j).groupsFor n = groups ∧ u.grow c j groups = none) ∧
    (∃ (f : Frame) (s u v w : State) (c j n : Nat) (gone : List (Nat × Nat)), Acts 0x0404 f s u c ∧ le f.payload 0 4 = j ∧ le
      f.payload 4 4 = n ∧ n < 4294967295 ∧ j < (u.context c).capacity ∧ legal 0x0404 c u = none ∧ (u.seq c j).isOpen = true ∧ n ≤
      (u.seq c j).length ∧ u.named c j = false ∧ (u.seq c j).above (u.context c).stride ((u.seq c j).groupsFor n) = gone ∧
      u.dropEntries c j ((u.seq c j).groupsFor n) gone = v ∧ (v.modSeq c j (fun r => { r with length := n, booked := n }) = w) ∧ (∀
      g ∈ gone, w.pageInUse g.2 = false)) ∧
    (∃ (f : Frame) (s u v : State) (c j : Nat) (pages : List Nat), Acts 0x0405 f s u c ∧ le f.payload 0 4 = j ∧ j < (u.context
      c).capacity ∧ legal 0x0405 c u = none ∧ (u.seq c j).isOpen = true ∧ u.named c j = false ∧ (((u.seq c j).list.map fun e => e.2
      - 1) = pages) ∧ (u.modSeq c j (fun _ => {}) = v) ∧ (∀ g ∈ pages, v.pageInUse g = false)) :=
  ⟨⟨hostFrame 0x0401 3 (leBytes 8 scratch0 ++ leBytes 4 2 ++ leBytes 4 3 ++ leBytes 2 1 ++ leBytes 2 2 ++ zeros 4), bare, given12,
      given13, 0, (hostFrame 0x0401 3 (leBytes 8 scratch0 ++ leBytes 4 2 ++ leBytes 4 3 ++ leBytes 2 1 ++ leBytes 2 2 ++ zeros
      4)).payload, { base := scratch0, capacity := 2, stride := 3, poolFirst := 1, poolCount := 2 }, acts_of (sealed _)
      (by decide +kernel), and4 (by decide +kernel) (and4 (by decide +kernel) (and4 (by decide +kernel) (and2 (by decide +kernel)
      rfl)))⟩,
    ⟨fieldFrame 0x0402 3 [(0,4,1),(5,1,1),(6,2,2),(8,4,16),(20,4,32),(52,8,77)], up, given14, 0, 1, (fieldFrame 0x0402 3
      [(0,4,1),(5,1,1),(6,2,2),(8,4,16),(20,4,32),(52,8,77)]).payload, seqRecord ((fieldFrame 0x0402 3
      [(0,4,1),(5,1,1),(6,2,2),(8,4,16),(20,4,32),(52,8,77)]).payload), acts_of (sealed _) (by decide +kernel), by decide +kernel⟩,
    ⟨hostFrame 0x0403 3 (leBytes 4 0 ++ leBytes 4 40), up, up.noted (hostFrame 0x0403 3 (leBytes 4 0 ++ leBytes 4 40)), 0, 0, 40, 3,
      acts_of (sealed _) (by decide +kernel), by decide +kernel⟩,
    ⟨hostFrame 0x0403 3 (leBytes 4 0 ++ leBytes 4 40), up, up.noted (hostFrame 0x0403 3 (leBytes 4 0 ++ leBytes 4 40)), 0, 0, 40, 3,
      acts_of (sealed _) (by decide +kernel), by decide +kernel⟩,
    ⟨hostFrame 0x0403 3 (leBytes 4 0 ++ leBytes 4 64), given15, given15.noted (hostFrame 0x0403 3 (leBytes 4 0 ++ leBytes 4 64)), 0,
      0, 64, 4, acts_of (sealed _) (by decide +kernel), by decide +kernel⟩,
    ⟨hostFrame 0x0404 3 (leBytes 4 0 ++ leBytes 4 16), pooledPages, pooledPages.noted (hostFrame 0x0404 3 (leBytes 4 0 ++ leBytes 4
      16)), given16, given16.modSeq 0 0 (fun r => { r with length := 16, booked := 16 }), 0, 0, 16, [(1,32769)], acts_of (sealed _)
      (by decide +kernel), and4 (by decide +kernel) (and4 (by decide +kernel) ⟨by decide +kernel, rfl, rfl, by decide +kernel⟩)⟩,
    ⟨fieldFrame 0x0405 3 [], pooledPages, pooledPages.noted (fieldFrame 0x0405 3 []), (pooledPages.noted (fieldFrame 0x0405 3
      [])).modSeq 0 0 (fun _ => {}), 0, 0, [32768, 32769], acts_of (sealed _) (by decide +kernel), and4 (by decide +kernel) (and2
      (by decide +kernel) ⟨rfl, by decide +kernel⟩)⟩⟩

theorem witness_GrowthTakesAFreePage :
    (∃ (s t : State) (c j g lane : Nat) (a : SeqArea), s.Canonical ∧ s.growLane c j a g lane = some t) ∧
    (∃ (s : State) (c j g lane : Nat) (a : SeqArea) (q : _), s.growLane c j a g lane = none ∧ 16384 * a.poolFirst ≤ q ∧ q < 16384 *
      (a.poolFirst + a.poolCount)) ∧
    (∃ (s : State) (c : Nat) (a : SeqArea), (s.context c).area = some a) :=
  ⟨⟨pooledPages, given17, 0, 0, 2, 0, { base := scratch0 + 0x100000, capacity := 4, stride := 4, poolFirst := 2, poolCount := 1 },
      canonical_of (by decide +kernel), some_of (by decide +kernel)⟩,
    ⟨retiredS, 0, 0, 0, 0, area0, 32768, retired_short, by decide +kernel⟩,
    ⟨pooledPages, 0, area0, by decide +kernel⟩⟩

theorem witness_ContextsAreOpenedAndClosed :
    (∃ (f : Frame) (s u : State) (b c : Nat) (p : List Byte) (g : Grant), Acts 0x0501 f s u b ∧ f.payload = p ∧ grantOf p = g ∧
      firstFailing (grantLengths p g ++ grantFields p g ++ grantPlaces g) = none ∧ le p 0 1 = c ∧ c < 64 ∧ legalDevice 0x0501 u =
      none ∧ (u.context c).state = .free ∧ u.grantShort g = false) ∧
    (∃ (f : Frame) (s u : State) (c : Nat), Acts 0x0502 f s u c ∧ legal 0x0502 c u = none ∧ (u.context c).pins = [] ∧ u.ctxState c ≠
      .quarantined ∧ u.windowsOf c = [] ∧ (∀ e ∈ u.pages, e.2.context = c → u.pageInUse e.1 = false) ∧ u.journal.unmapWaits = []) ∧
    (∃ (f : Frame) (s u : State) (c g : Nat), Acts 0x0502 f s u c ∧ legal 0x0502 c u = none ∧ (u.context c).pins = [] ∧ u.ctxState c
      ≠ .quarantined ∧ u.windowsOf c = [] ∧ (u.page g).mapped = true ∧ (u.page g).context = c ∧ u.pageInUse g = true) :=
  ⟨⟨hostFrame 0x0501 1 cop, up, up.noted (hostFrame 0x0501 1 cop), 255, 5, (hostFrame 0x0501 1 cop).payload, grantOf ((hostFrame
      0x0501 1 cop).payload), acts_of (sealed _) (by decide +kernel), by decide +kernel⟩,
    ⟨hostFrame 0x0502 2 [], mapped3, mapped3.noted (hostFrame 0x0502 2 []), 0, acts_of (sealed _) (by decide +kernel),
      by decide +kernel⟩,
    ⟨hostFrame 0x0502 3 [], pageHeldS, pageHeldS.noted (hostFrame 0x0502 3 []), 0, 5, acts_of (sealed _) (by decide +kernel),
      by decide +kernel⟩⟩

theorem witness_CtxResetWaitsAndAdvances :
    (∃ (f : Frame) (s u : State) (b c mode : Nat), Acts 0x0503 f s u b ∧ le f.payload 0 1 = c ∧ c ≤ 63 ∧ le f.payload 1 1 = mode ∧
      mode ≤ 1 ∧ legal 0x0503 c u = none ∧ u.dev.state ≠ .faulted ∧ u.ctxState c ≠ .quarantined) ∧
    (∃ (f : Frame) (s u : State) (b c mode : Nat), Acts 0x0503 f s u b ∧ le f.payload 0 1 = c ∧ c ≤ 63 ∧ le f.payload 1 1 = mode ∧
      mode ≤ 1 ∧ legal 0x0503 c u = none ∧ u.dev.state = .faulted) ∧
    (∃ (s : State) (c : Nat) (r : Resetting), s.Canonical ∧ c < 64 ∧ (s.context c).reset = some r ∧ (s.context c).state = .resetting
      ∧ s.drained c = true ∧ r.waits = [] ∧ r.mode ≤ 1 ∧ s.dev.replaying = none ∧ s.dev.suspects = []) ∧
    (∃ (s : State) (c : Nat), s.Canonical ∧ s.inService = true ∧ (s.context c).draining = true ∧ (s.context c).state = .quarantined
      ∧ s.dev.affected.contains c = false ∧ s.journal.unmapWaits = [] ∧ s.dev.staleDropped ≤ 4294967295 ∧ (∀ d, d ≠ c → (s.context
      d).restartDue = false) ∧ (∀ d, d < c → (s.context d).draining = false)) ∧
    (∃ (s : State) (c : Nat), s.Canonical ∧ s.inService = true ∧ (s.context c).draining = true ∧ (s.context c).state = .quarantined
      ∧ s.dev.affected.contains c = false ∧ s.journal.unmapWaits = [] ∧ s.dev.staleDropped ≤ 4294967295 ∧ (∀ d, d ≠ c → (s.context
      d).restartDue = false) ∧ (∀ d, d < c → (s.context d).draining = false)) :=
  ⟨⟨fieldFrame 0x0503 2 [], up, up.noted (fieldFrame 0x0503 2 []), 0, 0, 0, acts_of (sealed _) (by decide +kernel),
      by decide +kernel⟩,
    ⟨fieldFrame 0x0503 1 [(1,1,1)], { up with dev := { up.dev with state := .faulted } }, given18, 255, 0, 1, acts_of (sealed _)
      (by decide +kernel), by decide +kernel⟩,
    ⟨given19, 0, { mode := 1, since := 2000000, session := 2, number := 0 }, canonical_of (by decide +kernel), by decide +kernel⟩,
    ⟨given20, 0, canonical_of (by decide +kernel), and4 (by decide +kernel) (and2 (by decide +kernel)
      ⟨fun _ h => congrArg (·.restartDue) (others_of rfl h), by decide +kernel⟩)⟩,
    ⟨given20, 0, canonical_of (by decide +kernel), and4 (by decide +kernel) (and2 (by decide +kernel)
      ⟨fun _ h => congrArg (·.restartDue) (others_of rfl h), by decide +kernel⟩)⟩⟩

theorem witness_TransfersMoveTheirBytes :
    (∃ (f : Frame) (s u : State) (c a n : Nat), Acts 0x0601 f s u c ∧ le f.payload 0 8 = a ∧ le f.payload 8 4 = n ∧ 0 < n ∧ n ≤ 8192
      ∧ n + 40 ≤ (u.session f.session.toNat).maxPayload ∧ firstFailing (memChecks 0x0601 a n (u.session f.session.toNat) c false u)
      = none) ∧
    (∃ (f : Frame) (s u : State) (c a n : Nat), Acts 0x0602 f s u c ∧ le f.payload 0 8 = a ∧ le f.payload 8 4 = n ∧ 0 < n ∧ n ≤ 8192
      ∧ firstFailing (memChecks 0x0602 a n (u.session f.session.toNat) c true u) = none) ∧
    (∃ (s : State) (t : Transfer) (l : List Transfer) (sid n a k : Nat), s.Canonical ∧ s.Plain ∧ s.journal.transfers = t :: l ∧ t ∉
      l ∧ t.write = false ∧ t.frame.session.toNat = sid ∧ t.frame.number.toNat = n ∧ t.frame.opcode.toNat = 0x0601 ∧ t.address = a ∧
      t.length = k ∧ (s.session sid).isOpen = true ∧ (s.session sid).endAfter ≠ some n ∧ s.accessHeld a k = false ∧ s.Sound ∧
      (s.readDevice {} a k).2.2 = none) ∧
    (∃ (s : State) (t : Transfer) (l : List Transfer) (sid n a k : Nat), s.Canonical ∧ s.Plain ∧ s.journal.transfers = t :: l ∧ t ∉
      l ∧ t.write = false ∧ t.frame.session.toNat = sid ∧ t.frame.number.toNat = n ∧ t.frame.opcode.toNat = 0x0601 ∧ t.address = a ∧
      t.length = k ∧ (s.session sid).isOpen = true ∧ (s.session sid).endAfter ≠ some n ∧ s.accessHeld a k = false ∧ s.Sound ∧
      (s.readDevice {} a k).2.2 = none) ∧
    (∃ (s : State) (t : Transfer) (l : List Transfer) (sid n a k : Nat), s.Canonical ∧ s.Plain ∧ s.journal.transfers = t :: l ∧ t ∉
      l ∧ t.write = true ∧ t.frame.session.toNat = sid ∧ t.frame.number.toNat = n ∧ t.frame.opcode.toNat = 0x0602 ∧ t.address = a ∧
      t.length = k ∧ (s.session sid).isOpen = true ∧ (s.session sid).endAfter ≠ some n ∧ s.accessHeld a k = false ∧ s.Sound ∧
      t.frame.payload.length = 16 + k ∧ s.stored a k ∧ (s.partlyLost {} a k).2 = none) ∧
    (∃ (s : State) (t : Transfer) (l : List Transfer) (sid n a k : Nat), s.Canonical ∧ s.Plain ∧ s.journal.transfers = t :: l ∧ t ∉
      l ∧ t.write = true ∧ t.frame.session.toNat = sid ∧ t.frame.number.toNat = n ∧ t.frame.opcode.toNat = 0x0602 ∧ t.address = a ∧
      t.length = k ∧ (s.session sid).isOpen = true ∧ (s.session sid).endAfter ≠ some n ∧ s.accessHeld a k = false ∧ s.Sound ∧
      t.frame.payload.length = 16 + k ∧ s.stored a k ∧ (s.partlyLost {} a k).2 = none) ∧
    (∃ (s : State) (t : Transfer) (l : List Transfer), s.journal.transfers = t :: l ∧ s.accessHeld t.address t.length = true) ∧
    (∃ (s v w : State) (t : Transfer) (l : List Transfer) (data : List Byte) (b : Nat), s.journal.transfers = t :: l ∧ t ∉ l ∧ v =
      { s with journal := { s.journal with transfers := l } } ∧ s.accessHeld t.address t.length = false ∧ ((t.write = false ∧
      v.readDevice {} t.address t.length = (w, data, some b)) ∨ (t.write = true ∧ v.partlyLost {} t.address t.length = (w, some
      b)))) ∧
    (∃ (s v w : State) (t : Transfer) (l : List Transfer) (data : List Byte) (b : Nat), s.journal.transfers = t :: l ∧ t ∉ l ∧ v =
      { s with journal := { s.journal with transfers := l } } ∧ s.accessHeld t.address t.length = false ∧ ((t.write = false ∧
      v.readDevice {} t.address t.length = (w, data, some b)) ∨ (t.write = true ∧ v.partlyLost {} t.address t.length = (w, some
      b)))) :=
  ⟨⟨fieldFrame 0x0601 3 [(0,8,scratch0),(8,4,16)], up, up.noted (fieldFrame 0x0601 3 [(0,8,scratch0),(8,4,16)]), 0, scratch0, 16,
      acts_of (sealed _) (by decide +kernel), by decide +kernel⟩,
    ⟨hostFrame 0x0602 3 (leBytes 8 scratch0 ++ leBytes 4 4 ++ zeros 4 ++ [1,2,3,4]), up, given21, 0, scratch0, 4, acts_of (sealed _)
      (by decide +kernel), by decide +kernel⟩,
    ⟨given131, { frame := fieldFrame 0x0601 3 [(0,8,scratch0),(8,4,4)], write := false, address := scratch0, length := 4 }, [], 3,
      1, scratch0, 4, canonical_of (by decide +kernel), plain_of (by decide +kernel), and4 (by decide +kernel) (and4
      (by decide +kernel) (and3 (by decide +kernel) ⟨intact_of (by decide +kernel), by decide +kernel⟩))⟩,
    ⟨given132, { frame := fieldFrame 0x0601 1 [(0,8,2^40+8),(8,4,8)], write := false, address := 2^40+8, length := 8 }, [], 1, 1,
      2^40+8, 8, canonical_of (by decide +kernel), plain_of (by decide +kernel), and4 (by decide +kernel) (and4 (by decide +kernel)
      (and3 (by decide +kernel) ⟨intact_of (by decide +kernel), by decide +kernel⟩))⟩,
    ⟨given133,
      { frame := hostFrame 0x0602 3 (leBytes 8 scratch0 ++ leBytes 4 4 ++ zeros 4 ++ [1,2,3,4]), write := true, address := scratch0, length := 4 },
      [], 3, 1, scratch0, 4, canonical_of (by decide +kernel), plain_of (by decide +kernel), and4 (by decide +kernel) (and4
      (by decide +kernel) (and3 (by decide +kernel) ⟨intact_of (by decide +kernel), by decide +kernel, stored_of
      (by decide +kernel), by decide +kernel⟩))⟩,
    ⟨given134,
      { frame := hostFrame 0x0602 1 (leBytes 8 0x4003FE ++ leBytes 4 4 ++ zeros 4 ++ [1,2,3,4]), write := true, address := 0x4003FE, length := 4 },
      [], 1, 1, 0x4003FE, 4, canonical_of (by decide +kernel), plain_of (by decide +kernel), and4 (by decide +kernel) (and4
      (by decide +kernel) (and3 (by decide +kernel) ⟨intact_of (by decide +kernel), by decide +kernel, stored_of
      (by decide +kernel), by decide +kernel⟩))⟩,
    ⟨given22,
      { frame := hostFrame 0x0602 3 (leBytes 8 scratch0 ++ leBytes 4 4 ++ zeros 4 ++ [1,2,3,4]), write := true, address := scratch0, length := 4 },
      [], by decide +kernel⟩,
    ⟨given23, { given23 with journal := { given23.journal with transfers := [] } },
      (({ given23 with journal := { given23.journal with transfers := [] } }).readDevice {} scratch0 16).1,
      { frame := fieldFrame 0x0601 3 [(0,8,scratch0),(8,4,16)], write := false, address := scratch0, length := 16 }, [],
      (({ given23 with journal := { given23.journal with transfers := [] } }).readDevice {} scratch0 16).2.1, scratch0, and2
      (by decide +kernel) ⟨rfl, by decide +kernel, .inl ⟨rfl, triple_some (by decide +kernel)⟩⟩⟩,
    ⟨given135, { given135 with journal := { given135.journal with transfers := [] } },
      (({ given135 with journal := { given135.journal with transfers := [] } }).partlyLost {} scratch0 4).1,
      { frame := hostFrame 0x0602 3 (leBytes 8 scratch0 ++ leBytes 4 4 ++ zeros 4 ++ [1,2,3,4]), write := true, address := scratch0, length := 4 },
      [], [], scratch0, and2 (by decide +kernel) ⟨rfl, by decide +kernel, .inr ⟨rfl, pair_eta (by decide +kernel)⟩⟩⟩⟩

theorem witness_BytesReadBackAsWritten :
    (∃ (m : List Host.Cell) (k : Nat) (l : List Byte), Memory.wf m = true ∧ k < l.length) ∧
    (∃ (m : List Host.Cell) (a k : Nat) (l : List Byte), Memory.wf m = true ∧ (k < a ∨ a + l.length ≤ k)) ∧
    (∃ (m : List Host.Cell), Memory.wf m = true) ∧
    (∃ (m₁ m₂ : List Host.Cell), Memory.wf m₁ = true ∧ Memory.wf m₂ = true ∧ (∀ k, memGet m₁ k = memGet m₂ k)) ∧
    (∃ (s v : State) (who : Requester) (a n : Nat) (data : List Byte), s.Sound ∧ s.stored a n ∧ s.readDevice who a n = (v, data,
      none)) ∧
    (∃ (s : State) (a : Nat) (data : List Byte), s.Canonical ∧ s.Sound ∧ s.stored a data.length) ∧
    (∃ (s : State) (a : Nat) (data : List Byte), s.Canonical ∧ s.Sound ∧ s.stored a data.length) ∧
    (∃ (s : State) (a : Nat) (data : List Byte), s.Canonical ∧ s.Sound ∧ s.stored a data.length ∧ (s.partlyLost {} a data.length).2
      = none) ∧
    (∃ (k : Fin 240) (s v : State) (q a n : Nat) (data : List Byte), s.fetchLocal k q a n = .ok v data ∧ (s.core (s.physical
      k)).openWrites = []) ∧
    (∃ (k : Fin 240) (s v : State) (q a : Nat) (data : List Byte), s.Canonical ∧ s.storeLocal k q a data = .ok v) ∧
    (∃ (s v : State) (w : Piece) (c : Nat) (who : Requester) (data : List Byte), s.Sound ∧ s.readPiece w c who = (v, data, none)) ∧
    (∃ (s v : State) (w : Piece) (c : Nat) (who : Requester) (data : List Byte), s.Sound ∧ s.readPiece w c who = (v, data, none)) ∧
    (∃ (s : State), s.Canonical ∧ s.Sound) ∧
    (∃ (s : State), s.Canonical ∧ s.Sound) ∧
    (∃ (s v : State) (p i : Nat) (r : Region) (data : List Byte) (e : Nat × Nat), s.readRegion p r = (v, data, none) ∧ (r.parts
      s.dev.lanes)[i]? = some e) ∧
    (∃ (s v : State) (p i : Nat) (r : Region) (data : List Byte) (e : Nat × Nat), s.readRegion p r = (v, data, none) ∧ (r.parts
      s.dev.lanes)[i]? = some e) ∧
    (∃ (s : State) (i : Nat) (r : Region) (data : List Byte) (e : Nat × Nat), s.Canonical ∧ data.length = r.length ∧ 0 < s.dev.lanes
      ∧ (r.parts s.dev.lanes)[i]? = some e) ∧
    (∃ (s : State) (i : Nat) (r : Region) (data : List Byte) (e : Nat × Nat), s.Canonical ∧ data.length = r.length ∧ 0 < s.dev.lanes
      ∧ (r.parts s.dev.lanes)[i]? = some e) :=
  ⟨⟨[(3,1),(5,2)], 1, [0,7], by decide +kernel⟩,
    ⟨[(3,1),(5,2),(6,9)], 4, 6, [0,7], by decide +kernel⟩,
    ⟨[(3,1),(5,2),(6,9)], by decide +kernel⟩,
    ⟨[(3,1)], [(3,1)], and2 (by decide +kernel) (fun _ => rfl)⟩,
    ⟨{ up with mem := memWrite [] scratch0 [1,2,3] }, (({ up with mem := memWrite [] scratch0 [1,2,3] }).readDevice ({}) scratch0
      4).1, {}, scratch0, 4, (({ up with mem := memWrite [] scratch0 [1,2,3] }).readDevice ({}) scratch0 4).2.1, intact_of
      (by decide +kernel), stored_of (by decide +kernel), triple_of (by decide +kernel)⟩,
    ⟨{ up with mem := memWrite [] scratch0 [1,2,3] }, scratch0 + 1, [0, 9, 8], canonical_of (by decide +kernel), intact_of
      (by decide +kernel), stored_of (by decide +kernel)⟩,
    ⟨up, 0x4003FE, [5, 0, 7, 8], canonical_of (by decide +kernel), intact_of (by decide +kernel), stored_of (by decide +kernel)⟩,
    ⟨{ up with mem := memWrite [] scratch0 [1,2,3] }, scratch0 + 1, [0, 9, 8], canonical_of (by decide +kernel), intact_of
      (by decide +kernel), stored_of (by decide +kernel), by decide +kernel⟩,
    ⟨0, coreS (core0 []), gotState ((coreS (core0 [])).fetchLocal 0 0 128 16), 0, 128, 16, gotData ((coreS (core0 [])).fetchLocal 0
      0 128 16), got_of (by decide +kernel), by decide +kernel⟩,
    ⟨0, coreS (core0 []), ranState ((coreS (core0 [])).storeLocal 0 1 0x10000000 [1,2,3]), 1, 0x10000000, [1,2,3], canonical_of
      (by decide +kernel), ran_of (by decide +kernel)⟩,
    ⟨{ up with mem := memWrite [] scratch0 [1,2,3] }, (({ up with mem := memWrite [] scratch0 [1,2,3] }).readPiece
      ({ number := 0, srcSpace := 1, srcCore := 0, src := scratch0, dstSpace := 0, dstCore := 0, dst := 128, length := 64 }) 0
      ({})).1, { number := 0, srcSpace := 1, srcCore := 0, src := scratch0, dstSpace := 0, dstCore := 0, dst := 128, length := 64 },
      0, {}, (({ up with mem := memWrite [] scratch0 [1,2,3] }).readPiece
      ({ number := 0, srcSpace := 1, srcCore := 0, src := scratch0, dstSpace := 0, dstCore := 0, dst := 128, length := 64 }) 0
      ({})).2.1, intact_of (by decide +kernel), triple_of (by decide +kernel)⟩,
    ⟨up, (up.readPiece
      ({ number := 0, srcSpace := 0, srcCore := 1, src := 128, dstSpace := 1, dstCore := 0, dst := scratch0, length := 64 }) 0
      ({})).1, { number := 0, srcSpace := 0, srcCore := 1, src := 128, dstSpace := 1, dstCore := 0, dst := scratch0, length := 64 },
      0, {}, (up.readPiece
      ({ number := 0, srcSpace := 0, srcCore := 1, src := 128, dstSpace := 1, dstCore := 0, dst := scratch0, length := 64 }) 0
      ({})).2.1, intact_of (by decide +kernel), triple_of (by decide +kernel)⟩,
    ⟨up, canonical_of (by decide +kernel), intact_of (by decide +kernel)⟩,
    ⟨up, canonical_of (by decide +kernel), intact_of (by decide +kernel)⟩,
    ⟨{ up with mem := memWrite [] (localKey 0 4096) [1,2,3] },
      (({ up with mem := memWrite [] (localKey 0 4096) [1,2,3] }).readRegion 0 ({ kind := 0, base := 4096, length := 16 })).1, 0, 0,
      { kind := 0, base := 4096, length := 16 }, (({ up with mem := memWrite [] (localKey 0 4096) [1,2,3] }).readRegion 0
      ({ kind := 0, base := 4096, length := 16 })).2.1, (4096, 16), triple_of (by decide +kernel), by decide +kernel⟩,
    ⟨{ up with mem := memWrite [] (localKey 0 4096) [1,2,3] },
      (({ up with mem := memWrite [] (localKey 0 4096) [1,2,3] }).readRegion 0 ({ kind := 1, base := 4096, length := 2048 })).1, 0,
      1, { kind := 1, base := 4096, length := 2048 }, (({ up with mem := memWrite [] (localKey 0 4096) [1,2,3] }).readRegion 0
      ({ kind := 1, base := 4096, length := 2048 })).2.1, (4224, 128), triple_of (by decide +kernel), by decide +kernel⟩,
    ⟨up, 0, { kind := 2, base := 4096, length := 4 }, [1,2,3,4], (4096, 4), canonical_of (by decide +kernel), by decide +kernel⟩,
    ⟨up, 1, { kind := 1, base := 4096, length := 2048 }, pay 2048 [(128,4,77)], (4224, 128), canonical_of (by decide +kernel),
      by decide +kernel⟩⟩

theorem witness_SplitsZeroTheStepsTheyMove :
    (∃ (f : Frame) (s u : State) (c mask steps : Nat), Acts 0x0603 f s u c ∧ le f.payload 0 1 = mask ∧ le f.payload 1 1 = steps ∧ 0
      < mask ∧ mask ≤ 15 ∧ 0 < steps ∧ steps ≤ 16 ∧ (steps = 16 → mask % 4 = 0) ∧ legalDevice 0x0603 u = none ∧ (∀ d, d < 64 →
      u.ctxState d ≠ .active) ∧ (∀ d ∈ bitsSet mask 4, (u.pond d).resplit = none ∧ u.splitShort d steps = false)) ∧
    (∃ (s : State) (d : Fin 4) (steps : Nat), s.Canonical ∧ (s.pond d).resplit = some steps ∧ s.journal.lateWrites = []) ∧
    (∃ (s : State) (d : Fin 4) (steps : Nat) (f : Frame), s.Canonical ∧ (s.pond d).resplit = some steps ∧ s.journal.lateWrites = []
      ∧ s.journal.splitReplies = [(f, [d.val])] ∧ f.opcode = 0x0603) :=
  ⟨⟨fieldFrame 0x0603 1 [(0,1,2),(1,1,9)], up, up.noted (fieldFrame 0x0603 1 [(0,1,2),(1,1,9)]), 255, 2, 9, acts_of (sealed _)
      (by decide +kernel), by decide +kernel⟩,
    ⟨given24, 1, 9, canonical_of (by decide +kernel), by decide +kernel⟩,
    ⟨given25, 1, 9, fieldFrame 0x0603 1 [(0,1,2),(1,1,9)], canonical_of (by decide +kernel), by decide +kernel⟩⟩

theorem witness_PagesComeAndGo :
    (∃ (f : Frame) (s u : State) (c first n sh : Nat), Acts 0x0701 f s u c ∧ le f.payload 0 4 = first ∧ le f.payload 4 4 = n ∧ 0 < n
      ∧ first + n ≤ 16777216 ∧ le f.payload 9 1 = sh ∧ sh ≤ 1 ∧ u.pagesFailed first n = false ∧ legal 0x0701 c u = none ∧ (∀ g,
      first ≤ g → g < first + n → u.pageKind c g = 0 ∧ (u.grant c).holdsSegment (g / 16384) = true)) ∧
    (∃ (f : Frame) (s u : State) (c first n : Nat), Acts 0x0702 f s u c ∧ le f.payload 0 4 = first ∧ le f.payload 4 4 = n ∧ 0 < n ∧
      first + n ≤ 16777216 ∧ u.pagesFailed first n = false ∧ legal 0x0702 c u = none ∧ (∀ g, first ≤ g → g < first + n →
      u.unmappable c g = true) ∧ (∀ x ∈ (u.context c).pins, overlaps (65536 * first) (65536 * n) x.destination x.length = false)) ∧
    (∃ (f : Frame) (s u : State) (c first n : Nat), Acts 0x0702 f s u c ∧ le f.payload 0 4 = first ∧ le f.payload 4 4 = n ∧ 0 < n ∧
      first + n ≤ 16777216 ∧ u.pagesFailed first n = false ∧ legal 0x0702 c u = none ∧ (∀ g, first ≤ g → g < first + n →
      u.unmappable c g = true) ∧ (∀ x ∈ (u.context c).pins, overlaps (65536 * first) (65536 * n) x.destination x.length = false) ∧
      (∀ g, first ≤ g → g < first + n → u.pageInUse g = false)) ∧
    (∃ (f : Frame) (s u : State) (c first n : Nat), Acts 0x0702 f s u c ∧ le f.payload 0 4 = first ∧ le f.payload 4 4 = n ∧ 0 < n ∧
      first + n ≤ 16777216 ∧ u.pagesFailed first n = false ∧ legal 0x0702 c u = none ∧ (∀ g, first ≤ g → g < first + n →
      u.unmappable c g = true) ∧ (∀ x ∈ (u.context c).pins, overlaps (65536 * first) (65536 * n) x.destination x.length = false) ∧
      (∃ g, first ≤ g ∧ g < first + n ∧ u.pageInUse g = true)) ∧
    (∃ (f : Frame) (s u : State) (c first n : Nat), Acts 0x0703 f s u c ∧ le f.payload 0 4 = first ∧ le f.payload 4 4 = n ∧ 0 < n ∧
      first + n ≤ 16777216 ∧ u.pagesFailed first n = false ∧ legalDevice 0x0703 u = none ∧ u.journalSegment (first / 16384) ((first
      + n - 1) / 16384 - first / 16384 + 1) = none) ∧
    (∃ (f : Frame) (s u : State) (c first n : Nat), Acts 0x0802 f s u c ∧ le f.payload 0 2 = first ∧ le f.payload 2 2 = n ∧ 0 < n ∧
      first + n ≤ 1024 ∧ u.pagesFailed (16384 * first) (16384 * n) = false ∧ legalDevice 0x0802 u = none ∧ u.journalSegment first n
      = none ∧ (∀ g, first ≤ g → g < first + n → u.inWindow g = false)) :=
  ⟨⟨fieldFrame 0x0701 3 [(0,4,7),(4,4,2),(9,1,1)], up, up.noted (fieldFrame 0x0701 3 [(0,4,7),(4,4,2),(9,1,1)]), 0, 7, 2, 1,
      acts_of (sealed _) (by decide +kernel), by decide +kernel⟩,
    ⟨fieldFrame 0x0702 3 [(0,4,3),(4,4,2)], mapped3, mapped3.noted (fieldFrame 0x0702 3 [(0,4,3),(4,4,2)]), 0, 3, 2, acts_of (sealed
      _) (by decide +kernel), by decide +kernel⟩,
    ⟨fieldFrame 0x0702 3 [(0,4,3),(4,4,2)], mapped3, mapped3.noted (fieldFrame 0x0702 3 [(0,4,3),(4,4,2)]), 0, 3, 2, acts_of (sealed
      _) (by decide +kernel), and4 (by decide +kernel) (and4 (by decide +kernel)
      ((fun g h₁ h₂ => by have h : g = 3 ∨ g = 4 := (by omega); rcases h with rfl | rfl <;> decide +kernel)))⟩,
    ⟨fieldFrame 0x0702 3 [(0,4,3),(4,4,2)], given26, given26.noted (fieldFrame 0x0702 3 [(0,4,3),(4,4,2)]), 0, 3, 2, acts_of (sealed
      _) (by decide +kernel), and4 (by decide +kernel) (and4 (by decide +kernel) ⟨3, by decide, by decide, by decide +kernel⟩)⟩,
    ⟨fieldFrame 0x0703 1 [(0,4,3),(4,4,3)], mapped3, mapped3.noted (fieldFrame 0x0703 1 [(0,4,3),(4,4,3)]), 255, 3, 3, acts_of
      (sealed _) (by decide +kernel), by decide +kernel⟩,
    ⟨fieldFrame 0x0802 1 [(0,2,9),(2,2,2)], up, up.noted (fieldFrame 0x0802 1 [(0,2,9),(2,2,2)]), 255, 9, 2, acts_of (sealed _)
      (by decide +kernel), by decide +kernel⟩⟩

theorem witness_RecodesAreStagedAndSwept :
    (∃ (f : Frame) (s u : State) (c first n code : Nat), Acts 0x0801 f s u c ∧ le f.payload 0 2 = first ∧ le f.payload 2 2 = n ∧ le
      f.payload 4 1 = code ∧ 0 < n ∧ first + n ≤ 1024 ∧ code ≤ 2 ∧ u.pagesFailed (16384 * first) (16384 * n) = false ∧ legalDevice
      0x0801 u = none ∧ (∀ d, d < 64 → u.ctxState d = .active → ∀ g, first ≤ g → g < first + n → (u.grant d).holdsSegment g = false)
      ∧ (∀ k, k < 8 → overlaps first n (k * 128) 128 = true → u.computing k = false ∧ u.sweepRuns k = false) ∧ u.journalSegment
      first n = none ∧ (∀ e ∈ u.pages, e.2.mapped = true → first ≤ e.1 / 16384 → e.1 / 16384 < first + n → 65536 * (e.1 % 16384) <
      usableBytes code) ∧ flowCheck c u = none) ∧
    (∃ (s v : State) (k : Fin 8) (c csn g : Nat) (m : Cmd) (lost : List Nat), s.Canonical ∧ s.inService = true ∧ (s.stack k).sweep =
      some (c, csn) ∧ (s.stack k).sweepSegment = g ∧ s.cmd c csn = some m ∧ m.value ≤ 2 ∧ ((s.modStack k fun t =>
      { t with sweep := none, sweepSegment := 0, sweepLeft := 0 }).sweepSegment g m.value m.swept = (v, lost))) ∧
    (∃ (s : State) (c csn st : Nat) (m : Cmd), s.Canonical ∧ c < 64 ∧ s.cmd c csn = some m ∧ m.opcode = 0x0801 ∧ m.phase ≠
      .completed ∧ s.unswept m = [] ∧ (st = (if 0 < m.lost then Status.uncorrectable else Status.done))) ∧
    (∃ (s : State) (c csn st : Nat) (m : Cmd), s.Canonical ∧ c < 64 ∧ s.cmd c csn = some m ∧ m.opcode = 0x0801 ∧ m.phase ≠
      .completed ∧ s.unswept m = [] ∧ (st = (if 0 < m.lost then Status.uncorrectable else Status.done))) :=
  ⟨⟨fieldFrame 0x0801 2 [(0,2,9),(2,2,2),(4,1,1)], up, up.noted (fieldFrame 0x0801 2 [(0,2,9),(2,2,2),(4,1,1)]), 0, 9, 2, 1,
      acts_of (sealed _) (by decide +kernel), by decide +kernel⟩,
    ⟨given27, ((given27.modStack 0 fun t => { t with sweep := none, sweepSegment := 0, sweepLeft := 0 }).sweepSegment 5
      ((given27.cmd 0 3).getD cmd0).value ((given27.cmd 0 3).getD cmd0).swept).1, 0, 0, 3, 5, (given27.cmd 0 3).getD cmd0,
      ((given27.modStack 0 fun t => { t with sweep := none, sweepSegment := 0, sweepLeft := 0 }).sweepSegment 5 ((given27.cmd 0
      3).getD cmd0).value ((given27.cmd 0 3).getD cmd0).swept).2, canonical_of (by decide +kernel), and3 (by decide +kernel)
      ⟨some_of (by decide +kernel), by decide +kernel, rfl⟩⟩,
    ⟨given136, 0, 3, 0, { waitCmd 0x0801 3 with address := 5, count := 2, value := 2, phase := .working }, canonical_of
      (by decide +kernel), by decide +kernel⟩,
    ⟨given137, 0, 3, Status.uncorrectable,
      { waitCmd 0x0801 3 with address := 5, count := 2, value := 2, phase := .working, lost := 1, firstLost := 77 }, canonical_of
      (by decide +kernel), by decide +kernel⟩⟩

theorem witness_ComputeIsEnteredAndLeftInTwoSteps :
    (∃ (f : Frame) (s u : State) (c k first n mask : Nat), Acts 0x0901 f s u c ∧ le f.payload 0 1 = k ∧ le f.payload 1 1 = 1 ∧ le
      f.payload 4 2 = n ∧ le f.payload 6 2 = first ∧ le f.payload 8 8 = mask ∧ 0 < mask ∧ 0 < n ∧ first + n ≤ 128 ∧ (k = 0 ∨ k = 2 ∨
      k = 4 ∨ k = 6) ∧ legal 0x0901 c u = none ∧ (∀ p ∈ bitsSet mask 64, (u.pseudo k p).mode = .plain ∧ (u.pseudo k p).entering =
      false) ∧ (∀ g, 128 * k + first ≤ g → g < 128 * k + first + n → u.segCode g = 0 ∧ u.segRetired g = false ∧ (u.grant
      c).holdsSegment g = true) ∧ u.recoding k = false) ∧
    (∃ (s : State) (k : Fin 8) (p : Fin 64), s.Canonical ∧ (s.pseudo k p).entering = true ∧ (s.pseudo k p).mode = .plain) ∧
    (∃ (f : Frame) (s u : State) (c k mask : Nat), Acts 0x0901 f s u c ∧ le f.payload 0 1 = k ∧ le f.payload 1 1 = 0 ∧ le f.payload
      8 8 = mask ∧ 0 < mask ∧ (k = 0 ∨ k = 2 ∨ k = 4 ∨ k = 6) ∧ legal 0x0901 c u = none ∧ (∀ p ∈ bitsSet mask 64, (u.pseudo k
      p).mode = .compute ∧ (u.pseudo k p).context = c) ∧ u.quernNamed k (bitsSet mask 64) = none) ∧
    (∃ (s : State) (k : Fin 8) (p : Fin 64), s.Canonical ∧ (s.pseudo k p).mode = .sealing ∧ (s.pseudo k p).chunkIn = false ∧
      s.journal.closing = []) ∧
    (∃ (s : State) (k : Fin 8) (p : Fin 64), (s.pseudo k p).chunkIn = true) ∧
    (∃ (s : State) (k : Fin 8) (p : Fin 64) (f : Frame) (mask : Nat), s.Canonical ∧ (s.pseudo k p).entering = true ∧ (s.pseudo k
      p).mode = .plain ∧ s.journal.modeReplies = [(f, k.val, mask)] ∧ f.opcode = 0x0901 ∧ mask = 2 ^ p.val) ∧
    (∃ (s : State) (k : Fin 8) (p : Fin 64) (f : Frame) (mask : Nat), s.Canonical ∧ (s.pseudo k p).entering = true ∧ (s.pseudo k
      p).mode = .plain ∧ s.journal.modeReplies = [(f, k.val, mask)] ∧ f.opcode = 0x0901 ∧ mask.testBit p = true ∧ mask ≠ 2 ^ p.val) :=
  ⟨⟨fieldFrame 0x0901 2 [(0,1,2),(1,1,1),(4,2,1),(6,2,1),(8,8,6)], runs2, given28, 0, 2, 1, 1, 6, acts_of (sealed _)
      (by decide +kernel), by decide +kernel⟩,
    ⟨psS .plain true, 2, 1, canonical_of (by decide +kernel), by decide +kernel⟩,
    ⟨fieldFrame 0x0901 2 [(0,1,2),(1,1,0),(8,8,2)], psS .compute false, given29, 0, 2, 2, acts_of (sealed _) (by decide +kernel),
      by decide +kernel⟩,
    ⟨psS .sealing false, 2, 1, canonical_of (by decide +kernel), by decide +kernel⟩,
    ⟨up.modPseudo 2 1 fun x => { x with chunkIn := true }, 2, 1, by decide +kernel⟩,
    ⟨given30, 2, 1, fieldFrame 0x0901 2 [(0,1,2),(1,1,1),(4,2,1),(6,2,1),(8,8,2)], 2, canonical_of (by decide +kernel),
      by decide +kernel⟩,
    ⟨given31, 2, 1, fieldFrame 0x0901 2 [(0,1,2),(1,1,1),(4,2,1),(6,2,1),(8,8,6)], 6, canonical_of (by decide +kernel),
      by decide +kernel⟩⟩

theorem witness_RegisterWrites :
    (∃ (i : Instr) (f : Frame) (s : State) (a v : Nat), (i = .regWrite f ∨ (i = .troubleBitClear f ∧ isTroublePlace (regPlace a) =
      true) ∨ (i = .counterClear f ∧ isCounterPlace (regPlace a) = true) ∨ (i = .wheelSourceWrite f ∧ (a = 0x100018 ∨ rwAt (regPlace
      a) = some .ptpCfg ∨ rwAt (regPlace a) = some .asymmetry)) ∨ (i = .holdLimitWrite f ∧ a = 0x10001C) ∨ (i = .udpPortWrite f ∧ a
      = 0x200008) ∨ (i = .recoveryCfgWrite f ∧ a = 0x108) ∨ (i = .lastLatchClear f ∧ a = 0x300028)) ∧ Delivered 0x0A02 f s ∧ le
      f.payload 0 4 = a ∧ le f.payload 4 4 = v ∧ a % 4 = 0 ∧ isMapped a = true ∧ (∀ r, rwAt (regPlace a) = some r → badWrite r v s =
      false) ∧ legalDevice 0x0A02 s = none) ∧
    (∃ (i : Instr) (f : Frame) (s : State) (a v : Nat), (i = .regWrite f ∨ (i = .troubleBitClear f ∧ isTroublePlace (regPlace a) =
      true) ∨ (i = .counterClear f ∧ isCounterPlace (regPlace a) = true) ∨ (i = .wheelSourceWrite f ∧ (a = 0x100018 ∨ rwAt (regPlace
      a) = some .ptpCfg ∨ rwAt (regPlace a) = some .asymmetry)) ∨ (i = .holdLimitWrite f ∧ a = 0x10001C) ∨ (i = .udpPortWrite f ∧ a
      = 0x200008) ∨ (i = .recoveryCfgWrite f ∧ a = 0x108) ∨ (i = .lastLatchClear f ∧ a = 0x300028)) ∧ Delivered 0x0A02 f s ∧ le
      f.payload 0 4 = a ∧ le f.payload 4 4 = v ∧ a % 4 = 0 ∧ isMapped a = true ∧ (∀ r, rwAt (regPlace a) = some r → badWrite r v s =
      false) ∧ legalDevice 0x0A02 s = none) ∧
    (∃ (i : Instr) (f : Frame) (s : State) (a v : Nat), (i = .regWrite f ∨ (i = .troubleBitClear f ∧ isTroublePlace (regPlace a) =
      true) ∨ (i = .counterClear f ∧ isCounterPlace (regPlace a) = true) ∨ (i = .wheelSourceWrite f ∧ (a = 0x100018 ∨ rwAt (regPlace
      a) = some .ptpCfg ∨ rwAt (regPlace a) = some .asymmetry)) ∨ (i = .holdLimitWrite f ∧ a = 0x10001C) ∨ (i = .udpPortWrite f ∧ a
      = 0x200008) ∨ (i = .recoveryCfgWrite f ∧ a = 0x108) ∨ (i = .lastLatchClear f ∧ a = 0x300028)) ∧ Delivered 0x0A02 f s ∧ le
      f.payload 0 4 = a ∧ le f.payload 4 4 = v ∧ a % 4 = 0 ∧ isMapped a = true ∧ (∀ r, rwAt (regPlace a) = some r → badWrite r v s =
      false) ∧ legalDevice 0x0A02 s = none) ∧
    (∃ (i : Instr) (f : Frame) (s : State) (a v : Nat), (i = .regWrite f ∨ (i = .troubleBitClear f ∧ isTroublePlace (regPlace a) =
      true) ∨ (i = .counterClear f ∧ isCounterPlace (regPlace a) = true) ∨ (i = .wheelSourceWrite f ∧ (a = 0x100018 ∨ rwAt (regPlace
      a) = some .ptpCfg ∨ rwAt (regPlace a) = some .asymmetry)) ∨ (i = .holdLimitWrite f ∧ a = 0x10001C) ∨ (i = .udpPortWrite f ∧ a
      = 0x200008) ∨ (i = .recoveryCfgWrite f ∧ a = 0x108) ∨ (i = .lastLatchClear f ∧ a = 0x300028)) ∧ Delivered 0x0A02 f s ∧ le
      f.payload 0 4 = a ∧ le f.payload 4 4 = v ∧ a % 4 = 0 ∧ isMapped a = true ∧ (∀ r, rwAt (regPlace a) = some r → badWrite r v s =
      false) ∧ legalDevice 0x0A02 s = none) ∧
    (∃ (i : Instr) (f : Frame) (s : State) (a v : Nat), (i = .regWrite f ∨ (i = .troubleBitClear f ∧ isTroublePlace (regPlace a) =
      true) ∨ (i = .counterClear f ∧ isCounterPlace (regPlace a) = true) ∨ (i = .wheelSourceWrite f ∧ (a = 0x100018 ∨ rwAt (regPlace
      a) = some .ptpCfg ∨ rwAt (regPlace a) = some .asymmetry)) ∨ (i = .holdLimitWrite f ∧ a = 0x10001C) ∨ (i = .udpPortWrite f ∧ a
      = 0x200008) ∨ (i = .recoveryCfgWrite f ∧ a = 0x108) ∨ (i = .lastLatchClear f ∧ a = 0x300028)) ∧ Delivered 0x0A02 f s ∧ le
      f.payload 0 4 = a ∧ le f.payload 4 4 = v ∧ a % 4 = 0 ∧ isMapped a = true ∧ (∀ r, rwAt (regPlace a) = some r → badWrite r v s =
      false) ∧ legalDevice 0x0A02 s = none) ∧
    (∃ (i : Instr) (f : Frame) (s : State) (a v : Nat), (i = .regWrite f ∨ (i = .troubleBitClear f ∧ isTroublePlace (regPlace a) =
      true) ∨ (i = .counterClear f ∧ isCounterPlace (regPlace a) = true) ∨ (i = .wheelSourceWrite f ∧ (a = 0x100018 ∨ rwAt (regPlace
      a) = some .ptpCfg ∨ rwAt (regPlace a) = some .asymmetry)) ∨ (i = .holdLimitWrite f ∧ a = 0x10001C) ∨ (i = .udpPortWrite f ∧ a
      = 0x200008) ∨ (i = .recoveryCfgWrite f ∧ a = 0x108) ∨ (i = .lastLatchClear f ∧ a = 0x300028)) ∧ Delivered 0x0A02 f s ∧ le
      f.payload 0 4 = a ∧ le f.payload 4 4 = v ∧ a % 4 = 0 ∧ isMapped a = true ∧ (∀ r, rwAt (regPlace a) = some r → badWrite r v s =
      false) ∧ legalDevice 0x0A02 s = none) ∧
    (∃ (i : Instr) (f : Frame) (s : State) (a v : Nat), (i = .regWrite f ∨ (i = .troubleBitClear f ∧ isTroublePlace (regPlace a) =
      true) ∨ (i = .counterClear f ∧ isCounterPlace (regPlace a) = true) ∨ (i = .wheelSourceWrite f ∧ (a = 0x100018 ∨ rwAt (regPlace
      a) = some .ptpCfg ∨ rwAt (regPlace a) = some .asymmetry)) ∨ (i = .holdLimitWrite f ∧ a = 0x10001C) ∨ (i = .udpPortWrite f ∧ a
      = 0x200008) ∨ (i = .recoveryCfgWrite f ∧ a = 0x108) ∨ (i = .lastLatchClear f ∧ a = 0x300028)) ∧ Delivered 0x0A02 f s ∧ le
      f.payload 0 4 = a ∧ le f.payload 4 4 = v ∧ a % 4 = 0 ∧ isMapped a = true ∧ (∀ r, rwAt (regPlace a) = some r → badWrite r v s =
      false) ∧ legalDevice 0x0A02 s = none) ∧
    (∃ (i : Instr) (f : Frame) (s : State) (a v : Nat), (i = .regWrite f ∨ (i = .troubleBitClear f ∧ isTroublePlace (regPlace a) =
      true) ∨ (i = .counterClear f ∧ isCounterPlace (regPlace a) = true) ∨ (i = .wheelSourceWrite f ∧ (a = 0x100018 ∨ rwAt (regPlace
      a) = some .ptpCfg ∨ rwAt (regPlace a) = some .asymmetry)) ∨ (i = .holdLimitWrite f ∧ a = 0x10001C) ∨ (i = .udpPortWrite f ∧ a
      = 0x200008) ∨ (i = .recoveryCfgWrite f ∧ a = 0x108) ∨ (i = .lastLatchClear f ∧ a = 0x300028)) ∧ Delivered 0x0A02 f s ∧ le
      f.payload 0 4 = a ∧ le f.payload 4 4 = v ∧ a % 4 = 0 ∧ isMapped a = true ∧ (∀ r, rwAt (regPlace a) = some r → badWrite r v s =
      false) ∧ legalDevice 0x0A02 s = none) ∧
    (∃ (s : State) (a v : Nat), s.Canonical ∧ s.dev.state ≠ .off ∧ s.pending = [] ∧ s.dev.regWrites = [(a, v)]) ∧
    (∃ (s : State) (a v : Nat), s.Canonical ∧ s.dev.state ≠ .off ∧ s.pending = [] ∧ s.dev.regWrites = [(a, v)]) ∧
    (∃ (s : State) (a : Nat) (r : TroubleReg), s.Canonical ∧ rwAt (regPlace a) = none ∧ troubleAt (regPlace a) = some r ∧
      s.regWritable (regPlace a) = true) ∧
    (∃ (s : State) (a : Nat), s.Canonical ∧ isCounterPlace (regPlace a) = true ∧ s.regWritable (regPlace a) = true) :=
  ⟨⟨.regWrite (fieldFrame 0x0A02 1 [(0,4,0x10001C),(4,4,3)]), fieldFrame 0x0A02 1 [(0,4,0x10001C),(4,4,3)], up, 0x10001C, 3,
      by decide +kernel, delivered_of (sealed _) (by decide +kernel), by decide +kernel, rfl, by decide +kernel⟩,
    ⟨.troubleBitClear (fieldFrame 0x0A02 1 [(0,4,0x100024),(4,4,3)]), fieldFrame 0x0A02 1 [(0,4,0x100024),(4,4,3)], up, 0x100024, 3,
      by decide +kernel, delivered_of (sealed _) (by decide +kernel), by decide +kernel, rfl, by decide +kernel⟩,
    ⟨.counterClear (fieldFrame 0x0A02 1 [(0,4,0x400010),(4,4,3)]), fieldFrame 0x0A02 1 [(0,4,0x400010),(4,4,3)], up, 0x400010, 3,
      by decide +kernel, delivered_of (sealed _) (by decide +kernel), by decide +kernel, rfl, by decide +kernel⟩,
    ⟨.wheelSourceWrite (fieldFrame 0x0A02 1 [(0,4,0x100018),(4,4,1)]), fieldFrame 0x0A02 1 [(0,4,0x100018),(4,4,1)], up, 0x100018,
      1, by decide +kernel, delivered_of (sealed _) (by decide +kernel), by decide +kernel, rfl, by decide +kernel⟩,
    ⟨.holdLimitWrite (fieldFrame 0x0A02 1 [(0,4,0x10001C),(4,4,3)]), fieldFrame 0x0A02 1 [(0,4,0x10001C),(4,4,3)], up, 0x10001C, 3,
      by decide +kernel, delivered_of (sealed _) (by decide +kernel), by decide +kernel, rfl, by decide +kernel⟩,
    ⟨.udpPortWrite (fieldFrame 0x0A02 1 [(0,4,0x200008),(4,4,65536)]), fieldFrame 0x0A02 1 [(0,4,0x200008),(4,4,65536)], up,
      0x200008, 65536, by decide +kernel, delivered_of (sealed _) (by decide +kernel), by decide +kernel, rfl, by decide +kernel⟩,
    ⟨.recoveryCfgWrite (fieldFrame 0x0A02 1 [(0,4,0x108),(4,4,770)]), fieldFrame 0x0A02 1 [(0,4,0x108),(4,4,770)], up, 0x108, 770,
      by decide +kernel, delivered_of (sealed _) (by decide +kernel), by decide +kernel, rfl, by decide +kernel⟩,
    ⟨.lastLatchClear (fieldFrame 0x0A02 1 [(0,4,0x300028)]), fieldFrame 0x0A02 1 [(0,4,0x300028)], up, 0x300028, 0,
      by decide +kernel, delivered_of (sealed _) (by decide +kernel), by decide +kernel, rfl, by decide +kernel⟩,
    ⟨{ up with dev := { up.dev with regWrites := [(0x10001C, 3)] } }, 0x10001C, 3, canonical_of (by decide +kernel),
      by decide +kernel⟩,
    ⟨{ up with dev := { up.dev with regWrites := [(0x200008, 65536)] } }, 0x200008, 65536, canonical_of (by decide +kernel),
      by decide +kernel⟩,
    ⟨given32, 0x100024, .wheel, canonical_of (by decide +kernel), by decide +kernel⟩,
    ⟨up.modStack 0 fun k => { k with correctedCount := 7 }, 0x400010, canonical_of (by decide +kernel), by decide +kernel⟩⟩

theorem witness_TimeCommandsSetTheWheel :
    (∃ (f : Frame) (s u : State) (c n : Nat), Acts 0x0D01 f s u c ∧ le f.payload 0 8 = n ∧ n < 18446744073709551615 ∧ legal 0x0D01
      f.context.toNat u = none ∧ u.wheel.state = .unset) ∧
    (∃ (f : Frame) (s u : State) (c : Nat), Acts 0x0D01 f s u c ∧ le f.payload 0 8 < 18446744073709551615 ∧ legal 0x0D01
      f.context.toNat u = none ∧ u.wheel.state ≠ .unset) ∧
    (∃ (f : Frame) (s u : State) (c : Nat), Acts 0x0D01 f s u c ∧ le f.payload 0 8 = 18446744073709551615) ∧
    (∃ (f : Frame) (s : State) (o : Nat), Numbered 0x0D01 f s ∧ privilegeCheck 0x0D01 f (s.session f.session.toNat) = none ∧
      generationCheck f (s.session f.session.toNat) s = none ∧ f.payload.length = 16 ∧ 8 ≤ o ∧ o < 16 ∧ byteAt f.payload o ≠ 0 ∧ (∀
      k, 8 ≤ k → k < o → byteAt f.payload k = 0)) :=
  ⟨⟨fieldFrame 0x0D01 1 [(0,8,1000)], { up with wheel := {} }, ({ up with wheel := {} }).noted (fieldFrame 0x0D01 1 [(0,8,1000)]),
      255, 1000, acts_of (sealed _) (by decide +kernel), by decide +kernel⟩,
    ⟨fieldFrame 0x0D01 1 [(0,8,1000)], up, up.noted (fieldFrame 0x0D01 1 [(0,8,1000)]), 255, acts_of (sealed _) (by decide +kernel),
      by decide +kernel⟩,
    ⟨fieldFrame 0x0D01 1 [(0,8,18446744073709551615)], up, up.noted (fieldFrame 0x0D01 1 [(0,8,18446744073709551615)]), 255, acts_of
      (sealed _) (by decide +kernel), by decide +kernel⟩,
    ⟨fieldFrame 0x0D01 1 [(0,8,1000),(9,1,4),(15,1,1)], { up with wheel := {} }, 9, numbered_of (sealed _) (by decide +kernel),
      by decide +kernel⟩⟩

theorem witness_TimeMessagesReachTheWheel :
    (∃ (m : SyncMsg) (s₀ s : State), s₀.letIn m.head.secured = (s, true) ∧ s.selects m.head = true ∧ -7 ≤ m.head.logInterval ∧
      m.head.logInterval ≤ 1 ∧ m.twoStep = true) ∧
    (∃ (m : SyncMsg) (s₀ s : State) (n : Nat), s₀.letIn m.head.secured = (s, true) ∧ s.selects m.head = true ∧ -7 ≤
      m.head.logInterval ∧ m.head.logInterval ≤ 1 ∧ m.twoStep = false ∧ s.wheel.state = .unset ∧ s.names 0 = true ∧ (4294967296 *
      m.sourceTime + fineOf s.wheel.correction : Int) = n) ∧
    (∃ (m : SyncMsg) (s₀ s : State), s₀.letIn m.head.secured = (s, true) ∧ s.isFollower = false ∧ s.wheel.transmitter ≠ some
      m.head.transmitter) ∧
    (∃ (h : PtpHead) (n x : Nat) (s₀ s : State), s₀.letIn h.secured = (s, true) ∧ s.selects h = true ∧ s.wheel.awaitedFollowUp =
      some h.sequence ∧ s.wheel.state = .unset ∧ s.names 0 = true ∧ (4294967296 * n + fineOf s.wheel.correction : Int) = x) ∧
    (∃ (m : AnnounceMsg) (s₀ s : State), s₀.letIn m.head.secured = (s, true) ∧ s.hears m.head = true ∧ -7 ≤ m.head.logInterval ∧
      m.head.logInterval ≤ 1 ∧ s.isFollower = false ∧ s.wheel.foreign = [] ∧ s.wheel.transmitter = none) ∧
    (∃ (m : AnnounceMsg) (s₀ s : State) (x y : ForeignClock), s₀.letIn m.head.secured = (s, true) ∧ s.hears m.head = true ∧ -7 ≤
      m.head.logInterval ∧ m.head.logInterval ≤ 1 ∧ s.isFollower = false ∧ s.wheel.foreign = [x] ∧ x.transmitter =
      m.head.transmitter ∧ m.clock.steps < 255 ∧ s.wheel.transmitter = none ∧ y =
      { transmitter := m.head.transmitter, clock := m.clock, interval := m.head.logInterval, heard := s.uptime, before := some x.heard }
      ∧ s.uptime ≤ x.heard + y.window) ∧
    (∃ (w : Wheel) (x y : ForeignClock), w.foreign = [x, y] ∧ x.qualified = true ∧ y.qualified = true) ∧
    (∃ (x y : ForeignClock), x.clock.grandmaster ≠ y.clock.grandmaster) ∧
    (∃ (m : DelayMsg) (s₀ s : State), s₀.letIn m.head.secured = (s, true) ∧ m.peer = s.wheel.peerDelay ∧ s.selects m.head = true) :=
  ⟨⟨sync true, unset, unset, rfl, by decide +kernel⟩,
    ⟨sync false, unset, unset, 38654705664000, rfl, by decide +kernel⟩,
    ⟨sync false, { up with wheel := {} }, { up with wheel := {} }, rfl, by decide +kernel⟩,
    ⟨ptpHead, 9000, 38654705664000, given33, given33, rfl, by decide +kernel⟩,
    ⟨{ head := ptpHead, clock := clock1, seconds := 100 }, { up with wheel := {} }, { up with wheel := {} }, rfl, by decide +kernel⟩,
    ⟨{ head := ptpHead, clock := clock1, seconds := 100 }, { up with wheel := { ({} : Wheel) with foreign := [foreign1] } },
      { up with wheel := { ({} : Wheel) with foreign := [foreign1] } }, foreign1,
      { foreign1 with heard := up.uptime, before := some 2000000 }, rfl, by decide +kernel⟩,
    ⟨{ ({} : Wheel) with foreign := [{ foreign1 with before := some 1999999 }, { foreign1 with transmitter := 9, before := some 1999999, clock := { clock1 with priority1 := 9, grandmaster := 9 } }] },
      { foreign1 with before := some 1999999 },
      { foreign1 with transmitter := 9, before := some 1999999, clock := { clock1 with priority1 := 9, grandmaster := 9 } },
      by decide +kernel⟩,
    ⟨foreign1, { foreign1 with clock := { clock1 with priority1 := 9, grandmaster := 9 } }, by decide +kernel⟩,
    ⟨{ head := ptpHead, peer := false, delay := 4 }, unset, unset, rfl, by decide +kernel⟩⟩

theorem witness_EdgesAreJudgedAndGiven :
    (∃ (s : State), s.wheel.lastPps = none) ∧
    (∃ (p : Int) (s : State), s.wheel.lastPps.isSome = true ∧ 1000 < p.natAbs) ∧
    (∃ (p : Int) (s : State), s.wheel.lastPps.isSome = true ∧ p.natAbs ≤ 1000 ∧ s.names 1 = false ∧ s.isFollower = false) ∧
    (∃ (p o f : Int) (s : State), s.wheel.lastPps.isSome = true ∧ p.natAbs ≤ 1000 ∧ s.names 1 = true ∧ s.isFollower = false ∧
      s.wheel.inUse = some 1 ∧ s.wheel.state = .locked ∧ s.wheel.ppsLost = false ∧ 1048576 * o.natAbs ≤ 1024000000000 ∧ f =
      Config.servoFilter s.wheel.offset o) ∧
    (∃ (n : Nat) (s : State), s.wheel.lastValidPps = some n ∧ 1048576 + n + 2 ≤ s.uptime) ∧
    (∃ (s : State), s.wheel.ppsOut = true ∧ s.wheel.state ≠ .unset ∧ s.wheel.position % 1048576 = 0) ∧
    (∃ (s : State), s.pins.ppsOut = true ∧ 131072 + s.pins.ppsOutRose ≤ s.wheel.position) ∧
    (∃ (s : State), s.Clear ∧ s.fabric.role = 1 ∧ (∀ n, s.fabric.syncSent = some n → 65536 + n ≤ s.uptime)) :=
  ⟨⟨up, by decide +kernel⟩,
    ⟨-1001, { up with wheel := { up.wheel with lastPps := some 5 } }, by decide +kernel⟩,
    ⟨1000, { up with wheel := { up.wheel with lastPps := some 5, second := 0 } }, by decide +kernel⟩,
    ⟨1, 1, Config.servoFilter given138.wheel.offset 1, given138, and4 (by decide +kernel) (and4 (by decide +kernel) rfl)⟩,
    ⟨5, given34, by decide +kernel⟩,
    ⟨{ up with wheel := { up.wheel with ppsOut := true } }, by decide +kernel⟩,
    ⟨given35, by decide +kernel⟩,
    ⟨{ up with fabric := { up.fabric with role := 1 } }, clear_of (by decide +kernel), by decide +kernel⟩⟩

theorem witness_WheelStatesFollowTheirSources :
    (∃ (f : Frame) (s u : State) (c : Nat) (p : List Byte), Acts 0x0D02 f s u c ∧ f.payload = p ∧ badSource (le p 0 4) (le p 4 4)
      (signed 32 (le p 8 4)) = none ∧ badUnicast (le p 4 4) (slice p 12 16) = false ∧ legal 0x0D02 f.context.toNat u = none) ∧
    (∃ (s t : State) (c : SourceConfig), s.wheel.nextSource = some c ∧ s.applySource = t) ∧
    (∃ (f : Frame) (s u : State) (c n : Nat), Acts 0x0D01 f s u c ∧ le f.payload 0 8 = n ∧ n < 18446744073709551615 ∧ legal 0x0D01
      f.context.toNat u = none ∧ u.wheel.state = .unset) ∧
    (∃ (s : State) (t : Nat), s.wheel.state = .holdover ∧ (s.uptime - s.wheel.holdSince) / 1048576 = t) ∧
    (∃ (n : Nat) (s : State), s.wheel.state = .acquiring ∧ s.wheel.inBandSince = some n ∧ 16777216 + n ≤ s.uptime) ∧
    (∃ (n : Nat) (s : State), s.wheel.state = .locked ∧ s.wheel.lockedSince = some n ∧ 629145600 + n ≤ s.uptime) ∧
    (∃ (s : State), s.wheel.state = .locked ∧ s.wheel.source = 1 ∧ s.ptpSilent = true ∧ s.isFollower = false ∧ s.names 1 = false) ∧
    (∃ (s : State), s.wheel.state = .holdover ∧ s.wheel.holdLimit < s.errorBound) ∧
    (∃ (s : State), s.isFollower = false ∧ s.wheel.first = 0 ∧ s.wheel.source = 2 ∧ s.wheel.ptpValid = true ∧ 16777216 +
      s.wheel.ptpValidSince ≤ s.uptime) :=
  ⟨⟨fieldFrame 0x0D02 1 [(0,4,1),(8,4,77)], up, up.noted (fieldFrame 0x0D02 1 [(0,4,1),(8,4,77)]), 255, (fieldFrame 0x0D02 1
      [(0,4,1),(8,4,77)]).payload, acts_of (sealed _) (by decide +kernel), by decide +kernel⟩,
    ⟨given139, given139.applySource, { cfg := 9, ptp := 3, asymmetry := -5, unicast := zeros 16 }, by decide +kernel, rfl⟩,
    ⟨fieldFrame 0x0D01 1 [(0,8,1000)], { up with wheel := {} }, ({ up with wheel := {} }).noted (fieldFrame 0x0D01 1 [(0,8,1000)]),
      255, 1000, acts_of (sealed _) (by decide +kernel), by decide +kernel⟩,
    ⟨given36, 1, by decide +kernel, rfl⟩,
    ⟨0, given37, by decide +kernel⟩,
    ⟨0, given38, by decide +kernel⟩,
    ⟨given39, by decide +kernel⟩,
    ⟨given40, by decide +kernel⟩,
    ⟨given41, by decide +kernel⟩⟩

theorem witness_FabricCommandsSetMembership :
    (∃ (f : Frame) (s : State) (p : List Byte), Delivered 0x0E01 f s ∧ f.payload = p ∧ byteAt p 23 ≠ 0xFF ∧ legalDevice 0x0E01 s =
      none) ∧
    (∃ (f : Frame) (s : State) (p : List Byte) (id want vlan : Nat), Delivered 0x0E02 f s ∧ f.payload = p ∧ le p 0 8 = id ∧ le p 8 2
      = want ∧ le p 10 2 = vlan ∧ 0 < id ∧ id < 18446744073709551615 ∧ (want < 4096 ∨ want = 65535) ∧ vlan ≤ 4094 ∧ legalDevice
      0x0E02 s = none) ∧
    (∃ (f : Frame) (s : State), Delivered 0x0E03 f s ∧ legalDevice 0x0E03 s = none) ∧
    (∃ (f : Frame) (s : State) (first n : Nat), Delivered 0x0E04 f s ∧ le f.payload 0 2 = first ∧ le f.payload 2 2 = n ∧ n ≤ 64 ∧ 64
      * n + 56 ≤ (s.session f.session.toNat).maxPayload ∧ first + n ≤ 4096 ∧ first ≤ 4095 ∧ legalDevice 0x0E04 s = none) :=
  ⟨⟨fieldFrame 0x0E01 1 [(0,4,0x0A00000A),(8,8,1)], up, (fieldFrame 0x0E01 1 [(0,4,0x0A00000A),(8,8,1)]).payload, delivered_of
      (sealed _) (by decide +kernel), by decide +kernel⟩,
    ⟨fieldFrame 0x0E02 1 [(0,8,9),(8,2,77),(10,2,5),(16,8,3)], up, (fieldFrame 0x0E02 1
      [(0,8,9),(8,2,77),(10,2,5),(16,8,3)]).payload, 9, 77, 5, delivered_of (sealed _) (by decide +kernel), by decide +kernel⟩,
    ⟨fieldFrame 0x0E03 1 [], knows, delivered_of (sealed _) (by decide +kernel), by decide +kernel⟩,
    ⟨fieldFrame 0x0E04 1 [(0,2,6),(2,2,2)], knows, 6, 2, delivered_of (sealed _) (by decide +kernel), by decide +kernel⟩⟩

theorem witness_RoutesFollowBeacons :
    (∃ (g : Option SecTag) (b : BitVec 32) (s₀ s : State), s₀.letIn g = (s, true) ∧ s.dev.portUp = true ∧ s.fabric.ipv4 ≠ 0 ∧ b =
      s.fabric.ipv4) ∧
    (∃ (g : Option SecTag) (b : BitVec 128) (s₀ s : State), s₀.letIn g = (s, true) ∧ s.dev.portUp = true ∧ (b.toNat = s.linkLocal ∨
      (s.fabric.ipv6 ≠ 0 ∧ b = s.fabric.ipv6))) ∧
    (∃ (s : State), s.Canonical ∧ s.fabric.member = true ∧ s.stagePassed 9 = true ∧ (∀ n, s.fabric.lastBeacon = some n → n + 262144
      ≤ s.uptime) ∧ s.fabric.claim < 2) ∧
    (∃ (b : Beacon) (s₀ s : State), s.Canonical ∧ s₀.letIn b.secured = (s, true) ∧ b.tagOk = true ∧ s.fabric.member = true ∧
      b.fabric = s.fabric.id ∧ b.claim ≠ 2 ∧ b.serial ≠ s.dev.serial ∧ (s.fabric.claim = 2 ∨ b.address ≠ s.fabric.address) ∧ (∀ x,
      s.fabric.entry b.address = some x → x.serial = b.serial)) ∧
    (∃ (b : Beacon) (s₀ s : State), s₀.letIn b.secured = (s, true) ∧ b.tagOk = true ∧ s.fabric.member = true ∧ b.fabric =
      s.fabric.id ∧ b.claim ≠ 2 ∧ b.serial ≠ s.dev.serial ∧ b.address = s.fabric.address ∧ s.fabric.claim ≠ 2) ∧
    (∃ (b : Beacon) (s₀ s : State), s₀.letIn b.secured = (s, true) ∧ b.tagOk = true ∧ s.fabric.member = true ∧ b.fabric =
      s.fabric.id ∧ b.claim ≠ 2 ∧ b.serial ≠ s.dev.serial ∧ b.address = s.fabric.address ∧ s.fabric.claim ≠ 2) ∧
    (∃ (a : Nat) (b : Beacon) (s : State), s.Canonical ∧ s.fabric.entry a = some b ∧ (sget {} s.fabric.routes a).heardAt + 1048576 ≤
      s.uptime ∧ s.fabric.runs = [] ∧ s.fabric.checks = [] ∧ s.fabric.role ≠ 2) :=
  ⟨⟨none, 10, { up with fabric := { up.fabric with ipv4 := 10 } }, { up with fabric := { up.fabric with ipv4 := 10 } }, rfl,
      by decide +kernel⟩,
    ⟨none, BitVec.ofNat 128 (State.linkLocal up), up, up, rfl, by decide +kernel, .inl (linkLocal_fits _)⟩,
    ⟨given42, canonical_of (by decide +kernel), by decide +kernel⟩,
    ⟨beacon1, member, member, canonical_of (by decide +kernel), rfl, by decide +kernel⟩,
    ⟨{ beacon1 with address := 3 }, member, member, rfl, by decide +kernel⟩,
    ⟨{ beacon1 with address := 3, serial := List.replicate 16 9 }, member, member, rfl, by decide +kernel⟩,
    ⟨7, beacon1, { knows with uptime := 4000000 }, canonical_of (by decide +kernel), by decide +kernel⟩⟩

theorem witness_BadFabricFramesAreDropped :
    (∃ (s₀ s : State) (i : Instr) (ok : Bool) (g : Option SecTag), s₀.letIn g = (s, true) ∧ (ok = false ∨ s.fabric.member = false) ∧
      ((∃ b : Beacon, i = .beaconReceived b ∧ b.tagOk = ok ∧ b.secured = g) ∨ (∃ m : Forward, (i = .probe m ∨ i = .commit m true ∨ i
      = .commit m false) ∧ m.tagOk = ok ∧ m.secured = g) ∨ (∃ a : Answer, (i = .probeAnswer a ∨ i = .commitAnswer a) ∧ a.tagOk = ok
      ∧ a.secured = g) ∨ (∃ m : CopyMsg, (i = .copyDestinationCheck m ∨ i = .copyPagePiece m) ∧ m.tagOk = ok ∧ m.secured = g) ∨ (∃ h
      : AckHead, ∃ n p c y, i = .copyAck h n p c y ∧ h.secured = g ∧ (h.tagOk = ok ∨ h.opcode ≠ 0x0E87)))) ∧
    (∃ (s₀ s : State) (i : Instr) (ok : Bool) (g : Option SecTag), s₀.letIn g = (s, true) ∧ (ok = false ∨ s.fabric.member = false) ∧
      ((∃ b : Beacon, i = .beaconReceived b ∧ b.tagOk = ok ∧ b.secured = g) ∨ (∃ m : Forward, (i = .probe m ∨ i = .commit m true ∨ i
      = .commit m false) ∧ m.tagOk = ok ∧ m.secured = g) ∨ (∃ a : Answer, (i = .probeAnswer a ∨ i = .commitAnswer a) ∧ a.tagOk = ok
      ∧ a.secured = g) ∨ (∃ m : CopyMsg, (i = .copyDestinationCheck m ∨ i = .copyPagePiece m) ∧ m.tagOk = ok ∧ m.secured = g) ∨ (∃ h
      : AckHead, ∃ n p c y, i = .copyAck h n p c y ∧ h.secured = g ∧ (h.tagOk = ok ∨ h.opcode ≠ 0x0E87)))) ∧
    (∃ (s₀ s : State) (i : Instr) (ok : Bool) (g : Option SecTag), s₀.letIn g = (s, true) ∧ (ok = false ∨ s.fabric.member = false) ∧
      ((∃ b : Beacon, i = .beaconReceived b ∧ b.tagOk = ok ∧ b.secured = g) ∨ (∃ m : Forward, (i = .probe m ∨ i = .commit m true ∨ i
      = .commit m false) ∧ m.tagOk = ok ∧ m.secured = g) ∨ (∃ a : Answer, (i = .probeAnswer a ∨ i = .commitAnswer a) ∧ a.tagOk = ok
      ∧ a.secured = g) ∨ (∃ m : CopyMsg, (i = .copyDestinationCheck m ∨ i = .copyPagePiece m) ∧ m.tagOk = ok ∧ m.secured = g) ∨ (∃ h
      : AckHead, ∃ n p c y, i = .copyAck h n p c y ∧ h.secured = g ∧ (h.tagOk = ok ∨ h.opcode ≠ 0x0E87)))) ∧
    (∃ (s₀ s : State) (i : Instr) (ok : Bool) (g : Option SecTag), s₀.letIn g = (s, true) ∧ (ok = false ∨ s.fabric.member = false) ∧
      ((∃ b : Beacon, i = .beaconReceived b ∧ b.tagOk = ok ∧ b.secured = g) ∨ (∃ m : Forward, (i = .probe m ∨ i = .commit m true ∨ i
      = .commit m false) ∧ m.tagOk = ok ∧ m.secured = g) ∨ (∃ a : Answer, (i = .probeAnswer a ∨ i = .commitAnswer a) ∧ a.tagOk = ok
      ∧ a.secured = g) ∨ (∃ m : CopyMsg, (i = .copyDestinationCheck m ∨ i = .copyPagePiece m) ∧ m.tagOk = ok ∧ m.secured = g) ∨ (∃ h
      : AckHead, ∃ n p c y, i = .copyAck h n p c y ∧ h.secured = g ∧ (h.tagOk = ok ∨ h.opcode ≠ 0x0E87)))) ∧
    (∃ (s₀ s : State) (i : Instr) (ok : Bool) (g : Option SecTag), s₀.letIn g = (s, true) ∧ (ok = false ∨ s.fabric.member = false) ∧
      ((∃ b : Beacon, i = .beaconReceived b ∧ b.tagOk = ok ∧ b.secured = g) ∨ (∃ m : Forward, (i = .probe m ∨ i = .commit m true ∨ i
      = .commit m false) ∧ m.tagOk = ok ∧ m.secured = g) ∨ (∃ a : Answer, (i = .probeAnswer a ∨ i = .commitAnswer a) ∧ a.tagOk = ok
      ∧ a.secured = g) ∨ (∃ m : CopyMsg, (i = .copyDestinationCheck m ∨ i = .copyPagePiece m) ∧ m.tagOk = ok ∧ m.secured = g) ∨ (∃ h
      : AckHead, ∃ n p c y, i = .copyAck h n p c y ∧ h.secured = g ∧ (h.tagOk = ok ∨ h.opcode ≠ 0x0E87)))) :=
  ⟨⟨up, up, .beaconReceived { beacon1 with tagOk := false }, false, none, rfl, by decide +kernel,
      .inl ⟨{ beacon1 with tagOk := false }, rfl, rfl, rfl⟩⟩,
    ⟨up, up, .probeAnswer { ans with tagOk := false }, false, none, rfl, by decide +kernel,
      .inr (.inr (.inl ⟨{ ans with tagOk := false }, .inl rfl, rfl, rfl⟩))⟩,
    ⟨up, up, .commit { forward1 with tagOk := false } false, false, none, rfl, by decide +kernel,
      .inr (.inl ⟨{ forward1 with tagOk := false }, .inr (.inr rfl), rfl, rfl⟩)⟩,
    ⟨up, up, .copyPagePiece { page1 with tagOk := false }, false, none, rfl, by decide +kernel,
      .inr (.inr (.inr (.inl ⟨{ page1 with tagOk := false }, .inr rfl, rfl, rfl⟩)))⟩,
    ⟨up, up, .copyAck { opcode := 0x0E90, context := 0 } 1 2 true true, true, none, rfl, by decide +kernel,
      .inr (.inr (.inr (.inr ⟨{ opcode := 0x0E90, context := 0 }, 1, 2, true, true, rfl, rfl, .inl rfl⟩)))⟩⟩

theorem witness_CascadeRolesAreTakenAndLeft :
    (∃ (f : Frame) (s : State) (d : Nat), Delivered 0x0F01 f s ∧ le f.payload 0 1 = d ∧ d ≤ 127 ∧ legalDevice 0x0F01 s = none ∧
      s.fabric.member = true ∧ s.fabric.claim = 1) ∧
    (∃ (f : Frame) (s : State) (p : List Byte) (a d : Nat) (b : Beacon), Delivered 0x0F02 f s ∧ f.payload = p ∧ le p 0 2 = a ∧ le p
      2 1 = d ∧ d ≤ 127 ∧ legalDevice 0x0F02 s = none ∧ s.fabric.member = true ∧ s.fabric.claim ≠ 2 ∧ s.fabric.role ≠ 1 ∧
      s.fabric.entry a = some b ∧ b.role = 1 ∧ s.fabric.followersOf a s.dev.serial < 15) ∧
    (∃ (f : Frame) (s : State), Delivered 0x0F03 f s ∧ legalDevice 0x0F03 s = none) :=
  ⟨⟨fieldFrame 0x0F01 1 [(0,1,127)], member, 127, delivered_of (sealed _) (by decide +kernel), by decide +kernel⟩,
    ⟨fieldFrame 0x0F02 1 [(0,2,7),(2,1,5),(8,8,3)], knows, (fieldFrame 0x0F02 1 [(0,2,7),(2,1,5),(8,8,3)]).payload, 7, 5, beacon1,
      delivered_of (sealed _) (by decide +kernel), by decide +kernel⟩,
    ⟨fieldFrame 0x0F03 1 [], given43, delivered_of (sealed _) (by decide +kernel), by decide +kernel⟩⟩

theorem witness_TheHeadForwardsItsRuns :
    (∃ (f : Frame) (s u : State) (c a : Nat) (b : Beacon), Acts 0x0F04 f s u c ∧ le f.payload 0 1 ≤ 63 ∧ le f.payload 6 2 = 1 ∧ 0 <
      le f.payload 76 2 ∧ le f.payload 8 2 = a ∧ (∀ i, 1 ≤ i → i < 16 → le f.payload (8 + 2 * i) 2 = 0) ∧ u.fabric.role = 1 ∧
      u.fabric.claim ≠ 2 ∧ u.fabric.entry a = some b ∧ b.role = 2 ∧ b.head = u.fabric.address ∧ a ≠ u.fabric.address ∧ b.serial ≠
      u.dev.serial ∧ legalDevice 0x0F04 u = none) ∧
    (∃ (s₀ s : State) (r : CascadeRun) (a : Answer), s₀.letIn a.secured = (s, true) ∧ s.fabric.runs = [r] ∧ r.members = [a.serial] ∧
      r.answers = [] ∧ r.chosen = none ∧ r.frame.session.toNat = a.session ∧ r.frame.number.toNat = a.number ∧ a.tagOk = true ∧
      s.fabric.member = true ∧ a.serial ≠ s.dev.serial) ∧
    (∃ (s₀ s : State) (r : CascadeRun) (a : Answer), s₀.letIn a.secured = (s, true) ∧ s.fabric.runs = [r] ∧ r.members = [a.serial] ∧
      r.answers = [] ∧ r.chosen = none ∧ r.frame.session.toNat = a.session ∧ r.frame.number.toNat = a.number ∧ a.tagOk = true ∧
      s.fabric.member = true ∧ a.serial ≠ s.dev.serial ∧ a.status = Status.address) ∧
    (∃ (s : State) (r : CascadeRun) (a : List Byte) (sid n : Nat), s.fabric.runs = [r] ∧ r.chosen = some a ∧ r.frame.session.toNat =
      sid ∧ r.frame.number.toNat = n ∧ r.committedAt + 24 ≤ s.uptime ∧ a ≠ s.dev.serial) ∧
    (∃ (s₀ s : State) (r : CascadeRun) (a : Answer), s₀.letIn a.secured = (s, true) ∧ s.fabric.runs = [r] ∧ r.chosen = some a.serial
      ∧ r.frame.session.toNat = a.session ∧ r.frame.number.toNat = a.number ∧ a.tagOk = true ∧ s.fabric.member = true) :=
  ⟨⟨runF, head, head.noted runF, 255, 7, { beacon1 with role := 2, head := 3 }, acts_of (sealed _) (by decide +kernel),
      by decide +kernel⟩,
    ⟨{ head with fabric := { head.fabric with runs := [run1] } }, { head with fabric := { head.fabric with runs := [run1] } }, run1,
      { ans with status := Status.accepted }, rfl, by decide +kernel⟩,
    ⟨{ head with fabric := { head.fabric with runs := [run1] } }, { head with fabric := { head.fabric with runs := [run1] } }, run1,
      { ans with status := Status.address }, rfl, by decide +kernel⟩,
    ⟨given44, { run1 with chosen := some serial1, committedAt := 9 }, serial1, 1, 1, by decide +kernel⟩,
    ⟨given44, given44, { run1 with chosen := some serial1, committedAt := 9 }, ans, rfl, by decide +kernel⟩⟩

theorem witness_TheFollowerHoldsItsPlacement :
    (∃ (s₀ s : State) (m : Forward) (q : StepParams) (cmd : Cmd), s₀.letIn m.secured = (s, true) ∧ m.tagOk = true ∧ s.fabric.member
      = true ∧ s.fabric.role = 2 ∧ m.headSerial = s.fabric.headSerial ∧ s.fabric.mask.getLsbD m.context = true ∧ stepParams m.params
      = q ∧ firstFailing (stepForm m.context 40 q s ++ stepState m.context q s ++ [flowCheck m.context s]) = none ∧ s.judge
      m.context (forwardFrame m) q = .inr cmd) ∧
    (∃ (s₀ s : State) (m : Forward), s₀.letIn m.secured = (s, true) ∧ m.tagOk = true ∧ s.fabric.member = true ∧ s.fabric.role = 2 ∧
      m.headSerial = s.fabric.headSerial ∧ s.fabric.mask.getLsbD m.context = false) ∧
    (∃ (s₀ s : State) (m : Forward), s₀.letIn m.secured = (s, true) ∧ m.tagOk = true ∧ s.fabric.member = true ∧ s.fabric.role = 2 ∧
      m.headSerial = s.fabric.headSerial) ∧
    (∃ (s₀ s u : State) (m : Forward) (t : Tentative), s₀.letIn m.secured = (s, true) ∧ m.tagOk = true ∧ s.fabric.member = true ∧
      s.fabric.role = 2 ∧ m.headSerial = s.fabric.headSerial ∧ s.fabric.keptFor (forwardKey m) = none ∧ (∀ x ∈ s.journal.staging,
      x.cmd.forwarded ≠ some (forwardKey m)) ∧ s.schedule.tentative.find? (·.key == forwardKey m) = some t ∧ u =
      { s with schedule := { s.schedule with tentative := s.schedule.tentative.filter (·.key != forwardKey m) } } ∧ firstFailing
      (u.commitChecks m t) = none ∧ (u.appendBooked t.context t.cmd.slots t.cmd.append).isSome = true) ∧
    (∃ (s : State) (n : Nat) (t : Tentative), t ∈ s.schedule.tentative ∧ t.id = n ∧ t.until_ ≤ s.uptime) :=
  ⟨⟨follower, follower, { forward1 with params := stepF.payload }, stepParams ({ forward1 with params := stepF.payload }).params,
      rightOr cmd0 (follower.judge 0 (forwardFrame ({ forward1 with params := stepF.payload })) (stepParams
      ({ forward1 with params := stepF.payload }).params)), rfl, and4 (by decide +kernel) (and3 (by decide +kernel) (right_of
      (by decide +kernel)))⟩,
    ⟨follower, follower, { forward1 with context := 5 }, rfl, by decide +kernel⟩,
    ⟨given45, given45, forward1, rfl, by decide +kernel⟩,
    ⟨given46, given46, { given46 with schedule := { given46.schedule with tentative := [] } }, forward1,
      { id := 1, key := forwardKey forward1, context := 0, cmd := rightOr cmd0 (follower.judge 0 stepF (stepParams stepF.payload)), until_ := 3000000 },
      rfl, and4 (by decide +kernel) (and3 (by decide +kernel) ⟨rfl, by decide +kernel⟩)⟩,
    ⟨given45, 1, { id := 1, key := forwardKey forward1, context := 0, cmd := { frame := stepF }, until_ := 9 }, .head _,
      by decide +kernel⟩⟩

theorem witness_TheSourceCopiesUnitByUnit :
    (∃ (f : Frame) (s u : State) (c peer ctx src dst n : Nat) (b : Beacon), Acts 0x0E05 f s u c ∧ le f.payload 0 2 = peer ∧ le
      f.payload 2 1 = ctx ∧ le f.payload 8 8 = src ∧ le f.payload 16 8 = dst ∧ le f.payload 24 8 = n ∧ 0 < n ∧ n ≤ 2 ^ 40 ∧ peer ≤
      4095 ∧ ctx ≤ 63 ∧ src % 65536 = 0 ∧ dst % 65536 = 0 ∧ n % 65536 = 0 ∧ u.heldPeer peer = some b ∧ u.copyForeign c src n = false
      ∧ legal 0x0E05 c u = none ∧ u.windowRefusal src n = none ∧ flowCheck c u = none) ∧
    (∃ (f : Frame) (s u : State) (c peer : Nat) (b : Beacon), Acts 0x0E06 f s u c ∧ le f.payload 0 2 = peer ∧ peer ≤ 4095 ∧
      u.heldPeer peer = some b ∧ legal 0x0E06 c u = none ∧ u.migrateWindow c = none ∧ flowCheck c u = none) ∧
    (∃ (h : AckHead) (s₀ s u : State) (f : Frame) (serial : List Byte), s₀.letIn h.secured = (s, true) ∧ h.tagOk = true ∧ h.opcode =
      0x0E87 ∧ s.fabric.member = true ∧ s.fabric.claim ≠ 2 ∧ (s.fabric.checks.find? (fun e => checkTag e.1 == checkTag f) = some (f,
      serial)) ∧ f.opcode.toNat = 0x0E05 ∧ (u =
      { s with fabric := { s.fabric with checks := s.fabric.checks.filter fun e => e != (f, serial) } }) ∧ firstFailing
      [legal 0x0E05 f.context.toNat u, u.windowRefusal (le f.payload 8 8) (le f.payload 24 8), flowCheck f.context.toNat u] = none) ∧
    (∃ (h : AckHead) (s₀ s : State) (c csn unit : Nat) (m : Cmd), s₀.letIn h.secured = (s, true) ∧ h.tagOk = true ∧ h.opcode =
      0x0E87 ∧ s.fabric.member = true ∧ s.fabric.claim ≠ 2 ∧ csn < 2 ^ 64 ∧ s.cmd c csn = some m ∧ m.phase ≠ .completed ∧
      (s.copyUnits c m)[m.progress]? = some unit) ∧
    (∃ (s u v : State) (c csn : Nat) (m : Cmd), s.Canonical ∧ c < 64 ∧ s.cmd c csn = some m ∧ (m.opcode = 0x0E05 ∨ m.opcode =
      0x0E06) ∧ m.phase = .working ∧ (s.copyUnits c m)[m.progress]? = none ∧ m.stop = none ∧ (s.complete c csn 0 s.now (if m.opcode
      = 0x0E06 then m.lost else 0) { rank := 0, status := 0 } = v) ∧ v.replayStep = u) ∧
    (∃ (s : State) (c csn unit : Nat) (m : Cmd), s.cmd c csn = some m ∧ m.opcode = 0x0E05 ∧ m.phase = .working ∧ (s.copyUnits c
      m)[m.progress]? = some unit ∧ s.fabric.claim ≠ 2 ∧ (∀ e ∈ s.unitPlaces c m unit, s.reachHeld e.1 e.2 = false)) ∧
    (∃ (s : State) (c csn unit : Nat) (m : Cmd), s.cmd c csn = some m ∧ m.opcode = 0x0E05 ∧ m.phase = .working ∧ (s.copyUnits c
      m)[m.progress]? = some unit ∧ s.fabric.claim ≠ 2 ∧ (∀ e ∈ s.unitPlaces c m unit, s.reachHeld e.1 e.2 = false) ∧ m.begun = true
      ∧ (s.unitBytes c m unit).2.2.isNone = true) :=
  ⟨⟨copyF2, mapped4, mapped4.noted copyF2, 0, 7, 3, 196608, 65536, 65536, beacon1, acts_of (sealed _) (by decide +kernel),
      by decide +kernel⟩,
    ⟨migF, knows, knows.noted migF, 0, 7, beacon1, acts_of (sealed _) (by decide +kernel), by decide +kernel⟩,
    ⟨{ context := 0 }, given47, given47, given48, copyF2, beacon1.serial, rfl, and4 (by decide +kernel) (and2 (by decide +kernel)
      ⟨rfl, by decide +kernel⟩)⟩,
    ⟨{ context := 0 }, copying, copying, 0, 3, 65536, (copying.cmd 0 3).getD cmd0, rfl, and4 (by decide +kernel) ⟨by decide +kernel,
      some_of (by decide +kernel), by decide +kernel⟩⟩,
    ⟨given140, given141, given140.complete 0 3 0 given140.now 0 { rank := 0, status := 0 }, 0, 3,
      { waitCmd 0x0E05 3 with address := 196608, value := 65536, count := 65536, peer := serial1, phase := .working, progress := 1 },
      canonical_of (by decide +kernel), and4 (by decide +kernel) (and2 (by decide +kernel) ⟨rfl, rfl⟩)⟩,
    ⟨copying, 0, 3, 65536, (copying.cmd 0 3).getD cmd0, some_of (by decide +kernel), by decide +kernel⟩,
    ⟨copying.modCmd 0 3 fun x => { x with begun := true }, 0, 3, 65536, ((copying.modCmd 0 3 fun x => { x with begun := true }).cmd
      0 3).getD cmd0, some_of (by decide +kernel), by decide +kernel⟩⟩

theorem witness_ThePeerPinsAndTakes :
    (∃ (s₀ s : State) (m : CopyMsg), s₀.letIn m.secured = (s, true) ∧ m.tagOk = true ∧ s.fabric.member = true ∧ s.fabric.claim ≠ 2 ∧
      m.length ≠ 0 ∧ m.migrate = false ∧ s.checkSpan m = 0) ∧
    (∃ (s₀ s v : State) (m : CopyMsg) (p : Pin) (a : Nat), s₀.letIn m.secured = (s, true) ∧ m.tagOk = true ∧ s.fabric.member = true
      ∧ s.fabric.claim ≠ 2 ∧ m.migrate = false ∧ m.offset = 0 ∧ m.data.length = m.length ∧ (s.context m.context).pins.find? (·.takes
      m) = some p ∧ m.destination % 2 ^ 60 = a ∧ s.inFailedStack a m.length = false ∧ s.firstWindow a m.length = none ∧ s.accessHeld
      a m.length = false ∧ s.partlyLost {} a m.length = (v, none)) ∧
    (∃ (s₀ s : State) (m : CopyMsg) (p : Pin), s₀.letIn m.secured = (s, true) ∧ m.tagOk = true ∧ s.fabric.member = true ∧
      s.fabric.claim ≠ 2 ∧ m.migrate = false ∧ m.offset = 0 ∧ m.data.length < m.length ∧ (s.context m.context).pins.find? (·.takes
      m) = some p) :=
  ⟨⟨mapped4, mapped4, page1, rfl, by decide +kernel⟩,
    ⟨given49, given49, (given49.partlyLost {} 196608 ({ page1 with destination := 196608, length := 3, data := [7,8,9] }).length).1,
      { page1 with destination := 196608, length := 3, data := [7,8,9] },
      { source := serial1, csn := 3, migrate := false, destination := 196608, length := 65536 }, 196608, rfl, and4
      (by decide +kernel) (and4 (by decide +kernel) (and3 (by decide +kernel) (pair_of (by decide +kernel))))⟩,
    ⟨given49, given49, { page1 with destination := 196608, length := 65536, data := [7,8,9] },
      { source := serial1, csn := 3, migrate := false, destination := 196608, length := 65536 }, rfl, by decide +kernel⟩⟩

theorem witness_FirmwareIsWrittenAndChecked :
    (∃ (f : Frame) (s : State), Delivered 0x1001 f s ∧ legalDevice 0x1001 s = none) ∧
    (∃ (f : Frame) (s : State) (o n : Nat), Delivered 0x1002 f s ∧ le f.payload 0 4 = o ∧ le f.payload 4 4 = n ∧ 0 < n ∧ n ≤ 8192 ∧
      (o = 0 ∨ o = s.sec.writePosition) ∧ o + n ≤ 8388608 ∧ legalDevice 0x1002 s = none ∧ s.sec.staged ≠ 2 ∧ s.programHeld + n ≤
      65536) ∧
    (∃ (f : Frame) (s : State) (o n : Nat), Delivered 0x1002 f s ∧ le f.payload 0 4 = o ∧ le f.payload 4 4 = n ∧ 0 < n ∧ n ≤ 8192 ∧
      (o = 0 ∨ o = s.sec.writePosition) ∧ o + n ≤ 8388608 ∧ legalDevice 0x1002 s = none ∧ s.sec.staged ≠ 2 ∧ s.programHeld + n ≤
      65536) ∧
    (∃ (f : Frame) (s : State), Delivered 0x1003 f s ∧ legalDevice 0x1003 s = none ∧ s.sec.staged ≠ 0 ∧ s.sec.staged ≠ 2 ∧
      s.sec.writePosition = imageLength s.sec.other.image) ∧
    (∃ (r : Nat) (s : State), s.sec.staged = 2 ∧ r = imageFault s.sec.other.image s.sec.firmwareKeyDigest s.sec.rollback) ∧
    (∃ (r : Nat) (s : State), s.sec.staged = 2 ∧ r = imageFault s.sec.other.image s.sec.firmwareKeyDigest s.sec.rollback) ∧
    (∃ (fields key signature body l : List Byte) (s : State), s.dev.state = .faulted ∧ s.dev.readiness = 1 ∧ s.dev.testMode = false
      ∧ l = padTo 64 fields ++ padTo 160 key ++ padTo 96 signature ++ body ∧ imageFault l s.sec.firmwareKeyDigest s.sec.rollback =
      0) :=
  ⟨⟨fieldFrame 0x1001 1 [], up, delivered_of (sealed _) (by decide +kernel), by decide +kernel⟩,
    ⟨hostFrame 0x1002 1 (leBytes 4 0 ++ leBytes 4 3 ++ [1,0,3]), up, 0, 3, delivered_of (sealed _) (by decide +kernel), and4
      (by decide +kernel) (and4 (by decide +kernel) (buffer_free rfl (by decide)))⟩,
    ⟨hostFrame 0x1002 1 (leBytes 4 5 ++ leBytes 4 3 ++ [1,0,3]), { up with sec := { up.sec with staged := 1, writePosition := 5 } },
      5, 3, delivered_of (sealed _) (by decide +kernel), and4 (by decide +kernel) (and4 (by decide +kernel)
      (buffer_free rfl (by decide)))⟩,
    ⟨fieldFrame 0x1003 1 [], given50, delivered_of (sealed _) (by decide +kernel), by decide +kernel⟩,
    ⟨0, { opening with sec := { opening.sec with staged := 2 } }, by decide +kernel⟩,
    ⟨1, { opening with sec := { opening.sec with staged := 2, slotB := {} } }, by decide +kernel⟩,
    ⟨imageFields, testKey, imageSigned, [1, 2, 3, 4], image0, given51, by decide +kernel⟩⟩

theorem witness_KeysAreSet :
    (∃ (f : Frame) (s : State), Delivered 0x1004 f s ∧ firstFailing (authorisationForm f.payload) = none ∧ legalDevice 0x1004 s =
      none ∧ s.authorised f.payload 0 1 s.dev.listSequence = true) ∧
    (∃ (f : Frame) (s : State) (p : List Byte) (slot : Nat) (v : Operator), Delivered 0x1005 f s ∧ f.payload = p ∧ le p 0 1 = slot ∧
      slot ≤ 15 ∧ v = { used := true, ceiling := le p 1 1, mask := BitVec.ofNat 64 (le p 8 8), key := slice p 16 97 } ∧ v.ceiling ≤
      1 ∧ (keyPoint v.key).isSome = true ∧ legalDevice 0x1005 s = none) ∧
    (∃ (f : Frame) (s : State) (p : List Byte) (slot : Nat) (v : Operator), Delivered 0x1005 f s ∧ f.payload = p ∧ le p 0 1 = slot ∧
      slot ≤ 15 ∧ v = { used := true, ceiling := le p 1 1, mask := BitVec.ofNat 64 (le p 8 8), key := slice p 16 97 } ∧ v.ceiling ≤
      1 ∧ (keyPoint v.key).isSome = true ∧ legalDevice 0x1005 s = none ∧ managed (sput {} s.sec.operators slot v) = true) ∧
    (∃ (f : Frame) (s : State) (p : List Byte) (slot : Nat) (v : Operator), Delivered 0x1005 f s ∧ f.payload = p ∧ le p 0 1 = slot ∧
      slot ≤ 15 ∧ v = { used := true, ceiling := le p 1 1, mask := BitVec.ofNat 64 (le p 8 8), key := slice p 16 97 } ∧ v.ceiling ≤
      1 ∧ (keyPoint v.key).isSome = true ∧ legalDevice 0x1005 s = none ∧ managed (sput {} s.sec.operators slot v) = false) ∧
    (∃ (f : Frame) (s : State) (slot : Nat), Delivered 0x1006 f s ∧ le f.payload 0 1 = slot ∧ slot ≤ 15 ∧ legalDevice 0x1006 s =
      none) ∧
    (∃ (f : Frame) (s : State) (slot : Nat), Delivered 0x1006 f s ∧ le f.payload 0 1 = slot ∧ slot ≤ 15 ∧ legalDevice 0x1006 s =
      none ∧ managed (sput {} s.sec.operators slot {}) = true) ∧
    (∃ (f : Frame) (s : State) (slot : Nat), Delivered 0x1006 f s ∧ le f.payload 0 1 = slot ∧ slot ≤ 15 ∧ legalDevice 0x1006 s =
      none ∧ managed (sput {} s.sec.operators slot {}) = false) ∧
    (∃ (f : Frame) (s : State), Delivered 0x1007 f s ∧ le f.payload 0 1 = 0 ∧ le f.payload 1 1 ≤ 1 ∧ le f.payload 2 1 ≤ 3 ∧ le
      f.payload 28 4 ≤ 1073741824 ∧ legalDevice 0x1007 s = none) ∧
    (∃ (f : Frame) (s : State) (p key : List Byte) (op : Nat) (a : SecAssoc), Delivered 0x1007 f s ∧ f.payload = p ∧ le p 0 1 = op ∧
      (op = 1 ∨ op = 2) ∧ le p 1 1 ≤ 1 ∧ le p 2 1 ≤ 3 ∧ gcmOpen (s.session f.session.toNat).wrapKey (leBytes 8 f.number.toNat ++
      zeros 4) (slice p 0 40) (slice p 40 48) = some key ∧ a =
      { receive := decide (op = 1), an := le p 2 1, sci := le p 4 8, ssci := le p 12 4, salt := slice p 16 12, window := le p 28 4, nextPn := le p 32 8, lowest := le p 32 8, key := key }
      ∧ a.window ≤ 1073741824 ∧ legalDevice 0x1007 s = none) :=
  ⟨⟨hostFrame 0x1004 1 clearPayload, opening, delivered_of (sealed _) (by decide +kernel), by decide +kernel⟩,
    ⟨hostFrame 0x1005 1 (pay 16 [(0,1,2),(1,1,1),(8,8,3)] ++ testKey ++ zeros 7), ops, (hostFrame 0x1005 1 (pay 16
      [(0,1,2),(1,1,1),(8,8,3)] ++ testKey ++ zeros 7)).payload, 2,
      { used := true, ceiling := 1, mask := 3, key := slice ((hostFrame 0x1005 1 (pay 16 [(0,1,2),(1,1,1),(8,8,3)] ++ testKey ++ zeros 7)).payload) 16 97 },
      delivered_of (sealed _) (by decide +kernel), by decide +kernel⟩,
    ⟨hostFrame 0x1005 1 (pay 16 [(0,1,2),(1,1,1),(8,8,3)] ++ testKey ++ zeros 7), ops, (hostFrame 0x1005 1 (pay 16
      [(0,1,2),(1,1,1),(8,8,3)] ++ testKey ++ zeros 7)).payload, 2,
      { used := true, ceiling := 1, mask := 3, key := slice ((hostFrame 0x1005 1 (pay 16 [(0,1,2),(1,1,1),(8,8,3)] ++ testKey ++ zeros 7)).payload) 16 97 },
      delivered_of (sealed _) (by decide +kernel), by decide +kernel⟩,
    ⟨hostFrame 0x1005 1 (pay 16 [(8,8,3)] ++ testKey ++ zeros 7), oneOp, (hostFrame 0x1005 1 (pay 16 [(8,8,3)] ++ testKey ++ zeros
      7)).payload, 0,
      { used := true, ceiling := 0, mask := 3, key := slice ((hostFrame 0x1005 1 (pay 16 [(8,8,3)] ++ testKey ++ zeros 7)).payload) 16 97 },
      delivered_of (sealed _) (by decide +kernel), by decide +kernel⟩,
    ⟨fieldFrame 0x1006 1 [(0,1,2)], ops, 2, delivered_of (sealed _) (by decide +kernel), by decide +kernel⟩,
    ⟨fieldFrame 0x1006 1 [(0,1,2)], ops, 2, delivered_of (sealed _) (by decide +kernel), by decide +kernel⟩,
    ⟨fieldFrame 0x1006 1 [(0,1,0)], oneOp, 0, delivered_of (sealed _) (by decide +kernel), by decide +kernel⟩,
    ⟨fieldFrame 0x1007 1 [(1,1,1)], up, delivered_of (sealed _) (by decide +kernel), by decide +kernel⟩,
    ⟨hostFrame 0x1007 1 wrapPayload, opening, (hostFrame 0x1007 1 wrapPayload).payload, zeros 32, 1,
      { receive := true, an := 1, sci := 5, ssci := 6, salt := zeros 12, window := 64, nextPn := 1, lowest := 1, key := zeros 32 },
      delivered_of (sealed _) (by decide +kernel), by decide +kernel⟩⟩

theorem witness_InjectionsAreArmedAndCleared :
    (∃ (f : Frame) (s u : State) (c : Nat) (p : List Byte) (j : Injection), Acts 0x1201 f s u c ∧ f.payload = p ∧ j =
      { number := u.nextInjection, verb := 1, action := le p 3 1, link := le p 0 1, bundle := le p 1 1, direction := le p 2 1, lane := le p 4 2, skip := le p 8 4, left := le p 12 4, armedAt := u.uptime, session := f.session.toNat, waiting := some f.number.toNat }
      ∧ 0 < j.left ∧ j.left ≤ 65534 ∧ j.link ≤ 5 ∧ j.bundle < bundlesOf j.link ∧ j.direction ≤ 1 ∧ (((j.action = 1 ∨ j.action = 2) ∧
      j.lane = 0) ∨ (j.action = 3 ∧ j.lane ≤ 297 ∧ j.left = 1)) ∧ j.skip < 4294967295 ∧ legalDevice 0x1201 u = none ∧ u.injections =
      []) ∧
    (∃ (f : Frame) (s u : State) (c : Nat) (p : List Byte) (j : Injection), Acts 0x1201 f s u c ∧ f.payload = p ∧ j =
      { number := u.nextInjection, verb := 1, action := le p 3 1, link := le p 0 1, bundle := le p 1 1, direction := le p 2 1, lane := le p 4 2, skip := le p 8 4, left := le p 12 4, armedAt := u.uptime, session := f.session.toNat, waiting := some f.number.toNat }
      ∧ 0 < j.left ∧ j.left ≤ 65534 ∧ j.link ≤ 5 ∧ j.bundle < bundlesOf j.link ∧ j.direction ≤ 1 ∧ (((j.action = 1 ∨ j.action = 2) ∧
      j.lane = 0) ∨ (j.action = 3 ∧ j.lane ≤ 297 ∧ j.left = 1)) ∧ j.skip < 4294967295 ∧ legalDevice 0x1201 u = none ∧ u.injections =
      []) ∧
    (∃ (s : State) (j : Injection), s.Canonical ∧ s.injections = [j] ∧ j.verb = 1 ∧ j.action = 3 ∧ j.skip = 0 ∧ j.armed = true ∧
      j.left = 1 ∧ j.hits = 0 ∧ j.link ≤ 5 ∧ j.bundle < bundlesOf j.link ∧ j.direction ≤ 1) ∧
    (∃ (s : State) (j : Injection), s.Canonical ∧ s.injections = [j] ∧ j.verb = 1 ∧ j.action = 3 ∧ j.skip = 0 ∧ j.armed = true ∧
      j.left = 1 ∧ j.hits = 0 ∧ j.link ≤ 5 ∧ j.bundle < bundlesOf j.link ∧ j.direction ≤ 1 ∧ j.waiting = none ∧ j.armedAt <
      s.uptime) ∧
    (∃ (f : Frame) (s u : State) (c : Nat) (p : List Byte) (j : Injection), Acts 0x1202 f s u c ∧ f.payload = p ∧ j =
      { number := u.nextInjection, verb := 2, action := le p 1 1, direction := le p 0 1, depth := le p 2 1, context := le p 3 1, kinds := le p 4 1, session := f.session.toNat, skip := le p 8 4, left := le p 12 4, every := le p 16 4, armedAt := u.uptime, waiting := some f.number.toNat }
      ∧ 0 < j.left ∧ j.left ≤ 65534 ∧ j.direction ≤ 1 ∧ (((j.action = 1 ∨ j.action = 2 ∨ j.action = 4) ∧ j.depth = 0) ∨ (j.action =
      3 ∧ 0 < j.depth ∧ j.depth ≤ 63)) ∧ (j.context ≤ 63 ∨ j.context = 255) ∧ 0 < j.kinds ∧ j.kinds ≤ 63 ∧ j.skip < 4294967295 ∧ 0 <
      j.every ∧ j.every ≤ 65536 ∧ legalDevice 0x1202 u = none ∧ u.injections = []) ∧
    (∃ (f : Frame) (s u : State) (c : Nat) (p : List Byte) (j : Injection), Acts 0x1203 f s u c ∧ f.payload = p ∧ j =
      { number := u.nextInjection, verb := 3, action := le p 1 1, link := le p 0 1, lane := u.physical (le p 2 2), address := le p 8 8, position := le p 4 2, armedAt := u.uptime, session := f.session.toNat, waiting := some f.number.toNat }
      ∧ (j.action = 1 ∨ j.action = 2) ∧ ((j.link = 1 ∧ le p 2 2 ≤ 239 ∧ j.position + 16 * (j.action - 1) ≤ 127 ∧ j.address % 16 = 0)
      ∨ (j.link = 0 ∧ le p 2 2 = 0 ∧ u.otherCopyPlanted j.address = false ∧ j.position + 16 * (j.action - 1) ≤ (if isExternal
      j.address then 511 else 127) ∧ j.address % (if isExternal j.address then 64 else 16) = 0)) ∧ u.plantable j.link (le p 2 2)
      j.address = true ∧ legalDevice 0x1203 u = none ∧ u.injections = []) ∧
    (∃ (f : Frame) (s u : State) (c : Nat) (p : List Byte) (j : Injection), Acts 0x1203 f s u c ∧ f.payload = p ∧ j =
      { number := u.nextInjection, verb := 3, action := le p 1 1, link := le p 0 1, lane := u.physical (le p 2 2), address := le p 8 8, position := le p 4 2, armedAt := u.uptime, session := f.session.toNat, waiting := some f.number.toNat }
      ∧ (j.action = 1 ∨ j.action = 2) ∧ ((j.link = 1 ∧ le p 2 2 ≤ 239 ∧ j.position + 16 * (j.action - 1) ≤ 127 ∧ j.address % 16 = 0)
      ∨ (j.link = 0 ∧ le p 2 2 = 0 ∧ u.otherCopyPlanted j.address = false ∧ j.position + 16 * (j.action - 1) ≤ (if isExternal
      j.address then 511 else 127) ∧ j.address % (if isExternal j.address then 64 else 16) = 0)) ∧ u.plantable j.link (le p 2 2)
      j.address = true ∧ legalDevice 0x1203 u = none ∧ u.injections = []) ∧
    (∃ (s : State) (j : Injection) (outside : Bool), s.Canonical ∧ s.injections = [j] ∧ j.verb = 3 ∧ j.armed = true ∧ outside =
      (j.link == 0 && isExternal j.address) ∧ (outside = true → s.dropLines (homeDie j.address) (fun l => l.line == j.address / 256)
      = s)) ∧
    (∃ (s : State) (j : Injection) (outside : Bool), s.Canonical ∧ s.injections = [j] ∧ j.verb = 3 ∧ j.armed = true ∧ outside =
      (j.link == 0 && isExternal j.address) ∧ (outside = true → s.dropLines (homeDie j.address) (fun l => l.line == j.address / 256)
      = s) ∧ j.waiting = none) ∧
    (∃ (f : Frame) (s u : State) (c n : Nat), Acts 0x1204 f s u c ∧ le f.payload 0 2 = n ∧ legalDevice 0x1204 u = none ∧ (n = 0 ∨ ∃
      j ∈ u.injections, j.number = n ∧ u.liveInjection j = true)) ∧
    (∃ (f : Frame) (s u : State) (c n : Nat), Acts 0x1204 f s u c ∧ le f.payload 0 2 = n ∧ legalDevice 0x1204 u = none ∧ (n = 0 ∨ ∃
      j ∈ u.injections, j.number = n ∧ u.liveInjection j = true)) ∧
    (∃ (f : Frame) (s u : State) (c : Nat), Acts 0x1205 f s u c ∧ legalDevice 0x1205 u = none) ∧
    (∃ (s : State) (j : Injection) (o : OutFrame) (d at_ : Nat), s.injections = [j] ∧ j.heldIn = [] ∧ j.heldOut = [(o, d, at_)] ∧
      1024 + at_ ≤ s.uptime ∧ s.Clear) :=
  ⟨⟨fieldFrame 0x1201 1 [(3,1,1),(12,4,2)], up, up.noted (fieldFrame 0x1201 1 [(3,1,1),(12,4,2)]), 255, (fieldFrame 0x1201 1
      [(3,1,1),(12,4,2)]).payload,
      { number := (up.noted (fieldFrame 0x1201 1 [(3,1,1),(12,4,2)])).nextInjection, verb := 1, action := 1, left := 2, armedAt := (up.noted (fieldFrame 0x1201 1 [(3,1,1),(12,4,2)])).uptime, session := 1, waiting := some 1 },
      acts_of (sealed _) (by decide +kernel), by decide +kernel⟩,
    ⟨fieldFrame 0x1201 1 [(3,1,3),(4,2,7),(12,4,1)], up, up.noted (fieldFrame 0x1201 1 [(3,1,3),(4,2,7),(12,4,1)]), 255, (fieldFrame
      0x1201 1 [(3,1,3),(4,2,7),(12,4,1)]).payload,
      { number := (up.noted (fieldFrame 0x1201 1 [(3,1,3),(4,2,7),(12,4,1)])).nextInjection, verb := 1, action := 3, lane := 7, left := 1, armedAt := (up.noted (fieldFrame 0x1201 1 [(3,1,3),(4,2,7),(12,4,1)])).uptime, session := 1, waiting := some 1 },
      acts_of (sealed _) (by decide +kernel), by decide +kernel⟩,
    ⟨given52, { number := 1, verb := 1, action := 3, left := 1, skip := 0, lane := 7, armedAt := 9, waiting := some 1 },
      canonical_of (by decide +kernel), by decide +kernel⟩,
    ⟨given53, { number := 1, verb := 1, action := 3, left := 1, skip := 0, lane := 7, armedAt := 9 }, canonical_of
      (by decide +kernel), by decide +kernel⟩,
    ⟨fieldFrame 0x1202 1 [(1,1,1),(4,1,1),(12,4,2),(16,4,1)], up, up.noted (fieldFrame 0x1202 1
      [(1,1,1),(4,1,1),(12,4,2),(16,4,1)]), 255, (fieldFrame 0x1202 1 [(1,1,1),(4,1,1),(12,4,2),(16,4,1)]).payload,
      { number := (up.noted (fieldFrame 0x1202 1 [(1,1,1),(4,1,1),(12,4,2),(16,4,1)])).nextInjection, verb := 2, action := 1, context := 0, kinds := 1, session := 1, left := 2, every := 1, armedAt := (up.noted (fieldFrame 0x1202 1 [(1,1,1),(4,1,1),(12,4,2),(16,4,1)])).uptime, waiting := some 1 },
      acts_of (sealed _) (by decide +kernel), by decide +kernel⟩,
    ⟨fieldFrame 0x1203 1 [(0,1,1),(1,1,1),(2,2,1),(4,2,5),(8,8,0x10000000)], up, given54, 255, (fieldFrame 0x1203 1
      [(0,1,1),(1,1,1),(2,2,1),(4,2,5),(8,8,0x10000000)]).payload,
      { number := given54.nextInjection, verb := 3, action := 1, link := 1, lane := 1, address := 0x10000000, position := 5, armedAt := given54.uptime, session := 1, waiting := some 1 },
      acts_of (sealed _) (by decide +kernel), by decide +kernel⟩,
    ⟨fieldFrame 0x1203 1 [(1,1,2),(4,2,495),(8,8,0x400040)], up, up.noted (fieldFrame 0x1203 1 [(1,1,2),(4,2,495),(8,8,0x400040)]),
      255, (fieldFrame 0x1203 1 [(1,1,2),(4,2,495),(8,8,0x400040)]).payload,
      { number := (up.noted (fieldFrame 0x1203 1 [(1,1,2),(4,2,495),(8,8,0x400040)])).nextInjection, verb := 3, action := 2, lane := (up.noted (fieldFrame 0x1203 1 [(1,1,2),(4,2,495),(8,8,0x400040)])).physical 0, address := 0x400040, position := 495, armedAt := (up.noted (fieldFrame 0x1203 1 [(1,1,2),(4,2,495),(8,8,0x400040)])).uptime, session := 1, waiting := some 1 },
      acts_of (sealed _) (by decide +kernel), by decide +kernel⟩,
    ⟨given142,
      { number := 1, verb := 3, action := 1, left := 0, skip := 0, link := 1, lane := 1, address := 0x10000000, position := 5, armedAt := 9, waiting := some 1 },
      false, canonical_of (by decide +kernel), by decide +kernel⟩,
    ⟨given143,
      { number := 1, verb := 3, action := 1, left := 0, skip := 0, link := 0, lane := 0, address := 0x400040, position := 5, armedAt := 9 },
      true, canonical_of (by decide +kernel), and4 (by decide +kernel) ⟨fun _ => rfl, by decide +kernel⟩⟩,
    ⟨fieldFrame 0x1204 1 [], { up with injections := [inj1] }, ({ up with injections := [inj1] }).noted (fieldFrame 0x1204 1 []),
      255, 0, acts_of (sealed _) (by decide +kernel), by decide +kernel⟩,
    ⟨fieldFrame 0x1204 1 [(0,2,1)], { up with injections := [inj1] }, given55, 255, 1, acts_of (sealed _) (by decide +kernel), and2
      (by decide +kernel) (.inr ⟨inj1, by decide +kernel, by decide, by decide +kernel⟩)⟩,
    ⟨fieldFrame 0x1205 1 [], { up with injections := [inj1] }, ({ up with injections := [inj1] }).noted (fieldFrame 0x1205 1 []),
      255, acts_of (sealed _) (by decide +kernel), by decide +kernel⟩,
    ⟨given56, { inj1 with verb := 2, action := 4, heldOut := [(outF, 3, 5)] }, outF, 3, 5, and4 (by decide +kernel) (clear_of
      (by decide +kernel))⟩⟩

theorem witness_PowerCommandsSwitchDomains :
    (∃ (f : Frame) (s : State) (m c i : Nat), Delivered 0x1302 f s ∧ le f.payload 0 1 = m ∧ le f.payload 2 2 = c ∧ le f.payload 4 4
      = i ∧ m &&& 0x82 = 0 ∧ 320 ≤ c ∧ c ≤ 2400 ∧ 1024 ≤ i ∧ i ≤ 67108864 ∧ legalDevice 0x1302 s = none) ∧
    (∃ (f : Frame) (s u : State) (c mask : Nat), Acts 0x1301 f s u c ∧ le f.payload 6 10 = mask ∧ 0 < mask ∧ mask.testBit 79 = false
      ∧ legalDevice 0x1301 u = none) ∧
    (∃ (f : Frame) (s u : State) (c mask : Nat), Acts 0x1301 f s u c ∧ le f.payload 6 10 = mask ∧ 0 < mask ∧ mask.testBit 79 = false
      ∧ legalDevice 0x1301 u = none ∧ le f.payload 0 1 = 1 ∧ (∀ k ∈ bitsSet mask 79, (u.domain k).state = .off → u.mayOn k = true)) ∧
    (∃ (f : Frame) (s u : State) (c mask : Nat), Acts 0x1301 f s u c ∧ le f.payload 6 10 = mask ∧ 0 < mask ∧ mask.testBit 79 = false
      ∧ legalDevice 0x1301 u = none ∧ le f.payload 0 1 = 0 ∧ (∀ k ∈ bitsSet mask 79, u.isOn k = true → u.mayOff mask k = true)) ∧
    (∃ (f : Frame) (s u : State) (c : Nat), Acts 0x1303 f s u c ∧ (le f.payload 6 10).testBit 79 = false ∧ legalDevice 0x1303 u =
      none ∧ (∀ d, d < 64 → u.ctxState d ≠ .active) ∧ (∀ b ∈ u.schedule.bookings, u.bookingOver b = true) ∧ (∀ k, k < 8 → u.recoding
      k = false ∧ (u.stack k).sweep = none) ∧ (∀ d, d < 4 → (u.pond d).resplit = none)) ∧
    (∃ (s : State) (e : Effect) (keep : List Nat), s.journal.effectDue = some e ∧ e.opcode = 0x1303 ∧ s.inService = true ∧
      s.dev.state ≠ .doze ∧ s.power.dozeDue = [(e.session, e.number, keep, false)]) ∧
    (∃ (s : State) (sid n : Nat) (keep : List Nat), s.Canonical ∧ s.power.dozeDue = [(sid, n, keep, true)]) ∧
    (∃ (s : State) (sid n : Nat) (keep : List Nat), s.Canonical ∧ s.power.dozeDue = [(sid, n, keep, true)]) ∧
    (∃ (f : Frame) (s u : State) (c : Nat), Acts 0x1304 f s u c ∧ legalDevice 0x1304 u = none) ∧
    (∃ (s : State) (k : Fin 80), s.Canonical ∧ (s.domain k).state = .waking) ∧
    (∃ (s : State), s.dev.state = .doze ∧ s.power.waking = true ∧ (∀ e ∈ s.power.domains, e.2.byDoze = true → e.2.state = .on)) :=
  ⟨⟨fieldFrame 0x1302 1 [(0,1,1),(2,2,700),(4,4,5000)], up, 1, 700, 5000, delivered_of (sealed _) (by decide +kernel),
      by decide +kernel⟩,
    ⟨fieldFrame 0x1301 1 [(0,1,1),(6,10,2^70)], up.setDomain 70 { state := .off }, given57, 255, 2 ^ 70, acts_of (sealed _)
      (by decide +kernel), by decide +kernel⟩,
    ⟨fieldFrame 0x1301 1 [(0,1,1),(6,10,2^70)], up.setDomain 70 { state := .off }, given57, 255, 2 ^ 70, acts_of (sealed _)
      (by decide +kernel), by decide +kernel⟩,
    ⟨fieldFrame 0x1301 1 [(0,1,0),(6,10,2^77)], up, up.noted (fieldFrame 0x1301 1 [(0,1,0),(6,10,2^77)]), 255, 2 ^ 77, acts_of
      (sealed _) (by decide +kernel), by decide +kernel⟩,
    ⟨fieldFrame 0x1303 1 [], up, up.noted (fieldFrame 0x1303 1 []), 255, acts_of (sealed _) (by decide +kernel), by decide +kernel⟩,
    ⟨given144, { session := 2, number := 1, opcode := 0x1303, payload := [] }, [78], by decide +kernel⟩,
    ⟨given145, 2, 1, [78], canonical_of (by decide +kernel), by decide +kernel⟩,
    ⟨given145, 2, 1, [78], canonical_of (by decide +kernel), by decide +kernel⟩,
    ⟨fieldFrame 0x1304 1 [], given58, given58.noted (fieldFrame 0x1304 1 []), 255, acts_of (sealed _) (by decide +kernel),
      by decide +kernel⟩,
    ⟨up.setDomain 70 { state := .waking }, 70, canonical_of (by decide +kernel), by decide +kernel⟩,
    ⟨given59, by decide +kernel⟩⟩

theorem witness_ThePortFollowsItsLink :
    (∃ (s u : State) (m : Medium) (l : Bool), s.dev.state ≠ .off ∧ u = { s with dev := s.dev.fitted m l } ∧ u.portWidthOn ≠ 3) ∧
    (∃ (s u : State) (m : Medium) (l : Bool), s.dev.state ≠ .off ∧ u = { s with dev := s.dev.fitted m l } ∧ u.portWidthOn ≠ 3) ∧
    (∃ (s u : State) (m : Medium) (l : Bool), s.dev.state ≠ .off ∧ u = { s with dev := s.dev.fitted m l }) ∧
    (∃ (s u : State) (m : Medium) (l : Bool), s.dev.state ≠ .off ∧ u = { s with dev := s.dev.fitted m l } ∧ m.kind % 3 ≠ 0 ∧ u.isOn
      76 = false) :=
  ⟨⟨{ up with dev := { up.dev with portUp := false } }, given60, { kind := 1 }, true, by decide +kernel, rfl, by decide +kernel⟩,
    ⟨{ up with dev := { up.dev with portUp := false } }, given146, { kind := 2, width := 1 }, false, by decide +kernel, rfl,
      by decide +kernel⟩,
    ⟨up, { up with dev := up.dev.fitted ({ kind := 1 }) true }, { kind := 1 }, true, by decide +kernel, rfl⟩,
    ⟨up.setDomain 76 { state := .off }, given147, { kind := 1 }, false, by decide +kernel, rfl, by decide +kernel⟩⟩

theorem witness_FramesActOnce :
    (∃ (i : Instr) (op : Nat) (f : Frame) (s : State), hostRow i = some (op, f) ∧ f.opcode.toNat = op ∧ f.kind ≠ 5 ∧ s.answers =
      true ∧ (∃ s0 : State, s0.letIn f.path.secured = (s, true)) ∧ s.accepts f = true ∧ (∀ j ∈ s.injections, j.verb ≠ 2) ∧
      s.badFrame f = true) ∧
    (∃ (i : Instr) (op : Nat) (f : Frame) (s0 s : State), hostRow i = some (op, f) ∧ f.opcode.toNat = op ∧ f.kind ≠ 5 ∧ s0.answers =
      true ∧ s0.letIn f.path.secured = (s, false)) ∧
    (∃ (i : Instr) (op : Nat) (f : Frame) (s : State) (r : Reply), hostRow i = some (op, f) ∧ Numbered op f s ∧ firstFailing
      [privilegeCheck op f (s.session f.session.toNat), generationCheck f (s.session f.session.toNat) s, formCheck op f.payload] =
      some r) ∧
    (∃ (i : Instr) (op : Nat) (f : Frame) (s : State) (k : KeptReply) (o g : Nat) (p : List Byte), hostRow i = some (op, f) ∧
      Arrives f s ∧ f.kind = 0 ∧ f.opcode.toNat = op ∧ f.session ≠ 0 ∧ f.number.toNat < (s.session f.session.toNat).next ∧
      (s.session f.session.toNat).kept.find? (·.number == f.number.toNat) = some k ∧ k.reply = some (o, g, p) ∧ (k.matchCode =
      matchCode f)) ∧
    (∃ (i : Instr) (op n : Nat) (f : Frame) (s : State) (x : Session), hostRow i = some (op, f) ∧ Arrives f s ∧ f.kind = 0 ∧
      f.opcode.toNat = op ∧ op ≠ 0x0101 ∧ f.session ≠ 0 ∧ s.session f.session.toNat = x ∧ f.number.toNat = n ∧ n < x.next ∧
      (x.kept.any fun k => k.number == n && k.reply.isSome && k.matchCode != matchCode f)) ∧
    (∃ (i : Instr) (op n : Nat) (f : Frame) (s : State) (x : Session), hostRow i = some (op, f) ∧ Arrives f s ∧ f.kind = 0 ∧
      f.opcode.toNat = op ∧ op ≠ 0x0101 ∧ f.session ≠ 0 ∧ s.session f.session.toNat = x ∧ f.number.toNat = n ∧ n < x.next ∧
      (x.kept.any fun k => k.number == n && k.reply.isNone)) ∧
    (∃ (i : Instr) (op n : Nat) (f : Frame) (s : State) (x : Session), hostRow i = some (op, f) ∧ Arrives f s ∧ f.kind = 0 ∧
      f.opcode.toNat = op ∧ op ≠ 0x0101 ∧ f.session ≠ 0 ∧ s.session f.session.toNat = x ∧ f.number.toNat = n ∧ x.next < n ∧ n ≤
      x.next + 63) ∧
    (∃ (i : Instr) (op n : Nat) (f : Frame) (s : State) (x : Session), hostRow i = some (op, f) ∧ Arrives f s ∧ f.kind = 0 ∧
      f.opcode.toNat = op ∧ op ≠ 0x0101 ∧ f.session ≠ 0 ∧ s.session f.session.toNat = x ∧ f.number.toNat = n ∧ x.next + 63 < n) ∧
    (∃ (i : Instr) (op : Nat) (f : Frame) (s : State), hostRow i = some (op, f) ∧ Numbered f.opcode.toNat f s ∧ catalogue.contains
      f.opcode.toNat = false) :=
  ⟨⟨.statusDevice ({ hostFrame 0x0C01 3 [] with version := 2 }), 0x0C01, { hostFrame 0x0C01 3 [] with version := 2 }, up, and4
      (by decide +kernel) ⟨⟨up, rfl⟩, and2 (by decide +kernel) (by simp [State.badFrame])⟩⟩,
    ⟨.statusDevice (hostFrame 0x0C01 3 []), 0x0C01, hostFrame 0x0C01 3 [], { up with sec := { up.sec with required := true } },
      given61, and4 (by decide +kernel) rfl⟩,
    ⟨.statusDevice (hostFrame 0x0C01 3 [1]), 0x0C01, hostFrame 0x0C01 3 [1], up, (firstFailing
      [privilegeCheck 0x0C01 (hostFrame 0x0C01 3 [1]) (up.session (hostFrame 0x0C01 3 [1]).session.toNat), generationCheck (hostFrame 0x0C01 3 [1]) (up.session (hostFrame 0x0C01 3 [1]).session.toNat) up, formCheck 0x0C01 (hostFrame 0x0C01 3 [1]).payload]).getD
      {}, by decide +kernel, numbered_of (sealed _) (by decide +kernel), some_of (by decide +kernel)⟩,
    ⟨.statusDevice (hostFrame 0x0C01 3 []), 0x0C01, hostFrame 0x0C01 3 [], given62,
      { number := 1, matchCode := matchCode (hostFrame 0x0C01 3 []), reply := some (0x0C01, 0, [1]) }, 0x0C01, 0, [1],
      by decide +kernel, arrives_of (sealed _) (by decide +kernel), by decide +kernel⟩,
    ⟨.statusDevice (hostFrame 0x0C01 3 []), 0x0C01, 1, hostFrame 0x0C01 3 [], given148, given148.session 3, by decide +kernel,
      arrives_of (sealed _) (by decide +kernel), by decide +kernel⟩,
    ⟨.statusDevice (hostFrame 0x0C01 3 []), 0x0C01, 1, hostFrame 0x0C01 3 [], given149, given149.session 3, by decide +kernel,
      arrives_of (sealed _) (by decide +kernel), by decide +kernel⟩,
    ⟨.statusDevice (numberedFrame 64), 0x0C01, 64, numberedFrame 64, up, up.session 3, by decide +kernel, arrives_of (sealed _)
      (by decide +kernel), by decide +kernel⟩,
    ⟨.statusDevice (numberedFrame 65), 0x0C01, 65, numberedFrame 65, up, up.session 3, by decide +kernel, arrives_of (sealed _)
      (by decide +kernel), by decide +kernel⟩,
    ⟨.statusDevice (hostFrame 0x0777 3 []), 0x0C01, hostFrame 0x0777 3 [], up, by decide +kernel, numbered_of (sealed _)
      (by decide +kernel), by decide +kernel⟩⟩

theorem witness_TroubleBitsAreRecorded :
    (∃ (s : State) (b : Nat), s.Canonical ∧ b < 32) ∧
    (∃ (s : State), s.Canonical) ∧
    (∃ (s : State), s.Canonical) :=
  ⟨⟨up, 3, canonical_of (by decide +kernel), by decide +kernel⟩,
    ⟨up, canonical_of (by decide +kernel)⟩,
    ⟨up, canonical_of (by decide +kernel)⟩⟩

theorem witness_CompletionsGoOutInOrder :
    (∃ (s : State) (c n i : Nat) (w m : Cmd), s.Canonical ∧ c < 64 ∧ (s.stream c).sentThrough + 1 = n ∧ s.cmd c n = some w ∧ w.phase
      = .completed ∧ s.receiver c w.sender = some i ∧ w.fitted (s.session i).maxPayload = m ∧ s.Plain) ∧
    (∃ (s : State) (c : Nat), (s.dev.state = .latched ∨ ∀ m, s.cmd c ((s.stream c).sentThrough + 1) = some m → m.phase ≠ .completed
      ∨ s.receiver c m.sender = none)) ∧
    (∃ (f : Frame) (s : State) (c k : Nat), Arrives f s ∧ f.kind = 5 ∧ f.context.toNat = c ∧ c < 64 ∧ le f.payload 8 8 = k ∧ le
      f.payload 16 8 = 0 ∧ f.generation.toNat = s.generationOf c) ∧
    (∃ (f : Frame) (s : State), Arrives f s ∧ f.kind = 5 ∧ f.generation.toNat ≠ s.generationOf f.context.toNat) ∧
    (∃ (f : Frame) (s u : State) (c k a i : Nat) (w m : Cmd), Arrives f s ∧ f.kind = 5 ∧ f.context.toNat = c ∧ c < 64 ∧ le f.payload
      8 8 = k ∧ le f.payload 16 8 = a ∧ k < a ∧ f.generation.toNat = s.generationOf c ∧ (u = s.modSession f.session.toNat (fun x =>
      { x with lastFrame := s.uptime, path := f.path })) ∧ u.cmd c a = some w ∧ w.phase = .completed ∧ w.sent = true ∧ u.receiver c
      w.sender = some i ∧ w.fitted (u.session i).maxPayload = m) ∧
    (∃ (n : Nat), 40 ≤ n) ∧
    (∃ (s : State) (c i : Nat) (m : Cmd), (((s.stream c).cmds.filter fun m => m.phase == .completed && m.sent) = [m]) ∧ s.cmd c
      m.csn = some m ∧ 32768 + m.sentAt ≤ s.uptime ∧ s.receiver c m.sender = some i ∧ s.Plain) :=
  ⟨⟨given63, 0, 1, 3, { doneCmd with resultFrames := [(0,1),(1,1)], records := [(0,[1,2]),(1,[3])], shown := 1 },
      ({ doneCmd with resultFrames := [(0,1),(1,1)], records := [(0,[1,2]),(1,[3])], shown := 1 }).fitted 1024, canonical_of
      (by decide +kernel), and4 (by decide +kernel) (and2 (by decide +kernel) (plain_of (by decide +kernel)))⟩,
    ⟨up, 0, by decide +kernel⟩,
    ⟨sealFrame { opcode := 0, kind := 5, session := 3, context := 0, payload := leBytes 8 0 ++ leBytes 8 1 ++ leBytes 8 0 }, oneCmd
      { doneCmd with sent := true }, 0, 1, arrives_of (sealed _) (by decide +kernel), by decide +kernel⟩,
    ⟨sealFrame
      { opcode := 0, kind := 5, session := 3, context := 0, generation := 1, payload := leBytes 8 0 ++ leBytes 8 1 ++ leBytes 8 0 },
      up, arrives_of (sealed _) (by decide +kernel), by decide +kernel⟩,
    ⟨sealFrame { opcode := 0, kind := 5, session := 3, context := 0, payload := leBytes 8 0 ++ leBytes 8 0 ++ leBytes 8 1 },
      given64, given65, 0, 0, 1, 3, { doneCmd with sent := true, resultFrames := [(0,1)], records := [(0,[1,2])] },
      ({ doneCmd with sent := true, resultFrames := [(0,1)], records := [(0,[1,2])] }).fitted (given65.session 3).maxPayload,
      arrives_of (sealed _) (by decide +kernel), and4 (by decide +kernel) (and3 (by decide +kernel) ⟨rfl, by decide +kernel⟩)⟩,
    ⟨1024, by decide +kernel⟩,
    ⟨oneCmd { doneCmd with sent := true, sentAt := 3 }, 0, 3, { doneCmd with sent := true, sentAt := 3 }, and4 (by decide +kernel)
      (plain_of (by decide +kernel))⟩⟩

theorem witness_CommandsEnd :
    (∃ (s : State) (c csn st n : Nat) (m : Cmd), s.cmd c csn = some m ∧ m.stop = none ∧ m.opcode = 0x0301 ∧ m.phase = .booked ∧
      m.begun = true ∧ (∀ a ∈ m.actions, a.phase = .ended) ∧ m.intervalEnd ≤ s.clock ∧ (n = max (if m.resultFrames = [] then
      m.endNotch else m.resultNotch) (s.projected m.intervalEnd)) ∧ (st = if m.promise ≠ 0 ∧ (m.duration - m.span < m.delay.thermal
      + m.delay.link + m.delay.overrun ∨ m.promise < n) then (if m.delay.link ≤ m.delay.thermal ∧ m.delay.overrun ≤ m.delay.thermal
      then 0x5001 else if m.delay.overrun ≤ m.delay.link then 0x5002 else 0x5003) else 0)) ∧
    (∃ (s v : State) (c csn : Nat) (m : Cmd) (p : Plan), s.cmd c csn = some m ∧ m.stop = none ∧ m.opcode = 0x0201 ∧ m.phase =
      .working ∧ m.plan = some p ∧ s.workHeld c m = false ∧ s.constsLost p = (v, none)) ∧
    (∃ (s : State) (c csn : Nat) (m : Cmd), s.cmd c csn = some m ∧ m.opcode = 0x0301 ∧ s.clock < m.intervalEnd ∧ m.stop = none) ∧
    (∃ (s v w u : State) (c csn : Nat) (m : Cmd) (data : List Byte), s.cmd c csn = some m ∧ m.stop = none ∧ m.opcode = 0x0504 ∧
      m.phase = .working ∧ s.workHeld c m = false ∧ s.image c = (v, data, none) ∧ v.partlyLost {} m.address data.length = (w, none)
      ∧ w.writeDevice {} m.address data = u) ∧
    (∃ (s v w u : State) (c csn : Nat) (m : Cmd) (data : List Byte) (l : List CoreRecord), s.cmd c csn = some m ∧ m.stop = none ∧
      m.opcode = 0x0505 ∧ m.phase = .working ∧ s.workHeld c m = false ∧ s.readDevice {} m.address m.count = (v, data, none) ∧
      imageRecords data = some l ∧ v.firstLocalLost (v.imagePlaces l) = (w, none) ∧ w.applyImage l = u) ∧
    (∃ (s : State) (c csn st : Nat) (m : Cmd), s.Canonical ∧ c < 64 ∧ s.cmd c csn = some m ∧ m.phase ≠ .completed ∧ st / 4096 ≠ 3 ∧
      st / 4096 ≠ 4) ∧
    (∃ (s t : State) (c csn j st notch extra : Nat) (m : Cmd) (x : Stop), s.Canonical ∧ c < 64 ∧ s.cmd c csn = some m ∧ m.phase ≠
      .completed ∧ m.opcode = 0x0301 ∧ st / 4096 ≠ 3 ∧ st / 4096 ≠ 4 ∧ s.complete c csn st notch extra x = t ∧ (((s.stream
      c).cmds.filter fun y => y.csn == csn) = [m]) ∧ (∀ y ∈ (s.stream c).cmds, y.owes = []) ∧ m.append ≠ 0 ∧ m.slots.Nodup ∧ j ∈
      m.slots ∧ (s.seq c j).isOpen = true) ∧
    (∃ (s : State) (c csn : Nat) (m : Cmd) (x : Stop), s.cmd c csn = some m ∧ m.stop = some x) ∧
    (∃ (s : State) (c csn : Nat) (m : Cmd), s.Canonical ∧ c < 64 ∧ s.cmd c csn = some m ∧ m.timeout ≠ 0 ∧ (m.phase = .booked ∨
      m.phase = .working) ∧ s.timeoutOf m ≤ s.now ∧ m.stop = none) ∧
    (∃ (s : State) (c csn : Nat) (m : Cmd), s.Canonical ∧ c < 64 ∧ s.cmd c csn = some m ∧ m.phase = .booked ∧ m.stop = none ∧
      m.faultPages ≠ [] ∧ s.Plain) :=
  ⟨⟨given66, 0, 4, 0x5001,
      ({ stepM with start := 0, rampIn := 0, begun := true, phase := .booked, promise := 5, endNotch := 6, actions := [act 6 .ended] }).intervalEnd,
      { stepM with start := 0, rampIn := 0, begun := true, phase := .booked, promise := 5, endNotch := 6, actions := [act 6 .ended] },
      by decide +kernel⟩,
    ⟨oneCmd ({ waitCmd 0x0201 3 with plan := some { plan0 with id := 8 } }), ((oneCmd
      ({ waitCmd 0x0201 3 with plan := some { plan0 with id := 8 } })).constsLost ({ plan0 with id := 8 })).1, 0, 3,
      { waitCmd 0x0201 3 with plan := some { plan0 with id := 8 } }, { plan0 with id := 8 }, and4 (by decide +kernel) (and2
      (by decide +kernel) (pair_of (by decide +kernel)))⟩,
    ⟨oneCmd ({ stepM with start := up.now + 64 }), 0, 4, { stepM with start := up.now + 64 }, by decide +kernel⟩,
    ⟨given150, (given150.image 0).1, (((given150.image 0).1).partlyLost {} scratch0 ((given150.image 0).2.1).length).1, given151, 0,
      3, { waitCmd 0x0504 3 with address := scratch0, phase := .working }, (given150.image 0).2.1, and4 (by decide +kernel)
      ⟨by decide +kernel, triple_of (by decide +kernel), pair_of (by decide +kernel), rfl⟩⟩,
    ⟨given152, (given152.readDevice {} scratch0 80).1, (((given152.readDevice {} scratch0 80).1).firstLocalLost
      (((given152.readDevice {} scratch0 80).1).imagePlaces ((imageRecords ((given152.readDevice {} scratch0 80).2.1)).getD []))).1,
      given153, 0, 3, { waitCmd 0x0505 3 with address := scratch0, count := 80, phase := .working }, (given152.readDevice {}
      scratch0 80).2.1, (imageRecords ((given152.readDevice {} scratch0 80).2.1)).getD [], and4 (by decide +kernel)
      ⟨by decide +kernel, triple_of (by decide +kernel), some_of (by decide +kernel), pair_of (by decide +kernel), rfl⟩⟩,
    ⟨oneCmd ({ stepM with slots := [] }), 0, 4, 0, { stepM with slots := [] }, canonical_of (by decide +kernel), by decide +kernel⟩,
    ⟨oneCmd ({ stepM with slots := [0], append := 3 }), given67, 0, 4, 0, 0, 9, 0, { stepM with slots := [0], append := 3 },
      { rank := 0, status := 0 }, canonical_of (by decide +kernel), and4 (by decide +kernel) (and2 (by decide +kernel) ⟨rfl,
      by decide +kernel⟩)⟩,
    ⟨oneCmd ({ stepM with stop := some ({ rank := 4, status := 0x4009 }) }), 0, 4,
      { stepM with stop := some ({ rank := 4, status := 0x4009 }) }, { rank := 4, status := 0x4009 }, by decide +kernel⟩,
    ⟨oneCmd ({ stepM with timeout := 5 }), 0, 4, { stepM with timeout := 5 }, canonical_of (by decide +kernel), by decide +kernel⟩,
    ⟨oneCmd ({ stepM with faultPages := [5] }), 0, 4, { stepM with faultPages := [5] }, canonical_of (by decide +kernel), and4
      (by decide +kernel) ⟨by decide +kernel, plain_of (by decide +kernel)⟩⟩⟩

theorem witness_ActionsFollowTheirTable :
    (∃ (s u v : State) (c csn i w : Nat) (m m' : Cmd) (a : ActionRun), s.cmd c csn = some m ∧ m.actions[i]? = some a ∧ s.mayStart m
      a = true ∧ a.entry.windows.getD (max m.band s.presentBand) 0 = w ∧ (v = (s.beginCmd c m |>.addSlip
      { thermal := w - a.entry.windows.getD m.band 0 }).modSchedule (fun y =>
      { y with startSlip := y.startSlip + (w - a.entry.windows.getD m.band 0) })) ∧ (u = v.modCmd c csn (fun x =>
      { x with actions := x.actions.set i { a with phase := .running, startedAt := v.worked, window := w, overran := 0, slowed := false, bankBands := [], links := v.actionLinks c m a.entry, moved := false } }))
      ∧ u.cmd c csn = some m') ∧
    (∃ (s : State), (s.paused = true ∨ s.overdue = true)) ∧
    (∃ (s : State) (c csn i : Nat) (m : Cmd) (a : ActionRun), s.cmd c csn = some m ∧ m.actions[i]? = some a ∧ s.clock +
      s.schedule.startSlip + m.skipped < m.start + m.rampIn + a.entry.offsets.getD m.band 0) ∧
    (∃ (s : State) (c csn i : Nat) (m : Cmd) (a : ActionRun), s.cmd c csn = some m ∧ m.actions[i]? = some a ∧ a.phase = .running ∧
      a.overran = 0 ∧ a.startedAt + a.window ≤ s.worked ∧ (a.entry.action = 5 ∨ s.actionBusy c m i a = true) ∧ m.phase ≠ .suspended) ∧
    (∃ (s : State) (c csn i : Nat) (m : Cmd) (a : ActionRun), s.cmd c csn = some m ∧ m.actions[i]? = some a ∧ a.phase = .running ∧
      a.overran = 0 ∧ a.startedAt + a.window ≤ s.worked ∧ (a.entry.action = 5 ∨ s.actionBusy c m i a = true) ∧ m.phase = .suspended) ∧
    (∃ (s : State) (c csn i : Nat) (m : Cmd) (a : ActionRun), s.cmd c csn = some m ∧ m.actions[i]? = some a ∧ a.phase = .running ∧
      s.actionBusy c m i a = false ∧ a.entry.action ≠ 1) ∧
    (∃ (s : State) (c csn i : Nat) (m : Cmd) (a : ActionRun) (l : List Nat), s.cmd c csn = some m ∧ m.actions[i]? = some a ∧ a.phase
      = .running ∧ s.actionBusy c m i a = false ∧ a.entry.action = 1 ∧ (((quarterCores a.entry.units).filter fun k =>
      s.logicalExists k && (s.actionBlock c m i k).isSome) = l)) ∧
    (∃ (s : State), (s.dev.state = .ready ∨ s.dev.state = .degraded)) ∧
    (∃ (s : State) (c csn i j band : Nat) (m n : Cmd) (x : Cert), s.Canonical ∧ c < 64 ∧ s.cmd c csn = some m ∧ m.phase = .queued ∧
      s.fillerRecord c m = some (j, x, band) ∧ (n =
      { m with certIndex := j, floor := x.floor, draw := x.draw, quarters := x.quarters, hoppers := x.hoppers, shares := x.shares, band := if m.resuming then m.band else band, span := if m.resuming then m.span else x.spans.getD band 0, duration := if m.resuming then m.duration else x.durations.getD band 0, bandDuration := if m.resuming then m.bandDuration else x.durations.getD band 0 })
      ∧ s.wakeLead n.footprint = 0 ∧ s.rampIn (s.clock + 16) n.draw = i ∧ s.lowest n.footprint m.notBefore ≤ s.clock + 16 ∧
      s.blockers (s.clock + 16) i n.duration n.footprint s.powerCap = 0) ∧
    (∃ (s : State) (c csn n : Nat) (m : Cmd) (r : Option Nat), s.Canonical ∧ c < 64 ∧ s.cmd c csn = some m ∧ s.receiver c m.sender =
      r ∧ m.stop = none ∧ (min (((r.map fun i => (s.session i).maxPayload).getD 8704 - 24) / 16) (readyFrom m.records
      m.records.length m.handed) = n) ∧ 0 < n ∧ (∃ a ∈ m.actions, a.phase = .running ∧ a.entry.action = 6) ∧ s.Plain) ∧
    (∃ (s : State) (c csn n : Nat) (m : Cmd) (r : Option Nat), s.Canonical ∧ c < 64 ∧ s.cmd c csn = some m ∧ s.receiver c m.sender =
      r ∧ m.stop = none ∧ (min (((r.map fun i => (s.session i).maxPayload).getD 8704 - 24) / 16) (readyFrom m.records
      m.records.length m.handed) = n) ∧ 0 < n ∧ (∃ a ∈ m.actions, a.phase = .running ∧ a.entry.action = 6) ∧ s.Plain) :=
  ⟨⟨actS (acting 5 .waiting), given69, given68, 0, 4, 0, 15, acting 5 .waiting, (given69.cmd 0 4).getD cmd0, act 5 .waiting, and3
      (by decide +kernel) ⟨rfl, rfl, rfl, some_of (by decide +kernel)⟩⟩,
    ⟨{ up with power := { up.power with pausing := true } }, by decide +kernel⟩,
    ⟨actS ({ acting 5 .waiting with start := 2^40 }), 0, 4, 0, { acting 5 .waiting with start := 2^40 }, act 5 .waiting,
      by decide +kernel⟩,
    ⟨given70, 0, 4, 1, { acting 6 .running with actions := [act 4 .ended, act 6 .running] }, act 6 .running, by decide +kernel⟩,
    ⟨given71, 0, 4, 1, { acting 6 .running with phase := .suspended, actions := [act 4 .ended, act 6 .running] }, act 6 .running,
      by decide +kernel⟩,
    ⟨actS (acting 5 .running), 0, 4, 0, acting 5 .running, act 5 .running, by decide +kernel⟩,
    ⟨given72, 0, 4, 0, acting 1 .running, act 1 .running, (quarterCores (act 1 .running).entry.units).filter fun k =>
      given72.logicalExists k && (given72.actionBlock 0 (acting 1 .running) 0 k).isSome, by decide +kernel⟩,
    ⟨fillS, by decide +kernel⟩,
    ⟨fillS, 0, 4, fillS.rampIn (fillS.clock + 16)
      ({ fillC with certIndex := (((fillS.fillerRecord 0 fillC).getD (0, cert0, 0)).1), floor := (((fillS.fillerRecord 0 fillC).getD (0, cert0, 0)).2.1).floor, draw := (((fillS.fillerRecord 0 fillC).getD (0, cert0, 0)).2.1).draw, quarters := (((fillS.fillerRecord 0 fillC).getD (0, cert0, 0)).2.1).quarters, hoppers := (((fillS.fillerRecord 0 fillC).getD (0, cert0, 0)).2.1).hoppers, shares := (((fillS.fillerRecord 0 fillC).getD (0, cert0, 0)).2.1).shares, band := (((fillS.fillerRecord 0 fillC).getD (0, cert0, 0)).2.2), span := (((fillS.fillerRecord 0 fillC).getD (0, cert0, 0)).2.1).spans.getD (((fillS.fillerRecord 0 fillC).getD (0, cert0, 0)).2.2) 0, duration := (((fillS.fillerRecord 0 fillC).getD (0, cert0, 0)).2.1).durations.getD (((fillS.fillerRecord 0 fillC).getD (0, cert0, 0)).2.2) 0 }).draw,
      ((fillS.fillerRecord 0 fillC).getD (0, cert0, 0)).1, ((fillS.fillerRecord 0 fillC).getD (0, cert0, 0)).2.2, fillC,
      { fillC with certIndex := (((fillS.fillerRecord 0 fillC).getD (0, cert0, 0)).1), floor := (((fillS.fillerRecord 0 fillC).getD (0, cert0, 0)).2.1).floor, draw := (((fillS.fillerRecord 0 fillC).getD (0, cert0, 0)).2.1).draw, quarters := (((fillS.fillerRecord 0 fillC).getD (0, cert0, 0)).2.1).quarters, hoppers := (((fillS.fillerRecord 0 fillC).getD (0, cert0, 0)).2.1).hoppers, shares := (((fillS.fillerRecord 0 fillC).getD (0, cert0, 0)).2.1).shares, band := (((fillS.fillerRecord 0 fillC).getD (0, cert0, 0)).2.2), span := (((fillS.fillerRecord 0 fillC).getD (0, cert0, 0)).2.1).spans.getD (((fillS.fillerRecord 0 fillC).getD (0, cert0, 0)).2.2) 0, duration := (((fillS.fillerRecord 0 fillC).getD (0, cert0, 0)).2.1).durations.getD (((fillS.fillerRecord 0 fillC).getD (0, cert0, 0)).2.2) 0 },
      ((fillS.fillerRecord 0 fillC).getD (0, cert0, 0)).2.1, canonical_of (by decide +kernel), by decide +kernel⟩,
    ⟨oneCmd ({ acting 6 .running with records := [(0, [1,2])] }), 0, 4, 1, { acting 6 .running with records := [(0, [1,2])] }, some
      3, canonical_of (by decide +kernel), and4 (by decide +kernel) (and3 (by decide +kernel) (plain_of (by decide +kernel)))⟩,
    ⟨given73, 0, 4, 1, { acting 6 .running with records := [(0, [1,2])] }, none, canonical_of (by decide +kernel), and4
      (by decide +kernel) (and3 (by decide +kernel) (plain_of (by decide +kernel)))⟩⟩

theorem witness_CoresRunTheirPrograms :
    (∃ (k : Fin 240) (s v : State) (b : Block) (bank : Bool) (g : List Nat) (l : List CoreWord), ((s.core (s.physical k)).state =
      .idle ∨ (s.core (s.physical k)).state = .preload ∨ (s.core (s.physical k)).state = .running) ∧ s.nextBlock k = some b ∧
      (s.core (s.physical k)).freeBank = some bank ∧ ((((s.core (s.physical k)).programs.find? fun h => h.context == b.context &&
      h.planId == b.planId && h.offset == b.offset).map (·.granules)).getD [] = g) ∧ s.readProgram (s.physical k) g = (v, l, none)) ∧
    (∃ (k : Fin 240) (s v : State) (b : Block) (bank : Bool) (g : List Nat) (l : List CoreWord) (e : LocalFault), ((s.core
      (s.physical k)).state = .idle ∨ (s.core (s.physical k)).state = .preload) ∧ s.nextBlock k = some b ∧ (s.core (s.physical
      k)).freeBank = some bank ∧ ((((s.core (s.physical k)).programs.find? fun h => h.context == b.context && h.planId == b.planId
      && h.offset == b.offset).map (·.granules)).getD [] = g) ∧ s.readProgram (s.physical k) g = (v, l, some e) ∧ (v.core
      (s.physical k)).state ≠ .running) ∧
    (∃ (k : Fin 240) (w : CoreWord) (s : State) (x : Core), Issues k 0 0 w s ∧ s.core (s.physical k) = x) ∧
    (∃ (k : Fin 240) (w : CoreWord) (s : State) (x : Core), Issues k 0 1 w s ∧ s.core (s.physical k) = x) ∧
    (∃ (k : Fin 240) (w : CoreWord) (s : State) (x : Core) (left : Nat), Issues k 0 2 w s ∧ s.core (s.physical k) = x ∧ (left =
      match x.loops.find? (·.1 == x.pc) with | some e => e.2 | none => wCount w - 1)) ∧
    (∃ (k : Fin 240) (w : CoreWord) (s : State) (x : Core), Issues k 0 3 w s ∧ s.core (s.physical k) = x) ∧
    (∃ (k : Fin 240) (s : State) (x : Core) (n : Nat), s.Canonical ∧ s.core (s.physical k) = x ∧ x.wait = .notch n) ∧
    (∃ (k : Fin 240) (w : CoreWord) (s : State) (x : Core), Meets k 0 4 w s ∧ s.core (s.physical k) = x) ∧
    (∃ (k : Fin 240) (s : State) (x : Core), s.Canonical ∧ s.core (s.physical k) = x ∧ x.wait = .fence) ∧
    (∃ (k : Fin 240) (w : CoreWord) (s : State) (x : Core), Meets k 0 5 w s ∧ s.core (s.physical k) = x) :=
  ⟨⟨0, blockS, (blockS.readProgram (blockS.physical 0) [0]).1, (blockS.nextBlock 0).getD (blk []), false, [0], (blockS.readProgram
      (blockS.physical 0) [0]).2.1, by decide +kernel, some_of (by decide +kernel), and2 (by decide +kernel) (triple_of
      (by decide +kernel))⟩,
    ⟨0, given74, (given74.readProgram (given74.physical 0) [0]).1, (given74.nextBlock 0).getD (blk []), false, [0],
      (given74.readProgram (given74.physical 0) [0]).2.1, .uncorrectable programBase, by decide +kernel, some_of
      (by decide +kernel), and2 (by decide +kernel) ⟨triple_some (by decide +kernel), by decide +kernel⟩⟩,
    ⟨0, word 0 0 0 0 0 0 0 1, run (word 0 0 0 0 0 0 0 1), (run (word 0 0 0 0 0 0 0 1)).core 0, issues_of (by decide +kernel),
      by decide +kernel⟩,
    ⟨0, word 0 1 0 0 0 0 9 1, run (word 0 1 0 0 0 0 9 1), (run (word 0 1 0 0 0 0 9 1)).core 0, issues_of (by decide +kernel),
      by decide +kernel⟩,
    ⟨0, word 0 2 0 0 0 0 0 3, run (word 0 2 0 0 0 0 0 3), (run (word 0 2 0 0 0 0 0 3)).core 0, 2, issues_of (by decide +kernel),
      by decide +kernel⟩,
    ⟨0, word 0 3 0 0 0 0 9 1, run (word 0 3 0 0 0 0 9 1), (run (word 0 3 0 0 0 0 9 1)).core 0, issues_of (by decide +kernel),
      by decide +kernel⟩,
    ⟨0, coreS { core0 [word 0 3 0 0 0 0 9 1] with wait := .notch 0 }, (coreS
      { core0 [word 0 3 0 0 0 0 9 1] with wait := .notch 0 }).core 0, 0, canonical_of (by decide +kernel), by decide +kernel⟩,
    ⟨0, word 0 4 0 0 0 0 0 0, coreS { core0 [(word 0 4 0 0 0 0 0 0)] with queues := 1 }, (coreS
      { core0 [(word 0 4 0 0 0 0 0 0)] with queues := 1 }).core 0, meets_of (by decide +kernel), by decide +kernel⟩,
    ⟨0, given75, given75.core 0, canonical_of (by decide +kernel), by decide +kernel⟩,
    ⟨0, word 0 5 0 0 0 0 0 0, run (word 0 5 0 0 0 0 0 0), (run (word 0 5 0 0 0 0 0 0)).core 0, meets_of (by decide +kernel),
      by decide +kernel⟩⟩

theorem witness_BadInstructionsTrap :
    (∃ (i : Instr) (k : Fin 240) (cls op : Nat) (free : Bool) (b : Block) (s : State), coreRow i = some (k, cls, op, free) ∧ Fetches
      k b s ∧ (∀ pc c a n l, i = .sput k → (s.core (s.physical k)).streamQ = .put pc c a n :: l → 16 ≤ ((s.core (s.physical
      k)).channel c).queue.length)) ∧
    (∃ (i : Instr) (k : Fin 240) (cls op : Nat) (free : Bool) (b : Block) (s : State), coreRow i = some (k, cls, op, free) ∧ Fetches
      k b s ∧ (∀ pc c a n l, i = .sput k → (s.core (s.physical k)).streamQ = .put pc c a n :: l → 16 ≤ ((s.core (s.physical
      k)).channel c).queue.length) ∧ b.instrs[(s.core (s.physical k)).pc]? = none) ∧
    (∃ (i : Instr) (k : Fin 240) (cls op : Nat) (free : Bool) (b : Block) (s : State), coreRow i = some (k, cls, op, free) ∧ Fetches
      k b s ∧ (∀ pc c a n l, i = .sput k → (s.core (s.physical k)).streamQ = .put pc c a n :: l → 16 ≤ ((s.core (s.physical
      k)).channel c).queue.length) ∧ b.instrs[(s.core (s.physical k)).pc]? = some (word 9 0 0 0 0 0 0 1) ∧ wDefined (word 9 0 0 0 0
      0 0 1) = false) ∧
    (∃ (i : Instr) (k : Fin 240) (cls op : Nat) (free : Bool) (b : Block) (s : State), coreRow i = some (k, cls, op, free) ∧ Fetches
      k b s ∧ (∀ pc c a n l, i = .sput k → (s.core (s.physical k)).streamQ = .put pc c a n :: l → 16 ≤ ((s.core (s.physical
      k)).channel c).queue.length) ∧ b.instrs[(s.core (s.physical k)).pc]? = some (word 0 1 0 0 0 0 0 1) ∧ wDefined (word 0 1 0 0 0
      0 0 1) = true ∧ (¬(wClass (word 0 1 0 0 0 0 0 1) = cls ∧ wOp (word 0 1 0 0 0 0 0 1) = op))) ∧
    (∃ (i : Instr) (k : Fin 240) (cls op : Nat) (free : Bool) (b : Block) (s : State), coreRow i = some (k, cls, op, free) ∧ Fetches
      k b s ∧ (∀ pc c a n l, i = .sput k → (s.core (s.physical k)).streamQ = .put pc c a n :: l → 16 ≤ ((s.core (s.physical
      k)).channel c).queue.length) ∧ b.instrs[(s.core (s.physical k)).pc]? = some (word 1 2 0 0 0 0 0 0xFFFFFF) ∧ (wClass (word 1 2
      0 0 0 0 0 0xFFFFFF) = cls ∧ wOp (word 1 2 0 0 0 0 0 0xFFFFFF) = op) ∧ wCount (word 1 2 0 0 0 0 0 0xFFFFFF) = 0xFFFFFF) ∧
    (∃ (i : Instr) (k : Fin 240) (cls op : Nat) (free : Bool) (b : Block) (s : State), coreRow i = some (k, cls, op, free) ∧ Fetches
      k b s ∧ (∀ pc c a n l, i = .sput k → (s.core (s.physical k)).streamQ = .put pc c a n :: l → 16 ≤ ((s.core (s.physical
      k)).channel c).queue.length) ∧ b.instrs[(s.core (s.physical k)).pc]? = some (word 1 2 0 0 0 0 0 0) ∧ (wClass (word 1 2 0 0 0 0
      0 0) = cls ∧ wOp (word 1 2 0 0 0 0 0 0) = op) ∧ wCount (word 1 2 0 0 0 0 0 0) = 0) ∧
    (∃ (k : Fin 240) (b : Block) (s : State) (cause : Nat) (x : Core), Fetches k b s ∧ s.core (s.physical k) = x ∧ cause < 16) :=
  ⟨⟨.nop 0, 0, 0, 0, false, blk [word 0 0 0 0 0 0 0 0xFFFFFF], run (word 0 0 0 0 0 0 0 0xFFFFFF), by decide +kernel, fetches_of
      (by decide +kernel) rfl, (by nofun)⟩,
    ⟨.nop 0, 0, 0, 0, false, blk [], coreS (core0 []), by decide +kernel, fetches_of (by decide +kernel) rfl, (by nofun),
      by decide +kernel⟩,
    ⟨.nop 0, 0, 0, 0, false, blk [word 9 0 0 0 0 0 0 1], run (word 9 0 0 0 0 0 0 1), by decide +kernel, fetches_of
      (by decide +kernel) rfl, (by nofun), by decide +kernel⟩,
    ⟨.nop 0, 0, 0, 0, false, blk [word 0 1 0 0 0 0 0 1], run (word 0 1 0 0 0 0 0 1), by decide +kernel, fetches_of
      (by decide +kernel) rfl, (by nofun), by decide +kernel⟩,
    ⟨.pass 0, 0, 1, 2, false, blk [word 1 2 0 0 0 0 0 0xFFFFFF], run (word 1 2 0 0 0 0 0 0xFFFFFF), by decide +kernel, fetches_of
      (by decide +kernel) rfl, (by nofun), by decide +kernel⟩,
    ⟨.pass 0, 0, 1, 2, false, blk [word 1 2 0 0 0 0 0 0], run (word 1 2 0 0 0 0 0 0), by decide +kernel, fetches_of
      (by decide +kernel) rfl, (by nofun), by decide +kernel⟩,
    ⟨0, blk [word 0 0 0 0 0 0 0 0xFFFFFF], given76, 8, given76.core 0, fetches_of (by decide +kernel) rfl, by decide +kernel⟩⟩

theorem witness_ArrayInstructionsComplete :
    (∃ (i : Instr) (n : Nat) (run : Nat → CoreWord → State → Ran) (k : Fin 240) (w : CoreWord) (s : State), ((i = .mode k ∧ n = 0 ∧
      run = modeRun) ∨ (i = .loadstat k ∧ n = 1 ∧ run = loadstatRun) ∨ (i = .pass k ∧ n = 2 ∧ run = passRun) ∨ (i = .ospass k ∧ n =
      3 ∧ run = ospassRun) ∨ (i = .drain k ∧ n = 4 ∧ run = drainRun) ∨ (i = .elem k ∧ n = 5 ∧ run = elemRun)) ∧ Issues k 1 n w s ∧
      ranOk (run k w s) = true) ∧
    (∃ (i : Instr) (n : Nat) (run : Nat → CoreWord → State → Ran) (k : Fin 240) (w : CoreWord) (s : State), ((i = .mode k ∧ n = 0 ∧
      run = modeRun) ∨ (i = .loadstat k ∧ n = 1 ∧ run = loadstatRun) ∨ (i = .pass k ∧ n = 2 ∧ run = passRun) ∨ (i = .ospass k ∧ n =
      3 ∧ run = ospassRun) ∨ (i = .drain k ∧ n = 4 ∧ run = drainRun) ∨ (i = .elem k ∧ n = 5 ∧ run = elemRun)) ∧ Issues k 1 n w s ∧
      ranOk (run k w s) = false) ∧
    (∃ (k : Fin 240) (w : CoreWord) (s : State) (x : Core), Issues k 1 0 w s ∧ s.core (s.physical k) = x ∧ wMask w ≠ 0 ∧ wA w ≤ 3 ∧
      (wA w = 2 → wMask w = 0xFFFF)) ∧
    (∃ (k : Fin 240) (w : CoreWord) (s v : State) (j : Nat) (data : List Byte), Issues k 1 1 w s ∧ wMask w = 2 ^ j ∧ j < 16 ∧
      (s.core (s.physical k)).mode j = 0 ∧ s.fetchLocal k 0 (wA w * 64) (statBytes (wFormats w) 32) = .ok v data) ∧
    (∃ (k : Fin 240) (w : CoreWord) (s v : State) (j : Nat) (data : List Byte) (x : Core), Issues k 1 2 w s ∧ wMask w = 2 ^ j ∧ j <
      16 ∧ (s.core (s.physical k)).mode j = 0 ∧ ((s.core (s.physical k)).tile j).next.code = wFormats w ∧ wCount w ≤ 256 ∧
      s.fetchLocal k 0 (wA w * 64) (streamBytes (wFormats w) 32 (wCount w)) = .ok v data ∧ x = (v.core (s.physical k)).modTile j
      Tile.revealed) ∧
    (∃ (k : Fin 240) (w : CoreWord) (s u v : State) (j : Nat) (xs ws : List Byte), Issues k 1 3 w s ∧ wMask w = 2 ^ j ∧ j < 16 ∧
      (s.core (s.physical k)).mode j = 1 ∧ osCode (wFormats w) = true ∧ s.fetchLocal k 0 (wA w * 64) (wCount w * 32 * elementBytes
      (pairA (wFormats w))) = .ok u xs ∧ u.fetchLocal k 0 (wC w * 64) (wCount w * 32 * elementBytes (pairB (wFormats w))) = .ok v
      ws) ∧
    (∃ (k : Fin 240) (w : CoreWord) (s : State) (j : Nat) (x : Core), Issues k 1 4 w s ∧ s.core (s.physical k) = x ∧ wMask w = 2 ^ j
      ∧ j < 16 ∧ x.mode j ≠ 2 ∧ wCount w ≤ 256 ∧ wFormats w = 0 ∧ wA w = 0xFFFFFF ∧ rC w + ceilDiv (wCount w * 32) 512 ≤
      x.usableRegs) ∧
    (∃ (k : Fin 240) (w : CoreWord) (s v : State) (j f r : Nat) (x : Core), Issues k 1 4 w s ∧ s.core (s.physical k) = x ∧ wMask w =
      2 ^ j ∧ j < 16 ∧ x.mode j ≠ 2 ∧ wCount w ≤ 256 ∧ wFormats w % 4 = f ∧ wFormats w / 4 = r ∧ r ≠ 3 ∧ (∀ n i, n < wCount w → i <
      32 → x.intAt 32 j (wBank w) n i = true → wFormats w = 0) ∧ wA w ≠ 0xFFFFFF ∧ (s.storeLocal k 0 (wA w * 64) ((List.range
      (wCount w)).flatMap fun n => (List.range 32).flatMap fun i => leBytes (drainBytes f) (drainValue f (drainRound r (drainBits
      (x.sumAt 32 j (wBank w) n i) k j n i ((x.block.map (·.planId)).getD 0) (wC w))) (x.sumAt 32 j (wBank w) n i))) = .ok v)) ∧
    (∃ (k : Fin 240) (w : CoreWord) (s u v : State) (j f n : Nat) (as bs : List Byte), Issues k 1 5 w s ∧ wMask w = 2 ^ j ∧ j < 16 ∧
      (s.core (s.physical k)).mode j = 3 ∧ wCount w = n ∧ n ≤ 8192 ∧ wFormats w % 4 = f ∧ wFormats w / 4 ≠ 3 ∧ s.fetchLocal k 0 (wA
      w * 64) (n * elemBytes f) = .ok u as ∧ u.fetchLocal k 0 (wC w * 64) (n * elemBytes f) = .ok v bs ∧ as.length = n * elemBytes f
      ∧ bs.length = n * elemBytes f) :=
  ⟨⟨.mode 0, 0, modeRun, 0, word 1 0 2 0 1 0 0 1, coreS (core0 [(word 1 0 2 0 1 0 0 1)]), .inl ⟨rfl, rfl, rfl⟩, issues_of
      (by decide +kernel), by decide +kernel⟩,
    ⟨.mode 0, 0, modeRun, 0, word 1 0 2 0 9 0 0 1, coreS (core0 [(word 1 0 2 0 9 0 0 1)]), .inl ⟨rfl, rfl, rfl⟩, issues_of
      (by decide +kernel), by decide +kernel⟩,
    ⟨0, word 1 0 2 0 1 0 0 1, run (word 1 0 2 0 1 0 0 1), (run (word 1 0 2 0 1 0 0 1)).core 0, issues_of (by decide +kernel),
      by decide +kernel⟩,
    ⟨0, word 1 1 2 0 1 0 0 1, run (word 1 1 2 0 1 0 0 1), given77, 1, gotData ((run (word 1 1 2 0 1 0 0 1)).fetchLocal 0 0 (wA (word
      1 1 2 0 1 0 0 1) * 64) (statBytes (wFormats (word 1 1 2 0 1 0 0 1)) 32)), issues_of (by decide +kernel), and3
      (by decide +kernel) (got_of (by decide +kernel))⟩,
    ⟨0, word 1 2 2 0 1 1 1 2, run (word 1 2 2 0 1 1 1 2), given78, 1, gotData ((run (word 1 2 2 0 1 1 1 2)).fetchLocal 0 0 (wA (word
      1 2 2 0 1 1 1 2) * 64) (streamBytes (wFormats (word 1 2 2 0 1 1 1 2)) 32 (wCount (word 1 2 2 0 1 1 1 2)))), (given78.core
      ((run (word 1 2 2 0 1 1 1 2)).physical 0)).modTile 1 Tile.revealed, issues_of (by decide +kernel), and4 (by decide +kernel)
      ⟨by decide +kernel, got_of (by decide +kernel), by decide +kernel⟩⟩,
    ⟨0, word 1 3 2 0 1 1 9 1, coreS { core0 [(word 1 3 2 0 1 1 9 1)] with arrayMode := 4 }, given79, given80, 1, gotData ((coreS
      { core0 [(word 1 3 2 0 1 1 9 1)] with arrayMode := 4 }).fetchLocal 0 0 (wA (word 1 3 2 0 1 1 9 1) * 64) (wCount (word 1 3 2 0
      1 1 9 1) * 32 * elementBytes (pairA (wFormats (word 1 3 2 0 1 1 9 1))))), gotData (given79.fetchLocal 0 0 (wC (word 1 3 2 0 1
      1 9 1) * 64) (wCount (word 1 3 2 0 1 1 9 1) * 32 * elementBytes (pairB (wFormats (word 1 3 2 0 1 1 9 1))))), issues_of
      (by decide +kernel), and4 (by decide +kernel) ⟨got_of (by decide +kernel), got_of (by decide +kernel)⟩⟩,
    ⟨0, word 1 4 2 0 0xFFFFFF 1 2 17, given81, 1, given81.core 0, issues_of (by decide +kernel), by decide +kernel⟩,
    ⟨(0 : Fin 240), word 1 4 2 5 3 1 2 2, run (word 1 4 2 5 3 1 2 2), given82, 1, 1, 1, (run (word 1 4 2 5 3 1 2 2)).core 0,
      issues_of (by decide +kernel), and4 (by decide +kernel) (and4 (by decide +kernel)
      ⟨by intro n i _ _ h; exact absurd (show false = true from h) Bool.false_ne_true, by decide +kernel,
      by refine storeLocal_ok (n := 128) ?_ ?_ ?_ <;> [exact Eq.trans (by apply drained_length) (by decide +kernel); decide +kernel; decide +kernel]⟩)⟩,
    ⟨0, word 1 5 2 5 3 1 2 3, coreS { core0 [(word 1 5 2 5 3 1 2 3)] with arrayMode := 12 }, given83, given84, 1, 1, 3, gotData
      ((coreS { core0 [(word 1 5 2 5 3 1 2 3)] with arrayMode := 12 }).fetchLocal 0 0 (wA (word 1 5 2 5 3 1 2 3) * 64) (3 *
      elemBytes 1)), gotData (given83.fetchLocal 0 0 (wC (word 1 5 2 5 3 1 2 3) * 64) (3 * elemBytes 1)), issues_of
      (by decide +kernel), and4 (by decide +kernel) (and3 (by decide +kernel) ⟨got_of (by decide +kernel), got_of
      (by decide +kernel), by decide +kernel⟩)⟩⟩

theorem witness_VectorInstructionsComplete :
    (∃ (k : Fin 240) (w : CoreWord) (s : State) (x : Core), Issues k 2 2 w s ∧ s.core (s.physical k) = x ∧ wFormats w = 0 ∧ rA w <
      x.usableRegs ∧ rB w < x.usableRegs ∧ rC w < x.usableRegs) ∧
    (∃ (i : Instr) (op : Word → Word → Word) (n : Nat) (k : Fin 240) (w : CoreWord) (s : State) (x : Core), ((i = .vadd k ∧ n = 3 ∧
      op = fadd) ∨ (i = .vmul k ∧ n = 4 ∧ op = fmul) ∨ (i = .vmax k ∧ n = 5 ∧ op = fmaxNum) ∨ (i = .vmin k ∧ n = 6 ∧ op = fminNum))
      ∧ Issues k 2 n w s ∧ s.core (s.physical k) = x ∧ wFormats w = 0 ∧ rA w < x.usableRegs ∧ rB w < x.usableRegs ∧ rC w <
      x.usableRegs) ∧
    (∃ (i : Instr) (op : Word → Word → Word) (n : Nat) (k : Fin 240) (w : CoreWord) (s : State) (x : Core), ((i = .vadd k ∧ n = 3 ∧
      op = fadd) ∨ (i = .vmul k ∧ n = 4 ∧ op = fmul) ∨ (i = .vmax k ∧ n = 5 ∧ op = fmaxNum) ∨ (i = .vmin k ∧ n = 6 ∧ op = fminNum))
      ∧ Issues k 2 n w s ∧ s.core (s.physical k) = x ∧ wFormats w = 0 ∧ rA w < x.usableRegs ∧ rB w < x.usableRegs ∧ rC w <
      x.usableRegs) ∧
    (∃ (i : Instr) (op : Word → Word → Word) (n : Nat) (k : Fin 240) (w : CoreWord) (s : State) (x : Core), ((i = .vadd k ∧ n = 3 ∧
      op = fadd) ∨ (i = .vmul k ∧ n = 4 ∧ op = fmul) ∨ (i = .vmax k ∧ n = 5 ∧ op = fmaxNum) ∨ (i = .vmin k ∧ n = 6 ∧ op = fminNum))
      ∧ Issues k 2 n w s ∧ s.core (s.physical k) = x ∧ wFormats w = 0 ∧ rA w < x.usableRegs ∧ rB w < x.usableRegs ∧ rC w <
      x.usableRegs) ∧
    (∃ (i : Instr) (op : Word → Word → Word) (n : Nat) (k : Fin 240) (w : CoreWord) (s : State) (x : Core), ((i = .vadd k ∧ n = 3 ∧
      op = fadd) ∨ (i = .vmul k ∧ n = 4 ∧ op = fmul) ∨ (i = .vmax k ∧ n = 5 ∧ op = fmaxNum) ∨ (i = .vmin k ∧ n = 6 ∧ op = fminNum))
      ∧ Issues k 2 n w s ∧ s.core (s.physical k) = x ∧ wFormats w = 0 ∧ rA w < x.usableRegs ∧ rB w < x.usableRegs ∧ rC w <
      x.usableRegs) ∧
    (∃ (i : Instr) (op : Nat → Word → Word) (n formats : Nat) (k : Fin 240) (w : CoreWord) (s : State) (x : Core), ((i = .vsfu k ∧ n
      = 7 ∧ formats = 5 ∧ op = special) ∨ (i = .vcvt k ∧ n = 8 ∧ formats = 12 ∧ op = convert)) ∧ Issues k 2 n w s ∧ s.core
      (s.physical k) = x ∧ wFormats w < formats ∧ rA w < x.usableRegs ∧ rC w < x.usableRegs) ∧
    (∃ (i : Instr) (op : Nat → Word → Word) (n formats : Nat) (k : Fin 240) (w : CoreWord) (s : State) (x : Core), ((i = .vsfu k ∧ n
      = 7 ∧ formats = 5 ∧ op = special) ∨ (i = .vcvt k ∧ n = 8 ∧ formats = 12 ∧ op = convert)) ∧ Issues k 2 n w s ∧ s.core
      (s.physical k) = x ∧ wFormats w < formats ∧ rA w < x.usableRegs ∧ rC w < x.usableRegs) ∧
    (∃ (k : Fin 240) (w : CoreWord) (s : State) (x : Core) (v : Option Word), Issues k 2 9 w s ∧ s.core (s.physical k) = x ∧
      wFormats w ≤ 1 ∧ rA w < x.usableRegs ∧ rC w < x.usableRegs ∧ (reduceTree (if wFormats w = 0 then fadd else fmaxNum) 9
      ((List.range 512).map fun i => if bit (wMask w) (i / 32) then some (x.lane (rA w) i) else none) = v)) ∧
    (∃ (k : Fin 240) (w : CoreWord) (s v : State) (j : Nat) (data : List Byte), Issues k 2 0 w s ∧ wFormats w = 0 ∧ wCount w = 1 ∧
      wMask w = 2 ^ j ∧ j < 16 ∧ tooMany (s.core (s.physical k)) w = false ∧ s.fetchLocal k 1 (wA w * 64 + sliceAt (s.core
      (s.physical k)).groups 0 j) 128 = .ok v data) ∧
    (∃ (k : Fin 240) (w : CoreWord) (s v : State), Issues k 2 0 w s ∧ wFormats w = 0 ∧ tooMany (s.core (s.physical k)) w = false ∧
      s.loadParts k (vectorParts (s.core (s.physical k)) w) = .ok v) ∧
    (∃ (k : Fin 240) (w : CoreWord) (s v : State), Issues k 2 1 w s ∧ wFormats w = 0 ∧ tooMany (s.core (s.physical k)) w = false ∧
      s.storeMiss k (vectorParts (s.core (s.physical k)) w) = none ∧ s.storeParts k (vectorParts (s.core (s.physical k)) w) = .ok v) ∧
    (∃ (k : Fin 240) (w : CoreWord) (s : State) (j : Nat) (x : Core), Issues k 2 1 w s ∧ s.core (s.physical k) = x ∧ wFormats w = 0
      ∧ wCount w = 1 ∧ wMask w = 2 ^ j ∧ j < 16 ∧ tooMany x w = false ∧ s.storeMiss k (vectorParts x w) = none) :=
  ⟨⟨0, word 2 2 1 0 0 1 2 1, runL (word 2 2 1 0 0 1 2 1), (runL (word 2 2 1 0 0 1 2 1)).core 0, issues_of (by decide +kernel),
      by decide +kernel⟩,
    ⟨.vadd 0, fadd, 3, 0, word 2 3 1 0 0 1 2 1, runL (word 2 3 1 0 0 1 2 1), (runL (word 2 3 1 0 0 1 2 1)).core 0,
      .inl ⟨rfl, rfl, rfl⟩, issues_of (by decide +kernel), by decide +kernel⟩,
    ⟨.vmul 0, fmul, 4, 0, word 2 4 1 0 0 1 2 1, runL (word 2 4 1 0 0 1 2 1), (runL (word 2 4 1 0 0 1 2 1)).core 0,
      .inr (.inl ⟨rfl, rfl, rfl⟩), issues_of (by decide +kernel), by decide +kernel⟩,
    ⟨.vmax 0, fmaxNum, 5, 0, word 2 5 1 0 0 1 2 1, runL (word 2 5 1 0 0 1 2 1), (runL (word 2 5 1 0 0 1 2 1)).core 0,
      .inr (.inr (.inl ⟨rfl, rfl, rfl⟩)), issues_of (by decide +kernel), by decide +kernel⟩,
    ⟨.vmin 0, fminNum, 6, 0, word 2 6 1 0 0 1 2 1, runL (word 2 6 1 0 0 1 2 1), (runL (word 2 6 1 0 0 1 2 1)).core 0,
      .inr (.inr (.inr ⟨rfl, rfl, rfl⟩)), issues_of (by decide +kernel), by decide +kernel⟩,
    ⟨.vsfu 0, special, 7, 5, 0, word 2 7 1 4 0 0 2 1, runL (word 2 7 1 4 0 0 2 1), (runL (word 2 7 1 4 0 0 2 1)).core 0,
      .inl ⟨rfl, rfl, rfl, rfl⟩, issues_of (by decide +kernel), by decide +kernel⟩,
    ⟨.vcvt 0, convert, 8, 12, 0, word 2 8 1 11 0 0 2 1, runL (word 2 8 1 11 0 0 2 1), (runL (word 2 8 1 11 0 0 2 1)).core 0,
      .inr ⟨rfl, rfl, rfl, rfl⟩, issues_of (by decide +kernel), by decide +kernel⟩,
    ⟨0, word 2 9 1 0 0 0 2 1, runL (word 2 9 1 0 0 0 2 1), (runL (word 2 9 1 0 0 0 2 1)).core 0, reduceTree (if wFormats (word 2 9 1
      0 0 0 2 1) = 0 then fadd else fmaxNum) 9 ((List.range 512).map fun i => if bit (wMask (word 2 9 1 0 0 0 2 1)) (i / 32) then
      some (((runL (word 2 9 1 0 0 0 2 1)).core 0).lane (rA (word 2 9 1 0 0 0 2 1)) i) else none), issues_of (by decide +kernel),
      and4 (by decide +kernel) rfl⟩,
    ⟨0, word 2 0 2 0 3 1 0 1, runL (word 2 0 2 0 3 1 0 1), given85, 1, gotData ((runL (word 2 0 2 0 3 1 0 1)).fetchLocal 0 1 (wA
      (word 2 0 2 0 3 1 0 1) * 64 + sliceAt ((runL (word 2 0 2 0 3 1 0 1)).core ((runL (word 2 0 2 0 3 1 0 1)).physical 0)).groups 0
      1) 128), issues_of (by decide +kernel), and4 (by decide +kernel) ⟨by decide +kernel, got_of (by decide +kernel)⟩⟩,
    ⟨0, word 2 0 3 0 3 1 0 2, runL (word 2 0 3 0 3 1 0 2), given86, issues_of (by decide +kernel), and2 (by decide +kernel) (ran_of
      (by decide +kernel))⟩,
    ⟨0, word 2 1 3 0 3 1 0 2, runL (word 2 1 3 0 3 1 0 2), given87, issues_of (by decide +kernel), and3 (by decide +kernel) (ran_of
      (by decide +kernel))⟩,
    ⟨0, word 2 1 4 0 2 1 0 1, runL (word 2 1 4 0 2 1 0 1), 2, (runL (word 2 1 4 0 2 1 0 1)).core ((runL (word 2 1 4 0 2 1 0
      1)).physical 0), issues_of (by decide +kernel), by decide +kernel⟩⟩

theorem witness_StreamInstructionsComplete :
    (∃ (k : Fin 240) (w : CoreWord) (s : State) (x : Core), Issues k 3 0 w s ∧ s.core (s.physical k) = x ∧ 8 ≤ wB w % 16 ∧ x.streamQ
      = []) ∧
    (∃ (k : Fin 240) (w : CoreWord) (s : State) (x : Core), Issues k 3 0 w s ∧ s.core (s.physical k) = x ∧ 8 ≤ wB w % 16 ∧ x.streamQ
      ≠ [] ∧ (∀ pc c a n l, x.streamQ = .put pc c a n :: l → 16 ≤ (x.channel c).queue.length)) ∧
    (∃ (k : Fin 240) (w : CoreWord) (s : State), Issues k 3 0 w s ∧ wB w % 16 < 8 ∧ (s.core (s.physical k)).streamQ = []) ∧
    (∃ (k : Fin 240) (s : State) (pc chan a n : Nat) (l : List StreamOp), (s.core (s.physical k)).streamQ = .put pc chan a n :: l ∧
      s.paused = false ∧ ((s.core (s.physical k)).channel chan).queue.length < 16) ∧
    (∃ (k : Fin 240) (s v : State) (chan a : Nat) (data : List Byte) (x : Core), s.core (s.physical k) = x ∧ (x.channel
      chan).queue.length < 16 ∧ localRange a 64 = .store ∧ s.fetchLocal k 2 a 64 = .ok v data) ∧
    (∃ (k : Fin 240) (s : State) (chan : Nat), 16 ≤ ((s.core (s.physical k)).channel chan).queue.length) ∧
    (∃ (k : Fin 240) (w : CoreWord) (s : State) (x : Core), Issues k 3 1 w s ∧ s.core (s.physical k) = x) ∧
    (∃ (k : Fin 240) (s : State) (i n : Nat) (l : List StreamOp), (s.core (s.physical k)).streamQ = .wait i n :: l ∧ n ≤ s.barrier k
      i) ∧
    (∃ (k : Fin 240) (s : State) (i n : Nat) (l : List StreamOp) (x : Core), s.Canonical ∧ s.core (s.physical k) = x ∧ x.streamQ =
      .wait i n :: l ∧ s.barrier k i < n) ∧
    (∃ (k : Fin 240) (w : CoreWord) (s u : State) (x : Core) (c : Nat), Issues k 3 2 w s ∧ s.core (s.physical k) = x ∧ wC w % 256 =
      c ∧ bit (s.quartersOf x.context x.csn) (c / 15) = true ∧ s.logicalExists c = true ∧ x.streamQ = [] ∧ x.queues = 0 ∧ (s.advance
      k).signal c (rA w) (wCount w) = some u) ∧
    (∃ (k : Fin 240) (w : CoreWord) (s : State) (x : Core) (c : Nat), Issues k 3 2 w s ∧ s.core (s.physical k) = x ∧ wC w % 256 = c
      ∧ bit (s.quartersOf x.context x.csn) (c / 15) = true ∧ s.logicalExists c = true ∧ (x.streamQ ≠ [] ∨ x.queues ≠ 0)) ∧
    (∃ (k : Fin 240) (w : CoreWord) (s : State) (x : Core), Issues k 3 2 w s ∧ s.core (s.physical k) = x ∧ (bit (s.quartersOf
      x.context x.csn) (wC w % 256 / 15) = false ∨ s.logicalExists (wC w % 256) = false)) ∧
    (∃ (k : Fin 240) (s u v : State) (pc i n c : Nat) (l : List StreamOp), s.Canonical ∧ (s.core (s.physical k)).streamQ = .signal
      pc i n c :: l ∧ (s.core (s.physical k)).queues < 4 ∧ (s.onCore k (fun x => x.emptied 3) = u) ∧ u.signal c i n = some v) ∧
    (∃ (s t : State) (c i n : Nat), s.Canonical ∧ s.signal c i n = some t) ∧
    (∃ (k : Fin 240) (w : CoreWord) (s : State) (x : Core), Issues k 3 3 w s ∧ s.core (s.physical k) = x) ∧
    (∃ (k : Fin 240) (s : State) (m : Nat) (l : List StreamOp), (s.core (s.physical k)).streamQ = .idle m :: l ∧ (s.core (s.physical
      k)).channelsIdle m = true) :=
  ⟨⟨0, word 3 0 0 0 3 9 0 2, run (word 3 0 0 0 3 9 0 2), (run (word 3 0 0 0 3 9 0 2)).core 0, issues_of (by decide +kernel),
      by decide +kernel⟩,
    ⟨0, word 3 0 0 0 3 9 0 2, coreS { core0 [(word 3 0 0 0 3 9 0 2)] with streamQ := [.wait 3 2] }, (coreS
      { core0 [(word 3 0 0 0 3 9 0 2)] with streamQ := [.wait 3 2] }).core 0, issues_of (by decide +kernel), and3
      (by decide +kernel) ((by nofun))⟩,
    ⟨0, word 3 0 0 0 3 7 0 2, run (word 3 0 0 0 3 7 0 2), issues_of (by decide +kernel), by decide +kernel⟩,
    ⟨0, coreS { core0 [] with streamQ := [.put 0 9 192 1] }, 0, 9, 192, 1, [], by decide +kernel⟩,
    ⟨0, run (word 3 0 0 0 3 9 0 2), gotState ((run (word 3 0 0 0 3 9 0 2)).fetchLocal 0 2 192 64), 9, 192, gotData ((run (word 3 0 0
      0 3 9 0 2)).fetchLocal 0 2 192 64), (run (word 3 0 0 0 3 9 0 2)).core 0, and3 (by decide +kernel) (got_of
      (by decide +kernel))⟩,
    ⟨0, given88, 9, by decide +kernel⟩,
    ⟨0, word 3 1 0 0 3 0 0 2, run (word 3 1 0 0 3 0 0 2), (run (word 3 1 0 0 3 0 0 2)).core 0, issues_of (by decide +kernel),
      by decide +kernel⟩,
    ⟨0, coreS { core0 [] with barriers := [(3, 2)], streamQ := [.wait 3 2] }, 3, 2, [], by decide +kernel⟩,
    ⟨0, coreS { core0 [] with streamQ := [.wait 3 2] }, 3, 2, [], (coreS { core0 [] with streamQ := [.wait 3 2] }).core 0,
      canonical_of (by decide +kernel), by decide +kernel⟩,
    ⟨0, word 3 2 0 0 3 0 1 2, given89, ((given89.advance 0).signal 1 3 2).getD given89, given89.core 0, 1, issues_of
      (by decide +kernel), and4 (by decide +kernel) (and2 (by decide +kernel) (some_of (by decide +kernel)))⟩,
    ⟨0, word 3 2 0 0 3 0 1 2, given90, given90.core 0, 1, issues_of (by decide +kernel), by decide +kernel⟩,
    ⟨0, word 3 2 0 0 3 0 100 2, given91, given91.core 0, issues_of (by decide +kernel), by decide +kernel⟩,
    ⟨0, coreS { core0 [] with streamQ := [.signal 0 3 2 1], queues := 1 }, given92, (given92.signal 1 3 2).getD given92, 0, 3, 2, 1,
      [], canonical_of (by decide +kernel), and2 (by decide +kernel) ⟨rfl, some_of (by decide +kernel)⟩⟩,
    ⟨run 0, ((run 0).signal 1 3 2).getD (run 0), 1, 3, 2, canonical_of (by decide +kernel), some_of (by decide +kernel)⟩,
    ⟨0, word 3 3 0 0 512 0 0 1, run (word 3 3 0 0 512 0 0 1), (run (word 3 3 0 0 512 0 0 1)).core 0, issues_of (by decide +kernel),
      by decide +kernel⟩,
    ⟨0, coreS { core0 [] with streamQ := [.idle 512] }, 512, [], by decide +kernel⟩⟩

theorem witness_ChannelsMoveTheirRows :
    (∃ (k : Fin 240) (c : Fin 16) (s u v : State) (h : Channel) (q : QueuedDesc) (l : List QueuedDesc) (d : StreamDesc) (g : Group),
      (s.core (s.physical k)).channel c = h ∧ h.queue = q :: l ∧ h.state = .running ∧ s.paused = false ∧ h.ready = [] ∧ h.fault =
      none ∧ streamDesc q.bytes = d ∧ d.exhausted h.cursor = false ∧ ((if d.kind = 1 then s.nextCopy q.context k c d h else
      s.nextListed { context := if d.noAllocate then none else some q.context } q.context k c d h) = (v, g)) ∧ s.groupHeld d
      h.cursor g = false ∧ v.markLinks q.context q.csn q.action (s.listLinks d k h.cursor ||| s.signalLinks d k) = u ∧ groupOk g =
      true) ∧
    (∃ (k : Fin 240) (c : Fin 16) (s u v : State) (h : Channel) (q : QueuedDesc) (l : List QueuedDesc) (d : StreamDesc) (g : Group),
      (s.core (s.physical k)).channel c = h ∧ h.queue = q :: l ∧ h.state = .running ∧ s.paused = false ∧ h.ready = [] ∧ h.fault =
      none ∧ streamDesc q.bytes = d ∧ d.exhausted h.cursor = false ∧ ((if d.kind = 1 then s.nextCopy q.context k c d h else
      s.nextListed { context := if d.noAllocate then none else some q.context } q.context k c d h) = (v, g)) ∧ s.groupHeld d
      h.cursor g = false ∧ v.markLinks q.context q.csn q.action (s.listLinks d k h.cursor ||| s.signalLinks d k) = u ∧ groupOk g =
      true) ∧
    (∃ (k : Fin 240) (c : Fin 16) (s u v : State) (h : Channel) (q : QueuedDesc) (l : List QueuedDesc) (d : StreamDesc) (g : Group),
      (s.core (s.physical k)).channel c = h ∧ h.queue = q :: l ∧ h.state = .running ∧ s.paused = false ∧ h.ready = [] ∧ h.fault =
      none ∧ streamDesc q.bytes = d ∧ d.exhausted h.cursor = false ∧ ((if d.kind = 1 then s.nextCopy q.context k c d h else
      s.nextListed { context := if d.noAllocate then none else some q.context } q.context k c d h) = (v, g)) ∧ s.groupHeld d
      h.cursor g = false ∧ v.markLinks q.context q.csn q.action (s.listLinks d k h.cursor ||| s.signalLinks d k) = u ∧ groupOk g =
      false) ∧
    (∃ (h : Channel) (ps : List (Nat × Nat × Nat)), h.first ≤ h.position ∧ h.position ≤ h.first + ps.length) ∧
    (∃ (k : Fin 240) (c : Fin 16) (s t : State) (cc csn : Nat) (f : StreamFault) (h : Channel), s.Canonical ∧ f.cause ≠ 0 ∧
      (s.uncompleted cc).contains csn = true ∧ s.streamFails k c cc csn f = t ∧ (t.core (s.physical k)).channel c = h) ∧
    (∃ (k : Fin 240) (c : Fin 16) (s t : State) (cc csn : Nat) (f : StreamFault) (h : Channel), s.Canonical ∧ f.cause ≠ 0 ∧
      (s.uncompleted cc).contains csn = true ∧ s.streamFails k c cc csn f = t ∧ (t.core (s.physical k)).channel c = h) ∧
    (∃ (s : State) (cc csn : Nat), (s.uncompleted cc).contains csn = false) ∧
    (∃ (k : Fin 240) (c : Fin 16) (s t : State) (x : Core) (n : Nat), s.Canonical ∧ s.core (s.physical k) = x ∧ (x.channel c).queue
      ≠ [] ∧ min (64 - ((x.channel c).flights.filter (·.data.isNone)).length) (384 - x.readsInFlight) = n ∧ s.issue k c = t) ∧
    (∃ (k : Fin 240) (c : Fin 16) (s v : State) (n : Nat) (f : Flight) (data : List Byte), ((s.core (s.physical k)).channel
      c).flights.find? (·.piece.number == n) = some f ∧ s.stalePiece f = false ∧ f.data = none ∧ s.pieceHeld f = false ∧ (s.core
      (s.physical k)).writesInFlight < 128 ∧ s.readPiece f.piece f.context f.requester = (v, data, none)) ∧
    (∃ (k : Fin 240) (c : Fin 16) (s v : State) (n cause : Nat) (f : Flight) (data : List Byte), ((s.core (s.physical k)).channel
      c).flights.find? (·.piece.number == n) = some f ∧ s.stalePiece f = false ∧ f.data = none ∧ s.pieceHeld f = false ∧ (s.core
      (s.physical k)).writesInFlight < 128 ∧ s.readPiece f.piece f.context f.requester = (v, data, some cause)) ∧
    (∃ (k : Fin 240) (c : Fin 16) (s : State) (n : Nat) (f : Flight) (data : List Byte), ((s.core (s.physical k)).channel
      c).flights.find? (·.piece.number == n) = some f ∧ s.stalePiece f = false ∧ f.data = some data ∧ s.pieceHeld f = false) ∧
    (∃ (k : Fin 240) (c : Fin 16) (s : State) (n : Nat) (f : Flight), ((s.core (s.physical k)).channel c).flights.find?
      (·.piece.number == n) = some f ∧ s.stalePiece f = false ∧ s.pieceHeld f = true) ∧
    (∃ (k : Fin 240) (c : Fin 16) (s : State) (n : Nat) (f : Flight), ((s.core (s.physical k)).channel c).flights.find?
      (·.piece.number == n) = some f ∧ f.tag ≠ (s.context f.context).generation % 16) ∧
    (∃ (k : Fin 240) (c : Fin 16) (s u : State) (h : Channel) (q : QueuedDesc) (l : List QueuedDesc) (d : StreamDesc), (s.core
      (s.physical k)).channel c = h ∧ h.queue = q :: l ∧ h.state = .running ∧ h.ready = [] ∧ h.flights = [] ∧ h.fault = none ∧
      streamDesc q.bytes = d ∧ d.exhausted h.cursor = true ∧ (if d.signal then bit (s.quartersOf q.context q.csn) (d.signalCore /
      15) = true ∧ s.logicalExists d.signalCore = true ∧ s.signal d.signalCore d.signalCounter d.increment = some u else u = s)) ∧
    (∃ (k : Fin 240) (c : Fin 16) (s u : State) (h : Channel) (q : QueuedDesc) (l : List QueuedDesc) (d : StreamDesc), (s.core
      (s.physical k)).channel c = h ∧ h.queue = q :: l ∧ h.state = .running ∧ h.ready = [] ∧ h.flights = [] ∧ h.fault = none ∧
      streamDesc q.bytes = d ∧ d.exhausted h.cursor = true ∧ (if d.signal then bit (s.quartersOf q.context q.csn) (d.signalCore /
      15) = true ∧ s.logicalExists d.signalCore = true ∧ s.signal d.signalCore d.signalCounter d.increment = some u else u = s) ∧
      d.signal = true) ∧
    (∃ (k : Fin 240) (c : Fin 16) (s : State) (h : Channel) (q : QueuedDesc) (l : List QueuedDesc), (s.core (s.physical k)).channel
      c = h ∧ h.queue = q :: l ∧ h.state = .waitingBarrier ∧ (streamDesc q.bytes).threshold ≤ s.barrier k (streamDesc
      q.bytes).waitCounter) :=
  ⟨⟨0, 1, chanS { state := .running, queue := [qd copyD] }, given93, ((chanS { state := .running, queue := [qd copyD] }).nextCopy 0
      0 1 (streamDesc copyD) (({ state := .running, queue := [qd copyD] } : Channel))).1,
      ({ state := .running, queue := [qd copyD] } : Channel), qd copyD, [], streamDesc copyD, ((chanS
      { state := .running, queue := [qd copyD] }).nextCopy 0 0 1 (streamDesc copyD) (({ state := .running, queue := [qd copyD] } :
      Channel))).2, and4 (by decide +kernel) (and4 (by decide +kernel) ⟨rfl, by decide +kernel, rfl, by decide +kernel⟩)⟩,
    ⟨0, 1, given94, given95, (given94.nextListed
      { context := if (streamDesc gatherD).noAllocate then none else some (qd gatherD).context } (qd gatherD).context 0 1
      (streamDesc gatherD) (({ state := .running, queue := [qd gatherD] } : Channel))).1,
      ({ state := .running, queue := [qd gatherD] } : Channel), qd gatherD, [], streamDesc gatherD, (given94.nextListed
      { context := if (streamDesc gatherD).noAllocate then none else some (qd gatherD).context } (qd gatherD).context 0 1
      (streamDesc gatherD) (({ state := .running, queue := [qd gatherD] } : Channel))).2, and4 (by decide +kernel) (and4
      (by decide +kernel) ⟨rfl, by decide +kernel, rfl, by decide +kernel⟩)⟩,
    ⟨0, 1, given96, given97, (given96.nextListed
      { context := if (streamDesc gatherD).noAllocate then none else some (qd gatherD).context } (qd gatherD).context 0 1
      (streamDesc gatherD) (({ state := .running, queue := [qd gatherD] } : Channel))).1,
      ({ state := .running, queue := [qd gatherD] } : Channel), qd gatherD, [], streamDesc gatherD, (given96.nextListed
      { context := if (streamDesc gatherD).noAllocate then none else some (qd gatherD).context } (qd gatherD).context 0 1
      (streamDesc gatherD) (({ state := .running, queue := [qd gatherD] } : Channel))).2, and4 (by decide +kernel) (and4
      (by decide +kernel) ⟨rfl, by decide +kernel, rfl, by decide +kernel⟩)⟩,
    ⟨{}, [(128, 2^40+2^25, 64)], by decide +kernel⟩,
    ⟨0, 1, chanS { state := .running, queue := [qd copyD] }, given98, 0, 4, { cause := 1, space := 1, core := 0, address := 65536 },
      (given98.core ((chanS { state := .running, queue := [qd copyD] }).physical 0)).channel 1, canonical_of (by decide +kernel),
      and2 (by decide +kernel) ⟨rfl, by decide +kernel⟩⟩,
    ⟨0, 1, chanS { state := .running, queue := [qd copyD] }, given99, 0, 4, { cause := 9, space := 1, core := 0, address := 65536 },
      (given99.core ((chanS { state := .running, queue := [qd copyD] }).physical 0)).channel 1, canonical_of (by decide +kernel),
      and2 (by decide +kernel) ⟨rfl, by decide +kernel⟩⟩,
    ⟨chanS { state := .running, queue := [qd copyD] }, 0, 77, by decide +kernel⟩,
    ⟨0, 1, given100, given100.issue 0 1, given100.core 0, 63, canonical_of (by decide +kernel), and3 (by decide +kernel) rfl⟩,
    ⟨0, 1, given101, (given101.readPiece (flight0 7 none).piece (flight0 7 none).context
      { context := if (flight0 7 none).noAllocate then none else some (flight0 7 none).context }).1, 7, flight0 7 none,
      (given101.readPiece (flight0 7 none).piece (flight0 7 none).context
      { context := if (flight0 7 none).noAllocate then none else some (flight0 7 none).context }).2.1, and4 (by decide +kernel)
      ⟨by decide +kernel, triple_of (by decide +kernel)⟩⟩,
    ⟨0, 1, given102, (given102.readPiece farFlight.piece farFlight.context
      { context := if farFlight.noAllocate then none else some farFlight.context }).1, 7, 5, farFlight, (given102.readPiece
      farFlight.piece farFlight.context { context := if farFlight.noAllocate then none else some farFlight.context }).2.1, and4
      (by decide +kernel) ⟨by decide +kernel, triple_some (by decide +kernel)⟩⟩,
    ⟨0, 1, given103, 7, flight0 7 (some (zeros 64)), zeros 64, by decide +kernel⟩,
    ⟨0, 1, given104, 7, flight0 7 (some (zeros 64)), by decide +kernel⟩,
    ⟨0, 1, given105, 7, { flight0 7 none with tag := 3 }, by decide +kernel⟩,
    ⟨0, 1, given106, given106, { state := .running, queue := [qd copyD, qd copyD], cursor := 2 * 2^25 }, qd copyD, [qd copyD],
      streamDesc copyD, and4 (by decide +kernel) (and4 (by decide +kernel) rfl)⟩,
    ⟨0, 1, given107, given108, { state := .running, queue := [qd signalD, qd copyD], cursor := 2 * 2^25 }, qd signalD, [qd copyD],
      streamDesc signalD, and4 (by decide +kernel) (and4 (by decide +kernel)
      ⟨by rw [if_pos (by decide +kernel)]; exact ⟨by decide +kernel, by decide +kernel, some_of (by decide +kernel)⟩,
      by decide +kernel⟩)⟩,
    ⟨0, 1, chanS { state := .waitingBarrier, queue := [qd copyD] }, { state := .waitingBarrier, queue := [qd copyD] }, qd copyD, [],
      by decide +kernel⟩⟩

theorem witness_UnitsTakeTheirWork :
    (∃ (k : Fin 8) (p : Fin 64) (s : State) (x : PseudoChannel) (e : QuernEntry) (l : List QuernEntry), s.Canonical ∧ s.pseudo k p =
      x ∧ x.queue = e :: l ∧ x.mode = .compute ∧ x.running = none ∧ x.resting = false ∧ s.paused = false ∧ x.badRow (quernDesc
      e.bytes) = none ∧ validQuern e.bytes = true) ∧
    (∃ (k : Fin 8) (p : Fin 64) (s : State) (x : PseudoChannel) (e : QuernEntry) (l : List QuernEntry) (r : Nat), s.pseudo k p = x ∧
      x.queue = e :: l ∧ x.mode = .compute ∧ x.running = none ∧ x.resting = false ∧ s.paused = false ∧ (x.badRow (quernDesc e.bytes)
      = some r ∨ (x.badRow (quernDesc e.bytes) = none ∧ validQuern e.bytes = false ∧ r = (quernDesc e.bytes).firstRow))) ∧
    (∃ (k : Fin 8) (p : Fin 64) (s : State) (x : PseudoChannel) (run : QuernRun) (d : QuernDesc) (r n : Nat), s.Canonical ∧ s.pseudo
      k p = x ∧ x.running = some run ∧ quernDesc run.entry.bytes = d ∧ run.rowsDone / 4 = r ∧ x.mode = .compute ∧ run.dropped =
      false ∧ x.resting = false ∧ r < d.rows ∧ x.chunkIn = true ∧ min (chunkRows x.chunkBand) (d.rows - r) = n) ∧
    (∃ (k : Fin 8) (p : Fin 64) (s : State) (x : PseudoChannel) (run : QuernRun), s.Canonical ∧ s.pseudo k p = x ∧ x.resting = true
      ∧ x.running = some run) ∧
    (∃ (k : Fin 8) (p : Fin 64) (s : State) (x : PseudoChannel) (run : QuernRun), s.Canonical ∧ s.pseudo k p = x ∧ x.running = some
      run ∧ x.resting = false ∧ x.chunkIn = true ∧ (run.dropped = true ∨ x.mode ≠ .compute)) ∧
    (∃ (k : Fin 8) (p : Fin 64) (s : State) (x : PseudoChannel) (run : QuernRun) (d : QuernDesc), s.Canonical ∧ s.pseudo k p = x ∧
      x.running = some run ∧ quernDesc run.entry.bytes = d ∧ x.mode = .compute ∧ run.dropped = false ∧ 4 * d.rows ≤ run.rowsDone) ∧
    (∃ (s : State) (k p x i h : Nat) (d : QuernDesc) (q key val : List Val), i / d.queries = h ∧ (((List.range d.dim).map fun j =>
      bf16.decode (leNat (s.windowRead k p (d.operand + i * d.dim * 2 + j * 2) 2))) = q) ∧ (((List.range d.dim).map fun j =>
      (elemFmt d.format).decode (le (s.record k p d x) ((h * d.dim + j) * d.elementSize) d.elementSize)) = key) ∧ (((List.range
      d.dim).map fun j => (elemFmt d.format).decode (le (s.record k p d x) (((d.heads + h) * d.dim + j) * d.elementSize)
      d.elementSize)) = val) ∧ d.op = 1) ∧
    (∃ (s : State) (k p x i h : Nat) (d : QuernDesc) (q key val : List Val), i / d.queries = h ∧ (((List.range d.dim).map fun j =>
      bf16.decode (leNat (s.windowRead k p (d.operand + i * d.dim * 2 + j * 2) 2))) = q) ∧ (((List.range d.dim).map fun j =>
      (elemFmt d.format).decode (le (s.record k p d x) ((h * d.dim + j) * d.elementSize) d.elementSize)) = key) ∧ (((List.range
      d.dim).map fun j => (elemFmt d.format).decode (le (s.record k p d x) (((d.heads + h) * d.dim + j) * d.elementSize)
      d.elementSize)) = val) ∧ d.op = 2) ∧
    (∃ (s : State) (k p x i h : Nat) (d : QuernDesc) (q key val : List Val), i / d.queries = h ∧ (((List.range d.dim).map fun j =>
      bf16.decode (leNat (s.windowRead k p (d.operand + i * d.dim * 2 + j * 2) 2))) = q) ∧ (((List.range d.dim).map fun j =>
      (elemFmt d.format).decode (le (s.record k p d x) ((h * d.dim + j) * d.elementSize) d.elementSize)) = key) ∧ (((List.range
      d.dim).map fun j => (elemFmt d.format).decode (le (s.record k p d x) (((d.heads + h) * d.dim + j) * d.elementSize)
      d.elementSize)) = val) ∧ d.op = 3) ∧
    (∃ (r : Part) (sc : Word) (v : List Val), (∀ e ∈ v, e ≠ .nan) ∧ isNaN32 sc = false ∧ fless r.m sc = false) ∧
    (∃ (r : Part) (sc : Word) (v : List Val), (∀ e ∈ v, e ≠ .nan) ∧ isNaN32 sc = false ∧ fless r.m sc = true) ∧
    (∃ (sc : Word) (v : List Val), (∀ e ∈ v, e ≠ .nan) ∧ isNaN32 sc = false ∧ sc = negInf) ∧
    (∃ (k : Fin 8) (p : Fin 64) (s t : State) (run : QuernRun) (d : QuernDesc) (words : List Word) (n b : Nat) (y : Word),
      s.Canonical ∧ quernDesc run.entry.bytes = d ∧ validQuern run.entry.bytes = true ∧ d.length ≠ 0 ∧ s.writeResult k p d run = t ∧
      (∀ i, (run.chain d i).o.length = d.dim) ∧ (s.pseudo k p).firstSeg < 128 ∧ (words = (if d.op = 1 then (List.range (d.vectors *
      d.length)).map (sget 0 run.scores) else if d.op = 2 then (List.range d.vectors).flatMap fun i => (run.chain d i).o else
      (List.range d.vectors).flatMap fun i => (run.chain d i).m :: (run.chain d i).l :: (run.chain d i).o)) ∧ words[n]? = some y ∧ b
      < 4) ∧
    (∃ (k : Fin 8) (p : Fin 64) (s t : State) (run : QuernRun) (d : QuernDesc) (words : List Word) (n b : Nat) (y : Word),
      s.Canonical ∧ quernDesc run.entry.bytes = d ∧ validQuern run.entry.bytes = true ∧ d.length ≠ 0 ∧ s.writeResult k p d run = t ∧
      (∀ i, (run.chain d i).o.length = d.dim) ∧ (s.pseudo k p).firstSeg < 128 ∧ (words = (if d.op = 1 then (List.range (d.vectors *
      d.length)).map (sget 0 run.scores) else if d.op = 2 then (List.range d.vectors).flatMap fun i => (run.chain d i).o else
      (List.range d.vectors).flatMap fun i => (run.chain d i).m :: (run.chain d i).l :: (run.chain d i).o)) ∧ words[n]? = some y ∧ b
      < 4) ∧
    (∃ (h : Fin 4) (s v w : State) (x : Hopper) (m : Cmd) (p : Plan) (t : SamplerItem) (record : List Byte) (flags : Nat), s.hopper
      h = x ∧ s.cmd x.context x.csn = some m ∧ s.plan x.context m.planId = some p ∧ x.running = true ∧ x.dropped = false ∧ x.nextRow
      < x.endRow ∧ p.sampler x.item = t ∧ s.rowHeld x t = false ∧ s.sampleAt t p.id (t.rowAt x.nextRow) = (v, .ok (record, flags)) ∧
      (v.modCmd x.context x.csn (fun y =>
      { y with records := sput [] y.records (p.firstRecord (m.actions.map (·.entry)) x.action + x.nextRow) record }) = w) ∧ ((if
      t.echo = 0 then w else w.writeOwn (t.echo + 16 * x.nextRow) record).Canonical) ∧ ((if t.echo = 0 then w else w.writeOwn
      (t.echo + 16 * x.nextRow) record).hopper h = x)) ∧
    (∃ (h : Nat) (s : State) (m : Cmd) (p : Plan) (j : HopperJob) (l : List HopperJob), (s.hopper h).waiting = j :: l ∧ s.cmd
      j.context j.csn = some m ∧ s.plan j.context m.planId = some p) ∧
    (∃ (h : Fin 4) (s v : State) (x : Hopper) (m : Cmd) (p : Plan) (t : SamplerItem) (b : Nat), s.hopper h = x ∧ s.cmd x.context
      x.csn = some m ∧ s.plan x.context m.planId = some p ∧ x.running = true ∧ x.dropped = false ∧ x.nextRow < x.endRow ∧ p.sampler
      x.item = t ∧ s.rowHeld x t = false ∧ s.sampleAt t p.id (t.rowAt x.nextRow) = (v, .error b)) ∧
    (∃ (h : Fin 4) (s : State), s.paused = true ∧ (s.hopper h).inRow = false ∧ (s.hopper h).dropped = false) ∧
    (∃ (h : Fin 4) (s : State) (x : Hopper), s.Canonical ∧ s.hopper h = x ∧ x.dropped = true ∧ x.waiting = [] ∧ s.cmd x.context
      x.csn = none) ∧
    (∃ (s v : State) (a : Nat) (head : List Byte), s.readDevice {} a 16 = (v, head, none) ∧ bit (le head 2 1) 2 = true) ∧
    (∃ (s v w : State) (t : SamplerItem) (a : Nat) (head tail : List Byte), s.readDevice {} a 16 = (v, head, none) ∧ bit (le head 2
      1) 2 = false ∧ v.readDevice {} (a + 16) 48 = (w, tail, none) ∧ rowConfig t (head ++ tail) = none) ∧
    (∃ (s v w : State) (t : SamplerItem) (id a token flags : Nat) (logp : Word) (head tail scores : List Byte) (g : RowConfig),
      s.readDevice {} a 16 = (v, head, none) ∧ bit (le head 2 1) 2 = false ∧ v.readDevice {} (a + 16) 48 = (w, tail, none) ∧
      rowConfig t (head ++ tail) = some g ∧ sampleRow t g scores (le head 4 4) (id % 2 ^ 32 ^^^ id / 2 ^ 32 ^^^ t.salt ^^^ 2 ^ 16 *
      le head 0 2) = (token, flags, logp)) ∧
    (∃ (t : SamplerItem) (g : RowConfig) (scores : List Byte) (nan : Nat) (z : Nat → Word), 0 < g.keep ∧ (∀ v, z v = fmul (t.score
      scores v) g.scale) ∧ (nan = (if (List.range t.vocab).any (fun v => isNaN32 (t.score scores v)) then 4 else 0)) ∧ g.greedy =
      true ∧ (∀ v ∈ List.range t.vocab, fless (z 1) (z v) = false)) ∧
    (∃ (t : SamplerItem) (g : RowConfig) (scores : List Byte) (nan : Nat) (z : Nat → Word), 0 < g.keep ∧ (∀ v, z v = fmul (t.score
      scores v) g.scale) ∧ (nan = (if (List.range t.vocab).any (fun v => isNaN32 (t.score scores v)) then 4 else 0)) ∧ z 1 =
      0x7F800000#32) ∧
    (∃ (t : SamplerItem) (g : RowConfig) (scores : List Byte) (nan : Nat) (z : Nat → Word), 0 < g.keep ∧ (∀ v, z v = fmul (t.score
      scores v) g.scale) ∧ (nan = (if (List.range t.vocab).any (fun v => isNaN32 (t.score scores v)) then 4 else 0)) ∧ (∀ v ∈
      List.range t.vocab, isNaN32 (t.score scores v) = true ∨ z v = 0xFF800000#32)) ∧
    (∃ (t : SamplerItem) (g : RowConfig) (scores : List Byte) (position salt n j : Nat) (x : Scan) (m cn target : Word) (i : Nat)
      (rest : List (Word × Nat)) (cum : List Word), g.greedy = false ∧ ((List.range t.vocab).foldl (fun x v => x.take g (t.score
      scores v) v) {} = x) ∧ x.infinite = none ∧ x.best = (m, i) :: rest ∧ massSums m ((m, i) :: rest) 0 = cum ∧ n < cum.length ∧
      cum.getD n 0 = cn ∧ (∀ l, l < n → fless (cum.getD l 0) (fmul g.mass (cum.getD (cum.length - 1) 0)) = true) ∧ fless cn (fmul
      g.mass (cum.getD (cum.length - 1) 0)) = false ∧ target = fmul cn (toFp32 (.fin false ((chaff32 (m ^^^ cn) (BitVec.ofNat 32
      position) (BitVec.ofNat 32 salt)).toNat / 256) (-24))) ∧ j ≤ n ∧ (∀ l, l < j → fless target (cum.getD l 0) = false) ∧ (j = n ∨
      fless target (cum.getD j 0) = true)) :=
  ⟨⟨2, 1, qS { queue := [qe (qdesc 1 64 2)] }, (qS { queue := [qe (qdesc 1 64 2)] }).pseudo 2 1, qe (qdesc 1 64 2), [],
      canonical_of (by decide +kernel), by decide +kernel⟩,
    ⟨2, 1, qS { queue := [qe (qdesc 0 64 2)] }, (qS { queue := [qe (qdesc 0 64 2)] }).pseudo 2 1, qe (qdesc 0 64 2), [], 2,
      by decide +kernel⟩,
    ⟨2, 1, given109, given109.pseudo 2 1, { entry := qe (qdesc 1 64 2), rowsDone := 0, parts := [], scores := [] }, quernDesc (qdesc
      1 64 2), 0, 1, canonical_of (by decide +kernel), by decide +kernel⟩,
    ⟨2, 1, given110, given110.pseudo 2 1, { entry := qe (qdesc 1 64 2), rowsDone := 0, parts := [], scores := [] }, canonical_of
      (by decide +kernel), by decide +kernel⟩,
    ⟨2, 1, given111, given111.pseudo 2 1, { entry := qe (qdesc 1 64 2), dropped := true, rowsDone := 0, parts := [], scores := [] },
      canonical_of (by decide +kernel), by decide +kernel⟩,
    ⟨2, 1, given112, given112.pseudo 2 1, { entry := qe (qdesc 1 64 2), rowsDone := 4, parts := [], scores := [(3, 7)] }, quernDesc
      (qdesc 1 64 2), canonical_of (by decide +kernel), by decide +kernel⟩,
    ⟨qS {}, 2, 1, 0, 0, 0, quernDesc (qdesc 1 1 2), (List.range (quernDesc (qdesc 1 1 2)).dim).map fun j => bf16.decode (leNat ((qS
      {}).windowRead 2 1 ((quernDesc (qdesc 1 1 2)).operand + 0 * (quernDesc (qdesc 1 1 2)).dim * 2 + j * 2) 2)), (List.range
      (quernDesc (qdesc 1 1 2)).dim).map fun j => (elemFmt (quernDesc (qdesc 1 1 2)).format).decode (le ((qS {}).record 2 1
      (quernDesc (qdesc 1 1 2)) 0) ((0 * (quernDesc (qdesc 1 1 2)).dim + j) * (quernDesc (qdesc 1 1 2)).elementSize) (quernDesc
      (qdesc 1 1 2)).elementSize), (List.range (quernDesc (qdesc 1 1 2)).dim).map fun j => (elemFmt (quernDesc (qdesc 1 1
      2)).format).decode (le ((qS {}).record 2 1 (quernDesc (qdesc 1 1 2)) 0) ((((quernDesc (qdesc 1 1 2)).heads + 0) * (quernDesc
      (qdesc 1 1 2)).dim + j) * (quernDesc (qdesc 1 1 2)).elementSize) (quernDesc (qdesc 1 1 2)).elementSize), by decide +kernel,
      rfl, rfl, rfl, by decide +kernel⟩,
    ⟨qS {}, 2, 1, 0, 0, 0, quernDesc (qdesc 2 1 2), (List.range (quernDesc (qdesc 2 1 2)).dim).map fun j => bf16.decode (leNat ((qS
      {}).windowRead 2 1 ((quernDesc (qdesc 2 1 2)).operand + 0 * (quernDesc (qdesc 2 1 2)).dim * 2 + j * 2) 2)), (List.range
      (quernDesc (qdesc 2 1 2)).dim).map fun j => (elemFmt (quernDesc (qdesc 2 1 2)).format).decode (le ((qS {}).record 2 1
      (quernDesc (qdesc 2 1 2)) 0) ((0 * (quernDesc (qdesc 2 1 2)).dim + j) * (quernDesc (qdesc 2 1 2)).elementSize) (quernDesc
      (qdesc 2 1 2)).elementSize), (List.range (quernDesc (qdesc 2 1 2)).dim).map fun j => (elemFmt (quernDesc (qdesc 2 1
      2)).format).decode (le ((qS {}).record 2 1 (quernDesc (qdesc 2 1 2)) 0) ((((quernDesc (qdesc 2 1 2)).heads + 0) * (quernDesc
      (qdesc 2 1 2)).dim + j) * (quernDesc (qdesc 2 1 2)).elementSize) (quernDesc (qdesc 2 1 2)).elementSize), by decide +kernel,
      rfl, rfl, rfl, by decide +kernel⟩,
    ⟨qS {}, 2, 1, 0, 0, 0, quernDesc (qdesc 3 1 2), (List.range (quernDesc (qdesc 3 1 2)).dim).map fun j => bf16.decode (leNat ((qS
      {}).windowRead 2 1 ((quernDesc (qdesc 3 1 2)).operand + 0 * (quernDesc (qdesc 3 1 2)).dim * 2 + j * 2) 2)), (List.range
      (quernDesc (qdesc 3 1 2)).dim).map fun j => (elemFmt (quernDesc (qdesc 3 1 2)).format).decode (le ((qS {}).record 2 1
      (quernDesc (qdesc 3 1 2)) 0) ((0 * (quernDesc (qdesc 3 1 2)).dim + j) * (quernDesc (qdesc 3 1 2)).elementSize) (quernDesc
      (qdesc 3 1 2)).elementSize), (List.range (quernDesc (qdesc 3 1 2)).dim).map fun j => (elemFmt (quernDesc (qdesc 3 1
      2)).format).decode (le ((qS {}).record 2 1 (quernDesc (qdesc 3 1 2)) 0) ((((quernDesc (qdesc 3 1 2)).heads + 0) * (quernDesc
      (qdesc 3 1 2)).dim + j) * (quernDesc (qdesc 3 1 2)).elementSize) (quernDesc (qdesc 3 1 2)).elementSize), by decide +kernel,
      rfl, rfl, rfl, by decide +kernel⟩,
    ⟨part2, 0x3F800000, [.fin false 1 0, .fin true 1 0], by decide +kernel⟩,
    ⟨part1, 0x40000000, [.fin false 1 0, .fin true 1 0], by decide +kernel⟩,
    ⟨negInf, [.fin false 1 0, .fin true 1 0], by decide +kernel⟩,
    ⟨2, 1, qS {}, (qS {}).writeResult 2 1 (quernDesc (qdesc 1 2 2)) scored, scored, quernDesc (qdesc 1 2 2), (List.range ((quernDesc
      (qdesc 1 2 2)).vectors * (quernDesc (qdesc 1 2 2)).length)).map (sget 0 scored.scores), 1, 0, 9, canonical_of
      (by decide +kernel), and3 (by decide +kernel) ⟨rfl, fun _ => rfl, by decide +kernel⟩⟩,
    ⟨2, 1, qS {}, (qS {}).writeResult 2 1 (quernDesc (qdesc 3 2 2)) attended, attended, quernDesc (qdesc 3 2 2), (List.range
      (quernDesc (qdesc 3 2 2)).vectors).flatMap fun i => (attended.chain (quernDesc (qdesc 3 2 2)) i).m :: (attended.chain
      (quernDesc (qdesc 3 2 2)) i).l :: (attended.chain (quernDesc (qdesc 3 2 2)) i).o, 0, 3, negInf, canonical_of
      (by decide +kernel), and3 (by decide +kernel) ⟨rfl, fun _ => rfl, by decide +kernel⟩⟩,
    ⟨1, hopS 2, took.1, given113, (hopS 2).hopper 1, ((hopS 2).cmd 0 4).getD cmd0, planS, samplerItem smp, (sampled took).1,
      (sampled took).2, by decide +kernel, some_of (by decide +kernel), and4 (by decide +kernel) ⟨rfl, by decide +kernel,
      @sampled_of took (by decide +kernel), rfl, canonical_of (by decide +kernel), by decide +kernel⟩⟩,
    ⟨1, given114, (given114.cmd 0 4).getD cmd0, planS, { context := 0, csn := 4, action := 1, item := 0, first := 0, stop := 2 },
      [], by decide +kernel, some_of (by decide +kernel), by decide +kernel⟩,
    ⟨1, hopLost, (hopLost.sampleAt (samplerItem smp) ({ plan0 with samplers := [smp] }).id ((samplerItem smp).rowAt 0)).1,
      hopLost.hopper 1, (hopLost.cmd 0 4).getD cmd0, { plan0 with samplers := [smp] }, samplerItem smp, scratch0, by decide +kernel,
      some_of (by decide +kernel), and4 (by decide +kernel) ⟨rfl, by decide +kernel, rfl⟩⟩,
    ⟨1, { hopS 2 with power := { up.power with pausing := true } }, by decide +kernel⟩,
    ⟨1, given154, given154.hopper 1, canonical_of (by decide +kernel), by decide +kernel⟩,
    ⟨{ up with mem := memWrite [] scratch0 [5, 0, 4] }, (({ up with mem := memWrite [] scratch0 [5, 0, 4] }).readDevice {} scratch0
      16).1, scratch0, (({ up with mem := memWrite [] scratch0 [5, 0, 4] }).readDevice {} scratch0 16).2.1, triple_of
      (by decide +kernel), by decide +kernel⟩,
    ⟨{ up with mem := memWrite [] scratch0 [5, 0, 8] }, (({ up with mem := memWrite [] scratch0 [5, 0, 8] }).readDevice {} scratch0
      16).1, (((({ up with mem := memWrite [] scratch0 [5, 0, 8] }).readDevice {} scratch0 16).1).readDevice {} (scratch0 + 16)
      48).1, samplerItem smp, scratch0, (({ up with mem := memWrite [] scratch0 [5, 0, 8] }).readDevice {} scratch0 16).2.1,
      (((({ up with mem := memWrite [] scratch0 [5, 0, 8] }).readDevice {} scratch0 16).1).readDevice {} (scratch0 + 16) 48).2.1,
      triple_of (by decide +kernel), by decide +kernel, triple_of (by decide +kernel), by decide +kernel⟩,
    ⟨given156, (given156.readDevice {} scratch0 16).1, (((given156.readDevice {} scratch0 16).1).readDevice {} (scratch0 + 16)
      48).1, samplerItem smp, 7, scratch0, 1, 1, 0, (given156.readDevice {} scratch0 16).2.1, (((given156.readDevice {} scratch0
      16).1).readDevice {} (scratch0 + 16) 48).2.1, (((((given156.readDevice {} scratch0 16).1).readDevice {} (scratch0 + 16)
      48).1).readDevice {} (scratch0 + 64) 16).2.1, { rowConfig0 with greedy := true }, triple_of (by decide +kernel),
      by decide +kernel, triple_of (by decide +kernel), by decide +kernel⟩,
    ⟨samplerItem smp, { rowConfig0 with greedy := true }, leBytes 4 0x3F800000 ++ leBytes 4 0x40000000 ++ leBytes 4 0 ++ leBytes 4
      0x3F000000, 0, fun v => fmul ((samplerItem smp).score (leBytes 4 0x3F800000 ++ leBytes 4 0x40000000 ++ leBytes 4 0 ++ leBytes
      4 0x3F000000) v) ({ rowConfig0 with greedy := true }).scale, by decide +kernel, fun _ => rfl, by decide +kernel⟩,
    ⟨samplerItem smp, rowConfig0, leBytes 4 0x7FC00000 ++ leBytes 4 0x7F800000 ++ leBytes 4 0x7F800000 ++ leBytes 4 0x3F000000, 4,
      fun v => fmul ((samplerItem smp).score (leBytes 4 0x7FC00000 ++ leBytes 4 0x7F800000 ++ leBytes 4 0x7F800000 ++ leBytes 4
      0x3F000000) v) rowConfig0.scale, by decide +kernel, fun _ => rfl, by decide +kernel⟩,
    ⟨samplerItem smp, rowConfig0, leBytes 4 0x7FC00000 ++ leBytes 4 0xFF800000 ++ leBytes 4 0xFF800000 ++ leBytes 4 0xFF800000, 4,
      fun v => fmul ((samplerItem smp).score (leBytes 4 0x7FC00000 ++ leBytes 4 0xFF800000 ++ leBytes 4 0xFF800000 ++ leBytes 4
      0xFF800000) v) rowConfig0.scale, by decide +kernel, fun _ => rfl, by decide +kernel⟩,
    ⟨samplerItem smp, { rowConfig0 with mass := 0x7FC00000 }, leBytes 4 0x3F800000 ++ leBytes 4 0x40000000 ++ leBytes 4 0 ++ leBytes
      4 0x3F000000, 1, 2, 0, 0, { best := [(0x40000000, 1)] }, 0x40000000, (massSums 0x40000000 [(0x40000000, 1)] 0).getD 0 0, fmul
      ((massSums 0x40000000 [(0x40000000, 1)] 0).getD 0 0) (toFp32 (.fin false ((chaff32 (0x40000000 ^^^ ((massSums 0x40000000
      [(0x40000000, 1)] 0).getD 0 0)) (BitVec.ofNat 32 1) (BitVec.ofNat 32 2)).toNat / 256) (-24))), 1, [], massSums 0x40000000
      [(0x40000000, 1)] 0, and4 (by decide +kernel) ⟨rfl, by decide +kernel, rfl, fun _ h => absurd h (Nat.not_lt_zero _),
      fless_nan _ _, rfl, Nat.le_refl _, fun _ h => absurd h (Nat.not_lt_zero _), .inl rfl⟩⟩⟩

theorem witness_MemoriesKeepThemselves :
    (∃ (p : Fin 256) (line : Nat) (s : State), (∀ g ∈ unitsOf 16 (0x10000000 + line * 64) 64, (s.damageAt (localKey p g)).kind =
      .none)) ∧
    (∃ (p : Fin 256) (line g : Nat) (s : State), s.Canonical ∧ (s.core p).state ≠ .running ∧ (s.core p).state ≠ .trapped ∧ s.isOn (p
      / 4) = true ∧ line < 786432 ∧ g ∈ unitsOf 16 (0x10000000 + line * 64) 64 ∧ (s.damageAt (localKey p g)).kind ≠ .correctable ∧
      (s.damageAt (localKey p g)).lost = true ∧ (∀ x ∈ unitsOf 16 (0x10000000 + line * 64) 64, x ≠ g → (s.damageAt (localKey p
      x)).kind = .none)) ∧
    (∃ (p : Fin 256) (line g : Nat) (s : State), s.Canonical ∧ (s.core p).state ≠ .running ∧ (s.core p).state ≠ .trapped ∧ s.isOn (p
      / 4) = true ∧ line < 786432 ∧ g ∈ unitsOf 16 (0x10000000 + line * 64) 64 ∧ (s.damageAt (localKey p g)).kind = .correctable ∧
      (∀ x ∈ unitsOf 16 (0x10000000 + line * 64) 64, x ≠ g → (s.damageAt (localKey p x)).kind = .none)) ∧
    (∃ (k : Fin 8) (row a : Nat) (m : DamageMark) (s : State), s.isOn (68 + k) = true ∧ (s.stack k).trained = true ∧ (s.stack
      k).selfRefresh = false ∧ ((s.damage.filter fun e => isExternal e.1 && stackOf e.1 == k.val && bankOf e.1 == row % 64 && rowOf
      e.1 == row / 64 && s.scrubs k e.1) = [(a, m)]) ∧ (s.stack k).caErrors = [] ∧ (s.stack k).strays = [] ∧ s.damageAt a = m ∧
      s.journal.segments.contains (segmentOf a) = false) ∧
    (∃ (k : Fin 8) (b : Fin 64) (s : State), s.Canonical ∧ (s.stack k).trained = true ∧ (s.stack k).selfRefresh = false ∧
      s.refreshDue k b = true) ∧
    (∃ (s : State), s.idle = true) :=
  ⟨⟨1, 3, up, by decide +kernel⟩,
    ⟨0, 3, 0x10000000 + 192 + 16, given115, canonical_of (by decide +kernel), by decide +kernel⟩,
    ⟨0, 3, 0x10000000 + 192 + 16, given116, canonical_of (by decide +kernel), by decide +kernel⟩,
    ⟨0, 0, 0, { kind := .correctable, position := 3 }, { up with damage := [(0, { kind := .correctable, position := 3 })] },
      by decide +kernel⟩,
    ⟨2, 0, given109, canonical_of (by decide +kernel), by decide +kernel⟩,
    ⟨up, by decide +kernel⟩⟩

theorem witness_RoundsDecide :
    (∃ (r : Readings) (s : State), s.samples = true ∧ r.maelynMissed = false ∧ s.power.decisions = none) ∧
    (∃ (r : Readings) (s : State) (d : Decisions), s.samples = true ∧ r.maelynMissed = false ∧ s.power.decisions = some d) ∧
    (∃ (r : Readings) (s : State), (r.maelynMissed = true ∨ s.samples = false)) ∧
    (∃ (s : State) (d : Decisions) (n : Nat), s.power.decisions = some d ∧ d.due ≤ s.now ∧ s.dev.state ≠ .off ∧ (d.latch = none ∨
      s.dev.state = .latched) ∧ n = max (s.now + d.pause) (s.power.pauseUntil.getD 0)) ∧
    (∃ (s : State) (n : Nat), s.power.pauseUntil = some n ∧ s.power.pausing = true ∧ n ≤ s.now) ∧
    (∃ (i : Fin 93) (s : State), s.dev.state ≠ .off ∧ s.dev.state ≠ .latched ∧ i.val < 85) ∧
    (∃ (s : State), s.dev.state ≠ .off ∧ s.dev.state ≠ .latched) ∧
    (∃ (s : State), s.Canonical) ∧
    (∃ (s : State), s.dev.state ≠ .off ∧ s.power.lowInput = false) ∧
    (∃ (s : State), s.dev.state ≠ .off ∧ s.power.lowInput = true) ∧
    (∃ (s : State), s.dev.state ≠ .off) :=
  ⟨⟨rd, up, by decide +kernel⟩,
    ⟨rd, { up with power := { up.power with decisions := some dec1 } }, dec1, by decide +kernel⟩,
    ⟨{ rd with maelynMissed := true }, up, by decide +kernel⟩,
    ⟨{ up with power := { up.power with decisions := some dec1 } }, dec1, up.now + 3, by decide +kernel⟩,
    ⟨given117, 5, by decide +kernel⟩,
    ⟨84, up, by decide +kernel⟩,
    ⟨up, by decide +kernel⟩,
    ⟨withCmds100, canonical_of (by decide +kernel)⟩,
    ⟨up, by decide +kernel⟩,
    ⟨{ up with power := { up.power with lowInput := true } }, by decide +kernel⟩,
    ⟨up, by decide +kernel⟩⟩

theorem witness_PowerComesAndGoes :
    (∃ (s : State), s.pins.closed = true) ∧
    (∃ (s : State), s.pins.closed = false) ∧
    (∃ (s : State), s.pins.closed = true) ∧
    (∃ (s : State), s.pins.pwrEn = false) ∧
    (∃ (s : State), s.pins.pwrEn = false) ∧
    (∃ (s : State), s.pins.pwrEn = true ∧ s.pins.closed = false ∧ 104858 + s.pins.offAt ≤ s.uptime) ∧
    (∃ (s : State), s.pins.precharging = true ∧ s.pins.closed = false ∧ s.pins.inputLow = false) ∧
    (∃ (s : State), s.pins.pwrEn = true) ∧
    (∃ (n : Nat) (s : State), s.pins.pwrEn = true ∧ s.dev.state ≠ .off ∧ s.dev.state ≠ .latched ∧ s.dev.state ≠ .staging ∧ 104858 ≤
      n) ∧
    (∃ (n : Nat) (s : State), s.pins.pwrEn = true ∧ s.dev.state ≠ .off ∧ s.dev.state ≠ .latched ∧ s.dev.state ≠ .staging ∧ 1049 ≤ n
      ∧ n < 104858) ∧
    (∃ (n : Nat), n < 1049) :=
  ⟨⟨up, by decide +kernel⟩,
    ⟨{ up with pins := { up.pins with closed := false } }, by decide +kernel⟩,
    ⟨up, by decide +kernel⟩,
    ⟨{ up with pins := { up.pins with pwrEn := false, closed := false } }, by decide +kernel⟩,
    ⟨{ up with pins := { up.pins with pwrEn := false, closed := false } }, by decide +kernel⟩,
    ⟨{ up with pins := { up.pins with closed := false } }, by decide +kernel⟩,
    ⟨given118, by decide +kernel⟩,
    ⟨up, by decide +kernel⟩,
    ⟨104858, up, by decide +kernel⟩,
    ⟨104857, up, by decide +kernel⟩,
    ⟨1048, by decide +kernel⟩⟩

theorem witness_StagesPassInTurn :
    (∃ (s : State), s.Canonical ∧ s.dev.state = .staging ∧ s.dev.quiescing = true) ∧
    (∃ (s : State), s.dev.state = .staging ∧ s.dev.stage = 0 ∧ s.dev.quiescing = false ∧ s.dev.testMode = false) ∧
    (∃ (r : S1Facts) (s : State) (i : Nat), s.dev.state = .staging ∧ s.dev.stage = 1 ∧ s.dev.quiescing = false ∧ s.dev.warm = false
      ∧ s.sec.bootImage = some i ∧ (r.listA = true ∨ r.listB = true) ∧ (r.tableA = true ∨ r.tableB = true)) ∧
    (∃ (r : S1Facts) (s : State) (i : Nat), s.dev.state = .staging ∧ s.dev.stage = 1 ∧ s.dev.quiescing = false ∧ s.dev.warm = false
      ∧ s.sec.bootImage = some i ∧ ((r.tableA = false ∧ r.tableB = false) ∨ (r.listA = false ∧ r.listB = false ∧
      s.dev.clearAuthorised = false))) ∧
    (∃ (r : S1Facts) (s : State) (i : Nat), s.dev.state = .staging ∧ s.dev.stage = 1 ∧ s.dev.quiescing = false ∧ s.dev.warm = false
      ∧ s.sec.bootImage = some i ∧ ((r.tableA = false ∧ r.tableB = false) ∨ (r.listA = false ∧ r.listB = false ∧
      s.dev.clearAuthorised = false))) ∧
    (∃ (s : State), s.dev.state = .staging ∧ s.dev.stage = 1 ∧ s.dev.quiescing = false ∧ s.dev.warm = false ∧ s.sec.bootImage =
      none) ∧
    (∃ (x : Security) (i : Nat), x.bootImage = some i) ∧
    (∃ (s : State), s.dev.state = .staging ∧ s.dev.stage = 1 ∧ s.dev.quiescing = false ∧ s.dev.warm = true ∧ s.sec.bodyDigest = some
      (sha384 (imageBody s.sec.kept)) ∧ s.sec.testImage = false) ∧
    (∃ (r : S2Facts) (s : State), s.dev.state = .staging ∧ s.dev.stage = 2 ∧ s.dev.quiescing = false ∧ r.readsAgree = true) ∧
    (∃ (r : S2Facts) (s : State), s.dev.state = .staging ∧ s.dev.stage = 2 ∧ s.dev.quiescing = false ∧ r.readsAgree = false) ∧
    (∃ (r : S3Facts) (s : State), s.dev.state = .staging ∧ s.dev.stage = 3 ∧ s.dev.quiescing = false ∧ r.absentDie = none) ∧
    (∃ (r : S3Facts) (s : State) (d : Nat), s.dev.state = .staging ∧ s.dev.stage = 3 ∧ s.dev.quiescing = false ∧ r.absentDie = some
      d) ∧
    (∃ (r : S4Facts) (s u : State) (t : Tested), s.dev.state = .staging ∧ s.dev.stage = 4 ∧ s.dev.quiescing = false ∧ (s.testUnits
      [5, 6] (132 * 298) (s.dev.fusedLinkLanes.map linkLaneUnit) (r.failedLanes.map linkLaneUnit) (fun u => u.2.1 % 256) = t) ∧
      s.trainLinks t r = u ∧ u.apartPair = none ∧ (∀ i, i < 4 → u.width i ≠ 0) ∧ (u.width 4 ≠ 0 ∨ u.width 5 ≠ 0)) ∧
    (∃ (r : S4Facts) (s u : State) (t : Tested), s.dev.state = .staging ∧ s.dev.stage = 4 ∧ s.dev.quiescing = false ∧ (s.testUnits
      [5, 6] (132 * 298) (s.dev.fusedLinkLanes.map linkLaneUnit) (r.failedLanes.map linkLaneUnit) (fun u => u.2.1 % 256) = t) ∧
      s.trainLinks t r = u ∧ (u.apartPair.isSome = true ∨ (∃ i, i < 4 ∧ u.width i = 0) ∨ (u.width 4 = 0 ∧ u.width 5 = 0)) ∧
      u.apartPair = some (0, 2)) ∧
    (∃ (r : S4Facts) (s u : State) (t : Tested), s.dev.state = .staging ∧ s.dev.stage = 4 ∧ s.dev.quiescing = false ∧ (s.testUnits
      [5, 6] (132 * 298) (s.dev.fusedLinkLanes.map linkLaneUnit) (r.failedLanes.map linkLaneUnit) (fun u => u.2.1 % 256) = t) ∧
      s.trainLinks t r = u ∧ (u.apartPair.isSome = true ∨ (∃ i, i < 4 ∧ u.width i = 0) ∨ (u.width 4 = 0 ∧ u.width 5 = 0)) ∧
      u.apartPair = none ∧ u.width 3 = 0) ∧
    (∃ (r : S4Facts) (s u : State) (t : Tested), s.dev.state = .staging ∧ s.dev.stage = 4 ∧ s.dev.quiescing = false ∧ (s.testUnits
      [5, 6] (132 * 298) (s.dev.fusedLinkLanes.map linkLaneUnit) (r.failedLanes.map linkLaneUnit) (fun u => u.2.1 % 256) = t) ∧
      s.trainLinks t r = u ∧ (u.apartPair.isSome = true ∨ (∃ i, i < 4 ∧ u.width i = 0) ∨ (u.width 4 = 0 ∧ u.width 5 = 0)) ∧
      u.apartPair = none ∧ (∀ i ∈ List.range 4, u.width i ≠ 0)) ∧
    (∃ (r : S5Facts) (s t : State), s.dev.state = .staging ∧ s.dev.stage = 5 ∧ s.dev.quiescing = false ∧ exec (.stageS5BedstoneTest
      r) s = .next t) ∧
    (∃ (r : S5Facts) (s : State), s.dev.state = .staging ∧ s.dev.stage = 5 ∧ s.dev.quiescing = false ∧ s.dev.warm = false ∧
      s.dev.badCores = [] ∧ s.dev.badLanes = [] ∧ s.dev.fusedRows = [] ∧ s.dev.defects = [] ∧ s.dev.onlyThisStart = [] ∧ r.badRows =
      []) ∧
    (∃ (r : S6Facts) (s : State), s.Canonical ∧ s.dev.state = .staging ∧ s.dev.stage = 6 ∧ s.dev.quiescing = false ∧
      r.perStack.length = 8 ∧ (∀ f ∈ r.perStack, f.trained = true)) ∧
    (∃ (r : S6Facts) (s : State) (k : Nat) (f : S6Stack), s.Canonical ∧ s.dev.state = .staging ∧ s.dev.stage = 6 ∧ s.dev.quiescing =
      false ∧ r.perStack.length = 8 ∧ (k = 1 ∨ k = 7) ∧ r.perStack[k]? = some f ∧ f.trained = false) ∧
    (∃ (r : S7Facts) (s : State), s.Canonical ∧ s.dev.state = .staging ∧ s.dev.stage = 7 ∧ s.dev.quiescing = false ∧ r.steps.length
      = 8 ∧ (∀ x ∈ r.steps, x.1 = 0)) ∧
    (∃ (r : S7Facts) (s : State) (k : Nat) (x : Nat × Nat), s.Canonical ∧ s.dev.state = .staging ∧ s.dev.stage = 7 ∧ s.dev.quiescing
      = false ∧ r.steps.length = 8 ∧ (k = 1 ∨ k = 7) ∧ (s.stack k).trained = true ∧ r.steps[k]? = some x ∧ x.1 ≠ 0) ∧
    (∃ (r : S8Facts) (s : State) (l : List Byte), s.dev.state = .staging ∧ s.dev.stage = 8 ∧ s.dev.quiescing = false ∧ (l = (if
      s.dev.warm = true then s.sec.verifiedLast else s.sec.readLast r)) ∧ (s.dev.warm = true ∨ s.sec.factorySigned (slice l 0 352)
      (slice l 352 96) = true)) ∧
    (∃ (r : S8Facts) (s : State) (l : List Byte), s.dev.state = .staging ∧ s.dev.stage = 8 ∧ s.dev.quiescing = false ∧ (l = (if
      s.dev.warm = true then s.sec.verifiedLast else s.sec.readLast r)) ∧ (s.dev.warm = true ∨ s.sec.factorySigned (slice l 0 352)
      (slice l 352 96) = true) ∧ s.lastDiffers l = none) ∧
    (∃ (r : S8Facts) (s : State) (l : List Byte), s.dev.state = .staging ∧ s.dev.stage = 8 ∧ s.dev.quiescing = false ∧ s.dev.warm =
      false ∧ l = s.sec.readLast r ∧ s.sec.factorySigned (slice l 0 352) (slice l 352 96) = false) ∧
    (∃ (s : State), s.Canonical ∧ s.dev.state = .staging ∧ s.dev.stage = 9 ∧ s.dev.quiescing = false ∧ s.dev.warm = false) ∧
    (∃ (r : S9Facts) (s : State), s.Canonical ∧ s.dev.state = .staging ∧ s.dev.stage = 9 ∧ s.dev.quiescing = false ∧ s.dev.warm =
      true ∧ (∀ c, c < 64 → (s.stream c).cmds = []) ∧ s.devStream.cmds = [] ∧ s.dev.replaying = none ∧ s.dev.suspects = [] ∧
      s.dev.suspectsAtWarm = false ∧ r.unreadable = []) :=
  ⟨⟨given119, canonical_of (by decide +kernel), by decide +kernel⟩,
    ⟨staging 0, by decide +kernel⟩,
    ⟨s1, given120, 1, by decide +kernel⟩,
    ⟨{ s1 with tableA := false, tableB := false }, given120, 1, by decide +kernel⟩,
    ⟨{ s1 with listA := false }, given120, 1, by decide +kernel⟩,
    ⟨staging 1, by decide +kernel⟩,
    ⟨opening.sec, 1, by decide +kernel⟩,
    ⟨warmS 1, by decide +kernel⟩,
    ⟨s2 true, staging 2, by decide +kernel⟩,
    ⟨s2 false, staging 2, by decide +kernel⟩,
    ⟨{ absentDie := none, failedCores := [5], failedLanes := [] }, staging 3, by decide +kernel⟩,
    ⟨{ absentDie := some 2, failedCores := [], failedLanes := [] }, staging 3, 2, by decide +kernel⟩,
    ⟨s4, staging 4, given121, (staging 4).testUnits [5, 6] (132 * 298) ((staging 4).dev.fusedLinkLanes.map linkLaneUnit)
      (s4.failedLanes.map linkLaneUnit) (fun u => u.2.1 % 256), and3 (by decide +kernel) ⟨rfl, rfl, by decide +kernel⟩⟩,
    ⟨s4apart, staging 4, given157, (staging 4).testUnits [5, 6] (132 * 298) ((staging 4).dev.fusedLinkLanes.map linkLaneUnit)
      (s4apart.failedLanes.map linkLaneUnit) (fun u => u.2.1 % 256), and3 (by decide +kernel) ⟨rfl, rfl, by decide +kernel⟩⟩,
    ⟨s4ringOpen, staging 4, given158, (staging 4).testUnits [5, 6] (132 * 298) ((staging 4).dev.fusedLinkLanes.map linkLaneUnit)
      (s4ringOpen.failedLanes.map linkLaneUnit) (fun u => u.2.1 % 256), and3 (by decide +kernel) ⟨rfl, rfl, by decide +kernel⟩⟩,
    ⟨s4cutOff, staging 4, given159, (staging 4).testUnits [5, 6] (132 * 298) ((staging 4).dev.fusedLinkLanes.map linkLaneUnit)
      (s4cutOff.failedLanes.map linkLaneUnit) (fun u => u.2.1 % 256), and3 (by decide +kernel) ⟨rfl, rfl, by decide +kernel⟩⟩,
    ⟨{ badRows := [] }, staging 5, stateOf (exec (.stageS5BedstoneTest ({ badRows := [] })) (staging 5)), and3 (by decide +kernel)
      rfl⟩,
    ⟨{ badRows := [] }, staging 5, by decide +kernel⟩,
    ⟨{ perStack := List.replicate 8 { trained := true, badLanes := [], lanesRepaired := 0, unrepaired := false, unreadableSegments := [] } },
      staging 6, canonical_of (by decide +kernel), by decide +kernel⟩,
    ⟨s6one, staging 6, 7, { trained := false, badLanes := [], lanesRepaired := 0, unrepaired := false, unreadableSegments := [] },
      canonical_of (by decide +kernel), by decide +kernel⟩,
    ⟨{ steps := List.replicate 8 (0,0) }, staging 7, canonical_of (by decide +kernel), by decide +kernel⟩,
    ⟨{ steps := (List.replicate 8 (0, 0)).set 1 (3, 0) }, { staging 7 with memStacks := [(1, { trained := true })] }, 1, (3, 0),
      canonical_of (by decide +kernel), by decide +kernel⟩,
    ⟨{}, given122, zeros 448, by decide +kernel⟩,
    ⟨{}, given123, zeros 448, by decide +kernel⟩,
    ⟨{ misread := [(9, 3)] }, given124, (zeros 448).set 9 3, by decide +kernel⟩,
    ⟨{ up with dev := { up.dev with state := .staging, stage := 9 } }, canonical_of (by decide +kernel), by decide +kernel⟩,
    ⟨{ unreadable := [] }, given160, canonical_of (by decide +kernel), by decide +kernel⟩⟩

theorem witness_ResetsRecover :
    (∃ (p : Fin 256) (s : State) (n : Nat), (s.core p).stopToldAt = some n ∧ n + 40 ≤ s.uptime ∧ s.inService = true ∧ (∀ g ∈
      s.dev.groupResets, g.1 ≠ p.val / 4) ∧ (∀ d ∈ s.dev.dieResets, d.1 ≠ dieOfCore p)) ∧
    (∃ (g : Fin 64) (s : State) (n p : Nat), s.Canonical ∧ s.dev.groupResets = [(g.val, n, p)] ∧ s.dev.dieResets = []) ∧
    (∃ (g : Fin 64) (s : State) (n p : Nat), (g.val, n, p) ∈ s.dev.groupResets ∧ n + 64 ≤ s.uptime ∧ s.inService = true) ∧
    (∃ (d : Fin 4) (s : State), s.inService = true ∧ s.dev.state ≠ .doze ∧ (∀ x ∈ s.dev.dieResets, x.1 ≠ d.val)) ∧
    (∃ (d : Fin 4) (s : State) (n cause : Nat), s.Canonical ∧ s.dev.dieResets = [(d.val, n, cause)] ∧ s.dev.groupResets = [] ∧ (∀ c,
      c < 64 → (s.stream c).cmds = []) ∧ s.dev.replaying = none ∧ s.dev.suspects = []) ∧
    (∃ (d : Fin 4) (s : State) (n cause : Nat), (d.val, n, cause) ∈ s.dev.dieResets ∧ 2048 + n ≤ s.uptime ∧ s.inService = true) ∧
    (∃ (s : State), s.inService = false) ∧
    (∃ (p : Fin 256) (s t : State), s.Canonical ∧ s.resetGroup p = t) ∧
    (∃ (d : Fin 4) (cause : Nat) (l : List (Nat × Nat)) (s t : State), s.Canonical ∧ s.dev.replaying = none ∧ (∀ x ∈
      s.dev.lastDieReset, x.1 = d.val → 2 ^ 20 + x.2 ≤ s.uptime) ∧ s.noRoute ((s.dev.dieResets.map (·.1)) ++ [d.val]) = false ∧
      s.resetDie d cause l = t) ∧
    (∃ (d : Fin 4) (s : State) (x : Nat × Nat), s.dev.replaying = none ∧ x ∈ s.dev.lastDieReset ∧ x.1 = d.val ∧ s.uptime < 2 ^ 20 +
      x.2) ∧
    (∃ (d : Fin 4) (cause c : Nat) (l : List (Nat × Nat)) (s t : State), s.Canonical ∧ s.dev.replaying = some c ∧ s.dev.replay =
      true ∧ c < 64 ∧ (s.context c).reset = none ∧ s.noRoute ((s.dev.dieResets.map (·.1)) ++ [d.val]) = false ∧ s.resetDie d cause l
      = t) ∧
    (∃ (s : State), s.inService = true) ∧
    (∃ (s : State), s.inService = true ∧ (s.journal.staging ≠ [] ∨ s.journal.effects ≠ []) ∧ s.journal.waitingSince + 256 ≤
      s.uptime) ∧
    (∃ (s : State), s.dev.state = .faulted ∧ s.dev.autoWarm = true ∧ s.dev.mayWarm = true ∧ s.dev.faultedAt + 1024 * s.dev.faultHold
      ≤ s.uptime ∧ s.thirdWarm = false) ∧
    (∃ (s : State), s.dev.state = .faulted ∧ s.dev.autoWarm = true ∧ s.dev.mayWarm = true ∧ s.dev.faultedAt + 1024 * s.dev.faultHold
      ≤ s.uptime ∧ s.thirdWarm = true) :=
  ⟨⟨0, coreS { core0 [] with stopToldAt := some 5 }, 5, by decide +kernel⟩,
    ⟨0, given125, 5, 0, canonical_of (by decide +kernel), by decide +kernel⟩,
    ⟨20, { up with dev := { up.dev with groupResets := [(20,5,80)] } }, 5, 80, by decide +kernel⟩,
    ⟨2, up, by decide +kernel⟩,
    ⟨2, { up with dev := { up.dev with dieResets := [(2,5,4)] } }, 5, 4, canonical_of (by decide +kernel), by decide +kernel⟩,
    ⟨2, { up with dev := { up.dev with dieResets := [(2,5,4)] } }, 5, 4, by decide +kernel⟩,
    ⟨staging 1, by decide +kernel⟩,
    ⟨0, { actS (acting 1 .running) with cores := [(0, core0 [])] }, given161, canonical_of (by decide +kernel), rfl⟩,
    ⟨0, 4, [(0, 3)], { actS (acting 1 .running) with cores := [(0, core0 [])] }, given162, canonical_of (by decide +kernel), and3
      (by decide +kernel) rfl⟩,
    ⟨0, { up with dev := { up.dev with lastDieReset := [(0, 2000000)] } }, (0, 2000000), by decide +kernel⟩,
    ⟨0, 4, 0, [], given163, given163.resetDie 0 4 [], canonical_of (by decide +kernel), and4 (by decide +kernel) ⟨by decide +kernel,
      rfl⟩⟩,
    ⟨up, by decide +kernel⟩,
    ⟨given126, by decide +kernel⟩,
    ⟨faultedS [], by decide +kernel⟩,
    ⟨faultedS [19000000, 19500000], by decide +kernel⟩⟩

theorem witness_FlitsAreDelivered :
    (∃ (i : Fin 6) (b : Fin 16) (s u : State) (f : Flit) (d r : LinkDir) (toB : Bool), s.Canonical ∧ u.Canonical ∧ s.carries i b =
      true ∧ s.linkDir i b toB = d ∧ s.linkDir i b (!toB) = r ∧ flitFormed f = true ∧ f.kind = 1 ∧ f.damage = 0 ∧ f.ack =
      r.lastAccepted ∧ f.credits ≤ (r.inbox.filter (·.1 == f.creditClass)).length ∧ d.resending = [] ∧ d.moved = [] ∧ s.meshSends i
      b toB f = some u ∧ f.sequence = d.nextSeq ∧ d.replay.length < 256 ∧ 0 < d.credits.getD f.packet.cls 0 ∧ f.sequence =
      d.expected ∧ (∀ j ∈ s.injections, j.verb ≠ 1) ∧ s.dev.state ≠ .doze) ∧
    (∃ (i : Fin 6) (b : Fin 16) (s u : State) (f : Flit) (d r : LinkDir) (toB : Bool), s.Canonical ∧ u.Canonical ∧ s.carries i b =
      true ∧ s.linkDir i b toB = d ∧ s.linkDir i b (!toB) = r ∧ flitFormed f = true ∧ f.kind = 1 ∧ flitArrived f = none ∧ f.ack =
      r.lastAccepted ∧ f.credits ≤ (r.inbox.filter (·.1 == f.creditClass)).length ∧ d.resending = [] ∧ d.moved = [] ∧ s.meshSends i
      b toB f = some u ∧ f.sequence = d.nextSeq ∧ d.replay.length < 256 ∧ 0 < d.credits.getD f.packet.cls 0 ∧ d.discarding = false ∧
      (∀ j ∈ s.injections, j.verb ≠ 1) ∧ s.dev.state ≠ .doze) ∧
    (∃ (i : Fin 6) (b : Fin 16) (s : State) (f : Flit) (d r x : LinkDir) (toB : Bool), s.Canonical ∧ s.carries i b = true ∧
      s.linkDir i b toB = d ∧ s.linkDir i b (!toB) = r ∧ flitFormed f = true ∧ f.kind = 2 ∧ f.damage = 0 ∧ f.ack = r.lastAccepted ∧
      f.credits ≤ (r.inbox.filter (·.1 == f.creditClass)).length ∧ 0 < r.nacksOwed ∧ f.sequence = (1023 + d.nextSeq) % 1024 ∧
      d.discarding = false ∧ f.sequence = d.lastAccepted ∧ ((r.nacks.filter fun t => decide (s.uptime < 1024 + t)).length < 7) ∧
      ((LinkDir.acked
      { r with nacksOwed := r.nacksOwed - 1, nacks := s.uptime :: r.nacks.filter fun t => decide (s.uptime < 1024 + t) }
      f.ack).credited f.creditClass f.credits = x) ∧ x.replay ≠ [] ∧ x.resends < 16) ∧
    (∃ (i : Fin 6) (b : Nat) (s : State) (f : Flit) (toB : Bool), s.nextHop f.packet (senderOf i toB) ≠ some (i.val, toB, b)) ∧
    (∃ (i : Fin 6) (b a e : Nat) (s : State) (f : Flit) (toB : Bool), s.Canonical ∧ s.dev.pairs.length = 25 ∧ s.nextHop f.packet a =
      some (i.val, toB, b) ∧ senderOf i toB = a ∧ sourceDie f.packet = a ∧ destinationDie f.packet = e ∧ (∀ y ∈ s.storedBy a,
      samePair y.2.2.packet f.packet = true → y.2.2.phase = .sent) ∧ (s.storeAt i toB).length < 16384 ∧ f.packet.delivery = (s.pair
      a e).next ∧ f.packet.index = 0 ∧ (∀ x ∈ (s.pair a e).opened, x.1 ≠ f.packet.delivery)) ∧
    (∃ (i : Fin 6) (b a : Nat) (s : State) (f : Flit) (toB : Bool), s.nextHop f.packet a = some (i.val, toB, b) ∧ senderOf i toB = a
      ∧ sourceDie f.packet ≠ a ∧ (a, f.payload, f.packet) ∈ s.dev.transit) ∧
    (∃ (s : State) (f : Flit), f.kind = 1 ∧ s.dev.state = .doze) ∧
    (∃ (die : Nat) (f : Flit), destinationDie f.packet ≠ die) ∧
    (∃ (x : Pair) (p : Packet), deliveredBefore p.delivery x.expected = false ∧ x.arrived = [] ∧ p.delivery = x.expected ∧ p.last =
      true) ∧
    (∃ (x : Pair) (p : Packet), deliveredBefore p.delivery x.expected = false ∧ x.arrived = [] ∧ p.delivery = x.expected ∧ p.last =
      false) ∧
    (∃ (i : Fin 6) (b : Fin 16) (toB : Bool) (l : List Nat) (s : State) (d : LinkDir), s.Canonical ∧ s.linkDir i b toB = d ∧
      d.retraining = true ∧ (∀ x ∈ l, x ∈ d.failed ∨ x ∈ d.injected) ∧ beyondSpares (merged d.failed d.injected) = false ∧ sparesFor
      (merged d.failed d.injected) ≤ d.sparesUsed) ∧
    (∃ (i : Fin 6) (b : Fin 16) (toB : Bool) (l : List Nat) (s : State) (d : LinkDir), s.Canonical ∧ s.linkDir i b toB = d ∧
      d.retraining = true ∧ (beyondSpares (merged (merged d.failed (l.filter fun x => !d.injected.contains x)) d.injected) = true)) ∧
    (∃ (i : Fin 6) (fromB : Bool) (die : Fin 5) (n : Fin 65536) (s : State), s.Canonical ∧ deliveredBefore n (s.pair (senderOf i
      (!fromB)) die).expected = true) :=
  ⟨⟨0, 0, up, (up.meshSends 0 0 true (flit0 packet0 0)).getD up, flit0 packet0 0, up.linkDir 0 0 true, up.linkDir 0 0 false, true,
      canonical_of (by decide +kernel), canonical_of (by decide +kernel), and4 (by decide +kernel) (and4 (by decide +kernel) (and2
      (by decide +kernel) ⟨some_of (by decide +kernel), by decide +kernel⟩))⟩,
    ⟨0, 0, up, (up.meshSends 0 0 true (flit0 packet0 1)).getD up, flit0 packet0 1, up.linkDir 0 0 true, up.linkDir 0 0 false, true,
      canonical_of (by decide +kernel), canonical_of (by decide +kernel), and4 (by decide +kernel) (and4 (by decide +kernel) (and2
      (by decide +kernel) ⟨some_of (by decide +kernel), by decide +kernel⟩))⟩,
    ⟨0, 0, given127, { flit0 packet0 0 with kind := 2, sequence := 1023 }, given127.linkDir 0 0 true, given127.linkDir 0 0 false,
      (LinkDir.acked
      { (given127.linkDir 0 0 false) with nacksOwed := (given127.linkDir 0 0 false).nacksOwed - 1, nacks := given127.uptime :: (given127.linkDir 0 0 false).nacks.filter fun t => decide (given127.uptime < 1024 + t) }
      ({ flit0 packet0 0 with kind := 2, sequence := 1023 }).ack).credited
      ({ flit0 packet0 0 with kind := 2, sequence := 1023 }).creditClass
      ({ flit0 packet0 0 with kind := 2, sequence := 1023 }).credits, true, canonical_of (by decide +kernel), by decide +kernel⟩,
    ⟨0, 0, up, flit0 { packet0 with destination := 128 } 0, true, by decide +kernel⟩,
    ⟨0, 0, 0, 1, up, flit0 packet0 0, true, canonical_of (by decide +kernel), by decide +kernel⟩,
    ⟨1, 0, 1, given128, flit0 { packet0 with destination := 200 } 0, true, by decide +kernel⟩,
    ⟨{ up with dev := { up.dev with state := .doze } }, flit0 packet0 0, by decide +kernel⟩,
    ⟨0, flit0 packet0 0, by decide +kernel⟩,
    ⟨{}, packet0, by decide +kernel⟩,
    ⟨{}, { packet0 with last := false }, by decide +kernel⟩,
    ⟨0, 0, true, [3], given129, given129.linkDir 0 0 true, canonical_of (by decide +kernel), by decide +kernel⟩,
    ⟨0, 0, true, [1, 2, 3, 4, 5, 6, 7, 8, 9], up.modLink 0 fun x => x.setBundle 0 { aToB := { retraining := true } }, (up.modLink 0
      fun x => x.setBundle 0 { aToB := { retraining := true } }).linkDir 0 0 true, canonical_of (by decide +kernel),
      by decide +kernel⟩,
    ⟨0, false, 1, 0, given130, canonical_of (by decide +kernel), by decide +kernel⟩⟩

/-! ## Well-formedness: a term that each check refuses, beside the terms it takes -/

def taken (l : List Instr) : Bool := l.all fun i => i.wellFormed
def refusedAll (l : List Instr) : Bool := l.all fun i => !i.wellFormed

def tag1 : SecTag := { an := 1, sci := 5, pn := 9 }
def s3 : S3Facts := { absentDie := none, failedCores := [], failedLanes := [] }
def stack6 : S6Stack := { trained := true, badLanes := [], lanesRepaired := 0, unrepaired := false, unreadableSegments := [] }
def sync1 (h : PtpHead) : SyncMsg := { head := h, twoStep := false, offset := 0, sourceTime := 0 }
def announce1 (h : PtpHead) (c : ClockData := clock1) : AnnounceMsg := { head := h, clock := c, seconds := 0 }
def i2c (address offset : Nat) : I2cAccess := { address := address, offset := offset }
def delay1 (h : PtpHead) : DelayMsg := { head := h, peer := false, delay := 0 }
def odd1 (link bundle : Nat) : OddContent := { link := link, bundle := bundle, toB := true, first := 0, again := 0 }

theorem test_wellFormed_terms_are_taken :
    taken [.logRead (hostFrame 0x0B01 1 []), .linkFlitReceived 0 0 true (flit0 packet0 0), .retrainDone 0 0 true [297],
      .housekeepingRound rd, .stageS1SluiceBoot s1, .stageS2FuseRead (s2 true), .stageS3RunnerDiesUp s3, .stageS4WeltTraining s4,
      .stageS5BedstoneTest { badRows := [(3, 255, 9), (4, 3, 9)] }, .stageS6MemoryTraining { perStack := List.replicate 8 stack6 },
      .stageS7CheckerTest { steps := List.replicate 8 (7, 2) }, .stageS8LastCheck { misread := [(447, 0)] },
      .ptpSync (sync1 ptpHead), .ptpFollowUp ptpHead 0 0, .ptpDelayResp (delay1 ptpHead), .ptpAnnounce (announce1 ptpHead),
       .beaconReceived beacon1, .probe forward1, .commit forward1 true,
      .probeAnswer ans, .commitAnswer ans, .copyDestinationCheck page1, .copyPagePiece page1, .contextResetDrained 63,
      .tagsDrained 63 [], .completionSend 255, .completionResendTimer 255, .commandCompletion 255 0, .slicePatrolScrub 0 786431,
      .stackPatrolScrub 0 2097151, .meshProgressWatchdog 0 [(255, 0)], .i2cEepromRead (i2c 0x50 255) 256, .coolantMonitorRead (i2c 0x4C 15) 16,
      .copyAck { context := 63 } 0 0 true true, .arpRequest (7, some tag1) 10, .neighborSolicitation (7, none) 10,
      .testFirmwareLoad imageFields testKey (zeros 96) [1], .portLinkChange true { kind := 2, width := 3 } true true, .idleNotch] = true := by
  decide +kernel

theorem test_wellFormed_refuses_bad_frames :
    refusedAll [.logRead { hostFrame 0x0B01 1 [] with payload := zeros 9217 },
      .logRead { hostFrame 0x0B01 1 [] with path := { encap := .ethernet, vlan := 4096 } },
      .logRead { hostFrame 0x0B01 1 [] with path := { encap := .ethernet, sourcePort := 65536 } },
      .logRead { hostFrame 0x0B01 1 [] with path := { encap := .udp4 65536 false 0 } },
      .logRead { hostFrame 0x0B01 1 [] with path := { encap := .udp6 65536 false 0 } },
      .logRead { hostFrame 0x0B01 1 [] with path := { encap := .ethernet, secured := some { tag1 with an := 4 } } },
      .arpRequest (7, some { tag1 with pn := 2 ^ 32 }) 10, .neighborSolicitation (7, some { tag1 with sci := 2 ^ 64 }) 10] = true := by
  decide +kernel

theorem test_wellFormed_refuses_bad_flits :
    refusedAll [.linkFlitReceived 0 0 true { flit0 packet0 0 with sequence := 1024 },
      .linkFlitReceived 0 0 true { flit0 packet0 0 with ack := 1024 }, .linkFlitReceived 0 0 true { flit0 packet0 0 with kind := 8 },
      .linkFlitReceived 0 0 true { flit0 packet0 0 with creditClass := 3 },
      .linkFlitReceived 0 0 true { flit0 packet0 0 with credits := 128 },
      .linkFlitReceived 0 0 true (flit0 { packet0 with index := 2048 } 0), .linkFlitReceived 0 0 true (flit0 { packet0 with cls := 3 } 0), .retrainDone 0 0 true [3, 298]] = true := by
  decide +kernel

theorem test_wellFormed_refuses_bad_readings :
    refusedAll [.housekeepingRound { rd with spots := List.replicate 92 none },
      .housekeepingRound { rd with domainDraw := List.replicate 81 0 }, .housekeepingRound { rd with parityErrors := [(2 ^ 40, 1)] },
      .housekeepingRound { rd with parityErrors := [(32, 1)] },
      .housekeepingRound { rd with strays := [(0, 32)] }] = true := by
  decide +kernel

theorem test_wellFormed_refuses_bad_stages :
    refusedAll [.stageS1SluiceBoot { s1 with portWidth := 4 }, .stageS2FuseRead { s2 true with badCores := [256] },
      .stageS2FuseRead { s2 true with badLanes := [(256, 0)] }, .stageS2FuseRead { s2 true with badLanes := [(0, 17)] },
      .stageS2FuseRead { s2 true with badRows := [(2, 0, 0)] }, .stageS2FuseRead { s2 true with badRows := [(4, 4, 0)] },
      .stageS2FuseRead { s2 true with badLinkLanes := [(6, 0, 0, 0)] },
      .stageS2FuseRead { s2 true with badLinkLanes := [(0, 16, 0, 0)] },
      .stageS2FuseRead { s2 true with badLinkLanes := [(0, 0, 2, 0)] },
      .stageS2FuseRead { s2 true with badLinkLanes := [(0, 0, 0, 298)] }, .stageS3RunnerDiesUp { s3 with failedCores := [256] },
      .stageS3RunnerDiesUp { s3 with failedLanes := [(0, 17)] }, .stageS3RunnerDiesUp { s3 with absentDie := some 5 },
      .stageS4WeltTraining { s4 with records := [] }, .stageS4WeltTraining { s4 with failedLanes := [(0, 0, 0, 298)] },
      .stageS4WeltTraining { s4 with odd := [odd1 6 0] }, .stageS4WeltTraining { s4 with odd := [odd1 0 16] },
      .stageS5BedstoneTest { badRows := [(3, 256, 0)] }, .stageS5BedstoneTest { badRows := [(3, 0, 2 ^ 32)] },
      .stageS6MemoryTraining { perStack := List.replicate 7 stack6 },
      .stageS6MemoryTraining { perStack := List.replicate 8 { stack6 with lanesRepaired := 256 } },
      .stageS6MemoryTraining { perStack := List.replicate 8 { stack6 with unreadableSegments := [128] } },
      .stageS7CheckerTest { steps := List.replicate 7 (0, 0) }, .stageS7CheckerTest { steps := List.replicate 8 (8, 0) },
      .stageS7CheckerTest { steps := List.replicate 8 (0, 3) },
      .stageS8LastCheck { misread := [(448, 0)] }] = true := by
  decide +kernel

theorem test_wellFormed_refuses_bad_messages :
    refusedAll [.ptpSync (sync1 { ptpHead with domain := 256 }), .ptpSync (sync1 { ptpHead with sequence := 65536 }),
      .ptpAnnounce (announce1 { ptpHead with transport := 3 }),
      .ptpAnnounce (announce1 ptpHead { clock1 with priority1 := 256 }), .ptpAnnounce (announce1 ptpHead { clock1 with clockClass := 256 }),
      .ptpAnnounce (announce1 ptpHead { clock1 with accuracy := 256 }), .ptpAnnounce (announce1 ptpHead { clock1 with variance := 65536 }),
      .ptpAnnounce (announce1 ptpHead { clock1 with priority2 := 256 }),
      .ptpAnnounce (announce1 ptpHead { clock1 with grandmaster := 2 ^ 64 }), .ptpAnnounce (announce1 ptpHead { clock1 with steps := 65536 }), .ptpFollowUp { ptpHead with source := [] } 0 0,
      .ptpDelayResp (delay1 { ptpHead with domain := 256 }), .beaconReceived { beacon1 with serial := [] },
      .beaconReceived { beacon1 with address := 65536 }, .probe { forward1 with headSerial := [] },
      .probe { forward1 with context := 64 }, .commit { forward1 with headSerial := [] } true,
      .commit { forward1 with context := 64 } true, .probeAnswer { ans with status := 65536 },
      .commitAnswer { ans with status := 65536 }, .copyDestinationCheck { page1 with sourceSerial := [] },
      .copyDestinationCheck { page1 with data := zeros 8705 }, .copyPagePiece { page1 with sourceSerial := [] },
      .copyPagePiece { page1 with data := zeros 8705 }, .copyAck { opcode := 0x0F00, context := 0 } 0 0 true true,
      .copyAck { context := 64 } 0 0 true true, .testFirmwareLoad imageFields [] (zeros 96) [1],
      .testFirmwareLoad [] testKey (zeros 96) [1], .testFirmwareLoad imageFields testKey [] [1]] = true := by
  decide +kernel

theorem test_wellFormed_refuses_bad_numbers :
    refusedAll [.contextResetDrained 64, .tagsDrained 64 [], .completionSend 64, .completionSend 256, .completionResendTimer 254,
      .commandCompletion 64 0, .slicePatrolScrub 0 786432, .stackPatrolScrub 0 2097152, .meshProgressWatchdog 0 [(256, 0)],
      .i2cEepromRead (i2c 128 0) 1, .i2cEepromRead (i2c 0x50 256) 1, .i2cEepromRead (i2c 0x50 0) 257,
      .coolantMonitorRead (i2c 128 0) 1, .coolantMonitorRead (i2c 0x4C 16) 1, .coolantMonitorRead (i2c 0x4C 0) 17,
      .portLinkChange true { kind := 3 } true true, .portLinkChange true { kind := 0, width := 4 } true true] = true := by
  decide +kernel

/-- No word spells a command: the table gives its rows no bits. -/
theorem test_no_word_spells_a_command : ∀ nbits w, decodeTableWord nbits w = none := fun _ _ => rfl

end Sys2Proof.Tests
end

section
/-! PROOFS. TIME.SET (R42): how a numbered command is answered whose parameters are ill-formed, and what TIME.SET does with the
wheel. -/

namespace Sys2Proof.Machine

variable {s u : State} {f : Frame} {op : Nat} {r : Reply}

/-! ## The form of a payload (R309 step 6) -/

/-- Of one run of reserved bytes, the first that is not zero is named. -/
theorem Form.badReserved_first {m : Form} {p : List Byte} {a n o : Nat} (hm : m.reserved = [(a, n)]) (ha : a ≤ o) (ho : o < a + n)
    (hz : byteAt p o ≠ 0) (hb : ∀ k, a ≤ k → k < o → byteAt p k = 0) : m.badReserved p = some o := by
  obtain ⟨i, rfl⟩ := Nat.exists_eq_add_of_le ha
  have hi : (List.range n).find? ((fun o => byteAt p o != 0) ∘ (a + ·)) = some i := by
    rw [List.find?_range_eq_some]
    refine ⟨by simpa using hz, List.mem_range.mpr (by omega), fun j hj => ?_⟩
    simpa using hb (a + j) (by omega) (by omega)
  unfold Form.badReserved
  simp only [hm, List.flatMap_cons, List.flatMap_nil, List.append_nil, List.find?_map, hi, Option.map_some]

/-- A payload of the right length is refused for its first reserved byte that is not zero. -/
theorem formCheck_reserved {p : List Byte} {o : Nat} (hl : (formOf op).expected p = some p.length)
    (hb : (formOf op).badReserved p = some o) : formCheck op p = some (refuse Status.format o) := by
  unfold formCheck
  simp [hl, hb, when, firstFailing]

/-! ## Numbered commands (R309 steps 3 to 6, R316) -/

theorem Numbered.not_unnumbered (h : Numbered op f s) : unnumbered f = false := by
  unfold unnumbered
  rw [beq_eq_false_iff_ne.mpr h.inSession]
  rfl

theorem Numbered.isOpen (h : Numbered op f s) : (s.session f.session.toNat).isOpen = true := by
  have hs := h.sound
  simp only [State.badFrame, h.not_unnumbered, Bool.or_eq_false_iff, Bool.not_false, Bool.true_and, Bool.not_eq_false'] at hs
  obtain ⟨⟨-, ⟨-, ho⟩, -⟩, -⟩ := hs
  exact ho

theorem State.noted_session_self (hs : swf {} s.sessions = true) : (s.noted f).session f.session.toNat =
    { s.session f.session.toNat with
      lastFrame := s.uptime, path := f.path, next := f.number.toNat + 1,
      kept := trimKept ((s.session f.session.toNat).kept ++
        [{ number := f.number.toNat, matchCode := matchCode f, reply := none }]) } := by
  unfold State.noted
  rw [State.session_modSession_self (by exact swf_sput hs), State.session_modSession_self hs]

/-- The port hands a numbered command on to the checks of R309, whether they let it pass or not. -/
theorem Numbered.received {s0 : State} (h : Numbered op f s) (h0 : s0.letIn f.path.secured = (s, true)) (hq : op ≠ 0x0101) :
    s0.receiveAs op f = ((s.noted f).answer f.session.toNat f.number.toNat op
      (act f f.session.toNat ((s.noted f).session f.session.toNat) (s.noted f))).takeHeld f.session.toNat 64 := by
  have hk : ¬f.kind = 5 := by rw [h.kind]; decide
  have hrow : ¬(f.kind = 5 ∨ (f.opcode.toNat ≠ op ∧ (catalogue.contains f.opcode.toNat : Bool))) := by
    rintro (e | ⟨e, -⟩)
    · exact hk e
    · exact e h.opcode
  have hello : ¬(f.opcode = 0x0101 ∧ f.kind = 0 ∧ (!s.helloAllowed) = true) :=
    fun e => hq (h.opcode ▸ congrArg BitVec.toNat e.1)
  have hn : f.number.toNat = ((s.modSession f.session.toNat fun x =>
      { x with lastFrame := s.uptime, path := f.path }).session f.session.toNat).next := by
    rw [State.session_modSession_self h.canonical.sessions]; exact h.number
  unfold State.receiveAs
  rw [if_neg hrow, h.toArrives.receive h0]
  unfold State.receiveFrame
  simp only [h.sound, h.not_unnumbered, if_neg hello, if_neg hk, Bool.false_eq_true, if_false]
  unfold State.number
  simp only [if_pos hn]
  unfold State.takeFrame
  simp only [h.opcode]
  rfl

/-- A catalogued command that passes the steps 3 to 5 of R309 and fails step 6 is refused as that step says, and does nothing. -/
theorem Numbered.act_illFormed (h : Numbered op f s) (hc : catalogue.contains op = true) (hq : op ≠ 0x0101)
    (hp : privilegeCheck op f (s.session f.session.toNat) = none)
    (hg : generationCheck f (s.session f.session.toNat) s = none) (hf : formCheck op f.payload = some r) :
    act f f.session.toNat ((s.noted f).session f.session.toNat) (s.noted f) = .reply r (s.noted f) := by
  have hp' : privilegeCheck op f ((s.noted f).session f.session.toNat) = none := by
    rw [State.noted_session_self h.canonical.sessions]; exact hp
  have hg' : generationCheck f ((s.noted f).session f.session.toNat) (s.noted f) = none := by
    rw [State.noted_session_self h.canonical.sessions]; exact hg
  unfold act
  simp only [h.opcode, hc, if_neg hq, hp', hg', hf, checked, firstFailing]
  rfl

/-- A reply to a session changes what went out and the sessions alone. -/
theorem State.answered_frame {sid n : Nat} {l : List (Nat × Session)} (hu : u = { s with sessions := l }) :
    u.answered sid n op r =
      { s with out := (u.answered sid n op r).out, sessions := (u.answered sid n op r).sessions } := by
  subst hu
  rfl

/-- A numbered command that changes nothing and is answered at once: its reply goes out and is kept. -/
theorem Numbered.replied {i : Instr} (h : Numbered op f s) (hi : ∀ s0 : State, exec i s0 = .next (s0.receiveAs op f))
    (hq : op ≠ 0x0101) (hr : Prompt op r)
    (ha : act f f.session.toNat ((s.noted f).session f.session.toNat) (s.noted f) = .reply r (s.noted f)) :
    ∃ t, Serves i f r s t ∧ t = { s with out := t.out, sessions := t.sessions } := by
  have hs := h.canonical.sessions
  have hn : swf {} (s.noted f).sessions = true := swf_sput (swf_sput hs)
  have hx := State.noted_session_self (f := f) hs
  have hp := h.toArrives.open_
  have hf (o : OutFrame) (ho : o.session = f.session.toNat) : (s.noted f).formed o = s.formed o :=
    State.formed_congr (by rw [ho, hx])
  refine ⟨(s.noted f).answered f.session.toNat f.number.toNat op r, ⟨fun s0 h0 => ?_, ?_, ?_, fun j hj => ?_⟩,
    State.answered_frame (l := (s.noted f).sessions) rfl⟩
  · have e := State.answer_reply (sid := f.session.toNat) (n := f.number.toNat) (a := s.noted f) hr hn
      ⟨⟨hp.up, hp.clear⟩, hp.injections⟩ (by rw [hx]; exact h.isOpen) (by rw [hx]; exact h.stays) (by rw [hx]; exact h.held)
    rw [hi, h.received h0 hq, ha, e]
  · unfold Replied State.answered State.replyTo State.boundTo
    dsimp only
    rw [hf _ rfl, hx, h.opcode]
    rfl
  · rw [State.answered_session_self hn, hx]
  · rw [State.answered_session_other hn hj, State.noted_session_other hs hj]

/-! ## TIME.SET (R42) -/

@[simp] theorem State.placeWheel_wheel {n : Nat} {x : BitVec 32} :
    (s.placeWheel n x).wheel = { s.wheel with position := n % 2 ^ 64, fraction := x } := rfl

theorem State.placeWheel_frame {n : Nat} {x : BitVec 32} : s.placeWheel n x =
    { s with wheel := (s.placeWheel n x).wheel, contexts := (s.placeWheel n x).contexts, power := (s.placeWheel n x).power } := rfl

/-- The wheel placed at `n` in FREE, with no source and no bound: the effect of TIME.SET. -/
def State.setFreeAt (s : State) (n : Nat) : State :=
  (s.modWheel fun w => { w with state := .free, source := 0, bounded := false }).placeWheel n 0

theorem State.setFreeAt_wheel {n : Nat} (hn : n < 2 ^ 64) : (s.setFreeAt n).wheel =
    { s.wheel with state := .free, source := 0, bounded := false, position := n, fraction := 0 } := by
  unfold State.setFreeAt
  rw [State.placeWheel_wheel, State.modWheel_wheel, Nat.mod_eq_of_lt hn]

theorem State.setFreeAt_frame {n : Nat} : s.setFreeAt n =
    { s with wheel := (s.setFreeAt n).wheel, contexts := (s.setFreeAt n).contexts, power := (s.setFreeAt n).power } :=
  State.placeWheel_frame

theorem bodyTimeSet_top (hn : le f.payload 0 8 = 18446744073709551615) :
    bodyTimeSet f u = .reply (refuse Status.format 0) u := by
  unfold bodyTimeSet
  simp [hn, when, checked, firstFailing]

section
variable (hn : le f.payload 0 8 < 18446744073709551615) (ho : f.opcode.toNat = 0x0D01)
  (hl : legal 0x0D01 f.context.toNat u = none)
include hn ho hl

/-- Below the top position, and where the device's state allows the command, the wheel's state decides. -/
theorem bodyTimeSet_below : bodyTimeSet f u =
    if u.wheel.state = .unset then .reply {} (u.setFreeAt (le f.payload 0 8))
    else .reply (refuseState 2 0 u.wheel.state.code 1) u := by
  unfold bodyTimeSet
  dsimp only
  rw [checked_when (by simpa using Nat.ne_of_lt hn), ho, checked_none hl]
  by_cases hw : u.wheel.state = .unset
  · rw [if_pos hw, checked_when (by simp [hw]), checked_nil]
    rfl
  · simp [hw, when, checked, firstFailing]

theorem bodyTimeSet_unset (hw : u.wheel.state = .unset) :
    bodyTimeSet f u = .reply {} (u.setFreeAt (le f.payload 0 8)) := by
  rw [bodyTimeSet_below hn ho hl, if_pos hw]

theorem bodyTimeSet_not_unset (hw : u.wheel.state ≠ .unset) :
    bodyTimeSet f u = .reply (refuseState 2 0 u.wheel.state.code 1) u := by
  rw [bodyTimeSet_below hn ho hl, if_neg hw]

end

/-- What TIME.SET does is the outcome of its body. -/
theorem Acts.handles_timeSet {c : Nat} (h : Acts 0x0D01 f s u c) : Handles (.timeSet f) f s (bodyTimeSet f u) :=
  h.handles (by decide) (by decide) (fun _ => rfl) (h.middle (by decide) (by decide))

theorem formCheck_timeSet_reserved {p : List Byte} {o : Nat} (hl : p.length = 16) (h8 : 8 ≤ o) (h16 : o < 16)
    (hz : byteAt p o ≠ 0) (hb : ∀ k, 8 ≤ k → k < o → byteAt p k = 0) :
    formCheck 0x0D01 p = some (refuse Status.format o) :=
  formCheck_reserved (by simp [Form.expected, formOf, hl]) (Form.badReserved_first rfl h8 h16 hz hb)

/-- Settles O26: the body's branches, by the position and the wheel's state, and the form check of the reserved bytes. -/
theorem timeCommandsSetTheWheel : Obligations.TimeCommandsSetTheWheel := by
  unfold Obligations.TimeCommandsSetTheWheel
  refine ⟨?placed, ?notUnset, ?top, ?reserved⟩
  case placed =>
    rintro f s u c n ha rfl hn hl hw
    have hv := State.setFreeAt_wheel (s := u) (n := le f.payload 0 8) (by omega)
    refine ⟨u.setFreeAt _, ?_, congrArg Wheel.state hv, congrArg Wheel.position hv, State.setFreeAt_frame⟩
    rw [← bodyTimeSet_unset hn ha.delivered.opcode hl hw]
    exact ha.handles_timeSet
  case notUnset =>
    intro f s u c ha hn hl hw
    rw [← bodyTimeSet_not_unset hn ha.delivered.opcode hl hw]
    exact ha.handles_timeSet
  case top =>
    intro f s u c ha hn
    rw [← bodyTimeSet_top hn]
    exact ha.handles_timeSet
  case reserved =>
    intro f s o h hp hg hl h8 h16 hz hb
    have hf := formCheck_timeSet_reserved hl h8 h16 hz hb
    exact h.replied (fun _ => rfl) (by decide) ⟨by simp [refuse, Status.format, Status.done], by decide⟩
      (h.act_illFormed (by decide) (by decide) hp hg hf)

end Sys2Proof.Machine
end

section
/-! PROOFS. Growth of a slot (R252): the page that the pool gives, what its mapping changes, and the order of groups and lanes. -/

namespace Sys2Proof.Machine

variable {s t : State} {a : SeqArea} {c j i p q : Nat}

/-! ## A page and a context read after a write -/

theorem State.page_setPage_self {v : Page} (h : swf {} s.pages = true) : (s.setPage p v).page p = v := sget_sput_self h

theorem State.page_setPage_other {v : Page} (h : swf {} s.pages = true) (hq : q ≠ p) : (s.setPage p v).page q = s.page q :=
  sget_sput_other h hq

theorem State.page_mapPage_self {use slot : Nat} {shared : Bool} (h : swf {} s.pages = true) :
    (s.mapPage p c use slot i shared).page p = { s.page p with
      mapped := true, shared := shared, context := c, use := use, slot := slot, index := i,
      mapCount := ((s.page p).mapCount + 1) % 256 } := State.page_setPage_self h

theorem State.page_mapPage_other {use slot : Nat} {shared : Bool} (h : swf {} s.pages = true) (hq : q ≠ p) :
    (s.mapPage p c use slot i shared).page q = s.page q := State.page_setPage_other h hq

theorem State.context_modContext_self {f : Context → Context} (h : swf {} s.contexts = true) :
    (s.modContext c f).context c = f (s.context c) := sget_sput_self h

theorem State.context_modContext_other {d : Nat} {f : Context → Context} (h : swf {} s.contexts = true) (hd : d ≠ c) :
    (s.modContext c f).context d = s.context d := sget_sput_other h hd

/-- A list entry holds the page last written to it, whatever the list was. -/
theorem SeqSlot.entry_put {r : SeqSlot} : ({ r with list := sput 0 r.list i (p + 1) } : SeqSlot).entry i = p := by
  have h : sget 0 (sput 0 r.list i (p + 1)) i = p + 1 := by
    unfold sput
    rw [if_neg (Nat.succ_ne_zero p), sget_sins, if_pos rfl]
  unfold SeqSlot.entry
  rw [h]

/-! ## The page that the pool gives -/

/-- A FREE page of the pool segments: the pool of R252. -/
def State.PoolFree (s : State) (a : SeqArea) (q : Nat) : Prop :=
  16384 * a.poolFirst ≤ q ∧ q < 16384 * (a.poolFirst + a.poolCount) ∧ (s.page q).mapped = false ∧ s.pageBarred q = false

/-- The lowest page of the pool with a property. -/
def State.poolFind (s : State) (a : SeqArea) (ok : Nat → Bool) : Option Nat :=
  (List.range' (16384 * a.poolFirst) (16384 * a.poolCount)).find? fun q => !(s.page q).mapped && !s.pageBarred q && ok q

theorem State.poolFind_some {ok : Nat → Bool} (h : s.poolFind a ok = some p) :
    s.PoolFree a p ∧ ok p = true ∧ ∀ q, q < p → s.PoolFree a q → ok q = false := by
  obtain ⟨hp, hm, hl⟩ := List.find?_range'_eq_some.mp h
  rw [List.mem_range'_1, ← Nat.mul_add] at hm
  simp only [Bool.and_eq_true, Bool.not_eq_true'] at hp
  obtain ⟨hlow, hhigh⟩ := hm
  obtain ⟨⟨hfree, hbar⟩, hok⟩ := hp
  refine ⟨⟨hlow, hhigh, hfree, hbar⟩, hok, fun q hq ⟨hq0, _, hf, hb⟩ => ?_⟩
  simpa [hf, hb] using hl q hq0 hq

theorem State.poolFind_none {ok : Nat → Bool} (h : s.poolFind a ok = none) (hq : s.PoolFree a q) : ok q = false := by
  obtain ⟨hlow, hhigh, hf, hb⟩ := hq
  simpa [hf, hb] using List.find?_range'_eq_none.mp h q hlow (by omega)

/-- The pool is searched for a page of another bank field first, then for any page. -/
theorem State.poolPage_eq {banks : List Nat} : s.poolPage a banks =
    (s.poolFind a fun q => !banks.contains (q % 64)).or (s.poolFind a fun _ => true) := by
  unfold State.poolPage State.poolFind
  simp only [Bool.and_true]
  cases List.find? _ _ <;> rfl

theorem State.poolPage_some {banks : List Nat} (h : s.poolPage a banks = some p) :
    s.PoolFree a p ∧ ((p % 64 ∉ banks ∧ ∀ q, q < p → s.PoolFree a q → q % 64 ∈ banks) ∨
      ((∀ q, s.PoolFree a q → q % 64 ∈ banks) ∧ ∀ q, q < p → ¬ s.PoolFree a q)) := by
  rw [State.poolPage_eq, Option.or_eq_some_iff] at h
  rcases h with h | ⟨hn, h⟩
  · obtain ⟨hp, hok, hl⟩ := State.poolFind_some h
    exact ⟨hp, .inl ⟨by simpa using hok, fun q hq hf => by simpa using hl q hq hf⟩⟩
  · obtain ⟨hp, -, hl⟩ := State.poolFind_some h
    exact ⟨hp, .inr ⟨fun q hf => by simpa using State.poolFind_none hn hf, fun q hq hf => nomatch hl q hq hf⟩⟩

theorem State.poolPage_none {banks : List Nat} (h : s.poolPage a banks = none) : ¬ s.PoolFree a q := fun hq => by
  rw [State.poolPage_eq, Option.or_eq_none_iff] at h
  exact nomatch State.poolFind_none h.2 hq

/-! ## The page of one group in one lane -/

/-- The bank fields of a lane's last three groups before `g`, the lane's entries starting at `base`. -/
def SeqSlot.lastBanks (r : SeqSlot) (base g : Nat) : List Nat :=
  ((List.range g).filter (g - 3 ≤ ·)).map fun h => r.entry (base + h) % 64

theorem SeqSlot.mem_lastBanks {r : SeqSlot} {base g b : Nat} :
    b ∈ r.lastBanks base g ↔ ∃ h, h < g ∧ g ≤ h + 3 ∧ r.entry (base + h) % 64 = b := by
  simp [SeqSlot.lastBanks, and_assoc]

/-- A page whose bank field is none of the last three keeps apart from each of those groups. -/
theorem SeqSlot.not_mem_lastBanks {r : SeqSlot} {base g b : Nat} :
    b ∉ r.lastBanks base g ↔ ∀ h, h < g → g ≤ h + 3 → r.entry (base + h) % 64 ≠ b := by
  simp [SeqSlot.mem_lastBanks]

/-- Page `p` mapped for entry `i` of a slot, and listed there. -/
def State.takePage (s : State) (c j i p : Nat) : State :=
  (s.mapPage p c 1 j i false).modContext c fun x =>
    { x with seqs := sput {} x.seqs j { s.seq c j with list := sput 0 (s.seq c j).list i (p + 1) } }

theorem State.growLane_eq {g lane : Nat} : s.growLane c j a g lane =
    (s.poolPage a ((s.seq c j).lastBanks (lane * (a.stride / (s.seq c j).lanes)) g)).map
      (s.takePage c j (lane * (a.stride / (s.seq c j).lanes) + g)) := by
  unfold State.growLane SeqSlot.lastBanks
  dsimp only
  split
  next h => rw [h, Option.map_none]
  next h => rw [h, Option.map_some, State.takePage]

theorem State.takePage_page_self (h : s.Canonical) : (s.takePage c j i p).page p = { s.page p with
    mapped := true, shared := false, context := c, use := 1, slot := j, index := i,
    mapCount := ((s.page p).mapCount + 1) % 256 } := State.page_mapPage_self h.pages

theorem State.takePage_page_other (h : s.Canonical) (hq : q ≠ p) : (s.takePage c j i p).page q = s.page q :=
  State.page_mapPage_other h.pages hq

theorem State.takePage_context_other {d : Nat} (h : s.Canonical) (hd : d ≠ c) :
    (s.takePage c j i p).context d = s.context d :=
  State.context_modContext_other (s := s.mapPage p c 1 j i false) h.contexts.1 hd

theorem State.takePage_seq_self (h : s.Canonical) : (s.takePage c j i p).seq c j =
    { s.seq c j with list := sput 0 (s.seq c j).list i (p + 1) } := by
  have hc : (s.context c).Canonical := h.contexts.sget Context.canonical_default
  unfold State.seq State.takePage
  rw [State.context_modContext_self (s := s.mapPage p c 1 j i false) h.contexts.1]
  exact sget_sput_self hc

theorem State.takePage_frame : s.takePage c j i p =
    { s with pages := (s.takePage c j i p).pages, contexts := (s.takePage c j i p).contexts } := rfl

/-! ## Lane after lane -/

/-- Where a context has an area, `n` more groups are filled in order, and in each the lanes in order. -/
theorem State.grow_add {n : Nat} (h : (s.context c).area = some a) : s.grow c j ((s.seq c j).groups + n) =
    (((List.range' (s.seq c j).groups n).flatMap fun g => (List.range (s.seq c j).lanes).map fun lane => (g, lane)).foldl
      (fun (o : Option State) e => o.bind fun x => x.growLane c j a e.1 e.2) (some s)).map fun x =>
        x.modSeq c j fun r => { r with groups := max r.groups ((s.seq c j).groups + n) } := by
  unfold State.grow
  rw [h]
  dsimp only
  rw [Nat.add_sub_cancel_left]

/-- Settles O16: the pool's search gives the page, and the mapping of that page is all that growth in a lane changes. -/
theorem growthTakesAFreePage : Obligations.GrowthTakesAFreePage := by
  unfold Obligations.GrowthTakesAFreePage
  refine ⟨?taken, ?short, fun s c j n a => State.grow_add⟩
  case taken =>
    intro s t c j g lane a hs ht free apart
    rw [State.growLane_eq, Option.map_eq_some_iff] at ht
    obtain ⟨p, hp, rfl⟩ := ht
    obtain ⟨⟨hlow, hhigh, hfree, hbar⟩, hbest⟩ := State.poolPage_some hp
    have hno (q : Nat) (h : q % 64 ∈ (s.seq c j).lastBanks (lane * (a.stride / (s.seq c j).lanes)) g) : ¬ apart q :=
      fun ha => SeqSlot.not_mem_lastBanks.mpr ha h
    refine ⟨p, ?_, hfree, hbar, hlow, hhigh, State.takePage_page_self hs, fun q => State.takePage_page_other hs,
      fun d => State.takePage_context_other hs, ?_, State.takePage_frame⟩
    · rcases hbest with ⟨hap, hl⟩ | ⟨hall, hl⟩
      · exact .inl ⟨SeqSlot.not_mem_lastBanks.mp hap, fun q hq hf => hno q (hl q hq hf)⟩
      · exact .inr ⟨fun q hf => hno q (hall q hf), hl⟩
    · rw [State.takePage_seq_self hs]
      exact SeqSlot.entry_put
  case short =>
    intro s c j g lane a h q hlow hhigh
    rw [State.growLane_eq, Option.map_eq_none_iff] at h
    by_contra hn
    rw [not_or, Bool.not_eq_true, Bool.not_eq_true] at hn
    exact State.poolPage_none h ⟨hlow, hhigh, hn⟩

end Sys2Proof.Machine
end

section
/-! PROOFS. The block itself: every command answers a next state (R335 to R338), and every step keeps the state canonical. -/

namespace Sys2Proof.Machine

variable {s t : State}

/-! ## Outcomes -/

/-- The outcome is a next state. -/
def Answers (o : Out) : Prop := ∃ t, o = .next t

theorem Answers.next : Answers (.next t) := ⟨t, rfl⟩

theorem Answers.event {b : Bool} : Answers (event b s t) := .next

theorem Answers.ite {p : Prop} [Decidable p] {a b : Out} (ha : Answers a) (hb : Answers b) : Answers (if p then a else b) := by
  split
  · exact ha
  · exact hb

theorem State.through_answers {x : Option SecTag} {go : State → Out} (h : ∀ u, Answers (go u)) : Answers (s.through x go) :=
  .ite (h _) .next

/-- An instruction of a core answers, whether the core decodes, traps or waits. -/
theorem State.decode_answers {own cls op : Nat} {b : Bool} {run : CoreWord → State → State} :
    Answers (s.decode own cls op b run) := by
  unfold State.decode
  refine .ite .next ?_
  split
  · exact .next
  · split
    · exact .next
    · exact .ite .next (.ite .next (.ite .next (.ite .next .next)))

/-- Every command answers a next state: most by their definition, the rest whatever their operands and the state hold. -/
theorem exec_answers (i : Instr) : Answers (exec i s) := by
  cases i <;> try exact .next
  all_goals simp only [exec, execCompletionResendTimer, execJournalWriteAck, execCommandCompletion, execActionWindowEnd,
    execActionEnd, execCommandStop, execCommandTimeout, execPromiseSuspend, execProgramBlockLoad, execNop, execJump, execLoop,
    execWaitn, execWaitnRelease, execFence, execFenceRelease, execHalt, execMode, execLoadstat, execPass, execOspass, execDrain,
    execElem, execVld, execVst, execVfma, execVadd, execVmul, execVmax, execVmin, execVsfu, execVcvt, execVred, execSput, execSwait,
    execSwaitRelease, execSsig, execSidle, execSidleRelease, execTranslationGroup, execPieceComplete, execDescriptorComplete,
    execBarrierWaitRelease, execQuernDescriptorDequeue, execQuernChunkEnd, execQuernDescriptorEnd, execHopperRowSample,
    execResultFrameHandoff, execMemSplitDone, execRoundDecisionsEffect, execPauseEnd, execDieResetDone, execContextResetDrained,
    execLinkFlitReceived, execRetrainDone, execPtpSync, execPtpFollowUp, execPtpAnnounce, execPtpDelayResp, execPpsEdge,
    execArpRequest, execNeighborSolicitation, execBeaconReceived, execRouteEntryExpiry, execProbe, execProbeAnswer, execCommit,
    execCommitAnswer, execCommitResend, execCopyDestinationCheck, execCopyPagePiece, execCopyAck, execInjectReorderRelease,
    execMemTransferDone, execCoreGroupResetDone, execSsigRelease, execCopyPageResend]
  all_goals repeat' first
    | exact .next
    | exact .event
    | exact State.decode_answers
    | apply State.through_answers
    | apply Answers.ite
    | intro _
    | split


/-! ## Steps -/

theorem step_cons {i : Instr} {l : List Instr} (h : s.pending = i :: l) : step s = exec i { s with pending := l } := by
  unfold step
  rw [h]

theorem step_nil (h : s.pending = []) : step s = .next s.passNotch := by
  unfold step
  rw [h]

/-- The canonical form says nothing of the queue. -/
theorem State.Canonical.with_pending {l : List Instr} (h : s.Canonical) : ({ s with pending := l } : State).Canonical :=
  { h with }

/-- Settles O1, by the definition of a step. -/
theorem stepRunsTheFrontCommand : Obligations.StepRunsTheFrontCommand := by
  unfold Obligations.StepRunsTheFrontCommand
  exact fun i rest s => step_cons rfl

/-- Settles O3: the outcomes of the commands, and the queue as `exec_kept` has it. -/
theorem everyCommandAnswersANextState : Obligations.EveryCommandAnswersANextState := by
  unfold Obligations.EveryCommandAnswersANextState
  exact ⟨fun i s => exec_answers i, fun i s t h e => (exec_kept ⟨rfl, h⟩ t e).1⟩

/-- Settles O4: a step passes a notch or runs the command at the front, and both keep the canonical form. -/
theorem everyStepKeepsTheStateCanonical : Obligations.EveryStepKeepsTheStateCanonical := by
  unfold Obligations.EveryStepKeepsTheStateCanonical
  intro s t hs ht
  cases hp : s.pending with
  | nil =>
    rw [step_nil hp] at ht
    cases ht
    exact (State.passNotch_kept ⟨rfl, hs⟩).2
  | cons i l =>
    rw [step_cons hp] at ht
    exact (exec_kept ⟨rfl, hs.with_pending⟩ t ht).2

/-- Settles O5, by the rule for the reset state. -/
theorem resetIsCanonical : Obligations.ResetIsCanonical := by
  unfold Obligations.ResetIsCanonical
  exact reset_kept.2

/-- Settles O6: every field of the state after reset is the one its family resets to. -/
theorem resetBeginsAColdStart : Obligations.ResetBeginsAColdStart := by
  unfold Obligations.ResetBeginsAColdStart
  refine ⟨rfl, rfl, rfl, rfl, fun c => ?free, rfl, rfl, fun r => ?trouble, rfl, step_nil rfl⟩
  case free => rfl
  case trouble => cases r <;> rfl

end Sys2Proof.Machine
end

section
/-! PROOFS. Commands of a session: what a delivered command answers, at once or once the journal holds its effect (R309, R313). -/

namespace Sys2Proof.Machine

variable {s t u : State} {f : Frame} {op : Nat} {r : Reply} {i : Instr}

/-! ## Checks -/

theorem checked_go {l : List (Option Reply)} {go : Handled} (h : firstFailing l = none) : checked l s go = go := by
  unfold checked
  rw [h]

theorem checked_refused {l : List (Option Reply)} {go : Handled} (h : firstFailing l = some r) : checked l s go = .reply r s := by
  unfold checked
  rw [h]

theorem firstFailing_eq_none {l : List (Option Reply)} : firstFailing l = none ↔ ∀ o ∈ l, o = none := by
  induction l with
  | nil => simp [firstFailing]
  | cons o l ih => cases o <;> simp [firstFailing, ih]

theorem when_eq_none {b : Bool} : when b r = none ↔ b = false := by
  cases b <;> simp [when]

/-! ## The body of a command, by its group -/

section
variable {sid : Nat} {x : Session} (ho : f.opcode.toNat = op)
include ho

theorem body_low (h : op < 0x0600) : body f sid x u = bodyLow op f x.context sid u := by
  unfold body
  simp only [ho, if_pos h]

theorem body_middle (h : ¬op < 0x0600) (h1 : op < 0x0E00) : body f sid x u = bodyMiddle op f x.context x u := by
  unfold body
  simp only [ho, if_neg h, if_pos h1]

theorem body_fabric (h : ¬op < 0x0600) (h1 : ¬op < 0x0E00) (h2 : op < 0x1000) :
    body f sid x u = bodyFabric op f x.context x u := by
  unfold body
  simp only [ho, if_neg h, if_neg h1, if_pos h2]

theorem body_high (h : ¬op < 0x0600) (h1 : ¬op < 0x0E00) (h2 : ¬op < 0x1000) : body f sid x u = bodyHigh op f u := by
  unfold body
  simp only [ho, if_neg h, if_neg h1, if_neg h2]

end

/-! ## The sessions once a frame is noted -/

/-- `l` is the sessions after the frame has been noted: its own session waits for the next number, the others stay. -/
structure NotedIn (f : Frame) (s : State) (l : Sparse Session) : Prop where
  canonical : swf {} l = true
  own : sget {} l f.session.toNat = { s.session f.session.toNat with
    lastFrame := s.uptime, path := f.path, next := f.number.toNat + 1,
    kept := trimKept ((s.session f.session.toNat).kept ++
      [{ number := f.number.toNat, matchCode := matchCode f, reply := none }]) }
  other : ∀ j, j ≠ f.session.toNat → sget {} l j = s.session j

theorem Delivered.notedIn (h : Delivered op f s) : NotedIn f s (s.noted f).sessions :=
  ⟨swf_sput (swf_sput h.canonical.sessions), h.noted_session, fun _ hj => State.noted_session_other h.canonical.sessions hj⟩

/-- Nothing that the answer of a command reads or writes differs between two states. -/
structure Silent (u v : State) : Prop where
  sessions : v.sessions = u.sessions
  journal : v.journal = u.journal
  uptime : v.uptime = u.uptime
  out : v.out = u.out

/-- And a frame sent leaves either as it is. -/
structure Plainly (u v : State) : Prop extends Silent u v where
  injections : v.injections = u.injections
  portUp : v.dev.portUp = u.dev.portUp
  transmits : v.sec.transmits = u.sec.transmits

/-- No opcode whose effect the journal holds is SESSION.HELLO's. -/
theorem journalsEffect_hello (h : journalsEffect op = true) : op ≠ 0x0101 := by
  rintro rfl
  exact absurd h (by decide)

/-- A command with an immediate effect: the effect stands, and the reply waits for the journal. -/
theorem Delivered.effect {v : Sparse Session → State} (h : Delivered op f s)
    (hi : ∀ s0 : State, exec i s0 = .next (s0.receiveAs op f)) (hc : catalogue.contains op = true) (hj : journalsEffect op = true)
    (hr : r.status = Status.done ∧ r.zero = false)
    (hb : ∀ l, NotedIn f s l → body f f.session.toNat (sget {} l f.session.toNat) { s with sessions := l } = .reply r (v l))
    (hv : ∀ l, Silent { s with sessions := l } (v l)) :
    ∃ l, NotedIn f s l ∧ Effects i f r s { v l with
      journal := s.journal.awaits s.uptime f.session.toNat f.number.toNat f.opcode.toNat r } := by
  obtain ⟨hs, hl, hn, ho⟩ := hv (s.noted f).sessions
  obtain ⟨t, hrun, hout, hjour, hone, ht⟩ := h.effects hc hr.1 hr.2 hj (hb _ h.notedIn) hs hl hn ho (journalsEffect_hello hj)
  rw [hjour] at ht
  subst ht
  exact ⟨_, h.notedIn, fun s0 h0 => (hi s0).trans (congrArg _ (hrun s0 h0)), hout, rfl, hone⟩

/-- A command that is answered at once: its reply goes out. -/
theorem Delivered.serves {v : Sparse Session → State} (h : Delivered op f s)
    (hi : ∀ s0 : State, exec i s0 = .next (s0.receiveAs op f)) (hc : catalogue.contains op = true) (hq : op ≠ 0x0101)
    (hp : Prompt op r)
    (hb : ∀ l, NotedIn f s l → body f f.session.toNat (sget {} l f.session.toNat) { s with sessions := l } = .reply r (v l))
    (hv : ∀ l, Plainly { s with sessions := l } (v l)) :
    ∃ l t, NotedIn f s l ∧ Serves i f r s t ∧ t = { v l with out := t.out, sessions := t.sessions } := by
  obtain ⟨⟨hs, -, -, ho⟩, hx, hd, hm⟩ := hv (s.noted f).sessions
  obtain ⟨t, hrun, hrep, hone, ht⟩ := h.replied hc hp (hb _ h.notedIn) hs hx hd hm ho hq
  exact ⟨_, t, h.notedIn, ⟨fun s0 h0 => (hi s0).trans (congrArg _ (hrun s0 h0)), hrep, hone⟩, ht⟩

/-- A command that answers and changes nothing. -/
theorem Delivered.serves_unchanged (h : Delivered op f s) (hi : ∀ s0 : State, exec i s0 = .next (s0.receiveAs op f))
    (hc : catalogue.contains op = true) (hq : op ≠ 0x0101) (hp : Prompt op r)
    (hb : ∀ l, NotedIn f s l → body f f.session.toNat (sget {} l f.session.toNat) { s with sessions := l } =
      .reply r { s with sessions := l }) :
    ∃ t, Serves i f r s t ∧ t = { s with out := t.out, sessions := t.sessions } := by
  obtain ⟨l, t, -, hserves, ht⟩ := h.serves hi hc hq hp hb fun l => ⟨⟨rfl, rfl, rfl, rfl⟩, rfl, rfl, rfl⟩
  exact ⟨t, hserves, ht⟩

/-- Of a reply only its payload is sent. -/
theorem Serves.congr {r' : Reply} (h : Serves i f r s t) (e : r.payload = r'.payload) : Serves i f r' s t := by
  obtain ⟨hrun, hrep, hone⟩ := h
  unfold Replied State.replyTo at hrep
  rw [e] at hrep
  exact ⟨hrun, hrep, hone⟩

/-- A reply that waits for no journal record, to a command with whose reply nothing takes effect, goes out at once. -/
theorem Prompt.of_not_journals (h : journalsEffect op = false) (ho : op ∉ [0x1007, 0x0302, 0x1201, 0x1202, 0x1203, 0x1303]) :
    Prompt op r := ⟨fun e => by simp [h] at e, ho⟩

end Sys2Proof.Machine
end

section
/-! PROOFS. Membership of a fabric and the roles of a cascade (R430, R432, R435, R436). -/

namespace Sys2Proof.Machine

variable {s t u : State} {f : Frame} {op c : Nat} {r : Reply}

/-! ## The loss of a source (R37) -/

/-- Only the wheel and the log changed, and in the wheel neither its position, nor the time transmitter that is heard, nor what its
sources are set to. -/
structure SameTransmitter (s t : State) : Prop where
  frame : ∃ w l n x, t = { s with wheel := w, log := l, logNext := n, freshTrouble := x }
  ptpValid : t.wheel.ptpValid = s.wheel.ptpValid
  transmitter : t.wheel.transmitter = s.wheel.transmitter
  awaited : t.wheel.awaitedFollowUp = s.wheel.awaitedFollowUp
  position : t.wheel.position = s.wheel.position
  nextSource : t.wheel.nextSource = s.wheel.nextSource
  order : t.wheel.first = s.wheel.first ∧ t.wheel.second = s.wheel.second
  settings : t.wheel.domain = s.wheel.domain ∧ t.wheel.asymmetry = s.wheel.asymmetry ∧
    t.wheel.unicastAddress = s.wheel.unicastAddress

theorem SameTransmitter.refl : SameTransmitter s s := ⟨⟨_, _, _, _, rfl⟩, rfl, rfl, rfl, rfl, rfl, ⟨rfl, rfl⟩, ⟨rfl, rfl, rfl⟩⟩

theorem SameTransmitter.trans (h : SameTransmitter s t) (k : SameTransmitter t u) : SameTransmitter s u := by
  obtain ⟨_, _, _, _, rfl⟩ := h.frame
  obtain ⟨_, _, _, _, rfl⟩ := k.frame
  exact ⟨⟨_, _, _, _, rfl⟩, k.ptpValid.trans h.ptpValid, k.transmitter.trans h.transmitter, k.awaited.trans h.awaited,
    k.position.trans h.position, k.nextSource.trans h.nextSource,
    ⟨k.order.1.trans h.order.1, k.order.2.trans h.order.2⟩,
    ⟨k.settings.1.trans h.settings.1, k.settings.2.1.trans h.settings.2.1, k.settings.2.2.trans h.settings.2.2⟩⟩

theorem State.acquire_same {n : Nat} : SameTransmitter s (s.acquire n) := ⟨⟨_, _, _, _, rfl⟩, rfl, rfl, rfl, rfl, rfl, ⟨rfl, rfl⟩, ⟨rfl, rfl, rfl⟩⟩
theorem State.runFree_same : SameTransmitter s s.runFree := ⟨⟨_, _, _, _, rfl⟩, rfl, rfl, rfl, rfl, rfl, ⟨rfl, rfl⟩, ⟨rfl, rfl, rfl⟩⟩
theorem State.holdover_same {b n : Nat} {l : Bool} : SameTransmitter s (s.holdover b n l) :=
  ⟨⟨_, _, _, _, rfl⟩, rfl, rfl, rfl, rfl, rfl, ⟨rfl, rfl⟩, ⟨rfl, rfl, rfl⟩⟩
theorem State.ppsLost_same : SameTransmitter s (s.modWheel fun w => { w with ppsLost := true, ppsRun := 0 }) :=
  ⟨⟨_, _, _, _, rfl⟩, rfl, rfl, rfl, rfl, rfl, ⟨rfl, rfl⟩, ⟨rfl, rfl, rfl⟩⟩

/-- What the loss of the source in use can do: nothing, another source, HOLDOVER or FREE. -/
theorem State.loseSource_same : SameTransmitter s s.loseSource := by
  unfold State.loseSource
  dsimp only
  split
  · exact .refl
  next n _ =>
    have h : SameTransmitter s (if n = 1 then s.modWheel fun w => { w with ppsLost := true, ppsRun := 0 } else s) := by
      split
      · exact State.ppsLost_same
      · exact .refl
    revert h
    generalize (if n = 1 then _ else s) = v
    refine fun h => h.trans ?_
    split
    · exact State.acquire_same
    · split
      · exact State.holdover_same
      · split
        · exact State.holdover_same
        · exact State.holdover_same
        · exact State.runFree_same
      · exact .refl

/-! ## The end of a role (R436) -/

/-- The fields of a module that has no role. -/
def Fabric.noRole (x : Fabric) : Fabric := { x with role := 0, domain := 0, head := 0xFFFF, headSerial := [], mask := 0 }

theorem State.endRole_other (h : s.fabric.role ≠ 2) : s.endRole = s.modFabric Fabric.noRole := by
  unfold State.endRole
  rw [if_neg h]
  rfl

/-- Beside the fabric only the wheel, the tentative bookings and the log changed. -/
def OnlyRole (s t : State) : Prop := ∃ y w z l n x, t = { s with
  fabric := y, wheel := w, schedule := { s.schedule with tentative := z }, log := l, logNext := n, freshTrouble := x }

theorem OnlyRole.modFabric {g : Fabric → Fabric} (h : OnlyRole s t) : OnlyRole s (t.modFabric g) := by
  obtain ⟨_, _, _, _, _, _, rfl⟩ := h
  exact ⟨_, _, _, _, _, _, rfl⟩

theorem OnlyRole.modWheel {g : Wheel → Wheel} (h : OnlyRole s t) : OnlyRole s (t.modWheel g) := by
  obtain ⟨_, _, _, _, _, _, rfl⟩ := h
  exact ⟨_, _, _, _, _, _, rfl⟩

theorem OnlyRole.loseSource (h : OnlyRole s t) : OnlyRole s t.loseSource := by
  obtain ⟨_, _, _, _, e⟩ := State.loseSource_same (s := t) |>.frame
  rw [e]
  obtain ⟨_, _, _, _, _, _, rfl⟩ := h
  exact ⟨_, _, _, _, _, _, rfl⟩

/-- What the end of a role leaves: the fabric without it, and a follower no head to hear and no tentative booking. -/
structure RoleEnded (s t : State) : Prop where
  fabric : t.fabric = s.fabric.noRole
  frame : OnlyRole s t
  follower : s.fabric.role = 2 → t.wheel.ptpValid = false ∧ t.wheel.transmitter = none ∧ t.schedule.tentative = []

theorem RoleEnded.loseSource (h : RoleEnded s t) : RoleEnded s t.loseSource := by
  have lost := State.loseSource_same (s := t)
  refine ⟨?_, h.frame.loseSource, fun e => ?_⟩
  · obtain ⟨_, _, _, _, e⟩ := lost.frame
    rw [e]
    exact h.fabric
  · obtain ⟨hv, ht, hb⟩ := h.follower e
    refine ⟨lost.ptpValid.trans hv, lost.transmitter.trans ht, ?_⟩
    obtain ⟨_, _, _, _, e⟩ := lost.frame
    rw [e]
    exact hb

theorem State.endRole_ended : RoleEnded s s.endRole := by
  by_cases h : s.fabric.role = 2
  · have base : RoleEnded s (((s.modFabric Fabric.noRole).modWheel fun w =>
        { w with ptpValid := false, transmitter := none }).modSchedule fun x => { x with tentative := [] }) :=
      ⟨rfl, ⟨_, _, _, _, _, _, rfl⟩, fun _ => ⟨rfl, rfl, rfl⟩⟩
    unfold State.endRole
    rw [if_pos h]
    dsimp only
    split
    · exact base.loseSource
    · exact base
  · rw [State.endRole_other h]
    exact ⟨rfl, ⟨_, _, _, _, _, _, rfl⟩, fun e => absurd e h⟩

/-! ## Claiming an address (R434) -/

/-- With an empty route table every address is free: the preferred one is claimed, or address 0. -/
theorem Fabric.elect_noRoutes {x : Fabric} {l : List Byte} (h : x.routes = []) :
    x.elect l = some (if x.preferred < 4096 then x.preferred else 0) := by
  have he (a : Nat) : x.entry a = none := by
    unfold Fabric.entry
    rw [h]
    rfl
  unfold Fabric.elect
  simp only [he, and_true]
  split
  · rfl
  · exact List.find?_range_eq_some.mpr (by simp)

/-- A module without routes that claims an address gets one, tentatively. -/
theorem State.claim_noRoutes (h : s.fabric.routes = []) : s.claim = s.modFabric fun x =>
    { x with address := if s.fabric.preferred < 4096 then s.fabric.preferred else 0, claim := 0, claimBeacons := 0 } := by
  unfold State.claim
  rw [Fabric.elect_noRoutes h]

/-! ## The bodies -/

theorem bodyFabricAddress_done {p : List Byte} (hp : f.payload = p) (hb : byteAt p 23 ≠ 0xFF) (hl : legalDevice 0x0E01 u = none) :
    bodyFabricAddress f u = .reply {} (u.modFabric fun x =>
      { x with flashIpv4 := BitVec.ofNat 32 (le p 0 4), flashIpv6 := BitVec.ofNat 128 (le p 8 16) }) := by
  subst hp
  unfold bodyFabricAddress
  rw [checked_when (by simpa using hb), checked_none hl]
  rfl

/-- A member of fabric `id` under key `k`, not yet with an address. -/
def Fabric.joined (x : Fabric) (id want vlan : Nat) (k : List Byte) : Fabric :=
  { x with member := true, id := id, preferred := want, vlan := vlan, key := k, routes := [], lastBeacon := none }

theorem bodyFabricJoin_done {id want vlan : Nat} (hi : le f.payload 0 8 = id) (hw : le f.payload 8 2 = want)
    (hv : le f.payload 10 2 = vlan) (h0 : 0 < id) (h1 : id < 18446744073709551615) (h2 : want < 4096 ∨ want = 65535)
    (h3 : vlan ≤ 4094) (hl : legalDevice 0x0E02 u = none) :
    bodyFabricJoin f u = .reply {} (u.endRole.modFabric fun x => { x.joined id want vlan (slice f.payload 16 32) with
      address := if want < 4096 then want else 0, claim := 0, claimBeacons := 0 }) := by
  subst hi hw hv
  unfold bodyFabricJoin
  dsimp only
  rw [checked_when (by simp; omega), checked_when (by simp; omega), checked_when (by simp; omega), checked_none hl, checked_nil,
    State.claim_noRoutes rfl]
  rfl

theorem bodyFabricLeave_done (hl : legalDevice 0x0E03 u = none) : bodyFabricLeave u = .reply {} u.leaveFabric := by
  unfold bodyFabricLeave
  rw [checked_none hl]
  rfl

/-- A module that has left its fabric. -/
def Fabric.left (x : Fabric) : Fabric :=
  { x with member := false, id := 0, preferred := 0xFFFF, vlan := 0, key := [], address := 0, claim := 2, claimBeacons := 0,
           routes := [], lastBeacon := none }

theorem State.leaveFabric_eq : s.leaveFabric = s.endRole.modFabric Fabric.left := rfl

theorem OnlyRole.silent (h : OnlyRole s t) : Silent s t := by
  obtain ⟨_, _, _, _, _, _, rfl⟩ := h
  exact ⟨rfl, rfl, rfl, rfl⟩

theorem bodyFabricStatus_done {x : Session} {first n : Nat} (hf : le f.payload 0 2 = first) (hn : le f.payload 2 2 = n)
    (h0 : n ≠ 0) (h1 : n ≤ 64) (hm : 64 * n + 56 ≤ x.maxPayload) (h2 : first + n ≤ 4096) (h3 : first ≤ 4095)
    (hl : legalDevice 0x0E04 u = none) : bodyFabricStatus f x u = .reply {
      data := leBytes 2 u.fabric.address ++ leBytes 1 u.fabric.role ++ leBytes 1 u.fabric.claim ++ leBytes 8 u.fabric.id ++ zeros 4 ++
        (List.range' first n).flatMap (u.fabric.statusEntry u.uptime) } u := by
  subst hf hn
  unfold bodyFabricStatus
  dsimp only
  rw [if_neg h0, checked_when (by simp; omega), checked_when (by simp; omega), checked_when (by simp; omega), checked_none hl]
  rfl

/-- The module's own 16 bytes of FABRIC.STATUS. -/
def Fabric.ownBytes (x : Fabric) : List Byte :=
  leBytes 2 x.address ++ leBytes 1 x.role ++ leBytes 1 x.claim ++ leBytes 8 x.id ++ zeros 4

theorem bodyFabricStatus_zero {x : Session} (hn : le f.payload 2 2 = 0) :
    bodyFabricStatus f x u = .reply { zero := true, data := u.fabric.ownBytes } u := by
  unfold bodyFabricStatus
  simp only [hn]
  rfl

/-- Settles O30: the bodies of the four commands, with what the end of a role leaves. -/
theorem fabricCommandsSetMembership : Obligations.FabricCommandsSetMembership := by
  unfold Obligations.FabricCommandsSetMembership
  refine ⟨?address, ?join, ?leave, ?status⟩
  case address =>
    intro f s p h hp hb hl
    obtain ⟨l, -, he⟩ := h.effect (i := .fabricAddress f) (fun _ => rfl) (by decide) (by decide) ⟨rfl, rfl⟩
      (fun l _ => (body_fabric h.opcode (by decide) (by decide) (by decide)).trans (bodyFabricAddress_done hp hb hl))
      fun l => ⟨rfl, rfl, rfl, rfl⟩
    exact ⟨_, he, rfl, rfl⟩
  case join =>
    rintro f s p id want vlan h rfl hi hw hv h0 h1 h2 h3 hl
    obtain ⟨l, -, he⟩ := h.effect (i := .fabricJoin f) (fun _ => rfl) (by decide) (by decide) ⟨rfl, rfl⟩
      (fun l _ => (body_fabric h.opcode (by decide) (by decide) (by decide)).trans (bodyFabricJoin_done hi hw hv h0 h1 h2 h3 hl))
      fun l => State.endRole_ended.frame.modFabric.silent
    obtain ⟨hfabric, -, hfollower⟩ := State.endRole_ended (s := { s with sessions := l })
    refine ⟨_, he, ?_, hfollower, fun hr => ?_⟩
    · dsimp only [State.modFabric]
      rw [hfabric]
      rfl
    · rw [State.endRole_other (s := { s with sessions := l }) hr]
      rfl
  case leave =>
    intro f s h hl
    obtain ⟨l, -, he⟩ := h.effect (i := .fabricLeave f) (fun _ => rfl) (by decide) (by decide) ⟨rfl, rfl⟩
      (fun l _ => (body_fabric h.opcode (by decide) (by decide) (by decide)).trans (bodyFabricLeave_done hl))
      fun l => State.endRole_ended.frame.modFabric.silent
    obtain ⟨hfabric, -, hfollower⟩ := State.endRole_ended (s := { s with sessions := l })
    refine ⟨_, he, rfl, (congrArg Fabric.role hfabric :), rfl, rfl, rfl, rfl, (congrArg Fabric.ipv4 hfabric :), hfollower, fun hr => ?_⟩
    rw [State.leaveFabric_eq, State.endRole_other (s := { s with sessions := l }) hr]
    rfl
  case status =>
    intro f s first n h hf hn h1 hm h2 h3 hl
    by_cases h0 : n = 0
    · subst h0
      obtain ⟨t, ht, e⟩ := h.serves_unchanged (i := .fabricStatus f)
        (r := { zero := true, data := s.fabric.ownBytes }) (fun _ => rfl) (by decide) (by decide)
        (.of_not_journals (by decide) (by decide)) fun l _ =>
          (body_fabric h.opcode (by decide) (by decide) (by decide)).trans (bodyFabricStatus_zero hn)
      exact ⟨t, ht.congr (by simp [Reply.payload, Fabric.ownBytes]), e⟩
    · exact h.serves_unchanged (i := .fabricStatus f) (fun _ => rfl) (by decide) (by decide)
        (.of_not_journals (by decide) (by decide)) fun l hx =>
          (body_fabric h.opcode (by decide) (by decide) (by decide)).trans
            (bodyFabricStatus_done hf hn h0 h1 (by rw [hx.own]; exact hm) h2 h3 hl)

/-! ## Cascade roles -/

theorem bodyCascadeForm_done {d : Nat} (hd : le f.payload 0 1 = d) (h1 : d ≤ 127) (hl : legalDevice 0x0F01 u = none)
    (hm : u.fabric.member = true) (hc : u.fabric.claim = 1) (hr : u.fabric.role ≠ 2 ∨ u.fabric.routeOf u.fabric.headSerial = none) :
    bodyCascadeForm f u = .reply {} ((if u.fabric.role = 2 then u.endRole else u).modFabric fun x =>
      { x with role := 1, domain := d }) := by
  subst hd
  have hs : (!u.fabric.settled || u.fabric.role == 2 && !u.fabric.headGone) = false := by
    unfold Fabric.settled Fabric.headGone
    rcases hr with hr | hr <;> simp [hm, hc, hr]
  unfold bodyCascadeForm
  dsimp only
  rw [checked_when (by simpa using h1), checked_none hl, checked_when hs]
  rfl

/-- A module that is no follower forms a cascade. -/
theorem bodyCascadeForm_fresh {d : Nat} (hd : le f.payload 0 1 = d) (h1 : d ≤ 127) (hl : legalDevice 0x0F01 u = none)
    (hm : u.fabric.member = true) (hc : u.fabric.claim = 1) (hr : u.fabric.role ≠ 2) :
    bodyCascadeForm f u = .reply {} (u.modFabric fun x => { x with role := 1, domain := d }) := by
  rw [bodyCascadeForm_done hd h1 hl hm hc (.inl hr), if_neg hr]

/-- A follower whose head is gone forms one of its own. -/
theorem bodyCascadeForm_again {d : Nat} (hd : le f.payload 0 1 = d) (h1 : d ≤ 127) (hl : legalDevice 0x0F01 u = none)
    (hm : u.fabric.member = true) (hc : u.fabric.claim = 1) (hr : u.fabric.role = 2)
    (hg : u.fabric.routeOf u.fabric.headSerial = none) :
    bodyCascadeForm f u = .reply {} (u.endRole.modFabric fun x => { x with role := 1, domain := d }) := by
  rw [bodyCascadeForm_done hd h1 hl hm hc (.inr hg), if_pos hr]

/-- A wheel that hears no transmitter. -/
def Wheel.unheard (w : Wheel) : Wheel := { w with ptpValid := false, transmitter := none, awaitedFollowUp := none }

/-- What CASCADE.FOLLOW does, `g` making the fabric the follower's: the earlier role ends, and a source in use is lost. -/
def State.follow (s : State) (g : Fabric → Fabric) : State :=
  let v := (s.endRole.modFabric g).modWheel Wheel.unheard
  if v.wheel.inUse.isSome then v.loseSource else v

/-- What CASCADE.FOLLOW leaves, whatever role and source the module had. -/
structure Followed (g : Fabric → Fabric) (s t : State) : Prop where
  frame : OnlyRole s t
  fabric : t.fabric = g s.fabric.noRole
  ptpValid : t.wheel.ptpValid = false
  transmitter : t.wheel.transmitter = none
  awaited : t.wheel.awaitedFollowUp = none

theorem Followed.loseSource {g : Fabric → Fabric} (h : Followed g s t) : Followed g s t.loseSource := by
  have lost := State.loseSource_same (s := t)
  refine ⟨h.frame.loseSource, ?_, lost.ptpValid.trans h.ptpValid, lost.transmitter.trans h.transmitter, lost.awaited.trans h.awaited⟩
  obtain ⟨_, _, _, _, e⟩ := lost.frame
  rw [e]
  exact h.fabric

theorem State.follow_followed {g : Fabric → Fabric} : Followed g s (s.follow g) := by
  have ended := State.endRole_ended (s := s)
  have base : Followed g s ((s.endRole.modFabric g).modWheel Wheel.unheard) :=
    ⟨ended.frame.modFabric.modWheel, congrArg g ended.fabric, rfl, rfl, rfl⟩
  unfold State.follow
  dsimp only
  split
  · exact base.loseSource
  · exact base

/-- A module without a role and without a source in use only begins to follow. -/
theorem State.follow_alone {g : Fabric → Fabric} (hr : s.fabric.role ≠ 2) (hu : s.wheel.inUse = none) :
    s.follow g = ((s.modFabric Fabric.noRole).modFabric g).modWheel Wheel.unheard := by
  unfold State.follow
  rw [State.endRole_other hr]
  have hw : (((s.modFabric Fabric.noRole).modFabric g).modWheel Wheel.unheard).wheel.inUse = none := hu
  exact if_neg (by rw [hw]; decide)

/-- The fabric of a follower of the head at address `a`. -/
def Fabric.followerOf (x : Fabric) (a d : Nat) (b : Beacon) (m : BitVec 64) : Fabric :=
  { x with role := 2, domain := d, head := a, headSerial := b.serial, mask := m }

theorem bodyCascadeFollow_done {a d : Nat} {b : Beacon} (ha : le f.payload 0 2 = a) (hd : le f.payload 2 1 = d) (h1 : d ≤ 127)
    (hl : legalDevice 0x0F02 u = none) (hm : u.fabric.member = true) (hc : u.fabric.claim ≠ 2) (hr : u.fabric.role ≠ 1)
    (he : u.fabric.entry a = some b) (hb : b.role = 1) (hn : u.fabric.followersOf a u.dev.serial < 15) :
    bodyCascadeFollow f u = .reply {} (u.follow fun x => x.followerOf a d b (BitVec.ofNat 64 (le f.payload 8 8))) := by
  subst ha hd
  unfold bodyCascadeFollow
  dsimp only
  rw [checked_when (by simpa using h1), checked_none hl, checked_when (by simp [hm, hc, hr, he, hb, hn])]
  simp only [he, Option.map_some, Option.getD_some]
  rfl

theorem bodyCascadeLeave_done (hl : legalDevice 0x0F03 u = none) : bodyCascadeLeave u = .reply {} u.endRole := by
  unfold bodyCascadeLeave
  rw [checked_none hl]
  rfl

/-- Settles O33: the bodies of the three commands, with what the end of a role and the loss of a source leave. -/
theorem cascadeRolesAreTakenAndLeft : Obligations.CascadeRolesAreTakenAndLeft := by
  unfold Obligations.CascadeRolesAreTakenAndLeft
  refine ⟨?form, ?follow, ?leave⟩
  case form =>
    intro f s d h hd h1 hl hm hc
    refine ⟨fun hr => ?_, fun hr hg => ?_⟩
    · obtain ⟨l, -, he⟩ := h.effect (i := .cascadeForm f) (r := {}) (fun _ => rfl) (by decide) (by decide) ⟨rfl, rfl⟩
        (fun l _ => (body_fabric h.opcode (by decide) (by decide) (by decide)).trans
          (bodyCascadeForm_fresh (u := { s with sessions := l }) hd h1 hl hm hc hr))
        fun l => ⟨rfl, rfl, rfl, rfl⟩
      exact ⟨_, he, rfl, rfl⟩
    · obtain ⟨l, -, he⟩ := h.effect (i := .cascadeForm f) (r := {}) (fun _ => rfl) (by decide) (by decide) ⟨rfl, rfl⟩
        (fun l _ => (body_fabric h.opcode (by decide) (by decide) (by decide)).trans
          (bodyCascadeForm_again (u := { s with sessions := l }) hd h1 hl hm hc hr hg))
        fun l => State.endRole_ended.frame.modFabric.silent
      obtain ⟨hfabric, -, hfollower⟩ := State.endRole_ended (s := { s with sessions := l })
      obtain ⟨hv, -, ht⟩ := hfollower hr
      exact ⟨_, he, rfl, rfl, (congrArg Fabric.headSerial hfabric :), hv, ht⟩
  case follow =>
    rintro f s p a d b h rfl ha hd h1 hl hm hc hr he hb hn
    obtain ⟨l, -, hx⟩ := h.effect (i := .cascadeFollow f) (r := {}) (fun _ => rfl) (by decide) (by decide) ⟨rfl, rfl⟩
      (fun l _ => (body_fabric h.opcode (by decide) (by decide) (by decide)).trans
        (bodyCascadeFollow_done (u := { s with sessions := l }) ha hd h1 hl hm hc hr he hb hn))
      fun l => State.follow_followed.frame.silent
    obtain ⟨-, hfabric, hvalid, hheard, hawaited⟩ := State.follow_followed (s := { s with sessions := l })
      (g := fun x => x.followerOf a d b (BitVec.ofNat 64 (le f.payload 8 8)))
    refine ⟨_, hx, hfabric, hvalid, hheard, hawaited, fun h0 hu => ?_⟩
    rw [State.follow_alone (s := { s with sessions := l }) (by simp [h0]) hu]
    exact ⟨rfl, rfl⟩
  case leave =>
    intro f s h hl
    obtain ⟨l, -, he⟩ := h.effect (i := .cascadeLeave f) (fun _ => rfl) (by decide) (by decide) ⟨rfl, rfl⟩
      (fun l _ => (body_fabric h.opcode (by decide) (by decide) (by decide)).trans (bodyCascadeLeave_done hl))
      fun l => State.endRole_ended.frame.silent
    obtain ⟨hfabric, -, hfollower⟩ := State.endRole_ended (s := { s with sessions := l })
    refine ⟨_, he, hfabric, hfollower, fun hr => ?_⟩
    rw [State.endRole_other (s := { s with sessions := l }) hr]
    rfl

end Sys2Proof.Machine
end

section
/-! PROOFS. Commands that read the device and change nothing (R41, R333, R334, R394, R395). -/

namespace Sys2Proof.Machine

variable {s t u : State} {f : Frame} {c n : Nat}

/-! ## Families read alike -/

section
variable {β : Type} [DecidableEq β]

/-- The entries of a family in canonical form are its reads that differ from the reset entry. -/
theorem mem_iff_sget {d : β} {m : Sparse β} {k : Nat} {x : β} (h : swf d m = true) : (k, x) ∈ m ↔ x ≠ d ∧ sget d m k = x := by
  refine ⟨fun hm => ⟨(swf_iff.mp h).2 _ hm, ?_⟩, fun ⟨hx, e⟩ => ?_⟩
  · obtain ⟨hp, -⟩ := swf_iff.mp h
    clear h
    induction m with
    | nil => simp at hm
    | cons e r ih =>
      obtain ⟨a, y⟩ := e
      obtain ⟨ha, hr⟩ := rising_tail hp
      rcases List.mem_cons.mp hm with he | hr'
      · cases he
        simp [sget]
      · have hlt : a < k := ha _ hr'
        simp only [sget, if_neg (Nat.ne_of_lt hlt)]
        exact ih hr' hr
  · rcases sget_mem (d := d) (m := m) (k := k) with hd | hm
    · exact absurd (e.symm.trans hd) hx
    · rwa [e] at hm

/-- Two families have equally many entries of a kind that their reads share and the reset entry is not of. -/
theorem length_filter_of_sget {d : β} {m l : Sparse β} {p : β → Bool} (hm : swf d m = true) (hl : swf d l = true)
    (hd : p d = false) (h : ∀ k, p (sget d m k) = p (sget d l k)) :
    (m.filter fun e => p e.2).length = (l.filter fun e => p e.2).length := by
  have keys {m : Sparse β} (hm : swf d m = true) (k : Nat) :
      k ∈ (m.filter fun e => p e.2).map Prod.fst ↔ p (sget d m k) = true := by
    simp only [List.mem_map, List.mem_filter, Prod.exists]
    constructor
    · rintro ⟨_, x, ⟨hx, hp⟩, rfl⟩
      rwa [((mem_iff_sget hm).mp hx).2]
    · intro hp
      have hx : sget d m k ≠ d := fun e => by rw [e, hd] at hp; cases hp
      exact ⟨_, _, ⟨(mem_iff_sget hm).mpr ⟨hx, rfl⟩, hp⟩, rfl⟩
  have nodup {m : Sparse β} (hm : swf d m = true) : ((m.filter fun e => p e.2).map Prod.fst).Nodup :=
    List.pairwise_map.mpr (((swf_iff.mp hm).1.filter _).imp Nat.ne_of_lt)
  have := ((List.perm_ext_iff_of_nodup (nodup hm) (nodup hl)).mpr fun k => by rw [keys hm, keys hl, h]).length_eq
  simpa using this

end

/-! ## A noted frame leaves the registers as they read -/

/-- A delivered frame opens and closes no session. -/
theorem NotedIn.openSessions {l : Sparse Session} (h : NotedIn f s l) (hs : swf {} s.sessions = true) :
    ({ s with sessions := l } : State).openSessions = s.openSessions := by
  refine length_filter_of_sget (p := fun x => x.isOpen) h.canonical hs rfl fun k => ?_
  by_cases hk : k = f.session.toNat
  · subst hk
    rw [h.own]
    rfl
  · rw [h.other k hk]
    rfl

theorem State.regValue_sessions {l : Sparse Session} {a : Nat} (h : ({ s with sessions := l } : State).openSessions = s.openSessions) :
    ({ s with sessions := l } : State).regValue a = s.regValue a := by
  unfold State.regValue
  cases regPlace a with
  | device o =>
    unfold State.deviceReg
    rw [h]
    rfl
  | _ => rfl

theorem State.regBytes_sessions {l : Sparse Session} {a : Nat}
    (h : ({ s with sessions := l } : State).openSessions = s.openSessions) :
    ({ s with sessions := l } : State).regBytes a n = s.regBytes a n := by
  unfold State.regBytes
  simp only [State.regValue_sessions h]

/-- Nor does it matter to them once WHEEL.PositionHi is latched. -/
theorem State.regBytes_latched {l : Sparse Session} {a : Nat} {g : Wheel → Wheel}
    (h : ({ s with sessions := l } : State).openSessions = s.openSessions) :
    (({ s with sessions := l } : State).modWheel g).regBytes a n = (s.modWheel g).regBytes a n := by
  have e : ({ s.modWheel g with sessions := l } : State).openSessions = (s.modWheel g).openSessions := by
    unfold State.openSessions at h ⊢
    exact h
  have e' : ({ s with sessions := l } : State).modWheel g = { s.modWheel g with sessions := l } := rfl
  rw [e', State.regBytes_sessions e]

/-! ## The bodies -/

theorem bodyStatusDevice_done (hl : legalDevice f.opcode.toNat u = none) :
    bodyStatusDevice f u = .reply { data := u.statusData } u := by
  unfold bodyStatusDevice
  rw [checked_none hl]
  rfl

theorem bodyStatusContext_done (hc : le f.payload 0 1 = c) (h : c = 255 ∨ (c ≤ 63 ∧ u.ctxState c ≠ .free))
    (hl : legalDevice f.opcode.toNat u = none) : bodyStatusContext f u = .reply { data := u.contextData c } u := by
  subst hc
  unfold bodyStatusContext
  dsimp only
  rw [checked_when (by simp; omega), checked_none hl, checked_when (by rcases h with h | ⟨-, h⟩ <;> simp [h])]
  rfl

theorem bodyLogRead_done {x : Session} {first : Nat} (hf : le f.payload 0 8 = first) (hn : le f.payload 8 2 = n) (h0 : 1 ≤ n)
    (h1 : n ≤ 64) (hm : 64 * n + 56 ≤ x.maxPayload) (ho : u.oldestRecord ≤ first) (h2 : first + n ≤ u.logNext)
    (hl : legalDevice f.opcode.toNat u = none) :
    bodyLogRead f x u = .reply { data := leBytes 8 u.oldestRecord ++ leBytes 8 (u.logNext - 1) ++
      (((u.log.drop (first - u.oldestRecord)).take n).flatMap fun r => r.bytes (hiddenFrom x r)) } u := by
  subst hf hn
  unfold bodyLogRead
  dsimp only
  rw [if_neg (by omega), checked_when (by simp; omega), checked_when (by simp; omega), checked_when (by simp; omega), checked_none hl]
  rfl

theorem bodyAttestIdentity_done (hl : legalDevice 0x1101 u = none) :
    bodyAttestIdentity u = .reply { data := u.sec.certificate } u := by
  unfold bodyAttestIdentity
  rw [checked_none hl]
  rfl

theorem bodyAttestReport_done (hl : legalDevice 0x1102 u = none) : bodyAttestReport f u =
    .reply { data := u.reportBody f.payload ++ dikSign u.sec.dik (u.reportBody f.payload) } u := by
  unfold bodyAttestReport
  dsimp only
  rw [checked_none hl]
  rfl

theorem bodyRegRead_done {x : Session} {a : Nat} (ha : le f.payload 0 4 = a) (hn : le f.payload 4 2 = n) (h0 : 1 ≤ n) (h1 : n ≤ 256)
    (hm : 4 * n + 40 ≤ x.maxPayload) (h4 : a % 4 = 0) (hr : firstUnmappedReg a n = none) (hl : legalDevice f.opcode.toNat u = none) :
    bodyRegRead f x u = .reply { data := (u.latchPosition a n).regBytes a n } (u.latchPosition a n) := by
  subst ha hn
  unfold bodyRegRead
  dsimp only
  rw [zeroField_false (by simp; omega), checked_when (by simp; omega), checked_when (by simpa using h4), checked_none (by rw [hr]; rfl),
    checked_none hl]
  rfl

/-- A device that answers is not OFF, where STATUS and LOG.READ have their answer. -/
theorem Delivered.legal_always {op : Nat} (h : Delivered op f s) (hm : legalMask op = 254) : legalDevice op s = none :=
  legalDevice_always hm (State.ne_off_of_answers h.answers)

/-- Settles O9: the bodies of the five commands. -/
theorem readsChangeNothing : Obligations.ReadsChangeNothing := by
  unfold Obligations.ReadsChangeNothing
  refine ⟨?device, ?context, ?log, ?identity, ?report⟩
  case device =>
    intro f s h
    have hl := h.legal_always rfl
    exact h.serves_unchanged (i := .statusDevice f) (r := { data := s.statusData }) (fun _ => rfl) (by decide) (by decide)
      (.of_not_journals (by decide) (by decide)) fun l _ =>
        (body_middle h.opcode (by decide) (by decide)).trans (bodyStatusDevice_done (by rw [h.opcode]; exact hl))
  case context =>
    intro f s c h hc hx
    have hl := h.legal_always rfl
    exact h.serves_unchanged (i := .statusContext f) (r := { data := s.contextData c }) (fun _ => rfl) (by decide) (by decide)
      (.of_not_journals (by decide) (by decide)) fun l _ =>
        (body_middle h.opcode (by decide) (by decide)).trans
          (bodyStatusContext_done (u := { s with sessions := l }) hc hx (by rw [h.opcode]; exact hl))
  case log =>
    intro f s first n h hf hn h0 h1 hm ho h2
    have hl := h.legal_always rfl
    exact h.serves_unchanged (i := .logRead f) (r := { data := leBytes 8 s.oldestRecord ++ leBytes 8 (s.logNext - 1) ++
        (((s.log.drop (first - s.oldestRecord)).take n).flatMap fun r =>
          r.bytes (hiddenFrom (s.session f.session.toNat) r)) }) (fun _ => rfl) (by decide) (by decide)
      (.of_not_journals (by decide) (by decide)) fun l hx =>
        (body_middle h.opcode (by decide) (by decide)).trans ((bodyLogRead_done (u := { s with sessions := l }) hf hn h0 h1
          (by rw [hx.own]; exact hm) ho h2 (by rw [h.opcode]; exact hl)).trans (by rw [hx.own]; rfl))
  case identity =>
    intro f s h hl
    exact h.serves_unchanged (i := .attestIdentity f) (r := { data := s.sec.certificate }) (fun _ => rfl) (by decide) (by decide)
      (.of_not_journals (by decide) (by decide)) fun l _ =>
        (body_high h.opcode (by decide) (by decide) (by decide)).trans (bodyAttestIdentity_done (u := { s with sessions := l }) hl)
  case report =>
    intro f s u c h hl
    exact h.handles (by decide) (by decide) (fun _ => rfl)
      ((h.high (by decide) (by decide) (by decide)).trans (bodyAttestReport_done hl))

/-! ## REG.READ -/

theorem State.deviceState_ne_latched (h : s.dev.state ≠ .latched) : s.deviceState ≠ .latched := by
  unfold State.deviceState
  split
  · split <;> simp
  · split <;> simp
  · exact h

/-- REG.READ is answered in every state but OFF and LATCHED. -/
theorem legalDevice_regRead (h : s.dev.state ≠ .off) (hl : s.dev.state ≠ .latched) : legalDevice 0x0A01 s = none := by
  have h1 := State.deviceState_ne_off h
  have h2 := State.deviceState_ne_latched hl
  unfold legalDevice
  rw [show legalMask 0x0A01 = 126 from rfl]
  generalize s.deviceState = d at *
  cases d with
  | off => exact absurd rfl h1
  | latched => exact absurd rfl h2
  | _ => rfl

/-- The row of WHEEL.PositionLo is the REG.READ that covers it. -/
theorem execPositionLoRead_covers {a : Nat} (ho : f.opcode.toNat = 0x0A01) (ha : le f.payload 0 4 = a) (hn : le f.payload 4 2 = n)
    (h : a ≤ 0x100000 ∧ 0x100000 < a + 4 * n) : exec (.positionLoRead f) s = exec (.regRead f) s := by
  subst ha hn
  have hop : (f.opcode == 0x0A01) = true := by simpa using BitVec.eq_of_toNat_eq ho
  change event _ s _ = .next _
  rw [hop, show (true && _ && _) = true by simpa using h]
  rfl

/-- Settles O10: a read latches WHEEL.PositionHi exactly when it covers WHEEL.PositionLo. -/
theorem regReadIsASnapshot : Obligations.RegReadIsASnapshot := by
  unfold Obligations.RegReadIsASnapshot
  intro f s a n h ha hn h0 h1 hm h4 hr hx
  have hl := legalDevice_regRead (State.ne_off_of_answers h.answers) hx
  have hb (l : Sparse Session) (hx : NotedIn f s l) : body f f.session.toNat (sget {} l f.session.toNat) { s with sessions := l } =
      .reply { data := (({ s with sessions := l } : State).latchPosition a n).regBytes a n }
        (({ s with sessions := l } : State).latchPosition a n) :=
    (body_middle h.opcode (by decide) (by decide)).trans (bodyRegRead_done (u := { s with sessions := l }) ha hn h0 h1
      (by rw [hx.own]; exact hm) h4 hr (by rw [h.opcode]; exact hl))
  constructor
  · intro hc
    have hlatch (u : State) : u.latchPosition a n =
        u.modWheel fun w => { w with latchedHi := BitVec.ofNat 32 (w.position / 2 ^ 32) } := if_pos hc
    have hbytes (l : Sparse Session) (hx : NotedIn f s l) :
        (({ s with sessions := l } : State).latchPosition a n).regBytes a n = (s.latchPosition a n).regBytes a n := by
      rw [hlatch, hlatch]
      exact State.regBytes_latched (hx.openSessions h.canonical.sessions)
    obtain ⟨l, t, -, ⟨hrun, hrep, hone⟩, ht⟩ := h.serves (i := .regRead f) (r := { data := (s.latchPosition a n).regBytes a n })
      (v := fun l => ({ s with sessions := l } : State).modWheel fun w => { w with latchedHi := BitVec.ofNat 32 (w.position / 2 ^ 32) })
      (fun _ => rfl) (by decide) (by decide) (.of_not_journals (by decide) (by decide))
      (fun l hx => by rw [hb l hx, hbytes l hx, hlatch { s with sessions := l }])
      fun l => ⟨⟨rfl, rfl, rfl, rfl⟩, rfl, rfl, rfl⟩
    have hlo : Runs (.positionLoRead f) f s t := fun s0 h0 => (execPositionLoRead_covers h.opcode ha hn hc).trans (hrun s0 h0)
    have hwheel : t.wheel = { s.wheel with latchedHi := BitVec.ofNat 32 (s.wheel.position / 2 ^ 32) } := by rw [ht]; rfl
    refine ⟨t, ⟨hlo, hrep, hone⟩, hrun, hwheel, ?_⟩
    rw [hwheel]
    exact ht
  · intro hc
    have hlatch (u : State) : u.latchPosition a n = u := if_neg hc
    exact h.serves_unchanged (i := .regRead f) (r := { data := s.regBytes a n }) (fun _ => rfl) (by decide) (by decide)
      (.of_not_journals (by decide) (by decide)) fun l hx => by
        rw [hb l hx, hlatch { s with sessions := l }, State.regBytes_sessions (s := s) (l := l) (hx.openSessions h.canonical.sessions)]

end Sys2Proof.Machine
end

section
/-! PROOFS. Trouble bits and the log (R382, R383, R393, R395), the port and what it drops (R360, R431, R458, R482, R483). -/

namespace Sys2Proof.Machine

variable {s t u : State} {i : Instr}

/-! ## A field of a part after another field of it is written -/

theorem State.stack_modStack_self {k : Nat} {g : Stack → Stack} (h : swf {} s.memStacks = true) :
    (s.modStack k g).stack k = g (s.stack k) := sget_sput_self h

theorem State.stack_modStack_other {j k : Nat} {g : Stack → Stack} (h : swf {} s.memStacks = true) (hj : j ≠ k) :
    (s.modStack k g).stack j = s.stack j := sget_sput_other h hj

theorem State.link_modLink_self {k : Nat} {g : Link → Link} (h : swf {} s.links = true) :
    (s.modLink k g).link k = g (s.link k) := sget_sput_self h

theorem State.link_modLink_other {j k : Nat} {g : Link → Link} (h : swf {} s.links = true) (hj : j ≠ k) :
    (s.modLink k g).link j = s.link j := sget_sput_other h hj

theorem State.pond_modPond_self {k : Nat} {g : Millpond → Millpond} (h : swf {} s.ponds = true) :
    (s.modPond k g).pond k = g (s.pond k) := sget_sput_self h

theorem State.pond_modPond_other {j k : Nat} {g : Millpond → Millpond} (h : swf {} s.ponds = true) (hj : j ≠ k) :
    (s.modPond k g).pond j = s.pond j := sget_sput_other h hj

theorem State.hopper_modHopper_self {k : Nat} {g : Hopper → Hopper} (h : swf {} s.hoppers = true) :
    (s.modHopper k g).hopper k = g (s.hopper k) := sget_sput_self h

theorem State.hopper_modHopper_other {j k : Nat} {g : Hopper → Hopper} (h : swf {} s.hoppers = true) (hj : j ≠ k) :
    (s.modHopper k g).hopper j = s.hopper j := sget_sput_other h hj

theorem State.core_modCore_self {k : Nat} {g : Core → Core} (h : swf {} s.cores = true) :
    (s.modCore k g).core k = g (s.core k) := sget_sput_self h

theorem State.core_modCore_other {j k : Nat} {g : Core → Core} (h : swf {} s.cores = true) (hj : j ≠ k) :
    (s.modCore k g).core j = s.core j := sget_sput_other h hj

/-! ## Trouble bits (R382, R383) -/

theorem State.trouble_setTrouble_self {r : TroubleReg} {v : Word} (h : s.Canonical) : (s.setTrouble r v).trouble r = v := by
  cases r with
  | stack k => exact congrArg Stack.trouble (State.stack_modStack_self h.memStacks.1)
  | link k => exact congrArg Link.trouble (State.link_modLink_self h.links.1)
  | millpond k => exact congrArg Millpond.trouble (State.pond_modPond_self h.ponds.1)
  | hopper k => exact congrArg Hopper.trouble (State.hopper_modHopper_self h.hoppers)
  | core k => exact congrArg Core.trouble (State.core_modCore_self h.cores.1)
  | coreStream k => exact congrArg Core.streamTrouble (State.core_modCore_self h.cores.1)
  | _ => rfl

theorem State.trouble_setTrouble_other {r q : TroubleReg} {v : Word} (h : s.Canonical) (hq : q ≠ r) :
    (s.setTrouble r v).trouble q = s.trouble q := by
  cases r with
  | stack k =>
    cases q with
    | stack j => exact congrArg Stack.trouble (State.stack_modStack_other h.memStacks.1 fun e => hq (by rw [e]))
    | _ => rfl
  | link k =>
    cases q with
    | link j => exact congrArg Link.trouble (State.link_modLink_other h.links.1 fun e => hq (by rw [e]))
    | _ => rfl
  | millpond k =>
    cases q with
    | millpond j => exact congrArg Millpond.trouble (State.pond_modPond_other h.ponds.1 fun e => hq (by rw [e]))
    | _ => rfl
  | hopper k =>
    cases q with
    | hopper j => exact congrArg Hopper.trouble (State.hopper_modHopper_other h.hoppers fun e => hq (by rw [e]))
    | _ => rfl
  | core k =>
    cases q with
    | core j => exact congrArg Core.trouble (State.core_modCore_other h.cores.1 fun e => hq (by rw [e]))
    | coreStream j =>
      by_cases e : j = k
      · subst e
        exact (congrArg Core.streamTrouble (State.core_modCore_self h.cores.1) :)
      · exact congrArg Core.streamTrouble (State.core_modCore_other h.cores.1 e)
    | _ => rfl
  | coreStream k =>
    cases q with
    | coreStream j => exact congrArg Core.streamTrouble (State.core_modCore_other h.cores.1 fun e => hq (by rw [e]))
    | core j =>
      by_cases e : j = k
      · subst e
        exact (congrArg Core.trouble (State.core_modCore_self h.cores.1) :)
      · exact congrArg Core.trouble (State.core_modCore_other h.cores.1 e)
    | _ => rfl
  | _ =>
    cases q with
    | stack | link | millpond | hopper | core | coreStream => rfl
    | _ => first | rfl | exact absurd rfl hq

/-- The record of a trouble bit touches no register. -/
theorem State.trouble_troubleRecord {a b : Nat} {v : Word} {x : Nat × Nat} {c : Nat} {q : TroubleReg} :
    (s.troubleRecord a b v x c).trouble q = s.trouble q := by
  cases q <;> rfl

/-- What a setting of a trouble register leaves as it is: the log and the wheel's position. -/
theorem State.setTrouble_log {r : TroubleReg} {v : Word} : (s.setTrouble r v).log = s.log ∧
    (s.setTrouble r v).logNext = s.logNext ∧ (s.setTrouble r v).now = s.now := by
  cases r <;> exact ⟨rfl, rfl, rfl⟩

/-! ## The log (R393) -/

theorem State.writeLog_getLast {e : LogEntry} (h : s.log.length ≤ 16384) : ∃ r, (s.writeLog e).log.getLast? = some r ∧
    r.number = s.logNext ∧ r.notch = s.now ∧ r.kind = e.kind ∧ r.scope = e.scope ∧ r.object = e.object ∧ r.context = e.context ∧
    r.address = e.address ∧ r.valueA = e.valueA ∧ r.valueB = e.valueB := by
  have hlast : (s.writeLog e).log.getLast? = some
      { number := s.logNext, notch := s.now, kind := e.kind, scope := e.scope, object := e.object, context := e.context,
        cause := e.cause, generation := if e.context < 64 then (s.context e.context).generation else 0, csn := e.csn,
        address := e.address, valueA := e.valueA, valueB := e.valueB } := by
    unfold State.writeLog
    dsimp only
    rw [List.getLast?_drop, if_neg (by simp)]
    simp
  exact ⟨_, hlast, rfl, rfl, rfl, rfl, rfl, rfl, rfl, rfl, rfl⟩

/-- A record that leaves the ring is its oldest one. -/
theorem State.mem_writeLog {e : LogEntry} {r : LogRecord} (h : s.log.length ≤ 16384) (hr : r ∈ s.log) :
    r ∈ (s.writeLog e).log ∨ (s.log.length = 16384 ∧ s.log.head? = some r) := by
  unfold State.writeLog
  dsimp only
  by_cases hn : s.log.length = 16384
  · rw [hn]
    cases hl : s.log with
    | nil => simp [hl] at hr
    | cons a l =>
      rw [hl] at hr
      rcases List.mem_cons.mp hr with rfl | hr
      · exact .inr ⟨rfl, rfl⟩
      · exact .inl (by simp [hr])
  · rw [show s.log.length + 1 - 16384 = 0 by omega]
    exact .inl (by simp [hr])

/-- Settles O44: the register, its record and the ring, one lemma each. -/
theorem troubleBitsAreRecorded : Obligations.TroubleBitsAreRecorded := by
  unfold Obligations.TroubleBitsAreRecorded
  refine ⟨?register, ?record, ?ring⟩
  case register =>
    intro s r q b c x h _
    unfold State.setTroubleBit
    rw [State.trouble_troubleRecord]
    split
    next e => rw [e]; exact State.trouble_setTrouble_self h
    next e => exact State.trouble_setTrouble_other h e
  case record =>
    intro s r b c x h
    obtain ⟨hlog, hnext, hnow⟩ := State.setTrouble_log (s := s) (r := r) (v := s.trouble r ||| BitVec.ofNat 32 (2 ^ b))
    unfold State.setTroubleBit State.troubleRecord
    rw [← hnext, ← hnow]
    obtain ⟨e, hlast, hnumber, hnotch, hkind, hscope, hobject, hcontext, haddress, hbit, hvalue⟩ := State.writeLog_getLast
      (s := { s.setTrouble r (s.trouble r ||| BitVec.ofNat 32 (2 ^ b)) with
        freshTrouble := (r.address, b) :: (s.setTrouble r (s.trouble r ||| BitVec.ofNat 32 (2 ^ b))).freshTrouble })
      (e := { kind := 1, scope := x.1, object := x.2, context := c, address := r.address, valueA := b,
              valueB := (s.trouble r ||| BitVec.ofNat 32 (2 ^ b)).toNat }) (by rw [hlog]; exact h.log.1)
    exact ⟨e, hlast, hnumber, hnotch, hkind, hscope, hobject, hcontext, haddress, hbit, hvalue⟩
  case ring =>
    intro s e h
    have hn := h.log.1
    refine ⟨rfl, ?_, fun r hr => State.mem_writeLog hn hr⟩
    unfold State.writeLog
    simp
    omega

/-! ## Fabric frames that are dropped (R431) -/

/-- A frame without a member to take it, or whose tag fails, is not heeded. -/
theorem State.heeds_false {ok : Bool} (h : ok = false ∨ s.fabric.member = false) : s.heeds ok = false := by
  unfold State.heeds
  rcases h with h | h <;> simp [h]

/-- What the port lets in goes to its row. -/
theorem State.through_in {s0 : State} {g : Option SecTag} {go : State → Out} (h : s0.letIn g = (s, true)) :
    s0.through g go = go s := by
  unfold State.through
  rw [h]
  rfl

/-- Settles O32: every row of a fabric frame asks first whether the module heeds it. -/
theorem badFabricFramesAreDropped : Obligations.BadFabricFramesAreDropped := by
  unfold Obligations.BadFabricFramesAreDropped
  intro s₀ s i ok g hin hbad hi
  have hdrop {b : Bool} (hb : b = ok) : (!s.heeds b) = true := by rw [hb, State.heeds_false hbad]; rfl
  rcases hi with ⟨b, rfl, hok, rfl⟩ | ⟨m, rfl | rfl | rfl, hok, rfl⟩ | ⟨a, rfl | rfl, hok, rfl⟩ | ⟨m, rfl | rfl, hok, rfl⟩ |
    ⟨h, n, p, c, y, rfl, rfl, hop⟩
  case inl =>
    change execBeaconReceived b s₀ = _
    unfold execBeaconReceived
    rw [State.through_in hin]
    exact if_pos (.inl (hdrop hok))
  case inr.inl.inl =>
    change execProbe m s₀ = _
    unfold execProbe
    rw [State.through_in hin]
    exact if_pos (hdrop hok)
  case inr.inl.inr.inl | inr.inl.inr.inr =>
    change execCommit m _ s₀ = _
    unfold execCommit
    rw [State.through_in hin]
    exact if_pos (hdrop hok)
  case inr.inr.inl.inl =>
    change execProbeAnswer a s₀ = _
    unfold execProbeAnswer
    rw [State.through_in hin]
    exact if_pos (hdrop hok)
  case inr.inr.inl.inr =>
    change execCommitAnswer a s₀ = _
    unfold execCommitAnswer
    rw [State.through_in hin]
    exact if_pos (hdrop hok)
  case inr.inr.inr.inl.inl =>
    change execCopyDestinationCheck m s₀ = _
    unfold execCopyDestinationCheck
    rw [State.through_in hin]
    exact if_pos (hdrop hok)
  case inr.inr.inr.inl.inr =>
    change execCopyPagePiece m s₀ = _
    unfold execCopyPagePiece
    rw [State.through_in hin]
    exact if_pos (hdrop hok)
  case inr.inr.inr.inr =>
    change execCopyAck h n p c y s₀ = _
    unfold execCopyAck
    rw [State.through_in hin]
    exact if_pos (hop.imp hdrop id)

/-! ## The link of the port (R360, R482, R483) -/

/-- The drop of a link, `was` telling whether it was up, once the medium is noted. -/
def State.portFalls (u : State) (was : Bool) : State :=
  let v := if was then u.setTroubleBit .port 0 else u
  let v := if v.lane0Missing (v.portWidthWith .on) then v.setTroubleBit .port 1 else v
  v.modDev fun d => { d with portUp := false, portWidth := if u.portWidthOn = 3 then 3 else d.portWidth, negotiated := false }

theorem exec_portLinkChange_up {n l : Bool} {m : Medium} (h : s.dev.state ≠ .off) (hu : u = { s with dev := s.dev.fitted m l })
    (hw : u.portWidthOn ≠ 3) : exec (.portLinkChange true m n l) s =
      .next (u.modDev fun d => { d with portUp := true, portWidth := u.portWidthOn, negotiated := n && d.medium == 1 }) := by
  subst hu
  change execPortLinkChange true m n l s = _
  unfold execPortLinkChange event
  dsimp only
  rw [if_pos (by simpa using h), if_pos ⟨rfl, hw⟩]
  rfl

theorem exec_portLinkChange_down {n l : Bool} {m : Medium} (h : s.dev.state ≠ .off) (hu : u = { s with dev := s.dev.fitted m l }) :
    exec (.portLinkChange false m n l) s = .next (u.portFalls s.dev.portUp) := by
  subst hu
  change execPortLinkChange false m n l s = _
  unfold execPortLinkChange event
  dsimp only
  rw [if_pos (by simpa using h), if_neg (by simp)]
  rfl

/-- A link that drops says so if it was up, and a medium that has no application on the only lane says that. -/
structure PortFell (s t : State) (was missing : Bool) : Prop where
  dev : ∃ w, t.dev = { s.dev with portUp := false, portWidth := w, negotiated := false }
  trouble : t.port.trouble = (s.port.trouble ||| if was then 1#32 else 0) ||| if missing then 2#32 else 0
  logNext : t.logNext = s.logNext + (if was then 1 else 0) + if missing then 1 else 0

theorem State.portFalls_fell {was : Bool} : PortFell u (u.portFalls was) was (u.lane0Missing (u.portWidthWith .on)) := by
  have lanes (b : Nat) : (u.setTroubleBit .port b).lane0Missing ((u.setTroubleBit .port b).portWidthWith .on) =
      u.lane0Missing (u.portWidthWith .on) := rfl
  unfold State.portFalls
  cases was
  · simp only [Bool.false_eq_true, if_false]
    cases u.lane0Missing (u.portWidthWith .on)
    · exact ⟨⟨_, rfl⟩, by simp, rfl⟩
    · exact ⟨⟨_, rfl⟩, by simp; rfl, rfl⟩
  · simp only [if_true, lanes]
    cases u.lane0Missing (u.portWidthWith .on)
    · exact ⟨⟨_, rfl⟩, by simp; rfl, rfl⟩
    · exact ⟨⟨_, rfl⟩, by simp; rfl, rfl⟩

/-- The only powered lane is the one of domain 75 alone, and the medium has no application there. -/
theorem State.lane0Missing_iff : u.lane0Missing (u.portWidthWith .on) = true ↔
    u.isOn 76 = false ∧ u.dev.medium ≠ 0 ∧ u.dev.lane0 = false := by
  have hd : ((u.domain 76).state == .on) = u.isOn 76 := by
    unfold State.isOn
    simp [beq_eq_decide]
  have h2 : (u.portWidthWith .on == 2) = !u.isOn 76 := by
    unfold State.portWidthWith
    dsimp only
    simp only [hd, Bool.or_self]
    cases u.isOn 76
    · rfl
    · simp only [Bool.not_true, Bool.false_eq_true, if_false]
      split <;> rfl
  unfold State.lane0Missing
  rw [h2]
  simp [and_assoc]

/-! ## What the port sends (R458) -/

theorem State.nextTag_secured {a : SecAssoc} (h : s.sec.transmits = some a) :
    s.nextTag = (s.modSec fun x => x.sent a, some { sci := a.sci, an := a.an, pn := a.nextPn }) := by
  unfold State.nextTag
  rw [h]

/-- The association that protects what is sent is one of the list. -/
theorem Security.transmits_mem {x : Security} {a : SecAssoc} (h : x.transmits = some a) : a ∈ x.assocs := by
  unfold Security.transmits at h
  split at h
  · exact List.mem_of_mem_filter (List.mem_of_getLast? h)
  · cases h

theorem Security.sent_mem {x : Security} {a : SecAssoc} (h : a ∈ x.assocs) : { a with nextPn := a.nextPn + 1 } ∈ (x.sent a).assocs :=
  List.mem_map.mpr ⟨a, h, if_pos rfl⟩

theorem State.putOut_down {o : OutFrame} (h : s.dev.portUp = false) : s.putOut o = s := by
  unfold State.putOut
  rw [h]
  rfl

theorem State.send_down {w : WireFrame} (h : s.dev.portUp = false) : s.send w = s := by
  unfold State.send
  rw [h]
  rfl

theorem State.putOut_clear {o : OutFrame} (h : s.Clear) : s.putOut o = { s with out := s.out ++ [o] } := by
  unfold State.putOut
  rw [if_pos h.up, State.nextTag_none h.clear]
  rfl

theorem State.send_clear {w : WireFrame} (h : s.Clear) : s.send w = { s with wire := s.wire ++ [w] } := by
  unfold State.send
  rw [if_pos h.up, State.nextTag_none h.clear]
  rfl

theorem State.putOut_secured {o : OutFrame} {a : SecAssoc} (hp : s.dev.portUp = true) (h : s.sec.transmits = some a) :
    s.putOut o = { s.modSec fun x => x.sent a with
      out := s.out ++ [{ o with secured := some { sci := a.sci, an := a.an, pn := a.nextPn } }] } := by
  unfold State.putOut
  rw [if_pos hp, State.nextTag_secured h]
  rfl

theorem State.send_secured {w : WireFrame} {a : SecAssoc} (hp : s.dev.portUp = true) (h : s.sec.transmits = some a) :
    s.send w = { s.modSec fun x => x.sent a with
      wire := s.wire ++ [.secured { sci := a.sci, an := a.an, pn := a.nextPn } w] } := by
  unfold State.send
  rw [if_pos hp, State.nextTag_secured h]
  rfl

/-- Settles O42: the two changes of the link, and what the port does with a frame. -/
theorem thePortFollowsItsLink : Obligations.ThePortFollowsItsLink := by
  unfold Obligations.ThePortFollowsItsLink
  refine ⟨?up, ?down, ?send⟩
  case up =>
    rintro s u m n l h hu hw
    rw [exec_portLinkChange_up h hu hw]
    subst hu
    rfl
  case down =>
    intro s u m n l h hu
    obtain ⟨⟨w, hdev⟩, htrouble, hnext⟩ := State.portFalls_fell (u := u) (was := s.dev.portUp)
    have hmissing := State.lane0Missing_iff (u := u)
    have hmedium : u.dev.medium = m.kind % 3 ∧ u.dev.lane0 = l ∧ u.dev.state = s.dev.state ∧ u.port.trouble = s.port.trouble ∧
        u.logNext = s.logNext := by
      subst hu
      exact ⟨rfl, rfl, rfl, rfl, rfl⟩
    obtain ⟨hkind, hlane, hstate, hport, hlog⟩ := hmedium
    rw [hkind, hlane] at hmissing
    refine ⟨_, exec_portLinkChange_down h hu, by rw [hdev], by rw [hdev], by rw [hdev]; exact hkind, by rw [hdev]; exact hstate, ?_, ?_⟩
    · intro hk hl ho
      rw [htrouble, hmissing.mpr ⟨ho, hk, hl⟩, hport, if_pos rfl, BitVec.or_assoc, BitVec.or_comm _ 2#32, ← BitVec.or_assoc]
    · intro hno
      have hf : u.lane0Missing (u.portWidthWith .on) = false := by
        rw [← Bool.not_eq_true, hmissing]
        rintro ⟨ho, hk, hl⟩
        rcases hno with h | h | h
        · exact hk h
        · rw [hl] at h; cases h
        · rw [ho] at h; cases h
      rw [htrouble, hnext, hf, hport, hlog]
      simp
  case send =>
    intro s o w
    refine ⟨fun h => ⟨State.putOut_down h, State.send_down h⟩, fun h => ⟨State.putOut_clear h, State.send_clear h⟩, fun a hp ha => ?_⟩
    rw [State.putOut_secured hp ha, State.send_secured hp ha]
    exact ⟨rfl, rfl, rfl, Security.sent_mem (Security.transmits_mem ha)⟩

end Sys2Proof.Machine
end

section
/-! PROOFS. The wheel and its sources: PTP (R32), 1PPS and REFCLK (R33, R34), the wheel's states (R36 to R40, R43). -/

namespace Sys2Proof.Machine

variable {s t u : State} {f : Frame} {n : Nat}

/-! ## Events -/

theorem event_true {b : Bool} (h : b = true) : event b s t = .next t := by
  subst h
  rfl

theorem event_false {b : Bool} (h : b = false) : event b s t = .next s := by
  subst h
  rfl

/-! ## A measured offset (R36 to R38) -/

/-- A wheel that is UNSET is stepped to the time of the first source that it names. -/
theorem State.measured_unset {c x : Nat} {o : Int} (hw : s.wheel.state = .unset) (hn : s.names c = true) :
    s.measured c o x = (s.acquire c).placeFine x := by
  unfold State.measured
  simp only [hn, hw]
  rfl

/-- A source that the wheel does not name gives it nothing. -/
theorem State.measured_unnamed {c x : Nat} {o : Int} (hn : s.names c = false) : s.measured c o x = s := by
  unfold State.measured
  rw [hn]
  rfl

/-- The source in use disciplines a LOCKED wheel. -/
theorem State.measured_locked {c x : Nat} {o : Int} (hw : s.wheel.state = .locked) (hn : s.names c = true)
    (hu : s.wheel.inUse = some c) : s.measured c o x = s.discipline o := by
  unfold State.measured
  simp [hn, hw, hu]

/-- An offset within 1,024 notches changes the servo and its bound, and steps nothing. -/
theorem State.discipline_near {o : Int} (h : 1048576 * o.natAbs ≤ 1024000000000) : s.discipline o =
    s.modWheel fun w => { w with
      offset := Config.servoFilter s.wheel.offset o
      freqAdj := clampRate (Config.servoRate (Config.servoFilter s.wheel.offset o))
      slewing := decide (Config.servoFilter s.wheel.offset o ≠ 0)
      inBandSince := if (Config.servoFilter s.wheel.offset o).natAbs ≤ 200 then some (w.inBandSince.getD s.uptime) else none
      errorBound := if w.state = .locked then w.boundOf (Config.servoFilter s.wheel.offset o) else w.errorBound } := by
  have h1 : beyondNotches 1024 o = false := by
    unfold beyondNotches
    simp
    omega
  have h2 : beyondNotches 65536 o = false := by
    unfold beyondNotches
    simp
    omega
  unfold State.discipline
  rw [h1, h2]
  simp

/-! ## PTP (R32) -/

theorem execPtpSync_in {m : SyncMsg} {s0 : State} (hin : s0.letIn m.head.secured = (s, true)) :
    exec (.ptpSync m) s0 = event (s.selects m.head && acceptedInterval m.head.logInterval) s
      (if m.twoStep then
        (s.modWheel fun w => { w with lastSync := some s.uptime, syncInterval := m.head.logInterval }).modWheel fun w =>
          { w with awaitedFollowUp := some m.head.sequence }
       else (s.modWheel fun w => { w with lastSync := some s.uptime, syncInterval := m.head.logInterval }).syncTime m.offset
         m.sourceTime) := by
  change execPtpSync m s0 = _
  unfold execPtpSync
  rw [State.through_in hin]

theorem acceptedInterval_of {l : Int} (h1 : -7 ≤ l) (h2 : l ≤ 1) : acceptedInterval l = true := by
  unfold acceptedInterval
  simp [h1, h2]

/-- The first message sets an UNSET wheel. -/
theorem State.syncTime_unset {o : Int} {x : Nat} (hw : s.wheel.state = .unset) (hn : s.names 0 = true) : s.syncTime o x =
    ((s.modWheel fun w => { w with
      ptpValid := true, ptpValidSince := if w.ptpValid then w.ptpValidSince else s.uptime, seconds := some (x - s.uptime)
      awaitedFollowUp := none }).acquire 0).placeFine (2 ^ 32 * (x : Int) + fineOf s.wheel.correction).toNat := by
  unfold State.syncTime
  dsimp only
  rw [if_neg (by intro h; exact h.2.2 hw)]
  exact State.measured_unset (by exact hw) (by exact hn)

/-- A wheel set to the time `n`, in units of 2^-32 notch, by PTP. -/
structure SetTo (s : State) (n : Nat) (t : State) : Prop where
  state : t.wheel.state = .acquiring
  position : t.wheel.position = n / 4294967296 % 2 ^ 64
  fraction : t.wheel.fraction.toNat = n % 4294967296
  ptpValid : t.wheel.ptpValid = true
  lastSync : t.wheel.lastSync = s.wheel.lastSync
  awaited : t.wheel.awaitedFollowUp = none
  frame : t = { s with wheel := t.wheel, contexts := t.contexts, power := t.power }

theorem State.placeFine_setTo {w : Wheel} (hw : w.state = .acquiring) (hv : w.ptpValid = true) (hl : w.lastSync = s.wheel.lastSync)
    (ha : w.awaitedFollowUp = none) : SetTo s n (({ s with wheel := w } : State).placeFine n) := by
  refine ⟨hw, rfl, rfl, hv, hl, ha, ?_⟩
  unfold State.placeFine
  rw [State.placeWheel_frame]

theorem State.syncTime_setTo {o : Int} {x : Nat} (hw : s.wheel.state = .unset) (hn : s.names 0 = true)
    (hx : (4294967296 * x + fineOf s.wheel.correction : Int) = n) : SetTo s n (s.syncTime o x) := by
  have hx' : (2 ^ 32 * (x : Int) + fineOf s.wheel.correction).toNat = n := by omega
  rw [State.syncTime_unset hw hn, hx']
  exact State.placeFine_setTo rfl rfl rfl rfl

/-- Only the selected transmitter is heeded: another than it is not. -/
theorem State.selects_other {h : PtpHead} (hf : s.isFollower = false) (ht : s.wheel.transmitter ≠ some h.transmitter) :
    s.selects h = false := by
  unfold State.selects
  simp [hf, ht]

theorem State.hears_of_selects {h : PtpHead} (hs : s.selects h = true) : s.hears h = true := by
  unfold State.selects at hs
  exact (Bool.and_eq_true_iff.mp hs).1

theorem execPtpAnnounce_heard {m : AnnounceMsg} {s0 : State} (hin : s0.letIn m.head.secured = (s, true)) (hh : s.hears m.head = true)
    (h1 : -7 ≤ m.head.logInterval) (h2 : m.head.logInterval ≤ 1) :
    exec (.ptpAnnounce m) s0 = .next (if (s.announced m).selects m.head then
      (s.announced m).modWheel fun w => { w with seconds := some (2 ^ 20 * m.seconds - s.uptime) } else s.announced m) := by
  change execPtpAnnounce m s0 = _
  unfold execPtpAnnounce
  rw [State.through_in hin]
  exact event_true (by rw [hh, acceptedInterval_of h1 h2]; rfl)

/-- A transmitter as its Announce message leaves it. -/
def announcedClock (m : AnnounceMsg) (now : Nat) (before : Option Nat) : ForeignClock :=
  { transmitter := m.head.transmitter, clock := m.clock, interval := m.head.logInterval, heard := now, before := before }

/-- With no transmitter that counts none is elected. -/
theorem Wheel.elected_none {w : Wheel} (h : w.foreign.filter ForeignClock.qualified = []) : w.elected = w := by
  unfold Wheel.elected Wheel.bestForeign
  rw [h]
  rfl

/-- The only one that counts is elected. -/
theorem Wheel.elected_one {w : Wheel} {x : ForeignClock} (h : w.foreign.filter ForeignClock.qualified = [x])
    (ht : w.transmitter = none) : w.elected = { w with transmitter := some x.transmitter, awaitedFollowUp := none } := by
  unfold Wheel.elected Wheel.bestForeign
  rw [h]
  simp [ht]

/-- Of two that count the better one is elected. -/
theorem Wheel.elected_two {w : Wheel} {x y : ForeignClock} (h : w.foreign.filter ForeignClock.qualified = [x, y]) :
    w.elected.transmitter = some (if y.better x = true then y.transmitter else x.transmitter) := by
  have hb : w.bestForeign = some (if y.better x = true then y else x) := by
    unfold Wheel.bestForeign
    rw [h]
    simp only [List.foldl_cons, List.foldl_nil]
    split <;> rfl
  rw [← apply_ite ForeignClock.transmitter]
  revert hb
  generalize (if y.better x = true then y else x) = z
  intro hb
  unfold Wheel.elected
  rw [hb]
  dsimp only
  split
  · assumption
  · rfl

theorem State.announced_wheel {m : AnnounceMsg} {w : Wheel} (hf : s.isFollower = false)
    (hw : (s.wheel.announced m s.uptime).elected = w) : s.announced m = { s with wheel := w } := by
  unfold State.announced
  rw [hf, ← hw]
  rfl

theorem ForeignClock.better_other {x y : ForeignClock} (h : x.clock.grandmaster ≠ y.clock.grandmaster) :
    x.better y = lexBefore
      [x.clock.priority1, x.clock.clockClass, x.clock.accuracy, x.clock.variance, x.clock.priority2, x.clock.grandmaster]
      [y.clock.priority1, y.clock.clockClass, y.clock.accuracy, y.clock.variance, y.clock.priority2, y.clock.grandmaster] := by
  unfold ForeignClock.better
  dsimp only
  rw [if_neg h]

/-- Settles O27: the rows of the messages, and the election. -/
theorem timeMessagesReachTheWheel : Obligations.TimeMessagesReachTheWheel := by
  unfold Obligations.TimeMessagesReachTheWheel
  refine ⟨?twoStep, ?oneStep, ?other, ?followUp, ?first, ?second, ?elected, ?better, ?delay⟩
  case twoStep =>
    intro m s₀ s hin hs h1 h2 ht
    rw [execPtpSync_in hin, event_true (by rw [hs, acceptedInterval_of h1 h2]; rfl), if_pos ht]
    rfl
  case oneStep =>
    intro m s₀ s n hin hs h1 h2 ht hw hn hx
    obtain ⟨hstate, hposition, hfraction, hvalid, hlast, -, hframe⟩ := State.syncTime_setTo (o := m.offset)
      (s := s.modWheel fun w => { w with lastSync := some s.uptime, syncInterval := m.head.logInterval }) (by exact hw) (by exact hn) hx
    refine ⟨_, ?_, hstate, hposition, hfraction, hvalid, hlast, hframe⟩
    rw [execPtpSync_in hin, event_true (by rw [hs, acceptedInterval_of h1 h2]; rfl), if_neg (by simp [ht])]
  case other =>
    intro m s₀ s hin hf ht
    rw [execPtpSync_in hin, event_false (by rw [State.selects_other hf ht]; rfl)]
  case followUp =>
    intro h n x off s₀ s hin hs ha hw hn hx
    have he : exec (.ptpFollowUp h off n) s₀ = .next (s.syncTime off n) := by
      change execPtpFollowUp h off n s₀ = _
      unfold execPtpFollowUp
      rw [State.through_in hin]
      exact event_true (by simp [hs, ha])
    obtain ⟨hstate, hposition, -, hvalid, -, hawaited, hframe⟩ := State.syncTime_setTo (o := off) hw hn hx
    exact ⟨_, he, hstate, hposition, hvalid, hawaited, hframe⟩
  case first =>
    intro m s₀ s hin hh h1 h2 hf hl ht
    have ha : s.announced m = { s with wheel := { s.wheel with foreign := [announcedClock m s.uptime none] } } := by
      refine State.announced_wheel hf ?_
      unfold Wheel.announced
      rw [hl]
      exact Wheel.elected_none (by simp [ForeignClock.qualified, announcedClock])
    rw [execPtpAnnounce_heard hin hh h1 h2, ha, State.selects_other (by exact hf) (by simp [ht])]
    rfl
  case second =>
    intro m s₀ s x y hin hh h1 h2 hf hl hx hc ht hy hw
    have hq : y.qualified = true := by
      unfold ForeignClock.qualified
      rw [hy] at hw ⊢
      simp [hc, hw]
    have ha : s.announced m = { s with wheel := { s.wheel with
        foreign := [y], transmitter := some m.head.transmitter, awaitedFollowUp := none } } := by
      refine State.announced_wheel hf ?_
      have hforeign : s.wheel.announced m s.uptime = { s.wheel with foreign := [y] } := by
        unfold Wheel.announced
        simp [hl, hx, hy]
      have hone : List.filter ForeignClock.qualified (s.wheel.announced m s.uptime).foreign = [y] := by
        rw [hforeign]
        simp [hq]
      rw [Wheel.elected_one hone (by rw [hforeign]; exact ht), hforeign, hy]
    have hsel : (s.announced m).selects m.head = true := by
      rw [ha]
      unfold State.selects
      rw [Bool.and_eq_true]
      exact ⟨hh, by simp⟩
    rw [execPtpAnnounce_heard hin hh h1 h2, hsel, ha]
    rfl
  case elected =>
    intro w x y hl hx hy
    exact Wheel.elected_two (by simp [hl, hx, hy])
  case better =>
    intro x y h
    rw [ForeignClock.better_other h]
    refine ⟨fun h1 => ?_, fun h1 h2 => ?_, fun h1 => ?_⟩
    · simp [lexBefore, h1]
    · simp [lexBefore, h1, h2]
    · simp [lexBefore]
      omega
  case delay =>
    intro m s₀ s hin hp hs
    change execPtpDelayResp m s₀ = _
    unfold execPtpDelayResp
    rw [State.through_in hin]
    exact event_true (by simp [hp, hs, State.hears_of_selects hs])

end Sys2Proof.Machine
end

section
/-! PROOFS. Edges of 1PPS and REFCLK (R31 to R34, R437), and the states of the wheel (R37 to R43). -/

namespace Sys2Proof.Machine

variable {s t u : State} {f : Frame} {n : Nat}

/-! ## Edges (R33, R34, R437) -/

/-- An edge near its prediction, once it is noted. -/
def State.edgeNoted (s : State) : State :=
  s.modWheel fun w =>
    { w with lastPps := some s.uptime, lastValidPps := some s.uptime, ppsRun := w.ppsRun + 1,
             ppsValid := !w.ppsLost || decide (4 ≤ w.ppsRun + 1), ppsLost := w.ppsLost && !(!w.ppsLost || decide (4 ≤ w.ppsRun + 1)),
             ppsValidSince := if w.ppsValid then w.ppsValidSince else s.uptime }

theorem exec_ppsEdge_far {p o : Int} (hl : s.wheel.lastPps.isSome = true) (hp : 1000 < p.natAbs) : exec (.ppsEdge p o) s =
    .next ((s.modWheel fun w => { w with lastPps := some s.uptime, ppsValid := false, ppsRun := 0 }).setTroubleBit .wheel 2) := by
  change execPpsEdge p o s = _
  unfold execPpsEdge
  dsimp only
  rw [if_neg (by cases h : s.wheel.lastPps <;> simp [h] at hl ⊢), if_pos hp]

theorem exec_ppsEdge_near {p o : Int} (hl : s.wheel.lastPps.isSome = true) (hp : p.natAbs ≤ 1000) (hf : s.isFollower = false) :
    exec (.ppsEdge p o) s = .next (if s.edgeNoted.wheel.ppsValid then s.edgeNoted.measured 1 o (2 ^ 32 * s.edgeNoted.edgeTime)
      else s.edgeNoted) := by
  change execPpsEdge p o s = _
  unfold execPpsEdge
  dsimp only
  rw [if_neg (by cases h : s.wheel.lastPps <;> simp [h] at hl ⊢), if_neg (by omega)]
  have hf' : s.edgeNoted.isFollower = false := hf
  change Host.Outcome.next (if s.edgeNoted.wheel.ppsValid = true then s.edgeNoted.measured (if (s.edgeNoted.isFollower && _) = true then 0 else 1) o
    (2 ^ 32 * s.edgeNoted.edgeTime) else s.edgeNoted) = _
  rw [hf']
  rfl

/-- Settles O28: the rows of the edges, and what goes out. -/
theorem edgesAreJudgedAndGiven : Obligations.EdgesAreJudgedAndGiven := by
  unfold Obligations.EdgesAreJudgedAndGiven
  refine ⟨?first, ?far, ?unnamed, ?used, ?timeout, ?inRange, ?outOfRange, ?rise, ?fall, ?head⟩
  case first =>
    intro p o s h
    change execPpsEdge p o s = _
    unfold execPpsEdge
    dsimp only
    rw [if_pos (by rw [h]; rfl)]
    rfl
  case far =>
    intro p o s hl hp
    exact ⟨_, exec_ppsEdge_far hl hp, rfl, rfl, rfl, rfl, rfl⟩
  case unnamed =>
    intro p o s hl hp hn hf
    have he : exec (.ppsEdge p o) s = .next s.edgeNoted := by
      rw [exec_ppsEdge_near hl hp hf]
      split
      · rw [State.measured_unnamed (by exact hn)]
      · rfl
    refine ⟨_, he, rfl, ?_, rfl, rfl, rfl, rfl⟩
    change (s.wheel.ppsLost && !(!s.wheel.ppsLost || decide (4 ≤ s.wheel.ppsRun + 1))) = _
    cases s.wheel.ppsLost
    · rfl
    · simp only [Bool.not_true, Bool.false_or, Bool.true_and, ← decide_not, Nat.not_le]
  case used =>
    intro p o f s hl hp hn hf hu hw hlost hnear hfilter
    have hvalid : s.edgeNoted.wheel.ppsValid = true := by
      change (!s.wheel.ppsLost || decide (4 ≤ s.wheel.ppsRun + 1)) = true
      rw [hlost]
      rfl
    have hd := State.discipline_near (s := s.edgeNoted) hnear
    have hstate : s.edgeNoted.wheel.state = .locked := hw
    have he : exec (.ppsEdge p o) s = .next (s.edgeNoted.discipline o) := by
      rw [exec_ppsEdge_near hl hp hf, if_pos hvalid, State.measured_locked hstate (by exact hn) (by exact hu)]
    rw [hd] at he
    refine ⟨_, he, hvalid, rfl, hfilter.symm, ?_, ?_, hw, rfl, rfl⟩
    · rw [hfilter]
      rfl
    · rw [hfilter]
      exact if_pos hstate
  case timeout =>
    intro n s h hn
    change execPpsEdgeTimeout s = _
    unfold execPpsEdgeTimeout
    rw [h]
    exact event_true (by simpa using hn)
  case inRange =>
    intro s
    rfl
  case outOfRange =>
    intro s
    exact ⟨_, rfl, rfl, rfl, rfl⟩
  case rise =>
    intro s h1 h2 h3
    exact event_true (by simp [h1, h2, State.now, h3])
  case fall =>
    intro s h1 h2
    exact event_true (by rw [h1]; exact decide_eq_true h2)
  case head =>
    intro s hc hr hs
    have hgo : (s.fabric.role == 1 && (match s.fabric.syncSent with
        | some t => decide (2 ^ 16 + t ≤ s.uptime) | none => true)) = true := by
      rw [hr]
      cases h : s.fabric.syncSent with
      | none => rfl
      | some n => simpa using hs n h
    change execCascadeSyncSend s = _
    unfold execCascadeSyncSend
    rw [event_true (by exact hgo), State.send_clear (s := s.modFabric _) ⟨hc.up, hc.clear⟩,
      State.send_clear (s := { s.modFabric _ with wire := _ }) ⟨hc.up, hc.clear⟩]
    change Host.Outcome.next _ = _
    rw [List.append_assoc]
    rfl

/-! ## The states of the wheel (R37 to R43) -/

theorem bodyTimeSource_done {p : List Byte} (hp : f.payload = p) (hb : badSource (le p 0 4) (le p 4 4) (signed 32 (le p 8 4)) = none)
    (hu : badUnicast (le p 4 4) (slice p 12 16) = false) (hl : legal f.opcode.toNat f.context.toNat u = none) :
    bodyTimeSource f u = .reply {} (u.setSource
      { cfg := le p 0 4, ptp := le p 4 4, asymmetry := signed 32 (le p 8 4), unicast := slice p 12 16 }) := by
  subst hp
  unfold bodyTimeSource
  dsimp only
  rw [checked_none (by rw [hb]; rfl), checked_when hu, checked_none hl]
  rfl

/-- A wheel under a new configuration; new PTP settings select a new time transmitter. -/
def Wheel.configured (w : Wheel) (c : SourceConfig) : Wheel :=
  let same := w.ptpCfg = c.ptp % 2 ^ 12 ∧ w.unicastAddress = c.unicast
  { w with nextSource := none,
           first := bits c.cfg 1 0, second := bits c.cfg 3 2, useRefclk := bit c.cfg 4, ppsOut := bit c.cfg 5,
           domain := bits c.ptp 7 0, transport := bits c.ptp 9 8, peerDelay := bit c.ptp 10, unicast := bit c.ptp 11,
           asymmetry := c.asymmetry, unicastAddress := c.unicast,
           transmitter := if same then w.transmitter else none, foreign := if same then w.foreign else [], ptpValid := w.ptpValid && same }

/-- A wheel whose bound follows the asymmetry. -/
def Wheel.rebound (w : Wheel) : Wheel := { w with errorBound := w.boundOf w.offset }

/-- The state with a new configuration, before its sources are asked again. -/
def State.configured (s : State) (c : SourceConfig) : State :=
  let s := s.modWheel fun w => w.configured c
  if s.wheel.state = .locked then s.modWheel Wheel.rebound else s

/-- What holds of the wheel once a configuration is set. -/
structure Configured (c : SourceConfig) (s t : State) : Prop where
  nextSource : t.wheel.nextSource = none
  order : t.wheel.first = c.cfg % 4 ∧ t.wheel.second = c.cfg / 4 % 4
  settings : t.wheel.domain = c.ptp % 256 ∧ t.wheel.asymmetry = c.asymmetry ∧ t.wheel.unicastAddress = c.unicast
  position : t.wheel.position = s.wheel.position
  rest : t.mem = s.mem ∧ t.contexts = s.contexts

theorem State.configured_sets {c : SourceConfig} : Configured c s (s.configured c) := by
  have base : Configured c s (s.modWheel fun w => w.configured c) :=
    ⟨rfl, by simp [Wheel.configured, bits], ⟨by simp [Wheel.configured, bits], rfl, rfl⟩, rfl, rfl, rfl⟩
  unfold State.configured
  dsimp only
  split
  · obtain ⟨h1, h2, h3, h4, h5⟩ := base
    exact ⟨h1, h2, h3, h4, h5⟩
  · exact base

/-- Asking the sources again changes nothing that the configuration set. -/
theorem Configured.same {c : SourceConfig} {v : State} (h : Configured c s v) (k : SameTransmitter v t) : Configured c s t := by
  obtain ⟨_, _, _, _, hframe⟩ := k.frame
  refine ⟨k.nextSource.trans h.nextSource, ⟨k.order.1.trans h.order.1, k.order.2.trans h.order.2⟩,
    ⟨k.settings.1.trans h.settings.1, k.settings.2.1.trans h.settings.2.1, k.settings.2.2.trans h.settings.2.2⟩,
    k.position.trans h.position, ?_⟩
  rw [hframe]
  exact h.rest

theorem State.applySource_same {c : SourceConfig} (h : s.wheel.nextSource = some c) :
    SameTransmitter (s.configured c) s.applySource := by
  have e : s.applySource = match (s.configured c).wheel.inUse with
      | some d => if (s.configured c).names d then s.configured c else (s.configured c).loseSource
      | none =>
        match [(s.configured c).wheel.first, (s.configured c).wheel.second].find? fun d =>
            (s.configured c).names d && (s.configured c).wheel.valid d with
        | some d => if (s.configured c).wheel.state = .unset ∨ ((s.configured c).wheel.state = .free ∧ (s.configured c).heldFree)
            then s.configured c else (s.configured c).acquire d
        | none => s.configured c := by
    unfold State.applySource
    rw [h]
    rfl
  rw [e]
  generalize s.configured c = v
  split
  · split
    · exact .refl
    · exact State.loseSource_same
  · split
    · split
      · exact .refl
      · exact State.acquire_same
    · exact .refl

/-- A LOCKED wheel whose only source is lost goes into HOLDOVER. -/
theorem State.loseSource_holdover {c : Nat} (hu : s.wheel.inUse = some c) (hn : s.names (1 - c) = false) (hc : c ≠ 1)
    (hw : s.wheel.state = .locked) : s.loseSource = s.holdover s.wheel.errorBound s.uptime s.wheel.learned := by
  unfold State.loseSource
  dsimp only
  rw [hu]
  dsimp only
  rw [if_neg hc, hn, hw]
  exact if_neg (by simp)

/-- Settles O29: one lemma of the model's per row. -/
theorem wheelStatesFollowTheirSources : Obligations.WheelStatesFollowTheirSources := by
  unfold Obligations.WheelStatesFollowTheirSources
  refine ⟨?source, ?apply, ?set, ?bound, ?locked, ?learned, ?lost, ?limit, ?back⟩
  case source =>
    intro f s u c p h hp hb hu hl
    exact h.handles (by decide) (by decide) (fun _ => rfl) ((h.middle (by decide) (by decide)).trans
      (bodyTimeSource_done hp hb hu (by rw [h.delivered.opcode]; exact hl)))
  case apply =>
    rintro s _ c h rfl
    obtain ⟨hnext, ⟨hfirst, hsecond⟩, ⟨hdomain, hasym, haddr⟩, hpos, hmem, hctx⟩ :=
      State.configured_sets.same (State.applySource_same h)
    exact ⟨hnext, hfirst, hsecond, hasym, haddr, hdomain, hpos, hmem, hctx⟩
  case set =>
    intro f s u c n h hn hlt hl hw
    exact ⟨_, h.handles (by decide) (by decide) (fun _ => rfl) ((h.middle (by decide) (by decide)).trans
      (bodyTimeSet_unset (by omega) h.delivered.opcode hl hw)), rfl, rfl, rfl⟩
  case bound =>
    rintro s _ hw rfl
    unfold State.errorBound
    rw [if_pos hw]
    simp only [ceilDiv, State.holdSeconds, if_pos hw]
    rfl
  case locked =>
    intro n s hw hb hn
    change execWheelLocked s = _
    unfold execWheelLocked
    dsimp only
    refine event_true ?_
    rw [hw, hb, Bool.and_eq_true]
    exact ⟨rfl, decide_eq_true hn⟩
  case learned =>
    intro n s hw hb hn
    change execWheelLearned s = _
    unfold execWheelLearned
    dsimp only
    refine event_true ?_
    rw [hw, hb, Bool.and_eq_true]
    exact ⟨rfl, decide_eq_true hn⟩
  case lost =>
    intro s hw hs hp hf hn
    have hu : s.wheel.inUse = some 0 := by
      unfold Wheel.inUse
      rw [hs]
      rfl
    have he : exec .sourceLost s = .next ((s.modWheel fun w => { w with ptpValid := w.ptpValid && !s.ptpSilent }).holdover
        s.wheel.errorBound s.uptime s.wheel.learned) := by
      change execSourceLost s = _
      unfold execSourceLost
      dsimp only
      rw [hu, if_pos (by exact hp)]
      exact congrArg _ (State.loseSource_holdover (c := 0) (by exact hu) (by exact hn) (by decide) (by exact hw))
    exact ⟨_, he, rfl, rfl, by change (_ && !s.ptpSilent) = false; rw [hp]; simp, rfl, rfl, rfl, rfl, rfl⟩
  case limit =>
    intro s hw hl
    have he : exec .holdLimitExceeded s = .next (s.runFree.setTroubleBit .wheel 1) := event_true (by simp [hw, hl])
    exact ⟨_, he, rfl, rfl, rfl, rfl⟩
  case back =>
    intro s hf h1 h2 hv hn
    have hu : s.wheel.inUse = some 1 := by
      unfold Wheel.inUse
      rw [h2]
      rfl
    have hok : s.wheel.valid 0 = true := hv
    have he : exec .sourcePriorityReturn s = .next (s.acquire 0) := by
      change execSourcePriorityReturn s = _
      unfold execSourcePriorityReturn
      dsimp only
      rw [h1]
      exact event_true (by simpa [hf, hu, hok] using hn)
    refine ⟨_, he, rfl, ?_, rfl, rfl⟩
    change s.sourceCode 0 = 1
    unfold State.sourceCode
    rw [hf]
    rfl

end Sys2Proof.Machine
end

section
/-! PROOFS. Firmware slots, the operator table and MACsec associations (R420, R447 to R453, R458). -/

namespace Sys2Proof.Machine

variable {s t u : State} {f : Frame} {op : Nat} {r : Reply} {i : Instr}

/-! ## A family after a change of all its entries -/

theorem sget_smap {β : Type} [DecidableEq β] {d : β} {m : Sparse β} {g : Nat → β → β} {k : Nat} (hm : swf d m = true)
    (hg : g k d = d) : sget d (smap d g m) k = g k (sget d m k) := by
  have hmem {x : β} : (k, x) ∈ m ↔ x ≠ d ∧ sget d m k = x := mem_iff_sget hm
  by_cases hd : g k (sget d m k) = d
  · rw [hd]
    by_contra hne
    obtain ⟨x, hx, e⟩ := mem_smap ((mem_iff_sget (swf_smap hm)).mpr ⟨hne, rfl⟩)
    rw [← (hmem.mp hx).2] at e
    exact hne (e.trans hd)
  · have hx : sget d m k ≠ d := fun e => hd (by rw [e, hg])
    have hs : (k, g k (sget d m k)) ∈ smap d g m :=
      List.mem_filter.mpr ⟨List.mem_map.mpr ⟨_, hmem.mpr ⟨hx, rfl⟩, rfl⟩, decide_eq_true hd⟩
    exact ((mem_iff_sget (swf_smap hm)).mp hs).2

/-! ## An effect on sessions -/

/-- A command with an immediate effect that may reach into sessions: the effect stands, and the reply waits for the journal. -/
theorem Delivered.runs_effect {v : Sparse Session → State} (h : Delivered op f s)
    (hi : ∀ s0 : State, exec i s0 = .next (s0.receiveAs op f)) (hc : catalogue.contains op = true) (hj : journalsEffect op = true)
    (hr : r.status = Status.done ∧ r.zero = false)
    (hb : ∀ l, NotedIn f s l → body f f.session.toNat (sget {} l f.session.toNat) { s with sessions := l } = .reply r (v l))
    (hv : ∀ l, NotedIn f s l → (v l).journal = s.journal ∧ (v l).uptime = s.uptime ∧ ((v l).session f.session.toNat).held = []) :
    ∃ l, NotedIn f s l ∧ Runs i f s { v l with
      journal := s.journal.awaits s.uptime f.session.toNat f.number.toNat f.opcode.toNat r } := by
  obtain ⟨hjour, hup, hheld⟩ := hv _ h.notedIn
  refine ⟨_, h.notedIn, fun s0 h0 => ?_⟩
  have hb' : body f f.session.toNat ((s.noted f).session f.session.toNat) (s.noted f) = .reply r (v (s.noted f).sessions) :=
    hb _ h.notedIn
  have hawaits : (v (s.noted f).sessions).journal.awaits (v (s.noted f).sessions).uptime f.session.toNat f.number.toNat op r =
      s.journal.awaits s.uptime f.session.toNat f.number.toNat f.opcode.toNat r := by rw [hjour, hup, h.opcode]
  rw [hi, h.received h0 hc (journalsEffect_hello hj), hb', State.answer_effect hr.1 hr.2 hj hheld, hawaits]

/-! ## Firmware slots (R447 to R452) -/

/-- What FW.STATUS shows. -/
def Security.statusBytes (x : Security) : List Byte :=
  leBytes 1 x.running ++ leBytes 1 x.staged ++ leBytes 1 x.rollback ++ zeros 1 ++ leBytes 4 x.writePosition ++
    leBytes 4 x.runningVersion ++ leBytes 4 (if x.staged = 0 then 0 else imageVersion x.other.image) ++ leBytes 4 x.reason

theorem bodyFwStatus_done (hl : legalDevice 0x1001 u = none) : bodyFwStatus u = .reply { data := u.sec.statusBytes } u := by
  unfold bodyFwStatus
  dsimp only
  rw [checked_none hl]
  rfl

/-- The slots after FW.WRITE of `data` at `o`. -/
def Security.written (x : Security) (o n held now : Nat) (data : List Byte) : Security :=
  { x.setOther (x.other.write o data) with
    staged := 1, writePosition := o + n, reason := 0, programBuffer := held + n, programAt := now }

theorem bodyFwWrite_done {o n : Nat} (ho : le f.payload 0 4 = o) (hn : le f.payload 4 4 = n) (h0 : 0 < n) (h1 : n ≤ 8192)
    (hp : o = 0 ∨ o = u.sec.writePosition) (hs : o + n ≤ 8388608) (hl : legalDevice 0x1002 u = none) (hst : u.sec.staged ≠ 2)
    (hr : u.programHeld + n ≤ 65536) : bodyFwWrite f u =
      .reply {} (u.modSec fun x => x.written o n u.programHeld u.uptime (slice f.payload 8 n)) := by
  subst ho hn
  unfold bodyFwWrite
  dsimp only
  rw [zeroField_false (decide_eq_false (by omega)), checked_when (decide_eq_false (by unfold slotBytes; omega)),
    checked_when (decide_eq_false (by unfold slotBytes; omega)), checked_none hl, checked_when (decide_eq_false (by omega)),
    checked_when (decide_eq_false (by unfold programRoom; omega))]
  rfl

theorem bodyFwActivate_done (hl : legalDevice 0x1003 u = none) (h0 : u.sec.staged ≠ 0) (h2 : u.sec.staged ≠ 2)
    (hp : u.sec.writePosition = imageLength u.sec.other.image) :
    bodyFwActivate u = .reply {} (u.modSec fun x => { x with staged := 2 }) := by
  unfold bodyFwActivate
  dsimp only
  rw [checked_none hl, checked_when (by simp [h0, h2, hp])]
  rfl

/-- The slot that runs stays as it is, and the other one holds what was written. -/
theorem Security.written_slots {x : Security} {o n held now : Nat} {data : List Byte} :
    (x.running = 0 → (x.written o n held now data).slotA = x.slotA) ∧
    (x.running ≠ 0 → (x.written o n held now data).slotB = x.slotB) ∧
    (x.written o n held now data).other.image = x.other.image.take o ++ data ∧
    x.written o n held now data = { x with
      slotA := (x.written o n held now data).slotA, slotB := (x.written o n held now data).slotB, staged := 1, writePosition := o + n,
      reason := 0, programBuffer := (x.written o n held now data).programBuffer, programAt := now } := by
  unfold Security.written Security.setOther Security.other FwSlot.write
  by_cases h : x.running = 0
  · simp [h]
  · simp [h]

/-- Settles O38: the bodies of the three commands, and the rows of the check and of the test connector. -/
theorem firmwareIsWrittenAndChecked : Obligations.FirmwareIsWrittenAndChecked := by
  unfold Obligations.FirmwareIsWrittenAndChecked
  refine ⟨?status, ?write, ?activate, ?check, ?test⟩
  case status =>
    intro f s h hl
    exact h.serves_unchanged (i := .fwStatus f) (r := { data := s.sec.statusBytes })
      (fun _ => rfl) (by decide) (by decide) (.of_not_journals (by decide) (by decide)) fun l _ =>
        (body_high h.opcode (by decide) (by decide) (by decide)).trans (bodyFwStatus_done (u := { s with sessions := l }) hl)
  case write =>
    intro f s o n h ho hn h0 h1 hp hs hl hst hr
    obtain ⟨l, -, he⟩ := h.effect (i := .fwWrite f) (r := {}) (fun _ => rfl) (by decide) (by decide) ⟨rfl, rfl⟩
      (fun l _ => (body_high h.opcode (by decide) (by decide) (by decide)).trans
        (bodyFwWrite_done (u := { s with sessions := l }) ho hn h0 h1 hp hs hl hst hr))
      fun l => ⟨rfl, rfl, rfl, rfl⟩
    obtain ⟨hA, hB, himage, hsec⟩ := Security.written_slots (x := s.sec) (o := o) (n := n) (held := s.programHeld)
      (now := s.uptime) (data := slice f.payload 8 n)
    exact ⟨_, he, rfl, rfl, hA, hB, himage, hsec, rfl⟩
  case activate =>
    intro f s h hl h0 h2 hp
    obtain ⟨l, -, he⟩ := h.effect (i := .fwActivate f) (r := {}) (fun _ => rfl) (by decide) (by decide) ⟨rfl, rfl⟩
      (fun l _ => (body_high h.opcode (by decide) (by decide) (by decide)).trans
        (bodyFwActivate_done (u := { s with sessions := l }) hl h0 h2 hp))
      fun l => ⟨rfl, rfl, rfl, rfl⟩
    exact ⟨_, he, rfl, rfl⟩
  case check =>
    intro r s hs hr
    exact event_true (by rw [hs, hr]; simp [Security.failing, Security.imageFault])
  case test =>
    intro fields key signature body l s hs hr ht hl hv
    have he : exec (.testFirmwareLoad fields key signature body) s =
        .next ((s.modSec fun x => { x with testImage := true, kept := l, bodyDigest := some (sha384 (imageBody l)) }).modDev
          fun d => { d with portUp := decide (d.medium ≠ 0 ∧ d.portWidth ≠ 3) }) := by
      subst hl
      exact event_true (by rw [hs, hr, ht]; simpa [Security.imageFault] using hv)
    exact ⟨_, he, rfl, hs, rfl⟩

/-! ## Authorisation (R420, R455) -/

theorem checked_append {a b : List (Option Reply)} {go : Handled} (h : firstFailing a = none) : checked (a ++ b) u go = checked b u go := by
  induction a with
  | nil => rfl
  | cons o a ih =>
    cases o with
    | none => exact ih h
    | some r => cases h

theorem bodyFwAuthorise_done (hp : firstFailing (authorisationForm f.payload) = none) (hl : legalDevice 0x1004 u = none)
    (ha : u.authorised f.payload 0 1 u.dev.listSequence = true) :
    bodyFwAuthorise f u = .reply {} (u.modDev fun d => { d with clearAuthorised := true }) := by
  unfold bodyFwAuthorise
  rw [checked_append hp, checked_none hl, checked_when (by rw [ha]; rfl)]
  rfl

/-! ## The operator table (R453) -/

/-- FW.ENROLL, once its form is right. -/
theorem bodyFwEnroll_of {p : List Byte} {slot : Nat} {v : Operator} (hp : f.payload = p) (hs : le p 0 1 = slot) (h1 : slot ≤ 15)
    (hv : v = { used := true, ceiling := le p 1 1, mask := BitVec.ofNat 64 (le p 8 8), key := slice p 16 97 }) (hc : v.ceiling ≤ 1)
    (hk : (keyPoint v.key).isSome = true) (hl : legalDevice 0x1005 u = none) :
    bodyFwEnroll f u = checked [when (!managed (sput {} u.sec.operators slot v)) (fwState u)] u
      (.reply {} (u.setOperator slot f.session.toNat f.number.toNat v)) := by
  subst hp hs hv
  unfold bodyFwEnroll
  dsimp only
  rw [checked_when (decide_eq_false (by omega)), checked_when (decide_eq_false (by simpa using hc)),
    checked_when (by simpa using hk), checked_none hl]
  rfl

theorem bodyFwRemove_of {slot : Nat} (hs : le f.payload 0 1 = slot) (h1 : slot ≤ 15) (hl : legalDevice 0x1006 u = none) :
    bodyFwRemove f u = checked [when (!managed (sput {} u.sec.operators slot {})) (fwState u)] u
      (.reply {} (u.setOperator slot f.session.toNat f.number.toNat {})) := by
  subst hs
  unfold bodyFwRemove
  dsimp only
  rw [checked_when (decide_eq_false (by omega)), checked_none hl]
  rfl

/-- A copy of the table is written, under the next sequence number, and nothing else of the security state changes. -/
theorem Security.putTable_frame {x : Security} {l : Sparse Operator} : (x.putTable l).operators = l ∧
    ((x.putTable l).tableA = ⟨x.operatorSequence + 1, l⟩ ∨ (x.putTable l).tableB = ⟨x.operatorSequence + 1, l⟩) ∧
    x.putTable l = { x with operators := l, operatorSequence := x.operatorSequence + 1, tableA := (x.putTable l).tableA,
                            tableB := (x.putTable l).tableB } := by
  unfold Security.putTable
  dsimp only
  split
  · exact ⟨rfl, .inl rfl, rfl⟩
  · exact ⟨rfl, .inr rfl, rfl⟩

/-- What a written slot does to a session: one opened with it ends, the sender's own with its command `n`. -/
def Session.slotWritten (x : Session) (own : Bool) (slot n : Nat) : Session :=
  if x.isOpen && x.slot == slot then
    (if own then { x with endAfter := x.endAfter.orElse fun _ => some n } else { x with ending := true })
  else x

theorem State.setOperator_session {slot sender n j : Nat} {v : Operator} (hs : swf {} s.sessions = true) :
    (s.setOperator slot sender n v).session j = (s.session j).slotWritten (decide (j = sender)) slot n := by
  unfold State.setOperator State.session
  dsimp only
  rw [State.modSec_sessions]
  refine (sget_smap hs (by simp)).trans ?_
  unfold Session.slotWritten
  simp only [decide_eq_true_eq]

/-- The state after `setOperator`, its reply waiting for the journal, is what FW.ENROLL and FW.REMOVE promise. -/
theorem State.setOperator_set {l : Sparse Session} {slot : Nat} {v : Operator} (h : Delivered op f s) (hx : NotedIn f s l) :
    OperatorSet f slot v s { ({ s with sessions := l } : State).setOperator slot f.session.toNat f.number.toNat v with
      journal := s.journal.awaits s.uptime f.session.toNat f.number.toNat f.opcode.toNat {} } := by
  have hsession (j : Nat) := State.setOperator_session (s := { s with sessions := l }) (slot := slot) (sender := f.session.toNat)
    (n := f.number.toNat) (j := j) (v := v) hx.canonical
  have hother (j : Nat) (hj : j ≠ f.session.toNat) : (({ s with sessions := l } : State).setOperator slot f.session.toNat
      f.number.toNat v).session j = (s.session j).slotWritten false slot f.number.toNat := by
    rw [hsession, decide_eq_false hj]
    exact congrArg (fun x => Session.slotWritten x false slot f.number.toNat) (hx.other j hj)
  obtain ⟨hslots, hcopy, hsec⟩ := Security.putTable_frame (x := s.sec) (l := sput {} s.sec.operators slot v)
  have hput : (({ s with sessions := l } : State).setOperator slot f.session.toNat f.number.toNat v).sec =
      s.sec.putTable (sput {} s.sec.operators slot v) := rfl
  refine ⟨rfl, rfl, ?_, fun i hi => ?_, ?_, ?_, fun i hi ho he => ?_, fun i hi ho => ?_, ?_, rfl⟩
  · unfold Security.operator
    rw [hput, hslots]
    exact sget_sput_self h.canonical.operators
  · unfold Security.operator
    rw [hput, hslots]
    exact sget_sput_other h.canonical.operators hi
  · rw [hput, hslots]
    exact hcopy
  · rw [hput, hslots]
    exact hsec
  · refine (hother i hi).trans ?_
    unfold Session.slotWritten
    rw [if_pos (by simp [ho, he])]
    rfl
  · refine (hother i hi).trans ?_
    unfold Session.slotWritten
    rw [if_neg (by rcases ho with ho | ho <;> simp [ho])]
  · refine (congrArg Session.endAfter (hsession f.session.toNat)).trans ?_
    have hopen := h.isOpen
    have hstays := h.stays
    have hown : ({ s with sessions := l } : State).session f.session.toNat = _ := hx.own
    rw [hown]
    unfold Session.slotWritten
    by_cases he : (s.session f.session.toNat).slot = slot
    · simp [hopen, hstays, he]
    · simp [hstays, he]

/-- FW.ENROLL and FW.REMOVE hold their sender's session open for the reply. -/
theorem State.setOperator_held {l : Sparse Session} {slot n : Nat} {v : Operator} (h : Delivered op f s) (hx : NotedIn f s l) :
    ((({ s with sessions := l } : State).setOperator slot f.session.toNat n v).session f.session.toNat).held = [] := by
  have hown : ({ s with sessions := l } : State).session f.session.toNat = _ := hx.own
  rw [State.setOperator_session (by exact hx.canonical), hown]
  unfold Session.slotWritten
  repeat' split
  all_goals exact h.held

theorem checked_one_false {b : Bool} {go : Handled} (h : b = true) : checked [when (!b) r] u go = go := by
  subst h
  rfl

theorem checked_one_true {b : Bool} {go : Handled} (h : b = false) : checked [when (!b) r] u go = .reply r u := by
  subst h
  rfl

/-! ## MACsec associations (R458) -/

/-- FW.MACSEC with the key that it wraps, if it names one. -/
theorem bodyFwMacsec_done {p : List Byte} {o : Nat} {k : Option (List Byte)} {a : SecAssoc} (hp : f.payload = p) (ho : le p 0 1 = o)
    (h2 : o ≤ 2) (h1 : le p 1 1 ≤ 1) (h3 : le p 2 1 ≤ 3)
    (hk : gcmOpen (u.session f.session.toNat).wrapKey (leBytes 8 f.number.toNat ++ zeros 4) (slice p 0 40) (slice p 40 48) = k)
    (ha : a = { receive := decide (o = 1), an := le p 2 1, sci := le p 4 8, ssci := le p 12 4, salt := slice p 16 12
                window := le p 28 4, nextPn := le p 32 8, lowest := le p 32 8, key := k.getD [] })
    (hw : a.window ≤ 1073741824) (hz : o = 0 ∨ k.isSome = true) (hl : legalDevice 0x1007 u = none) :
    bodyFwMacsec f u = .reply {} (u.modSec fun x =>
      { x with macsec := decide (o ≠ 0)
               requireDue := x.requireDue ++ [(f.session.toNat, f.number.toNat, decide (le p 1 1 = 1))]
               assocs := if o = 0 then [] else a.joins x.assocs }) := by
  subst hp ho hk ha
  unfold bodyFwMacsec
  dsimp only
  rw [checked_when (decide_eq_false (by omega)), checked_when (decide_eq_false (by omega)), checked_when (decide_eq_false (by omega)),
    checked_when (decide_eq_false (by simpa using hw)), checked_when (by rcases hz with hz | hz <;> simp [hz]), checked_none hl]
  rfl

/-- The associations after one joins: it, and those of its channel under other numbers or of the other direction. -/
theorem SecAssoc.mem_joins {a x : SecAssoc} {l : List SecAssoc} :
    x ∈ a.joins l ↔ x = a ∨ (x ∈ l ∧ (x.receive ≠ a.receive ∨ (x.sci = a.sci ∧ x.an ≠ a.an))) := by
  unfold SecAssoc.joins
  simp [or_comm]

/-- Settles O39: the bodies of the four commands. -/
theorem keysAreSet : Obligations.KeysAreSet := by
  unfold Obligations.KeysAreSet
  refine ⟨?authorise, ?enroll, ?remove, ?off, ?on⟩
  case authorise =>
    intro f s h hp hl ha
    obtain ⟨l, -, he⟩ := h.effect (i := .fwAuthorise f) (r := {}) (fun _ => rfl) (by decide) (by decide) ⟨rfl, rfl⟩
      (fun l _ => (body_high h.opcode (by decide) (by decide) (by decide)).trans
        (bodyFwAuthorise_done (u := { s with sessions := l }) hp hl ha))
      fun l => ⟨rfl, rfl, rfl, rfl⟩
    exact ⟨_, he, rfl, rfl⟩
  case enroll =>
    intro f s p slot v h hp hs h1 hv hc hk hl
    have hbody (u : State) (hl : legalDevice 0x1005 u = none) := bodyFwEnroll_of (u := u) hp hs h1 hv hc hk hl
    refine ⟨fun hm => ?_, fun hm => ?_⟩
    · obtain ⟨l, hx, he⟩ := h.runs_effect (i := .fwEnroll f) (r := {}) (fun _ => rfl) (by decide) (by decide) ⟨rfl, rfl⟩
        (fun l _ => (body_high h.opcode (by decide) (by decide) (by decide)).trans
          ((hbody { s with sessions := l } hl).trans (checked_one_false hm)))
        fun l hx => ⟨rfl, rfl, State.setOperator_held h hx⟩
      exact ⟨_, he, State.setOperator_set h hx⟩
    · have hacts : Acts 0x1005 f s (s.noted f) _ := ⟨h, rfl, rfl⟩
      exact hacts.handles (by decide) (by decide) (fun _ => rfl) ((hacts.high (by decide) (by decide) (by decide)).trans
        ((hbody (s.noted f) hl).trans (checked_one_true hm)))
  case remove =>
    intro f s slot h hs h1 hl
    have hbody (u : State) (hl : legalDevice 0x1006 u = none) := bodyFwRemove_of (u := u) hs h1 hl
    refine ⟨fun hm => ?_, fun hm => ?_⟩
    · obtain ⟨l, hx, he⟩ := h.runs_effect (i := .fwRemove f) (r := {}) (fun _ => rfl) (by decide) (by decide) ⟨rfl, rfl⟩
        (fun l _ => (body_high h.opcode (by decide) (by decide) (by decide)).trans
          ((hbody { s with sessions := l } hl).trans (checked_one_false hm)))
        fun l hx => ⟨rfl, rfl, State.setOperator_held h hx⟩
      exact ⟨_, he, State.setOperator_set h hx⟩
    · have hacts : Acts 0x1006 f s (s.noted f) _ := ⟨h, rfl, rfl⟩
      exact hacts.handles (by decide) (by decide) (fun _ => rfl) ((hacts.high (by decide) (by decide) (by decide)).trans
        ((hbody (s.noted f) hl).trans (checked_one_true hm)))
  case off =>
    intro f s h h0 h1 h3 hw hl
    obtain ⟨l, -, he⟩ := h.effect (i := .fwMacsec f) (r := {}) (fun _ => rfl) (by decide) (by decide) ⟨rfl, rfl⟩
      (fun l _ => (body_high h.opcode (by decide) (by decide) (by decide)).trans
        (bodyFwMacsec_done (u := { s with sessions := l }) rfl h0 (by decide) h1 h3 rfl rfl (by exact hw) (.inl rfl) hl))
      fun l => ⟨rfl, rfl, rfl, rfl⟩
    exact ⟨_, he, rfl, rfl⟩
  case on =>
    intro f s p key o a h hp ho h12 h1 h3 hk ha hw hl
    have h0 : o ≠ 0 := by omega
    obtain ⟨l, -, he⟩ := h.effect (i := .fwMacsec f) (r := {}) (fun _ => rfl) (by decide) (by decide) ⟨rfl, rfl⟩
      (fun l hx => (body_high h.opcode (by decide) (by decide) (by decide)).trans
        (bodyFwMacsec_done (u := { s with sessions := l }) (k := some key) hp ho (by omega) h1 h3
          ((congrArg (fun x : Session => gcmOpen x.wrapKey _ _ _) hx.own).trans hk) ha hw (.inr rfl) hl))
      fun l => ⟨rfl, rfl, rfl, rfl⟩
    have hassocs : (if o = 0 then [] else a.joins s.sec.assocs) = a.joins s.sec.assocs := if_neg h0
    refine ⟨_, he, ?_, fun x => ?_, rfl⟩
    · simp [h0]
    · change x ∈ (if o = 0 then [] else a.joins s.sec.assocs) ↔ _
      rw [hassocs]
      exact SecAssoc.mem_joins

end Sys2Proof.Machine
end

section
/-! PROOFS. Injections (R460 to R469). -/

namespace Sys2Proof.Machine

variable {s t u : State} {f : Frame} {n : Nat}

/-! ## A record of an injection (R469) -/

@[simp] theorem State.logInjected_injections {j : Injection} : (s.logInjected j).injections = s.injections := by
  simp only [State.logInjected, State.writeLog]
@[simp] theorem State.logInjected_nextInjection {j : Injection} : (s.logInjected j).nextInjection = s.nextInjection := by
  simp only [State.logInjected, State.writeLog]
@[simp] theorem State.logInjected_logNext {j : Injection} : (s.logInjected j).logNext = s.logNext + 1 := by
  simp only [State.logInjected, State.writeLog]
@[simp] theorem State.logInjected_links {j : Injection} : (s.logInjected j).links = s.links := by
  simp only [State.logInjected, State.writeLog]
@[simp] theorem State.logInjected_damage {j : Injection} : (s.logInjected j).damage = s.damage := by
  simp only [State.logInjected, State.writeLog]
@[simp] theorem State.logInjected_mem {j : Injection} : (s.logInjected j).mem = s.mem := by
  simp only [State.logInjected, State.writeLog]

/-! ## Arming (R461, R462, R464, R466) -/

theorem State.armFull_none (h : u.injections = []) : u.armFull = none := by
  unfold State.armFull
  rw [h]
  rfl

/-- An injection as its command arms it in `u`. -/
def Injection.armedBy (j : Injection) (u : State) (f : Frame) : Injection :=
  { j with number := u.nextInjection, armedAt := u.uptime, session := f.session.toNat, waiting := some f.number.toNat }

/-- The state after the first injection is armed: it is listed and recorded. -/
def State.armedFirst (u : State) (f : Frame) (j : Injection) : State :=
  { u with injections := [j.armedBy u f], nextInjection := u.nextInjection + 1 }.logInjected (j.armedBy u f)

theorem State.arm_first {j : Injection} (h : u.injections = []) :
    u.forgetEnded.arm f j = .reply { value := u.nextInjection } (u.armedFirst f j) := by
  unfold State.arm State.forgetEnded
  simp only [h]
  rfl

theorem bodyInjectLink_done {p : List Byte} {j : Injection} (hp : f.payload = p)
    (hj : j = { number := 0, verb := 1, action := le p 3 1, link := le p 0 1, bundle := le p 1 1, direction := le p 2 1,
                lane := le p 4 2, skip := le p 8 4, left := le p 12 4 })
    (h0 : 0 < j.left) (hn : j.left ≤ 65534) (hl : j.link ≤ 5) (hb : j.bundle < bundlesOf j.link) (hd : j.direction ≤ 1)
    (ha : ((j.action = 1 ∨ j.action = 2) ∧ j.lane = 0) ∨ (j.action = 3 ∧ j.lane ≤ 297 ∧ j.left = 1)) (hs : j.skip < 4294967295)
    (hg : legalDevice 0x1201 u = none) (hi : u.injections = []) :
    bodyInjectLink f u = .reply { value := u.nextInjection } (u.armedFirst f j) := by
  subst hp hj
  unfold bodyInjectLink
  dsimp only at h0 hn hl hb hd ha hs ⊢
  rw [zeroField_false (decide_eq_false (by omega)), checked_when (decide_eq_false (by omega)), checked_when (decide_eq_false (by omega)),
    checked_when (decide_eq_false (by omega)), checked_when (decide_eq_false (by omega)), checked_when (decide_eq_false (by omega)),
    checked_when (decide_eq_false (by omega)), checked_when (decide_eq_false (by omega)), checked_none hg,
    checked_none (State.armFull_none hi), checked_nil, State.arm_first hi]

theorem bodyInjectPort_done {p : List Byte} {j : Injection} (hp : f.payload = p)
    (hj : j = { number := 0, verb := 2, action := le p 1 1, direction := le p 0 1, depth := le p 2 1, context := le p 3 1,
                kinds := le p 4 1, skip := le p 8 4, left := le p 12 4, every := le p 16 4 })
    (h0 : 0 < j.left) (hn : j.left ≤ 65534) (hd : j.direction ≤ 1)
    (ha : ((j.action = 1 ∨ j.action = 2 ∨ j.action = 4) ∧ j.depth = 0) ∨ (j.action = 3 ∧ 0 < j.depth ∧ j.depth ≤ 63))
    (hc : j.context ≤ 63 ∨ j.context = 255) (hk : 0 < j.kinds ∧ j.kinds ≤ 63) (hs : j.skip < 4294967295)
    (he : 0 < j.every ∧ j.every ≤ 65536) (hg : legalDevice 0x1202 u = none) (hi : u.injections = []) :
    bodyInjectPort f u = .reply { value := u.nextInjection } (u.armedFirst f j) := by
  subst hp hj
  unfold bodyInjectPort
  dsimp only at h0 hn hd ha hc hk hs he ⊢
  have hdepth : (if le f.payload 1 1 = 3 then decide (le f.payload 2 1 = 0 ∨ 63 < le f.payload 2 1)
      else decide (le f.payload 2 1 ≠ 0)) = false := by
    split <;> exact decide_eq_false (by omega)
  rw [zeroField_false (decide_eq_false (by omega)), checked_when (decide_eq_false (by omega)), checked_when (decide_eq_false (by omega)),
    checked_when (decide_eq_false (by omega)), checked_when hdepth, checked_when (decide_eq_false (by omega)),
    checked_when (decide_eq_false (by omega)), checked_when (decide_eq_false (by omega)), checked_when (decide_eq_false (by omega)),
    checked_none hg, checked_none (State.armFull_none hi), checked_nil, State.arm_first hi]

/-- Where INJECT.ECC may flip bits: the position within the granule or the block, and its alignment. -/
def eccPlace (u : State) (j : Injection) (core : Nat) : Prop :=
  (j.link = 1 ∧ core ≤ 239 ∧ j.position + 16 * (j.action - 1) ≤ 127 ∧ j.address % 16 = 0) ∨
    (j.link = 0 ∧ core = 0 ∧ u.otherCopyPlanted j.address = false ∧
      j.position + 16 * (j.action - 1) ≤ (if isExternal j.address then 511 else 127) ∧
      j.address % (if isExternal j.address then 64 else 16) = 0)

theorem bodyInjectEcc_done {p : List Byte} {j : Injection} (hp : f.payload = p)
    (hj : j = { number := 0, verb := 3, action := le p 1 1, link := le p 0 1, lane := u.physical (le p 2 2), address := le p 8 8,
                position := le p 4 2 })
    (ha : j.action = 1 ∨ j.action = 2) (hpl : eccPlace u j (le p 2 2)) (hx : u.plantable j.link (le p 2 2) j.address = true)
    (hg : legalDevice 0x1203 u = none) (hi : u.injections = []) :
    bodyInjectEcc f u = .reply { value := u.nextInjection } (u.armedFirst f j) := by
  subst hp hj
  unfold eccPlace at hpl
  unfold bodyInjectEcc
  dsimp only at ha hpl hx ⊢
  have hcore : (if le f.payload 0 1 = 1 then decide (239 < le f.payload 2 2) else decide (le f.payload 2 2 ≠ 0)) = false := by
    split <;> exact decide_eq_false (by omega)
  have hplace : (le f.payload 0 1 ≤ 1) ∧
      le f.payload 4 2 ≤ (if le f.payload 0 1 = 0 ∧ isExternal (le f.payload 8 8) = true then 511 else 127) -
        (if le f.payload 1 1 = 2 then 16 else 0) ∧
      le f.payload 8 8 % (if le f.payload 0 1 = 0 ∧ isExternal (le f.payload 8 8) = true then 64 else 16) = 0 ∧
      (decide (le f.payload 0 1 = 0) && u.otherCopyPlanted (le f.payload 8 8)) = false := by
    rcases hpl with ⟨h1, h2, h3, h4⟩ | ⟨h1, h2, h3, h4, h5⟩
    · rw [h1]
      simp only [Nat.one_ne_zero, false_and, if_false, decide_false, Bool.false_and]
      refine ⟨le_refl _, ?_, h4, trivial⟩
      split <;> omega
    · rw [h1, h3]
      simp only [true_and, decide_true, Bool.and_false, and_true]
      refine ⟨Nat.zero_le _, ?_, h5⟩
      generalize (if isExternal (le f.payload 8 8) = true then 511 else 127) = limit at h4 ⊢
      split <;> omega
  obtain ⟨h1, h2, h3, h4⟩ := hplace
  rw [zeroField_false (decide_eq_false (by omega)), checked_when (decide_eq_false (by omega)), checked_when (decide_eq_false (by omega)),
    checked_when hcore, checked_when (decide_eq_false (by omega)), checked_when (decide_eq_false (by omega)),
    checked_when (by rw [hx]; rfl), checked_none hg, checked_when h4, checked_none (State.armFull_none hi), checked_nil,
    State.arm_first hi]

/-! ## A lane that fails (R463) -/

/-- The lanes to fail in the notch. -/
def State.failing (s : State) : List Injection := s.injections.filter fun j =>
  j.verb == 1 && j.action == 3 && j.skip == 0 && j.armed && j.waiting.isNone && decide (j.armedAt < s.uptime)

theorem State.failLanes_none (h : s.failing = []) : s.failLanes = s := by
  unfold State.failLanes
  exact congrArg (List.foldl _ s) h

theorem State.failLanes_one {j : Injection} (h : s.failing = [j]) :
    s.failLanes = (s.failLane j.link j.bundle j.direction j.lane).injectionHit j := by
  unfold State.failLanes
  exact congrArg (List.foldl _ s) h

/-- A direction of a bundle that a lane is made to fail in has the lane among its injected ones. -/
theorem State.failLane_injected {link bundle direction lane : Nat} (h : s.Canonical) (hd : direction ≤ 1) :
    lane ∈ ((s.failLane link bundle direction lane).linkDir link bundle (direction == 0)).injected := by
  have hlink : swf {} (s.link link).bundles = true := (h.links.sget (k := link) (by exact Family.nil)).1
  have hadd (d : LinkDir) : lane ∈ (if d.injected.contains lane then d.injected else d.injected ++ [lane]) := by
    split
    next hc => simpa using hc
    next => simp
  unfold State.linkDir State.failLane
  rw [State.link_modLink_self h.links.1]
  unfold Link.bundle Link.setBundle
  dsimp only
  rw [sget_sput_self hlink]
  rcases Nat.le_one_iff_eq_zero_or_eq_one.mp hd with rfl | rfl
  · exact hadd _
  · exact hadd _

/-- The last hit of an injection is its first one too: it is disarmed, and two records are written. -/
theorem State.injectionHit_only {j : Injection} (hi : s.injections = [j]) (hl : j.left = 1) (hh : j.hits = 0) :
    (s.injectionHit j).injections = [{ j with hits := 1, left := 0, armed := false }] ∧
    (s.injectionHit j).logNext = s.logNext + 2 ∧ (s.injectionHit j).links = s.links := by
  unfold State.injectionHit
  dsimp only
  rw [if_pos (by omega), if_pos (by omega)]
  simp [State.modInjection, hi, hl, hh]

/-! ## A pattern planted (R466, R467) -/

/-- The patterns to plant at the end of the notch. -/
def State.planting (s : State) : List Injection := s.injections.filter fun j => j.verb == 3 && j.armed && j.waiting.isNone

theorem State.plantDue_none (h : s.planting = []) : s.plantDue = s := by
  unfold State.plantDue
  exact congrArg (List.foldl _ s) h

theorem State.plantDue_one {j : Injection} (h : s.planting = [j]) : s.plantDue =
    (s.plant j.key j.address j.action j.position (j.link == 0 && isExternal j.address)).modInjection j.number fun x =>
      { x with armed := false } := by
  unfold State.plantDue
  exact congrArg (List.foldl _ s) h

/-- With no cached line of the block, a pattern is a mark at its key. -/
theorem State.plant_uncached {key a bits pos : Nat} {cached : Bool}
    (h : cached = true → s.dropLines (homeDie a) (fun l => l.line == a / 256) = s) : s.plant key a bits pos cached =
      { s with
        damage := sput {} s.damage key
          (DamageMark.flipped (s.damageAt key) (cached && s.segCode (segmentOf a) == 2) bits pos) } := by
  unfold State.plant
  cases cached
  · rfl
  · dsimp only
    rw [if_pos rfl, h rfl]

/-- One bit flipped in a sound block can be corrected. -/
theorem DamageMark.flipped_one {strong : Bool} {pos : Nat} : (DamageMark.flipped {} strong 1 pos).kind = .correctable := by
  unfold DamageMark.flipped
  rw [if_neg (by decide)]
  rfl

/-! ## Clearing (R468) -/

/-- What clearing may change: injections are disarmed, and records written. -/
def Disarmed (s t : State) : Prop := ∃ i l n, t = { s with injections := i, log := l, logNext := n }

theorem State.logInjected_disarmed {j : Injection} : Disarmed s (s.logInjected j) := by
  unfold State.logInjected State.writeLog
  exact ⟨s.injections, _, _, rfl⟩

theorem State.disarm_disarmed {j : Injection} : Disarmed s (s.disarm j) := by
  unfold State.disarm
  split
  · obtain ⟨_, _, _, e⟩ := State.logInjected_disarmed (s := s.modInjection j.number fun x => { x with armed := false }) (j := j)
    rw [e]
    exact ⟨_, _, _, rfl⟩
  · exact ⟨_, _, _, rfl⟩

theorem State.mem_disarm {j x : Injection} (h : x ∈ (s.disarm j).injections) :
    (x ∈ s.injections ∧ (j.armed = true → x.number ≠ j.number)) ∨ x.armed = false := by
  unfold State.disarm at h
  split at h
  · rw [State.logInjected_injections] at h
    obtain ⟨y, hy, e⟩ := List.mem_map.mp h
    split at e
    · subst e
      exact .inr rfl
    · subst e
      exact .inl ⟨hy, fun _ => ‹_›⟩
  · exact .inl ⟨h, fun e => absurd e ‹_›⟩

theorem State.mem_disarm_other {j x : Injection} (h : x ∈ s.injections) (hn : x.number ≠ j.number) :
    x ∈ (s.disarm j).injections := by
  unfold State.disarm
  split
  · rw [State.logInjected_injections]
    exact List.mem_map.mpr ⟨x, h, if_neg hn⟩
  · exact h

/-- Clearing disarms every injection that is armed and listed, and leaves the others. -/
theorem State.disarm_all {l : List Injection} : Disarmed s (l.foldl State.disarm s) ∧
    (∀ x ∈ (l.foldl State.disarm s).injections,
      (x ∈ s.injections ∧ ∀ j ∈ l, j.armed = true → x.number ≠ j.number) ∨ x.armed = false) ∧
    ∀ x ∈ s.injections, (∀ j ∈ l, x.number ≠ j.number) → x ∈ (l.foldl State.disarm s).injections := by
  induction l generalizing s with
  | nil => exact ⟨⟨_, _, _, rfl⟩, fun x hx => .inl ⟨hx, by simp⟩, fun x hx _ => hx⟩
  | cons j l ih =>
    obtain ⟨hframe, hgone, hstay⟩ := ih (s := s.disarm j)
    refine ⟨?_, fun x hx => ?_, fun x hx hn => ?_⟩
    · obtain ⟨_, _, _, e⟩ := State.disarm_disarmed (s := s) (j := j)
      obtain ⟨_, _, _, e'⟩ := hframe
      rw [List.foldl_cons, e', e]
      exact ⟨_, _, _, rfl⟩
    · rcases hgone x hx with ⟨hm, hl⟩ | hoff
      · rcases State.mem_disarm hm with ⟨hm, hj⟩ | hoff
        · exact .inl ⟨hm, List.forall_mem_cons.mpr ⟨hj, hl⟩⟩
        · exact .inr hoff
      · exact .inr hoff
    · obtain ⟨hj, hl⟩ := List.forall_mem_cons.mp hn
      exact hstay x (State.mem_disarm_other hx hj) hl

theorem bodyInjectClear_done (hn : le f.payload 0 2 = n) (hl : legalDevice 0x1204 u = none)
    (hx : n = 0 ∨ ∃ j ∈ u.injections, j.number = n ∧ u.liveInjection j = true) : bodyInjectClear f u = .reply {}
      (((u.injections.filter u.liveInjection).filter fun j => n == 0 || j.number == n).foldl State.disarm u) := by
  subst hn
  unfold bodyInjectClear
  dsimp only
  rw [checked_when ?_, checked_none hl]
  · rfl
  · rcases hx with hx | ⟨j, hj, he, hlive⟩
    · simp [hx]
    · have hany : (u.injections.filter u.liveInjection).any (fun x => x.number == le f.payload 0 2) = true :=
        List.any_eq_true.mpr ⟨j, List.mem_filter.mpr ⟨hj, hlive⟩, by simp [he]⟩
      rw [hany]
      simp

theorem bodyInjectStatus_done (hl : legalDevice 0x1205 u = none) : bodyInjectStatus u =
    .reply { data := padTo 256 ((u.injections.filter u.liveInjection).flatMap fun j =>
      leBytes 2 j.number ++ leBytes 1 j.verb ++ leBytes 1 j.action ++ leBytes 4 j.left ++ leBytes 8 j.hits) } u := by
  unfold bodyInjectStatus
  dsimp only
  rw [checked_none hl]
  rfl

/-! ## Release (R465) -/

theorem exec_injectReorderRelease {j : Injection} {o : OutFrame} {d a : Nat} (hi : s.injections = [j]) (hin : j.heldIn = [])
    (ho : j.heldOut = [(o, d, a)]) (hd : 1024 + a ≤ s.uptime) (hc : s.Clear) : exec (.injectReorderRelease j.number) s =
      .next { s with out := s.out ++ [o], injections := [{ j with heldOut := [] }] } := by
  change execInjectReorderRelease j.number s = _
  unfold execInjectReorderRelease
  have hlet (u : State) : u.passInjections [] (.outward o) = (u, [.outward o]) := rfl
  obtain ⟨v, hv⟩ : ∃ v : State, v = { s with injections := [{ j with heldOut := [] }] } := ⟨_, rfl⟩
  have hmod : (s.modInjection j.number fun x => { x with
      heldIn := x.heldIn.filter (fun h => !decide (1024 + h.2.2 ≤ s.uptime))
      heldOut := x.heldOut.filter fun h => !decide (1024 + h.2.2 ≤ s.uptime) }) = v := by
    rw [hv]
    unfold State.modInjection
    simp [hi, hin, ho, hd]
  have hfind : s.injections.find? (·.number == j.number) = some j := by simp [hi]
  have hlater : (v.injections.map (·.number)).filter (j.number < ·) = [] := by simp [hv]
  have hout : v.putOut o = { v with out := v.out ++ [o] } := State.putOut_clear (by rw [hv]; exact ⟨hc.up, hc.clear⟩)
  rw [hfind]
  dsimp only
  rw [hmod, hlater]
  simp only [hin, ho, List.filter_nil, List.map_nil, List.nil_append, List.filter_cons, hd, decide_true, if_true, List.map_cons,
    List.foldl_cons, List.foldl_nil, hlet]
  change Host.Outcome.next (v.putOut o) = _
  rw [hout, hv]
  simp only [hin]

/-- Settles O40: the bodies of the commands, and what the due injections do. -/
theorem injectionsAreArmedAndCleared : Obligations.InjectionsAreArmedAndCleared := by
  unfold Obligations.InjectionsAreArmedAndCleared
  refine ⟨?link, ?fail, ?port, ?ecc, ?plant, ?clear, ?status, ?release⟩
  case link =>
    intro f s u c p j h hp hj h0 hn hl hb hd ha hs hg hi
    have hbody := bodyInjectLink_done (u := u) (j := {
      number := 0, verb := 1, action := le p 3 1, link := le p 0 1, bundle := le p 1 1, direction := le p 2 1, lane := le p 4 2
      skip := le p 8 4, left := le p 12 4 }) hp rfl
    subst hj
    exact ⟨_, h.handles (by decide) (by decide) (fun _ => rfl) ((h.high (by decide) (by decide) (by decide)).trans
      (hbody h0 hn hl hb hd ha hs hg hi)), by simp [State.armedFirst], by simp [State.armedFirst, Injection.armedBy],
      by simp [State.armedFirst], by simp [State.armedFirst]⟩
  case fail =>
    intro s j hc hi hv ha hs har hl hh _ _ hd
    have hfailing : s.failing = if j.waiting = none ∧ j.armedAt < s.uptime then [j] else [] := by
      unfold State.failing
      rw [hi]
      simp [List.filter_cons, hv, ha, hs, har]
    refine ⟨fun hw => State.failLanes_none ?_, fun hw ht => ?_⟩
    · rw [hfailing, if_neg ?_]
      rintro ⟨h1, h2⟩
      rcases hw with hw | hw
      · simp [h1] at hw
      · omega
    · rw [if_pos ⟨hw, ht⟩] at hfailing
      rw [State.failLanes_one hfailing]
      have hlane : (s.failLane j.link j.bundle j.direction j.lane).injections = [j] := hi
      obtain ⟨h1, h2, h3⟩ := State.injectionHit_only hlane hl hh
      refine ⟨h1, h2, ?_⟩
      have hdir : ((s.failLane j.link j.bundle j.direction j.lane).injectionHit j).linkDir j.link j.bundle (j.direction == 0) =
          (s.failLane j.link j.bundle j.direction j.lane).linkDir j.link j.bundle (j.direction == 0) := by
        unfold State.linkDir State.link
        rw [h3]
      rw [hdir]
      exact State.failLane_injected hc hd
  case port =>
    intro f s u c p j h hp hj h0 hn hd ha hx hk hk' hs he he' hg hi
    have hbody := bodyInjectPort_done (u := u) (j := {
      number := 0, verb := 2, action := le p 1 1, direction := le p 0 1, depth := le p 2 1, context := le p 3 1
      kinds := le p 4 1, skip := le p 8 4, left := le p 12 4, every := le p 16 4 }) hp rfl
    subst hj
    exact ⟨_, h.handles (by decide) (by decide) (fun _ => rfl) ((h.high (by decide) (by decide) (by decide)).trans
      (hbody h0 hn hd ha hx ⟨hk, hk'⟩ hs ⟨he, he'⟩ hg hi)), by simp [State.armedFirst, Injection.armedBy],
      by simp [State.armedFirst], by simp [State.armedFirst]⟩
  case ecc =>
    intro f s u c p j h hp hj ha hpl hx hg hi
    have hbody := bodyInjectEcc_done (u := u) (j := {
      number := 0, verb := 3, action := le p 1 1, link := le p 0 1, lane := u.physical (le p 2 2), address := le p 8 8
      position := le p 4 2 }) hp rfl
    subst hj
    exact ⟨_, h.handles (by decide) (by decide) (fun _ => rfl) ((h.high (by decide) (by decide) (by decide)).trans
      (hbody ha hpl hx hg hi)), by simp [State.armedFirst, Injection.armedBy], by simp [State.armedFirst],
      by simp [State.armedFirst], by simp [State.armedFirst], by simp [State.armedFirst]⟩
  case plant =>
    intro s j outside hc hi hv har ho hdrop
    have hplanting : s.planting = if j.waiting = none then [j] else [] := by
      unfold State.planting
      rw [hi]
      simp [List.filter_cons, hv, har]
    refine ⟨fun hw => State.plantDue_none ?_, fun hw => ?_⟩
    · rw [hplanting, if_neg ?_]
      intro e
      simp [e] at hw
    · rw [if_pos hw] at hplanting
      rw [State.plantDue_one hplanting, ← ho, State.plant_uncached hdrop]
      refine ⟨?_, rfl, sget_sput_self hc.damage, fun he hb => ?_, fun k hk => sget_sput_other hc.damage hk⟩
      · unfold State.modInjection
        simp [hi]
      · refine (congrArg DamageMark.kind (sget_sput_self hc.damage)).trans ?_
        rw [he, hb]
        exact DamageMark.flipped_one
  case clear =>
    intro f s u c n h hn hl hx
    obtain ⟨⟨_, _, _, hframe⟩, hgone, hstay⟩ := State.disarm_all (s := u)
      (l := (u.injections.filter u.liveInjection).filter fun j => n == 0 || j.number == n)
    refine ⟨_, h.handles (by decide) (by decide) (fun _ => rfl) ((h.high (by decide) (by decide) (by decide)).trans
      (bodyInjectClear_done hn hl hx)), fun j hj hjn => ?_, fun h0 j hj hjn => ?_, ?_⟩
    · rcases hgone j hj with ⟨hm, hno⟩ | hoff
      · by_contra harmed
        have ha : j.armed = true := by simpa using harmed
        refine hno j ?_ ha rfl
        simp only [List.mem_filter, Bool.or_eq_true, beq_iff_eq]
        exact ⟨⟨hm, by unfold State.liveInjection; rw [ha]; rfl⟩, hjn⟩
      · exact hoff
    · refine hstay j hj fun k hk e => ?_
      simp only [List.mem_filter, Bool.or_eq_true, beq_iff_eq, h0, false_or] at hk
      exact hjn (e.trans hk.2)
    · rw [hframe]
      exact ⟨rfl, rfl, rfl⟩
  case status =>
    intro f s u c h hl
    exact h.handles (by decide) (by decide) (fun _ => rfl) ((h.high (by decide) (by decide) (by decide)).trans
      (bodyInjectStatus_done hl))
  case release =>
    intro s j o d a hi hin ho hd hc
    exact exec_injectReorderRelease hi hin ho hd hc

end Sys2Proof.Machine
end

section
/-! PROOFS. What an access to memory can change: the store, with its errors, records and the defect list, and nothing else of the
device (R128 to R133, R144 to R150, R159, R165 to R171, R180). -/

namespace Sys2Proof.Machine

variable {s t u : State} {a b k n p d g : Nat}

/-- The parts of the state that accesses to memory change. -/
structure Store where
  freshTrouble : List (Nat × Nat)
  defects : List Defect
  listSequence : Nat
  listA : ListCopy
  listB : ListCopy
  onlyThisStart : List Defect
  startTrouble : Word
  mem : List Host.Cell
  damage : Sparse DamageMark
  cores : Sparse Core
  ponds : Sparse Millpond
  memStacks : Sparse Stack
  rowErrors : Sparse Nat
  segCodes : Sparse Nat
  pages : Sparse Page
  injections : List Injection
  lateWrites : List (Nat × List Byte)
  log : List LogRecord
  logNext : Nat

def State.withStore (s : State) (m : Store) : State :=
  { s with
    freshTrouble := m.freshTrouble, mem := m.mem, damage := m.damage, cores := m.cores, ponds := m.ponds, memStacks := m.memStacks
    rowErrors := m.rowErrors, segCodes := m.segCodes, pages := m.pages, injections := m.injections, log := m.log, logNext := m.logNext
    journal := { s.journal with lateWrites := m.lateWrites }
    dev := { s.dev with
      defects := m.defects, listSequence := m.listSequence, listA := m.listA, listB := m.listB, onlyThisStart := m.onlyThisStart
      startTrouble := m.startTrouble } }

/-- A state's store. -/
def State.store (t : State) : Store :=
  { freshTrouble := t.freshTrouble, defects := t.dev.defects, listSequence := t.dev.listSequence, listA := t.dev.listA
    listB := t.dev.listB, onlyThisStart := t.dev.onlyThisStart, startTrouble := t.dev.startTrouble, mem := t.mem, damage := t.damage
    cores := t.cores, ponds := t.ponds, memStacks := t.memStacks, rowErrors := t.rowErrors, segCodes := t.segCodes, pages := t.pages
    injections := t.injections, lateWrites := t.journal.lateWrites, log := t.log, logNext := t.logNext }

/-- Two states have the same carving and the same splits, by the codes of their segments and their Millponds. -/
structure SameMap (codes codes' : Sparse Nat) (ponds ponds' : Sparse Millpond) : Prop where
  codes : swf 2 codes = true → swf 2 codes' = true ∧ ∀ g, sget 2 codes' g % 4 = sget 2 codes g % 4
  ponds : swf {} ponds = true → swf {} ponds' = true ∧ ∀ d, (sget {} ponds' d).steps = (sget {} ponds d).steps

/-- No byte is changed, damage at most goes, and every address lies where it lay. -/
structure Harmless (s : State) (mem : List Host.Cell) (damage : Sparse DamageMark) (codes : Sparse Nat) (ponds : Sparse Millpond) :
    Prop where
  mem : mem = s.mem
  damage : ∀ e ∈ damage, e ∈ s.damage
  map : SameMap s.segCodes codes s.ponds ponds

/-- Two states have the same pseudo-channels, by their stacks. -/
def SameUnits (old new : Sparse Stack) : Prop :=
  swf {} old = true → swf {} new = true ∧ ∀ k, (sget {} new k).pcs = (sget {} old k).pcs

/-- Every injection of the one list has the verb of one of the other. -/
def SameVerbs (old new : List Injection) : Prop := ∀ j ∈ new, ∃ i ∈ old, i.verb = j.verb

theorem SameVerbs.refl {l : List Injection} : SameVerbs l l := fun j h => ⟨j, h, rfl⟩

theorem SameVerbs.trans {l l' l'' : List Injection} (h : SameVerbs l l') (h' : SameVerbs l' l'') : SameVerbs l l'' := by
  intro j hj
  obtain ⟨i, hi, e⟩ := h' j hj
  obtain ⟨i', hi', e'⟩ := h i hi
  exact ⟨i', hi', e'.trans e⟩

/-- What the accesses between two states keep: the bytes, and the writes that wait for the end of a split. -/
structure Keeping where
  bytes : Prop
  waiting : Prop

/-- Between two states only accesses to memory lie, which keep what `q` says, the pseudo-channels and the verbs of the injections. -/
def Reaches (q : Keeping) (s t : State) : Prop := ∃ m, t = s.withStore m ∧
  (q.bytes → Harmless s m.mem m.damage m.segCodes m.ponds) ∧ (q.waiting → m.lateWrites = s.journal.lateWrites) ∧
  SameUnits s.memStacks m.memStacks ∧ SameVerbs s.injections m.injections

/-- The same of a state that comes with an answer. -/
def ReachesFst {α : Type} (q : Keeping) (s : State) (r : State × α) : Prop := Reaches q s r.1

/-- Only accesses lie between two states. -/
abbrev Accessed (s t : State) : Prop := Reaches ⟨False, False⟩ s t

/-- The same of a state that comes with an answer. -/
abbrev AccessedFst {α : Type} (s : State) (r : State × α) : Prop := ReachesFst ⟨False, False⟩ s r

/-- Only accesses of which none waits lie between two states. -/
abbrev Direct (s t : State) : Prop := Reaches ⟨False, True⟩ s t

/-- Only accesses that change no byte lie between two states. -/
abbrev Touched (s t : State) : Prop := Reaches ⟨True, True⟩ s t

/-- The same of a state that comes with an answer. -/
abbrev TouchedFst {α : Type} (s : State) (r : State × α) : Prop := ReachesFst ⟨True, True⟩ s r

namespace Reaches

section

variable {q : Keeping}

theorem of_store (h : t = s.withStore t.store) (hq : (q.bytes → Harmless s t.mem t.damage t.segCodes t.ponds) ∧
    (q.waiting → t.journal.lateWrites = s.journal.lateWrites) ∧ SameUnits s.memStacks t.memStacks ∧
    SameVerbs s.injections t.injections) : Reaches q s t := ⟨_, h, hq⟩

theorem refl : Reaches q s s :=
  of_store rfl ⟨fun _ => ⟨rfl, fun _ h => h, ⟨fun h => ⟨h, fun _ => rfl⟩, fun h => ⟨h, fun _ => rfl⟩⟩⟩, fun _ => rfl,
    fun h => ⟨h, fun _ => rfl⟩, .refl⟩

theorem trans (h : Reaches q s t) (h' : Reaches q t u) : Reaches q s u := by
  obtain ⟨_, rfl, hq, hw, hu, hv⟩ := h
  obtain ⟨m, rfl, hq', hw', hu', hv'⟩ := h'
  refine ⟨m, rfl, fun k => ⟨(hq' k).mem.trans (hq k).mem, fun e he => (hq k).damage e ((hq' k).damage e he), ⟨fun h => ?_, fun h => ?_⟩⟩,
    fun k => (hw' k).trans (hw k), fun hs => ⟨(hu' (hu hs).1).1, fun k => ((hu' (hu hs).1).2 k).trans ((hu hs).2 k)⟩,
    hv.trans hv'⟩
  · obtain ⟨h1, same⟩ := (hq k).map.codes h
    obtain ⟨h2, same'⟩ := (hq' k).map.codes h1
    exact ⟨h2, fun g => (same' g).trans (same g)⟩
  · obtain ⟨h1, same⟩ := (hq k).map.ponds h
    obtain ⟨h2, same'⟩ := (hq' k).map.ponds h1
    exact ⟨h2, fun d => (same' d).trans (same d)⟩

theorem foldl {α : Type} {f : State → α → State} {l : List α} (h : Reaches q s t) (hf : ∀ t x, Reaches q s t → Reaches q s (f t x)) :
    Reaches q s (l.foldl f t) := by
  induction l generalizing t with
  | nil => exact h
  | cons x l ih => exact ih (hf t x h)

theorem fstFoldl {α β : Type} {f : State × β → α → State × β} {l : List α} {r : State × β} (h : ReachesFst q s r)
    (hf : ∀ r x, ReachesFst q s r → ReachesFst q s (f r x)) : ReachesFst q s (l.foldl f r) := by
  induction l generalizing r with
  | nil => exact h
  | cons x l ih => exact ih (hf r x h)

theorem fst {α : Type} {v : State} {x : α} (h : Reaches q s v) : ReachesFst q s (v, x) := h

theorem ite {c : Prop} [Decidable c] {v w : State} (h : Reaches q s v) (h' : Reaches q s w) : Reaches q s (if c then v else w) := by
  split
  · exact h
  · exact h'

/-- The registers of memory, whose trouble bits an access may set. -/
def ofMemory : TroubleReg → Bool
  | .start | .stack _ | .millpond _ | .core _ | .coreStream _ => true
  | _ => false

variable (h : Reaches q s t)
include h

/-! ## Changes of one part -/

theorem clearDamage : Reaches q s (t.clearDamage k) := by
  obtain ⟨m, rfl, hq, hw⟩ := h
  exact of_store rfl ⟨fun k => ⟨(hq k).mem, fun e he => (hq k).damage e (mem_sdel he), (hq k).map⟩, hw⟩

theorem modCore {f : Core → Core} : Reaches q s (t.modCore p f) := by
  obtain ⟨m, rfl, hq⟩ := h
  exact of_store rfl hq

theorem modPond {f : Millpond → Millpond} (hf : ∀ x, (f x).steps = x.steps := by exact fun _ => rfl) : Reaches q s (t.modPond d f) := by
  obtain ⟨m, rfl, hq, hw⟩ := h
  refine of_store rfl ⟨fun k => ⟨(hq k).mem, (hq k).damage, ⟨(hq k).map.codes, fun hs => ?_⟩⟩, hw⟩
  obtain ⟨hm, same⟩ := (hq k).map.ponds hs
  refine ⟨swf_sput hm, fun j => ?_⟩
  change (sget {} (sput {} m.ponds d (f (sget {} m.ponds d))) j).steps = _
  rw [sget_sput hm]
  split
  next e => rw [hf, e, same]
  next => exact same j

theorem modStack {f : Stack → Stack} (hf : ∀ x, (f x).pcs = x.pcs := by exact fun _ => rfl) : Reaches q s (t.modStack k f) := by
  obtain ⟨m, rfl, hq, hw, hu, hv⟩ := h
  refine of_store rfl ⟨hq, hw, fun hs => ?_, hv⟩
  obtain ⟨hm, same⟩ := hu hs
  refine ⟨swf_sput hm, fun j => ?_⟩
  change (sget {} (sput {} m.memStacks k (f (sget {} m.memStacks k))) j).pcs = _
  rw [sget_sput hm]
  split
  next e => rw [hf, e, same]
  next => exact same j

theorem rowErrors {x : Sparse Nat} : Reaches q s { t with rowErrors := x } := by
  obtain ⟨m, rfl, hq⟩ := h
  exact of_store rfl hq

theorem markSegRetired : Reaches q s (t.markSegRetired g) := by
  obtain ⟨m, rfl, hq, hw⟩ := h
  refine of_store rfl ⟨fun k => ⟨(hq k).mem, (hq k).damage, ⟨fun hs => ?_, (hq k).map.ponds⟩⟩, hw⟩
  obtain ⟨hm, same⟩ := (hq k).map.codes hs
  refine And.intro (b := ∀ j, sget 2 (sput 2 m.segCodes g (sget 2 m.segCodes g % 4 + 4)) j % 4 = sget 2 s.segCodes j % 4)
    (swf_sput (m := m.segCodes) (k := g) (v := sget 2 m.segCodes g % 4 + 4) hm) fun j => ?_
  rw [sget_sput hm]
  split
  next e => rw [e, ← same g]; omega
  next => exact same j

theorem setPage {x : Page} : Reaches q s (t.setPage g x) := by
  obtain ⟨m, rfl, hq⟩ := h
  exact of_store rfl hq

theorem modInjection {f : Injection → Injection} (hf : ∀ x, (f x).verb = x.verb := by exact fun _ => rfl) :
    Reaches q s (t.modInjection n f) := by
  obtain ⟨m, rfl, hq, hw, hu, hv⟩ := h
  refine of_store rfl ⟨hq, hw, hu, hv.trans fun j hj => ?_⟩
  obtain ⟨i, hi, rfl⟩ := List.mem_map.mp hj
  refine ⟨i, hi, ?_⟩
  split
  · exact (hf i).symm
  · rfl

theorem log {l : List LogRecord} : Reaches q s { t with log := l, logNext := n } := by
  obtain ⟨m, rfl, hq⟩ := h
  exact of_store rfl hq

theorem writeLog {e : LogEntry} : Reaches q s (t.writeLog e) := by
  unfold State.writeLog
  exact h.log

theorem troubleRecord {v : Word} {x : Nat × Nat} {c : Nat} : Reaches q s (t.troubleRecord a b v x c) := by
  obtain ⟨m, rfl, hq⟩ := h
  unfold State.troubleRecord
  exact writeLog (of_store rfl hq)

theorem onlyThisStart {x : Device → List Defect} : Reaches q s (t.modDev fun d => { d with onlyThisStart := x d }) := by
  obtain ⟨m, rfl, hq⟩ := h
  exact of_store rfl hq

theorem setTrouble {r : TroubleReg} {v : Word} (hr : ofMemory r = true) : Reaches q s (t.setTrouble r v) := by
  unfold State.setTrouble
  split
  case h_2 =>
    obtain ⟨m, rfl, hq⟩ := h
    exact of_store rfl hq
  case h_6 => exact h.modStack
  case h_8 => exact h.modPond
  case h_10 => exact h.modCore
  case h_11 => exact h.modCore
  all_goals cases hr

theorem setTroubleBit {r : TroubleReg} {x : Nat × Nat} {c : Nat} (hr : ofMemory r = true) : Reaches q s (t.setTroubleBit r b x c) := by
  unfold State.setTroubleBit
  exact (h.setTrouble hr).troubleRecord

/-! ## The defect list and retirement (R180, R181, R417 to R419) -/

theorem writeList {l : List Defect} : Reaches q s (t.writeList l) := by
  obtain ⟨m, rfl, hq⟩ := h
  unfold State.writeList State.modDev Device.putList
  dsimp only
  split
  · exact of_store rfl hq
  · exact of_store rfl hq

theorem addDefect {x : Defect} : Reaches q s (t.addDefect x) := by
  unfold State.addDefect
  dsimp only
  split
  · exact h
  · split
    · exact h.writeList
    · split
      · exact h.writeList
      · split
        · split
          · exact h.writeList
          · exact h.writeList.markSegRetired
        · exact h.onlyThisStart.setTroubleBit rfl

theorem retireSegment : Reaches q s (t.retireSegment g n) := by
  unfold State.retireSegment
  split
  · exact h
  · exact h.markSegRetired.addDefect

theorem retirePage : Reaches q s (t.retirePage g n) := by
  unfold State.retirePage
  dsimp only
  split
  · exact h.setPage.addDefect.retireSegment
  · exact h.setPage.addDefect

theorem retirePending : Reaches q s (t.retirePending g n) := by
  unfold State.retirePending
  dsimp only
  split
  · exact h
  · split
    · exact h.setPage.setTroubleBit rfl
    · exact (h.setPage.setTroubleBit rfl).retirePage

theorem unmapPage : Reaches q s (t.unmapPage g) := by
  unfold State.unmapPage
  dsimp only
  split
  · exact h.setPage.retirePage
  · exact h.setPage

/-! ## Errors (R128 to R133, R153, R159, R167, R168, R468) -/

theorem logInjected {j : Injection} : Reaches q s (t.logInjected j) := h.writeLog

theorem plantedHit {m : DamageMark} : Reaches q s (t.plantedHit k m) := by
  unfold State.plantedHit
  split
  · exact h
  · split
    · exact h
    · dsimp only
      split
      · exact h.modInjection.logInjected
      · exact h.modInjection

theorem capture : Reaches q s (t.capture k a b n) := by
  unfold State.capture
  apply h.modStack

theorem stackCorrected {m : DamageMark} : Reaches q s (t.stackCorrected a n m) := by
  have counted : Reaches q s ((t.plantedHit a m).modStack (stackOf a) fun t =>
      { t with correctedCount := saturate16 (t.correctedCount + 1), correctedSince := t.correctedSince + 1 }) := h.plantedHit.modStack
  unfold State.stackCorrected
  dsimp only
  revert counted
  generalize ((t.plantedHit a m).modStack (stackOf a) _) = v
  intro counted
  have told : Reaches q s (if (v.stack (stackOf a)).correctedSince = 256 then v.setTroubleBit (.stack (stackOf a)) 0 else v) :=
    (counted.setTroubleBit rfl).ite counted
  revert told
  generalize (if (v.stack (stackOf a)).correctedSince = 256 then v.setTroubleBit (.stack (stackOf a)) 0 else v) = w
  intro told
  split
  · exact told.capture
  · split
    · exact told.capture.setPage.retirePending
    · exact told.capture.setPage

theorem stackUncorrectable {m : DamageMark} : Reaches q s (t.stackUncorrectable a n m) := by
  unfold State.stackUncorrectable
  dsimp only
  have told {v : State} {x : Nat} (hv : Reaches q s v) : Reaches q s (if x = 3 then v.setTroubleBit (.stack (stackOf a)) 3
      else if x = 4 then v.setTroubleBit (.stack (stackOf a)) 4 else v) :=
    (hv.setTroubleBit rfl).ite ((hv.setTroubleBit rfl).ite hv)
  split
  · exact told ((h.plantedHit.modStack.capture).setTroubleBit rfl)
  · exact (told ((h.plantedHit.modStack.capture).setTroubleBit rfl)).retirePending

theorem rowError {x : Defect} {bad planted : Bool} : Reaches q s (t.rowError k bad planted x) := by
  unfold State.rowError
  split
  · exact h
  · dsimp only
    split
    · exact h.rowErrors.addDefect
    · exact h.rowErrors

theorem sliceCorrected : Reaches q s (t.sliceCorrected p a) := by
  unfold State.sliceCorrected
  exact ((h.plantedHit.clearDamage.modCore.setTroubleBit rfl).ite h.plantedHit.clearDamage.modCore).rowError

theorem sliceUncorrectable {c : Nat} : Reaches q s (t.sliceUncorrectable p a c) := (h.plantedHit.setTroubleBit rfl).rowError

theorem millpondCorrected : Reaches q s (t.millpondCorrected d k a) := by
  unfold State.millpondCorrected
  exact ((h.plantedHit.clearDamage.modPond.setTroubleBit rfl).ite h.plantedHit.clearDamage.modPond).rowError

theorem millpondUncorrectable {m : DamageMark} : Reaches q s (t.millpondUncorrectable d a k n m) :=
  (h.plantedHit.modPond.setTroubleBit rfl).rowError

/-! ## The cache (R144 to R150) -/

theorem touchLine {l : CacheLine} : Reaches q s (t.touchLine d l) := h.modPond

theorem reached : Reaches q s (t.reached a) := h.modStack

theorem interface : ReachesFst q s (t.interface b k) := by
  have first : Reaches q s (if k = 3 then t else t.reached b) := h.ite h.reached
  unfold State.interface
  dsimp only
  revert first
  generalize (if k = 3 then t else t.reached b) = v
  intro first
  split
  · exact first
  · split
    · exact (setTroubleBit (r := .stack _) first.modStack rfl).stackUncorrectable.fst
    · exact setTroubleBit (r := .stack _) first.modStack rfl

theorem takeStray : Reaches q s (t.takeStray b) := h.modStack

theorem readCached : Reaches q s (t.readCached k g) := by
  unfold State.readCached
  exact h.millpondCorrected.ite (h.millpondUncorrectable.ite h)

/-! ## Reads (R128 to R130, R146, R168) -/

theorem readBlock : ReachesFst q s (t.readBlock b k) := by
  have e : ReachesFst q s (t.interface b k) := h.interface
  have taken : Reaches q s (if ((t.interface b k).1.strayAt b).isSome = true then (t.interface b k).1.takeStray b
      else (t.interface b k).1) := (Reaches.takeStray e).ite e
  unfold State.readBlock
  dsimp only
  revert taken
  generalize (if ((t.interface b k).1.strayAt b).isSome = true then (t.interface b k).1.takeStray b else (t.interface b k).1) = v
  intro taken
  split
  · exact taken
  split
  · exact taken
  split
  · split
    · exact taken.stackUncorrectable.fst
    · exact taken
  split
  · exact taken.stackUncorrectable.fst
  split
  · exact taken.stackCorrected
  · exact taken

theorem readBlocks {l : List Nat} : ReachesFst q s (t.readBlocks l) :=
  fstFoldl h fun _ _ hr => readBlock hr

theorem readGranules : ReachesFst q s (t.readGranules d a n) := by
  unfold State.readGranules
  refine fstFoldl h fun r x hr => ?_
  have hv : Reaches q s r.1 := hr
  obtain ⟨v, bad⟩ := r
  dsimp only at hv ⊢
  repeat' split
  all_goals first
    | exact hv
    | exact hv.millpondCorrected
    | exact hv.millpondUncorrectable.clearDamage
    | exact hv.millpondUncorrectable

/-! ## Writes (R131, R147, R171) -/

theorem writeBlocks : ReachesFst q s (t.writeBlocks a n) := by
  unfold State.writeBlocks
  dsimp only
  refine fstFoldl h fun r x hr => ?_
  obtain ⟨v, bad⟩ := r
  have hv : Reaches q s v := hr
  have next {c : Prop} [Decidable c] : ReachesFst q s (if c then v.readBlock x else v.interface x) := by
    split
    · exact hv.readBlock
    · exact hv.interface
  exact next

/-! ## Core-local accesses (R80, R128 to R131) -/

theorem readLocal {c : Nat} : ReachesFst q s (t.readLocal p a n c) := by
  unfold State.readLocal
  dsimp only
  split
  · split
    · exact h.modCore.setTroubleBit rfl
    · exact h
  · refine fstFoldl (r := (t, none)) h fun r x hr => ?_
    have hv : Reaches q s r.1 := hr
    obtain ⟨v, bad⟩ := r
    dsimp only at hv ⊢
    repeat' split
    all_goals first
      | exact hv
      | exact hv.sliceCorrected
      | exact hv.sliceUncorrectable

theorem firstLocalLost {l : List (Nat × Nat × Nat)} : ReachesFst q s (t.firstLocalLost l) := by
  unfold State.firstLocalLost
  split
  · exact h
  · exact h.sliceUncorrectable

/-! ## Records kept in memory: program areas (R64, R86, R87) and sequence areas (R248) -/

end

/-! ## Accesses that write -/

section

variable {w : Prop} (h : Reaches ⟨False, w⟩ s t)
include h

theorem writeKey {l : List Byte} : Reaches ⟨False, w⟩ s (t.writeKey k l) := by
  obtain ⟨m, rfl, -, hw⟩ := h
  exact of_store rfl ⟨nofun, hw⟩

theorem clearKey : Reaches ⟨False, w⟩ s (t.clearKey k n) := by
  obtain ⟨m, rfl, -, hw⟩ := h
  exact of_store rfl ⟨nofun, hw⟩

theorem damage {x : Sparse DamageMark} : Reaches ⟨False, w⟩ s { t with damage := x } := by
  obtain ⟨m, rfl, -, hw⟩ := h
  exact of_store rfl ⟨nofun, hw⟩

theorem setPond {x : Sparse Millpond} : Reaches ⟨False, w⟩ s { t with ponds := x } := by
  obtain ⟨m, rfl, -, hw⟩ := h
  exact of_store rfl ⟨nofun, hw⟩

theorem poisonBlock : Reaches ⟨False, w⟩ s (t.poisonBlock a) := h.clearKey.damage

theorem writeBackBlock : Reaches ⟨False, w⟩ s (t.writeBackBlock b) := by
  have reached : ReachesFst ⟨False, w⟩ s (((unitsOf 16 b 64).foldl (State.readCached · 4) t).interface b) :=
    (h.foldl fun _ _ hv => hv.readCached).interface
  unfold State.writeBackBlock
  exact Reaches.damage reached |>.ite (Reaches.poisonBlock reached |>.ite (Reaches.clearDamage reached))

theorem writeBackLine {l : CacheLine} : Reaches ⟨False, w⟩ s (t.writeBackLine l) :=
  (h.foldl fun _ _ hv => hv.writeBackBlock).ite h

theorem dropLines {q : CacheLine → Bool} : Reaches ⟨False, w⟩ s (t.dropLines d q) := by
  unfold State.dropLines
  refine modPond (foldl (foldl h fun _ _ hv => hv.writeBackLine) fun v l hv => ?_)
  exact hv.foldl fun _ _ hw => hw.clearDamage

theorem allocLine {c l : Nat} {dirty : Bool} : Reaches ⟨False, w⟩ s (t.allocLine d c l dirty) := by
  unfold State.allocLine
  split
  · exact h
  · exact h.dropLines.touchLine

theorem readLine {l : CacheLine} {x : List Nat} : ReachesFst ⟨False, w⟩ s (t.readLine d l x) := by
  have cached : Reaches ⟨False, w⟩ s (x.foldl (State.readCached · 3) t) := h.foldl fun _ _ hv => hv.readCached
  have again : ReachesFst ⟨False, w⟩ s (((x.foldl (State.readCached · 3) t).dropLines d (·.line == l.line)).readBlocks
      (unitsOf 64 (l.line * 256) 256)) := cached.dropLines.readBlocks
  unfold State.readLine
  split
  · exact cached
  · split
    · exact h.dropLines
    · dsimp only
      split
      next e => rw [e] at again; exact again
      next e => rw [e] at again; exact touchLine (t := _) again

theorem readExternalLine {who : Requester} : ReachesFst ⟨False, w⟩ s (t.readExternalLine who a n) := by
  unfold State.readExternalLine
  dsimp only
  split
  next l _ =>
    have read := h.readLine (d := homeDie a) (l := l) (x := unitsOf 16 a n)
    split
    next e => rw [e] at read; exact read
    next e => rw [e] at read; exact touchLine (t := _) read
  · split
    · exact h.readBlocks
    · have read := h.readBlocks (l := unitsOf 64 (a / 256 * 256) 256)
      split
      · exact read
      · exact allocLine (t := _) read

theorem readPart {who : Requester} : ReachesFst ⟨False, w⟩ s (t.readPart who a n) := by
  unfold State.readPart
  split
  · exact h.readExternalLine
  · exact h.readGranules
  · exact h.readGranules
  · exact h

theorem readDevice {who : Requester} : ReachesFst ⟨False, w⟩ s (t.readDevice who a n) :=
  fstFoldl (r := (t, (none : Option Nat))) h.fst fun _ _ hr => readPart (t := _) hr

theorem partLost {who : Requester} : ReachesFst ⟨False, w⟩ s (t.partLost who a n) := by
  unfold State.partLost
  split
  · split
    · split
      · exact h.readBlocks
      · exact h.writeBlocks
    next l _ =>
      have read := h.readLine (d := homeDie a) (l := l) (x := partUnits 16 a n)
      dsimp only
      split
      · exact read
      · exact writeBlocks (t := _) read
  · exact fstFoldl (r := (t, (none : Option Nat))) h.fst fun _ _ hr => readGranules (t := _) hr
  · exact fstFoldl (r := (t, (none : Option Nat))) h.fst fun _ _ hr => readGranules (t := _) hr
  · exact h

theorem partlyLost {who : Requester} : ReachesFst ⟨False, w⟩ s (t.partlyLost who a n) :=
  fstFoldl h fun _ _ hr => partLost (t := _) hr

theorem writeExternalLine {who : Requester} {l : List Byte} : Reaches ⟨False, w⟩ s (t.writeExternalLine who a l) := by
  have written : Reaches ⟨False, w⟩ s (t.writeKey a l) := h.writeKey
  have clear {v : State} (x y : List Nat) (q : State → Nat → Prop) [∀ v b, Decidable (q v b)] (hv : Reaches ⟨False, w⟩ s v) :
      Reaches ⟨False, w⟩ s (x.foldl (fun s b => if q s b then s.clearDamage b else s) (v.reached a)) :=
    hv.reached.foldl fun _ _ hw => hw.clearDamage.ite hw
  have rows (x : List Nat) : Reaches ⟨False, w⟩ s (x.foldl (fun s g => s.clearDamage (cacheKey g)) (t.writeKey a l)) :=
    written.foldl fun _ _ hw => hw.clearDamage
  unfold State.writeExternalLine
  dsimp only
  split
  · exact clear _ [] _ written
  · split
    · split
      · exact clear _ [] _ (rows _).touchLine
      · split
        · exact (rows _).touchLine
        · exact clear _ [] _ (rows _).touchLine
    · split
      · exact clear _ [] _ written
      · exact written.allocLine

theorem writePart {who : Requester} {l : List Byte} : Reaches ⟨False, w⟩ s (t.writePart who a l) := by
  unfold State.writePart
  split
  · exact h.writeExternalLine
  · exact h.writeKey.foldl fun _ _ hw => hw.clearDamage
  · exact h

theorem writeDevice {who : Requester} {l : List Byte} : Reaches ⟨False, w⟩ s (t.writeDevice who a l) :=
  h.foldl fun _ _ hw => hw.writePart

theorem writeOwn {l : List Byte} : Reaches ⟨False, w⟩ s (t.writeOwn a l) := by
  have read := h.partlyLost (who := {}) (a := a) (n := l.length)
  unfold State.writeOwn
  dsimp only
  split
  next e => rw [e] at read; exact writeDevice (t := _) read
  next e => rw [e] at read; exact foldl read fun _ _ hw => hw.writeDevice

theorem writeLocal {l : List Byte} : Reaches ⟨False, w⟩ s (t.writeLocal p a l) := by
  unfold State.writeLocal
  dsimp only
  split
  · exact h.writeKey.foldl fun _ _ hw => hw.clearDamage
  · exact h.writeKey.foldl fun _ _ hw => (hw.sliceCorrected.ite hw).ite hw.clearDamage

theorem placeBlocks {c : Nat} {q : Plan} : Reaches ⟨False, w⟩ s (t.placeBlocks c q k) :=
  h.modCore.foldl fun _ _ hw => hw.modCore.foldl fun _ _ hx => hx.writeLocal

theorem rebuildPrograms : Reaches ⟨False, w⟩ s (t.rebuildPrograms k) :=
  h.modCore.foldl fun _ _ hw => hw.foldl fun _ _ hx => hx.placeBlocks

end

/-! ## Writes that may wait for a split (R156) -/

section

variable (h : Accessed s t)
include h

theorem lateWrites {x : List (Nat × List Byte)} : Accessed s (t.modJournal fun j => { j with lateWrites := x }) := by
  obtain ⟨m, rfl, -, -, hu⟩ := h
  exact of_store rfl ⟨nofun, nofun, hu⟩

theorem writeScratch {l : List Byte} : Accessed s (t.writeScratch a l) := h.lateWrites.ite h.writeOwn

theorem writeLate : Accessed s t.writeLate := h.lateWrites.foldl fun _ _ hw => hw.writeScratch

theorem writeSlot {c j : Nat} : Accessed s (t.writeSlot c j) := by
  unfold State.writeSlot
  split
  · exact h
  · exact h.writeScratch.writeScratch

end

end Reaches

end Sys2Proof.Machine
end

section
/-! PROOFS. What sending a frame can change (R456 to R462, R458, R483). -/

namespace Sys2Proof.Machine

variable {s t u : State} {n : Nat}

/-- Between two states only frames have been sent: what goes out, with its packet numbers, the injections it met and their records. -/
def Sent (s t : State) : Prop := ∃ j l n o w a, t = { s with
  injections := j, log := l, logNext := n, out := o, wire := w, sec := { s.sec with assocs := a } }

/-- The same of a state that comes with an answer. -/
def SentFst {α : Type} (s : State) (r : State × α) : Prop := Sent s r.1

namespace Sent

theorem of_self (h : t = { s with
    injections := t.injections, log := t.log, logNext := t.logNext, out := t.out, wire := t.wire
    sec := { s.sec with assocs := t.sec.assocs } }) : Sent s t := ⟨_, _, _, _, _, _, h⟩

theorem refl : Sent s s := of_self rfl

theorem trans (h : Sent s t) (h' : Sent t u) : Sent s u := by
  obtain ⟨_, _, _, _, _, _, rfl⟩ := h
  obtain ⟨_, _, _, _, _, _, rfl⟩ := h'
  exact ⟨_, _, _, _, _, _, rfl⟩

theorem fst {α : Type} {x : α} (h : Sent s t) : SentFst s (t, x) := h

theorem foldl {α : Type} {f : State → α → State} {l : List α} (h : Sent s t) (hf : ∀ t x, Sent s t → Sent s (f t x)) :
    Sent s (l.foldl f t) := by
  induction l generalizing t with
  | nil => exact h
  | cons x l ih => exact ih (hf t x h)

theorem fstFoldl {α β : Type} {f : State × β → α → State × β} {l : List α} {r : State × β} (h : SentFst s r)
    (hf : ∀ r x, SentFst s r → SentFst s (f r x)) : SentFst s (l.foldl f r) := by
  induction l generalizing r with
  | nil => exact h
  | cons x l ih => exact ih (hf r x h)

section
variable (h : Sent s t)
include h

theorem modInjection {f : Injection → Injection} : Sent s (t.modInjection n f) := by
  obtain ⟨_, _, _, _, _, _, rfl⟩ := h
  exact of_self rfl

theorem log {l : List LogRecord} : Sent s { t with log := l, logNext := n } := by
  obtain ⟨_, _, _, _, _, _, rfl⟩ := h
  exact of_self rfl

theorem logInjected {j : Injection} : Sent s (t.logInjected j) := by
  unfold State.logInjected State.writeLog
  exact h.log

theorem injectionHit {j : Injection} : Sent s (t.injectionHit j) := by
  unfold State.injectionHit
  dsimp only
  have hit {v : State} {c : Prop} [Decidable c] {i : Injection} (hv : Sent s v) : Sent s (if c then v.logInjected i else v) := by
    split
    · exact hv.logInjected
    · exact hv
  exact hit (hit h.modInjection)

theorem passHeld : SentFst s (t.passHeld n) := by
  unfold State.passHeld
  split
  · exact h
  · exact h.modInjection.fst

theorem meetInjection {c : Carried} : SentFst s (t.meetInjection n c) := by
  unfold State.meetInjection
  dsimp only
  split
  · exact h
  · split
    · split
      · exact passHeld h.modInjection
      · split
        · exact h.modInjection.injectionHit.fst
        · exact passHeld h.modInjection.injectionHit
        · exact h.modInjection.injectionHit.modInjection.fst
        · exact passHeld h.modInjection.injectionHit
    · split
      · exact passHeld h
      · exact h

theorem throughInjections {c : Carried} : SentFst s (t.throughInjections c) := by
  unfold State.throughInjections State.passInjections
  refine fstFoldl h.fst fun r n hr => ?_
  exact fstFoldl (r := (r.1, ([] : List Carried))) hr fun r x hr => meetInjection (t := r.1) hr

theorem nextTag : SentFst s t.nextTag := by
  obtain ⟨_, _, _, _, _, _, rfl⟩ := h
  unfold State.nextTag
  split
  · exact of_self rfl
  · exact of_self rfl

theorem putOut {o : OutFrame} : Sent s (t.putOut o) := by
  unfold State.putOut
  split
  · obtain ⟨_, _, _, _, _, _, e⟩ := h.nextTag
    dsimp only
    rw [e]
    exact of_self rfl
  · exact h

theorem send {w : WireFrame} : Sent s (t.send w) := by
  unfold State.send
  split
  · obtain ⟨_, _, _, _, _, _, e⟩ := h.nextTag
    dsimp only
    rw [e]
    exact of_self rfl
  · exact h

theorem emit {o : OutFrame} : Sent s (t.emit o) := by
  unfold State.emit
  refine foldl (t := (t.throughInjections _).1) h.throughInjections fun v c hv => ?_
  cases c with
  | outward o => exact hv.putOut
  | inward f => exact hv

end

end Sent

/-- A reply is sent, and kept in its session. -/
theorem State.sendPayload_sent {sid n op : Nat} {l : List Byte} :
    ∃ x, Sent { s with sessions := x } (s.sendPayload sid n op l) := by
  unfold State.sendPayload
  split
  · exact ⟨_, Sent.refl⟩
  · exact ⟨_, Sent.emit Sent.refl⟩

end Sys2Proof.Machine
end

section
/-! PROOFS. Power domains switched off and on, and DOZE (R358 to R364). -/

namespace Sys2Proof.Machine

variable {s t u : State} {f : Frame} {j k n : Nat} {b g : Bool}

/-- What the work of switching a domain leaves alone. -/
structure SameRest (s t : State) : Prop where
  power : t.power = s.power
  uptime : t.uptime = s.uptime
  wheel : t.wheel = s.wheel
  contexts : t.contexts = s.contexts
  deviceState : t.dev.state = s.dev.state

namespace SameRest

theorem refl : SameRest s s := ⟨rfl, rfl, rfl, rfl, rfl⟩

theorem trans (h : SameRest s t) (h' : SameRest t u) : SameRest s u :=
  ⟨h'.power.trans h.power, h'.uptime.trans h.uptime, h'.wheel.trans h.wheel, h'.contexts.trans h.contexts,
    h'.deviceState.trans h.deviceState⟩

theorem foldl {α : Type} {f : State → α → State} {l : List α} (hf : ∀ t x, SameRest t (f t x)) : SameRest s (l.foldl f s) := by
  induction l generalizing s with
  | nil => exact refl
  | cons x l ih => exact (hf s x).trans ih

theorem of_accessed (h : Accessed s t) : SameRest s t := by
  obtain ⟨m, rfl, -⟩ := h
  exact ⟨rfl, rfl, rfl, rfl, rfl⟩

end SameRest

theorem State.setTroubleBit_port_same {x : Nat × Nat} {c : Nat} : SameRest s (s.setTroubleBit .port k x c) := by
  unfold State.setTroubleBit State.troubleRecord State.writeLog
  exact ⟨rfl, rfl, rfl, rfl, rfl⟩

theorem State.setTroubleBit_port_dev {x : Nat × Nat} {c : Nat} : (s.setTroubleBit .port k x c).dev = s.dev := by
  unfold State.setTroubleBit State.troubleRecord State.writeLog
  rfl

theorem State.modDev_same {h : Device → Device} (hd : (h s.dev).state = s.dev.state) : SameRest s (s.modDev h) :=
  ⟨rfl, rfl, rfl, rfl, hd⟩

theorem State.portDown_same : SameRest s s.portDown := by
  unfold State.portDown
  split
  · exact (State.modDev_same (by rfl)).trans State.setTroubleBit_port_same
  · exact SameRest.refl

theorem State.portDrops_same : SameRest s s.portDrops := by
  unfold State.portDrops
  split
  · exact SameRest.refl
  · have dropped : SameRest s (s.portDown.modDev fun d => { d with portWidth := s.portWidthOn }) :=
      State.portDown_same.trans (State.modDev_same (by rfl))
    dsimp only
    split
    · exact dropped.trans State.setTroubleBit_port_same
    · exact dropped

theorem State.portDown_portUp : s.portDown.dev.portUp = false := by
  unfold State.portDown
  split
  · rw [State.setTroubleBit_port_dev]
    rfl
  next h => simpa using h

/-! ## One domain switched -/

/-- A domain begins to wake. -/
def Domain.wakes (now : Nat) (d : Domain) : Domain :=
  { d with state := .waking, gated := false, since := now, wakeCount := saturate32 (d.wakeCount + 1) }

/-- A domain goes off. -/
def Domain.goesOff (byDoze gated : Bool) (now : Nat) (d : Domain) : Domain :=
  { d with state := .off, byDoze := byDoze, gated := gated, since := now }

/-- `t` is `s` with domain `k` changed to `d`, but for what its switching does elsewhere. -/
def Switched (s : State) (k : Nat) (d : Domain) (t : State) : Prop := SameRest (s.setDomain k d) t

theorem State.startWake_switched (h : (s.domain k).state = .off) (hk : k < 79) :
    Switched s k ((s.domain k).wakes s.uptime) (s.startWake k) := by
  unfold State.startWake
  rw [if_pos ⟨h, hk⟩]
  dsimp only
  split
  · exact State.portDown_same
  · exact SameRest.refl

theorem State.startWake_not (h : ¬((s.domain k).state = .off ∧ k < 79)) : s.startWake k = s := if_neg h

theorem State.loseCore_same {p : Nat} : SameRest s (s.loseCore p) := .of_accessed Reaches.refl.clearKey.modCore

theorem State.switchOff_switched (h : (s.domain k).state ≠ .off) (hk : k ≠ 79) :
    Switched s k ((s.domain k).goesOff b g s.uptime) (s.switchOff k b g) := by
  unfold State.switchOff
  rw [if_neg (not_or.mpr ⟨h, hk⟩)]
  dsimp only
  split
  · exact SameRest.foldl fun _ _ => State.loseCore_same
  split
  · exact .of_accessed Reaches.refl.dropLines.clearKey
  split
  · exact .of_accessed Reaches.refl.modStack
  split
  · exact State.portDrops_same
  · exact SameRest.foldl fun _ _ => ⟨rfl, rfl, rfl, rfl, rfl⟩

theorem State.switchOff_not (h : (s.domain k).state = .off ∨ k = 79) : s.switchOff k b g = s := if_pos h

/-! ## Many domains switched -/

/-- Two states that differ in the domains alone, but for what switching does elsewhere. -/
structure Switching (s t : State) : Prop where
  uptime : t.uptime = s.uptime
  wheel : t.wheel = s.wheel
  contexts : t.contexts = s.contexts
  deviceState : t.dev.state = s.dev.state
  waking : t.power.waking = s.power.waking
  dozeDue : t.power.dozeDue = s.power.dozeDue
  domains : swf {} s.power.domains = true → swf {} t.power.domains = true

theorem Switching.refl : Switching s s := ⟨rfl, rfl, rfl, rfl, rfl, rfl, id⟩

theorem Switching.trans (h : Switching s t) (h' : Switching t u) : Switching s u :=
  ⟨h'.uptime.trans h.uptime, h'.wheel.trans h.wheel, h'.contexts.trans h.contexts, h'.deviceState.trans h.deviceState,
    h'.waking.trans h.waking, h'.dozeDue.trans h.dozeDue, h'.domains ∘ h.domains⟩

theorem Switched.switching {d : Domain} (h : Switched s k d t) : Switching s t := by
  obtain ⟨hp, hu, hw, hc, hd⟩ := h
  exact ⟨hu, hw, hc, hd, by rw [hp]; rfl, by rw [hp]; rfl, fun hs => by rw [hp]; exact swf_sput hs⟩

theorem Switched.domain {d : Domain} (h : Switched s k d t) (hs : swf {} s.power.domains = true) :
    t.domain j = if j = k then d else s.domain j := by
  unfold State.domain
  rw [h.power]
  split
  next e => rw [e]; exact sget_sput_self hs
  next e => exact sget_sput_other hs e

/-- `f` switches the domains that `may` names, each as `sw` says, and one switched already no more. -/
structure Switches (f : State → Nat → State) (may : Nat → Domain → Prop) (sw : Nat → Domain → Domain) : Prop where
  acts : ∀ s k, may k (s.domain k) → Switched s k (sw s.uptime (s.domain k)) (f s k)
  rests : ∀ s k, ¬may k (s.domain k) → f s k = s
  once : ∀ n k d, ¬may k (sw n d)

section
variable {f : State → Nat → State} {may : Nat → Domain → Prop} {sw : Nat → Domain → Domain} (hf : Switches f may sw)
include hf

theorem Switches.switching : Switching s (f s k) := by
  by_cases h : may k (s.domain k)
  · exact (hf.acts s k h).switching
  · rw [hf.rests s k h]
    exact .refl

theorem Switches.foldl_switching {l : List Nat} : Switching s (l.foldl f s) := by
  induction l generalizing s with
  | nil => exact .refl
  | cons k l ih => exact hf.switching.trans ih

theorem Switches.domain_self (hs : swf {} s.power.domains = true) (h : may k (s.domain k)) :
    (f s k).domain k = sw s.uptime (s.domain k) := by
  rw [(hf.acts s k h).domain hs, if_pos rfl]

theorem Switches.domain_other (hs : swf {} s.power.domains = true) (h : j ≠ k ∨ ¬may k (s.domain k)) :
    (f s k).domain j = s.domain j := by
  by_cases hm : may k (s.domain k)
  · rw [(hf.acts s k hm).domain hs, if_neg (h.resolve_right (not_not_intro hm))]
  · rw [hf.rests s k hm]

theorem Switches.foldl_domain_other {l : List Nat} (hs : swf {} s.power.domains = true) (h : j ∉ l ∨ ¬may j (s.domain j)) :
    (l.foldl f s).domain j = s.domain j := by
  induction l generalizing s with
  | nil => rfl
  | cons k l ih =>
    have same : (f s k).domain j = s.domain j := hf.domain_other hs (by
      by_cases e : j = k
      · subst e
        exact .inr (h.resolve_left (fun hn => hn (List.mem_cons_self ..)))
      · exact .inl e)
    exact (ih (hf.switching.domains hs) (h.imp (fun hn hj => hn (List.mem_cons_of_mem _ hj)) (fun hm => same ▸ hm))).trans same

theorem Switches.foldl_domain_self {l : List Nat} (hs : swf {} s.power.domains = true) (hj : j ∈ l) (h : may j (s.domain j)) :
    (l.foldl f s).domain j = sw s.uptime (s.domain j) := by
  induction l generalizing s with
  | nil => cases hj
  | cons k l ih =>
    have hs' := (hf.switching (k := k)).domains hs
    by_cases e : j = k
    · subst e
      have switched := hf.domain_self hs h
      have stays := hf.foldl_domain_other (l := l) (j := j) hs' (.inr (by rw [switched]; exact hf.once _ _ _))
      exact stays.trans switched
    · have same : (f s k).domain j = s.domain j := hf.domain_other hs (.inl e)
      have later := ih hs' ((List.mem_cons.mp hj).resolve_left e) (same ▸ h)
      rw [same, hf.switching.uptime] at later
      exact later

end

theorem startWake_switches : Switches State.startWake (fun k d => d.state = .off ∧ k < 79) Domain.wakes where
  acts _ _ h := State.startWake_switched h.1 h.2
  rests _ _ h := State.startWake_not h
  once _ _ _ h := nomatch h.1

theorem switchOff_switches : Switches (fun s k => s.switchOff k b g) (fun k d => d.state ≠ .off ∧ k ≠ 79) (Domain.goesOff b g) where
  acts _ _ h := State.switchOff_switched h.1 h.2
  rests _ _ h := State.switchOff_not (by tauto)
  once _ _ _ h := h.1 rfl

/-! ## POWER.DOMAIN (R361) -/

/-- The domains that POWER.DOMAIN changes, of those that it names. -/
def State.toSwitch (s : State) (op mask : Nat) : List Nat := (bitsSet mask 79).filter fun k => !s.inState op k

theorem mem_bitsSet {v n k : Nat} : k ∈ bitsSet v n ↔ k < n ∧ v.testBit k = true := by
  unfold bitsSet
  rw [List.mem_filter, List.mem_range]
  rfl

theorem State.mem_toSwitch_on {mask : Nat} : k ∈ s.toSwitch 1 mask ↔ k ∈ bitsSet mask 79 ∧ (s.domain k).state = .off := by
  unfold State.toSwitch State.inState
  rw [List.mem_filter]
  simp

theorem State.mem_toSwitch_off {mask : Nat} : k ∈ s.toSwitch 0 mask ↔ k ∈ bitsSet mask 79 ∧ (s.domain k).state ≠ .off := by
  unfold State.toSwitch State.inState
  rw [List.mem_filter]
  simp

theorem bodyPowerDomain_on {mask : Nat} (ho : le f.payload 0 1 = 1) (hm : le f.payload 6 10 = mask) (h0 : 0 < mask)
    (h79 : mask.testBit 79 = false) (hl : legalDevice 0x1301 u = none)
    (hon : ∀ k ∈ bitsSet mask 79, (u.domain k).state = .off → u.mayOn k = true) :
    bodyPowerDomain f u = .reply {} ((u.toSwitch 1 mask).foldl State.startWake u) := by
  have none_refused : ((u.toSwitch 1 mask).find? fun k => !u.mayOn k) = none :=
    List.find?_eq_none.mpr fun k hk => by
      obtain ⟨hb, hs⟩ := State.mem_toSwitch_on.mp hk
      rw [hon k hb hs]
      decide
  unfold bodyPowerDomain
  dsimp only
  rw [ho, hm, zeroField_false (decide_eq_false (by omega))]
  refine checked_go (firstFailing_eq_none.mpr ?_)
  simp only [List.forall_mem_cons]
  exact ⟨rfl, when_eq_none.mpr h79, hl, by unfold State.toSwitch at none_refused; simp [none_refused], by simp⟩

theorem bodyPowerDomain_off {mask : Nat} (ho : le f.payload 0 1 = 0) (hm : le f.payload 6 10 = mask) (h0 : 0 < mask)
    (h79 : mask.testBit 79 = false) (hl : legalDevice 0x1301 u = none)
    (hoff : ∀ k ∈ bitsSet mask 79, (u.domain k).state ≠ .off → u.mayOff mask k = true) :
    bodyPowerDomain f u = .reply {} ((u.toSwitch 0 mask).foldl (fun s k => s.switchOff k false false) u) := by
  have none_refused : ((u.toSwitch 0 mask).find? fun k => !u.mayOff mask k) = none :=
    List.find?_eq_none.mpr fun k hk => by
      obtain ⟨hb, hs⟩ := State.mem_toSwitch_off.mp hk
      rw [hoff k hb hs]
      decide
  unfold bodyPowerDomain
  dsimp only
  rw [ho, hm, zeroField_false (decide_eq_false (by omega))]
  refine checked_go (firstFailing_eq_none.mpr ?_)
  simp only [List.forall_mem_cons]
  exact ⟨rfl, when_eq_none.mpr h79, hl, by unfold State.toSwitch at none_refused; simp [none_refused], by simp⟩

/-- No domain of the port begins to wake: nothing but the domains changes. -/
theorem State.startWake_power (h6 : k ≠ 76) (h7 : k ≠ 77) : ∃ p, s.startWake k = { s with power := p } := by
  unfold State.startWake
  split
  · dsimp only
    rw [if_neg (fun h => h.1.elim h6 h7)]
    exact ⟨_, rfl⟩
  · exact ⟨_, rfl⟩

theorem State.foldl_startWake_power {l : List Nat} (h6 : 76 ∉ l) (h7 : 77 ∉ l) :
    ∃ p, l.foldl State.startWake s = { s with power := p } := by
  induction l generalizing s with
  | nil => exact ⟨_, rfl⟩
  | cons k l ih =>
    simp only [List.mem_cons, not_or] at h6 h7
    obtain ⟨p, hp⟩ := State.startWake_power (s := s) (Ne.symm h6.1) (Ne.symm h7.1)
    obtain ⟨q, hq⟩ := ih (s := s.startWake k) h6.2 h7.2
    rw [hp] at hq
    exact ⟨q, by rw [List.foldl_cons, hp, hq]⟩

theorem State.portWidthWith_one {st : DomainState} (h : s.portWidthWith st = 1) : s.isOn 76 = true ∨ (s.domain 76).state = st := by
  unfold State.portWidthWith at h
  dsimp only at h
  by_contra hn
  simp only [not_or, Bool.not_eq_true] at hn
  simp [hn.1, hn.2] at h

theorem State.isOn_of {s : State} (h : (s.domain k).state = .on) : s.isOn k = true := by simp [State.isOn, h]

theorem State.widthOver_both : s.widthOver 0 = s.dev.mediumWidth := by simp [State.widthOver, State.lane0Missing]

theorem State.widthOver_one : s.widthOver 1 = max 1 s.dev.mediumWidth := by simp [State.widthOver, State.lane0Missing]

theorem State.isOn_setDomain_other {d : Domain} (hs : swf {} s.power.domains = true) (h : j ≠ k) :
    (s.setDomain k d).isOn j = s.isOn j := by
  unfold State.isOn State.domain State.setDomain
  rw [sget_sput_other hs h]

theorem State.domain_setDomain_self {d : Domain} (hs : swf {} s.power.domains = true) : (s.setDomain k d).domain k = d :=
  sget_sput_self hs

/-- The second lane begins to wake beside the first: the link is to have both, and drops (R360). -/
theorem State.startWake_secondLane (hs : swf {} s.power.domains = true) (h : (s.domain 77).state = .off) (hm : s.dev.mediumWidth = 0)
    (hw : s.portWidthOn = 1) (hp : s.dev.portWidth = 1) : (s.startWake 77).dev.portUp = false := by
  have one : s.portWidthWith .on = 1 := by
    unfold State.portWidthOn State.widthOver at hw
    split at hw <;> omega
  have first : s.isOn 76 = true := (State.portWidthWith_one one).elim id State.isOn_of
  obtain ⟨v, hv⟩ : ∃ v, v = s.setDomain 77 ((s.domain 77).wakes s.uptime) := ⟨_, rfl⟩
  have both : v.portWidthWith .waking = 0 := by
    have h6 : v.isOn 76 = true := by rw [hv, State.isOn_setDomain_other hs (by decide), first]
    have h7 : (v.domain 77).state = .waking := by rw [hv, State.domain_setDomain_self hs]; rfl
    simp [State.portWidthWith, h6, h7]
  have wide : v.widthOver (v.portWidthWith .waking) ≠ v.dev.portWidth := by
    have hd : v.dev = s.dev := by rw [hv]; rfl
    rw [both, State.widthOver_both, hd, hm, hp]
    decide
  have drops : s.startWake 77 = v.portDown := by
    unfold State.startWake
    rw [if_pos ⟨h, by decide⟩]
    rw [hv] at wide ⊢
    exact if_pos ⟨.inr rfl, wide⟩
  rw [drops]
  exact State.portDown_portUp

/-- The second lane goes off beside the first: the link drops, and its width is that of one lane (R360). -/
theorem State.switchOff_secondLane (hs : swf {} s.power.domains = true) (h : (s.domain 77).state = .on) (h6 : s.isOn 76 = true)
    (hm : s.dev.mediumWidth ≤ 1) (hp : s.dev.portWidth = 0) :
    (s.switchOff 77 b g).dev.portWidth = 1 ∧ (s.switchOff 77 b g).dev.portUp = false := by
  obtain ⟨v, hv⟩ : ∃ v, v = s.setDomain 77 ((s.domain 77).goesOff b g s.uptime) := ⟨_, rfl⟩
  have hd : v.dev = s.dev := by rw [hv]; rfl
  have one : v.portWidthWith .on = 1 := by
    have first : v.isOn 76 = true := by rw [hv, State.isOn_setDomain_other hs (by decide), h6]
    have second : (v.domain 77).state = .off := by rw [hv, State.domain_setDomain_self hs]; rfl
    have off : v.isOn 77 = false := by simp [State.isOn, second]
    simp [State.portWidthWith, first, second, off]
  have width : v.portWidthOn = 1 := by
    unfold State.portWidthOn
    rw [one, State.widthOver_one, hd]
    omega
  have drops : s.switchOff 77 b g = v.portDrops := by
    unfold State.switchOff
    rw [if_neg (by simp [h])]
    rw [hv]
    rfl
  have there : v.lane0Missing (v.portWidthWith .on) = false := by rw [one]; rfl
  rw [drops]
  unfold State.portDrops
  rw [if_neg (by rw [hd, width, hp]; decide)]
  dsimp only
  rw [there, if_neg (by decide)]
  exact ⟨width, State.portDown_portUp⟩

/-! ## POWER.DOZE and POWER.WAKE (R363, R364) -/

theorem bodyPowerDoze_done (h79 : (le f.payload 6 10).testBit 79 = false) (hl : legalDevice 0x1303 u = none)
    (ha : ∀ d, d < 64 → u.ctxState d ≠ .active) (hb : ∀ b ∈ u.schedule.bookings, u.bookingOver b = true)
    (hk : ∀ k, k < 8 → u.recoding k = false ∧ (u.stack k).sweep = none) (hd : ∀ d, d < 4 → (u.pond d).resplit = none) :
    bodyPowerDoze f u = .reply { data := leBytes 10 (maskOf (u.dozeKeeps (le f.payload 6 10))) } { u with power := { u.power with
      dozeDue := u.power.dozeDue ++ [(f.session.toNat, f.number.toNat, u.dozeKeeps (le f.payload 6 10), false)] } } := by
  have idle : (List.range 64).find? (fun c => decide (u.ctxState c = .active)) = none :=
    List.find?_eq_none.mpr fun c hc => by simpa using ha c (List.mem_range.mp hc)
  have unbooked : u.schedule.bookings.find? (fun b => !u.bookingOver b) = none :=
    List.find?_eq_none.mpr fun b hm => by simp [hb b hm]
  have swept : (List.range 8).find? (fun k => u.recoding k || (u.stack k).sweep.isSome) = none :=
    List.find?_eq_none.mpr fun k hm => by simp [hk k (List.mem_range.mp hm)]
  have unsplit : (List.range 4).find? (fun d => (u.pond d).resplit.isSome) = none :=
    List.find?_eq_none.mpr fun d hm => by simp [hd d (List.mem_range.mp hm)]
  unfold bodyPowerDoze
  dsimp only
  refine checked_go (firstFailing_eq_none.mpr ?_)
  simp only [List.forall_mem_cons]
  exact ⟨when_eq_none.mpr h79, hl, by rw [idle]; rfl, by rw [unbooked]; rfl, by rw [swept]; rfl, by rw [unsplit]; rfl, by simp⟩

theorem bodyPowerWake_done (hl : legalDevice 0x1304 u = none) : bodyPowerWake u =
    .reply {} ((((List.range 79).filter fun k => (u.domain k).byDoze).foldl State.startWake u).modPower fun p =>
      { p with waking := true }) := by
  unfold bodyPowerWake
  exact checked_go (firstFailing_eq_none.mpr (by simp [hl]))

theorem bodyPowerPolicy_done {m c i : Nat} (hm : le f.payload 0 1 = m) (hc : le f.payload 2 2 = c) (hi : le f.payload 4 4 = i)
    (h : m &&& 0x82 = 0) (h1 : 320 ≤ c) (h2 : c ≤ 2400) (h3 : 1024 ≤ i) (h4 : i ≤ 67108864) (hl : legalDevice 0x1302 u = none) :
    bodyPowerPolicy f u = .reply {} { u with power := { u.power with autoMask := m, hostCap := c, idleThreshold := i } } := by
  unfold bodyPowerPolicy
  dsimp only
  rw [hm, hc, hi]
  refine checked_go (firstFailing_eq_none.mpr ?_)
  simp only [List.forall_mem_cons]
  exact ⟨when_eq_none.mpr (by simp [h]), when_eq_none.mpr (decide_eq_false (by omega)), when_eq_none.mpr (decide_eq_false (by omega)),
    hl, by simp⟩

theorem State.wakeEnds_switched : Switched s k { s.domain k with state := .on } (s.wakeEnds k) := by
  unfold State.wakeEnds
  dsimp only
  split
  · refine SameRest.foldl fun v p => ?_
    have idle : SameRest v (v.modCore p fun x => { x with state := if x.state = .disabled then .disabled else .idle }) :=
      .of_accessed Reaches.refl.modCore
    split
    · exact idle
    · exact idle.trans (.of_accessed Reaches.refl.rebuildPrograms)
  split
  · refine SameRest.foldl fun v e => ?_
    split
    · split
      · refine .of_accessed ?_
        exact Reaches.refl.writeOwn.writeOwn.foldl fun _ _ hw => hw.writeSlot
      · exact .refl
    · exact .refl
  split
  · exact .of_accessed Reaches.refl.modStack
  split
  · exact ⟨rfl, rfl, rfl, rfl, rfl⟩
  · exact SameRest.foldl fun _ _ => ⟨rfl, rfl, rfl, rfl, rfl⟩

/-- What DOZE does not keep is switched off, once its reply has gone. -/
theorem State.dozeOff_eq {e : Nat × Nat × List Nat × Bool} (h : s.power.dozeDue = [e]) (he : e.2.2.2 = true) : s.dozeOff =
    ((List.range 79).filter fun k => !e.2.2.1.contains k).foldl (fun s k => s.switchOff k true false)
      (s.modPower fun p => { p with dozeDue := [] }) := by
  have cleared : (s.modPower fun p => { p with dozeDue := p.dozeDue.filter fun e => !e.2.2.2 }) =
      s.modPower fun p => { p with dozeDue := [] } := by
    unfold State.modPower
    simp [h, he]
  have due : s.power.dozeDue.filter (·.2.2.2) = [e] := by simp [h, he]
  unfold State.dozeOff
  rw [cleared, due]
  rfl

theorem State.afterReply_doze {sid : Nat} {keep : List Nat} (hs : s.inService = true) (hd : s.dev.state ≠ .doze)
    (hp : s.power.dozeDue = [(sid, n, keep, false)]) : (s.afterReply sid n 0x1303).dev = { s.dev with state := .doze, wakeTo := s.dev.state } ∧
      (s.afterReply sid n 0x1303).power = { s.power with waking := false, dozeDue := [(sid, n, keep, true)] } := by
  have due : (s.inService && s.dev.state != .doze && s.power.dozeDue.any fun e => e.1 == sid && e.2.1 == n && !e.2.2.2) = true := by
    simp [hs, hd, hp]
  have e : s.afterReply sid n 0x1303 = s.dozeReplied sid n := rfl
  rw [e]
  unfold State.dozeReplied
  rw [if_pos due]
  refine ⟨rfl, ?_⟩
  change Power.mk .. = Power.mk ..
  simp [hp]

theorem State.endSession_ite {c : Prop} [Decidable c] {sid : Nat} : (if c then s.endSession sid else s).dev = s.dev ∧
    (if c then s.endSession sid else s).power = s.power := by
  split <;> exact ⟨rfl, rfl⟩

theorem State.toSwitch_secondLane (h : (s.domain 77).state = .off) : s.toSwitch 1 (2 ^ 77) = [77] := by
  have only : bitsSet (2 ^ 77) 79 = [77] := by decide
  unfold State.toSwitch
  rw [only]
  simp [State.inState, h]

theorem State.toSwitch_secondLane_off (h : (s.domain 77).state ≠ .off) : s.toSwitch 0 (2 ^ 77) = [77] := by
  have only : bitsSet (2 ^ 77) 79 = [77] := by decide
  unfold State.toSwitch
  rw [only]
  simp [State.inState, h]

/-- Settles O41. -/
theorem powerCommandsSwitchDomains : Obligations.PowerCommandsSwitchDomains := by
  unfold Obligations.PowerCommandsSwitchDomains
  refine ⟨?policy, ?domain, ?doze, ?dozeReply, ?dozeOff, ?wake, ?wakeDone, ?wakeComplete⟩
  case policy =>
    intro f s m c i h hm hc hi h0 h1 h2 h3 h4 hl
    obtain ⟨l, hl, he⟩ := h.effect (i := .powerPolicy f) (r := {})
      (v := fun l => { s with sessions := l, power := { s.power with autoMask := m, hostCap := c, idleThreshold := i } }) (fun _ => rfl)
      (by decide) (by decide) ⟨rfl, rfl⟩
      (fun l _ => (body_high h.opcode (by decide) (by decide) (by decide)).trans
        (bodyPowerPolicy_done (u := { s with sessions := l }) hm hc hi h0 h1 h2 h3 h4 hl))
      (fun l => ⟨rfl, rfl, rfl, rfl⟩)
    exact ⟨_, he, rfl, rfl⟩
  case domain =>
    intro f s u c mask h hm h0 h79 hl
    have hs : swf {} u.power.domains = true := by
      rw [h.state]
      exact h.delivered.canonical.domains
    refine ⟨fun ho hon => ⟨_, h.handles (by decide) (by decide) (fun _ => rfl) ((h.high (by decide) (by decide) (by decide)).trans
      (bodyPowerDomain_on ho hm h0 h79 hl hon)), ?_, ?_, ?_, ?_⟩,
      fun ho hoff => ⟨_, h.handles (by decide) (by decide) (fun _ => rfl) ((h.high (by decide) (by decide) (by decide)).trans
      (bodyPowerDomain_off ho hm h0 h79 hl hoff)), ?_, ?_, ?_, ?_, ?_⟩⟩
    · intro h6 h7
      have out {k : Nat} (hk : mask.testBit k = false) : k ∉ u.toSwitch 1 mask := fun hn => by
        rw [(mem_bitsSet.mp (State.mem_toSwitch_on.mp hn).1).2] at hk
        cases hk
      obtain ⟨p, hp⟩ := State.foldl_startWake_power (s := u) (out h6) (out h7)
      rw [hp]
    · rintro rfl hoff hmed hw hp
      rw [State.toSwitch_secondLane hoff]
      exact State.startWake_secondLane hs hoff hmed hw hp
    · intro k hk
      split
      next hoff => exact startWake_switches.foldl_domain_self hs (State.mem_toSwitch_on.mpr ⟨hk, hoff⟩) ⟨hoff, (mem_bitsSet.mp hk).1⟩
      next hoff => exact startWake_switches.foldl_domain_other hs (.inr fun hn => hoff hn.1)
    · intro k hk
      exact startWake_switches.foldl_domain_other hs (.inl fun hn => hk (State.mem_toSwitch_on.mp hn).1)
    · intro k hk
      by_cases hoff : (u.domain k).state = .off
      · rw [switchOff_switches.foldl_domain_other hs (.inr fun hn => hn.1 hoff)]
        exact hoff
      · have hk79 : k ≠ 79 := by have := (mem_bitsSet.mp hk).1; omega
        rw [switchOff_switches.foldl_domain_self hs (State.mem_toSwitch_off.mpr ⟨hk, hoff⟩) ⟨hoff, hk79⟩]
        rfl
    · intro k hk
      exact switchOff_switches.foldl_domain_other hs (.inl fun hn => hk (State.mem_toSwitch_off.mp hn).1)
    · rintro rfl hon h6 hmed hp
      rw [State.toSwitch_secondLane_off (by rw [hon]; decide)]
      exact State.switchOff_secondLane hs hon h6 hmed hp
    · exact switchOff_switches.foldl_switching.wheel
    · exact switchOff_switches.foldl_switching.contexts
  case doze =>
    intro f s u c h h79 hl ha hb hk hd
    exact ⟨_, h.handles (by decide) (by decide) (fun _ => rfl) ((h.high (by decide) (by decide) (by decide)).trans
      (bodyPowerDoze_done h79 hl ha hb hk hd)), rfl⟩
  case dozeReply =>
    intro s e keep he ho hs hd hp
    obtain ⟨v, hv⟩ : ∃ v, v = s.modJournal fun j => { j with effects := j.effects.drop 1, waitingSince := s.uptime } := ⟨_, rfl⟩
    have hrun : exec (.journalWriteAck true) s = .next (v.deliverReply e.session e.number 0x1303 e.payload) := by
      change execJournalWriteAck true s = _
      unfold execJournalWriteAck State.effectHeld
      rw [he, ← hv, ← ho]
      rfl
    obtain ⟨x, j, l, n, o, w, a, hsent⟩ := State.sendPayload_sent (s := v) (sid := e.session) (n := e.number) (op := 0x1303) (l := e.payload)
    have hdev : (v.sendPayload e.session e.number 0x1303 e.payload).dev = s.dev := by rw [hsent, hv]; rfl
    have hpow : (v.sendPayload e.session e.number 0x1303 e.payload).power = s.power := by rw [hsent, hv]; rfl
    refine ⟨_, hrun, ?_⟩
    unfold State.deliverReply
    dsimp only
    rw [State.endSession_ite.1, State.endSession_ite.2, ← hdev, ← hpow]
    exact State.afterReply_doze (by unfold State.inService at *; rw [hdev]; exact hs) (by rw [hdev]; exact hd) (by rw [hpow]; exact hp)
  case dozeOff =>
    intro s k sid n keep hcan hp
    have hs : swf {} s.power.domains = true := hcan.domains
    have he := State.dozeOff_eq hp rfl
    obtain ⟨v, hv⟩ : ∃ v, v = s.modPower fun p => { p with dozeDue := [] } := ⟨_, rfl⟩
    have hsv : swf {} v.power.domains = true := by rw [hv]; exact hs
    have hdom : v.domain k = s.domain k := by rw [hv]; rfl
    rw [← hv] at he
    obtain ⟨-, hwheel, -, hstate, -, hdue, -⟩ := (switchOff_switches (b := true) (g := false)).foldl_switching (s := v)
      (l := (List.range 79).filter fun k => !keep.contains k)
    rw [he]
    refine ⟨hdue.trans (by rw [hv]; rfl), hwheel.trans (by rw [hv]; rfl), hstate.trans (by rw [hv]; rfl), fun hk hn => ?_, fun hn => ?_⟩
    · have hmem : k ∈ (List.range 79).filter fun k => !keep.contains k := List.mem_filter.mpr ⟨List.mem_range.mpr hk, by rw [hn]; rfl⟩
      by_cases hoff : (v.domain k).state = .off
      · have same := (switchOff_switches (b := true) (g := false)).foldl_domain_other (j := k)
          (l := (List.range 79).filter fun k => !keep.contains k) hsv (.inr fun hx => hx.1 hoff)
        exact ⟨by rw [same]; exact hoff, fun hx => absurd (hdom ▸ hoff) hx⟩
      · have switched := (switchOff_switches (b := true) (g := false)).foldl_domain_self hsv hmem ⟨hoff, by omega⟩
        exact ⟨by rw [switched]; rfl, fun _ => by rw [switched]; rfl⟩
    · rw [switchOff_switches.foldl_domain_other hsv (.inl fun hx => absurd (List.mem_filter.mp hx).2 (by rw [hn]; decide)), hdom]
  case wake =>
    intro f s u c h hl
    have hs : swf {} u.power.domains = true := by
      rw [h.state]
      exact h.delivered.canonical.domains
    refine ⟨_, h.handles (by decide) (by decide) (fun _ => rfl) ((h.high (by decide) (by decide) (by decide)).trans
      (bodyPowerWake_done hl)), rfl, fun h6 h7 => ?_, fun k hk hb hoff => ?_, fun k hb => ?_⟩
    · obtain ⟨p, hp⟩ := State.foldl_startWake_power (s := u) (l := (List.range 79).filter fun k => (u.domain k).byDoze)
        (by simp [h6]) (by simp [h7])
      rw [hp]
      rfl
    · have hmem : k ∈ (List.range 79).filter fun k => (u.domain k).byDoze := List.mem_filter.mpr ⟨List.mem_range.mpr hk, hb⟩
      exact congrArg Domain.state (startWake_switches.foldl_domain_self hs hmem ⟨hoff, hk⟩)
    · exact startWake_switches.foldl_domain_other hs (.inl (by simp [hb]))
  case wakeDone =>
    intro s k hcan hw
    refine ⟨fun ht => ?_, fun ht => event_false (decide_eq_false (by omega))⟩
    have switched := State.wakeEnds_switched (s := s) (k := k)
    have hdom {j : Nat} := switched.domain (j := j) hcan.domains
    refine ⟨_, event_true (decide_eq_true ⟨hw, ht⟩), ?_, ?_, switched.deviceState, switched.wheel⟩
    · rw [hdom, if_pos rfl]
    · intro j hj
      rw [hdom, if_neg hj]
  case wakeComplete =>
    intro s hd hw hall
    refine ⟨_, event_true ?_, rfl, rfl, ?_, rfl⟩
    · simp only [hd, hw, beq_self_eq_true, Bool.and_self, Bool.true_and, List.all_eq_true, Bool.or_eq_true, decide_true]
      intro e he
      cases hb : e.2.byDoze with
      | false => exact .inl rfl
      | true => exact .inr (beq_iff_eq.mpr (hall e he hb))
    · intro e he
      obtain ⟨x, -, hx⟩ := mem_smap (show (e.1, e.2) ∈ smap {} (fun _ d => { d with byDoze := false }) s.power.domains from he)
      rw [hx]

end Sys2Proof.Machine
end

section
/-! PROOFS. A device in service for counterexamples, with a frame that it takes; and SEQ.AREA of a range in a Millpond whose split
changes (R156, R259). -/

namespace Sys2Proof.Machine

variable {s t u : State} {f : Frame} {op c d n : Nat}

/-! ## A frame that the device takes -/

/-- A frame with its length, its tag under the empty key and its CRC (R303, R456). -/
def sumsSet (f : Frame) : Frame :=
  let tagged := { f with
    length := BitVec.ofNat 16 f.payload.length
    tag := frameTag [] { f with length := BitVec.ofNat 16 f.payload.length } }
  { tagged with crc := frameCrc tagged }

theorem sumsSet_tag : (sumsSet f).tag = frameTag [] (sumsSet f) := by simp only [sumsSet, frameTag, headerBytes]

theorem sumsSet_crc : (sumsSet f).crc = frameCrc (sumsSet f) := by simp only [sumsSet, frameCrc, headerBytes]

/-- What the port and the session ask of a frame, beside its sums (R303, R305, R309). -/
structure Taken (op : Nat) (f : Frame) (s : State) (x : Session) : Prop where
  answers : s.answers = true
  clear : s.sec.transmits = none ∧ s.sec.required = false ∧ s.injections = [] ∧ f.path.secured = none ∧ s.accepts f = true
  fields : f.version = 1 ∧ f.kind = 0 ∧ f.length.toNat = f.payload.length ∧ f.session ≠ 0 ∧ f.opcode.toNat = op
  session : s.session f.session.toNat = x
  isOpen : x.isOpen = true ∧ x.tagKey = [] ∧ f.number.toNat = x.next ∧ x.held = [] ∧ x.endAfter = none

theorem Taken.letIn {x : Session} (h : Taken op f s x) : s.letIn f.path.secured = (s, true) := by
  obtain ⟨ha, ⟨-, hr, -, hp, -⟩, -⟩ := h
  have up : s.dev.portUp = true := by
    unfold State.answers at ha
    simp_all
  unfold State.letIn
  rw [hp, up]
  simp [hr]

theorem Taken.numbered {x : Session} (h : Taken op f s x) (hs : s.Canonical) (ht : f.tag = frameTag [] f) (hc : f.crc = frameCrc f) :
    Numbered op f s := by
  have admitted := h.letIn
  obtain ⟨ha, ⟨htr, hr, hi, hp, hacc⟩, ⟨hv, hk, hl, h0, hop⟩, rfl, ⟨hopen, hkey, hn, hheld, hend⟩⟩ := h
  have sound : s.badFrame f = false := by
    unfold State.badFrame
    dsimp only
    rw [← hc, hv, hk, hl, hkey, ← ht, hopen]
    rw [beq_false_of_ne h0]
    simp
  exact
    { canonical := hs, answers := ha, admitted := ⟨s, admitted⟩, accepts := hacc, plain := by rw [hi]; nofun, clear := htr
      sound := sound, kind := hk, opcode := hop, inSession := h0, number := hn, held := hheld, stays := hend }

/-! ## A device in service -/

/-- A device in service with context 0 open, bound to session 1. -/
def bench : State :=
  { ({} : State) with
    dev := { ({} : Device) with state := .ready, stage := 10, portUp := true }
    contexts := [(0, { state := .open, grant := { padFirst := [512, 0, 0, 0], padCount := [64, 0, 0, 0], runs := [(0, 4)] } })]
    sessions := [(1, { isOpen := true, context := 0 })] }

theorem bench_canonical : bench.Canonical :=
  { reset_kept.2 with
    contexts := ⟨by decide, by simp [bench, Context.Canonical]⟩
    sessions := by decide }

/-- A frame of that session that the bench takes. -/
theorem bench_taken {p : List Byte} {m : Sparse Millpond} {j : Journal} {op : Nat} (ho : op < 65536)
    (hf : f = sumsSet { opcode := BitVec.ofNat 16 op, session := 1, context := 0, number := 1, payload := p }) (hp : p.length < 65536) :
    Taken op f { bench with ponds := m, journal := j } { isOpen := true, context := 0 } := by
  subst hf
  refine ⟨rfl, ⟨rfl, rfl, rfl, rfl, rfl⟩, ⟨rfl, rfl, ?_, (by decide : (1 : BitVec 32) ≠ 0), ?_⟩, rfl, ⟨rfl, rfl, rfl, rfl, rfl⟩⟩
  · exact Nat.mod_eq_of_lt hp
  · exact Nat.mod_eq_of_lt ho

/-! ## The end of a split (R156) -/

theorem Accessed.splitReplies (h : Accessed s t) : t.journal.splitReplies = s.journal.splitReplies := by
  obtain ⟨m, rfl, -⟩ := h
  rfl

theorem Accessed.sessions (h : Accessed s t) : t.sessions = s.sessions := by
  obtain ⟨m, rfl, -⟩ := h
  rfl

theorem State.resplit_accessed : Accessed s (s.resplit d n) := by
  unfold State.resplit
  exact Reaches.refl.dropLines.clearKey.setPond.writeLate

theorem State.afterReply_journal {sid n op : Nat} : (s.afterReply sid n op).journal = s.journal := by
  unfold State.afterReply
  split
  · rfl
  split
  · rfl
  split
  · rfl
  split
  · unfold State.dozeReplied
    split
    · rfl
    · rfl
  · rfl

theorem State.deliverReply_journal {sid n op : Nat} {l : List Byte} : (s.deliverReply sid n op l).journal = s.journal := by
  obtain ⟨x, j, k, m, o, w, a, hsent⟩ := State.sendPayload_sent (s := s) (sid := sid) (n := n) (op := op) (l := l)
  have sent : (s.sendPayload sid n op l).journal = s.journal := by rw [hsent]
  unfold State.deliverReply
  dsimp only
  split
  · exact State.afterReply_journal.trans sent
  · exact State.afterReply_journal.trans sent

theorem State.conclude_splitReplies {sid n op : Nat} {r : Reply} :
    (s.conclude sid n op r).journal.splitReplies = s.journal.splitReplies := by
  unfold State.conclude
  split
  · rfl
  · exact congrArg Journal.splitReplies State.deliverReply_journal

/-- The MEM.SPLIT commands at work, once a die is done: off their lists, and those with no die left are done. -/
theorem State.splitDone_splitReplies : (s.splitDone d).journal.splitReplies =
    (s.journal.splitReplies.map fun e => (e.1, e.2.filter (· != d))).filter fun e => !e.2.isEmpty := by
  have concluded (l : List (Frame × List Nat)) (v : State) : (l.foldl (fun s e =>
      s.conclude e.1.session.toNat e.1.number.toNat e.1.opcode.toNat {}) v).journal.splitReplies = v.journal.splitReplies := by
    induction l generalizing v with
    | nil => rfl
    | cons e l ih => exact (ih _).trans State.conclude_splitReplies
  exact concluded _ _

/-- No MEM.SPLIT at work waits for a die. -/
def State.Awaited (s : State) (d : Nat) : Prop := ∃ e ∈ s.journal.splitReplies, d ∈ e.2

theorem State.splitDone_not_awaited : ¬(s.splitDone d).Awaited d := by
  rintro ⟨e, he, hd⟩
  rw [State.splitDone_splitReplies] at he
  obtain ⟨x, -, rfl⟩ := List.mem_map.mp (List.mem_filter.mp he).1
  simp at hd

theorem State.splitDone_awaited {k : Nat} (h : (s.splitDone k).Awaited d) : s.Awaited d := by
  obtain ⟨e, he, hd⟩ := h
  rw [State.splitDone_splitReplies] at he
  obtain ⟨x, hx, rfl⟩ := List.mem_map.mp (List.mem_filter.mp he).1
  exact ⟨x, hx, (List.mem_filter.mp hd).1⟩

/-- A range in a Millpond whose split is on: the split comes to its end first. -/
theorem State.afterSplits_not_awaited {a k : Nat} (h : (s.pond 0).resplit = some k)
    (ha : (lineParts a n).any (fun e => dieOf e.1 == 0) = true) : ¬(s.afterSplits a n).Awaited 0 := by
  have holds : s.splitHolds a n = true := by
    obtain ⟨e, he, hd⟩ := List.any_eq_true.mp ha
    exact List.any_eq_true.mpr ⟨e, he, by rw [eq_of_beq hd, h]; rfl⟩
  have step (v : State) (hv : ¬v.Awaited 0) (d : Nat) : ¬(match (v.pond d).resplit with
      | some k => if (lineParts a n).any fun e => dieOf e.1 == d then (v.resplit d k).splitDone d else v
      | none => v).Awaited 0 := by
    split
    · split
      · intro hn
        obtain ⟨e, he, h0⟩ := State.splitDone_awaited hn
        rw [State.resplit_accessed.splitReplies] at he
        exact hv ⟨e, he, h0⟩
      · exact hv
    · exact hv
  unfold State.afterSplits
  rw [if_pos holds, show List.range 4 = [0, 1, 2, 3] from rfl]
  simp only [List.foldl_cons, List.foldl_nil]
  refine step _ (step _ (step _ ?_ _) _) _
  rw [h]
  dsimp only
  rw [if_pos ha]
  exact State.splitDone_not_awaited

/-- Every MEM.SPLIT at work has an effect that waits for the journal. -/
def State.SplitsJournaled (s : State) : Prop := ∀ e ∈ s.journal.splitReplies, journalsEffect e.1.opcode.toNat = true

theorem State.splitDone_sessions (h : s.SplitsJournaled) : (s.splitDone d).sessions = s.sessions ∧ (s.splitDone d).SplitsJournaled := by
  have concluded (l : List (Frame × List Nat)) (hl : ∀ e ∈ l, journalsEffect e.1.opcode.toNat = true) (v : State) : (l.foldl (fun s e =>
      s.conclude e.1.session.toNat e.1.number.toNat e.1.opcode.toNat {}) v).sessions = v.sessions := by
    induction l generalizing v with
    | nil => rfl
    | cons e l ih =>
      rw [List.foldl_cons, ih fun x hx => hl x (List.mem_cons_of_mem _ hx)]
      unfold State.conclude
      rw [if_pos ⟨rfl, rfl, hl e (List.mem_cons_self ..)⟩]
      rfl
  refine ⟨concluded _ (fun e he => ?_) _, fun e he => ?_⟩
  · obtain ⟨x, hx, rfl⟩ := List.mem_map.mp (List.mem_filter.mp he).1
    exact h x hx
  · rw [State.splitDone_splitReplies] at he
    obtain ⟨x, hx, rfl⟩ := List.mem_map.mp (List.mem_filter.mp he).1
    exact h x hx

theorem State.afterSplits_sessions {a : Nat} (h : s.SplitsJournaled) : (s.afterSplits a n).sessions = s.sessions := by
  have step (v : State) (l : List Nat) (hv : v.sessions = s.sessions ∧ v.SplitsJournaled) : (l.foldl (fun (v : State) d =>
      match (v.pond d).resplit with
      | some k => if (lineParts a n).any fun e => dieOf e.1 == d then (v.resplit d k).splitDone d else v
      | none => v) v).sessions = s.sessions := by
    induction l generalizing v with
    | nil => exact hv.1
    | cons d l ih =>
      refine ih _ ?_
      dsimp only
      split
      next k _ =>
        split
        · have changed : Accessed v (v.resplit d k) := State.resplit_accessed
          have journaled : (v.resplit d k).SplitsJournaled := fun e he => hv.2 e (by rw [← changed.splitReplies]; exact he)
          obtain ⟨same, still⟩ := State.splitDone_sessions (d := d) journaled
          exact ⟨same.trans (changed.sessions.trans hv.1), still⟩
        · exact hv
      · exact hv
  unfold State.afterSplits
  split
  · exact step s _ ⟨rfl, h⟩
  · rfl

theorem State.newArea_accessed {a : SeqArea} :
    Accessed (s.modContext c fun x => { x with area := some a, seqs := [] }) (s.newArea c a) :=
  Reaches.refl.writeOwn.writeOwn

/-! ## SEQ.AREA while the split changes -/

theorem bodySeqArea_done {p : List Byte} {a : SeqArea} (hp : f.payload = p)
    (ha : a = { base := le p 0 8, capacity := le p 8 4, stride := le p 12 4, poolFirst := le p 16 2, poolCount := le p 18 2 })
    (h0 : 0 < a.capacity) (h1 : a.capacity ≤ 65536) (h2 : a.stride ≤ 1048576) (h3 : a.poolFirst ≤ 1023) (h4 : a.poolCount ≤ 1024)
    (hb : a.base % 64 = 0) (hl : legal 0x0401 c u = none) (ho : ∀ e ∈ (u.context c).seqs, e.2.isOpen = false)
    (hs : (u.grant c).holdsScratch a.base (64 * a.capacity + 4 * a.stride * a.capacity) = true)
    (hg : ∀ g, a.poolFirst ≤ g → g < a.poolFirst + a.poolCount → (u.grant c).holdsSegment g = true)
    (h5 : (u.areaSums c).1 + a.capacity ≤ 65536) (h6 : (u.areaSums c).2 + a.capacity * a.stride ≤ 134217728) :
    bodySeqArea f c u = .reply {} ((u.afterSplits a.base (64 * a.capacity + 4 * a.stride * a.capacity)).newArea c a) := by
  have closed : (u.context c).seqs.find? (fun e => e.2.isOpen) = none :=
    List.find?_eq_none.mpr fun e he => by rw [ho e he]; decide
  have granted : (List.range' a.poolFirst a.poolCount).any (fun g => !(u.context c).grant.holdsSegment g) = false := by
    refine List.any_eq_false.mpr fun g hm => ?_
    obtain ⟨low, high⟩ := List.mem_range'_1.mp hm
    have := hg g low high
    unfold State.grant at this
    rw [this]
    decide
  unfold State.grant at hs
  unfold bodySeqArea
  extract_lets p' a' x
  obtain rfl : p' = p := hp
  obtain rfl : a' = a := ha.symm
  rw [zeroField_false (decide_eq_false (by omega)), checked_when (decide_eq_false (by omega)),
    checked_when (decide_eq_false (by omega)), checked_when (decide_eq_false (by omega)), checked_when (decide_eq_false (by omega)),
    checked_when (decide_eq_false (by omega)), checked_when (decide_eq_false (by omega)), checked_none hl,
    checked_none (by rw [closed]; rfl), checked_when (by rw [hs]; rfl), checked_when granted,
    checked_when (decide_eq_false (by omega)), checked_when (decide_eq_false (by omega)), checked_nil]
  rfl

/-- The range of the counterexample: the granted part of die 0's scratchpad. -/
def padBase : Nat := 2 ^ 40 + 2 ^ 25

/-- A SEQ.AREA of two slots of three entries. -/
def areaPayload : List Byte := leBytes 8 padBase ++ leBytes 4 2 ++ leBytes 4 3 ++ leBytes 2 1 ++ leBytes 2 2 ++ zeros 4

def areaFrame : Frame := sumsSet { opcode := BitVec.ofNat 16 0x0401, session := 1, context := 0, number := 1, payload := areaPayload }

/-- Die 0's Millpond changes its split, for a MEM.SPLIT that waits for dies 0 and 1 (R156). -/
def splitting : State :=
  { bench with
    ponds := [(0, { resplit := some 1 })]
    journal := { bench.journal with splitReplies := [({ opcode := 0x0603 }, [0, 1])] } }

theorem splitting_taken : Taken 0x0401 areaFrame splitting { isOpen := true, context := 0 } :=
  bench_taken (p := areaPayload) (by decide) rfl (by decide)

theorem splitting_canonical : splitting.Canonical :=
  { bench_canonical with ponds := ⟨by decide, by simp [splitting, Millpond.Canonical]⟩ }

theorem splitting_acts : Acts 0x0401 areaFrame splitting (splitting.noted areaFrame) 0 where
  delivered :=
    { splitting_taken.numbered splitting_canonical sumsSet_tag sumsSet_crc with
      privilege := by decide, generation := by decide, form := by decide }
  state := rfl
  bound := by decide

def newArea : SeqArea := { base := padBase, capacity := 2, stride := 3, poolFirst := 1, poolCount := 2 }

theorem Acts.one_outcome {i : Instr} {v w : State} (h : Acts op f s u c) (hl : s.letIn f.path.secured = (s, true))
    (hj : journalsEffect f.opcode.toNat = true) (hv : Handles i f s (.reply {} v)) (hw : Handles i f s (.reply {} w))
    (hvs : v.sessions = u.sessions) (hws : w.sessions = u.sessions) : v.journal.splitReplies = w.journal.splitReplies := by
  have held {x : State} (hx : x.sessions = u.sessions) : (x.session f.session.toNat).held = [] := by
    have e : x.session f.session.toNat = (s.noted f).session f.session.toNat := by
      unfold State.session
      rw [hx, h.state]
    rw [e, h.delivered.noted_session]
    exact h.delivered.held
  have same := (hv s hl).symm.trans (hw s hl)
  rw [State.answer_effect rfl rfl hj (held hvs), State.answer_effect rfl rfl hj (held hws)] at same
  exact congrArg (fun o : Out => match o with | .next x => x.journal.splitReplies | _ => []) same

/-- Refutes O15: SEQ.AREA of a range in a Millpond whose split changes brings the split to its end first (R156), and takes its die off
the list of the MEM.SPLIT that waits for it. -/
theorem not_sequencesKeepTheirSlots : ¬Obligations.SequencesKeepTheirSlots := by
  unfold Obligations.SequencesKeepTheirSlots
  rintro ⟨harea, -⟩
  obtain ⟨u, hu⟩ : ∃ u, u = splitting.noted areaFrame := ⟨_, rfl⟩
  have hacts : Acts 0x0401 areaFrame splitting u 0 := hu ▸ splitting_acts
  have hctx : u.contexts = bench.contexts := by rw [hu]; rfl
  have hponds : u.ponds = splitting.ponds := by rw [hu]; rfl
  have hjour : u.journal = splitting.journal := by rw [hu]; rfl
  have hlegal : legal 0x0401 0 u = none := by rw [hu]; decide
  have hopen : ∀ e ∈ (u.context 0).seqs, e.2.isOpen = false := by
    unfold State.context
    rw [hctx]
    decide
  have hpad : (u.grant 0).holdsScratch padBase (64 * 2 + 4 * 3 * 2) = true := by
    unfold State.grant State.context
    rw [hctx]
    decide
  have hpool : ∀ g, 1 ≤ g → g < 1 + 2 → (u.grant 0).holdsSegment g = true := by
    unfold State.grant State.context
    rw [hctx]
    intro g h1 h2
    interval_cases g <;> decide
  have hsums : u.areaSums 0 = (0, 0) := by
    unfold State.areaSums
    rw [hctx]
    rfl
  obtain ⟨hv, -⟩ := harea areaFrame splitting u _ 0 areaPayload newArea hacts rfl (by decide) (by decide) (by decide) (by decide)
    (by decide) (by decide) (by decide) hlegal hopen hpad hpool (by rw [hsums]; decide) (by rw [hsums]; decide) rfl
  have body : bodySeqArea areaFrame 0 u = .reply {} ((u.afterSplits padBase (64 * 2 + 4 * 3 * 2)).newArea 0 newArea) :=
    bodySeqArea_done (p := areaPayload) (a := newArea) rfl (by decide) (by decide) (by decide) (by decide) (by decide) (by decide) (by decide) hlegal hopen hpad hpool
      (by rw [hsums]; decide) (by rw [hsums]; decide)
  have hw : Handles (.seqArea areaFrame) areaFrame splitting _ :=
    hacts.handles (by decide) (by decide) (fun _ => rfl) ((hacts.low (by decide)).trans body)
  have journaled : u.SplitsJournaled := by
    unfold State.SplitsJournaled
    rw [hjour]
    decide
  have stated : Handles (.seqArea areaFrame) areaFrame splitting (.reply {} (u.newArea 0 newArea)) := hv
  have same := hacts.one_outcome rfl (by decide) stated hw State.newArea_accessed.sessions
    (State.newArea_accessed.sessions.trans (State.afterSplits_sessions journaled))
  rw [State.newArea_accessed.splitReplies, State.newArea_accessed.splitReplies] at same
  change u.journal.splitReplies = (u.afterSplits padBase (64 * 2 + 4 * 3 * 2)).journal.splitReplies at same
  have waiting : u.Awaited 0 := ⟨_, by rw [hjour]; exact List.mem_singleton.mpr rfl, List.mem_cons_self ..⟩
  refine State.afterSplits_not_awaited (s := u) (a := padBase) (n := 64 * 2 + 4 * 3 * 2) (k := 1) ?_ (by decide) ?_
  · unfold State.pond
    rw [hponds]
    rfl
  · unfold State.Awaited at waiting ⊢
    exact same ▸ waiting

end Sys2Proof.Machine
end

section
/-! PROOFS. A SESSION.HELLO in a session beyond the 64 of a round (R309, R454). -/

namespace Sys2Proof.Machine

/-- The bench once 64 SESSION.HELLO of its round are counted. -/
def helloBound : State := { bench with sec := { bench.sec with helloRound := 0, hellosThisRound := 64 } }

/-- A SESSION.HELLO in the session, for no context. -/
def helloFrame : Frame := sumsSet { opcode := 0x0101, session := 1, context := 255, number := 1, payload := [] }

theorem helloFrame_numbered : Numbered 0x0101 helloFrame helloBound :=
  Taken.numbered (x := { isOpen := true, context := 0 })
    ⟨rfl, ⟨rfl, rfl, rfl, rfl, rfl⟩, ⟨rfl, rfl, rfl, (by decide : (1 : BitVec 32) ≠ 0), rfl⟩, rfl, ⟨rfl, rfl, rfl, rfl, rfl⟩⟩
    { bench_canonical with } sumsSet_tag sumsSet_crc

/-- Beyond the 64 of a round it is dropped. -/
theorem helloFrame_dropped : exec (.sessionHello helloFrame) helloBound = .next helloBound := by
  have arrives := helloFrame_numbered.toArrives
  have received := arrives.receive (s0 := helloBound) rfl
  have dropped : helloBound.receiveFrame helloFrame = helloBound := by
    unfold State.receiveFrame
    rw [arrives.sound, if_neg (by decide), if_pos ⟨rfl, rfl, rfl⟩]
  change Host.Outcome.next (helloBound.receiveAs 0x0101 helloFrame) = _
  unfold State.receiveAs
  rw [received, dropped]
  exact congrArg _ (ite_self _)

/-- Refutes O43: a SESSION.HELLO in a session that fails a check of R309 is dropped, without a reply, beyond the 64 of a round. -/
theorem not_framesActOnce : ¬Obligations.FramesActOnce := by
  unfold Obligations.FramesActOnce
  rintro ⟨-, -, hrefused, -⟩
  obtain ⟨t, ⟨hrun, hreply, -⟩, -⟩ := hrefused (.sessionHello helloFrame) 0x0101 helloFrame helloBound (refuse Status.privilege) rfl
    helloFrame_numbered rfl
  have ht : helloBound = t := by
    have := (helloFrame_dropped.symm.trans (hrun helloBound rfl))
    injection this
  have grew := congrArg List.length hreply
  rw [← ht, List.length_append, List.length_singleton] at grew
  omega

end Sys2Proof.Machine
end

section
/-! PROOFS. Neighbour answers, beacons and the route table (R430 to R435). -/

namespace Sys2Proof.Machine

variable {s t : State} {a d n : Nat} {b : Beacon}

theorem Fabric.entry_setRoute_self {x : Fabric} {o : Option Beacon} (h : swf {} x.routes = true) : (x.setRoute a o n).entry a = o := by
  unfold Fabric.entry Fabric.setRoute
  rw [sget_sput_self h]

theorem Fabric.entry_setRoute_other {x : Fabric} {o : Option Beacon} (h : swf {} x.routes = true) (hd : d ≠ a) :
    (x.setRoute a o n).entry d = x.entry d := by
  unfold Fabric.entry Fabric.setRoute
  rw [sget_sput_other h hd]

/-- The association that protects what is sent, and the port, do not look at the fabric. -/
theorem State.send_modFabric {g : Fabric → Fabric} {w : WireFrame} : (s.modFabric g).send w = (s.send w).modFabric g := by
  unfold State.send State.nextTag
  cases hp : s.dev.portUp with
  | false =>
    rw [if_neg (by simp [State.modFabric, hp]), if_neg (by simp)]
  | true =>
    rw [if_pos (by simp [State.modFabric, hp]), if_pos rfl]
    have ht : (s.modFabric g).sec = s.sec := rfl
    rw [ht]
    cases s.sec.transmits with
    | none => rfl
    | some a => rfl

theorem State.fabricFrame_congr {peer : Option (List Byte)} {m : FabricMsg} (h : t.fabric = s.fabric) (hd : t.dev.eepromOk = s.dev.eepromOk) :
    t.fabricFrame peer m = s.fabricFrame peer m := by
  unfold State.fabricFrame State.mac State.fromEeprom
  rw [h, hd]

theorem exec_beaconReceived_in {s₀ : State} (h : s₀.letIn b.secured = (s, true)) : exec (.beaconReceived b) s₀ =
    if !s.heeds b.tagOk ∨ b.fabric ≠ s.fabric.id then .next s.dropFabric
    else if b.claim = 2 ∨ b.serial = s.dev.serial then .next s
    else if s.fabric.claim = 2 ∨ b.address ≠ s.fabric.address then .next (s.fillRoute b)
    else if bytesBefore s.dev.serial b.serial then .next s
    else .next ((s.fillRoute b).claim.setTroubleBit .port 3) := by
  change execBeaconReceived b s₀ = _
  unfold execBeaconReceived
  rw [State.through_in h]

/-- A beacon due: counted, and the claim held from the fifth on (R433, R434). -/
def State.beaconDue (s : State) : State := s.modFabric fun x =>
  { x with beacons := (x.beacons + 1) % 2 ^ 32, lastBeacon := some s.uptime,
           claim := if x.claim = 0 ∧ 4 ≤ x.claimBeacons then 1 else x.claim, claimBeacons := x.claimBeacons + 1 }

/-- And its own route entry filled from it. -/
def State.beaconed (s : State) : State :=
  s.beaconDue.modFabric fun x => x.setRoute x.address (some s.beaconDue.ownBeacon) s.uptime

theorem exec_beaconSend_due (hm : s.fabric.member = true) (h9 : s.stagePassed 9 = true)
    (hl : ∀ n, s.fabric.lastBeacon = some n → n + 262144 ≤ s.uptime) (hc : s.fabric.claim < 2) :
    exec .beaconSend s = .next (s.beaconed.sendFabric none (.beacon s.beaconDue.ownBeacon)) := by
  have due : s.fabric.lastBeacon.all (fun t => decide (t + beaconPeriod ≤ s.uptime)) = true := by
    cases hb : s.fabric.lastBeacon with
    | none => rfl
    | some n => exact decide_eq_true (hl n hb)
  change event _ s ((if s.fabric.claim = 2 then s.beaconDue else s.beaconed).sendFabric none (.beacon s.beaconDue.ownBeacon)) = _
  rw [if_neg (by omega)]
  exact event_true (by rw [hm, h9, due]; rfl)

theorem State.fillRoute_same (h : ∀ x, s.fabric.entry b.address = some x → x.serial = b.serial) :
    s.fillRoute b = s.modFabric fun x => x.setRoute b.address (some b) s.uptime := by
  unfold State.fillRoute
  dsimp only
  cases he : s.fabric.entry b.address with
  | none => rfl
  | some x => exact if_pos (h x he)

theorem State.gone_quiet {l : List Byte} (hr : s.fabric.runs = []) (hc : s.fabric.checks = []) (h2 : s.fabric.role ≠ 2) :
    s.gone l = s := by
  have same : s.modFabric (fun x => x.forget l) = s := by
    have hf : s.fabric.forget l = s.fabric := by
      unfold Fabric.forget
      rw [hr, List.map_nil, List.filter_nil, ← hr]
    change { s with fabric := s.fabric.forget l } = s
    rw [hf]
  have quiet : s.refuseChecks (· == l) = s := by
    unfold State.refuseChecks
    rw [hc]
    rfl
  unfold State.gone
  split
  · rfl
  · simp only [hr, same, List.map_nil, List.foldl_nil, quiet]
    exact if_neg fun h => h2 h.1

/-- Settles O31: the claim of one address by two modules is decided by their serial numbers; every other beacon fills its entry. -/
theorem routesFollowBeacons : Obligations.RoutesFollowBeacons := by
  unfold Obligations.RoutesFollowBeacons
  refine ⟨?arp, ?solicitation, ?beaconSend, ?beacon, ?collision, ?expiry⟩
  case arp =>
    rintro a g b s₀ s hin hup hip rfl
    change execArpRequest (a, g) s.fabric.ipv4 s₀ = _
    unfold execArpRequest
    rw [State.through_in hin]
    exact event_true (by simp [hup]; exact hip)
  case solicitation =>
    intro a g b s₀ s hin hup hb
    change execNeighborSolicitation (a, g) b s₀ = _
    unfold execNeighborSolicitation
    rw [State.through_in hin]
    refine event_true ?_
    rw [hup]
    rcases hb with hb | ⟨h0, rfl⟩
    · simp [hb]
    · simp; exact .inl h0
  case beaconSend =>
    intro s hs hm h9 hl hc
    obtain ⟨v, hv⟩ : ∃ v, v = s.beaconed := ⟨_, rfl⟩
    have hsent : v.sendFabric none (.beacon s.beaconDue.ownBeacon) =
        { s.send (v.fabricFrame none (.beacon s.beaconDue.ownBeacon)) with fabric := v.fabric } := by
      unfold State.sendFabric
      generalize v.fabricFrame none (.beacon s.beaconDue.ownBeacon) = w
      have hmod : v = s.modFabric fun _ => v.fabric := by rw [hv]; rfl
      rw [hmod, State.send_modFabric]
      rfl
    have hframe (t : State) (h : t = { s.send (v.fabricFrame none (.beacon s.beaconDue.ownBeacon)) with fabric := v.fabric }) :
        t.fabricFrame none (.beacon s.beaconDue.ownBeacon) = v.fabricFrame none (.beacon s.beaconDue.ownBeacon) := by
      obtain ⟨j, l, n, o, w, a, e⟩ := Sent.send (w := v.fabricFrame none (.beacon s.beaconDue.ownBeacon)) (Sent.refl (s := s))
      rw [e] at h
      exact State.fabricFrame_congr (by rw [h]) (by rw [h, hv]; rfl)
    have hroutes : swf {} s.beaconDue.fabric.routes = true := hs.routes
    have hexec := exec_beaconSend_due hm h9 hl hc
    rw [← hv, hsent] at hexec
    refine ⟨_, s.beaconDue.ownBeacon, hexec, ?_, ?_, rfl, rfl, ?_, ?_, ?_, ?_, ?_⟩
    · rw [hframe _ rfl]
    · rw [hv]
      exact Fabric.entry_setRoute_self hroutes
    · rw [hv]
      rfl
    · rw [hv]
      rfl
    · rw [hv]
      rfl
    · rw [hv]
      rfl
    · rw [hframe _ rfl]
  case beacon =>
    intro b s₀ s hs hin htag hm hid hc hser haddr hold
    have heeds : s.heeds b.tagOk = true := by simp [State.heeds, htag, hm]
    refine ⟨s.modFabric fun x => x.setRoute b.address (some b) s.uptime, (exec_beaconReceived_in hin).trans ?_,
      Fabric.entry_setRoute_self hs.routes, fun a ha => Fabric.entry_setRoute_other hs.routes ha, rfl⟩
    rw [if_neg (by simp [heeds, hid]), if_neg (not_or.mpr ⟨hc, hser⟩), if_pos haddr, State.fillRoute_same hold]
  case collision =>
    intro b s₀ s hin htag hm hid hc hser haddr hclaim
    have heeds : s.heeds b.tagOk = true := by simp [State.heeds, htag, hm]
    refine (exec_beaconReceived_in hin).trans ?_
    rw [if_neg (by simp [heeds, hid]), if_neg (not_or.mpr ⟨hc, hser⟩), if_neg (not_or.mpr ⟨hclaim, not_not_intro haddr⟩)]
    split
    · rfl
    · rfl
  case expiry =>
    intro a b s hs he ht hr hc h2
    refine ⟨s.modFabric fun x => x.setRoute a none 0, ?_, Fabric.entry_setRoute_self hs.routes,
      fun d hd => Fabric.entry_setRoute_other hs.routes hd, rfl⟩
    have quiet := State.gone_quiet (s := s.modFabric fun x => x.setRoute a none 0) (l := b.serial) hr hc h2
    change execRouteEntryExpiry a s = _
    unfold execRouteEntryExpiry
    rw [he]
    dsimp only
    rw [quiet]
    exact event_true (decide_eq_true ht)

end Sys2Proof.Machine
end

section
/-! PROOFS. A forwarded command at the head, with one candidate (R439, R440). -/

namespace Sys2Proof.Machine

variable {s t u : State} {f : Frame} {a : Answer} {r : CascadeRun} {sid n : Nat} {l : List CascadeRun}

/-- A state whose forwarded commands are `l`. -/
def State.withRuns (s : State) (l : List CascadeRun) : State := { s with fabric := { s.fabric with runs := l } }

theorem State.fabricFrame_withRuns {peer : Option (List Byte)} {m : FabricMsg} :
    (s.withRuns l).fabricFrame peer m = s.fabricFrame peer m := by
  unfold State.fabricFrame Fabric.routeOf
  rfl

theorem State.send_withRuns {w : WireFrame} :
    (s.withRuns l).send w = { s.send w with fabric := { s.fabric with runs := l } } := by
  have h := State.send_modFabric (s := s) (g := fun x => { x with runs := l }) (w := w)
  obtain ⟨_, _, _, _, _, _, e⟩ := Sent.send (w := w) (Sent.refl (s := s))
  have hf : (s.send w).fabric = s.fabric := by rw [e]
  refine h.trans ?_
  unfold State.modFabric
  rw [hf]

/-- A commit or a release to another module goes out. -/
theorem State.commitTo_other {member : List Byte} {release : Bool} (h : member ≠ s.dev.serial) :
    (s.withRuns l).commitTo f member release =
      { s.send (s.fabricFrame (some member) (.commit (s.forwardOf f) release)) with fabric := { s.fabric with runs := l } } := by
  unfold State.commitTo
  dsimp only
  rw [if_neg (by exact h)]
  unfold State.sendFabric
  rw [State.fabricFrame_withRuns, State.send_withRuns]
  rfl

section
variable (hr : s.fabric.runs = [r]) (hs : r.frame.session.toNat = sid) (hn : r.frame.number.toNat = n)
include hr hs hn

theorem Fabric.run_only : s.fabric.run sid n = some r := by
  unfold Fabric.run
  rw [hr]
  simp [hs, hn]

theorem State.modRun_only {g : CascadeRun → CascadeRun} : s.modRun sid n g = s.withRuns [g r] := by
  unfold State.modRun State.modFabric State.withRuns
  simp only [hr, List.map_cons, List.map_nil, if_pos (And.intro hs hn)]

theorem State.endRun_only {x : Reply} : s.endRun sid n x = (s.withRuns []).sendReply sid n 0x0F04 x := by
  unfold State.endRun State.modFabric State.withRuns
  simp [hr, hs, hn]

end

theorem State.heeds_true {ok : Bool} (ht : ok = true) (hm : s.fabric.member = true) : s.heeds ok = true := by
  unfold State.heeds
  rw [ht, hm]
  rfl

section
variable (hr : s.fabric.runs = [r]) (hm : r.members = [a.serial]) (ha : r.answers = []) (hc : r.chosen = none)
  (hs : r.frame.session.toNat = a.session) (hn : r.frame.number.toNat = a.number)
include hr hm ha hc hs hn

/-- The only candidate accepts: it is chosen, and a commit goes to it. -/
theorem State.addAnswer_accepted (hst : a.status = Status.accepted) (hser : a.serial ≠ s.dev.serial) : s.addAnswer a =
    { s.send (s.fabricFrame (some a.serial) (.commit (s.forwardOf r.frame) false)) with
      fabric := { s.fabric with runs := [{ r with answers := [a], chosen := some a.serial, committedAt := s.uptime }] } } := by
  have accepts : answerAccepts a = true := by simp [answerAccepts, hst]
  have decided : (s.withRuns [{ r with answers := [a] }]).decideRun { r with answers := [a] } =
      (s.withRuns [{ r with answers := [a], chosen := some a.serial, committedAt := s.uptime }]).commitTo r.frame a.serial false := by
    unfold State.decideRun
    dsimp only
    rw [if_neg (by simp [hm, hc]), List.filter_cons_of_pos accepts, List.filter_nil]
    simp only [bestOf]
    rw [List.filter_cons_of_neg (by simp), List.filter_nil, List.foldl_nil,
      State.modRun_only (s := s.withRuns [{ r with answers := [a] }]) rfl rfl rfl]
    rfl
  unfold State.addAnswer
  rw [Fabric.run_only hr hs hn]
  dsimp only
  rw [if_neg (by simp [hm, ha, hc]), if_neg (by rw [hst]; decide), State.modRun_only hr hs hn, ha, List.nil_append]
  unfold State.decideFor
  rw [Fabric.run_only (s := s.withRuns [{ r with answers := [a] }]) rfl hs hn]
  dsimp only
  rw [decided, State.commitTo_other hser]

/-- The only candidate's context is closed to the head: the command ends. -/
theorem State.addAnswer_address (hst : a.status = Status.address) :
    s.addAnswer a = (s.withRuns []).sendReply a.session a.number 0x0F04 refuseAddress := by
  unfold State.addAnswer
  rw [Fabric.run_only hr hs hn]
  dsimp only
  rw [if_neg (by simp [hm, ha, hc]), if_pos hst, hm, List.filter_cons_of_neg (by simp), List.filter_nil, List.foldl_nil,
    State.endRun_only hr hs hn]

end

/-- A CASCADE.RUN that lists one follower: a probe goes to it. -/
theorem bodyCascadeRun_one {a : Nat} {b : Beacon} (h0 : le f.payload 0 1 ≤ 63) (h1 : le f.payload 6 2 = 1) (hw : 0 < le f.payload 76 2)
    (ha : le f.payload 8 2 = a) (hz : ∀ i, 1 ≤ i → i < 16 → le f.payload (8 + 2 * i) 2 = 0) (hrole : u.fabric.role = 1)
    (hclaim : u.fabric.claim ≠ 2) (hb : u.fabric.entry a = some b) (hbr : b.role = 2) (hbh : b.head = u.fabric.address)
    (hne : a ≠ u.fabric.address) (hser : b.serial ≠ u.dev.serial) (hl : legalDevice 0x0F04 u = none) :
    bodyCascadeRun f u = .later ((u.withRuns (u.fabric.runs ++
      [{ frame := f, members := [b.serial], answers := [], chosen := none, committedAt := 0 }])).sendFabric (some b.serial)
        (.probe (u.forwardOf f))) := by
  have member : u.inCascade a = some b.serial := by
    unfold State.inCascade State.takesPart
    rw [if_neg (by simp [hrole, hclaim]), if_neg hne, hb]
    simp [hbr, hbh]
  have listed : (((List.range 16).map fun i => le f.payload (8 + 2 * i) 2).take 1).eraseDups = [a] := by
    rw [show List.range 16 = 0 :: List.range' 1 15 from rfl, List.map_cons, ← ha]
    rfl
  have unused : (List.range 16).find? (fun i => decide (1 ≤ i) && (((List.range 16).map fun i => le f.payload (8 + 2 * i) 2).getD i 0) != 0)
      = none := by
    refine List.find?_eq_none.mpr fun i hi => ?_
    have hi16 := List.mem_range.mp hi
    simp only [Bool.and_eq_true, decide_eq_true_eq, not_and]
    intro hi1
    rw [List.getD_eq_getElem?_getD, List.getElem?_map, List.getElem?_range hi16]
    simp [hz i hi1 hi16]
  unfold bodyCascadeRun
  dsimp only
  rw [h1, zeroField_false (decide_eq_false (by omega)), checked_when (by decide), checked_when (decide_eq_false (by omega)),
    checked_none (by rw [unused]; rfl), listed, checked_when (by simp [member]), checked_none hl, checked_nil]
  have serials : [a].filterMap u.inCascade = [b.serial] := by simp [member]
  rw [serials, List.foldl_cons, List.foldl_nil]
  unfold State.probeTo
  rw [if_neg (by exact hser)]
  rfl

/-- Settles O34. -/
theorem theHeadForwardsItsRuns : Obligations.TheHeadForwardsItsRuns := by
  unfold Obligations.TheHeadForwardsItsRuns
  refine ⟨?run, ?answer, ?resend, ?commitAnswer⟩
  case run =>
    intro f s u c a b h h0 h1 hw ha hz hrole hclaim hb hbr hbh hne hser hl
    have plain := h.delivered.toArrives.open_
    have clear : u.Clear := by
      rw [h.state]
      exact ⟨plain.up, plain.clear⟩
    refine h.handles (by decide) (by decide) (fun _ => rfl) ((h.fabric (by decide) (by decide) (by decide)).trans
      ((bodyCascadeRun_one h0 h1 hw ha hz hrole hclaim hb hbr hbh hne hser hl).trans ?_))
    unfold State.sendFabric
    rw [State.fabricFrame_withRuns, State.send_withRuns, State.send_clear clear]
  case answer =>
    intro s₀ s r a hin hr hm ha hc hs hn htag hmem hser
    have hrun : exec (.probeAnswer a) s₀ = .next (s.addAnswer a) := by
      change execProbeAnswer a s₀ = _
      unfold execProbeAnswer
      rw [State.through_in hin, State.heeds_true htag hmem]
      rfl
    rw [hrun]
    exact ⟨fun hst => congrArg _ (State.addAnswer_accepted hr hm ha hc hs hn hst hser),
      fun hst => congrArg _ (State.addAnswer_address hr hm ha hc hs hn hst)⟩
  case resend =>
    intro s r a sid n hr hc hs hn ht hser
    change execCommitResend sid n s = _
    unfold execCommitResend
    rw [Fabric.run_only hr hs hn]
    dsimp only
    rw [hc]
    dsimp only
    rw [State.modRun_only hr hs hn, State.commitTo_other hser]
    rw [event_true (decide_eq_true ht), ← hc]
  case commitAnswer =>
    intro s₀ s r a hin hr hc hs hn htag hmem
    change execCommitAnswer a s₀ = _
    unfold execCommitAnswer
    rw [State.through_in hin, State.heeds_true htag hmem]
    unfold State.commitAnswered
    rw [Fabric.run_only hr hs hn]
    dsimp only
    rw [if_pos hc, State.endRun_only hr hs hn]
    rfl

end Sys2Proof.Machine
end

section
/-! PROOFS. What admission returns (R352), and the follower's side of a forwarded command (R439, R440). -/

namespace Sys2Proof.Machine

variable {s t u : State} {f : Frame} {q : StepParams} {c n : Nat} {m : Cmd}

/-! ## Admission -/

/-- What `m` and `m'` have in common when `m'` is `m` placed somewhere. -/
structure PlacedFrom (s : State) (m m' : Cmd) : Prop where
  opcode : m'.opcode = m.opcode
  planId : m'.planId = m.planId
  slots : m'.slots = m.slots
  append : m'.append = m.append
  cls : m'.cls = m.cls
  phase : m'.phase = m.phase
  draw : m'.draw = m.draw
  promise : m'.promise = s.projected m'.start + m'.rampIn + m'.duration
  original : m'.original = m'.promise
  timeout : m'.timeout = m'.promise + max m.bandDuration 65536
  duration : m'.duration = m.duration

theorem Cmd.placed_from {v g : Nat} {o : Option Nat} : PlacedFrom s m (m.placed s v g o) :=
  ⟨rfl, rfl, rfl, rfl, rfl, rfl, rfl, rfl, rfl, rfl, rfl⟩

theorem admitPlace_filler (h : q.cls = 2) : admitPlace q m s = .inr { m with phase := .queued } := by
  unfold admitPlace
  simp only [if_pos h]

/-- A placed command is one placed somewhere, under the cap, with a promise that is not past the latest one. -/
theorem admitPlace_placed {m' : Cmd} (hq : q.cls ≠ 2) (h : admitPlace q m s = .inr m') :
    PlacedFrom s m m' ∧ m.draw ≤ s.powerCap ∧ (q.latest ≠ 0 → m'.promise ≤ q.latest) := by
  have late {v g : Nat} {o : Option Nat} {r : Reply}
      (h : (if q.latest ≠ 0 ∧ q.latest < (m.placed s v g o).promise then .inl r else .inr (m.placed s v g o)) = (.inr m' : Reply ⊕ Cmd)) :
      PlacedFrom s m m' ∧ (q.latest ≠ 0 → m'.promise ≤ q.latest) := by
    split at h
    next => cases h
    next hl =>
      injection h with h
      subst h
      exact ⟨Cmd.placed_from, fun h0 => Nat.le_of_not_lt fun hlt => hl ⟨h0, hlt⟩⟩
  unfold admitPlace at h
  dsimp only at h
  rw [if_neg hq] at h
  split at h
  next => cases h
  next hcap =>
    have under : m.draw ≤ s.powerCap := Nat.le_of_not_lt hcap
    split at h
    · split at h
      next => cases h
      next => exact ⟨(late h).1, under, (late h).2⟩
    · split at h
      next => cases h
      next =>
        split at h
        next => cases h
        next => exact ⟨(late h).1, under, (late h).2⟩

/-- What admission lets through is a record of the command, placed. -/
theorem State.judge_inr (h : s.judge c f q = .inr m) :
    ∃ x band, admitPlace q (stepCmd f q x band s) s = .inr m ∧ (q.cls ≠ 2 → s.wheel.state ≠ .unset) := by
  unfold State.judge at h
  dsimp only at h
  split at h
  next => cases h
  next =>
    split at h
    next => cases h
    next hw =>
      split at h
      next => cases h
      next band _ =>
        split at h
        next => cases h
        next x _ =>
          split at h
          next => cases h
          next => exact ⟨x, band, h, fun hq hu => hw ⟨by simpa using hq, hu⟩⟩

/-- Settles O13. -/
theorem admissionPromisesWhatItBooks : Obligations.AdmissionPromisesWhatItBooks := by
  unfold Obligations.AdmissionPromisesWhatItBooks
  intro s c f q m h
  obtain ⟨x, band, hp, hw⟩ := State.judge_inr h
  by_cases hq : q.cls = 2
  · rw [admitPlace_filler hq] at hp
    injection hp with hp
    subst hp
    exact ⟨rfl, rfl, rfl, rfl, fun _ => ⟨rfl, rfl⟩, fun hn => absurd hq hn⟩
  · obtain ⟨hm, hcap, hlatest⟩ := admitPlace_placed hq hp
    refine ⟨hm.opcode, hm.planId, hm.slots, hm.append, fun hn => absurd hn hq, fun _ => ⟨hm.phase, hw hq, ?_, hm.promise, hm.original, ?_, hlatest⟩⟩
    · rw [hm.draw]
      exact hcap
    · rw [hm.timeout, hm.duration]
      rfl

theorem State.judge_opcode (h : s.judge c f q = .inr m) : m.opcode = 0x0301 := by
  have holds := admissionPromisesWhatItBooks
  unfold Obligations.AdmissionPromisesWhatItBooks at holds
  exact (holds s c f q m h).1

/-! ## The follower's side -/

theorem State.send_modSchedule {g : Schedule → Schedule} {w : WireFrame} : (s.modSchedule g).send w = (s.send w).modSchedule g := by
  unfold State.send State.nextTag
  cases hp : s.dev.portUp with
  | false =>
    rw [if_neg (by simp [State.modSchedule, hp]), if_neg (by simp)]
  | true =>
    rw [if_pos (by simp [State.modSchedule, hp]), if_pos rfl]
    have ht : (s.modSchedule g).sec = s.sec := rfl
    rw [ht]
    cases s.sec.transmits with
    | none => rfl
    | some a => rfl

theorem State.fabricFrame_modSchedule {g : Schedule → Schedule} {peer : Option (List Byte)} {x : FabricMsg} :
    (s.modSchedule g).fabricFrame peer x = s.fabricFrame peer x := State.fabricFrame_congr rfl rfl

section
variable {s₀ : State} {m : Forward} (hin : s₀.letIn m.secured = (s, true)) (ht : m.tagOk = true) (hm : s.fabric.member = true)
  (hr : s.fabric.role = 2) (hh : m.headSerial = s.fabric.headSerial)
include hin ht hm hr hh

theorem exec_probe_heeded : exec (.probe m) s₀ =
    .next ((s.probed m).1.sendFabric (some m.headSerial) (.probeAnswer (s.probed m).2)) := by
  change execProbe m s₀ = _
  unfold execProbe
  rw [State.through_in hin, State.heeds_true ht hm]
  exact event_true (by simp [hr, hh])

theorem exec_commit_heeded {release : Bool} :
    exec (.commit m release) s₀ = .next (if release then s.releaseLocal m else s.commitLocal m) := by
  change execCommit m release s₀ = _
  unfold execCommit
  rw [State.through_in hin, State.heeds_true ht hm]
  exact event_true (by simp [hr, hh])

end

/-- Settles O35. -/
theorem theFollowerHoldsItsPlacement : Obligations.TheFollowerHoldsItsPlacement := by
  unfold Obligations.TheFollowerHoldsItsPlacement
  refine ⟨?probe, ?release, ?commit, ?lapse⟩
  case probe =>
    intro s₀ s m q cmd hin ht hm hr hh
    rw [exec_probe_heeded hin ht hm hr hh]
    unfold State.probed State.opens
    refine ⟨fun hmask hq hfirst hj => ?_, fun hmask => ?_⟩
    · subst hq
      have hop := State.judge_opcode hj
      refine ⟨s.answerOf m (Cmd.acceptance { cmd with forwarded := some (forwardKey m) } s.fillersWaiting), rfl, rfl, rfl, rfl, ?_, ?_, ?_⟩
      · intro hc
        simp [State.answerOf, Cmd.acceptance, hop, hc]
      · intro hc
        simp [State.answerOf, Cmd.acceptance, hop, hc]
      · rw [hmask, if_pos (by simp)]
        unfold State.candidate
        dsimp only
        rw [hfirst]
        dsimp only
        rw [hj]
        dsimp only
        unfold State.sendFabric
        rw [State.fabricFrame_modSchedule, State.send_modSchedule]
        obtain ⟨_, _, _, _, _, _, e⟩ := Sent.send (w := s.fabricFrame (some m.headSerial) (.probeAnswer (s.answerOf m
          (Cmd.acceptance { cmd with forwarded := some (forwardKey m) } s.fillersWaiting)))) (Sent.refl (s := s))
        rw [e]
        rfl
    · rw [hmask, if_neg (by simp [hr])]
      rfl
  case release =>
    intro s₀ s m hin ht hm hr hh
    rw [exec_commit_heeded hin ht hm hr hh]
    rfl
  case commit =>
    intro s₀ s u m t hin ht hm hr hh hk hst hfind hu hcheck _
    have unstaged : s.journal.staging.any (fun x => x.cmd.forwarded == some (forwardKey m)) = false := by
      refine List.any_eq_false.mpr fun x hx => ?_
      simpa using hst x hx
    rw [exec_commit_heeded hin ht hm hr hh, if_neg (by decide)]
    unfold State.commitLocal
    rw [hk]
    dsimp only
    rw [unstaged, if_neg (by decide), hfind]
    dsimp only [Option.isSome]
    rw [if_pos rfl]
    dsimp only
    rw [hfind]
    dsimp only
    change Host.Outcome.next (match firstFailing (State.commitChecks { s with schedule := { s.schedule with
      tentative := s.schedule.tentative.filter (·.key != forwardKey m) } } m t) with | some r => _ | none => _) = _
    rw [← hu, hcheck, hu]
    rfl
  case lapse =>
    intro s n t hmem hid hu
    exact event_true (List.any_eq_true.mpr ⟨t, hmem, by simp [hid, hu]⟩)

end Sys2Proof.Machine
end

section
/-! PROOFS. A read that displaces two dirty lines, of which the first lies outside the address map: the device keeps the damage of a
cached granule under an address of its own above 2^50 (R153), where the block of such a line is marked too. -/

namespace Sys2Proof.Machine

/-- Two dirty lines of one set and way, and a parity error on the interface for a block of the first, that no retry clears (R159). -/
def crossing : State :=
  { ({} : State) with
    mem := [(2 ^ 26, 1)]
    ponds := [(0, { steps := 0, ways := [(0, some 0)], lines :=
      [{ line := 2 ^ 42 + 2 ^ 18, way := 0, dirty := true }, { line := 2 ^ 18, way := 0, dirty := true }] })]
    memStacks := [(2 ^ 13, { caErrors := [(2 ^ 50 + 2 ^ 26, 4)] })] }

theorem crossing_sound : crossing.Sound := ⟨by decide, by decide⟩

theorem crossing_stored : crossing.stored 0 1 := by
  intro i hi
  obtain rfl : i = 0 := by omega
  exact ⟨0, .inl (by decide)⟩

/-- The read of address 0 finds nothing lost, and leaves a byte of the second line zero. -/
theorem crossing_read : (crossing.readDevice { context := some 0 } 0 1).2.2 = none ∧
    (crossing.readDevice { context := some 0 } 0 1).1.mem = [] := by
  decide +kernel

/-- Refutes O20: a read can zero a dirty line's block that it displaces. -/
theorem not_bytesReadBackAsWritten : ¬Obligations.BytesReadBackAsWritten := by
  unfold Obligations.BytesReadBackAsWritten
  rintro ⟨-, -, -, -, hread, -⟩
  obtain ⟨hbad, hmem⟩ := crossing_read
  obtain ⟨-, hkept⟩ := hread crossing _ { context := some 0 } 0 1 _ crossing_sound crossing_stored
    (Prod.ext rfl (Prod.ext rfl hbad))
  exact absurd (hmem.symm.trans hkept) (by decide)

end Sys2Proof.Machine
end

section
/-! PROOFS. Accesses of a requester without ways, to memory that has lost nothing: reads change no byte, and writes write what they
are given (R128 to R131, R146, R147, R168, R171). -/

namespace Sys2Proof.Machine

variable {s t u : State} {a b k n d x : Nat}

/-- No damage of memory is a loss. -/
def State.Lossless (s : State) : Prop := ∀ e ∈ s.damage, e.2.lost = false

theorem sget_mem_or {β : Type} {z : β} {m : Sparse β} : (k, sget z m k) ∈ m ∨ sget z m k = z := by
  induction m with
  | nil => exact .inr rfl
  | cons e m ih =>
    obtain ⟨j, y⟩ := e
    unfold sget
    split
    next h => subst h; exact .inl (List.mem_cons_self ..)
    next => exact ih.imp (List.mem_cons_of_mem _) id

theorem State.Lossless.damageAt (h : s.Lossless) : (s.damageAt k).lost = false := by
  rcases sget_mem_or (z := ({} : DamageMark)) (m := s.damage) (k := k) with hm | hd
  · exact h _ hm
  · unfold State.damageAt
    rw [hd]
    rfl

theorem Reaches.lossless (h : Touched s t) (hs : s.Lossless) : t.Lossless := by
  obtain ⟨m, rfl, hq⟩ := h
  exact fun e he => hs e ((hq.1 trivial).damage e he)

theorem Reaches.mem_eq (h : Touched s t) : t.mem = s.mem := by
  obtain ⟨m, rfl, hq⟩ := h
  exact (hq.1 trivial).mem

theorem Reaches.accessed {q : Keeping} (h : Reaches q s t) : Accessed s t := by
  obtain ⟨m, rfl, -, -, hu⟩ := h
  exact ⟨m, rfl, nofun, nofun, hu⟩

/-! ## Reads -/

section
variable (hs : s.Lossless) (h : Touched s t)
include hs h

theorem Reaches.touched_readLine {l : CacheLine} {g : List Nat} : TouchedFst s (t.readLine d l g) := by
  have sound : g.find? t.cachedLost = none :=
    List.find?_eq_none.mpr fun x _ => by
      unfold State.cachedLost
      rw [(h.lossless hs).damageAt]
      decide
  unfold State.readLine
  rw [sound]
  exact h.foldl fun _ _ hv => hv.readCached

theorem Reaches.touched_readExternalLine : TouchedFst s (t.readExternalLine {} a n) := by
  unfold State.readExternalLine
  dsimp only [Option.bind_none]
  split
  next l _ =>
    have read := Reaches.touched_readLine hs h (d := homeDie a) (l := l) (g := unitsOf 16 a n)
    split
    next e => rw [e] at read; exact read
    next e => rw [e] at read; exact Reaches.touchLine (t := _) read
  next =>
    rw [ite_self]
    exact h.readBlocks

theorem Reaches.touched_readPart : TouchedFst s (t.readPart {} a n) := by
  unfold State.readPart
  split
  · exact Reaches.touched_readExternalLine hs h
  · exact h.readGranules
  · exact h.readGranules
  · exact h

theorem Reaches.touched_readDevice : TouchedFst s (t.readDevice {} a n) :=
  Reaches.fstFoldl (r := (t, (none : Option Nat))) h.fst fun _ _ hr => Reaches.touched_readPart hs (t := _) hr

theorem Reaches.touched_partLost : TouchedFst s (t.partLost {} a n) := by
  have uncached : t.writesCache {} a = false := by
    unfold State.writesCache
    rw [Option.bind_none, Option.isSome_none, Bool.and_false]
  unfold State.partLost
  split
  · split
    · rw [uncached, if_neg (by decide)]
      exact h.writeBlocks
    next l _ =>
      have read := Reaches.touched_readLine hs h (d := homeDie a) (l := l) (g := partUnits 16 a n)
      dsimp only
      split
      · exact read
      · exact Reaches.writeBlocks (t := _) read
  · exact Reaches.fstFoldl (r := (t, (none : Option Nat))) h.fst fun _ _ hr => Reaches.readGranules (t := _) hr
  · exact Reaches.fstFoldl (r := (t, (none : Option Nat))) h.fst fun _ _ hr => Reaches.readGranules (t := _) hr
  · exact h

theorem Reaches.touched_partlyLost : TouchedFst s (t.partlyLost {} a n) :=
  Reaches.fstFoldl (r := (t, (none : Option Nat))) h.fst fun _ _ hr => Reaches.touched_partLost hs (t := _) hr

end

/-! ## Writes -/

/-- Two states have the same carving and the same splits, so that an address lies where it lay. -/
def SamePlaces (s t : State) : Prop := SameMap s.segCodes t.segCodes s.ponds t.ponds

theorem SamePlaces.refl : SamePlaces s s := ⟨fun h => ⟨h, fun _ => rfl⟩, fun h => ⟨h, fun _ => rfl⟩⟩

theorem SamePlaces.trans (h : SamePlaces s t) (h' : SamePlaces t u) : SamePlaces s u := by
  refine ⟨fun k => ?_, fun k => ?_⟩
  · obtain ⟨h1, same⟩ := h.codes k
    obtain ⟨h2, same'⟩ := h'.codes h1
    exact ⟨h2, fun g => (same' g).trans (same g)⟩
  · obtain ⟨h1, same⟩ := h.ponds k
    obtain ⟨h2, same'⟩ := h'.ponds h1
    exact ⟨h2, fun d => (same' d).trans (same d)⟩

theorem Reaches.places (h : Touched s t) : SamePlaces s t := by
  obtain ⟨m, rfl, hq⟩ := h
  exact (hq.1 trivial).map

/-- The families that say where an address lies are canonical. -/
def State.Mapped (s : State) : Prop := swf 2 s.segCodes = true ∧ swf {} s.ponds = true

theorem SamePlaces.mapped (h : SamePlaces s t) (hs : s.Mapped) : t.Mapped := ⟨(h.codes hs.1).1, (h.ponds hs.2).1⟩

theorem SamePlaces.place (h : SamePlaces s t) (hs : s.Mapped) : t.place a = s.place a := by
  have code (g : Nat) : t.segCode g = s.segCode g := (h.codes hs.1).2 g
  have size (d : Nat) : t.scratchSize d = s.scratchSize d := congrArg (2 ^ 26 * ·) ((h.ponds hs.2).2 d)
  unfold State.place State.carved
  rw [code, size]

theorem SamePlaces.stored (h : SamePlaces s t) (hs : s.Mapped) (hp : s.stored a n) : t.stored a n := by
  intro i hi
  rw [h.place hs]
  exact hp i hi

theorem SamePlaces.foldl {α : Type} {f : State → α → State} {l : List α} (hf : ∀ t x, SamePlaces t (f t x)) :
    SamePlaces s (l.foldl f s) := by
  induction l generalizing s with
  | nil => exact .refl
  | cons x l ih => exact (hf s x).trans ih

theorem SamePlaces.of_eq (hc : t.segCodes = s.segCodes) (hp : t.ponds = s.ponds) : SamePlaces s t := by
  unfold SamePlaces
  rw [hc, hp]
  exact ⟨fun h => ⟨h, fun _ => rfl⟩, fun h => ⟨h, fun _ => rfl⟩⟩

theorem State.clearDamage_places : SamePlaces s (s.clearDamage k) := .of_eq rfl rfl

theorem State.touchLine_places {l : CacheLine} : SamePlaces s (s.touchLine d l) := Reaches.places Reaches.refl.touchLine

/-- A requester without ways writes a range of one line: the bytes are there, and every address lies where it lay. -/
structure WritesKey (s : State) (a : Nat) (l : List Byte) (t : State) : Prop where
  mem : t.mem = memWrite s.mem a l
  places : SamePlaces s t

theorem State.writeExternalLine_writes {l : List Byte} : WritesKey s a l (s.writeExternalLine {} a l) := by
  have first : WritesKey s a l (s.writeKey a l) := ⟨rfl, .of_eq rfl rfl⟩
  have clear {v : State} (hv : WritesKey s a l v) (x : List Nat) (q : State → Nat → Prop) [∀ v b, Decidable (q v b)] :
      WritesKey s a l (x.foldl (fun v b => if q v b then v.clearDamage b else v) (v.reached a)) := by
    have done : ∀ w, WritesKey s a l w → WritesKey s a l (x.foldl (fun v b => if q v b then v.clearDamage b else v) w) := by
      induction x with
      | nil => exact fun w hw => hw
      | cons b x ih =>
        refine fun w hw => ih _ ?_
        dsimp only
        split
        · exact ⟨hw.mem, hw.places.trans State.clearDamage_places⟩
        · exact hw
    exact done _ ⟨hv.mem, hv.places.trans (.of_eq rfl rfl)⟩
  have rows (x : List Nat) : WritesKey s a l (x.foldl (fun s g => s.clearDamage (cacheKey g)) (s.writeKey a l)) := by
    have done : ∀ w, WritesKey s a l w → WritesKey s a l (x.foldl (fun s g => s.clearDamage (cacheKey g)) w) := by
      induction x with
      | nil => exact fun w hw => hw
      | cons b x ih => exact fun w hw => ih _ ⟨hw.mem, hw.places.trans State.clearDamage_places⟩
    exact done _ first
  have touched (x : List Nat) (j : Nat) (c : CacheLine) :
      WritesKey s a l ((x.foldl (fun s g => s.clearDamage (cacheKey g)) (s.writeKey a l)).touchLine j c) :=
    ⟨(rows x).mem, (rows x).places.trans State.touchLine_places⟩
  unfold State.writeExternalLine
  dsimp only [Option.bind_none]
  split
  · exact clear first _ _
  · split
    · split
      · exact clear (touched _ _ _) _ _
      · exact clear (touched _ _ _) _ _
    · rw [ite_self]
      exact clear first _ _

theorem State.writePart_writes {l : List Byte} (hp : ∃ d, s.place a = .stack d ∨ s.place a = .scratch d) :
    WritesKey s a l (s.writePart {} a l) := by
  unfold State.writePart
  obtain ⟨d, hp | hp⟩ := hp
  · rw [hp]
    exact State.writeExternalLine_writes
  · rw [hp]
    dsimp only
    have done (x : List Nat) : ∀ w, WritesKey s a l w → WritesKey s a l (x.foldl State.clearDamage w) := by
      induction x with
      | nil => exact fun w hw => hw
      | cons b x ih => exact fun w hw => ih _ ⟨hw.mem, hw.places.trans State.clearDamage_places⟩
    exact done _ _ ⟨rfl, .of_eq rfl rfl⟩

/-- The parts of a range lie in it, and between them cover it. -/
theorem mem_lineParts {e : Nat × Nat} (h : e ∈ lineParts a n) : a ≤ e.1 ∧ e.1 + e.2 ≤ a + n ∧ e.1 < a + n := by
  unfold lineParts unitsOf at h
  split at h
  · simp at h
  next hn =>
    simp only [List.map_map, List.mem_map, List.mem_range, Function.comp_def] at h
    obtain ⟨i, hi, rfl⟩ := h
    dsimp only
    omega

theorem lineParts_cover {j : Nat} (h : a ≤ j) (hj : j < a + n) : ∃ e ∈ lineParts a n, e.1 ≤ j ∧ j < e.1 + e.2 := by
  refine ⟨(max a (256 * (j / 256)), min (a + n) (256 * (j / 256) + 256) - max a (256 * (j / 256))), ?_, ?_, ?_⟩
  · unfold lineParts unitsOf
    rw [if_neg (by omega)]
    simp only [List.map_map, List.mem_map, List.mem_range, Function.comp_def]
    exact ⟨j / 256 - a / 256, by omega, by rw [show a / 256 + (j / 256 - a / 256) = j / 256 by omega]⟩
  · dsimp only
    omega
  · dsimp only
    omega

theorem getD_slice {l : List Byte} {o i : Nat} (h : i < n) : (slice l o n).getD i 0 = byteAt l (o + i) := by
  unfold slice byteAt
  simp [List.getD_eq_getElem?_getD, List.getElem?_take, List.getElem?_drop, h]

/-- A write of a requester without ways to a range that is stored: the range holds the bytes, and no other changes. -/
theorem State.writeDevice_wrote {l : List Byte} (hm : Memory.wf s.mem = true) (hs : s.Mapped) (hp : s.stored a l.length) :
    Wrote s.mem a l (s.writeDevice {} a l).mem := by
  have fold (parts : List (Nat × Nat)) : ∀ v : State, SamePlaces s v → Memory.wf v.mem = true →
      (∀ e ∈ parts, a ≤ e.1 ∧ e.1 + e.2 ≤ a + l.length ∧ e.1 < a + l.length) →
      ∀ j, memGet (parts.foldl (fun s e => s.writePart {} e.1 (slice l (e.1 - a) e.2)) v).mem j =
        if ∃ e ∈ parts, e.1 ≤ j ∧ j < e.1 + e.2 then byteAt l (j - a) else memGet v.mem j := by
    induction parts with
    | nil => simp
    | cons e parts ih =>
      intro v hv hw hin j
      obtain ⟨h1, h2, h3⟩ := hin e (List.mem_cons_self ..)
      have here : ∃ d, v.place e.1 = .stack d ∨ v.place e.1 = .scratch d := by
        rw [hv.place hs]
        have := hp (e.1 - a) (by omega)
        rwa [show a + (e.1 - a) = e.1 by omega] at this
      have wrote := State.writePart_writes (l := slice l (e.1 - a) e.2) here
      rw [List.foldl_cons, ih _ (hv.trans wrote.places) (by rw [wrote.mem]; exact Memory.wf_write hw)
        (fun x hx => hin x (List.mem_cons_of_mem _ hx)), wrote.mem, memGet_write hw]
      have len : (slice l (e.1 - a) e.2).length = e.2 := by
        unfold slice
        simp
        omega
      rw [len]
      by_cases later : ∃ x ∈ parts, x.1 ≤ j ∧ j < x.1 + x.2
      · rw [if_pos later, if_pos (by obtain ⟨x, hx, hj⟩ := later; exact ⟨x, List.mem_cons_of_mem _ hx, hj⟩)]
      · rw [if_neg later]
        by_cases now : e.1 ≤ j ∧ j < e.1 + e.2
        · rw [if_pos now, if_pos ⟨e, List.mem_cons_self .., now⟩, getD_slice (by omega), show e.1 - a + (j - e.1) = j - a by omega]
        · rw [if_neg now, if_neg]
          rintro ⟨x, hx, hj⟩
          rcases List.mem_cons.mp hx with rfl | hx
          · exact now hj
          · exact later ⟨x, hx, hj⟩
  intro j
  have done := fold (lineParts a l.length) s .refl hm (fun e he => mem_lineParts he) j
  refine done.trans ?_
  by_cases hj : a ≤ j ∧ j < a + l.length
  · rw [if_pos hj, if_pos (lineParts_cover hj.1 hj.2)]
  · rw [if_neg hj, if_neg]
    rintro ⟨e, he, h1, h2⟩
    obtain ⟨g1, g2, -⟩ := mem_lineParts he
    exact hj ⟨by omega, by omega⟩

end Sys2Proof.Machine
end

section
/-! PROOFS. A copy at the peer: its destination check and its pieces (R443). -/

namespace Sys2Proof.Machine

variable {s t v : State} {m : CopyMsg} {p : Pin}

/-- What an access changes is in no frame between modules. -/
theorem Reaches.fabricFrame {q : Keeping} {peer : Option (List Byte)} {x : FabricMsg} (h : Reaches q s t) :
    t.fabricFrame peer x = s.fabricFrame peer x := by
  obtain ⟨m, rfl, -⟩ := h
  exact State.fabricFrame_congr rfl rfl

theorem State.fabricFrame_modContext {c : Nat} {g : Context → Context} {peer : Option (List Byte)} {x : FabricMsg} :
    (s.modContext c g).fabricFrame peer x = s.fabricFrame peer x := State.fabricFrame_congr rfl rfl

theorem State.send_mem {w : WireFrame} : (s.send w).mem = s.mem := by
  obtain ⟨_, _, _, _, _, _, e⟩ := Sent.send (w := w) (Sent.refl (s := s))
  rw [e]

section
variable {s₀ : State} (hin : s₀.letIn m.secured = (s, true)) (ht : m.tagOk = true) (hm : s.fabric.member = true)
  (hc : s.fabric.claim ≠ 2)
include hin ht hm hc

/-- The pin of a copy, set before its check is answered. -/
theorem exec_copyDestinationCheck_pins (hl : m.length ≠ 0) (hg : m.migrate = false) (hk : s.checkSpan m = 0) :
    exec (.copyDestinationCheck m) s₀ = .next (State.send ((s.unpin m).modContext m.context fun x => { x with pins := x.pins ++
        [{ source := m.sourceSerial, csn := m.csn, migrate := false, destination := m.destination, length := m.length }] })
      (s.fabricFrame (some m.sourceSerial) (.copyAck m.context m.csn 0 true true))) := by
  have part : s.takesPart = true := by simp [State.takesPart, hc]
  change execCopyDestinationCheck m s₀ = _
  unfold execCopyDestinationCheck
  rw [State.through_in hin, State.heeds_true ht hm, part]
  dsimp only
  rw [if_neg (by decide), if_neg (by decide), if_neg hl, hg, if_neg (by decide : ¬(false = true)), hk, if_neg (by decide)]
  unfold State.sendFabric State.unpin
  rw [State.fabricFrame_modContext, State.fabricFrame_modContext]
  simp only [Bool.or_false]

/-- A piece that falls under a pin, taken as the whole unit or as its first part. -/
theorem exec_copyPagePiece_first (hg : m.migrate = false) (ho : m.offset = 0)
    (hp : (s.context m.context).pins.find? (·.takes m) = some p) : exec (.copyPagePiece m) s₀ =
      if m.data.length < m.length then .next (s.modContext m.context fun x => { x with
        pins := x.pins.map fun y => if y = p then { p with unit := m.destination, buffer := m.data } else y })
      else match s.takeUnit m.context false m.destination m.data with
        | (t, false) => .next t
        | (t, true) => .next ((t.modContext m.context fun x => { x with pins := x.pins.map fun y =>
            if y = p then { p with unit := 0, buffer := [], moved := p.moved + m.data.length } else y }).sendFabric
          (some m.sourceSerial) (.copyAck m.context m.csn m.destination false true)) := by
  have part : s.takesPart = true := by simp [State.takesPart, hc]
  change execCopyPagePiece m s₀ = _
  unfold execCopyPagePiece
  rw [State.through_in hin, State.heeds_true ht hm, part]
  dsimp only
  rw [if_neg (by decide), if_neg (by decide), hp]
  dsimp only
  rw [hg, ho, if_neg (by simp), if_neg (by simp), if_pos rfl, List.nil_append] <;> rfl

end

/-- Settles O37. -/
theorem thePeerPinsAndTakes : Obligations.ThePeerPinsAndTakes := by
  unfold Obligations.ThePeerPinsAndTakes
  refine ⟨?check, ?whole, ?part⟩
  case check =>
    intro s₀ s m hin ht hm hc hl hg hk
    exact exec_copyDestinationCheck_pins hin ht hm hc hl hg hk
  case whole =>
    intro s₀ s v m p a hin ht hm hc hg ho hlen hp ha hfail hwin hheld hpart
    have taken : s.takeUnit m.context false m.destination m.data = (v.writeDevice {} a m.data, true) := by
      unfold State.takeUnit
      dsimp only
      rw [ha, hlen, hfail]
      simp only [Bool.not_false, if_true, Bool.false_eq_true, if_false]
      unfold State.takeBytes State.reachHeld
      rw [hlen, hwin, hheld, hpart]
      rfl
    have reached : Accessed s (v.writeDevice {} a m.data) := by
      have read : AccessedFst s (s.partlyLost {} a m.length) := Reaches.refl.partlyLost
      rw [hpart] at read
      exact Reaches.writeDevice (t := v) read
    refine ⟨_, (exec_copyPagePiece_first hin ht hm hc hg ho hp).trans ?_, rfl, fun hs hsound hstored => ?_⟩
    · rw [if_neg (by omega), taken]
      dsimp only
      unfold State.sendFabric
      rw [State.fabricFrame_modContext, reached.fabricFrame, hlen]
    · have read : TouchedFst s (s.partlyLost {} a m.length) := Reaches.touched_partlyLost hsound.kept Reaches.refl
      rw [hpart] at read
      have touched : Touched s v := read
      have mapped : s.Mapped := ⟨hs.segCodes, hs.ponds.1⟩
      rw [State.send_mem]
      change Wrote s.mem a m.data (v.writeDevice {} a m.data).mem
      rw [← touched.mem_eq]
      exact State.writeDevice_wrote (by rw [touched.mem_eq]; exact hs.mem) (touched.places.mapped mapped)
        (touched.places.stored mapped hstored)
  case part =>
    intro s₀ s m p hin ht hm hc hg ho hlen hp
    exact (exec_copyPagePiece_first hin ht hm hc hg ho hp).trans (if_pos hlen)

end Sys2Proof.Machine
end

section
/-! PROOFS. A step that completes writes the record of its sequence (R248, R325). -/

namespace Sys2Proof.Machine

/-- One slot, without pages, in the granted part of die 0's scratchpad. -/
def oneSlot : SeqArea := { base := padBase, capacity := 1, stride := 0, poolFirst := 0, poolCount := 0 }

/-- A step that appends one position to slot 0. -/
def appender : Cmd := { csn := 1, opcode := 0x0301, frame := { opcode := 0x0301 }, phase := .booked, append := 1, slots := [0] }

/-- Context 0 with the slot open and the step booked. -/
def appending : State :=
  { ({} : State) with
    contexts := [(0, { state := .open, area := some oneSlot, seqs := [(0, { isOpen := true })], stream := { next := 2, cmds := [appender] } })] }

theorem appending_canonical : appending.Canonical :=
  { reset_kept.2 with contexts := ⟨by decide, by simp [appending, Context.Canonical, swf]⟩ }

theorem appending_complete : (appending.complete 0 1 0 0 0 { rank := 0, status := 0 }).mem ≠ [] := by
  decide +kernel

/-- Refutes O46: a step that completes DONE advances the length of its sequence, and the slot's record is written to memory. -/
theorem not_commandsEnd : ¬Obligations.CommandsEnd := by
  unfold Obligations.CommandsEnd
  rintro ⟨-, -, -, -, -, hcomplete, -⟩
  obtain ⟨m', -, -, -, -, -, -, -, hmem, -⟩ := hcomplete appending 0 1 0 0 0 appender { rank := 0, status := 0 } appending_canonical (by decide) rfl
    (by decide) (by decide) (by decide)
  exact appending_complete hmem

end Sys2Proof.Machine
end

section
/-! PROOFS. The instructions of a core (R85 to R93): what decoding one gives, the block loads and the control instructions, and
what a trap leaves. -/

namespace Sys2Proof.Machine

variable {s t : State} {k : Fin 240} {cls op : Nat} {w : CoreWord} {x : Core} {f : Core → Core} {run : CoreWord → State → State}

/-! ## One core -/

theorem State.core_onCore_self {own : Nat} (h : s.Canonical) :
    (s.onCore own f).core (s.physical own) = f (s.core (s.physical own)) := State.core_modCore_self h.cores.1

theorem OnlyCore.onCore (h : s.Canonical) (hf : f (s.core (s.physical k)) = x) : OnlyCore k s (s.onCore k f) x :=
  ⟨(State.core_onCore_self h).trans hf, fun _ hp => State.core_modCore_other h.cores.1 hp, rfl⟩

theorem OnlyCore.onCore_next {y : Core} {g : Core → Core} (h : OnlyCore k s t y) (ht : t.Canonical) (hg : g y = x) :
    OnlyCore k s (t.onCore k g) x := by
  obtain ⟨self, others, rest⟩ := h
  have same : t.physical k = s.physical k := by rw [rest]; rfl
  refine ⟨?_, fun p hp => ?_, ?_⟩
  · rw [← same, State.core_onCore_self ht, same, self, hg]
  · exact (State.core_modCore_other ht.cores.1 (same ▸ hp)).trans (others p hp)
  · unfold State.onCore State.modCore State.setCore
    rw [rest]

theorem OnlyCore.refl (hx : s.core (s.physical k) = x) : OnlyCore k s s x := ⟨hx, fun _ _ => rfl, rfl⟩

theorem OnlyCore.advance (h : s.Canonical) (hx : s.core (s.physical k) = x) :
    OnlyCore k s (s.advance k) { x with pc := x.pc + 1, wait := .none } :=
  .onCore h (by rw [hx])

/-! ## Decoding (R88 to R90) -/

theorem Fetches.decode {b : Block} {ig : Bool} (h : Fetches k b s) : s.decode k cls op ig run =
    match b.instrs[(s.core (s.physical k)).pc]? with
    | none => .next (s.trap k trapFetch)
    | some w =>
      if !wDefined w then .next (s.trap k trapUndefined)
      else if wClass w ≠ cls ∨ wOp w ≠ op then .next s
      else if !ig ∧ wCount w = 0xFFFFFF then .next (s.trap k trapCount)
      else if !ig ∧ wCount w = 0 then .next (s.advance k)
      else .next (run w s) := by
  obtain ⟨-, hrun, hdec, hfree, -, hpaused, hblock⟩ := h
  unfold State.decode
  dsimp only
  rw [if_neg (by simp [hrun, hdec, hfree, hpaused]), hblock] <;> rfl

/-- A row of the core instructions (R89, R234). -/
def Row (cls op : Nat) : Prop := (cls = 0 ∧ op ≤ 5) ∨ (cls = 1 ∧ op ≤ 5) ∨ (cls = 2 ∧ op ≤ 9) ∨ (cls = 3 ∧ op ≤ 3)

theorem wDefined_of_row (h : Row cls op) (hc : wClass w = cls) (ho : wOp w = op) : wDefined w = true := by
  unfold wDefined
  rw [hc, ho]
  rcases h with ⟨rfl, h⟩ | ⟨rfl, h⟩ | ⟨rfl, h⟩ | ⟨rfl, h⟩ <;> exact decide_eq_true h

theorem Meets.decode (h : Meets k cls op w s) (hr : Row cls op) : s.decode k cls op true run = .next (run w s) := by
  obtain ⟨⟨b, hb, hw⟩, hc, ho⟩ := h
  rw [hb.decode, hw]
  simp [wDefined_of_row hr hc ho, hc, ho]

theorem Issues.decode (h : Issues k cls op w s) (hr : Row cls op) : s.decode k cls op false run = .next (run w s) := by
  obtain ⟨⟨⟨b, hb, hw⟩, hc, ho⟩, h0, h1⟩ := h
  rw [hb.decode, hw]
  simp [wDefined_of_row hr hc ho, hc, ho, h0, h1]

theorem Meets.runs {i : Instr} (h : Meets k cls op w s) (hr : Row cls op) (hi : exec i s = s.decode k cls op true run) :
    exec i s = .next (run w s) := hi.trans (h.decode hr)

theorem Issues.runs {i : Instr} (h : Issues k cls op w s) (hr : Row cls op) (hi : exec i s = s.decode k cls op false run) :
    exec i s = .next (run w s) := hi.trans (h.decode hr)

theorem Meets.canonical (h : Meets k cls op w s) : s.Canonical := by
  obtain ⟨⟨b, hb, -⟩, -⟩ := h
  exact hb.canonical

theorem Meets.free (h : Meets k cls op w s) (hx : s.core (s.physical k) = x) : x.wait = .none := by
  obtain ⟨⟨b, hb, -⟩, -⟩ := h
  exact hx ▸ hb.free

theorem Meets.unpaused (h : Meets k cls op w s) : s.paused = false := by
  obtain ⟨⟨b, hb, -⟩, -⟩ := h
  exact hb.unpaused

/-- The core goes on. -/
theorem Meets.advance (h : Meets k cls op w s) (hx : s.core (s.physical k) = x) :
    OnlyCore k s (s.advance k) { x with pc := x.pc + 1 } := by
  have := OnlyCore.advance h.canonical hx
  rwa [← h.free hx] at this

/-! ## Block loads (R87) -/

theorem execProgramBlockLoad_of {b : Block} (hs : (s.core (s.physical k)).state = .idle ∨ (s.core (s.physical k)).state = .preload ∨
    (s.core (s.physical k)).state = .running) (hb : s.nextBlock k = some b) :
    exec (.programBlockLoad k) s = .next (s.loadBlock k b) := by
  change execProgramBlockLoad k s = _
  unfold execProgramBlockLoad
  rw [if_neg (by rcases hs with h | h | h <;> simp [h]), hb]

/-! ## Control (R89) -/

theorem loopStep_eq {n c left : Nat} (h : left = match x.loops.find? (·.1 == x.pc) with | some e => e.2 | none => n - 1) :
    x.loopStep c n = if left = 0 then { x with pc := x.pc + 1, loops := x.loops.filter (·.1 != x.pc) }
      else { x with pc := c, loops := (x.pc, left - 1) :: x.loops.filter (·.1 != x.pc) } := by
  have same : ((x.loops.find? (·.1 == x.pc)).map (·.2)).getD (n - 1) = left := by
    rw [h]
    cases x.loops.find? (·.1 == x.pc) <;> rfl
  unfold Core.loopStep
  rw [same]

theorem State.offset_reached {n : Nat} (hx : s.core (s.physical k) = x) :
    n ≤ s.offsetOf k ↔ n + x.startedWork ≤ s.worked ∨ n = 0 := by
  unfold State.offsetOf
  rw [hx]
  omega

theorem emptied_three : x.emptied 3 = { x with
    queues := if bit x.queues 2 then 4 else 0, openWrites := x.openWrites.filter fun o => decide (2 ≤ o.queue) } := by
  have queues : maskOf ((bitsSet x.queues 3).filter fun q => !bit 3 q) = if bit x.queues 2 then 4 else 0 := by
    unfold bitsSet
    rw [show List.range 3 = [0, 1, 2] from rfl, List.filter_filter]
    simp [List.filter, show bit 3 0 = true from rfl, show bit 3 1 = true from rfl, show bit 3 2 = false from rfl]
    cases bit x.queues 2 <;> rfl
  have later (q : Nat) : (!bit 3 q) = decide (2 ≤ q) := by
    unfold bit
    match q with
    | 0 => rfl
    | 1 => rfl
    | q + 2 => rw [Nat.testBit_lt_two_pow (calc 3 < 2 ^ 2 := by decide
        _ ≤ 2 ^ (q + 2) := Nat.pow_le_pow_right (by decide) (by omega))]; simp
  unfold Core.emptied
  rw [queues]
  simp only [later]

/-- Settles O48. -/
theorem coresRunTheirPrograms : Obligations.CoresRunTheirPrograms := by
  unfold Obligations.CoresRunTheirPrograms
  refine ⟨fun k s v b bank g l hs hb hbank hg hread => ?_, fun k s v b bank g l e hs hb hbank hg hread hv => ?_,
    fun k w s x hi hx => ?_, fun k w s x hi hx => ?_, fun k w s x left hi hx hl => ?_, fun k w s x hi hx => ?_,
    fun k s x n hs hx hw => ?_, fun k w s x hm hx => ?_, fun k s x hs hx hw => ?_, fun k w s x hm hx => ?_⟩
  · rw [execProgramBlockLoad_of hs hb]
    unfold State.loadBlock
    simp only [hbank, hg, hread]
    congr 1
    have state : ((v.core (s.physical k)).setBank bank (some { b with instrs := l })).state = (v.core (s.physical k)).state := by
      cases bank <;> rfl
    unfold State.modCore
    dsimp only
    rw [state]
  · rw [execProgramBlockLoad_of (hs.imp_right .inl) hb]
    unfold State.loadBlock
    simp only [hbank, hg, hread]
    rw [if_neg (fun h => hv h.1)]
    rfl
  · exact ⟨_, hi.runs (run := fun _ s => s.advance k) (.inl ⟨rfl, by decide⟩) rfl, hi.advance hx⟩
  · exact ⟨_, hi.runs (run := fun w s => s.onCore k fun x => { x with pc := wC w }) (.inl ⟨rfl, by decide⟩) rfl, .onCore hi.canonical (by rw [hx])⟩
  · exact ⟨_, hi.runs (run := fun w s => s.onCore k fun x => x.loopStep (wC w) (wCount w)) (.inl ⟨rfl, by decide⟩) rfl, .onCore hi.canonical (by rw [hx]; exact loopStep_eq hl)⟩
  · refine ⟨_, hi.runs (run := fun w s =>
      if wC w ≤ s.offsetOf k then s.advance k else s.onCore k fun x => { x with wait := .notch (wC w) }) (.inl ⟨rfl, by decide⟩) rfl, ?_⟩
    split
    next reached =>
      rw [if_pos ((State.offset_reached hx).mp reached)]
      exact hi.advance hx
    next not_reached =>
      rw [if_neg (mt (State.offset_reached hx).mpr not_reached)]
      exact .onCore hi.canonical (by rw [hx])
  · have run : exec (.waitnRelease k) s = event (decide (n ≤ s.offsetOf k)) s (s.advance k) := by
      change execWaitnRelease k s = _
      unfold execWaitnRelease
      rw [hx, hw]
    by_cases reached : n ≤ s.offsetOf k
    · refine ⟨_, run.trans (event_true (decide_eq_true reached)), ?_⟩
      rw [if_pos ((State.offset_reached hx).mp reached)]
      exact .advance hs hx
    · refine ⟨_, run.trans (event_false (decide_eq_false reached)), ?_⟩
      rw [if_neg (mt (State.offset_reached hx).mpr reached)]
      exact .refl hx
  · refine ⟨_, hm.runs (run := fun _ s => if (s.core (s.physical k)).queues = 0 ∧ ((s.core (s.physical k)).streamQ.isEmpty : Bool) then s.advance k
      else s.onCore k fun x => { x with wait := .fence }) (.inl ⟨rfl, by decide⟩) rfl, ?_⟩
    rw [hx]
    by_cases empty : x.queues = 0 ∧ x.streamQ = []
    · rw [if_pos empty, if_pos ⟨empty.1, List.isEmpty_iff.mpr empty.2⟩]
      exact hm.advance hx
    · rw [if_neg empty, if_neg fun h => empty ⟨h.1, List.isEmpty_iff.mp h.2⟩]
      exact .onCore hm.canonical (by rw [hx])
  · have run : exec (.fenceRelease k) s = event x.streamQ.isEmpty s ((s.onCore k fun x => x.emptied 3).advance k) := by
      change execFenceRelease k s = _
      unfold execFenceRelease
      rw [hx]
      dsimp only
      rw [hw]
    by_cases empty : x.streamQ = []
    · refine ⟨_, run.trans (event_true (List.isEmpty_iff.mpr empty)), ?_⟩
      rw [if_pos empty]
      refine (OnlyCore.onCore hs rfl).onCore_next (State.onCore_kept ⟨rfl, hs⟩ ?_).2 ?_
      · exact fun c hc => Core.emptied_canonical hc
      · rw [hx, emptied_three]
    · refine ⟨_, run.trans (event_false (by simpa using empty)), ?_⟩
      rw [if_neg empty]
      exact .refl hx
  · exact ⟨_, hm.runs (run := fun _ s => s.onCore k fun x => { x with halted := true }) (.inl ⟨rfl, by decide⟩) rfl, .onCore hm.canonical (by rw [hx])⟩

end Sys2Proof.Machine
end

section
/-! PROOFS. A command of a stream, and what a trap leaves of the core and of its command (R92, R93). -/

namespace Sys2Proof.Machine

variable {s t : State} {c csn p : Nat} {m : Cmd}

/-! ## Contexts and commands -/

theorem State.stream_modStream {f : Stream → Stream} (h : s.Canonical) : (s.modStream c f).stream c = f (s.stream c) := by
  unfold State.modStream State.setStream
  by_cases hc : c = 255
  · unfold State.stream
    rw [if_pos hc, if_pos hc, if_pos hc]
  · conv_lhs => unfold State.stream
    rw [if_neg hc, if_neg hc, State.context_modContext_self h.contexts.1]
    rfl

theorem State.cmd_csn (h : s.cmd c csn = some m) : m.csn = csn := by simpa using List.find?_some h

theorem State.cmd_modCmd {f : Cmd → Cmd} (h : s.Canonical) (hm : s.cmd c csn = some m) (hf : ∀ m, (f m).csn = m.csn) :
    (s.modCmd c csn f).cmd c csn = some (f m) := by
  unfold State.modCmd State.cmd
  rw [State.stream_modStream h, List.find?_map]
  have same : ((fun x : Cmd => x.csn == csn) ∘ fun x => if x.csn = csn then f x else x) = fun x => x.csn == csn := by
    funext x
    rw [Function.comp_apply]
    split
    · rw [hf]
    · rfl
  rw [same]
  unfold State.cmd at hm
  rw [hm, Option.map_some, if_pos (State.cmd_csn hm)]

/-- A command changed in its stream touches nothing else. -/
theorem State.modCmd_eq {f : Cmd → Cmd} : ∃ v d, s.modCmd c csn f = { s with contexts := v, devStream := d } := by
  unfold State.modCmd State.modStream State.setStream
  split
  · exact ⟨_, _, rfl⟩
  · exact ⟨_, _, rfl⟩

/-! ## What a trap leaves (R93) -/

/-- A trap of the core that its own action traps. -/
def Core.trapped (x : Core) (cause item : Nat) (w : CoreWord) (address : Nat) : Core :=
  { x with
    state := .trapped, wait := .none, streamQ := []
    trapCause := BitVec.ofNat 32 (cause + 2 ^ 4 * wClass w + 2 ^ 8 * wOp w)
    trapPc := BitVec.ofNat 32 (x.pc % 4096 + 2 ^ 16 * (item % 4096)), trapAddr := BitVec.ofNat 32 address
    trouble := x.trouble ||| 1#32 }

/-- The stop that it notes. -/
def trapStop (k : Nat) (cause address : Nat) : Stop :=
  { rank := 0, status := trapStatus cause, detail := cause, core := k, cause := cause, address := address }

theorem State.setTroubleBit_core {b d j : Nat} {sc : Nat × Nat} : (s.setTroubleBit (.core p) b sc d).core j =
    (s.modCore p fun y => { y with trouble := (s.core p).trouble ||| BitVec.ofNat 32 (2 ^ b) }).core j := rfl

theorem State.setTroubleBit_core_eq {b d : Nat} {sc : Nat × Nat} : ∃ v l n f, s.setTroubleBit (.core p) b sc d =
    { s with cores := v, log := l, logNext := n, freshTrouble := f } := ⟨_, _, _, _, rfl⟩

theorem Fetches.trapped {k : Fin 240} {b : Block} {x : Core} {cause a : Nat} (h : Fetches k b s) (hx : s.core (s.physical k) = x) :
    ∃ u : State, s.trap k cause a = u.noteStop x.context x.csn (trapStop k cause a) ∧ u.Canonical ∧
      u.core (s.physical k) = x.trapped cause b.item (b.instrs.getD x.pc 0) a ∧ (∀ p, p ≠ s.physical k → u.core p = s.core p) ∧
      u = { s with cores := u.cores, log := u.log, logNext := u.logNext, freshTrouble := u.freshTrouble } := by
  have hblock : x.block = some b := hx ▸ h.block
  obtain ⟨v, hv⟩ : ∃ v, v = s.modCore (s.physical k) fun y =>
      { (if y.state = .running ∧ ¬(y.context = x.context ∧ y.csn = x.csn) then y
        else { y with state := .trapped, wait := .none, streamQ := [], context := x.context, csn := x.csn }) with
        trapCause := BitVec.ofNat 32 (cause + 2 ^ 4 * wClass (b.instrs.getD x.pc 0) + 2 ^ 8 * wOp (b.instrs.getD x.pc 0))
        trapPc := BitVec.ofNat 32 (x.pc % 4096 + 2 ^ 16 * (b.item % 4096)), trapAddr := BitVec.ofNat 32 a } := ⟨_, rfl⟩
  have canonical : v.Canonical := by
    rw [hv]
    refine (State.modCore_kept (q := s.pending) ⟨rfl, h.canonical⟩ fun c hc => ?_).2
    split
    · exact Core.canonical_of hc rfl rfl rfl rfl rfl rfl
    · exact Core.canonical_of hc rfl rfl rfl rfl rfl rfl
  have self : v.core (s.physical k) = { x.trapped cause b.item (b.instrs.getD x.pc 0) a with trouble := x.trouble } := by
    rw [hv, State.core_modCore_self h.canonical.cores.1, hx, if_neg (by simp)]
    rfl
  have others (p : Nat) (hp : p ≠ s.physical k) : v.core p = s.core p := by
    rw [hv, State.core_modCore_other h.canonical.cores.1 hp]
  have rest : v = { s with cores := v.cores } := by rw [hv]; rfl
  obtain ⟨y, l, n, f, set⟩ := State.setTroubleBit_core_eq (s := v) (p := s.physical k) (b := 0) (sc := (2, s.physical k)) (d := x.context)
  refine ⟨v.setTroubleBit (.core (s.physical k)) 0 (2, s.physical k) x.context, ?_,
    (State.setTroubleBit_kept (q := v.pending) ⟨rfl, canonical⟩).2, ?_, fun p hp => ?_, ?_⟩
  · unfold State.trap State.trapAt
    dsimp only
    rw [hx, hblock]
    unfold State.trapAs
    dsimp only
    rw [hv]
    rfl
  · rw [State.setTroubleBit_core]
    refine (State.core_modCore_self canonical.cores.1).trans ?_
    rw [self]
    rfl
  · rw [State.setTroubleBit_core]
    exact (State.core_modCore_other canonical.cores.1 hp).trans (others p hp)
  · rw [set, rest]

theorem State.noteStop_eq {x : Stop} : ∃ v d, s.noteStop c csn x = { s with contexts := v, devStream := d } := State.modCmd_eq

theorem State.cmd_noteStop {x : Stop} (h : s.Canonical) (hm : s.cmd c csn = some m) (hp : m.phase ≠ .completed) (hn : m.stop = none) :
    (s.noteStop c csn x).cmd c csn =
      some { m with stop := some { x with notch := s.now, count := 1, members := [(x.core, x.unit)] } } := by
  unfold State.noteStop
  rw [State.cmd_modCmd h hm]
  · rw [if_neg hp, hn]
  · intro y
    dsimp only
    split <;> rfl

/-! ## Every instruction decodes first -/

/-- Where SPUT goes on with one that waits at the front of the stream queue, it does not decode. -/
theorem coreRow_decode {i : Instr} {k : Fin 240} {cls op : Nat} {free : Bool} (h : coreRow i = some (k, cls, op, free))
    (hput : ∀ pc c a n l, i = .sput k → (s.core (s.physical k)).streamQ = .put pc c a n :: l →
      16 ≤ ((s.core (s.physical k)).channel c).queue.length) :
    Row cls op ∧ ∃ run, exec i s = s.decode k cls op free run := by
  unfold coreRow at h
  split at h
  case h_23 =>
    cases h
    refine ⟨.inr (.inr (.inr ⟨rfl, by decide⟩)), ?_⟩
    change ∃ run, execSput k s = s.decode k 3 0 false run
    unfold execSput
    split
    next pc c a n l hq =>
      rw [if_pos (.inr (hput pc c a n l rfl hq))]
      exact ⟨_, rfl⟩
    next => exact ⟨_, rfl⟩
  all_goals cases h
  all_goals refine ⟨by unfold Row; omega, ?_⟩
  all_goals simp only [exec, execNop, execJump, execLoop, execWaitn, execFence, execHalt, execMode, execLoadstat, execPass, execOspass,
    execDrain, execElem, execVld, execVst, execVfma, execVadd, execVmul, execVmax, execVmin, execVsfu, execVcvt, execVred, execSwait,
    execSsig, execSidle]
  all_goals exact ⟨_, rfl⟩

/-- Settles O49. -/
theorem badInstructionsTrap : Obligations.BadInstructionsTrap := by
  unfold Obligations.BadInstructionsTrap
  refine ⟨fun i k cls op free b s hrow hf hput => ?_, fun k b s cause a x hf hx hcause => ?_⟩
  · obtain ⟨row, run, decodes⟩ := coreRow_decode hrow hput
    rw [decodes, hf.decode]
    refine ⟨fun hnone => by rw [hnone]; rfl, fun w hw => ?_⟩
    rw [hw]
    dsimp only
    refine ⟨fun hd => ?_, fun hd hother => ?_, fun hc ho hfree hcount => ?_, fun hc ho hfree hcount => ?_⟩
    · simp only [hd]
      rfl
    · rw [if_neg (by simp [hd]), if_pos (Classical.not_and_iff_not_or_not.mp hother)]
    · rw [if_neg (by simp [wDefined_of_row row hc ho]), if_neg (by simp [hc, ho]), if_pos ⟨by rw [hfree]; rfl, hcount⟩]
      rfl
    · refine ⟨s.advance k, ?_, ?_⟩
      · rw [if_neg (by simp [wDefined_of_row row hc ho]), if_neg (by simp [hc, ho]), if_neg (by rw [hcount]; simp),
          if_pos ⟨by rw [hfree]; rfl, hcount⟩]
      · have := OnlyCore.advance (k := k) hf.canonical rfl
        rwa [← hf.free] at this
  · obtain ⟨u, htrap, canonical, self, others, rest⟩ := hf.trapped (cause := cause) (a := a) hx
    obtain ⟨v, d, stopped⟩ := State.noteStop_eq (s := u) (c := x.context) (csn := x.csn) (x := trapStop k cause a)
    intro t
    have cores : t.core = u.core := by rw [show t = _ from htrap, stopped]; rfl
    rw [cores, self]
    have small : cause + 2 ^ 4 * wClass (b.instrs.getD x.pc 0) + 2 ^ 8 * wOp (b.instrs.getD x.pc 0) < 2 ^ 32 := by
      have : wClass (b.instrs.getD x.pc 0) < 2 ^ 4 := Nat.mod_lt _ (by decide)
      have : wOp (b.instrs.getD x.pc 0) < 2 ^ 8 := Nat.mod_lt _ (by decide)
      omega
    refine ⟨rfl, rfl, ?_, ?_, rfl, ?_, others, ?_, ?_, fun hc m hm hph hn => ?_⟩
    · simp only [Core.trapped, BitVec.toNat_ofNat]
      omega
    · simp only [Core.trapped, BitVec.toNat_ofNat]
      omega
    · simp [Core.trapped]
    · rw [show t = _ from htrap, stopped]
      rw [rest]
    · rw [show t = _ from htrap, stopped]
      rw [rest]
    · have found : u.cmd x.context x.csn = some m := by rw [rest]; exact hm
      exact ⟨_, _, by rw [show t = _ from htrap]; exact State.cmd_noteStop canonical found hph hn, rfl, rfl, rfl, rfl, rfl⟩

end Sys2Proof.Machine
end

section
/-! PROOFS. The stream instructions of a core and the release of what waits at the front of its stream queue (R216, R232, R234). -/

namespace Sys2Proof.Machine

variable {s t u v : State} {k : Fin 240} {op : Nat} {w : CoreWord} {x : Core} {o : StreamOp} {l : List StreamOp}

/-! ## The stream queue -/

theorem State.runStreamQ_gone {own : Nat} (h : s.streamOp own o = .gone t) :
    State.runStreamQ own (o :: l) s = State.runStreamQ own l t := by
  rw [State.runStreamQ, h]

theorem State.runStreamQ_waits {own : Nat} {o' : StreamOp} (h : s.streamOp own o = .waits t o') :
    State.runStreamQ own (o :: l) s = t.onCore own fun x => { x with streamQ := o' :: l } := by
  rw [State.runStreamQ, h]

/-- An instruction behind others in the stream queue waits its turn. -/
theorem OnlyCore.toStream_behind (hm : Meets k 3 op w s) (hx : s.core (s.physical k) = x) (hq : x.streamQ ≠ []) :
    OnlyCore k s (s.toStream k o) { x with pc := x.pc + 1, streamQ := x.streamQ ++ [o] } := by
  unfold State.toStream
  dsimp only
  rw [hx, if_neg (by simpa using hq)]
  exact (hm.advance hx).onCore_next (State.advance_kept ⟨rfl, hm.canonical⟩).2 rfl

theorem State.toStream_empty (hx : s.core (s.physical k) = x) (hq : x.streamQ = []) :
    s.toStream k o = State.runStreamQ k [o] (s.advance k) := by
  unfold State.toStream
  dsimp only
  rw [hx, hq]
  rfl

/-- One that finds the queue empty and only asks goes through, or waits. -/
theorem OnlyCore.toStream (hm : Meets k 3 op w s) (hx : s.core (s.physical k) = x) {b : Prop} [Decidable b]
    (ho : (s.advance k).streamOp k o = if b then .gone (s.advance k) else .waits (s.advance k) o) :
    OnlyCore k s (s.toStream k o) { x with pc := x.pc + 1, streamQ := if x.streamQ = [] ∧ b then [] else x.streamQ ++ [o] } := by
  have canonical := (State.advance_kept (own := k) (q := s.pending) ⟨rfl, hm.canonical⟩).2
  by_cases hq : x.streamQ = []
  · rw [State.toStream_empty hx hq]
    by_cases hb : b
    · rw [if_pos ⟨hq, hb⟩, State.runStreamQ_gone (ho.trans (if_pos hb))]
      exact (hm.advance hx).onCore_next canonical rfl
    · rw [if_neg (fun h => hb h.2), State.runStreamQ_waits (ho.trans (if_neg hb)), hq]
      exact (hm.advance hx).onCore_next canonical rfl
  · rw [if_neg (fun h => hq h.1)]
    exact .toStream_behind hm hx hq

/-- Going on changes none of a core's counters and channels. -/
theorem OnlyCore.barrier {i : Nat} (h : OnlyCore k s t x) (hx : x.barriers = (s.core (s.physical k)).barriers) :
    t.barrier k i = s.barrier k i := by
  obtain ⟨self, -, rest⟩ := h
  have same : t.physical k = s.physical k := by rw [rest]; rfl
  unfold State.barrier
  rw [same, self, hx]

theorem OnlyCore.core (h : OnlyCore k s t x) : t.core (t.physical k) = x := by
  obtain ⟨self, -, rest⟩ := h
  have same : t.physical k = s.physical k := by rw [rest]; rfl
  rw [same, self]

theorem State.streamOp_wait {own i n : Nat} :
    s.streamOp own (.wait i n) = if n ≤ s.barrier own i then .gone s else .waits s (.wait i n) := rfl

theorem State.streamOp_idle {own m : Nat} : s.streamOp own (.idle m) =
    if (s.core (s.physical own)).channelsIdle m = true then .gone s else .waits s (.idle m) := rfl

theorem State.streamOp_signal {own pc i n c : Nat} (h : (s.core (s.physical own)).queues = 0) (hs : s.signal c i n = some t) :
    s.streamOp own (.signal pc i n c) = .gone t := by
  unfold State.streamOp
  dsimp only
  rw [if_neg (by rw [h]; decide), hs]

theorem State.streamOp_signal_waits {own pc i n c : Nat} (h : (s.core (s.physical own)).queues ≠ 0) :
    s.streamOp own (.signal pc i n c) = .waits s (.signal pc i n c) := by
  unfold State.streamOp
  dsimp only
  rw [if_pos h]

theorem State.streamOp_put {own pc c a n : Nat} (h : s.paused = false) :
    s.streamOp own (.put pc c a n) = State.putFrom own pc c n a s := by
  unfold State.streamOp
  dsimp only
  rw [if_neg (by rw [h]; decide)]

theorem putFrom_full {own pc chan n a : Nat} (h : 16 ≤ ((s.core (s.physical own)).channel chan).queue.length) :
    State.putFrom own pc chan (n + 1) a s = .waits s (.put pc chan a (n + 1)) := by
  rw [State.putFrom, if_pos h]

theorem putFrom_room {own pc chan n a : Nat} {data : List Byte} (hx : s.core (s.physical own) = x)
    (h : (x.channel chan).queue.length < 16) (ha : localRange a 64 = .store) (hd : s.fetchLocal own 2 a 64 = .ok v data) :
    State.putFrom own pc chan (n + 1) a s = State.putFrom own pc chan n (a + 64) (v.putDescriptor own chan
      { bytes := data, item := (x.block.map (·.item)).getD 0, entry := 0, context := x.context, csn := x.csn, action := x.action }) := by
  rw [State.putFrom]
  dsimp only
  rw [hx, if_neg (by omega), if_neg (by rw [ha]; decide), hd]

/-- The array and vector queues have emptied. -/
theorem queues_emptied (h : x.queues < 4) : (x.emptied 3).queues = 0 := by
  have third : bit x.queues 2 = false := Nat.testBit_lt_two_pow h
  rw [emptied_three]
  change (if bit x.queues 2 then 4 else 0) = 0
  rw [third]
  rfl

/-! ## Signals (R232) -/

theorem State.signal_adds {c i n : Nat} (hs : s.Canonical) (h : s.signal c i n = some t) :
    t.barrier c i = s.barrier c i + n ∧ s.barrier c i + n < 2 ^ 32 ∧ (∀ j, j ≠ i → t.barrier c j = s.barrier c j) ∧
      (∀ p, p ≠ s.physical c → t.core p = s.core p) ∧ t = { s with cores := t.cores } := by
  unfold State.signal at h
  dsimp only at h
  split at h
  · cases h
  next small =>
    cases h
    have self (j : Nat) : State.barrier (s.modCore (s.physical c) fun x =>
        { x with barriers := sput 0 x.barriers i (BitVec.ofNat 32 (s.barrier c i + n)) }) c j =
        (sget 0 (sput 0 (s.core (s.physical c)).barriers i (BitVec.ofNat 32 (s.barrier c i + n))) j).toNat := by
      refine congrArg (fun x : Core => (sget 0 x.barriers j).toNat) (State.core_modCore_self (s := s) hs.cores.1)
    have canonical : swf 0 (s.core (s.physical c)).barriers = true := (Kept.core (q := s.pending) ⟨rfl, hs⟩ _).barriers
    refine ⟨(self i).trans ?_, by unfold State.barrier; omega, fun j hj => (self j).trans ?_, fun p hp =>
      State.core_modCore_other hs.cores.1 hp, rfl⟩
    · rw [sget_sput_self canonical, BitVec.toNat_ofNat]
      exact Nat.mod_eq_of_lt (by unfold State.barrier; omega)
    · rw [sget_sput_other canonical hj]
      rfl

/-! ## SPUT -/

theorem execSput_decode (hp : ∀ pc c a n l, (s.core (s.physical k)).streamQ = .put pc c a n :: l →
      s.paused = true ∨ 16 ≤ ((s.core (s.physical k)).channel c).queue.length) :
    exec (.sput k) s = s.decode k 3 0 false fun w s =>
      if wB w % 16 < 8 then s.trap k trapUndefined
      else s.toStream k (.put (s.pcOf k) (wB w % 16) (wA w * 64) (wCount w)) := by
  change execSput k s = _
  unfold execSput
  split
  next pc c a n l hq => rw [if_pos (hp pc c a n l hq)]
  next => rfl

theorem execSput_goes {pc c a n : Nat} (hq : (s.core (s.physical k)).streamQ = .put pc c a n :: l) (hp : s.paused = false)
    (hl : ((s.core (s.physical k)).channel c).queue.length < 16) :
    exec (.sput k) s = .next (State.runStreamQ k (.put pc c a n :: l) s) := by
  change execSput k s = _
  unfold execSput
  rw [hq]
  dsimp only
  rw [if_neg (by rw [hp]; simpa using hl)]

theorem row_stream (h : op ≤ 3) : Row 3 op := .inr (.inr (.inr ⟨rfl, h⟩))

/-- What a decoded SSIG does. -/
def ssigRun (k : Fin 240) (w : CoreWord) (s : State) : State :=
  let x := s.core (s.physical k)
  let target := wC w % 256
  if !(bit (s.quartersOf x.context x.csn) (target / 15) && s.logicalExists target) then s.trap k trapAddress
  else s.toStream k (.signal x.pc (rA w) (wCount w) target)

theorem execSsig_allowed {c : Nat} (hi : Issues k 3 2 w s) (hx : s.core (s.physical k) = x) (hc : wC w % 256 = c)
    (hbit : bit (s.quartersOf x.context x.csn) (c / 15) = true) (hex : s.logicalExists c = true) :
    exec (.ssig k) s = .next (s.toStream k (.signal x.pc (rA w) (wCount w) c)) := by
  rw [hi.runs (run := ssigRun k) (row_stream (by decide)) rfl]
  unfold ssigRun
  dsimp only
  rw [hx, hc, if_neg (by simp [hbit, hex])]

/-- Settles O52. -/
theorem streamInstructionsComplete : Obligations.StreamInstructionsComplete := by
  unfold Obligations.StreamInstructionsComplete
  refine ⟨fun k w s x hi hx hB hq => ?_, fun k w s x hi hx hB hq hput => ?_, fun k w s hi hB hq => ?_,
    fun k s pc chan a n l hq hp hl => ?_, fun k s v pc chan n a data x hx hl ha hd => putFrom_room hx hl ha hd,
    fun k s pc chan n a h => putFrom_full h, fun k w s x hi hx => ?_, fun k s i n l hq hn => ?_,
    fun k s i n l x hs hx hq hn => ?_, fun k w s u x c hi hx hc hbit hex hq hqs hsig => ?_,
    fun k w s x c hi hx hc hbit hex hw => ?_, fun k w s x hi hx hbad => ?_, fun k s u v pc i n c l hs hq hqs hu hsig => ?_,
    fun s t c i n hs h => State.signal_adds hs h, fun k w s x hi hx => ?_, fun k s m l hq hidle => ?_⟩
  · have decodes := execSput_decode (s := s) (k := k) (fun _ _ _ _ _ h => by rw [hx, hq] at h; cases h)
    rw [hi.runs (row_stream (by decide)) decodes, if_neg (by omega), State.toStream_empty hx hq]
    unfold State.pcOf
    rw [hx]
  · have decodes := execSput_decode (s := s) (k := k) (fun _ _ _ _ _ h => .inr (by rw [hx] at h ⊢; exact hput _ _ _ _ _ h))
    refine ⟨_, hi.runs (row_stream (by decide)) decodes, ?_⟩
    rw [if_neg (by omega)]
    unfold State.pcOf
    rw [hx]
    exact .toStream_behind hi.toMeets hx hq
  · have decodes := execSput_decode (s := s) (k := k) (fun _ _ _ _ _ h => by rw [hq] at h; cases h)
    rw [hi.runs (row_stream (by decide)) decodes, if_pos hB]
    rfl
  · rw [execSput_goes hq hp hl, State.runStreamQ, State.streamOp_put hp] <;> rfl
  · refine ⟨_, hi.runs (run := fun w s => s.toStream k (.wait (rA w) (wCount w))) (row_stream (by decide)) rfl, ?_⟩
    refine .toStream hi.toMeets hx ?_
    rw [State.streamOp_wait, (hi.advance hx).barrier (by rw [hx])]
  · change execSwaitRelease k s = _
    unfold execSwaitRelease
    rw [hq]
    dsimp only
    rw [State.runStreamQ_gone (State.streamOp_wait.trans (if_pos hn))]
  · refine ⟨State.runStreamQ k (.wait i n :: l) s, ?_, ?_⟩
    · change execSwaitRelease k s = _
      unfold execSwaitRelease
      rw [hx, hq]
    · rw [State.runStreamQ_waits (State.streamOp_wait.trans (if_neg (by omega)))]
      refine .onCore hs ?_
      rw [hx, ← hq]
  · have allowed := execSsig_allowed hi hx hc hbit hex
    have there : ((s.advance k).core ((s.advance k).physical k)).queues = 0 := by rw [(hi.advance hx).core]; exact hqs
    rw [allowed, State.toStream_empty hx hq, State.runStreamQ_gone (State.streamOp_signal there hsig)]
    rfl
  · refine ⟨_, execSsig_allowed hi hx hc hbit hex, ?_⟩
    by_cases hq : x.streamQ = []
    · have there : ((s.advance k).core ((s.advance k).physical k)).queues ≠ 0 := by
        rw [(hi.advance hx).core]
        exact hw.resolve_left fun h => h hq
      rw [State.toStream_empty hx hq, State.runStreamQ_waits (State.streamOp_signal_waits there), hq]
      exact (hi.advance hx).onCore_next (State.advance_kept (q := s.pending) ⟨rfl, hi.canonical⟩).2 rfl
    · exact .toStream_behind hi.toMeets hx hq
  · rw [hi.runs (run := ssigRun k) (row_stream (by decide)) rfl]
    unfold ssigRun
    dsimp only
    rw [hx, if_pos (by rcases hbad with h | h <;> simp [h])]
    rfl
  · have there : (u.core (u.physical k)).queues = 0 := by
      rw [← hu]
      refine (congrArg Core.queues (State.core_onCore_self hs)).trans (queues_emptied hqs)
    change execSsigRelease k s = _
    unfold execSsigRelease
    rw [hq]
    dsimp only
    rw [hu, State.runStreamQ_gone (State.streamOp_signal there hsig)]
  · refine ⟨_, hi.runs (run := fun w s => s.toStream k (.idle (wA w % 65536))) (row_stream (by decide)) rfl, ?_⟩
    refine .toStream hi.toMeets hx ?_
    rw [State.streamOp_idle, (hi.advance hx).core]
    rfl
  · change execSidleRelease k s = _
    unfold execSidleRelease
    rw [hq]
    dsimp only
    rw [State.runStreamQ_gone (State.streamOp_idle.trans (if_pos hidle))]

end Sys2Proof.Machine
end

section
/-! PROOFS. An element-wise pass over an entry that an integer pass wrote last (R77, R115): the entry no longer holds an integer. -/

namespace Sys2Proof.Machine

/-- ELEM of one element of E4M3 on tile 0: A times B plus the entry. -/
def elemWord : CoreWord := BitVec.ofNat 128 (2 ^ 124 + 5 * 2 ^ 116 + 2 ^ 100 + 1)

def elemBlock : Block where
  context := 0
  csn := 0
  item := 0
  action := 0
  ganged := false
  planId := 0
  offset := 0
  instrs := [elemWord]

/-- Core 0 decodes it, with tile 0 element-wise and an integer in entry 0 of its bank 0. -/
def elemState : State :=
  { ({} : State) with
    contexts := [(0, { grant := { quarters := 1, storeBase := 0, storeLength := 64 } })]
    cores := [(256, { state := .running, arrayMode := 3, integers := [(0, true)]
                      bank0 := some elemBlock })] }

theorem elemState_canonical : elemState.Canonical :=
  { reset_kept.2 with
    contexts := ⟨by decide, by simp [elemState, Context.Canonical, swf]⟩
    cores := ⟨by decide, by
      simp only [elemState, List.mem_singleton, forall_eq]
      exact { tiles := rfl, sums := rfl, integers := by decide, vregs := rfl, channels := ⟨rfl, nofun⟩, barriers := rfl }⟩ }

theorem elemState_issues : Issues 0 1 5 elemWord elemState where
  fetches := ⟨elemBlock, { canonical := elemState_canonical, running := by decide, decodes := by decide
                           free := by decide, stays := by decide, unpaused := by decide, block := rfl }, by decide⟩
  cls := by decide
  op := by decide
  some_ := by decide
  few := by decide

/-- Its operands, both from the first byte of the core store. -/
theorem elemState_fetch : elemState.fetchLocal 0 0 0 1 = .ok elemState [0] := rfl

theorem elemState_integers : (((elemRun 0 elemWord elemState).finish 0 0).core 256).integers = [] := by decide +kernel

/-- Refutes O50: an element-wise pass leaves no integer in the entries that it writes. -/
theorem not_arrayInstructionsComplete : ¬Obligations.ArrayInstructionsComplete := by
  unfold Obligations.ArrayInstructionsComplete
  rintro ⟨-, -, -, -, -, -, -, helem⟩
  obtain ⟨t, y, hexec, ⟨hself, -⟩, hy, -⟩ := helem 0 elemWord elemState elemState elemState 0 0 1 [0] [0] elemState_issues (by decide)
    (by decide) (by decide) (by decide) (by decide) (by decide) (by decide) elemState_fetch elemState_fetch rfl rfl
  have run := elemState_issues.runs (i := .elem 0) (run := fun w s => (elemRun 0 w s).finish 0 0) (.inr (.inl ⟨rfl, by decide⟩)) rfl
  obtain rfl : (elemRun 0 elemWord elemState).finish 0 0 = t := Host.Outcome.next.inj (run.symm.trans hexec)
  have none_left : y.integers = [] := by
    rw [← hself]
    exact elemState_integers
  have kept : y.integers = [(0, true)] := congrArg Core.integers hy
  exact absurd (none_left.symm.trans kept) (by decide)

end Sys2Proof.Machine
end

section
/-! PROOFS. The vector instructions (R81 to R84, R111 to R113): lane operations as one write of lanes, and loads and stores through
core-local memory. -/

namespace Sys2Proof.Machine

variable {s t u v : State} {k : Fin 240} {op n q a p : Nat} {w : CoreWord} {x : Core} {data : List Byte}

/-! ## An instruction's end -/

theorem Core.marked {m : Nat} (h : v.Canonical) : (v.onCore k fun x => { x with queues := x.queues ||| m }).Canonical := by
  refine (State.onCore_kept (q := v.pending) ⟨rfl, h⟩ fun c hc => ?_).2
  exact Core.canonical_of hc rfl rfl rfl rfl rfl rfl

/-- An instruction that went through leaves its queue non-empty, and the core goes on. -/
theorem OnlyCore.went (h : OnlyCore k s v x) (hv : v.Canonical) : OnlyCore k s ((Ran.ok v).finish k q) (x.went q) :=
  (h.onCore_next hv (x := { x with queues := x.queues ||| 2 ^ q }) rfl).onCore_next (Core.marked hv) rfl

theorem OnlyCore.finish (h : v.Canonical) : OnlyCore k v ((Ran.ok v).finish k q) ((v.core (v.physical k)).went q) :=
  (OnlyCore.refl rfl).went h

theorem Issues.ran {i : Instr} {cls : Nat} {r : CoreWord → State → Ran} (h : Issues k cls op w s) (hr : Row cls op)
    (hi : exec i s = s.decode k cls op false fun w s => (r w s).finish k q) (hok : r w s = .ok v) (hv : v.Canonical)
    (hp : v.physical k = s.physical k) : ∃ t, exec i s = .next t ∧ OnlyCore k v t ((v.core (s.physical k)).went q) :=
  ⟨_, (h.runs (run := fun w s => (r w s).finish k q) hr hi).trans (by rw [hok]), hp ▸ OnlyCore.finish hv⟩

/-! ## Lanes (R81, R82) -/

theorem Core.lane_setLane {r i j d : Nat} {z : Word} (h : swf 0 x.vregs = true) (hi : i < 512) (hj : j < 512) :
    (x.setLane r i z).lane d j = if d = r ∧ j = i then z else x.lane d j := by
  unfold Core.lane Core.setLane
  rw [sget_sput h]
  by_cases e : d = r ∧ j = i
  · rw [if_pos e, if_pos (by rw [e.1, e.2])]
  · rw [if_neg e, if_neg (by omega)]

/-- Writes some lanes of one register. -/
def Core.setLanes (x : Core) (r : Nat) (l : List Nat) (f : Nat → Word) : Core := l.foldl (fun y i => y.setLane r i (f i)) x

theorem Core.setLanes_cons {r i : Nat} {l : List Nat} {f : Nat → Word} :
    x.setLanes r (i :: l) f = (x.setLane r i (f i)).setLanes r l f := rfl

theorem Core.setLanes_rest {r : Nat} {l : List Nat} {f : Nat → Word} :
    x.setLanes r l f = { x with vregs := (x.setLanes r l f).vregs } := by
  induction l generalizing x with
  | nil => rfl
  | cons i l ih => rw [Core.setLanes_cons, ih]; rfl

theorem Core.setLanes_vregs {r : Nat} {l : List Nat} {f : Nat → Word} (h : swf 0 x.vregs = true) :
    swf 0 (x.setLanes r l f).vregs = true := by
  induction l generalizing x with
  | nil => exact h
  | cons i l ih => exact ih (swf_sput h)

theorem Core.lane_setLanes {r d j : Nat} {l : List Nat} {f : Nat → Word} (h : swf 0 x.vregs = true) (hl : ∀ i ∈ l, i < 512)
    (hj : j < 512) : (x.setLanes r l f).lane d j = if d = r ∧ j ∈ l then f j else x.lane d j := by
  induction l generalizing x with
  | nil => simp [Core.setLanes]
  | cons i l ih =>
    rw [Core.setLanes_cons, ih (swf_sput h) fun i hi => hl i (List.mem_cons_of_mem _ hi),
      Core.lane_setLane h (hl i (List.mem_cons_self ..)) hj]
    by_cases hd : d = r
    · by_cases hm : j ∈ l
      · simp [hd, hm]
      · by_cases hji : j = i
        · simp [hd, hji]
        · simp [hd, hm, hji]
    · simp [hd]

/-- The lanes of slice `k`. -/
def sliceLanes (k : Nat) : List Nat := (List.range 32).map fun i => k * 32 + i

theorem mem_sliceLanes {j c : Nat} : j ∈ sliceLanes c ↔ j / 32 = c := by
  unfold sliceLanes
  simp only [List.mem_map, List.mem_range]
  constructor
  · rintro ⟨i, hi, rfl⟩
    omega
  · intro h
    exact ⟨j % 32, by omega, by omega⟩

theorem mem_wSlices {c : Nat} : c ∈ wSlices w ↔ c < 16 ∧ bit (wMask w) c = true := mem_bitsSet

theorem mem_masked {j : Nat} (hj : j < 512) : j ∈ (wSlices w).flatMap sliceLanes ↔ bit (wMask w) (j / 32) = true := by
  simp only [List.mem_flatMap, mem_sliceLanes, mem_wSlices]
  constructor
  · rintro ⟨c, ⟨-, h⟩, rfl⟩
    exact h
  · intro h
    exact ⟨_, ⟨by omega, h⟩, rfl⟩

theorem masked_lt {j : Nat} (h : j ∈ (wSlices w).flatMap sliceLanes) : j < 512 := by
  simp only [List.mem_flatMap, mem_sliceLanes, mem_wSlices] at h
  obtain ⟨c, ⟨hc, -⟩, rfl⟩ := h
  omega

theorem Core.mapLanes_eq {r : Nat} {f : Nat → Word} : x.mapLanes w r f = x.setLanes r ((wSlices w).flatMap sliceLanes) f := by
  unfold Core.mapLanes Core.setLanes sliceLanes
  rw [List.foldl_flatMap]
  simp only [List.foldl_map]

theorem Core.putSlice_eq {r c : Nat} :
    x.putSlice r c data = x.setLanes r (sliceLanes c) fun i => BitVec.ofNat 32 (le data (4 * (i - 32 * c)) 4) := by
  unfold Core.putSlice Core.setLanes sliceLanes
  rw [List.foldl_map]
  refine congrArg (fun g => List.foldl g x (List.range 32)) ?_
  funext y i
  dsimp only
  rw [show c * 32 + i - 32 * c = i by omega]

/-- An instruction that writes lanes of one register of the core in `v`. -/
theorem Lanes.of_set {r : Nat} {l : List Nat} {f : Nat → Word} (hv : v.Canonical) (hl : ∀ i ∈ l, i < 512)
    (hm : ∀ i, i < 512 → (i ∈ l ↔ bit (wMask w) (i / 32) = true)) :
    Lanes k w r f v ((Ran.ok (v.onCore k fun x => x.setLanes r l f)).finish k 1) := by
  obtain ⟨x, hx⟩ : ∃ x, v.core (v.physical k) = x := ⟨_, rfl⟩
  have regs : swf 0 x.vregs = true := hx ▸ (Kept.core (q := v.pending) ⟨rfl, hv⟩ _).vregs
  have set : OnlyCore k v (v.onCore k fun x => x.setLanes r l f) (x.setLanes r l f) := .onCore hv (by rw [hx])
  have canonical : (v.onCore k fun x => x.setLanes r l f).Canonical := by
    refine (State.onCore_kept (q := v.pending) ⟨rfl, hv⟩ fun c hc => ?_).2
    rw [Core.setLanes_rest]
    exact { hc with vregs := Core.setLanes_vregs hc.vregs }
  refine ⟨_, set.went canonical, ?_, fun i hi => ?_, fun d i hd hi => ?_⟩
  · rw [hx, Core.setLanes_rest]
    rfl
  · rw [hx]
    refine (Core.lane_setLanes (d := r) regs hl hi).trans ?_
    simp only [true_and, hm i hi]
  · rw [hx]
    refine (Core.lane_setLanes (d := d) regs hl hi).trans (if_neg fun h => hd h.1)

theorem row_vector (h : op ≤ 9) : Row 2 op := .inr (.inr (.inl ⟨rfl, h⟩))

/-- A lane operation of registers within the usable ones. -/
theorem laneRun_ok {formats : Nat} {regs : List Nat} {dst : Nat} {f : Core → Nat → Word} (hf : wFormats w < formats)
    (hr : ∀ r ∈ regs, r < (s.core (s.physical k)).usableRegs) :
    laneRun k w formats regs dst f s =
      .ok (s.onCore k fun x => x.setLanes dst ((wSlices w).flatMap sliceLanes) (f x)) := by
  unfold laneRun
  dsimp only
  rw [if_neg (by omega), if_neg]
  · simp only [Core.mapLanes_eq]
  · intro h
    obtain ⟨r, hm, hle⟩ := List.any_eq_true.mp h
    have := hr r hm
    have := of_decide_eq_true hle
    omega

theorem State.onCore_congr {f g : Core → Core} (h : f (s.core (s.physical k)) = g (s.core (s.physical k))) :
    s.onCore k f = s.onCore k g := by
  unfold State.onCore State.modCore
  rw [h]

theorem Issues.lanes {i : Instr} {run : CoreWord → State → Ran} {formats : Nat} {regs : List Nat} {dst : Nat} {f : Core → Nat → Word}
    (h : Issues k 2 op w s) (ho : op ≤ 9) (hi : exec i s = s.decode k 2 op false fun w s => (run w s).finish k 1)
    (hrun : run w s = laneRun k w formats regs dst f s) (hx : s.core (s.physical k) = x) (hf : wFormats w < formats)
    (hr : ∀ r ∈ regs, r < x.usableRegs) : ∃ t, exec i s = .next t ∧ Lanes k w dst (f x) s t := by
  have same : run w s = .ok (s.onCore k fun y => y.setLanes dst ((wSlices w).flatMap sliceLanes) (f x)) := by
    rw [hrun, laneRun_ok hf (by rw [hx]; exact hr)]
    exact congrArg Ran.ok (State.onCore_congr (by rw [hx]))
  refine ⟨_, h.runs (run := fun w s => (run w s).finish k 1) (row_vector ho) hi, ?_⟩
  rw [same]
  exact .of_set h.canonical (fun _ => masked_lt) fun _ => mem_masked

/-- VADD, VMUL, VMAX and VMIN. -/
theorem Issues.binary {i : Instr} {f : Word → Word → Word} (h : Issues k 2 op w s) (ho : op ≤ 9)
    (hi : exec i s = s.decode k 2 op false fun w s => (binaryRun f k w s).finish k 1) (hx : s.core (s.physical k) = x)
    (hf : wFormats w = 0) (hA : rA w < x.usableRegs) (hB : rB w < x.usableRegs) (hC : rC w < x.usableRegs) :
    ∃ t, exec i s = .next t ∧ Lanes k w (rC w) (fun i => f (x.lane (rA w) i) (x.lane (rB w) i)) s t :=
  h.lanes (run := fun w s => binaryRun f k w s) (formats := 1) (regs := [rA w, rB w, rC w]) (dst := rC w)
    (f := fun x i => f (x.lane (rA w) i) (x.lane (rB w) i)) ho hi rfl hx (by omega) (by simp [hA, hB, hC])

/-- What VRED writes, if any lane takes part (R83). -/
def Core.reduced (x : Core) (w : CoreWord) : Option Word :=
  reduceTree (if wFormats w = 0 then fadd else fmaxNum) 9 ((List.range 512).map fun i =>
    if bit (wMask w) (i / 32) then some (x.lane (rA w) i) else none)

/-- VRED of registers within the usable ones. -/
theorem vredRun_ok {z : Option Word} (hx : s.core (s.physical k) = x) (hf : wFormats w ≤ 1) (hA : rA w < x.usableRegs)
    (hC : rC w < x.usableRegs) (hz : x.reduced w = z) :
    vredRun k w s = .ok (z.elim s fun z => s.onCore k fun x => x.setLane (rC w) 0 z) := by
  unfold vredRun
  extract_lets y o lanes
  have all : reduceTree o 9 lanes = z := by
    rw [← hz, ← hx]
    rfl
  obtain rfl : y = x := hx
  rw [if_neg (Nat.not_lt.mpr hf), if_neg (not_or.mpr ⟨Nat.not_le.mpr hA, Nat.not_le.mpr hC⟩), all]
  cases z with
  | none => rfl
  | some z => rfl

/-! ## Core-local memory (R65, R91) -/

theorem State.race_dev {own c a : Nat} : (s.race own c a data).1.dev = s.dev := by
  unfold State.race
  dsimp only
  refine List.foldlRecOn (motive := fun r : State × List Byte => r.1.dev = s.dev) _ _ rfl fun r hr line _ => ?_
  split
  · exact hr
  · split
    · exact hr
    · exact hr

theorem Accessed.physical (h : Accessed s v) : v.physical = s.physical := by
  obtain ⟨m, rfl, -⟩ := h
  rfl

theorem State.race_physical {own c a : Nat} : (s.race own c a data).1.physical = s.physical := by
  unfold State.physical
  rw [State.race_dev]

theorem State.fetchLocal_physical {own c a : Nat} (h : s.fetchLocal own c a n = .ok v data) : v.physical = s.physical := by
  have read : Accessed s (s.readLocal (s.physical own) a n (s.core (s.physical own)).context).1 := Reaches.refl.readLocal
  unfold State.fetchLocal at h
  split at h
  · cases h
  · split at h
    · cases h
    · cases h
    next s' d hr =>
      rw [hr] at read
      by_cases hp : localPlace a = .store
      · rw [if_pos hp] at h
        cases h
        exact State.race_physical.trans read.physical
      · rw [if_neg hp] at h
        cases h
        exact read.physical

theorem State.openLines_accessed {own c a : Nat} : Touched s (s.openLines own c a n) := by
  unfold State.openLines
  split
  · exact .refl
  · refine Reaches.refl.foldl fun t line h => ?_
    dsimp only
    split
    · exact h
    · exact h.modCore

/-- A program's write that nothing stands against. -/
theorem State.storeLocal_ok {own c a : Nat} (h : s.storeLocal own c a data = .ok v) :
    v = (s.openLines own c a data.length).writeLocal (s.physical own) a data := by
  unfold State.storeLocal at h
  split at h
  · cases h
  · dsimp only at h
    split at h
    · cases h
    · cases h
      rfl

theorem State.storeLocal_physical {own c a : Nat} (h : s.storeLocal own c a data = .ok v) : v.physical = s.physical := by
  rw [State.storeLocal_ok h]
  have opened : Accessed s (s.openLines own c a data.length) := State.openLines_accessed.accessed
  exact Accessed.physical (Reaches.writeLocal opened)

theorem State.writeLocal_mem : (s.writeLocal p a data).mem = memWrite s.mem (localKey p a) data := by
  have later {f : State → Nat → State} {l : List Nat} (hf : ∀ t x, Touched (s.writeKey (localKey p a) data) t →
      Touched (s.writeKey (localKey p a) data) (f t x)) :
      (l.foldl f (s.writeKey (localKey p a) data)).mem = memWrite s.mem (localKey p a) data :=
    (Reaches.refl.foldl hf).mem_eq
  unfold State.writeLocal
  dsimp only
  split
  · exact later fun _ _ h => h.clearDamage
  · exact later fun _ _ h => (h.sliceCorrected.ite h).ite h.clearDamage

/-! ## VLD and VST (R97) -/

theorem State.loadParts_physical {own : Nat} {l : List (Nat × Nat × Nat)} (h : s.loadParts own l = .ok v) :
    v.physical = s.physical := by
  induction l generalizing s v with
  | nil =>
    cases h
    rfl
  | cons e l ih =>
    obtain ⟨r, c, a⟩ := e
    rw [State.loadParts] at h
    split at h
    · cases h
    next s' data hgot =>
      split at h
      · cases h
      next s'' hrest =>
        cases h
        exact (ih hrest).trans (State.fetchLocal_physical hgot)

theorem State.storeParts_physical {own : Nat} {l : List (Nat × Nat × Nat)} (h : s.storeParts own l = .ok v) :
    v.physical = s.physical := by
  induction l generalizing s with
  | nil =>
    cases h
    rfl
  | cons e l ih =>
    obtain ⟨r, c, a⟩ := e
    rw [State.storeParts] at h
    split at h
    · cases h
    next s' hstored => exact (ih h).trans (State.storeLocal_physical hstored)

theorem vldRun_ok (hf : wFormats w = 0) (hl : tooMany (s.core (s.physical k)) w = false) :
    vldRun k w s = s.loadParts k (vectorParts (s.core (s.physical k)) w) := by
  unfold vldRun
  dsimp only
  rw [if_neg (by rw [hf]; decide), if_neg (by rw [hl]; decide)]

theorem vstRun_ok (hf : wFormats w = 0) (hl : tooMany (s.core (s.physical k)) w = false)
    (hm : s.storeMiss k (vectorParts (s.core (s.physical k)) w) = none) :
    vstRun k w s = s.storeParts k (vectorParts (s.core (s.physical k)) w) := by
  unfold vstRun
  dsimp only
  rw [if_neg (by rw [hf]; decide), if_neg (by rw [hl]; decide), hm]

theorem wSlices_single {j : Nat} (hj : j < 16) (hm : wMask w = 2 ^ j) : wSlices w = [j] := by
  unfold wSlices
  rw [hm]
  interval_cases j <;> decide

/-- One logical vector and one slice. -/
theorem vectorParts_single {j : Nat} (hc : wCount w = 1) (hj : j < 16) (hm : wMask w = 2 ^ j) :
    vectorParts x w = [(rB w, j, wA w * 64 + sliceAt x.groups 0 j)] := by
  unfold vectorParts
  rw [hc, wSlices_single hj hm]
  rfl

theorem Core.sliceBytes_length {r c : Nat} : (x.sliceBytes r c).length = 128 := by
  unfold Core.sliceBytes
  simp [leBytes]

theorem State.storeLocal_allowed {own c : Nat} (h1 : s.localMiss own a data.length = none)
    (h2 : s.localPartlyLost (s.physical own) a data.length = none) :
    s.storeLocal own c a data = .ok ((s.openLines own c a data.length).writeLocal (s.physical own) a data) := by
  unfold State.storeLocal
  dsimp only
  rw [h1, h2]

theorem storeMiss_single {own r c : Nat} (h : s.storeMiss own [(r, c, a)] = none) :
    s.localMiss own a 128 = none ∧ s.localPartlyLost (s.physical own) a 128 = none := by
  unfold State.storeMiss at h
  simpa using h

/-- Settles O51. -/
theorem vectorInstructionsComplete : Obligations.VectorInstructionsComplete := by
  unfold Obligations.VectorInstructionsComplete
  refine ⟨fun k w s x hi hx hf hA hB hC => ?_, fun i op n k w s x hrow hi hx hf hA hB hC => ?_,
    fun i op n formats k w s x hrow hi hx hf hA hC => ?_, fun k w s x z hi hx hf hA hC hz => ?_,
    fun k w s v j data hi hf hcount hm hj hl hd => ?_, fun k w s v hi hf hl hv => ?_, fun k w s v hi hf hl hms hv => ?_,
    fun k w s j x hi hx hf hcount hm hj hl hms => ?_⟩
  · exact hi.lanes (run := fun w s => vfmaRun k w s) (formats := 1) (regs := [rA w, rB w, rC w]) (dst := rB w)
      (f := fun x i => ffma (x.lane (rA w) i) (x.lane (rB w) i) (x.lane (rC w) i)) (by decide) rfl rfl hx (by omega)
      (by simp [hA, hB, hC])
  · rcases hrow with ⟨rfl, rfl, rfl⟩ | ⟨rfl, rfl, rfl⟩ | ⟨rfl, rfl, rfl⟩ | ⟨rfl, rfl, rfl⟩
    · exact hi.binary (by decide) rfl hx hf hA hB hC
    · exact hi.binary (by decide) rfl hx hf hA hB hC
    · exact hi.binary (by decide) rfl hx hf hA hB hC
    · exact hi.binary (by decide) rfl hx hf hA hB hC
  · rcases hrow with ⟨rfl, rfl, rfl, rfl⟩ | ⟨rfl, rfl, rfl, rfl⟩
    · exact hi.lanes (run := fun w s => laneRun k w 5 [rA w, rC w] (rC w) (fun x i => special (wFormats w) (x.lane (rA w) i)) s)
        (by decide) rfl rfl hx hf (by simp [hA, hC])
    · exact hi.lanes (run := fun w s => laneRun k w 12 [rA w, rC w] (rC w) (fun x i => convert (wFormats w) (x.lane (rA w) i)) s)
        (by decide) rfl rfl hx hf (by simp [hA, hC])
  · have regs : swf 0 x.vregs = true := hx ▸ (Kept.core (q := s.pending) ⟨rfl, hi.canonical⟩ _).vregs
    have run := hi.runs (i := .vred k) (run := fun w s => (vredRun k w s).finish k 1) (row_vector (by decide)) rfl
    rw [vredRun_ok hx hf hA hC hz] at run
    cases z with
    | none => exact ⟨_, _, run, (OnlyCore.refl hx).went hi.canonical, rfl, rfl, fun _ _ _ _ => rfl⟩
    | some z =>
      have set : OnlyCore k s (s.onCore k fun x => x.setLane (rC w) 0 z) (x.setLane (rC w) 0 z) := .onCore hi.canonical (by rw [hx])
      have canonical : (s.onCore k fun x => x.setLane (rC w) 0 z).Canonical := by
        refine (State.onCore_kept (q := s.pending) ⟨rfl, hi.canonical⟩ fun c hc => ?_).2
        exact { hc with vregs := swf_sput hc.vregs }
      refine ⟨_, _, run, set.went canonical, rfl, ?_, fun r i h hne => ?_⟩
      · exact (Core.lane_setLane (d := rC w) regs (by decide) (by decide)).trans (if_pos ⟨rfl, rfl⟩)
      · exact (Core.lane_setLane (d := r) regs (by decide) h).trans (if_neg (by omega))
  · have got : vldRun k w s = .ok (v.onCore k fun x => x.setLanes (rB w) (sliceLanes j) fun i =>
        BitVec.ofNat 32 (le data (4 * (i - 32 * j)) 4)) := by
      rw [vldRun_ok hf hl, vectorParts_single hcount hj hm]
      simp only [State.loadParts, hd, Core.putSlice_eq]
    have canonical : v.Canonical := (GotKept.of_ok (State.fetchLocal_kept (q := s.pending) ⟨rfl, hi.canonical⟩) hd).2
    refine ⟨_, hi.runs (run := fun w s => (vldRun k w s).finish k 1) (row_vector (by decide)) rfl, ?_⟩
    rw [got]
    refine .of_set canonical (fun i h => ?_) fun i h => ?_
    · have := mem_sliceLanes.mp h
      omega
    · rw [mem_sliceLanes, hm]
      unfold bit
      rw [Nat.testBit_two_pow]
      exact ⟨fun e => decide_eq_true e.symm, fun e => (of_decide_eq_true e).symm⟩
  · have canonical : v.Canonical := (RanKept.of_ok (State.loadParts_kept (q := s.pending) ⟨rfl, hi.canonical⟩) hv).2
    exact hi.ran (row_vector (by decide)) rfl ((vldRun_ok hf hl).trans hv) canonical (by rw [State.loadParts_physical hv])
  · have canonical : v.Canonical := (RanKept.of_ok (State.storeParts_kept (q := s.pending) ⟨rfl, hi.canonical⟩) hv).2
    exact hi.ran (row_vector (by decide)) rfl ((vstRun_ok hf hl hms).trans hv) canonical (by rw [State.storeParts_physical hv])
  · subst hx
    have miss := hms
    rw [vectorParts_single hcount hj hm] at miss
    obtain ⟨h1, h2⟩ := storeMiss_single miss
    obtain ⟨d, hd⟩ : ∃ d, d = (s.core (s.physical k)).sliceBytes (rB w) j := ⟨_, rfl⟩
    have length : d.length = 128 := hd ▸ Core.sliceBytes_length
    have stored := State.storeLocal_allowed (c := 1) (length.symm ▸ h1) (length.symm ▸ h2)
    refine ⟨_, hi.runs (run := fun w s => (vstRun k w s).finish k 1) (row_vector (by decide)) rfl, ?_⟩
    rw [vstRun_ok hf hl hms, vectorParts_single hcount hj hm]
    simp only [State.storeParts, ← hd, stored]
    intro i
    have opened : (s.openLines k 1 (wA w * 64 + sliceAt (s.core (s.physical k)).groups 0 j) d.length).mem = s.mem :=
      State.openLines_accessed.mem_eq
    change memGet (State.writeLocal _ _ _ _).mem i = _
    have same : ((List.range 32).flatMap fun i => leBytes 4 ((s.core (s.physical k)).lane (rB w) (32 * j + i)).toNat) = d := by
      rw [hd, Core.sliceBytes]
      simp only [Nat.mul_comm j 32]
    rw [State.writeLocal_mem, opened, memGet_write hi.canonical.mem, same]
    rfl

end Sys2Proof.Machine
end

section
/-! PROOFS. What the memories do by themselves (R132, R135, R169, R172, R204), the I²C targets (R478 to R480), and what an error's
records leave of the damage and of the cores. -/

namespace Sys2Proof.Machine

variable {s t u : State} {a b k n p d g : Nat}

/-! ## Records, beside damage and cores -/

theorem State.writeLog_damage {e : LogEntry} : (s.writeLog e).damage = s.damage := by
  unfold State.writeLog
  rfl

theorem State.writeLog_cores {e : LogEntry} : (s.writeLog e).cores = s.cores := by
  unfold State.writeLog
  rfl

/-- Neither damage nor a core is changed, nor any byte. -/
structure Aside (s t : State) : Prop where
  touched : Touched s t
  damage : t.damage = s.damage
  cores : t.cores = s.cores

namespace Aside

theorem refl : Aside s s := ⟨.refl, rfl, rfl⟩

variable (h : Aside s t)
include h

theorem trans (h' : Aside t u) : Aside s u :=
  ⟨h.touched.trans h'.touched, h'.damage.trans h.damage, h'.cores.trans h.cores⟩

theorem damageAt : t.damageAt k = s.damageAt k := by
  unfold State.damageAt
  rw [h.damage]

theorem core : t.core p = s.core p := by
  unfold State.core
  rw [h.cores]

theorem writeLog {e : LogEntry} : Aside s (t.writeLog e) := 
  ⟨h.touched.writeLog, State.writeLog_damage.trans h.damage, State.writeLog_cores.trans h.cores⟩

theorem plantedHit {m : DamageMark} : Aside s (t.plantedHit k m) := by
  unfold State.plantedHit
  split
  · exact h
  · split
    · exact h
    · dsimp only
      split
      · exact (⟨h.touched.modInjection, h.damage, h.cores⟩ : Aside s _).writeLog
      · exact ⟨h.touched.modInjection, h.damage, h.cores⟩

theorem setPage {x : Page} : Aside s (t.setPage g x) := ⟨h.touched.setPage, h.damage, h.cores⟩

theorem setTroubleBit_stack {c : Nat} {sc : Nat × Nat} : Aside s (t.setTroubleBit (.stack k) b sc c) :=
  ⟨h.touched.setTroubleBit rfl, State.writeLog_damage.trans h.damage, State.writeLog_cores.trans h.cores⟩

theorem writeList {l : List Defect} : Aside s (t.writeList l) := ⟨h.touched.writeList, h.damage, h.cores⟩

theorem markSegRetired : Aside s (t.markSegRetired g) := ⟨h.touched.markSegRetired, h.damage, h.cores⟩

theorem addDefect {x : Defect} : Aside s (t.addDefect x) := by
  refine ⟨h.touched.addDefect, ?_, ?_⟩
  · refine Eq.trans ?_ h.damage
    unfold State.addDefect
    dsimp only
    repeat' split
    all_goals rfl
  · refine Eq.trans ?_ h.cores
    unfold State.addDefect
    dsimp only
    repeat' split
    all_goals rfl

theorem rowError {x : Defect} {c c' : Bool} : Aside s (t.rowError k c c' x) := by
  unfold State.rowError
  dsimp only
  have counted (m : Sparse Nat) : Aside s { t with rowErrors := m } := ⟨h.touched.rowErrors, h.damage, h.cores⟩
  split
  · exact h
  · split
    · exact (counted _).addDefect
    · exact counted _

theorem retireSegment : Aside s (t.retireSegment g n) := by
  unfold State.retireSegment
  split
  · exact h
  · exact h.markSegRetired.addDefect

theorem retirePage : Aside s (t.retirePage g n) := by
  unfold State.retirePage
  dsimp only
  split
  · exact h.setPage.addDefect.retireSegment
  · exact h.setPage.addDefect

theorem retirePending : Aside s (t.retirePending g n) := by
  unfold State.retirePending
  dsimp only
  split
  · exact h
  · split
    · exact h.setPage.setTroubleBit_stack
    · exact h.setPage.setTroubleBit_stack.retirePage

theorem modStack {f : Stack → Stack} (hf : ∀ x, (f x).pcs = x.pcs := by exact fun _ => rfl) : Aside s (t.modStack k f) :=
  ⟨h.touched.modStack hf, h.damage, h.cores⟩

theorem capture : Aside s (t.capture k a b n) := by
  unfold State.capture
  exact h.modStack

theorem stackCorrected {m : DamageMark} : Aside s (t.stackCorrected a n m) := by
  unfold State.stackCorrected
  extract_lets x v w c y z
  have counted : Aside s v := h.plantedHit.modStack
  have noted : Aside s w := by
    unfold w
    split
    · exact counted.setTroubleBit_stack
    · exact counted
  split
  · exact noted.capture
  · split
    · exact noted.capture.setPage.retirePending
    · exact noted.capture.setPage

end Aside

/-! ## A corrected granule of a slice (R129) -/

/-- The core's count, and the damage that goes. -/
structure Scrubbed (s : State) (p k : Nat) (t : State) : Prop where
  touched : Touched s t
  damage : t.damage = sdel s.damage k
  count : s.Canonical → (t.core p).correctedCount = saturate16 ((s.core p).correctedCount + 1)

theorem State.sliceCorrected_scrubs : Scrubbed s p (localKey p a) (s.sliceCorrected p a) := by
  unfold State.sliceCorrected
  extract_lets m v w
  have hit : Aside s (s.plantedHit (localKey p a) m) := Aside.refl.plantedHit
  have counted : Scrubbed s p (localKey p a) v := by
    refine ⟨(hit.touched.clearDamage).modCore, congrArg (sdel · (localKey p a)) hit.damage, fun hs => ?_⟩
    refine (congrArg Core.correctedCount (State.core_modCore_self (s := (s.plantedHit (localKey p a) m).clearDamage (localKey p a)) ?_)).trans ?_
    · exact hit.cores.symm ▸ hs.cores.1
    · exact congrArg (fun x : Core => saturate16 (x.correctedCount + 1)) hit.core
  have told : Scrubbed s p (localKey p a) w := by
    unfold w
    split
    · refine ⟨counted.touched.setTroubleBit rfl, State.writeLog_damage.trans counted.damage, fun hs => ?_⟩
      have canonical : swf {} v.cores = true := swf_sput (hit.cores.symm ▸ hs.cores.1)
      rw [State.setTroubleBit_core, State.core_modCore_self canonical]
      exact counted.count hs
    · exact counted
  have recorded : Aside w (w.rowError (sliceRowKey p a) false m.planted (sliceDefect p a)) := Aside.refl.rowError
  exact ⟨told.touched.trans recorded.touched, recorded.damage.trans told.damage, fun hs => by rw [recorded.core]; exact told.count hs⟩

/-! ## The four granules of a line (R132) -/

/-- The addresses of the granules of a line of a core's slice. -/
def lineGranules (line : Nat) : List Nat := unitsOf 16 (0x10000000 + line * 64) 64

theorem lineGranules_eq {line : Nat} :
    lineGranules line = [0x10000000 + line * 64, 0x10000000 + line * 64 + 16, 0x10000000 + line * 64 + 32, 0x10000000 + line * 64 + 48] := by
  unfold lineGranules unitsOf
  rw [if_neg (by decide), show (0x10000000 + line * 64 + 64 - 1) / 16 - (0x10000000 + line * 64) / 16 + 1 = 4 by omega,
    show List.range 4 = [0, 1, 2, 3] from rfl]
  simp only [List.map_cons, List.map_nil, List.cons.injEq, and_true]
  omega

theorem lineGranules_nodup {line : Nat} : (lineGranules line).Nodup := by
  rw [lineGranules_eq]
  simp

/-- A fold in which one element acts, and the others do nothing before or after it. -/
theorem foldl_one {α β : Type} {f : β → α → β} {l : List α} {x : α} {s : β} (hl : l.Nodup) (hx : x ∈ l)
    (before : ∀ y ∈ l, y ≠ x → f s y = s) (after : ∀ y ∈ l, y ≠ x → f (f s x) y = f s x) : l.foldl f s = f s x := by
  have rests (t : β) (l : List α) (h : ∀ y ∈ l, f t y = t) : l.foldl f t = t := by
    induction l with
    | nil => rfl
    | cons y l ih => rw [List.foldl_cons, h y (List.mem_cons_self ..), ih fun z hz => h z (List.mem_cons_of_mem _ hz)]
  obtain ⟨l1, l2, rfl⟩ := List.append_of_mem hx
  have apart := List.nodup_append.mp hl
  obtain ⟨-, hn2, hne⟩ := apart
  rw [List.foldl_append, List.foldl_cons, rests s l1, rests (f s x) l2]
  · intro y hy
    refine after y (by simp [hy]) ?_
    rintro rfl
    exact (List.nodup_cons.mp hn2).1 hy
  · intro y hy
    exact before y (by simp [hy]) (hne y hy x (List.mem_cons_self ..))

/-- What patrol scrub does to a granule. -/
def State.scrubGranule (q : Fin 256) (s : State) (g : Nat) : State :=
  let m := s.damageAt (localKey q g)
  if m.kind = .correctable then s.sliceCorrected q g
  else if m.lost then (s.plantedHit (localKey q g) m).setTroubleBit (.core q) 2
  else s

theorem scrubGranule_sound {q : Fin 256} (h : (s.damageAt (localKey q g)).kind = .none) : State.scrubGranule q s g = s := by
  unfold State.scrubGranule DamageMark.lost
  simp [h]

theorem slicePatrolScrub_eq {q : Fin 256} {line : Nat} (h1 : (s.core q).state ≠ .running) (h2 : (s.core q).state ≠ .trapped)
    (hon : s.isOn (q / 4) = true) (hl : line < 786432) : exec (.slicePatrolScrub q line) s =
    .next ((lineGranules line).foldl (State.scrubGranule q) s) :=
  event_true (by simp [h1, h2, hon, hl])

/-! ## Patrol scrub of a stack (R169) -/

theorem filter_eraseDups {l : List Nat} {f : Nat → Bool} : l.eraseDups.filter f = (l.filter f).eraseDups := by
  induction hn : l.length using Nat.strong_induction_on generalizing l with
  | _ n ih =>
    match l with
    | [] => rfl
    | x :: l =>
      have shorter : (l.filter fun y => !y == x).length < n := hn ▸ Nat.lt_succ_of_le (List.length_filter_le _ _)
      have commute : (l.filter fun y => !y == x).filter f = (l.filter f).filter fun y => !y == x := by
        rw [List.filter_filter, List.filter_filter]
        exact List.filter_congr fun y _ => Bool.and_comm ..
      rw [List.eraseDups_cons]
      by_cases hx : f x = true
      · rw [List.filter_cons_of_pos hx, List.filter_cons_of_pos hx, List.eraseDups_cons, ih _ shorter rfl, commute]
      · rw [List.filter_cons_of_neg hx, List.filter_cons_of_neg hx, ih _ shorter rfl, commute]
        congr 1
        refine List.filter_eq_self.mpr fun y hy => ?_
        have : y ≠ x := fun e => hx (e ▸ (List.mem_filter.mp hy).2)
        simpa using this

/-- What patrol scrub does to a block. -/
def State.scrubBlock (s : State) (a : Nat) : State :=
  let planted := (s.damageAt a).planted
  match s.readBlock a 3 with
  | (s, true) => s.journalBlockLost a
  | (s, false) =>
    let s := if planted then s.journalBlockLost a else s
    if (s.damageAt a).kind = .correctable then s.clearDamage a else s

theorem State.journalBlockLost_outside (h : s.journal.segments.contains (segmentOf b) = false) : s.journalBlockLost b = s := by
  unfold State.journalBlockLost
  rw [if_pos (.inl (by rw [h]; rfl))]

theorem scrubBlock_eq {m : DamageMark} (hca : (s.stack (stackOf a)).caErrors = []) (hst : (s.stack (stackOf a)).strays = [])
    (hm : s.damageAt a = m) (hcode : s.segCode (segmentOf a) ≠ 0) (hseg : s.journal.segments.contains (segmentOf a) = false) :
    s.scrubBlock a = if m.lost then s.stackUncorrectable a 3 m
      else if m.kind = .correctable then (s.stackCorrected a 3 m).clearDamage a else s := by
  have outside {v : State} (h : Touched s v) : v.journalBlockLost a = v := by
    obtain ⟨x, rfl, -⟩ := h
    exact State.journalBlockLost_outside hseg
  have read : s.readBlock a 3 = if m.lost then (s.stackUncorrectable a 3 m, true)
      else if m.kind = .correctable then (s.stackCorrected a 3 m, false) else (s, false) := by
    have clear : s.interface a 3 = (s, false) := by
      unfold State.interface
      rw [if_pos rfl]
      dsimp only
      rw [hca]
      rfl
    have straight : s.strayAt a = none := by
      unfold State.strayAt
      rw [hst]
      rfl
    unfold State.readBlock
    rw [clear]
    dsimp only
    rw [straight, hm]
    simp [hcode]
  unfold State.scrubBlock
  dsimp only
  rw [read]
  by_cases hl : m.lost = true
  · rw [if_pos hl, if_pos hl]
    exact outside Reaches.refl.stackUncorrectable
  · rw [if_neg hl, if_neg hl]
    by_cases hk : m.kind = .correctable
    · have aside : Aside s (s.stackCorrected a 3 m) := Aside.refl.stackCorrected
      rw [if_pos hk, if_pos hk]
      dsimp only
      rw [outside aside.touched, ite_self, aside.damageAt, hm, if_pos hk]
    · rw [if_neg hk, if_neg hk]
      dsimp only
      rw [outside .refl, ite_self, hm, if_neg hk]

theorem stackPatrolScrub_single {q : Fin 8} {row : Nat} {m : DamageMark} (hon : s.isOn (68 + q) = true)
    (htr : (s.stack q).trained = true) (hsr : (s.stack q).selfRefresh = false)
    (hf : (s.damage.filter fun e => isExternal e.1 && stackOf e.1 == q.val && bankOf e.1 == row % 64 && rowOf e.1 == row / 64 &&
      s.scrubs q e.1) = [(a, m)]) (hca : (s.stack q).caErrors = []) (hst : (s.stack q).strays = []) (hm : s.damageAt a = m)
    (hseg : s.journal.segments.contains (segmentOf a) = false) :
    exec (.stackPatrolScrub q row) s = .next (if m.lost then s.stackUncorrectable a 3 m
      else if m.kind = .correctable then (s.stackCorrected a 3 m).clearDamage a else s) := by
  have found : (a, m) ∈ s.damage.filter _ := hf ▸ List.mem_singleton.mpr rfl
  have named := (List.mem_filter.mp found).2
  simp only [Bool.and_eq_true, beq_iff_eq] at named
  obtain ⟨⟨⟨⟨-, here⟩, -⟩, -⟩, scrubs⟩ := named
  have code : s.segCode (segmentOf a) ≠ 0 := by
    unfold State.scrubs at scrubs
    simp only [Bool.and_eq_true, bne_iff_ne] at scrubs
    exact scrubs.1.1
  have blocks : ((s.damage.map (·.1) ++ (s.stack q).caErrors.map (·.1) ++ (s.stack q).strays.map (·.1)).eraseDups.filter fun b =>
      isExternal b && stackOf b == q.val && bankOf b == row % 64 && rowOf b == row / 64 && s.scrubs q b) = [a] := by
    rw [hca, hst, List.map_nil, List.append_nil, List.append_nil, filter_eraseDups, List.filter_map]
    refine (congrArg (fun l => (List.map Prod.fst l).eraseDups) hf).trans rfl
  change event _ s (List.foldl State.scrubBlock s _) = _
  rw [event_true (by rw [hon, htr, hsr]; rfl), blocks, List.foldl_cons, List.foldl_nil,
    scrubBlock_eq (here ▸ hca) (here ▸ hst) hm code hseg]

/-! ## The I²C targets (R478) -/

theorem targetReads_iff {x : I2cAccess} : targetReads x a = decide (x.aux = true ∧ x.address = a ∧ x.write = false) := by
  unfold targetReads
  rw [Bool.eq_iff_iff]
  simp [and_assoc]

theorem State.tableBytes_length {l : List Byte} : (s.tableBytes l a n).length = n := by simp [State.tableBytes]

theorem State.tableBytes_get {l : List Byte} {i : Nat} (hi : i < n) (hl : a + i < l.length) :
    (s.tableBytes l a n)[i]? = l[a + i]? := by
  simp [State.tableBytes, hi, hl]

/-- A pseudo-channel when a refresh of bank `b` is due: a chunk that uses the bank postpones it (R204). -/
def PseudoChannel.refreshed (b : Nat) (x : PseudoChannel) : PseudoChannel :=
  if x.chunkBanks.contains b && !x.postponed.contains b then { x with postponed := x.postponed ++ [b] } else x

/-- Settles O55. -/
theorem memoriesKeepThemselves : Obligations.MemoriesKeepThemselves := by
  unfold Obligations.MemoriesKeepThemselves
  refine ⟨fun p line s hnone => ?_, fun p line g s hs h1 h2 hon hl hg hc hlost hother => ?_,
    fun p line g s hs h1 h2 hon hl hg hc hother => ?_, fun k row a m s hon htr hsr hf hca hst hm hseg => ?_, fun d l b s => rfl,
    fun k b s hs htr hsr hdue => ?_, fun x n s => ?_, fun x n s => ?_, fun s h => event_true h⟩
  · have still : (lineGranules line).foldl (State.scrubGranule p) s = s := by
      have stays (l : List Nat) (h : ∀ g ∈ l, (s.damageAt (localKey p g)).kind = .none) : l.foldl (State.scrubGranule p) s = s := by
        induction l with
        | nil => rfl
        | cons g l ih =>
          rw [List.foldl_cons, scrubGranule_sound (h g (List.mem_cons_self ..)), ih fun x hx => h x (List.mem_cons_of_mem _ hx)]
      exact stays _ hnone
    change event _ s ((lineGranules line).foldl (State.scrubGranule p) s) = _
    rw [still]
    unfold event
    rw [ite_self]
  · obtain ⟨u, hu⟩ : ∃ u, u = s.plantedHit (localKey p g) (s.damageAt (localKey p g)) := ⟨_, rfl⟩
    have hit : Aside s u := hu ▸ Aside.refl.plantedHit
    have acts : State.scrubGranule p s g = u.setTroubleBit (.core p) 2 := by
      unfold State.scrubGranule
      dsimp only
      rw [if_neg hc, if_pos hlost, hu]
    have damage : (u.setTroubleBit (.core p) 2).damage = s.damage := State.writeLog_damage.trans hit.damage
    refine ⟨u.setTroubleBit (.core p) 2, ?_, ?_, ?_, fun q hq => ?_⟩
    · rw [slicePatrolScrub_eq h1 h2 hon hl, foldl_one lineGranules_nodup hg (fun y hy hne => scrubGranule_sound (hother y hy hne))
        fun y hy hne => ?_, acts]
      refine scrubGranule_sound ?_
      unfold State.damageAt
      rw [acts, damage]
      exact hother y hy hne
    · rw [State.setTroubleBit_core, State.core_modCore_self (hit.cores.symm ▸ hs.cores.1)]
      change (u.core p).trouble ||| 4#32 = _
      rw [hit.core]
    · exact (hit.touched.setTroubleBit rfl).mem_eq
    · rw [State.setTroubleBit_core, State.core_modCore_other (hit.cores.symm ▸ hs.cores.1) hq, hit.core]
  · have acts : State.scrubGranule p s g = s.sliceCorrected p g := by
      unfold State.scrubGranule
      dsimp only
      rw [if_pos hc]
    have scrubs : Scrubbed s p (localKey p g) (s.sliceCorrected p g) := State.sliceCorrected_scrubs
    have damageAt (j : Nat) : (s.sliceCorrected p g).damageAt j = if j = localKey p g then {} else s.damageAt j := by
      unfold State.damageAt
      rw [scrubs.damage, sget_sdel (swf_iff.mp hs.damage).1]
    refine ⟨?_, ?_, scrubs.touched.mem_eq, scrubs.count hs⟩
    · rw [slicePatrolScrub_eq h1 h2 hon hl, foldl_one lineGranules_nodup hg (fun y hy hne => scrubGranule_sound (hother y hy hne))
        fun y hy hne => ?_, acts]
      refine scrubGranule_sound ?_
      rw [acts, damageAt]
      split
      · rfl
      · exact hother y hy hne
    · rw [damageAt, if_pos rfl]
  · exact stackPatrolScrub_single hon htr hsr hf hca hst hm hseg
  · have changed : exec (.stackRefresh k b) s = .next (s.modStack k fun t => { t with pcs := smap {} (fun _ x => x.refreshed b.val) t.pcs }) :=
      event_true (by rw [htr, hsr, hdue]; rfl)
    refine ⟨_, changed, rfl, fun p => ?_⟩
    have canonical : swf {} (s.stack k).pcs = true := (Kept.stack (q := s.pending) ⟨rfl, hs⟩ k).pcs
    unfold State.pseudo
    rw [State.stack_modStack_self hs.memStacks.1]
    refine (sget_smap (g := fun _ x => PseudoChannel.refreshed b.val x) canonical (by rfl)).trans ?_
    unfold PseudoChannel.refreshed Stack.pc
    simp
  · change ∃ t, execI2cEepromRead x n s = .next t ∧ _
    unfold execI2cEepromRead
    dsimp only
    rw [← targetReads_iff]
    by_cases h : targetReads x 0x50 = true
    · rw [if_pos h]
      refine ⟨_, rfl, rfl, fun _ => ⟨State.tableBytes_length, fun i => State.tableBytes_get⟩, fun hf => ?_, rfl⟩
      exact absurd (h.symm.trans hf) (by decide)
    · rw [if_neg h]
      exact ⟨_, rfl, rfl, fun hf => absurd hf h, fun _ => rfl, rfl⟩
  · change ∃ t, execCoolantMonitorRead x n s = .next t ∧ _
    unfold execCoolantMonitorRead
    dsimp only
    rw [← targetReads_iff]
    by_cases h : targetReads x 0x4C = true
    · rw [if_pos h]
      refine ⟨_, rfl, rfl, fun _ => ⟨State.tableBytes_length, fun i => State.tableBytes_get⟩, fun hf => ?_, rfl⟩
      exact absurd (h.symm.trans hf) (by decide)
    · rw [if_neg h]
      exact ⟨_, rfl, rfl, fun hf => absurd hf h, fun _ => rfl, rfl⟩

end Sys2Proof.Machine
end

section
/-! PROOFS. FAULTED is entered while a sweep runs that is to leave its segment without an error code (R179, R404): the lost block that
the sweep has passed is made zero. -/

namespace Sys2Proof.Machine

/-- The first block of the segment that the sweep is at. -/
def lostBlock : Nat := 2 ^ 30 * 896

/-- The SEG.RECODE of that segment. -/
def recode : Cmd := { csn := 1, opcode := 0x0605, frame := { opcode := 0x0605 }, address := 896, count := 1, value := 0 }

/-- Stack 7 sweeps a segment, whose first block is lost. -/
def sweeping : State :=
  { ({} : State) with
    mem := [(lostBlock, 1)]
    damage := [(lostBlock, { kind := .uncorrectable })]
    devStream := { cmds := [recode] }
    memStacks := [(7, { sweep := some (255, 1), sweepSegment := 896 })] }

/-- The sweep is over for the stack. -/
def sweepOver : State := sweeping.modStack 7 fun t => { t with sweep := none, sweepSegment := 0, sweepLeft := 0 }

theorem sweepOver_block : (sweepOver.sweepBlock lostBlock 0).2 = true ∧ (sweepOver.sweepBlock lostBlock 0).1.mem = [] := by
  decide +kernel

theorem sweepOver_pages {p : Nat} : (sweepOver.sweepPages 896 0 0 (p + 1)).1.mem = [] := by
  have odd : sweepOver.oddBlocks 896 0 (p + 1) = [lostBlock] := by
    have all : sweepOver.damage.map (·.1) ++ (sweepOver.stack (896 / 128)).caErrors.map (·.1) ++
        (sweepOver.stack (896 / 128)).strays.map (·.1) = [lostBlock] := by decide +kernel
    have usable : lostBlock % 2 ^ 30 < usableBytes (sweepOver.segCode 896) := by decide +kernel
    unfold State.oddBlocks
    dsimp only
    rw [all, List.filter_cons_of_pos]
    · rfl
    · exact decide_eq_true ⟨by decide, by unfold lostBlock; omega, usable⟩
  obtain ⟨lost, zero⟩ := sweepOver_block
  unfold State.sweepPages
  rw [odd, List.foldl_cons, List.foldl_nil]
  dsimp only
  split
  next v h =>
    rw [h] at zero
    exact zero
  next v h =>
    rw [h] at lost
    cases lost

theorem State.modCmd_mem {s : State} {c n : Nat} {f : Cmd → Cmd} : (s.modCmd c n f).mem = s.mem := by
  obtain ⟨v, d, h⟩ := State.modCmd_eq (s := s) (c := c) (csn := n) (f := f)
  rw [h]

theorem sweeping_interrupted_last : (sweeping.interruptSweep 7).mem = [] := by
  have sweeps : (sweeping.stack 7).sweep = some (255, 1) := by decide +kernel
  have at_ : (sweeping.stack 7).sweepSegment = 896 := by decide +kernel
  have ended : (sweeping.modStack 7 fun t => { t with sweep := none, sweepSegment := 0, sweepLeft := 0 }) = sweepOver := rfl
  have found : sweepOver.cmd 255 1 = some recode := by decide +kernel
  unfold State.interruptSweep
  dsimp only
  rw [sweeps, ended]
  dsimp only
  rw [found, at_]
  dsimp only
  generalize max recode.swept _ = p
  have pages := sweepOver_pages (p := p)
  rw [show recode.value = 0 from rfl, show recode.swept = 0 from rfl]
  generalize sweepOver.sweepPages 896 0 0 (p + 1) = r at pages
  obtain ⟨v, l⟩ := r
  exact State.modCmd_mem.trans pages

theorem sweeping_interrupted : sweeping.interruptSweeps.mem = [] := by
  have others : (List.range 7).foldl State.interruptSweep sweeping = sweeping := rfl
  unfold State.interruptSweeps
  rw [show List.range 8 = List.range 7 ++ [7] from rfl, List.foldl_append, others, List.foldl_cons, List.foldl_nil]
  exact sweeping_interrupted_last

theorem sweeping_cores : sweeping.snapshotCores (List.range 256) = sweeping := by
  have quiet : (List.range 256).filter (fun p => [CoreState.preload, .running, .trapped].contains (sweeping.core p).state ||
      (sweeping.core p).channels.any fun h => h.2.state != .idle) = [] := by decide +kernel
  unfold State.snapshotCores
  rw [quiet]
  rfl

theorem State.writeLog_mem {s : State} {e : LogEntry} : (s.writeLog e).mem = s.mem := by
  unfold State.writeLog
  rfl

theorem State.recovered_mem {s : State} {f : Device → Device} {a b c d : Nat} {x : Nat × Nat} :
    (((s.modDev f).recovered a b c x d).setTroubleBit .device 9).mem = s.mem := by
  have told : ((s.modDev f).recovered a b c x d).mem = s.mem := by
    unfold State.recovered
    exact State.writeLog_mem
  refine State.writeLog_mem.trans ?_
  exact told

theorem State.enterFaulted_mem {s : State} {cause object : Nat} {x : Nat × Nat} {b : Bool} :
    (s.enterFaulted cause object x b).mem = (((((s.snapshotCores (List.range 256)).dev.dieResets.flatMap fun x => linksOf x.1).eraseDups.foldl
      State.snapshotLink (s.snapshotCores (List.range 256))).giveUpAll).interruptSweeps).mem := by
  unfold State.enterFaulted
  exact State.recovered_mem

theorem sweeping_faulted : (sweeping.enterFaulted 7 0 (0, 0) false).mem = [] := by
  have quiet : ((sweeping.dev.dieResets.flatMap fun x => linksOf x.1).eraseDups.foldl State.snapshotLink sweeping).giveUpAll =
      sweeping := rfl
  rw [State.enterFaulted_mem, sweeping_cores, quiet]
  exact sweeping_interrupted

/-- Refutes O59. -/
theorem not_resetsRecover : ¬Obligations.ResetsRecover := by
  unfold Obligations.ResetsRecover
  rintro ⟨-, -, -, -, -, -, -, -, -, -, -, -, -, hfaulted, -⟩
  obtain ⟨-, -, -, -, -, hmem, -⟩ := hfaulted sweeping 7 0 (0, 0) false
  exact absurd (sweeping_faulted.symm.trans hmem) (by decide)

end Sys2Proof.Machine
end

section
/-! PROOFS. What the stop of commands leaves alone (R93, R238, R276, R387, R400), and the pins: the input and its switch, PWR_EN and
RESET_IN# (R380, R386, R413, R472 to R474). -/

namespace Sys2Proof.Machine

variable {s t u : State} {c n op : Nat}

/-- Between two states commands have been stopped, and what waited for their pages has gone on: no byte, register of time, power or
start is changed. -/
def Stopped (s t : State) : Prop := ∃ (m : Store) (j : Journal) (ss : Sparse Session) (o : List OutFrame) (w : List WireFrame)
  (a : List SecAssoc) (h : Sparse Hopper) (x : Sparse Context) (d : Stream) (y : Schedule), t = { s.withStore m with
    journal := j, sessions := ss, out := o, wire := w, sec := { s.sec with assocs := a }, hoppers := h, contexts := x, devStream := d
    schedule := y } ∧ m.mem = s.mem

namespace Stopped

theorem of_self (h : t = { s.withStore t.store with
    journal := t.journal, sessions := t.sessions, out := t.out, wire := t.wire, sec := { s.sec with assocs := t.sec.assocs }
    hoppers := t.hoppers, contexts := t.contexts, devStream := t.devStream, schedule := t.schedule }) (hm : t.mem = s.mem) :
    Stopped s t := ⟨_, _, _, _, _, _, _, _, _, _, h, hm⟩

theorem refl : Stopped s s := of_self rfl rfl

theorem trans (h : Stopped s t) (h' : Stopped t u) : Stopped s u := by
  obtain ⟨_, _, _, _, _, _, _, _, _, _, rfl, hm⟩ := h
  obtain ⟨_, _, _, _, _, _, _, _, _, _, rfl, hm'⟩ := h'
  exact ⟨_, _, _, _, _, _, _, _, _, _, rfl, hm'.trans hm⟩

theorem foldl {α : Type} {f : State → α → State} {l : List α} (h : Stopped s t) (hf : ∀ t x, Stopped s t → Stopped s (f t x)) :
    Stopped s (l.foldl f t) := by
  induction l generalizing t with
  | nil => exact h
  | cons x l ih => exact ih (hf t x h)

theorem of_touched (h : Touched s t) : Stopped s t := by
  obtain ⟨m, rfl, hq⟩ := h
  exact of_self rfl (hq.1 trivial).mem

theorem of_sent (h : Sent s t) : Stopped s t := by
  obtain ⟨_, _, _, _, _, _, rfl⟩ := h
  exact of_self rfl rfl

section
variable (h : Stopped s t)
include h

theorem mem_eq : t.mem = s.mem := by
  obtain ⟨_, _, _, _, _, _, _, _, _, _, rfl, hm⟩ := h
  exact hm

theorem rest : t.mem = s.mem ∧ t.wheel = s.wheel ∧ t.dev.warmStarts = s.dev.warmStarts := by
  obtain ⟨_, _, _, _, _, _, _, _, _, _, rfl, hm⟩ := h
  exact ⟨hm, rfl, rfl⟩

theorem modJournal {f : Journal → Journal} : Stopped s (t.modJournal f) := h.trans (of_self rfl rfl)

theorem modCmd {f : Cmd → Cmd} : Stopped s (t.modCmd c n f) := by
  obtain ⟨v, d, e⟩ := State.modCmd_eq (s := t) (c := c) (csn := n) (f := f)
  rw [e]
  exact h.trans (of_self rfl rfl)

theorem modSchedule {f : Schedule → Schedule} : Stopped s (t.modSchedule f) := h.trans (of_self rfl rfl)

theorem modContext {f : Context → Context} : Stopped s (t.modContext c f) := h.trans (of_self rfl rfl)

theorem unmapPage : Stopped s (t.unmapPage n) := h.trans (of_touched Reaches.refl.unmapPage)

/-- A reply that waits for no effect of the journal takes nothing else with it. -/
theorem conclude {sid : Nat} : Stopped s (t.conclude sid n op {}) := by
  unfold State.conclude
  split
  · exact h.modJournal
  next hj =>
    have plain : journalsEffect op = false := by simpa [show Status.done = 0 from rfl] using hj
    have after {v : State} : v.afterReply sid n op = v := by
      unfold State.afterReply
      rw [if_neg (fun e => by subst e; cases plain), if_neg (fun e => by subst e; cases plain),
        if_neg (fun e => by rcases e with e | e | e <;> subst e <;> cases plain), if_neg (fun e => by subst e; cases plain)]
    have sent : Stopped s (t.sendPayload sid n op ({} : Reply).payload) := by
      obtain ⟨x, hx⟩ := State.sendPayload_sent (s := t) (sid := sid) (n := n) (op := op) (l := ({} : Reply).payload)
      have stamped : Stopped s { t with sessions := x } := h.trans (of_self rfl rfl)
      exact stamped.trans (of_sent hx)
    unfold State.deliverReply
    dsimp only
    rw [after]
    split
    · exact sent.trans (of_self rfl rfl)
    · exact sent

theorem releaseUnmaps : Stopped s t.releaseUnmaps := by
  unfold State.releaseUnmaps
  refine h.foldl fun v w hv => ?_
  split
  · exact hv
  · exact (hv.modJournal.foldl fun _ _ hx => hx.unmapPage).conclude

theorem stopCommand : Stopped s (t.stopCommand c n) := by
  have told : Stopped s (t.stopCores c n (t.coresFor c n)) := h.foldl fun _ _ hv => hv.trans (of_touched Reaches.refl.modCore)
  unfold State.stopCommand
  dsimp only
  generalize t.stopCores c n (t.coresFor c n) = v at told
  refine Stopped.releaseUnmaps ?_
  exact told.trans (of_self rfl rfl)

theorem giveUp : Stopped s (t.giveUp c) := by
  have given : Stopped s ((t.uncompleted c).foldl (fun s n => (s.stopCommand c n).modCmd c n Cmd.given) t) :=
    h.foldl fun _ _ hv => hv.stopCommand.modCmd
  unfold State.giveUp State.pruneBookings
  exact given.modSchedule.modSchedule

theorem giveUpAll : Stopped s t.giveUpAll := by
  unfold State.giveUpAll
  exact h.foldl fun _ _ hv => hv.giveUp

end

end Stopped

/-! ## A warm start begins (R387, R413) -/

theorem State.backToSuspects_rest : s.backToSuspects.mem = s.mem ∧ s.backToSuspects.wheel = s.wheel ∧
    s.backToSuspects.dev.warmStarts = s.dev.warmStarts := by
  unfold State.backToSuspects
  split
  · exact ⟨rfl, rfl, rfl⟩
  · exact ⟨rfl, rfl, rfl⟩

theorem State.forgetSelfTests_eq : ∃ m, s.forgetSelfTests = { s with memStacks := m } := by
  unfold State.forgetSelfTests
  refine List.foldlRecOn (motive := fun t : State => ∃ m, t = { s with memStacks := m }) _ _ ⟨_, rfl⟩ fun t ht k _ => ?_
  obtain ⟨m, rfl⟩ := ht
  exact ⟨_, rfl⟩

theorem State.forgets_rest (v : State) : (∃ w, (v.forgetErrors.forgetSelfTests.setTroubleBit .device 5).dev = { v.dev with trouble := w }) ∧
    (v.forgetErrors.forgetSelfTests.setTroubleBit .device 5).mem = v.mem ∧
    (v.forgetErrors.forgetSelfTests.setTroubleBit .device 5).wheel = v.wheel := by
  obtain ⟨m, hm⟩ := State.forgetSelfTests_eq (s := v.forgetErrors)
  rw [hm]
  unfold State.setTroubleBit State.troubleRecord State.writeLog
  exact ⟨⟨_, rfl⟩, rfl, rfl⟩

/-- What a warm start leaves of the start's own registers, of memory and of the wheel. -/
theorem State.warmStart_begins {cause : Nat} : (s.warmStart cause).dev.state = .staging ∧ (s.warmStart cause).dev.quiescing = true ∧
    (s.warmStart cause).dev.warm = true ∧ (s.warmStart cause).dev.warmStarts = s.dev.warmStarts + 1 ∧
    (s.warmStart cause).dev.startCause = cause ∧ (s.warmStart cause).mem = s.mem ∧ (s.warmStart cause).wheel = s.wheel := by
  obtain ⟨hmem, hwheel, hstarts⟩ := State.backToSuspects_rest (s := s)
  obtain ⟨gmem, gwheel, gstarts⟩ := (Stopped.giveUpAll (s := s.backToSuspects) .refl).rest
  unfold State.warmStart
  generalize s.backToSuspects.giveUpAll = g at gmem gwheel gstarts
  extract_lets g v
  obtain ⟨⟨b, hdev⟩, hm, hw⟩ := State.forgets_rest v
  rw [hdev, hm, hw]
  exact ⟨rfl, rfl, rfl, congrArg (· + 1) (gstarts.trans hstarts), rfl, gmem.trans hmem, gwheel.trans hwheel⟩

/-! ## The pins -/

theorem resetInRelease_warm (hp : s.pins.pwrEn = true) (h1 : s.dev.state ≠ .off) (h2 : s.dev.state ≠ .latched)
    (h3 : s.dev.state ≠ .staging) (hn : 1049 ≤ n) :
    exec (.resetInRelease n) s = .next (if 104858 ≤ n then s.coldStart else s.warmStart 1) := by
  have acts : exec (.resetInRelease n) s = event _ s (if (s.dev.state == .staging && !s.dev.warm) = true then
      (if s.dev.stage = 0 then s else s.coldAgain) else if 104858 ≤ n then s.coldStart else s.warmStart 1) := rfl
  rw [acts, event_true (by simp [hp, h1, h2, hn]), if_neg (by simp [h3])]

/-- Settles O57. -/
theorem powerComesAndGoes : Obligations.PowerComesAndGoes := by
  unfold Obligations.PowerComesAndGoes
  refine ⟨fun s hc => ?_, fun s hc => ?_, fun s hc => ?_, fun p s hp => event_true (by rw [hp]; rfl),
    fun s hp hc ht => event_true (by simp [hp, hc, State.offLongEnough, ht]), fun s hp hc hl => ?_, fun s hp => ?_,
    fun n s hp h1 h2 h3 hn => ?_, fun n s hp h1 h2 h3 hn hm => ?_, fun n s hn => ?_⟩
  · refine ⟨_, rfl, ?_⟩
    rw [if_pos hc]
    exact ⟨rfl, rfl, rfl, rfl, rfl, rfl, rfl, rfl, rfl, rfl, rfl, rfl⟩
  · change Host.Outcome.next _ = _
    rw [if_neg (by rw [hc]; decide)]
  · exact ⟨_, event_true hc, rfl, rfl, rfl, rfl, rfl, rfl, rfl⟩
  · exact ⟨_, event_true (by rw [hp, hc, hl]; rfl), rfl, rfl, rfl, rfl, rfl, rfl, rfl, rfl, rfl⟩
  · refine ⟨_, event_true hp, rfl, ?_, fun hc => ?_, fun hc => ?_⟩
    · dsimp only
      split
      · rfl
      next hc => simpa using hc
    · rw [if_pos hc]
      exact ⟨rfl, rfl⟩
    · rw [if_neg (by rw [hc]; decide)]
      exact ⟨rfl, rfl⟩
  · refine ⟨s.coldStart, ?_, rfl, rfl, rfl, rfl, rfl, rfl⟩
    rw [resetInRelease_warm hp h1 h2 h3 (by omega), if_pos hn]
  · obtain ⟨state, quiescing, warm, starts, cause, mem, wheel⟩ := State.warmStart_begins (s := s) (cause := 1)
    refine ⟨s.warmStart 1, ?_, state, quiescing, warm, starts, cause, mem, wheel⟩
    rw [resetInRelease_warm hp h1 h2 h3 hn, if_neg (by omega)]
  · exact event_false (by simp; omega)

end Sys2Proof.Machine
end

section
/-! PROOFS. Housekeeping rounds, their decisions, pauses, latches and the input's limits (R365, R371 to R379). -/

namespace Sys2Proof.Machine

variable {s t u : State} {k n : Nat}

/-! ## What a round's sample leaves alone -/

/-- Nothing but the board's own readings, counts and trouble bits differs. -/
structure Measured (s t : State) : Prop where
  mem : t.mem = s.mem
  position : t.wheel.position = s.wheel.position
  contexts : t.contexts = s.contexts
  rounds : t.power.rounds = s.power.rounds

namespace Measured

theorem refl : Measured s s := ⟨rfl, rfl, rfl, rfl⟩

theorem trans (h : Measured s t) (h' : Measured t u) : Measured s u :=
  ⟨h'.mem.trans h.mem, h'.position.trans h.position, h'.contexts.trans h.contexts, h'.rounds.trans h.rounds⟩

theorem foldl {α : Type} {f : State → α → State} {l : List α} (h : Measured s t) (hf : ∀ t x, Measured s t → Measured s (f t x)) :
    Measured s (l.foldl f t) := by
  induction l generalizing t with
  | nil => exact h
  | cons x l ih => exact ih (hf t x h)

variable (h : Measured s t)
include h

theorem modPower {f : Power → Power} (hf : (f t.power).rounds = t.power.rounds := by rfl) : Measured s (t.modPower f) :=
  ⟨h.mem, h.position, h.contexts, hf.trans h.rounds⟩

theorem modDomain {f : Domain → Domain} : Measured s (t.modDomain k f) := ⟨h.mem, h.position, h.contexts, h.rounds⟩

theorem modStack {f : Stack → Stack} : Measured s (t.modStack k f) := ⟨h.mem, h.position, h.contexts, h.rounds⟩

theorem modPond {f : Millpond → Millpond} : Measured s (t.modPond k f) := ⟨h.mem, h.position, h.contexts, h.rounds⟩

theorem setTroubleBit {r : TroubleReg} {c : Nat} {sc : Nat × Nat} : Measured s (t.setTroubleBit r n sc c) := by
  refine h.trans ?_
  unfold State.setTroubleBit State.troubleRecord State.writeLog
  cases r <;> exact ⟨rfl, rfl, rfl, rfl⟩

theorem troubleWhen {r : TroubleReg} {b : Bool} : Measured s (t.troubleWhen r n b) := by
  unfold State.troubleWhen
  split
  · exact h.setTroubleBit
  · exact h

theorem updateTheta {r : Readings} : Measured s (t.updateTheta r) := by
  unfold State.updateTheta
  split
  · exact h
  · exact h.modPower

theorem roundTrouble {r : Readings} : Measured s (t.roundTrouble r) := by
  unfold State.roundTrouble
  exact h.troubleWhen.troubleWhen.troubleWhen.troubleWhen.troubleWhen.troubleWhen.troubleWhen.troubleWhen

theorem updateUnits {r : Readings} : Measured s (t.updateUnits r) := by
  unfold State.updateUnits
  extract_lets parity strays draws
  have hp : Measured s parity := h.foldl fun _ _ hv => hv.modStack
  have hs : Measured s strays := hp.foldl fun _ _ hv => hv.modStack
  have hd : Measured s draws := hs.foldl fun _ _ hv => hv.modDomain
  exact hd.foldl fun _ _ hv => hv.modStack

theorem freshSpots {r : Readings} : Measured s (t.freshSpots r) := ⟨h.mem, h.position, h.contexts, h.rounds⟩

theorem fuseSpots {r : Readings} : Measured s (t.fuseSpots r) := by
  unfold State.fuseSpots
  exact h.modPower

theorem updateFlow {r : Readings} : Measured s (t.updateFlow r) := by
  unfold State.updateFlow
  exact h.modPower

theorem takeMonitor : Measured s t.takeMonitor := h.modPower

end Measured

/-- What a round leaves: its decisions, for 16 notches later, and its number. -/
structure Sampled (s t : State) : Prop where
  mem : t.mem = s.mem
  position : t.wheel.position = s.wheel.position
  contexts : t.contexts = s.contexts
  rounds : t.power.rounds = s.power.rounds + 1
  lastRound : t.power.lastRound = some (s.now / 1024)
  decisions : ∃ d, t.power.decisions = some d ∧ d.due = s.now + 16 ∧ 320 ≤ d.thermalCap ∧ d.thermalCap ≤ 2400

theorem thermalCapOf_range {a b : Word} : 320 ≤ thermalCapOf a b ∧ thermalCapOf a b ≤ 2400 := by
  unfold thermalCapOf
  dsimp only
  split <;> omega

theorem State.decideRound_due {r : Readings} {a b c : Bool} : (s.decideRound r a b c).due = s.now + 16 := rfl

theorem State.decideRound_cap {r : Readings} {a b c : Bool} :
    (s.decideRound r a b c).thermalCap = thermalCapOf r.inlet s.thetaNow := rfl

theorem State.decideRound_bounds {r : Readings} {a b c : Bool} :
    320 ≤ (s.decideRound r a b c).thermalCap ∧ (s.decideRound r a b c).thermalCap ≤ 2400 := by
  rw [State.decideRound_cap]
  exact thermalCapOf_range

theorem Measured.sampled {d : Decisions} {f : Power → Power} (h : Measured s t) (hd : d.due = s.now + 16)
    (hc : 320 ≤ d.thermalCap ∧ d.thermalCap ≤ 2400) (hr : (f t.power).rounds = t.power.rounds + 1)
    (hl : (f t.power).lastRound = some (s.now / 1024)) (he : (f t.power).decisions = some d) : Sampled s (t.modPower f) :=
  ⟨h.mem, h.position, h.contexts, hr.trans (congrArg (· + 1) h.rounds), hl, d, he, hd, hc⟩

theorem Measured.now (h : Measured s t) : t.now = s.now := h.position

theorem State.sample_sampled {r : Readings} : Sampled s (s.sample r) := by
  unfold State.sample
  extract_lets unpaused a tests flowTest again trip good run clear b c d
  have ha : Measured s a := Measured.refl.freshSpots.fuseSpots.updateTheta.updateFlow
  have hb : Measured s b := by
    unfold b
    split
    · exact ha.modPower
    · exact ha
  have hc : Measured s c := hb.roundTrouble
  refine hc.updateUnits.sampled (d := d) ?_ State.decideRound_bounds rfl (congrArg (fun n => some (n / 1024)) hc.now) rfl
  exact State.decideRound_due.trans (congrArg (· + 16) hc.now)

namespace Sampled

variable (h : Sampled s t)
include h

theorem takeMonitor : Sampled s t.takeMonitor := ⟨h.mem, h.position, h.contexts, h.rounds, h.lastRound, h.decisions⟩

theorem modPort {f : Port → Port} : Sampled s (t.modPort f) := ⟨h.mem, h.position, h.contexts, h.rounds, h.lastRound, h.decisions⟩

theorem setTroubleBit_port {c : Nat} {sc : Nat × Nat} : Sampled s (t.setTroubleBit .port n sc c) := by
  unfold State.setTroubleBit State.troubleRecord State.writeLog
  exact ⟨h.mem, h.position, h.contexts, h.rounds, h.lastRound, h.decisions⟩

theorem countFec {r : Readings} : Sampled s (t.countFec r) := by
  unfold State.countFec State.troubleWhen
  dsimp only
  split
  · exact h.modPort.setTroubleBit_port
  · exact h.modPort

end Sampled

theorem State.samples_iff : s.samples = true ↔ s.dev.state ≠ .off ∧
    (s.dev.state = .staging → s.dev.stage = 0 → s.dev.warm = true) ∧ s.power.lastRound ≠ some (s.now / 1024) ∧
    (s.now % 1024 = 0 ∨ s.power.steppedAt = some s.uptime) := by
  unfold State.samples
  simp only [Bool.and_eq_true, bne_iff_ne, ne_eq, Bool.not_eq_true', Bool.or_eq_true, beq_iff_eq, Bool.and_eq_false_iff, and_assoc]
  constructor
  · rintro ⟨h1, h2, h3, h4⟩
    refine ⟨h1, fun hs h0 => ?_, h3, h4⟩
    simp [hs, h0] at h2
    exact h2
  · rintro ⟨h1, h2, h3, h4⟩
    refine ⟨h1, ?_, h3, h4⟩
    by_cases hs : s.dev.state = .staging
    · by_cases h0 : s.dev.stage = 0
      · exact .inr (by simp [h2 hs h0])
      · exact .inl (.inr (by simp [h0]))
    · exact .inl (.inl (by simp [hs]))

/-! ## Decisions that take effect -/

/-- What the effects of a round's decisions leave alone. -/
structure Effected (s t : State) : Prop where
  decisions : t.power.decisions = s.power.decisions
  thermalCap : t.power.thermalCap = s.power.thermalCap
  hotHold : t.power.hotHold = s.power.hotHold
  trip : t.power.trip = s.power.trip
  tripAt : t.power.tripAt = s.power.tripAt
  pausing : t.power.pausing = s.power.pausing
  pauseUntil : t.power.pauseUntil = s.power.pauseUntil
  wheel : t.wheel = s.wheel
  state : t.dev.state = s.dev.state

namespace Effected

theorem refl : Effected s s := ⟨rfl, rfl, rfl, rfl, rfl, rfl, rfl, rfl, rfl⟩

theorem trans (h : Effected s t) (h' : Effected t u) : Effected s u :=
  ⟨h'.decisions.trans h.decisions, h'.thermalCap.trans h.thermalCap, h'.hotHold.trans h.hotHold, h'.trip.trans h.trip,
    h'.tripAt.trans h.tripAt, h'.pausing.trans h.pausing, h'.pauseUntil.trans h.pauseUntil, h'.wheel.trans h.wheel,
    h'.state.trans h.state⟩

theorem foldl {α : Type} {f : State → α → State} {l : List α} (hf : ∀ t x, Effected t (f t x)) : Effected s (l.foldl f s) := by
  induction l generalizing s with
  | nil => exact refl
  | cons x l ih => exact (hf s x).trans ih

theorem of_switched {d : Domain} (h : Switched s k d t) : Effected s t := by
  obtain ⟨hp, -, hw, -, hd⟩ := h
  refine ⟨?_, ?_, ?_, ?_, ?_, ?_, ?_, hw, hd⟩ <;> rw [hp] <;> rfl

theorem of_switches {f : State → Nat → State} {may : Nat → Domain → Prop} {sw : Nat → Domain → Domain} (hf : Switches f may sw) :
    Effected s (f s k) := by
  by_cases h : may k (s.domain k)
  · exact of_switched (hf.acts s k h)
  · rw [hf.rests s k h]
    exact refl

theorem modStack {f : Stack → Stack} : Effected s (s.modStack k f) := ⟨rfl, rfl, rfl, rfl, rfl, rfl, rfl, rfl, rfl⟩

theorem modPond {f : Millpond → Millpond} : Effected s (s.modPond k f) := ⟨rfl, rfl, rfl, rfl, rfl, rfl, rfl, rfl, rfl⟩

theorem effectUnits {d : Decisions} : Effected s (s.effectUnits d) := by
  unfold State.effectUnits
  exact (foldl fun _ _ => modStack).trans (foldl fun _ _ => modPond)

theorem powerTrouble {c : Nat} {sc : Nat × Nat} : Effected s (s.setTroubleBit .power n sc c) := by
  unfold State.setTroubleBit State.troubleRecord State.writeLog
  exact ⟨rfl, rfl, rfl, rfl, rfl, rfl, rfl, rfl, rfl⟩

theorem pondTrouble {c : Nat} {sc : Nat × Nat} : Effected s (s.setTroubleBit (.millpond k) n sc c) := by
  unfold State.setTroubleBit State.troubleRecord State.writeLog
  exact ⟨rfl, rfl, rfl, rfl, rfl, rfl, rfl, rfl, rfl⟩

theorem stackTrouble {c : Nat} {sc : Nat × Nat} : Effected s (s.setTroubleBit (.stack k) n sc c) := by
  unfold State.setTroubleBit State.troubleRecord State.writeLog
  exact ⟨rfl, rfl, rfl, rfl, rfl, rfl, rfl, rfl, rfl⟩

theorem when_powerTrouble {b : Bool} (h : Effected s t) : Effected s (if b then t.setTroubleBit .power n else t) := by
  split
  · exact h.trans powerTrouble
  · exact h

theorem effectTrouble {d : Decisions} : Effected s (s.effectTrouble d) := by
  unfold State.effectTrouble
  extract_lets set a b c e g
  have tripped : Effected s e := refl.when_powerTrouble.when_powerTrouble.when_powerTrouble.when_powerTrouble
  have dies : Effected e g := foldl fun _ _ => pondTrouble
  exact (tripped.trans dies).trans (foldl fun _ _ => stackTrouble)

theorem effectGating {d : Decisions} : Effected s (s.effectGating d) := by
  unfold State.effectGating
  refine (foldl fun _ _ => ?_).trans (foldl fun _ _ => of_switches startWake_switches)
  split
  · exact of_switches switchOff_switches
  · exact refl

theorem noteSlowed : Effected s s.noteSlowed := by
  unfold State.noteSlowed State.mapCmds
  exact ⟨rfl, rfl, rfl, rfl, rfl, rfl, rfl, rfl, rfl⟩

theorem resumeUnits : Effected s s.resumeUnits := ⟨rfl, rfl, rfl, rfl, rfl, rfl, rfl, rfl, rfl⟩

end Effected

/-- The power part of the decisions of a round as they take effect. -/
def Power.decided (p : Power) (d : Decisions) (now uptime n : Nat) : Power :=
  { p with
    decisions := none, thermalCap := d.thermalCap, hotHold := d.hold
    trip := d.trip || (p.trip && !d.clearTrip), tripAt := if d.trip then uptime else p.tripAt
    pausing := decide (now < n), pauseUntil := if now < n then some n else none, pauseNow := d.pause }

theorem State.takeDecisions_effected {d : Decisions} (hl : d.latch = none ∨ s.dev.state = .latched)
    (hn : n = max (s.now + d.pause) (s.power.pauseUntil.getD 0)) :
    Effected { s with power := s.power.decided d s.now s.uptime n } (s.takeDecisions d) := by
  subst hn
  obtain ⟨w, hw⟩ : ∃ w, w = { s with power := s.power.decided d s.now s.uptime (max (s.now + d.pause) (s.power.pauseUntil.getD 0)) } :=
    ⟨_, rfl⟩
  unfold State.takeDecisions
  extract_lets was stop a b c e
  have ha : a = w := hw.symm
  rw [← hw, ← ha]
  have hb : Effected a b := Effected.effectUnits.trans Effected.effectTrouble
  have hs : a.dev.state = s.dev.state := by rw [ha, hw]
  split
  next => exact hb
  next hno =>
    have none_found : d.latch = none := hl.resolve_right fun h => hno (hb.state.trans (hs.trans h))
    have hc : Effected a c := hb.trans (Effected.effectGating.trans Effected.noteSlowed)
    have he : Effected a e := by
      unfold e
      split
      · exact hc.trans Effected.resumeUnits
      · exact hc
    rw [none_found]
    exact he

/-! ## The end of a pause or a hold, and a latch -/

/-- What the loss of a domain leaves of the device's own stream and its pins: all. -/
structure SamePins (s t : State) : Prop where
  devStream : t.devStream = s.devStream
  pins : t.pins = s.pins

namespace SamePins

theorem refl : SamePins s s := ⟨rfl, rfl⟩

theorem trans (h : SamePins s t) (h' : SamePins t u) : SamePins s u := ⟨h'.devStream.trans h.devStream, h'.pins.trans h.pins⟩

theorem foldl {α : Type} {f : State → α → State} {l : List α} (hf : ∀ t x, SamePins t (f t x)) : SamePins s (l.foldl f s) := by
  induction l generalizing s with
  | nil => exact refl
  | cons x l ih => exact (hf s x).trans ih

theorem of_accessed (h : Accessed s t) : SamePins s t := by
  obtain ⟨m, rfl, -⟩ := h
  exact ⟨rfl, rfl⟩

theorem portTrouble {c : Nat} {sc : Nat × Nat} : SamePins s (s.setTroubleBit .port n sc c) := by
  unfold State.setTroubleBit State.troubleRecord State.writeLog
  exact ⟨rfl, rfl⟩

theorem modDev {f : Device → Device} : SamePins s (s.modDev f) := ⟨rfl, rfl⟩

theorem portDown : SamePins s s.portDown := by
  unfold State.portDown
  split
  · exact modDev.trans portTrouble
  · exact refl

theorem portDrops : SamePins s s.portDrops := by
  unfold State.portDrops
  split
  · exact refl
  · have dropped : SamePins s (s.portDown.modDev fun d => { d with portWidth := s.portWidthOn }) := portDown.trans modDev
    dsimp only
    split
    · exact dropped.trans portTrouble
    · exact dropped

theorem switchOff {b g : Bool} : SamePins s (s.switchOff k b g) := by
  unfold State.switchOff
  split
  · exact refl
  have off : SamePins s (s.modDomain k fun d => { d with state := .off, byDoze := b, gated := g, since := s.uptime }) := ⟨rfl, rfl⟩
  refine off.trans ?_
  dsimp only
  split
  · exact foldl fun _ _ => .of_accessed Reaches.refl.clearKey.modCore
  split
  · exact .of_accessed Reaches.refl.dropLines.clearKey
  split
  · exact ⟨rfl, rfl⟩
  split
  · exact portDrops
  · exact foldl fun _ _ => ⟨rfl, rfl⟩

end SamePins

theorem Stream.lost_completed {x : Stream} {m : Cmd} (h : m ∈ x.lost.cmds) : m.phase = .completed := by
  simpa using (List.mem_filter.mp h).2

/-- What stays of a stream when the device latches. -/
theorem State.loseWork_stream (h : swf {} s.contexts = true) : s.loseWork.stream k = (s.stream k).lost := by
  unfold State.stream
  split
  · rfl
  · unfold State.context State.loseWork
    exact congrArg Context.stream (sget_smap (g := fun _ x => { x with stream := x.stream.lost }) h (by rfl))

/-- The domains of a latched device, but PD79, are off. -/
def State.darkened (s : State) : State := (List.range 79).foldl (fun s k => s.switchOff k false false) s

theorem State.darkened_domain (h : swf {} s.power.domains = true) (hk : k < 79) : (s.darkened.domain k).state = .off := by
  unfold State.darkened
  by_cases ho : (s.domain k).state = .off
  · rw [switchOff_switches.foldl_domain_other h (.inr fun hm => hm.1 ho)]
    exact ho
  · rw [switchOff_switches.foldl_domain_self h (List.mem_range.mpr hk) ⟨ho, by omega⟩]
    rfl

theorem State.darkened_switching : Switching s s.darkened := switchOff_switches.foldl_switching

theorem State.darkened_samePins : SamePins s s.darkened := SamePins.foldl fun _ _ => SamePins.switchOff

theorem State.darkened_stream : s.darkened.stream k = s.stream k := by
  unfold State.stream State.context
  rw [State.darkened_samePins.devStream, State.darkened_switching.contexts]

theorem State.latch_latches {cause spot : Nat} (h : s.Canonical) : (s.latch cause spot).dev.state = .latched ∧
    (s.latch cause spot).power.latchCause = cause ∧ (s.latch cause spot).power.latchSpot = spot ∧
    (s.latch cause spot).pins.thermtrip = (s.pins.thermtrip || decide (cause ≤ 3)) ∧
    (∀ m ∈ ((s.latch cause spot).stream n).cmds, m.phase = .completed) ∧
    (∀ k, k < 79 → ((s.latch cause spot).domain k).state = .off) ∧ (s.latch cause spot).wheel = s.wheel := by
  obtain ⟨v, hv⟩ : ∃ v, v = s.loseWork.darkened := ⟨_, rfl⟩
  have hl : s.latch cause spot = { (v.modPower fun p => { p with latchCause := cause, latchSpot := spot, decisions := none, dozeDue := [] }).modDev fun d =>
      { d with state := .latched, dieResets := [], groupResets := [], affected := [], diverted := [], suspects := [],
               replaying := none } with
    pins := { v.pins with thermtrip := v.pins.thermtrip || decide (cause ≤ 3) } } := by
    unfold State.darkened at hv
    unfold State.latch
    extract_lets a b
    have hb : b = v := hv.symm
    clear_value b
    subst hb
    rfl
  have hpins : v.pins = s.pins := by rw [hv]; exact State.darkened_samePins.pins
  have hwheel : v.wheel = s.wheel := by rw [hv]; exact State.darkened_switching.wheel
  have hstream : v.stream n = (s.stream n).lost := by
    rw [hv, State.darkened_stream, State.loseWork_stream h.contexts.1]
  have hdark : ∀ k, k < 79 → (v.domain k).state = .off := fun k hk => by
    rw [hv]
    exact State.darkened_domain h.domains hk
  rw [hl]
  refine ⟨rfl, rfl, rfl, by rw [← hpins], fun m hm => ?_, hdark, hwheel⟩
  have : m ∈ (v.stream n).cmds := hm
  rw [hstream] at this
  exact Stream.lost_completed this

theorem State.setTroubleBit_power : ∃ l f, s.setTroubleBit .power n =
    { s with power := { s.power with trouble := s.power.trouble ||| BitVec.ofNat 32 (2 ^ n) }, log := l, logNext := s.logNext + 1,
             freshTrouble := f } := by
  unfold State.setTroubleBit State.troubleRecord State.writeLog
  exact ⟨_, _, rfl⟩

theorem State.endHold_only : ∃ p m, s.endHold = { s with power := p, memStacks := m } ∧ p.lowInput = s.power.lowInput := by
  unfold State.endHold
  dsimp only
  generalize s.resumeDraw id = l
  by_cases hh : s.holding = true
  · rw [if_pos hh]
    exact ⟨_, _, rfl, rfl⟩
  rw [if_neg hh]
  generalize max (s.now + ballastOf l) _ = n
  by_cases hn : n ≤ s.now
  · rw [if_pos hn]
    exact ⟨_, _, rfl, rfl⟩
  · rw [if_neg hn]
    exact ⟨_, _, rfl, rfl⟩

theorem State.endHold_holding (h : s.holding = true) : s.endHold = s := if_pos h

theorem State.holding_of_hotHold (h : s.power.hotHold = true) : s.holding = true := by
  unfold State.holding
  simp [h]

/-! ## What each event does -/

theorem execHousekeepingRound_of {r : Readings} (hs : s.samples = true) (hm : r.maelynMissed = false) (hd : s.power.decisions = none) :
    exec (.housekeepingRound r) s = .next ((s.sample r).takeMonitor.countFec r) := by
  change execHousekeepingRound r s = _
  unfold execHousekeepingRound
  rw [hd]
  exact event_true (by rw [hs, hm]; rfl)

theorem execHousekeepingRound_due {r : Readings} {d : Decisions} (hs : s.samples = true) (hm : r.maelynMissed = false)
    (hd : s.power.decisions = some d) :
    exec (.housekeepingRound r) s = .next (((s.takeDecisions d).sample r).takeMonitor.countFec r) := by
  change execHousekeepingRound r s = _
  unfold execHousekeepingRound
  rw [hd]
  exact event_true (by rw [hs, hm]; rfl)

theorem execHousekeepingRound_missed {r : Readings} (h : r.maelynMissed = true ∨ s.samples = false) :
    exec (.housekeepingRound r) s = .next s := by
  change execHousekeepingRound r s = _
  unfold execHousekeepingRound
  exact event_false (by rcases h with h | h <;> rw [h] <;> simp)

theorem execRoundDecisionsEffect_due {d : Decisions} (hd : s.power.decisions = some d) (hn : d.due ≤ s.now) (ho : s.dev.state ≠ .off) :
    exec .roundDecisionsEffect s = .next (s.takeDecisions d) := by
  change execRoundDecisionsEffect s = _
  unfold execRoundDecisionsEffect
  rw [hd]
  exact event_true (by simp [hn, ho])

/-- Once a pause is over, nothing but a hold stops issue. -/
theorem execPauseEnd_over (hu : s.power.pauseUntil = some n) (hp : s.power.pausing = true) (hn : n ≤ s.now) :
    exec .pauseEnd s = .next (if s.holding then { s with power := { s.power with pausing := false, pauseUntil := none } }
      else State.resumeUnits { s with power := { s.power with pausing := false, pauseUntil := none } }) := by
  change execPauseEnd s = _
  unfold execPauseEnd
  rw [hu]
  dsimp only
  rw [event_true (by simp [hp, hn])]
  rfl

theorem execInputVoltageRestored_of (ho : s.dev.state ≠ .off) (hl : s.power.lowInput = true) :
    exec .inputVoltageRestored s = .next (State.endHold { s with power := { s.power with lowInput := false } }) := by
  change execInputVoltageRestored s = _
  unfold execInputVoltageRestored
  exact event_true (by simp [ho, hl])

/-- Settles O56: a round's sample and its decisions, by what each of their parts leaves alone. -/
theorem roundsDecide : Obligations.RoundsDecide := by
  unfold Obligations.RoundsDecide
  refine ⟨fun r s hs hm hd => ?_, fun s => State.samples_iff, fun r s d hs hm hd => execHousekeepingRound_due hs hm hd,
    fun r s h => execHousekeepingRound_missed h, fun s d n hd hn ho hl hmax => ?_, fun s n hu hp hn => execPauseEnd_over hu hp hn,
    fun i s ho hl hi => ?_, fun b s ho hl => ?_, fun s cause spot c h => State.latch_latches h, fun s ho hl => ?_,
    fun s ho hl => ?_, fun s ho => ?_⟩
  · obtain ⟨hmem, hpos, hctx, hrounds, hlast, d, hdec, hdue, hlow, hhigh⟩ :=
      (State.sample_sampled (s := s) (r := r)).takeMonitor.countFec (r := r)
    exact ⟨_, d, execHousekeepingRound_of hs hm hd, hrounds, hlast, hdec, hdue, hlow, hhigh, hmem, hpos, hctx⟩
  · obtain ⟨hdec, hcap, hhold, htrip, hat, hpausing, huntil, hwheel, hstate⟩ := State.takeDecisions_effected hl hmax
    refine ⟨_, execRoundDecisionsEffect_due hd hn ho, hdec, hcap, hhold, htrip, fun h => hat.trans ?_, hpausing, huntil, hwheel, hstate⟩
    exact if_pos h
  · change execComparatorLatch i s = _
    unfold execComparatorLatch
    exact event_true (by simp [ho, hl, hi])
  · change execInputOverlimitLatch b s = _
    unfold execInputOverlimitLatch
    exact event_true (by simp [ho, hl])
  · obtain ⟨l, f, e⟩ := State.setTroubleBit_power (s := s.modPower fun p => { p with lowInput := true }) (n := 10)
    refine ⟨(s.modPower fun p => { p with lowInput := true }).setTroubleBit .power 10, ?_, ?_⟩
    · change execInputVoltageLow s = _
      unfold execInputVoltageLow
      exact event_true (by simp [ho, hl])
    · rw [e]
      exact ⟨rfl, rfl, rfl⟩
  · obtain ⟨p, m, e, hp⟩ := State.endHold_only (s := { s with power := { s.power with lowInput := false } })
    refine ⟨_, execInputVoltageRestored_of ho hl, ?_, fun hh => State.endHold_holding (State.holding_of_hotHold hh), ?_⟩
    · rw [e]
      exact hp
    · rw [e]
  · obtain ⟨l, f, e⟩ := State.setTroubleBit_power (s := s) (n := 10)
    refine ⟨s.setTroubleBit .power 10, ?_, ?_⟩
    · change execInputVoltageHigh s = _
      unfold execInputVoltageHigh
      exact event_true (by simp [ho])
    · rw [e]
      exact ⟨rfl, rfl⟩

end Sys2Proof.Machine
end

section
/-! PROOFS. CTX.OPEN wakes groups of the device's 64 only (R359). -/

namespace Sys2Proof.Machine

/-- A CTX.OPEN of context 1 that asks for quarter 0 and one page of die 1's scratchpad. -/
def openPayload : List Byte :=
  [1, 0, 1, 0] ++ zeros 32 ++ leBytes 4 512 ++ leBytes 4 1 ++ zeros 52 ++ leBytes 8 (scratchBase 1 + 2 ^ 25)

def openFrame : Frame := sumsSet { opcode := BitVec.ofNat 16 0x0501, session := 1, context := 255, number := 1, payload := openPayload }

/-- The bench with a session of management, whose logical core 0 is a physical core that no die has. -/
def strayCore : State :=
  { bench with
    dev := { bench.dev with map := [(0, 300)] }
    sessions := [(1, { isOpen := true, management := true })] }

theorem strayCore_canonical : strayCore.Canonical :=
  { bench_canonical with map := by decide, sessions := by decide }

theorem strayCore_taken : Taken 0x0501 openFrame strayCore { isOpen := true, management := true } :=
  ⟨rfl, ⟨rfl, rfl, rfl, rfl, rfl⟩, ⟨rfl, rfl, rfl, by decide, rfl⟩, rfl, ⟨rfl, rfl, rfl, rfl, rfl⟩⟩

theorem strayCore_acts : Acts 0x0501 openFrame strayCore (strayCore.noted openFrame) 255 where
  delivered :=
    { strayCore_taken.numbered strayCore_canonical sumsSet_tag sumsSet_crc with
      privilege := by decide, generation := by decide, form := by decide }
  state := rfl
  bound := by decide

/-- The context's claim wakes no group beyond 63. -/
theorem strayCore_sleeps : (((strayCore.noted openFrame).openContext 1 (grantOf openPayload)).domain 75).state = .off := by
  decide +kernel

/-- Refutes O17: a logical core whose physical core lies outside the device belongs to no group that CTX.OPEN wakes (R24, R359). -/
theorem not_contextsAreOpenedAndClosed : ¬Obligations.ContextsAreOpenedAndClosed := by
  unfold Obligations.ContextsAreOpenedAndClosed
  rintro ⟨hopen, -⟩
  obtain ⟨u, hu⟩ : ∃ u, u = strayCore.noted openFrame := ⟨_, rfl⟩
  have hacts : Acts 0x0501 openFrame strayCore u 255 := hu ▸ strayCore_acts
  have hlegal : legalDevice 0x0501 u = none := by rw [hu]; decide
  have hfree : (u.context 1).state = .free := by rw [hu]; decide
  have hshort : u.grantShort (grantOf openPayload) = false := by rw [hu]; decide +kernel
  obtain ⟨-, -, -, -, -, -, hwake⟩ := hopen openFrame strayCore u 255 1 openPayload (grantOf openPayload) hacts rfl rfl
    (by decide) (by decide) (by decide) hlegal hfree hshort
  have hgroup : u.groupOf 0 = 75 := by rw [hu]; decide
  have hoff : (u.domain 75).state = .off := by rw [hu]; decide
  have woken := hwake 0 (by decide) (by rw [hu]; decide) (by decide)
  rw [hgroup, if_pos hoff, hu] at woken
  exact absurd ((congrArg Domain.state woken).symm.trans strayCore_sleeps) (by decide)

end Sys2Proof.Machine
end

section
/-! PROOFS. A context reset that lowers a booked length while its area's Millpond changes its split (R156, R253, R400). -/

namespace Sys2Proof.Machine

/-- Context 0 waits for its reset, replied to already; its area lies in a scratchpad whose split changes. -/
def awaitingReset : State :=
  { bench with
    contexts := [(0, { state := .resetting, reset := some { mode := 0, since := 0, session := 1, number := 1, replied := true },
                       area := some { base := padBase, capacity := 2, stride := 3, poolFirst := 1, poolCount := 2 },
                       seqs := [(0, { isOpen := true, booked := 1 })], stream := { cmds := [appender] } })]
    sessions := []
    ponds := [(0, { resplit := some 1 })] }

theorem awaitingReset_canonical : awaitingReset.Canonical :=
  { bench_canonical with
    ponds := ⟨by decide, by simp [awaitingReset, Millpond.Canonical]⟩
    contexts := ⟨by decide, by simp [awaitingReset, Context.Canonical]; decide⟩
    sessions := by decide }

/-- The slot's record and list wait for the end of the split. -/
theorem awaitingReset_lateWrites :
    (match exec (.contextResetDrained 0) awaitingReset with | .next t => t.journal.lateWrites.length | _ => 0) = 2 := by
  decide +kernel

/-- Refutes O18: a reset ends a command that appends, lowers the booked length of its slot, and writes the slot's record again; while
the split of its Millpond changes, that write waits in the journal (R156). -/
theorem not_ctxResetWaitsAndAdvances : ¬Obligations.CtxResetWaitsAndAdvances := by
  unfold Obligations.CtxResetWaitsAndAdvances
  rintro ⟨-, -, hdrained, -⟩
  obtain ⟨t, ht, -, -, -, -, -, hjournal⟩ := hdrained awaitingReset 0
    { mode := 0, since := 0, session := 1, number := 1, replied := true } awaitingReset_canonical (by decide) (by decide) (by decide)
    (by decide) rfl (by decide) rfl rfl
  have waiting := awaitingReset_lateWrites
  rw [ht] at waiting
  change t.journal.lateWrites.length = 2 at waiting
  rw [hjournal rfl] at waiting
  exact absurd waiting (by decide)

end Sys2Proof.Machine
end

section
/-! PROOFS. MEM.SPLIT and the end of a die's split (R154 to R156). -/

namespace Sys2Proof.Machine

variable {s t u : State} {n op : Nat} {f : Frame}

/-! ## What the answer of a command leaves alone -/

/-- Between two states only answers without a payload have been given: sent, or noted for the journal. -/
def Answered (s t : State) : Prop := ∃ x e k j l n o w a, t = { s with
  sessions := x, journal := { s.journal with effects := e, waitingSince := k }, injections := j, log := l, logNext := n, out := o
  wire := w, sec := { s.sec with assocs := a } }

namespace Answered

theorem of_self (h : t = { s with
    sessions := t.sessions
    journal := { s.journal with effects := t.journal.effects, waitingSince := t.journal.waitingSince }
    injections := t.injections, log := t.log, logNext := t.logNext, out := t.out, wire := t.wire
    sec := { s.sec with assocs := t.sec.assocs } }) : Answered s t := ⟨_, _, _, _, _, _, _, _, _, h⟩

theorem refl : Answered s s := of_self rfl

theorem trans (h : Answered s t) (h' : Answered t u) : Answered s u := by
  obtain ⟨_, _, _, _, _, _, _, _, _, rfl⟩ := h
  obtain ⟨_, _, _, _, _, _, _, _, _, rfl⟩ := h'
  exact of_self rfl

theorem foldl {α : Type} {g : State → α → State} {l : List α} (hf : ∀ t x, Answered t (g t x)) : Answered s (l.foldl g s) := by
  induction l generalizing s with
  | nil => exact refl
  | cons x l ih => exact (hf s x).trans ih

/-- No effect that a reply brings with it is one of a command that waits for no journal record. -/
theorem afterReply {sid : Nat} (h : journalsEffect op = false) : s.afterReply sid n op = s := by
  unfold State.afterReply
  rw [if_neg (fun e => by subst e; cases h), if_neg (fun e => by subst e; cases h),
    if_neg (fun e => by rcases e with e | e | e <;> subst e <;> cases h), if_neg (fun e => by subst e; cases h)]

theorem sendPayload {sid : Nat} {p : List Byte} : Answered s (s.sendPayload sid n op p) := by
  obtain ⟨x, j, k, m, o, w, a, h⟩ := State.sendPayload_sent (s := s) (sid := sid) (n := n) (op := op) (l := p)
  rw [h]
  exact of_self rfl

theorem conclude {sid : Nat} : Answered s (s.conclude sid n op {}) := by
  unfold State.conclude
  split
  · exact of_self rfl
  next hj =>
    have plain : journalsEffect op = false := by simpa [show Status.done = 0 from rfl] using hj
    unfold State.deliverReply
    dsimp only
    rw [afterReply plain]
    split
    · exact sendPayload.trans (of_self rfl)
    · exact sendPayload

variable (h : Answered s t)
include h

theorem mem : t.mem = s.mem := by
  obtain ⟨_, _, _, _, _, _, _, _, _, rfl⟩ := h
  rfl

theorem ponds : t.ponds = s.ponds := by
  obtain ⟨_, _, _, _, _, _, _, _, _, rfl⟩ := h
  rfl

theorem memStacks : t.memStacks = s.memStacks := by
  obtain ⟨_, _, _, _, _, _, _, _, _, rfl⟩ := h
  rfl

theorem contexts : t.contexts = s.contexts := by
  obtain ⟨_, _, _, _, _, _, _, _, _, rfl⟩ := h
  rfl

theorem pond {d : Nat} : t.pond d = s.pond d := by
  unfold State.pond
  rw [h.ponds]

end Answered

/-! ## Millponds changed one after another -/

theorem State.pond_foldl_modPond {l : List Nat} {g : Millpond → Millpond} (hs : swf {} s.ponds = true) (hl : l.Nodup) :
    (∃ p, l.foldl (fun s d => s.modPond d g) s = { s with ponds := p }) ∧
      ∀ k, (l.foldl (fun s d => s.modPond d g) s).pond k = if k ∈ l then g (s.pond k) else s.pond k := by
  induction l generalizing s with
  | nil => exact ⟨⟨_, rfl⟩, fun k => rfl⟩
  | cons d l ih =>
    obtain ⟨fresh, hl⟩ := List.nodup_cons.mp hl
    obtain ⟨⟨p, hp⟩, hk⟩ := ih (s := s.modPond d g) (swf_sput hs) hl
    rw [List.foldl_cons]
    refine ⟨⟨p, hp⟩, fun k => ?_⟩
    rw [hk]
    by_cases e : k = d
    · subst e
      rw [if_neg fresh, State.pond_modPond_self hs, if_pos (List.mem_cons_self ..)]
    · rw [State.pond_modPond_other hs e]
      simp [e]

theorem nodup_bitsSet {m n : Nat} : (bitsSet m n).Nodup := List.Nodup.filter _ List.nodup_range

/-! ## MEM.SPLIT -/

theorem bodyMemSplit_done {mask steps : Nat} (hm : le f.payload 0 1 = mask) (hn : le f.payload 1 1 = steps) (h0 : 0 < mask)
    (h15 : mask ≤ 15) (hs : 0 < steps) (h16 : steps ≤ 16) (heven : steps = 16 → mask % 4 = 0) (hl : legalDevice 0x0603 u = none)
    (hidle : ∀ d, d < 64 → u.ctxState d ≠ .active)
    (hfit : ∀ d ∈ bitsSet mask 4, (u.pond d).resplit = none ∧ u.splitShort d steps = false) :
    bodyMemSplit f u = .later (((bitsSet mask 4).foldl (fun s d => s.modPond d fun t => { t with resplit := some steps }) u).modJournal
      fun j => { j with splitReplies := j.splitReplies ++ [(f, bitsSet mask 4)] }) := by
  have idle : ((List.range 64).find? fun c => decide (u.ctxState c = .active)) = none :=
    List.find?_eq_none.mpr fun c hc => by simpa using hidle c (List.mem_range.mp hc)
  have still : ((bitsSet mask 4).find? fun d => (u.pond d).resplit.isSome) = none :=
    List.find?_eq_none.mpr fun d hd => by simp [(hfit d hd).1]
  have fits : ((bitsSet mask 4).any fun d => u.splitShort d steps) = false :=
    List.any_eq_false.mpr fun d hd => by simp [(hfit d hd).2]
  unfold bodyMemSplit
  dsimp only
  rw [hm, hn, zeroField_false (decide_eq_false (by omega))]
  refine checked_go (firstFailing_eq_none.mpr ?_)
  simp only [List.forall_mem_cons]
  refine ⟨when_eq_none.mpr (decide_eq_false (by omega)), when_eq_none.mpr (decide_eq_false (by omega)), hl, by rw [idle]; rfl,
    by rw [still]; rfl, when_eq_none.mpr fits, by simp⟩

/-! ## The end of a split -/

theorem Reaches.journal_eq (h : Direct s t) : t.journal = s.journal := by
  obtain ⟨m, rfl, -, hw, -⟩ := h
  change { s.journal with lateWrites := m.lateWrites } = s.journal
  rw [hw trivial]

theorem Reaches.out_eq (h : Accessed s t) : t.out = s.out ∧ t.uptime = s.uptime := by
  obtain ⟨m, rfl, -⟩ := h
  exact ⟨rfl, rfl⟩

theorem State.writeLate_none (h : s.journal.lateWrites = []) : s.writeLate = s := by
  unfold State.writeLate
  rw [h]
  change { s with journal := { s.journal with lateWrites := [] } } = s
  rw [← h]

/-- The split of die `d` ends, with no write waiting for it. -/
theorem State.resplit_eq {d : Nat} (hc : s.Canonical) (hw : s.journal.lateWrites = []) : ∃ v, Direct s v ∧ v.Canonical ∧ s.resplit d n =
    (v.clearKey (scratchBase d + 2 ^ 26 * min (s.pond d).steps n)
      (2 ^ 26 * (max (s.pond d).steps n - min (s.pond d).steps n))).modPond d fun t => { t with steps := n, resplit := none } := by
  refine ⟨s.dropLines d fun _ => true, Reaches.refl.dropLines, (State.dropLines_kept (q := s.pending) ⟨rfl, hc⟩).2, ?_⟩
  unfold State.resplit
  dsimp only
  refine State.writeLate_none ?_
  have same : Direct s (s.dropLines d fun _ => true) := Reaches.refl.dropLines
  exact (congrArg Journal.lateWrites same.journal_eq).trans hw

theorem State.pond_modPond_clearKey {a d : Nat} {g : Millpond → Millpond} (h : swf {} s.ponds = true) :
    ((s.clearKey a n).modPond d g).pond d = g (s.pond d) := State.pond_modPond_self (s := s.clearKey a n) h

theorem State.splitDone_answered {d : Nat} : Answered (s.modJournal fun j =>
      { j with splitReplies := (j.splitReplies.map fun e => (e.1, e.2.filter (· != d))).filter fun e => !e.2.isEmpty }) (s.splitDone d) :=
  Answered.foldl fun _ _ => Answered.conclude

theorem execMemSplitDone_of {d : Fin 4} (h : (s.pond d).resplit = some n) :
    exec (.memSplitDone d) s = .next ((s.resplit d n).splitDone d) := by
  change execMemSplitDone d s = _
  unfold execMemSplitDone
  rw [h]

theorem State.splitDone_last {d : Nat} {l : List Nat} (hl : s.journal.splitReplies = [(f, l)]) (hd : l.filter (· != d) = [])
    (ho : f.opcode = 0x0603) :
    (s.splitDone d).out = s.out ∧ (s.splitDone d).journal =
      Journal.awaits { s.journal with splitReplies := [] } s.uptime f.session.toNat f.number.toNat 0x0603 {} := by
  unfold State.splitDone
  dsimp only
  rw [hl, List.map_singleton, hd]
  change (State.conclude _ f.session.toNat f.number.toNat f.opcode.toNat {}).out = _ ∧
    (State.conclude _ f.session.toNat f.number.toNat f.opcode.toNat {}).journal = _
  rw [ho]
  exact ⟨rfl, rfl⟩

/-- Settles O21: the dies of a MEM.SPLIT are marked one after another, and the end of one clears what lies between its splits. -/
theorem splitsZeroTheStepsTheyMove : Obligations.SplitsZeroTheStepsTheyMove := by
  unfold Obligations.SplitsZeroTheStepsTheyMove
  refine ⟨fun f s u c mask steps h hm hn h0 h15 hs h16 heven hl hidle hfit => ?_, fun s d steps hc hd hw => ?_,
    fun s d steps f hc hd hw hr ho => ?_⟩
  · have canonical : swf {} u.ponds = true := by
      rw [h.state]
      exact h.delivered.canonical.ponds.1
    obtain ⟨⟨p, hp⟩, hk⟩ := State.pond_foldl_modPond (s := u) (l := bitsSet mask 4) (g := fun t => { t with resplit := some steps })
      canonical nodup_bitsSet
    have marked : ∀ d, State.pond { u with ponds := p } d =
        if d ∈ bitsSet mask 4 then { u.pond d with resplit := some steps } else u.pond d := fun d => by rw [← hp, hk d]
    refine ⟨_, h.handles (by decide) (by decide) (fun _ => rfl) ((h.middle (by decide) (by decide)).trans
      (bodyMemSplit_done hm hn h0 h15 hs h16 heven hl hidle hfit)), ?_⟩
    rw [hp]
    exact ⟨fun d hd => congrArg Millpond.resplit ((marked d).trans (if_pos hd)), fun d hd => (marked d).trans (if_neg hd), rfl, rfl⟩
  · obtain ⟨v, hv, canonical, e⟩ := State.resplit_eq (d := d) (n := steps) hc hw
    have done : Answered _ ((s.resplit d steps).splitDone d) := State.splitDone_answered
    have pond : (((s.resplit d steps).splitDone d).pond d) = { v.pond d with steps := steps, resplit := none } := by
      have kept : ((s.resplit d steps).splitDone d).pond d = (s.resplit d steps).pond d := done.pond
      rw [kept, e]
      rw [State.pond_modPond_clearKey canonical.ponds.1]
    refine ⟨_, execMemSplitDone_of hd, congrArg Millpond.steps pond, congrArg Millpond.resplit pond, fun a hlo hhi => ?_, ?_⟩
    · rw [done.mem, e]
      refine memGet_clear.trans (if_pos ⟨hlo, ?_⟩)
      omega
    · rw [State.splitDone_splitReplies, e]
      exact congrArg (fun j : Journal => (j.splitReplies.map fun e => (e.1, e.2.filter (· != d.val))).filter fun e => !e.2.isEmpty)
        hv.journal_eq
  · obtain ⟨v, hv, canonical, e⟩ := State.resplit_eq (d := d) (n := steps) hc hw
    obtain ⟨hout, hjournal⟩ := State.splitDone_last (s := s.resplit d steps) (d := d) (l := [d.val])
      ((State.resplit_accessed.splitReplies).trans hr) (by simp) ho
    obtain ⟨same, time⟩ := Reaches.out_eq (State.resplit_accessed (s := s) (d := d) (n := steps))
    have journal : (s.resplit d steps).journal = s.journal := by rw [e]; exact hv.journal_eq
    exact ⟨_, execMemSplitDone_of hd, hout.trans same, by rw [hjournal, journal, time]⟩

end Sys2Proof.Machine
end

section
/-! PROOFS. QUERN.MODE and the events of the in-bank modes (R188 to R192). -/

namespace Sys2Proof.Machine

variable {s t u : State} {f : Frame} {k p j n : Nat}

/-! ## Pseudo-channels of a stack -/

/-- The pseudo-channels of stack `k` are in canonical form. -/
def State.Banked (s : State) (k : Nat) : Prop := swf {} s.memStacks = true ∧ swf {} (s.stack k).pcs = true

theorem State.Canonical.banked (h : s.Canonical) : s.Banked k :=
  ⟨h.memStacks.1, (Kept.stack (q := s.pending) ⟨rfl, h⟩ k).pcs⟩

theorem Reaches.pseudo {q : Keeping} (h : Reaches q s t) (hs : s.Banked k) : t.Banked k ∧ ∀ p, t.pseudo k p = s.pseudo k p := by
  obtain ⟨m, rfl, -, -, hu, -⟩ := h
  obtain ⟨hm, same⟩ := hu hs.1
  have pcs : ((s.withStore m).stack k).pcs = (s.stack k).pcs := same k
  refine ⟨⟨hm, by rw [pcs]; exact hs.2⟩, fun p => ?_⟩
  unfold State.pseudo Stack.pc
  rw [pcs]

theorem State.modPseudo_pseudo {g : PseudoChannel → PseudoChannel} (hs : s.Banked k) : (s.modPseudo k p g).Banked k ∧
    ∀ j, (s.modPseudo k p g).pseudo k j = if j = p then g (s.pseudo k p) else s.pseudo k j := by
  obtain ⟨hm, hp⟩ := hs
  have changed : (s.modPseudo k p g).stack k = (s.stack k).setPc p (g ((s.stack k).pc p)) := State.stack_modStack_self hm
  refine ⟨⟨swf_sput hm, ?_⟩, fun j => ?_⟩
  · rw [changed]
    exact swf_sput hp
  · unfold State.pseudo
    rw [changed]
    exact sget_sput hp

/-- Pseudo-channels changed one after another, by a step that changes one of them as `g` says. -/
theorem State.pseudo_foldl {l : List Nat} {step : State → Nat → State} {g : PseudoChannel → PseudoChannel}
    (hstep : ∀ (s : State) p, s.Banked k → (step s p).Banked k ∧
      ∀ j, (step s p).pseudo k j = if j = p then g (s.pseudo k p) else s.pseudo k j) (hs : s.Banked k) (hl : l.Nodup) :
    ∀ j, (l.foldl step s).pseudo k j = if j ∈ l then g (s.pseudo k j) else s.pseudo k j := by
  induction l generalizing s with
  | nil => exact fun j => rfl
  | cons p l ih =>
    obtain ⟨fresh, hl⟩ := List.nodup_cons.mp hl
    obtain ⟨still, hp⟩ := hstep s p hs
    intro j
    rw [List.foldl_cons, ih still hl j, hp j]
    by_cases e : j = p
    · subst e
      rw [if_neg fresh, if_pos rfl, if_pos (List.mem_cons_self ..)]
    · rw [if_neg e]
      simp [e]

/-! ## Toward COMPUTE (R189, R190) -/

/-- A pseudo-channel as its entry into COMPUTE begins. -/
def PseudoChannel.prepared (c first n : Nat) (x : PseudoChannel) : PseudoChannel :=
  { guardTrip := x.guardTrip, queueFull := x.queueFull, entering := true, context := c, firstSeg := first, segCount := n }

theorem State.clearControlRows_accessed {first : Nat} : Accessed s (s.clearControlRows k p first) := by
  unfold State.clearControlRows
  exact Reaches.refl.foldl fun _ _ h => h.clearKey.clearKey

theorem State.prepareCompute_pseudo {c first : Nat} (hs : s.Banked k) : (s.prepareCompute c k first n p).Banked k ∧
    ∀ j, (s.prepareCompute c k first n p).pseudo k j =
      if j = p then (s.pseudo k p).prepared c first n else s.pseudo k j := by
  have dropped : Accessed s (s.dropWindowLines k p first n) := Reaches.refl.dropLines
  obtain ⟨still, same⟩ := (dropped.trans State.clearControlRows_accessed).pseudo hs
  obtain ⟨banked, changed⟩ := State.modPseudo_pseudo (p := p) (g := PseudoChannel.prepared c first n) still
  refine ⟨banked, fun j => ?_⟩
  rw [← same p, ← same j]
  exact changed j

theorem bodyQuernMode_compute {c first mask : Nat} (hk : le f.payload 0 1 = k) (hm : le f.payload 1 1 = 1) (hn : le f.payload 4 2 = n)
    (hf : le f.payload 6 2 = first) (hp : le f.payload 8 8 = mask) (h0 : 0 < mask) (hn0 : 0 < n) (hfit : first + n ≤ 128)
    (heven : k = 0 ∨ k = 2 ∨ k = 4 ∨ k = 6) (hl : legal 0x0901 c u = none)
    (hplain : ∀ p ∈ bitsSet mask 64, (u.pseudo k p).mode = .plain ∧ (u.pseudo k p).entering = false)
    (hseg : ∀ g, 128 * k + first ≤ g → g < 128 * k + first + n →
      u.segCode g = 0 ∧ u.segRetired g = false ∧ (u.grant c).holdsSegment g = true) (hr : u.recoding k = false) :
    bodyQuernMode f c u = .later (((bitsSet mask 64).foldl (fun s p => s.prepareCompute c k first n p) u).modJournal fun j =>
      { j with modeReplies := j.modeReplies ++ [(f, k, mask)] }) := by
  have none_busy : ((bitsSet mask 64).find? fun p => (u.pseudo k p).mode != .plain || (u.pseudo k p).entering) = none :=
    List.find?_eq_none.mpr fun p hm => by simp [hplain p hm]
  have none_unfit : ((List.range' (128 * k + first) n).find? fun g =>
      u.segCode g != 0 || u.segRetired g || !(u.grant c).holdsSegment g) = none :=
    List.find?_eq_none.mpr fun g hm => by
      obtain ⟨low, high⟩ := List.mem_range'_1.mp hm
      simp [hseg g low high]
  have even : ([0, 2, 4, 6] : List Nat).contains k = true := by rcases heven with rfl | rfl | rfl | rfl <;> rfl
  unfold bodyQuernMode
  dsimp only
  rw [hk, hm, hn, hf, hp, zeroField_false (decide_eq_false (by omega)), if_pos rfl, if_pos rfl]
  refine checked_go (firstFailing_eq_none.mpr ?_)
  unfold computeChecks
  simp only [List.forall_mem_append, List.forall_mem_cons]
  exact ⟨⟨when_eq_none.mpr (decide_eq_false (by omega)), when_eq_none.mpr (by rw [even]; rfl), when_eq_none.mpr (by decide), hl, by simp⟩,
    by rw [none_busy]; rfl, by rw [none_unfit]; rfl, when_eq_none.mpr hr, by simp⟩

/-! ## Toward PLAIN (R191) -/

/-- A pseudo-channel as its sealing begins. -/
def PseudoChannel.sealed (x : PseudoChannel) : PseudoChannel := { (x.discard fun _ => true) with mode := .sealing, entering := false }

theorem PseudoChannel.sealed_empty (x : PseudoChannel) : x.sealed.mode = .sealing ∧ x.sealed.queue = [] ∧ x.sealed.backlog = [] := by
  unfold PseudoChannel.sealed PseudoChannel.discard
  simp

theorem State.foldl_seal {l : List Nat} : ∃ m, l.foldl (fun s p => s.seal k p) s = { s with memStacks := m } := by
  induction l generalizing s with
  | nil => exact ⟨_, rfl⟩
  | cons p l ih =>
    obtain ⟨m, h⟩ := ih (s := s.seal k p)
    exact ⟨m, h⟩

theorem bodyQuernMode_plain {c mask : Nat} (hk : le f.payload 0 1 = k) (hm : le f.payload 1 1 = 0) (hp : le f.payload 8 8 = mask)
    (h0 : 0 < mask) (heven : k = 0 ∨ k = 2 ∨ k = 4 ∨ k = 6) (hl : legal 0x0901 c u = none)
    (hmine : ∀ p ∈ bitsSet mask 64, (u.pseudo k p).mode = .compute ∧ (u.pseudo k p).context = c)
    (hq : u.quernNamed k (bitsSet mask 64) = none) :
    bodyQuernMode f c u = .later (((bitsSet mask 64).foldl (fun s p => s.seal k p) u).modJournal fun j =>
      { j with modeReplies := j.modeReplies ++ [(f, k, mask)] }) := by
  have none_other : ((bitsSet mask 64).find? fun p => !decide ((u.pseudo k p).mode = .compute ∧ (u.pseudo k p).context = c)) = none :=
    List.find?_eq_none.mpr fun p hm => by simp [hmine p hm]
  have even : ([0, 2, 4, 6] : List Nat).contains k = true := by rcases heven with rfl | rfl | rfl | rfl <;> rfl
  unfold bodyQuernMode
  dsimp only
  rw [hk, hm, hp, zeroField_false (decide_eq_false (by omega)), if_neg (by decide), if_neg (by decide)]
  refine checked_go (firstFailing_eq_none.mpr ?_)
  unfold plainChecks
  simp only [List.forall_mem_append, List.forall_mem_cons]
  exact ⟨⟨when_eq_none.mpr (decide_eq_false (by omega)), when_eq_none.mpr (by rw [even]; rfl), when_eq_none.mpr (by decide), hl, by simp⟩,
    by rw [none_other]; rfl, by rw [hq]; rfl, by simp⟩

/-! ## The reply of a QUERN.MODE -/

/-- What the replies of QUERN.MODE commands leave alone. -/
structure Announced (s t : State) : Prop where
  mem : t.mem = s.mem
  contexts : t.contexts = s.contexts
  memStacks : t.memStacks = s.memStacks
  closing : t.journal.closing = s.journal.closing

namespace Announced

theorem refl : Announced s s := ⟨rfl, rfl, rfl, rfl⟩

theorem trans (h : Announced s t) (h' : Announced t u) : Announced s u :=
  ⟨h'.mem.trans h.mem, h'.contexts.trans h.contexts, h'.memStacks.trans h.memStacks, h'.closing.trans h.closing⟩

theorem foldl {α : Type} {g : State → α → State} {l : List α} (hf : ∀ t x, Announced t (g t x)) : Announced s (l.foldl g s) := by
  induction l generalizing s with
  | nil => exact refl
  | cons x l ih => exact (hf s x).trans ih

theorem of_answered (h : Answered s t) : Announced s t := by
  obtain ⟨_, _, _, _, _, _, _, _, _, rfl⟩ := h
  exact ⟨rfl, rfl, rfl, rfl⟩

theorem modeReplies {l : List (Frame × Nat × Nat)} : Announced s (s.modJournal fun j => { j with modeReplies := l }) :=
  ⟨rfl, rfl, rfl, rfl⟩

theorem pseudo (h : Announced s t) : t.pseudo k p = s.pseudo k p := by
  unfold State.pseudo State.stack
  rw [h.memStacks]

end Announced

theorem State.modeReached_announced : Announced s (s.modeReached k p) := by
  unfold State.modeReached
  refine Announced.foldl fun v e => ?_
  dsimp only
  split
  · split
    · exact Announced.modeReplies.trans (.of_answered Answered.conclude)
    · exact Announced.modeReplies
  · exact .refl

theorem State.endClosings_none (h : s.journal.closing = []) : s.endClosings = s := by
  unfold State.endClosings
  rw [h]
  rfl

/-- One pseudo-channel of the only QUERN.MODE that waits is done. -/
theorem State.modeReached_one {mask : Nat} (h : s.journal.modeReplies = [(f, k, mask)]) (hb : mask.testBit p = true) :
    s.modeReached k p = if mask - 2 ^ p = 0 then
      (s.modJournal fun j => { j with modeReplies := [] }).conclude f.session.toNat f.number.toNat f.opcode.toNat {}
    else s.modJournal fun j => { j with modeReplies := [(f, k, mask - 2 ^ p)] } := by
  unfold State.modeReached bit
  rw [h]
  simp only [List.foldl_cons, List.foldl_nil, hb, and_self, if_true]
  by_cases h0 : mask - 2 ^ p = 0
  · simp [h0, h]
  · simp [h0, h]

/-! ## The events -/

theorem execQuernComputeEntered_of {k : Fin 8} {p : Fin 64} (he : (s.pseudo k p).entering = true) (hm : (s.pseudo k p).mode = .plain) :
    exec (.quernComputeEntered k p) s =
      .next ((s.modPseudo k p fun x => { x with mode := .compute, entering := false }).modeReached k p) := by
  change execQuernComputeEntered k p s = _
  unfold execQuernComputeEntered
  exact event_true (by rw [he, hm]; rfl)

theorem execQuernSealed_of {k : Fin 8} {p : Fin 64} (hm : (s.pseudo k p).mode = .sealing) (hc : (s.pseudo k p).chunkIn = false)
    (hj : s.journal.closing = []) : exec (.quernSealed k p) s = .next ((s.modPseudo k p fun x =>
      { x with mode := .plain, running := none, postponed := [], resting := false, context := 0, firstSeg := 0,
               segCount := 0 }).modeReached k p) := by
  change execQuernSealed k p s = _
  unfold execQuernSealed
  rw [event_true (by rw [hm, hc]; rfl)]
  exact congrArg Host.Outcome.next (State.endClosings_none (State.modeReached_announced.closing.trans hj))

/-- Settles O24: the named pseudo-channels are prepared or sealed one after another, and each event moves one of them on. -/
theorem computeIsEnteredAndLeftInTwoSteps : Obligations.ComputeIsEnteredAndLeftInTwoSteps := by
  unfold Obligations.ComputeIsEnteredAndLeftInTwoSteps
  refine ⟨fun f s u c k first n mask h hk hm hn hf hp h0 hn0 hfit heven hl hplain hseg hr => ?_, fun s k p hs he hm => ?_,
    fun f s u c k mask h hk hm hp h0 heven hl hmine hq => ?_, fun s k p hs hm hc hj => ?_, fun s k p hc => ?_,
    fun s k p f mask hs he hm hj ho => ⟨fun hmask => ?_, fun hb hmask => ?_⟩⟩
  · have banked : u.Banked k := by
      have := h.delivered.canonical.banked (k := k)
      rw [h.state]
      exact this
    have prepared := State.pseudo_foldl (l := bitsSet mask 64) (step := fun s p => s.prepareCompute c k first n p)
      (fun _ _ hs => State.prepareCompute_pseudo hs) banked nodup_bitsSet
    refine ⟨_, h.handles (by decide) (by decide) (fun _ => rfl) ((h.middle (by decide) (by decide)).trans
      (bodyQuernMode_compute hk hm hn hf hp h0 hn0 hfit heven hl hplain hseg hr)), fun p hp => ?_⟩
    rw [prepared p, if_pos hp]
    exact ⟨rfl, rfl, rfl, rfl, rfl, rfl⟩
  · obtain ⟨-, changed⟩ := State.modPseudo_pseudo (p := p) (g := fun x => { x with mode := .compute, entering := false })
      (hs.banked (k := k))
    have told := State.modeReached_announced (s := s.modPseudo k p fun x => { x with mode := .compute, entering := false }) (k := k) (p := p)
    refine ⟨_, execQuernComputeEntered_of he hm, ?_, ?_, told.mem, told.contexts⟩
    · rw [told.pseudo, changed, if_pos rfl]
    · rw [told.pseudo, changed, if_pos rfl]
  · have banked : u.Banked k := by
      have := h.delivered.canonical.banked (k := k)
      rw [h.state]
      exact this
    have done := State.pseudo_foldl (l := bitsSet mask 64) (step := fun s p => s.seal k p) (g := PseudoChannel.sealed)
      (fun _ _ hs => State.modPseudo_pseudo hs) banked nodup_bitsSet
    obtain ⟨m, only⟩ := State.foldl_seal (s := u) (k := k) (l := bitsSet mask 64)
    refine ⟨_, h.handles (by decide) (by decide) (fun _ => rfl) ((h.middle (by decide) (by decide)).trans
      (bodyQuernMode_plain hk hm hp h0 heven hl hmine hq)), by rw [only], fun p hp => ?_⟩
    rw [done p, if_pos hp]
    exact PseudoChannel.sealed_empty _
  · obtain ⟨-, changed⟩ := State.modPseudo_pseudo (p := p) (g := fun x => { x with
      mode := .plain, running := none, postponed := [], resting := false, context := 0, firstSeg := 0, segCount := 0 })
      (hs.banked (k := k))
    have told := State.modeReached_announced (s := s.modPseudo k p fun x => { x with
      mode := .plain, running := none, postponed := [], resting := false, context := 0, firstSeg := 0, segCount := 0 }) (k := k) (p := p)
    refine ⟨_, execQuernSealed_of hm hc hj, ?_, ?_, ?_, told.mem, told.contexts⟩
    all_goals rw [told.pseudo, changed, if_pos rfl]
  · change execQuernSealed k p s = _
    unfold execQuernSealed
    exact event_false (by rw [hc]; simp)
  · subst hmask
    refine ⟨_, execQuernComputeEntered_of he hm, ?_⟩
    refine (congrArg State.journal (State.modeReached_one (s := s.modPseudo _ _ _) hj (by simp))).trans ?_
    rw [if_pos (by simp), ho]
    rfl
  · have left : mask - 2 ^ p.val ≠ 0 := by
      have := Nat.ge_two_pow_of_testBit hb
      omega
    refine ⟨_, execQuernComputeEntered_of he hm, ?_⟩
    refine (congrArg State.journal (State.modeReached_one (s := s.modPseudo _ _ _) hj hb)).trans ?_
    rw [if_neg left]
    rfl

end Sys2Proof.Machine
end

section
/-! PROOFS. What the end of a command leaves of the other commands, and SEG.RECODE with its sweeps (R179, R253). -/

namespace Sys2Proof.Machine

variable {s t u : State} {c d n csn : Nat} {m : Cmd}

/-! ## Commands of another stream, and others of the same one -/

theorem State.stream_modStream_other {g : Stream → Stream} (h : s.Canonical) (hd : d ≠ c) :
    (s.modStream c g).stream d = s.stream d := by
  unfold State.modStream State.setStream
  by_cases hc : c = 255
  · rw [if_pos hc]
    have h255 : d ≠ 255 := fun e => hd (e.trans hc.symm)
    unfold State.stream
    rw [if_neg h255, if_neg h255]
    rfl
  · rw [if_neg hc]
    by_cases h255 : d = 255
    · unfold State.stream
      rw [if_pos h255, if_pos h255]
      rfl
    · conv_lhs => unfold State.stream
      rw [if_neg h255, State.context_modContext_other h.contexts.1 hd]
      unfold State.stream
      rw [if_neg h255]

theorem State.stream_modContext {g : Context → Context} (h : s.Canonical) (hg : ∀ x, (g x).stream = x.stream) :
    (s.modContext c g).stream d = s.stream d := by
  unfold State.stream
  split
  · rfl
  · by_cases hd : d = c
    · subst hd
      rw [State.context_modContext_self h.contexts.1, hg]
    · rw [State.context_modContext_other h.contexts.1 hd]

theorem State.cmd_modContext {g : Context → Context} (h : s.Canonical) (hg : ∀ x, (g x).stream = x.stream) :
    (s.modContext c g).cmd d n = s.cmd d n := by
  unfold State.cmd
  rw [State.stream_modContext h hg]

theorem State.cmd_modCmd_same {g : Cmd → Cmd} (h : s.Canonical) (hg : ∀ m, (g m).csn = m.csn) :
    (s.modCmd c csn g).cmd c n = (s.cmd c n).map fun m => if n = csn then g m else m := by
  unfold State.modCmd State.cmd
  rw [State.stream_modStream h, List.find?_map]
  have same : ((fun x : Cmd => x.csn == n) ∘ fun x => if x.csn = csn then g x else x) = fun x => x.csn == n := by
    funext x
    rw [Function.comp_apply]
    split
    · rw [hg]
    · rfl
  rw [same]
  cases hf : List.find? (fun x : Cmd => x.csn == n) (s.stream c).cmds with
  | none => rfl
  | some m =>
    have : m.csn = n := by simpa using List.find?_some hf
    rw [Option.map_some, Option.map_some, this]

theorem State.cmd_modCmd_other {g : Cmd → Cmd} (h : s.Canonical) (hd : d ≠ c) : (s.modCmd c csn g).cmd d n = s.cmd d n := by
  unfold State.modCmd State.cmd
  rw [State.stream_modStream_other h hd]

/-! ## Lengths of sequences settle -/

/-- Between two states only memory, contexts, the device's own stream and the schedule differ. -/
def Working (s t : State) : Prop := ∃ (w : Store) (x : Sparse Context) (d : Stream) (y : Schedule),
  t = { s.withStore w with contexts := x, devStream := d, schedule := y }

theorem Working.refl : Working s s := ⟨s.store, _, _, _, rfl⟩

theorem Working.trans (h : Working s t) (h' : Working t u) : Working s u := by
  obtain ⟨_, _, _, _, rfl⟩ := h
  obtain ⟨w, x, d, y, rfl⟩ := h'
  exact ⟨w, x, d, y, rfl⟩

theorem Working.modStream {g : Stream → Stream} : Working s (s.modStream c g) := by
  unfold State.modStream State.setStream
  split
  · exact ⟨s.store, _, _, _, rfl⟩
  · exact ⟨s.store, _, _, _, rfl⟩

/-- Between two states only lengths of sequences have settled: what commands still owe them, and their records in memory. -/
structure Settling (s t : State) : Prop where
  canonical : t.Canonical
  working : Working s t
  owes : ∀ c n m, s.cmd c n = some m → ∃ o, t.cmd c n = some { m with owes := o }

namespace Settling

theorem refl (h : s.Canonical) : Settling s s := ⟨h, ⟨s.store, _, _, _, rfl⟩, fun _ _ m hm => ⟨m.owes, hm⟩⟩

theorem trans (h : Settling s t) (h' : Settling t u) : Settling s u := by
  refine ⟨h'.canonical, h.working.trans h'.working, fun c n m hm => ?_⟩
  obtain ⟨o, ho⟩ := h.owes c n m hm
  obtain ⟨o', ho'⟩ := h'.owes c n _ ho
  exact ⟨o', ho'⟩

theorem foldl {α : Type} {g : State → α → State} {l : List α} (h : Settling s t) (hg : ∀ t x, t.Canonical → Settling t (g t x)) :
    Settling s (l.foldl g t) := by
  induction l generalizing t with
  | nil => exact h
  | cons x l ih => exact ih (h.trans (hg t x h.canonical))

theorem of_accessed (h : Accessed s t) (ht : t.Canonical) : Settling s t := by
  obtain ⟨w, rfl, -⟩ := h
  exact ⟨ht, ⟨w, _, _, _, rfl⟩, fun _ _ m hm => ⟨m.owes, hm⟩⟩

theorem modSchedule {g : Schedule → Schedule} (h : s.Canonical) : Settling s (s.modSchedule g) :=
  ⟨(State.modSchedule_kept (q := s.pending) ⟨rfl, h⟩).2, ⟨s.store, _, _, _, rfl⟩, fun _ _ m hm => ⟨m.owes, hm⟩⟩

theorem writeLog {e : LogEntry} (h : s.Canonical) : Settling s (s.writeLog e) :=
  of_accessed Reaches.refl.writeLog (State.writeLog_kept (q := s.pending) ⟨rfl, h⟩).2

/-- What commands owe changes in one of them. -/
theorem modCmd {g : Cmd → List Nat} (h : s.Canonical) : Settling s (s.modCmd c csn fun x => { x with owes := g x }) := by
  refine ⟨(State.modCmd_kept (q := s.pending) ⟨rfl, h⟩).2, Working.modStream, fun d n m hm => ?_⟩
  by_cases hd : d = c
  · subst hd
    rw [State.cmd_modCmd_same (g := fun x => { x with owes := g x }) h (fun _ => rfl), hm]
    by_cases hn : n = csn
    · exact ⟨g m, by rw [Option.map_some, if_pos hn]⟩
    · exact ⟨m.owes, by rw [Option.map_some, if_neg hn]⟩
  · rw [State.cmd_modCmd_other (g := fun x => { x with owes := g x }) h hd]
    exact ⟨m.owes, hm⟩

theorem modSeq {j : Nat} {g : SeqSlot → SeqSlot} (h : s.Canonical) : Settling s (s.modSeq c j g) := by
  have kept : (s.modSeq c j g).Canonical := (State.modSeq_kept (q := s.pending) ⟨rfl, h⟩).2
  obtain ⟨w, e, -⟩ : Accessed _ (s.modSeq c j g) := Reaches.refl.writeSlot
  refine ⟨kept, ⟨w, _, _, _, e⟩, fun d n m hm => ⟨m.owes, ?_⟩⟩
  have same : (s.modSeq c j g).stream d = s.stream d := by
    have only : (s.modSeq c j g).stream d = (s.modContext c fun x => { x with seqs := sput {} x.seqs j (g (x.seq j)) }).stream d := by
      rw [e]
      rfl
    exact only.trans (State.stream_modContext h fun _ => rfl)
  unfold State.cmd at hm ⊢
  rw [same]
  exact hm

theorem advanceLengths {l : List Nat} (h : s.Canonical) : Settling s (s.advanceLengths c csn l n) := by
  unfold State.advanceLengths
  split
  · exact refl h
  · refine (refl h).foldl fun v j hv => ?_
    split
    · exact modSeq hv
    · exact refl hv

theorem settleAppends (h : s.Canonical) : Settling s (s.settleAppends c) := by
  unfold State.settleAppends
  refine (refl h).foldl fun v m hv => ?_
  have advanced : Settling v (v.advanceLengths c m.csn (m.owes.filter fun j => !(v.stream c).appendsBefore m.csn j) m.append) :=
    advanceLengths hv
  exact advanced.trans (modCmd advanced.canonical)

theorem pruneBookings (h : s.Canonical) : Settling s s.pruneBookings := by
  unfold State.pruneBookings
  exact modSchedule h

end Settling

/-! ## A command that is not a step ends -/

/-- The command as its end leaves it, but for what it owes. -/
def Cmd.ended (m : Cmd) (status notch extra now : Nat) (x : Stop) : Cmd :=
  { m with
    phase := .completed, status := status, completion := completionPayload m status notch extra x, completedAt := now, actions := []
    stop := none, saved := [], records := if x.rank = 3 then [] else m.records
    resultFrames := if x.rank = 3 then m.resultFrames.take m.shown else m.resultFrames }

theorem State.cmd_modStream {g : Stream → Stream} (h : s.Canonical) (hg : ∀ t, (g t).cmds = t.cmds) :
    (s.modStream c g).cmd c n = s.cmd c n := by
  unfold State.cmd
  rw [State.stream_modStream h, hg]

/-- The end of a command that is no RUN.STEP, up to the release of a copy's pin. -/
theorem State.complete_other {status notch extra : Nat} {x : Stop} (h : s.Canonical) (hm : s.cmd c csn = some m)
    (hp : m.phase ≠ .completed) (ho : m.opcode ≠ 0x0301) : ∃ v, s.complete c csn status notch extra x = v.endCopy c m ∧
      v.Canonical ∧ Working s v ∧ ∃ o, v.cmd c csn = some { m.ended status notch extra s.uptime x with owes := o } := by
  unfold State.complete
  split
  next h0 => cases hm.symm.trans h0
  next m' h0 =>
  obtain rfl : m = m' := Option.some.inj (hm.symm.trans h0)
  rw [if_neg hp]
  extract_lets good payload a b e g l
  have ha : a.Canonical := (State.modCmd_kept (q := s.pending) ⟨rfl, h⟩).2
  have hb : b.Canonical := (State.modStream_kept (q := a.pending) ⟨rfl, ha⟩).2
  have he : Settling b e := Settling.modSchedule hb
  have hg : Settling e g := by
    unfold g
    rw [if_pos (.inl ho)]
    exact Settling.settleAppends he.canonical
  have hl : Settling g l := by
    unfold l
    split
    · exact .refl hg.canonical
    · exact Settling.writeLog hg.canonical
  have all : Settling b l.pruneBookings := ((he.trans hg).trans hl).trans (Settling.pruneBookings hl.canonical)
  have ended : ∃ o, b.cmd c csn = some { m.ended status notch extra s.uptime x with owes := o } := by
    unfold b
    exact ⟨_, (State.cmd_modStream (g := fun t => { t with lastCompleted := max t.lastCompleted csn }) ha fun _ => rfl).trans
      (State.cmd_modCmd h hm fun _ => rfl)⟩
  obtain ⟨o, hc⟩ := ended
  obtain ⟨o', hc'⟩ := all.owes c csn _ hc
  exact ⟨l.pruneBookings, rfl, all.canonical, (Working.modStream.trans Working.modStream).trans all.working, o', hc'⟩

/-! ## SEG.RECODE -/

theorem bodySegRecode_done {f : Frame} {first code : Nat} (hf : le f.payload 0 2 = first) (hn : le f.payload 2 2 = n)
    (hc : le f.payload 4 1 = code) (h0 : 0 < n) (hfit : first + n ≤ 1024) (h2 : code ≤ 2)
    (hp : u.pagesFailed (16384 * first) (16384 * n) = false) (hl : legalDevice 0x0801 u = none)
    (hidle : ∀ d, d < 64 → u.ctxState d = .active → ∀ g, first ≤ g → g < first + n → (u.grant d).holdsSegment g = false)
    (hstill : ∀ k, k < 8 → overlaps first n (k * 128) 128 = true → u.computing k = false ∧ u.sweepRuns k = false)
    (hj : u.journalSegment first n = none)
    (hmap : ∀ e ∈ u.pages, e.2.mapped = true → first ≤ e.1 / 16384 → e.1 / 16384 < first + n →
      65536 * (e.1 % 16384) < usableBytes code) (hflow : flowCheck c u = none) :
    bodySegRecode f c u = .later (u.stage
      { stream := c, session := f.session.toNat, number := f.number.toNat, answer := true,
        cmd := { opcode := 0x0801, frame := f, address := first, count := n, value := code, acceptedAt := u.now } }) := by
  have none_active : ((List.range 64).find? fun d =>
      decide (u.ctxState d = .active) && (List.range' first n).any (u.grant d).holdsSegment) = none :=
    List.find?_eq_none.mpr fun d hd => by
      rw [Bool.and_eq_true, decide_eq_true_eq, List.any_eq_true]
      rintro ⟨active, g, hg, holds⟩
      obtain ⟨low, high⟩ := List.mem_range'_1.mp hg
      rw [hidle d (List.mem_range.mp hd) active g low high] at holds
      cases holds
  have still {k : Nat} (hk : k ∈ stacksOfRun first n) : u.computing k = false ∧ u.sweepRuns k = false := by
    obtain ⟨hk8, hover⟩ := List.mem_filter.mp hk
    exact hstill k (List.mem_range.mp hk8) hover
  have none_computes : (stacksOfRun first n).find? u.computing = none :=
    List.find?_eq_none.mpr fun k hk => by simp [(still hk).1]
  have none_sweeps : (stacksOfRun first n).find? u.sweepRuns = none :=
    List.find?_eq_none.mpr fun k hk => by simp [(still hk).2]
  have room : (u.pages.any fun e => e.2.mapped && (List.range' first n).contains (e.1 / 16384) &&
      decide (usableBytes code ≤ 65536 * (e.1 % 16384))) = false :=
    List.any_eq_false.mpr fun e he => by
      simp only [Bool.and_eq_true, List.contains_iff_mem, List.mem_range'_1, decide_eq_true_eq]
      rintro ⟨⟨mapped, low, high⟩, beyond⟩
      have := hmap e he mapped low high
      omega
  unfold bodySegRecode
  dsimp only
  rw [hf, hn, hc, zeroField_false (decide_eq_false (by omega))]
  refine checked_go (firstFailing_eq_none.mpr ?_)
  simp only [List.forall_mem_cons]
  exact ⟨when_eq_none.mpr (decide_eq_false (by omega)), when_eq_none.mpr (decide_eq_false (by omega)), when_eq_none.mpr hp, hl,
    by rw [none_active]; rfl, by rw [none_computes]; rfl, by rw [none_sweeps]; rfl, by rw [hj]; rfl, when_eq_none.mpr room, hflow,
    by simp⟩

/-! ## The sweep of a segment -/

theorem State.segCode_setSegCode {g code : Nat} (h : swf 2 s.segCodes = true) (hc : code ≤ 2) :
    (s.setSegCode g code).segCode g = code := by
  unfold State.segCode State.setSegCode
  rw [sget_sput_self h]
  split <;> omega

theorem State.sweepSegment_code {g code first : Nat} (h : s.Canonical) (hc : code ≤ 2) :
    (s.sweepSegment g code first).1.segCode g = code := by
  have kept : (s.sweepPages g code first 16384).1.Canonical := (State.sweepPages_kept (q := s.pending) ⟨rfl, h⟩).2
  unfold State.sweepSegment
  exact State.segCode_setSegCode kept.segCodes hc

theorem execSegmentSweep_of {k : Fin 8} {g : Nat} {lost : List Nat} {v : State} (hi : s.inService = true)
    (hw : (s.stack k).sweep = some (c, csn)) (hg : (s.stack k).sweepSegment = g) (hm : s.cmd c csn = some m)
    (hv : (s.modStack k fun t => { t with sweep := none, sweepSegment := 0, sweepLeft := 0 }).sweepSegment g m.value m.swept = (v, lost)) :
    exec (.segmentSweep k) s = .next ((v.modCmd c csn fun x =>
      { x.lose lost with progress := g + 1 - x.address, swept := 0 }).sweepOn c csn) := by
  have begun : (s.modStack k fun t => { t with sweep := none, sweepSegment := 0, sweepLeft := 0 }).cmd c csn = some m := hm
  change execSegmentSweep k s = _
  unfold execSegmentSweep
  rw [event_true (by rw [hi, hw]; rfl)]
  unfold State.endSweep
  dsimp only
  rw [hw]
  dsimp only
  rw [begun]
  dsimp only
  rw [hg, hv]

theorem State.modStack_canonical {k : Nat} {g : Stack → Stack} (h : s.Canonical)
    (hg : ∀ t, (g t).capture = t.capture ∧ (g t).pcs = t.pcs ∧ (g t).caErrors = t.caErrors) : (s.modStack k g).Canonical :=
  (State.modStack_kept (q := s.pending) ⟨rfl, h⟩ fun t hc => by
    obtain ⟨h1, h2, h3⟩ := hg t
    exact ⟨by rw [h1]; exact hc.capture, by rw [h2]; exact hc.pcs, by rw [h3]; exact hc.caErrors⟩).2

/-- The sweeps left on the stacks of a SEG.RECODE are noted in the stacks alone. -/
theorem State.foldl_sweepLeft {l : List Nat} {left : Nat → Nat} (h : s.Canonical) : ∃ v, l.foldl (fun s k =>
      if s.sweepRuns k then s else s.modStack k fun t => { t with sweepLeft := left k }) s = v ∧ v.Canonical ∧
    ∃ x, v = { s with memStacks := x } := by
  induction l generalizing s with
  | nil => exact ⟨s, rfl, h, _, rfl⟩
  | cons k l ih =>
    rw [List.foldl_cons]
    split
    · exact ih h
    · obtain ⟨v, e, hv, x, hx⟩ := ih (s := s.modStack k fun t => { t with sweepLeft := left k })
        (State.modStack_canonical h fun _ => ⟨rfl, rfl, rfl⟩)
      exact ⟨v, e, hv, x, hx⟩

/-- A SEG.RECODE without a segment left ends. -/
theorem State.sweepNext_last {st : Nat} (h : s.Canonical) (hm : s.cmd c csn = some m) (ho : m.opcode = 0x0801)
    (hp : m.phase ≠ .completed) (hu : s.unswept m = []) (hst : st = if 0 < m.lost then Status.uncorrectable else Status.done) :
    ∃ (v : State) (m' : Cmd), s.sweepNext c csn = v.replayStep ∧ v.cmd c csn = some m' ∧ m'.phase = .completed ∧ m'.status = st ∧
      m'.completion = completionPayload m st s.now m.lost { rank := 0, status := st, address := m.firstLost } := by
  obtain ⟨v, e, hv, x, rfl⟩ := State.foldl_sweepLeft (s := s) (l := stacksOfRun m.address m.count) (left := fun _ => 0) h
  obtain ⟨w, hw, -, -, o, hc⟩ := State.complete_other (status := st) (notch := s.now) (extra := m.lost)
    (x := { rank := 0, status := st, address := m.firstLost }) hv hm hp (by rw [ho]; decide)
  have copied : w.endCopy c m = w := by
    unfold State.endCopy
    rw [ho]
    rfl
  refine ⟨w, _, ?_, hc, rfl, rfl, rfl⟩
  unfold State.sweepNext
  rw [hm]
  dsimp only
  rw [hu]
  dsimp only
  rw [← hst]
  unfold State.finish
  refine congrArg State.replayStep (Eq.trans ?_ (hw.trans copied))
  exact congrArg (fun v : State => v.complete c csn st v.now m.lost { rank := 0, status := st, address := m.firstLost }) e

/-- Settles O23: the acceptance of a SEG.RECODE, the end of one segment's sweep, and the end of the command. -/
theorem recodesAreStagedAndSwept : Obligations.RecodesAreStagedAndSwept := by
  unfold Obligations.RecodesAreStagedAndSwept
  refine ⟨fun f s u c first n code h hf hn hc h0 hfit h2 hp hl hidle hstill hj hmap hflow => ?_,
    fun s v k c csn g m lost hs hi hw hg hm h2 hv => ⟨?_, execSegmentSweep_of hi hw hg hm hv⟩,
    fun s c csn st m hs _ hm ho hp hu hst => State.sweepNext_last hs hm ho hp hu hst⟩
  · exact h.handles (by decide) (by decide) (fun _ => rfl) ((h.middle (by decide) (by decide)).trans
      (bodySegRecode_done hf hn hc h0 hfit h2 hp hl hidle hstill hj hmap hflow))
  · have kept : (s.modStack k fun t => { t with sweep := none, sweepSegment := 0, sweepLeft := 0 }).Canonical :=
      State.modStack_canonical hs fun _ => ⟨rfl, rfl, rfl⟩
    have code := State.sweepSegment_code (g := g) (first := m.swept) kept h2
    rw [hv] at code
    exact code

end Sys2Proof.Machine
end

section
/-! PROOFS. FABRIC.COPY and FABRIC.MIGRATE at the source (R442 to R444). -/

namespace Sys2Proof.Machine

variable {s u v : State} {f : Frame} {c csn n : Nat} {m : Cmd} {b : Beacon}

/-! ## The question to the peer -/

/-- The peer is asked: the frame goes out, and the command waits for the answer. -/
theorem State.askPeer_clear {serial : List Byte} {x : CopyMsg} (h : u.Clear) : u.askPeer f serial x = .later { u with
    wire := u.wire ++ [u.fabricFrame (some serial) (.check x)]
    fabric := { u.fabric with checks := u.fabric.checks ++ [(f, serial)] } } := by
  unfold State.askPeer State.sendFabric
  have clear : (u.modFabric fun y => { y with checks := y.checks ++ [(f, serial)] }).Clear := ⟨h.up, h.clear⟩
  rw [State.send_clear clear]
  rfl

theorem Acts.clear {op : Nat} (h : Acts op f s u c) : u.Clear := by
  have up : s.dev.portUp = true := by
    have := h.delivered.answers
    unfold State.answers at this
    simp only [Bool.and_eq_true] at this
    exact this.1.1.1
  rw [h.state]
  exact ⟨up, h.delivered.clear⟩

theorem bodyFabricCopy_asks {peer ctx src dst : Nat} (hp : le f.payload 0 2 = peer) (hc : le f.payload 2 1 = ctx)
    (hs : le f.payload 8 8 = src) (hd : le f.payload 16 8 = dst) (hn : le f.payload 24 8 = n) (h0 : 0 < n) (h40 : n ≤ 2 ^ 40)
    (hpeer : peer ≤ 4095) (hctx : ctx ≤ 63) (hsrc : src % 65536 = 0) (hdst : dst % 65536 = 0) (hlen : n % 65536 = 0)
    (hb : u.heldPeer peer = some b) (hf : u.copyForeign c src n = false) (hl : legal 0x0E05 c u = none)
    (hw : u.windowRefusal src n = none) (hflow : flowCheck c u = none) : bodyFabricCopy f c u = u.askPeer f b.serial
      { sourceSerial := u.dev.serial, context := ctx, csn := checkTag f, migrate := false, destination := dst, length := n,
        data := u.carveMap src n } := by
  unfold bodyFabricCopy
  dsimp only
  rw [hp, hc, hs, hd, hn, zeroField_false (decide_eq_false (by omega)), hb]
  refine checked_go (firstFailing_eq_none.mpr ?_)
  simp only [List.forall_mem_cons]
  have page {x : Nat} (hx : x % 65536 = 0) : decide (x % pageBytes ≠ 0) = false := decide_eq_false (not_not_intro hx)
  exact ⟨when_eq_none.mpr (decide_eq_false (by omega)), when_eq_none.mpr (decide_eq_false (by omega)),
    when_eq_none.mpr (decide_eq_false (by omega)), when_eq_none.mpr (page hsrc), when_eq_none.mpr (page hdst),
    when_eq_none.mpr (page hlen), when_eq_none.mpr (by rw [hf]; rfl), hl, hw, hflow, by simp⟩

theorem bodyFabricMigrate_asks {peer : Nat} (hp : le f.payload 0 2 = peer) (hpeer : peer ≤ 4095) (hb : u.heldPeer peer = some b)
    (hl : legal 0x0E06 c u = none) (hw : u.migrateWindow c = none) (hflow : flowCheck c u = none) :
    bodyFabricMigrate f c u = u.askPeer f b.serial
      { sourceSerial := u.dev.serial, context := c, csn := checkTag f, migrate := true, destination := 2 ^ 60, length := 1,
        data := (u.grant c).bytes ++ u.windowBytes c } := by
  unfold bodyFabricMigrate
  dsimp only
  rw [hp, hb]
  refine checked_go (firstFailing_eq_none.mpr ?_)
  simp only [List.forall_mem_cons]
  exact ⟨when_eq_none.mpr (decide_eq_false (by omega)), when_eq_none.mpr rfl, hl, hw, hflow, by simp⟩

/-! ## The peer's answers -/

section
variable {h : AckHead} {s₀ : State} (hin : s₀.letIn h.secured = (s, true)) (ht : h.tagOk = true) (ho : h.opcode = 0x0E87)
  (hm : s.fabric.member = true) (hc : s.fabric.claim ≠ 2)
include hin ht ho hm hc

theorem execCopyAck_taken {tag page : Nat} {check ok : Bool} : exec (.copyAck h tag page check ok) s₀ =
    .next (if check then s.checkAnswered tag page ok else s.unitAcked tag page ok) := by
  have part : s.takesPart = true := by simp [State.takesPart, hc]
  change execCopyAck h tag page check ok s₀ = _
  unfold execCopyAck
  rw [State.through_in hin, State.heeds_true ht hm]
  rw [if_neg (by simp [ho])]
  exact event_true part

end

theorem State.checkAnswered_copy {serial : List Byte} {tag : Nat}
    (hf : s.fabric.checks.find? (fun e => checkTag e.1 == tag) = some (f, serial)) (hop : f.opcode.toNat = 0x0E05)
    (hu : u = { s with fabric := { s.fabric with checks := s.fabric.checks.filter fun e => e != (f, serial) } })
    (hl : firstFailing [legal 0x0E05 f.context.toNat u, u.windowRefusal (le f.payload 8 8) (le f.payload 24 8),
      flowCheck f.context.toNat u] = none) : s.checkAnswered tag n true = u.stage
      { stream := f.context.toNat, session := f.session.toNat, number := f.number.toNat, answer := true,
        cmd := { opcode := 0x0E05, frame := f, peer := serial, acceptedAt := u.now, address := le f.payload 8 8,
                 value := le f.payload 16 8, count := le f.payload 24 8 } } := by
  have holds : u.checkHolds f serial = u.stage
      { stream := f.context.toNat, session := f.session.toNat, number := f.number.toNat, answer := true,
        cmd := { opcode := 0x0E05, frame := f, peer := serial, acceptedAt := u.now, address := le f.payload 8 8,
                 value := le f.payload 16 8, count := le f.payload 24 8 } } := by
    unfold State.checkHolds
    dsimp only
    rw [hop, if_neg (by decide), hl]
    rfl
  unfold State.checkAnswered
  rw [hf]
  refine Eq.trans ?_ holds
  rw [hu]
  rfl

theorem State.unitAcked_present {unit : Nat} (hn : csn < 2 ^ 64) (hm : s.cmd c csn = some m) (hp : m.phase ≠ .completed)
    (hu : (s.copyUnits c m)[m.progress]? = some unit) : s.unitAcked (2 ^ 64 * c + csn) unit true = (s.modCmd c csn fun y =>
      { y with progress := y.progress + 1, lost := y.lost + (s.unitBytes c m unit).2.1.length }).copyOn c csn := by
  have hi : (2 ^ 64 * c + csn) / 2 ^ 64 = c := by omega
  have lo : (2 ^ 64 * c + csn) % 2 ^ 64 = csn := by omega
  unfold State.unitAcked
  dsimp only
  rw [hi, lo, hm]
  dsimp only
  rw [if_neg (by simp [hp, hu])]
  rfl

/-! ## The end of a copy -/

theorem State.send_wire_congr {w : WireFrame} (hp : v.dev.portUp = s.dev.portUp) (hs : v.sec = s.sec) (hw : v.wire = s.wire) :
    (v.send w).wire = (s.send w).wire := by
  unfold State.send State.nextTag
  rw [hp, hs]
  cases s.dev.portUp with
  | false => exact hw
  | true =>
    cases s.sec.transmits with
    | none => exact congrArg (· ++ [w.under none]) hw
    | some a => exact congrArg (· ++ [w.under (some _)]) hw

theorem Working.send_wire {w : WireFrame} (h : Working s v) : (v.send w).wire = (s.send w).wire := by
  obtain ⟨_, _, _, _, rfl⟩ := h
  exact State.send_wire_congr rfl rfl rfl

theorem Working.fabricFrame {peer : Option (List Byte)} {x : FabricMsg} (h : Working s v) :
    v.fabricFrame peer x = s.fabricFrame peer x := by
  obtain ⟨_, _, _, _, rfl⟩ := h
  exact State.fabricFrame_congr rfl rfl

theorem Working.serial (h : Working s v) : v.dev.serial = s.dev.serial := by
  obtain ⟨_, _, _, _, rfl⟩ := h
  rfl

theorem Working.modContext {g : Context → Context} : Working s (s.modContext c g) := ⟨s.store, _, _, _, rfl⟩

/-- The pin of a copy or migration is released: a check of length 0 goes to the peer. -/
theorem State.endCopy_copy (h : s.Canonical) (ho : m.opcode = 0x0E05 ∨ m.opcode = 0x0E06) : ∃ w, Working s w ∧
    (∀ d n, w.cmd d n = s.cmd d n) ∧ s.endCopy c m = w.send (w.fabricFrame (some m.peer) (.check {
      sourceSerial := s.dev.serial, context := if m.opcode = 0x0E05 then le m.frame.payload 2 1 else c,
      csn := 2 ^ 64 * c + m.csn, migrate := decide (m.opcode = 0x0E06), destination := m.value, length := 0 })) := by
  refine ⟨s.modContext c fun x => { x with migrating := x.migrating && m.opcode != 0x0E06 }, Working.modContext,
    fun d n => State.cmd_modContext h fun _ => rfl, ?_⟩
  unfold State.endCopy
  rw [if_pos ho]
  rfl

theorem Sent.cmd (h : Sent s v) : v.cmd c n = s.cmd c n := by
  obtain ⟨_, _, _, _, _, _, rfl⟩ := h
  rfl

/-- A copy whose last unit has been acknowledged. -/
theorem State.complete_copy {extra : Nat} (h : s.Canonical) (hm : s.cmd c csn = some m) (ho : m.opcode = 0x0E05 ∨ m.opcode = 0x0E06)
    (hp : m.phase = .working) (hv : s.complete c csn 0 s.now extra { rank := 0, status := 0 } = v) :
    (∃ m', v.cmd c csn = some m' ∧ m'.phase = .completed ∧ m'.status = Status.done) ∧
      v.wire = (s.send (s.fabricFrame (some m.peer) (.check {
        sourceSerial := s.dev.serial, context := if m.opcode = 0x0E05 then le m.frame.payload 2 1 else c,
        csn := 2 ^ 64 * c + m.csn, migrate := decide (m.opcode = 0x0E06), destination := m.value, length := 0 }))).wire := by
  subst hv
  obtain ⟨t, e, ht, work, o, hc⟩ := State.complete_other (status := 0) (notch := s.now) (extra := extra) (x := { rank := 0, status := 0 })
    h hm (by rw [hp]; decide) (by rcases ho with e | e <;> rw [e] <;> decide)
  obtain ⟨w, work', same, e'⟩ := State.endCopy_copy (c := c) ht ho
  have all := work.trans work'
  rw [e, e']
  refine ⟨⟨_, (Sent.send Sent.refl).cmd.trans ((same c csn).trans hc), rfl, rfl⟩, ?_⟩
  rw [all.send_wire, all.fabricFrame, work.serial]

/-! ## The present unit goes out -/

/-- Frames to a peer leave one after another. -/
theorem State.foldl_sendFabric {l : List Nat} {x : State → Nat → FabricMsg} {peer : Option (List Byte)} (h : v.Clear)
    (hx : ∀ w i, x { v with wire := w } i = x v i) : l.foldl (fun s i => s.sendFabric peer (x s i)) v =
      { v with wire := v.wire ++ l.map fun i => v.fabricFrame peer (x v i) } := by
  induction l generalizing v with
  | nil => simp
  | cons i l ih =>
    obtain ⟨u, hu⟩ : ∃ u, u = { v with wire := v.wire ++ [v.fabricFrame peer (x v i)] } := ⟨_, rfl⟩
    have sent : v.sendFabric peer (x v i) = u := (State.send_clear h).trans hu.symm
    have frame (j : Nat) : u.fabricFrame peer (x u j) = v.fabricFrame peer (x v j) := by
      rw [State.fabricFrame_congr (s := v) (by rw [hu]) (by rw [hu]), hu, hx]
    rw [List.foldl_cons, sent, ih (by rw [hu]; exact ⟨h.up, h.clear⟩)
      (fun w j => by rw [hu]; exact (hx w j).trans (hx _ j).symm), funext frame, hu, List.map_cons]
    exact congrArg (fun w => ({ v with wire := w } : State)) (List.append_assoc v.wire [_] _)

theorem State.sendPieces_clear {unit : Nat} {data : List Byte} (h : v.Clear) (ho : m.opcode = 0x0E05) :
    v.sendPieces c m unit data = { v with
      wire := v.wire ++ (List.range ((data.length + 8191) / 8192)).map fun i =>
        v.fabricFrame (some m.peer) (.copy {
          sourceSerial := v.dev.serial, context := le m.frame.payload 2 1, csn := 2 ^ 64 * c + m.csn, migrate := false,
          destination := unit, length := data.length, offset := 8192 * i, data := slice data (8192 * i) 8192 }) } := by
  have context : m.peerContext c = le m.frame.payload 2 1 := if_pos ho
  have kind : decide (m.opcode = 0x0E06) = false := decide_eq_false (by rw [ho]; decide)
  unfold State.sendPieces copyTag ceilDiv
  rw [context, kind]
  exact State.foldl_sendFabric h fun _ _ => rfl

theorem State.copyOn_last (hm : s.cmd c csn = some m) (hu : (s.copyUnits c m)[m.progress]? = none) :
    s.copyOn c csn = (s.complete c csn 0 s.now (if m.opcode = 0x0E06 then m.lost else 0) { rank := 0, status := 0 }).replayStep := by
  unfold State.copyOn
  rw [hm]
  dsimp only
  rw [hu]
  rfl

theorem State.copyOn_present {unit : Nat} {data : List Byte} (hm : s.cmd c csn = some m)
    (hu : (s.copyUnits c m)[m.progress]? = some unit) (hc : s.fabric.claim ≠ 2)
    (hp : ∀ e ∈ s.unitPlaces c m unit, s.reachHeld e.1 e.2 = false) (hv : s.unitBytes c m unit = (v, data, none)) :
    s.copyOn c csn = v.sendPieces c m unit data := by
  have part : s.takesPart = true := by simp [State.takesPart, hc]
  have free : ((s.unitPlaces c m unit).any fun e => s.reachHeld e.1 e.2) = false :=
    List.any_eq_false.mpr fun e he => by simp [hp e he]
  unfold State.copyOn
  rw [hm]
  dsimp only
  rw [hu]
  dsimp only
  rw [part, free, if_neg (by simp), hv]

theorem State.unitBytes_accessed {unit : Nat} : AccessedFst s (s.unitBytes c m unit) := by
  unfold State.unitBytes
  split
  · exact Reaches.refl
  split
  · exact Reaches.refl
  · unfold State.readPlaces
    refine Reaches.fstFoldl (r := (s, ([] : List Byte), (none : Option Nat))) Reaches.refl.fst fun r e hr => ?_
    exact Reaches.readDevice (t := r.1) hr

theorem execCopyPageResend_of (hm : s.cmd c csn = some m) (ho : m.opcode = 0x0E05) (hp : m.phase = .working) :
    exec (.copyPageResend c csn) s = .next (if m.begun then s.copyOn c csn else s.startCopy c csn) := by
  change execCopyPageResend c csn s = _
  unfold execCopyPageResend
  rw [hm]
  exact event_true (by rw [ho, hp]; rfl)

theorem State.startCopy_copy (hm : s.cmd c csn = some m) (ho : m.opcode = 0x0E05) :
    s.startCopy c csn = (s.modCmd c csn fun y => { y with progress := 0, lost := 0, begun := true }).copyOn c csn := by
  unfold State.startCopy
  rw [hm]
  exact if_pos (by rw [ho]; decide)

/-- Settles O36: what is asked of the peer, what its answers do, and what of the present unit goes out. -/
theorem theSourceCopiesUnitByUnit : Obligations.TheSourceCopiesUnitByUnit := by
  unfold Obligations.TheSourceCopiesUnitByUnit
  refine ⟨fun f s u c peer ctx src dst n b h hp hc hs hd hn h0 h40 hpeer hctx hsrc hdst hlen hb hf hl hw hflow => ?_,
    fun f s u c peer b h hp hpeer hb hl hw hflow => ?_,
    fun h s₀ s u f serial n hin ht ho hm hc hf hop hu hl => ?_,
    fun h s₀ s c csn unit m hin ht ho hm hc hn hcmd hp hu => ?_,
    fun s u v c csn m hs _ hm ho hp hu _ hv he => ⟨?_, State.complete_copy hs hm ho hp hv⟩,
    fun s c csn unit m hm ho hp hu hc hplaces => ⟨fun v data hbegun hclear hv => ?_, fun hbegun => ?_⟩⟩
  · exact h.handles (by decide) (by decide) (fun _ => rfl) (((h.fabric (by decide) (by decide) (by decide)).trans
      (bodyFabricCopy_asks hp hc hs hd hn h0 h40 hpeer hctx hsrc hdst hlen hb hf hl hw hflow)).trans (State.askPeer_clear h.clear))
  · exact h.handles (by decide) (by decide) (fun _ => rfl) (((h.fabric (by decide) (by decide) (by decide)).trans
      (bodyFabricMigrate_asks hp hpeer hb hl hw hflow)).trans (State.askPeer_clear h.clear))
  · rw [execCopyAck_taken hin ht ho hm hc, if_pos rfl, State.checkAnswered_copy hf hop hu hl]
  · rw [execCopyAck_taken hin ht ho hm hc, if_neg (by decide), State.unitAcked_present hn hcmd hp hu]
  · rw [State.copyOn_last hm hu, hv, he]
  · have read : AccessedFst s (s.unitBytes c m unit) := State.unitBytes_accessed
    rw [hv] at read
    have clear : v.Clear := by
      obtain ⟨w, rfl, -⟩ : Accessed s v := read
      exact ⟨hclear.up, hclear.clear⟩
    have serial : v.dev.serial = s.dev.serial := by
      obtain ⟨w, rfl, -⟩ : Accessed s v := read
      rfl
    rw [execCopyPageResend_of hm ho hp, if_pos hbegun, State.copyOn_present hm hu hc hplaces hv,
      State.sendPieces_clear clear ho, serial]
  · rw [execCopyPageResend_of hm ho hp, if_neg (by simp [hbegun]), State.startCopy_copy hm ho]

end Sys2Proof.Machine
end

section
/-! PROOFS. CTX.SAVE into the command window of in-bank compute (R195, R329). -/

namespace Sys2Proof.Machine

/-- A plan without work. -/
def idlePlan : Plan :=
  { id := 1, level := 0, ganged := false, entries := 0, tables := [], certs := [], code := [], blocks := [], streams := [], groups := []
    querns := [], samplers := [], needs := {}, consts := [] }

/-- A CTX.SAVE of context 0 to address 0, with room for 64 bytes. -/
def savePayload : List Byte := zeros 8 ++ leBytes 8 64

def saveFrame : Frame := sumsSet { opcode := BitVec.ofNat 16 0x0504, session := 1, context := 0, number := 1, payload := savePayload }

/-- Page 0 belongs to context 0, and lies in the command window of pseudo-channel 0, which computes. -/
def computing : State :=
  { bench with
    contexts := [(0, { state := .open, plans := [idlePlan] })]
    pages := [(0, { mapped := true })]
    memStacks := [(0, { pcs := [(0, { mode := .compute, segCount := 1 })] })] }

theorem computing_canonical : computing.Canonical :=
  { bench_canonical with
    contexts := ⟨by decide, by simp [computing, Context.Canonical]⟩
    pages := by decide
    memStacks := ⟨by decide, by
      intro e he
      obtain rfl := List.mem_singleton.mp he
      exact ⟨by decide, by decide, by decide⟩⟩ }

theorem computing_taken : Taken 0x0504 saveFrame computing { isOpen := true, context := 0 } :=
  ⟨rfl, ⟨rfl, rfl, rfl, rfl, rfl⟩, ⟨rfl, rfl, rfl, by decide, rfl⟩, rfl, ⟨rfl, rfl, rfl, rfl, rfl⟩⟩

theorem computing_acts : Acts 0x0504 saveFrame computing (computing.noted saveFrame) 0 where
  delivered :=
    { computing_taken.numbered computing_canonical sumsSet_tag sumsSet_crc with
      privilege := by decide, generation := by decide, form := by decide }
  state := rfl
  bound := by decide

/-- The save is refused with REFUSED.STATE. -/
theorem computing_refuses : bodyCtxSave saveFrame 0 (computing.noted saveFrame) =
    .reply (refuseState 4 0 1 1) (computing.noted saveFrame) := by
  unfold bodyCtxSave
  dsimp only
  rw [zeroField_false (by decide)]
  exact checked_refused (by decide +kernel)

/-- Refutes O11: a CTX.SAVE to a page that its context may write is refused with REFUSED.STATE where the page is the command window of a
pseudo-channel in COMPUTE (R195). -/
theorem not_plansAndImagesAreStaged : ¬Obligations.PlansAndImagesAreStaged := by
  unfold Obligations.PlansAndImagesAreStaged
  rintro ⟨-, -, -, hsave, -⟩
  obtain ⟨u, hu⟩ : ∃ u, u = computing.noted saveFrame := ⟨_, rfl⟩
  have hacts : Acts 0x0504 saveFrame computing u 0 := hu ▸ computing_acts
  have hlen : u.imageLength 0 = 64 := by rw [hu]; decide
  have staged := hsave saveFrame computing u 0 0 64 hacts (by decide) (by decide) (by decide) (by decide) (by rw [hlen]) (by decide)
    (by rw [hlen, hu]; decide +kernel) (by rw [hlen, hu]; decide +kernel) (by rw [hlen, hu]; decide +kernel) (by rw [hu]; decide)
    (by rw [hu]; decide) (by rw [hu]; decide)
  have refused : Handles (.ctxSave saveFrame) saveFrame computing (.reply (refuseState 4 0 1 1) u) :=
    hacts.handles (by decide) (by decide) (fun _ => rfl) ((hacts.low (by decide)).trans (hu ▸ computing_refuses))
  have held : (u.session saveFrame.session.toNat).held = [] := by rw [hu]; decide
  have same := (staged computing computing_taken.letIn).symm.trans (refused computing computing_taken.letIn)
  rw [State.answer_reply (u := u) ⟨fun h => absurd h.1 (by decide), by decide⟩ (by rw [hu]; decide)
    ⟨⟨by rw [hu]; decide, by rw [hu]; decide⟩, by rw [hu]; decide⟩ (by rw [hu]; decide) (by rw [hu]; decide) held] at same
  have stays : ∀ t : State, t.sessions = u.sessions → ∀ a sid n op,
      (State.answer a sid n op (.later t)).takeHeld saveFrame.session.toNat 64 = t := fun t ht a sid n op =>
    
    State.takeHeld_empty (show (sget {} t.sessions _).held = [] by rw [ht]; exact held)
  rw [stays (u.stage _) rfl] at same
  have staging := congrArg (fun t : State => t.journal.staging.length) (Host.Outcome.next.inj same)
  have empty : u.journal.staging = [] := by rw [hu]; rfl
  simp [State.stage, State.modJournal, State.answered, State.modSession, empty] at staging

end Sys2Proof.Machine
end

section
/-! PROOFS. RUN.UNBOOK of a booking whose context moves to another module (R349, R444). -/

namespace Sys2Proof.Machine

variable {s t u : State} {f : Frame} {op c : Nat} {i : Instr} {r : Reply}

/-- A command that is answered at once leaves a frame more in the output. -/
theorem Acts.answer_goes_out (h : Acts op f s u c) (hl : s.letIn f.path.secured = (s, true)) (hp : Prompt f.opcode.toNat r)
    (hr : Handles i f s (.reply r u)) (hs : swf {} u.sessions = true) (hu : u.Plain)
    (ho : (u.session f.session.toNat).isOpen = true) (he : (u.session f.session.toNat).endAfter = none)
    (hh : (u.session f.session.toNat).held = []) (ht : Runs i f s t) : t.out.length = u.out.length + 1 := by
  have same := (ht s hl).symm.trans (hr s hl)
  rw [State.answer_reply hp hs hu ho he hh] at same
  rw [Host.Outcome.next.inj same]
  exact List.length_append

/-- Booking 7 belongs to context 0. -/
def movingBooking : Booking :=
  { id := 7, context := 0, hoppers := 0, quarters := 0, shares := 0, draw := 320, period := 1024, span := 1000, count := 1, first := 4096
    lead := 0 }

/-- Context 0 moves to another module. -/
def moving : State :=
  { bench with
    contexts := [(0, { state := .open, migrating := true })]
    sessions := [(1, { isOpen := true, management := true })]
    schedule := { bench.schedule with bookings := [movingBooking] } }

def unbookFrame : Frame :=
  sumsSet { opcode := BitVec.ofNat 16 0x0303, session := 1, context := 255, number := 1, payload := leBytes 4 7 ++ zeros 4 }

theorem moving_canonical : moving.Canonical :=
  { bench_canonical with contexts := ⟨by decide, by simp [moving, Context.Canonical]⟩, sessions := by decide }

theorem moving_taken : Taken 0x0303 unbookFrame moving { isOpen := true, management := true } :=
  ⟨rfl, ⟨rfl, rfl, rfl, rfl, rfl⟩, ⟨rfl, rfl, rfl, by decide, rfl⟩, rfl, ⟨rfl, rfl, rfl, rfl, rfl⟩⟩

theorem moving_acts : Acts 0x0303 unbookFrame moving (moving.noted unbookFrame) 255 where
  delivered :=
    { moving_taken.numbered moving_canonical sumsSet_tag sumsSet_crc with
      privilege := by decide, generation := by decide, form := by decide }
  state := rfl
  bound := by decide

theorem moving_refuses : bodyRunUnbook unbookFrame (moving.noted unbookFrame) =
    .reply (refuseState 1 0 1 (maskOf [1, 2, 3])) (moving.noted unbookFrame) := by
  unfold bodyRunUnbook
  exact checked_refused (by decide +kernel)

/-- Refutes O14: RUN.UNBOOK of a booking of a context that moves to another module is refused with REFUSED.STATE (R444). -/
theorem not_bookingsAreMadeAndTaken : ¬Obligations.BookingsAreMadeAndTaken := by
  unfold Obligations.BookingsAreMadeAndTaken
  rintro ⟨-, hunbook, -⟩
  obtain ⟨u, hu⟩ : ∃ u, u = moving.noted unbookFrame := ⟨_, rfl⟩
  have hacts : Acts 0x0303 unbookFrame moving u 255 := hu ▸ moving_acts
  obtain ⟨t, ⟨runs, out, -⟩, -⟩ := hunbook unbookFrame moving u 255 7 hacts (by decide) (by rw [hu]; decide) (by rw [hu]; decide)
  have refused : Handles (.runUnbook unbookFrame) unbookFrame moving (.reply (refuseState 1 0 1 (maskOf [1, 2, 3])) u) :=
    hacts.handles (by decide) (by decide) (fun _ => rfl) ((hacts.low (by decide)).trans (hu ▸ moving_refuses))
  have longer := hacts.answer_goes_out moving_taken.letIn ⟨fun h => absurd h.1 (by decide), by decide⟩ refused (by rw [hu]; decide)
    ⟨⟨by rw [hu]; decide, by rw [hu]; decide⟩, by rw [hu]; decide⟩ (by rw [hu]; decide) (by rw [hu]; decide) (by rw [hu]; decide) runs
  have shown : u.out = moving.out := by rw [hu]; rfl
  rw [out, shown] at longer
  omega

end Sys2Proof.Machine
end

section
/-! PROOFS. A RUN.STEP that the journal holds while its context drains (R402). -/

namespace Sys2Proof.Machine

/-- A RUN.STEP without a booking, waiting for the journal. -/
def waitingStep : Staged :=
  { stream := 0, session := 1, number := 1, answer := true, cmd := { opcode := 0x0301, frame := sumsSet { opcode := BitVec.ofNat 16 0x0301, session := 1, context := 0, number := 1 } } }

/-- Context 0 drains its tags; the step's record is at the front of the journal's staging area. -/
def draining : State :=
  { bench with
    contexts := [(0, { state := .open, draining := true })]
    journal := { bench.journal with staging := [waitingStep] } }

theorem draining_canonical : draining.Canonical :=
  { bench_canonical with contexts := ⟨by decide, by simp [draining, Context.Canonical]⟩ }

/-- The command enters its stream held, not booked. -/
theorem draining_holds : ((draining.unstage.journaled waitingStep).stream 0).cmds.map (·.phase) = [.held] := by
  decide +kernel

/-- Refutes O12: a RUN.STEP that enters the stream of a context which drains waits there for the restart; it is not booked (R402). -/
theorem not_stepsAreAdmittedAndJournaled : ¬Obligations.StepsAreAdmittedAndJournaled := by
  unfold Obligations.StepsAreAdmittedAndJournaled
  rintro ⟨-, hack, -⟩
  obtain ⟨⟨t, runs, -, ⟨m, cmds, -, booked, -, -⟩, -⟩, -⟩ := hack draining waitingStep [] 1 0 draining_canonical rfl rfl rfl rfl rfl
    ⟨⟨rfl, rfl⟩, by decide⟩ (by decide) rfl rfl rfl
  have acknowledged : exec (.journalWriteAck true) draining = .next (draining.unstage.journaled waitingStep) := rfl
  obtain rfl := Host.Outcome.next.inj (acknowledged.symm.trans runs)
  have phases := draining_holds
  have before : (draining.stream waitingStep.stream).cmds = [] := rfl
  obtain ⟨isBooked, -⟩ := booked (by decide)
  rw [show (0 : Nat) = waitingStep.stream from rfl, cmds, before, List.nil_append, List.map_singleton, isBooked] at phases
  exact absurd phases (by decide)

end Sys2Proof.Machine
end

section
/-! PROOFS. SESSION.HELLO and SESSION.OPEN, outside any session (R307, R454, R455). -/

namespace Sys2Proof.Machine

variable {s t u : State} {f : Frame} {op : Nat} {i : Instr} {r : Reply}

/-! ## A frame outside any session -/

theorem unnumbered_eq_true (hk : f.kind = 0) (hs : f.session = 0) (ho : f.opcode = 0x0101 ∨ f.opcode = 0x0102) : unnumbered f = true := by
  unfold unnumbered
  rcases ho with ho | ho <;> simp [hk, hs, ho]

/-- What such a frame does when its command answers `r` and leaves `t`. -/
theorem Arrives.runs_unnumbered (h : Arrives f s) (hk : f.kind = 0) (hs : f.session = 0) (ho : f.opcode.toNat = op)
    (hop : f.opcode = 0x0101 ∨ f.opcode = 0x0102) (hrow : ∀ s0 : State, exec i s0 = .next (s0.receiveAs op f))
    (hallow : f.opcode = 0x0101 → s.helloAllowed = true)
    (hact : s.actUnnumbered f = u) : Runs i f s u := by
  intro s0 h0
  have hkind : f.kind ≠ 5 := by rw [hk]; decide
  have taken : ¬(f.kind = 5 ∨ (f.opcode.toNat ≠ op ∧ (catalogue.contains f.opcode.toNat : Bool))) := by
    rintro (e | ⟨e, -⟩)
    · exact hkind e
    · exact e ho
  have allowed : ¬(f.opcode = 0x0101 ∧ f.kind = 0 ∧ (!s.helloAllowed) = true) := by
    rintro ⟨e, -, hn⟩
    rw [hallow e] at hn
    exact absurd hn (by decide)
  rw [hrow]
  unfold State.receiveAs
  dsimp only
  rw [if_neg taken, h.receive h0]
  unfold State.receiveFrame
  dsimp only
  rw [h.sound, if_neg (by decide), if_neg allowed, if_pos (unnumbered_eq_true hk hs hop), hact]

/-- The reply to such a frame carries no session. -/
theorem State.formed_unnumbered {o : OutFrame} (ho : o.session = 0) : s.formed o = t.formed o := by
  unfold State.formed
  rw [ho, if_pos rfl, if_pos rfl]

theorem Arrives.legal_always (h : Arrives f s) (hm : legalMask op = 254) : legalDevice op s = none :=
  legalDevice_always hm (State.ne_off_of_answers h.answers)

/-! ## SESSION.HELLO (R454) -/

theorem Arrives.act_hello (h : Arrives f s) (ho : f.opcode = 0x0101) (hform : formCheck 0x0101 f.payload = none) :
    s.actUnnumbered f = { s with
      sec := { s.sec with
        hellos := s.sec.hellos + 1, challenges := (s.freshChallenge :: s.sec.challenges).take 16, helloRound := s.now / 1024
        hellosThisRound := if s.sec.helloRound = s.now / 1024 then s.sec.hellosThisRound + 1 else 1 }
      out := s.out ++ [s.formed (replyFrame 0x0101 0 f.context.toNat 0 0 0
        ({ data := s.sec.helloData s.freshChallenge } : Reply).payload f.path)] } := by
  have hop : f.opcode.toNat = 0x0101 := by rw [ho]; rfl
  have legal : legalDevice 0x0101 s.countHello = none := h.legal_always rfl
  unfold State.actUnnumbered
  dsimp only
  rw [hop, if_pos rfl, checked_go (firstFailing_eq_none.mpr (by simp [hform, legal])), if_pos rfl]
  unfold bodyHello done
  dsimp only
  have plain : (s.countHello.modSec fun x =>
      { x with hellos := x.hellos + 1, challenges := (s.countHello.freshChallenge :: x.challenges).take 16 }).Plain :=
    ⟨⟨h.open_.up, h.clear⟩, h.plain⟩
  refine (State.emit_plain plain).trans ?_
  rw [State.formed_unnumbered (t := s) rfl]
  rfl

/-! ## SESSION.OPEN (R307, R454, R455) -/

/-- What both kinds of credential ask of the parameters and of the challenge `e`. -/
structure Opens (f : Frame) (s : State) (e : Challenge) : Prop where
  context : le f.payload 0 1 ≤ 63 ∨ (le f.payload 0 1 = 255 ∧ le f.payload 1 1 = 1)
  privilege : le f.payload 1 1 ≤ 1
  maxPayload : 1024 ≤ le f.payload 2 2 ∧ le f.payload 2 2 ≤ 8704
  idle : 1048576 ≤ le f.payload 4 4 ∧ le f.payload 4 4 ≤ 1073741824
  slot : le f.payload 16 1 ≤ 15
  challenge : s.challengeOf (slice f.payload 20 32) = some e

/-- The challenge is used up. -/
def State.withoutChallenge (s : State) (e : Challenge) : State := s.modSec fun x => { x with challenges := x.challenges.filter (· != e) }

/-- A credential of an enrolled operator. -/
theorem Opens.by_operator {e : Challenge} (h : Opens f s e) (hl : le f.payload 8 2 = 296) (hk : le f.payload 17 1 = 0)
    (hu : (s.sec.operator (le f.payload 16 1)).used = true)
    (hs : s.credentialSigned f.payload (s.sec.operator (le f.payload 16 1)).key = true)
    (hp : le f.payload 1 1 ≤ (s.sec.operator (le f.payload 16 1)).ceiling)
    (hm : le f.payload 0 1 = 255 ∨ (s.sec.operator (le f.payload 16 1)).mask.getLsbD (le f.payload 0 1) = true)
    (hn : s.openSessions < 256) :
    bodyOpen f s = (s.withoutChallenge e).openSession f (le f.payload 16 1) (sessionKeys e.bytes e.secret (slice f.payload 52 97)) := by
  obtain ⟨hc, hv, ⟨hm0, hm1⟩, ⟨hi0, hi1⟩, hslot, hch⟩ := h
  unfold bodyOpen
  dsimp only
  rw [zeroField_false (decide_eq_false (by omega)), checked_go, hch, hk]
  · rfl
  rw [firstFailing_eq_none]
  simp [hch, hk, hl, hu, hs, hp, hn, when_eq_none]
  exact ⟨by omega, by omega, hv, hm0, ⟨hi0, hi1⟩, by omega, hslot, hm.resolve_left⟩

/-- A credential of the device key with an authorisation of the factory key. -/
theorem Opens.by_factory {e : Challenge} (h : Opens f s e) (hl : le f.payload 8 2 = 552) (hk : le f.payload 17 1 = 1)
    (ha : s.authorised f.payload 312 2 s.sec.operatorSequence = true)
    (hs : s.credentialSigned f.payload (slice f.payload 344 97) = true) :
    bodyOpen f s = ((s.withoutChallenge e).replaceOperators (slice f.payload 344 97)).openSession f 0
      (sessionKeys e.bytes e.secret (slice f.payload 52 97)) := by
  obtain ⟨hc, hv, ⟨hm0, hm1⟩, ⟨hi0, hi1⟩, hslot, hch⟩ := h
  unfold bodyOpen
  dsimp only
  rw [zeroField_false (decide_eq_false (by omega)), checked_go, hch, hk]
  · rfl
  rw [firstFailing_eq_none]
  simp [hch, hk, hl, ha, hs, when_eq_none]
  omega

/-- The session that SESSION.OPEN opens. -/
def State.opened (s : State) (f : Frame) (slot : Nat) (keys : List Byte) : Session :=
  { isOpen := true, context := le f.payload 0 1, management := decide (le f.payload 1 1 = 1), maxPayload := le f.payload 2 2
    idleTimeout := le f.payload 4 4, lastFrame := s.uptime, slot := slot, path := f.path, openedOrder := s.nextSession, next := 1
    tagKey := keys.take 32, wrapKey := keys.drop 32 }

/-- The reply to SESSION.OPEN (R307). -/
def State.openReply (s : State) (f : Frame) : OutFrame :=
  s.formed (replyFrame 0x0102 0 f.context.toNat 0 0 0
    ({ data := leBytes 4 s.nextSession ++ leBytes 2 (s.generationOf (le f.payload 0 1)) ++ zeros 2 ++
         leBytes 8 ((s.stream (le f.payload 0 1)).sentThrough + 1) } : Reply).payload f.path)

/-- The device after it. -/
def State.withOpened (s : State) (f : Frame) (slot : Nat) (keys : List Byte) : State :=
  { s with
    sessions := sput {} s.sessions s.nextSession (s.opened f slot keys), nextSession := s.nextSession + 1
    out := s.out ++ [s.openReply f] }

theorem State.withOpened_session_self {slot : Nat} {keys : List Byte} (hs : swf {} s.sessions = true) :
    (s.withOpened f slot keys).session s.nextSession = s.opened f slot keys := by
  unfold State.session State.withOpened
  dsimp only
  exact sget_sput_self hs

theorem State.withOpened_session_other {slot n : Nat} {keys : List Byte} (hs : swf {} s.sessions = true) (hn : n ≠ s.nextSession) :
    (s.withOpened f slot keys).session n = s.session n := by
  unfold State.session State.withOpened
  dsimp only
  exact sget_sput_other hs hn

theorem Arrives.act_open {v : State} {slot : Nat} {keys : List Byte} (h : Arrives f s) (ho : f.opcode = 0x0102)
    (hform : formCheck 0x0102 f.payload = none) (hv : v.Plain) (hb : bodyOpen f s = v.openSession f slot keys) :
    s.actUnnumbered f = v.withOpened f slot keys := by
  have hop : f.opcode.toNat = 0x0102 := by rw [ho]; rfl
  have legal : legalDevice 0x0102 s = none := h.legal_always rfl
  obtain ⟨⟨up, clear⟩, injections⟩ := hv
  have plain : State.Plain { v.setSession v.nextSession (v.opened f slot keys) with nextSession := v.nextSession + 1 } :=
    ⟨⟨up, clear⟩, injections⟩
  unfold State.actUnnumbered
  dsimp only
  rw [hop, if_neg (by decide), checked_go (firstFailing_eq_none.mpr (by simp [hform, legal])), if_neg (by decide), hb]
  refine (State.emit_plain plain).trans ?_
  unfold State.withOpened State.openReply
  rw [State.formed_unnumbered (t := v) rfl]
  rfl

/-- An open session stays in a family whose every session is to end. -/
theorem State.replaceOperators_session {n : Nat} {key : List Byte} (hs : swf {} s.sessions = true) (ho : (s.session n).isOpen = true) :
    (s.replaceOperators key).session n = { s.session n with ending := true } := by
  unfold State.session State.replaceOperators
  dsimp only
  refine ((mem_iff_sget (swf_smap hs)).mp (List.mem_filter.mpr ⟨List.mem_map.mpr ⟨(n, s.session n), ?_, rfl⟩, ?_⟩)).2
  · exact (mem_iff_sget hs).mpr ⟨fun e => by rw [e] at ho; exact absurd ho (by decide), rfl⟩
  · exact decide_eq_true fun e => by rw [show (s.session n).isOpen = false from congrArg Session.isOpen e] at ho; exact absurd ho (by decide)

/-- Settles O7: both commands pass their checks, and act outside any session. -/
theorem sessionsAreOpened : Obligations.SessionsAreOpened := by
  unfold Obligations.SessionsAreOpened
  refine ⟨?hello, ?opens⟩
  case hello =>
    rintro f s e h hk ho hs hform hallow rfl
    exact ⟨_, h.runs_unnumbered hk hs (op := 0x0101) (by rw [ho]; rfl) (.inl ho) (fun _ => rfl) (fun _ => hallow) (h.act_hello ho hform),
      rfl, rfl, rfl⟩
  case opens =>
    rintro f s h hk ho hs hform p c slot e rfl rfl rfl hc hp hm0 hm1 hi0 hi1 hslot hch
    have given : Opens f s e := ⟨hc, hp, ⟨hm0, hm1⟩, ⟨hi0, hi1⟩, hslot, hch⟩
    have runs {v : State} {n : Nat} {keys : List Byte} (hv : v.Plain) (hb : bodyOpen f s = v.openSession f n keys) :=
      h.runs_unnumbered (i := .sessionOpen f) hk hs (op := 0x0102) (by rw [ho]; rfl) (.inr ho) (fun _ => rfl)
        (fun e => absurd (ho.symm.trans e) (by decide)) (h.act_open ho hform hv hb)
    refine ⟨?operator, ?factory⟩
    case operator =>
      intro hlen hkind hused hsigned hpriv hmask hroom
      have plain : (s.withoutChallenge e).Plain := ⟨⟨h.open_.up, h.clear⟩, h.plain⟩
      obtain ⟨v, hv⟩ : ∃ v, v = s.withoutChallenge e := ⟨_, rfl⟩
      have sessions : swf {} v.sessions = true := hv ▸ h.canonical.sessions
      refine ⟨_, runs plain (given.by_operator hlen hkind hused hsigned hpriv hmask hroom), ?_⟩
      rw [← hv]
      have next : v.nextSession = s.nextSession := by rw [hv]; rfl
      refine ⟨next ▸ (State.withOpened_session_self sessions).trans (by rw [hv]; rfl), ?_, fun i hi => ?_, ?_, ?_, ?_⟩
      · exact congrArg (· + 1) next
      · exact (State.withOpened_session_other sessions (next ▸ hi)).trans (by rw [hv]; rfl)
      all_goals rw [hv]; rfl
    case factory =>
      intro hlen hkind hauth hsigned
      obtain ⟨w, hw⟩ : ∃ w, w = s.withoutChallenge e := ⟨_, rfl⟩
      obtain ⟨v, hv⟩ : ∃ v, v = w.replaceOperators (slice f.payload 344 97) := ⟨_, rfl⟩
      have sessions : swf {} v.sessions = true := by rw [hv, hw]; exact swf_smap (f := fun _ (x : Session) => { x with ending := true }) h.canonical.sessions
      obtain ⟨l, hl⟩ : ∃ l : Sparse Operator,
        l = sput {} [] 0 { used := true, ceiling := 1, mask := BitVec.ofNat 64 (2 ^ 64 - 1), key := slice f.payload 344 97 } := ⟨_, rfl⟩
      obtain ⟨slots, -, sec⟩ := Security.putTable_frame (x := w.sec) (l := l)
      have table : v.sec = w.sec.putTable l := by rw [hv, hl]; rfl
      have plain : v.Plain := ⟨⟨by rw [hv, hw]; exact h.open_.up, by rw [table, sec, hw]; exact h.clear⟩, by rw [hv, hw]; exact h.plain⟩
      refine ⟨_, runs plain (hv ▸ hw ▸ given.by_factory hlen hkind hauth hsigned), ?_⟩
      have next : v.nextSession = s.nextSession := by rw [hv, hw]; rfl
      have self : (v.withOpened f 0 (sessionKeys e.bytes e.secret (slice f.payload 52 97))).session s.nextSession = _ :=
        next ▸ State.withOpened_session_self sessions
      have operators : v.sec.operators = l := table ▸ slots
      refine ⟨congrArg Session.isOpen self, congrArg Session.slot self, congrArg Session.context self, congrArg Session.ending self, 
        congrArg (· + 1) next, fun i hi open_ => ?_, ?_, fun i hi => ?_, ?_, ?_⟩
      · exact (State.withOpened_session_other sessions (next ▸ hi)).trans
          (hv ▸ (State.replaceOperators_session (hw ▸ h.canonical.sessions) (hw ▸ open_)).trans (by rw [hw]; rfl))
      · exact (congrArg (fun l => sget ({} : Operator) l 0) (operators.trans hl)).trans (sget_sput_self rfl)
      · exact congrArg Operator.used ((congrArg (fun l => sget ({} : Operator) l i) (operators.trans hl)).trans (sget_sput_other rfl hi))
      · exact (congrArg Security.operatorSequence (table.trans sec)).trans (by rw [hw]; rfl)
      · rw [hv, hw]; rfl

end Sys2Proof.Machine
end

section
/-! PROOFS. A RESULT action behind a frame that its receiver cannot take whole (R324). -/

namespace Sys2Proof.Machine

/-- A RUN.STEP with a running RESULT action: a frame with records 0 and 1 was handed off before, and record 2 is ready. -/
def handingOff : Cmd :=
  { csn := 1, opcode := 0x0301, phase := .booked, records := [(2, [0])], handed := 2, resultFrames := [(0, 2)]
    frame := sumsSet { opcode := BitVec.ofNat 16 0x0301, session := 1, context := 0, number := 1 }
    actions := [{ entry := { action := 6, argument := 0, units := 0, offsets := [], windows := [] }, phase := .running }] }

/-- Its session takes one record in a frame. -/
def narrow : State :=
  { bench with
    contexts := [(0, { state := .open, stream := { cmds := [handingOff] } })]
    sessions := [(1, { isOpen := true, context := 0, maxPayload := 40 })] }

theorem narrow_canonical : narrow.Canonical :=
  { bench_canonical with contexts := ⟨by decide, by simp [narrow, Context.Canonical]⟩, sessions := by decide }

/-- The handoff splits the frame that was handed off before. -/
theorem narrow_splits : (match exec (.resultFrameHandoff 0 1) narrow with
    | .next t => (t.cmd 0 1).map (·.resultFrames)
    | _ => none) = some [(0, 1), (1, 1), (2, 1)] := by
  decide +kernel

/-- Refutes O47: the handoff of a frame cuts those before it to what the receiver takes, so that they are not kept as they were. -/
theorem not_actionsFollowTheirTable : ¬Obligations.ActionsFollowTheirTable := by
  unfold Obligations.ActionsFollowTheirTable
  rintro ⟨-, -, -, -, -, -, -, -, -, hand⟩
  obtain ⟨t, l, runs, -, -, -, kept, -⟩ := hand narrow 0 1 1 handingOff (some 1) narrow_canonical (by decide) rfl (by decide) rfl
    (by decide) (by decide) ⟨_, List.mem_cons_self, rfl, rfl⟩ ⟨⟨rfl, rfl⟩, by decide⟩
  have split := narrow_splits
  rw [runs] at split
  dsimp only at split
  rw [kept, Option.map_some] at split
  exact absurd split (by decide)

end Sys2Proof.Machine
end

section
/-! PROOFS. The links of a piece are noted at the command it works for, in the device stream too (R137, R300). -/

namespace Sys2Proof.Machine

/-- A piece that core 0 reads from the scratchpad of die 1. -/
def farPiece : Piece := { number := 0, srcSpace := 1, srcCore := 0, src := scratchBase 1, dstSpace := 0, dstCore := 0, dst := 0, length := 64 }

def farChannel : Channel :=
  { state := .running, ready := [farPiece], queue := [{ bytes := zeros 64, item := 0, entry := 0, context := 255, csn := 1, action := 0 }] }

/-- A command of the device stream with one action. -/
def deviceCmd : Cmd :=
  { csn := 1, frame := sumsSet { opcode := BitVec.ofNat 16 0x0801, session := 1, context := 255, number := 1 }
    actions := [{ entry := { action := 2, argument := 0, units := 0, offsets := [], windows := [] } }] }

/-- Channel 0 of core 0 works for it. -/
def marking : State :=
  { bench with
    devStream := { cmds := [deviceCmd] }
    cores := [(bench.physical 0, { channels := [(0, farChannel)] })] }

theorem marking_canonical : marking.Canonical :=
  { bench_canonical with
    cores := ⟨by decide, by
      intro e he
      obtain rfl := List.mem_singleton.mp he
      exact ⟨by decide, by decide, by decide, by decide, ⟨by decide, by simp [Channel.Fits, farChannel]⟩, by decide⟩⟩ }

/-- The issue of the piece marks the command. -/
theorem marking_marks : (marking.issue 0 0).devStream.cmds ≠ marking.devStream.cmds := by
  decide +kernel

/-- Refutes O53: the issue of pieces of a command of the device stream changes that stream too. -/
theorem not_channelsMoveTheirRows : ¬Obligations.ChannelsMoveTheirRows := by
  unfold Obligations.ChannelsMoveTheirRows
  rintro ⟨-, -, -, -, issue, -⟩
  obtain ⟨l, -, -, -, -, -, frame⟩ := issue 0 0 marking _ _ _ marking_canonical rfl (by decide) rfl rfl
  have kept := congrArg (fun t : State => t.devStream.cmds) frame
  exact marking_marks kept

end Sys2Proof.Machine
end

section
/-! PROOFS. Flits between dies: what leaves a sender, what its receiver does with it, retrains and delivery acknowledgements (R283 to
R286, R295, R298). -/

namespace Sys2Proof.Machine

variable {s t u : State} {f : Flit} {i b : Nat} {toB : Bool} {d : LinkDir}

/-! ## A flit that nothing damages (R282) -/

theorem flitBody_lt (h : flitFormed f = true) : flitBody f < 2 ^ 544 := by
  unfold flitFormed at h
  simp only [Bool.and_eq_true, decide_eq_true_eq] at h
  obtain ⟨⟨hs, ha, hk, hc, hr⟩, -⟩ := h
  have hp := f.payload.isLt
  unfold flitBody
  omega

theorem flitArrived_undamaged (h : flitFormed f = true) (hd : f.damage = 0) : flitArrived f = some f := by
  have hbody := flitBody_lt h
  have hcrc : bodyCrc (flitBody f) < 2 ^ 32 := BitVec.isLt _
  have word : (flitWord f ^^^ f.damage).toNat = flitBody f + 2 ^ 544 * bodyCrc (flitBody f) := by
    rw [hd, show flitWord f ^^^ 0 = flitWord f from BitVec.xor_zero]
    unfold flitWord
    rw [BitVec.toNat_ofNat, Nat.mod_eq_of_lt (by omega)]
  have low : (flitBody f + 2 ^ 544 * bodyCrc (flitBody f)) % 2 ^ 544 = flitBody f := by omega
  have high : (flitBody f + 2 ^ 544 * bodyCrc (flitBody f)) / 2 ^ 544 = bodyCrc (flitBody f) := by omega
  unfold flitArrived
  dsimp only
  rw [word, low, high, if_neg (by simp)]
  unfold flitFormed at h
  simp only [Bool.and_eq_true, decide_eq_true_eq] at h
  obtain ⟨⟨hs, ha, hk, hc, hr⟩, -⟩ := h
  have hp := f.payload.isLt
  have payload : BitVec.ofNat 512 (flitBody f) = f.payload := by
    apply BitVec.eq_of_toNat_eq
    rw [BitVec.toNat_ofNat]
    unfold flitBody
    omega
  have sequence : bits (flitBody f) 521 512 = f.sequence := by unfold bits flitBody; omega
  have ack : bits (flitBody f) 531 522 = f.ack := by unfold bits flitBody; omega
  have kind : bits (flitBody f) 534 532 = f.kind := by unfold bits flitBody; omega
  have cls : bits (flitBody f) 536 535 = f.creditClass := by unfold bits flitBody; omega
  have credits : bits (flitBody f) 543 537 = f.credits := by unfold bits flitBody; omega
  rw [payload, sequence, ack, kind, cls, credits]
  cases f
  cases hd
  rfl

/-! ## The directions of a bundle -/

/-- The links and their bundles are canonical. -/
def State.LinksWf (s : State) : Prop := swf {} s.links = true ∧ ∀ i, swf {} (s.link i).bundles = true

theorem State.Canonical.linksWf (h : s.Canonical) : s.LinksWf :=
  ⟨h.links.1, fun i => (h.links.sget (k := i) Link.canonical_default).1⟩

theorem Bundle.dir_setDir_self {x : Bundle} : (x.setDir toB d).dir toB = d := by
  cases toB <;> rfl

theorem Bundle.dir_setDir_flip {x : Bundle} : (x.setDir toB d).dir (!toB) = x.dir (!toB) := by
  cases toB <;> rfl

theorem State.link_setLinkDir_self (h : s.LinksWf) :
    (s.setLinkDir i b toB d).link i = (s.link i).setBundle b (((s.link i).bundle b).setDir toB d) := State.link_modLink_self h.1

theorem State.link_setLinkDir_other {j : Nat} (h : s.LinksWf) (hj : j ≠ i) : (s.setLinkDir i b toB d).link j = s.link j :=
  State.link_modLink_other h.1 hj

theorem State.LinksWf.modLink {g : Link → Link} (h : s.LinksWf) (hg : swf {} (g (s.link i)).bundles = true) : (s.modLink i g).LinksWf :=
  ⟨swf_sput h.1, fun j => by
    by_cases hj : j = i
    · subst hj; rw [State.link_modLink_self h.1]; exact hg
    · rw [State.link_modLink_other h.1 hj]; exact h.2 j⟩

theorem State.LinksWf.setLinkDir (h : s.LinksWf) : (s.setLinkDir i b toB d).LinksWf := h.modLink (swf_sput (h.2 i))

theorem State.bundle_setLinkDir_self (h : s.LinksWf) :
    ((s.setLinkDir i b toB d).link i).bundle b = ((s.link i).bundle b).setDir toB d := by
  rw [State.link_setLinkDir_self h]
  exact sget_sput_self (h.2 i)

theorem State.linkDir_setLinkDir_self (h : s.LinksWf) : (s.setLinkDir i b toB d).linkDir i b toB = d := by
  unfold State.linkDir
  rw [State.link_setLinkDir_self h]
  unfold Link.bundle Link.setBundle
  dsimp only
  rw [sget_sput_self (h.2 i), Bundle.dir_setDir_self]

theorem State.linkDir_setLinkDir_flip (h : s.LinksWf) : (s.setLinkDir i b toB d).linkDir i b (!toB) = s.linkDir i b (!toB) := by
  unfold State.linkDir
  rw [State.link_setLinkDir_self h]
  unfold Link.bundle Link.setBundle
  dsimp only
  rw [sget_sput_self (h.2 i), Bundle.dir_setDir_flip]

/-- A change of a link that keeps its delivery stores. -/
theorem State.storeAt_modLink {g : Link → Link} {j : Nat} {x : Bool} (h : s.LinksWf)
    (hg : (g (s.link i)).storeA = (s.link i).storeA ∧ (g (s.link i)).storeB = (s.link i).storeB) :
    (s.modLink i g).storeAt j x = s.storeAt j x := by
  obtain ⟨ha, hb⟩ := hg
  unfold State.storeAt Link.store
  by_cases hj : j = i
  · subst hj; rw [State.link_modLink_self h.1, ha, hb]
  · rw [State.link_modLink_other h.1 hj]

theorem State.storeAt_setLinkDir {j : Nat} {x : Bool} (h : s.LinksWf) : (s.setLinkDir i b toB d).storeAt j x = s.storeAt j x :=
  State.storeAt_modLink h ⟨rfl, rfl⟩

/-! ## What a router hands to an end (R295, R298) -/

/-- A change of a link that leaves its bundles. -/
theorem State.linkDir_modLink {g : Link → Link} {j k : Nat} {x : Bool} (h : s.LinksWf) (hg : (g (s.link i)).bundles = (s.link i).bundles) :
    (s.modLink i g).linkDir j k x = s.linkDir j k x := by
  unfold State.linkDir Link.bundle
  by_cases hj : j = i
  · subst hj; rw [State.link_modLink_self h.1, hg]
  · rw [State.link_modLink_other h.1 hj]

theorem State.linkDir_setStoreAt {j k : Nat} {x y : Bool} {l : List Stored} (h : s.LinksWf) :
    (s.setStoreAt i y l).linkDir j k x = s.linkDir j k x := State.linkDir_modLink h (by cases y <;> rfl)

theorem State.LinksWf.setStoreAt {y : Bool} {l : List Stored} (h : s.LinksWf) : (s.setStoreAt i y l).LinksWf :=
  h.modLink (by cases y <;> exact h.2 i)

/-- Only the delivery stores and the mesh's own state change. -/
structure Handed (s u : State) : Prop where
  linksWf : u.LinksWf
  linkDir : ∀ i b x, u.linkDir i b x = s.linkDir i b x
  frame : u = { s with links := u.links, dev := u.dev }

theorem Handed.injections (h : Handed s u) : u.injections = s.injections := by rw [h.frame]

theorem State.storeFlit_handed (h : s.LinksWf) (hu : s.storeFlit i toB f = some u) : Handed s u := by
  unfold State.storeFlit at hu
  dsimp only at hu
  split at hu
  · split at hu
    · split at hu
      · obtain rfl := Option.some.inj hu
        exact ⟨h.setStoreAt, fun _ _ _ => State.linkDir_setStoreAt h, rfl⟩
      · exact absurd hu (by simp)
    · exact absurd hu (by simp)
  · split at hu
    · exact absurd hu (by simp)
    · obtain ⟨x, -, rfl⟩ := Option.map_eq_some_iff.mp hu
      exact ⟨h.setStoreAt, fun _ _ _ => State.linkDir_setStoreAt h, rfl⟩

theorem State.meshSends_handed (h : s.LinksWf) (hu : s.meshSends i b toB f = some u) : Handed s u := by
  unfold State.meshSends at hu
  dsimp only at hu
  split at hu
  · exact absurd hu (by simp)
  · split at hu
    · exact State.storeFlit_handed h hu
    · split at hu
      · obtain rfl := Option.some.inj hu
        exact ⟨h, fun _ _ _ => rfl, rfl⟩
      · exact absurd hu (by simp)

/-! ## A flit that its sender can send now -/

/-- The bundle carries the flit: its fields fit, and it acknowledges and frees what its receiver holds (R282, R283). -/
structure Carries (i : Fin 6) (b : Fin 16) (toB : Bool) (f : Flit) (s : State) : Prop where
  carries : s.carries i b = true
  formed : flitFormed f = true
  ack : f.ack = (s.linkDir i b (!toB)).lastAccepted
  credits : f.credits ≤ ((s.linkDir i b (!toB)).inbox.filter (·.1 == f.creditClass)).length

/-- A mesh flit that is new leaves its sender. -/
theorem LinkDir.sends_new (hk : f.kind = 1) (hr : d.resending = []) (hm : d.moved = []) (hs : f.sequence = d.nextSeq)
    (hl : d.replay.length < 256) (hc : 0 < d.credits.getD f.packet.cls 0) : d.sends f = some (d.numbers f) := by
  unfold LinkDir.sends
  rw [show sequenced f = true by simp [sequenced, hk], if_pos rfl, hr]
  dsimp only
  rw [if_neg (by omega), hm]

theorem State.spoilFlit_none (h : ∀ j ∈ s.injections, j.verb ≠ 1) : s.spoilFlit i b toB f = (s, some f) := by
  unfold State.spoilFlit
  dsimp only
  rw [List.filter_eq_nil_iff.mpr]
  · rfl
  · intro j hj
    simp [h j hj]

/-- A new mesh flit without injections goes to its receiver. -/
theorem Carries.mesh {i : Fin 6} {b : Fin 16} (h : Carries i b toB f s) (hk : f.kind = 1) (hz : s.dev.state ≠ .doze)
    (hd : s.linkDir i b toB = d) (hr : d.resending = []) (hm : d.moved = []) (hu : s.meshSends i b toB f = some u)
    (hs : f.sequence = d.nextSeq) (hl : d.replay.length < 256) (hc : 0 < d.credits.getD f.packet.cls 0)
    (hi : ∀ j ∈ u.injections, j.verb ≠ 1) :
    exec (.linkFlitReceived i b toB f) s = .next ((u.setLinkDir i b toB (d.numbers f)).flitArrives i b toB f) := by
  obtain ⟨carries, formed, ack, credits⟩ := h
  have hnew : d.isNew f = true := by simp [LinkDir.isNew, hk, hr, hm]
  change execLinkFlitReceived i b toB f s = _
  unfold execLinkFlitReceived
  dsimp only
  rw [if_neg (by simp [carries, formed, ack, hk, hz]; exact credits), hd, hnew, if_pos rfl, hu, LinkDir.sends_new hk hr hm hs hl hc]
  dsimp only
  rw [if_neg (c := f.kind = 2) (by omega), show sequenced f = true by simp [sequenced, hk], if_pos rfl,
    State.spoilFlit_none (s := u.setLinkDir i b toB (d.numbers f)) hi]

/-- What a mesh flit in order makes of its direction. -/
theorem LinkDir.receives_inOrder (hf : flitFormed f = true) (hk : f.kind = 1) (hs : f.sequence = d.expected) :
    d.receives (some f) = ({ d with
      expected := (d.expected + 1) % 1024, discarding := false, inbox := d.inbox ++ [(f.packet.cls, f.payload)] }, true) := by
  unfold flitFormed at hf
  simp only [Bool.and_eq_true, decide_eq_true_eq] at hf
  obtain ⟨⟨-, -, -, hc, -⟩, -⟩ := hf
  unfold LinkDir.receives
  dsimp only
  rw [if_neg (by omega), show sequenced f = true by simp [sequenced, hk], if_pos rfl, if_pos hs, if_pos hk]

/-- A flit other than a nack tells the sender of the other direction its Ack and its Credits. -/
theorem State.tellSender_plain (hk : f.kind ≠ 2) : s.tellSender i b toB f = s.setLinkDir i b (!toB)
    { ((s.linkDir i b (!toB)).acked f.ack).credited f.creditClass f.credits with
      inbox := freePlaces f.creditClass f.credits (((s.linkDir i b (!toB)).acked f.ack).credited f.creditClass f.credits).inbox } := by
  unfold State.tellSender
  dsimp only
  rw [if_neg (fun e => hk e.1)]

theorem State.deliver_frame {die : Nat} : (s.deliver die f).links = s.links ∧ ∃ x, s.deliver die f = { s with dev := x } := by
  unfold State.deliver
  dsimp only
  split <;> exact ⟨rfl, _, rfl⟩

/-- Delivery does not look at the links. -/
theorem State.deliver_links {die : Nat} {l : Sparse Link} : { s with links := l }.deliver die f = { s.deliver die f with links := l } := by
  unfold State.deliver
  dsimp only
  split <;> rfl

/-- The direction of a mesh flit in order, once it has arrived. -/
def LinkDir.accepts (d : LinkDir) (f : Flit) : LinkDir :=
  { d with
    nextSeq := (d.nextSeq + 1) % 1024, replay := d.replay ++ [f], discarding := false
    credits := d.credits.set f.packet.cls (d.credits.getD f.packet.cls 0 - 1), expected := (d.expected + 1) % 1024
    inbox := d.inbox ++ [(f.packet.cls, f.payload)] }

theorem State.flitRead_none (hd : s.linkDir i b toB = d) : s.flitRead i b toB none = s.setLinkDir i b toB d.discards := by
  unfold State.flitRead
  rw [hd]
  rfl

theorem State.flitRead_counted {e : LinkDir} (hd : s.linkDir i b toB = d) (hr : d.receives (some f) = (e, true)) (hk : f.kind = 1) :
    s.flitRead i b toB (some f) = ((s.setLinkDir i b toB e).deliver (receiverOf i toB) f).tellSender i b toB f := by
  unfold State.flitRead
  rw [hd, hr]
  dsimp only
  rw [if_neg (by decide), if_pos hk]

theorem LinkDir.numbers_receives (hf : flitFormed f = true) (hk : f.kind = 1) (hs : f.sequence = d.expected) :
    (d.numbers f).receives (some f) = (d.accepts f, true) := by
  rw [LinkDir.receives_inOrder (d := d.numbers f) hf hk hs]
  simp [LinkDir.numbers, LinkDir.accepts, hk]

/-- A mesh flit in order is received, delivered, and tells the other direction's sender. -/
theorem State.flitArrives_inOrder (h : u.LinksWf) (hf : flitFormed f = true) (hd : f.damage = 0) (hk : f.kind = 1)
    (hs : f.sequence = d.expected) :
    (u.setLinkDir i b toB (d.numbers f)).flitArrives i b toB f =
      ((((u.setLinkDir i b toB (d.numbers f)).setLinkDir i b toB (d.accepts f)).deliver (receiverOf i toB) f).tellSender i b toB f) := by
  unfold State.flitArrives
  rw [flitArrived_undamaged hf hd]
  exact State.flitRead_counted (State.linkDir_setLinkDir_self h) (LinkDir.numbers_receives hf hk hs) hk

/-- The direction of a mesh flit whose CRC does not match. -/
def LinkDir.spoiled (d : LinkDir) (f : Flit) : LinkDir :=
  { d with
    nextSeq := (d.nextSeq + 1) % 1024, replay := d.replay ++ [f], discarding := true, nacksOwed := d.nacksOwed + 1
    credits := d.credits.set f.packet.cls (d.credits.getD f.packet.cls 0 - 1) }

theorem LinkDir.numbers_discards (hk : f.kind = 1) (hd : d.discarding = false) : (d.numbers f).discards = d.spoiled f := by
  simp [LinkDir.discards, LinkDir.numbers, LinkDir.spoiled, hd, hk]

/-- Such a flit is discarded, with one nack owed. -/
theorem State.flitArrives_spoiled (h : u.LinksWf) (ha : flitArrived f = none) (hd : d.discarding = false) (hk : f.kind = 1) :
    (u.setLinkDir i b toB (d.numbers f)).flitArrives i b toB f =
      (u.setLinkDir i b toB (d.numbers f)).setLinkDir i b toB (d.spoiled f) := by
  unfold State.flitArrives
  rw [ha, State.flitRead_none (State.linkDir_setLinkDir_self h), LinkDir.numbers_discards hk hd]

/-! ## Both directions of a bundle, through changes of one link -/

/-- The bundle's directions are `d` and `r` and its link has sent again `n` times; the other links are those of `s`. -/
structure Sides (i b : Nat) (toB : Bool) (s t : State) (d r : LinkDir) (n : Nat) : Prop where
  linksWf : t.LinksWf
  near : t.linkDir i b toB = d
  far : t.linkDir i b (!toB) = r
  others : ∀ j, j ≠ i → t.link j = s.link j
  count : (t.link i).replayCount = n
  stores : ∀ j x, t.storeAt j x = s.storeAt j x

theorem Sides.start (h : s.LinksWf) : Sides i b toB s s (s.linkDir i b toB) (s.linkDir i b (!toB)) (s.link i).replayCount :=
  ⟨h, rfl, rfl, fun _ _ => rfl, rfl, fun _ _ => rfl⟩

namespace Sides

variable {r e : LinkDir} {n m : Nat} (h : Sides i b toB s t d r n)
include h

theorem setNear : Sides i b toB s (t.setLinkDir i b toB e) e r n :=
  ⟨h.linksWf.setLinkDir, State.linkDir_setLinkDir_self h.linksWf, (State.linkDir_setLinkDir_flip h.linksWf).trans h.far,
    fun j hj => (State.link_setLinkDir_other h.linksWf hj).trans (h.others j hj),
    (congrArg Link.replayCount (State.link_setLinkDir_self h.linksWf)).trans h.count,
    fun j x => (State.storeAt_setLinkDir h.linksWf).trans (h.stores j x)⟩

theorem setFar : Sides i b toB s (t.setLinkDir i b (!toB) e) d e n := by
  have near : (t.setLinkDir i b (!toB) e).linkDir i b (!!toB) = t.linkDir i b (!!toB) := State.linkDir_setLinkDir_flip h.linksWf
  rw [Bool.not_not] at near
  exact ⟨h.linksWf.setLinkDir, near.trans h.near, State.linkDir_setLinkDir_self h.linksWf,
    fun j hj => (State.link_setLinkDir_other h.linksWf hj).trans (h.others j hj),
    (congrArg Link.replayCount (State.link_setLinkDir_self h.linksWf)).trans h.count,
    fun j x => (State.storeAt_setLinkDir h.linksWf).trans (h.stores j x)⟩

/-- A state with the same links. -/
theorem of_links (hu : u.links = t.links) : Sides i b toB s u d r n := by
  have link (j : Nat) : u.link j = t.link j := by unfold State.link; rw [hu]
  have dir (j k : Nat) (x : Bool) : u.linkDir j k x = t.linkDir j k x := by unfold State.linkDir; rw [link]
  have store (j : Nat) (x : Bool) : u.storeAt j x = t.storeAt j x := by unfold State.storeAt; rw [link]
  exact ⟨⟨hu ▸ h.linksWf.1, fun j => link j ▸ h.linksWf.2 j⟩, (dir _ _ _).trans h.near, (dir _ _ _).trans h.far,
    fun j hj => (link j).trans (h.others j hj), (congrArg Link.replayCount (link i)).trans h.count, fun j x => (store j x).trans (h.stores j x)⟩

/-- A change of the link's own counters. -/
theorem modLink {g : Link → Link} (hg : (g (t.link i)).bundles = (t.link i).bundles)
    (hs : (g (t.link i)).storeA = (t.link i).storeA ∧ (g (t.link i)).storeB = (t.link i).storeB)
    (hc : (g (t.link i)).replayCount = m) : Sides i b toB s (t.modLink i g) d r m :=
  ⟨h.linksWf.modLink (by rw [hg]; exact h.linksWf.2 i), (State.linkDir_modLink h.linksWf hg).trans h.near,
    (State.linkDir_modLink h.linksWf hg).trans h.far, fun j hj => (State.link_modLink_other h.linksWf.1 hj).trans (h.others j hj),
    (congrArg Link.replayCount (State.link_modLink_self h.linksWf.1)).trans hc,
    fun j x => (State.storeAt_modLink h.linksWf hs).trans (h.stores j x)⟩

theorem linkTrouble {k : Nat} : Sides i b toB s (t.setTroubleBit (.link i) k) d r n :=
  (h.modLink (g := fun l => { l with trouble := t.trouble (.link i) ||| BitVec.ofNat 32 (2 ^ k) }) rfl ⟨rfl, rfl⟩ h.count).of_links rfl

end Sides

/-- A mesh flit in order, through both directions of its bundle. -/
theorem Handed.told {r : LinkDir} (h : Handed s u) (hr : s.linkDir i b (!toB) = r) (hk : f.kind ≠ 2) :
    let t := (((u.setLinkDir i b toB (d.numbers f)).setLinkDir i b toB (d.accepts f)).deliver (receiverOf i toB) f).tellSender i b toB f
    t.linkDir i b toB = d.accepts f ∧
      t.linkDir i b (!toB) = (LinkDir.acked { r with inbox := freePlaces f.creditClass f.credits r.inbox } f.ack).credited
        f.creditClass f.credits ∧
      (∀ j, j ≠ i → t.link j = u.link j) ∧ (∀ j x, t.storeAt j x = u.storeAt j x) ∧
      t = { u.deliver (receiverOf i toB) f with links := t.links } := by
  intro t
  obtain ⟨v, hv⟩ : ∃ v, v = (u.setLinkDir i b toB (d.numbers f)).setLinkDir i b toB (d.accepts f) := ⟨_, rfl⟩
  obtain ⟨w, hw⟩ : ∃ w, w = v.deliver (receiverOf i toB) f := ⟨_, rfl⟩
  have sides := ((Sides.start (i := i) (b := b) (toB := toB) h.linksWf).setNear (e := d.numbers f)).setNear (e := d.accepts f)
  rw [← hv] at sides
  have delivered := sides.of_links (hw ▸ State.deliver_frame.1)
  have far : w.linkDir i b (!toB) = r := delivered.far.trans ((h.linkDir _ _ _).trans hr)
  have ht : t = w.setLinkDir i b (!toB)
      { (r.acked f.ack).credited f.creditClass f.credits with
        inbox := freePlaces f.creditClass f.credits ((r.acked f.ack).credited f.creditClass f.credits).inbox } := by
    rw [← far, ← State.tellSender_plain hk, hw, hv]
  have told := delivered.setFar (e := { (r.acked f.ack).credited f.creditClass f.credits with
    inbox := freePlaces f.creditClass f.credits ((r.acked f.ack).credited f.creditClass f.credits).inbox })
  rw [← ht] at told
  refine ⟨told.near, told.far.trans rfl, told.others, told.stores, ?_⟩
  have links : w = { u.deliver (receiverOf i toB) f with links := w.links } := by
    obtain ⟨l, hl⟩ : ∃ l, v = { u with links := l } := ⟨v.links, by rw [hv]; rfl⟩
    rw [hw, hl, State.deliver_links]
  rw [ht]
  exact congrArg (fun x : State => x.setLinkDir i b (!toB) _) links

/-! ## Nacks (R283, R285) -/

/-- An undamaged nack flit that its sender can send now: a nack goes, and the sender of the other direction sends again. -/
theorem Carries.nack {i : Fin 6} {b : Fin 16} (h : Carries i b toB f s) (hk : f.kind = 2) (hdam : f.damage = 0)
    (hn : 0 < (s.linkDir i b (!toB)).nacksOwed) (hs : f.sequence = (1023 + (s.linkDir i b toB).nextSeq) % 1024) :
    exec (.linkFlitReceived i b toB f) s =
      .next (((s.setLinkDir i b toB (s.linkDir i b toB)).sendNack i b (!toB)).flitRead i b toB (some f)) := by
  obtain ⟨carries, formed, ack, credits⟩ := h
  have plain : sequenced f = false := by simp [sequenced, hk]
  have sends : (s.linkDir i b toB).sends f = some (s.linkDir i b toB) := by
    unfold LinkDir.sends
    rw [plain, if_neg (by decide), if_pos hs]
  have notNew : (s.linkDir i b toB).isNew f = false := by simp [LinkDir.isNew, hk]
  change execLinkFlitReceived i b toB f s = _
  unfold execLinkFlitReceived
  dsimp only
  rw [if_neg (by simp [carries, formed, ack, hk]; exact ⟨credits, by omega⟩), notNew, if_neg (c := false = true) (by decide), sends]
  dsimp only
  rw [if_pos hk, plain, if_neg (by decide)]
  unfold State.flitArrives
  rw [flitArrived_undamaged formed hdam]

theorem LinkDir.receives_nack (hf : flitFormed f = true) (hk : f.kind = 2) (hd : d.discarding = false)
    (hs : f.sequence = d.lastAccepted) : d.receives (some f) = (d, true) := by
  unfold flitFormed at hf
  simp only [Bool.and_eq_true, decide_eq_true_eq] at hf
  obtain ⟨⟨-, -, -, hc, -⟩, -⟩ := hf
  unfold LinkDir.receives
  dsimp only
  rw [if_neg (by omega), show sequenced f = false by simp [sequenced, hk], if_neg (by decide), if_pos ⟨by rw [hd]; decide, hs⟩]

/-- Seven nacks within 1,024 notches lead to no retrain. -/
theorem State.sendNack_few {r : LinkDir} (hr : s.linkDir i b toB = r) (hn : (r.nacks.filter fun t => decide (s.uptime < 1024 + t)).length < 7) :
    s.sendNack i b toB = s.setLinkDir i b toB (r.nacked s.uptime) := by
  have few : ¬8 ≤ (r.nacked s.uptime).nacks.length := by simp [LinkDir.nacked]; omega
  unfold State.sendNack
  dsimp only
  rw [hr, if_neg few]

/-- A nack has the sender of the other direction send its replay buffer again. -/
theorem Sides.tellSender_nack {r x : LinkDir} {n : Nat} (h : Sides i b toB s t d r n) (hk : f.kind = 2)
    (hx : (r.acked f.ack).credited f.creditClass f.credits = x) (hne : x.replay ≠ []) (hfew : x.resends < 16) :
    Sides i b toB s (t.tellSender i b toB f) d { x with
      inbox := freePlaces f.creditClass f.credits x.inbox, resending := x.replay, resends := x.resends + 1, discarding := false }
      (saturate16 (n + 1)) := by
  have hempty : x.replay.isEmpty = false := by cases hx : x.replay with | nil => exact absurd hx hne | cons => rfl
  unfold State.tellSender
  dsimp only
  rw [h.far, hx, if_pos ⟨hk, by rw [hempty]; rfl⟩, if_neg (by omega)]
  have resent := (h.setFar (e := { x with inbox := freePlaces f.creditClass f.credits x.inbox })).setFar (e := { x with
    inbox := freePlaces f.creditClass f.credits x.inbox, resending := x.replay, resends := x.resends + 1, discarding := false })
  have counted := resent.modLink (g := fun l => { l with replayCount := saturate16 (l.replayCount + 1), replaySince := l.replaySince + 1 })
    (m := saturate16 (n + 1)) rfl ⟨rfl, rfl⟩ (congrArg (fun k => saturate16 (k + 1)) resent.count)
  split
  · exact counted.linkTrouble
  · exact counted

/-! ## Retrains (R285, R286) -/

theorem merged_known {a l injected : List Nat} (h : ∀ x ∈ l, x ∈ a ∨ x ∈ injected) :
    merged a (l.filter fun x => !injected.contains x) = a := by
  unfold merged
  rw [List.filter_eq_nil_iff.mpr, List.append_nil]
  intro x hx
  obtain ⟨hl, hi⟩ := List.mem_filter.mp hx
  have := h x hl
  simp_all

theorem filter_known {a : List Nat} : (a.filter fun x => !a.contains x) = [] := by
  rw [List.filter_eq_nil_iff]
  simp

/-- A retrain that finds no more than the spares in use cover. -/
theorem exec_retrain_covered {i : Fin 6} {b : Fin 16} {l : List Nat} (hd : s.linkDir i b toB = d) (hr : d.retraining = true)
    (hl : ∀ x ∈ l, x ∈ d.failed ∨ x ∈ d.injected) (hs : beyondSpares (merged d.failed d.injected) = false)
    (hn : sparesFor (merged d.failed d.injected) ≤ d.sparesUsed) :
    exec (.retrainDone i b toB l) s = .next (s.setLinkDir i b toB { d with
      retraining := false, sparesUsed := min 8 (sparesFor (merged d.failed d.injected)), resending := d.replay, resends := 0
      nacks := [], discarding := false }) := by
  change execRetrainDone i b toB l s = _
  unfold execRetrainDone
  dsimp only
  rw [hd, hr, if_neg (by decide), merged_known hl, filter_known, hs, if_neg (by decide), if_neg (by omega)]
  rfl

/-- A bundle whose direction is out of its retrain, removed or not as before. -/
structure Retrained (i b : Nat) (toB removed : Bool) (t : State) : Prop where
  linksWf : t.LinksWf
  ended : (((t.link i).bundle b).dir toB).retraining = false
  removed : ((t.link i).bundle b).removed = removed

theorem Retrained.linkTrouble {k : Nat} {x : Bool} (h : Retrained i b toB x t) : Retrained i b toB x (t.setTroubleBit (.link i) k) := by
  obtain ⟨v, hv⟩ : ∃ v, v = t.modLink i fun l => { l with trouble := t.trouble (.link i) ||| BitVec.ofNat 32 (2 ^ k) } := ⟨_, rfl⟩
  have wf : v.LinksWf := hv ▸ h.linksWf.modLink (h.linksWf.2 i)
  have bundle : (v.link i).bundle b = (t.link i).bundle b := by rw [hv, State.link_modLink_self h.linksWf.1]; rfl
  have links : (t.setTroubleBit (.link i) k).links = v.links := by rw [hv]; rfl
  have link (j : Nat) : (t.setTroubleBit (.link i) k).link j = v.link j := by unfold State.link; rw [links]
  exact ⟨⟨links ▸ wf.1, fun j => link j ▸ wf.2 j⟩, by rw [link, bundle]; exact h.ended, by rw [link, bundle]; exact h.removed⟩

theorem Retrained.failBundle {x : Bool} (h : Retrained i b toB x t) : ((t.failBundle i b).linkDir i b toB).retraining = false ∧
    (((t.failBundle i b).link i).bundle b).failing = true ∧ (((t.failBundle i b).link i).bundle b).removed = x := by
  have bundle : ((t.failBundle i b).link i).bundle b = { (t.link i).bundle b with failing := true } := by
    unfold State.failBundle
    rw [State.link_modLink_self h.linksWf.1]
    exact sget_sput_self (h.linksWf.2 i)
  unfold State.linkDir
  rw [bundle]
  exact ⟨h.ended, rfl, h.removed⟩

/-- A retrain that finds more than the spares cover fails its bundle. -/
theorem retrain_fails {i : Fin 6} {b : Fin 16} {l : List Nat} (h : s.LinksWf) (hd : s.linkDir i b toB = d) (hr : d.retraining = true)
    (hs : beyondSpares (merged (merged d.failed (l.filter fun x => !d.injected.contains x)) d.injected) = true) :
    ∃ t, exec (.retrainDone i b toB l) s = .next t ∧ (t.linkDir i b toB).retraining = false ∧
      ((t.link i).bundle b).failing = true ∧ ((t.link i).bundle b).removed = ((s.link i).bundle b).removed := by
  obtain ⟨found, hf⟩ : ∃ found, found = merged d.failed (l.filter fun x => !d.injected.contains x) := ⟨_, rfl⟩
  obtain ⟨v, hv⟩ : ∃ v, v = (found.filter fun x => !d.failed.contains x).foldl (fun s x => s.addDefect (laneDefect i b toB 4 x)) s := ⟨_, rfl⟩
  obtain ⟨e, he⟩ : ∃ e, e = { d with
    failed := found, sparesUsed := min 8 (sparesFor (merged found d.injected)), retraining := false, resending := d.replay, resends := 0
    nacks := [], discarding := false } := ⟨_, rfl⟩
  have links : v.links = s.links := by
    obtain ⟨m, rfl, -⟩ : Accessed s v := hv ▸ Reaches.foldl .refl fun _ _ h => h.addDefect
    rfl
  have link (j : Nat) : v.link j = s.link j := by unfold State.link; rw [links]
  have wf : v.LinksWf := ⟨links ▸ h.1, fun j => link j ▸ h.2 j⟩
  have ended : Retrained i b toB ((s.link i).bundle b).removed (v.setLinkDir i b toB e) :=
    ⟨wf.setLinkDir, by rw [State.bundle_setLinkDir_self wf, Bundle.dir_setDir_self, he],
      by rw [State.bundle_setLinkDir_self wf, link]; cases toB <;> rfl⟩
  have noted : Retrained i b toB ((s.link i).bundle b).removed
      (if d.sparesUsed < sparesFor (merged found d.injected) then (v.setLinkDir i b toB e).setTroubleBit (.link i) 0 else v.setLinkDir i b toB e) := by
    split
    · exact ended.linkTrouble
    · exact ended
  refine ⟨_, ?_, noted.failBundle⟩
  rw [← hf] at hs
  change execRetrainDone i b toB l s = _
  unfold execRetrainDone
  dsimp only
  rw [hd, hr, if_neg (by decide), ← hf, hs, if_pos rfl, ← hv, ← he]

/-! ## Delivery stores (R298) -/

theorem State.storeAt_setStoreAt_self {l : List Stored} (h : s.LinksWf) : (s.setStoreAt i toB l).storeAt i toB = l := by
  unfold State.setStoreAt State.storeAt
  rw [State.link_modLink_self h.1]
  cases toB <;> rfl

theorem State.storeAt_setStoreAt_other {l : List Stored} {j : Nat} {x : Bool} (h : s.LinksWf) (hj : (j, x) ≠ (i, toB)) :
    (s.setStoreAt i toB l).storeAt j x = s.storeAt j x := by
  unfold State.setStoreAt State.storeAt
  by_cases hi : j = i
  · subst hi
    rw [State.link_modLink_self h.1]
    cases x <;> cases toB
    case false.false | true.true => exact absurd rfl hj
    all_goals rfl
  · rw [State.link_modLink_other h.1 hi]

theorem dieOfEnd_le (e : Nat) : dieOfEnd e ≤ 4 := by
  unfold dieOfEnd dieOfRouter
  split <;> omega

/-- What stands in the store of an end is stored by its die. -/
theorem State.mem_storedBy {i : Fin 6} {y : Stored} (hy : y ∈ s.storeAt i toB) : (i.val, toB, y) ∈ s.storedBy (senderOf i toB) := by
  have side : ((i.val, toB) : Nat × Bool) ∈ linkSides :=
    List.mem_flatMap.mpr ⟨i.val, List.mem_range.mpr i.isLt, by cases toB <;> simp⟩
  unfold State.storedBy
  refine List.mem_flatMap.mpr ⟨(i.val, toB), side, ?_⟩
  rw [if_pos rfl]
  exact List.mem_map.mpr ⟨y, hy, rfl⟩

/-- The first flit of the next packet of a pair. -/
theorem Pair.sends_new {x : Pair} {p : Packet} (hn : p.delivery = x.next) (hi : p.index = 0) (ho : ∀ y ∈ x.opened, y.1 ≠ p.delivery) :
    ∃ l, x.sends p = some { x with next := (x.next + 1) % 65536, opened := l } := by
  have fresh : x.opened.contains (p.delivery, p.index) = false := by
    rw [List.contains_eq_mem]
    exact decide_eq_false fun h => ho _ h rfl
  unfold Pair.sends
  dsimp only
  rw [fresh, if_neg (by decide), if_pos ⟨hn, hi⟩]
  exact ⟨_, rfl⟩

theorem State.pair_modPair {a e : Nat} {g : Pair → Pair} (h : pairKey a e < s.dev.pairs.length) : (s.modPair a e g).pair a e = g (s.pair a e) := by
  unfold State.pair State.modPair State.modDev
  dsimp only
  rw [List.getD_eq_getElem?_getD, List.getElem?_set_self h]
  rfl

/-- A new flit enters the store of the end by which it leaves its source die. -/
theorem State.storeFlit_new {i : Fin 6} {a e : Nat} (h : s.LinksWf) (hl : s.dev.pairs.length = 25) (ha : senderOf i toB = a)
    (hsrc : sourceDie f.packet = a) (hdst : destinationDie f.packet = e)
    (hsent : ∀ y ∈ s.storedBy a, samePair y.2.2.packet f.packet = true → y.2.2.phase = .sent)
    (hroom : (s.storeAt i toB).length < 16384) (hn : f.packet.delivery = (s.pair a e).next) (hi : f.packet.index = 0)
    (ho : ∀ x ∈ (s.pair a e).opened, x.1 ≠ f.packet.delivery) :
    ∃ u, s.storeFlit i toB f = some u ∧ u.storeAt i toB = s.storeAt i toB ++
        [{ payload := f.payload, packet := f.packet, way := s.wayFrom f.packet }] ∧
      (u.pair a e).next = ((s.pair a e).next + 1) % 65536 ∧
      (∀ j x, (j, x) ≠ (i.val, toB) → u.storeAt j x = s.storeAt j x) ∧ u = { s with links := u.links, dev := u.dev } := by
  have noneAgain : (s.storeAt i toB).findIdx? (fun y => samePair y.packet f.packet && y.phase == .again) = none := by
    rw [List.findIdx?_eq_none_iff]
    intro y hy
    by_cases hp : samePair y.packet f.packet = true
    · have sent := hsent _ (ha ▸ State.mem_storedBy hy) hp
      simp [show y.phase = .sent from sent]
    · simp [hp]
  have noneWaits : (s.storedBy a).filter (fun e => samePair e.2.2.packet f.packet && e.2.2.phase != .sent) = [] := by
    rw [List.filter_eq_nil_iff]
    intro y hy
    by_cases hp : samePair y.2.2.packet f.packet = true
    · simp [hsent y hy hp]
    · simp [hp]
  obtain ⟨l, sends⟩ := Pair.sends_new hn hi ho
  have key : pairKey a e < 25 := by
    have h1 := dieOfEnd_le f.packet.source
    have h2 := dieOfEnd_le f.packet.destination
    unfold sourceDie at hsrc
    unfold destinationDie at hdst
    unfold pairKey
    omega
  have entered : s.storeFlit i toB f = some ((s.setStoreAt i toB (s.storeAt i toB ++
      [{ payload := f.payload, packet := f.packet, way := s.wayFrom f.packet }])).modPair a e fun _ =>
        { s.pair a e with next := ((s.pair a e).next + 1) % 65536, opened := l }) := by
    unfold State.storeFlit
    dsimp only
    rw [noneAgain, hsrc, hdst, noneWaits]
    dsimp only
    rw [if_neg (by simp; omega), sends]
    rfl
  exact ⟨_, entered, State.storeAt_setStoreAt_self h, congrArg Pair.next (State.pair_modPair (by exact hl ▸ key)),
    fun j x hj => State.storeAt_setStoreAt_other h hj, rfl⟩

/-! ## Packets that arrive (R298) -/

/-- The flits of a pair after one more. -/
def Pair.flitsWith (x : Pair) (p : Packet) : List (Nat × Nat × Bool) :=
  (p.delivery, p.index, p.last) :: x.flits.filter fun e => !(e.1 == p.delivery && e.2.1 == p.index)

theorem wholePacket_last {x : Pair} {p : Packet} (hl : p.last = true) (hall : ∀ i, i < p.index → ∃ y, (p.delivery, i, y) ∈ x.flits) :
    wholePacket (x.flitsWith p) p.delivery = true := by
  have first : (x.flitsWith p).find? (fun e => e.1 == p.delivery && e.2.2) = some (p.delivery, p.index, p.last) :=
    List.find?_cons_of_pos (by simp [hl])
  unfold wholePacket
  rw [first]
  dsimp only
  rw [List.all_eq_true]
  intro i hi
  have below := List.mem_range.mp hi
  obtain ⟨y, hy⟩ := hall i below
  refine List.any_eq_true.mpr ⟨(p.delivery, i, y), List.mem_cons_of_mem _ (List.mem_filter.mpr ⟨hy, ?_⟩), by simp⟩
  simp
  omega

theorem wholePacket_open {x : Pair} {p : Packet} (hf : ∀ e ∈ x.flits, e.1 = p.delivery → e.2.2 = false) (hl : p.last = false) :
    wholePacket (x.flitsWith p) p.delivery = false := by
  have noLast : (x.flitsWith p).find? (fun e => e.1 == p.delivery && e.2.2) = none := by
    rw [List.find?_eq_none]
    intro e he
    rcases List.mem_cons.mp he with rfl | he
    · simp [hl]
    · have := hf e (List.mem_filter.mp he).1
      simp only [Bool.and_eq_true, beq_iff_eq, not_and]
      intro hd
      rw [this hd]
      decide
  unfold wholePacket
  rw [noLast]

/-- A flit of the packet that is next to be delivered. -/
theorem Pair.arrives_expected {x : Pair} {p : Packet} (hb : deliveredBefore p.delivery x.expected = false) (ha : x.arrived = [])
    (hd : p.delivery = x.expected) :
    (x.arrives p).expected = if wholePacket (x.flitsWith p) p.delivery = true then (x.expected + 1) % 65536 else x.expected := by
  unfold Pair.arrives
  dsimp only
  rw [hb, ha, if_neg (by simp)]
  change Pair.expected (if wholePacket (x.flitsWith p) p.delivery = true then _ else _) = _
  split
  · simp [Pair.deliver, hd]
  · rfl

/-- Settles O60: each event of a flit is followed through its sender, its receiver and the other direction. -/
theorem flitsAreDelivered : Obligations.FlitsAreDelivered := by
  unfold Obligations.FlitsAreDelivered
  refine ⟨?inOrder, ?spoiled, ?nack, ?offRoute, ?fresh, ?onWay, ?doze, ?between, ?arrives, ?covered, ?beyond, ?acknowledged⟩
  case inOrder =>
    intro i b s u f d r toB hs hu hcar hd hr hform hk hdam hack hcred hres hmov hsend hseq hlen hc hexp hinj hz
    have carried : Carries i b toB f s := ⟨hcar, hform, hr ▸ hack, hr ▸ hcred⟩
    have handed := State.meshSends_handed hs.linksWf hsend
    have injections := handed.injections
    have goes := carried.mesh hk hz hd hres hmov hsend hseq hlen hc (injections ▸ hinj)
    rw [State.flitArrives_inOrder handed.linksWf hform hdam hk hexp] at goes
    exact ⟨_, goes, handed.told hr (by omega)⟩
  case spoiled =>
    intro i b s u f d r toB hs hu hcar hd hr hform hk harr hack hcred hres hmov hsend hseq hlen hc hdis hinj hz
    have carried : Carries i b toB f s := ⟨hcar, hform, hr ▸ hack, hr ▸ hcred⟩
    have handed := State.meshSends_handed hs.linksWf hsend
    have injections := handed.injections
    have goes := carried.mesh hk hz hd hres hmov hsend hseq hlen hc (injections ▸ hinj)
    rw [State.flitArrives_spoiled handed.linksWf harr hdis hk] at goes
    have sides := ((Sides.start (i := i) (b := b) (toB := toB) handed.linksWf).setNear (e := d.numbers f)).setNear (e := d.spoiled f)
    exact ⟨_, goes, sides.near, sides.far.trans ((handed.linkDir _ _ _).trans hr), sides.others, sides.stores, rfl⟩
  case nack =>
    intro i b s f d r x toB hs hcar hd hr hform hk hdam hack hcred hn hseq hdis hlast hfew hx hne hres
    have carried : Carries i b toB f s := ⟨hcar, hform, hr ▸ hack, hr ▸ hcred⟩
    subst hd hr
    have goes := carried.nack hk hdam hn hseq
    obtain ⟨v, hv⟩ : ∃ v, v = s.setLinkDir i b toB (s.linkDir i b toB) := ⟨_, rfl⟩
    have same : Sides i b toB s v (s.linkDir i b toB) (s.linkDir i b (!toB)) (s.link i).replayCount :=
      hv ▸ (Sides.start hs.linksWf).setNear
    have clock : v.uptime = s.uptime := by rw [hv]; rfl
    rw [← hv, State.sendNack_few same.far (clock ▸ hfew)] at goes
    obtain ⟨w, hw⟩ : ∃ w, w = v.setLinkDir i b (!toB) ((s.linkDir i b (!toB)).nacked v.uptime) := ⟨_, rfl⟩
    have nacked := hw ▸ same.setFar (e := (s.linkDir i b (!toB)).nacked v.uptime)
    have counted := LinkDir.receives_nack hform hk hdis hlast
    rw [← hw] at goes
    unfold State.flitRead at goes
    rw [nacked.near, counted] at goes
    dsimp only at goes
    rw [if_neg (by decide), if_neg (by omega)] at goes
    have told := (nacked.setNear (e := s.linkDir i b toB)).tellSender_nack hk (by rw [clock]; exact hx) hne hres
    exact ⟨_, goes, told.near, told.far, told.count, told.others⟩
  case offRoute =>
    intro i b s f toB h
    unfold State.meshSends
    exact if_pos h
  case fresh =>
    intro i b a e s f toB hs hlen hnext ha hsrc hdst hsent hroom hn hi ho
    obtain ⟨u, entered, rest⟩ := State.storeFlit_new hs.linksWf hlen ha hsrc hdst hsent hroom hn hi ho
    refine ⟨u, ?_, rest⟩
    unfold State.meshSends
    dsimp only
    rw [ha, if_neg (not_not_intro hnext), if_pos hsrc, entered]
  case onWay =>
    intro i b a s f toB hnext ha hsrc htransit
    unfold State.meshSends
    dsimp only
    rw [ha, if_neg (not_not_intro hnext), if_neg hsrc, if_pos (by simpa using htransit)]
    rfl
  case doze =>
    intro i b s f toB hk hz
    change execLinkFlitReceived i b toB f s = _
    unfold execLinkFlitReceived
    exact if_pos (by simp [hk, hz])
  case between =>
    intro s die f h
    unfold State.deliver
    exact if_neg h
  case arrives =>
    intro x p hb ha hd
    have expected := Pair.arrives_expected hb ha hd
    refine ⟨fun hl hall => ?_, fun hf hl => ?_⟩
    · rw [expected, if_pos (wholePacket_last hl hall)]
    · rw [expected, wholePacket_open hf hl, if_neg (by decide)]
  case covered =>
    intro i b toB l s d hs hd hr hl hsp hn
    exact ⟨_, exec_retrain_covered hd hr hl hsp hn, State.linkDir_setLinkDir_self hs.linksWf, rfl⟩
  case beyond =>
    intro i b toB l s d hs hd hr hsp
    exact retrain_fails hs.linksWf hd hr hsp
  case acknowledged =>
    intro i fromB die n s hs hbefore
    exact ⟨_, event_true hbefore, State.storeAt_setStoreAt_self hs.linksWf, fun j x hj => State.storeAt_setStoreAt_other hs.linksWf hj, rfl⟩

end Sys2Proof.Machine
end

section
/-! PROOFS. The descriptor in front of a pseudo-channel's queue and the chunks of the one that runs (R195 to R208). -/

namespace Sys2Proof.Machine

variable {s t u : State} {k p j : Nat} {x : PseudoChannel} {run : QuernRun} {e : QuernEntry}

/-! ## One pseudo-channel changes -/

section
variable {g : PseudoChannel → PseudoChannel} (hs : s.Banked k)
include hs

theorem State.Banked.modPseudo : (s.modPseudo k p g).Banked k := (State.modPseudo_pseudo hs).1

theorem State.pseudo_modPseudo_self : (s.modPseudo k p g).pseudo k p = g (s.pseudo k p) :=
  ((State.modPseudo_pseudo hs).2 p).trans (if_pos rfl)

theorem State.pseudo_modPseudo_other {q : Nat} (hj : (j, q) ≠ (k, p)) : (s.modPseudo k p g).pseudo j q = s.pseudo j q := by
  by_cases e : j = k
  · subst e
    exact ((State.modPseudo_pseudo hs).2 q).trans (if_neg fun e => hj (by rw [e]))
  · unfold State.pseudo
    rw [show (s.modPseudo k p g).stack j = s.stack j from State.stack_modStack_other hs.1 e]

/-- The stack keeps what it has beside its pseudo-channels. -/
theorem State.stack_modPseudo : (s.modPseudo k p g).stack k = (s.stack k).setPc p (g (s.pseudo k p)) := State.stack_modStack_self hs.1

theorem State.band_modPseudo : ((s.modPseudo k p g).stack k).band = (s.stack k).band := by rw [State.stack_modPseudo hs]; rfl

theorem State.halfDuty_modPseudo : ((s.modPseudo k p g).stack k).halfDuty = (s.stack k).halfDuty := by rw [State.stack_modPseudo hs]; rfl

theorem State.rowVisits_modPseudo : ((s.modPseudo k p g).stack k).rowVisits = (s.stack k).rowVisits := by rw [State.stack_modPseudo hs]; rfl

end

/-! ## The front of the queue (R195, R199, R200) -/

/-- The band of the first chunk of a descriptor. -/
theorem State.chunkBandNow_idle (hx : (s.pseudo k p).running = none) : s.chunkBandNow k p e =
    match s.quernAction e with
    | some a => max (sget 0 a.bankBands k) (s.stack k).band
    | none => (s.stack k).band := by
  unfold State.chunkBandNow
  dsimp only
  rw [hx]
  rfl

section
variable {k : Fin 8} {p : Fin 64} {l : List QuernEntry} (hx : s.pseudo k p = x) (hq : x.queue = e :: l) (hm : x.mode = .compute)
  (hr : x.running = none) (hn : x.resting = false) (hp : s.paused = false)
include hx hq hm hr hn hp

/-- A good descriptor runs. -/
theorem exec_dequeue_good (hb : x.badRow (quernDesc e.bytes) = none) (hv : validQuern e.bytes = true) :
    exec (.quernDescriptorDequeue k p) s = .next ((s.modPseudo k p fun x => { x with queue := l }).modPseudo k p fun y =>
      { y with
        running := some { entry := e, rowsDone := 0, parts := [], scores := [] }, chunkBand := s.chunkBandNow k p e, chunkIn := true
        flags := if ((s.modPseudo k p fun x => { x with queue := l }).stack k).halfDuty then y.flags ||| 4 else y.flags }) := by
  change execQuernDescriptorDequeue k p s = _
  unfold execQuernDescriptorDequeue
  dsimp only
  rw [hx, hq]
  dsimp only
  rw [if_neg (by simp [hm, hr, hn, hp]), hb]
  dsimp only
  rw [hv, if_neg (by decide)]

/-- A bad one is refused, by the row that it names or by its first row. -/
theorem exec_dequeue_bad {r : Nat} (hb : x.badRow (quernDesc e.bytes) = some r ∨
      (x.badRow (quernDesc e.bytes) = none ∧ validQuern e.bytes = false ∧ r = (quernDesc e.bytes).firstRow)) :
    exec (.quernDescriptorDequeue k p) s =
      .next (((s.modPseudo k p fun x => { x with queue := l }).guardTrip k p e r).refillQuern k p) := by
  change execQuernDescriptorDequeue k p s = _
  unfold execQuernDescriptorDequeue
  dsimp only
  rw [hx, hq]
  dsimp only
  rw [if_neg (by simp [hm, hr, hn, hp])]
  rcases hb with hb | ⟨hb, hv, rfl⟩
  · rw [hb]
  · rw [hb]
    dsimp only
    rw [hv, if_pos (by decide)]

end

/-! ## Chunks (R196, R204, R207, R208) -/

theorem QuernRun.entry_visit {d : QuernDesc} {y i : Nat} : (s.visit k p d y i run).entry = run.entry := by
  unfold State.visit
  dsimp only
  split <;> rfl

theorem QuernRun.entry_visits {d : QuernDesc} {l : List (Nat × Nat)} :
    (l.foldl (fun run e => s.visit k p d e.1 e.2 run) run).entry = run.entry := by
  induction l generalizing run with
  | nil => rfl
  | cons e l ih => exact ih.trans QuernRun.entry_visit

/-- The rows of the chunk in progress are counted. -/
structure Counted (s : State) (k p : Nat) (x : PseudoChannel) (run : QuernRun) (t : State) : Prop where
  banked : t.Banked k
  pseudo : ∀ q, t.pseudo k q = s.pseudo k q
  band : (t.stack k).band = (s.stack k).band
  halfDuty : (t.stack k).halfDuty = (s.stack k).halfDuty
  visits : (t.stack k).rowVisits = (s.stack k).rowVisits + (quernDesc run.entry.bytes).visits (run.rowsDone / 4)
    (min (chunkRows x.chunkBand) ((quernDesc run.entry.bytes).rows - run.rowsDone / 4))
  frame : t = { s with memStacks := t.memStacks }

theorem State.countVisits_counted (hs : s.Banked k) (hx : s.pseudo k p = x) : Counted s k p x run (s.countVisits k p run) := by
  obtain ⟨v, hv⟩ : ∃ v, v = (quernDesc run.entry.bytes).visits (run.rowsDone / 4)
    (min (chunkRows x.chunkBand) ((quernDesc run.entry.bytes).rows - run.rowsDone / 4)) := ⟨_, rfl⟩
  have counted : s.countVisits k p run = s.modStack k fun t => { t with rowVisits := t.rowVisits + v } := by
    unfold State.countVisits PseudoChannel.chunkSpan
    rw [hx, hv]
  have stack : (s.countVisits k p run).stack k = { s.stack k with rowVisits := (s.stack k).rowVisits + v } := by
    rw [counted]
    exact State.stack_modStack_self hs.1
  refine ⟨⟨by rw [counted]; exact swf_sput hs.1, by rw [stack]; exact hs.2⟩, fun q => ?_, by rw [stack], by rw [stack], by rw [stack, hv],
    by rw [counted]; rfl⟩
  unfold State.pseudo
  rw [stack]
  rfl

theorem Counted.bandNow (h : Counted s k p x run t) : t.chunkBandNow k p e = s.chunkBandNow k p e := by
  have action : t.quernAction e = s.quernAction e := by rw [h.frame]; rfl
  unfold State.chunkBandNow
  dsimp only
  rw [action, h.pseudo, h.band]

/-- A pseudo-channel after a chunk that is not its descriptor's last. -/
def PseudoChannel.chunkDone (x : PseudoChannel) (run : QuernRun) (rows band : Nat) (half : Bool) : PseudoChannel :=
  { x with
    running := some { run with rowsDone := 4 * rows }, postponed := [], chunkBand := band, chunkIn := false, resting := half
    flags := if half then x.flags ||| 4 else x.flags }

/-- The chunk in progress of a descriptor that goes on. -/
theorem State.runChunk_done (hs : s.Banked k) (hx : s.pseudo k p = x) (hm : x.mode = .compute) :
    ∃ run', run'.entry = run.entry ∧ ((s.runChunk k p run).stack k).rowVisits = (s.stack k).rowVisits +
        (quernDesc run.entry.bytes).visits (run.rowsDone / 4)
          (min (chunkRows x.chunkBand) ((quernDesc run.entry.bytes).rows - run.rowsDone / 4)) ∧
      (s.runChunk k p run).pseudo k p = { x.chunkDone run' (run.rowsDone / 4 +
            min (chunkRows x.chunkBand) ((quernDesc run.entry.bytes).rows - run.rowsDone / 4)) (s.chunkBandNow k p run.entry)
          (s.stack k).halfDuty with
        chunkIn := !(s.stack k).halfDuty && !s.paused && decide (run.rowsDone / 4 +
          min (chunkRows x.chunkBand) ((quernDesc run.entry.bytes).rows - run.rowsDone / 4) < (quernDesc run.entry.bytes).rows) } ∧
      s.runChunk k p run = { s with memStacks := (s.runChunk k p run).memStacks } := by
  obtain ⟨d, hd⟩ : ∃ d, d = quernDesc run.entry.bytes := ⟨_, rfl⟩
  obtain ⟨n, hn⟩ : ∃ n, n = min (chunkRows x.chunkBand) (d.rows - run.rowsDone / 4) := ⟨_, rfl⟩
  obtain ⟨c, hc⟩ : ∃ c, c = s.countVisits k p run := ⟨_, rfl⟩
  have counted : Counted s k p x run c := hc ▸ State.countVisits_counted hs hx
  obtain ⟨run', hrun, entry⟩ : ∃ run', run' = ((d.positions (run.rowsDone / 4) n).flatMap fun y => (List.range d.vectors).map fun i => (y, i)).foldl
      (fun run e => c.visit k p d e.1 e.2 run) run ∧ run'.entry = run.entry := ⟨_, rfl, QuernRun.entry_visits⟩
  obtain ⟨v, hv⟩ : ∃ v, v = c.modPseudo k p fun y => y.chunkDone run' (run.rowsDone / 4 + n) (c.chunkBandNow k p run'.entry)
    (c.stack k).halfDuty := ⟨_, rfl⟩
  have ran : s.runChunk k p run = v.modPseudo k p fun y => { y with chunkIn := v.chunkMayBegin y && y.rowsLeft } := by
    rw [hv, hrun, hc, hn, hd]
    unfold State.runChunk PseudoChannel.chunkSpan
    rw [hx]
    rfl
  have banked : v.Banked k := hv ▸ counted.banked.modPseudo
  have done : v.pseudo k p = x.chunkDone run' (run.rowsDone / 4 + n) (s.chunkBandNow k p run.entry) (s.stack k).halfDuty := by
    rw [hv, State.pseudo_modPseudo_self counted.banked, counted.pseudo, hx, entry, counted.bandNow, counted.halfDuty]
  have pause : v.paused = s.paused := by rw [hv, counted.frame]; rfl
  refine ⟨run', entry, ?_, ?_, ?_⟩
  · rw [ran, State.rowVisits_modPseudo banked, hv, State.rowVisits_modPseudo counted.banked, counted.visits]
  · rw [ran, State.pseudo_modPseudo_self banked, done, ← hd, ← hn]
    have may : v.chunkMayBegin (x.chunkDone run' (run.rowsDone / 4 + n) (s.chunkBandNow k p run.entry) (s.stack k).halfDuty) =
        (!(s.stack k).halfDuty && !s.paused) := by
      simp [State.chunkMayBegin, PseudoChannel.chunkDone, hm, pause]
    have left : (x.chunkDone run' (run.rowsDone / 4 + n) (s.chunkBandNow k p run.entry) (s.stack k).halfDuty).rowsLeft =
        decide (run.rowsDone / 4 + n < d.rows) := by
      simp [PseudoChannel.rowsLeft, PseudoChannel.chunkDone, entry, hd]
    rw [may, left]
  · rw [ran, hv, counted.frame]
    rfl

/-- QUERN_CHUNK_END of a descriptor that goes on. -/
theorem exec_chunk_goes {k : Fin 8} {p : Fin 64} (hx : s.pseudo k p = x) (hr : x.running = some run) (hm : x.mode = .compute)
    (hd : run.dropped = false) (hn : x.resting = false) (hc : x.chunkIn = true) :
    exec (.quernChunkEnd k p) s = .next (s.runChunk k p run) := by
  change execQuernChunkEnd k p s = _
  unfold execQuernChunkEnd
  dsimp only
  rw [hx, hn, if_neg (by decide), hr]
  dsimp only
  rw [hc, if_neg (by decide), if_neg (by simp [hd, hm])]

/-- And of one that ends with it. -/
theorem exec_chunk_last {k : Fin 8} {p : Fin 64} (hx : s.pseudo k p = x) (hr : x.running = some run)
    (hd : run.dropped = true ∨ x.mode ≠ .compute) (hn : x.resting = false) (hc : x.chunkIn = true) :
    exec (.quernChunkEnd k p) s = .next ((s.countVisits k p run).modPseudo k p PseudoChannel.endLast) := by
  change execQuernChunkEnd k p s = _
  unfold execQuernChunkEnd
  dsimp only
  rw [hx, hn, if_neg (by decide), hr]
  dsimp only
  rw [hc, if_neg (by decide), if_pos hd]

/-- A rest ends; the next chunk begins where rows are left and nothing holds it. -/
theorem exec_rest_ends {k : Fin 8} {p : Fin 64} (hs : s.Banked k) (hx : s.pseudo k p = x) (hr : x.running = some run)
    (hn : x.resting = true) :
    ∃ t, exec (.quernChunkEnd k p) s = .next t ∧ t.pseudo k p = (if x.mode = .compute ∧ s.paused = false ∧ x.rowsLeft = true then
        { x with resting := false, chunkIn := true, chunkBand := s.chunkBandNow k p run.entry }
      else { x with resting := false }) ∧ t = { s with memStacks := t.memStacks } := by
  obtain ⟨v, hv⟩ : ∃ v, v = s.modPseudo k p fun x => { x with resting := false } := ⟨_, rfl⟩
  have banked : v.Banked k := hv ▸ hs.modPseudo
  have rested : v.pseudo k p = { x with resting := false } := by rw [hv, State.pseudo_modPseudo_self hs, hx]
  have band : v.chunkBandNow k p run.entry = s.chunkBandNow k p run.entry := by
    have action : v.quernAction run.entry = s.quernAction run.entry := by rw [hv]; rfl
    unfold State.chunkBandNow
    dsimp only
    rw [action, rested, hx, hv, State.band_modPseudo hs]
  have may : (v.chunkMayBegin (v.pseudo k p) && (v.pseudo k p).rowsLeft) = decide (x.mode = .compute ∧ s.paused = false ∧ x.rowsLeft = true) := by
    have pause : v.paused = s.paused := by rw [hv]; rfl
    rw [rested]
    unfold State.chunkMayBegin PseudoChannel.rowsLeft
    rw [Bool.eq_iff_iff]
    simp [pause, hr, and_assoc]
  have ends : exec (.quernChunkEnd k p) s =
      .next (if (v.chunkMayBegin (v.pseudo k p) && (v.pseudo k p).rowsLeft : Bool) then v.beginChunk k p else v) := by
    change execQuernChunkEnd k p s = _
    unfold execQuernChunkEnd
    dsimp only
    rw [hx, hn, if_pos rfl, hv]
  have begins : v.beginChunk k p = v.modPseudo k p fun x => { x with chunkIn := true, chunkBand := s.chunkBandNow k p run.entry } := by
    unfold State.beginChunk
    rw [rested]
    dsimp only
    rw [hr]
    dsimp only
    rw [band]
  refine ⟨_, ends, ?_, ?_⟩
  · rw [may, begins]
    by_cases h : x.mode = .compute ∧ s.paused = false ∧ x.rowsLeft = true
    · rw [if_pos h, if_pos (decide_eq_true h), State.pseudo_modPseudo_self banked, rested]
    · rw [if_neg h, if_neg (by rw [decide_eq_false h]; decide), rested]
  · rw [begins]
    split
    · rw [hv]; rfl
    · rw [hv]; rfl

end Sys2Proof.Machine
end

section
/-! PROOFS. The arithmetic of the units, the bank chain, and the result that unit 15 writes (R185, R198, R201, R202, R213). -/

namespace Sys2Proof.Machine

variable {s t u : State} {k p x i h n b : Nat} {d : QuernDesc} {run : QuernRun} {l : List Byte}

/-! ## One position (R201, R202) -/

section
variable {q key val : List Val}

theorem QuernDesc.keyOf_eq {rec : List Byte} : d.keyOf rec h =
    (List.range d.dim).map fun j => (elemFmt d.format).decode (le rec ((h * d.dim + j) * d.elementSize) d.elementSize) := by
  unfold QuernDesc.keyOf QuernDesc.elems
  simp only [Nat.add_mul]

theorem QuernDesc.valueOf_eq {rec : List Byte} : d.valueOf rec h =
    (List.range d.dim).map fun j =>
      (elemFmt d.format).decode (le rec (((d.heads + h) * d.dim + j) * d.elementSize) d.elementSize) := by
  unfold QuernDesc.valueOf QuernDesc.elems
  simp only [Nat.add_mul]

variable (hh : i / d.queries = h)
include hh

/-- DOT adds a score. -/
theorem State.visit_dot (hq : ((List.range d.dim).map fun j =>
      bf16.decode (leNat (s.windowRead k p (d.operand + i * d.dim * 2 + j * 2) 2))) = q)
    (hk : d.keyOf (s.record k p d x) h = key) (ho : d.op = 1) :
    s.visit k p d x i run = { run with
      scores := sput 0 run.scores (i * d.length + x) (fmul d.scale ((q.zip key).foldl (fun acc e => fma e.1 e.2 acc) 0)) } := by
  unfold State.visit
  dsimp only
  rw [if_pos ho, hh, hk, hq]
  rfl

/-- WSUM adds the weighted value to the outputs of a unit. -/
theorem State.visit_wsum {r : Part} {w : Word} (hv : d.valueOf (s.record k p d x) h = val)
    (hr : sget (emptyPart d.dim) run.parts (unitOf (x % 64) * 256 + i) = r)
    (hw : BitVec.ofNat 32 (leNat (s.windowRead k p (d.operand + (i * d.length + x) * 4) 4)) = w) (ho : d.op = 2) :
    s.visit k p d x i run = { run with
      parts := sput (emptyPart d.dim) run.parts (unitOf (x % 64) * 256 + i)
        { r with o := (val.zip r.o).map fun e => fma (ofFp32 w) e.1 e.2 } } := by
  unfold State.visit
  dsimp only
  rw [if_neg (by rw [ho]; decide), if_pos ho, hh, hv, hr, hw]

/-- ATTEND attends. -/
theorem State.visit_attend {r : Part} {sc : Word} (hq : ((List.range d.dim).map fun j =>
      bf16.decode (leNat (s.windowRead k p (d.operand + i * d.dim * 2 + j * 2) 2))) = q)
    (hk : d.keyOf (s.record k p d x) h = key) (hv : d.valueOf (s.record k p d x) h = val)
    (hr : sget (emptyPart d.dim) run.parts (unitOf (x % 64) * 256 + i) = r) (ho : d.op = 3)
    (hs : fmul d.scale ((q.zip key).foldl (fun acc e => fma e.1 e.2 acc) 0) = sc) :
    s.visit k p d x i run = { run with
      parts := sput (emptyPart d.dim) run.parts (unitOf (x % 64) * 256 + i) (r.attend sc val) } := by
  unfold State.visit
  dsimp only
  rw [if_neg (by rw [ho]; decide), if_neg (by rw [ho]; decide), hh, hk, hv, hr, hq, show score q key d.scale = sc from hs]

end

section
variable {r : Part} {sc a w : Word} {v : List Val} (hv : ∀ e ∈ v, e ≠ .nan)

theorem Part.attend_negInf (hs : sc = negInf) : r.attend sc v = r := if_pos hs

include hv

theorem any_isNaN : v.any Val.isNaN = false := by
  rw [List.any_eq_false]
  intro e he hn
  refine hv e he ?_
  cases e with
  | nan => rfl
  | fin => exact absurd hn (by simp [Val.isNaN])
  | inf => exact absurd hn (by simp [Val.isNaN])

/-- A score above the maximum is the new one, and what the unit has is scaled to it. -/
theorem Part.attend_above (hs : sc ≠ negInf) (hm : fless r.m sc = true) (ha : fexp2 (fsub r.m sc) = a)
    (hw : fexp2 (fsub sc sc) = w) : r.attend sc v =
      { m := sc, l := fadd (fmul r.l a) w, o := (v.zip r.o).map fun e => fma (ofFp32 w) e.1 (fmul e.2 a) } := by
  unfold Part.attend
  dsimp only
  rw [if_neg hs, if_pos (Or.inl hm), any_isNaN hv, if_neg (by decide), ha, hw, List.zip_map_right, List.map_map]
  rfl

/-- One that is not above it is weighed against it. -/
theorem Part.attend_below (hn : isNaN32 sc = false) (hs : sc ≠ negInf) (hm : fless r.m sc = false) (hw : fexp2 (fsub sc r.m) = w) :
    r.attend sc v = { r with l := fadd r.l w, o := (v.zip r.o).map fun e => fma (ofFp32 w) e.1 e.2 } := by
  unfold Part.attend
  dsimp only
  have below : ¬(fless r.m sc = true ∨ (isNaN32 sc = true ∧ r.m = negInf)) := by rw [hm, hn]; simp
  rw [if_neg hs, any_isNaN hv, if_neg (by decide), if_neg below, hw]

end

section
variable {acc r : Part} {m a b : Word}

theorem Part.merge_empty (hr : r.m = negInf) : acc.merge r = acc := if_pos hr

theorem Part.merge_first (hr : r.m ≠ negInf) (ha : acc.m = negInf) : acc.merge r = r := by
  unfold Part.merge
  rw [if_neg hr, if_pos ha]

theorem Part.merge_both (hr : r.m ≠ negInf) (hacc : acc.m ≠ negInf) (hm : m = fmaxNum acc.m r.m) (ha : a = fexp2 (fsub acc.m m))
    (hb : b = fexp2 (fsub r.m m)) :
    acc.merge r = { m := m, l := ffma r.l b (fmul acc.l a), o := (r.o.zip acc.o).map fun e => ffma e.1 b (fmul e.2 a) } := by
  unfold Part.merge
  rw [if_neg hr, if_neg hacc, ha, hb, hm]

end

/-! ## The result window (R194, R198) -/

/-- A window's bytes lie apart. -/
theorem windowKey_inj {f r y : Nat} (_hy : y < 65536) (e : windowKey k p f r x = windowKey k p f r y) : x = y := by
  unfold windowKey rowAddress at e
  omega

/-- Bytes of the result window written one after another. -/
def windowPut (key : Nat → Nat) (m : List Host.Cell) (x : Nat) : List Byte → List Host.Cell
  | [] => m
  | b :: l => windowPut key (memPut m (key x) b) (x + 1) l

theorem windowPut_eq_foldl (key : Nat → Nat) {m : List Host.Cell} {j : Nat} :
    (l.zipIdx j).foldl (fun m (b, i) => memPut m (key (x + i)) b) m = windowPut key m (x + j) l := by
  induction l generalizing m j with
  | nil => rfl
  | cons b l ih => exact ih

theorem windowPut_append {key : Nat → Nat} {m : List Host.Cell} {a b : List Byte} :
    windowPut key m x (a ++ b) = windowPut key (windowPut key m x a) (x + a.length) b := by
  induction a generalizing m x with
  | nil => rfl
  | cons y a ih =>
    change windowPut key (memPut m (key x) y) (x + 1) (a ++ b) = _
    rw [ih]
    change _ = windowPut key (windowPut key (memPut m (key x) y) (x + 1) a) (x + (a.length + 1)) b
    rw [show x + 1 + a.length = x + (a.length + 1) by omega]

theorem windowPut_outside {key : Nat → Nat} {m : List Host.Cell} {a : Nat} (hm : Memory.wf m = true)
    (ha : ∀ i, i < l.length → a ≠ key (x + i)) : memGet (windowPut key m x l) a = memGet m a := by
  induction l generalizing m x with
  | nil => rfl
  | cons b l ih =>
    have there : a ≠ key x := ha 0 (by simp)
    refine (ih (Memory.wf_put hm) fun i hi => ?_).trans ((memGet_put hm).trans (if_neg there))
    rw [Nat.add_assoc, Nat.add_comm 1 i]
    exact ha (i + 1) (by simpa using hi)

theorem windowPut_inside {key : Nat → Nat} {m : List Host.Cell} (hm : Memory.wf m = true) {hi : Nat}
    (hinj : ∀ a b, b < hi → key a = key b → a = b) (hx : x + l.length ≤ hi) (hn : n < l.length) :
    memGet (windowPut key m x l) (key (x + n)) = byteAt l n := by
  induction l generalizing m x n with
  | nil => exact absurd hn (by simp)
  | cons b l ih =>
    rw [List.length_cons] at hx hn
    cases n with
    | zero =>
      have apart : ∀ i, i < l.length → key x ≠ key (x + 1 + i) := fun i hi e => by
        have := hinj x (x + 1 + i) (by omega) e
        omega
      exact (windowPut_outside (Memory.wf_put hm) apart).trans ((memGet_put hm).trans (if_pos rfl))
    | succ n =>
      rw [show x + (n + 1) = x + 1 + n by omega]
      exact ih (Memory.wf_put hm) (by omega) (by omega)

/-- The key of a byte of a pseudo-channel's result window. -/
def State.resultKey (s : State) (k p : Nat) : Nat → Nat := windowKey k p (s.pseudo k p).firstSeg 1

theorem State.resultWords_eq {l : List Word} : s.resultWords k p x l =
    { s with mem := windowPut (s.resultKey k p) s.mem x (l.flatMap fun w => leBytes 4 w.toNat) } := by
  unfold State.resultWords State.resultWrite
  rw [windowPut_eq_foldl (windowKey k p (s.pseudo k p).firstSeg 1)]
  rfl

theorem leBytes_length {v : Nat} : (leBytes n v).length = n := by
  induction n generalizing v with
  | zero => rfl
  | succ n ih => exact congrArg (· + 1) ih

theorem flatMap_leBytes_length {l : List Word} : (l.flatMap fun w => leBytes 4 w.toNat).length = 4 * l.length := by
  induction l with
  | nil => rfl
  | cons w l ih => rw [List.flatMap_cons, List.length_append, ih, leBytes_length, List.length_cons]; omega

theorem byteAt_flatMap_leBytes {l : List Word} {y : Word} (hn : l[n]? = some y) (hb : b < 4) :
    byteAt (l.flatMap fun w => leBytes 4 w.toNat) (4 * n + b) = byteAt (leBytes 4 y.toNat) b := by
  unfold byteAt
  induction l generalizing n with
  | nil => exact absurd hn (by simp)
  | cons w l ih =>
    rw [List.flatMap_cons]
    cases n with
    | zero =>
      obtain rfl : w = y := by simpa using hn
      rw [Nat.mul_zero, Nat.zero_add, List.getD_append _ _ _ _ (by rw [leBytes_length]; exact hb)]
    | succ n =>
      rw [List.getD_append_right _ _ _ _ (by rw [leBytes_length]; omega), leBytes_length,
        show 4 * (n + 1) + b - 4 = 4 * n + b by omega]
      exact ih (by simpa using hn)

/-- Words written after others are written with them. -/
theorem State.resultWords_append {a c : List Word} :
    (s.resultWords k p x a).resultWords k p (x + 4 * a.length) c = s.resultWords k p x (a ++ c) := by
  rw [State.resultWords_eq, State.resultWords_eq, State.resultWords_eq, List.flatMap_append, windowPut_append, flatMap_leBytes_length]
  rfl

/-- Results of one length, one after another. -/
theorem State.resultWords_range {f : Nat → List Word} {c : Nat} (hf : ∀ i, (f i).length = c) :
    (List.range n).foldl (fun s i => s.resultWords k p (x + i * c * 4) (f i)) s = s.resultWords k p x ((List.range n).flatMap f) := by
  induction n with
  | zero => rfl
  | succ n ih =>
    have len : ((List.range n).flatMap f).length = n * c := by
      rw [List.length_flatMap]
      simp [hf]
    rw [List.range_succ, List.foldl_append, ih, List.flatMap_append, List.foldl_cons, List.foldl_nil]
    have append := State.resultWords_append (s := s) (k := k) (p := p) (x := x) (a := (List.range n).flatMap f) (c := f n)
    rw [len] at append
    rw [show x + n * c * 4 = x + 4 * (n * c) by omega, append]
    simp

/-- The words of a result (R198). -/
def QuernRun.words (run : QuernRun) (d : QuernDesc) : List Word :=
  if d.op = 1 then (List.range (d.vectors * d.length)).map (sget 0 run.scores)
  else if d.op = 2 then (List.range d.vectors).flatMap fun i => (run.chain d i).o
  else (List.range d.vectors).flatMap fun i => (run.chain d i).m :: (run.chain d i).l :: (run.chain d i).o

variable (hlen : ∀ i, (run.chain d i).o.length = d.dim)
include hlen

theorem State.writeResult_eq (hl : d.length ≠ 0) : s.writeResult k p d run = s.resultWords k p d.result (run.words d) := by
  unfold State.writeResult QuernRun.words
  dsimp only
  rw [if_neg hl]
  by_cases h1 : d.op = 1
  · rw [if_pos h1, if_pos h1]
  rw [if_neg h1, if_neg h1]
  by_cases h2 : d.op = 2
  · simp only [if_pos h2]
    exact State.resultWords_range hlen
  · simp only [if_neg h2]
    exact State.resultWords_range fun i => by simp [hlen]

/-- They fit the window of a valid descriptor. -/
theorem QuernRun.words_fit (hd : quernDesc l = d) (hv : validQuern l = true) : d.result + 4 * (run.words d).length ≤ 65536 := by
  have fits : d.result + d.resultBytes ≤ 65536 := by
    unfold validQuern at hv
    simp only [Bool.and_eq_true, decide_eq_true_eq, hd] at hv
    omega
  refine Nat.le_trans (Nat.add_le_add_left ?_ _) fits
  unfold QuernRun.words QuernDesc.resultBytes
  by_cases h1 : d.op = 1
  · rw [if_pos h1, if_pos h1]
    simp; omega
  rw [if_neg h1, if_neg h1]
  by_cases h2 : d.op = 2
  · rw [if_pos h2, if_pos h2, List.length_flatMap]
    simp [hlen]; omega
  · rw [if_neg h2, if_neg h2, List.length_flatMap]
    simp [hlen, show d.dim + 1 + 1 = d.dim + 2 from rfl]
    omega

/-- The window holds the words of the result, and everything else what it held. -/
theorem State.writeResult_mem (hs : s.Canonical) (hd : quernDesc l = d) (hv : validQuern l = true) (hl : d.length ≠ 0) :
    (∀ y, (run.words d)[n]? = some y → b < 4 →
      memGet (s.writeResult k p d run).mem (windowKey k p (s.pseudo k p).firstSeg 1 (d.result + 4 * n + b)) =
        byteAt (leBytes 4 y.toNat) b) ∧
    ∀ a, (∀ i, i < 4 * (run.words d).length → a ≠ windowKey k p (s.pseudo k p).firstSeg 1 (d.result + i)) →
      memGet (s.writeResult k p d run).mem a = memGet s.mem a := by
  rw [State.writeResult_eq hlen hl, State.resultWords_eq]
  have fits := QuernRun.words_fit hlen hd hv
  rw [← flatMap_leBytes_length] at fits
  refine ⟨fun y hn hb => ?_, fun a ha => windowPut_outside hs.mem fun i hi => ha i (by rwa [flatMap_leBytes_length] at hi)⟩
  have bound : 4 * n + b < ((run.words d).flatMap fun w => leBytes 4 w.toNat).length := by
    rw [flatMap_leBytes_length]
    have := (List.getElem?_eq_some_iff.1 hn).1
    omega
  rw [Nat.add_assoc]
  exact (windowPut_inside hs.mem (fun a b hb e => windowKey_inj hb e) fits bound).trans (byteAt_flatMap_leBytes hn hb)

omit hlen in
/-- The result writes memory and nothing else. -/
theorem State.writeResult_frame : s.writeResult k p d run = { s with mem := (s.writeResult k p d run).mem } := by
  have words {v : State} {x : Nat} {l : List Word} (e : v = { s with mem := v.mem }) :
      v.resultWords k p x l = { s with mem := (v.resultWords k p x l).mem } := by
    rw [State.resultWords_eq, e]
  have all {f : State → Nat → State} (hf : ∀ v i, v = { s with mem := v.mem } → f v i = { s with mem := (f v i).mem })
      {l : List Nat} : ∀ v : State, v = { s with mem := v.mem } → l.foldl f v = { s with mem := (l.foldl f v).mem } := by
    induction l with
    | nil => exact fun v e => e
    | cons i l ih => exact fun v e => ih _ (hf v i e)
  unfold State.writeResult
  dsimp only
  by_cases hl : d.length = 0
  · rw [if_pos hl]
  rw [if_neg hl]
  by_cases h1 : d.op = 1
  · rw [if_pos h1]
    exact words rfl
  rw [if_neg h1]
  refine all (fun v i e => ?_) s rfl
  by_cases h2 : d.op = 2
  · rw [if_pos h2]
    exact words e
  · rw [if_neg h2]
    exact words e

omit hlen in
/-- QUERN_DESCRIPTOR_END of a descriptor whose rows are done. -/
theorem exec_descriptor_end {k : Fin 8} {p : Fin 64} {x : PseudoChannel} (hs : s.Canonical) (hx : s.pseudo k p = x)
    (hr : x.running = some run) (hd : quernDesc run.entry.bytes = d) (hm : x.mode = .compute) (hn : run.dropped = false)
    (hl : 4 * d.rows ≤ run.rowsDone) :
    ∃ t, exec (.quernDescriptorEnd k p) s = .next t ∧ t.mem = (s.writeResult k p d run).mem ∧ (t.pseudo k p).running = none ∧
      (t.pseudo k p).completed = x.completed + 1 ∧ (t.pseudo k p).lastTag = BitVec.ofNat 32 d.tag ∧
      (∀ j q, (j, q) ≠ (k.val, p.val) → t.pseudo j q = s.pseudo j q) ∧ t = { s with memStacks := t.memStacks, mem := t.mem } := by
  obtain ⟨w, hw⟩ : ∃ w, w = s.writeResult k p d run := ⟨_, rfl⟩
  have frame : w = { s with mem := w.mem } := hw ▸ State.writeResult_frame
  have pseudo : ∀ j q, w.pseudo j q = s.pseudo j q := fun j q => by rw [frame]; rfl
  have banked : w.Banked k := by
    have := hs.banked (k := k)
    unfold State.Banked State.stack at *
    rw [frame]
    exact this
  obtain ⟨v, hv⟩ : ∃ v, v = w.modPseudo k p fun x =>
      { x with running := none, chunkIn := false, completed := x.completed + 1, lastTag := BitVec.ofNat 32 d.tag } := ⟨_, rfl⟩
  have banked' : v.Banked k := hv ▸ banked.modPseudo
  have ends : exec (.quernDescriptorEnd k p) s = .next (v.refillQuern k p) := by
    change execQuernDescriptorEnd k p s = _
    unfold execQuernDescriptorEnd
    dsimp only
    rw [hx, hr]
    dsimp only
    rw [hd, if_neg (by simp [hm, hn, hl]), hv, hw]
  obtain ⟨g, hg, keeps⟩ : ∃ g : PseudoChannel → PseudoChannel, v.refillQuern k p = v.modPseudo k p g ∧
      ∀ y, (g y).running = y.running ∧ (g y).completed = y.completed ∧ (g y).lastTag = y.lastTag := ⟨_, rfl, fun _ => ⟨rfl, rfl, rfl⟩⟩
  obtain ⟨run_, done, tag⟩ := keeps (v.pseudo k p)
  have self : v.pseudo k p = { x with running := none, chunkIn := false, completed := x.completed + 1, lastTag := BitVec.ofNat 32 d.tag } := by
    rw [hv, State.pseudo_modPseudo_self banked, pseudo, hx]
  rw [ends, hg]
  refine ⟨_, rfl, ?_, ?_, ?_, ?_, fun j q hj => ?_, ?_⟩
  · rw [hv, ← hw]; rfl
  · rw [State.pseudo_modPseudo_self banked', run_, self]
  · rw [State.pseudo_modPseudo_self banked', done, self]
  · rw [State.pseudo_modPseudo_self banked', tag, self]
  · rw [State.pseudo_modPseudo_other banked' hj, hv, State.pseudo_modPseudo_other banked hj, pseudo]
  · rw [hv, frame]; rfl

end Sys2Proof.Machine
end

section
/-! PROOFS. The rows of a Hopper unit (R264, R268, R273, R274, R276, R277). -/

namespace Sys2Proof.Machine

variable {s t u v w : State} {x : Hopper} {m : Cmd} {p : Plan} {item : SamplerItem} {record : List Byte} {flags : Nat}

/-! ## The end of a row -/

/-- A unit after a row. -/
def Hopper.afterRow (x : Hopper) (paused : Bool) (flags : Nat) : Hopper :=
  { x with
    nextRow := x.nextRow + 1, inRow := !paused, running := decide (x.nextRow + 1 < x.endRow), rowsDone := saturate32 (x.rowsDone + 1)
    flaggedRows := if flags &&& 28 = 0 then x.flaggedRows else saturate16 (x.flaggedRows + 1)
    trouble := if flags &&& 28 = 0 then x.trouble else x.trouble ||| 4#32 }

/-- The state after the echo of a row. -/
def State.echoed (s : State) (item : SamplerItem) (x : Hopper) (record : List Byte) : State :=
  if item.echo = 0 then s else s.writeOwn (item.echo + 16 * x.nextRow) record

theorem State.echoed_accessed : Accessed s (s.echoed item x record) := by
  unfold State.echoed
  split
  · exact Reaches.refl
  · exact Reaches.refl.writeOwn

theorem Reaches.hoppers_eq {q : Keeping} (h : Reaches q s t) : t.hoppers = s.hoppers := by
  obtain ⟨m, rfl, -⟩ := h
  rfl

theorem Reaches.paused_eq {q : Keeping} (h : Reaches q s t) : t.paused = s.paused := by
  obtain ⟨m, rfl, -⟩ := h
  rfl

/-- The trouble bit of a unit. -/
theorem State.setTroubleBit_hopper {h b c : Nat} {sc : Nat × Nat} (hs : swf {} s.hoppers = true) :
    (s.setTroubleBit (.hopper h) b sc c).hopper h =
      { s.hopper h with trouble := (s.hopper h).trouble ||| BitVec.ofNat 32 (2 ^ b) } ∧
    ∃ k l n f, s.setTroubleBit (.hopper h) b sc c = { s with hoppers := k, log := l, logNext := n, freshTrouble := f } :=
  ⟨State.hopper_modHopper_self (k := h) (g := fun t => { t with trouble := (s.hopper h).trouble ||| BitVec.ofNat 32 (2 ^ b) }) hs,
    _, _, _, _, rfl⟩

/-- A row's end on its unit. -/
theorem State.rowDone_hopper {h : Nat} (hx : s.hopper h = x) (hc : (s.echoed item x record).Canonical) :
    (s.rowDone h item record flags).hopper h = x.afterRow s.paused flags ∧
    ∃ k l n f, s.rowDone h item record flags =
      { s.echoed item x record with hoppers := k, log := l, logNext := n, freshTrouble := f } := by
  obtain ⟨e, he⟩ : ∃ e, e = s.echoed item x record := ⟨_, rfl⟩
  have access : Accessed s e := he ▸ State.echoed_accessed
  have self : e.hopper h = x := by
    unfold State.hopper at hx ⊢
    rw [access.hoppers_eq, hx]
  have pause : e.paused = s.paused := access.paused_eq
  obtain ⟨c, hcount⟩ : ∃ c, c = e.modHopper h fun y =>
    { y with nextRow := y.nextRow + 1, inRow := !e.paused, running := decide (y.nextRow + 1 < y.endRow)
             rowsDone := saturate32 (y.rowsDone + 1)
             flaggedRows := if (flags &&& 28 != 0 : Bool) then saturate16 (y.flaggedRows + 1) else y.flaggedRows } := ⟨_, rfl⟩
  have wf : swf {} c.hoppers = true := by rw [hcount]; exact swf_sput (he ▸ hc).hoppers
  have counted : c.hopper h = { x with
      nextRow := x.nextRow + 1, inRow := !s.paused, running := decide (x.nextRow + 1 < x.endRow), rowsDone := saturate32 (x.rowsDone + 1)
      flaggedRows := if (flags &&& 28 != 0 : Bool) then saturate16 (x.flaggedRows + 1) else x.flaggedRows } := by
    rw [hcount, State.hopper_modHopper_self (he ▸ hc).hoppers, self, pause]
  have done : s.rowDone h item record flags = if (flags &&& 28 != 0 : Bool) then c.setTroubleBit (.hopper h) 2 (5, x.context) x.context else c := by
    unfold State.rowDone
    rw [hx, hcount, he]
    rfl
  have rest : ∃ k, c = { e with hoppers := k } := ⟨_, hcount⟩
  rw [done, ← he]
  unfold Hopper.afterRow
  by_cases hf : flags &&& 28 = 0
  · have clean : (flags &&& 28 != 0) = false := by simp [hf]
    rw [clean, if_neg (by decide), counted, clean, if_pos hf, if_pos hf]
    obtain ⟨k, hk⟩ := rest
    exact ⟨rfl, k, _, _, _, hk⟩
  · have flagged : (flags &&& 28 != 0) = true := by simp [hf]
    obtain ⟨trouble, k, l, n, f, hk⟩ := State.setTroubleBit_hopper (h := h) (b := 2) (c := x.context) (sc := (5, x.context)) wf
    rw [flagged, if_pos rfl, trouble, counted, flagged, if_neg hf, if_neg hf]
    obtain ⟨_, hc'⟩ := rest
    refine ⟨rfl, k, l, n, f, ?_⟩
    rw [hk, hc']

/-! ## HOPPER_ROW_SAMPLE -/

section
variable {h : Fin 4} (hx : s.hopper h = x)
include hx

section
variable (hm : s.cmd x.context x.csn = some m) (hp : s.plan x.context m.planId = some p) (hr : x.running = true)
  (hd : x.dropped = false) (hn : x.nextRow < x.endRow) (hi : p.sampler x.item = item) (hh : s.rowHeld x item = false)
include hm hp hr hd hn hi hh

/-- The row of a command that goes on. -/
theorem exec_row_sampled (hs : s.sampleAt item p.id (item.rowAt x.nextRow) = (v, .ok (record, flags)))
    (hw : v.modCmd x.context x.csn (fun y => { y with
      records := sput [] y.records (p.firstRecord (m.actions.map (·.entry)) x.action + x.nextRow) record }) = w) :
    exec (.hopperRowSample h) s = .next (if ((w.rowDone h item record flags).hopper h).running then w.rowDone h item record flags
      else (w.rowDone h item record flags).nextJob h) := by
  change execHopperRowSample h s = _
  unfold execHopperRowSample
  dsimp only
  rw [hx, hm, Option.bind_some, hp]
  dsimp only [Option.map_some]
  rw [hi, if_neg (by simp [hr, hn, hh]), hs]
  dsimp only
  rw [hd, if_neg (by decide), hw]

/-- One that meets lost data. -/
theorem exec_row_lost {b : Nat} (hs : s.sampleAt item p.id (item.rowAt x.nextRow) = (v, .error b)) :
    exec (.hopperRowSample h) s = .next (v.hopperFault h x.context x.csn b 3) := by
  change execHopperRowSample h s = _
  unfold execHopperRowSample
  dsimp only
  rw [hx, hm, Option.bind_some, hp]
  dsimp only [Option.map_some]
  rw [hi, if_neg (by simp [hr, hn, hh]), hs]
  dsimp only
  rw [hd, if_neg (by decide)]

end

/-- None begins in a pause (R372). -/
theorem exec_row_paused (hp : s.paused = true) (hi : x.inRow = false) (hd : x.dropped = false) :
    exec (.hopperRowSample h) s = .next s := by
  change execHopperRowSample h s = _
  unfold execHopperRowSample
  dsimp only
  rw [hx]
  split
  · exact event_false (by simp [hd])
  · have held : ∀ t, s.rowHeld x t = true := fun t => by simp [State.rowHeld, hp, hi]
    rw [if_pos (Or.inr (Or.inr (held _)))]

/-- A row whose command is over ends with nothing left (R277). -/
theorem exec_row_dropped (hs : s.Canonical) (hd : x.dropped = true) (hw : x.waiting = []) (hc : s.cmd x.context x.csn = none) :
    ∃ t, exec (.hopperRowSample h) s = .next t ∧ t.hopper h = { x with running := false, dropped := false } ∧
      t = { s with hoppers := t.hoppers } := by
  obtain ⟨c, hcd⟩ : ∃ c, c = s.modHopper h fun x => { x with running := false, dropped := false } := ⟨_, rfl⟩
  have self : c.hopper h = { x with running := false, dropped := false } := by rw [hcd, State.hopper_modHopper_self hs.hoppers, hx]
  have idle : s.endDropped h = c := by
    unfold State.endDropped State.nextJob
    rw [← hcd, self]
    dsimp only
    rw [hw]
  have ends : exec (.hopperRowSample h) s = .next c := by
    change execHopperRowSample h s = _
    unfold execHopperRowSample
    dsimp only
    rw [hx, hc, Option.bind_none]
    exact (event_true hd).trans (by rw [idle])
  exact ⟨c, ends, self, by rw [hcd]; rfl⟩

end

/-- The next job of a unit (R264). -/
theorem State.nextJob_some {h : Nat} {j : HopperJob} {l : List HopperJob} (hw : (s.hopper h).waiting = j :: l)
    (hm : s.cmd j.context j.csn = some m) (hp : s.plan j.context m.planId = some p) :
    s.nextJob h = (s.modHopper h fun x => { x with waiting := l }).giveJob h (p.sampler j.item) j := by
  obtain ⟨c, hc⟩ : ∃ c, c = s.modHopper h fun x => { x with waiting := l } := ⟨_, rfl⟩
  have hm' : c.cmd j.context j.csn = some m := by rw [hc]; exact hm
  have hp' : c.plan j.context m.planId = some p := by rw [hc]; exact hp
  unfold State.nextJob
  rw [hw]
  dsimp only
  rw [← hc, hm', Option.bind_some, hp']

/-! ## What a row's record says (R268, R269, R273) -/

section
variable {id a : Nat} {head tail scores : List Byte} {g : RowConfig} (hr : s.readDevice {} a 16 = (v, head, none))
include hr

theorem State.sampleAt_skipped (hb : bit (le head 2 1) 2 = true) : s.sampleAt item id a =
    (v, .ok (leBytes 2 (le head 0 2) ++ [32#8, 0#8] ++ leBytes 4 (le head 4 4) ++ leBytes 4 0xFFFFFFFF ++ zeros 4, 32)) := by
  unfold State.sampleAt
  rw [hr]
  dsimp only
  rw [if_pos hb]
  simp [resultRecord, flagSkipped, noToken, leBytes, zeros]

variable (hb : bit (le head 2 1) 2 = false) (ht : v.readDevice {} (a + 16) 48 = (w, tail, none))
include hb ht

theorem State.sampleAt_bad (hg : rowConfig item (head ++ tail) = none) : s.sampleAt item id a =
    (w, .ok (leBytes 2 (le head 0 2) ++ [16#8, 0#8] ++ leBytes 4 (le head 4 4) ++ leBytes 4 0xFFFFFFFF ++ zeros 4, 16)) := by
  unfold State.sampleAt
  rw [hr]
  dsimp only
  rw [hb, if_neg (by decide), ht]
  dsimp only
  rw [hg]
  simp [resultRecord, flagBadHeader, noToken, leBytes, zeros]

theorem State.sampleAt_drawn {token : Nat} {logp : Word} (hg : rowConfig item (head ++ tail) = some g)
    (hs : w.readDevice {} (a + 64) (item.vocab * item.size) = (u, scores, none))
    (hd : sampleRow item g scores (le head 4 4) (id % 2 ^ 32 ^^^ id / 2 ^ 32 ^^^ item.salt ^^^ 2 ^ 16 * le head 0 2) = (token, flags, logp)) :
    s.sampleAt item id a = (u, .ok (leBytes 2 (le head 0 2) ++ leBytes 1 flags ++ zeros 1 ++ leBytes 4 (le head 4 4) ++
      leBytes 4 token ++ leBytes 4 logp.toNat, flags)) := by
  have salt : drawSalt id item.salt (le head 0 2) = id % 2 ^ 32 ^^^ id / 2 ^ 32 ^^^ item.salt ^^^ 2 ^ 16 * le head 0 2 := rfl
  unfold State.sampleAt
  rw [hr]
  dsimp only
  rw [hb, if_neg (by decide), ht]
  dsimp only
  rw [hg]
  dsimp only
  rw [hs]
  dsimp only
  rw [salt, hd]
  rfl

end

end Sys2Proof.Machine
end

section
/-! PROOFS. The choice of a token (R270 to R272), and what the units do. -/

namespace Sys2Proof.Machine

variable {item : SamplerItem} {g : RowConfig} {scores : List Byte} {position salt n i j k : Nat} {z : Nat → Word}

/-! ## The scan of a row (R270) -/

/-- What a scan has found in the first `n` scores of a row. -/
def SamplerItem.scan (item : SamplerItem) (g : RowConfig) (scores : List Byte) (n : Nat) : Scan :=
  (List.range n).foldl (fun x v => x.take g (item.score scores v) v) {}

theorem SamplerItem.scan_succ : item.scan g scores (n + 1) = (item.scan g scores n).take g (item.score scores n) n := by
  unfold SamplerItem.scan
  rw [List.range_succ, List.foldl_append]
  rfl

section
variable {x : Scan} {y : Word}

theorem Scan.take_nan (h : isNaN32 y = true) : x.take g y k = { x with nan := true } := if_pos h

theorem Scan.take_infinite (h : isNaN32 y = false) (hz : fmul y g.scale = 0x7F800000#32) :
    x.take g y k = { x with infinite := some (x.infinite.getD k) } := by
  unfold Scan.take
  rw [if_neg (by rw [h]; decide)]
  dsimp only
  rw [if_pos hz]

theorem Scan.take_lowest (h : isNaN32 y = false) (hz : fmul y g.scale = 0xFF800000#32) : x.take g y k = x := by
  unfold Scan.take Scan.take.negInfinity
  rw [if_neg (by rw [h]; decide)]
  dsimp only
  rw [hz, if_neg (by decide), if_pos rfl]

theorem Scan.take_candidate (h : isNaN32 y = false) (hz : fmul y g.scale ≠ 0x7F800000#32) (hl : fmul y g.scale ≠ 0xFF800000#32) :
    x.take g y k = { x with best := (insertBest (fmul y g.scale) k x.best).take g.keep } := by
  unfold Scan.take Scan.take.negInfinity
  rw [if_neg (by rw [h]; decide)]
  dsimp only
  rw [if_neg hz, if_neg hl]

/-- A score that is no NaN leaves the note of one. -/
theorem Scan.take_nan_eq : (x.take g y k).nan = (x.nan || isNaN32 y) := by
  cases h : isNaN32 y with
  | true => rw [Scan.take_nan h, Bool.or_true]
  | false =>
    rw [Bool.or_false]
    by_cases hz : fmul y g.scale = 0x7F800000#32
    · rw [Scan.take_infinite h hz]
    by_cases hl : fmul y g.scale = 0xFF800000#32
    · rw [Scan.take_lowest h hl]
    · rw [Scan.take_candidate h hz hl]

/-- One that is not +∞ leaves the first +∞. -/
theorem Scan.take_infinite_eq (hz : isNaN32 y = true ∨ fmul y g.scale ≠ 0x7F800000#32) : (x.take g y k).infinite = x.infinite := by
  cases h : isNaN32 y with
  | true => rw [Scan.take_nan h]
  | false =>
    have hz := hz.resolve_left (by rw [h]; decide)
    by_cases hl : fmul y g.scale = 0xFF800000#32
    · rw [Scan.take_lowest h hl]
    · rw [Scan.take_candidate h hz hl]

end

theorem SamplerItem.scan_nan : (item.scan g scores n).nan = (List.range n).any fun v => isNaN32 (item.score scores v) := by
  induction n with
  | zero => rfl
  | succ n ih => rw [SamplerItem.scan_succ, Scan.take_nan_eq, ih, List.range_succ, List.any_append]; simp

theorem SamplerItem.scan_no_infinite
    (h : ∀ v, v < n → isNaN32 (item.score scores v) = true ∨ fmul (item.score scores v) g.scale ≠ 0x7F800000#32) :
    (item.scan g scores n).infinite = none := by
  induction n with
  | zero => rfl
  | succ n ih =>
    rw [SamplerItem.scan_succ, Scan.take_infinite_eq (h n (by omega))]
    exact ih fun v hv => h v (by omega)

/-- The first +∞ of a row stays. -/
theorem SamplerItem.scan_infinite (hi : i < n) (hn : isNaN32 (item.score scores i) = false)
    (hz : fmul (item.score scores i) g.scale = 0x7F800000#32)
    (h : ∀ v, v < i → isNaN32 (item.score scores v) = true ∨ fmul (item.score scores v) g.scale ≠ 0x7F800000#32) :
    (item.scan g scores n).infinite = some i := by
  induction n with
  | zero => exact absurd hi (by omega)
  | succ n ih =>
    rw [SamplerItem.scan_succ]
    by_cases e : i = n
    · subst e
      rw [Scan.take_infinite hn hz, SamplerItem.scan_no_infinite h]
      rfl
    · have before := ih (by omega)
      by_cases hv : isNaN32 (item.score scores n) = true ∨ fmul (item.score scores n) g.scale ≠ 0x7F800000#32
      · rw [Scan.take_infinite_eq hv, before]
      · rw [not_or, Bool.not_eq_true, not_not] at hv
        rw [Scan.take_infinite hv.1 hv.2, before]
        rfl

theorem SamplerItem.scan_empty (h : ∀ v, v < n → isNaN32 (item.score scores v) = true ∨
      fmul (item.score scores v) g.scale = 0xFF800000#32) : (item.scan g scores n).best = [] := by
  induction n with
  | zero => rfl
  | succ n ih =>
    have before := ih fun v hv => h v (by omega)
    rw [SamplerItem.scan_succ]
    cases hn : isNaN32 (item.score scores n) with
    | true => rw [Scan.take_nan hn, before]
    | false => rw [Scan.take_lowest hn ((h n (by omega)).resolve_left (by rw [hn]; decide)), before]

/-! ## The best candidate -/

theorem head_insertBest {w : Word} {l : List (Word × Nat)} :
    (insertBest w k l).head? = some (match l.head? with
      | none => (w, k)
      | some c => if fless c.1 w then (w, k) else c) := by
  cases l with
  | nil => rfl
  | cons c l =>
    unfold insertBest
    dsimp only [List.head?_cons]
    split <;> rfl

theorem head_take {α : Type} {l : List α} (hk : 0 < k) : (l.take k).head? = l.head? := by
  cases l with
  | nil => rw [List.take_nil]
  | cons a l =>
    obtain ⟨k, rfl⟩ : ∃ m, k = m + 1 := ⟨k - 1, by omega⟩
    rfl

section
variable (hk : 0 < g.keep) (hs : ∀ v, z v = fmul (item.score scores v) g.scale) (hn : ∀ v, v < n → isNaN32 (item.score scores v) = false)
  (hp : ∀ v, v < n → z v ≠ 0x7F800000#32)
include hk hs hn hp

/-- The first candidate so far is one of the row. -/
theorem SamplerItem.scan_head {c : Word × Nat} (h : (item.scan g scores n).best.head? = some c) : c.2 < n ∧ c.1 = z c.2 := by
  induction n generalizing c with
  | zero => exact absurd h (by simp [SamplerItem.scan])
  | succ n ih =>
    have before := @ih (fun v hv => hn v (by omega)) (fun v hv => hp v (by omega))
    rw [SamplerItem.scan_succ] at h
    by_cases hl : z n = 0xFF800000#32
    · rw [Scan.take_lowest (hn n (by omega)) (by rw [← hs, hl])] at h
      exact ⟨by have := (before h).1; omega, (before h).2⟩
    · rw [Scan.take_candidate (hn n (by omega)) (by rw [← hs]; exact hp n (by omega)) (by rw [← hs]; exact hl), head_take hk,
        head_insertBest, ← hs] at h
      have cases_ : c = (z n, n) ∨ (item.scan g scores n).best.head? = some c := by
        cases e : (item.scan g scores n).best.head? with
        | none => rw [e] at h; exact .inl (Option.some.inj h).symm
        | some a =>
          rw [e] at h
          dsimp only at h
          split at h
          · exact .inl (Option.some.inj h).symm
          · exact .inr h
      rcases cases_ with rfl | e
      · exact ⟨by omega, rfl⟩
      · exact ⟨by have := (before e).1; omega, (before e).2⟩

/-- The lowest index of the highest score comes first. -/
theorem SamplerItem.scan_best (hi : i < n) (hl : z i ≠ 0xFF800000#32)
    (hb : ∀ v, v < n → fless (z i) (z v) = false ∧ (v < i → fless (z v) (z i) = true)) :
    (item.scan g scores n).best.head? = some (z i, i) := by
  induction n with
  | zero => exact absurd hi (by omega)
  | succ n ih =>
    rw [SamplerItem.scan_succ]
    by_cases e : i = n
    · subst e
      rw [Scan.take_candidate (hn i (by omega)) (by rw [← hs]; exact hp i (by omega)) (by rw [← hs]; exact hl), head_take hk,
        head_insertBest, ← hs]
      cases e : (item.scan g scores i).best.head? with
      | none => rfl
      | some c =>
        obtain ⟨hc, hz⟩ := SamplerItem.scan_head hk hs (fun v hv => hn v (by omega)) (fun v hv => hp v (by omega)) e
        dsimp only
        rw [hz, (hb c.2 (by omega)).2 hc, if_pos rfl]
    · have before := ih (fun v hv => hn v (by omega)) (fun v hv => hp v (by omega)) (by omega) fun v hv => hb v (by omega)
      by_cases hl' : z n = 0xFF800000#32
      · rw [Scan.take_lowest (hn n (by omega)) (by rw [← hs, hl']), before]
      · rw [Scan.take_candidate (hn n (by omega)) (by rw [← hs]; exact hp n (by omega)) (by rw [← hs]; exact hl'), head_take hk,
          head_insertBest, before, ← hs]
        dsimp only
        rw [(hb n (by omega)).1, if_neg (by decide)]

end

/-! ## The token (R271, R272) -/

theorem sampleRow_eq : sampleRow item g scores position salt = choose (item.scan g scores item.vocab) g position salt := rfl

theorem choose_infinite {x : Scan} (h : x.infinite = some i) :
    choose x g position salt = (i, (if x.nan then 4 else 0) + 3, 0) := by
  unfold choose
  rw [h]
  rfl

theorem choose_empty {x : Scan} (h : x.infinite = none) (hb : x.best = []) :
    choose x g position salt = (0xFFFFFFFF, (if x.nan then 4 else 0) + 8, 0) := by
  unfold choose
  rw [h, hb]
  rfl

theorem choose_greedy {x : Scan} {m : Word} (h : x.infinite = none) (hb : x.best.head? = some (m, i)) (hg : g.greedy = true) :
    choose x g position salt = (i, (if x.nan then 4 else 0) + 1, 0) := by
  obtain ⟨rest, hb⟩ := List.head?_eq_some_iff.1 hb
  unfold choose
  rw [h, hb]
  dsimp only
  rw [hg, if_pos rfl]
  rfl

/-- The first element of which something holds. -/
theorem firstIndex_eq {q : Word → Bool} {l : List Word} (hn : n < l.length) (hj : j ≤ n) (hb : ∀ k, k < j → q (l.getD k 0) = false)
    (hq : j = n ∨ q (l.getD j 0) = true) : firstIndex q l n = j := by
  unfold firstIndex
  cases e : l.findIdx? q with
  | none =>
    rcases hq with rfl | hq
    · exact Nat.min_self j
    · rw [List.findIdx?_eq_none_iff] at e
      have mem : l.getD j 0 ∈ l := by
        rw [List.getD_eq_getElem _ _ (by omega : j < l.length)]
        exact List.getElem_mem _
      exact absurd hq (by rw [e _ mem]; decide)
  | some r =>
    rw [List.findIdx?_eq_some_iff_getElem] at e
    obtain ⟨hr, holds, before⟩ := e
    have from_ : j ≤ r := by
      by_contra hlt
      have := hb r (by omega)
      rw [List.getD_eq_getElem _ _ hr, holds] at this
      exact absurd this (by decide)
    rw [Option.getD_some]
    rcases hq with rfl | hq
    · exact Nat.min_eq_left from_
    · have upto : ¬j < r := fun hlt => before j hlt (by rw [List.getD_eq_getElem _ _ (by omega : j < l.length)] at hq; exact hq)
      rw [show r = j by omega, Nat.min_eq_right hj]

/-- The draw (R272). -/
theorem choose_drawn {x : Scan} {m cn target : Word} {rest : List (Word × Nat)} {cum : List Word} (hg : g.greedy = false)
    (h : x.infinite = none) (hb : x.best = (m, i) :: rest) (hc : massSums m ((m, i) :: rest) 0 = cum) (hn : n < cum.length)
    (hcn : cum.getD n 0 = cn) (hl : ∀ l, l < n → fless (cum.getD l 0) (fmul g.mass (cum.getD (cum.length - 1) 0)) = true)
    (hm : fless cn (fmul g.mass (cum.getD (cum.length - 1) 0)) = false)
    (ht : target = fmul cn (toFp32 (.fin false
      ((chaff32 (m ^^^ cn) (BitVec.ofNat 32 position) (BitVec.ofNat 32 salt)).toNat / 256) (-24))))
    (hj : j ≤ n) (hf : ∀ l, l < j → fless target (cum.getD l 0) = false) (he : j = n ∨ fless target (cum.getD j 0) = true) :
    choose x g position salt = ((((m, i) :: rest).getD j (m, i)).2, (if x.nan then 4 else 0),
      fsub (fsub (((m, i) :: rest).getD j (m, i)).1 m) (flog2 cn)) := by
  have kept : firstIndex (fun y => !fless y (fmul g.mass (cum.getD (cum.length - 1) 0))) cum (cum.length - 1) = n :=
    firstIndex_eq (by omega) (by omega) (fun l hl' => by rw [hl l hl']; rfl) (.inr (by rw [hcn, hm]; rfl))
  have drawn : firstIndex (fun y => fless target y) cum n = j := firstIndex_eq hn hj hf he
  unfold choose
  rw [h, hb]
  dsimp only
  rw [hg, if_neg (by decide), hc, kept, hcn, ← ht, drawn]
  rfl

/-- A row's samples only access memory. -/
theorem State.sampleAt_accessed {s : State} {id a : Nat} : AccessedFst s (s.sampleAt item id a) := by
  have head : AccessedFst s (s.readDevice {} a 16) := Reaches.refl.readDevice
  unfold State.sampleAt
  split
  next e => rw [e] at head; exact head
  next w _ e =>
    rw [e] at head
    have tail : AccessedFst s (w.readDevice {} (a + 16) 48) := Reaches.readDevice head
    dsimp only
    split
    · exact head
    split
    next e => rw [e] at tail; exact tail
    next u _ e =>
      rw [e] at tail
      have row : AccessedFst s (u.readDevice {} (a + 64) (item.vocab * item.size)) := Reaches.readDevice tail
      split
      · exact tail
      split
      next e => rw [e] at row; exact row
      next e => rw [e] at row; exact row

/-- Settles O54: what a unit takes, visits, merges, writes and samples. -/
theorem unitsTakeTheirWork : Obligations.UnitsTakeTheirWork := by
  unfold Obligations.UnitsTakeTheirWork
  refine ⟨?take, ?refuse, ?goes, ?rest, ?last, ?ends, ?visit, ?attend, ?merge, ?result, ?row, ?next, ?lost, ?pause, ?dropped,
    ?skipped, ?drawn, ?scan, ?draw⟩
  case take =>
    intro k p s x e l hs hx hq hm hr hn hp hb hv
    obtain ⟨v, hv'⟩ : ∃ v, v = s.modPseudo k p fun x => { x with queue := l } := ⟨_, rfl⟩
    have banked : v.Banked k := hv' ▸ hs.banked.modPseudo
    have taken : v.pseudo k p = { x with queue := l } := by rw [hv', State.pseudo_modPseudo_self hs.banked, hx]
    have half : (v.stack k).halfDuty = (s.stack k).halfDuty := by rw [hv', State.halfDuty_modPseudo hs.banked]
    have runs := exec_dequeue_good hx hq hm hr hn hp hb hv
    rw [← hv', State.chunkBandNow_idle (by rw [hx, hr]), half] at runs
    refine ⟨_, runs, ?_, by rw [hv']; rfl⟩
    rw [State.pseudo_modPseudo_self banked, taken] <;> rfl
  case refuse =>
    intro k p s x e l r hx hq hm hr hn hp hb
    exact exec_dequeue_bad hx hq hm hr hn hp hb
  case goes =>
    rintro k p s x run d r n hs hx hr rfl rfl hm hd hn hl hc rfl
    obtain ⟨run', entry, visits, done, frame⟩ := State.runChunk_done (run := run) (hs.banked (k := k)) hx hm
    refine ⟨_, { run' with rowsDone := 4 * (run.rowsDone / 4 +
      min (chunkRows x.chunkBand) ((quernDesc run.entry.bytes).rows - run.rowsDone / 4)) }, exec_chunk_goes hx hr hm hd hn hc,
      ?_, rfl, entry, ?_, visits, ?_, ?_, ?_, frame⟩
    all_goals rw [done, PseudoChannel.chunkDone]
  case rest =>
    intro k p s x run hs hx hn hr
    exact exec_rest_ends hs.banked hx hr hn
  case last =>
    intro k p s x run hs hx hr hn hc hd
    have counted := State.countVisits_counted (run := run) (hs.banked (k := k)) hx
    refine ⟨_, exec_chunk_last hx hr hd hn hc, ?_, ?_, ?_⟩
    · rw [State.pseudo_modPseudo_self counted.banked, counted.pseudo, hx]
      rfl
    · rw [State.rowVisits_modPseudo counted.banked, counted.visits]
    · rw [counted.frame]
      rfl
  case ends =>
    intro k p s x run d hs hx hr hd hm hn hl
    exact exec_descriptor_end hs hx hr hd hm hn hl
  case visit =>
    rintro s k p x i h d run q key val hh hq hk hv
    rw [← QuernDesc.keyOf_eq] at hk
    rw [← QuernDesc.valueOf_eq] at hv
    exact ⟨State.visit_dot hh hq hk, fun r w hr hw ho => State.visit_wsum hh hv hr hw ho,
      fun r sc hr ho hsc => State.visit_attend hh hq hk hv hr ho hsc⟩
  case attend =>
    intro r sc a w v hv hn
    exact ⟨Part.attend_negInf, Part.attend_above hv, Part.attend_below hv hn⟩
  case merge =>
    intro acc r m a b
    exact ⟨Part.merge_empty, Part.merge_first, Part.merge_both⟩
  case result =>
    rintro k p s t run d words n b y hs hd hv hl rfl hlen - hw
    obtain rfl : words = run.words d := hw
    obtain ⟨inside, outside⟩ := State.writeResult_mem (k := k) (p := p) (n := n) (b := b) hlen hs hd hv hl
    exact ⟨inside y, outside⟩
  case row =>
    intro h s v w x m p t record flags hx hm hp hr hd hn hi hh hs hw hc self
    have keeps : w.hopper h = x := by
      have access : Accessed w (w.echoed t x record) := State.echoed_accessed
      have same : (w.echoed t x record).hopper h = x := self
      unfold State.hopper at same ⊢
      rw [← access.hoppers_eq, same]
    obtain ⟨done, k, l, n, f, rest⟩ := State.rowDone_hopper (flags := flags) keeps hc
    have goes := exec_row_sampled hx hm hp hr hd hn hi hh hs hw
    have pause : w.paused = s.paused := by
      have read : AccessedFst s (s.sampleAt t p.id (t.rowAt x.nextRow)) := State.sampleAt_accessed
      rw [hs] at read
      have same : v.paused = s.paused := Reaches.paused_eq read
      obtain ⟨_, _, hl⟩ := State.modCmd_eq (s := v) (c := x.context) (csn := x.csn) (f := fun y : Cmd => { y with
        records := sput [] y.records (p.firstRecord (m.actions.map (·.entry)) x.action + x.nextRow) record })
      rw [← hw, ← same, hl]
      rfl
    rw [done, pause] at goes
    refine ⟨_, goes.trans ?_, done.trans (by rw [pause]; rfl), ?_⟩
    · unfold Hopper.afterRow
      simp only [decide_eq_true_eq]
    · rw [rest]
      rfl
  case next =>
    intro h s m p j l hw hm hp
    exact State.nextJob_some hw hm hp
  case lost =>
    intro h s v x m p t b hx hm hp hr hd hn hi hh hs
    exact exec_row_lost hx hm hp hr hd hn hi hh hs
  case pause =>
    intro h s hp hi hd
    exact exec_row_paused rfl hp hi hd
  case dropped =>
    intro h s x hs hx hd hw hc
    exact exec_row_dropped hx hs hd hw hc
  case skipped =>
    intro s v t id a head hr hb
    exact State.sampleAt_skipped hr hb
  case drawn =>
    intro s v w u t id a token flags logp head tail scores g hr hb ht
    exact ⟨State.sampleAt_bad hr hb ht, fun hg hs hd => State.sampleAt_drawn hr hb ht hg hs hd⟩
  case scan =>
    intro t g scores position salt nan z hk hz hnan
    have found : (if (t.scan g scores t.vocab).nan then 4 else 0) = nan := by rw [SamplerItem.scan_nan, hnan]
    refine ⟨fun i hi hn hinf hb => ?_, fun hb => ?_, fun i hi hn hl hg hnone hb => ?_⟩
    · rw [sampleRow_eq, choose_infinite (SamplerItem.scan_infinite hi hn (by rw [← hz, hinf]) fun v hv => by rw [← hz]; exact hb v hv),
        found]
    · rw [sampleRow_eq, choose_empty (SamplerItem.scan_no_infinite fun v hv => ?_) (SamplerItem.scan_empty fun v hv => by
        rw [← hz]; exact hb v hv), found]
      refine (hb v hv).imp id fun e => ?_
      rw [← hz, e]
      decide
    · have clean : ∀ v, v < t.vocab → isNaN32 (t.score scores v) = false := fun v hv => by
        by_contra h
        rw [hnan, if_pos (List.any_eq_true.2 ⟨v, List.mem_range.2 hv, Bool.not_eq_false _ ▸ h⟩)] at hnone
        exact absurd hnone (by decide)
      have finite : ∀ v, v < t.vocab → z v ≠ 0x7F800000#32 := fun v hv => (hb v hv).1
      have best := SamplerItem.scan_best (n := t.vocab) hk hz clean finite hi hl fun v hv => ⟨(hb v hv).2.2.1, (hb v hv).2.2.2⟩
      rw [sampleRow_eq, choose_greedy (SamplerItem.scan_no_infinite fun v hv => .inr (by rw [← hz]; exact finite v hv)) best hg,
        found, hnone]
  case draw =>
    intro t g scores position salt n j x m cn target i rest cum hg hx hi hb hc hn hcn hl hm ht hj hf he
    rw [sampleRow_eq, show t.scan g scores t.vocab = x from hx]
    exact choose_drawn hg hi hb hc hn hcn hl hm ht hj hf he

end Sys2Proof.Machine
end

section
/-! PROOFS. Completions and the RESULT frames behind which they go out (R320, R324). -/

namespace Sys2Proof.Machine

variable {s t u : State} {c d i k n : Nat} {m w : Cmd} {f : Frame}

/-! ## Frames as a receiver can take them (R324) -/

theorem splitFrame_fits {room : Nat} {e x : Nat × Nat} (hr : 0 < room) (hx : x ∈ splitFrame room e) : x.2 ≤ room := by
  unfold splitFrame at hx
  split at hx
  next h =>
    obtain rfl := List.mem_singleton.1 hx
    exact h.resolve_left (by omega)
  next =>
    obtain ⟨j, -, rfl⟩ := List.mem_map.1 hx
    exact Nat.min_le_left ..

/-- The records of the first `q` parts. -/
theorem flatMap_parts {a l r q : Nat} :
    ((List.range q).flatMap fun j => List.range' (a + j * r) (min r (l - j * r))) = List.range' a (min l (q * r)) := by
  induction q with
  | zero => simp
  | succ q ih =>
    rw [List.range_succ, List.flatMap_append, ih, List.flatMap_singleton]
    by_cases h : q * r ≤ l
    · rw [Nat.min_eq_right h, List.range'_append_1, show q * r + min r (l - q * r) = min l ((q + 1) * r) by rw [Nat.succ_mul]; omega]
    · rw [show min r (l - q * r) = 0 by omega, List.range'_zero, List.append_nil, Nat.succ_mul,
        show min l (q * r) = min l (q * r + r) by omega]

/-- Split frames hold the records of the frame that they are split from. -/
theorem splitFrame_records {room : Nat} {e : Nat × Nat} (hr : 0 < room) :
    ((splitFrame room e).flatMap fun e => List.range' e.1 e.2) = List.range' e.1 e.2 := by
  unfold splitFrame
  split
  next => exact List.flatMap_singleton ..
  next h =>
    have whole : e.2 ≤ ceilDiv e.2 room * room := by
      unfold ceilDiv
      have := Nat.div_add_mod (e.2 + room - 1) room
      have := Nat.mod_lt (e.2 + room - 1) hr
      rw [Nat.mul_comm]
      omega
    rw [List.flatMap_map, flatMap_parts, Nat.min_eq_left whole]

/-- No fitted frame holds more records than its receiver takes, and together they hold the same ones. -/
theorem Cmd.fitted_frames (hn : 40 ≤ n) : (∀ e ∈ (m.fitted n).resultFrames, 24 + 16 * e.2 ≤ n) ∧
    ((m.fitted n).resultFrames.flatMap fun e => List.range' e.1 e.2) = m.resultFrames.flatMap fun e => List.range' e.1 e.2 := by
  have room : 0 < (n - 24) / 16 := by omega
  have frames : (m.fitted n).resultFrames = m.resultFrames.flatMap (splitFrame ((n - 24) / 16)) := rfl
  rw [frames]
  refine ⟨fun e he => ?_, ?_⟩
  · obtain ⟨x, -, hx⟩ := List.mem_flatMap.1 he
    have := splitFrame_fits room hx
    omega
  · rw [List.flatMap_assoc]
    exact congrArg (List.flatMap · _) (funext fun e => splitFrame_records room)

theorem Cmd.fitted_shown : (m.fitted n).shown ≤ (m.fitted n).resultFrames.length := by
  have whole := congrArg (List.length ∘ List.flatMap (splitFrame ((n - 24) / 16))) (List.take_append_drop m.shown m.resultFrames)
  rw [Function.comp_apply, Function.comp_apply, List.flatMap_append, List.length_append] at whole
  change _ ≤ (m.resultFrames.flatMap (splitFrame ((n - 24) / 16))).length
  exact Nat.le.intro whole

/-! ## Frames go out -/

theorem State.plain_out {o : List OutFrame} (h : s.Plain) : ({ s with out := o } : State).Plain := ⟨⟨h.up, h.clear⟩, h.injections⟩

theorem State.formed_out {o : List OutFrame} {x : OutFrame} : ({ s with out := o } : State).formed x = s.formed x := State.formed_congr rfl

/-- Frames that the state's queue of frames does not change go out one after another. -/
theorem State.emits {α : Type} {F : State → α → OutFrame} {l : List α} (h : s.Plain) (hF : ∀ o x, F { s with out := o } x = F s x) :
    l.foldl (fun t x => t.emit (F t x)) s = { s with out := s.out ++ l.map fun x => s.formed (F s x) } := by
  have all : ∀ o, l.foldl (fun t x => t.emit (F t x)) { s with out := o } =
      { s with out := o ++ l.map fun x => s.formed (F s x) } := by
    induction l with
    | nil => exact fun o => by rw [List.map_nil, List.append_nil]; rfl
    | cons x l ih =>
      intro o
      rw [List.foldl_cons, State.emit_plain (State.plain_out h), hF, State.formed_out, List.map_cons]
      exact (ih _).trans (by rw [List.append_assoc, List.singleton_append])
  exact all s.out

/-- The RESULT frames of a completed command from number `k` up to `z`. -/
def State.results (s : State) (c : Nat) (m : Cmd) (k z flags i : Nat) : List OutFrame :=
  ((m.resultFrames.zipIdx.take z).drop k).map fun e =>
    s.formed (s.resultFrame c m e.2 e.1.1 e.1.2 (flags + if e.2 + 1 < m.resultFrames.length then 2 else 0) i)

theorem State.emitResults_completed {z flags : Nat} (h : s.Plain) (hm : m.phase = .completed) :
    s.emitResults c m k z flags i = { s with out := s.out ++ s.results c m k z flags i } := by
  unfold State.emitResults State.results
  dsimp only
  rw [hm]
  have more : ((CmdPhase.completed != CmdPhase.completed) && decide (m.handed < m.expected)) = false := rfl
  simp only [more, Bool.false_eq_true, false_or]
  exact State.emits (F := fun s (e : (Nat × Nat) × Nat) =>
    s.resultFrame c m e.2 e.1.1 e.1.2 (flags + if e.2 + 1 < m.resultFrames.length then 2 else 0) i) h fun o x => rfl

theorem State.length_results {z flags : Nat} (hz : z ≤ m.resultFrames.length) : (s.results c m k z flags i).length = z - k := by
  unfold State.results
  rw [List.length_map, List.length_drop, List.length_take, List.length_zipIdx, Nat.min_eq_left hz]

theorem State.results_get {z flags j : Nat} {e : Nat × Nat} (he : m.resultFrames[k + j]? = some e) (hj : k + j < z) :
    (s.results c m k z flags i)[j]? = some (s.formed (s.resultFrame c m (k + j) e.1 e.2
      (flags + if k + j + 1 < m.resultFrames.length then 2 else 0) i)) := by
  unfold State.results
  rw [List.getElem?_map, List.getElem?_drop, List.getElem?_take_of_lt hj, List.getElem?_zipIdx, he]
  simp

/-! ## What a stream's own commands change -/

/-- Between two states only the stream of context `c` changed, and frames went out. -/
structure Spoke (c : Nat) (s t : State) : Prop where
  canonical : t.Canonical
  others : ∀ d, d ≠ c → t.context d = s.context d
  generation : ∀ d, t.generationOf d = s.generationOf d
  frame : t = { s with out := t.out, contexts := t.contexts }

namespace Spoke

variable (h : Spoke c s t)
include h

theorem out {o : List OutFrame} : Spoke c s { t with out := o } :=
  ⟨{ h.canonical with }, h.others, h.generation, by rw [h.frame]⟩

theorem modStream {g : Stream → Stream} (hc : c < 64) : Spoke c s (t.modStream c g) := by
  have stream : t.modStream c g = t.modContext c fun x => { x with stream := g (t.stream c) } := by
    unfold State.modStream State.setStream
    rw [if_neg (by omega)]
  have other : ∀ d, d ≠ c → (t.modStream c g).context d = t.context d := fun d hd => by
    rw [stream, State.context_modContext_other h.canonical.contexts.1 hd]
  refine ⟨(State.modStream_kept ⟨rfl, h.canonical⟩).2, fun d hd => (other d hd).trans (h.others d hd), fun d => ?_, ?_⟩
  · refine Eq.trans ?_ (h.generation d)
    unfold State.generationOf
    by_cases hd : d = c
    · subst hd
      rw [stream, State.context_modContext_self h.canonical.contexts.1]
    · rw [other d hd]
  · rw [stream, h.frame]
    rfl

theorem modCmd {g : Cmd → Cmd} (hc : c < 64) : Spoke c s (t.modCmd c n g) := h.modStream hc

theorem plain (hs : s.Plain) : t.Plain := by
  rw [h.frame]
  exact ⟨⟨hs.up, hs.clear⟩, hs.injections⟩

theorem session : t.session k = s.session k := by rw [h.frame]; rfl

theorem formed {o : OutFrame} : t.formed o = s.formed o := State.formed_congr (by rw [h.session])

theorem receiver : t.receiver c k = s.receiver c k := by rw [h.frame]; rfl

theorem completionFrame {j : Nat} : Machine.completionFrame t c m j i = Machine.completionFrame s c m j i := by
  unfold Machine.completionFrame
  rw [h.generation, h.session]

end Spoke

theorem Spoke.refl (h : s.Canonical) : Spoke c s s := ⟨h, fun _ _ => rfl, fun _ => rfl, rfl⟩

/-! ## COMPLETION_SEND -/

/-- The completion that follows the ones that have gone out goes out behind its RESULT frames. -/
theorem State.sendNext_sends (hs : s.Canonical) (hc : c < 64) (hn : (s.stream c).sentThrough + 1 = n) (hw : s.cmd c n = some w)
    (hp : w.phase = .completed) (hr : s.receiver c w.sender = some i) (hm : w.fitted (s.session i).maxPayload = m) (hplain : s.Plain) :
    ∃ t, s.sendNext c = t ∧ Spoke c s t ∧
      t.out = s.out ++ s.results c m m.shown m.resultFrames.length 0 i ++ [s.formed (completionFrame s c m 0 i)] ∧
      (t.stream c).sentThrough = n ∧ t.cmd c n = some { m with shown := m.resultFrames.length, sent := true, sentAt := s.uptime } := by
  have completed : m.phase = .completed := by rw [← hm]; exact hp
  obtain ⟨a, ha⟩ : ∃ a, a = { s with out := s.out ++ s.results c m m.shown m.resultFrames.length 0 i } := ⟨_, rfl⟩
  have spokeA : Spoke c s a := ha ▸ (Spoke.refl hs).out
  obtain ⟨b, hb⟩ : ∃ b, b = a.modCmd c n fun x => { x with resultFrames := m.resultFrames, shown := m.resultFrames.length } := ⟨_, rfl⟩
  have spokeB : Spoke c s b := hb ▸ spokeA.modCmd hc
  have cmdB : b.cmd c n = some { m with shown := m.resultFrames.length } := by
    have held : a.cmd c n = some w := by rw [ha]; exact hw
    have set := State.cmd_modCmd (f := fun x => { x with resultFrames := m.resultFrames, shown := m.resultFrames.length })
      spokeA.canonical held fun _ => rfl
    rw [hb]
    exact set.trans (by rw [← hm]; rfl)
  have results : s.sendResults c n = b := by
    unfold State.sendResults
    rw [hw]
    dsimp only
    rw [hr]
    dsimp only
    rw [hm, State.emitResults_completed hplain completed, hb, ha]
  obtain ⟨e, he⟩ : ∃ e, e = { b with out := b.out ++ [b.formed (completionFrame b c { m with shown := m.resultFrames.length } 0 i)] } :=
    ⟨_, rfl⟩
  have spokeE : Spoke c s e := he ▸ spokeB.out
  have completion : b.sendCompletion c n 0 = e := by
    have receiver : b.receiver c ({ m with shown := m.resultFrames.length } : Cmd).sender = some i := by
      rw [spokeB.receiver, ← hr, ← hm]
      rfl
    unfold State.sendCompletion
    rw [cmdB]
    dsimp only
    rw [receiver]
    dsimp only
    rw [State.emit_plain (spokeB.plain hplain), he]
  obtain ⟨g, hg⟩ : ∃ g, g = e.modCmd c n fun x => { x with sent := true, sentAt := e.uptime } := ⟨_, rfl⟩
  have spokeG : Spoke c s g := hg ▸ spokeE.modCmd hc
  have cmdG : g.cmd c n = some { m with shown := m.resultFrames.length, sent := true, sentAt := s.uptime } := by
    have held : e.cmd c n = some { m with shown := m.resultFrames.length } := by rw [he]; exact cmdB
    have now : e.uptime = s.uptime := by rw [spokeE.frame]
    rw [hg, ← now]
    exact State.cmd_modCmd spokeE.canonical held fun _ => rfl
  have sends : s.sendNext c = g.modStream c fun t => { t with sentThrough := n } := by
    have turn : w.phase = .completed ∧ (s.receiver c w.sender).isSome := ⟨hp, by rw [hr]; rfl⟩
    unfold State.sendNext
    dsimp only
    rw [hn, hw]
    dsimp only
    rw [if_pos turn, results, completion, hg]
  refine ⟨_, sends, spokeG.modStream hc, ?_, ?_, ?_⟩
  · have gone : e.out = s.out ++ s.results c m m.shown m.resultFrames.length 0 i ++ [s.formed (completionFrame s c m 0 i)] := by
      have first : b.out = s.out ++ s.results c m m.shown m.resultFrames.length 0 i := by
        obtain ⟨_, _, hab⟩ := State.modCmd_eq (s := a) (c := c) (csn := n) (f := fun x =>
          { x with resultFrames := m.resultFrames, shown := m.resultFrames.length })
        rw [hb, hab, ha]
      rw [he, first, spokeB.formed, spokeB.completionFrame]
      rfl
    have kept : (g.modStream c fun t => { t with sentThrough := n }).out = e.out := by
      have same {v : State} {h : Stream → Stream} : (v.modStream c h).out = v.out := by
        unfold State.modStream State.setStream
        rw [if_neg (by omega)]
        rfl
      rw [same, hg]
      exact same
    rw [kept, gone]
  · rw [State.stream_modStream spokeG.canonical]
  · unfold State.cmd at cmdG ⊢
    rw [State.stream_modStream spokeG.canonical]
    exact cmdG

/-- None goes out in LATCHED, out of turn, or without a receiver. -/
theorem State.sendNext_waits (h : s.dev.state = .latched ∨
      ∀ m, s.cmd c ((s.stream c).sentThrough + 1) = some m → m.phase ≠ .completed ∨ s.receiver c m.sender = none) : s.sendNext c = s := by
  unfold State.sendNext
  dsimp only
  split
  · rfl
  next m hm =>
    refine if_neg fun ⟨hp, hr⟩ => ?_
    rcases h with h | h
    · have none : s.receiver c m.sender = none := if_pos h
      rw [none] at hr
      exact absurd hr (by decide)
    · rcases h m hm with h | h
      · exact h hp
      · rw [h] at hr
        exact absurd hr (by decide)

/-! ## HOST_ACK (R320) -/

/-- The session of a frame, noted as heard. -/
def State.heard (s : State) (f : Frame) : State := s.modSession f.session.toNat fun x => { x with lastFrame := s.uptime, path := f.path }

theorem Arrives.runs_ack (h : Arrives f s) (hk : f.kind = 5) : Runs (.hostAck f) f s ((s.heard f).hostAck f) := by
  intro s0 h0
  change execHostAck f s0 = _
  unfold execHostAck
  rw [if_pos hk, h.receive h0]
  unfold State.receiveFrame
  dsimp only
  have numbered : unnumbered f = false := by unfold unnumbered; rw [hk]; simp
  have hello : ¬(f.opcode = 0x0101 ∧ f.kind = 0 ∧ (!s.helloAllowed) = true) := by rw [hk]; simp
  rw [h.sound, if_neg (by decide), if_neg hello, numbered, if_neg (by decide), if_pos hk]
  rfl

theorem State.hostAck_old (h : f.generation.toNat ≠ s.generationOf f.context.toNat) : s.hostAck f = s := if_pos h

section
variable (hc : f.context.toNat = c) (hk : le f.payload 8 8 = k) (hg : f.generation.toNat = s.generationOf c)
include hc hk hg

theorem State.hostAck_frees (ha : le f.payload 16 8 = 0) : s.hostAck f = s.modStream c fun t => t.acknowledge k := by
  unfold State.hostAck
  dsimp only
  rw [hc, if_neg (not_not.2 hg), ha, if_pos rfl, hk]

omit hc hk hg in
/-- A command above what is acknowledged stays. -/
theorem State.cmd_acknowledge {a : Nat} (hs : s.Canonical) (ha : k < a) : (s.modStream c fun t => t.acknowledge k).cmd c a = s.cmd c a := by
  unfold State.cmd
  rw [State.stream_modStream hs]
  unfold Stream.acknowledge
  dsimp only
  rw [List.find?_filter]
  refine List.find?_congr fun x _ => ?_
  by_cases e : x.csn = a
  · simp [e, show ¬a ≤ k by omega]
  · simp [e]

/-- One that asks for a completion has it again, behind the RESULT frames that have gone out. -/
theorem State.hostAck_again {a : Nat} (hs : s.Canonical) (hl : c < 64) (ha : le f.payload 16 8 = a) (hka : k < a) (hw : s.cmd c a = some w)
    (hp : w.phase = .completed) (hsent : w.sent = true) (hr : s.receiver c w.sender = some i)
    (hm : w.fitted (s.session i).maxPayload = m) (hplain : s.Plain) :
    ∃ t, s.hostAck f = t ∧ Spoke c s t ∧
      t.out = s.out ++ s.results c m 0 m.shown 1 i ++ [s.formed (completionFrame s c m 1 i)] := by
  have completed : m.phase = .completed := by rw [← hm]; exact hp
  obtain ⟨v, hv⟩ : ∃ v, v = s.modStream c fun t => t.acknowledge k := ⟨_, rfl⟩
  have spokeV : Spoke c s v := hv ▸ (Spoke.refl hs).modStream hl
  have held : v.cmd c a = some w := by rw [hv, State.cmd_acknowledge hs hka, hw]
  have same {x : State} {h : Stream → Stream} : (x.modStream c h).out = x.out := by
    unfold State.modStream State.setStream
    rw [if_neg (by omega)]
    rfl
  have outV : v.out = s.out := by rw [hv, same]
  have resultsV : v.results c m 0 m.shown 1 i = s.results c m 0 m.shown 1 i := by
    unfold State.results State.resultFrame
    simp only [spokeV.formed, spokeV.generation, spokeV.session]
  obtain ⟨x, hx⟩ : ∃ x, x = { v with out := v.out ++ v.results c m 0 m.shown 1 i } := ⟨_, rfl⟩
  have spokeX : Spoke c s x := hx ▸ spokeV.out
  obtain ⟨y, hy⟩ : ∃ y, y = x.modCmd c a fun z => { z with resultFrames := m.resultFrames, shown := m.shown } := ⟨_, rfl⟩
  have spokeY : Spoke c s y := hy ▸ spokeX.modCmd hl
  have cmdY : y.cmd c a = some m := by
    have heldX : x.cmd c a = some w := by rw [hx]; exact held
    have set := State.cmd_modCmd (f := fun z => { z with resultFrames := m.resultFrames, shown := m.shown }) spokeX.canonical heldX
      fun _ => rfl
    rw [hy]
    exact set.trans (by rw [← hm]; rfl)
  have results : v.resendResults c a = y := by
    unfold State.resendResults
    rw [held]
    dsimp only
    rw [spokeV.receiver, hr]
    dsimp only
    rw [spokeV.session, hm, State.emitResults_completed (spokeV.plain hplain) completed, hy, hx]
  have completion : y.sendCompletion c a 1 = { y with out := y.out ++ [y.formed (completionFrame y c m 1 i)] } := by
    have receiver : y.receiver c m.sender = some i := by
      rw [spokeY.receiver, ← hr, ← hm]
      rfl
    unfold State.sendCompletion
    rw [cmdY]
    dsimp only
    rw [receiver]
    dsimp only
    rw [State.emit_plain (spokeY.plain hplain)]
  have acks : s.hostAck f = { y with out := y.out ++ [y.formed (completionFrame y c m 1 i)] } := by
    have sent : m.phase = .completed ∧ m.sent = true := ⟨completed, by rw [← hm]; exact hsent⟩
    unfold State.hostAck
    dsimp only
    rw [hc, if_neg (not_not.2 hg), ha, if_neg (by omega), hk, ← hv, results, cmdY]
    dsimp only
    rw [if_pos sent, completion]
  refine ⟨_, acks, spokeY.out, ?_⟩
  have outY : y.out = s.out ++ s.results c m 0 m.shown 1 i := by
    rw [hy]
    refine Eq.trans same ?_
    rw [hx, ← resultsV, ← outV]
  rw [spokeY.formed, spokeY.completionFrame, ← outY]

end

/-! ## COMPLETION_RESEND_TIMER -/

/-- A completion alone unacknowledged goes out again. -/
theorem exec_resend_alone (hl : ((s.stream c).cmds.filter fun m => m.phase == .completed && m.sent) = [m]) (hm : s.cmd c m.csn = some m)
    (ht : 32768 + m.sentAt ≤ s.uptime) (hr : s.receiver c m.sender = some i) (hplain : s.Plain) :
    exec (.completionResendTimer c) s = .next (State.modCmd { s with
      out := s.out ++ [s.formed (completionFrame s c m 1 i)] } c m.csn fun x => { x with sentAt := s.uptime }) := by
  have completion : s.sendCompletion c m.csn 1 = { s with out := s.out ++ [s.formed (completionFrame s c m 1 i)] } := by
    unfold State.sendCompletion
    rw [hm]
    dsimp only
    rw [hr]
    dsimp only
    rw [State.emit_plain hplain]
  change execCompletionResendTimer c s = _
  unfold execCompletionResendTimer
  dsimp only
  rw [hl]
  refine (event_true (decide_eq_true ht)).trans ?_
  rw [List.foldl_cons, List.foldl_nil, completion]

/-- Settles O45. -/
theorem completionsGoOutInOrder : Obligations.CompletionsGoOutInOrder := by
  unfold Obligations.CompletionsGoOutInOrder
  refine ⟨?sends, ?waits, ?frees, ?old, ?again, fun m n hn => Cmd.fitted_frames hn, ?timer⟩
  case sends =>
    rintro s c n i w m hs hc hn hw hp hr hm hplain
    obtain ⟨t, sends, spoke, out, through, cmd⟩ := State.sendNext_sends hs hc hn hw hp hr hm hplain
    have shown_ : m.shown ≤ m.resultFrames.length := hm ▸ Cmd.fitted_shown
    refine ⟨t, _, congrArg Host.Outcome.next sends, out, State.length_results Nat.le.refl, fun k e he => ?_, through, cmd, spoke.others,
      spoke.frame⟩
    have inside : m.shown + k < m.resultFrames.length := (List.getElem?_eq_some_iff.1 he).1
    rw [State.results_get he inside, Nat.zero_add]
  case waits =>
    intro s c h
    exact congrArg Host.Outcome.next (State.sendNext_waits h)
  case frees =>
    rintro f s c k ha hk rfl hc rfl hag hg
    obtain ⟨u, hu⟩ : ∃ u, u = s.heard f := ⟨_, rfl⟩
    obtain ⟨heard, generation, stream, others, frame⟩ : u.Canonical ∧ u.generationOf f.context.toNat = s.generationOf f.context.toNat ∧
        u.stream f.context.toNat = s.stream f.context.toNat ∧ (∀ d, u.context d = s.context d) ∧ u = { s with sessions := u.sessions } := by
      rw [hu]
      exact ⟨(State.modSession_kept ⟨rfl, ha.canonical⟩).2, rfl, rfl, fun _ => rfl, rfl⟩
    have frees := State.hostAck_frees (s := u) (f := f) rfl rfl (hg.trans generation.symm) hag
    have spoke := (Spoke.refl (c := f.context.toNat) heard).modStream (g := fun t => t.acknowledge (le f.payload 8 8)) hc
    have acked := ha.runs_ack hk
    rw [← hu, frees] at acked
    refine ⟨_, acked, ?_, ?_, fun d hd => (spoke.others d hd).trans (others d), ?_⟩
    · rw [State.stream_modStream heard, stream]
      rfl
    · rw [State.stream_modStream heard, stream]
      rfl
    · unfold State.modStream State.setStream
      rw [if_neg (by omega), frame]
      rfl
  case old =>
    intro f s ha hk hg
    obtain ⟨u, hu⟩ : ∃ u, u = s.heard f := ⟨_, rfl⟩
    have generation : u.generationOf f.context.toNat = s.generationOf f.context.toNat := by rw [hu]; rfl
    have acked := ha.runs_ack hk
    rw [← hu, State.hostAck_old (by rw [generation]; exact hg)] at acked
    exact ⟨u, acked, by rw [hu]; rfl⟩
  case again =>
    rintro f s u c k a i w m ha hk hc hlow hl hagain hka hg hu hw hp hsent hr hm
    have hu : u = s.heard f := hu
    obtain ⟨heard, plain, generation, frame⟩ : u.Canonical ∧ u.Plain ∧ u.generationOf c = s.generationOf c ∧
        u = { s with sessions := u.sessions } := by
      rw [hu]
      exact ⟨(State.modSession_kept ⟨rfl, ha.canonical⟩).2, ⟨⟨ha.open_.up, ha.open_.clear⟩, ha.open_.injections⟩, rfl, rfl⟩
    obtain ⟨t, acks, spoke, out⟩ := State.hostAck_again hc hl (hg.trans generation.symm) heard hlow hagain hka hw hp hsent hr hm plain
    have shown_ : m.shown ≤ m.resultFrames.length := hm ▸ Cmd.fitted_shown
    have acked := ha.runs_ack hk
    rw [← hu, acks] at acked
    have before : u.out = s.out := by rw [frame]
    rw [before] at out
    refine ⟨t, _, acked, out, State.length_results shown_, fun j e hj he => ?_, ?_⟩
    · have at_ := State.results_get (s := u) (c := c) (i := i) (m := m) (k := 0) (z := m.shown) (flags := 1) (j := j) (e := e)
        (by rw [Nat.zero_add]; exact he) (by omega)
      rw [at_, Nat.zero_add]
      congr 3
      split <;> rfl
    · rw [spoke.frame, frame]
  case timer =>
    intro s c i m hl hm ht hr hplain
    exact exec_resend_alone hl hm ht hr hplain

end Sys2Proof.Machine
end

section
/-! PROOFS. What the parts of a passing notch leave: the queue, the clocks, the power, the registers written in it and the sessions that
are to end with it (R27, R41, R453, R492). Each part keeps them by one lemma, in the order of the model. -/

namespace Sys2Proof.Machine

variable {s t u : State} {q : Prop} {c csn n k p : Nat}

/-! ## The relation -/

/-- A session that is to end with the notch, or has ended. -/
def Session.leaving (x : Session) : Prop := x.isOpen = false ∨ x.ending = true

/-- A session that leaves does not stay. -/
structure Session.Leaves (x y : Session) : Prop where
  leaving : x.leaving → y.leaving
  closed : x.isOpen = false → y.isOpen = false

/-- What a notch's parts read of a state here. -/
def State.pace (s : State) : List Instr × Nat × Nat × DeviceState × List (Nat × Nat) × Nat × Nat × Sparse Session :=
  (s.pending, s.uptime, s.wheel.position, s.dev.state, s.dev.regWrites, s.wheel.holdLimit, s.port.udpPort, s.sessions)

/-- Between two states a part of a notch lies; where `q` holds, none that writes registers. -/
structure Passes (q : Prop) (s t : State) : Prop where
  pending : t.pending = s.pending
  uptime : t.uptime = s.uptime
  position : t.wheel.position = s.wheel.position
  power : s.dev.state ≠ .off → t.dev.state ≠ .off
  writes : q → t.dev.regWrites = s.dev.regWrites ∧ t.wheel.holdLimit = s.wheel.holdLimit ∧ t.port.udpPort = s.port.udpPort
  sessions : swf {} s.sessions = true → swf {} t.sessions = true ∧ ∀ i, (s.session i).Leaves (t.session i)

/-- The same of a state that comes with an answer. -/
def PassesFst {α : Type} (q : Prop) (s : State) (r : State × α) : Prop := Passes q s r.1

namespace Passes

theorem refl : Passes q s s := ⟨rfl, rfl, rfl, id, fun _ => ⟨rfl, rfl, rfl⟩, fun h => ⟨h, fun _ => ⟨id, id⟩⟩⟩

theorem trans (h : Passes q s t) (h' : Passes q t u) : Passes q s u where
  pending := h'.pending.trans h.pending
  uptime := h'.uptime.trans h.uptime
  position := h'.position.trans h.position
  power := fun e => h'.power (h.power e)
  writes := fun e => ⟨(h'.writes e).1.trans (h.writes e).1, (h'.writes e).2.1.trans (h.writes e).2.1,
    (h'.writes e).2.2.trans (h.writes e).2.2⟩
  sessions := fun w =>
    have first := h.sessions w
    have second := h'.sessions first.1
    ⟨second.1, fun i => ⟨fun e => (second.2 i).leaving ((first.2 i).leaving e), fun e => (second.2 i).closed ((first.2 i).closed e)⟩⟩

theorem foldl {α : Type} {f : State → α → State} {l : List α} (h : Passes q s t) (hf : ∀ t x, Passes q s t → Passes q s (f t x)) :
    Passes q s (l.foldl f t) := by
  induction l generalizing t with
  | nil => exact h
  | cons x l ih => exact ih (hf t x h)

theorem fstFoldl {α β : Type} {f : State × β → α → State × β} {l : List α} {r : State × β} (h : PassesFst q s r)
    (hf : ∀ r x, PassesFst q s r → PassesFst q s (f r x)) : PassesFst q s (l.foldl f r) := by
  induction l generalizing r with
  | nil => exact h
  | cons x l ih => exact ih (hf r x h)

theorem ite {b : Prop} [Decidable b] {v w : State} (h : Passes q s v) (h' : Passes q s w) : Passes q s (if b then v else w) := by
  split
  · exact h
  · exact h'

/-- What leaves all of it as it is. -/
theorem same (h : Passes q s t) (e : u.pace = t.pace) : Passes q s u := by
  simp only [State.pace, Prod.mk.injEq] at e
  obtain ⟨pending, uptime, position, power, writes, limit, udp, sessions⟩ := e
  refine h.trans ⟨pending, uptime, position, fun w => by rw [power]; exact w, fun _ => ⟨writes, limit, udp⟩, fun w => ?_⟩
  have session : ∀ i, u.session i = t.session i := fun i => by unfold State.session; rw [sessions]
  exact ⟨by rw [sessions]; exact w, fun i => by rw [session i]; exact ⟨id, id⟩⟩

/-- Accesses to memory leave it as it is. -/
theorem reaches {x : Keeping} (h : Passes q s t) (r : Reaches x t u) : Passes q s u := by
  obtain ⟨m, rfl, -⟩ := r
  exact h.same rfl

section
variable (h : Passes q s t)
include h

/-- A device that stays under power. -/
theorem dev {d : Device} (hd : t.dev.state ≠ .off → d.state ≠ .off) (hw : d.regWrites = t.dev.regWrites) :
    Passes q s { t with dev := d } :=
  h.trans ⟨rfl, rfl, rfl, hd, fun _ => ⟨hw, rfl, rfl⟩, fun w => ⟨w, fun _ => ⟨id, id⟩⟩⟩

/-! ## Fields and registers -/

theorem setTrouble {r : TroubleReg} {v : Word} : Passes q s (t.setTrouble r v) := by
  cases r <;> exact h.same rfl

theorem setTroubleBit {r : TroubleReg} {x : Nat × Nat} : Passes q s (t.setTroubleBit r n x c) := h.setTrouble.same rfl

theorem writeLog {x : LogEntry} : Passes q s (t.writeLog x) := h.reaches (Reaches.refl (q := ⟨True, True⟩)).writeLog

theorem modStream {f : Stream → Stream} : Passes q s (t.modStream c f) := by
  unfold State.modStream State.setStream
  split
  · exact h.same rfl
  · exact h.same rfl

theorem modCmd {f : Cmd → Cmd} : Passes q s (t.modCmd c csn f) := h.modStream

theorem setSession {v : Session} (hv : (t.session n).Leaves v) : Passes q s (t.setSession n v) := by
  refine h.trans ⟨rfl, rfl, rfl, id, fun _ => ⟨rfl, rfl, rfl⟩, fun w => ⟨swf_sput w, fun i => ?_⟩⟩
  unfold State.setSession State.session
  dsimp only
  rw [sget_sput w]
  by_cases e : i = n
  · rw [if_pos e, e]
    exact hv
  · rw [if_neg e]
    exact ⟨id, id⟩

theorem endSession : Passes q s (t.endSession n) := by
  refine h.trans ⟨rfl, rfl, rfl, id, fun _ => ⟨rfl, rfl, rfl⟩, fun w => ⟨swf_sdel w, fun i => ?_⟩⟩
  unfold State.endSession State.session
  dsimp only
  rw [sget_sdel (swf_iff.1 w).1]
  by_cases e : i = n
  · rw [if_pos e]
    exact ⟨fun _ => .inl rfl, fun _ => rfl⟩
  · rw [if_neg e]
    exact ⟨id, id⟩

/-! ## The port (R458, R461) -/

theorem nextTag : PassesFst q s t.nextTag := by
  unfold State.nextTag
  split
  · exact h
  · exact h.same rfl

theorem send {w : WireFrame} : Passes q s (t.send w) := by
  have tag := h.nextTag
  unfold State.send
  split
  · exact tag.same rfl
  · exact h

theorem passHeld : PassesFst q s (t.passHeld n) := by
  unfold State.passHeld
  split
  · exact h
  · exact h.same rfl

theorem logInjected {j : Injection} : Passes q s (t.logInjected j) := h.reaches (Reaches.refl (q := ⟨True, True⟩)).logInjected

theorem injectionHit {j : Injection} : Passes q s (t.injectionHit j) := by
  unfold State.injectionHit
  have hit {f : Injection → Injection} : Passes q s (t.modInjection j.number f) := h.same rfl
  exact ite (ite hit.logInjected hit).logInjected (ite hit.logInjected hit)

theorem meetInjection {x : Carried} : PassesFst q s (t.meetInjection n x) := by
  unfold State.meetInjection
  split
  · exact h
  · dsimp only
    split
    · have seen {k : Nat} : Passes q s (t.modInjection n fun x => { x with seen := k }) := h.same rfl
      split
      · exact seen.passHeld
      · split
        · exact seen.injectionHit
        · exact seen.injectionHit.passHeld
        · exact seen.injectionHit.same rfl
        · exact seen.injectionHit.passHeld
    · split
      · exact h.passHeld
      · exact h

theorem passInjections {l : List Nat} {x : Carried} : PassesFst q s (t.passInjections l x) :=
  fstFoldl (r := (t, [x])) h fun _ _ hr => fstFoldl (r := (_, _)) hr fun _ _ hv => meetInjection hv

theorem throughInjections {x : Carried} : PassesFst q s (t.throughInjections x) := h.passInjections

theorem putOut {o : OutFrame} : Passes q s (t.putOut o) := by
  have tag := h.nextTag
  unfold State.putOut
  split
  · exact tag.same rfl
  · exact h

theorem emit {o : OutFrame} : Passes q s (t.emit o) := by
  have through := h.throughInjections (x := .outward (t.formed o))
  refine foldl (t := (t.throughInjections (.outward (t.formed o))).1) through fun v x hv => ?_
  cases x with
  | outward => exact hv.putOut
  | inward => exact hv

theorem notice {a b d e g : Nat} : Passes q s (t.notice c a b csn d e g) := by
  unfold State.notice
  split
  · exact h
  · exact h.emit

/-! ## The end of a command -/

theorem modSeq {j : Nat} {f : SeqSlot → SeqSlot} : Passes q s (t.modSeq c j f) := by
  have set : Passes q s (t.modContext c fun x => { x with seqs := sput {} x.seqs j (f (x.seq j)) }) := h.same rfl
  exact set.reaches Reaches.refl.writeSlot

theorem lowerBooked {l : List Nat} {a : Nat} : Passes q s (t.lowerBooked c l a) := h.foldl fun _ _ hv => ite hv.modSeq hv

theorem advanceLengths {l : List Nat} {a : Nat} : Passes q s (t.advanceLengths c csn l a) :=
  ite h (h.foldl fun _ _ hv => ite hv.modSeq hv)

theorem settleAppends : Passes q s (t.settleAppends c) := h.foldl fun _ _ hv => hv.advanceLengths.modCmd

theorem pruneBookings : Passes q s t.pruneBookings := h.same rfl

theorem endCopy {m : Cmd} : Passes q s (t.endCopy c m) := by
  unfold State.endCopy
  split
  · exact send (t := t.modContext c _) (h.same rfl)
  · exact h

theorem complete {a b d : Nat} {x : Stop} : Passes q s (t.complete c csn a b d x) := by
  unfold State.complete
  split
  · exact h
  next m _ =>
    split
    · exact h
    · dsimp only
      refine endCopy (pruneBookings ?_)
      have ended {f : Cmd → Cmd} {g : Stream → Stream} {y : Schedule → Schedule} :
          Passes q s (((t.modCmd c csn f).modStream c g).modSchedule y) := h.modCmd.modStream.same rfl
      refine ite (settleAppends ?_) (writeLog (settleAppends ?_))
      · exact ite ended ended.lowerBooked
      · exact ite ended ended.lowerBooked

/-! ## Replies -/

theorem dozeReplied : Passes q s (t.dozeReplied k n) := by
  unfold State.dozeReplied
  split
  · exact (h.dev (d := { t.dev with wakeTo := t.dev.state, state := .doze }) (fun _ => nofun) rfl).same rfl
  · exact h

theorem afterReply {op : Nat} : Passes q s (t.afterReply k n op) := by
  unfold State.afterReply
  refine ite (h.same rfl) (ite (h.same rfl) (ite (h.same rfl) (ite h.dozeReplied h)))

theorem sendPayload {op : Nat} {l : List Byte} : Passes q s (t.sendPayload k n op l) := by
  unfold State.sendPayload
  split
  · exact h
  · have kept {f : Session → List KeptReply} : Passes q s (t.modSession k fun x => { x with kept := f x }) := h.setSession ⟨id, id⟩
    exact kept.emit

theorem deliverReply {op : Nat} {l : List Byte} : Passes q s (t.deliverReply k n op l) :=
  ite h.sendPayload.afterReply.endSession h.sendPayload.afterReply

theorem conclude {op : Nat} {r : Reply} : Passes q s (t.conclude k n op r) := ite (h.same rfl) h.deliverReply

omit h in
theorem answer {op : Nat} {r : Handled} (hr : ∀ x v, (r = .later v ∨ r = .reply x v) → Passes q s v) : Passes q s (t.answer k n op r) := by
  cases r with
  | later v => exact hr {} v (.inl rfl)
  | reply x v => exact (hr x v (.inr rfl)).conclude

/-! ## Pages that no piece uses any more (R228) -/

theorem unmapPages {l : List Nat} : Passes q s (l.foldl State.unmapPage t) :=
  h.foldl fun _ _ hv => hv.reaches (Reaches.refl (q := ⟨True, True⟩)).unmapPage

theorem releaseUnmaps : Passes q s t.releaseUnmaps := by
  refine h.foldl fun v w hv => ite hv ?_
  have waits : Passes q s (v.modJournal fun j => { j with unmapWaits := j.unmapWaits.filter (· != w) }) := hv.same rfl
  exact waits.unmapPages.conclude

theorem stopCores {l : List Nat} : Passes q s (t.stopCores c csn l) := h.foldl fun _ _ hv => hv.same rfl

theorem stopCommand : Passes q s (t.stopCommand c csn) := releaseUnmaps (h.stopCores.same rfl)

end

end Passes

end Sys2Proof.Machine
end

section
/-! PROOFS. The parts of a passing notch, up to the notch itself (R27, R41, R60, R348 to R355, R453, R492). -/

namespace Sys2Proof.Machine

variable {s t u : State} {q : Prop} {c csn n k p : Nat}

namespace Passes

section
variable (h : Passes q s t)
include h

/-! ## Commands that begin again (R314, R400, R408) -/

theorem journalBlockLost : Passes q s (t.journalBlockLost n) := by
  unfold State.journalBlockLost
  split
  · exact h
  · have lost {f : Journal → Journal} : Passes q s (t.modJournal f) := h.same rfl
    exact lost.writeLog.setTroubleBit

theorem readBlock {b : Nat} : PassesFst q s (t.readBlock b k) := h.reaches (Reaches.refl (q := ⟨True, True⟩)).readBlock

theorem readDamage : PassesFst q s t.readDamage := by
  refine fstFoldl (r := (t, [])) h fun r b hr => ?_
  obtain ⟨v, l⟩ := r
  have read := readBlock (b := b) (k := 1) (t := v) hr
  dsimp only
  split
  next e =>
    rw [e] at read
    exact journalBlockLost read
  next e =>
    rw [e] at read
    split
    · exact journalBlockLost read
    · exact read

theorem loseRecord : Passes q s (t.loseRecord c csn) := by
  unfold State.loseRecord
  dsimp only
  split
  · exact h
  · split
    · exact h.lowerBooked.modCmd
    · exact h.complete

theorem bothLost : Passes q s (t.bothLost c csn) := h.writeLog.setTroubleBit.loseRecord

theorem readCopies : Passes q s t.readCopies := by
  have read := h.readDamage
  unfold State.readCopies
  dsimp only
  split
  · exact read
  · refine foldl (foldl read fun _ _ hv => ?_) fun _ _ hv => foldl hv fun _ _ hw => ?_
    · exact ite hv.bothLost hv
    · exact ite hw.bothLost hw

theorem sendResumed : Passes q s (t.sendResumed c csn n) := by
  unfold State.sendResumed
  split
  · exact h
  · exact h.notice

theorem restarted : Passes q s (t.restarted c csn) := h.writeLog.sendResumed

theorem rebook {a b d : Nat} : Passes q s (t.rebook c csn a b d) := by
  unfold State.rebook
  split
  · exact h
  · dsimp only
    split
    · exact h.modCmd.modCmd.same rfl
    · exact h.modCmd.modCmd

theorem endReset {a : Nat} : Passes q s (t.endReset c a csn) := h.stopCommand.complete

theorem restartCmd {b : Nat} : Passes q s (t.restartCmd c b csn) := by
  unfold State.restartCmd
  split
  · exact h
  · refine ite h (ite h.modCmd.restarted (ite h.rebook.restarted ?_))
    split
    · exact h.endReset
    · exact ite h.endReset (ite h.complete h.modCmd.rebook.restarted)

theorem restartAll : Passes q s (t.restartAll c) := by
  have again : Passes q s (t.modContext c fun x => { x with pins := x.pins.map Pin.again }) := h.same rfl
  unfold State.restartAll
  generalize (t.modContext c fun x => { x with pins := x.pins.map Pin.again }) = v at again ⊢
  dsimp only
  change PassesFst q s (List.foldl _ _ _)
  refine fstFoldl ?_ fun r _ hr => ?_
  · exact ite again.readCopies again
  · exact restartCmd (t := r.1) hr

theorem releaseSuspects : Passes q s t.releaseSuspects := by
  refine foldl (h.same rfl) fun v c hv => ?_
  have opened : Passes q s (v.modContext c fun x => { x with state := .open }) := hv.same rfl
  exact ite opened opened.restartAll

theorem replayNext : Passes q s (State.replayNext n t) := by
  induction n generalizing t with
  | zero => exact h
  | succ n ih =>
    unfold State.replayNext
    split
    next c _ =>
      have done {f : Stream → Stream} : Passes q s ((t.modStream c f).modDev fun d => { d with replaying := none }) :=
        h.modStream.same rfl
      exact ite (ih done.writeLog) h
    · split
      · exact h
      next c l _ =>
        have opened : Passes q s ((t.modDev fun d => { d with suspects := l, replaying := some c }).modContext c fun x =>
          { x with state := .open }) := h.same rfl
        exact ih (ite opened opened.restartAll)

theorem replayStep : Passes q s t.replayStep := ite h (ite h.releaseSuspects h.replayNext)

/-! ## Domains and contexts (R360, R363, R497) -/

theorem portDown : Passes q s t.portDown := by
  have down : Passes q s (t.modDev fun d => { d with portUp := false, negotiated := false }) := h.same rfl
  exact ite down.setTroubleBit h

theorem startWake : Passes q s (t.startWake k) := by
  have wakes {f : Domain → Domain} : Passes q s (t.modDomain k f) := h.same rfl
  exact ite (ite wakes.portDown wakes) h

theorem loseCore : Passes q s (t.loseCore p) := by
  have cleared : Passes q s (t.clearKey (localKey p 0) (2 ^ 32)) := h.same rfl
  exact cleared.same rfl

theorem portDrops : Passes q s t.portDrops := by
  have drops {f : Nat} : Passes q s (t.portDown.modDev fun d => { d with portWidth := f }) := h.portDown.same rfl
  exact ite h (ite drops.setTroubleBit drops)

theorem dropLines {d : Nat} {f : CacheLine → Bool} : Passes q s (t.dropLines d f) :=
  h.reaches (Reaches.refl (q := ⟨False, False⟩)).dropLines

theorem switchOff {a b : Bool} : Passes q s (t.switchOff k a b) := by
  have off : Passes q s (t.modDomain k fun d => { d with state := .off, byDoze := a, gated := b, since := t.uptime }) := h.same rfl
  unfold State.switchOff
  dsimp only
  generalize (t.modDomain k fun d => { d with state := .off, byDoze := a, gated := b, since := t.uptime }) = v at off ⊢
  refine ite h (ite (off.foldl fun _ _ hv => hv.loseCore) (ite ?_ (ite (off.same rfl) (ite off.portDrops ?_))))
  · exact off.dropLines.same rfl
  · exact off.foldl fun _ _ hv => hv.same rfl

theorem followClaims : Passes q s t.followClaims := h.foldl fun _ _ hv => ite hv.startWake hv.switchOff

theorem freeContext : Passes q s (t.freeContext c) := by
  unfold State.freeContext
  dsimp only
  refine followClaims ?_
  have unmapped := h.unmapPages (l := (t.pages.filter fun e => e.2.mapped && e.2.context == c).map (·.1))
  generalize ((t.pages.filter fun e => e.2.mapped && e.2.context == c).map (·.1)).foldl State.unmapPage t = v at unmapped ⊢
  have emptied : Passes q s ((List.range 4).foldl (fun s d => (s.dropLines d fun l => sget none (s.pond d).ways l.way == some c).modPond d
      fun t => { t with ways := t.ways.filter fun e => e.2 != some c }) v) := unmapped.foldl fun w d hw => hw.dropLines.same rfl
  generalize (List.range 4).foldl _ v = w at emptied ⊢
  exact emptied.same rfl

theorem endClosings : Passes q s t.endClosings := by
  refine h.foldl fun v e hv => ite ?_ hv
  have closes : Passes q s (v.releaseUnmaps.modJournal fun j => { j with closing := j.closing.filter (· != (e.1, e.2)) }) :=
    hv.releaseUnmaps.same rfl
  exact closes.freeContext.conclude

/-! ## Reads that were held back (R156, R196) -/

theorem readDevice {a b : Nat} {who : Requester} : PassesFst q s (t.readDevice who a b) :=
  h.reaches (Reaches.refl (q := ⟨False, False⟩)).readDevice

end

end Passes

/-- What a command leaves, in whatever way it ends. -/
def Handled.Passed (q : Prop) (s : State) : Handled → Prop
  | .later t => Passes q s t
  | .reply _ t => Passes q s t

namespace Passes

section
variable (h : Passes q s t)
include h

theorem checked {l : List (Option Reply)} {go : Handled} (hg : go.Passed q s) : (checked l t go).Passed q s := by
  unfold Machine.checked
  split
  · exact h
  · exact hg

theorem zeroField {b : Bool} {go : Handled} (hg : go.Passed q s) : (zeroField b t go).Passed q s := by
  unfold Machine.zeroField
  split
  · exact h
  · exact hg

theorem stage {x : Staged} : (Handled.later (t.stage x)).Passed q s := h.same rfl

theorem readPlan {f : Frame} {a b : Nat} : (readPlan f c a b t).Passed q s := by
  have read := h.readDevice (who := {}) (a := a) (b := b)
  unfold Machine.readPlan
  split
  next e => rw [e] at read; exact read
  next v _ e =>
    rw [e] at read
    have read : Passes q s v := read
    split
    · exact read
    · split
      · exact read
      · exact read.checked read.stage

theorem readImage {f : Frame} {a b : Nat} : (readImage f c a b t).Passed q s := by
  have read := h.readDevice (who := {}) (a := a) (b := b)
  unfold Machine.readImage
  split
  next e => rw [e] at read; exact read
  next v _ e =>
    rw [e] at read
    have read : Passes q s v := read
    split
    · exact read
    · exact read.checked read.stage

theorem awaits {f : Frame} {go : Handled} {b : Prop} [Decidable b] (hg : go.Passed q s) :
    (if b then .later (t.awaitRead f) else go).Passed q s := by
  split
  · exact h.same rfl
  · exact hg

theorem bodyPlanLoad {f : Frame} : (bodyPlanLoad f c t).Passed q s := h.zeroField (h.checked (h.awaits h.readPlan))

theorem bodyCtxRestore {f : Frame} : (bodyCtxRestore f c t).Passed q s := h.zeroField (h.checked (h.awaits h.readImage))

omit h in
theorem answered {op : Nat} {r : Handled} (hr : r.Passed q s) : Passes q s (t.answer k n op r) := by
  refine answer fun x v e => ?_
  rcases e with rfl | rfl
  · exact hr
  · exact hr

theorem retryReads : Passes q s t.retryReads := by
  refine foldl (h.same rfl) fun v f hv => answered ?_
  split
  · exact hv.bodyPlanLoad
  · exact hv.bodyCtxRestore

/-! ## The wheel's sources and the next notch (R43, R400, R463) -/

theorem failLanes : Passes q s t.failLanes := by
  refine h.foldl fun v j hv => ?_
  have fails : Passes q s (v.failLane j.link j.bundle j.direction j.lane) := hv.same rfl
  exact fails.injectionHit

theorem acquire : Passes q s (t.acquire c) := h.same rfl

theorem holdover {a b : Nat} {l : Bool} : Passes q s (t.holdover a b l) := setTroubleBit (t := t.modWheel _) (h.same rfl)

theorem runFree : Passes q s t.runFree := h.same rfl

theorem loseSource : Passes q s t.loseSource := by
  unfold State.loseSource
  dsimp only
  split
  · exact h
  next c _ =>
    have lost : Passes q s (if c = 1 then t.modWheel fun w => { w with ppsLost := true, ppsRun := 0 } else t) := ite (h.same rfl) h
    generalize (if c = 1 then t.modWheel fun w => { w with ppsLost := true, ppsRun := 0 } else t) = v at lost ⊢
    refine ite lost.acquire ?_
    split
    · exact lost.holdover
    · split
      · exact lost.holdover
      · exact lost.holdover
      · exact lost.runFree
    · exact lost

theorem applySource : Passes q s t.applySource := by
  unfold State.applySource
  split
  · exact h
  next c _ =>
    dsimp only
    generalize hv : t.modWheel _ = v
    have set : Passes q s v := hv ▸ h.same rfl
    have bounded : Passes q s (if v.wheel.state = .locked then v.modWheel fun w => { w with errorBound := w.boundOf w.offset } else v) :=
      ite (set.same rfl) set
    generalize (if v.wheel.state = .locked then v.modWheel fun w => { w with errorBound := w.boundOf w.offset } else v) = w at bounded ⊢
    split
    · exact ite bounded bounded.loseSource
    · split
      · exact ite bounded bounded.acquire
      · exact bounded

theorem answerLate : Passes q s t.answerLate := by
  refine h.foldl fun v e hv => ?_
  split
  · exact hv
  · split
    · exact hv.conclude.same rfl
    · exact hv

theorem pruneSpent : Passes q s t.pruneSpent := by
  have pruned {f : Schedule → Schedule} : Passes q s (t.modSchedule f) := h.same rfl
  exact ite h pruned.pruneBookings

theorem beginNotch : Passes q s t.beginNotch :=
  h.pruneSpent.answerLate.applySource.failLanes.retryReads.releaseUnmaps.endClosings.replayStep

/-! ## What waits for the end of a notch (R41, R363, R461, R492) -/

theorem dozeOff : Passes q s t.dozeOff := foldl (h.same rfl) fun _ _ hv => hv.foldl fun _ _ hw => hw.switchOff

theorem plant {a b d e : Nat} {x : Bool} : Passes q s (t.plant a b d e x) := by
  have flushed : Passes q s (if x = true then t.dropLines (homeDie b) fun l => l.line == b / 256 else t) := ite h.dropLines h
  exact flushed.same rfl

theorem plantDue : Passes q s t.plantDue := by
  refine h.foldl fun v j hv => ?_
  have planted := hv.plant (a := j.key) (b := j.address) (d := j.action) (e := j.position) (x := j.link == 0 && isExternal j.address)
  exact planted.same rfl

/-! ## Links and dies (R286, R299, R404 to R406) -/

theorem noteMoved : Passes q s t.noteMoved := ite (h.same rfl) h

theorem modDev {f : Device → Device} (hf : ∀ d, (f d).state = d.state ∧ (f d).regWrites = d.regWrites) : Passes q s (t.modDev f) :=
  h.dev (fun e => by rw [(hf _).1]; exact e) (hf _).2

theorem routesReturn : Passes q s t.routesReturn := by
  unfold State.routesReturn
  dsimp only
  split
  · exact h.modDev fun _ => ⟨rfl, rfl⟩
  · refine foldl ?_ fun _ _ hw => ?_
    · exact h.modDev fun _ => ⟨rfl, rfl⟩
    · exact hw.same rfl

theorem reroute {old : State} {g : Packet → Bool} : Passes q s (t.reroute old g) := by
  unfold State.reroute
  dsimp only
  refine foldl ?_ fun _ _ hw => ?_
  · refine modDev ?_ fun _ => ?_
    · refine foldl ?_ fun _ _ hw => ?_
      · exact h
      · exact hw.same rfl
    · exact ⟨rfl, rfl⟩
  · refine ite ?_ hw
    exact hw.same rfl

theorem divertDue : Passes q s t.divertDue := by
  refine h.foldl fun v d hv => ?_
  dsimp only
  refine reroute ?_
  refine foldl ?_ fun _ _ hw => setTroubleBit ?_
  · exact hv.modDev fun _ => ⟨rfl, rfl⟩
  · exact hw.same rfl

theorem moveFlits {i b : Nat} : Passes q s (t.moveFlits i b) := by
  refine h.foldl fun v x hv => ?_
  dsimp only
  split
  · exact hv.same rfl
  · exact hv.same rfl

theorem degrade : Passes q s t.degrade := by
  refine h.dev (fun e => ?_) rfl
  dsimp only
  split
  · exact nofun
  · exact e

theorem snapshotCores {l : List Nat} : Passes q s (t.snapshotCores l) := h.foldl fun _ _ hv => hv.writeLog

theorem sweepBlock {a b : Nat} : PassesFst q s (t.sweepBlock a b) := by
  have read := h.readBlock (b := a) (k := 4)
  unfold State.sweepBlock
  split
  next e => rw [e] at read; exact same (t := _) read rfl
  next e =>
    rw [e] at read
    have read : Passes q s _ := read
    exact ite (read.same rfl) (ite (read.same rfl) (read.reaches (Reaches.refl (q := ⟨False, False⟩)).poisonBlock))

theorem sweepPages {a b d e : Nat} : PassesFst q s (t.sweepPages a b d e) := by
  refine fstFoldl (r := (t, [])) h fun r x hr => ?_
  obtain ⟨v, l⟩ := r
  have swept := sweepBlock (t := v) (a := x) (b := b) hr
  dsimp only
  split
  next e => rw [e] at swept; exact swept
  next e => rw [e] at swept; exact swept

theorem interruptSweep : Passes q s (t.interruptSweep k) := by
  unfold State.interruptSweep
  dsimp only
  generalize hv : t.modStack k _ = v
  have stopped : Passes q s v := hv ▸ h.same rfl
  split
  · exact stopped
  · split
    · exact stopped
    · exact modCmd (sweepPages stopped)

theorem interruptSweeps : Passes q s t.interruptSweeps := h.foldl fun _ _ hv => hv.interruptSweep

theorem giveUp : Passes q s (t.giveUp c) := by
  unfold State.giveUp
  dsimp only
  generalize hv : List.foldl _ t _ = v
  have given : Passes q s v := hv ▸ h.foldl fun _ _ hw => hw.stopCommand.modCmd
  exact pruneBookings (given.same rfl)

theorem giveUpAll : Passes q s t.giveUpAll := h.foldl fun _ _ hv => hv.giveUp

theorem recovered {a b d e : Nat} {x : Nat × Nat} : Passes q s (t.recovered a b d x e) := writeLog (t := t.modDev _) (h.same rfl)

theorem enterFaulted {a b : Nat} {x : Nat × Nat} {l : Bool} : Passes q s (t.enterFaulted a b x l) := by
  unfold State.enterFaulted
  dsimp only
  refine setTroubleBit (recovered ?_)
  generalize hv : List.foldl State.snapshotLink _ _ = v
  have taken : Passes q s v := hv ▸ h.snapshotCores.foldl fun _ _ hw => hw.writeLog
  exact taken.giveUpAll.interruptSweeps.dev (fun _ => nofun) rfl

theorem removeBundle {i b : Nat} : Passes q s (t.removeBundle i b) := by
  unfold State.removeBundle
  dsimp only
  generalize hv : t.modLink i _ = v
  have removed : Passes q s v := hv ▸ h.same rfl
  have moved := (removed.moveFlits (i := i) (b := b)).setTroubleBit (r := .link i) (n := 1) (x := TroubleReg.scope (.link i)) (c := 0xFF)
  generalize (v.moveFlits i b).setTroubleBit (.link i) 1 = w at moved ⊢
  have degraded : Passes q s (if w.width i = 0 then (w.reroute t fun _ => false).setTroubleBit (.link i) 2 else w).degrade :=
    degrade (ite moved.reroute.setTroubleBit moved)
  exact ite degraded (ite degraded.enterFaulted (ite degraded.enterFaulted degraded))

theorem endLinks : Passes q s t.endLinks := by
  have bundles : Passes q s t.endBundles := h.foldl fun _ _ hv => hv.removeBundle
  exact bundles.divertDue.routesReturn.noteMoved

end

end Passes

end Sys2Proof.Machine
end

section
/-! PROOFS. What starts in a notch, and the registers written in it (R50 to R55, R60, R341, R354, R492). -/

namespace Sys2Proof.Machine

variable {s t u : State} {q : Prop} {c csn n k p : Nat}

namespace Passes

section
variable (h : Passes q s t)
include h

/-! ## Misses and slip (R60, R354) -/

theorem checkMiss {m : Cmd} : Passes q s (t.checkMiss c m) := ite h.modCmd.notice h

theorem checkMisses : Passes q s t.checkMisses := h.foldl fun _ _ hv => hv.checkMiss

theorem mapBooked {f : Cmd → Cmd} : Passes q s (t.mapBooked f) := h.same rfl

theorem modSchedule {f : Schedule → Schedule} : Passes q s (t.modSchedule f) := h.same rfl

theorem addSlip {d : Delay} : Passes q s (t.addSlip d) := h.modSchedule.mapBooked

theorem lowerSlip : Passes q s t.lowerSlip := ite h h.modSchedule.mapBooked

theorem passSlip : Passes q s t.passSlip := by
  have slipped : Passes q s (if t.delayCause = 0 then t else t.addSlip (oneNotch t.delayCause)) := ite h h.addSlip
  exact ite slipped.lowerSlip slipped

/-! ## Cores (R73, R93, R313) -/

theorem noteStop {x : Stop} : Passes q s (t.noteStop c csn x) := h.modCmd

theorem trapAs {a b d e f : Nat} {w : CoreWord} : Passes q s (t.trapAs a b w d e c csn f) := by
  refine noteStop (setTroubleBit ?_)
  exact h.same rfl

theorem readLocal {a b : Nat} : PassesFst q s (t.readLocal p a b) := h.reaches (Reaches.refl (q := ⟨True, True⟩)).readLocal

theorem readProgram {l : List Nat} : PassesFst q s (t.readProgram p l) := by
  induction l generalizing t with
  | nil => exact h
  | cons g l ih => exact ih h.readLocal

omit h in
theorem of_fst {α : Type} {r : State × α} {v : State} {x : α} (h : PassesFst q s r) (e : r = (v, x)) : Passes q s v := by
  rw [e] at h
  exact h

theorem loadBlock {b : Block} : Passes q s (t.loadBlock k b) := by
  unfold State.loadBlock
  dsimp only
  split
  · exact h
  next bank _ =>
    split
    next e =>
      have read := of_fst h.readProgram e
      exact ite read read.trapAs
    next e => exact (of_fst h.readProgram e).same rfl

theorem startCore {m : Cmd} {i : Nat} : Passes q s (t.startCore c m i k) := by
  unfold State.startCore
  split
  · exact h
  next b _ =>
    dsimp only
    have room : Passes q s (t.modCore (t.physical k) Core.makeRoom) := h.same rfl
    have loaded : Passes q s (if ((t.core (t.physical k)).bankOf c m.csn i).isSome then t
      else (t.modCore (t.physical k) Core.makeRoom).loadBlock k b) := ite h room.loadBlock
    split
    · exact loaded
    · exact loaded.same rfl

/-! ## Streams (R216, R217, R224) -/

theorem haltChannel {a : Nat} {f : StreamFault} : Passes q s (t.haltChannel k a c csn f) := by
  unfold State.haltChannel
  dsimp only
  generalize hv : t.modChannel _ _ _ = v
  have halted : Passes q s v := hv ▸ h.same rfl
  exact ite halted.setTroubleBit.modCmd.writeLog halted.setTroubleBit.noteStop

theorem headArrives {a : Nat} : Passes q s (t.headArrives k a) := by
  unfold State.headArrives
  dsimp only
  split
  · exact h.same rfl
  · generalize hv : t.modChannel _ _ _ = v
    have arrived : Passes q s v := hv ▸ h.same rfl
    exact ite arrived.haltChannel (ite (arrived.same rfl) arrived)

theorem fillQueue {a : Nat} : Passes q s (t.fillQueue k a) := by
  unfold State.fillQueue
  dsimp only
  split
  · exact h
  · refine ite h ?_
    generalize hv : t.modChannel _ _ _ = v
    have filled : Passes q s v := hv ▸ h.same rfl
    exact ite filled.headArrives filled

theorem restoreChannels {i : Nat} {l : List SavedChannel} : Passes q s (t.restoreChannels c csn i l) := by
  refine modCmd (h.foldl fun v x hv => fillQueue ?_)
  exact hv.same rfl

theorem startGroup {x : Plan} {a b : Nat} : Passes q s (t.startGroup x a c csn b k) := by
  refine foldl (foldl h fun _ _ hv => ?_) fun _ _ hv => hv.fillQueue
  exact hv.same rfl

/-! ## Units (R187, R264) -/

theorem startQuern {x : Plan} {a b : Nat} : Passes q s (t.startQuern x a c csn b) := by
  refine foldl (foldl h fun _ _ hv => ?_) fun _ _ hv => ?_
  · exact hv.same rfl
  · exact hv.same rfl

theorem hopperFault {a b : Nat} : Passes q s (t.hopperFault k c csn a b) := by
  refine noteStop (setTroubleBit ?_)
  exact h.same rfl

theorem giveJob {x : SamplerItem} {j : HopperJob} : Passes q s (t.giveJob k x j) := by
  unfold State.giveJob
  split
  · split
    · exact h.hopperFault
    · exact h
  · refine ite (h.same rfl) ?_
    unfold State.beginJob
    split
    · exact h.hopperFault
    · exact h.same rfl

theorem startHopper {x : Plan} {a b d : Nat} : Passes q s (t.startHopper x a c csn b d) := h.foldl fun _ _ hv => hv.giveJob

theorem startUnits {m : Cmd} {i : Nat} {e : SlotEntry} : Passes q s (t.startUnits c m i e) := by
  unfold State.startUnits
  split
  · exact h
  · dsimp only
    split
    · exact h.foldl fun _ _ hv => ite hv hv.startCore
    · exact ite h.restoreChannels (h.foldl fun _ _ hv => hv.startGroup)
    · exact h.startQuern
    · exact h.startHopper
    · exact h

/-! ## Commands and actions (R52, R53, R341) -/

theorem restoreBarriers {m : Cmd} : Passes q s (t.restoreBarriers m) := by
  refine foldl (foldl h fun _ _ hv => ?_) fun _ _ hv => ?_
  · exact hv.same rfl
  · exact hv.same rfl

theorem beginSchedule {m : Cmd} : Passes q s (t.beginSchedule c m) := by
  refine foldl (h.reaches (Reaches.refl (q := ⟨False, False⟩)).writeScratch) fun _ _ hv => ?_
  exact hv.same rfl

theorem beginCmd {m : Cmd} : Passes q s (t.beginCmd c m) := ite h (modCmd (ite h.restoreBarriers h.beginSchedule))

theorem startAction {i : Nat} : Passes q s (t.startAction c csn i) := by
  unfold State.startAction
  split
  · exact h
  · split
    · exact h
    · refine ite h ?_
      dsimp only
      generalize hv : State.modCmd _ _ _ _ = v
      have begun : Passes q s v := hv ▸ modCmd (modSchedule (addSlip (beginCmd h)))
      split
      · have started {m : Cmd} {e : SlotEntry} : Passes q s (v.startUnits c m i e).noteSlowed := begun.startUnits.same rfl
        exact started.noteMoved.checkMisses
      · exact begun

theorem startDue : Passes q s t.startDue := by
  refine foldl (foldl h fun _ _ hv => ?_) fun _ _ hv => ?_
  · exact hv.beginCmd
  · exact hv.startAction

end

/-! ## Registers written in the notch (R41, R492) -/

section
variable (h : Passes False s t)
include h

theorem modWheel {f : Wheel → Wheel} (hf : ∀ w, (f w).position = w.position) : Passes False s (t.modWheel f) :=
  h.trans ⟨rfl, rfl, hf _, id, nofun, fun w => ⟨w, fun _ => ⟨id, id⟩⟩⟩

theorem modPort {f : Port → Port} : Passes False s (t.modPort f) := h.trans ⟨rfl, rfl, rfl, id, nofun, fun w => ⟨w, fun _ => ⟨id, id⟩⟩⟩

theorem modDevice {f : Device → Device} (hf : ∀ d, (f d).state = d.state) : Passes False s (t.modDev f) :=
  h.trans ⟨rfl, rfl, rfl, fun e => by
    change (f t.dev).state ≠ .off
    rw [hf]
    exact e, nofun, fun w => ⟨w, fun _ => ⟨id, id⟩⟩⟩

theorem writeRw {r : RwReg} {v : Nat} : Passes False s (t.writeRw r v) := by
  cases r with
  | sourceCfg | ptpCfg | asymmetry => exact h.same rfl
  | holdLimit => exact modWheel (f := fun w => { w with holdLimit := max 16 v }) h fun _ => rfl
  | udpPort => exact modPort (f := fun p => { p with udpPort := if v % 65536 = 0 then 47310 else v % 65536 }) h
  | recoveryCfg => exact modDevice (f := fun d => { d with autoWarm := bit v 0, replay := bit v 1, faultHold := bits v 23 8 }) h fun _ => rfl
  | lastLatch => exact h.same rfl

end

section
variable (h : Passes q s t)
include h

theorem clearTrouble {r : TroubleReg} {v : Word} : Passes q s (t.clearTrouble r v) := by
  unfold State.clearTrouble State.restartSince
  dsimp only
  have cleared := h.setTrouble (r := r) (v := t.trouble r &&& ~~~(t.clearing r.address v))
  split
  · exact ite (cleared.same rfl) cleared
  · exact ite (cleared.same rfl) cleared
  · exact ite (cleared.same rfl) cleared
  · exact ite (cleared.same rfl) cleared
  · exact ite (cleared.same rfl) cleared
  · exact cleared

theorem clearCounter {r : RegPlace} : Passes q s (t.clearCounter r) := by
  unfold State.clearCounter
  split
  case h_18 => exact h
  all_goals exact h.same rfl

theorem clearFlags {r : RegPlace} {a : Nat} {v : Word} : Passes q s (t.clearFlags r a v) := by
  unfold State.clearFlags
  split
  · exact ite (h.same rfl) h
  · exact ite (h.same rfl) h
  · exact h

end

theorem writeReg {a v : Nat} (h : Passes False s t) : Passes False s (t.writeReg a v) := by
  unfold State.writeReg
  dsimp only
  refine ite h ?_
  split
  · exact h.writeRw
  · split
    · exact h.clearTrouble
    · exact ite h.clearCounter h.clearFlags

theorem applyWrites (h : Passes False s t) : Passes False s t.applyWrites := by
  refine foldl (modDevice h fun _ => rfl) fun _ _ hv => ?_
  exact hv.writeReg

/-- What holds where a part writes no register holds where one may. -/
theorem weaken (h : Passes q s t) : Passes False s t := { h with writes := nofun }

end Passes

end Sys2Proof.Machine
end

section
/-! PROOFS. A notch passes (R27, R355), and how sessions end (R308, R316, R453). -/

namespace Sys2Proof.Machine

variable {s t u : State} {f : Frame} {i n sid : Nat}

/-! ## The end of a notch (R453) -/

theorem sget_filter {β : Type} [DecidableEq β] {d : β} {m : Sparse β} {g : Nat × β → Bool} (h : swf d m = true) (hg : ∀ k, g (k, d) = true) :
    sget d (m.filter g) i = if g (i, sget d m i) then sget d m i else d := by
  have kept : swf d (m.filter g) = true := swf_filter h
  by_cases hd : sget d m i = d
  · rw [hd, if_pos (hg i)]
    by_contra he
    have there := (mem_iff_sget kept).2 ⟨he, rfl⟩
    exact he (((mem_iff_sget h).1 (List.mem_of_mem_filter there)).2.symm.trans hd)
  · have there := (mem_iff_sget h).2 ⟨hd, rfl⟩
    cases hp : g (i, sget d m i) with
    | true => exact ((mem_iff_sget kept).1 (List.mem_filter.2 ⟨there, hp⟩)).2
    | false =>
      rw [if_neg (by decide)]
      by_contra he
      have stays := (mem_iff_sget kept).2 ⟨he, rfl⟩
      obtain ⟨hm, hq⟩ := List.mem_filter.1 stays
      rw [((mem_iff_sget h).1 hm).2] at hp
      exact absurd (hq.symm.trans hp) (by decide)

theorem State.dropSessions_session (h : swf {} s.sessions = true) :
    s.dropSessions.session i = if (s.session i).ending then {} else s.session i := by
  refine (sget_filter h fun _ => rfl).trans ?_
  change (if (!(s.session i).ending) = true then s.session i else {}) = _
  cases (s.session i).ending with
  | true => rfl
  | false => rfl

theorem Passes.dropSessions {q : Prop} (h : Passes q s t) : Passes q s t.dropSessions := by
  refine h.trans ⟨rfl, rfl, rfl, id, fun _ => ⟨rfl, rfl, rfl⟩, fun w => ⟨swf_filter w, fun i => ?_⟩⟩
  rw [State.dropSessions_session w]
  split
  · exact ⟨fun _ => .inl rfl, fun _ => rfl⟩
  · exact ⟨id, id⟩

/-- A session that is to end with the notch has ended then. -/
theorem State.dropSessions_closes (h : swf {} s.sessions = true) (hl : (s.session i).leaving) : (s.dropSessions.session i).isOpen = false := by
  rw [State.dropSessions_session h]
  split
  · rfl
  next he => exact hl.resolve_right he

/-! ## A notch of a device under power -/

/-- The state before the registers written in the notch change. -/
def State.beforeWrites (s : State) : State := s.startDue.passSlip.checkMisses.endLinks

/-- The state before the clocks move on. -/
def State.beforeClocks (s : State) : State := s.beforeWrites.dropSessions.applyWrites.plantDue.dozeOff

theorem State.passNotch_on (h : s.dev.state ≠ .off) : s.passNotch = (s.beforeClocks.passClocks.raiseLeads s.clock).beginNotch := if_neg h

theorem Passes.beforeWrites {q : Prop} : Passes q s s.beforeWrites := Passes.refl.startDue.passSlip.checkMisses.endLinks

theorem Passes.afterWrites {q : Prop} : Passes q s s.plantDue.dozeOff := Passes.refl.plantDue.dozeOff

theorem Passes.beforeClocks : Passes False s s.beforeClocks := Passes.beforeWrites.dropSessions.applyWrites.plantDue.dozeOff

theorem Passes.afterClocks {q : Prop} : Passes q s (s.raiseLeads n).beginNotch := Passes.refl.modSchedule.beginNotch

theorem State.passClocks_on (h : s.dev.state ≠ .off) : s.passClocks.pace = (s.pending, s.uptime + 1, (s.wheel.position + 1) % 2 ^ 64,
    s.dev.state, s.dev.regWrites, s.wheel.holdLimit, s.port.udpPort, s.sessions) := by
  unfold State.passClocks
  rw [if_neg h]
  rfl

/-- The clocks of a notch. -/
theorem State.passNotch_clocks (h : s.dev.state ≠ .off) : s.passNotch.pending = s.pending ∧ s.passNotch.uptime = s.uptime + 1 ∧
    s.passNotch.wheel.position = (s.wheel.position + 1) % 2 ^ 64 := by
  have before := Passes.beforeClocks (s := s)
  have clocks := State.passClocks_on (before.power h)
  simp only [State.pace, Prod.mk.injEq] at clocks
  obtain ⟨pending, uptime, position, -⟩ := clocks
  have after := Passes.afterClocks (s := s.beforeClocks.passClocks) (n := s.clock) (q := True)
  rw [State.passNotch_on h]
  exact ⟨after.pending.trans (pending.trans before.pending), after.uptime.trans (by rw [uptime, before.uptime]),
    after.position.trans (by rw [position, before.position])⟩

/-- A session that is to end with the notch. -/
theorem State.passNotch_closes (hs : swf {} s.sessions = true) (h : s.dev.state ≠ .off) (he : (s.session i).ending = true) :
    (s.passNotch.session i).isOpen = false := by
  have writes := Passes.beforeWrites (s := s) (q := True)
  obtain ⟨wf, leaves⟩ := writes.sessions hs
  have closed := State.dropSessions_closes wf ((leaves i).leaving (.inr he))
  have dropped : Passes False s s.beforeWrites.dropSessions := writes.dropSessions.weaken
  have rest : Passes False s.beforeWrites.dropSessions s.beforeClocks := Passes.refl.applyWrites.plantDue.dozeOff
  obtain ⟨wf', stays⟩ := rest.sessions (dropped.sessions hs).1
  have clocks := State.passClocks_on (Passes.beforeClocks.power h)
  simp only [State.pace, Prod.mk.injEq] at clocks
  obtain ⟨-, -, -, -, -, -, -, sessions⟩ := clocks
  have same : ∀ i, s.beforeClocks.passClocks.session i = s.beforeClocks.session i := fun i => by unfold State.session; rw [sessions]
  have after := Passes.afterClocks (s := s.beforeClocks.passClocks) (n := s.clock) (q := True)
  obtain ⟨-, ends⟩ := after.sessions (by rw [sessions]; exact wf')
  rw [State.passNotch_on h]
  exact (ends i).closed (by rw [same]; exact (stays i).closed closed)

/-- Settles O2: no part of a notch but the clocks moves them. -/
theorem anEmptyQueuePassesANotch : Obligations.AnEmptyQueuePassesANotch := by
  unfold Obligations.AnEmptyQueuePassesANotch
  intro s hp
  refine ⟨s.passNotch, step_nil hp, ?_⟩
  by_cases h : s.dev.state = .off
  · have off : s.passNotch = { s with uptime := s.uptime + 1 } := by
      unfold State.passNotch State.passClocks
      rw [if_pos h, if_pos h]
    rw [off, if_pos h]
    exact ⟨hp, rfl, rfl⟩
  · rw [if_neg h]
    obtain ⟨pending, uptime, position⟩ := State.passNotch_clocks h
    exact ⟨pending.trans hp, uptime, position⟩

/-! ## SESSION.CLOSE and the events of a session (R308, R316) -/

/-- SESSION.CLOSE: the session ends after its reply. -/
theorem Delivered.closes (h : Delivered 0x0103 f s) : ∃ t, Runs (.sessionClose f) f s t ∧ Replied f {} s t ∧
    (t.session f.session.toNat).isOpen = false ∧ (∀ i, i ≠ f.session.toNat → t.session i = s.session i) ∧
    t = { s with out := t.out, sessions := t.sessions } := by
  obtain ⟨v, hv⟩ : ∃ v, v = s.noted f := ⟨_, rfl⟩
  have noted := h.notedIn
  rw [← hv] at noted
  obtain ⟨u, hu⟩ : ∃ u, u = v.modSession f.session.toNat fun x => { x with endAfter := some (x.next - 1) } := ⟨_, rfl⟩
  have frame : u = { s with sessions := u.sessions } := by rw [hu, hv]; rfl
  have wf : swf {} u.sessions = true := by rw [hu]; exact swf_sput noted.canonical
  have own : u.session f.session.toNat = { v.session f.session.toNat with endAfter := some ((v.session f.session.toNat).next - 1) } := by
    rw [hu]
    exact State.session_modSession_self noted.canonical
  have vown : v.session f.session.toNat = _ := noted.own
  have plain : u.Plain := by
    have := h.toArrives.open_
    rw [frame]
    exact ⟨⟨this.up, this.clear⟩, this.injections⟩
  have ends : (u.session f.session.toNat).endAfter = some f.number.toNat := by rw [own, vown]; rfl
  have isOpen : (u.session f.session.toNat).isOpen = true := by rw [own, vown]; exact h.isOpen
  have formed {o : OutFrame} (ho : o.session = f.session.toNat) : u.formed o = s.formed o :=
    State.formed_congr (by rw [ho, own, vown])
  refine ⟨(u.answered f.session.toNat f.number.toNat 0x0103 {}).endSession f.session.toNat, fun s0 h0 => ?_, ?_, ?_, fun i hi => ?_, ?_⟩
  · have body : body f f.session.toNat (v.session f.session.toNat) v = .reply {} u := by
      rw [hu]
      exact body_low h.opcode (by decide)
    have received := h.received h0 (by decide) (by decide)
    rw [← hv, body, State.answer_ends (Prompt.of_not_journals (by decide) (by decide)) wf plain isOpen ends] at received
    exact congrArg Host.Outcome.next received
  · have path : (u.session f.session.toNat).path = f.path ∧ (u.session f.session.toNat).context = s.boundTo f := by
      rw [own, vown]
      exact ⟨rfl, rfl⟩
    have generation : ∀ c, u.generationOf c = s.generationOf c := fun c => by rw [frame]; rfl
    have after : ((u.answered f.session.toNat f.number.toNat 0x0103 {}).endSession f.session.toNat).generationOf (s.boundTo f) =
        s.generationOf (s.boundTo f) := by rw [frame]; rfl
    have gone : u.out = s.out := by rw [frame]
    unfold Replied
    rw [after]
    unfold State.replyTo State.answered State.endSession
    dsimp only
    rw [formed rfl, path.1, path.2, generation, gone, h.opcode]
  · rw [State.endSession_self (by unfold State.answered; exact swf_sput wf)]
  · rw [State.endSession_other (by unfold State.answered; exact swf_sput wf) hi, State.answered_session_other wf hi, hu,
      State.session_modSession_other noted.canonical hi]
    exact noted.other i hi
  · rw [frame]
    rfl

/-- Settles O8. -/
theorem sessionsEnd : Obligations.SessionsEnd := by
  unfold Obligations.SessionsEnd
  refine ⟨fun f s h => h.closes, ?idle, ?ending, ?expiry⟩
  case idle =>
    intro sid s hs ho ht
    refine ⟨s.endSession sid, ?_, ?_, fun i hi => State.endSession_other hs.sessions hi, rfl⟩
    · exact event_true (by rw [ho, decide_eq_true ht]; rfl)
    · rw [State.endSession_self hs.sessions]
  case ending =>
    intro sid s hs hoff he hp
    exact ⟨s.passNotch, step_nil hp, State.passNotch_closes hs.sessions hoff he⟩
  case expiry =>
    intro sid n s hs
    refine ⟨_, rfl, ?_, fun i hi => State.session_modSession_other hs.sessions hi, rfl⟩
    rw [State.session_modSession_self hs.sessions]

end Sys2Proof.Machine
end

section
/-! PROOFS. Writes of registers: W1C bits, counters, the registers that behave, and REG.WRITE (R40, R333, R379, R381 to R383, R405, R484,
R491 to R494). -/

namespace Sys2Proof.Machine

variable {s t u : State} {f : Frame} {a v : Nat} {r q : TroubleReg} {g : RegPlace} {w : Word}

/-! ## What a write of a place does -/

section
variable (hr : regPlace a = g) (hw : s.regWritable g = true)
include hr hw

theorem State.writeReg_rw {x : RwReg} (hx : rwAt g = some x) : s.writeReg a v = s.writeRw x v := by
  unfold State.writeReg
  dsimp only
  rw [hr, hw, if_neg (by decide), hx]

theorem State.writeReg_trouble (hx : rwAt g = none) (ht : troubleAt g = some r) :
    s.writeReg a v = s.clearTrouble r (BitVec.ofNat 32 v) := by
  unfold State.writeReg
  dsimp only
  rw [hr, hw, if_neg (by decide), hx]
  dsimp only
  rw [ht]

theorem State.writeReg_counter (hx : rwAt g = none) (ht : troubleAt g = none) (hc : isCounterPlace g = true) :
    s.writeReg a v = s.clearCounter g := by
  unfold State.writeReg
  dsimp only
  rw [hr, hw, if_neg (by decide), hx]
  dsimp only
  rw [ht]
  dsimp only
  rw [if_pos hc]

end

/-! ## Trouble registers (R382, R491, R492) -/

section
variable (hs : s.Canonical)
include hs

theorem State.trouble_modStack {k : Nat} {x : Stack → Stack} (hx : ∀ t, (x t).trouble = t.trouble) :
    (s.modStack k x).trouble q = s.trouble q := by
  cases q with
  | stack j =>
    by_cases e : j = k
    · subst e
      exact (congrArg Stack.trouble (State.stack_modStack_self hs.memStacks.1)).trans (hx _)
    · exact congrArg Stack.trouble (State.stack_modStack_other hs.memStacks.1 e)
  | _ => rfl

theorem State.trouble_modPond {k : Nat} {x : Millpond → Millpond} (hx : ∀ t, (x t).trouble = t.trouble) :
    (s.modPond k x).trouble q = s.trouble q := by
  cases q with
  | millpond j =>
    by_cases e : j = k
    · subst e
      exact (congrArg Millpond.trouble (State.pond_modPond_self hs.ponds.1)).trans (hx _)
    · exact congrArg Millpond.trouble (State.pond_modPond_other hs.ponds.1 e)
  | _ => rfl

theorem State.trouble_modCore {k : Nat} {x : Core → Core} (hx : ∀ t, (x t).trouble = t.trouble ∧ (x t).streamTrouble = t.streamTrouble) :
    (s.modCore k x).trouble q = s.trouble q := by
  cases q with
  | core j =>
    by_cases e : j = k
    · subst e
      exact (congrArg Core.trouble (State.core_modCore_self hs.cores.1)).trans (hx _).1
    · exact congrArg Core.trouble (State.core_modCore_other hs.cores.1 e)
  | coreStream j =>
    by_cases e : j = k
    · subst e
      exact (congrArg Core.streamTrouble (State.core_modCore_self hs.cores.1)).trans (hx _).2
    · exact congrArg Core.streamTrouble (State.core_modCore_other hs.cores.1 e)
  | _ => rfl

theorem State.trouble_modLink {k : Nat} {x : Link → Link} (hx : ∀ t, (x t).trouble = t.trouble) :
    (s.modLink k x).trouble q = s.trouble q := by
  cases q with
  | link j =>
    by_cases e : j = k
    · subst e
      exact (congrArg Link.trouble (State.link_modLink_self hs.links.1)).trans (hx _)
    · exact congrArg Link.trouble (State.link_modLink_other hs.links.1 e)
  | _ => rfl

/-- The counts that begin anew leave the trouble bits. -/
theorem State.trouble_restartSince : (s.restartSince r w).trouble q = s.trouble q := by
  cases r with
  | stack k =>
    unfold State.restartSince
    dsimp only
    split
    · exact State.trouble_modStack hs fun _ => rfl
    · rfl
  | millpond k =>
    unfold State.restartSince
    dsimp only
    split
    · exact State.trouble_modPond hs fun _ => rfl
    · rfl
  | core k =>
    unfold State.restartSince
    dsimp only
    split
    · exact State.trouble_modCore hs fun _ => ⟨rfl, rfl⟩
    · rfl
  | link k =>
    unfold State.restartSince
    dsimp only
    split
    · exact State.trouble_modLink hs fun _ => rfl
    · rfl
  | port =>
    unfold State.restartSince
    dsimp only
    split
    · cases q <;> rfl
    · rfl
  | _ => rfl

theorem State.clearTrouble_trouble : (s.clearTrouble r w).trouble r = s.trouble r &&& ~~~(s.clearing r.address w) ∧
    ∀ q, q ≠ r → (s.clearTrouble r w).trouble q = s.trouble q := by
  unfold State.clearTrouble
  dsimp only
  have set : (s.setTrouble r (s.trouble r &&& ~~~(s.clearing r.address w))).Canonical := (State.setTrouble_kept ⟨rfl, hs⟩).2
  refine ⟨?_, fun q hq => ?_⟩
  · rw [State.trouble_restartSince set, State.trouble_setTrouble_self hs]
  · rw [State.trouble_restartSince set, State.trouble_setTrouble_other hs hq]

end

/-- What a write of a register leaves. -/
structure Rewritten (s t : State) : Prop where
  log : t.log = s.log
  mem : t.mem = s.mem
  contexts : t.contexts = s.contexts
  writes : t.dev.regWrites = s.dev.regWrites

theorem Rewritten.ite {b : Prop} [Decidable b] (h : Rewritten s t) (h' : Rewritten s u) : Rewritten s (if b then t else u) := by
  split
  · exact h
  · exact h'

theorem State.restartSince_rewritten : Rewritten s (s.restartSince r w) := by
  unfold State.restartSince
  split
  case h_6 => exact ⟨rfl, rfl, rfl, rfl⟩
  all_goals exact Rewritten.ite ⟨rfl, rfl, rfl, rfl⟩ ⟨rfl, rfl, rfl, rfl⟩

theorem State.clearTrouble_rewritten : Rewritten s (s.clearTrouble r w) := by
  have set : ∀ x, Rewritten s (s.setTrouble r x) := fun x => by cases r <;> exact ⟨rfl, rfl, rfl, rfl⟩
  obtain ⟨log, mem, contexts, writes⟩ := State.restartSince_rewritten
    (s := s.setTrouble r (s.trouble r &&& ~~~(s.clearing r.address w))) (r := r) (w := s.clearing r.address w)
  have set := set (s.trouble r &&& ~~~(s.clearing r.address w))
  exact ⟨log.trans set.log, mem.trans set.mem, contexts.trans set.contexts, writes.trans set.writes⟩

theorem State.clearCounter_rewritten : Rewritten s (s.clearCounter g) := by
  unfold State.clearCounter
  split
  all_goals exact ⟨rfl, rfl, rfl, rfl⟩

theorem State.clearFlags_rewritten : Rewritten s (s.clearFlags g a w) := by
  unfold State.clearFlags
  split
  · exact Rewritten.ite ⟨rfl, rfl, rfl, rfl⟩ ⟨rfl, rfl, rfl, rfl⟩
  · exact Rewritten.ite ⟨rfl, rfl, rfl, rfl⟩ ⟨rfl, rfl, rfl, rfl⟩
  · exact ⟨rfl, rfl, rfl, rfl⟩

theorem State.writeRw_rewritten {x : RwReg} : Rewritten s (s.writeRw x v) := by
  cases x <;> exact ⟨rfl, rfl, rfl, rfl⟩

theorem State.writeReg_rewritten : Rewritten s (s.writeReg a v) := by
  unfold State.writeReg
  dsimp only
  refine Rewritten.ite ⟨rfl, rfl, rfl, rfl⟩ ?_
  split
  · exact State.writeRw_rewritten
  · split
    · exact State.clearTrouble_rewritten
    · exact Rewritten.ite State.clearCounter_rewritten State.clearFlags_rewritten

/-! ## Counters (R491, R493) -/

/-- A counter is neither a read-write register nor a trouble register. -/
theorem counter_alone (hc : isCounterPlace g = true) : rwAt g = none ∧ troubleAt g = none := by
  unfold isCounterPlace at hc
  split at hc
  case h_18 => exact absurd hc (by decide)
  all_goals exact ⟨rfl, rfl⟩

/-! The counters as they read. -/

section
variable {k : Nat}

theorem stackReg_corrected : s.stackReg k 0x0C = if s.isOn (68 + k) = false then 0 else (s.stack k).correctedCount := by
  simp [State.stackReg]
theorem stackReg_uncorrectable : s.stackReg k 0x10 = if s.isOn (68 + k) = false then 0 else (s.stack k).uncorrectableCount := by
  simp [State.stackReg]
theorem millpondReg_corrected : s.millpondReg k 0x10 = if s.isOn (64 + k) = false then 0 else (s.pond k).correctedCount := by
  simp [State.millpondReg]
theorem hopperReg_rows : s.hopperReg k 0x0C = if s.isOn 78 = false then 0 else (s.hopper k).rowsDone := by simp [State.hopperReg]
theorem hopperReg_flagged : s.hopperReg k 0x10 = if s.isOn 78 = false then 0 else (s.hopper k).flaggedRows := by simp [State.hopperReg]
theorem coreReg_parity : s.coreReg k 0x20 = if s.isOn (k / 4) = false then 0 else (s.core k).parityCount := by simp [State.coreReg]
theorem coreReg_corrected : s.coreReg k 0x24 = if s.isOn (k / 4) = false then 0 else (s.core k).correctedCount := by simp [State.coreReg]
theorem linkReg_replays : s.linkReg k 0x14 = (s.link k).replayCount := by simp [State.linkReg]
theorem linkReg_retrains : s.linkReg k 0x18 = (s.link k).retrainCount := by simp [State.linkReg]
theorem deviceReg_stale : s.deviceReg 0x110 = s.dev.staleDropped := by simp [State.deviceReg]
theorem powerReg_pauses : s.powerReg 0x24 = s.power.pauseCount := by
  unfold State.powerReg
  exact if_neg (by decide)

end

theorem off_or_zero {b : Prop} [Decidable b] {n : Nat} (h : n = 0) : (if b then 0 else n) = 0 := by rw [h, ite_self]

/-- A cleared counter reads 0. -/
theorem State.clearCounter_reads (hs : s.Canonical) (hr : regPlace a = g) (hc : isCounterPlace g = true) : (s.clearCounter g).regValue a = 0 := by
  unfold State.regValue
  rw [hr]
  refine congrArg (BitVec.ofNat 32) (?_ : _ = 0)
  unfold isCounterPlace at hc
  split at hc
  case h_18 => exact absurd hc (by decide)
  case h_1 => exact deviceReg_stale
  case h_2 => exact powerReg_pauses
  case h_3 k => exact congrArg Domain.wakeCount (sget_sput_self hs.domains)
  case h_4 k => exact stackReg_corrected.trans (off_or_zero (congrArg Stack.correctedCount (State.stack_modStack_self hs.memStacks.1)))
  case h_5 k => exact stackReg_uncorrectable.trans (off_or_zero (congrArg Stack.uncorrectableCount (State.stack_modStack_self hs.memStacks.1)))
  case h_8 d => exact millpondReg_corrected.trans (off_or_zero (congrArg Millpond.correctedCount (State.pond_modPond_self hs.ponds.1)))
  case h_9 h => exact hopperReg_rows.trans (off_or_zero (congrArg Hopper.rowsDone (State.hopper_modHopper_self hs.hoppers)))
  case h_10 h => exact hopperReg_flagged.trans (off_or_zero (congrArg Hopper.flaggedRows (State.hopper_modHopper_self hs.hoppers)))
  case h_11 p => exact coreReg_parity.trans (off_or_zero (congrArg Core.parityCount (State.core_modCore_self hs.cores.1)))
  case h_12 p => exact coreReg_corrected.trans (off_or_zero (congrArg Core.correctedCount (State.core_modCore_self hs.cores.1)))
  case h_6 i => exact linkReg_replays.trans (congrArg Link.replayCount (State.link_modLink_self hs.links.1))
  case h_7 i => exact linkReg_retrains.trans (congrArg Link.retrainCount (State.link_modLink_self hs.links.1))
  case h_13 | h_14 | h_15 | h_16 | h_17 => rfl

/-! ## REG.WRITE (R333, R494) -/

theorem bodyRegWrite_done (ho : f.opcode.toNat = 0x0A02) (ha : le f.payload 0 4 = a) (hv : le f.payload 4 4 = v) (h4 : a % 4 = 0)
    (hm : isMapped a = true) (hb : ∀ r, rwAt (regPlace a) = some r → badWrite r v s = false) (hl : legalDevice 0x0A02 s = none) :
    bodyRegWrite f s = .reply {} { s with dev := { s.dev with regWrites := s.dev.regWrites ++ [(a, v)] } } := by
  have takes : ((rwAt (regPlace a)).bind fun r => when (badWrite r v s) (refuse Status.format 4)) = none := by
    cases e : rwAt (regPlace a) with
    | none => rfl
    | some r => exact when_eq_none.2 (hb r e)
  unfold bodyRegWrite
  dsimp only
  rw [ha, hv, ho, checked_go (firstFailing_eq_none.2 (by simp [when_eq_none, h4, hm, takes, hl]))]
  rfl

/-- The rows of REG.WRITE. -/
theorem writeRow_takes {i : Instr} (h : Delivered 0x0A02 f s) (ha : le f.payload 0 4 = a)
    (hi : i = .regWrite f ∨ (i = .troubleBitClear f ∧ isTroublePlace (regPlace a) = true) ∨
      (i = .counterClear f ∧ isCounterPlace (regPlace a) = true) ∨
      (i = .wheelSourceWrite f ∧ (a = 0x100018 ∨ rwAt (regPlace a) = some .ptpCfg ∨ rwAt (regPlace a) = some .asymmetry)) ∨
      (i = .holdLimitWrite f ∧ a = 0x10001C) ∨ (i = .udpPortWrite f ∧ a = 0x200008) ∨ (i = .recoveryCfgWrite f ∧ a = 0x108) ∨
      (i = .lastLatchClear f ∧ a = 0x300028)) (s0 : State) : exec i s0 = .next (s0.receiveAs 0x0A02 f) := by
  have opcode : (f.opcode == 0x0A02) = true := beq_iff_eq.2 (BitVec.eq_of_toNat_eq h.opcode)
  have takes {p : Nat → Bool} (hp : p a = true) : s0.writeAs p f = .next (s0.receiveAs 0x0A02 f) :=
    event_true (by rw [opcode, ha, hp]; rfl)
  rcases hi with rfl | ⟨rfl, hp⟩ | ⟨rfl, hp⟩ | ⟨rfl, rfl | hp | hp⟩ | ⟨rfl, rfl⟩ | ⟨rfl, rfl⟩ | ⟨rfl, rfl⟩ | ⟨rfl, rfl⟩
  · rfl
  · exact takes (p := fun a => isTroublePlace (regPlace a)) hp
  · exact takes (p := fun a => isCounterPlace (regPlace a)) hp
  · exact takes (p := fun a => [some RwReg.sourceCfg, some .ptpCfg, some .asymmetry].contains (rwAt (regPlace a))) rfl
  · exact takes (p := fun a => [some RwReg.sourceCfg, some .ptpCfg, some .asymmetry].contains (rwAt (regPlace a))) (by rw [hp]; rfl)
  · exact takes (p := fun a => [some RwReg.sourceCfg, some .ptpCfg, some .asymmetry].contains (rwAt (regPlace a))) (by rw [hp]; rfl)
  · exact takes (p := fun a => rwAt (regPlace a) == some .holdLimit) rfl
  · exact takes (p := fun a => rwAt (regPlace a) == some .udpPort) rfl
  · exact takes (p := fun a => rwAt (regPlace a) == some .recoveryCfg) rfl
  · exact takes (p := fun a => rwAt (regPlace a) == some .lastLatch) rfl

/-! ## The registers that behave -/

/-- Settles O25. -/
theorem registerWrites : Obligations.RegisterWrites := by
  unfold Obligations.RegisterWrites
  refine ⟨?write, fun _ => rfl, ?notch, ?trouble, ?counter, fun s v => ?limit, fun s v => ?udp, fun s v => ?recovery, fun s v => ?latch,
    fun s v => ?source⟩
  case write =>
    intro i f s a v hi h ha hv h4 hm hb hl
    obtain ⟨l, -, effects⟩ := h.effect (r := {})
      (v := fun l => { s with sessions := l, dev := { s.dev with regWrites := s.dev.regWrites ++ [(a, v)] } }) (writeRow_takes h ha hi)
      (by decide) (by decide) ⟨rfl, rfl⟩
      (fun l _ => (body_middle h.opcode (by decide) (by decide)).trans
        (bodyRegWrite_done (s := { s with sessions := l }) h.opcode ha hv h4 hm hb hl))
      fun l => ⟨rfl, rfl, rfl, rfl⟩
    exact ⟨_, effects, rfl, rfl⟩
  case notch =>
    intro s a v hs hoff hp hw
    obtain ⟨b, hb⟩ : ∃ b, b = s.beforeWrites.dropSessions := ⟨_, rfl⟩
    have before : Passes True s b := hb ▸ Passes.beforeWrites.dropSessions
    obtain ⟨writes, -, -⟩ := before.writes trivial
    obtain ⟨c, hc⟩ : ∃ c, c = { b with dev := { b.dev with regWrites := [] } } := ⟨_, rfl⟩
    have applied : b.applyWrites = c.writeReg a v := by
      unfold State.applyWrites
      rw [writes, hw, hc]
      rfl
    have none : (c.writeReg a v).dev.regWrites = [] := State.writeReg_rewritten.writes.trans (by rw [hc])
    have after : Passes True (c.writeReg a v) s.beforeClocks := by
      have := Passes.afterWrites (s := c.writeReg a v) (q := True)
      rw [← applied, hb] at this
      rw [← applied, hb]
      exact this
    have clocks := State.passClocks_on (Passes.beforeClocks.power hoff)
    simp only [State.pace, Prod.mk.injEq] at clocks
    obtain ⟨-, -, -, -, clockWrites, clockLimit, clockUdp, -⟩ := clocks
    obtain ⟨endWrites, endLimit, endUdp⟩ := (Passes.afterClocks (s := s.beforeClocks.passClocks) (n := s.clock) (q := True)).writes trivial
    obtain ⟨midWrites, midLimit, midUdp⟩ := after.writes trivial
    refine ⟨s.passNotch, step_nil hp, ?_, ?_, ?_⟩
    · rw [State.passNotch_on hoff, endWrites, clockWrites, midWrites, none]
    · rintro rfl
      rw [State.passNotch_on hoff, endLimit, clockLimit, midLimit, State.writeReg_rw (g := .wheel 0x1C) rfl rfl rfl]
      rfl
    · rintro rfl
      rw [State.passNotch_on hoff, endUdp, clockUdp, midUdp, State.writeReg_rw (g := .port 0x08) rfl rfl rfl]
      rfl
  case trouble =>
    intro s a v r hs hx ht hw
    rw [State.writeReg_trouble rfl hw hx ht]
    obtain ⟨own, others⟩ := State.clearTrouble_trouble (r := r) (w := BitVec.ofNat 32 v) hs
    obtain ⟨log, mem, contexts, -⟩ := State.clearTrouble_rewritten (s := s) (r := r) (w := BitVec.ofNat 32 v)
    exact ⟨own, others, log, mem, contexts⟩
  case counter =>
    intro s a v hs hc hw
    obtain ⟨hx, ht⟩ := counter_alone hc
    rw [State.writeReg_counter rfl hw hx ht hc]
    obtain ⟨log, mem, contexts, -⟩ := State.clearCounter_rewritten (s := s) (g := regPlace a)
    exact ⟨State.clearCounter_reads hs rfl hc, log, mem, contexts⟩
  case limit => exact State.writeReg_rw (g := .wheel 0x1C) rfl rfl rfl
  case udp => exact State.writeReg_rw (g := .port 0x08) rfl rfl rfl
  case recovery => exact State.writeReg_rw (g := .device 0x108) rfl rfl rfl
  case latch => exact State.writeReg_rw (g := .power 0x28) rfl rfl rfl
  case source => exact State.writeReg_rw (g := .wheel 0x18) rfl rfl rfl

end Sys2Proof.Machine
end

section
/-! PROOFS. Accesses to memory do not look at the transfers that wait: with another list of them they do the same (R332). -/

namespace Sys2Proof.Machine

variable {s v : State} {l : List Transfer} {a b k n p d g x : Nat}

/-- The state with another list of waiting transfers. -/
def State.late (s : State) (l : List Transfer) : State := { s with journal := { s.journal with transfers := l } }

/-- The same of a state that comes with an answer. -/
def State.lateFst {α : Type} (r : State × α) (l : List Transfer) : State × α := (r.1.late l, r.2)

namespace State

/-! ## What an access reads -/

@[simp] theorem late_dev : (s.late l).dev = s.dev := rfl
@[simp] theorem late_stack : (s.late l).stack k = s.stack k := rfl
@[simp] theorem late_pond : (s.late l).pond d = s.pond d := rfl
@[simp] theorem late_page : (s.late l).page g = s.page g := rfl
@[simp] theorem late_pages : (s.late l).pages = s.pages := rfl
@[simp] theorem late_injections : (s.late l).injections = s.injections := rfl
@[simp] theorem late_memStacks : (s.late l).memStacks = s.memStacks := rfl
@[simp] theorem late_damageAt : (s.late l).damageAt k = s.damageAt k := rfl
@[simp] theorem late_segCode : (s.late l).segCode g = s.segCode g := rfl
@[simp] theorem late_segRetired : (s.late l).segRetired g = s.segRetired g := rfl
@[simp] theorem late_strayAt : (s.late l).strayAt b = s.strayAt b := rfl
@[simp] theorem late_cachedOffset : (s.late l).cachedOffset g = s.cachedOffset g := rfl
@[simp] theorem late_cachedLost : (s.late l).cachedLost = s.cachedLost := rfl
@[simp] theorem late_bypasses : (s.late l).bypasses a = s.bypasses a := rfl
@[simp] theorem late_lineOf : (s.late l).lineOf d a = s.lineOf d a := rfl
@[simp] theorem late_place : (s.late l).place a = s.place a := rfl
@[simp] theorem late_readRaw : (s.late l).readRaw a n = s.readRaw a n := rfl

theorem late_ite {c : Prop} [Decidable c] : (if c then s.late l else v.late l) = (if c then s else v).late l := by
  split
  · rfl
  · rfl

theorem late_if {c c' : Prop} [Decidable c] [Decidable c'] {s' v' : State} (hc : c ↔ c') (hs : s' = s.late l) (hv : v' = v.late l) :
    (if c then s' else v') = (if c' then s else v).late l := by
  rw [hs, hv, late_ite]
  congr 1
  exact if_congr hc rfl rfl

theorem lateFst_mk {α : Type} {y : α} : lateFst (s, y) l = (s.late l, y) := rfl

theorem lateFst_ite {α : Type} {c : Prop} [Decidable c] {r y : State × α} :
    (if c then lateFst r l else lateFst y l) = lateFst (if c then r else y) l := by
  split
  · rfl
  · rfl

/-! ## Changes of one part -/

@[simp] theorem late_clearDamage : (s.late l).clearDamage k = (s.clearDamage k).late l := rfl
@[simp] theorem late_modStack {f : Stack → Stack} : (s.late l).modStack k f = (s.modStack k f).late l := rfl
@[simp] theorem late_modPond {f : Millpond → Millpond} : (s.late l).modPond d f = (s.modPond d f).late l := rfl
@[simp] theorem late_setPage {y : Page} : (s.late l).setPage g y = (s.setPage g y).late l := rfl
@[simp] theorem late_modDev {f : Device → Device} : (s.late l).modDev f = (s.modDev f).late l := rfl
@[simp] theorem late_markSegRetired : (s.late l).markSegRetired g = (s.markSegRetired g).late l := rfl
@[simp] theorem late_modInjection {f : Injection → Injection} : (s.late l).modInjection n f = (s.modInjection n f).late l := rfl
@[simp] theorem late_writeLog {e : LogEntry} : (s.late l).writeLog e = (s.writeLog e).late l := by
  have same : (s.late l).log = s.log := rfl
  unfold writeLog
  rw [same]
  generalize s.log.length + 1 - 16384 = m
  rfl
@[simp] theorem late_writeList {m : List Defect} : (s.late l).writeList m = (s.writeList m).late l := rfl
@[simp] theorem late_logInjected {j : Injection} : (s.late l).logInjected j = (s.logInjected j).late l := by
  unfold logInjected
  exact late_writeLog
@[simp] theorem late_capture : (s.late l).capture k a b n = (s.capture k a b n).late l := by
  unfold capture
  exact late_modStack
@[simp] theorem late_touchLine {c : CacheLine} : (s.late l).touchLine d c = (s.touchLine d c).late l := rfl
@[simp] theorem late_reached : (s.late l).reached a = (s.reached a).late l := rfl
@[simp] theorem late_takeStray : (s.late l).takeStray b = (s.takeStray b).late l := rfl
@[simp] theorem late_poisonBlock : (s.late l).poisonBlock a = (s.poisonBlock a).late l := by
  unfold poisonBlock
  rfl

@[simp] theorem late_setTroubleBit {r : TroubleReg} {y : Nat × Nat} {c : Nat} :
    (s.late l).setTroubleBit r b y c = (s.setTroubleBit r b y c).late l := by
  have set {v : Word} : (s.late l).setTrouble r v = (s.setTrouble r v).late l := by cases r <;> rfl
  have same : (s.late l).trouble r = s.trouble r := by cases r <;> rfl
  have record {t : State} {v : Word} : (t.late l).troubleRecord r.address b v y c = (t.troubleRecord r.address b v y c).late l := by
    unfold troubleRecord
    exact late_writeLog (s := { t with freshTrouble := _ })
  unfold setTroubleBit
  dsimp only
  rw [same, set, record]

theorem late_foldl {α : Type} {f : State → α → State} (hf : ∀ v y, f (v.late l) y = (f v y).late l) (m : List α) (s : State) :
    m.foldl f (s.late l) = (m.foldl f s).late l := by
  induction m generalizing s with
  | nil => rfl
  | cons y m ih => rw [List.foldl_cons, List.foldl_cons, hf, ih]

theorem lateFst_foldl {α β : Type} {f : State × β → α → State × β} (hf : ∀ r y, f (lateFst r l) y = lateFst (f r y) l) (m : List α)
    (r : State × β) : m.foldl f (lateFst r l) = lateFst (m.foldl f r) l := by
  induction m generalizing r with
  | nil => rfl
  | cons y m ih => rw [List.foldl_cons, List.foldl_cons, hf, ih]

/-! ## The defect list, retirement and errors (R128 to R133, R159, R167, R168, R180, R417 to R419) -/

@[simp] theorem late_addDefect {y : Defect} : (s.late l).addDefect y = (s.addDefect y).late l := by
  unfold addDefect
  refine late_if .rfl rfl (late_if .rfl rfl (late_if .rfl rfl ?_))
  dsimp only [late_dev]
  split
  · exact late_if .rfl rfl rfl
  · rw [late_modDev, late_setTroubleBit]

@[simp] theorem late_retireSegment : (s.late l).retireSegment g n = (s.retireSegment g n).late l := by
  unfold retireSegment
  simp only [late_segRetired, late_markSegRetired, late_addDefect, late_ite]

@[simp] theorem late_retirePage : (s.late l).retirePage g n = (s.retirePage g n).late l := by
  unfold retirePage
  simp only [late_page, late_setPage, late_addDefect, late_pages, late_retireSegment, late_ite]

@[simp] theorem late_retirePending : (s.late l).retirePending g n = (s.retirePending g n).late l := by
  unfold retirePending
  simp only [late_page, late_setPage, late_setTroubleBit, late_retirePage, late_ite]

@[simp] theorem late_plantedHit {m : DamageMark} : (s.late l).plantedHit k m = (s.plantedHit k m).late l := by
  unfold plantedHit
  dsimp only [late_injections]
  split
  · rfl
  · split
    · rfl
    · simp only [late_modInjection, late_logInjected, late_ite]

@[simp] theorem late_stackCorrected {m : DamageMark} : (s.late l).stackCorrected a n m = (s.stackCorrected a n m).late l := by
  unfold stackCorrected
  simp only [late_plantedHit, late_modStack, late_stack, late_setTroubleBit, late_ite, late_capture, late_page, late_setPage,
    late_retirePending]

@[simp] theorem late_stackUncorrectable {m : DamageMark} :
    (s.late l).stackUncorrectable a n m = (s.stackUncorrectable a n m).late l := by
  unfold stackUncorrectable
  simp only [late_plantedHit, late_modStack, late_segCode, late_setTroubleBit, late_ite, late_capture, late_retirePending]

@[simp] theorem late_rowErrors {y : Sparse Nat} : { s.late l with rowErrors := y } = ({ s with rowErrors := y } : State).late l := rfl

@[simp] theorem late_rowError {y : Defect} {bad planted : Bool} :
    (s.late l).rowError k bad planted y = (s.rowError k bad planted y).late l := by
  unfold rowError
  split
  · rfl
  · change (if _ then (({ s with rowErrors := _ } : State).late l).addDefect y else ({ s with rowErrors := _ } : State).late l) = _
    rw [late_addDefect, late_ite]
    rfl

@[simp] theorem late_millpondCorrected : (s.late l).millpondCorrected d k a = (s.millpondCorrected d k a).late l := by
  unfold millpondCorrected
  simp only [late_damageAt, late_plantedHit, late_clearDamage, late_modPond, late_pond, late_setTroubleBit, late_ite,
    late_rowError]

@[simp] theorem late_millpondUncorrectable {m : DamageMark} :
    (s.late l).millpondUncorrectable d a k n m = (s.millpondUncorrectable d a k n m).late l := by
  unfold millpondUncorrectable
  simp only [late_plantedHit, late_modPond, late_setTroubleBit, late_rowError]

/-! ## Blocks and lines (R144 to R153, R159, R165, R168) -/

theorem late_interface : (s.late l).interface b k = lateFst (s.interface b k) l := by
  unfold interface
  simp only [late_reached, late_ite, late_stack]
  split
  · rfl
  · simp only [late_modStack, late_setTroubleBit, late_stackUncorrectable]
    split
    · rfl
    · rfl

theorem late_readBlock : (s.late l).readBlock b k = lateFst (s.readBlock b k) l := by
  unfold readBlock
  rw [late_interface]
  generalize s.interface b k = r
  obtain ⟨v, failed⟩ := r
  rw [lateFst_mk]
  dsimp only
  rw [late_damageAt, late_segCode, late_strayAt]
  simp only [late_takeStray, late_ite, late_stackUncorrectable,
    late_stackCorrected, ← lateFst_mk, lateFst_ite]

theorem late_readBlocks {m : List Nat} : (s.late l).readBlocks m = lateFst (s.readBlocks m) l := by
  refine lateFst_foldl (fun r y => ?_) m (s, none)
  dsimp only [lateFst]
  rw [late_readBlock]
  rfl

@[simp] theorem late_readCached : (s.late l).readCached k g = (s.readCached k g).late l := by
  unfold readCached
  simp only [late_damageAt, late_cachedOffset, late_millpondCorrected, late_millpondUncorrectable, late_ite]

@[simp] theorem late_foldl_readCached {m : List Nat} :
    m.foldl (readCached · k) (s.late l) = (m.foldl (readCached · k) s).late l := late_foldl (fun _ _ => late_readCached) m s

@[simp] theorem late_writeBackBlock : (s.late l).writeBackBlock b = (s.writeBackBlock b).late l := by
  unfold writeBackBlock
  rw [late_foldl_readCached, late_interface]
  obtain ⟨v, failed⟩ := ((unitsOf 16 b 64).foldl (readCached · 4) s).interface b
  rw [lateFst_mk, late_cachedLost]
  dsimp only
  rw [late_poisonBlock, late_clearDamage, late_ite]
  exact late_ite (s := { v with damage := _ })

@[simp] theorem late_writeBackLine {c : CacheLine} : (s.late l).writeBackLine c = (s.writeBackLine c).late l := by
  unfold writeBackLine
  rw [late_foldl fun _ _ => late_writeBackBlock, late_ite]

theorem late_foldl_clear {m : List Nat} : m.foldl (fun s g => s.clearDamage (cacheKey g)) (s.late l) =
    (m.foldl (fun s g => s.clearDamage (cacheKey g)) s).late l := 
  late_foldl (f := fun s g => s.clearDamage (cacheKey g)) (fun _ _ => late_clearDamage) m s

@[simp] theorem late_dropLines {f : CacheLine → Bool} : (s.late l).dropLines d f = (s.dropLines d f).late l := by
  unfold dropLines
  simp only [late_pond]
  rw [late_foldl fun _ _ => late_writeBackLine]
  rw [late_foldl (f := fun s (c : CacheLine) => (unitsOf 16 (c.line * 256) 256).foldl (fun s g => s.clearDamage (cacheKey g)) s)
    fun _ _ => late_foldl_clear]
  exact late_modPond

theorem late_readLine {c : CacheLine} {m : List Nat} : (s.late l).readLine d c m = lateFst (s.readLine d c m) l := by
  unfold readLine
  simp only [late_cachedLost, late_foldl_readCached, late_dropLines, late_readBlocks]
  split
  · rfl
  · split
    · rfl
    · obtain ⟨v, bad⟩ := (((m.foldl (readCached · 3) s).dropLines d _).readBlocks _)
      cases bad <;> rfl

theorem late_readExternalLine : (s.late l).readExternalLine {} a n = lateFst (s.readExternalLine {} a n) l := by
  unfold readExternalLine
  dsimp only [Option.bind_none]
  rw [late_bypasses, late_lineOf, late_readBlocks, show (if s.bypasses a = true then none else (none : Option Nat)) = none from ite_self _]
  generalize (if s.bypasses a = true then none else s.lineOf (homeDie a) a) = c
  cases c with
  | none => rfl
  | some c =>
    dsimp only
    rw [late_readLine]
    generalize s.readLine (homeDie a) c (unitsOf 16 a n) = r
    obtain ⟨v, bad⟩ := r
    cases bad <;> rfl

theorem late_readGranules : (s.late l).readGranules d a n = lateFst (s.readGranules d a n) l := by
  refine lateFst_foldl (fun r y => ?_) _ (s, none)
  simp only [lateFst, late_damageAt, late_millpondCorrected, late_millpondUncorrectable, late_clearDamage]
  repeat' split
  all_goals rfl

theorem late_readPart : (s.late l).readPart {} a n = lateFst (s.readPart {} a n) l := by
  unfold readPart
  rw [late_place]
  split
  · exact late_readExternalLine
  · exact late_readGranules
  · exact late_readGranules
  · rfl

/-- A read of a device range with another list of waiting transfers. -/
theorem late_readDevice : (s.late l).readDevice {} a n = lateFst (s.readDevice {} a n) l := by
  have strayed : (s.late l).strayed a = s.strayed a := rfl
  unfold readDevice
  rw [late_memStacks, late_readRaw, strayed]
  dsimp only
  rw [← lateFst_mk, lateFst_foldl (f := fun (r : State × Option Nat) (e : Nat × Nat) =>
    ((r.1.readPart {} e.1 e.2).1, r.2.orElse fun _ => (r.1.readPart {} e.1 e.2).2)) fun r y => ?_]
  · rfl
  · dsimp only [lateFst]
    rw [late_readPart]
    rfl

theorem late_writeBlocks : (s.late l).writeBlocks a n = lateFst (s.writeBlocks a n) l := by
  unfold writeBlocks
  rw [late_segCode]
  refine lateFst_foldl (fun r y => ?_) _ (s, none)
  obtain ⟨v, bad⟩ := r
  rw [lateFst_mk]
  dsimp only
  rw [late_readBlock, late_interface, lateFst_ite]
  rfl

/-- Of what a write reads first, a line's part. -/
theorem late_partLost : (s.late l).partLost {} a n = lateFst (s.partLost {} a n) l := by
  have uncached (v : State) : v.writesCache {} a = false := by
    unfold writesCache
    rw [Option.bind_none, Option.isSome_none, Bool.and_false]
  unfold partLost
  simp only [uncached, and_false, or_false, Bool.false_eq_true, if_false]
  rw [late_place]
  split
  · rw [late_bypasses, late_lineOf]
    split
    next => exact late_writeBlocks
    next c _ =>
      rw [late_readLine]
      generalize s.readLine (homeDie a) c (partUnits 16 a n) = r
      obtain ⟨v, bad⟩ := r
      rw [lateFst_mk]
      dsimp only
      rw [late_writeBlocks]
      exact lateFst_ite (r := (v, bad))
  · refine lateFst_foldl (fun r y => ?_) _ (s, none)
    dsimp only [lateFst]
    rw [late_readGranules]
    rfl
  · refine lateFst_foldl (fun r y => ?_) _ (s, none)
    dsimp only [lateFst]
    rw [late_readGranules]
    rfl
  · rfl

theorem late_partlyLost : (s.late l).partlyLost {} a n = lateFst (s.partlyLost {} a n) l := by
  refine lateFst_foldl (fun r y => ?_) _ (s, none)
  dsimp only [lateFst]
  rw [late_partLost]
  rfl

end State

end Sys2Proof.Machine
end

section
/-! PROOFS. MEM.READ, MEM.WRITE and the ends of their transfers (R332). -/

namespace Sys2Proof.Machine

variable {s t u : State} {m : Transfer} {l : List Transfer} {op a b d k n c sid : Nat} {f : Frame}

/-! ## Queuing -/

/-- MEM.READ whose checks pass queues its transfer. -/
theorem memRead_queues (h : Acts 0x0601 f s u c) (ha : le f.payload 0 8 = a) (hn : le f.payload 8 4 = n) (hp : 0 < n) (hl : n ≤ 8192)
    (hx : n + 40 ≤ (u.session f.session.toNat).maxPayload)
    (hc : firstFailing (memChecks 0x0601 a n (u.session f.session.toNat) c false u) = none) :
    Handles (.memRead f) f s (.later (u.queueTransfer f false a n)) := by
  have short : when (8192 < n ∨ (u.session f.session.toNat).maxPayload - 40 < n) (refuse Status.length 8) = none :=
    when_eq_none.mpr (by simp; omega)
  refine h.handles (by decide) (by decide) (fun _ => rfl) ?_
  rw [h.middle (by decide) (by decide)]
  change bodyMemRead f _ u = _
  unfold bodyMemRead zeroField
  dsimp only
  rw [ha, hn, if_neg (by simp; omega), short, h.bound]
  exact checked_go (by rw [firstFailing]; exact hc)

/-- MEM.WRITE whose checks pass queues its transfer. -/
theorem memWrite_queues (h : Acts 0x0602 f s u c) (ha : le f.payload 0 8 = a) (hn : le f.payload 8 4 = n) (hp : 0 < n) (hl : n ≤ 8192)
    (hc : firstFailing (memChecks 0x0602 a n (u.session f.session.toNat) c true u) = none) :
    Handles (.memWrite f) f s (.later (u.queueTransfer f true a n)) := by
  have short : when (8192 < n) (refuse Status.length 8) = none := when_eq_none.mpr (by simp; omega)
  refine h.handles (by decide) (by decide) (fun _ => rfl) ?_
  rw [h.middle (by decide) (by decide)]
  change bodyMemWrite f _ u = _
  unfold bodyMemWrite zeroField
  dsimp only
  rw [ha, hn, if_neg (by simp; omega), short, h.bound]
  exact checked_go (by rw [firstFailing]; exact hc)

/-! ## The end of a transfer -/

theorem memTransferDone_waits (hs : s.journal.transfers = m :: l) (hh : s.accessHeld m.address m.length = true) :
    exec (.memTransferDone m.frame.session.toNat m.frame.number.toNat) s = .next s := by
  change execMemTransferDone _ _ s = _
  unfold execMemTransferDone
  simp only [hs, List.find?_cons, beq_self_eq_true, Bool.and_self, hh, if_true]

/-- The first transfer is taken out of the list and performed. -/
theorem memTransferDone_performs (hs : s.journal.transfers = m :: l) (hm : m ∉ l) (hh : s.accessHeld m.address m.length = false) :
    exec (.memTransferDone m.frame.session.toNat m.frame.number.toNat) s = .next ((s.late l).answer m.frame.session.toNat
      m.frame.number.toNat m.frame.opcode.toNat ((s.late l).transfer m)) := by
  have rest : s.journal.transfers.filter (· != m) = l := by
    rw [hs, List.filter_cons_of_neg (by simp)]
    exact List.filter_eq_self.mpr fun x hx => by
      have : x ≠ m := fun e => hm (e ▸ hx)
      simpa using this
  have found : s.journal.transfers.find? (fun t => t.frame.session.toNat == m.frame.session.toNat &&
      t.frame.number.toNat == m.frame.number.toNat) = some m := by
    rw [hs, List.find?_cons_of_pos (by simp)]
  have taken : (s.modJournal fun j => { j with transfers := j.transfers.filter (· != m) }) =
      s.late (s.journal.transfers.filter (· != m)) := rfl
  change execMemTransferDone _ _ s = _
  unfold execMemTransferDone
  rw [found]
  dsimp only
  rw [hh, if_neg (by simp), taken, rest]

theorem State.transfer_lost (h : (m.write = false ∧ ∃ data, s.readDevice {} m.address m.length = (t, data, some b)) ∨
    (m.write = true ∧ s.partlyLost {} m.address m.length = (t, some b))) :
    s.transfer m = .reply { status := Status.uncorrectable, notchA := b } t := by
  unfold State.transfer
  rcases h with ⟨hw, data, h⟩ | ⟨hw, h⟩
  · rw [hw, h]
    rfl
  · rw [hw, h]
    rfl

theorem State.transfer_read {data : List Byte} (hw : m.write = false)
    (h : s.readDevice {} m.address m.length = (t, data, none)) : s.transfer m = done t data := by
  unfold State.transfer
  rw [hw, h]
  rfl

theorem State.transfer_write (hw : m.write = true) (h : s.partlyLost {} m.address m.length = (t, none)) :
    s.transfer m = done (t.writeDevice {} m.address (slice m.frame.payload 16 m.length)) := by
  unfold State.transfer
  rw [hw, h]
  rfl

/-! ## Its reply -/

theorem Reaches.direct (h : Touched s t) : Direct s t := by
  obtain ⟨w, rfl, -, hw, rest⟩ := h
  exact ⟨w, rfl, nofun, hw, rest⟩

theorem Reaches.plain {q : Keeping} (h : Reaches q s t) (hs : s.Plain) : t.Plain := by
  obtain ⟨w, rfl, -, -, -, verbs⟩ := h
  refine ⟨⟨hs.up, hs.clear⟩, fun j hj => ?_⟩
  obtain ⟨i, hi, e⟩ := verbs j hj
  exact e ▸ hs.injections i hi

/-- What a transfer that has been performed, up to the state `t`, leaves: its reply has gone out, and memory is as in `t`. -/
structure Transferred (s t u : State) (l : List Transfer) (sid n op : Nat) (r : Reply) : Prop where
  out : u.out = s.out ++ [s.formed (replyFrame op sid (s.session sid).context (s.generationOf (s.session sid).context) n 0
    r.payload (s.session sid).path)]
  journal : u.journal = { s.journal with transfers := l }
  mem : u.mem = t.mem
  contexts : u.contexts = s.contexts

theorem Transferred.answered {r : Reply} (h : Direct (s.late l) t) : Transferred s t (t.answered sid n op r) l sid n op r := by
  obtain ⟨w, rfl, -, hw, -⟩ := h
  refine ⟨rfl, ?_, rfl, rfl⟩
  change { s.journal with transfers := l, lateWrites := w.lateWrites } = _
  rw [hw trivial]
  rfl

/-- A transfer's reply goes out at once. -/
theorem State.answer_transfer {r : Reply} (hs : s.Canonical) (hp : s.Plain) (ho : (s.session sid).isOpen = true)
    (he : (s.session sid).endAfter ≠ some n) (h : Direct (s.late l) t) (ha : Prompt op r) :
    (s.late l).answer sid n op (.reply r t) = t.answered sid n op r := by
  have sessions : t.sessions = s.sessions := by
    obtain ⟨w, rfl, -⟩ := h
    rfl
  have same : t.session sid = s.session sid := by
    unfold State.session
    rw [sessions]
  rw [State.answer_prompt ha (by rw [sessions]; exact hs.sessions) (h.plain ⟨⟨hp.up, hp.clear⟩, hp.injections⟩) (by rw [same]; exact ho),
    same, if_neg he]

/-! ## The bytes of a read -/

theorem State.readDevice_data (h : s.Sound) : (s.readDevice {} a n).2.1 = s.readRaw a n := by
  have none : (s.memStacks.any fun e => !e.2.strays.isEmpty) = false := by
    simpa using fun k x hx => h.straight (k, x) hx
  unfold State.readDevice
  dsimp only
  rw [none, if_neg (by simp)]

theorem State.readRaw_getElem {i : Nat} (h : i < n) : (s.readRaw a n)[i]? = some (s.byteRaw (a + i)) := by
  unfold State.readRaw
  simp [h]

theorem State.byteRaw_table (h : s.place a = .table d) : s.byteRaw a = byteAt (s.pageEntry (4194304 * d + a % 2 ^ 30 / 8)) (a % 8) := by
  unfold State.byteRaw
  rw [h]

theorem State.byteRaw_plain (h : ∀ d, s.place a ≠ .table d) : s.byteRaw a = memGet s.mem a := by
  unfold State.byteRaw
  split
  next e => exact absurd e (h _)
  next => rfl

/-! ## The two transfers -/

section
variable (hs : s.Canonical) (hp : s.Plain) (hl : s.journal.transfers = m :: l) (hm : m ∉ l) (hsid : m.frame.session.toNat = sid)
  (hn : m.frame.number.toNat = n) (hop : m.frame.opcode.toNat = op) (ho : (s.session sid).isOpen = true)
  (he : (s.session sid).endAfter ≠ some n) (hh : s.accessHeld m.address m.length = false) (hq : s.Sound)
include hs hp hl hm hsid hn hop ho he hh hq

/-- A read that meets nothing lost replies with the bytes as memory holds them. -/
theorem memTransferDone_reads (hw : m.write = false) (hx : op = 0x0601) (hr : (s.readDevice {} m.address m.length).2.2 = none) :
    ∃ t u, exec (.memTransferDone sid n) s = .next u ∧ t.mem = s.mem ∧
      Transferred s t u l sid n op { data := s.readRaw m.address m.length } := by
  have late : (s.late l).readDevice {} m.address m.length =
      ((s.readDevice {} m.address m.length).1.late l, s.readRaw m.address m.length, none) := by
    rw [State.late_readDevice]
    exact congrArg (Prod.mk _) (Prod.ext (State.readDevice_data hq) hr)
  revert late
  generalize (s.readDevice {} m.address m.length).1.late l = t
  intro late
  have touched : Touched (s.late l) t := by
    have := Reaches.touched_readDevice (s := s.late l) (a := m.address) (n := m.length) hq.kept .refl
    rw [late] at this
    exact this
  have prompt : Prompt op { data := s.readRaw m.address m.length } := by
    subst hx
    exact Prompt.of_not_journals (by decide) (by decide)
  refine ⟨t, _, ?_, touched.mem_eq, .answered touched.direct⟩
  rw [← hsid, ← hn, memTransferDone_performs hl hm hh, State.transfer_read hw late, hsid, hn, hop]
  exact congrArg Host.Outcome.next (State.answer_transfer hs hp ho he touched.direct prompt)

/-- A write of stored bytes that meets nothing lost leaves its bytes there. -/
theorem memTransferDone_writes (hw : m.write = true) (hx : op = 0x0602) (hb : m.frame.payload.length = 16 + m.length)
    (hstored : s.stored m.address m.length) (hr : (s.partlyLost {} m.address m.length).2 = none) :
    ∃ t u, exec (.memTransferDone sid n) s = .next u ∧ Wrote s.mem m.address (slice m.frame.payload 16 m.length) t.mem ∧
      Transferred s t u l sid n op {} := by
  have late : (s.late l).partlyLost {} m.address m.length = ((s.partlyLost {} m.address m.length).1.late l, none) := by
    rw [State.late_partlyLost]
    exact congrArg (Prod.mk _) hr
  revert late
  generalize (s.partlyLost {} m.address m.length).1.late l = t
  intro late
  have touched : Touched (s.late l) t := by
    have := Reaches.touched_partlyLost (s := s.late l) (a := m.address) (n := m.length) hq.kept .refl
    rw [late] at this
    exact this
  have prompt : Prompt op {} := by
    subst hx
    exact Prompt.of_not_journals (by decide) (by decide)
  have direct : Direct (s.late l) (t.writeDevice {} m.address (slice m.frame.payload 16 m.length)) := touched.direct.writeDevice
  have mapped : (s.late l).Mapped := ⟨hs.segCodes, hs.ponds.1⟩
  have len : (slice m.frame.payload 16 m.length).length = m.length := by
    unfold slice
    simp [hb]
  have wrote := State.writeDevice_wrote (s := t) (a := m.address) (l := slice m.frame.payload 16 m.length)
    (by rw [touched.mem_eq]; exact hs.mem) (touched.places.mapped mapped)
    (by rw [len]; exact touched.places.stored mapped hstored)
  rw [touched.mem_eq] at wrote
  refine ⟨_, _, ?_, wrote, .answered direct⟩
  rw [← hsid, ← hn, memTransferDone_performs hl hm hh, State.transfer_write hw late, hsid, hn, hop]
  exact congrArg Host.Outcome.next (State.answer_transfer hs hp ho he direct prompt)

end

/-- Settles O19: a transfer is queued behind its checks; the accesses of its end do not look at the list it is taken from, reads change
no byte and writes write what they are given. -/
theorem transfersMoveTheirBytes : Obligations.TransfersMoveTheirBytes := by
  unfold Obligations.TransfersMoveTheirBytes
  refine ⟨?_, ?_, ?_, ?_, ?_, ?_⟩
  · exact fun f s u c a n h ha hn hp hl hx hc => memRead_queues h ha hn hp hl hx hc
  · exact fun f s u c a n h ha hn hp hl hc => memWrite_queues h ha hn hp hl hc
  · rintro s m l sid n _ _ hs hp hl hm hw hsid hn hop rfl rfl ho he hh hq hr
    obtain ⟨t, u, hu, hmem, done⟩ := memTransferDone_reads hs hp hl hm hsid hn hop ho he hh hq hw rfl hr
    refine ⟨u, _, hu, ?_, fun i hi h => ?_, fun i d hi h => ?_, done.out, done.journal, done.mem.trans hmem, done.contexts⟩
    · unfold State.readRaw
      simp
    · rw [State.readRaw_getElem hi, State.byteRaw_plain h]
    · rw [State.readRaw_getElem hi, State.byteRaw_table h]
  · rintro s m l sid n _ _ hs hp hl hm hw hsid hn hop rfl rfl ho he hh hq hb hstored hr
    obtain ⟨t, u, hu, wrote, done⟩ := memTransferDone_writes hs hp hl hm hsid hn hop ho he hh hq hw rfl hb hstored hr
    exact ⟨u, hu, by rw [done.mem]; exact wrote, done.out, done.journal, done.contexts⟩
  · exact fun s m l hl hh => memTransferDone_waits hl hh
  · rintro s _ w m l data b hl hm rfl hh h
    have lost : (s.late l).transfer m = .reply { status := Status.uncorrectable, notchA := b } w :=
      State.transfer_lost (h.imp_left fun ⟨hw, hr⟩ => ⟨hw, data, hr⟩)
    rw [memTransferDone_performs hl hm hh, lost]
    rfl

end Sys2Proof.Machine
end

section
/-! PROOFS. S9 of a warm start gives up the head of a follower that finds no address to claim (R432, R436): the wheel is not left as it
is. -/

namespace Sys2Proof.Machine

variable {s t u : State} {c k n : Nat}

/-! ## A follower without a free address -/

/-- A module in every address of a fabric. -/
@[irreducible] def crowd : Sparse Route := (List.range 4096).map fun a => (a, { beacon := some {
  fabric := 9, role := 0, claim := 1, deviceState := 3, address := a, head := 0xFFFF, serial := [1] } })

/-- A follower at S9 of a warm start, with PTP as a valid source, that has just heard a module in every address. -/
def crowdedOut : State :=
  { dev := { state := .staging, stage := 9, warm := true, serial := [] }
    wheel := { ptpValid := true }
    fabric := { member := true, role := 2, routes := crowd } }

theorem crowd_wf : swf {} crowd = true := by
  unfold crowd
  refine swf_iff.mpr ⟨?_, fun e he => ?_⟩
  · exact List.pairwise_map.mpr (List.pairwise_lt_range)
  · obtain ⟨a, -, rfl⟩ := List.mem_map.mp he
    exact fun h => by cases h

theorem sget_crowd (h : k < 4096) : sget {} crowd k = { beacon := some {
    fabric := 9, role := 0, claim := 1, deviceState := 3, address := k, head := 0xFFFF, serial := [1] } } := by
  refine ((mem_iff_sget crowd_wf).mp ?_).2
  unfold crowd
  exact List.mem_map.mpr ⟨k, List.mem_range.mpr h, rfl⟩

theorem State.Canonical.with_fabric {x : Fabric} {l : Sparse Route} (h : s.Canonical) (hx : x.routes = l) (hl : swf {} l = true) :
    ({ s with fabric := x } : State).Canonical := { h with routes := hx ▸ hl }

theorem crowdedOut_canonical : crowdedOut.Canonical := by
  have bare : ({ State.reset with
      dev := { state := .staging, stage := 9, warm := true, serial := [] }, wheel := { ptpValid := true } } : State).Canonical :=
    { reset_kept.2 with reports := rfl, map := rfl, position := by decide }
  unfold crowdedOut
  exact bare.with_fabric (x := { member := true, role := 2, routes := crowd }) rfl crowd_wf

theorem elect_crowd {x : Fabric} (h : x.routes = crowd) (hp : ¬x.preferred < 4096) : x.elect [] = none := by
  unfold Fabric.elect
  dsimp only
  rw [if_neg (fun e => hp e.1)]
  refine List.find?_eq_none.mpr fun a ha => ?_
  unfold Fabric.entry
  rw [h, sget_crowd (List.mem_range.mp ha)]
  simp

/-! ## S9 up to the claim -/

theorem State.fixMap_bare (hc : s.contexts = []) (hm : s.dev.map = []) : ∃ (m : Sparse Nat) (x : Sparse Core), s.fixMap = { s with dev := { s.dev with map := m }, cores := x } := by
  have stays (l : List (Nat × Nat)) : s.moved l = [] := by
    refine List.filter_eq_nil_iff.mpr fun e _ => ?_
    unfold State.logicalExists State.physical
    simp [hm, sget]
  have lost : s.loseMoved [] = s := by
    unfold State.loseMoved
    rw [hc]
    rfl
  unfold State.fixMap
  dsimp only
  simp only [stays, lost, ite_self, List.map_nil, List.foldl_nil]
  refine List.foldlRecOn (motive := fun t => ∃ (m : Sparse Nat) (x : Sparse Core), t = { s with dev := { s.dev with map := m }, cores := x }) _ _
    ⟨s.chosenMap.foldl (fun m e => sput 256 m e.1 e.2) [], s.cores, rfl⟩ ?_
  rintro _ ⟨m, x, rfl⟩ p -
  split
  · exact ⟨m, _, rfl⟩
  · exact ⟨m, _, rfl⟩

theorem State.replaceJournal_bare (h : s.segCodes = []) : s.replaceJournal = s := by
  have sound (g : Nat) : s.segRetired g = false := by
    unfold State.segRetired
    rw [h]
    rfl
  unfold State.replaceJournal
  refine List.foldlRecOn (motive := fun t => t = s) _ _ rfl ?_
  rintro _ rfl g -
  rw [sound, if_neg (by simp)]

theorem State.followClaims_bare (hc : s.contexts = []) (hd : s.power.domains = []) : s.followClaims = s := by
  have unclaimed (g : Nat) : s.groupClaimed g = false := by
    unfold State.groupClaimed State.anyContext
    rw [hc]
    rfl
  unfold State.followClaims
  refine List.foldlRecOn (motive := fun t => t = s) _ _ rfl ?_
  rintro _ rfl g -
  rw [unclaimed, if_neg (by simp)]
  unfold State.switchOff State.domain
  rw [hd, if_pos (.inl rfl)]

theorem State.ungate_bare (hd : s.power.domains = []) : s.ungate = s.modPower fun p => { p with waking := false } := by
  unfold State.ungate State.modPower
  dsimp only
  rw [hd]
  rfl

/-! ## S9 from the claim on -/

/-- A device on which no command, window or replay waits: a warm start restarts nothing. -/
structure State.Bare (s : State) : Prop where
  contexts : s.contexts = []
  cmds : s.devStream.cmds = []
  windows : s.journal.windows = []
  calm : s.dev.suspectsAtWarm = false
  suspects : s.dev.suspects = []
  replaying : s.dev.replaying = none

theorem State.enterWindows_bare (h : s.journal.windows = []) : s.enterWindows = s.modJournal fun j => { j with windows := [] } := by
  unfold State.enterWindows
  dsimp only
  rw [h]
  rfl

theorem State.applyResets_bare (h : s.contexts = []) : s.applyResets = s := by
  have context (c : Nat) : s.context c = {} := by
    unfold State.context
    rw [h]
    rfl
  unfold State.applyResets
  refine List.foldlRecOn (motive := fun t => t = s) _ _ rfl ?_
  rintro _ rfl c -
  dsimp only
  rw [context]

theorem State.warmSuspects_bare (h : s.dev.suspectsAtWarm = false) : s.warmSuspects = s.modDev fun d => { d with suspectsAtWarm := false } := by
  unfold State.warmSuspects
  dsimp only
  rw [h]
  rfl

/-- Between two states the device's registers and the log may change, but neither the suspects nor their replay. -/
def Ended (s t : State) : Prop := ∃ d f l n, t = { s with dev := d, freshTrouble := f, log := l, logNext := n } ∧
  d.suspects = s.dev.suspects ∧ d.replaying = s.dev.replaying

namespace Ended

theorem refl : Ended s s := ⟨_, _, _, _, rfl, rfl, rfl⟩

theorem modDev {f : Device → Device} (h : Ended s t) (hf : ∀ d, (f d).suspects = d.suspects ∧ (f d).replaying = d.replaying) :
    Ended s (t.modDev f) := by
  obtain ⟨d, _, _, _, rfl, hs, hr⟩ := h
  exact ⟨f d, _, _, _, rfl, (hf d).1.trans hs, (hf d).2.trans hr⟩

theorem writeLog {e : LogEntry} (h : Ended s t) : Ended s (t.writeLog e) := by
  obtain ⟨d, _, _, _, rfl, hs, hr⟩ := h
  exact ⟨d, _, _, _, rfl, hs, hr⟩

theorem setTroubleBit {x : Nat × Nat} (h : Ended s t) : Ended s (t.setTroubleBit .start n x c) := by
  obtain ⟨d, _, _, _, rfl, hs, hr⟩ := h
  exact ⟨{ d with startTrouble := _ }, _, _, _, rfl, hs, hr⟩

theorem fields (h : Ended s t) : t.contexts = s.contexts ∧ t.devStream = s.devStream ∧ t.wheel = s.wheel ∧
    t.dev.suspects = s.dev.suspects ∧ t.dev.replaying = s.dev.replaying := by
  obtain ⟨d, _, _, _, rfl, hs, hr⟩ := h
  exact ⟨rfl, rfl, rfl, hs, hr⟩

end Ended

theorem State.endStart_ended : Ended s s.endStart := by
  have passed : Ended s (s.stagePasses 9 (checksOf 9)) := by
    unfold State.stagePasses State.report
    refine Ended.modDev (Ended.modDev .refl ?_) ?_
    · exact fun _ => ⟨rfl, rfl⟩
    · exact fun _ => ⟨rfl, rfl⟩
  unfold State.endStart State.recovered
  dsimp only
  refine Ended.writeLog (Ended.modDev ?_ ?_)
  · split
    · refine Ended.setTroubleBit (Ended.modDev passed ?_)
      exact fun _ => ⟨rfl, rfl⟩
    · refine Ended.modDev passed ?_
      exact fun _ => ⟨rfl, rfl⟩
  · exact fun _ => ⟨rfl, rfl⟩

/-- A change that leaves a free context free changes nothing where none is listed. -/
theorem State.modContext_bare {f : Context → Context} (h : s.contexts = []) (hf : f {} = {}) : s.modContext c f = s := by
  have none : (s.context c) = {} := by
    unfold State.context
    rw [h]
    rfl
  have same : sput {} s.contexts c (f {}) = s.contexts := by
    rw [hf, h]
    rfl
  unfold State.modContext State.setContext
  rw [none, same]

theorem State.restartContexts_bare (h : s.contexts = []) : s.restartContexts = s := by
  have context (c : Nat) : s.context c = {} := by
    unfold State.context
    rw [h]
    rfl
  unfold State.restartContexts
  refine List.foldlRecOn (motive := fun t => t = s) _ _ rfl ?_
  rintro t ht c hc
  rw [ht]
  clear ht
  have below : c ≠ 255 := by
    have := List.mem_range.mp hc
    omega
  have stream : s.stream c = {} := by
    unfold State.stream
    rw [if_neg below, context]
  have idle : s.uncompleted c = [] := by
    unfold State.uncompleted
    rw [stream]
    rfl
  have modStream (f : Stream → Stream) (hf : f {} = {}) : s.modStream c f = s := by
    unfold State.modStream State.setStream
    rw [if_neg below, stream, hf]
    exact State.modContext_bare h rfl
  have again : s.restartAll c = s := by
    unfold State.restartAll
    dsimp only
    rw [State.modContext_bare h rfl, stream, if_neg (by decide), idle]
    rfl
  dsimp only
  rw [idle, List.isEmpty_nil, if_pos rfl, State.modContext_bare h rfl, context, if_neg (by decide), modStream _ rfl, again]

theorem State.recodes_bare (h : s.contexts = []) (hd : s.devStream.cmds = []) : s.recodes = [] := by
  unfold State.recodes
  rw [h]
  simp [hd]

theorem State.replayStep_bare (h : s.dev.suspects = []) (hr : s.dev.replaying = none) : s.replayStep = s := by
  unfold State.replayStep
  rw [h, hr, if_pos (.inl ⟨rfl, rfl⟩)]

theorem State.warmReady_wheel {r : S9Facts} (h : s.Bare) (hr : r.unreadable = []) : (s.warmReady r).wheel = s.wheel := by
  unfold State.warmReady
  dsimp only
  rw [State.enterWindows_bare h.windows]
  have read (v : State) : v.readJournal r = v := by
    unfold State.readJournal
    rw [hr]
    rfl
  rw [read, State.applyResets_bare (s := s.modJournal _) h.contexts, State.warmSuspects_bare (s := s.modJournal _) h.calm]
  obtain ⟨hc, hd, hw, hs, hp⟩ := (State.endStart_ended (s := ((s.modJournal fun j => { j with windows := [] }).modDev fun d =>
    { d with suspectsAtWarm := false }))).fields
  revert hc hd hw hs hp
  generalize State.endStart _ = v
  intro hc hd hw hs hp
  have contexts : v.contexts = [] := hc.trans h.contexts
  rw [State.restartContexts_bare contexts, State.recodes_bare contexts (by rw [hd]; exact h.cmds), List.foldl_nil,
    State.replayStep_bare (s := v.modJournal _) (hs.trans h.suspects) (hp.trans h.replaying)]
  exact hw

/-! ## The follower's S9 -/

/-- Of a follower that finds no address to claim, PTP is a wheel source no more. -/
theorem State.claim_follower (he : s.fabric.elect s.dev.serial = none) (hr : s.fabric.role = 2) (hc : s.fabric.checks = [])
    (hw : s.wheel.source ≠ 3) : s.claim.wheel = { s.wheel with ptpValid := false, transmitter := none } ∧ s.claim.contexts = s.contexts ∧
      s.claim.devStream = s.devStream ∧ s.claim.journal = s.journal ∧ s.claim.dev = s.dev := by
  obtain ⟨v, hv, hf⟩ : ∃ v, s.endRole = v ∧ v = { s with
      wheel := { s.wheel with ptpValid := false, transmitter := none }
      schedule := { s.schedule with tentative := [] }
      fabric := { s.fabric with role := 0, domain := 0, head := 0xFFFF, headSerial := [], mask := 0 } } := by
    refine ⟨_, ?_, rfl⟩
    unfold State.endRole
    dsimp only
    rw [if_pos hr]
    exact if_neg hw
  have refuse : v.refuseChecks (fun _ => true) = v := by
    unfold State.refuseChecks
    rw [show v.fabric.checks = [] by rw [hf]; exact hc]
    rfl
  unfold State.claim
  rw [he]
  dsimp only
  rw [hv, refuse, hf]
  exact ⟨rfl, rfl, rfl, rfl, rfl⟩

/-- The follower gives PTP up as it ends its warm start. -/
theorem crowdedOut_ready (r : S9Facts) (hr : r.unreadable = []) :
    ∃ t, exec (.stageS9Ready r) crowdedOut = .next t ∧ t.wheel.ptpValid = false := by
  obtain ⟨m, x, mapped⟩ := State.fixMap_bare (s := crowdedOut) rfl rfl
  obtain ⟨v, hv, hf⟩ : ∃ v, crowdedOut.fixMap.replaceJournal.ungate.followClaims = v ∧ v = { crowdedOut with
      dev := { crowdedOut.dev with map := m }, cores := x, power := { crowdedOut.power with waking := false } } := by
    refine ⟨_, ?_, rfl⟩
    rw [mapped, State.replaceJournal_bare rfl, State.ungate_bare rfl, State.followClaims_bare rfl rfl]
    rfl
  obtain ⟨u, hu⟩ : ∃ u, u = v.modFabric fun y => { y with lastBeacon := none } := ⟨_, rfl⟩
  have elect : u.fabric.elect u.dev.serial = none := by
    rw [hu, hf]
    exact elect_crowd rfl (by simp [State.modFabric, crowdedOut])
  obtain ⟨wheel, contexts, cmds, journal, dev⟩ := State.claim_follower elect (by rw [hu, hf]; rfl) (by rw [hu, hf]; rfl)
    (by rw [hu, hf]; simp [State.modFabric, crowdedOut])
  have bare : u.claim.Bare := by
    constructor
    · rw [contexts, hu, hf]; rfl
    · rw [cmds, hu, hf]; rfl
    · rw [journal, hu, hf]; rfl
    · rw [dev, hu, hf]; rfl
    · rw [dev, hu, hf]; rfl
    · rw [dev, hu, hf]; rfl
  refine ⟨u.claim.warmReady r, ?_, by rw [State.warmReady_wheel bare hr, wheel]⟩
  change execStageS9Ready r crowdedOut = _
  unfold execStageS9Ready event
  have member : v.fabric.member = true := by rw [hf]; rfl
  have warm : u.claim.dev.warm = true := by rw [dev, hu, hf]; rfl
  dsimp only
  rw [hv, if_pos member, ← hu, if_pos warm, if_pos (by decide)]

/-- Refutes O58: a follower that finds no free address at S9 of a warm start ends its role, and with it PTP as a source of its wheel. -/
theorem not_stagesPassInTurn : ¬ Obligations.StagesPassInTurn := by
  unfold Obligations.StagesPassInTurn
  rintro ⟨-, -, -, -, -, -, -, -, -, -, -, -, -, -, -, -, -, -, -, -, -, -, warm⟩
  have no_cmds : ∀ c, c < 64 → (crowdedOut.stream c).cmds = [] := fun c hc => by
    unfold State.stream
    rw [if_neg (by omega)]
    rfl
  obtain ⟨t, ht, -, -, -, same, -⟩ := warm { unreadable := [] } crowdedOut crowdedOut_canonical rfl rfl rfl rfl no_cmds rfl rfl
    rfl rfl rfl
  obtain ⟨u, hu, gone⟩ := crowdedOut_ready { unreadable := [] } rfl
  obtain rfl : u = t := Host.Outcome.next.inj (hu.symm.trans ht)
  rw [same] at gone
  cases gone

end Sys2Proof.Machine
end

section
/-! PROOFS. What a state shows of the commands that led to it: where nothing waits and no trouble bit or row error is noted, a read has
retired no segment (R128 to R131, R133, R168, R180, R310 to R318). -/

namespace Sys2Proof.Machine

variable {s t u : State} {a b k n d g : Nat}

/-! ## The relation -/

/-- Nothing waits on the device, and nothing is noted of it: no trouble bit in this notch, no row error, no context, no role. -/
structure State.Idle (s : State) : Prop where
  fresh : s.freshTrouble = []
  rows : s.rowErrors = []
  contexts : s.contexts = []
  role : s.fabric.role = 0
  runs : s.fabric.runs = []
  checks : s.fabric.checks = []
  staging : s.journal.staging = []
  transfers : s.journal.transfers = []
  reads : s.journal.readWaits = []
  unmaps : s.journal.unmapWaits = []
  closing : s.journal.closing = []
  modes : s.journal.modeReplies = []
  splits : s.journal.splitReplies = []

/-- The parts of a state that this says something of. -/
def State.trace (s : State) : List (Nat × Nat) × Sparse Nat × Sparse Context × Nat × List CascadeRun × List (Frame × List Byte) ×
    List Staged × List Transfer × List Frame × List UnmapWait × List (Frame × Nat) × List (Frame × Nat × Nat) × List (Frame × List Nat) :=
  (s.freshTrouble, s.rowErrors, s.contexts, s.fabric.role, s.fabric.runs, s.fabric.checks, s.journal.staging, s.journal.transfers,
    s.journal.readWaits, s.journal.unmapWaits, s.journal.closing, s.journal.modeReplies, s.journal.splitReplies)

theorem State.idle_iff : s.Idle ↔ s.trace = ([], [], [], 0, [], [], [], [], [], [], [], [], []) := by
  simp only [State.trace, Prod.mk.injEq]
  exact ⟨fun h => ⟨h.1, h.2, h.3, h.4, h.5, h.6, h.7, h.8, h.9, h.10, h.11, h.12, h.13⟩,
    fun ⟨h1, h2, h3, h4, h5, h6, h7, h8, h9, h10, h11, h12, h13⟩ => ⟨h1, h2, h3, h4, h5, h6, h7, h8, h9, h10, h11, h12, h13⟩⟩

/-- An idle state `t` can only follow an idle state `s`, and one with the same effects that wait for the journal. -/
def Follows (s t : State) : Prop := t.Idle → s.Idle ∧ t.journal.effects = s.journal.effects

/-- And none of its segments has been retired or recoded. -/
def Leads (s t : State) : Prop := t.Idle → (s.Idle ∧ t.journal.effects = s.journal.effects) ∧ t.segCodes = s.segCodes

theorem Follows.trans (h : Follows s t) (h' : Follows t u) : Follows s u := fun i =>
  have ⟨j, e⟩ := h' i
  have ⟨k, e'⟩ := h j
  ⟨k, e.trans e'⟩

theorem Follows.same (h : Follows s t) (e : (u.trace, u.journal.effects) = (t.trace, t.journal.effects)) : Follows s u := fun i => by
  obtain ⟨e, e'⟩ := Prod.mk.inj e
  rw [e']
  exact h (State.idle_iff.mpr (e ▸ State.idle_iff.mp i))

theorem Follows.refl : Follows s s := fun i => ⟨i, rfl⟩

theorem Follows.ite {p : Prop} [Decidable p] {v w : State} (h : Follows s v) (h' : Follows s w) : Follows s (if p then v else w) := by
  split
  · exact h
  · exact h'

theorem Follows.foldl {α : Type} {f : State → α → State} {l : List α} (h : Follows s t) (hf : ∀ t x, Follows s t → Follows s (f t x)) :
    Follows s (l.foldl f t) := by
  induction l generalizing t with
  | nil => exact h
  | cons x l ih => exact ih (hf t x h)

namespace Follows

section
variable (h : Follows s t)
include h

omit h in
theorem setTroubleBit {r : TroubleReg} {x : Nat × Nat} {c : Nat} : Follows s (t.setTroubleBit r b x c) := fun i => nomatch i.fresh

theorem writeList {l : List Defect} : Follows s (t.writeList l) := h.same rfl

theorem addDefect {x : Defect} : Follows s (t.addDefect x) := by
  unfold State.addDefect
  dsimp only
  split
  · exact h
  · split
    · exact h.writeList
    · split
      · exact h.writeList
      · split
        · split
          · exact h.writeList
          · exact h.same rfl
        · exact setTroubleBit

theorem retireSegment : Follows s (t.retireSegment g n) := by
  unfold State.retireSegment
  split
  · exact h
  · exact (h.same (u := t.markSegRetired g) rfl).addDefect

theorem retirePage : Follows s (t.retirePage g n) := by
  have set (x : Page) : Follows s (t.setPage g x) := h.same rfl
  unfold State.retirePage
  dsimp only
  split
  · exact (set _).addDefect.retireSegment
  · exact (set _).addDefect

end

end Follows

/-! ## Reads -/

namespace Leads

theorem refl : Leads s s := fun i => ⟨⟨i, rfl⟩, rfl⟩

theorem trans (h : Leads s t) (h' : Leads t u) : Leads s u := fun i =>
  have ⟨j, e⟩ := h' i
  have ⟨k, e'⟩ := h j.1
  ⟨⟨k.1, j.2.trans k.2⟩, e.trans e'⟩

theorem follows (h : Leads s t) : Follows s t := fun i => (h i).1

/-- What never leads to an idle state leads from any. -/
theorem of_busy (h : ¬t.Idle) : Leads s t := fun i => absurd i h

theorem same (h : Leads s t) (e : ((u.trace, u.journal.effects), u.segCodes) = ((t.trace, t.journal.effects), t.segCodes)) : Leads s u := by
  obtain ⟨e, e'⟩ := Prod.mk.inj e
  intro i
  have ⟨_, idle⟩ : True ∧ t.Idle := ⟨trivial, State.idle_iff.mpr ((Prod.mk.inj e).1 ▸ State.idle_iff.mp i)⟩
  rw [e', (Prod.mk.inj e).2]
  exact h idle

theorem ite {p : Prop} [Decidable p] {v w : State} (h : Leads s v) (h' : Leads s w) : Leads s (if p then v else w) := by
  split
  · exact h
  · exact h'

theorem fst {α : Type} {v : State} {x : α} (h : Leads s v) : Leads s (v, x).1 := h

theorem foldl {α : Type} {f : State → α → State} {l : List α} (h : Leads s t) (hf : ∀ t x, Leads s t → Leads s (f t x)) :
    Leads s (l.foldl f t) := by
  induction l generalizing t with
  | nil => exact h
  | cons x l ih => exact ih (hf t x h)

theorem fstFoldl {α β : Type} {f : State × β → α → State × β} {l : List α} {r : State × β} (h : Leads s r.1)
    (hf : ∀ r x, Leads s r.1 → Leads s (f r x).1) : Leads s (l.foldl f r).1 := by
  induction l generalizing r with
  | nil => exact h
  | cons x l ih => exact ih (hf r x h)

section
variable (h : Leads s t)
include h

theorem modStack {f : Stack → Stack} : Leads s (t.modStack k f) := h.same rfl
theorem modPond {f : Millpond → Millpond} : Leads s (t.modPond d f) := h.same rfl
theorem clearDamage : Leads s (t.clearDamage k) := h.same rfl
theorem setPage {x : Page} : Leads s (t.setPage g x) := h.same rfl
theorem reached : Leads s (t.reached a) := h.modStack
theorem takeStray : Leads s (t.takeStray b) := h.modStack
theorem touchLine {l : CacheLine} : Leads s (t.touchLine d l) := h.modPond

omit h in
theorem setTroubleBit {r : TroubleReg} {x : Nat × Nat} {c : Nat} : Leads s (t.setTroubleBit r b x c) := of_busy fun i => nomatch i.fresh

/-- A page becomes retire-pending with a trouble bit, which stays noted. -/
theorem retirePending : Leads s (t.retirePending g n) := by
  unfold State.retirePending
  dsimp only
  split
  · exact h
  · split
    · exact setTroubleBit
    · exact of_busy fun i => nomatch (Follows.retirePage (Follows.refl) i).1.fresh

theorem modInjection {f : Injection → Injection} : Leads s (t.modInjection n f) := h.same rfl

theorem log {l : List LogRecord} : Leads s { t with log := l, logNext := n } := h.same rfl

theorem logInjected {j : Injection} : Leads s (t.logInjected j) := by
  unfold State.logInjected State.writeLog
  exact h.log

theorem plantedHit {m : DamageMark} : Leads s (t.plantedHit k m) := by
  unfold State.plantedHit
  split
  · exact h
  · split
    · exact h
    · dsimp only
      split
      · exact h.modInjection.logInjected
      · exact h.modInjection

theorem capture : Leads s (t.capture k a b n) := by
  unfold State.capture
  exact h.modStack

theorem stackCorrected {m : DamageMark} : Leads s (t.stackCorrected a n m) := by
  have counted : Leads s ((t.plantedHit a m).modStack (stackOf a) fun t =>
      { t with correctedCount := saturate16 (t.correctedCount + 1), correctedSince := t.correctedSince + 1 }) := h.plantedHit.modStack
  unfold State.stackCorrected
  dsimp only
  revert counted
  generalize ((t.plantedHit a m).modStack (stackOf a) _) = v
  intro counted
  have told : Leads s (if (v.stack (stackOf a)).correctedSince = 256 then v.setTroubleBit (.stack (stackOf a)) 0 else v) :=
    setTroubleBit.ite counted
  revert told
  generalize (if (v.stack (stackOf a)).correctedSince = 256 then v.setTroubleBit (.stack (stackOf a)) 0 else v) = w
  intro told
  split
  · exact told.capture
  · split
    · exact told.capture.setPage.retirePending
    · exact told.capture.setPage

omit h in
/-- An uncorrectable error of a stack sets a trouble bit. -/
theorem stackUncorrectable {m : DamageMark} : Leads s (t.stackUncorrectable a n m) := by
  have told {v : State} {x y : Nat} : Leads s (if x = 3 then (v.setTroubleBit (.stack (stackOf a)) y).setTroubleBit (.stack (stackOf a)) 3
      else if x = 4 then (v.setTroubleBit (.stack (stackOf a)) y).setTroubleBit (.stack (stackOf a)) 4
      else v.setTroubleBit (.stack (stackOf a)) y) := setTroubleBit.ite (setTroubleBit.ite setTroubleBit)
  unfold State.stackUncorrectable
  dsimp only
  split
  · exact told
  · exact told.retirePending

/-- A bad row is counted before it joins the list. -/
theorem rowError {x : Defect} {bad planted : Bool} : Leads s (t.rowError k bad planted x) := by
  have counted : ¬({ t with rowErrors := sput 0 t.rowErrors k (sget 0 t.rowErrors k + 1) } : State).Idle := fun i => by
    have none : sins t.rowErrors k (sget 0 t.rowErrors k + 1) = [] := by
      have := i.rows
      unfold sput at this
      rwa [if_neg (by omega)] at this
    revert none
    cases t.rowErrors with
    | nil => exact nofun
    | cons e l =>
      unfold sins
      split
      · exact nofun
      · split <;> exact nofun
  unfold State.rowError
  split
  · exact h
  · dsimp only
    split
    · exact of_busy fun i => counted (Follows.addDefect Follows.refl i).1
    · exact of_busy counted

theorem millpondCorrected : Leads s (t.millpondCorrected d k a) := by
  unfold State.millpondCorrected
  exact (setTroubleBit.ite h.plantedHit.clearDamage.modPond).rowError

omit h in
theorem millpondUncorrectable {m : DamageMark} : Leads s (t.millpondUncorrectable d a k n m) := setTroubleBit.rowError

theorem interface : Leads s (t.interface b k).1 := by
  unfold State.interface
  dsimp only
  split
  · exact h.ite h.reached
  · split
    · exact stackUncorrectable.fst
    · exact setTroubleBit.fst

theorem readCached : Leads s (t.readCached k g) := by
  unfold State.readCached
  exact h.millpondCorrected.ite (millpondUncorrectable.ite h)

theorem readBlock : Leads s (t.readBlock b k).1 := by
  have taken : Leads s (if ((t.interface b k).1.strayAt b).isSome = true then (t.interface b k).1.takeStray b
      else (t.interface b k).1) := h.interface.takeStray.ite h.interface
  unfold State.readBlock
  dsimp only
  revert taken
  generalize (if ((t.interface b k).1.strayAt b).isSome = true then (t.interface b k).1.takeStray b else (t.interface b k).1) = v
  intro taken
  split
  · exact taken.fst
  split
  · exact taken.fst
  split
  · split
    · exact stackUncorrectable.fst
    · exact taken.fst
  split
  · exact stackUncorrectable.fst
  split
  · exact taken.stackCorrected.fst
  · exact taken.fst

theorem readBlocks {l : List Nat} : Leads s (t.readBlocks l).1 := fstFoldl h fun _ _ hr => hr.readBlock

theorem writeBackBlock : Leads s (t.writeBackBlock b) := by
  have read : Leads s (((unitsOf 16 b 64).foldl (State.readCached · 4) t).interface b).1 :=
    interface (h.foldl fun _ _ hv => hv.readCached)
  have poisoned {v : State} (hv : Leads s v) : Leads s (v.poisonBlock b) := hv.same rfl
  have lost {v : State} {x : Sparse DamageMark} (hv : Leads s v) : Leads s { v with damage := x } := hv.same rfl
  unfold State.writeBackBlock
  dsimp only
  generalize ((unitsOf 16 b 64).foldl (State.readCached · 4) t).interface b = r at read
  obtain ⟨v, failed⟩ := r
  exact (lost read).ite ((poisoned read).ite read.clearDamage)

theorem writeBackLine {l : CacheLine} : Leads s (t.writeBackLine l) := (h.foldl fun _ _ hv => hv.writeBackBlock).ite h

theorem dropLines {f : CacheLine → Bool} : Leads s (t.dropLines d f) := by
  have back (l : List CacheLine) : Leads s (l.foldl State.writeBackLine t) := h.foldl fun _ _ hv => hv.writeBackLine
  unfold State.dropLines
  exact ((back _).foldl fun _ _ hv => hv.foldl fun _ _ hw => hw.clearDamage).modPond

theorem readLine {l : CacheLine} {x : List Nat} : Leads s (t.readLine d l x).1 := by
  have cached : Leads s (x.foldl (State.readCached · 3) t) := h.foldl fun _ _ hv => hv.readCached
  have again : Leads s (((x.foldl (State.readCached · 3) t).dropLines d (·.line == l.line)).readBlocks
      (unitsOf 64 (l.line * 256) 256)).1 := cached.dropLines.readBlocks
  unfold State.readLine
  split
  · exact cached
  · split
    · exact h.dropLines
    · dsimp only
      split
      next e => rw [e] at again; exact again
      next e => rw [e] at again; exact touchLine (t := _) again

theorem readGranules : Leads s (t.readGranules d a n).1 := by
  refine fstFoldl (r := (t, (none : Option Nat))) h fun r x hr => ?_
  obtain ⟨v, bad⟩ := r
  have hv : Leads s v := hr
  dsimp only
  split
  · exact hv.millpondCorrected
  · split
    · split
      · exact millpondUncorrectable.clearDamage
      · exact millpondUncorrectable
    · exact hv

/-- A read of a device range, of a requester that fills no line. -/
theorem readDevice : Leads s (t.readDevice {} a n).1 := by
  refine fstFoldl (r := (t, (none : Option Nat))) h fun r e hr => ?_
  obtain ⟨v, bad⟩ := r
  have hv : Leads s v := hr
  have part : Leads s (v.readPart {} e.1 e.2).1 := by
    unfold State.readPart
    split
    · unfold State.readExternalLine
      dsimp only [Option.bind_none]
      split
      next l _ =>
        have read := hv.readLine (d := homeDie e.1) (l := l) (x := unitsOf 16 e.1 e.2)
        split
        next e => rw [e] at read; exact read
        next e => rw [e] at read; exact touchLine (t := _) read
      · rw [ite_self]
        exact hv.readBlocks
    · exact hv.readGranules
    · exact hv.readGranules
    · exact hv
  exact part

end

end Leads

end Sys2Proof.Machine
end

section
/-! PROOFS. A command forwarded to the module itself leaves its role (R439, R440), and one that resets a context its note (R400). -/

namespace Sys2Proof.Machine

variable {s t u : State} {a b k n d g c j sid op : Nat}

/-! ## What changes no role -/

theorem Sent.fabric (h : Sent s t) : t.fabric = s.fabric := by
  obtain ⟨_, _, _, _, _, _, rfl⟩ := h
  rfl

theorem Reaches.fabric {q : Keeping} (h : Reaches q s t) : t.fabric = s.fabric := by
  obtain ⟨m, rfl, -⟩ := h
  rfl

theorem State.modSeq_fabric {f : SeqSlot → SeqSlot} : (s.modSeq c j f).fabric = s.fabric :=
  Reaches.fabric (s := s.modContext c _) Reaches.refl.writeSlot

theorem Option.foldl_bind_some {α β : Type} {p : β → Prop} {f : β → α → Option β} {l : List α} {o : Option β} {y : β}
    (ho : ∀ x, o = some x → p x) (hf : ∀ x e z, p x → f x e = some z → p z)
    (h : l.foldl (fun o e => o.bind fun x => f x e) o = some y) : p y := by
  induction l generalizing o with
  | nil => exact ho y h
  | cons e l ih =>
    refine ih (fun z hz => ?_) h
    obtain ⟨x, hx, hz⟩ := Option.bind_eq_some_iff.mp hz
    exact hf x e z (ho x hx) hz

theorem State.grow_fabric (h : s.grow c j n = some t) : t.fabric = s.fabric := by
  unfold State.grow at h
  split at h
  · rw [← Option.some.inj h]
  · obtain ⟨v, hv, rfl⟩ := Option.map_eq_some_iff.mp h
    refine State.modSeq_fabric.trans ?_
    refine Option.foldl_bind_some (p := fun v : State => v.fabric = s.fabric) (fun x hx => by rw [← Option.some.inj hx])
      (fun x e z hx hz => ?_) hv
    rw [State.growLane_eq] at hz
    obtain ⟨p, -, rfl⟩ := Option.map_eq_some_iff.mp hz
    exact hx

theorem State.appendBooked_fabric {l : List Nat} (h : s.appendBooked c l a = some t) : t.fabric = s.fabric := by
  refine Option.foldl_bind_some (p := fun v : State => v.fabric = s.fabric) (fun x hx => by rw [← Option.some.inj hx])
    (fun x e z hx hz => ?_) h
  obtain ⟨v, hv, rfl⟩ := Option.map_eq_some_iff.mp hz
  exact State.modSeq_fabric.trans ((State.grow_fabric hv).trans hx)

theorem State.stageStep_fabric {m : Cmd} {w : Bool} : (s.stageStep c m sid n w).fabric = s.fabric := by
  unfold State.stageStep
  dsimp only
  generalize hv : s.appendBooked c m.slots m.append = v
  cases v with
  | none => rfl
  | some v =>
    have kept := State.appendBooked_fabric hv
    exact kept

theorem State.sendPayload_fabric {l : List Byte} : (s.sendPayload sid n op l).fabric = s.fabric := by
  obtain ⟨x, sent⟩ := State.sendPayload_sent (s := s) (sid := sid) (n := n) (op := op) (l := l)
  exact sent.fabric

/-- A module's role, which the commands it forwards leave. -/
def Roled (s t : State) : Prop := t.fabric.role = s.fabric.role

namespace Roled

theorem refl : Roled s s := rfl

theorem foldl {α : Type} {f : State → α → State} {l : List α} (h : Roled s t) (hf : ∀ t x, Roled s t → Roled s (f t x)) :
    Roled s (l.foldl f t) := by
  induction l generalizing t with
  | nil => exact h
  | cons x l ih => exact ih (hf t x h)

section
variable (h : Roled s t)
include h

theorem same (e : u.fabric = t.fabric) : Roled s u := (congrArg Fabric.role e).trans h

theorem sendFabric {p : Option (List Byte)} {m : FabricMsg} : Roled s (t.sendFabric p m) := h.same (Sent.fabric (Sent.send .refl))

theorem endRun {r : Reply} : Roled s (t.endRun sid n r) := by
  unfold State.endRun State.sendReply
  generalize e : t.modFabric _ = v
  have dropped : Roled s v := by
    rw [← e]
    exact h
  unfold Roled
  rw [State.sendPayload_fabric]
  exact dropped

theorem commitAnswered {x : Answer} : Roled s (t.commitAnswered x) := by
  unfold State.commitAnswered
  split
  · exact h
  · split
    · exact h.endRun
    · exact h

theorem modFabric {f : Fabric → Fabric} (hf : ∀ x, (f x).role = x.role) : Roled s (t.modFabric f) := (hf t.fabric).trans h

theorem keepAnswer {y : List Byte × Nat × Nat} {x : Answer} : Roled s (t.keepAnswer y x) := by
  unfold State.keepAnswer
  exact h.modFabric fun _ => rfl

theorem answerForward {y : List Byte × Nat × Nat} {x : Answer} : Roled s (t.answerForward y x) := by
  have kept : Roled s (t.keepAnswer y x) := h.keepAnswer
  unfold State.answerForward
  generalize t.keepAnswer y x = v at kept
  dsimp only
  split
  · exact kept.commitAnswered
  · exact kept.sendFabric

theorem probed {m : Forward} : Roled s (t.probed m).1 := by
  unfold State.probed
  split
  · unfold State.candidate
    dsimp only
    split
    · exact h
    · split
      · exact h
      · exact h
  · exact h

theorem releaseLocal {m : Forward} : Roled s (t.releaseLocal m) := h

theorem commitLocal {m : Forward} : Roled s (t.commitLocal m) := by
  unfold State.commitLocal
  split
  · split
    · exact h.commitAnswered
    · exact h.sendFabric
  · split
    · exact h
    · dsimp only
      generalize hr : (if (t.schedule.tentative.find? (·.key == forwardKey m)).isSome = true then
        (t, t.answerOf m { status := Status.accepted }) else t.probed m) = r
      have probed : Roled s r.1 := by
        rw [← hr]
        split
        · exact h
        · exact h.probed
      obtain ⟨v, x⟩ := r
      have dropped : Roled s (v.modSchedule fun x => { x with tentative := x.tentative.filter (·.key != forwardKey m) }) := probed
      split
      · exact dropped.answerForward
      · split
        · exact dropped.answerForward
        · exact dropped.same State.stageStep_fabric

theorem commitTo {f : Frame} {m : List Byte} {w : Bool} : Roled s (t.commitTo f m w) := by
  unfold State.commitTo
  dsimp only
  split
  · split
    · exact h.releaseLocal
    · exact h.commitLocal
  · exact h.sendFabric

theorem decideFor : Roled s (t.decideFor sid n) := by
  unfold State.decideFor
  split
  · unfold State.decideRun
    dsimp only
    split
    · exact h
    · split
      · exact foldl (commitTo (t := t.modRun _ _ _) h) fun _ _ hv => hv.commitTo
      · split
        · exact h.endRun
        · split
          · exact h.endRun
          · exact h
  · exact h

theorem addAnswer {x : Answer} : Roled s (t.addAnswer x) := by
  unfold State.addAnswer
  split
  · exact h
  · split
    · exact h
    · split
      · exact (h.foldl fun _ _ hv => hv.commitTo).endRun
      · exact decideFor (t := t.modRun _ _ _) h

theorem probeTo {m : Forward} {x : List Byte} : Roled s (t.probeTo m x) := by
  unfold State.probeTo
  split
  · exact h.probed.addAnswer
  · exact h.sendFabric

end

end Roled

/-! ## A reply, and what it takes with it -/

/-- What a reply shows nothing of. -/
def State.shown (s : State) : (List (Nat × Nat) × Sparse Nat × Sparse Context × Fabric × Journal) × Sparse Nat :=
  ((s.freshTrouble, s.rowErrors, s.contexts, s.fabric, s.journal), s.segCodes)

theorem State.deliverReply_shown {l : List Byte} : (s.deliverReply sid n op l).shown = s.shown := by
  have replied (v : State) : (v.afterReply sid n op).shown = v.shown := by
    unfold State.afterReply
    split
    · rfl
    split
    · rfl
    split
    · rfl
    split
    · unfold State.dozeReplied
      split
      · rfl
      · rfl
    · rfl
  obtain ⟨x, sent⟩ := State.sendPayload_sent (s := s) (sid := sid) (n := n) (op := op) (l := l)
  have delivered : (s.sendPayload sid n op l).shown = s.shown := by
    obtain ⟨_, _, _, _, _, _, e⟩ := sent
    rw [e]
    rfl
  unfold State.deliverReply
  dsimp only
  split
  · exact (replied _).trans delivered
  · exact (replied _).trans delivered

/-! ## The note of a context's reset -/

/-- Some context is to be reset. -/
def Resets (m : Sparse Context) : Prop := ∃ e ∈ m, e.2.reset.isSome

theorem Resets.sdel {m : Sparse Context} (h : Resets m) (hk : (sget {} m k).reset.isSome = false) : Resets (sdel m k) := by
  obtain ⟨e, he, hr⟩ := h
  induction m with
  | nil => cases he
  | cons y m ih =>
    obtain ⟨i, x⟩ := y
    unfold sget at hk
    unfold Machine.sdel
    split
    next hi =>
      rw [if_pos hi] at hk
      rcases List.mem_cons.mp he with rfl | he
      · rw [hk] at hr
        cases hr
      · exact ⟨e, he, hr⟩
    next hi =>
      rw [if_neg hi] at hk
      rcases List.mem_cons.mp he with rfl | he
      · exact ⟨_, List.mem_cons_self .., hr⟩
      · obtain ⟨z, hz, hr⟩ := ih hk he
        exact ⟨z, List.mem_cons_of_mem _ hz, hr⟩

theorem Resets.sins {m : Sparse Context} {v : Context} (h : Resets m) (hk : (sget {} m k).reset.isSome = true → v.reset.isSome = true) :
    Resets (sins m k v) := by
  obtain ⟨e, he, hr⟩ := h
  induction m with
  | nil => cases he
  | cons y m ih =>
    obtain ⟨i, x⟩ := y
    unfold sget at hk
    unfold Machine.sins
    split
    · exact ⟨e, List.mem_cons_of_mem _ he, hr⟩
    · split
      next hi =>
        rw [if_pos hi.symm] at hk
        rcases List.mem_cons.mp he with rfl | he
        · exact ⟨_, List.mem_cons_self .., hk hr⟩
        · exact ⟨e, List.mem_cons_of_mem _ he, hr⟩
      next hi =>
        rw [if_neg (Ne.symm hi)] at hk
        rcases List.mem_cons.mp he with rfl | he
        · exact ⟨_, List.mem_cons_self .., hr⟩
        · obtain ⟨z, hz, hr⟩ := ih hk he
          exact ⟨z, List.mem_cons_of_mem _ hz, hr⟩

theorem resets_sins {m : Sparse Context} {v : Context} (hv : v.reset.isSome = true) : Resets (sins m k v) := by
  induction m with
  | nil => exact ⟨(k, v), List.mem_cons_self .., hv⟩
  | cons y m ih =>
    obtain ⟨i, x⟩ := y
    unfold sins
    split
    · exact ⟨(k, v), List.mem_cons_self .., hv⟩
    · split
      · exact ⟨(k, v), List.mem_cons_self .., hv⟩
      · obtain ⟨z, hz, hr⟩ := ih
        exact ⟨z, List.mem_cons_of_mem _ hz, hr⟩

theorem Resets.modContext {f : Context → Context} (h : Resets s.contexts) (hf : ∀ x, (f x).reset = x.reset) :
    Resets (s.modContext c f).contexts := by
  change Resets (sput {} s.contexts c (f (s.context c)))
  unfold sput
  split
  next e =>
    refine h.sdel ?_
    have : (s.context c).reset = none := by rw [← hf, e]
    change (s.context c).reset.isSome = false
    rw [this]
    rfl
  next => exact h.sins fun e => by rw [hf]; exact e

theorem State.resets_modContext {f : Context → Context} (hf : ∀ x, (f x).reset.isSome = true) : Resets (s.modContext c f).contexts := by
  change Resets (sput {} s.contexts c (f (s.context c)))
  unfold sput
  split
  next e =>
    have := hf (s.context c)
    rw [e] at this
    cases this
  next => exact resets_sins (hf _)

theorem Resets.modStream {f : Stream → Stream} (h : Resets s.contexts) : Resets (s.modStream c f).contexts := by
  unfold State.modStream State.setStream
  split
  · exact h
  · exact h.modContext fun _ => rfl

theorem State.conclude_contexts {r : Reply} : (s.conclude sid n op r).contexts = s.contexts := by
  unfold State.conclude
  split
  · rfl
  · exact congrArg (fun e => e.1.2.2.1) State.deliverReply_shown

theorem State.releaseUnmaps_contexts : s.releaseUnmaps.contexts = s.contexts := by
  unfold State.releaseUnmaps
  refine List.foldlRecOn (motive := fun t : State => t.contexts = s.contexts) _ _ rfl fun t ht w _ => ?_
  split
  · exact ht
  · refine State.conclude_contexts.trans ?_
    refine List.foldlRecOn (motive := fun t : State => t.contexts = s.contexts) _ _ ht fun v hv g _ => ?_
    obtain ⟨m, e, -⟩ : Accessed v (v.unmapPage g) := Reaches.refl.unmapPage
    rw [e]
    exact hv

theorem State.stopCommand_contexts : (s.stopCommand c n).contexts = s.contexts := by
  unfold State.stopCommand
  refine State.releaseUnmaps_contexts.trans ?_
  exact List.foldlRecOn (motive := fun t : State => t.contexts = s.contexts) _ _ rfl fun t ht w _ => ht

theorem Resets.giveUp (h : Resets s.contexts) : Resets (s.giveUp c).contexts := by
  unfold State.giveUp
  change Resets (State.contexts (List.foldl _ _ _))
  refine List.foldlRecOn (motive := fun t : State => Resets t.contexts) _ _ h fun t ht n _ => ?_
  exact Resets.modStream (by rw [State.stopCommand_contexts]; exact ht)

/-- A context that is to be reset is noted as such. -/
theorem State.beginReset_resets {r : Resetting} : Resets (s.beginReset c r).contexts := by
  have noted : Resets (s.modContext c fun x => { x with state := .resetting, reset := some r }).contexts :=
    State.resets_modContext fun _ => rfl
  have told (v : State) (l : List Nat) (h : Resets v.contexts) : Resets (v.watchCores l).contexts :=
    List.foldlRecOn (motive := fun t : State => Resets t.contexts) _ _ h fun _ ht _ _ => ht
  unfold State.beginReset
  dsimp only
  generalize (s.modContext c fun x => { x with state := .resetting, reset := some r }) = v at noted
  have quiet := told _ ((v.uncompleted c).flatMap (v.coresFor c)).eraseDups (noted.giveUp (c := c))
  change Resets (State.contexts (if _ then State.discardQuern _ c else State.modStream (State.discardQuern _ c) c _))
  split
  · exact quiet
  · exact Resets.modStream quiet

end Sys2Proof.Machine
end

section
/-! PROOFS. What the answer of a command shows of it (R309, R313). -/

namespace Sys2Proof.Machine

variable {s t v : State} {op c sid a n : Nat} {f : Frame} {x : Session} {r : Reply} {go : Handled} {l : List (Option Reply)}

/-! ## Answers -/

/-- What the answer of command `op` in `s` shows of it: it waits, it has read, it has an effect that waits for the journal, or it has
retired segments. -/
inductive Shows (op : Nat) (s : State) : Handled → Prop
  | later {t : State} (h : Leads s t) : Shows op s (.later t)
  | reply {t : State} {r : Reply} (h : Leads s t) : Shows op s (.reply r t)
  | effect {t : State} {r : Reply} (hr : r.status = Status.done ∧ r.zero = false) (hj : journalsEffect op = true ∧ op ≠ 0x0802) :
      Shows op s (.reply r t)
  | retire {t : State} {r : Reply} (hr : r.status = Status.done ∧ r.zero = false) (hj : journalsEffect op = true) (h : Follows s t) :
      Shows op s (.reply r t)

/-- A list that something was added to is not empty. -/
theorem concat_eq_nil {α : Type} {l : List α} {y : α} {p : Prop} (h : l ++ [y] = []) : p := by simp at h

namespace Shows

theorem refused : Shows op s (.reply r s) := .reply .refl

theorem checked (h : Shows op s go) : Shows op s (checked l s go) := by
  unfold Machine.checked
  split
  · exact refused
  · exact h

theorem zeroField {b : Bool} (h : Shows op s go) : Shows op s (zeroField b s go) := by
  unfold Machine.zeroField
  split
  · exact refused
  · exact h

theorem ite {p : Prop} [Decidable p] {g : Handled} (h : Shows op s go) (h' : Shows op s g) : Shows op s (if p then go else g) := by
  split
  · exact h
  · exact h'

theorem done {d : List Byte} {k : Nat} (hj : journalsEffect op = true ∧ op ≠ 0x0802) : Shows op s (done t d k) := effect ⟨rfl, rfl⟩ hj

theorem told {d : List Byte} {k : Nat} (h : Leads s t) : Shows op s (Machine.done t d k) := .reply h

theorem stage {m : Staged} : Shows op s (.later (t.stage m)) := .later (.of_busy fun i => concat_eq_nil i.staging)

theorem unmapThen {w : List Nat} (hj : journalsEffect op = true ∧ op ≠ 0x0802) : Shows op s (t.unmapThen f w) := by
  unfold State.unmapThen
  exact .ite (.later (.of_busy fun i => concat_eq_nil i.unmaps)) (.done hj)

theorem arm {j : Injection} (hj : journalsEffect op = true ∧ op ≠ 0x0802) : Shows op s (t.arm f j) := .done hj

theorem askPeer {y : List Byte} {m : CopyMsg} : Shows op s (t.askPeer f y m) := by
  refine .later (.of_busy fun i => concat_eq_nil (l := t.fabric.checks) (y := (f, y)) ?_)
  have kept := (Sent.fabric (Sent.send .refl) : ((t.modFabric fun x => { x with checks := x.checks ++ [(f, y)] }).sendFabric (some y)
    (.check m)).fabric = _)
  exact (congrArg Fabric.checks kept).symm.trans i.checks

end Shows

/-! ## Reads of a plan and of an image -/

theorem readPlan_shows : Shows op s (readPlan f c a n s) := by
  have read := Leads.readDevice (a := a) (n := n) (Leads.refl (s := s))
  unfold readPlan
  generalize s.readDevice {} a n = y at read
  obtain ⟨v, data, b⟩ := y
  have read : Leads s v := read
  have failed {r : Reply} : Shows op s (.reply r v) := .reply read
  cases b with
  | some b => exact failed
  | none =>
    dsimp only
    split
    · exact failed
    · split
      · exact failed
      · unfold checked
        split
        · exact failed
        · exact .stage

theorem readImage_shows : Shows op s (readImage f c a n s) := by
  have read := Leads.readDevice (a := a) (n := n) (Leads.refl (s := s))
  unfold readImage
  generalize s.readDevice {} a n = y at read
  obtain ⟨v, data, b⟩ := y
  have read : Leads s v := read
  have failed {r : Reply} : Shows op s (.reply r v) := .reply read
  cases b with
  | some b => exact failed
  | none =>
    dsimp only
    split
    · exact failed
    · unfold checked
      split
      · exact failed
      · exact .stage

/-! ## The commands of the groups 0x01 to 0x05 -/

theorem bodyHello_shows : Shows op s (bodyHello s) := .told (Leads.refl.same rfl)

theorem bodyClose_shows : Shows op s (bodyClose sid s) := .told (Leads.refl.same rfl)

theorem bodyOpen_shows : Shows op s (bodyOpen f s) := by
  unfold bodyOpen
  refine .zeroField (.checked ?_)
  split
  · exact .refused
  next y _ =>
    dsimp only
    have used : Leads s (s.modSec fun x => { x with challenges := x.challenges.filter (· != y) }) := Leads.refl.same rfl
    generalize (s.modSec fun x => { x with challenges := x.challenges.filter (· != y) }) = v at used
    have replaced (p : Prop) [Decidable p] (k : List Byte) : Leads s (if p then v.replaceOperators k else v) :=
      (Leads.same (u := v.replaceOperators k) used rfl).ite used
    exact .told ((replaced _ _).same rfl)

theorem bodyPlanLoad_shows : Shows op s (bodyPlanLoad f c s) := by
  unfold bodyPlanLoad
  exact .zeroField (.checked (.ite (.later (.of_busy fun i => concat_eq_nil i.reads)) readPlan_shows))

theorem bodyCtxRestore_shows : Shows op s (bodyCtxRestore f c s) := by
  unfold bodyCtxRestore
  exact .zeroField (.checked (.ite (.later (.of_busy fun i => concat_eq_nil i.reads)) readImage_shows))

theorem State.stageStep_leads {m : Cmd} {w : Bool} : Leads s (s.stageStep c m sid n w) := by
  unfold State.stageStep
  dsimp only
  split
  · exact .refl
  · exact .of_busy fun i => concat_eq_nil i.staging

theorem bodyRunStep_shows : Shows op s (bodyRunStep f c s) := by
  unfold bodyRunStep
  refine .zeroField (.checked ?_)
  split
  · exact .refused
  · exact .later State.stageStep_leads

theorem bodyCtxReset_shows (hj : journalsEffect op = true ∧ op ≠ 0x0802) : Shows op s (bodyCtxReset f s) := by
  unfold bodyCtxReset
  refine .checked (.ite (.done hj) (.later (.of_busy fun i => ?_)))
  obtain ⟨e, he, -⟩ : Resets [] := i.contexts ▸ State.beginReset_resets
  cases he

theorem bodyLow_shows (hc : op ∈ catalogue) (ho : op < 0x0600) : Shows op s (bodyLow op f c sid s) := by
  unfold bodyLow
  split
  · exact bodyHello_shows
  · exact bodyOpen_shows
  · exact bodyClose_shows
  · exact bodyPlanLoad_shows
  · exact .checked (.done (by decide))
  · exact bodyRunStep_shows
  · exact .zeroField (.checked (.done (by decide)))
  · exact .checked (.done (by decide))
  · exact .zeroField (.checked (.done (by decide)))
  · exact .checked (.done (by decide))
  · exact .zeroField (.checked (.done (by decide)))
  · exact .checked (.unmapThen (by decide))
  · exact .checked (.unmapThen (by decide))
  · exact .checked (.done (by decide))
  · exact .checked (.ite (.done (by decide)) (.later (.of_busy fun i => concat_eq_nil i.closing)))
  · exact bodyCtxReset_shows (by decide)
  · exact .zeroField (.checked .stage)
  · exact bodyCtxRestore_shows

/-! ## The commands of the groups 0x06 to 0x0D -/

theorem bodySegRetire_shows : Shows 0x0802 s (bodySegRetire f s) := by
  unfold bodySegRetire
  exact .zeroField (.checked (.retire ⟨rfl, rfl⟩ (by decide) (Follows.refl.foldl fun _ _ h => h.retireSegment)))

theorem State.latchPosition_leads : Leads s (s.latchPosition a n) := by
  unfold State.latchPosition
  exact .ite (Leads.refl.same rfl) .refl

theorem bodyRegRead_shows : Shows op s (bodyRegRead f x s) := by
  unfold bodyRegRead
  exact .zeroField (.checked (.told State.latchPosition_leads))

theorem bodyLogRead_shows : Shows op s (bodyLogRead f x s) := by
  unfold bodyLogRead
  exact .ite (.checked (.told .refl)) (.checked (.told .refl))

theorem bodyMiddle_shows (hc : op ∈ catalogue) (ho : ¬op < 0x0600) (ho' : op < 0x0E00) : Shows op s (bodyMiddle op f c x s) := by
  unfold bodyMiddle
  split
  · exact .zeroField (.checked (.later (.of_busy fun i => concat_eq_nil i.transfers)))
  · exact .zeroField (.checked (.later (.of_busy fun i => concat_eq_nil i.transfers)))
  · exact .zeroField (.checked (.later (.of_busy fun i => concat_eq_nil i.splits)))
  · exact .zeroField (.checked (.done (by decide)))
  · exact .zeroField (.checked (.unmapThen (by decide)))
  · exact .zeroField (.checked (.done (by decide)))
  · exact .zeroField (.checked .stage)
  · exact bodySegRetire_shows
  · exact .zeroField (.checked (.later (.of_busy fun i => concat_eq_nil i.modes)))
  · exact bodyRegRead_shows
  · exact .checked (.done (by decide))
  · exact bodyLogRead_shows
  · exact .checked (.told .refl)
  · exact .checked (.told .refl)
  · exact .checked (.done (by decide))
  · refine .checked (.done ?_)
    have last : op = 0x0D02 := by
      simp_all [catalogue]
      omega
    rw [last]
    decide

/-! ## The commands of the groups 0x0E and 0x0F -/

/-- Only a module of a role forwards a command (R439). -/
theorem State.inCascade_role (h : s.inCascade a ≠ none) : s.fabric.role = 1 := by
  unfold State.inCascade at h
  split at h
  · exact absurd rfl h
  next e => exact Decidable.not_not.mp fun e' => e (.inl e')

/-- Where every member that a command names is found, and it names one, the module has a role. -/
theorem State.inCascade_any {w : List Nat} (h : w.eraseDups.any (fun a => (s.inCascade a).isNone) = false) (hw : w ≠ []) :
    s.fabric.role = 1 := by
  obtain ⟨y, w, rfl⟩ := List.exists_cons_of_ne_nil hw
  rw [List.eraseDups_cons, List.any_cons, Bool.or_eq_false_iff] at h
  refine s.inCascade_role (a := y) fun e => ?_
  rw [e] at h
  cases h.1

theorem bodyCascadeRun_shows : Shows op s (bodyCascadeRun f s) := by
  unfold bodyCascadeRun zeroField
  dsimp only
  split
  · exact .refused
  next hz =>
    unfold checked
    split
    · exact .refused
    next hl =>
      have nonempty : List.take (le f.payload 6 2) (List.map (fun i => le f.payload (8 + 2 * i) 2) (List.range 16)) ≠ [] := by
        have named : le f.payload 6 2 ≠ 0 := fun e => hz (decide_eq_true (.inl e))
        simp [List.take_eq_nil_iff, named]
      have role := State.inCascade_any (s := s) (when_eq_none (r := refuseAddress) |>.mp
        (firstFailing_eq_none.mp hl _ (by simp only [List.mem_cons, true_or, or_true]))) nonempty
      refine .later (.of_busy fun i => ?_)
      refine absurd (i.role.symm.trans (Roled.foldl (s := s) ?_ fun _ _ h => h.probeTo)) (by rw [role]; decide)
      exact Roled.refl.modFabric fun _ => rfl

theorem bodyFabricStatus_shows : Shows op s (bodyFabricStatus f x s) := by
  unfold bodyFabricStatus
  exact .ite .refused (.checked (.told .refl))

theorem bodyFabric_shows (hc : op ∈ catalogue) (ho : ¬op < 0x0E00) (ho' : op < 0x1000) : Shows op s (bodyFabric op f c x s) := by
  unfold bodyFabric
  split
  · exact .checked (.done (by decide))
  · exact .checked (.done (by decide))
  · exact .checked (.done (by decide))
  · exact bodyFabricStatus_shows
  · exact .zeroField (.checked .askPeer)
  · exact .checked .askPeer
  · exact .checked (.done (by decide))
  · exact .checked (.done (by decide))
  · exact .checked (.done (by decide))
  · exact bodyCascadeRun_shows

/-! ## The commands of the groups 0x10 to 0x13 -/

theorem bodyHigh_shows (hc : op ∈ catalogue) (ho : ¬op < 0x1000) : Shows op s (bodyHigh op f s) := by
  unfold bodyHigh
  split
  · exact .checked (.told .refl)
  · exact .zeroField (.checked (.done (by decide)))
  · exact .checked (.done (by decide))
  · exact .checked (.done (by decide))
  · exact .checked (.done (by decide))
  · exact .checked (.done (by decide))
  · exact .checked (.done (by decide))
  · exact .checked (.told .refl)
  · exact .checked (.told .refl)
  · exact .zeroField (.checked (.arm (by decide)))
  · exact .zeroField (.checked (.arm (by decide)))
  · exact .zeroField (.checked (.arm (by decide)))
  · exact .checked (.done (by decide))
  · exact .checked (.told .refl)
  · exact .zeroField (.checked (.done (by decide)))
  · exact .checked (.done (by decide))
  · exact .checked (.done (by decide))
  · refine .checked (.done ?_)
    have last : op = 0x1304 := by
      simp_all [catalogue]
      omega
    rw [last]
    decide

/-! ## Any command of a session -/

theorem body_shows (hc : f.opcode.toNat ∈ catalogue) : Shows f.opcode.toNat s (body f sid x s) := by
  unfold body
  dsimp only
  split
  next h => exact bodyLow_shows hc h
  next h =>
    split
    next h' => exact bodyMiddle_shows hc h h'
    next h' =>
      split
      next h'' => exact bodyFabric_shows hc h' h''
      next h'' => exact bodyHigh_shows hc h''

/-- What shows of an answer also shows of it where the command has counted itself before. -/
theorem Shows.after (h : Shows op t go) (ht : Leads s t) : Shows op s go := by
  cases h with
  | later h => exact .later (ht.trans h)
  | reply h => exact .reply (ht.trans h)
  | effect hr hj => exact .effect hr hj
  | retire hr hj h => exact .retire hr hj (ht.follows.trans h)

theorem act_shows : Shows f.opcode.toNat s (act f sid x s) := by
  have counted : Leads s (if f.opcode.toNat = 0x0101 then s.countHello else s) := by
    refine .ite ?_ .refl
    unfold State.countHello
    exact Leads.refl.same rfl
  unfold act
  dsimp only
  generalize (if f.opcode.toNat = 0x0101 then s.countHello else s) = t at counted
  refine Shows.after ?_ counted
  split
  · exact .refused
  next h =>
    refine .checked (body_shows ?_)
    simpa using h

end Sys2Proof.Machine
end

section
/-! PROOFS. SEG.RETIRE while the field defect list is full (R180, R419). -/

namespace Sys2Proof.Machine

variable {s t v w : State} {c : Sparse Nat} {e : Effect} {f : Frame} {sid n : Nat}

/-! ## The commands before an idle state -/

/-- An idle state in which `e` waits alone for the journal and the segments have the codes `c`, or one before it, in which nothing
waits. -/
def Settled (c : Sparse Nat) (e : Effect) (s : State) : Prop :=
  s.Idle ∧ (s.journal.effects = [] ∨ s.journal.effects = [e] ∧ s.segCodes = c)

theorem Settled.of_leads (h : Settled c e t) (hl : Leads s t) : Settled c e s := by
  obtain ⟨⟨idle, effects⟩, codes⟩ := hl h.1
  refine ⟨idle, ?_⟩
  rw [← effects, ← codes]
  exact h.2

theorem Settled.of_shown (h : Settled c e t) (hs : t.shown = s.shown) : Settled c e s := by
  unfold State.shown at hs
  simp only [Prod.mk.injEq] at hs
  obtain ⟨⟨fresh, rows, contexts, fabric, journal⟩, codes⟩ := hs
  refine h.of_leads fun i => ⟨⟨?_, by rw [journal]⟩, codes⟩
  have traced := State.idle_iff.mp i
  unfold State.trace at traced
  rw [fresh, rows, contexts, fabric, journal] at traced
  exact State.idle_iff.mpr traced

theorem State.Idle.awaits {op : Nat} {r : Reply} (k : Nat) :
    ({ s with journal := s.journal.awaits k sid n op r } : State).Idle ↔ s.Idle := by
  rw [State.idle_iff, State.idle_iff]
  exact Iff.rfl

/-- Before an effect came to wait alone, none did. -/
theorem Settled.before_effect {op : Nat} {r : Reply}
    (h : Settled c e (t.modJournal fun j => j.awaits t.uptime sid n op r)) :
    t.Idle ∧ t.journal.effects = [] ∧ e.opcode = op := by
  obtain ⟨idle, only | ⟨only, -⟩⟩ := h
  · exact concat_eq_nil only
  · obtain ⟨none, same⟩ := List.append_eq_singleton_iff.mp only |>.resolve_right fun h => by simp at h
    exact ⟨(State.Idle.awaits _).mp idle, none, (congrArg Effect.opcode (List.cons.inj same).1).symm⟩

/-- The DONE of an immediate effect waits for the journal. -/
theorem State.answer_waits {op : Nat} {r : Reply} (hr : r.status = Status.done ∧ r.zero = false) (hj : journalsEffect op = true) :
    v.answer sid n op (.reply r t) = t.modJournal fun j => j.awaits t.uptime sid n op r := by
  unfold State.answer State.conclude
  exact if_pos ⟨hr.1, by rw [hr.2]; rfl, hj⟩

theorem Settled.before_answer {op : Nat} {h : Handled} (he : e.opcode = 0x0802) (hs : Shows op s h)
    (ha : Settled c e (v.answer sid n op h)) : Settled c e s := by
  cases hs with
  | later hl => exact ha.of_leads hl
  | @reply t r hl =>
    unfold State.answer State.conclude at ha
    dsimp only at ha
    split at ha
    · obtain ⟨idle, none, -⟩ := ha.before_effect
      exact Settled.of_leads ⟨idle, .inl none⟩ hl
    · exact (ha.of_shown State.deliverReply_shown).of_leads hl
  | @effect t r hr hj =>
    rw [State.answer_waits hr hj.1] at ha
    obtain ⟨-, -, same⟩ := ha.before_effect
    exact absurd (same.symm.trans he) hj.2
  | @retire t r hr hj hl =>
    rw [State.answer_waits hr hj] at ha
    obtain ⟨idle, none, -⟩ := ha.before_effect
    obtain ⟨before, effects⟩ := hl idle
    exact ⟨before, .inl (effects.symm.trans none)⟩

theorem Settled.before_takeFrame (he : e.opcode = 0x0802) (h : Settled c e (s.takeFrame sid f)) : Settled c e s := by
  unfold State.takeFrame at h
  dsimp only at h
  have noted {g : Session → Session} : (s.modSession sid g).shown = s.shown := rfl
  exact (Settled.before_answer he act_shows h).of_shown noted

theorem Settled.before_takeHeld (he : e.opcode = 0x0802) (h : Settled c e (s.takeHeld sid n)) : Settled c e s := by
  induction n generalizing s with
  | zero => exact h
  | succ n ih =>
    unfold State.takeHeld at h
    dsimp only at h
    split at h
    · exact h
    · have noted {g : Session → Session} : (s.modSession sid g).shown = s.shown := rfl
      exact (Settled.before_takeFrame he (ih h)).of_shown noted

/-- Where a SEG.RETIRE leads to an idle device, its segments are as the command left them. -/
theorem Handles.segCodes {i : Instr} {r : Reply} (hs : s.letIn f.path.secured = (s, true)) (ho : f.opcode.toNat = 0x0802)
    (hr : r.status = Status.done ∧ r.zero = false) (hv : Handles i f s (.reply r v))
    (ht : Runs i f s t) (hi : t.Idle) (he : ∃ e, t.journal.effects = [e] ∧ e.opcode = 0x0802) : v.segCodes = t.segCodes := by
  obtain ⟨e, only, op⟩ := he
  have same := Host.Outcome.next.inj ((ht s hs).symm.trans (hv s hs))
  have settled : Settled t.segCodes e t := ⟨hi, .inr ⟨only, rfl⟩⟩
  generalize t.segCodes = c at settled ⊢
  rw [same] at settled
  have answered := settled.before_takeHeld op
  rw [State.answer_waits hr (by rw [ho]; decide)] at answered
  obtain ⟨-, none | ⟨-, codes⟩⟩ := answered
  · exact concat_eq_nil none
  · exact codes

/-! ## A full list of defects -/

/-- Records of `n` bad parts, and of 65 retired pages of segment 0, in two runs. -/
def crowded (n : Nat) : List Defect :=
  List.replicate n { kind := 3, source := 0, object := 0, index := 0 } ++
    [{ kind := 8, source := 3, object := 0, index := 0, count := 64 }, { kind := 8, source := 3, object := 0, index := 100 }]

theorem mergeDefects_crowded : mergeDefects (crowded n) = crowded n := by
  have rest : (crowded n).filter (!·.isRun) = List.replicate n { kind := 3, source := 0, object := 0, index := 0 } := by
    rw [crowded, List.filter_append, List.filter_replicate]
    exact List.append_nil _
  have runs : (crowded n).filter Defect.isRun =
      [{ kind := 8, source := 3, object := 0, index := 0, count := 64 }, { kind := 8, source := 3, object := 0, index := 100 }] := by
    rw [crowded, List.filter_append, List.filter_replicate]
    rfl
  unfold mergeDefects
  rw [rest, runs]
  rfl

theorem withSegment_crowded : (withSegment (crowded n) 0).length = n + 1 := by
  unfold withSegment crowded
  have kept : Defect.without { kind := 3, source := 0, object := 0, index := 0 } 0 =
      [{ kind := 3, source := 0, object := 0, index := 0 }] := rfl
  rw [List.flatMap_append, List.length_append, List.length_append, List.flatMap_replicate, kept,
    List.flatten_replicate_singleton, List.length_replicate]
  rfl

theorem replaceSegment_crowded : replaceSegment (crowded n) = some (0, withSegment (crowded n) 0) := by
  have enough : 64 ≤ sumNat ((crowded n).map (·.pagesIn 0)) := by
    unfold sumNat crowded
    rw [List.map_append, List.foldl_append]
    generalize List.foldl _ 0 _ = k
    have pages : List.map (·.pagesIn 0) [({ kind := 8, source := 3, object := 0, index := 0, count := 64 } : Defect),
        { kind := 8, source := 3, object := 0, index := 100 }] = [64, 1] := by decide
    rw [pages, List.foldl_cons, List.foldl_cons, List.foldl_nil]
    omega
  have shorter : (withSegment (crowded n) 0).length < (crowded n).length := by
    rw [withSegment_crowded, crowded, List.length_append, List.length_replicate]
    exact Nat.lt_succ_self _
  unfold replaceSegment
  rw [List.range_succ_eq_map, List.find?_cons_of_pos]
  · rfl
  · exact decide_eq_true ⟨enough, shorter⟩

/-- Another retired segment then takes segment 0 with it. -/
theorem State.addDefect_crowded {x : Defect} (hd : s.dev.defects = crowded n) (hn : 65536 ≤ n + 2) (ho : s.dev.onlyThisStart = [])
    (hx : x.kind = 9) (h0 : s.segRetired 0 = false) : ∃ l, s.addDefect x = (s.writeList l).markSegRetired 0 := by
  have new : ¬(s.dev.defects.contains x = true ∨ s.dev.onlyThisStart.contains x = true) := by
    rw [hd, ho, crowded]
    rintro (h | h)
    · rcases List.mem_append.mp (List.contains_iff_mem.mp h) with h | h
      · rw [(List.mem_replicate.mp h).2] at hx
        cases hx
      · rcases List.mem_cons.mp h with rfl | h
        · cases hx
        · rw [List.mem_singleton.mp h] at hx
          cases hx
    · cases h
  have full : ¬(crowded n).length < 65536 := by
    rw [crowded, List.length_append, List.length_replicate]
    exact Nat.not_lt.mpr hn
  unfold State.addDefect
  rw [if_neg new, hd, if_neg full, mergeDefects_crowded]
  dsimp only
  rw [if_neg full, replaceSegment_crowded]
  dsimp only
  exact ⟨_, if_neg (by rw [show (s.writeList _).segRetired 0 = s.segRetired 0 from rfl, h0]; decide)⟩

/-! ## The counterexample -/

/-- The list of a device with no room for another record. -/
@[irreducible] def fullList : List Defect := crowded 65534

theorem fullList_eq : fullList = crowded 65534 := by rw [fullList]

def filled : State :=
  { bench with
    contexts := []
    dev := { bench.dev with defects := fullList }
    sessions := [(1, { isOpen := true, management := true })] }

/-- SEG.RETIRE of segment 5. -/
def retireFrame : Frame :=
  sumsSet { opcode := BitVec.ofNat 16 0x0802, session := 1, context := 255, number := 1, payload := leBytes 2 5 ++ leBytes 2 1 ++ zeros 4 }

theorem filled_canonical : filled.Canonical :=
  { bench_canonical with contexts := ⟨by decide, by simp [filled]⟩, sessions := by decide }

theorem filled_taken : Taken 0x0802 retireFrame filled { isOpen := true, management := true } :=
  ⟨rfl, ⟨rfl, rfl, rfl, rfl, rfl⟩, ⟨rfl, rfl, rfl, by decide, rfl⟩, rfl, ⟨rfl, rfl, rfl, rfl, rfl⟩⟩

theorem filled_acts : Acts 0x0802 retireFrame filled (filled.noted retireFrame) 255 where
  delivered :=
    { filled_taken.numbered filled_canonical sumsSet_tag sumsSet_crc with
      privilege := by decide, generation := by decide, form := by decide }
  state := rfl
  bound := by decide

theorem filled_retires : bodySegRetire retireFrame (filled.noted retireFrame) = done ((filled.noted retireFrame).retireSegment 5 3) := by
  have first : le retireFrame.payload 0 2 = 5 := by decide
  have one : le retireFrame.payload 2 2 = 1 := by decide
  unfold bodySegRetire
  rw [first, one]
  dsimp only
  rw [zeroField_false (by decide), List.range'_one, List.foldl_cons, List.foldl_nil]
  exact checked_go (by decide +kernel)

theorem State.noted_markSegRetired_dev {g : Nat} : ((s.noted f).markSegRetired g).dev = s.dev := rfl

theorem filled_defects : ((filled.noted retireFrame).markSegRetired 5).dev.defects = crowded 65534 := by
  rw [State.noted_markSegRetired_dev, ← fullList_eq]
  rfl

/-- Segment 0 is retired with segment 5. -/
theorem filled_loses : ∃ l, (filled.noted retireFrame).retireSegment 5 3 =
    (((filled.noted retireFrame).markSegRetired 5).writeList l).markSegRetired 0 := by
  unfold State.retireSegment
  rw [if_neg (by decide)]
  exact State.addDefect_crowded (n := 65534) filled_defects (by decide) rfl rfl (by decide)

/-- Refutes O22: SEG.RETIRE of segment 5 while the field defect list is full retires segment 0 too, whose page records make way for one
of the segment (R419). -/
theorem not_pagesComeAndGo : ¬Obligations.PagesComeAndGo := by
  unfold Obligations.PagesComeAndGo
  rintro ⟨-, -, -, hretire⟩
  obtain ⟨u, hu⟩ : ∃ u, u = filled.noted retireFrame := ⟨_, rfl⟩
  have hacts : Acts 0x0802 retireFrame filled u 255 := hu ▸ filled_acts
  obtain ⟨v, hv, -, others⟩ := hretire retireFrame filled u 255 5 1 hacts (by decide) (by decide) (by decide) (by decide)
    (by rw [hu]; decide +kernel) (by rw [hu]; decide) (by rw [hu]; decide) (by
      intro g hg hg'
      obtain rfl : g = 5 := by omega
      rw [hu]
      decide)
  obtain ⟨l, hl⟩ := filled_loses
  obtain ⟨t, ht⟩ : ∃ t, t = ((u.markSegRetired 5).writeList l).markSegRetired 0 := ⟨_, rfl⟩
  have retired : Handles (.segRetire retireFrame) retireFrame filled (.reply {} t) :=
    hacts.handles (by decide) (by decide) (fun _ => rfl)
      ((hacts.middle (by decide) (by decide)).trans (by rw [ht, hu, ← hl]; exact filled_retires))
  have held : (u.session retireFrame.session.toNat).held = [] := by rw [hu]; decide
  unfold Handles at retired
  rw [State.answer_effect rfl rfl (by decide) (show (t.session _).held = [] by rw [ht]; exact held)] at retired
  have idle : t.Idle := State.idle_iff.mpr (by rw [ht]; exact (show u.trace = _ by rw [hu]; rfl))
  have none : t.journal.effects = [] := by rw [ht]; exact (show u.journal.effects = [] by rw [hu]; rfl)
  have codes := Handles.segCodes filled_taken.letIn (by decide) ⟨rfl, rfl⟩ hv retired
    ((State.Idle.awaits _).mpr idle) ⟨_, by rw [Journal.awaits, none]; rfl, (by decide : retireFrame.opcode.toNat = 0x0802)⟩
  have lost : v.segRetired 0 = true := by
    unfold State.segRetired
    rw [codes]
    change t.segRetired 0 = true
    rw [ht, hu]
    exact (fun _ => rfl : ∀ l, ((((filled.noted retireFrame).markSegRetired 5).writeList l).markSegRetired 0).segRetired 0 = true) l
  rw [others 0 (.inl (by decide)), hu] at lost
  exact absurd lost (by decide)

end Sys2Proof.Machine
end
